-- ==== Sys2Proof/Word.lean ====
section
/-!
DEFINITION. The word types of the Henzar and the sparse table type that holds registers, memories and
named things (spec/00 R2, R3; spec/01 R12).
-/

namespace Sys2Proof

/-- One byte. -/
abbrev Byte := BitVec 8
/-- A 32-bit register element (R13). -/
abbrev Word := BitVec 32
/-- A 64-bit value: an instruction word, an address, a register pair (R83, R122). -/
abbrev Word64 := BitVec 64
/-- One bit per lane; lane l at bit l (R25, R29). -/
abbrev LaneMask := BitVec 128

/-- A table of values by key, kept sorted by key with no key twice. Where it stands for an array that
reads as a fixed value where nothing is listed, no entry holds that value. -/
abbrev Table (α : Type) := List (Nat × α)

end Sys2Proof
end

