-- ==== Sys2Proof/Machine/Maps.lean ====
section
/-!
DEFINITION. The operations on sorted tables, and the bit-field, sign-extension and byte-order helpers
every other file uses.
-/

namespace Sys2Proof

namespace Table

variable {α : Type}

/-- The value listed under key k. -/
def get? : Table α → Nat → Option α
  | [], _ => none
  | (j, a) :: t, k => if j = k then some a else get? t k

/-- Lists a under key k, in place of what was listed there. -/
def insert : Table α → Nat → α → Table α
  | [], k, a => [(k, a)]
  | (j, b) :: t, k, a =>
    if k < j then (k, a) :: (j, b) :: t
    else if k = j then (k, a) :: t
    else (j, b) :: insert t k a

/-- Lists nothing under key k. -/
def erase : Table α → Nat → Table α
  | [], _ => []
  | (j, b) :: t, k => if j = k then erase t k else (j, b) :: erase t k

/-- The array read: what is listed, else the fixed value z. -/
def read (t : Table α) (k : Nat) (z : α) : α := (t.get? k).getD z

/-- The array write: the value z is never listed. -/
def write [DecidableEq α] (t : Table α) (k : Nat) (a z : α) : Table α :=
  if a = z then t.erase k else t.insert k a

/-- Applies f to the entry under key k, if there is one. -/
def update : Table α → Nat → (α → α) → Table α
  | [], _, _ => []
  | (j, b) :: t, k, f => if j = k then (j, f b) :: t else (j, b) :: update t k f

/-- Applies f to every entry. -/
def mapVals (t : Table α) (f : Nat → α → α) : Table α := t.map fun p => (p.1, f p.1 p.2)

/-- Keys strictly rising. -/
def sorted : Table α → Bool
  | [] => true
  | [_] => true
  | (j, _) :: (k, b) :: t => decide (j < k) && sorted ((k, b) :: t)

/-- The canonical form of an array that reads z where nothing is listed. -/
def canonical [DecidableEq α] (t : Table α) (z : α) : Bool :=
  sorted t && t.all fun p => decide (p.2 ≠ z)

/-- The entries' keys. -/
def keys (t : Table α) : List Nat := t.map Prod.fst

/-- The entries' values. -/
def vals (t : Table α) : List α := t.map Prod.snd

end Table

/-! ## Bits and bytes -/

/-- Bits hi to lo of x (R2). -/
def field (x hi lo : Nat) : Nat := x / 2 ^ lo % 2 ^ (hi + 1 - lo)

/-- R82 sext: the n-bit two's-complement reading of x. -/
def sext (x n : Nat) : Int :=
  if x % 2 ^ n < 2 ^ (n - 1) then ((x % 2 ^ n : Nat) : Int) else ((x % 2 ^ n : Nat) : Int) - (2 : Int) ^ n

/-- R82 wrap: reduction of an exact integer modulo 2^n, as a code. -/
def wrap (x : Int) (n : Nat) : Nat := (x % (2 : Int) ^ n).toNat

/-- R3: the value of bytes, the first one lowest. -/
def leNat : List Byte → Nat
  | [] => 0
  | b :: t => b.toNat + 256 * leNat t

/-- R3: the n lowest bytes of x, the lowest first. -/
def leBytes : Nat → Nat → List Byte
  | 0, _ => []
  | n + 1, x => BitVec.ofNat 8 x :: leBytes n (x / 256)

/-- Whether bit i of x is 1. -/
def bitOf (x i : Nat) : Bool := x / 2 ^ i % 2 = 1

/-- The numbers from a to a + n - 1, ascending. -/
def upFrom : Nat → Nat → List Nat
  | _, 0 => []
  | a, n + 1 => a :: upFrom (a + 1) n

/-- The sum of 2^i over the i < n for which p holds. -/
def maskOf (n : Nat) (p : Nat → Bool) : Nat :=
  (upFrom 0 n).foldl (fun acc i => if p i then acc + 2 ^ i else acc) 0

/-- R197: serial comparison of n-bit clocks: c1 is at least c2. -/
def serialGe (n c1 c2 : Nat) : Bool := (c1 + 2 ^ n - c2 % 2 ^ n) % 2 ^ n < 2 ^ (n - 1)

/-- The serial maximum of two n-bit clocks. -/
def serialMax (n c1 c2 : Nat) : Nat := if serialGe n c1 c2 then c1 else c2

/-- R197: g1 exceeds g2 among 8-bit generations. -/
def genExceeds (g1 g2 : Nat) : Bool :=
  let d := (g1 + 256 - g2 % 256) % 256
  decide (1 ≤ d) && decide (d ≤ 127)

/-- The serial minimum of two 8-bit generations. -/
def genMin (g1 g2 : Nat) : Nat := if genExceeds g1 g2 then g2 else g1

end Sys2Proof
end

