-- ==== Sys2Proof/Syntax.lean ====
section
/-!
DEFINITION. The instructions and steps of the Henzar: one constructor of Instr per row of
spec/opcode_table.json. An instruction word keeps the fields of its format (spec/04 R88 to R94), an
operand field as its 11-bit operand code (spec/03 R62); its opcode is turned into the constructor and
its type arguments. A step of the part or of the outside carries what distinguishes one happening
from another.
-/

namespace Sys2Proof

/-- R124: rounding modes, in the order of their codes. -/
inductive Rounding | rn | rz | rd | ru deriving DecidableEq, Repr
/-- Widths of integer and bitwise forms. -/
inductive IWidth | w32 | w64 deriving DecidableEq, Repr
/-- Signed (iN) or unsigned (nN) reading (R128). -/
inductive Sign | signed | unsigned deriving DecidableEq, Repr
/-- Elements of the packed integer forms (R227). -/
inductive PackWidth | p16 | p8 deriving DecidableEq, Repr
/-- R116, variant t of the compares. -/
inductive CmpType | i32 | n32 | i64 | n64 | f32 | f64 deriving DecidableEq, Repr
/-- Widths of the scalar floating-point forms. -/
inductive FWidth | f32 | f64 deriving DecidableEq, Repr
/-- R116, variant p. -/
inductive FType | f32 | f64 | f16x2 | bf16x2 deriving DecidableEq, Repr
/-- R239, R242: the forms of fadd, fsub, fmul and ffma; the packed ones round to nearest only. -/
inductive ArithForm | f32 (m : Rounding) | f64 (m : Rounding) | f16x2 | bf16x2
  deriving DecidableEq, Repr
/-- R248: the two forms of the special functions. -/
inductive SfuType | f32 | f16x2 deriving DecidableEq, Repr
/-- R116, variant s. -/
inductive Space | g | t | c | k deriving DecidableEq, Repr
/-- Global or team space, where an instruction has no other. -/
inductive GTSpace | g | t deriving DecidableEq, Repr
/-- R116, load widths. -/
inductive LoadWidth | n8 | i8 | n16 | i16 | b32 | b64 | b128 deriving DecidableEq, Repr
/-- R116, store widths. -/
inductive StoreWidth | b8 | b16 | b32 | b64 | b128 deriving DecidableEq, Repr
/-- R117, k of atom. -/
inductive AtomOp
  | addI32 | addI64 | addX64 | addF32 | addF16x2 | addBf16x2 | minI32 | minN32 | maxI32 | maxN32
  | andB32 | andB64 | orB32 | orB64 | xorB32 | xorB64 | xchgB32 | xchgB64 | casB32 | casB64
  | incN32 | decN32
  deriving DecidableEq, Repr
/-- R117, j of red. -/
inductive RedOp
  | addI32 | addI64 | addX64 | addF32 | addF16x2 | addBf16x2 | minI32 | minN32 | maxI32 | maxN32
  | andB32 | orB32 | xorB32
  deriving DecidableEq, Repr

/-- R89. -/
structure FormV where
  tt : BitVec 8
  sc : Bool
  nw : Bool
  d : BitVec 11
  a : BitVec 11
  b : BitVec 11
  c : BitVec 11
  deriving DecidableEq, Repr

/-- R90. -/
structure FormI where
  tt : BitVec 8
  sc : Bool
  nw : Bool
  d : BitVec 11
  a : BitVec 11
  imm : BitVec 22
  deriving DecidableEq, Repr

/-- R91. -/
structure FormM where
  tt : BitVec 8
  sc : Bool
  nw : Bool
  d : BitVec 11
  a : BitVec 11
  off : BitVec 18
  scope : BitVec 2
  order : BitVec 2
  deriving DecidableEq, Repr

/-- R92; z is bits 45:43, which must be 0. -/
structure FormX where
  tt : BitVec 8
  z : BitVec 3
  s : BitVec 11
  tgt : BitVec 32
  deriving DecidableEq, Repr

/-- R93; z is bit 44, which must be 0. -/
structure FormT where
  tt : BitVec 8
  reuse : Bool
  z : Bool
  acc : BitVec 11
  ab : BitVec 11
  bs : BitVec 11
  gsel : BitVec 3
  spsel : BitVec 2
  shape : BitVec 6
  deriving DecidableEq, Repr

/-- R94; hzinit reads d and a together as its configuration field. -/
structure FormH where
  tt : BitVec 8
  sc : Bool
  nw : Bool
  d : BitVec 11
  a : BitVec 11
  fn : BitVec 8
  qn : BitVec 3
  qk : BitVec 3
  hx : BitVec 4
  hs : BitVec 4
  deriving DecidableEq, Repr

/-- R403, R405: a Put-class packet: data for a peer address of the bound context, an fputr element run,
or the news that a
peer refused an entry or a lane's store of ours (R463, R464). A credit names an endpoint, a source and a byte count. -/
inductive FabricPut
  | data (tenant binding src : Nat) (va : Nat) (bytes : List Byte) (credit : Option (Nat × Nat × Nat))
  | reduce (tenant binding src : Nat) (rop : Nat) (va : Nat) (bytes : List Byte)
      (credit : Option (Nat × Nat × Nat))
  | entryRefused (entry peer : Nat)
  | accessRefused (access lane peer : Nat)
  deriving DecidableEq, Repr

/-- R403: a Get-class request for bytes of the bound context, or the response to one of ours: for an
engine entry, or for a lane of a TIER 3 load. -/
inductive FabricGet
  | request (tenant binding src : Nat) (va n : Nat)
  | entryData (entry : Nat) (bytes : List Byte)
  | loadData (access lane : Nat) (bytes : List Byte)
  | entryRefused (entry peer : Nat)
  | loadRefused (access lane peer : Nat)
  deriving DecidableEq, Repr

/-- R403: an Atomic-class request on the bound context, or the response to a lane of ours. -/
inductive FabricAtomic
  | request (tenant binding src : Nat) (op : AtomOp) (va : Nat) (operand : BitVec 128)
  | response (access lane : Nat) (old : Word64)
  | refused (access lane peer : Nat)
  deriving DecidableEq, Repr

/-- R290, R291, R474: one rank's contribution to the k-th collective of a communicator. -/
structure FabricColl where
  tenant : Nat
  binding : Nat
  src : Nat
  comm : Nat
  k : Nat
  rank : Nat
  op : Nat
  ty : Nat
  rop : Nat
  count : Nat
  bytes : List Byte
  deriving DecidableEq, Repr

/-- R336, R405: the port at which a fabric launch packet arrives, and the tenant and binding it carries. -/
structure LaunchRoute where
  port : Nat
  tenant : Nat
  binding : Nat
  deriving DecidableEq, Repr

/-- R405, R408: the tenant, binding, source device and domain of a pod barrier packet. -/
structure BarrierRoute where
  tenant : Nat
  binding : Nat
  src : Nat
  domain : Nat
  deriving DecidableEq, Repr

/-- R463: an access to the tier or to host memory that fails: for want of a completion, or with an error. -/
structure OuterFailure where
  access : Nat
  error : Bool
  deriving DecidableEq, Repr

/-- R460, R489: a word of an on-die SRAM: of the L2 over an HBM byte (and whether it is dirty there), of a core's L1, of a
team's memory, of a tile (1024 * tile + word), of a vector register (its pair of lanes), a scalar register, a Horizon slot, or
the metadata word of an HBM granule in L2 or of a granule of a team's memory. -/
inductive SramWord
  | l2 (addr : Nat) (dirty : Bool)
  | l1 (core addr : Nat)
  | team (team off : Nat)
  | tile (team key : Nat)
  | vector (group reg pair : Nat)
  | scalar (group reg : Nat)
  | slot (team slot : Nat)
  | metadata (granule : Nat)
  | teamMetadata (team granule : Nat)
  deriving DecidableEq, Repr

/-- R459, R460: what ECC finds: in the HBM word that the patrol scrubber reads, in a word of an on-die SRAM that is read
(`ue`: it cannot be corrected), or at a write-back of metadata to the carve-out, which fails. -/
inductive ScrubFinding
  | clean
  | corrected
  | uncorrectable
  | sram (word : SramWord) (ue : Bool)
  | writeBackFailed (granule : Nat)
  deriving DecidableEq, Repr

/-- One constructor per row of spec/opcode_table.json; the rows without operands stand last, which keeps the type compilable. -/
inductive Instr
  /-- R344. A quadrant with no clause in progress chooses an eligible clause of a ready group by age, priority and slot, and begins it by processing its header. -/
  | clauseIssue (core quad : Nat)
  /-- R207. Has no effect apart from the latch shift. -/
  | nop (f : FormV)
  /-- R208. Branches the whole group on a guard that must be uniform, and faults if it is not. -/
  | jmp (f : FormX)
  /-- R208. Branches the whole group if the guard holds in any active lane. -/
  | jmpa (f : FormX)
  /-- R208. Branches the whole group if the guard holds in every active lane. -/
  | jmpl (f : FormX)
  /-- R209. Branches the whole group to a table base plus eight times a scalar word offset. -/
  | brx (f : FormX)
  /-- R210. Decrements a scalar counter and branches if the result is nonzero. -/
  | loopd (f : FormX)
  /-- R48. Pushes a mark entry holding the rejoin address, the active mask and FMT onto the reconvergence stack. -/
  | mark (f : FormX)
  /-- R48. Evaluates its condition in the active lanes and either branches, falls through, or pushes a pending path and continues with the not-taken lanes. -/
  | split (f : FormX)
  /-- R49. Ends the current path and pops the top stack entry, restoring its mask and FMT and continuing at its target, or faults on an empty stack. -/
  | join (f : FormV)
  /-- R212. Writes the next clause address into a scalar pair and branches the whole group. -/
  | call (f : FormX)
  /-- R212. Branches the whole group to the address held in a scalar pair. -/
  | ret (f : FormX)
  /-- R51. Retires the enabled lanes, clears them from the active mask and every stack entry, and acts as a join if the mask becomes empty. -/
  | exit (f : FormV)
  /-- R214. A blocking point that is always true, letting other groups issue and offering the team for eviction. -/
  | yield (f : FormV)
  /-- R215. Compares two operands per enabled lane and writes the outcome and its complement to two predicates. -/
  | cmp (t : CmpType) (f : FormV)
  /-- R215. Compares and ANDs the outcome and its complement into two predicates. -/
  | cmpa (t : CmpType) (f : FormV)
  /-- R215. Compares and ORs the outcome and its complement into two predicates. -/
  | cmpo (t : CmpType) (f : FormV)
  /-- R217. Writes a predicate from a truth-table function of three predicates. -/
  | plop (f : FormI)
  /-- R218. Moves a predicate to a predicate, a register bit to a predicate, or a predicate to a register. -/
  | pmov (f : FormV)
  /-- R219. Writes a scalar with the predicate bits of the active lanes of one lane word. -/
  | ballot (f : FormV)
  /-- R219. Writes a scalar with the number of active lanes whose predicate is set. -/
  | pcount (f : FormV)
  /-- R219. Writes a scalar with the lowest active lane whose predicate is set. -/
  | pfirst (f : FormV)
  /-- R220. Sets PLIVE, which governs how predicates are saved and restored. -/
  | plive (f : FormI)
  /-- R221. Integer addition, wrapping, in 32 or 64 bits. -/
  | add (w : IWidth) (f : FormV)
  /-- R222. 32-bit integer addition of a sign-extended immediate. -/
  | addImm (f : FormI)
  /-- R221. Integer subtraction, wrapping, in 32 or 64 bits. -/
  | sub (w : IWidth) (f : FormV)
  /-- R222. 32-bit integer subtraction of a sign-extended immediate. -/
  | subImm (f : FormI)
  /-- R223. Unsigned 32-bit addition with a carry-in predicate that receives the carry-out. -/
  | addc (f : FormV)
  /-- R223. Unsigned 32-bit subtraction with a borrow-in predicate that receives the borrow-out. -/
  | subb (f : FormV)
  /-- R221. Integer multiplication, wrapping, in 32 or 64 bits. -/
  | mul (w : IWidth) (f : FormV)
  /-- R222. 32-bit integer multiplication by a sign-extended immediate. -/
  | mulImm (f : FormI)
  /-- R221. High 32 bits of the exact 64-bit product, signed or unsigned. -/
  | mulhi (g : Sign) (f : FormV)
  /-- R224. Integer multiply-add, wrapping, in 32 or 64 bits. -/
  | mad (w : IWidth) (f : FormV)
  /-- R224. High 32 bits of the exact multiply-add, signed or unsigned. -/
  | madhi (g : Sign) (f : FormV)
  /-- R225. Integer division truncating towards zero, with fixed results for division by zero and overflow. -/
  | div (g : Sign) (f : FormV)
  /-- R225. Integer remainder taking the sign of the dividend. -/
  | rem (g : Sign) (f : FormV)
  /-- R221. Signed or unsigned integer minimum. -/
  | min (w : IWidth) (g : Sign) (f : FormV)
  /-- R221. Signed or unsigned integer maximum. -/
  | max (w : IWidth) (g : Sign) (f : FormV)
  /-- R222. Signed 32-bit minimum with an immediate. -/
  | minImm (f : FormI)
  /-- R222. Signed 32-bit maximum with an immediate. -/
  | maxImm (f : FormI)
  /-- R226. Integer absolute value, wrapping. -/
  | abs (w : IWidth) (f : FormV)
  /-- R226. Integer negation, wrapping. -/
  | neg (w : IWidth) (f : FormV)
  /-- R227. Element-wise addition of packed 16-bit or 8-bit integers. -/
  | addPacked (e : PackWidth) (f : FormV)
  /-- R227. Element-wise subtraction of packed 16-bit or 8-bit integers. -/
  | subPacked (e : PackWidth) (f : FormV)
  /-- R227. Element-wise minimum of packed 16-bit or 8-bit integers. -/
  | minPacked (e : PackWidth) (g : Sign) (f : FormV)
  /-- R227. Element-wise maximum of packed 16-bit or 8-bit integers. -/
  | maxPacked (e : PackWidth) (g : Sign) (f : FormV)
  /-- R221. Bitwise AND in 32 or 64 bits. -/
  | and (w : IWidth) (f : FormV)
  /-- R222. Bitwise AND with a sign-extended immediate. -/
  | andImm (f : FormI)
  /-- R221. Bitwise OR in 32 or 64 bits. -/
  | or (w : IWidth) (f : FormV)
  /-- R222. Bitwise OR with a sign-extended immediate. -/
  | orImm (f : FormI)
  /-- R221. Bitwise XOR in 32 or 64 bits. -/
  | xor (w : IWidth) (f : FormV)
  /-- R222. Bitwise XOR with a sign-extended immediate. -/
  | xorImm (f : FormI)
  /-- R221. Bitwise AND with the complement of the second operand. -/
  | andn (w : IWidth) (f : FormV)
  /-- R226. Bitwise complement. -/
  | not (w : IWidth) (f : FormV)
  /-- R228. Shift left by a register amount. -/
  | shl (w : IWidth) (f : FormV)
  /-- R228. Shift left by an immediate amount of 0 to 31. -/
  | shlImm (f : FormI)
  /-- R228. Logical shift right by a register amount. -/
  | shr (w : IWidth) (f : FormV)
  /-- R228. Logical shift right by an immediate amount. -/
  | shrImm (f : FormI)
  /-- R228. Arithmetic shift right by a register amount. -/
  | sar (w : IWidth) (f : FormV)
  /-- R228. Arithmetic shift right by an immediate amount. -/
  | sarImm (f : FormI)
  /-- R228. Rotate left by a register amount. -/
  | rotl (w : IWidth) (f : FormV)
  /-- R228. Rotate left by an immediate amount. -/
  | rotlImm (f : FormI)
  /-- R229. Extracts a bit field, sign- or zero-extended. -/
  | bfe (g : Sign) (f : FormV)
  /-- R229. Inserts a bit field into a value. -/
  | bfi (f : FormV)
  /-- R226. Counts the one bits. -/
  | popc (w : IWidth) (f : FormV)
  /-- R226. Counts the leading zero bits. -/
  | clz (w : IWidth) (f : FormV)
  /-- R226. Counts the trailing zero bits. -/
  | ctz (w : IWidth) (f : FormV)
  /-- R226. Reverses the bit order. -/
  | brev (w : IWidth) (f : FormV)
  /-- R226. Copies a 32-bit or 64-bit value unchanged. -/
  | mov (w : IWidth) (f : FormV)
  /-- R230. Writes a sign-extended 22-bit immediate. -/
  | movi (f : FormI)
  /-- R230. Writes an immediate into bits 31:10 while keeping the low ten bits of a source. -/
  | movh (f : FormI)
  /-- R231. Forms a 64-bit address from a base pair plus a scaled 32-bit index. -/
  | lea (f : FormV)
  /-- R231. Forms a 64-bit address from a base pair plus a sign-extended immediate. -/
  | leaImm (f : FormI)
  /-- R232. Reads a value from an indexed lane of the lane's segment. -/
  | shflIdx (f : FormV)
  /-- R232. Reads a value from a lane a given distance below within the segment. -/
  | shflUp (f : FormV)
  /-- R232. Reads a value from a lane a given distance above within the segment. -/
  | shflDown (f : FormV)
  /-- R232. Reads a value from the lane whose segment index is XORed with a mask. -/
  | shflXor (f : FormV)
  /-- R233. Moves a value into an index register or an index register into a vector register. -/
  | xmov (f : FormV)
  /-- R233. Adds a register operand to an index register, modulo 2^16. -/
  | xadd (f : FormV)
  /-- R233. Adds a sign-extended immediate to an index register, modulo 2^16. -/
  | xaddImm (f : FormI)
  /-- R234. Writes FMT from a scalar after the check of R138. -/
  | setfmt (f : FormV)
  /-- R234. Writes FMT from a zero-extended immediate after the check of R138. -/
  | setfmtImm (f : FormI)
  /-- R234. Reads FMT into a scalar or vector destination. -/
  | getfmt (f : FormV)
  /-- R239. Floating-point addition rounded once by the mode, scalar, f64 or packed. -/
  | fadd (t : ArithForm) (f : FormV)
  /-- R239. Floating-point subtraction rounded once by the mode. -/
  | fsub (t : ArithForm) (f : FormV)
  /-- R239. Floating-point multiplication rounded once by the mode. -/
  | fmul (t : ArithForm) (f : FormV)
  /-- R239. Fused multiply-add rounded once. -/
  | ffma (t : ArithForm) (f : FormV)
  /-- R241. FP32 addition of an immediate, to nearest even. -/
  | faddImm (f : FormI)
  /-- R241. FP32 subtraction of an immediate, to nearest even. -/
  | fsubImm (f : FormI)
  /-- R241. FP32 multiplication by an immediate, to nearest even. -/
  | fmulImm (f : FormI)
  /-- R240. Correctly rounded floating-point division. -/
  | fdiv (t : FWidth) (m : Rounding) (f : FormV)
  /-- R240. Correctly rounded floating-point square root. -/
  | fsqrt (t : FWidth) (m : Rounding) (f : FormV)
  /-- R243. Floating-point minimum propagating NaN. -/
  | fmin (t : FType) (f : FormV)
  /-- R243. Floating-point maximum propagating NaN. -/
  | fmax (t : FType) (f : FormV)
  /-- R243. Floating-point minimum preferring the non-NaN operand. -/
  | fminn (t : FType) (f : FormV)
  /-- R243. Floating-point maximum preferring the non-NaN operand. -/
  | fmaxn (t : FType) (f : FormV)
  /-- R244. Clears the sign bit of a non-NaN operand. -/
  | fabs (t : FType) (f : FormV)
  /-- R244. Inverts the sign bit of a non-NaN operand. -/
  | fneg (t : FType) (f : FormV)
  /-- R244. Gives the magnitude of one operand with the sign of another. -/
  | fcopysign (t : FType) (f : FormV)
  /-- R245. Writes a one-hot class code of a floating-point value. -/
  | fclass (t : FWidth) (f : FormV)
  /-- R246. Multiplies by a power of two and rounds to nearest even. -/
  | fscale (t : FWidth) (f : FormV)
  /-- R247. Rounds to an integral value in the same format by the mode. -/
  | frnd (t : FWidth) (m : Rounding) (f : FormV)
  /-- R248. Long-latency reciprocal on the special-function pipe. -/
  | frcp (t : SfuType) (f : FormV)
  /-- R248. Long-latency reciprocal square root. -/
  | frsq (t : SfuType) (f : FormV)
  /-- R248. Long-latency base-2 exponential. -/
  | fex2 (t : SfuType) (f : FormV)
  /-- R248. Long-latency base-2 logarithm. -/
  | flg2 (t : SfuType) (f : FormV)
  /-- R248. Long-latency sine in radians. -/
  | fsin (t : SfuType) (f : FormV)
  /-- R248. Long-latency cosine in radians. -/
  | fcos (t : SfuType) (f : FormV)
  /-- R248. Long-latency hyperbolic tangent. -/
  | ftanh (t : SfuType) (f : FormV)
  /-- R250. A special function's correctly rounded result is written, its pending bit cleared, its flags set and its counter decremented. -/
  | sfuCompletion (access : Nat)
  /-- R251. Converts between float and integer types under its conversion control. -/
  | cvt (f : FormV)
  /-- R252. Converts between floating point and X64 fixed point. -/
  | fxcvt (f : FormV)
  /-- R253. Converts consecutive FP32 registers into packed sub-word elements under FMT. -/
  | cvtpPack (f : FormV)
  /-- R253. Unpacks packed sub-word elements into consecutive FP32 registers. -/
  | cvtpUnpack (f : FormV)
  /-- R254. Packed dot product accumulated in the fixed sum order, short-latency or, with SCALE, one long-latency MX block. -/
  | dotp (f : FormV)
  /-- R255. A scaled dotp writes its result, sets its flags and decrements its counter. -/
  | dotpScaledCompletion (access : Nat)
  /-- R256. Quantises one MX block per lane word, writing codes and a scale scalar. -/
  | mxq (f : FormV)
  /-- R257. Dequantises element codes with the lane word's scale to FP32. -/
  | mxd (f : FormV)
  /-- R262. Issues a per-lane or scalar load, checking addresses and setting the destination's pending bits. -/
  | ld (sp : Space) (w : LoadWidth) (f : FormM)
  /-- R262. Issues a per-lane or scalar store with data read at issue. -/
  | st (sp : Space) (w : StoreWidth) (f : FormM)
  /-- R264. Prefetches the line of each enabled lane's address into L1 and L2 or L2 only, without faults. -/
  | pf (f : FormM)
  /-- R266. Issues one MX block load per lane word with an enabled lane. -/
  | ldmx (sp : GTSpace) (f : FormM)
  /-- R267. Issues one MX block store per lane word, requiring every existing lane of the word enabled. -/
  | stmx (sp : GTSpace) (f : FormM)
  /-- R270. Issues a per-lane read-modify-write returning the old value. -/
  | atom (sp : GTSpace) (op : AtomOp) (f : FormM)
  /-- R270. Issues a per-lane read-modify-write that returns nothing. -/
  | red (op : RedOp) (f : FormM)
  /-- R106. A load's data returns, is written to its destination, clears its pending bit and decrements the counter once every lane is written, waking a group parked at a remote load. -/
  | loadWriteback (access lanes : Nat) (l1 : Bool)
  /-- R262. A store's access is performed at its target, waking monitors whose word changed, and its counter is decremented when every lane has performed. -/
  | storePerform (access lanes : Nat)
  /-- R270. An atomic or reduction is performed at L1, home L2 or peer, writes the old value and decrements its counter when every lane has performed. -/
  | atomicPerform (access lanes : Nat)
  /-- R266. An MX block load writes its codes and scale scalars and decrements its counter. -/
  | ldmxCompletion (access lanes : Nat)
  /-- R272. Waits until the group's earlier accesses have performed or returned, acting as release, acquire or both at its scope. -/
  | fence (f : FormM)
  /-- R274. Arrives at the team barrier's current phase and waits for it to complete. -/
  | bar (f : FormV)
  /-- R274. Arrives at the cluster barrier and waits. -/
  | barc (f : FormV)
  /-- R275. Arrives at the grid barrier of a COGRID launch and waits. -/
  | barg (f : FormV)
  /-- R275. Arrives at the pod barrier of the context's domain and waits. -/
  | barp (f : FormV)
  /-- R276. Arrives at a barrier's current phase, returns the phase, and does not wait. -/
  | arrive (f : FormV)
  /-- R276. Waits for a named barrier phase to complete. -/
  | await (f : FormV)
  /-- R277. Reads a word and, if it holds the expected value, blocks until it changes or the timeout expires. -/
  | monwait (f : FormV)
  /-- R277. A monwait's timeout expires and it raises a monitor-timeout fault. -/
  | monitorTimeout (group : Nat)
  /-- R279. Sets an arrival set's mask and endpoint and clears its counts. -/
  | arvinit (f : FormV)
  /-- R279. Sets the bytes expected from one source of an arrival set. -/
  | arvexp (f : FormV)
  /-- R281. Waits until every source of the set has delivered its expected bytes, then advances the set. -/
  | arvwait (f : FormV)
  /-- R280. A delivery's bytes, once performed, are credited to an arrival set, or discarded and reported. -/
  | deliveryCredit (credit : Nat)
  /-- R283. Issues a copy entry from global memory to team memory. -/
  | cpgLd (f : FormV)
  /-- R283. Issues a copy entry from team memory to global memory. -/
  | cpgSt (f : FormV)
  /-- R285. Issues a copy entry between team allocations of one cluster, optionally delivering to an arrival set. -/
  | cpc (f : FormV)
  /-- R287. Issues a fabric copy to a peer, optionally crediting its arrival set. -/
  | fput (f : FormV)
  /-- R287. Issues a fabric copy from a peer. -/
  | fget (f : FormV)
  /-- R287. Issues a fabric copy that reduces into the peer's elements. -/
  | fputr (f : FormV)
  /-- R288. Closes the group's open copy batch and returns its number. -/
  | cpclose (f : FormV)
  /-- R289. Waits until every batch up to a scalar-named number has completed. -/
  | cpwait (f : FormV)
  /-- R289. Waits until every batch up to the last closed number minus an immediate has completed. -/
  | cpwaitImm (f : FormI)
  /-- R290. Reads a collective descriptor and issues a collective entry. -/
  | coll (f : FormV)
  /-- R349. The engine's deficit round-robin arbiter visits a tenant queue, adds credit and starts head entries. -/
  | engineEntryStart (core engine : Nat)
  /-- R288. A copy or collective entry has performed its writes and credits, completing its batch when it is the last. -/
  | copyEntryComplete (entry : Nat)
  /-- R468. An engine entry that has run for 4·SLICE is aborted and a WATCHDOG fault is held for its group. -/
  | watchdogAbort (entry : Nat)
  /-- R294. Writes the group's gang membership. -/
  | gangset (f : FormI)
  /-- R295. Writes an operand map for a B operand in team memory. -/
  | omap (f : FormV)
  /-- R296. Writes a tile handle from a descriptor in team memory. -/
  | thset (f : FormV)
  /-- R297. Holds its clause until no register of the group is pending. -/
  | opfence (f : FormV)
  /-- R302. A gang member issues a dense joint matrix multiply, is stamped and held until the rendezvous. -/
  | mma (f : FormT)
  /-- R300. A gang member issues a 2:4 sparse joint matrix multiply and is held until the rendezvous. -/
  | mmasp (f : FormT)
  /-- R303. The matrix engine finishes a joint operation, writing its tiles and completing its batch when last. -/
  | matrixOpComplete (op : Nat)
  /-- R305. Closes the group's open matrix batch and returns its number. -/
  | mmclose (f : FormV)
  /-- R305. Waits for matrix batches up to a scalar-named number. -/
  | mmwait (f : FormV)
  /-- R305. Waits for matrix batches up to the last closed number minus an immediate. -/
  | mmwaitImm (f : FormI)
  /-- R307. Long-latency load of an accumulator tile into vector registers. -/
  | accld (f : FormT)
  /-- R307. An accld writes its registers and decrements its counter. -/
  | accldCompletion (access : Nat)
  /-- R308. Issues an engine entry storing one tile to memory, converted to OUTF. -/
  | accst (sp : GTSpace) (f : FormM)
  /-- R308. An accst's writes have been performed and its counter is decremented. -/
  | accstCompletion (entry : Nat)
  /-- R309. Sets a range of tiles to zero. -/
  | acczero (f : FormT)
  /-- R309. Adds a range of source tiles into destination tiles. -/
  | accadd (f : FormT)
  /-- R311. Configures a Horizon slot, empties it and clears its statistics. -/
  | hzinit (f : FormH)
  /-- R313. Inserts each enabled lane's tuple into a Pareto front in lane order, applying the overflow policy. -/
  | hzins (f : FormH)
  /-- R315. Inserts every tuple of one slot into another in canonical order. -/
  | hzmerge (f : FormH)
  /-- R316. Long-latency read of a tuple by canonical index into registers. -/
  | hzread (f : FormH)
  /-- R316. An hzread writes its registers and decrements its counter. -/
  | hzreadCompletion (access : Nat)
  /-- R317. Snapshots a front and issues an engine entry that writes it to memory. -/
  | hzstore (sp : GTSpace) (f : FormH)
  /-- R317. An hzstore's writes have been performed and its counter is decremented. -/
  | hzstoreCompletion (entry : Nat)
  /-- R316. Returns the number of tuples held in a slot. -/
  | hzcount (f : FormH)
  /-- R316. Empties a slot and clears its statistics. -/
  | hzclear (f : FormH)
  /-- R316. Returns a selected statistics counter or the configuration of a slot. -/
  | hzstat (f : FormH)
  /-- R320. Raises software trap n precisely. -/
  | trap (f : FormI)
  /-- R320. Raises a breakpoint trap in a debuggable context. -/
  | brk (f : FormV)
  /-- R321. Reads a selected special register into a scalar. -/
  | sysrd (f : FormI)
  /-- R321. Writes FPSTAT from a scalar. -/
  | syswr (f : FormI)
  /-- R322. Reads the core's 64-bit arithmetic clock count. -/
  | clock (f : FormV)
  /-- R322. Emits a Contrail MARK packet when tracing a debuggable context. -/
  | tmark (f : FormI)
  /-- R323. Writes a pair to an outbound debug mailbox word as a system-scope release. -/
  | dmput (f : FormV)
  /-- R323. Reads an inbound debug mailbox word as a system-scope acquire. -/
  | dmget (f : FormV)
  /-- R325. A handler reads an item of a stopped target group. -/
  | tgtrd (f : FormV)
  /-- R325. A handler writes an item of a stopped target group. -/
  | tgtwr (f : FormV)
  /-- R326. A handler resumes stopped targets, optionally skipping the instruction, and may promote a demoted context. -/
  | tgtres (f : FormV)
  /-- R326. A handler kills a target group, team or context. -/
  | tgtkill (f : FormV)
  /-- R327. A handler gates issue for targets until each is stopped, ending the park of a trapped group. -/
  | tgthalt (f : FormV)
  /-- R327. A handler executes one step of a stopped group. -/
  | tgtstep (f : FormV)
  /-- R327. A handler demotes the target's context and completes at the serial point. -/
  | tgtcalm (f : FormV)
  /-- R328. Writes one of the context's four code breakpoints. -/
  | bpset (f : FormV)
  /-- R329. Writes one of the context's four watchpoints. -/
  | wpset (f : FormV)
  /-- R436. Once every earlier instruction of a faulting group has completed, its trap record and extension are written at system scope. -/
  | trapRecordWrite (group : Nat)
  /-- R440. The dispatcher creates a handler work-group from TVEC[CLASS] for a written trap record, or kills the group. -/
  | handlerCreate (ctx : Nat)
  /-- R360. In a DET launch, a held minimum-waited instruction performs once its group's key is the minimum. -/
  | minWaitedPerform (group : Nat)
  /-- R364. The team holding the DET token drains its buffered float reductions in key order and passes the token on. -/
  | reductionDrain (launch : Nat)
  /-- R166. A page walk ends, setting A and DIRTY, filling the TLB and resuming the parked access, or writing a fault-buffer entry or a fatal fault. -/
  | walkComplete (walk : Nat)
  /-- R345. The dispatcher chooses an eligible team for eviction and begins saving it. -/
  | teamEvict (team : Nat)
  /-- R41. Once the team's in-flight loads, stores and atomics are done, its save completes and it is evicted. -/
  | evictSaveComplete (team : Nat)
  /-- R42. The dispatcher resumes an evicted team whose wake condition is true on a compatible core. -/
  | teamResume (team : Nat)
  /-- R343. The compactor moves blocks of wholly blocked teams to make room and updates their maps. -/
  | compactorMove (core : Nat)
  /-- R337. The validator checks the next launch packet of a window or fabric queue and accepts or refuses it, advancing PROGRESS. -/
  | validatePacket (tenant : Nat) (fabric : Bool)
  /-- R334. When every team has retired and every write is performed, the completion record is written and optionally credited. -/
  | launchEnd (launch : Nat)
  /-- R346. A tenant's slice on a core ends, gating its issue, charging debt and passing issue to the next tenant. -/
  | sliceEnd (core : Nat)
  /-- R353. A lender revokes its margin cores, flushing and restarting borrowed restartable teams. -/
  | revocation (core : Nat)
  /-- R471. At the deadline, borrowed teams still on the core are killed and the core is scrubbed and returned. -/
  | revocationDeadline (core : Nat)
  /-- R371. After gating, completion and the canonical drain, demotion records are written and the context reaches its serial point. -/
  | demotionSerialPoint (ctx : Nat)
  /-- R376. One round-robin step of a demoted context executes one instruction of the next runnable group to completion. -/
  | calmStep (ctx : Nat)
  /-- R335. A host write to a tenant's TAIL, checked against PROGRESS and ignored with WINOVF if it overfills the window. -/
  | tailWrite (tenant : Nat) (value : Word)
  /-- R411. A write-one-to-clear of uncorrectable status bits, freeing FEP and HLOG. -/
  | uestatWrite (tenant : Nat) (value : Word)
  /-- R411. A write-one-to-clear of corrected status bits. -/
  | cestatWrite (tenant : Nat) (value : Word)
  /-- R396. A host write to an inbound debug mailbox word, ignored with an MBSIZE notice if not 8 bytes. -/
  | mailboxHostWrite (ctx offset size : Nat) (value : Word64)
  /-- R419. A write to OBSCTL turns Contrail and Sounding on or off, or is ignored with an OBSIGN notice. -/
  | obsctlWrite (ctx : Nat) (value : Word)
  /-- R419. A write to TRBASE or SBASE, ignored with an OBSIGN notice while the facility is on. -/
  | obsBaseWrite (ctx : Nat) (sounding : Bool) (value : Word64)
  /-- R430. A write to a Barometer monitor's control, which may enable it or clear its statistics. -/
  | bctlWrite (die mon : Nat) (value : Word)
  /-- R394. A host write to a register with no behaviour of its own, ignored if of the wrong size or alignment. -/
  | registerWrite (bar offset size : Nat) (value : Word64)
  /-- R394. A host access to HBM through CXL.mem at the home L2, setting the granule's UNKNOWN. -/
  | hostCxlMemAccess (addr : Nat) (write : Option (List Byte))
  /-- R159. A host CXL.cache snoop answered by the line's home L2; the host may then write bytes of its own memory there. -/
  | hostSnoop (addr : Nat) (write : Option (List Byte))
  /-- R403. A Put-class packet arrives and its bytes are written in the bound context, or it is dropped with FABDEL. -/
  | fabricPutReceive (pkt : FabricPut)
  /-- R403. A Get-class request or its response arrives and is served or completed. -/
  | fabricGetReceive (pkt : FabricGet)
  /-- R403. An Atomic-class request or response arrives and is performed or completed. -/
  | fabricAtomicReceive (pkt : FabricAtomic)
  /-- R336. A fabric launch packet arrives at a port and enters the tenant's fabric queue with SRCDEV written, or it is dropped with
  FABDEL; the port pauses the class while the queue is full. -/
  | fabricLaunchReceive (route : LaunchRoute) (srcdev : Nat) (packet : BitVec 512)
  /-- R408. A pod barrier arrival or release arrives, counting towards or completing the phase, or it is dropped with FABDEL. -/
  | fabricBarrierReceive (route : BarrierRoute) (phase : Nat) (release : Bool)
  /-- R474. A collective contribution arrives and is combined or held in staging. -/
  | fabricCollectiveReceive (pkt : FabricColl)
  /-- R474. A collective not completed 10 ms after its first staging faults on every member. -/
  | collectiveTimeout (tenant comm k : Nat)
  /-- R403. A flit whose CRC fails is sent again by link-level retry. -/
  | linkretry (port : Nat)
  /-- R476. A Jetstream link goes down and unacknowledged packets are resent on new routes. -/
  | linkDown (port : Nat)
  /-- R476. A destination still unreachable after 1 ms has its packets failed as lost. -/
  | linkRerouteTimeout (device : Nat)
  /-- R463. A tier access with no completion after 100 µs, or one that completes with an error, is poisoned, dropped or not
  performed, and reported. -/
  | tierAccessTimeout (failure : OuterFailure) (lane : Nat)
  /-- R402. A memory-tier port goes down and its capacity is removed. -/
  | tierPortDown (port : Nat)
  /-- R460. The scrubber reads an HBM word on its 24-hour round and writes back corrected data. -/
  | patrolScrub (addr : Nat) (err : ScrubFinding)
  /-- R477. A sensor above 105 °C gates issue on every core until all read 100 °C or less. -/
  | thermalGate (sensor : Nat)
  /-- R477. A sensor above 115 °C for 1 ms stops the module and kills every context. -/
  | thermalShutdown (sensor : Nat)
  /-- R424. A core's staged trace bytes drain into its segment, writing LOSS and SYNC once the buffer has emptied after drops. -/
  | contrailDrain (core : Nat)
  /-- R426. A quadrant's sampling interval count expires and the next instruction is tagged for a Sounding record. -/
  | soundingInterval (core quad : Nat)
  /-- R431. A monitor captures a value, updates its statistics and bins, and may raise an alarm record. -/
  | barometerCapture (die mon : Nat) (value : Word)
  /-- R429. Each millisecond the die and port skew registers are remeasured by a time-stamp exchange. -/
  | skewMeasure (reg : Nat) (offset : BitVec 28)
  /-- R476. A Jetstream link comes up or back after training, setting SKEWPORT V, raising FPORTS and letting unacknowledged packets resend on the restored route. -/
  | linkUp (port : Nat)
  /-- R403. A port receives a pause or a credit return for one packet class on a link, stopping or resuming that class's sending. -/
  | classPause (port cls : Nat) (paused : Bool)
  /-- R340. The dispatcher places the next fitting team of the first eligible launch on a chosen core and slots. -/
  | teamDispatch
  /-- R400. Creates a context with its tables, save area, spill base, trap vector and modes. -/
  | ctxcreate
  /-- R481. Kills every group and launch of a context, discards parked accesses, writes records and scrubs its resources. -/
  | ctxdestroy
  /-- R338. Writes a tenant table entry. -/
  | tenantset
  /-- R398. Sets a tenant's or the device's error ring and zeroes its indices. -/
  | errset
  /-- R351. Assigns a range of cores to a tenant as guaranteed, margin, shared or unassigned. -/
  | partition
  /-- R172. Invalidates the translations of a context's virtual range. -/
  | inval
  /-- R172. Once TLB entries are gone, walks retried and old accesses performed, the invalidation's reply is written. -/
  | invalComplete
  /-- R167. Repeats the walks waiting on a fault-buffer entry and clears its V. -/
  | replay
  /-- R406. Sets the module's pod device number. -/
  | devset
  /-- R407. Gives a context its pod binding or unbinds it. -/
  | podbind
  /-- R408. Places a context's grid barrier in a pod barrier domain. -/
  | bardomain
  /-- R409. Creates a communicator from a rank table in host memory. -/
  | commcreate
  /-- R369. Host command that begins demotion of a debuggable context. -/
  | demote
  /-- R382. Host command that takes n round-robin steps in a demoted context, then pauses. -/
  | step
  /-- R382. Host command that takes steps until PAUSE, a debug trap or no runnable group. -/
  | run
  /-- R382. Host command that stops stepping after the step in progress. -/
  | pause
  /-- R383. Host command that requests promotion of a demoted context. -/
  | promote
  /-- R401. Returns a snapshot of device, context and tenant counters and increments SEQ. -/
  | summary
  /-- R412. Returns a signed attestation report for a live context. -/
  | attest
  /-- R398. Returns the device identity certificate chain. -/
  | idcert
  /-- R413. Reads, verifies and installs a firmware image, resetting the module on success. -/
  | fwload
  /-- R394. A host read of MSTAT returns its fields and clears the sticky DROP bit. -/
  | mstatRead
  /-- R24. When measured power exceeds the limit, issue gaps are inserted in every core until the excess is gone. -/
  | powerThrottle
  /-- R413. At reset the firmware is verified, counters start and degraded units are withdrawn. -/
  | moduleReset
  /-- R477. When every die sensor reads 100 °C or less, the thermal gate on every core is lifted. -/
  | thermalGateEnd
  /-- R24. When measured power falls back within the limit, the power controller stops inserting issue gaps and the throttling episode ends. -/
  | throttleEpisodeEnd
  /-- R397. A host write of 1 to DOORBELL while BUSY is ignored and sets DROP, and one whose command names an unknown OP is answered with RESULT 3. -/
  | doorbellWrite
  deriving DecidableEq, Repr

end Sys2Proof
end

