-- ==== Sys2Proof/Machine/Encoding.lean ====
section
/-!
DEFINITION. Which words of an opcode the spec describes (spec/04 R88 to R102, and each entry's own
limits): for each instruction the rule of every field, and the illegal-encoding subcodes (spec/21 R434)
that a breach raises. The checks that need the clause or the code object are in Machine/Issue.lean.
-/

namespace Sys2Proof

/-! R434: the ENC subcodes. -/
namespace Enc
abbrev rsvOpcode : Nat := 0x1
abbrev rsvVariant : Nat := 0x2
abbrev classAdmit : Nat := 0x3
abbrev hdrRsv : Nat := 0x4
abbrev hdrClass : Nat := 0x5
abbrev notHeader : Nat := 0x6
abbrev hdrInClause : Nat := 0x7
abbrev field : Nat := 0x8
abbrev operand : Nat := 0x9
abbrev sc : Nat := 0xA
abbrev nw : Nat := 0xB
abbrev position : Nat := 0xC
abbrev tt : Nat := 0xD
abbrev order : Nat := 0xE
abbrev handlerOnly : Nat := 0xF
abbrev feature : Nat := 0x10
end Enc

/-- R62, R97: what an operand code names. -/
inductive Operand
  | v (n : Nat)
  | latch (k : Nat)
  | indexed (k : Nat)
  | zero
  | laneid
  | s (n : Nat)
  | reserved
  deriving DecidableEq, Repr

/-- R62, R97: the operand an 11-bit code names. -/
def operandOf (code : BitVec 11) : Operand :=
  let n := code.toNat
  if n < 1536 then .v n
  else if n < 1540 then .latch (n - 1536)
  else if n < 1548 then .indexed (n - 1540)
  else if n = 1548 then .zero
  else if n = 1549 then .laneid
  else if n < 1792 then .reserved
  else .s (n - 1792)

/-- Which values of SC an instruction accepts (R205, R237, R260). -/
inductive ScRule | zero | one | either deriving DecidableEq, Repr

/-- What an instruction reads a field as. -/
inductive FieldRule
  /-- R95: unused, must be 0. -/
  | unused
  /-- A source operand of any kind. -/
  | src
  /-- R253, R313, R232: a source that must be a direct vector register. -/
  | srcVector
  /-- R232: a direct vector register, a latch, zero or laneid. -/
  | srcShuffle
  /-- R234, R283, R285: a scalar register or zero. -/
  | srcScalarZero
  /-- R256, R260, R265: a scalar register. A group instruction takes zero only where its entry names it (log entry 76). -/
  | srcScalar
  /-- A destination: scalar with SC = 1, vector otherwise (R101). -/
  | dst
  /-- R253, R265, R316: a destination that must be a direct vector register. -/
  | dstVector
  /-- R219, R260: the scalar destination of an instruction that accepts only SC = 1. Another operand raises OPERAND, of ballot,
  pcount and pfirst too, where the spec does not say whether it is a breach of the SC rules (log entry 90). -/
  | dstScalar
  /-- R91, R261: the data of a store or reduction; `wide` for b128, which no latch or laneid can be. -/
  | data (wide : Bool)
  /-- R93: the number of a vector register. The spec names no fault for a code of 1536 or more in AB; it raises OPERAND here (log
  entry 90). -/
  | register
  /-- R96, R206: a fixed layout; `ok` says whether the value is one the entry gives. -/
  | fixed (ok : Bool)
  deriving DecidableEq, Repr

/-- R97, R101, R260: the ENC subcodes that an operand field breaks. -/
def fieldFaults (sc : Bool) (rule : FieldRule) (code : BitVec 11) : List Nat :=
  let o := operandOf code
  match rule with
  | .unused => if code = 0 then [] else [Enc.field]
  | .fixed ok => if ok then [] else [Enc.field]
  | .register => match o with | .v _ => [] | _ => [Enc.operand]
  | .src =>
    match o with
    | .reserved => [Enc.operand]
    | .s _ => []
    | .zero => []
    | _ => if sc then [Enc.sc] else []
  | .data wide =>
    match o with
    | .reserved => [Enc.operand]
    | .s _ => []
    | .zero => []
    | .latch _ => if wide then [Enc.operand] else if sc then [Enc.sc] else []
    | .laneid => if wide then [Enc.operand] else if sc then [Enc.sc] else []
    | _ => if sc then [Enc.sc] else []
  | .srcVector => match o with | .v _ => [] | _ => [Enc.operand]
  | .dstVector => match o with | .v _ => [] | _ => [Enc.operand]
  | .srcShuffle =>
    match o with
    | .v _ => []
    | .latch _ => []
    | .zero => []
    | .laneid => []
    | _ => [Enc.operand]
  | .srcScalarZero => match o with | .s _ => [] | .zero => [] | _ => [Enc.operand]
  | .srcScalar => match o with | .s _ => [] | _ => [Enc.operand]
  | .dstScalar => match o with | .s _ => [] | _ => [Enc.operand]
  | .dst =>
    match o with
    | .reserved => [Enc.operand]
    | .latch _ => [Enc.operand]
    | .zero => [Enc.operand]
    | .laneid => [Enc.operand]
    | .s _ => if sc then [] else [Enc.sc]
    | .v _ => if sc then [Enc.sc] else []
    | .indexed _ => if sc then [Enc.sc] else []

/-- R205, R237: a breach of the SC rule. -/
def scFaults (rule : ScRule) (sc : Bool) : List Nat :=
  match rule with
  | .zero => if sc then [Enc.sc] else []
  | .one => if sc then [] else [Enc.sc]
  | .either => []

/-- R50, R54, R260: TT must be 0xFF where SC = 1 and where the entry says so. -/
def ttFaults (must sc : Bool) (tt : BitVec 8) : List Nat :=
  if (must || sc) && decide (tt ≠ 0xFF) then [Enc.tt] else []

/-- R102: NW = 1 only where a single vector result is produced, and then D = 0. -/
def nwFaults (allowed sc nw : Bool) (d : BitVec 11) : List Nat :=
  if nw && (!allowed || sc || decide (d ≠ 0)) then [Enc.nw] else []

/-- The rules of a format V instruction. -/
structure ShapeV where
  sc : ScRule
  nw : Bool
  ff : Bool
  d : FieldRule
  a : FieldRule
  b : FieldRule
  c : FieldRule

/-- What a word of format V breaks. -/
def ShapeV.faults (r : ShapeV) (f : FormV) : List Nat :=
  scFaults r.sc f.sc ++ nwFaults r.nw f.sc f.nw f.d ++ ttFaults r.ff f.sc f.tt ++
  (if f.nw && r.nw then [] else fieldFaults f.sc r.d f.d) ++
  fieldFaults f.sc r.a f.a ++ fieldFaults f.sc r.b f.b ++ fieldFaults f.sc r.c f.c

/-- The rules of a format I instruction; `imm` says whether the immediate is one the entry gives. -/
structure ShapeI where
  sc : ScRule
  nw : Bool
  ff : Bool
  d : FieldRule
  a : FieldRule
  imm : Bool

/-- What a word of format I breaks. -/
def ShapeI.faults (r : ShapeI) (f : FormI) : List Nat :=
  scFaults r.sc f.sc ++ nwFaults r.nw f.sc f.nw f.d ++ ttFaults r.ff f.sc f.tt ++
  (if f.nw && r.nw then [] else fieldFaults f.sc r.d f.d) ++
  fieldFaults f.sc r.a f.a ++ (if r.imm then [] else [Enc.field])

/-- The rules of a format M instruction. -/
structure ShapeM where
  sc : ScRule
  ff : Bool
  d : FieldRule
  a : FieldRule
  off : Bool
  order : Bool

/-- What a word of format M breaks. -/
def ShapeM.faults (r : ShapeM) (f : FormM) : List Nat :=
  scFaults r.sc f.sc ++ (if f.nw then [Enc.nw] else []) ++ ttFaults r.ff f.sc f.tt ++
  fieldFaults f.sc r.d f.d ++ fieldFaults f.sc r.a f.a ++
  (if r.off then [] else [Enc.field]) ++ (if r.order then [] else [Enc.order])

/-- What a word of format X breaks (R92). -/
def formXFaults (f : FormX) (ff usesS usesTgt : Bool) : List Nat :=
  (if f.z = 0 then [] else [Enc.field]) ++ ttFaults ff false f.tt ++
  (if usesS then (if 1792 ≤ f.s.toNat then [] else [Enc.operand])
   else if f.s = 0 then [] else [Enc.field]) ++
  (if usesTgt || decide (f.tgt = 0) then [] else [Enc.field])

/-- What a word of format T breaks (R93). -/
def formTFaults (f : FormT) (ff reuse ab bs gsel spsel : Bool) (bsOk shapeOk : Bool) : List Nat :=
  (if f.z then [Enc.field] else []) ++ ttFaults ff false f.tt ++
  (if f.reuse && !reuse then [Enc.field] else []) ++
  (if ab then fieldFaults false .register f.ab else fieldFaults false .unused f.ab) ++
  (if bs then (if bsOk then [] else [Enc.field]) else fieldFaults false .unused f.bs) ++
  (if gsel || decide (f.gsel = 0) then [] else [Enc.field]) ++
  (if spsel || decide (f.spsel = 0) then [] else [Enc.field]) ++
  (if shapeOk then [] else [Enc.field])

/-- The rules of a format H instruction. -/
structure ShapeH where
  sc : ScRule
  nw : Bool
  d : FieldRule
  a : FieldRule
  fn : Bool
  q : Bool
  hx : Bool

/-- What a word of format H breaks (R94). -/
def ShapeH.faults (r : ShapeH) (f : FormH) : List Nat :=
  scFaults r.sc f.sc ++ nwFaults r.nw f.sc f.nw f.d ++ ttFaults false f.sc f.tt ++
  (if f.nw && r.nw then [] else fieldFaults f.sc r.d f.d) ++ fieldFaults f.sc r.a f.a ++
  (if r.fn then [] else [Enc.field]) ++
  (if r.q then (if f.qn = f.qk then [Enc.field] else [])
   else if f.qn = 0 ∧ f.qk = 0 then [] else [Enc.field]) ++
  (if r.hx || decide (f.hx = 0) then [] else [Enc.field])

/-! ## The shapes that recur -/

/-- Format V, per lane or scalar: D from A and B (R221). -/
def shape2 : ShapeV := ⟨.either, true, false, .dst, .src, .src, .unused⟩
/-- Format V, per lane or scalar: D from A (R226). -/
def shape1 : ShapeV := ⟨.either, true, false, .dst, .src, .unused, .unused⟩
/-- Format V, per lane or scalar: D from A, B and C (R224). -/
def shape3 : ShapeV := ⟨.either, true, false, .dst, .src, .src, .src⟩
/-- Format I, per lane or scalar: D from A and the immediate (R222). -/
def shapeImm : ShapeI := ⟨.either, true, false, .dst, .src, true⟩
/-- R248: a special function: D from A, long-latency. -/
def shapeSfu : ShapeV := ⟨.either, false, false, .dst, .src, .unused, .unused⟩
/-- R260, R293: a format V group instruction with these fields. -/
def shapeG (d a b c : FieldRule) : ShapeV := ⟨.one, false, true, d, a, b, c⟩
/-- R293: a format I group instruction. -/
def shapeGI (d a : FieldRule) (imm : Bool) : ShapeI := ⟨.one, false, true, d, a, imm⟩

/-- A number below n stands in the low bits of the field (R96). -/
def below (n : Nat) (x : BitVec 11) : FieldRule := .fixed (decide (x.toNat < n))

/-- R96, R215: field D of a compare. -/
def cmpField (t : CmpType) (d : BitVec 11) : Bool :=
  let cc := d.toNat / 256
  let isFloat := decide (t = .f32) || decide (t = .f64)
  decide (d.toNat / 64 % 4 = 0) && (decide (cc < 6) || isFloat) &&
  decide (d.toNat / 8 % 8 ≠ d.toNat % 8)

/-- R96, R251: the conversion control of cvt: types differ, bits 1:0 zero, no mode between integers. -/
def cvtField (c : BitVec 11) : Bool :=
  let dt := c.toNat / 256
  let st := c.toNat / 32 % 8
  decide (dt ≠ st) && decide (c.toNat % 4 = 0) &&
  !(decide (4 ≤ dt) && decide (4 ≤ st) && decide (c.toNat / 8 % 4 ≠ 0))

/-- R96, R252: the conversion control of fxcvt. -/
def fxcvtField (c : BitVec 11) : Bool :=
  decide (c.toNat < 32) && !(decide (c.toNat % 2 = 1) && decide (c.toNat / 4 % 2 = 1))

/-- R91, R263: the ORDER and SCOPE values a load accepts. -/
def loadOrder (sp : Space) (f : FormM) : Bool :=
  match sp with
  | .g => decide (f.order ≤ 1) || (decide (f.order = 2) && decide (f.scope = 2))
  | .k => decide (f.order = 0)
  | _ => decide (f.order ≤ 1)

/-- R91, R263: the ORDER values a store accepts. -/
def storeOrder (sp : Space) (f : FormM) : Bool :=
  match sp with
  | .k => decide (f.order = 0)
  | _ => decide (f.order = 0) || decide (f.order = 2)

/-- R265: OFF18 of ldmx and stmx, R308 of accst: bits 5:4 of the word are 0. -/
def scaleOff (f : FormM) : Bool := decide (f.off.toNat % 4 = 0)

/-- R311: bits of DIR at or above the number of keys are 0. -/
def hzinitDir (f : FormH) : Bool :=
  let cfg := f.d.toNat * 2048 + f.a.toNat
  decide (cfg / 1024 % 256 < 2 ^ (cfg / 2 ^ 19 + 1))

/-- The ENC subcodes a word of this instruction raises whatever clause it stands in; none for a word
the spec describes. A step of the part or of the outside is no word and breaks nothing. -/
def encFaults : Instr → List Nat
  | .nop f => ShapeV.faults ⟨.zero, false, false, .unused, .unused, .unused, .unused⟩ f
  | .jmp f => formXFaults f false false true
  | .jmpa f => formXFaults f false false true
  | .jmpl f => formXFaults f false false true
  | .brx f => formXFaults f true true true
  | .loopd f => formXFaults f true true true
  | .mark f => formXFaults f true false true
  | .split f => formXFaults f false false true
  | .join f => ShapeV.faults ⟨.zero, false, true, .unused, .unused, .unused, .unused⟩ f
  | .call f => formXFaults f true true true
  | .ret f => formXFaults f true true false
  | .exit f => ShapeV.faults ⟨.zero, false, false, .unused, .unused, .unused, .unused⟩ f
  | .yield f => ShapeV.faults ⟨.zero, false, true, .unused, .unused, .unused, .unused⟩ f
  | .cmp t f => ShapeV.faults ⟨.zero, false, false, .fixed (cmpField t f.d), .src, .src, .unused⟩ f
  | .cmpa t f => ShapeV.faults ⟨.zero, false, false, .fixed (cmpField t f.d), .src, .src, .unused⟩ f
  | .cmpo t f => ShapeV.faults ⟨.zero, false, false, .fixed (cmpField t f.d), .src, .src, .unused⟩ f
  | .plop f => ShapeI.faults ⟨.zero, false, false, .unused, .unused, decide (f.imm.toNat < 2 ^ 20)⟩ f
  | .pmov f =>
    if f.c = 0 then ShapeV.faults ⟨.zero, false, false, below 8 f.d, below 8 f.a, .unused, below 3 f.c⟩ f
    else if f.c = 1 then ShapeV.faults ⟨.zero, false, false, below 8 f.d, .src, .unused, below 3 f.c⟩ f
    else ShapeV.faults ⟨.zero, true, false, .dst, below 8 f.a, .unused, below 3 f.c⟩ f
  | .ballot f => ShapeV.faults ⟨.one, false, true, .dstScalar, below 8 f.a, below 4 f.b, .unused⟩ f
  | .pcount f => ShapeV.faults ⟨.one, false, true, .dstScalar, below 8 f.a, .unused, .unused⟩ f
  | .pfirst f => ShapeV.faults ⟨.one, false, true, .dstScalar, below 8 f.a, .unused, .unused⟩ f
  | .plive f => ShapeI.faults ⟨.zero, false, true, .unused, .unused, decide (f.imm.toNat < 256)⟩ f
  | .add _ f => shape2.faults f
  | .addImm f => shapeImm.faults f
  | .sub _ f => shape2.faults f
  | .subImm f => shapeImm.faults f
  | .addc f => ShapeV.faults ⟨.zero, true, false, .dst, .src, .src, below 8 f.c⟩ f
  | .subb f => ShapeV.faults ⟨.zero, true, false, .dst, .src, .src, below 8 f.c⟩ f
  | .mul _ f => shape2.faults f
  | .mulImm f => shapeImm.faults f
  | .mulhi _ f => shape2.faults f
  | .mad _ f => shape3.faults f
  | .madhi _ f => shape3.faults f
  | .div _ f => shape2.faults f
  | .rem _ f => shape2.faults f
  | .min _ _ f => shape2.faults f
  | .max _ _ f => shape2.faults f
  | .minImm f => shapeImm.faults f
  | .maxImm f => shapeImm.faults f
  | .abs _ f => shape1.faults f
  | .neg _ f => shape1.faults f
  | .addPacked _ f => shape2.faults f
  | .subPacked _ f => shape2.faults f
  | .minPacked _ _ f => shape2.faults f
  | .maxPacked _ _ f => shape2.faults f
  | .and _ f => shape2.faults f
  | .andImm f => shapeImm.faults f
  | .or _ f => shape2.faults f
  | .orImm f => shapeImm.faults f
  | .xor _ f => shape2.faults f
  | .xorImm f => shapeImm.faults f
  | .andn _ f => shape2.faults f
  | .not _ f => shape1.faults f
  | .shl _ f => shape2.faults f
  | .shlImm f => ShapeI.faults ⟨.either, true, false, .dst, .src, decide (f.imm.toNat < 32)⟩ f
  | .shr _ f => shape2.faults f
  | .shrImm f => ShapeI.faults ⟨.either, true, false, .dst, .src, decide (f.imm.toNat < 32)⟩ f
  | .sar _ f => shape2.faults f
  | .sarImm f => ShapeI.faults ⟨.either, true, false, .dst, .src, decide (f.imm.toNat < 32)⟩ f
  | .rotl _ f => shape2.faults f
  | .rotlImm f => ShapeI.faults ⟨.either, true, false, .dst, .src, decide (f.imm.toNat < 32)⟩ f
  | .bfe _ f => shape3.faults f
  | .bfi f => shape3.faults f
  | .popc _ f => shape1.faults f
  | .clz _ f => shape1.faults f
  | .ctz _ f => shape1.faults f
  | .brev _ f => shape1.faults f
  | .mov _ f => shape1.faults f
  | .movi f => ShapeI.faults ⟨.either, true, false, .dst, .unused, true⟩ f
  | .movh f => shapeImm.faults f
  | .lea f => ShapeV.faults ⟨.either, true, false, .dst, .src, .src, below 8 f.c⟩ f
  | .leaImm f => shapeImm.faults f
  | .shflIdx f => ShapeV.faults ⟨.zero, true, false, .dst, .srcShuffle, .src, below 8 f.c⟩ f
  | .shflUp f => ShapeV.faults ⟨.zero, true, false, .dst, .srcShuffle, .src, below 8 f.c⟩ f
  | .shflDown f => ShapeV.faults ⟨.zero, true, false, .dst, .srcShuffle, .src, below 8 f.c⟩ f
  | .shflXor f => ShapeV.faults ⟨.zero, true, false, .dst, .srcShuffle, .src, below 8 f.c⟩ f
  | .xmov f =>
    if f.c = 0 then ShapeV.faults ⟨.zero, false, false, below 8 f.d, .src, .unused, below 2 f.c⟩ f
    else ShapeV.faults ⟨.zero, true, false, .dst, below 8 f.a, .unused, below 2 f.c⟩ f
  | .xadd f => ShapeV.faults ⟨.zero, false, false, below 8 f.d, below 8 f.a, .src, .unused⟩ f
  | .xaddImm f => ShapeI.faults ⟨.zero, false, false, below 8 f.d, below 8 f.a, true⟩ f
  | .setfmt f => ShapeV.faults ⟨.zero, false, true, .unused, .srcScalarZero, .unused, .unused⟩ f
  | .setfmtImm f => ShapeI.faults ⟨.zero, false, true, .unused, .unused, true⟩ f
  | .getfmt f => ShapeV.faults ⟨.either, true, false, .dst, .unused, .unused, .unused⟩ f
  | .fadd _ f => shape2.faults f
  | .fsub _ f => shape2.faults f
  | .fmul _ f => shape2.faults f
  | .ffma _ f => shape3.faults f
  | .faddImm f => shapeImm.faults f
  | .fsubImm f => shapeImm.faults f
  | .fmulImm f => shapeImm.faults f
  | .fdiv _ _ f => shape2.faults f
  | .fsqrt _ _ f => shape1.faults f
  | .fmin _ f => shape2.faults f
  | .fmax _ f => shape2.faults f
  | .fminn _ f => shape2.faults f
  | .fmaxn _ f => shape2.faults f
  | .fabs _ f => shape1.faults f
  | .fneg _ f => shape1.faults f
  | .fcopysign _ f => shape2.faults f
  | .fclass _ f => shape1.faults f
  | .fscale _ f => shape2.faults f
  | .frnd _ _ f => shape1.faults f
  | .frcp _ f => shapeSfu.faults f
  | .frsq _ f => shapeSfu.faults f
  | .fex2 _ f => shapeSfu.faults f
  | .flg2 _ f => shapeSfu.faults f
  | .fsin _ f => shapeSfu.faults f
  | .fcos _ f => shapeSfu.faults f
  | .ftanh _ f => shapeSfu.faults f
  | .cvt f => ShapeV.faults ⟨.either, true, false, .dst, .src, .unused, .fixed (cvtField f.c)⟩ f
  | .fxcvt f => ShapeV.faults ⟨.either, true, false, .dst, .src, .unused, .fixed (fxcvtField f.c)⟩ f
  | .cvtpPack f => ShapeV.faults ⟨.zero, true, false, .dst, .srcVector, .unused, .unused⟩ f
  | .cvtpUnpack f => ShapeV.faults ⟨.zero, false, false, .dstVector, .src, .unused, .unused⟩ f
  | .dotp f => ShapeV.faults ⟨.zero, true, false, .dst, .src, .src, .src⟩ f
  | .mxq f => ShapeV.faults ⟨.zero, false, false, .dst, .src, .srcScalar, .unused⟩ f
  | .mxd f => ShapeV.faults ⟨.zero, true, false, .dst, .src, .srcScalar, .unused⟩ f
  | .ld sp _ f => ShapeM.faults ⟨.either, false, .dst, .src, true, loadOrder sp f⟩ f
  | .st sp w f => ShapeM.faults ⟨.either, false, .data (decide (w = .b128)), .src, true, storeOrder sp f⟩ f
  | .pf f => ShapeM.faults ⟨.either, false, .unused, .src, true,
      decide (f.order = 0) && (decide (f.scope = 0) || decide (f.scope = 2))⟩ f
  | .ldmx sp f => ShapeM.faults ⟨.zero, false, .dstVector, .srcScalar, scaleOff f,
      loadOrder (if sp = .g then .g else .t) f⟩ f
  | .stmx _ f => ShapeM.faults ⟨.zero, false, .dstVector, .srcScalar, scaleOff f, storeOrder .g f⟩ f
  | .atom _ _ f => ShapeM.faults ⟨.either, false, .dst, .src, true, true⟩ f
  | .red _ f => ShapeM.faults ⟨.either, false, .data false, .src, true, true⟩ f
  | .fence f => ShapeM.faults ⟨.one, true, .unused, .unused, decide (f.off = 0), decide (f.order ≠ 0)⟩ f
  | .bar f => (shapeG .unused .unused .unused .unused).faults f
  | .barc f => (shapeG .unused .unused .unused .unused).faults f
  | .barg f => (shapeG .unused .unused .unused .unused).faults f
  | .barp f => (shapeG .unused .unused .unused .unused).faults f
  | .arrive f => (shapeG .dstScalar (below 3 f.a) .unused .unused).faults f
  | .await f => (shapeG .unused .srcScalar (below 3 f.b) .unused).faults f
  | .monwait f => (shapeG .dstScalar .srcScalar .srcScalar .srcScalar).faults f
  | .arvinit f => (shapeG .unused .srcScalar .srcScalar .unused).faults f
  | .arvexp f => (shapeG .unused .srcScalar .srcScalar .srcScalar).faults f
  | .arvwait f => (shapeG .unused .srcScalar .unused .unused).faults f
  | .cpgLd f => (shapeG .srcScalar .srcScalar .srcScalar .srcScalarZero).faults f
  | .cpgSt f => (shapeG .srcScalar .srcScalar .srcScalar .srcScalarZero).faults f
  | .cpc f => (shapeG .srcScalar .srcScalar .srcScalar .srcScalarZero).faults f
  | .fput f => (shapeG .srcScalar .srcScalar .srcScalar .srcScalar).faults f
  | .fget f => (shapeG .srcScalar .srcScalar .srcScalar .srcScalar).faults f
  | .fputr f => (shapeG .srcScalar .srcScalar .srcScalar .srcScalar).faults f
  | .cpclose f => (shapeG .dstScalar .unused .unused .unused).faults f
  | .cpwait f => (shapeG .unused .srcScalar .unused .unused).faults f
  | .cpwaitImm f => (shapeGI .unused .unused (decide (f.imm.toNat < 2 ^ 21))).faults f
  | .coll f => (shapeG .unused .srcScalar .unused .unused).faults f
  | .gangset f => (shapeGI .unused .unused true).faults f
  | .omap f => (shapeG (below 4 f.d) .srcScalar .srcScalar .srcScalar).faults f
  | .thset f => (shapeG (below 4 f.d) .srcScalar .unused .unused).faults f
  | .opfence f => (shapeG .unused .unused .unused .unused).faults f
  | .mma f => formTFaults f true true true true true false (decide (f.bs.toNat < 8)) (decide (f.shape.toNat < 8))
  | .mmasp f => formTFaults f true true true true true true (decide (f.bs.toNat < 8)) (decide (f.shape.toNat < 8))
  | .mmclose f => (shapeG .dstScalar .unused .unused .unused).faults f
  | .mmwait f => (shapeG .unused .srcScalar .unused .unused).faults f
  | .mmwaitImm f => (shapeGI .unused .unused (decide (f.imm.toNat < 2 ^ 21))).faults f
  | .accld f => formTFaults f false false true false false false true (decide (f.shape = 0))
  | .accst _ f => ShapeM.faults ⟨.one, true, .fixed true, .srcScalar, scaleOff f, storeOrder .g f⟩ f
  | .acczero f => formTFaults f true false false false false false true true
  | .accadd f => formTFaults f true false false true false false true true
  | .hzinit f => ShapeH.faults ⟨.one, false, .fixed (hzinitDir f), .fixed true, decide (f.fn = 0), false, false⟩ f
  | .hzins f => ShapeH.faults ⟨.zero, false, .srcVector, .src, decide (f.fn = 0), true, false⟩ f
  | .hzmerge f => ShapeH.faults ⟨.one, false, .unused, .unused, decide (f.fn = 0), false, true⟩ f
  | .hzread f => ShapeH.faults ⟨.zero, false, .dstVector, .src, decide (f.fn = 0), false, false⟩ f
  | .hzstore _ f => ShapeH.faults ⟨.one, false, .unused, .srcScalar, decide (f.fn = 0), false, false⟩ f
  | .hzcount f => ShapeH.faults ⟨.either, true, .dst, .unused, decide (f.fn = 0), false, false⟩ f
  | .hzclear f => ShapeH.faults ⟨.one, false, .unused, .unused, decide (f.fn = 0), false, false⟩ f
  -- R293 lists hzstat among the group instructions, and R316 gives it SC 0 or 1: R316 is followed (log entry 90)
  | .hzstat f => ShapeH.faults ⟨.either, true, .dst, .unused, decide (f.fn.toNat < 6), false, false⟩ f
  | .trap f => (shapeGI .unused .unused (decide (f.imm.toNat < 256))).faults f
  | .brk f => (shapeG .unused .unused .unused .unused).faults f
  | .sysrd f => (shapeGI .dstScalar .unused (decide (f.imm.toNat < 16))).faults f
  | .syswr f => (shapeGI .unused .srcScalar (decide (f.imm.toNat = 15))).faults f
  | .clock f => (shapeG .dstScalar .unused .unused .unused).faults f
  | .tmark f => (shapeGI .unused .unused (decide (f.imm.toNat < 65536))).faults f
  | .dmput f => (shapeG .unused .srcScalar .srcScalar .unused).faults f
  | .dmget f => (shapeG .dstScalar .srcScalar .unused .unused).faults f
  | .tgtrd f => (shapeG .dstScalar .srcScalar .srcScalar .unused).faults f
  | .tgtwr f => (shapeG .unused .srcScalar .srcScalar .srcScalar).faults f
  | .tgtres f => (shapeG .unused .srcScalar .srcScalar .unused).faults f
  | .tgtkill f => (shapeG .unused .srcScalar .unused .unused).faults f
  | .tgthalt f => (shapeG .unused .srcScalar .unused .unused).faults f
  | .tgtstep f => (shapeG .unused .srcScalar .unused .unused).faults f
  | .tgtcalm f => (shapeG .unused .srcScalar .unused .unused).faults f
  | .bpset f => (shapeG .unused .srcScalar .srcScalar .unused).faults f
  | .wpset f => (shapeG .unused .srcScalar .srcScalar .srcScalar).faults f
  | .clauseIssue _ _ => []
  | .sfuCompletion _ => []
  | .dotpScaledCompletion _ => []
  | .loadWriteback _ _ _ => []
  | .storePerform _ _ => []
  | .atomicPerform _ _ => []
  | .ldmxCompletion _ _ => []
  | .monitorTimeout _ => []
  | .deliveryCredit _ => []
  | .engineEntryStart _ _ => []
  | .copyEntryComplete _ => []
  | .watchdogAbort _ => []
  | .matrixOpComplete _ => []
  | .accldCompletion _ => []
  | .accstCompletion _ => []
  | .hzreadCompletion _ => []
  | .hzstoreCompletion _ => []
  | .trapRecordWrite _ => []
  | .handlerCreate _ => []
  | .minWaitedPerform _ => []
  | .reductionDrain _ => []
  | .walkComplete _ => []
  | .teamDispatch => []
  | .teamEvict _ => []
  | .evictSaveComplete _ => []
  | .teamResume _ => []
  | .compactorMove _ => []
  | .validatePacket _ _ => []
  | .launchEnd _ => []
  | .sliceEnd _ => []
  | .revocation _ => []
  | .revocationDeadline _ => []
  | .demotionSerialPoint _ => []
  | .calmStep _ => []
  | .ctxcreate => []
  | .ctxdestroy => []
  | .tenantset => []
  | .errset => []
  | .partition => []
  | .inval => []
  | .invalComplete => []
  | .replay => []
  | .devset => []
  | .podbind => []
  | .bardomain => []
  | .commcreate => []
  | .demote => []
  | .step => []
  | .run => []
  | .pause => []
  | .promote => []
  | .summary => []
  | .attest => []
  | .idcert => []
  | .fwload => []
  | .tailWrite _ _ => []
  | .mstatRead => []
  | .uestatWrite _ _ => []
  | .cestatWrite _ _ => []
  | .mailboxHostWrite _ _ _ _ => []
  | .obsctlWrite _ _ => []
  | .obsBaseWrite _ _ _ => []
  | .bctlWrite _ _ _ => []
  | .registerWrite _ _ _ _ => []
  | .hostCxlMemAccess _ _ => []
  | .hostSnoop _ _ => []
  | .fabricPutReceive _ => []
  | .fabricGetReceive _ => []
  | .fabricAtomicReceive _ => []
  | .fabricLaunchReceive _ _ _ => []
  | .fabricBarrierReceive _ _ _ => []
  | .fabricCollectiveReceive _ => []
  | .collectiveTimeout _ _ _ => []
  | .linkretry _ => []
  | .linkDown _ => []
  | .linkRerouteTimeout _ => []
  | .tierAccessTimeout _ _ => []
  | .tierPortDown _ => []
  | .patrolScrub _ _ => []
  | .powerThrottle => []
  | .thermalGate _ => []
  | .thermalShutdown _ => []
  | .moduleReset => []
  | .contrailDrain _ => []
  | .soundingInterval _ _ => []
  | .barometerCapture _ _ _ => []
  | .skewMeasure _ _ => []
  | .linkUp _ => []
  | .thermalGateEnd => []
  | .throttleEpisodeEnd => []
  | .doorbellWrite => []
  | .classPause _ _ _ => []

/-- The lowest of the subcodes, if any (R435: ENC subcodes in ascending order). -/
def lowest : List Nat → Option Nat
  | [] => none
  | n :: t => match lowest t with | none => some n | some m => some (Nat.min n m)

end Sys2Proof
end

