-- ==== Sys2Proof/WellFormed.lean ====
section
/-!
DEFINITION. Well-formed instructions: those that break no encoding rule of spec/04 and of their entry.
-/

namespace Sys2Proof

/-- R434: the word is one the spec describes. -/
def Instr.WellFormed (i : Instr) : Bool := (encFaults i).isEmpty

end Sys2Proof
end

