-- ==== Sys2Proof/Decode.lean ====
section
/-!
DEFINITION. Decoding: from the bytes of an instruction word to an instruction, or a named reason why the
word is none (spec/04 R83, R88 to R97, R116 to R119); and, after it, the encoder, written from the same
tables. A step of the part or of the outside has no word.
-/

namespace Sys2Proof

/-- Why bytes are no instruction word. -/
inductive Reject
  /-- Fewer than eight bytes are left. -/
  | truncated
  /-- R434: the word raises an illegal-encoding fault with this subcode (R435: the lowest, HDR_IN_CLAUSE
  before any other). -/
  | illegal (sub : Nat)
  deriving DecidableEq, Repr

/-! ## The fields of a word -/

/-- R88: OPC. -/
def opcOf (w : Word64) : Nat := (w.extractLsb' 54 10).toNat

/-- R89. -/
def formVOf (w : Word64) : FormV where
  tt := w.extractLsb' 46 8
  sc := w.getLsbD 45
  nw := w.getLsbD 44
  d := w.extractLsb' 33 11
  a := w.extractLsb' 22 11
  b := w.extractLsb' 11 11
  c := w.extractLsb' 0 11

/-- R90. -/
def formIOf (w : Word64) : FormI where
  tt := w.extractLsb' 46 8
  sc := w.getLsbD 45
  nw := w.getLsbD 44
  d := w.extractLsb' 33 11
  a := w.extractLsb' 22 11
  imm := w.extractLsb' 0 22

/-- R91. -/
def formMOf (w : Word64) : FormM where
  tt := w.extractLsb' 46 8
  sc := w.getLsbD 45
  nw := w.getLsbD 44
  d := w.extractLsb' 33 11
  a := w.extractLsb' 22 11
  off := w.extractLsb' 4 18
  scope := w.extractLsb' 2 2
  order := w.extractLsb' 0 2

/-- R92. -/
def formXOf (w : Word64) : FormX where
  tt := w.extractLsb' 46 8
  z := w.extractLsb' 43 3
  s := w.extractLsb' 32 11
  tgt := w.extractLsb' 0 32

/-- R93. -/
def formTOf (w : Word64) : FormT where
  tt := w.extractLsb' 46 8
  reuse := w.getLsbD 45
  z := w.getLsbD 44
  acc := w.extractLsb' 33 11
  ab := w.extractLsb' 22 11
  bs := w.extractLsb' 11 11
  gsel := w.extractLsb' 8 3
  spsel := w.extractLsb' 6 2
  shape := w.extractLsb' 0 6

/-- R94. -/
def formHOf (w : Word64) : FormH where
  tt := w.extractLsb' 46 8
  sc := w.getLsbD 45
  nw := w.getLsbD 44
  d := w.extractLsb' 33 11
  a := w.extractLsb' 22 11
  fn := w.extractLsb' 14 8
  qn := w.extractLsb' 11 3
  qk := w.extractLsb' 8 3
  hx := w.extractLsb' 4 4
  hs := w.extractLsb' 0 4

/-! ## The opcode map (R116 to R118) -/

/-- One row of the opcode map: an opcode, and what a word with it is read as. -/
abbrev OpRow := Nat × (Word64 → Instr)

/-- The opcodes of the control rows. -/
def opsControl : List OpRow := [
  (0x000, fun w => .nop (formVOf w)),
  (0x001, fun w => .jmp (formXOf w)),
  (0x002, fun w => .jmpa (formXOf w)),
  (0x003, fun w => .jmpl (formXOf w)),
  (0x004, fun w => .brx (formXOf w)),
  (0x005, fun w => .loopd (formXOf w)),
  (0x006, fun w => .mark (formXOf w)),
  (0x007, fun w => .split (formXOf w)),
  (0x008, fun w => .join (formVOf w)),
  (0x009, fun w => .call (formXOf w)),
  (0x00A, fun w => .ret (formXOf w)),
  (0x00B, fun w => .exit (formVOf w)),
  (0x00C, fun w => .yield (formVOf w)),
  (0x020, fun w => .cmp .i32 (formVOf w)),
  (0x021, fun w => .cmp .n32 (formVOf w)),
  (0x022, fun w => .cmp .i64 (formVOf w)),
  (0x023, fun w => .cmp .n64 (formVOf w)),
  (0x024, fun w => .cmp .f32 (formVOf w)),
  (0x025, fun w => .cmp .f64 (formVOf w)),
  (0x028, fun w => .cmpa .i32 (formVOf w)),
  (0x029, fun w => .cmpa .n32 (formVOf w)),
  (0x02A, fun w => .cmpa .i64 (formVOf w)),
  (0x02B, fun w => .cmpa .n64 (formVOf w)),
  (0x02C, fun w => .cmpa .f32 (formVOf w)),
  (0x02D, fun w => .cmpa .f64 (formVOf w)),
  (0x030, fun w => .cmpo .i32 (formVOf w)),
  (0x031, fun w => .cmpo .n32 (formVOf w)),
  (0x032, fun w => .cmpo .i64 (formVOf w)),
  (0x033, fun w => .cmpo .n64 (formVOf w)),
  (0x034, fun w => .cmpo .f32 (formVOf w)),
  (0x035, fun w => .cmpo .f64 (formVOf w)),
  (0x038, fun w => .plop (formIOf w)),
  (0x039, fun w => .pmov (formVOf w)),
  (0x03A, fun w => .ballot (formVOf w)),
  (0x03B, fun w => .pcount (formVOf w)),
  (0x03C, fun w => .pfirst (formVOf w)),
  (0x03D, fun w => .plive (formIOf w))]

/-- The opcodes of the integer rows. -/
def opsInteger : List OpRow := [
  (0x080, fun w => .add .w32 (formVOf w)),
  (0x081, fun w => .add .w64 (formVOf w)),
  (0x082, fun w => .addImm (formIOf w)),
  (0x083, fun w => .sub .w32 (formVOf w)),
  (0x084, fun w => .sub .w64 (formVOf w)),
  (0x085, fun w => .subImm (formIOf w)),
  (0x086, fun w => .addc (formVOf w)),
  (0x087, fun w => .subb (formVOf w)),
  (0x088, fun w => .mul .w32 (formVOf w)),
  (0x089, fun w => .mul .w64 (formVOf w)),
  (0x08A, fun w => .mulImm (formIOf w)),
  (0x08B, fun w => .mulhi .signed (formVOf w)),
  (0x08C, fun w => .mulhi .unsigned (formVOf w)),
  (0x08D, fun w => .mad .w32 (formVOf w)),
  (0x08E, fun w => .mad .w64 (formVOf w)),
  (0x08F, fun w => .madhi .signed (formVOf w)),
  (0x090, fun w => .madhi .unsigned (formVOf w)),
  (0x091, fun w => .div .signed (formVOf w)),
  (0x092, fun w => .div .unsigned (formVOf w)),
  (0x093, fun w => .rem .signed (formVOf w)),
  (0x094, fun w => .rem .unsigned (formVOf w)),
  (0x095, fun w => .min .w32 .signed (formVOf w)),
  (0x096, fun w => .min .w32 .unsigned (formVOf w)),
  (0x097, fun w => .min .w64 .signed (formVOf w)),
  (0x098, fun w => .min .w64 .unsigned (formVOf w)),
  (0x099, fun w => .max .w32 .signed (formVOf w)),
  (0x09A, fun w => .max .w32 .unsigned (formVOf w)),
  (0x09B, fun w => .max .w64 .signed (formVOf w)),
  (0x09C, fun w => .max .w64 .unsigned (formVOf w)),
  (0x09D, fun w => .abs .w32 (formVOf w)),
  (0x09E, fun w => .abs .w64 (formVOf w)),
  (0x09F, fun w => .neg .w32 (formVOf w)),
  (0x0A0, fun w => .neg .w64 (formVOf w)),
  (0x0A1, fun w => .addPacked .p16 (formVOf w)),
  (0x0A2, fun w => .addPacked .p8 (formVOf w)),
  (0x0A3, fun w => .subPacked .p16 (formVOf w)),
  (0x0A4, fun w => .subPacked .p8 (formVOf w)),
  (0x0A5, fun w => .minPacked .p16 .signed (formVOf w)),
  (0x0A6, fun w => .minPacked .p16 .unsigned (formVOf w)),
  (0x0A7, fun w => .minPacked .p8 .signed (formVOf w)),
  (0x0A8, fun w => .minPacked .p8 .unsigned (formVOf w)),
  (0x0A9, fun w => .maxPacked .p16 .signed (formVOf w)),
  (0x0AA, fun w => .maxPacked .p16 .unsigned (formVOf w)),
  (0x0AB, fun w => .maxPacked .p8 .signed (formVOf w)),
  (0x0AC, fun w => .maxPacked .p8 .unsigned (formVOf w)),
  (0x0AD, fun w => .minImm (formIOf w)),
  (0x0AE, fun w => .maxImm (formIOf w))]

/-- The opcodes of the logic rows. -/
def opsLogic : List OpRow := [
  (0x0B0, fun w => .and .w32 (formVOf w)),
  (0x0B1, fun w => .and .w64 (formVOf w)),
  (0x0B2, fun w => .andImm (formIOf w)),
  (0x0B3, fun w => .or .w32 (formVOf w)),
  (0x0B4, fun w => .or .w64 (formVOf w)),
  (0x0B5, fun w => .orImm (formIOf w)),
  (0x0B6, fun w => .xor .w32 (formVOf w)),
  (0x0B7, fun w => .xor .w64 (formVOf w)),
  (0x0B8, fun w => .xorImm (formIOf w)),
  (0x0B9, fun w => .andn .w32 (formVOf w)),
  (0x0BA, fun w => .andn .w64 (formVOf w)),
  (0x0BB, fun w => .not .w32 (formVOf w)),
  (0x0BC, fun w => .not .w64 (formVOf w)),
  (0x0C0, fun w => .shl .w32 (formVOf w)),
  (0x0C1, fun w => .shl .w64 (formVOf w)),
  (0x0C2, fun w => .shlImm (formIOf w)),
  (0x0C3, fun w => .shr .w32 (formVOf w)),
  (0x0C4, fun w => .shr .w64 (formVOf w)),
  (0x0C5, fun w => .shrImm (formIOf w)),
  (0x0C6, fun w => .sar .w32 (formVOf w)),
  (0x0C7, fun w => .sar .w64 (formVOf w)),
  (0x0C8, fun w => .sarImm (formIOf w)),
  (0x0C9, fun w => .rotl .w32 (formVOf w)),
  (0x0CA, fun w => .rotl .w64 (formVOf w)),
  (0x0CB, fun w => .rotlImm (formIOf w)),
  (0x0CC, fun w => .bfe .signed (formVOf w)),
  (0x0CD, fun w => .bfe .unsigned (formVOf w)),
  (0x0CE, fun w => .bfi (formVOf w)),
  (0x0CF, fun w => .popc .w32 (formVOf w)),
  (0x0D0, fun w => .popc .w64 (formVOf w)),
  (0x0D1, fun w => .clz .w32 (formVOf w)),
  (0x0D2, fun w => .clz .w64 (formVOf w)),
  (0x0D3, fun w => .ctz .w32 (formVOf w)),
  (0x0D4, fun w => .ctz .w64 (formVOf w)),
  (0x0D5, fun w => .brev .w32 (formVOf w)),
  (0x0D6, fun w => .brev .w64 (formVOf w)),
  (0x0D8, fun w => .mov .w32 (formVOf w)),
  (0x0D9, fun w => .mov .w64 (formVOf w)),
  (0x0DA, fun w => .movi (formIOf w)),
  (0x0DB, fun w => .movh (formIOf w)),
  (0x0DC, fun w => .lea (formVOf w)),
  (0x0DD, fun w => .leaImm (formIOf w)),
  (0x0E0, fun w => .shflIdx (formVOf w)),
  (0x0E1, fun w => .shflUp (formVOf w)),
  (0x0E2, fun w => .shflDown (formVOf w)),
  (0x0E3, fun w => .shflXor (formVOf w)),
  (0x0E4, fun w => .xmov (formVOf w)),
  (0x0E5, fun w => .xadd (formVOf w)),
  (0x0E6, fun w => .xaddImm (formIOf w)),
  (0x0E7, fun w => .setfmt (formVOf w)),
  (0x0E8, fun w => .setfmtImm (formIOf w)),
  (0x0E9, fun w => .getfmt (formVOf w))]

/-- The opcodes of the floating rows. -/
def opsFloating : List OpRow := [
  (0x100, fun w => .fadd (.f32 .rn) (formVOf w)),
  (0x101, fun w => .fadd (.f32 .rz) (formVOf w)),
  (0x102, fun w => .fadd (.f32 .rd) (formVOf w)),
  (0x103, fun w => .fadd (.f32 .ru) (formVOf w)),
  (0x104, fun w => .fadd (.f64 .rn) (formVOf w)),
  (0x105, fun w => .fadd (.f64 .rz) (formVOf w)),
  (0x106, fun w => .fadd (.f64 .rd) (formVOf w)),
  (0x107, fun w => .fadd (.f64 .ru) (formVOf w)),
  (0x108, fun w => .fsub (.f32 .rn) (formVOf w)),
  (0x109, fun w => .fsub (.f32 .rz) (formVOf w)),
  (0x10A, fun w => .fsub (.f32 .rd) (formVOf w)),
  (0x10B, fun w => .fsub (.f32 .ru) (formVOf w)),
  (0x10C, fun w => .fsub (.f64 .rn) (formVOf w)),
  (0x10D, fun w => .fsub (.f64 .rz) (formVOf w)),
  (0x10E, fun w => .fsub (.f64 .rd) (formVOf w)),
  (0x10F, fun w => .fsub (.f64 .ru) (formVOf w)),
  (0x110, fun w => .fmul (.f32 .rn) (formVOf w)),
  (0x111, fun w => .fmul (.f32 .rz) (formVOf w)),
  (0x112, fun w => .fmul (.f32 .rd) (formVOf w)),
  (0x113, fun w => .fmul (.f32 .ru) (formVOf w)),
  (0x114, fun w => .fmul (.f64 .rn) (formVOf w)),
  (0x115, fun w => .fmul (.f64 .rz) (formVOf w)),
  (0x116, fun w => .fmul (.f64 .rd) (formVOf w)),
  (0x117, fun w => .fmul (.f64 .ru) (formVOf w)),
  (0x118, fun w => .ffma (.f32 .rn) (formVOf w)),
  (0x119, fun w => .ffma (.f32 .rz) (formVOf w)),
  (0x11A, fun w => .ffma (.f32 .rd) (formVOf w)),
  (0x11B, fun w => .ffma (.f32 .ru) (formVOf w)),
  (0x11C, fun w => .ffma (.f64 .rn) (formVOf w)),
  (0x11D, fun w => .ffma (.f64 .rz) (formVOf w)),
  (0x11E, fun w => .ffma (.f64 .rd) (formVOf w)),
  (0x11F, fun w => .ffma (.f64 .ru) (formVOf w)),
  (0x120, fun w => .fdiv .f32 .rn (formVOf w)),
  (0x121, fun w => .fdiv .f32 .rz (formVOf w)),
  (0x122, fun w => .fdiv .f32 .rd (formVOf w)),
  (0x123, fun w => .fdiv .f32 .ru (formVOf w)),
  (0x124, fun w => .fdiv .f64 .rn (formVOf w)),
  (0x125, fun w => .fdiv .f64 .rz (formVOf w)),
  (0x126, fun w => .fdiv .f64 .rd (formVOf w)),
  (0x127, fun w => .fdiv .f64 .ru (formVOf w)),
  (0x128, fun w => .fsqrt .f32 .rn (formVOf w)),
  (0x129, fun w => .fsqrt .f32 .rz (formVOf w)),
  (0x12A, fun w => .fsqrt .f32 .rd (formVOf w)),
  (0x12B, fun w => .fsqrt .f32 .ru (formVOf w)),
  (0x12C, fun w => .fsqrt .f64 .rn (formVOf w)),
  (0x12D, fun w => .fsqrt .f64 .rz (formVOf w)),
  (0x12E, fun w => .fsqrt .f64 .rd (formVOf w)),
  (0x12F, fun w => .fsqrt .f64 .ru (formVOf w)),
  (0x130, fun w => .fadd .f16x2 (formVOf w)),
  (0x131, fun w => .fadd .bf16x2 (formVOf w)),
  (0x132, fun w => .fsub .f16x2 (formVOf w)),
  (0x133, fun w => .fsub .bf16x2 (formVOf w)),
  (0x134, fun w => .fmul .f16x2 (formVOf w)),
  (0x135, fun w => .fmul .bf16x2 (formVOf w)),
  (0x136, fun w => .ffma .f16x2 (formVOf w)),
  (0x137, fun w => .ffma .bf16x2 (formVOf w)),
  (0x138, fun w => .faddImm (formIOf w)),
  (0x139, fun w => .fsubImm (formIOf w)),
  (0x13A, fun w => .fmulImm (formIOf w)),
  (0x140, fun w => .fmin .f32 (formVOf w)),
  (0x141, fun w => .fmin .f64 (formVOf w)),
  (0x142, fun w => .fmin .f16x2 (formVOf w)),
  (0x143, fun w => .fmin .bf16x2 (formVOf w)),
  (0x144, fun w => .fmax .f32 (formVOf w)),
  (0x145, fun w => .fmax .f64 (formVOf w)),
  (0x146, fun w => .fmax .f16x2 (formVOf w)),
  (0x147, fun w => .fmax .bf16x2 (formVOf w)),
  (0x148, fun w => .fminn .f32 (formVOf w)),
  (0x149, fun w => .fminn .f64 (formVOf w)),
  (0x14A, fun w => .fminn .f16x2 (formVOf w)),
  (0x14B, fun w => .fminn .bf16x2 (formVOf w)),
  (0x14C, fun w => .fmaxn .f32 (formVOf w)),
  (0x14D, fun w => .fmaxn .f64 (formVOf w)),
  (0x14E, fun w => .fmaxn .f16x2 (formVOf w)),
  (0x14F, fun w => .fmaxn .bf16x2 (formVOf w)),
  (0x150, fun w => .fabs .f32 (formVOf w)),
  (0x151, fun w => .fabs .f64 (formVOf w)),
  (0x152, fun w => .fabs .f16x2 (formVOf w)),
  (0x153, fun w => .fabs .bf16x2 (formVOf w)),
  (0x154, fun w => .fneg .f32 (formVOf w)),
  (0x155, fun w => .fneg .f64 (formVOf w)),
  (0x156, fun w => .fneg .f16x2 (formVOf w)),
  (0x157, fun w => .fneg .bf16x2 (formVOf w)),
  (0x158, fun w => .fcopysign .f32 (formVOf w)),
  (0x159, fun w => .fcopysign .f64 (formVOf w)),
  (0x15A, fun w => .fcopysign .f16x2 (formVOf w)),
  (0x15B, fun w => .fcopysign .bf16x2 (formVOf w)),
  (0x15C, fun w => .fclass .f32 (formVOf w)),
  (0x15D, fun w => .fclass .f64 (formVOf w)),
  (0x15E, fun w => .fscale .f32 (formVOf w)),
  (0x15F, fun w => .fscale .f64 (formVOf w)),
  (0x160, fun w => .frnd .f32 .rn (formVOf w)),
  (0x161, fun w => .frnd .f32 .rz (formVOf w)),
  (0x162, fun w => .frnd .f32 .rd (formVOf w)),
  (0x163, fun w => .frnd .f32 .ru (formVOf w)),
  (0x164, fun w => .frnd .f64 .rn (formVOf w)),
  (0x165, fun w => .frnd .f64 .rz (formVOf w)),
  (0x166, fun w => .frnd .f64 .rd (formVOf w)),
  (0x167, fun w => .frnd .f64 .ru (formVOf w))]

/-- The opcodes of the convert rows. -/
def opsConvert : List OpRow := [
  (0x180, fun w => .cvt (formVOf w)),
  (0x181, fun w => .fxcvt (formVOf w)),
  (0x182, fun w => .cvtpPack (formVOf w)),
  (0x183, fun w => .cvtpUnpack (formVOf w)),
  (0x184, fun w => .dotp (formVOf w)),
  (0x185, fun w => .mxq (formVOf w)),
  (0x186, fun w => .mxd (formVOf w)),
  (0x1C0, fun w => .frcp .f32 (formVOf w)),
  (0x1C1, fun w => .frsq .f32 (formVOf w)),
  (0x1C2, fun w => .fex2 .f32 (formVOf w)),
  (0x1C3, fun w => .flg2 .f32 (formVOf w)),
  (0x1C4, fun w => .fsin .f32 (formVOf w)),
  (0x1C5, fun w => .fcos .f32 (formVOf w)),
  (0x1C6, fun w => .ftanh .f32 (formVOf w)),
  (0x1C8, fun w => .frcp .f16x2 (formVOf w)),
  (0x1C9, fun w => .frsq .f16x2 (formVOf w)),
  (0x1CA, fun w => .fex2 .f16x2 (formVOf w)),
  (0x1CB, fun w => .flg2 .f16x2 (formVOf w)),
  (0x1CC, fun w => .fsin .f16x2 (formVOf w)),
  (0x1CD, fun w => .fcos .f16x2 (formVOf w)),
  (0x1CE, fun w => .ftanh .f16x2 (formVOf w))]

/-- The opcodes of the memory rows. -/
def opsMemory : List OpRow := [
  (0x200, fun w => .ld .g .n8 (formMOf w)),
  (0x201, fun w => .ld .g .i8 (formMOf w)),
  (0x202, fun w => .ld .g .n16 (formMOf w)),
  (0x203, fun w => .ld .g .i16 (formMOf w)),
  (0x204, fun w => .ld .g .b32 (formMOf w)),
  (0x205, fun w => .ld .g .b64 (formMOf w)),
  (0x206, fun w => .ld .g .b128 (formMOf w)),
  (0x208, fun w => .ld .t .n8 (formMOf w)),
  (0x209, fun w => .ld .t .i8 (formMOf w)),
  (0x20A, fun w => .ld .t .n16 (formMOf w)),
  (0x20B, fun w => .ld .t .i16 (formMOf w)),
  (0x20C, fun w => .ld .t .b32 (formMOf w)),
  (0x20D, fun w => .ld .t .b64 (formMOf w)),
  (0x20E, fun w => .ld .t .b128 (formMOf w)),
  (0x210, fun w => .ld .c .n8 (formMOf w)),
  (0x211, fun w => .ld .c .i8 (formMOf w)),
  (0x212, fun w => .ld .c .n16 (formMOf w)),
  (0x213, fun w => .ld .c .i16 (formMOf w)),
  (0x214, fun w => .ld .c .b32 (formMOf w)),
  (0x215, fun w => .ld .c .b64 (formMOf w)),
  (0x216, fun w => .ld .c .b128 (formMOf w)),
  (0x218, fun w => .ld .k .n8 (formMOf w)),
  (0x219, fun w => .ld .k .i8 (formMOf w)),
  (0x21A, fun w => .ld .k .n16 (formMOf w)),
  (0x21B, fun w => .ld .k .i16 (formMOf w)),
  (0x21C, fun w => .ld .k .b32 (formMOf w)),
  (0x21D, fun w => .ld .k .b64 (formMOf w)),
  (0x21E, fun w => .ld .k .b128 (formMOf w)),
  (0x220, fun w => .st .g .b8 (formMOf w)),
  (0x222, fun w => .st .g .b16 (formMOf w)),
  (0x224, fun w => .st .g .b32 (formMOf w)),
  (0x225, fun w => .st .g .b64 (formMOf w)),
  (0x226, fun w => .st .g .b128 (formMOf w)),
  (0x228, fun w => .st .t .b8 (formMOf w)),
  (0x22A, fun w => .st .t .b16 (formMOf w)),
  (0x22C, fun w => .st .t .b32 (formMOf w)),
  (0x22D, fun w => .st .t .b64 (formMOf w)),
  (0x22E, fun w => .st .t .b128 (formMOf w)),
  (0x230, fun w => .st .c .b8 (formMOf w)),
  (0x232, fun w => .st .c .b16 (formMOf w)),
  (0x234, fun w => .st .c .b32 (formMOf w)),
  (0x235, fun w => .st .c .b64 (formMOf w)),
  (0x236, fun w => .st .c .b128 (formMOf w)),
  (0x238, fun w => .st .k .b8 (formMOf w)),
  (0x23A, fun w => .st .k .b16 (formMOf w)),
  (0x23C, fun w => .st .k .b32 (formMOf w)),
  (0x23D, fun w => .st .k .b64 (formMOf w)),
  (0x23E, fun w => .st .k .b128 (formMOf w)),
  (0x240, fun w => .ldmx .g (formMOf w)),
  (0x241, fun w => .ldmx .t (formMOf w)),
  (0x242, fun w => .stmx .g (formMOf w)),
  (0x243, fun w => .stmx .t (formMOf w)),
  (0x244, fun w => .pf (formMOf w))]

/-- The opcodes of the atomics rows. -/
def opsAtomics : List OpRow := [
  (0x280, fun w => .atom .g .addI32 (formMOf w)),
  (0x281, fun w => .atom .g .addI64 (formMOf w)),
  (0x282, fun w => .atom .g .addX64 (formMOf w)),
  (0x283, fun w => .atom .g .addF32 (formMOf w)),
  (0x284, fun w => .atom .g .addF16x2 (formMOf w)),
  (0x285, fun w => .atom .g .addBf16x2 (formMOf w)),
  (0x286, fun w => .atom .g .minI32 (formMOf w)),
  (0x287, fun w => .atom .g .minN32 (formMOf w)),
  (0x288, fun w => .atom .g .maxI32 (formMOf w)),
  (0x289, fun w => .atom .g .maxN32 (formMOf w)),
  (0x28A, fun w => .atom .g .andB32 (formMOf w)),
  (0x28B, fun w => .atom .g .andB64 (formMOf w)),
  (0x28C, fun w => .atom .g .orB32 (formMOf w)),
  (0x28D, fun w => .atom .g .orB64 (formMOf w)),
  (0x28E, fun w => .atom .g .xorB32 (formMOf w)),
  (0x28F, fun w => .atom .g .xorB64 (formMOf w)),
  (0x290, fun w => .atom .g .xchgB32 (formMOf w)),
  (0x291, fun w => .atom .g .xchgB64 (formMOf w)),
  (0x292, fun w => .atom .g .casB32 (formMOf w)),
  (0x293, fun w => .atom .g .casB64 (formMOf w)),
  (0x294, fun w => .atom .g .incN32 (formMOf w)),
  (0x295, fun w => .atom .g .decN32 (formMOf w)),
  (0x296, fun w => .atom .t .addI32 (formMOf w)),
  (0x297, fun w => .atom .t .addI64 (formMOf w)),
  (0x298, fun w => .atom .t .addX64 (formMOf w)),
  (0x299, fun w => .atom .t .addF32 (formMOf w)),
  (0x29A, fun w => .atom .t .addF16x2 (formMOf w)),
  (0x29B, fun w => .atom .t .addBf16x2 (formMOf w)),
  (0x29C, fun w => .atom .t .minI32 (formMOf w)),
  (0x29D, fun w => .atom .t .minN32 (formMOf w)),
  (0x29E, fun w => .atom .t .maxI32 (formMOf w)),
  (0x29F, fun w => .atom .t .maxN32 (formMOf w)),
  (0x2A0, fun w => .atom .t .andB32 (formMOf w)),
  (0x2A1, fun w => .atom .t .andB64 (formMOf w)),
  (0x2A2, fun w => .atom .t .orB32 (formMOf w)),
  (0x2A3, fun w => .atom .t .orB64 (formMOf w)),
  (0x2A4, fun w => .atom .t .xorB32 (formMOf w)),
  (0x2A5, fun w => .atom .t .xorB64 (formMOf w)),
  (0x2A6, fun w => .atom .t .xchgB32 (formMOf w)),
  (0x2A7, fun w => .atom .t .xchgB64 (formMOf w)),
  (0x2A8, fun w => .atom .t .casB32 (formMOf w)),
  (0x2A9, fun w => .atom .t .casB64 (formMOf w)),
  (0x2AA, fun w => .atom .t .incN32 (formMOf w)),
  (0x2AB, fun w => .atom .t .decN32 (formMOf w)),
  (0x2AC, fun w => .red .addI32 (formMOf w)),
  (0x2AD, fun w => .red .addI64 (formMOf w)),
  (0x2AE, fun w => .red .addX64 (formMOf w)),
  (0x2AF, fun w => .red .addF32 (formMOf w)),
  (0x2B0, fun w => .red .addF16x2 (formMOf w)),
  (0x2B1, fun w => .red .addBf16x2 (formMOf w)),
  (0x2B2, fun w => .red .minI32 (formMOf w)),
  (0x2B3, fun w => .red .minN32 (formMOf w)),
  (0x2B4, fun w => .red .maxI32 (formMOf w)),
  (0x2B5, fun w => .red .maxN32 (formMOf w)),
  (0x2B6, fun w => .red .andB32 (formMOf w)),
  (0x2B7, fun w => .red .orB32 (formMOf w)),
  (0x2B8, fun w => .red .xorB32 (formMOf w))]

/-- The opcodes of the synchronisation rows. -/
def opsSynchronisation : List OpRow := [
  (0x2C0, fun w => .fence (formMOf w)),
  (0x2C1, fun w => .bar (formVOf w)),
  (0x2C2, fun w => .barc (formVOf w)),
  (0x2C3, fun w => .barg (formVOf w)),
  (0x2C4, fun w => .barp (formVOf w)),
  (0x2C5, fun w => .arrive (formVOf w)),
  (0x2C6, fun w => .await (formVOf w)),
  (0x2C7, fun w => .monwait (formVOf w)),
  (0x2C8, fun w => .arvinit (formVOf w)),
  (0x2C9, fun w => .arvexp (formVOf w)),
  (0x2CA, fun w => .arvwait (formVOf w)),
  (0x2CB, fun w => .cpgLd (formVOf w)),
  (0x2CC, fun w => .cpgSt (formVOf w)),
  (0x2CD, fun w => .cpc (formVOf w)),
  (0x2CE, fun w => .fput (formVOf w)),
  (0x2CF, fun w => .fget (formVOf w)),
  (0x2D0, fun w => .fputr (formVOf w)),
  (0x2D1, fun w => .cpclose (formVOf w)),
  (0x2D2, fun w => .cpwait (formVOf w)),
  (0x2D3, fun w => .cpwaitImm (formIOf w)),
  (0x2D4, fun w => .coll (formVOf w))]

/-- The opcodes of the matrix rows. -/
def opsMatrix : List OpRow := [
  (0x300, fun w => .gangset (formIOf w)),
  (0x301, fun w => .omap (formVOf w)),
  (0x302, fun w => .thset (formVOf w)),
  (0x303, fun w => .opfence (formVOf w)),
  (0x304, fun w => .mma (formTOf w)),
  (0x305, fun w => .mmasp (formTOf w)),
  (0x306, fun w => .mmclose (formVOf w)),
  (0x307, fun w => .mmwait (formVOf w)),
  (0x308, fun w => .mmwaitImm (formIOf w)),
  (0x309, fun w => .accld (formTOf w)),
  (0x30A, fun w => .accst .g (formMOf w)),
  (0x30B, fun w => .accst .t (formMOf w)),
  (0x30C, fun w => .acczero (formTOf w)),
  (0x30D, fun w => .accadd (formTOf w))]

/-- The opcodes of the horizon rows. -/
def opsHorizon : List OpRow := [
  (0x340, fun w => .hzinit (formHOf w)),
  (0x341, fun w => .hzins (formHOf w)),
  (0x342, fun w => .hzmerge (formHOf w)),
  (0x343, fun w => .hzread (formHOf w)),
  (0x344, fun w => .hzstore .t (formHOf w)),
  (0x345, fun w => .hzstore .g (formHOf w)),
  (0x346, fun w => .hzcount (formHOf w)),
  (0x347, fun w => .hzclear (formHOf w)),
  (0x348, fun w => .hzstat (formHOf w))]

/-- The opcodes of the system rows. -/
def opsSystem : List OpRow := [
  (0x360, fun w => .trap (formIOf w)),
  (0x361, fun w => .brk (formVOf w)),
  (0x362, fun w => .sysrd (formIOf w)),
  (0x363, fun w => .syswr (formIOf w)),
  (0x364, fun w => .clock (formVOf w)),
  (0x365, fun w => .tmark (formIOf w)),
  (0x366, fun w => .dmput (formVOf w)),
  (0x367, fun w => .dmget (formVOf w)),
  (0x370, fun w => .tgtrd (formVOf w)),
  (0x371, fun w => .tgtwr (formVOf w)),
  (0x372, fun w => .tgtres (formVOf w)),
  (0x373, fun w => .tgtkill (formVOf w)),
  (0x374, fun w => .tgthalt (formVOf w)),
  (0x375, fun w => .tgtstep (formVOf w)),
  (0x376, fun w => .tgtcalm (formVOf w)),
  (0x377, fun w => .bpset (formVOf w)),
  (0x378, fun w => .wpset (formVOf w))]

/-- The opcode map. -/
def opMap : Nat → Option (Word64 → Instr) := fun o =>
  if o < 0x080 then Table.get? opsControl o
  else if o < 0x0B0 then Table.get? opsInteger o
  else if o < 0x100 then Table.get? opsLogic o
  else if o < 0x180 then Table.get? opsFloating o
  else if o < 0x200 then Table.get? opsConvert o
  else if o < 0x280 then Table.get? opsMemory o
  else if o < 0x2C0 then Table.get? opsAtomics o
  else if o < 0x300 then Table.get? opsSynchronisation o
  else if o < 0x340 then Table.get? opsMatrix o
  else if o < 0x360 then Table.get? opsHorizon o
  else Table.get? opsSystem o

/-- R116: the reserved variant codes: compare types 6 and 7, load width 7, store widths 1, 3 and 7. -/
def reservedVariant (o : Nat) : Bool :=
  (decide (0x020 ≤ o) && decide (o < 0x038) && decide (6 ≤ o % 8)) ||
  (decide (0x200 ≤ o) && decide (o < 0x220) && decide (o % 8 = 7)) ||
  (decide (0x220 ≤ o) && decide (o < 0x240) && (decide (o % 8 = 1) || decide (o % 8 = 3) || decide (o % 8 = 7)))

/-- The instruction a word's opcode names, whatever its fields hold. -/
def decodeRaw (w : Word64) : Option Instr := (opMap (opcOf w)).map fun mk => mk w

/-- What a word decodes to: an instruction that breaks no encoding rule, or the ENC subcode that R435
puts first. -/
def decodeWord (w : Word64) : Except Reject Instr :=
  if opcOf w = 0x3FF then .error (.illegal Enc.hdrInClause) else
  match decodeRaw w with
  | none => .error (.illegal (if reservedVariant (opcOf w) then Enc.rsvVariant else Enc.rsvOpcode))
  | some i =>
    match lowest (encFaults i) with
    | none => .ok i
    | some sub => .error (.illegal sub)

/-- R3, R83: eight bytes, the lowest first, and what follows them. -/
def decode (bytes : List Byte) : Except Reject (Instr × List Byte) :=
  if bytes.length < 8 then .error .truncated else
  match decodeWord (BitVec.ofNat 64 (leNat (bytes.take 8))) with
  | .error e => .error e
  | .ok i => .ok (i, bytes.drop 8)

/-- The instruction read from a word given as the opcode table numbers its bits. -/
def decodeTableWord (nbits w : Nat) : Option Instr :=
  match decode (leBytes 8 (w % 2 ^ nbits)) with
  | .ok (i, _) => some i
  | .error _ => none

/-! ## The encoder -/

/-- R89. -/
def packV (o : BitVec 10) (f : FormV) : Word64 :=
  o ++ f.tt ++ BitVec.ofBool f.sc ++ BitVec.ofBool f.nw ++ f.d ++ f.a ++ f.b ++ f.c

/-- R90. -/
def packI (o : BitVec 10) (f : FormI) : Word64 :=
  o ++ f.tt ++ BitVec.ofBool f.sc ++ BitVec.ofBool f.nw ++ f.d ++ f.a ++ f.imm

/-- R91. -/
def packM (o : BitVec 10) (f : FormM) : Word64 :=
  o ++ f.tt ++ BitVec.ofBool f.sc ++ BitVec.ofBool f.nw ++ f.d ++ f.a ++ f.off ++ f.scope ++ f.order

/-- R92. -/
def packX (o : BitVec 10) (f : FormX) : Word64 := o ++ f.tt ++ f.z ++ f.s ++ f.tgt

/-- R93. -/
def packT (o : BitVec 10) (f : FormT) : Word64 :=
  o ++ f.tt ++ BitVec.ofBool f.reuse ++ BitVec.ofBool f.z ++ f.acc ++ f.ab ++ f.bs ++ f.gsel ++
    f.spsel ++ f.shape

/-- R94. -/
def packH (o : BitVec 10) (f : FormH) : Word64 :=
  o ++ f.tt ++ BitVec.ofBool f.sc ++ BitVec.ofBool f.nw ++ f.d ++ f.a ++ f.fn ++ f.qn ++ f.qk ++
    f.hx ++ f.hs

/-- R116, variant m. -/
def Rounding.code : Rounding → BitVec 10
  | .rn => 0
  | .rz => 1
  | .rd => 2
  | .ru => 3

/-- R116, variant t. -/
def CmpType.code : CmpType → BitVec 10
  | .i32 => 0
  | .n32 => 1
  | .i64 => 2
  | .n64 => 3
  | .f32 => 4
  | .f64 => 5

/-- R116, variant p. -/
def FType.code : FType → BitVec 10
  | .f32 => 0
  | .f64 => 1
  | .f16x2 => 2
  | .bf16x2 => 3

/-- R116, variant s. -/
def Space.code : Space → BitVec 10
  | .g => 0
  | .t => 1
  | .c => 2
  | .k => 3

/-- R116, load widths. -/
def LoadWidth.code : LoadWidth → BitVec 10
  | .n8 => 0
  | .i8 => 1
  | .n16 => 2
  | .i16 => 3
  | .b32 => 4
  | .b64 => 5
  | .b128 => 6

/-- R116, store widths. -/
def StoreWidth.code : StoreWidth → BitVec 10
  | .b8 => 0
  | .b16 => 2
  | .b32 => 4
  | .b64 => 5
  | .b128 => 6

/-- R117, k. -/
def AtomOp.code : AtomOp → BitVec 10
  | .addI32 => 0
  | .addI64 => 1
  | .addX64 => 2
  | .addF32 => 3
  | .addF16x2 => 4
  | .addBf16x2 => 5
  | .minI32 => 6
  | .minN32 => 7
  | .maxI32 => 8
  | .maxN32 => 9
  | .andB32 => 10
  | .andB64 => 11
  | .orB32 => 12
  | .orB64 => 13
  | .xorB32 => 14
  | .xorB64 => 15
  | .xchgB32 => 16
  | .xchgB64 => 17
  | .casB32 => 18
  | .casB64 => 19
  | .incN32 => 20
  | .decN32 => 21

/-- R117, j. -/
def RedOp.code : RedOp → BitVec 10
  | .addI32 => 0
  | .addI64 => 1
  | .addX64 => 2
  | .addF32 => 3
  | .addF16x2 => 4
  | .addBf16x2 => 5
  | .minI32 => 6
  | .minN32 => 7
  | .maxI32 => 8
  | .maxN32 => 9
  | .andB32 => 10
  | .orB32 => 11
  | .xorB32 => 12

/-- Base opcodes of the four arithmetic instructions: f32, f64, f16x2, bf16x2 (R116). -/
def ArithForm.opcode (base f16 : BitVec 10) : ArithForm → BitVec 10
  | .f32 m => base + m.code
  | .f64 m => base + 4 + m.code
  | .f16x2 => f16
  | .bf16x2 => f16 + 1

/-- The one of two opcodes a width takes. -/
def IWidth.pick (w : IWidth) (a b : BitVec 10) : BitVec 10 :=
  match w with
  | .w32 => a
  | .w64 => b

/-- The one of two opcodes a signedness takes. -/
def Sign.pick (g : Sign) (a b : BitVec 10) : BitVec 10 :=
  match g with
  | .signed => a
  | .unsigned => b

/-- The one of two opcodes a packed width takes. -/
def PackWidth.pick (e : PackWidth) (a b : BitVec 10) : BitVec 10 :=
  match e with
  | .p16 => a
  | .p8 => b

/-- The one of two opcodes a floating-point width takes. -/
def FWidth.pick (t : FWidth) (a b : BitVec 10) : BitVec 10 :=
  match t with
  | .f32 => a
  | .f64 => b

/-- The one of two opcodes a special-function form takes. -/
def SfuType.pick (t : SfuType) (a b : BitVec 10) : BitVec 10 :=
  match t with
  | .f32 => a
  | .f16x2 => b

/-- The one of two opcodes a space takes. -/
def GTSpace.pick (sp : GTSpace) (a b : BitVec 10) : BitVec 10 :=
  match sp with
  | .g => a
  | .t => b

/-- The word of an instruction; a step of the part or of the outside has none. -/
def encode : Instr → Option Word64
  | .nop f => some (packV 0x000 f)
  | .jmp f => some (packX 0x001 f)
  | .jmpa f => some (packX 0x002 f)
  | .jmpl f => some (packX 0x003 f)
  | .brx f => some (packX 0x004 f)
  | .loopd f => some (packX 0x005 f)
  | .mark f => some (packX 0x006 f)
  | .split f => some (packX 0x007 f)
  | .join f => some (packV 0x008 f)
  | .call f => some (packX 0x009 f)
  | .ret f => some (packX 0x00A f)
  | .exit f => some (packV 0x00B f)
  | .yield f => some (packV 0x00C f)
  | .cmp t f => some (packV (0x020 + t.code) f)
  | .cmpa t f => some (packV (0x028 + t.code) f)
  | .cmpo t f => some (packV (0x030 + t.code) f)
  | .plop f => some (packI 0x038 f)
  | .pmov f => some (packV 0x039 f)
  | .ballot f => some (packV 0x03A f)
  | .pcount f => some (packV 0x03B f)
  | .pfirst f => some (packV 0x03C f)
  | .plive f => some (packI 0x03D f)
  | .add w f => some (packV (w.pick 0x080 0x081) f)
  | .addImm f => some (packI 0x082 f)
  | .sub w f => some (packV (w.pick 0x083 0x084) f)
  | .subImm f => some (packI 0x085 f)
  | .addc f => some (packV 0x086 f)
  | .subb f => some (packV 0x087 f)
  | .mul w f => some (packV (w.pick 0x088 0x089) f)
  | .mulImm f => some (packI 0x08A f)
  | .mulhi w f => some (packV (w.pick 0x08B 0x08C) f)
  | .mad w f => some (packV (w.pick 0x08D 0x08E) f)
  | .madhi w f => some (packV (w.pick 0x08F 0x090) f)
  | .div w f => some (packV (w.pick 0x091 0x092) f)
  | .rem w f => some (packV (w.pick 0x093 0x094) f)
  | .min w g f => some (packV (w.pick (g.pick 0x095 0x096) (g.pick 0x097 0x098)) f)
  | .max w g f => some (packV (w.pick (g.pick 0x099 0x09A) (g.pick 0x09B 0x09C)) f)
  | .abs w f => some (packV (w.pick 0x09D 0x09E) f)
  | .neg w f => some (packV (w.pick 0x09F 0x0A0) f)
  | .addPacked w f => some (packV (w.pick 0x0A1 0x0A2) f)
  | .subPacked w f => some (packV (w.pick 0x0A3 0x0A4) f)
  | .minPacked e g f => some (packV (e.pick (g.pick 0x0A5 0x0A6) (g.pick 0x0A7 0x0A8)) f)
  | .maxPacked e g f => some (packV (e.pick (g.pick 0x0A9 0x0AA) (g.pick 0x0AB 0x0AC)) f)
  | .minImm f => some (packI 0x0AD f)
  | .maxImm f => some (packI 0x0AE f)
  | .and w f => some (packV (w.pick 0x0B0 0x0B1) f)
  | .andImm f => some (packI 0x0B2 f)
  | .or w f => some (packV (w.pick 0x0B3 0x0B4) f)
  | .orImm f => some (packI 0x0B5 f)
  | .xor w f => some (packV (w.pick 0x0B6 0x0B7) f)
  | .xorImm f => some (packI 0x0B8 f)
  | .andn w f => some (packV (w.pick 0x0B9 0x0BA) f)
  | .not w f => some (packV (w.pick 0x0BB 0x0BC) f)
  | .shl w f => some (packV (w.pick 0x0C0 0x0C1) f)
  | .shlImm f => some (packI 0x0C2 f)
  | .shr w f => some (packV (w.pick 0x0C3 0x0C4) f)
  | .shrImm f => some (packI 0x0C5 f)
  | .sar w f => some (packV (w.pick 0x0C6 0x0C7) f)
  | .sarImm f => some (packI 0x0C8 f)
  | .rotl w f => some (packV (w.pick 0x0C9 0x0CA) f)
  | .rotlImm f => some (packI 0x0CB f)
  | .bfe w f => some (packV (w.pick 0x0CC 0x0CD) f)
  | .bfi f => some (packV 0x0CE f)
  | .popc w f => some (packV (w.pick 0x0CF 0x0D0) f)
  | .clz w f => some (packV (w.pick 0x0D1 0x0D2) f)
  | .ctz w f => some (packV (w.pick 0x0D3 0x0D4) f)
  | .brev w f => some (packV (w.pick 0x0D5 0x0D6) f)
  | .mov w f => some (packV (w.pick 0x0D8 0x0D9) f)
  | .movi f => some (packI 0x0DA f)
  | .movh f => some (packI 0x0DB f)
  | .lea f => some (packV 0x0DC f)
  | .leaImm f => some (packI 0x0DD f)
  | .shflIdx f => some (packV 0x0E0 f)
  | .shflUp f => some (packV 0x0E1 f)
  | .shflDown f => some (packV 0x0E2 f)
  | .shflXor f => some (packV 0x0E3 f)
  | .xmov f => some (packV 0x0E4 f)
  | .xadd f => some (packV 0x0E5 f)
  | .xaddImm f => some (packI 0x0E6 f)
  | .setfmt f => some (packV 0x0E7 f)
  | .setfmtImm f => some (packI 0x0E8 f)
  | .getfmt f => some (packV 0x0E9 f)
  | .fadd t f => some (packV (t.opcode 0x100 0x130) f)
  | .fsub t f => some (packV (t.opcode 0x108 0x132) f)
  | .fmul t f => some (packV (t.opcode 0x110 0x134) f)
  | .ffma t f => some (packV (t.opcode 0x118 0x136) f)
  | .fdiv t m f => some (packV (t.pick 0x120 0x124 + m.code) f)
  | .fsqrt t m f => some (packV (t.pick 0x128 0x12C + m.code) f)
  | .faddImm f => some (packI 0x138 f)
  | .fsubImm f => some (packI 0x139 f)
  | .fmulImm f => some (packI 0x13A f)
  | .fmin t f => some (packV (0x140 + t.code) f)
  | .fmax t f => some (packV (0x144 + t.code) f)
  | .fminn t f => some (packV (0x148 + t.code) f)
  | .fmaxn t f => some (packV (0x14C + t.code) f)
  | .fabs t f => some (packV (0x150 + t.code) f)
  | .fneg t f => some (packV (0x154 + t.code) f)
  | .fcopysign t f => some (packV (0x158 + t.code) f)
  | .fclass w f => some (packV (w.pick 0x15C 0x15D) f)
  | .fscale w f => some (packV (w.pick 0x15E 0x15F) f)
  | .frnd t m f => some (packV (t.pick 0x160 0x164 + m.code) f)
  | .cvt f => some (packV 0x180 f)
  | .fxcvt f => some (packV 0x181 f)
  | .cvtpPack f => some (packV 0x182 f)
  | .cvtpUnpack f => some (packV 0x183 f)
  | .dotp f => some (packV 0x184 f)
  | .mxq f => some (packV 0x185 f)
  | .mxd f => some (packV 0x186 f)
  | .frcp w f => some (packV (w.pick 0x1C0 0x1C8) f)
  | .frsq w f => some (packV (w.pick 0x1C1 0x1C9) f)
  | .fex2 w f => some (packV (w.pick 0x1C2 0x1CA) f)
  | .flg2 w f => some (packV (w.pick 0x1C3 0x1CB) f)
  | .fsin w f => some (packV (w.pick 0x1C4 0x1CC) f)
  | .fcos w f => some (packV (w.pick 0x1C5 0x1CD) f)
  | .ftanh w f => some (packV (w.pick 0x1C6 0x1CE) f)
  | .ld sp w f => some (packM (0x200 + 8 * sp.code + w.code) f)
  | .st sp w f => some (packM (0x220 + 8 * sp.code + w.code) f)
  | .ldmx w f => some (packM (w.pick 0x240 0x241) f)
  | .stmx w f => some (packM (w.pick 0x242 0x243) f)
  | .pf f => some (packM 0x244 f)
  | .atom sp op f => some (packM (sp.pick 0x280 0x296 + op.code) f)
  | .red op f => some (packM (0x2AC + op.code) f)
  | .fence f => some (packM 0x2C0 f)
  | .bar f => some (packV 0x2C1 f)
  | .barc f => some (packV 0x2C2 f)
  | .barg f => some (packV 0x2C3 f)
  | .barp f => some (packV 0x2C4 f)
  | .arrive f => some (packV 0x2C5 f)
  | .await f => some (packV 0x2C6 f)
  | .monwait f => some (packV 0x2C7 f)
  | .arvinit f => some (packV 0x2C8 f)
  | .arvexp f => some (packV 0x2C9 f)
  | .arvwait f => some (packV 0x2CA f)
  | .cpgLd f => some (packV 0x2CB f)
  | .cpgSt f => some (packV 0x2CC f)
  | .cpc f => some (packV 0x2CD f)
  | .fput f => some (packV 0x2CE f)
  | .fget f => some (packV 0x2CF f)
  | .fputr f => some (packV 0x2D0 f)
  | .cpclose f => some (packV 0x2D1 f)
  | .cpwait f => some (packV 0x2D2 f)
  | .cpwaitImm f => some (packI 0x2D3 f)
  | .coll f => some (packV 0x2D4 f)
  | .gangset f => some (packI 0x300 f)
  | .omap f => some (packV 0x301 f)
  | .thset f => some (packV 0x302 f)
  | .opfence f => some (packV 0x303 f)
  | .mma f => some (packT 0x304 f)
  | .mmasp f => some (packT 0x305 f)
  | .mmclose f => some (packV 0x306 f)
  | .mmwait f => some (packV 0x307 f)
  | .mmwaitImm f => some (packI 0x308 f)
  | .accld f => some (packT 0x309 f)
  | .accst w f => some (packM (w.pick 0x30A 0x30B) f)
  | .acczero f => some (packT 0x30C f)
  | .accadd f => some (packT 0x30D f)
  | .hzinit f => some (packH 0x340 f)
  | .hzins f => some (packH 0x341 f)
  | .hzmerge f => some (packH 0x342 f)
  | .hzread f => some (packH 0x343 f)
  | .hzstore w f => some (packH (w.pick 0x345 0x344) f)
  | .hzcount f => some (packH 0x346 f)
  | .hzclear f => some (packH 0x347 f)
  | .hzstat f => some (packH 0x348 f)
  | .trap f => some (packI 0x360 f)
  | .brk f => some (packV 0x361 f)
  | .sysrd f => some (packI 0x362 f)
  | .syswr f => some (packI 0x363 f)
  | .clock f => some (packV 0x364 f)
  | .tmark f => some (packI 0x365 f)
  | .dmput f => some (packV 0x366 f)
  | .dmget f => some (packV 0x367 f)
  | .tgtrd f => some (packV 0x370 f)
  | .tgtwr f => some (packV 0x371 f)
  | .tgtres f => some (packV 0x372 f)
  | .tgtkill f => some (packV 0x373 f)
  | .tgthalt f => some (packV 0x374 f)
  | .tgtstep f => some (packV 0x375 f)
  | .tgtcalm f => some (packV 0x376 f)
  | .bpset f => some (packV 0x377 f)
  | .wpset f => some (packV 0x378 f)
  | .clauseIssue _ _ => none
  | .sfuCompletion _ => none
  | .dotpScaledCompletion _ => none
  | .loadWriteback _ _ _ => none
  | .storePerform _ _ => none
  | .atomicPerform _ _ => none
  | .ldmxCompletion _ _ => none
  | .monitorTimeout _ => none
  | .deliveryCredit _ => none
  | .engineEntryStart _ _ => none
  | .copyEntryComplete _ => none
  | .watchdogAbort _ => none
  | .matrixOpComplete _ => none
  | .accldCompletion _ => none
  | .accstCompletion _ => none
  | .hzreadCompletion _ => none
  | .hzstoreCompletion _ => none
  | .trapRecordWrite _ => none
  | .handlerCreate _ => none
  | .minWaitedPerform _ => none
  | .reductionDrain _ => none
  | .walkComplete _ => none
  | .teamDispatch => none
  | .teamEvict _ => none
  | .evictSaveComplete _ => none
  | .teamResume _ => none
  | .compactorMove _ => none
  | .validatePacket _ _ => none
  | .launchEnd _ => none
  | .sliceEnd _ => none
  | .revocation _ => none
  | .revocationDeadline _ => none
  | .demotionSerialPoint _ => none
  | .calmStep _ => none
  | .ctxcreate => none
  | .ctxdestroy => none
  | .tenantset => none
  | .errset => none
  | .partition => none
  | .inval => none
  | .invalComplete => none
  | .replay => none
  | .devset => none
  | .podbind => none
  | .bardomain => none
  | .commcreate => none
  | .demote => none
  | .step => none
  | .run => none
  | .pause => none
  | .promote => none
  | .summary => none
  | .attest => none
  | .idcert => none
  | .fwload => none
  | .tailWrite _ _ => none
  | .mstatRead => none
  | .uestatWrite _ _ => none
  | .cestatWrite _ _ => none
  | .mailboxHostWrite _ _ _ _ => none
  | .obsctlWrite _ _ => none
  | .obsBaseWrite _ _ _ => none
  | .bctlWrite _ _ _ => none
  | .registerWrite _ _ _ _ => none
  | .hostCxlMemAccess _ _ => none
  | .hostSnoop _ _ => none
  | .fabricPutReceive _ => none
  | .fabricGetReceive _ => none
  | .fabricAtomicReceive _ => none
  | .fabricLaunchReceive _ _ _ => none
  | .fabricBarrierReceive _ _ _ => none
  | .fabricCollectiveReceive _ => none
  | .collectiveTimeout _ _ _ => none
  | .linkretry _ => none
  | .linkDown _ => none
  | .linkRerouteTimeout _ => none
  | .tierAccessTimeout _ _ => none
  | .tierPortDown _ => none
  | .patrolScrub _ _ => none
  | .powerThrottle => none
  | .thermalGate _ => none
  | .thermalShutdown _ => none
  | .moduleReset => none
  | .contrailDrain _ => none
  | .soundingInterval _ _ => none
  | .barometerCapture _ _ _ => none
  | .skewMeasure _ _ => none
  | .linkUp _ => none
  | .thermalGateEnd => none
  | .throttleEpisodeEnd => none
  | .doorbellWrite => none
  | .classPause _ _ _ => none

end Sys2Proof
end

