-- ==== Sys2Proof/Machine/Flags.lean ====
section
/-!
DEFINITION. The sticky flags of FPSTAT (spec/05 R149, R150), and rounding: from an exact value to a code
of a format, with the flags it raises (R121, R123 to R125, R133 to R135).
-/

namespace Sys2Proof.Machine

/-! ## FPSTAT (R149) -/

/-- The seven flags of FPSTAT, NV at bit 0 to SN at bit 6. -/
abbrev Flags := BitVec 7

/-- Invalid operation. -/
def flagNV : Flags := 0x01
/-- Division by zero. -/
def flagDZ : Flags := 0x02
/-- Overflow. -/
def flagOF : Flags := 0x04
/-- Underflow. -/
def flagUF : Flags := 0x08
/-- Inexact. -/
def flagNX : Flags := 0x10
/-- An integer dot-product addition clamped. -/
def flagSATF : Flags := 0x20
/-- An E8M0 scale of 0xFF was consumed. -/
def flagSN : Flags := 0x40

/-- The flag where the condition holds, else none. -/
def flagIf (c : Bool) (f : Flags) : Flags := if c then f else 0

/-- R150: flags are only ever added. -/
def orFlags (fpstat : Word) (f : Flags) : Word := fpstat ||| BitVec.zeroExtend 32 f

/-! ## Formats (R121, R125) -/

/-- What the all-ones exponent encodes: infinity and NaN; finite numbers but for one NaN; finite numbers. -/
inductive Specials | ieee | e4m3 | finite deriving DecidableEq, Repr

/-- A floating-point format: its field widths and bias. -/
structure FloatFmt where
  ebits : Nat
  mbits : Nat
  bias : Nat
  kind : Specials
  deriving DecidableEq, Repr

def f64Fmt : FloatFmt := ⟨11, 52, 1023, .ieee⟩
def f32Fmt : FloatFmt := ⟨8, 23, 127, .ieee⟩
def f16Fmt : FloatFmt := ⟨5, 10, 15, .ieee⟩
def bf16Fmt : FloatFmt := ⟨8, 7, 127, .ieee⟩
def e5m2Fmt : FloatFmt := ⟨5, 2, 15, .ieee⟩
def e4m3Fmt : FloatFmt := ⟨4, 3, 7, .e4m3⟩
def e3m2Fmt : FloatFmt := ⟨3, 2, 3, .finite⟩
def e2m3Fmt : FloatFmt := ⟨2, 3, 1, .finite⟩
def e2m1Fmt : FloatFmt := ⟨2, 1, 1, .finite⟩

namespace FloatFmt

/-- The format's width in bits. -/
def width (f : FloatFmt) : Nat := 1 + f.ebits + f.mbits

/-- The sign bit's weight. -/
def signWeight (f : FloatFmt) : Nat := 2 ^ (f.ebits + f.mbits)

/-- The code of the largest finite magnitude. -/
def largest (f : FloatFmt) : Nat :=
  match f.kind with
  | .ieee => (2 ^ f.ebits - 1) * 2 ^ f.mbits - 1
  | .e4m3 => f.signWeight - 2
  | .finite => f.signWeight - 1

/-- The code of +infinity, for a format that has one. -/
def infCode (f : FloatFmt) : Nat := (2 ^ f.ebits - 1) * 2 ^ f.mbits

/-- R121, R125: the canonical NaN; R134: +0 where the format has none. -/
def nanCode (f : FloatFmt) : Nat :=
  match f.kind with
  | .ieee => f.infCode + 2 ^ (f.mbits - 1)
  | .e4m3 => f.signWeight - 1
  | .finite => 0

/-- The exponent of the smallest normal number. -/
def emin (f : FloatFmt) : Int := 1 - (f.bias : Int)

/-- R125: emax, the exponent of the largest binade. -/
def emax (f : FloatFmt) : Int :=
  match f.kind with
  | .ieee => (f.bias : Int)
  | _ => ((2 ^ f.ebits - 1 : Nat) : Int) - (f.bias : Int)

end FloatFmt

/-! ## Exact values -/

/-- An exact value of a floating-point operand; a finite one is (-1)^neg · m · 2^e with m > 0. -/
inductive Num
  | nan (signalling : Bool)
  | inf (neg : Bool)
  | zero (neg : Bool)
  | fin (neg : Bool) (m : Nat) (e : Int)
  deriving DecidableEq, Repr

/-- R121, R125: the value of a code; bits above the format's width are ignored. -/
def decodeFloat (f : FloatFmt) (code : Nat) : Num :=
  let neg := bitOf code (f.ebits + f.mbits)
  let ex := code / 2 ^ f.mbits % 2 ^ f.ebits
  let fr := code % 2 ^ f.mbits
  let finite : Num :=
    if ex = 0 then (if fr = 0 then .zero neg else .fin neg fr (f.emin - (f.mbits : Int)))
    else .fin neg (2 ^ f.mbits + fr) ((ex : Int) - (f.bias : Int) - (f.mbits : Int))
  if ex = 2 ^ f.ebits - 1 then
    match f.kind with
    | .ieee => if fr = 0 then .inf neg else .nan (decide (fr < 2 ^ (f.mbits - 1)))
    | .e4m3 => if fr = 2 ^ f.mbits - 1 then .nan false else finite
    | .finite => finite
  else finite

/-- Whether a value is a NaN. -/
def Num.isNaN : Num → Bool
  | .nan _ => true
  | _ => false

/-- Whether a value is a signalling NaN. -/
def Num.isSignalling : Num → Bool
  | .nan b => b
  | _ => false

/-- The sign of a value. -/
def Num.sign : Num → Bool
  | .nan _ => false
  | .inf n => n
  | .zero n => n
  | .fin n _ _ => n

/-- The value with its sign inverted. -/
def Num.negate : Num → Num
  | .nan b => .nan b
  | .inf n => .inf !n
  | .zero n => .zero !n
  | .fin n m e => .fin (!n) m e

/-- The value times 2^k. -/
def Num.scale (k : Int) : Num → Num
  | .fin n m e => .fin n m (e + k)
  | x => x

/-- The value of an integer times 2^e. -/
def Num.ofInt (n : Int) (e : Int) : Num :=
  if n = 0 then .zero false else .fin (decide (n < 0)) n.natAbs e

/-! ## Rounding (R124) -/

/-- The number of bits of m. -/
def bitLength (m : Nat) : Nat := if m = 0 then 0 else Nat.log2 m + 1

/-- R124: whether a magnitude n + rem/unit, 0 < rem < unit, is rounded away from zero. -/
def roundsUp (mode : Rounding) (neg : Bool) (n rem unit : Nat) : Bool :=
  match mode with
  | .rn => decide (unit < 2 * rem) || (decide (2 * rem = unit) && decide (n % 2 = 1))
  | .rz => false
  | .rd => neg
  | .ru => !neg

/-- The magnitude m · 2^e in units of 2^q, rounded, and whether it was inexact. -/
def roundMag (mode : Rounding) (neg : Bool) (m : Nat) (e q : Int) : Nat × Bool :=
  if q ≤ e then (m * 2 ^ (e - q).toNat, false)
  else
    let sh := (q - e).toNat
    if bitLength m + 1 < sh then
      -- far below half a unit
      (if roundsUp mode neg 0 1 4 && decide (0 < m) then 1 else 0, decide (0 < m))
    else
      let n := m / 2 ^ sh
      let rem := m % 2 ^ sh
      if rem = 0 then (n, false)
      else (if roundsUp mode neg n rem (2 ^ sh) then n + 1 else n, true)

/-- A code with its sign. -/
def FloatFmt.signed (f : FloatFmt) (neg : Bool) (mag : Nat) : Nat :=
  if neg then f.signWeight + mag else mag

/-- R133: what an overflowing conversion delivers. -/
def overflowCode (f : FloatFmt) (mode : Rounding) (sat neg : Bool) : Nat :=
  let away := match mode with
    | .rn => true
    | .rz => false
    | .rd => neg
    | .ru => !neg
  if sat || !away then f.signed neg f.largest
  else match f.kind with
    | .ieee => f.signed neg f.infCode
    | .e4m3 => f.nanCode
    | .finite => f.signed neg f.largest

/-- R123, R133: rounds a finite nonzero value to a format. -/
def roundFinite (f : FloatFmt) (mode : Rounding) (sat neg : Bool) (m : Nat) (e : Int) : Nat × Flags :=
  let lead := e + (bitLength m : Int) - 1
  let low := f.emin - (f.mbits : Int)
  let q := max (lead - (f.mbits : Int)) low
  let r := roundMag mode neg m e q
  let code := (q - low).toNat * 2 ^ f.mbits + r.1
  if f.largest < code then (overflowCode f mode sat neg, flagOF ||| flagNX)
  else
    -- R123: tiny when rounding with an unbounded exponent stays below the smallest normal number
    let full := (roundMag mode neg m e (lead - (f.mbits : Int))).1
    let tiny := decide (lead < f.emin) && !(decide (lead = f.emin - 1) && decide (full = 2 ^ (f.mbits + 1)))
    (f.signed neg code, flagIf r.2 flagNX ||| flagIf (r.2 && tiny) flagUF)

/-- R123, R133, R134: an exact value to a floating-point format. -/
def encodeFloat (f : FloatFmt) (mode : Rounding) (sat : Bool) (x : Num) : Nat × Flags :=
  match x with
  | .nan sig => (f.nanCode, flagIf (sig || decide (f.kind = .finite)) flagNV)
  | .inf neg =>
    match f.kind with
    | .ieee => (f.signed neg (if sat then f.largest else f.infCode), 0)
    | .e4m3 => (if sat then f.signed neg f.largest else f.nanCode, flagNV)
    | .finite => (f.signed neg f.largest, flagNV)
  | .zero neg => (f.signed neg 0, 0)
  | .fin neg m e => roundFinite f mode sat neg m e

/-- R134, R135: an exact value to an integer between lo and hi, clamped. -/
def roundToInt (mode : Rounding) (lo hi : Int) (x : Num) : Int × Flags :=
  match x with
  | .nan _ => (0, flagNV)
  | .inf neg => (if neg then lo else hi, flagNV)
  | .zero _ => (0, 0)
  | .fin neg m e =>
    let r := roundMag mode neg m e 0
    let n : Int := if neg then -(r.1 : Int) else (r.1 : Int)
    if n < lo then (lo, flagNV) else if hi < n then (hi, flagNV) else (n, flagIf r.2 flagNX)

/-- R134, R135, R252: an exact value to the code of an X64 value. -/
def roundToX64 (mode : Rounding) (sat : Bool) (x : Num) : Nat × Flags :=
  let lo : Int := -(2 : Int) ^ 63
  let hi : Int := (2 : Int) ^ 63 - 1
  match x with
  | .fin neg m e =>
    let r := roundMag mode neg m (e + 32) 0
    let n : Int := if neg then -(r.1 : Int) else (r.1 : Int)
    if n < lo ∨ hi < n then (wrap (if sat then max lo (min hi n) else n) 64, flagNV)
    else (wrap n 64, flagIf r.2 flagNX)
  | y => let r := roundToInt mode lo hi y; (wrap r.1 64, r.2)

/-- R129, R133, R134: an exact value to an MXINT8 code. The spec gives MXINT8 no smallest normal number, so that no result is tiny
and none sets UF (log entry 90). -/
def roundToMxInt8 (mode : Rounding) (x : Num) : Nat × Flags :=
  match x with
  | .fin neg m e =>
    let r := roundMag mode neg m (e + 6) 0
    if 127 < r.1 then (wrap (if neg then -127 else 127) 8, flagOF ||| flagNX)
    else (wrap (if neg then -(r.1 : Int) else (r.1 : Int)) 8, flagIf r.2 flagNX)
  | .nan _ => (0, flagNV)
  | .inf neg => (wrap (if neg then -127 else 127) 8, flagNV)
  | .zero _ => (0, 0)

/-! ## The formats that FMT names (R136, R137) -/

/-- R137: the floating-point formats among the codes of FMT. -/
def fmtFloat (code : Nat) : Option FloatFmt :=
  match code with
  | 0 => some f32Fmt
  | 1 => some f16Fmt
  | 2 => some bf16Fmt
  | 3 => some e4m3Fmt
  | 4 => some e5m2Fmt
  | 5 => some e3m2Fmt
  | 6 => some e2m3Fmt
  | 7 => some e2m1Fmt
  | _ => none

/-- R137: the integer formats among the codes of FMT: bits, and whether signed. -/
def fmtInt (code : Nat) : Option (Nat × Bool) :=
  match code with
  | 8 => some (8, true)
  | 9 => some (8, false)
  | 10 => some (4, true)
  | 11 => some (4, false)
  | _ => none

/-- R128: the least and the greatest value of an integer type. -/
def intRange (bits : Nat) (signed : Bool) : Int × Int :=
  if signed then (-(2 : Int) ^ (bits - 1), (2 : Int) ^ (bits - 1) - 1) else (0, (2 : Int) ^ bits - 1)

/-- R128: the value of an integer code. -/
def intValue (bits : Nat) (signed : Bool) (code : Nat) : Int :=
  if signed then sext code bits else ((code % 2 ^ bits : Nat) : Int)

/-- R125, R128, R129, R132: the exact value of an element code under a code of FMT; `mx` reads i8 as
MXINT8. -/
def elementValue (fmt : Nat) (mx : Bool) (code : Nat) : Num :=
  if fmt = 8 ∧ mx then Num.ofInt (sext code 8) (-6)
  else match fmtFloat fmt with
    | some f => decodeFloat f code
    | none =>
      match fmtInt fmt with
      | some (n, sg) => Num.ofInt (intValue n sg code) 0
      | none => Num.ofInt (sext code 64) (-32)

/-- R133 to R135: an exact value to an element code of a format of FMT; integers always clamp. -/
def elementCode (fmt : Nat) (mx : Bool) (mode : Rounding) (sat : Bool) (x : Num) : Nat × Flags :=
  if fmt = 8 ∧ mx then roundToMxInt8 mode x
  else match fmtFloat fmt with
    | some f => encodeFloat f mode sat x
    | none =>
      match fmtInt fmt with
      | some (n, sg) =>
        let r := roundToInt mode (intRange n sg).1 (intRange n sg).2 x
        (wrap r.1 n, r.2)
      | none => roundToX64 mode sat x

/-- R253, R255: elements of a format in one 32-bit register. -/
def elementsPerRegister (fmt : Nat) : Nat :=
  match fmt with
  | 0 => 1
  | 1 => 2
  | 2 => 2
  | 7 => 8
  | 10 => 8
  | 11 => 8
  | _ => 4

/-- R130: element k of a 32-bit register; the unused bits of a 6-bit element are dropped. -/
def elementOf (fmt : Nat) (w k : Nat) : Nat :=
  let n := elementsPerRegister fmt
  let e := w / 2 ^ (k * (32 / n)) % 2 ^ (32 / n)
  if fmt = 5 ∨ fmt = 6 then e % 64 else e

/-- R136: the fields of FMT. -/
def fmtAF (fmt : Word) : Nat := field fmt.toNat 3 0
def fmtBF (fmt : Word) : Nat := field fmt.toNat 7 4
def fmtCF (fmt : Word) : Nat := field fmt.toNat 11 8
def fmtRMODE (fmt : Word) : Rounding :=
  match field fmt.toNat 13 12 with
  | 0 => .rn
  | 1 => .rz
  | 2 => .rd
  | _ => .ru
def fmtSAT (fmt : Word) : Bool := bitOf fmt.toNat 14
def fmtSCALE (fmt : Word) : Bool := bitOf fmt.toNat 15
def fmtOUTF (fmt : Word) : Nat := field fmt.toNat 19 16

/-- R138: whether setfmt accepts a value. -/
def fmtAccepted (w : Word) : Bool :=
  let n := w.toNat
  decide (n < 2 ^ 20) && decide (fmtAF w < 14) && decide (fmtBF w < 14) && decide (fmtCF w < 14) &&
  decide (fmtOUTF w < 14)

/-- R139: what a combination of FMT makes of a dot product. -/
inductive DotKind | narrow | mxint8 | integer | half | single deriving DecidableEq, Repr

/-- R139: the combinations of AF, BF, CF and SCALE that dot products accept. -/
def dotKind (fmt : Word) : Option DotKind :=
  let a := fmtAF fmt
  let b := fmtBF fmt
  let narrow := fun n : Nat => decide (3 ≤ n) && decide (n ≤ 7)
  let int := fun n : Nat => decide (8 ≤ n) && decide (n ≤ 11)
  if fmtCF fmt ≠ 0 then none
  else if narrow a && narrow b then some .narrow
  else if fmtSCALE fmt then (if a = 8 ∧ b = 8 then some .mxint8 else none)
  else if int a && int b then some .integer
  else if (a = 1 ∧ b = 1) ∨ (a = 2 ∧ b = 2) then some .half
  else if a = 0 ∧ b = 0 then some .single
  else none

end Sys2Proof.Machine
end

