-- ==== Sys2Proof/Machine/FloatOps.lean ====
section
/-!
DEFINITION. Floating-point operations on codes of one format (spec/09 R239 to R247, spec/08 R216),
conversions (R251, R252), and MX quantisation (spec/05 R147, R148).
-/

namespace Sys2Proof.Machine

/-- A code and the flags of computing it. -/
abbrev Coded := Nat × Flags

/-- R123: NV where an operand is a signalling NaN. -/
def signallingNV (xs : List Num) : Flags := flagIf (xs.any Num.isSignalling) flagNV

/-! ## Exact results; none where the operation is invalid (R239) -/

/-- The exact sum of two values that are not NaN. An exact zero of opposite signs is -0 under rd. -/
def exactSum (mode : Rounding) (x y : Num) : Option Num :=
  match x, y with
  | .inf a, .inf b => if a = b then some (.inf a) else none
  | .inf a, _ => some (.inf a)
  | _, .inf b => some (.inf b)
  | .zero a, .zero b => some (.zero (if a = b then a else decide (mode = .rd)))
  | .zero _, y => some y
  | x, .zero _ => some x
  | .fin a m e, .fin b n g =>
    let q := min e g
    let p : Int := (m * 2 ^ (e - q).toNat : Nat)
    let r : Int := (n * 2 ^ (g - q).toNat : Nat)
    let t := (if a then -p else p) + (if b then -r else r)
    some (if t = 0 then .zero (decide (mode = .rd)) else Num.ofInt t q)
  | x, _ => some x

/-- The exact product of two values that are not NaN. -/
def exactProduct (x y : Num) : Option Num :=
  let s := xor x.sign y.sign
  match x, y with
  | .inf _, .zero _ => none
  | .zero _, .inf _ => none
  | .inf _, _ => some (.inf s)
  | _, .inf _ => some (.inf s)
  | .fin _ m e, .fin _ n g => some (.fin s (m * n) (e + g))
  | _, _ => some (.zero s)

/-- An exact positive quotient with `bits` bits below its leading one, and a last bit that says whether
anything was cut off: it rounds as the exact quotient does. -/
def quotientWith (bits m n : Nat) : Nat × Int :=
  let k := bits + bitLength n
  let t := m * 2 ^ k
  (2 * (t / n) + (if t % n = 0 then 0 else 1), -(k : Int) - 1)

/-- The integer square root of n, by the digits of its result from bit k down. -/
def isqrtFrom (n : Nat) : Nat → Nat → Nat
  | 0, r => r
  | k + 1, r => isqrtFrom n k (if (r + 2 ^ k) * (r + 2 ^ k) ≤ n then r + 2 ^ k else r)

/-- The greatest r with r · r ≤ n. -/
def isqrt (n : Nat) : Nat := isqrtFrom n (bitLength n / 2 + 1) 0

/-- R240: the exact quotient, with DZ for a finite nonzero value by zero. -/
def exactQuotient (f : FloatFmt) (x y : Num) : Option Num × Flags :=
  let s := xor x.sign y.sign
  match x, y with
  | .inf _, .inf _ => (none, 0)
  | .inf _, _ => (some (.inf s), 0)
  | _, .inf _ => (some (.zero s), 0)
  | .zero _, .zero _ => (none, 0)
  | .fin _ _ _, .zero _ => (some (.inf s), flagDZ)
  | .zero _, _ => (some (.zero s), 0)
  | .fin _ m e, .fin _ n g =>
    let q := quotientWith (f.mbits + 4) m n
    (some (.fin s q.1 (e - g + q.2)), 0)
  | x, _ => (some x, 0)

/-- R240: the exact square root; none for a negative value. -/
def exactRoot (f : FloatFmt) (x : Num) : Option Num :=
  match x with
  | .zero n => some (.zero n)
  | .inf false => some (.inf false)
  | .fin false m e =>
    let odd := decide (e % 2 ≠ 0)
    let m1 := if odd then 2 * m else m
    let e1 := if odd then e - 1 else e
    let k := f.mbits + 4
    let t := m1 * 2 ^ (2 * k)
    let r := isqrt t
    some (.fin false (2 * r + (if r * r = t then 0 else 1)) (e1 / 2 - (k : Int) - 1))
  | _ => none

/-- Rounds an exact result; an invalid operation gives the canonical NaN and NV (R239). -/
def deliver (f : FloatFmt) (mode : Rounding) (r : Option Num) (extra : Flags) : Coded :=
  match r with
  | none => (f.nanCode, flagNV ||| extra)
  | some x => let c := encodeFloat f mode false x; (c.1, c.2 ||| extra)

/-- R239: the canonical NaN where an operand is NaN, else the rounded exact result. -/
def nanOr (f : FloatFmt) (xs : List Num) (r : Coded) : Coded :=
  if xs.any Num.isNaN then (f.nanCode, signallingNV xs) else r

/-- R239. -/
def floatAdd (f : FloatFmt) (mode : Rounding) (a b : Nat) : Coded :=
  let x := decodeFloat f a
  let y := decodeFloat f b
  nanOr f [x, y] (deliver f mode (exactSum mode x y) 0)

/-- R239. -/
def floatSub (f : FloatFmt) (mode : Rounding) (a b : Nat) : Coded :=
  let x := decodeFloat f a
  let y := decodeFloat f b
  nanOr f [x, y] (deliver f mode (exactSum mode x y.negate) 0)

/-- R239. -/
def floatMul (f : FloatFmt) (mode : Rounding) (a b : Nat) : Coded :=
  let x := decodeFloat f a
  let y := decodeFloat f b
  nanOr f [x, y] (deliver f mode (exactProduct x y) 0)

/-- R239: the fused form; 0 · ∞ is invalid even when c is a quiet NaN. -/
def floatFma (f : FloatFmt) (mode : Rounding) (a b c : Nat) : Coded :=
  let x := decodeFloat f a
  let y := decodeFloat f b
  let z := decodeFloat f c
  if x.isNaN || y.isNaN then (f.nanCode, signallingNV [x, y, z])
  else match exactProduct x y with
    | none => (f.nanCode, flagNV)
    | some p => nanOr f [z] (deliver f mode (exactSum mode p z) 0)

/-- R240. -/
def floatDiv (f : FloatFmt) (mode : Rounding) (a b : Nat) : Coded :=
  let x := decodeFloat f a
  let y := decodeFloat f b
  let q := exactQuotient f x y
  nanOr f [x, y] (deliver f mode q.1 q.2)

/-- R240. -/
def floatSqrt (f : FloatFmt) (mode : Rounding) (a : Nat) : Coded :=
  let x := decodeFloat f a
  nanOr f [x] (deliver f mode (exactRoot f x) 0)

/-! ## Comparison, minimum and maximum -/

/-- The order of two values that are not NaN as real numbers; -0 equals +0. -/
def realLt (x y : Num) : Bool :=
  match x, y with
  | .inf a, .inf b => a && !b
  | .inf a, _ => a
  | _, .inf b => !b
  | x, y =>
    match exactSum .rn x y.negate with
    | some (.fin n _ _) => n
    | _ => false

/-- R243: the order in which -0 lies below +0. -/
def orderLt (x y : Num) : Bool :=
  match x, y with
  | .zero a, .zero b => a && !b
  | x, y => realLt x y

/-- R215, R216: condition cc of two codes, and its flags. -/
def floatCompare (f : FloatFmt) (cc a b : Nat) : Bool × Flags :=
  let x := decodeFloat f a
  let y := decodeFloat f b
  let nan := x.isNaN || y.isNaN
  let fl := signallingNV [x, y] ||| flagIf (nan && decide (2 ≤ cc) && decide (cc ≤ 5)) flagNV
  let c := match cc with
    | 0 => !nan && !realLt x y && !realLt y x
    | 1 => nan || realLt x y || realLt y x
    | 2 => !nan && realLt x y
    | 3 => !nan && !realLt y x
    | 4 => !nan && realLt y x
    | 5 => !nan && !realLt x y
    | 6 => !nan
    | _ => nan
  (c, fl)

/-- R243: the lesser (or the greater) of two codes; `prefers` lets one NaN operand yield the other. -/
def floatMinMax (f : FloatFmt) (greater prefers : Bool) (a b : Nat) : Coded :=
  let x := decodeFloat f a
  let y := decodeFloat f b
  let fl := signallingNV [x, y]
  if x.isNaN && y.isNaN then (f.nanCode, fl)
  else if x.isNaN then (if prefers then b else f.nanCode, fl)
  else if y.isNaN then (if prefers then a else f.nanCode, fl)
  else (if (if greater then orderLt x y else orderLt y x) then b else a, fl)

/-! ## Sign, class, scale and integral rounding -/

/-- R244: what fabs, fneg and fcopysign do to the sign. -/
inductive SignOp | clear | invert | copy deriving DecidableEq, Repr

/-- R244. -/
def floatSign (f : FloatFmt) (op : SignOp) (a b : Nat) : Coded :=
  let x := decodeFloat f a
  let y := decodeFloat f b
  let xs := match op with
    | .copy => [x, y]
    | _ => [x]
  let mag := a % f.signWeight
  let neg := match op with
    | .clear => false
    | .invert => !bitOf a (f.ebits + f.mbits)
    | .copy => bitOf b (f.ebits + f.mbits)
  nanOr f xs (f.signed neg mag, 0)

/-- R245. -/
def floatClass (f : FloatFmt) (a : Nat) : Nat :=
  match decodeFloat f a with
  | .nan true => 0x100
  | .nan false => 0x200
  | .inf true => 0x001
  | .inf false => 0x080
  | .zero true => 0x008
  | .zero false => 0x010
  | .fin neg m _ =>
    let normal := decide (2 ^ f.mbits ≤ m)
    match neg, normal with
    | true, true => 0x002
    | true, false => 0x004
    | false, false => 0x020
    | false, true => 0x040

/-- R246: a · 2^n, rounded to nearest even. -/
def floatScale (f : FloatFmt) (a : Nat) (n : Int) : Coded :=
  let x := decodeFloat f a
  nanOr f [x] (encodeFloat f .rn false (x.scale n))

/-- R247: the integral value of a by the mode, in its own format. -/
def floatIntegral (f : FloatFmt) (mode : Rounding) (a : Nat) : Coded :=
  let x := decodeFloat f a
  nanOr f [x] (match x with
    | .fin neg m e =>
      let r := (roundMag mode neg m e 0).1
      if r = 0 then (f.signed neg 0, 0) else ((roundFinite f .rn false neg r 0).1, 0)
    | y => ((encodeFloat f .rn false y).1, 0))

/-! ## Packed forms (R238, R242) -/

/-- Applies an operation to both 16-bit elements of registers. -/
def packed2 (op : Nat → Nat → Nat → Coded) (a b c : Nat) : Coded :=
  let lo := op (a % 65536) (b % 65536) (c % 65536)
  let hi := op (a / 65536 % 65536) (b / 65536 % 65536) (c / 65536 % 65536)
  (lo.1 + 65536 * hi.1, lo.2 ||| hi.2)

/-! ## Conversion (R251, R252) -/

/-- R96: a type of cvt: a floating-point format, or an integer of `bits`. -/
inductive CvtType
  | float (f : FloatFmt)
  | int (bits : Nat) (signed : Bool)
  deriving DecidableEq, Repr

/-- R96: the type codes of cvt. -/
def cvtType (code : Nat) : CvtType :=
  match code with
  | 0 => .float f64Fmt
  | 1 => .float f32Fmt
  | 2 => .float f16Fmt
  | 3 => .float bf16Fmt
  | 4 => .int 32 true
  | 5 => .int 32 false
  | 6 => .int 64 true
  | _ => .int 64 false

/-- Whether a type of cvt is held in a register pair (R251). -/
def cvtWide (code : Nat) : Bool := decide (code = 0) || decide (6 ≤ code)

/-- The rounding mode of a two-bit code (R124). -/
def roundingOf (code : Nat) : Rounding :=
  match code with
  | 0 => .rn
  | 1 => .rz
  | 2 => .rd
  | _ => .ru

/-- R251: the conversion of a source code from one type to another. -/
def convert (dst src : CvtType) (mode : Rounding) (sat : Bool) (a : Nat) : Coded :=
  match src, dst with
  | .float f, .float g => encodeFloat g mode sat (decodeFloat f a)
  | .float f, .int n sg =>
    let r := roundToInt mode (intRange n sg).1 (intRange n sg).2 (decodeFloat f a)
    (wrap r.1 n, r.2)
  | .int n sg, .float g => encodeFloat g mode sat (Num.ofInt (intValue n sg a) 0)
  | .int n sg, .int k tg =>
    let x := intValue n sg a
    if n < k then (wrap x k, 0)
    else if sat then (wrap (max (intRange k tg).1 (min (intRange k tg).2 x)) k, 0)
    else (wrap x k, 0)

/-! ## Microscaling (R147, R148) -/

/-- The exponent of the leading bit of a finite value. -/
def leading : Num → Option Int
  | .fin _ m e => some (e + (bitLength m : Int) - 1)
  | _ => none

/-- The greatest of the leading exponents. -/
def maxLeading : List Num → Option Int
  | [] => none
  | x :: t =>
    match leading x, maxLeading t with
    | none, r => r
    | some a, none => some a
    | some a, some b => some (max a b)

/-- R125, R129: emax of an element format of mxq. -/
def mxEmax (fmt : Nat) : Int :=
  match fmtFloat fmt with
  | some f => f.emax
  | none => 0

/-- R147: the scale code, the element codes and the flags of quantising FP32 values. -/
def mxQuantise (fmt : Nat) (mode : Rounding) (xs : List Nat) : Nat × List Nat × Flags :=
  let vs := xs.map (decodeFloat f32Fmt)
  if vs.any (fun v => match v with | .nan _ => true | .inf _ => true | _ => false) then
    (0xFF, xs.map (fun _ => 0), flagNV)
  else match maxLeading vs with
    | none => (0, xs.map (fun _ => 0), 0)
    | some lead =>
      let s := max (-127) (min 127 (lead - mxEmax fmt))
      let cs := vs.map fun v => elementCode fmt true mode true (v.scale (-s))
      ((s + 127).toNat, cs.map Prod.fst, cs.foldl (fun acc c => acc ||| c.2) 0)

/-- R148: the FP32 value of an element code under a scale code. -/
def mxDequantise (fmt scale code : Nat) : Coded :=
  if scale = 0xFF then (f32Fmt.nanCode, flagNV ||| flagSN)
  else encodeFloat f32Fmt .rn false ((elementValue fmt true code).scale ((scale : Int) - 127))

end Sys2Proof.Machine
end

