-- ==== Sys2Proof/Machine/IntOps.lean ====
section
/-!
DEFINITION. Integer, logic, shift and bit-field operations on codes (spec/08 R221 to R232). Operands and
results are Nats below 2^n; results are exact integers, reduced at the end.
-/

namespace Sys2Proof.Machine

/-- The number of bits of a width. -/
def widthBits : IWidth → Nat
  | .w32 => 32
  | .w64 => 64

/-- R128: the signed or the unsigned reading of an n-bit code. -/
def readInt (n : Nat) (g : Sign) (a : Nat) : Int :=
  match g with
  | .signed => sext a n
  | .unsigned => ((a % 2 ^ n : Nat) : Int)

/-- R221. -/
def intAdd (n a b : Nat) : Nat := (a + b) % 2 ^ n
def intSub (n a b : Nat) : Nat := (a + (2 ^ n - b % 2 ^ n)) % 2 ^ n
def intMul (n a b : Nat) : Nat := a * b % 2 ^ n

/-- R221: bits 63:32 of the exact product. -/
def intMulHi (g : Sign) (a b : Nat) : Nat := wrap (readInt 32 g a * readInt 32 g b) 64 / 2 ^ 32

/-- R224. -/
def intMad (n a b c : Nat) : Nat := (a * b + c) % 2 ^ n

/-- R224: bits 63:32 of the exact multiply-add. -/
def intMadHi (g : Sign) (a b c : Nat) : Nat :=
  wrap (readInt 32 g a * readInt 32 g b + readInt 32 g c) 64 / 2 ^ 32

/-- R225: truncating division, with the fixed results for b = 0; the overflowing quotient wraps. -/
def intDiv (g : Sign) (a b : Nat) : Nat :=
  if b % 2 ^ 32 = 0 then 2 ^ 32 - 1 else wrap ((readInt 32 g a).tdiv (readInt 32 g b)) 32

/-- R225: the remainder takes the sign of the dividend. -/
def intRem (g : Sign) (a b : Nat) : Nat :=
  if b % 2 ^ 32 = 0 then a else wrap ((readInt 32 g a).tmod (readInt 32 g b)) 32

/-- R221: the lesser and the greater. -/
def intMin (n : Nat) (g : Sign) (a b : Nat) : Nat := if readInt n g b < readInt n g a then b else a
def intMax (n : Nat) (g : Sign) (a b : Nat) : Nat := if readInt n g a < readInt n g b then b else a

/-- R226. -/
def intAbs (n a : Nat) : Nat := wrap ((sext a n).natAbs : Int) n
def intNeg (n a : Nat) : Nat := wrap (-(sext a n)) n

/-- R221, R226: bitwise logic. -/
def bitAnd (a b : Nat) : Nat := a &&& b
def bitOr (a b : Nat) : Nat := a ||| b
def bitXor (a b : Nat) : Nat := a ^^^ b
def bitNot (n a : Nat) : Nat := 2 ^ n - 1 - a % 2 ^ n
def bitAndn (n a b : Nat) : Nat := a &&& bitNot n b

/-- R226: the number of 1 bits among the n low ones. -/
def popCount : Nat → Nat → Nat
  | 0, _ => 0
  | n + 1, a => a % 2 + popCount n (a / 2)

/-- R226: trailing zeros; n for zero. -/
def trailingZeros : Nat → Nat → Nat
  | 0, _ => 0
  | n + 1, a => if a % 2 = 1 then 0 else 1 + trailingZeros n (a / 2)

/-- R226: bit k to bit n - 1 - k. -/
def bitReverse : Nat → Nat → Nat
  | 0, _ => 0
  | n + 1, a => a % 2 * 2 ^ n + bitReverse n (a / 2)

/-- R226: leading zeros; n for zero. -/
def leadingZeros (n a : Nat) : Nat := trailingZeros n (bitReverse n a)

/-- R228, for an amount k below n. -/
def shiftLeft (n a k : Nat) : Nat := a * 2 ^ k % 2 ^ n
def shiftRight (a k : Nat) : Nat := a / 2 ^ k
def shiftArith (n a k : Nat) : Nat := wrap (sext a n / (2 : Int) ^ k) n
def rotateLeft (n a k : Nat) : Nat := (a * 2 ^ k % 2 ^ n) + a % 2 ^ n / 2 ^ (n - k)

/-- R229. -/
def bitExtract (g : Sign) (a b c : Nat) : Nat :=
  let pos := min (b % 256) 32
  let len := min (c % 256) 32
  let f := (readInt 32 g a / (2 : Int) ^ pos % (2 : Int) ^ len).toNat
  if len = 0 then 0 else
  match g with
  | .signed => wrap (sext f len) 32
  | .unsigned => f

/-- R229. -/
def bitInsert (a b c : Nat) : Nat :=
  let pos := c % 256
  let len := min (c / 256 % 256) 32
  let mask := (2 ^ len - 1) * 2 ^ pos % 2 ^ 32
  (b &&& bitNot 32 mask) ||| (a * 2 ^ pos % 2 ^ 32 &&& mask)

/-- R230. -/
def moveHigh (imm a : Nat) : Nat := imm * 2 ^ 10 % 2 ^ 32 ||| (a &&& 0x3FF)

/-- R231. -/
def scaledAddress (a b k : Nat) : Nat := wrap ((a : Int) + sext b 32 * (2 : Int) ^ k) 64

/-- The elements of a packed width: their number and their bits. -/
def packedElems : PackWidth → Nat × Nat
  | .p16 => (2, 16)
  | .p8 => (4, 8)

/-- R227: an operation on each element apart. -/
def packedMap (e : PackWidth) (op : Nat → Nat → Nat) (a b : Nat) : Nat :=
  let n := (packedElems e).2
  (upFrom 0 (packedElems e).1).foldr
    (fun k acc => op (a / 2 ^ (n * k) % 2 ^ n) (b / 2 ^ (n * k) % 2 ^ n) + 2 ^ n * acc) 0

/-- R222: the immediate of a format I integer instruction as an n-bit code. -/
def immediate (n : Nat) (imm : BitVec 22) : Nat := wrap (sext imm.toNat 22) n

/-- R215: condition cc of two integers. -/
def intCompare (cc : Nat) (a b : Int) : Bool :=
  match cc with
  | 0 => decide (a = b)
  | 1 => decide (a ≠ b)
  | 2 => decide (a < b)
  | 3 => decide (a ≤ b)
  | 4 => decide (b < a)
  | _ => decide (b ≤ a)

/-- R232: the source lane of each mode. -/
inductive ShuffleMode | idx | up | down | xor deriving DecidableEq, Repr

/-- R232: the lane that lane l reads, for segment width seg and value d. -/
def shuffleSource (mode : ShuffleMode) (seg l d : Nat) : Nat :=
  let base := l - l % seg
  match mode with
  | .idx => base + d % seg
  | .up => if d ≤ l - base then l - d else l
  | .down => if l + d < base + seg then l + d else l
  | .xor => base + ((l - base) ^^^ (d % seg))

end Sys2Proof.Machine
end

