-- ==== Sys2Proof/Config.lean ====
section
/-!
DEFINITION. What is fixed for one module, and the values the manual leaves open. A constant without a
body is a free value: no proof can learn what it is, so a claim holds whatever it is.
-/

namespace Sys2Proof

/-- Which agent moves next: a group issues one instruction of the clause it is in, or one step of the
part or of the outside happens (spec/95). -/
inductive Move
  | issue (group : Nat)
  | event (i : Instr)
  deriving DecidableEq, Repr, Inhabited

/-- One move, how far the reference counter advances with it, and whether the clock that the tick has begun has come (R4, R11). -/
structure Turn where
  move : Move
  ticks : Nat
  clocks : Nat
  deriving DecidableEq, Repr, Inhabited

namespace Config

/-- R8, R10: four dies of 48 cores, numbered core = 48 * die + core of the die. -/
abbrev dies : Nat := 4
abbrev coresPerDie : Nat := 48
abbrev cores : Nat := 192
/-- R12: 96 group slots a core, 24 a quadrant. -/
abbrev slotsPerQuadrant : Nat := 24
abbrev quadrants : Nat := 4
/-- R158, R18: 384 HBM channels of 2 GiB. -/
abbrev channels : Nat := 384
abbrev channelBytes : Nat := 2 ^ 31
/-- R401: the fabric lanes. -/
abbrev fabricLanes : Nat := 192
/-- R157: the bytes of host memory. -/
abbrev hostBytes : Nat := 2 ^ 52
/-- R164. The firmware sets MBASE at boot; the carve-out holds a quarter of the HBM below it.
DESIGN CHOICE (log entry 5): the largest 64 KiB-aligned base that leaves room for the carve-out. -/
abbrev carveBase (hbm : Nat) : Nat := (hbm * 4 / 5) / 65536 * 65536
/-- R165, R167: sizes of the core TLB, of the die's second-level TLB and walks in flight, and of its fault buffer. -/
abbrev tlbEntries : Nat := 256
abbrev dieTlbEntries : Nat := 16384
abbrev walksInFlight : Nat := 64
abbrev faultEntries : Nat := 1024
/-- R12: the lines of an L1, 512 KiB of 128 bytes, and the memory requests that a core has outstanding at most. -/
abbrev l1Lines : Nat := 4096
abbrev requests : Nat := 2048
/-- R348, R288, R363: sizes of an engine queue, of the incomplete batches, of the DET buffers. -/
abbrev engineQueue : Nat := 64
abbrev batchesInFlight : Nat := 64
abbrev detBuffer : Nat := 65536

/-- The order in which agents move, and the happenings of the outside world, where State's agenda names
none (R4, R191). A free value (log entry 2): move number n of a run. -/
opaque schedule : Nat → Turn
/-- R427: the stage times of a Sounding record, and its bits 0 to 2 and 8 of STALL: timing, which this model does not hold. -/
opaque soundingTimes (turn : Nat) : BitVec 80
opaque soundingStalls (turn : Nat) : BitVec 4
/-- R427: whether an access at its home is served by the L2, not by HBM. -/
opaque homeHit (turn : Nat) : Bool
/-- R437: what a slot of a trap record shows of a per-lane operand where LANE names no lane. -/
opaque recordValue (turn : Nat) : BitVec 64
/-- R412, R413: the image that runs at reset, and the module's serial number. -/
opaque bootImage : List Byte
opaque serialNumber : List Byte
/-- R22, R412: the device identity key, and the secret number of a signature, made at a turn. -/
opaque identityKey : Nat
opaque signatureSecret (turn : Nat) : Nat
/-- R398, row IDCERT: the device identity certificate chain. -/
opaque identityChain : List Byte
/-- R413: the hash of the public key fused in the module, and where an image holds its key, what is signed and the
signature: the spec does not lay an image out. -/
opaque keyHash : List Byte
opaque imageKey (image : List Byte) : List Byte
opaque imageBody (image : List Byte) : List Byte
opaque imageSignature (image : List Byte) : List Byte
/-- R12, R160: which line leaves a full L1, at a turn. -/
opaque l1Victim (turn : Nat) : Nat
/-- R158: the usable channel, as a place among them, onto which the firmware folds a missing one. -/
opaque foldedChannel (channel : Nat) : Nat
/-- R428: how far the counter of a die stands from die 0's, in 1/16 tick, from the reset at a turn. -/
opaque dieSkew (turn die : Nat) : Int
/-- R402: the memory-tier expanders that the firmware finds at a reset at a turn: their capacities in bytes, by port. -/
opaque expander (turn port : Nat) : Option Nat
/-- R403, R404, R476: the port by which packets of a class go to a device, while some ports are up. -/
opaque fabricRoute (up : List Nat) (device cls : Nat) : Nat
/-- R269, R403: the word at a peer on which a reduction of ours operates there, which no response returns. -/
opaque peerWord (turn lane : Nat) : BitVec 32
/-- R468, R489: SUB of WDOG for an operation of an engine that is neither the copy nor the collective engine. -/
opaque watchdogSub (engine : Nat) : Nat
/-- R409: the teams of the grid that a device of the pod runs for a context, as the host has agreed at a turn. -/
opaque podGrid (turn device : Nat) : Nat
/-- R459, R460: whether a bank group's scrub at a returned core meets an uncorrectable error. -/
opaque scrubMeetsError (turn : Nat) : Bool

end Config
end Sys2Proof
end

