-- ==== Sys2Proof/Machine/State.lean ====
section
/-!
DEFINITION. The state of the module as plain data (INVENTORY.md, State), the reasons a step can stop,
and the state right after reset.
-/

namespace Sys2Proof.Machine

/-- Why the machine stops. -/
inductive Fault
  /-- Raised by an access, a walk or a fetch whose translated physical offset lies outside its tier
  (R157 gives local HBM 768 GiB and host memory 2^52 bytes, and no outcome beyond). Safe: the model
  stops where the hardware would do something the spec does not state. -/
  | noSuchPhysicalAddress (loc : Nat)
  deriving DecidableEq, Repr

/-- Why a step has no meaning. -/
inductive Refusal
  /-- Raised by an arm of exec for an instruction that has no meaning yet. Safe. -/
  | notModelled (mnemonic : String)
  /-- Raised by the meaning of a step of the part or of the outside in a state in which that step cannot
  happen (no such access in flight, no such command submitted). Safe: the happening does not occur. -/
  | notEnabled
  /-- Raised by the meaning of an instruction word where no running group is the issuer. Safe: an
  instruction is only ever executed by a group. -/
  | noIssuer
  deriving DecidableEq, Repr

/-! ## A group (R35) -/

/-- R47: one entry of the reconvergence stack. -/
structure StackEntry where
  pending : Bool
  target : Word64
  mask : LaneMask
  fmt : Word
  deriving DecidableEq, Repr

/-- R103: one latch. An entry with no elements is wholly void; `wide` says 64-bit elements. -/
structure Latch where
  wide : Bool
  elems : Table Word64
  deriving DecidableEq, Repr

/-- R294: the member list of a gang. -/
abbrev Gang := List Nat

/-- R295: an operand map, as written (team offset, stride, swizzle, scale offset). -/
structure OperandMap where
  base : Nat
  stride : Nat
  swz : Nat
  scales : Nat
  deriving DecidableEq, Repr

/-- R296: a tile handle. -/
structure TileHandle where
  base : Nat
  sbase : Nat
  nstride : Nat
  ef : Nat
  ncols : Nat
  deriving DecidableEq, Repr

/-- R300, R304: a member's A rows: 32 rows of element codes by K position (0 where 2:4 compression
omits the element, R145), and the row scales. `word` and `fmt` are what R304 compares; `bad` is the DETAIL of the first
poisoned register it was read from (R443). -/
structure Fragment where
  rows : List (List Nat)
  scales : List Nat
  word : Nat
  fmt : Nat
  bad : Option Nat
  deriving DecidableEq, Repr

/-- R273 to R276: which barrier. -/
inductive Level | team | cluster | grid deriving DecidableEq, Repr

/-- R437: an operand for a slot of a trap record: its field, its code, whether it is wider than a register (of a run, the
record shows the register named), and whether it is a
destination. -/
structure OpSlot where
  field : Nat
  code : Nat
  wide : Bool
  write : Bool
  deriving DecidableEq, Repr

/-- R38: what a blocked group waits for; also the answers of peers to the lanes of an instruction (R463; `counted` says that
the instruction has counted at issue, R357), the race checks of an access in fault mode that follows others (R202), the DET
minimum (R360), and, in a handler that goes on, the end of the `tgthalt` it has begun (R327) or of the demotion that its
`tgtcalm` has asked for. -/
inductive Wait
  | barrier (lvl : Level) (phase : Nat) (pod : Bool)
  | await (lvl : Level) (phase : Nat)
  | monitor (va loc : Nat) (expected : Word) (dest : BitVec 11) (deadline : Option Nat) (ops : List OpSlot)
  | arrival (set : Nat)
  | copyBatch (n : BitVec 32)
  | matrixBatch (n : BitVec 32)
  | remoteLoad (access : Nat)
  | translation (walks : List Nat)
  | peers (access : Nat) (counted : Bool)
  | checks (access : Nat)
  | minimum (access : Nat)
  | halting
  | calming
  deriving DecidableEq, Repr

/-- R37, R302, R360, R110, R441, R327: where a group stands. -/
inductive Status
  | running
  | blocked
  | heldRendezvous (op : Nat)
  | heldMinimum
  | trapping
  | parked
  | halted
  | retired
  deriving DecidableEq, Repr

/-- R433: the classes of faults. -/
inductive FaultClass
  | enc | oper | exec | fmt | mem | race | sync | copy | matrix | hzn | det | soft | debug | priv
  | demote | err
  deriving DecidableEq, Repr

/-- R453: what an engine fault adds to the extension. -/
structure EngineFault where
  cls : FaultClass
  sub : BitVec 16
  cause : Nat
  batch : Nat
  stamp : Nat
  opc : Nat
  index : Nat
  clause : Word64
  offset : Nat
  addr : Nat
  mdsnap : BitVec 128
  deriving DecidableEq, Repr

/-- R437: what is known of a fault when it is raised; the rest of the record is the group's state. -/
structure TrapInfo where
  cls : FaultClass
  sub : BitVec 16
  lane : Nat
  addr : Nat
  detail : Word
  enabled : LaneMask
  ops : List OpSlot
  scalar : Bool
  gang : Bool
  onHeader : Bool
  mdsnap : BitVec 128
  engine : Option EngineFault
  step : Nat
  calm : Bool
  deriving DecidableEq, Repr

/-- R196: an entry of the acquire table; the table is kept least recently used first. -/
structure AcqEntry where
  agent : BitVec 16
  clock : BitVec 20
  deriving DecidableEq, Repr

/-- R288, R305: a batch that has been closed and not waited for: the numbers of its entries or joint operations, the
highest stamp among them (R196), the flags that its completion sets (R150), and whether it is complete. -/
structure Batch where
  entries : List Nat
  stamp : Option Nat
  flags : BitVec 7
  done : Bool
  deriving DecidableEq, Repr

/-- R195, R274: a group's counts on one barrier, 32 bits each, and the IC it held when it last arrived (R359). -/
structure BarrierCounts where
  arrived : Word
  waited : Word
  arrivalIC : Nat
  deriving DecidableEq, Repr

/-- R35, R37: a group. `owes` says that it has issued a `yield` since another group
of its quadrant began a clause (R214), `entered` that the clause where the group stands has been begun already (R165),
`taken` and `addrNext` what its next CLAUSE packet says (R422); `copyOpen` and `mmOpen` list the entries and joint
operations of the open batches, each with its stamp. `gangOps` counts its joint operations since its last `gangset` (R302),
`haltAsked` says that a handler has halted it (R327), `keptIC` is the IC of its key while it is evicted (R358), `changed`
the change that ends its `monwait` when it resumes: the word, and the launch and IC of an exchange that made it (R362),
`counted` that the instruction where it stands has been counted for Sounding (R426). v is keyed by 128 * register + lane, q by predicate,
x by 128 * register + lane, s and d by number; a pending or poisoned element is listed under the same key. -/
structure Group where
  launch : Nat
  team : Nat
  g : Nat
  status : Status
  wait : Option Wait
  trap : Option TrapInfo
  agent : BitVec 16
  slot : Nat
  age : Nat
  v : Table Word
  s : Table Word
  q : Table LaneMask
  x : Table (BitVec 16)
  clause : Word64
  index : Nat
  header : Option Word64
  active : LaneMask
  exited : LaneMask
  stack : List StackEntry
  d : Table Nat
  vPending : Table Bool
  sPending : Table Bool
  fmt : Word
  gang : Gang
  maps : Table OperandMap
  handles : Table TileHandle
  plive : BitVec 8
  fpstat : Word
  acquired : List AcqEntry
  overflow : Word64
  rc : BitVec 32
  ic : Word64
  latches : List Latch
  barTeam : BarrierCounts
  barCluster : BarrierCounts
  barGrid : BarrierCounts
  copyOpen : List (Nat × Nat)
  copyLast : BitVec 32
  copyBatches : Table Batch
  mmOpen : List (Nat × Nat)
  mmOpenFlags : BitVec 7
  mmLast : BitVec 32
  mmBatches : Table Batch
  kept : Option Fragment
  vPoison : Table Bool
  sPoison : Table Bool
  heldFaults : List EngineFault
  suppressed : Option (Nat × Bool)
  savedLive : Option (BitVec 8)
  handlerWrote : List Nat
  trapArea : Nat
  yielded : Bool
  owes : Bool
  taken : Bool
  addrNext : Bool
  entered : Bool
  gangOps : Nat
  haltAsked : Bool
  keptIC : Option Nat
  changed : Option (Word × Option (Nat × Nat))
  counted : Bool
  sound : Option (BitVec 512)
  deriving DecidableEq, Repr

/-! ## Accesses in flight (R174) -/

/-- R152, R157: where a translated access goes; the leaf's CACHE and CHECKED travel with it. -/
inductive Target
  | phys (loc cache : Nat) (checked : Bool)
  | team (team off : Nat)
  | peer (device off : Nat)
  deriving DecidableEq, Repr

/-- R174: the access of one lane (or of one lane word for an MX block, whose scale stands at `scale`, and whose
elements go on at `tail` where the block crosses a page). `data` is the store data or the operand; `value`
what a read has returned, once it has. -/
structure LaneAccess where
  lane : Nat
  va : Nat
  target : Target
  tail : Option (Target × Nat)
  scale : Option (Nat × Target)
  size : Nat
  data : BitVec 272
  performed : Bool
  value : Option (BitVec 272)
  poisoned : Bool
  dest : List Nat
  deriving DecidableEq, Repr

/-- R105: what a long-latency memory instruction does. -/
inductive AccessKind
  | load (w : LoadWidth)
  | store
  | rmw (op : AtomOp) (returns : Bool)
  | mxLoad (fmt : Nat) (scaleReg : Nat)
  | mxStore (fmt : Nat)
  deriving DecidableEq, Repr

/-- R105, R174, R194: an instruction's accesses from its issue to their completion. -/
structure Access where
  group : Nat
  kind : AccessKind
  space : Space
  scalar : Bool
  lanes : List LaneAccess
  mask : LaneMask
  order : Nat
  scope : Nat
  counter : Nat
  stamp : BitVec 32
  gens : Nat × Nat × Nat
  clause : Word64
  index : Nat
  opc : Nat
  checked : Bool
  frozen : Bool
  race : Option (BitVec 512)
  flags : BitVec 7
  sound : Option (BitVec 512)
  deriving DecidableEq, Repr

/-! ## A team (R36) -/

/-- R312: a tuple of a front, keys first. -/
structure Tuple where
  keys : List Word
  payload : Word
  deriving DecidableEq, Repr

/-- R311, R316: a Horizon slot: the configuration word of hzinit, the front in canonical order, and the
counters INSERT, DISCARD, EVICT, OVER and NAN; `bad` says that a word of it has an uncorrectable error (R461). -/
structure HzSlot where
  config : BitVec 22
  front : List Tuple
  insert : Word
  discard : Word
  evict : Word
  overs : Word
  nan : Word
  bad : Bool
  deriving DecidableEq, Repr

/-- R278: an arrival set; EXP, GOT and NEXT are keyed by source. -/
structure ArrivalSet where
  mask : BitVec 16
  ep : BitVec 16
  expect : Table Word
  got : Table Word
  next : Table Word
  phase : Word
  broken : Bool
  initialised : Bool
  stamps : Table (Nat × Nat)
  deriving DecidableEq, Repr

/-- R363: an entry of a team's DET reduction buffer: its group and IC, and the access of its lane. -/
structure RedEntry where
  g : Nat
  ic : Nat
  lane : Nat
  access : Access
  deriving DecidableEq, Repr

/-- R365: a buffered insertion: the tuples of a merge's snapshot, or one lane's tuple. -/
structure HzEntry where
  g : Nat
  ic : Nat
  lane : Nat
  slot : Nat
  tuples : List Tuple
  deriving DecidableEq, Repr

/-- R37, R345, R353: where a team stands. -/
inductive TeamStatus | resident | evicting | evicted | retired | restarting | lost
  deriving DecidableEq, Repr

/-- R306: the last joint operation that named a tile, and whether it has completed. -/
structure TileWriter where
  op : Nat
  members : List Nat
  complete : Bool
  waited : List Nat
  deriving DecidableEq, Repr

/-- R36, R274, R278, R341: a team. mem is keyed by offset, marks by granule, tiles by 1024 * tile + word. The blocks of
R342 are offsets and lengths within its tenant's part of the core: registers in units of 256 bytes, team memory in pages,
tiles. `yieldFor` names the launch and team for whose sake it was evicted at a `yield`, until that team has been placed (R340,
R345); `woken` says that a group of it has not been blocked throughout the slice in progress (R345), and `agents` lists the
agent ids that its groups have held (R33, R352). -/
structure Team where
  launch : Nat
  index : Nat
  groups : List Nat
  core : Nat
  status : TeamStatus
  mem : Table Byte
  memPoison : Table Bool
  marks : Table (BitVec 128)
  tiles : Table Word
  tilePoison : Table Bool
  writers : Table TileWriter
  tileReads : Table Nat
  slots : Table HzSlot
  sets : Table ArrivalSet
  barPhase : Nat
  barMax : Table Nat
  reds : List RedEntry
  hzs : List HzEntry
  lostEntries : Bool
  drained : Bool
  pinned : Bool
  killed : Nat
  regBlocks : List (Nat × Nat)
  memBlocks : List (Nat × Nat)
  tileBlocks : List (Nat × Nat)
  yieldFor : Option (Nat × Nat)
  blockedSlices : Nat
  woken : Bool
  agents : List (BitVec 16)
  deriving DecidableEq, Repr

/-! ## A launch (R331 to R334) -/

/-- R331 to R334, R364, R440, R466: a launch that has been accepted. A handler's launch names the group whose trap it serves;
`served` says that the group has been resumed or killed since (R441). `packet` and `desc` are the 512-bit
records, read through the accessors of Machine/Ops.lean. -/
structure Launch where
  packet : BitVec 512
  desc : BitVec 512
  source : Nat
  accepted : Nat
  nextTeam : Nat
  restarts : List Nat
  start : Nat
  started : Bool
  ended : Bool
  clusterPhases : Table Nat
  clusterMax : Table Nat
  gridPhase : Nat
  gridMax : Table Nat
  podReports : Table Nat
  token : Nat
  tokenBroken : Bool
  nondet : Option Nat
  debt : Bool
  faulted : Option Nat
  killed : Option Nat
  revoked : Option Nat
  unplaced : Option Nat
  handlerFor : Option Nat
  handlerClass : Nat
  served : Bool
  deriving DecidableEq, Repr

/-! ## A context (R400) -/

/-- R328: a code breakpoint. -/
structure CodeBp where
  enabled : Bool
  demote : Bool
  index : Nat
  clause : Word64
  deriving DecidableEq, Repr

/-- R329: a watchpoint. -/
structure Watchpoint where
  enabled : Bool
  onRead : Bool
  onWrite : Bool
  team : Bool
  start : Nat
  length : Nat
  deriving DecidableEq, Repr

/-- R376, R327: a step of a group that has been decided: the handler whose `tgtstep` asked for it, if one did, and the
group's status and IC before it, and whether it stood at a wait. -/
structure Forced where
  group : Nat
  handler : Option Nat
  was : Status
  ic : Word64
  waiting : Bool
  deriving DecidableEq, Repr

/-- R371, R401: where a context stands between parallel execution and Calm mode. -/
inductive CalmStage | parallel | demoting | demoted
  deriving DecidableEq, Repr

/-- R409, R291: a communicator: the device and team of each rank, and how many collectives each rank of this
device has issued. -/
structure Communicator where
  ranks : List (Nat × Nat)
  issued : Table Nat
  deriving DecidableEq, Repr

/-- R396, R400, R418: a context. `lastStepped` is the place in the context order of the group that stepped last (R375),
`midStep` a step whose instruction still waits for a peer or a replay, `demoteNext` a demotion asked for while a promotion
was pending (R384). -/
structure Context where
  tenant : Nat
  rmode : Nat
  dbg : Bool
  trapPrio : Nat
  root : Nat
  save : Nat
  saveSize : Nat
  spb : Nat
  tvec : Nat
  steps : Word64
  stage : CalmStage
  demoteAt : Nat
  lastStepped : Option (Nat × Nat)
  midStep : Option Forced
  stepsLeft : Nat
  running : Bool
  promote : Bool
  demoteNext : Bool
  breakpoints : Table CodeBp
  watchpoints : Table Watchpoint
  inbound : Table Word64
  outbound : Table Word64
  binding : Nat
  domain : Nat
  domainSize : Nat
  comms : Table Communicator
  trbase : Word64
  obsctl : Word
  sbase : Word64
  shead : Word64
  stail : Word64
  sdrop : Word
  soundQ : List (BitVec 512)
  trapQueue : List Nat
  destroying : Bool
  deriving DecidableEq, Repr

/-! ## A tenant (R338, R395, R411) -/

/-- R410: an error ring. -/
structure ErrorRing where
  base : Nat
  log2 : Nat
  head : Word
  tail : Word
  drop : Word
  deriving DecidableEq, Repr

/-- R335, R338, R395, R411: a tenant. `tailHeld` is what ERRTAIL holds while no ring is set. -/
structure Tenant where
  entry : BitVec 512
  tail : Word
  progress : Word
  lastLid : Table Word
  fabric : List (BitVec 512)
  ring : Option ErrorRing
  tailHeld : Word
  uestat : Word
  uemask : Word
  uesev : Word
  cestat : Word
  cemask : Word
  fep : BitVec 5
  hlog : BitVec 128
  fepSet : Bool
  deriving DecidableEq, Repr

/-! ## A core and a die -/

/-- R351: how a core is assigned. -/
inductive CoreKind | guaranteed | margin | shared | unassigned deriving DecidableEq, Repr

/-- R160: an L1 line; bit i of dirty marks byte i as not yet written back. -/
structure Line where
  data : BitVec 1024
  dirty : BitVec 128
  ctx : Nat
  deriving DecidableEq, Repr

/-- R165: a TLB entry: the context, the first virtual page, the level of the leaf, and the leaf. -/
structure TlbEntry where
  ctx : Nat
  va : Nat
  level : Nat
  leaf : Word64
  deriving DecidableEq, Repr

/-- R348, R349: a tenant's virtual queue for one engine, and its credit in bytes. -/
structure EngineQueue where
  entries : List Nat
  credit : Int
  deriving DecidableEq, Repr

/-- R424: a core's Contrail staging for one traced context; `lastTimed`, `lastSync` and `lastEvent` are ticks, `lastSlot` the
slot of the packet staged last (R423), `segment` the TRBASE and SEGLOG2 under which the bytes were staged (R419). -/
structure Staging where
  bytes : List Byte
  dropped : Nat
  lastTimed : Nat
  sinceSync : Nat
  lastSync : Nat
  lastEvent : Nat
  lastSlot : Nat
  segment : Nat × Nat
  deriving DecidableEq, Repr

/-- R426: a quadrant's sampling. -/
structure Sampler where
  lfsr : Word
  left : Nat
  tagNext : Bool
  deriving DecidableEq, Repr

/-- R12, R341, R346, R348: a core. `held` gives for each tenant its bank groups there (R347): the first, plus 16 times their
number. -/
structure Core where
  usable : Bool
  feat : BitVec 6
  owner : Nat
  kind : CoreKind
  held : Table Nat
  issuing : Option Nat
  sliceStart : Nat
  debts : Table Nat
  tlb : List TlbEntry
  lines : Table Line
  queues : Table EngineQueue
  visited : Table Nat
  staging : Table Staging
  samplers : Table Sampler
  uncorrectable : Nat
  returnBy : Option Nat
  deriving DecidableEq, Repr

/-- R168: a fault-buffer entry; `valid` is V. Walks wait under a valid entry. -/
structure FaultEntry where
  valid : Bool
  level : Nat
  kind : Nat
  ctx : Nat
  agent : BitVec 16
  vpn : Nat
  deriving DecidableEq, Repr

/-- R165 to R170: a walk under way or waiting for replay. `agent` is that of the access it serves; `began` the
tick at which an entry of an engine agent with a slot of its own stalled on it (R468). -/
structure Walk where
  ctx : Nat
  core : Nat
  va : Nat
  kind : Nat
  group : Option Nat
  waiting : Option Nat
  agent : BitVec 16
  began : Option Nat
  deriving DecidableEq, Repr

/-- R430, R431: a Barometer monitor, with the value that it captured last, when, and the values of that tick, which a CLR of
the same tick leaves (R432). -/
structure Monitor where
  bctl : Word
  alarmHi : Word
  min : Word
  max : Word
  samples : Word
  edges : Table Word
  bins : Table Word
  last : Option Word
  lastTick : Nat
  recent : List Word
  deriving DecidableEq, Repr

/-! ## Work in flight -/

/-- Where a deferred result goes. -/
structure DeferredWrite where
  scalar : Bool
  reg : Nat
  lane : Nat
  value : Word
  poisoned : Bool
  deriving DecidableEq, Repr

/-- R105: which unit delivers a deferred result. -/
inductive DeferredKind | sfu | dotp | accld (tiles : List Nat) | hzread deriving DecidableEq, Repr

/-- R248, R255, R307, R316: results computed from operands read at issue and written at completion. -/
structure Deferred where
  group : Nat
  kind : DeferredKind
  writes : List DeferredWrite
  flags : BitVec 7
  counter : Nat
  sound : Option (BitVec 512)
  deriving DecidableEq, Repr

/-- R282 to R291, R308, R317: what an engine entry does. -/
inductive EntryKind
  | globalToTeam (off va count fmt : Nat)
  | teamToGlobal (off va count fmt : Nat)
  | cluster (dstTeam dst srcTeam src count : Nat) (credit : Option (Nat × Nat))
  | put (dst src count peer : Nat) (rop : Option Nat) (credit : Option (Nat × Nat × Nat))
  | get (dst src count peer : Nat)
  | collective (comm k op ty rop root count sent send recv : Nat)
  | tile (tile : Nat) (team : Bool) (base stride : Nat) (sexp : Int) (fmt : Word) (words : List (Word × Bool))
      (order scope : Nat)
  | front (team : Bool) (base : Nat) (words : List Word)
  deriving DecidableEq, Repr

/-- R282, R194, R349: an engine entry. `stalled` is the walk it waits for (R170), `overrun` the tick at which its tenant's
slice ended (R350), `fetched` what peers have answered, and `performed` that its accesses have been made, or its packets
sent, and only credits or answers are outstanding. -/
structure Entry where
  group : Nat
  team : Nat
  ctx : Nat
  tenant : Nat
  core : Nat
  agent : BitVec 16
  kind : EntryKind
  stamp : BitVec 32
  gens : Nat × Nat × Nat
  counter : Option Nat
  engine : Nat
  started : Bool
  startTick : Nat
  stalled : Option Nat
  overrun : Option Nat
  fetched : List Byte
  performed : Bool
  batch : Nat
  clause : Word64
  index : Nat
  opc : Nat
  sound : Option (BitVec 512)
  deriving DecidableEq, Repr

/-- R302: one member's issue of a joint operation. `word` is what R302 compares beside FMT and GANG: OPC, ACC, BS and
SHAPE. -/
structure Member where
  group : Nat
  opc : Nat
  word : Nat
  fmt : Word
  gang : Gang
  gsel : Nat
  ab : Nat
  stamp : BitVec 32
  gens : Nat × Nat × Nat
  clause : Word64
  index : Nat
  reuse : Bool
  fragment : Fragment
  deriving DecidableEq, Repr

/-- R302, R303: a joint matrix operation: one member held at its rendezvous, or every member from the rendezvous, at
`startTick`, to completion. `map` and `handle` are what BS names, `fetched` what a peer has answered. -/
structure JointOp where
  team : Nat
  acc : Nat
  bs : Nat
  n : Nat
  fmt : Word
  members : List Member
  ready : Bool
  map : Option OperandMap
  handle : Option TileHandle
  stalled : Option Nat
  fetched : List Byte
  startTick : Nat
  deriving DecidableEq, Repr

/-- R280: a delivery whose bytes have been performed and whose credit has not been made. -/
structure Credit where
  ctx : Nat
  endpoint : Option Nat
  team : Nat
  set : Nat
  source : Nat
  bytes : Nat
  agent : Option (BitVec 16)
  stamp : Nat
  deriving DecidableEq, Repr

/-- R403: a packet sent and not yet acknowledged: its destination, class and what it belongs to. -/
inductive Sent
  | entry (id : Nat)
  | lane (access lane : Nat)
  | barrier (domain phase : Nat)
  | response (tenant : Nat)
  deriving DecidableEq, Repr

/-- R403 to R405: an outgoing Jetstream packet. `left` says that it has gone out: none does while its class is paused on its
route. -/
structure Packet where
  dest : Nat
  cls : Nat
  tenant : Nat
  binding : Nat
  what : Sent
  bytes : List Byte
  left : Bool
  deriving DecidableEq, Repr

/-- R474: a collective of a context on this device: contributions by rank, when the first was staged, and whether it has
been faulted. -/
structure Staged where
  ctx : Nat
  comm : Nat
  k : Nat
  parts : Table FabricColl
  since : Nat
  failed : Bool
  deriving DecidableEq, Repr

/-- R397: the mailbox: command area, reply area, MSTAT and the command under way. -/
structure Mailbox where
  command : Table Word
  reply : Table Word
  busy : Bool
  drop : Bool
  result : BitVec 8
  tag : BitVec 16
  current : Option (BitVec 16 × BitVec 16 × List Word)
  draining : Bool
  deriving DecidableEq, Repr

/-- R402: a memory-tier port. -/
structure TierPort where
  capacity : Nat
  up : Bool
  deriving DecidableEq, Repr

/-! ## The module -/

/-- The state of the module. `released` lists, by tenant, the bindings that CTXDESTROY has released and that no context has
taken since (R489). `ticks` is the counter of die 0, and `skew` how far each other die's stands from it, in 1/16 tick (R428).
`dieTlb` holds the second-level TLBs (R165), `engineClocks` the stamp counters of the engine agents with a slot of their own,
by agent (R194), `paused` the classes that a peer pauses, keyed 8 * port + class, `pausing` the tenant for whose
full queue a port pauses the launch class (R336), `image` the firmware image (R413), `tailHeld` the device ring's ERRTAIL while no ring is set. -/
structure State where
  ticks : Word64
  clocks : Word64
  mem : List Host.Cell
  memPoison : Table Bool
  cores : Table Core
  dieTlb : Table (List TlbEntry)
  engineClocks : Table Word
  faults : Table FaultEntry
  walks : Table Walk
  tenants : Table Tenant
  contexts : Table Context
  launches : Table Launch
  teams : Table Team
  groups : Table Group
  accesses : Table Access
  deferred : Table Deferred
  entries : Table Entry
  joints : Table JointOp
  credits : Table Credit
  collectives : Table Staged
  sent : Table Packet
  mailbox : Mailbox
  deviceRing : Option ErrorRing
  tailHeld : Word
  devnum : Nat
  released : List (Nat × Nat)
  seq : Word
  uecnt : Word
  cecnt : Word
  lostmd : Word
  throt : Word
  ports : Table Bool
  paused : Table Bool
  pausing : Table Nat
  rerouting : Table Nat
  tiers : Table TierPort
  skewDie : Table Word
  skewPort : Table Word
  monitors : Table Monitor
  skew : Table Int
  image : List Byte
  fwstate : Nat
  throttled : Bool
  gated : Bool
  hotSince : Option Nat
  stopped : Bool
  channelErrors : Table Nat
  lostChannels : Table Bool
  lostLanes : Table Bool
  vectors : List Nat
  agenda : List Turn
  turn : Nat
  cur : Option Nat
  force : Option Forced
  nextId : Nat
  deriving DecidableEq, Repr

/-- R426: a sampler as it stands at reset: seeded with the die counter, which reads 0 (log entry 6). -/
def Sampler.reset : Sampler := { lfsr := 0, left := 0, tagNext := false }

/-- R10, R351: a core as it stands at reset (log entry 5: usable, with every feature). -/
def Core.reset : Core where
  usable := true
  feat := 0x3F
  owner := 0
  kind := .unassigned
  held := []
  issuing := none
  sliceStart := 0
  debts := []
  tlb := []
  lines := []
  queues := []
  visited := []
  staging := []
  samplers := [(0, Sampler.reset), (1, Sampler.reset), (2, Sampler.reset), (3, Sampler.reset)]
  uncorrectable := 0
  returnBy := none

/-- R338: the tenant table entry at reset: WEIGHT 1, SLICE 250, BG 1, WLOG2 4, every other field 0. -/
def tenantEntryReset : BitVec 512 :=
  BitVec.ofNat 512 (1 * 2 ^ 272 + 250 * 2 ^ 256 + 1 * 2 ^ 248 + 4 * 2 ^ 64)

/-- R338, R395, R411: a tenant at reset. -/
def Tenant.reset : Tenant where
  entry := tenantEntryReset
  tail := 0
  progress := 0
  lastLid := []
  fabric := []
  ring := none
  tailHeld := 0
  uestat := 0
  uemask := 0
  uesev := 0
  cestat := 0
  cemask := 0x10
  fep := 0
  hlog := 0
  fepSet := false

/-- R430: a monitor at reset. -/
def Monitor.reset : Monitor where
  bctl := 0
  alarmHi := 0
  min := 0xFFFFFFFF
  max := 0
  samples := 0
  edges := []
  bins := []
  last := none
  lastTick := 0
  recent := []

/-- The n entries from key k on, each holding a. -/
def tableFrom {α : Type} (a : α) : Nat → Nat → Table α
  | _, 0 => []
  | k, n + 1 => (k, a) :: tableFrom a (k + 1) n

/-- R402: the expanders that the firmware finds at a reset, of at most 4 TiB each. -/
def expandersAt (turn : Nat) : Table TierPort :=
  [0, 1].filterMap fun port => (Config.expander turn port).map fun n => (port, ⟨min n (2 ^ 42), true⟩)

/-- R428: how far the counters of dies 1 to 3 stand from die 0's after a reset. -/
def skewAt (turn : Nat) : Table Int := [1, 2, 3].map fun d => (d, Config.dieSkew turn d)

/-- The module right after reset: R413 with a verified image, no context, no tenant enabled, no launch;
counters at 0 (R322, R428). -/
def State.reset : State where
  ticks := 0
  clocks := 0
  mem := []
  memPoison := []
  cores := tableFrom Core.reset 0 Config.cores
  dieTlb := []
  engineClocks := []
  faults := []
  walks := []
  tenants := tableFrom Tenant.reset 0 64
  contexts := []
  launches := []
  teams := []
  groups := []
  accesses := []
  deferred := []
  entries := []
  joints := []
  credits := []
  collectives := []
  sent := []
  mailbox := { command := [], reply := [], busy := false, drop := false, result := 0, tag := 0,
               current := none, draining := false }
  deviceRing := none
  tailHeld := 0
  devnum := 0
  released := []
  seq := 0
  uecnt := 0
  cecnt := 0
  lostmd := 0
  throt := 0
  ports := []
  paused := []
  pausing := []
  rerouting := []
  tiers := expandersAt 0
  skewDie := []
  skewPort := []
  monitors := tableFrom Monitor.reset 0 64
  skew := skewAt 0
  image := Config.bootImage
  fwstate := 0
  throttled := false
  gated := false
  hotSince := none
  stopped := false
  channelErrors := []
  lostChannels := []
  lostLanes := []
  vectors := []
  agenda := []
  turn := 0
  cur := none
  force := none
  nextId := 1

end Sys2Proof.Machine
end

