-- ==== Sys2Proof/Machine/Front.lean ====
section
/-!
DEFINITION. Pareto fronts (spec/11 R311 to R315): comparing tuples, inserting one, and the overflow policies.
-/

namespace Sys2Proof.Machine

namespace HzSlot

/-- R94: the fields of the configuration word, which is bits 43:22 of `hzinit`. -/
def nkeys (h : HzSlot) : Nat := field h.config.toNat 21 19 + 1
def kint (h : HzSlot) : Bool := bitOf h.config.toNat 18
def maximised (h : HzSlot) (k : Nat) : Bool := bitOf h.config.toNat (10 + k)
def policy (h : HzSlot) : Nat := field h.config.toNat 9 8
def capacity (h : HzSlot) : Nat := field h.config.toNat 7 0 + 1

/-- R311: a slot as `hzinit` leaves it. -/
def init (config : BitVec 22) : HzSlot := ⟨config, [], 0, 0, 0, 0, 0, false⟩

end HzSlot

/-- R312: whether a word is an f32 NaN. -/
def wordNaN (w : Word) : Bool := decide (0x7F800000 < w.toNat % 2 ^ 31)

/-- R312: the place of a key among keys of its type. -/
def keyRank (kint : Bool) (w : Word) : Int :=
  if kint then w.toInt
  else if w.toNat < 2 ^ 31 then (w.toNat : Int) else -((w.toNat % 2 ^ 31 : Nat) : Int)

/-- R312: key k of a is better than that of b. -/
def keyBetter (h : HzSlot) (k : Nat) (a b : Word) : Bool :=
  if h.maximised k then decide (keyRank h.kint b < keyRank h.kint a)
  else decide (keyRank h.kint a < keyRank h.kint b)

/-- The keys of two tuples, numbered and paired. -/
def keyPairs (a b : Tuple) : List (Nat × Word × Word) :=
  (upFrom 0 a.keys.length).zip (a.keys.zip b.keys)

/-- R312: a dominates b. -/
def dominates (h : HzSlot) (a b : Tuple) : Bool :=
  (keyPairs a b).all (fun p => !keyBetter h p.1 p.2.2 p.2.1) &&
  (keyPairs a b).any (fun p => keyBetter h p.1 p.2.1 p.2.2)

/-- R312: every key of a compares equal to that of b. -/
def equalKeys (h : HzSlot) (a b : Tuple) : Bool :=
  (keyPairs a b).all fun p => decide (keyRank h.kint p.2.1 = keyRank h.kint p.2.2)

/-- R312: a stands before b in canonical order. -/
def canonicalBefore (h : HzSlot) (a b : Tuple) : Bool := go (keyPairs a b)
where
  go : List (Nat × Word × Word) → Bool
    | [] => decide (a.payload.toNat < b.payload.toNat)
    | p :: t =>
      if keyBetter h p.1 p.2.1 p.2.2 then true
      else if keyBetter h p.1 p.2.2 p.2.1 then false
      else go t

/-- A tuple at its place in a front in canonical order. -/
def placeTuple (h : HzSlot) (t : Tuple) : List Tuple → List Tuple
  | [] => [t]
  | u :: r => if canonicalBefore h t u then t :: u :: r else u :: placeTuple h t r

/-- R314 THIN: an f32 key as a multiple of 2^-149. -/
def exactKey (kint : Bool) (w : Word) : Int :=
  if kint then w.toInt
  else
    let e := field w.toNat 30 23
    let m := w.toNat % 2 ^ 23
    let x : Nat := if e = 0 then m else (2 ^ 23 + m) * 2 ^ (e - 1)
    if bitOf w.toNat 31 then -(x : Int) else x

/-- Whether a key is an infinity. -/
def keyInf (kint : Bool) (w : Word) : Bool := !kint && decide (w.toNat % 2 ^ 31 = 0x7F800000)

/-- R314 THIN: the gap between two keys 0; none for +infinity. -/
def keyGap (kint : Bool) (a b : Word) : Option Nat :=
  if keyInf kint a || keyInf kint b then (if a = b then some 0 else none)
  else some (exactKey kint a - exactKey kint b).natAbs

/-- Key 0 of a tuple. -/
def key0 (t : Tuple) : Word := t.keys.headD 0

/-- R314 THIN: the inner tuple with the least gap, the latest among ties; `best` is the choice so far. -/
def thinChoice (h : HzSlot) : Nat → List Tuple → Nat × Option Nat → Nat
  | i, a :: b :: c :: r, best =>
    let g := keyGap h.kint (key0 a) (key0 c)
    let take := match g, best.2 with
      | some x, some y => decide (x ≤ y)
      | some _, none => true
      | none, some _ => false
      | none, none => true
    thinChoice h (i + 1) (b :: c :: r) (if take then (i + 1, g) else best)
  | _, _, best => best.1

/-- R314: the front after its policy has met an overflow. `t` is the arrival, `old` the front before it.
The last in canonical order is the worst on key 0. -/
def overflowFront (h : HzSlot) (old new : List Tuple) : List Tuple :=
  match h.policy with
  | 0 => old
  | 2 => if new.length < 3 then new.dropLast else new.eraseIdx (thinChoice h 0 new (1, none))
  | _ => new.dropLast

/-- What an insertion came to. -/
structure Inserted where
  slot : HzSlot
  kept : Bool
  overs : Bool

/-- R313, R314: the insertion of one tuple. `overs` says that it left more than the capacity. -/
def insertTuple (h : HzSlot) (t : Tuple) : Inserted :=
  if !h.kint && t.keys.any wordNaN then ⟨{ h with nan := h.nan + 1 }, false, false⟩
  else if h.front.any (fun u => dominates h u t || (equalKeys h u t && decide (u.payload.toNat ≤ t.payload.toNat)))
  then ⟨{ h with discard := h.discard + 1 }, false, false⟩
  else
    let stays := h.front.filter fun u => !(dominates h t u || equalKeys h t u)
    let gone := h.front.length - stays.length
    let new := placeTuple h t stays
    let h1 := { h with front := new, insert := h.insert + 1, evict := h.evict + BitVec.ofNat 32 gone }
    if new.length ≤ h.capacity then ⟨h1, true, false⟩
    else ⟨{ h1 with front := overflowFront h h.front new, overs := h.overs + 1 }, true, true⟩

/-- Tuples inserted in turn: the slot, each kept or not, and the position of the first overflow. -/
def insertAll (h : HzSlot) (ts : List Tuple) : HzSlot × List Bool × Option Nat := go h 0 ts
where
  go (h : HzSlot) (i : Nat) : List Tuple → HzSlot × List Bool × Option Nat
    | [] => (h, [], none)
    | t :: r =>
      let o := insertTuple h t
      let (h1, ks, f) := go o.slot (i + 1) r
      (h1, o.kept :: ks, if o.overs then some i else f)

end Sys2Proof.Machine
end

