-- ==== Sys2Proof/Machine/Ops.lean ====
section
/-!
DEFINITION. Named reads and updates of the state: the records software writes (launch packet, code object
descriptor, tenant entry), the tables of agents, physical memory, and taking a trap. Every other file
reaches the state through these.
-/

namespace Sys2Proof.Machine

/-- The outcomes of this machine. -/
abbrev Out := Host.Outcome State Fault Refusal

/-- Bits lo to lo + n - 1 of a 512-bit record. -/
def recField (r : BitVec 512) (lo n : Nat) : Nat := r.toNat / 2 ^ lo % 2 ^ n

/-! ## The launch packet (R331) and the code object descriptor (R333) -/

namespace Launch

def lid (l : Launch) : Nat := recField l.packet 256 32
def ctx (l : Launch) : Nat := recField l.packet 360 8
def tenant (l : Launch) : Nat := recField l.packet 352 6
def prio (l : Launch) : Nat := recField l.packet 248 3
def pre0 (l : Launch) : Nat := recField l.packet 288 32
def pre1 (l : Launch) : Nat := recField l.packet 320 32
def srcdev (l : Launch) : Nat := recField l.packet 388 12
def dsrc (l : Launch) : Nat := recField l.packet 384 4
def dep (l : Launch) : Nat := recField l.packet 368 16
def darv (l : Launch) : Bool := decide (recField l.packet 252 1 = 1)
def cw (l : Launch) : Nat := recField l.packet 240 4
def ch (l : Launch) : Nat := recField l.packet 244 3
def tdx (l : Launch) : Nat := recField l.packet 192 16
def tdy (l : Launch) : Nat := recField l.packet 208 16
def tdz (l : Launch) : Nat := recField l.packet 224 16
def doneAt (l : Launch) : Nat := recField l.packet 128 64
def args (l : Launch) : Nat := recField l.packet 64 64
def code (l : Launch) : Nat := recField l.packet 0 64
def entry (l : Launch) : Nat := recField l.desc 0 64
def regs (l : Launch) : Nat := recField l.desc 64 11
def sregs (l : Launch) : Nat := recField l.desc 75 9
def widthCode (l : Launch) : Nat := recField l.desc 84 3
/-- R333: WIDTH 0 to 4 for 8 to 128 lanes. -/
def width (l : Launch) : Nat := 8 * 2 ^ l.widthCode
def groupCount (l : Launch) : Nat := recField l.desc 87 4
def teamMem (l : Launch) : Nat := recField l.desc 96 22
def acc (l : Launch) : Nat := recField l.desc 128 12
def hz (l : Launch) : Nat := recField l.desc 140 5
def feat (l : Launch) : Nat := recField l.desc 152 6
def det (l : Launch) : Bool := decide (recField l.desc 160 1 = 1)
def idem (l : Launch) : Bool := decide (recField l.desc 161 1 = 1)
def cogrid (l : Launch) : Bool := decide (recField l.desc 162 1 = 1)
def revocable (l : Launch) : Bool := decide (recField l.desc 163 1 = 1)
def codeSize (l : Launch) : Nat := recField l.desc 192 32
/-- R27: the number of teams of the grid. -/
def teamTotal (l : Launch) : Nat := l.tdx * l.tdy * l.tdz
/-- R26: the number of teams of a cluster. -/
def clusterSize (l : Launch) : Nat := l.cw * l.ch

end Launch

/-! ## The tenant table entry (R338) -/

namespace Tenant

def weight (t : Tenant) : Nat := recField t.entry 272 8
def slice (t : Tenant) : Nat := recField t.entry 256 16
def bg (t : Tenant) : Nat := recField t.entry 248 4
def fabhi (t : Tenant) : Nat := recField t.entry 236 12
def fablo (t : Tenant) : Nat := recField t.entry 224 12
def margin (t : Tenant) : Nat := recField t.entry 88 8
def guar (t : Tenant) : Nat := recField t.entry 80 8
def enabled (t : Tenant) : Bool := decide (recField t.entry 71 1 = 1)
def maxPrio (t : Tenant) : Nat := recField t.entry 68 3
def wlog2 (t : Tenant) : Nat := recField t.entry 64 4
def wbase (t : Tenant) : Nat := recField t.entry 0 64

end Tenant

/-! ## The clause header (R84) -/

def hdrTag (h : Word64) : Nat := field h.toNat 53 48
def hdrWaitd (h : Word64) : Nat := field h.toNat 31 24
def hdrSetd (h : Word64) : Nat := field h.toNat 23 21
def hdrGC (h : Word64) : Nat := field h.toNat 20 18
def hdrGB (h : Word64) : Nat := field h.toNat 17 15
def hdrGA (h : Word64) : Nat := field h.toNat 14 12
def hdrClass (h : Word64) : Nat := field h.toNat 6 4
def hdrNcount (h : Word64) : Nat := field h.toNat 3 0

/-- R85: the ENC subcode that a word raises as a header, if any. -/
def headerFault (h : Word64) : Option Nat :=
  if field h.toNat 63 54 ≠ 0x3FF then some 0x6
  else if field h.toNat 47 32 ≠ 0 ∨ field h.toNat 11 7 ≠ 0 then some 0x4
  else if 4 ≤ hdrClass h then some 0x5
  else none

/-- R86: the opcodes a class admits. -/
def classAdmits (cls opc : Nat) : Bool :=
  match cls with
  | 0 => decide (opc < 0x300)
  | 1 => (decide (0x300 ≤ opc) && decide (opc < 0x340)) ||
         (decide (0x080 ≤ opc) && decide (opc < 0x100)) || decide (opc = 0)
  | 2 => (decide (0x340 ≤ opc) && decide (opc < 0x360)) || decide (opc < 0x300)
  | _ => (decide (0x360 ≤ opc) && decide (opc < 0x3C0)) || decide (opc < 0x300)

/-! ## The tables of the state -/

namespace State

def setGroup (s : State) (gid : Nat) (g : Group) : State := { s with groups := s.groups.insert gid g }
def setTeam (s : State) (tid : Nat) (t : Team) : State := { s with teams := s.teams.insert tid t }
def setLaunch (s : State) (lid : Nat) (l : Launch) : State := { s with launches := s.launches.insert lid l }
def setContext (s : State) (c : Nat) (x : Context) : State := { s with contexts := s.contexts.insert c x }
def setTenant (s : State) (n : Nat) (t : Tenant) : State := { s with tenants := s.tenants.insert n t }
def setCore (s : State) (n : Nat) (c : Core) : State := { s with cores := s.cores.insert n c }
def modifyGroup (s : State) (gid : Nat) (f : Group → Group) : State := { s with groups := s.groups.update gid f }
def modifyTeam (s : State) (tid : Nat) (f : Team → Team) : State := { s with teams := s.teams.update tid f }
def modifyLaunch (s : State) (lid : Nat) (f : Launch → Launch) : State :=
  { s with launches := s.launches.update lid f }
def modifyContext (s : State) (c : Nat) (f : Context → Context) : State :=
  { s with contexts := s.contexts.update c f }
def modifyTenant (s : State) (n : Nat) (f : Tenant → Tenant) : State :=
  { s with tenants := s.tenants.update n f }
def modifyCore (s : State) (n : Nat) (f : Core → Core) : State := { s with cores := s.cores.update n f }
def modifyAccess (s : State) (n : Nat) (f : Access → Access) : State :=
  { s with accesses := s.accesses.update n f }
def modifyEntry (s : State) (n : Nat) (f : Entry → Entry) : State := { s with entries := s.entries.update n f }

/-- A fresh name for a piece of work. -/
def fresh (s : State) : Nat × State := (s.nextId, { s with nextId := s.nextId + 1 })

/-- R403, R476: whether the class of a packet is paused on its route. -/
def classPaused (s : State) (dest cls : Nat) : Bool :=
  s.paused.read (8 * Config.fabricRoute (s.ports.keys) dest cls + cls) false

/-- R403, R405: a packet for a device, with the tenant and binding of its sender; it goes out unless its class is paused. -/
def send (s : State) (dest cls tenant binding : Nat) (what : Sent) (bytes : List Byte) : State :=
  { s with sent := s.sent.insert s.nextId ⟨dest, cls, tenant, binding, what, bytes, !s.classPaused dest cls⟩
           nextId := s.nextId + 1 }

/-- R405: the binding of a context. -/
def bindingOf (s : State) (ctx : Nat) : Nat := ((s.contexts.get? ctx).map (·.binding)).getD 0

/-- R194: an engine agent with a slot of its own takes up an entry: its stamp, and its counter one on. -/
def engineStamp (s : State) (agent : Nat) : Nat × State :=
  let n := s.engineClocks.read agent 0
  (n.toNat, { s with engineClocks := Table.write s.engineClocks agent (n + 1) 0 })

end State

/-! ## What the capability block makes of the module (R10, R428) -/

namespace State

/-- R10: the usable HBM channels and fabric lanes. -/
def usableChannels (s : State) : Nat := Config.channels - s.lostChannels.length
def usableLanes (s : State) : Nat := Config.fabricLanes - s.lostLanes.length
/-- R10, R157: the bytes of local HBM: those of the channels that are usable. -/
def hbmBytes (s : State) : Nat := Config.channelBytes * s.usableChannels
/-- R164: MBASE, as the firmware sets it at boot. -/
def mbase (s : State) : Nat := Config.carveBase s.hbmBytes
/-- R428: the counter of a die. -/
def dieTicks (s : State) (die : Nat) : Word64 := s.ticks + BitVec.ofInt 64 (s.skew.read die 0 / 16)

end State

/-! ## Physical memory (R157) -/

/-- Where the CXL tier and host memory stand among physical locations. -/
abbrev tierBase : Nat := 2 ^ 53
abbrev hostBase : Nat := 2 ^ 54

/-- What a byte that nothing has written reads as. DESIGN CHOICE (log entry 3). -/
abbrev Memory.default : Byte := 0

/-- The canonical form of the memory list. -/
def Memory.wf (m : List Host.Cell) : Bool := Table.canonical m Memory.default

/-- The byte at a location. -/
def Memory.byte (m : List Host.Cell) (a : Nat) : Byte := Table.read m a Memory.default

/-- The byte at a location written. -/
def Memory.setByte (m : List Host.Cell) (a : Nat) (b : Byte) : List Host.Cell :=
  Table.write m a b Memory.default

/-- The n bytes from a. -/
def Memory.bytes (m : List Host.Cell) : Nat → Nat → List Byte
  | _, 0 => []
  | a, n + 1 => Memory.byte m a :: Memory.bytes m (a + 1) n

/-- Bytes written from a on. -/
def Memory.setBytes (m : List Host.Cell) : Nat → List Byte → List Host.Cell
  | _, [] => m
  | a, b :: t => Memory.setBytes (Memory.setByte m a b) (a + 1) t

/-- R462: the marks after n bytes are written at a: a word written whole loses its mark. -/
def clearPoison (marks : Table Bool) (a n : Nat) : Table Bool :=
  marks.filter fun p => !(decide (a ≤ 8 * p.1) && decide (8 * p.1 + 8 ≤ a + n))

/-- The word marks that n bytes at a meet. -/
def poisoned (marks : Table Bool) (a n : Nat) : Bool :=
  marks.any fun p => decide (8 * p.1 < a + n) && decide (a < 8 * p.1 + 8)

/-- R461: marks the words that n bytes at a touch. -/
def markPoison (marks : Table Bool) (a n : Nat) : Table Bool :=
  (upFrom (a / 8) ((a + n + 7) / 8 - a / 8)).foldl (fun m k => m.insert k true) marks

namespace State

/-- A write at a home L2 or target. -/
def writeMem (s : State) (a : Nat) (bytes : List Byte) : State :=
  { s with mem := Memory.setBytes s.mem a bytes
           memPoison := clearPoison s.memPoison a bytes.length }

/-- A read at a home L2 or target. -/
def readMem (s : State) (a n : Nat) : List Byte := Memory.bytes s.mem a n

/-- The little-endian value of n bytes at a. -/
def readNat (s : State) (a n : Nat) : Nat := leNat (s.readMem a n)

end State

/-! ## Team memory, tiles and registers -/

/-- The n bytes of a team allocation from off. -/
def teamBytes (t : Team) : Nat → Nat → List Byte
  | _, 0 => []
  | off, n + 1 => t.mem.read off 0 :: teamBytes t (off + 1) n

/-- Bytes written into a team allocation. -/
def setTeamBytes (t : Team) (off : Nat) (bytes : List Byte) : Team :=
  let m := (bytes.zip (upFrom off bytes.length)).foldl (fun m p => Table.write m p.2 p.1 0) t.mem
  { t with mem := m, memPoison := clearPoison t.memPoison off bytes.length }

/-- R298: word e of a tile. -/
def tileWord (t : Team) (tile e : Nat) : Word := t.tiles.read (1024 * tile + e) 0

/-- A tile word written. -/
def setTileWord (t : Team) (tile e : Nat) (w : Word) : Team :=
  { t with tiles := Table.write t.tiles (1024 * tile + e) w 0
           tilePoison := t.tilePoison.erase (1024 * tile + e) }

namespace Group

def vreg (g : Group) (n lane : Nat) : Word := g.v.read (128 * n + lane) 0
def sreg (g : Group) (n : Nat) : Word := g.s.read n 0
def xreg (g : Group) (k lane : Nat) : BitVec 16 := g.x.read (128 * k + lane) 0
def pred (g : Group) (k lane : Nat) : Bool := (g.q.read k 0).getLsbD lane
def counter (g : Group) (j : Nat) : Nat := g.d.read j 0
def vPend (g : Group) (n lane : Nat) : Bool := (g.vPending.get? (128 * n + lane)).isSome
def sPend (g : Group) (n : Nat) : Bool := (g.sPending.get? n).isSome
def vBad (g : Group) (n lane : Nat) : Bool := (g.vPoison.get? (128 * n + lane)).isSome
def sBad (g : Group) (n : Nat) : Bool := (g.sPoison.get? n).isSome

/-- A vector element written: its mark is cleared (R443). -/
def setV (g : Group) (n lane : Nat) (w : Word) : Group :=
  { g with v := Table.write g.v (128 * n + lane) w 0, vPoison := g.vPoison.erase (128 * n + lane) }

/-- A scalar register written. -/
def setS (g : Group) (n : Nat) (w : Word) : Group :=
  { g with s := Table.write g.s n w 0, sPoison := g.sPoison.erase n }

def setX (g : Group) (k lane : Nat) (w : BitVec 16) : Group :=
  { g with x := Table.write g.x (128 * k + lane) w 0 }

/-- One lane's bit of a predicate written. -/
def setPred (g : Group) (k lane : Nat) (b : Bool) : Group :=
  let m := g.q.read k 0
  let bit : LaneMask := 1#128 <<< lane
  { g with q := Table.write g.q k (if b then m ||| bit else m &&& ~~~bit) 0 }

def setCounter (g : Group) (j n : Nat) : Group := { g with d := Table.write g.d j n 0 }

/-- A 64-bit pair of scalar registers (R122). -/
def spair (g : Group) (n : Nat) : Word64 := g.sreg (n + 1) ++ g.sreg n

/-- R122: a 64-bit value to a scalar pair. -/
def setSPair (g : Group) (n : Nat) (x : Word64) : Group :=
  (g.setS n (x.truncate 32)).setS (n + 1) ((x >>> 32).truncate 32)

def pendV (g : Group) (n lane : Nat) (b : Bool) : Group :=
  { g with vPending := if b then g.vPending.insert (128 * n + lane) true
                       else g.vPending.erase (128 * n + lane) }

def pendS (g : Group) (n : Nat) (b : Bool) : Group :=
  { g with sPending := if b then g.sPending.insert n true else g.sPending.erase n }

def orFpstat (g : Group) (f : Flags) : Group := { g with fpstat := orFlags g.fpstat f }

/-- Whether any register is pending (R297). -/
def anyPending (g : Group) : Bool := !g.vPending.isEmpty || !g.sPending.isEmpty

end Group

/-! ## The group that issues -/

/-- What an instruction of a group works on. -/
structure Issuer where
  gid : Nat
  g : Group
  t : Team
  l : Launch
  c : Context
  deriving DecidableEq, Repr

/-- A group with its team, launch and context. -/
def issuerOf (s : State) (gid : Nat) : Option Issuer :=
  match s.groups.get? gid with
  | none => none
  | some g =>
    match s.teams.get? g.team, s.launches.get? g.launch with
    | some t, some l =>
      match s.contexts.get? l.ctx with
      | some c => some ⟨gid, g, t, l, c⟩
      | none => none
    | _, _ => none

/-- Runs a meaning for the issuing group. -/
def withIssuer (s : State) (k : Issuer → Out) : Out :=
  match s.cur with
  | none => .refused .noIssuer
  | some gid =>
    match issuerOf s gid with
    | none => .refused .noIssuer
    | some u => k u

/-- R119: a group of a handler work-group. -/
def Issuer.isHandler (u : Issuer) : Bool := u.l.handlerFor.isSome

/-- The header of the clause in progress. -/
def Issuer.header (u : Issuer) : Word64 := u.g.header.getD 0

/-- R371, R401: the group runs under Calm mode. -/
def Issuer.calm (u : Issuer) : Bool := decide (u.c.stage = .demoted) && !u.isHandler

/-- R53: whether lane l's bit of TT is set. -/
def Issuer.guard (u : Issuer) (tt : BitVec 8) (lane : Nat) : Bool :=
  let b := fun k => if u.g.pred k lane then 1 else 0
  bitOf tt.toNat (b (hdrGA u.header) * 4 + b (hdrGB u.header) * 2 + b (hdrGC u.header))

/-- The active lanes, ascending. -/
def Issuer.activeLanes (u : Issuer) : List Nat := (upFrom 0 u.l.width).filter u.g.active.getLsbD

/-- R53: the enabled lanes, ascending. -/
def Issuer.enabledLanes (u : Issuer) (tt : BitVec 8) : List Nat := u.activeLanes.filter (u.guard tt)

/-- A mask from a list of lanes. -/
def laneMask (lanes : List Nat) : LaneMask := lanes.foldl (fun m l => m ||| (1#128 <<< l)) 0

/-- The core's position in its die, and its die (R9, R31). -/
def dieOf (core : Nat) : Nat := core / Config.coresPerDie

/-- R31: the id of the agent in a slot of a core. -/
def agentId (core slot : Nat) : BitVec 16 :=
  BitVec.ofNat 16 (dieOf core * 2 ^ 13 + core % Config.coresPerDie * 2 ^ 7 + slot)

/-- R32: the engine agent acting for a group. -/
def engineOf (a : BitVec 16) : BitVec 16 := a ||| 0x8000

/-- R26: the cluster of a team, and its place in it. -/
def clusterOf (l : Launch) (t : Team) : Nat := t.index / max 1 l.clusterSize
def placeInCluster (l : Launch) (t : Team) : Nat := t.index % max 1 l.clusterSize

/-- R28: the logical rank of a group within its launch. -/
def logicalRank (l : Launch) (t : Team) (g : Group) : Nat := t.index * l.groupCount + g.g

/-! ## Contrail packets (R422 to R424) -/

/-- R422: 7-bit groups, the low group first; n bounds the number of groups. -/
def varBytes : Nat → Nat → List Byte
  | 0, _ => []
  | n + 1, x =>
    if x < 128 then [BitVec.ofNat 8 x] else BitVec.ofNat 8 (x % 128 + 128) :: varBytes n (x / 128)

/-- R422: a mask in w/8 bytes. -/
def maskBytes (w : Nat) (m : LaneMask) : List Byte := leBytes (w / 8) m.toNat

/-- R419: CEN and SEN of OBSCTL. -/
def Context.tracing (c : Context) : Bool := c.dbg && bitOf c.obsctl.toNat 0
def Context.sampling (c : Context) : Bool := c.dbg && bitOf c.obsctl.toNat 1

/-- R418, R419: the region that a context traces into: TRBASE and SEGLOG2. -/
def Context.segment (c : Context) : Nat × Nat := (c.trbase.toNat, field c.obsctl.toNat 12 8)

/-- R424: a core's staging for a context; nothing staged, where it holds none yet. -/
def stagingOf (s : State) (core ctx : Nat) : Staging :=
  match (s.cores.get? core).bind fun c => c.staging.get? ctx with
  | some st => st
  | none => ⟨[], 0, s.ticks.toNat, 0, s.ticks.toNat, 0, 0, (0, 0)⟩

/-- R424: a staging with a packet of a slot put in at a tick; one that does not wholly fit is dropped, and so is every later
one until the buffer has drained empty. `timed` packets move the time base of DT. The region is the one in force when the
buffer was last empty (R419; log entry 92). -/
def Staging.put (st : Staging) (now slot : Nat) (segment : Nat × Nat) (timed : Bool) (bytes : List Byte) : Staging :=
  if 0 < st.dropped ∨ 64 < st.bytes.length + bytes.length then { st with dropped := st.dropped + 1 }
  else { st with bytes := st.bytes ++ bytes
                 lastTimed := if timed then now else st.lastTimed
                 sinceSync := st.sinceSync + 1
                 lastEvent := now
                 lastSlot := slot
                 segment := if st.bytes.isEmpty then segment else st.segment }

/-- R424: stages a packet of a slot on a core for a context. -/
def stagePacket (s : State) (core ctx slot : Nat) (timed : Bool) (bytes : List Byte) : State :=
  let st := stagingOf s core ctx
  let seg := match s.contexts.get? ctx with
    | some c => c.segment
    | none => st.segment
  s.modifyCore core fun c => { c with staging := c.staging.insert ctx (st.put s.ticks.toNat slot seg timed bytes) }

/-- R423: whether a packet of a slot would stand, in this tick, after one of a higher slot. -/
def outOfOrder (s : State) (core ctx slot : Nat) : Bool :=
  let st := stagingOf s core ctx
  decide (st.lastEvent = s.ticks.toNat) && decide (slot < st.lastSlot)

/-- R422: DT of the next timed packet of a core. -/
def deltaBytes (s : State) (core ctx : Nat) : List Byte :=
  varBytes 10 (s.ticks.toNat - (stagingOf s core ctx).lastTimed)

/-- R422: a packet of a group, where its context is traced and it is no handler. -/
def tracePacket (s : State) (u : Issuer) (timed : Bool) (bytes : List Byte) : State :=
  if u.c.tracing && !u.isHandler then stagePacket s u.t.core u.l.ctx u.g.slot timed bytes else s

/-- R422: a slot as a byte. -/
def slotByte (g : Group) : Byte := BitVec.ofNat 8 (g.slot % 128)

/-! ## Taking a trap (R111, R437) -/

/-- A fault about to be raised: its class and subcode, and what the record needs beyond the group's state. -/
structure Raise where
  cls : FaultClass
  sub : Nat
  lane : Nat
  addr : Nat
  detail : Nat
  mdsnap : BitVec 128
  deriving DecidableEq, Repr

/-- A group-level fault of a class. -/
def Raise.group (cls : FaultClass) (sub detail : Nat) : Raise := ⟨cls, sub, 0xFF, 0, detail, 0⟩

/-- R31, R380: the number of the step in which a fault arises, counted; 0 outside Calm mode. -/
def faultStep (u : Issuer) : Nat := if u.calm then (u.c.steps.toNat + 1) % 2 ^ 64 else 0

/-- The description of a fault, before its record is written. -/
def trapInfo (u : Issuer) (r : Raise) (enabled : LaneMask) (ops : List OpSlot) (scalar : Bool) :
    TrapInfo where
  cls := r.cls
  sub := BitVec.ofNat 16 r.sub
  lane := r.lane
  addr := r.addr
  detail := BitVec.ofNat 32 r.detail
  enabled := enabled
  ops := ops
  scalar := scalar
  gang := false
  onHeader := false
  mdsnap := r.mdsnap
  engine := none
  step := faultStep u
  calm := u.calm

/-- R426: what a tagged instruction's record says when it did not complete: TWB 0xFFFF, STALL bit 15. -/
def soundFailed (r : BitVec 512) : BitVec 512 := r ||| BitVec.ofNat 512 (0xFFFF * 2 ^ 240 + 2 ^ 207)

/-- R426: a finished Sounding record, waiting to be written to the context's ring. -/
def pushSound (s : State) (ctx : Nat) (r : BitVec 512) : State :=
  s.modifyContext ctx fun c => { c with soundQ := c.soundQ ++ [r] }

/-- R427: a bit of STALL set in a record that is being made. -/
def stalled (r : Option (BitVec 512)) (k : Nat) : Option (BitVec 512) := r.map fun x => x ||| (1#512 <<< (192 + k))

/-- R427: a bit of STALL of a group's tagged instruction. -/
def Group.stall (g : Group) (k : Nat) : Group := { g with sound := stalled g.sound k }

/-- The tagged instruction of a group ends: its record, if it has one, with f applied. -/
def soundEnd (s : State) (ctx : Nat) (r : Option (BitVec 512)) (f : BitVec 512 → BitVec 512) : State :=
  match r with
  | none => s
  | some x => pushSound s ctx (f x)

/-- R326, R442: which comparator the next issue of the recorded instruction is free of: the one that caused the
trap, numbered, with whether it is a watchpoint. -/
def suppressedBy (i : TrapInfo) : Option (Nat × Bool) :=
  if i.cls = .debug ∧ i.sub = 2 then some (i.detail.toNat, false)
  else if i.cls = .debug ∧ i.sub = 3 then some (i.detail.toNat, true)
  else none

/-- R111: the group stops at its faulting instruction; nothing else of it changes. Its clause, index,
latches and registers are those before the instruction, and its record is written once every earlier
instruction has completed (R436). -/
def takeTrap (s : State) (u : Issuer) (i : TrapInfo) : State :=
  soundEnd (s.setGroup u.gid { u.g with status := .trapping, wait := none, trap := some i, sound := none
                                        haltAsked := false
                                        suppressed := suppressedBy i })
    u.l.ctx u.g.sound soundFailed

/-- R59: whether a predicate register keeps its value where a group takes up a recorded state: it is live under the PLIVE
now in force, and a handler wrote it since, or the record held it. -/
def keepsPredicate (g : Group) (saved : BitVec 8) (k : Nat) : Bool :=
  g.plive.getLsbD k && (saved.getLsbD k || decide (k ∈ g.handlerWrote))

/-- R59: the predicates of a group that takes up a recorded state; the others are 0. -/
def applyLiveness (g : Group) : Group :=
  match g.savedLive with
  | none => { g with handlerWrote := [] }
  | some saved => { g with q := g.q.filter (fun p => keepsPredicate g saved p.1), savedLive := none, handlerWrote := [] }

/-- R113, R326, R442: the return from a trap, at the group's current PC. `ncount` is NCOUNT of the clause
there. With SKIP the instruction at the PC has no effect and issue continues after it. -/
def resumeGroup (g : Group) (skip : Bool) (ncount : Nat) : Group :=
  let g1 := applyLiveness { g with status := .running, wait := none, trap := none, header := none, addrNext := true, entered := false,
                                   suppressed := if skip then none else g.suppressed
                                   sound := if skip then none else g.sound, counted := g.counted && !skip }
  let idx := if skip then g.index + 1 else g.index
  if ncount < idx then
    { g1 with clause := g.clause + BitVec.ofNat 64 (8 * (ncount + 2)), index := 0, latches := [] }
  else { g1 with index := idx, latches := if idx = 0 then [] else g.latches }

end Sys2Proof.Machine
end

