-- ==== Sys2Proof/Machine/Operands.lean ====
section
/-!
DEFINITION. Operands (spec/03 R62, spec/04 R97 to R107): what each operand code reads in a lane, the faults
of naming a register, and writing results.
-/

namespace Sys2Proof.Machine

/-- R437: the fields of an instruction, as DETAIL and OPS number them. -/
abbrev fieldD : Nat := 0
abbrev fieldA : Nat := 1
abbrev fieldB : Nat := 2
abbrev fieldC : Nat := 3
abbrev fieldS : Nat := 4
abbrev fieldOff : Nat := 5

/-- One operand an instruction names: `size` registers from the one named, `align` the multiple that the
first must be of (1, 2 for a pair, 4), and whether it is written or read. -/
structure Use where
  field : Nat
  code : BitVec 11
  size : Nat
  align : Nat
  write : Bool
  deriving DecidableEq, Repr

/-- A 32-bit source. -/
def src (field : Nat) (code : BitVec 11) : Use := ⟨field, code, 1, 1, false⟩
/-- A 64-bit source (R100). -/
def src64 (field : Nat) (code : BitVec 11) : Use := ⟨field, code, 2, 2, false⟩
/-- A 32-bit destination. -/
def dst (code : BitVec 11) : Use := ⟨fieldD, code, 1, 1, true⟩
/-- A 64-bit destination. -/
def dst64 (code : BitVec 11) : Use := ⟨fieldD, code, 2, 2, true⟩
/-- A source of one of the two widths. -/
def srcW (w : IWidth) (field : Nat) (code : BitVec 11) : Use :=
  match w with
  | .w32 => src field code
  | .w64 => src64 field code
/-- A destination of one of the two widths. -/
def dstW (w : IWidth) (code : BitVec 11) : Use :=
  match w with
  | .w32 => dst code
  | .w64 => dst64 code
/-- A run of registers, none of them aligned (R253, R313, R316). -/
def srcRun (field : Nat) (code : BitVec 11) (n : Nat) : Use := ⟨field, code, n, 1, false⟩
def dstRun (code : BitVec 11) (n : Nat) : Use := ⟨fieldD, code, n, 1, true⟩

/-! ## Reading -/

/-- The first register of an operand in a lane: a vector register's number, direct or indexed (R99). -/
def vectorReg (g : Group) (code : BitVec 11) (lane : Nat) : Option Nat :=
  match operandOf code with
  | .v n => some n
  | .indexed k => some (g.xreg k lane).toNat
  | _ => none

/-- R104: a latch element. -/
def latchElem (g : Group) (k lane : Nat) : Option (Bool × Word64) :=
  match g.latches[k]? with
  | none => none
  | some e => match e.elems.get? lane with
    | none => none
    | some x => some (e.wide, x)

/-- R82 rd: the 32-bit value of an operand in a lane. -/
def rd (u : Issuer) (code : BitVec 11) (lane : Nat) : Word :=
  match operandOf code with
  | .v n => u.g.vreg n lane
  | .indexed k => u.g.vreg (u.g.xreg k lane).toNat lane
  | .latch k => match latchElem u.g k lane with
    | some (_, x) => x.truncate 32
    | none => 0
  | .laneid => BitVec.ofNat 32 lane
  | .s n => u.g.sreg n
  | .zero => 0
  | .reserved => 0

/-- R82 rd: the 64-bit value of an operand in a lane (R100, R122). -/
def rd64 (u : Issuer) (code : BitVec 11) (lane : Nat) : Word64 :=
  match operandOf code with
  | .v n => u.g.vreg (n + 1) lane ++ u.g.vreg n lane
  | .indexed k => let n := (u.g.xreg k lane).toNat; u.g.vreg (n + 1) lane ++ u.g.vreg n lane
  | .latch k => match latchElem u.g k lane with
    | some (_, x) => x
    | none => 0
  | .laneid => BitVec.ofNat 64 lane
  | .s n => u.g.spair n
  | .zero => 0
  | .reserved => 0

/-- The value of an operand of either width, as a Nat. -/
def rdW (u : Issuer) (w : IWidth) (code : BitVec 11) (lane : Nat) : Nat :=
  match w with
  | .w32 => (rd u code lane).toNat
  | .w64 => (rd64 u code lane).toNat

/-- Register D + k of a run in a lane. -/
def rdRun (u : Issuer) (code : BitVec 11) (k lane : Nat) : Word :=
  match operandOf code with
  | .v n => u.g.vreg (n + k) lane
  | .indexed j => u.g.vreg ((u.g.xreg j lane).toNat + k) lane
  | .s n => u.g.sreg (n + k)
  | _ => 0

/-! ## Faults of operands (R434 OPER, R439) -/

/-- R439: DETAIL of an operand fault. -/
def operDetail (field : Nat) (code : BitVec 11) (upper : Nat) : Nat :=
  code.toNat + 2048 * field + 65536 * upper

/-- An operand fault of a lane. -/
def operRaise (sub lane field : Nat) (code : BitVec 11) (upper : Nat) : Raise :=
  ⟨.oper, sub, lane, 0, operDetail field code upper, 0⟩

/-- The first k below n for which p holds. -/
def firstWhere (p : Nat → Bool) : List Nat → Option Nat
  | [] => none
  | k :: t => if p k then some k else firstWhere p t

/-- R98 to R100, R107 for `size` registers from n in a file of `limit`: REG_RANGE, PAIR, IN_FLIGHT. A
misaligned n names no pair or run, so only n itself is held against the file's size. R251 calls an odd 64-bit operand of cvt
an illegal encoding and cites R100, whose misaligned-pair fault is raised (log entry 90). -/
def fileFault (use : Use) (lane n limit : Nat) (pend : Nat → Bool) : Option Raise :=
  let named := if n % use.align = 0 then use.size else 1
  match firstWhere (fun k => decide (limit ≤ n + k)) (upFrom 0 named) with
  | some k => some (operRaise 0x1 lane use.field use.code k)
  | none =>
    if n % use.align ≠ 0 then some (operRaise 0x3 lane use.field use.code 0)
    else match firstWhere (fun k => pend (n + k)) (upFrom 0 use.size) with
      | some k => some (operRaise 0x4 lane use.field use.code k)
      | none => none

/-- R99 for an indexed operand: PAIR, then INDEX_BOUND, then IN_FLIGHT. A pair whose odd register lies at
or above REGS is a misaligned pair; a run of four whose last register does is out of bounds (R261). -/
def indexedFault (u : Issuer) (use : Use) (lane n : Nat) : Option Raise :=
  let pairBad := decide (n % use.align ≠ 0) || (decide (use.align = 2) && decide (u.l.regs ≤ n + 1))
  if pairBad then some (operRaise 0x3 lane use.field use.code 0)
  else if u.l.regs < n + use.size then some (operRaise 0x2 lane use.field use.code n)
  else match firstWhere (fun k => u.g.vPend (n + k) lane) (upFrom 0 use.size) with
    | some k => some (operRaise 0x4 lane use.field use.code k)
    | none => none

/-- R104: the faults of reading a latch. -/
def latchFault (u : Issuer) (use : Use) (lane k : Nat) : Option Raise :=
  if u.g.latches.length ≤ k then some (operRaise 0x5 lane use.field use.code 0)
  else match latchElem u.g k lane with
    | none => some (operRaise 0x6 lane use.field use.code 0)
    | some (wide, _) =>
      if wide = decide (use.size = 2) then none else some (operRaise 0x7 lane use.field use.code 0)

/-- R434 OPER: the first fault of one operand in a lane. -/
def useFault (u : Issuer) (lane : Nat) (use : Use) : Option Raise :=
  match operandOf use.code with
  | .v n => fileFault use lane n u.l.regs (fun r => u.g.vPend r lane)
  | .s n => fileFault use lane n u.l.sregs u.g.sPend
  | .indexed k => indexedFault u use lane (u.g.xreg k lane).toNat
  | .latch k => latchFault u use lane k
  | _ => none

/-- R439: DETAIL of POISON: the register, and the lane pair. -/
def poisonRaise (lane reg : Nat) : Raise := ⟨.err, 0x1, lane, 0, reg + 65536 * (lane / 2), 0⟩

/-- R443: the first poisoned register that an operand reads in a lane. -/
def usePoison (u : Issuer) (lane : Nat) (use : Use) : Option Raise :=
  if use.write then none else
  match operandOf use.code with
  | .s n => (firstWhere (fun k => u.g.sBad (n + k)) (upFrom 0 use.size)).map fun k => poisonRaise lane (n + k)
  | _ =>
    match vectorReg u.g use.code lane with
    | none => none
    | some n =>
      (firstWhere (fun k => u.g.vBad (n + k) lane) (upFrom 0 use.size)).map fun k => poisonRaise lane (n + k)

/-- The first result of f along a list. -/
def firstSome {α β : Type} (f : α → Option β) : List α → Option β
  | [] => none
  | a :: t => match f a with
    | some b => some b
    | none => firstSome f t

/-- R435, 4: the first fault of a lane's operands: POISON, then the OPER checks by field. -/
def laneFault (u : Issuer) (uses : List Use) (lane : Nat) : Option Raise :=
  match firstSome (usePoison u lane) uses with
  | some r => some r
  | none => firstSome (useFault u lane) uses

/-- R81: the fault of the lowest enabled lane that fails. -/
def lanesFault (u : Issuer) (uses : List Use) (lanes : List Nat) : Option Raise :=
  firstSome (laneFault u uses) lanes

/-- The operands of a scalar-marked or group instruction, checked once; LANE is 0xFF (R437). -/
def scalarFault (u : Issuer) (uses : List Use) : Option Raise :=
  (laneFault u uses 0).map fun r => { r with lane := 0xFF }

/-- R437: the operands for the record's slots. -/
def opSlots (uses : List Use) : List OpSlot :=
  uses.map fun x => ⟨x.field, x.code.toNat, decide (2 ≤ x.align), x.write⟩

/-! ## Writing results -/

/-- What one lane, or the one execution of a scalar-marked instruction, produces: the words of its
destination run, predicate writes, an index-register write, and flags. -/
structure LaneOut where
  words : List Word
  preds : List (Nat × Bool)
  index : Option (Nat × BitVec 16)
  flags : Flags
  deriving DecidableEq, Repr

/-- A 32-bit result. -/
def out32 (x : Nat) : LaneOut := ⟨[BitVec.ofNat 32 x], [], none, 0⟩
/-- A 64-bit result (R122). -/
def out64 (x : Nat) : LaneOut := ⟨[BitVec.ofNat 32 x, BitVec.ofNat 32 (x / 2 ^ 32)], [], none, 0⟩
/-- A result of one of the two widths. -/
def outW (w : IWidth) (x : Nat) : LaneOut :=
  match w with
  | .w32 => out32 x
  | .w64 => out64 x
/-- Predicate writes only. -/
def outPreds (ps : List (Nat × Bool)) : LaneOut := ⟨[], ps, none, 0⟩
/-- A result with flags. -/
def withFlags (o : LaneOut) (f : Flags) : LaneOut := { o with flags := f }

/-- The words of a run written into a lane's registers from n on. -/
def writeRun (g : Group) (lane : Nat) : Nat → List Word → Group
  | _, [] => g
  | n, w :: t => writeRun (g.setV n lane w) lane (n + 1) t

/-- The words of a run written into scalar registers from n on. -/
def writeScalars (g : Group) : Nat → List Word → Group
  | _, [] => g
  | n, w :: t => writeScalars (g.setS n w) (n + 1) t

/-- Predicate writes of a lane, in order. -/
def writePreds (g : Group) (lane : Nat) : List (Nat × Bool) → Group
  | [] => g
  | (k, b) :: t => writePreds (g.setPred k lane b) lane t

/-- Everything a lane writes. `at0` is the group as it stood at issue: a destination v[xk] is named by
the index register read then (R204). -/
def writeLane (at0 : Group) (d : Option (BitVec 11)) (g : Group) (lane : Nat) (o : LaneOut) : Group :=
  let g1 := match d.bind (fun c => vectorReg at0 c lane) with
    | some n => writeRun g lane n o.words
    | none => g
  let g2 := writePreds g1 lane o.preds
  let g3 := match o.index with
    | some (k, x) => g2.setX k lane x
    | none => g2
  g3.orFpstat o.flags

/-- The lanes' results written, in ascending lane order. -/
def writeLanes (at0 : Group) (d : Option (BitVec 11)) (g : Group) : List (Nat × LaneOut) → Group
  | [] => g
  | (l, o) :: t => writeLanes at0 d (writeLane at0 d g l o) t

/-- R103: the latch element of a result. -/
def latchWord (ws : List Word) : Word64 := BitVec.ofNat 64 (leNatWords ws)
where
  /-- Words, the first one lowest. -/
  leNatWords : List Word → Nat
    | [] => 0
    | w :: t => w.toNat + 2 ^ 32 * leNatWords t

/-- R103: a void entry. -/
def voidEntry : Latch := ⟨false, []⟩

/-- R103: the entry that a single vector result shifts in. -/
def resultEntry (wide : Bool) (outs : List (Nat × LaneOut)) : Latch :=
  ⟨wide, outs.map fun p => (p.1, latchWord p.2.words)⟩

end Sys2Proof.Machine
end

