-- ==== Sys2Proof/Machine/Issue.lean ====
section
/-!
DEFINITION. How an instruction of a group takes effect: the checks before any effect (spec/21 R435), the
per-lane and the once-for-the-group forms, the latch shift (spec/04 R103), the advance to the next
instruction, and control transfers.
-/

namespace Sys2Proof.Machine

/-! ## After an instruction -/

/-- The clause that follows the one in progress (R83). -/
def nextClause (u : Issuer) : Word64 := u.g.clause + BitVec.ofNat 64 (8 * (hdrNcount u.header + 2))

/-- The group at the start of the clause at an address: no latch is filled (R103) and the header is to be
read. -/
def atClause (g : Group) (a : Word64) : Group :=
  { g with clause := a, index := 0, header := none, latches := [], entered := false }

/-- R103, R357: an instruction has issued without fault: it counts, its result enters b0, and the group
stands at the next word of the clause, or at the next clause. -/
def advance (u : Issuer) (g : Group) (entry : Latch) : Group :=
  let g1 := { g with ic := g.ic + 1, suppressed := none, status := .running, wait := none, sound := none, counted := false }
  if hdrNcount u.header ≤ g.index then atClause g1 (nextClause u)
  else { g1 with index := g.index + 1, latches := (entry :: g.latches).take 4 }

/-- R35: a group's new state, once its instruction has completed. -/
def finish (s : State) (u : Issuer) (g : Group) (entry : Latch) : State :=
  soundEnd (s.setGroup u.gid (advance u g entry)) u.l.ctx u.g.sound id

/-- As finish, for an instruction in flight: it takes the Sounding record along. -/
def finishInFlight (s : State) (u : Issuer) (g : Group) (entry : Latch) : State :=
  s.setGroup u.gid (advance u g entry)

/-- A transfer of control: the instruction counts, and the group stands at the clause at `a`. `taken`
and `byAddress` are what the next CLAUSE packet says of it (R422). -/
def transfer (s : State) (u : Issuer) (g : Group) (a : Word64) (taken byAddress : Bool) : State :=
  soundEnd (s.setGroup u.gid (atClause { g with ic := g.ic + 1, suppressed := none, sound := none, counted := false
                                                taken := taken, addrNext := byAddress } a))
    u.l.ctx u.g.sound id

/-- R92: the target of a format X word. -/
def targetOf (u : Issuer) (f : FormX) : Word64 :=
  BitVec.ofNat 64 (wrap ((u.g.clause.toNat : Int) + 8 * sext f.tgt.toNat 32) 64)

/-! ## Faults -/

/-- A fault of a per-lane instruction with these operands. -/
def trapLanes (s : State) (u : Issuer) (r : Raise) (lanes : List Nat) (uses : List Use) : State :=
  takeTrap s u (trapInfo u r (laneMask lanes) (opSlots uses) false)

/-- A fault of a scalar-marked or group instruction with these operands. -/
def trapScalar (s : State) (u : Issuer) (r : Raise) (uses : List Use) : State :=
  takeTrap s u (trapInfo u r u.g.active (opSlots uses) true)

/-- A fault of a word that names no operand slots. -/
def trapPlain (s : State) (u : Issuer) (r : Raise) : State :=
  takeTrap s u (trapInfo u r u.g.active [] false)

/-! ## The two forms -/

/-- What a per-lane instruction is: TT, SC, its destination (none with NW = 1 or without a result), its
sources in field order, and the size of the latch element it leaves (0: none). -/
structure LaneForm where
  tt : BitVec 8
  sc : Bool
  dest : Option Use
  sources : List Use
  latch : Nat
  deriving DecidableEq, Repr

/-- The operands the instruction names, in the order D, A, B, C. -/
def LaneForm.uses (k : LaneForm) : List Use := k.dest.toList ++ k.sources

/-- R102: a destination that NW = 1 leaves out. -/
def destUnless (nw : Bool) (d : Use) : Option Use := if nw then none else some d

/-- R103: the latch entry of a per-lane instruction. -/
def laneEntry (k : LaneForm) (outs : List (Nat × LaneOut)) : Latch :=
  match k.latch with
  | 0 => voidEntry
  | n => resultEntry (decide (n = 2)) outs

/-- The outcome of a per-lane instruction once its checks have passed. -/
def runLanes (s : State) (u : Issuer) (k : LaneForm) (f : Nat → LaneOut) : State :=
  let outs := (u.enabledLanes k.tt).map fun l => (l, f l)
  finish s u (writeLanes u.g (k.dest.map (fun d => d.code)) u.g outs) (laneEntry k outs)

/-- The scalar registers that a scalar-marked instruction writes. -/
def writeScalarDest (g : Group) (k : LaneForm) (o : LaneOut) : Group :=
  match k.dest with
  | some d =>
    match operandOf d.code with
    | .s n => writeScalars g n o.words
    | _ => g
  | none => g

/-- R101, R205: a scalar-marked instruction executes once, and its latch entry is void. -/
def runScalar (s : State) (u : Issuer) (k : LaneForm) (f : Nat → LaneOut) : State :=
  let o := f 0
  finish s u ((writeScalarDest u.g k o).orFpstat o.flags) voidEntry

/-- R54, R81, R204: a short-latency instruction. `pre` is the group-level check of its entry; `f` what a
lane computes from the state at issue. -/
def vectorOp (s : State) (k : LaneForm) (pre : Issuer → Option Raise) (f : Issuer → Nat → LaneOut) : Out :=
  withIssuer s fun u =>
    match pre u with
    | some r => .next (trapLanes s u r (u.enabledLanes k.tt) k.uses)
    | none =>
      if k.sc then
        match scalarFault u k.uses with
        | some r => .next (trapScalar s u r k.uses)
        | none => .next (runScalar s u k (f u))
      else
        match lanesFault u k.uses (u.enabledLanes k.tt) with
        | some r => .next (trapLanes s u r (u.enabledLanes k.tt) k.uses)
        | none => .next (runLanes s u k (f u))

/-- R435: a per-lane instruction with a check of its own in each enabled lane. -/
def checkedOp (s : State) (tt : BitVec 8) (uses : List Use) (pre : Issuer → Option Raise)
    (fault : Issuer → Nat → Option Raise) (body : Issuer → State) : Out :=
  withIssuer s fun u =>
    match pre u with
    | some r => .next (trapLanes s u r (u.enabledLanes tt) uses)
    | none =>
      match firstSome (fault u) (u.enabledLanes tt) with
      | some r => .next (trapLanes s u r (u.enabledLanes tt) uses)
      | none => .next (body u)

/-- No group-level check. -/
def noCheck (_ : Issuer) : Option Raise := none

/-- R260: a group instruction: its group-level checks, then its scalar operands, then its effect. -/
def groupOp (s : State) (uses : List Use) (pre : Issuer → Option Raise) (body : Issuer → Out) : Out :=
  withIssuer s fun u =>
    match pre u with
    | some r => .next (trapScalar s u r uses)
    | none =>
      match scalarFault u uses with
      | some r => .next (trapScalar s u r uses)
      | none => body u

/-- The value of a scalar operand of a group instruction. -/
def sval (u : Issuer) (code : BitVec 11) : Nat := (rd u code 0).toNat
/-- The value of a scalar pair operand. -/
def sval64 (u : Issuer) (code : BitVec 11) : Nat := (rd64 u code 0).toNat

/-- Writes the scalar that a destination field names. -/
def setScalar (g : Group) (code : BitVec 11) (w : Nat) : Group :=
  match operandOf code with
  | .s n => g.setS n (BitVec.ofNat 32 w)
  | _ => g

/-- Writes the scalar pair that a destination field names. -/
def setScalarPair (g : Group) (code : BitVec 11) (x : Nat) : Group :=
  match operandOf code with
  | .s n => g.setSPair n (BitVec.ofNat 64 x)
  | _ => g

/-! ## Blocking (R37, R38) -/

/-- The group reaches a blocking point whose condition is not yet true. It keeps its place. -/
def block (s : State) (u : Issuer) (g : Group) (w : Wait) : State :=
  s.setGroup u.gid { g with status := .blocked, wait := some w }

/-- R42, R357: a wait has ended: its instruction counts, and the group takes up issue at what follows. After a resumption the
clause in progress has its CLAUSE packet still to come (R432). -/
def wakeAdvance (g : Group) : Group :=
  let n := match g.header with
    | some h => hdrNcount h
    | none => g.index
  let g1 := { g with ic := g.ic + 1, status := .running, wait := none, sound := none, suppressed := none, counted := false,
                     changed := none, keptIC := none }
  if n ≤ g.index then atClause g1 (g.clause + BitVec.ofNat 64 (8 * (n + 2)))
  else { g1 with index := g.index + 1, header := none, entered := !g.addrNext
                 latches := (voidEntry :: g.latches).take 4 }

/-- The same for an instruction that has counted at issue. -/
def wakeCounted (g : Group) : Group := wakeAdvance { g with ic := g.ic - 1 }

/-- R165, R167: a parked instruction takes up issue again at its own index. -/
def wakeReissue (g : Group) : Group :=
  { g with status := .running, wait := none, header := none, entered := (g.entered || g.header.isSome) && !g.addrNext }

/-- R108: whether the counter of the clause can rise. -/
def counterFull (u : Issuer) : Bool := decide (63 ≤ u.g.counter (hdrSetd u.header))

/-- R427: an instruction that cannot issue yet waits in place; its record, if it is tagged, says why. -/
def stallIn (s : State) (u : Issuer) (k : Nat) : State := if u.g.sound.isNone then s else s.setGroup u.gid (u.g.stall k)

/-- R108: the counter of the clause rises at the issue of a long-latency instruction. -/
def raiseCounter (u : Issuer) (g : Group) : Group :=
  g.setCounter (hdrSetd u.header) (g.counter (hdrSetd u.header) + 1)

/-- R108: a counter falls at completion. -/
def lowerCounter (g : Group) (j : Nat) : Group := g.setCounter j (g.counter j - 1)

end Sys2Proof.Machine
end

