-- ==== Sys2Proof/Machine/Gang.lean ====
section
/-!
DEFINITION. Groups held at a rendezvous (spec/11 R302; spec/21 R439, R446): who is held, the undoing of a joint
operation, and gang faults.
-/

namespace Sys2Proof.Machine

/-- R302: a group held at a rendezvous: the number of its joint operation, what it issued, and the group. -/
structure Held where
  op : Nat
  m : Member
  u : Issuer

/-- The groups of a team that are held. A joint operation that is not ready has one member. -/
def heldIn (s : State) (tid : Nat) : List Held :=
  s.joints.filterMap fun p =>
    if p.2.team = tid ∧ p.2.ready = false then
      match p.2.members with
      | [] => none
      | m :: _ => (issuerOf s m.group).map fun u => ⟨p.1, m, u⟩
    else none

/-- The held group with an in-team number. -/
def heldAs (hs : List Held) (g : Nat) : Option Held := hs.find? fun h => decide (h.u.g.g = g)

/-- R439: the positions of a gang for whose member p holds. -/
def gangPositions (gang : Gang) (p : Nat → Bool) : Nat :=
  maskOf gang.length fun k => (gang[k]?).any p

/-- R302: the group as it stood before it issued. -/
def undoMember (h : Held) : Group :=
  { h.u.g with rc := h.u.g.rc - 1, ic := h.u.g.ic - 1, gangOps := h.u.g.gangOps - 1
               mmOpen := h.u.g.mmOpen.filter fun p => decide (p.1 ≠ h.op) }

/-- R437: the operand that `mma` and `mmasp` name as a register, AB, stands where format V has A. -/
def gangOps (ab : Nat) : List OpSlot := [⟨1, ab, false, false⟩]

/-- A fault of a gang, in a group that has not taken its issue's effects. -/
def gangTrap (s : State) (u : Issuer) (r : Raise) (ab : Nat) : State :=
  takeTrap s u { trapInfo u r u.g.active (gangOps ab) false with gang := true }

/-- R302, R446: a held member raises a gang fault, and its operation is undone. -/
def faultHeld (s : State) (h : Held) (r : Raise) : State :=
  gangTrap { s with joints := s.joints.erase h.op } { h.u with g := undoMember h } r h.m.ab

/-- R302, R439: the members held beside a group that leaves them without a partner take the gang-orphan fault. -/
def orphanHeld (s : State) (tid g : Nat) : State :=
  let hs := (heldIn s tid).filter fun h => decide (g ∈ h.m.gang) && decide (h.u.g.g ≠ g)
  hs.foldl (fun s h =>
    faultHeld s h (.group .matrix 0x3 (gangPositions h.m.gang fun x => (heldAs hs x).isSome))) s

/-- R302: a held group that is killed takes its operation with it. -/
def dropHeld (s : State) (gid : Nat) : State :=
  { s with joints := s.joints.filter fun p => p.2.ready || !p.2.members.any fun m => decide (m.group = gid) }

/-- R371 stage 2: in a context whose gate has fallen, a held member one of whose partners has reached a blocking point or
has retired is an orphan. -/
def gateOrphans (s : State) : State :=
  s.joints.vals.foldl (fun s j =>
    if j.ready then s else
    match j.members with
    | [] => s
    | m :: _ =>
      match issuerOf s m.group with
      | none => s
      | some u =>
        if u.c.stage ≠ .demoting then s else
        let gone := (u.t.groups.filterMap s.groups.get?).filter fun g =>
          decide (g.g ∈ m.gang) && (decide (g.status = .blocked ∨ g.status = .retired) || g.yielded)
        match gone with
        | [] => s
        | g :: _ => orphanHeld s j.team g.g) s

end Sys2Proof.Machine
end

