-- ==== Sys2Proof/Machine/Translate.lean ====
section
/-!
DEFINITION. Page tables, TLBs and translation (spec/06 R157, R161 to R171), and the reads and writes that
the device itself makes at virtual addresses of a context.
-/

namespace Sys2Proof.Machine

/-! ## Page-table entries (R162, R163) -/

def ptePeer (e : Nat) : Nat := field e 63 52
def pteFrame (e : Nat) : Nat := field e 51 12 * 4096
def pteDirty (e : Nat) : Bool := bitOf e 10
def pteA (e : Nat) : Bool := bitOf e 9
def pteCache (e : Nat) : Nat := field e 8 7
def pteTier (e : Nat) : Nat := field e 6 5
def pteChecked (e : Nat) : Bool := bitOf e 4
def pteLeaf (e : Nat) : Bool := bitOf e 3
def pteX (e : Nat) : Bool := bitOf e 2
def pteW (e : Nat) : Bool := bitOf e 1
def pteP (e : Nat) : Bool := bitOf e 0

/-- R161: bits of the page offset of a leaf at a level. -/
def pageBits (level : Nat) : Nat :=
  match level with
  | 0 => 16
  | 1 => 21
  | _ => 30

/-- R161: the index into the table of a level. -/
def tableIndex (va level : Nat) : Nat :=
  match level with
  | 0 => field va 20 16
  | 1 => field va 29 21
  | 2 => field va 38 30
  | 3 => field va 47 39
  | _ => field va 56 48

/-- Whether the entry maps a page at its level. -/
def isLeafAt (level e : Nat) : Bool := decide (level = 0) || (decide (level ≤ 2) && pteLeaf e)

/-- R163, R164: whether a present entry is invalid at a level, where MBASE is as given. -/
def pteInvalid (mbase level e : Nat) : Bool :=
  bitOf e 11 || (decide (level = 0) && !pteLeaf e) || (decide (3 ≤ level) && pteLeaf e) ||
  (if isLeafAt level e then
     decide (pteFrame e % 2 ^ pageBits level ≠ 0) ||
     (pteChecked e && decide (mbase < pteFrame e + 2 ^ pageBits level))
   else decide (pteTier e ≠ 0) || pteChecked e || pteX e || !pteW e) ||
  decide (pteCache e = 3) || (pteChecked e && decide (pteTier e ≠ 0)) ||
  (decide (pteTier e = 3) && decide (pteCache e ≠ 2)) ||
  (decide (ptePeer e ≠ 0) && decide (pteTier e ≠ 3))

/-! ## Walks (R165, R166) -/

/-- R448: subcodes of fatal translation faults. -/
abbrev memNoncanonical : Nat := 0x01
abbrev memAddrBound : Nat := 0x02
abbrev memAlign : Nat := 0x03
abbrev memWriteProt : Nat := 0x04
abbrev memFetchProt : Nat := 0x05
abbrev memTierRange : Nat := 0x07
abbrev memPeer : Nat := 0x08
/-- INVALID_ENTRY carries the table level in bits 10:8. -/
def memInvalidEntry (level : Nat) : Nat := 0x06 + 256 * level

/-- What a walk of the tables finds. -/
inductive WalkEnd
  /-- A valid leaf: its level, its value and where it stands. -/
  | leaf (level entry loc : Nat)
  /-- R167: P = 0 at a level. -/
  | absent (level : Nat)
  /-- R163: an invalid entry at a level. -/
  | invalid (level : Nat)
  /-- A table outside local HBM, which R161 rules out. -/
  | nowhere (loc : Nat)
  deriving DecidableEq, Repr

/-- R161: the walk from the table of a level at a physical offset, down to level 0. -/
def walkFrom (s : State) (va : Nat) : Nat → Nat → WalkEnd
  | 0, table =>
    let loc := table + 8 * tableIndex va 0
    if s.hbmBytes ≤ loc then .nowhere loc else
    let e := s.readNat loc 8
    if !pteP e then .absent 0 else if pteInvalid s.mbase 0 e then .invalid 0 else .leaf 0 e loc
  | level + 1, table =>
    let loc := table + 8 * tableIndex va (level + 1)
    if s.hbmBytes ≤ loc then .nowhere loc else
    let e := s.readNat loc 8
    if !pteP e then .absent (level + 1)
    else if pteInvalid s.mbase (level + 1) e then .invalid (level + 1)
    else if isLeafAt (level + 1) e then .leaf (level + 1) e loc
    else walkFrom s va level (pteFrame e)

/-- R161: the whole walk of a context's tables. -/
def walkVa (s : State) (root va : Nat) : WalkEnd := walkFrom s va 4 root

/-- R168: the kinds of access that a walk serves. -/
abbrev kindRead : Nat := 0
abbrev kindWrite : Nat := 1
abbrev kindAtomic : Nat := 2
abbrev kindFetch : Nat := 3
abbrev kindEngineRead : Nat := 4
abbrev kindEngineWrite : Nat := 5
abbrev kindUpdate : Nat := 6

/-- Whether a kind writes. -/
def kindWrites (kind : Nat) : Bool :=
  decide (kind = kindWrite) || decide (kind = kindAtomic) || decide (kind = kindEngineWrite) || decide (kind = kindUpdate)

/-- R402: the capacity of the CXL tier behind ports. -/
def tierCapacity (ps : List TierPort) : Nat := ps.foldl (fun n p => n + p.capacity) 0

/-- R402: the port on which an offset of the CXL tier lies. -/
def tierPort (s : State) (off : Nat) : Nat :=
  let c := fun k => match s.tiers.get? k with
    | some p => p.capacity
    | none => 0
  if c 0 = c 1 then off / 4096 % 2 else if off < c 0 then 0 else 1

/-- R402: where an offset of the CXL tier lies on its port. -/
def tierPortOffset (s : State) (off : Nat) : Nat :=
  let c := fun k => match s.tiers.get? k with
    | some p => p.capacity
    | none => 0
  if c 0 = c 1 then 4096 * (off / 8192) + off % 4096 else if off < c 0 then off else off - c 0

/-- R157, R402: an offset lies within the tier's capacity, on a port that is up. -/
def tierReach (s : State) (off : Nat) : Bool :=
  decide (off < tierCapacity s.tiers.vals) &&
  (s.tiers.get? (tierPort s off)).any fun p => p.up && decide (tierPortOffset s off < p.capacity)

/-- Whether every byte below va 2^57 (R152). -/
def canonical (va n : Nat) : Bool := decide (va + n ≤ 2 ^ 57)

/-- What a translation gives. -/
inductive Xlate
  | ok (t : Target)
  /-- R165: no TLB entry serves the access; a walk is needed. -/
  | miss
  | absent (level : Nat)
  | fatal (sub : Nat)
  | nowhere (loc : Nat)
  deriving DecidableEq, Repr

/-- R157, R171: where a leaf sends an access of a kind. -/
def leafTarget (s : State) (level e va kind : Nat) : Xlate :=
  let off := pteFrame e + va % 2 ^ pageBits level
  if kindWrites kind && !pteW e then .fatal memWriteProt
  else if decide (kind = kindFetch) && !pteX e then .fatal memFetchProt
  else match pteTier e with
    | 0 => if s.hbmBytes ≤ off then .nowhere off
           else .ok (.phys off (pteCache e) (pteChecked e))
    | 1 => if !tierReach s off then .fatal memTierRange else .ok (.phys (tierBase + off) (pteCache e) false)
    | 2 => .ok (.phys (hostBase + off) (pteCache e) false)
    | _ => .ok (.peer (ptePeer e) off)

/-- What a walk says of an access. -/
def walkXlate (s : State) (root va kind : Nat) : Xlate :=
  match walkVa s root va with
  | .leaf level e _ => leafTarget s level e va kind
  | .absent level => .absent level
  | .invalid level => .fatal (memInvalidEntry level)
  | .nowhere loc => .nowhere loc

/-- R165: the TLB entry that serves an address; a write needs one whose DIRTY is set (R166). -/
def tlbFind (ctx va kind : Nat) : List TlbEntry → Option TlbEntry
  | [] => none
  | e :: t =>
    if e.ctx = ctx ∧ e.va ≤ va ∧ va < e.va + 2 ^ pageBits e.level ∧
       (!kindWrites kind || pteDirty e.leaf.toNat || !pteW e.leaf.toNat) = true then some e
    else tlbFind ctx va kind t

/-- R165: the entry of a core's TLB that serves an access, and that of its die's second-level TLB. -/
def coreTlbHit (s : State) (core ctx va kind : Nat) : Option TlbEntry :=
  match s.cores.get? core with
  | some c => tlbFind ctx va kind c.tlb
  | none => none
def dieTlbHit (s : State) (core ctx va kind : Nat) : Option TlbEntry := tlbFind ctx va kind (s.dieTlb.read (dieOf core) [])

/-- R165: what an access of a core that its TLB does not serve comes to: by the second-level TLB, else by the tables. -/
def missXlate (s : State) (core ctx root va kind : Nat) : Xlate :=
  match dieTlbHit s core ctx va kind with
  | some e => leafTarget s e.level e.leaf.toNat va kind
  | none => walkXlate s root va kind

/-- R165: the translation of an access of a core: by its TLB, else by a walk, whose fatal faults are
precise. A page that is there needs the walk to fill the TLB. -/
def translate (s : State) (core ctx root va kind : Nat) : Xlate :=
  match coreTlbHit s core ctx va kind with
  | some e => leafTarget s e.level e.leaf.toNat va kind
  | none =>
    match missXlate s core ctx root va kind with
    | .ok _ => .miss
    | x => x

/-- R166, R168: KIND of the walk of an access of a core: an update of DIRTY where a TLB holds the leaf and only its DIRTY is
missing, else the access's own. -/
def walkKind (s : State) (core ctx va kind : Nat) : Nat :=
  if kindWrites kind && ((coreTlbHit s core ctx va kindRead).isSome || (dieTlbHit s core ctx va kindRead).isSome) then kindUpdate
  else kind

/-- R166: A, and DIRTY for a write, set in a leaf. -/
def pteTouched (e : Nat) (write : Bool) : Nat :=
  let a := if pteA e then e else e + 2 ^ 9
  if write && !pteDirty a then a + 2 ^ 10 else a

/-- R165: a TLB of n entries takes an entry, the newest first. -/
def tlbPut (n : Nat) (tlb : List TlbEntry) (e : TlbEntry) : List TlbEntry :=
  (e :: tlb.filter (fun x => !(decide (x.ctx = e.ctx) && decide (x.va = e.va)))).take n

/-- R165: an entry enters the TLB of a core. -/
def tlbFill (c : Core) (e : TlbEntry) : Core := { c with tlb := tlbPut Config.tlbEntries c.tlb e }

/-- R165: an entry enters the TLB of a core and the second-level TLB of its die. -/
def fillTlbs (s : State) (core : Nat) (e : TlbEntry) : State :=
  { s.modifyCore core (fun c => tlbFill c e) with
    dieTlb := s.dieTlb.insert (dieOf core) (tlbPut Config.dieTlbEntries (s.dieTlb.read (dieOf core) []) e) }

/-- R166: the walker's update of a leaf and the fill of the TLBs, for an access that found it in the tables. -/
def walkFill (s : State) (core ctx root va kind : Nat) : State :=
  match walkVa s root va with
  | .leaf level e loc =>
    let e1 := pteTouched e (kindWrites kind && pteW e)
    let s1 := if e1 = e then s else s.writeMem loc (leBytes 8 e1)
    fillTlbs s1 core ⟨ctx, va / 2 ^ pageBits level * 2 ^ pageBits level, level, BitVec.ofNat 64 e1⟩
  | _ => s

/-! ## The device's own accesses (R334, R420, R436, R440) -/

/-- The location of a virtual address of a context for the device's own access. -/
def deviceLoc (s : State) (ctx va kind : Nat) : Xlate :=
  match s.contexts.get? ctx with
  | none => .fatal (memInvalidEntry 4)
  | some c => if canonical va 1 then walkXlate s c.root va kind else .fatal memNoncanonical

/-- The pieces of a range of n bytes that stand in one 64 KiB page each; fuel bounds their number. -/
def pagePieces : Nat → Nat → Nat → List (Nat × Nat)
  | 0, _, _ => []
  | fuel + 1, va, n =>
    if n = 0 then [] else
    let k := min n (65536 - va % 65536)
    (va, k) :: pagePieces fuel (va + k) (n - k)

/-- The pieces of a range. -/
def pieces (va n : Nat) : List (Nat × Nat) := pagePieces (n / 65536 + 2) va n

/-- The first translation of a range that is not an address in memory, if any. -/
def rangeTrouble (s : State) (ctx kind : Nat) : List (Nat × Nat) → Option Xlate
  | [] => none
  | (va, _) :: t =>
    match deviceLoc s ctx va kind with
    | .ok (.phys _ _ _) => rangeTrouble s ctx kind t
    | x => some x

/-- Reads n bytes at a virtual address, where every page is there. -/
def deviceRead (s : State) (ctx va n : Nat) : Option (List Byte) :=
  match rangeTrouble s ctx kindRead (pieces va n) with
  | some _ => none
  | none => some ((pieces va n).flatMap fun p =>
      match deviceLoc s ctx p.1 kindRead with
      | .ok (.phys loc _ _) => s.readMem loc p.2
      | _ => [])

/-- R166: A, and DIRTY for a write, in the leaves of the pieces of a range. -/
def touchPages (s : State) (ctx kind : Nat) : List (Nat × Nat) → State
  | [] => s
  | (va, _) :: t =>
    match s.contexts.get? ctx with
    | none => s
    | some c =>
      match walkVa s c.root va with
      | .leaf _ e loc =>
        let e1 := pteTouched e (kindWrites kind && pteW e)
        touchPages (if e1 = e then s else s.writeMem loc (leBytes 8 e1)) ctx kind t
      | _ => touchPages s ctx kind t

/-- The pieces of a write, each at its location. -/
def writePieces (s : State) (ctx : Nat) : List (Nat × Nat) → List Byte → State
  | [], _ => s
  | (va, n) :: t, bytes =>
    let s1 := match deviceLoc s ctx va kindWrite with
      | .ok (.phys loc _ _) => s.writeMem loc (bytes.take n)
      | _ => s
    writePieces s1 ctx t (bytes.drop n)

/-- Writes bytes at a virtual address, where every page is there and writable. -/
def deviceWrite (s : State) (ctx va : Nat) (bytes : List Byte) : Option State :=
  match rangeTrouble s ctx kindWrite (pieces va bytes.length) with
  | some _ => none
  | none =>
    let ps := pieces va bytes.length
    some (writePieces (touchPages s ctx kindWrite ps) ctx ps bytes)

end Sys2Proof.Machine
end

