-- ==== Sys2Proof/Machine/Cache.lean ====
section
/-!
DEFINITION. The L1 of a core over the home L2 (spec/06 R159, R160; spec/07 R203): reads and writes of a core, what a
release writes back and what an acquire drops. `mem` is what the home L2s and targets hold.
-/

namespace Sys2Proof.Machine

/-- R159: the 128-byte line of a location. -/
def lineOf (loc : Nat) : Nat := loc / 128

/-- A byte of a line. -/
def Line.byte (l : Line) (i : Nat) : Byte := l.data.extractLsb' (8 * i) 8

/-- A byte of a line set. -/
def Line.setByte (l : Line) (i : Nat) (b : Byte) : Line :=
  let sh := 8 * (i % 128)
  { l with data := (l.data &&& ~~~(0xFF#1024 <<< sh)) ||| (b.zeroExtend 1024 <<< sh)
           dirty := l.dirty ||| (1#128 <<< (i % 128)) }

/-- The bytes of a line that are dirty go to memory; a word written whole loses its poison mark. -/
def writeLine (s : State) (ln : Nat) (l : Line) : State :=
  (upFrom 0 16).foldl (fun s w =>
    let mine := (upFrom (8 * w) 8).filter l.dirty.getLsbD
    if mine.length = 8 then s.writeMem (128 * ln + 8 * w) ((upFrom (8 * w) 8).map l.byte)
    else { s with mem := mine.foldl (fun m i => Memory.setByte m (128 * ln + i) (l.byte i)) s.mem }) s

/-- A line of a core is written back and stays, clean. -/
def cleanLine (s : State) (core ln : Nat) : State :=
  match (s.cores.get? core).bind (fun c => c.lines.get? ln) with
  | none => s
  | some l => (writeLine s ln l).modifyCore core fun c => { c with lines := c.lines.insert ln { l with dirty := 0 } }

/-- A line of a core is written back and leaves the L1. -/
def dropLine (s : State) (core ln : Nat) : State :=
  (cleanLine s core ln).modifyCore core fun c => { c with lines := c.lines.erase ln }

/-- The lines of a range of bytes. -/
def linesOf (loc n : Nat) : List Nat := upFrom (lineOf loc) (lineOf (loc + max 1 n - 1) + 1 - lineOf loc)

/-- The lines of a range leave a core's L1. -/
def dropRange (s : State) (core loc n : Nat) : State := (linesOf loc n).foldl (fun s ln => dropLine s core ln) s

/-- The lines of a range are written back from a core. -/
def cleanRange (s : State) (core loc n : Nat) : State := (linesOf loc n).foldl (fun s ln => cleanLine s core ln) s

/-- The lines that a core holds. -/
def coreLines (s : State) (core : Nat) : List Nat :=
  match s.cores.get? core with
  | some c => c.lines.keys
  | none => []

/-- R183, R190: before a release at cluster, device or system scope, every dirty line of the core goes to
its home L2. -/
def cleanCore (s : State) (core : Nat) : State := (coreLines s core).foldl (fun s ln => cleanLine s core ln) s

/-- R272: after an acquire at cluster, device or system scope, the core's L1 holds no stale line. -/
def dropCore (s : State) (core : Nat) : State := (coreLines s core).foldl (fun s ln => dropLine s core ln) s

/-- R371: the dirty lines held for a context, over every core. -/
def cleanContext (s : State) (ctx : Nat) : State :=
  s.cores.foldl (fun s p =>
    p.2.lines.foldl (fun s q => if q.2.ctx = ctx then cleanLine s p.1 q.1 else s) s) s

/-- The cores that hold a line. -/
def holders (s : State) (ln : Nat) : List Nat :=
  (s.cores.filter (fun p => (p.2.lines.get? ln).isSome)).map Prod.fst

/-- R203: the lines of a checked range are recalled from every core but one. -/
def recallFrom (s : State) (loc n : Nat) (keep : Option Nat) : State :=
  (linesOf loc n).foldl (fun s ln =>
    (holders s ln).foldl (fun s c => if some c = keep then s else dropLine s c ln) s) s

/-- R12, R18: a full L1 makes room: one line, but none of those kept, is written back and leaves (log entry 20: which). -/
def makeRoom (s : State) (core : Nat) (keep : List Nat) : State :=
  let lines := coreLines s core
  if lines.length < Config.l1Lines then s else
  let others := lines.filter (fun ln => decide (ln ∉ keep))
  match others[Config.l1Victim s.turn % max 1 others.length]? with
  | none => s
  | some ln => dropLine s core ln

/-- A core's L1 takes the lines of a range from their home L2. -/
def fillRange (s : State) (core ctx loc n : Nat) : State :=
  (linesOf loc n).foldl (fun s ln =>
    match (s.cores.get? core).bind (fun c => c.lines.get? ln) with
    | some _ => s
    | none =>
      let s1 := makeRoom s core (linesOf loc n)
      s1.modifyCore core fun c =>
        { c with lines := c.lines.insert ln
                   ⟨BitVec.ofNat 1024 (leNat (Memory.bytes s1.mem (128 * ln) 128)), 0, ctx⟩ }) s

/-- Whether a core's L1 holds every line of a range. -/
def holdsRange (s : State) (core loc n : Nat) : Bool := (linesOf loc n).all fun ln => decide (ln ∈ coreLines s core)

/-- The byte a core reads: its own L1's, else the home L2's. -/
def coreByte (s : State) (core loc : Nat) : Byte :=
  match (s.cores.get? core).bind (fun c => c.lines.get? (lineOf loc)) with
  | some l => l.byte (loc % 128)
  | none => Memory.byte s.mem loc

/-- The bytes a core reads. -/
def coreBytes (s : State) (core : Nat) : Nat → Nat → List Byte
  | _, 0 => []
  | loc, n + 1 => coreByte s core loc :: coreBytes s core (loc + 1) n

/-- Whether a byte of the range has been written in the core's L1 and not yet written back. -/
def coreDirty (s : State) (core loc : Nat) : Bool :=
  match (s.cores.get? core).bind (fun c => c.lines.get? (lineOf loc)) with
  | some l => l.dirty.getLsbD (loc % 128)
  | none => false

/-- R461: whether a read of a core meets a poisoned word that it has not itself covered. -/
def corePoisoned (s : State) (core loc n : Nat) : Bool :=
  s.memPoison.any fun p =>
    decide (8 * p.1 < loc + n) && decide (loc < 8 * p.1 + 8) &&
    !((upFrom (8 * p.1) 8).all (coreDirty s core))

/-- A write into a core's L1, which keeps it. -/
def coreStore (s : State) (core ctx loc : Nat) (bytes : List Byte) : State :=
  let s1 := fillRange s core ctx loc bytes.length
  (bytes.zip (upFrom loc bytes.length)).foldl (fun s p =>
    s.modifyCore core fun c =>
      { c with lines := c.lines.update (lineOf p.2) (fun l => l.setByte (p.2 % 128) p.1) }) s1

/-- A write at the home L2 by an agent of a core, whose own L1 then holds no older copy. -/
def homeStore (s : State) (core loc : Nat) (bytes : List Byte) : State :=
  (dropRange s core loc bytes.length).writeMem loc bytes

/-- A read at the home L2 by an agent of a core, with what the core itself has written. -/
def homeBytes (s : State) (core loc n : Nat) : List Byte :=
  (upFrom loc n).map fun a => if coreDirty s core a then coreByte s core a else Memory.byte s.mem a

end Sys2Proof.Machine
end

