-- ==== Sys2Proof/Machine/Report.lean ====
section
/-!
DEFINITION. Error events and notices (spec/19 R410, R411, R488, R489): counting, status bits, error rings and
interrupts.
-/

namespace Sys2Proof.Machine

/-- R410: an error event or a notice. `event` is the status bit's number, or a notice code. -/
structure Event where
  ue : Bool
  event : Nat
  sub : Nat
  detail : Nat
  addr : Nat
  lid : Nat
  agent : Nat
  ctx : Option Nat
  tenant : Option Nat
  deriving DecidableEq, Repr

/-- R488: codes of 0x20 and above are notices. -/
def Event.notice (e : Event) : Bool := decide (0x20 ≤ e.event)

/-- R31, R428: the die that writes an event's record: that of its agent, else die 0 (log entry 93). -/
def Event.die (e : Event) : Nat := if e.agent = 0xFFFF then 0 else e.agent / 2 ^ 13 % 4

/-- R410: the record of an event at a tick. -/
def Event.record (e : Event) (time : Nat) : Nat :=
  e.detail % 2 ^ 39 + (if e.ctx.isNone then 2 ^ 39 else 0) + e.event * 2 ^ 40 + e.sub * 2 ^ 48 +
  (if e.ue then 2 ^ 64 else 0) + (if e.tenant.isNone then 2 ^ 65 else 0) + e.tenant.getD 0 * 2 ^ 66 +
  e.ctx.getD 0 * 2 ^ 72 + e.agent * 2 ^ 80 + e.lid * 2 ^ 96 + e.addr % 2 ^ 64 * 2 ^ 128 + time * 2 ^ 192

/-- R394: an MSI-X vector is raised. -/
def raiseVector (s : State) (n : Nat) : State := { s with vectors := s.vectors ++ [n] }

/-- R410: a record enters a ring, whose slots stand in host memory, or is counted as dropped. The answer
says whether the ring turned non-empty. -/
def ringWrite (s : State) (r : ErrorRing) (rcd : Nat) : State × ErrorRing × Bool :=
  if (r.head - r.tail).toNat = 2 ^ r.log2 then (s, { r with drop := r.drop + 1 }, false)
  else (s.writeMem (hostBase + r.base + 32 * (r.head.toNat % 2 ^ r.log2)) (leBytes 32 rcd),
        { r with head := r.head + 1 }, decide (r.head = r.tail))

/-- R410: an event without an owner goes to the device ring. -/
def deviceRecord (s : State) (rcd : Nat) : State :=
  match s.deviceRing with
  | none => s
  | some r =>
    let (s1, r1, turned) := ringWrite s r rcd
    let s2 := { s1 with deviceRing := some r1 }
    if turned then raiseVector s2 1 else s2

/-- R410: a record for a tenant's ring. -/
def tenantRecord (s : State) (n rcd : Nat) : State :=
  match s.tenants.get? n with
  | none => s
  | some t =>
    match t.ring with
    | none => s
    | some r =>
      let (s1, r1, turned) := ringWrite s r rcd
      let s2 := s1.modifyTenant n fun t => { t with ring := some r1 }
      if turned then raiseVector s2 (2 + 2 * n) else s2

/-- R411, R414: the status bit, FEP and HLOG of a tenant for an unmasked event. FEP and HLOG are filled where UESTAT is zero, and
again by the same event once its bit has been cleared. -/
def setStatus (t : Tenant) (e : Event) (rcd : Nat) : Tenant :=
  let bit := BitVec.ofNat 32 (2 ^ e.event)
  if e.ue then
    let first := decide (t.uestat = 0) || (!t.fepSet && decide (t.fep.toNat = e.event))
    let t1 := if first then { t with fep := BitVec.ofNat 5 e.event, hlog := BitVec.ofNat 128 rcd, fepSet := true } else t
    { t1 with uestat := t.uestat ||| bit }
  else { t with cestat := t.cestat ||| bit }

/-- R411: whether a tenant masks an event. -/
def masked (t : Tenant) (e : Event) : Bool :=
  if e.ue then bitOf t.uemask.toNat e.event else bitOf t.cemask.toNat e.event

/-- R478, R489: the security processor's counts of uncorrectable errors, by HBM channel and by core. -/
def countUnit (s : State) (e : Event) : State :=
  if e.event = 0 then { s with channelErrors := s.channelErrors.insert e.sub (s.channelErrors.read e.sub 0 + 1) }
  else if e.event = 1 then
    s.modifyCore (e.detail % 64 + Config.coresPerDie * (e.detail / 64 % 4)) fun c => { c with uncorrectable := c.uncorrectable + 1 }
  else s

/-- R401: an event is counted, masked or not. -/
def countEvent (s : State) (e : Event) : State :=
  if e.notice then s
  else if e.ue then { countUnit s e with uecnt := s.uecnt + 1 } else { s with cecnt := s.cecnt + 1 }

/-- R410, R411, R488: what an event does. -/
def report (s : State) (e : Event) : State :=
  let rcd := e.record (s.dieTicks e.die).toNat
  let s1 := countEvent s e
  match e.tenant with
  | none => deviceRecord s1 rcd
  | some n =>
    if e.notice then tenantRecord s1 n rcd
    else match s1.tenants.get? n with
      | none => s1
      | some t =>
        if masked t e then s1
        else
          let s2 := tenantRecord (s1.setTenant n (setStatus t e rcd)) n rcd
          if e.ue && bitOf t.uesev.toNat e.event then raiseVector s2 (3 + 2 * n) else s2

/-- An uncorrectable event of a context, with no address. -/
def contextEvent (s : State) (ctx event sub detail addr lid agent : Nat) : State :=
  match s.contexts.get? ctx with
  | none => s
  | some c => report s ⟨true, event, sub, detail, addr, lid, agent, some ctx, some c.tenant⟩

/-- R488: a notice of a context. -/
def contextNotice (s : State) (ctx event sub detail addr lid : Nat) : State :=
  match s.contexts.get? ctx with
  | none => s
  | some c => report s ⟨false, event, sub, detail, addr, lid, 0xFFFF, some ctx, some c.tenant⟩

/-- R411: numbers of the UESTAT bits. -/
abbrev ueHbm : Nat := 0
abbrev ueSram : Nat := 1
abbrev ueTier : Nat := 2
abbrev ueFabdel : Nat := 3
abbrev ueCollflt : Nat := 4
abbrev ueWdog : Nat := 5
abbrev ueRefused : Nat := 6
abbrev ueArverr : Nat := 7
abbrev ueRevoked : Nat := 8
abbrev uePoison : Nat := 9
abbrev ueNondet : Nat := 10
abbrev ueWinovf : Nat := 11

end Sys2Proof.Machine
end

