-- ==== Sys2Proof/Machine/Race.lean ====
section
/-!
DEFINITION. The tracked order, race metadata and race records (spec/07 R194 to R203; spec/22 R454 to R458).
-/

namespace Sys2Proof.Machine

/-! ## The record of a granule (R199) -/

/-- R199: the fields of a granule's metadata. -/
structure Mark where
  wagent : Nat
  wclk : Nat
  wtgen : Nat
  wcgen : Nat
  wggen : Nat
  wscope : Nat
  ragent : Nat
  rclk : Nat
  rtgen : Nat
  rcgen : Nat
  rggen : Nat
  valid : Bool
  unknown : Bool
  many : Bool
  atomicOnly : Bool
  mx : Bool
  deriving DecidableEq, Repr

/-- The fields of 128 bits of metadata. -/
def Mark.decode (m : Nat) : Mark where
  wagent := field m 127 112
  wclk := field m 111 92
  wtgen := field m 91 84
  wcgen := field m 83 76
  wggen := field m 75 68
  wscope := field m 67 66
  ragent := field m 65 50
  rclk := field m 49 30
  rtgen := field m 29 22
  rcgen := field m 21 14
  rggen := field m 13 6
  valid := bitOf m 5
  unknown := bitOf m 4
  many := bitOf m 3
  atomicOnly := bitOf m 2
  mx := bitOf m 1

/-- The 128 bits of a granule's metadata. -/
def Mark.encode (k : Mark) : Nat :=
  let b := fun (x : Bool) (i : Nat) => if x then 2 ^ i else 0
  k.wagent * 2 ^ 112 + k.wclk * 2 ^ 92 + k.wtgen * 2 ^ 84 + k.wcgen * 2 ^ 76 + k.wggen * 2 ^ 68 +
  k.wscope * 2 ^ 66 + k.ragent * 2 ^ 50 + k.rclk * 2 ^ 30 + k.rtgen * 2 ^ 22 + k.rcgen * 2 ^ 14 +
  k.rggen * 2 ^ 6 + b k.valid 5 + b k.unknown 4 + b k.many 3 + b k.atomicOnly 2 + b k.mx 1

/-- R199, R156: a granule: of the carve-out by its HBM offset, or of a team's memory. -/
inductive Granule
  | phys (n : Nat)
  | team (team n : Nat)
  deriving DecidableEq, Repr

/-- R164: where the metadata of an HBM granule stands. -/
def markLoc (s : State) (n : Nat) : Nat := s.mbase + 16 * n

/-- The metadata of a granule. -/
def markOf (s : State) : Granule → Mark
  | .phys n => Mark.decode (s.readNat (markLoc s n) 16)
  | .team t n => match s.teams.get? t with
    | some x => Mark.decode (x.marks.read n 0).toNat
    | none => Mark.decode 0

/-- The metadata of a granule written. -/
def setMark (s : State) (g : Granule) (k : Mark) : State :=
  match g with
  | .phys n => s.writeMem (markLoc s n) (leBytes 16 k.encode)
  | .team t n => s.modifyTeam t fun x => { x with marks := Table.write x.marks n (BitVec.ofNat 128 k.encode) 0 }

/-- The numbers of the granules of a range of bytes. -/
def granuleNumbers (a n : Nat) : List Nat := upFrom (a / 64) ((a + max 1 n - 1) / 64 + 1 - a / 64)

/-- R199: the granules of a range at a target that carry metadata. -/
def granulesOf (t : Target) (n : Nat) : List Granule :=
  match t with
  | .phys loc _ true => (granuleNumbers loc n).map .phys
  | .team tid off => (granuleNumbers off n).map (.team tid)
  | _ => []

/-- R199: an external write sets UNKNOWN in the granules of HBM below MBASE that it touches (log entry 94: whether a page of
theirs is CHECKED or not). -/
def externalWrite (s : State) (loc n : Nat) : State :=
  ((granuleNumbers loc n).filter fun g => decide (64 * g < s.mbase)).foldl (fun s g =>
    setMark s (.phys g) { markOf s (.phys g) with unknown := true }) s

/-! ## Who is with whom (R175) -/

/-- R213: a group still has something in flight. -/
def groupBusy (s : State) (gid : Nat) : Bool :=
  s.accesses.any (fun p => decide (p.2.group = gid)) || s.deferred.any (fun p => decide (p.2.group = gid)) ||
  s.entries.any (fun p => decide (p.2.group = gid)) || s.joints.any fun p => p.2.members.any fun m => decide (m.group = gid)

/-- R213: a group is in its slot: it has not retired, or something that it issued is in flight. -/
def inSlot (s : State) (gid : Nat) : Bool :=
  (s.groups.get? gid).any fun g => decide (g.status ≠ .retired) || groupBusy s gid

/-- R175: the group that holds an agent's slot, if there is one. -/
def groupOfAgent (s : State) (a : Nat) : Option Group :=
  (s.groups.find? fun p => decide (p.2.agent.toNat = a % 2 ^ 15) && inSlot s p.1 &&
    (s.teams.get? p.2.team).any fun t => decide (t.status = .resident ∨ t.status = .evicting ∨ t.status = .retired)).map Prod.snd

/-- R352: a team is pinned. -/
def pinTeam (s : State) (tid : Nat) : State := s.modifyTeam tid fun t => { t with pinned := true }

/-- R352: a write of a team pins it: one over the fabric, to host memory, or to a page of which no record tells who reads it. -/
def pinWriter (s : State) (tid rmode : Nat) (t : Target) : State :=
  match t with
  | .team _ _ => s
  | .peer _ _ => pinTeam s tid
  | .phys loc _ checked => if hostBase ≤ loc ∨ checked = false ∨ rmode = 0 then pinTeam s tid else s

/-- R352: a read of team `tid` pins every other team whose write the records name: every team a group of which has held the
agent id recorded, whether that group has retired or moved since (log entry 95). -/
def pinRead (s : State) (tid : Nat) (ms : List Mark) : State :=
  ms.foldl (fun s m =>
    if !m.valid || decide (m.wagent = 0xFFFF) then s else
    { s with teams := s.teams.mapVals fun k t =>
        if k ≠ tid ∧ BitVec.ofNat 16 (m.wagent % 2 ^ 15) ∈ t.agents then { t with pinned := true } else t }) s

/-- R31: whether the agent number is one of the four engine agents with a slot of its own. -/
def ownSlotAgent (a : Nat) : Bool := decide (96 ≤ a % 2 ^ 7)

/-- The cluster number of a group in its launch. -/
def groupCluster (s : State) (g : Group) : Nat :=
  match s.launches.get? g.launch, s.teams.get? g.team with
  | some l, some t => clusterOf l t
  | _, _ => 0

/-- Whether two groups are of one team, one cluster, one grid. -/
def sameTeam (g h : Group) : Bool := decide (g.team = h.team)
def sameCluster (s : State) (g h : Group) : Bool :=
  decide (g.launch = h.launch) && decide (groupCluster s g = groupCluster s h)
def sameGrid (g h : Group) : Bool := decide (g.launch = h.launch)

/-- R175: whether a scope, taken at a group, includes an agent. -/
def scopeIncludes (s : State) (scope : Nat) (g : Group) (agent : Nat) : Bool :=
  match scope with
  | 0 => match groupOfAgent s agent with
    | some h => !ownSlotAgent agent && sameTeam g h
    | none => false
  | 1 => match groupOfAgent s agent with
    | some h => !ownSlotAgent agent && sameCluster s g h
    | none => false
  | _ => true

/-- R195: the arrival counts of a group as the generations of an access. -/
def Group.gens (g : Group) : Nat × Nat × Nat :=
  (g.barTeam.arrived.toNat % 256, g.barCluster.arrived.toNat % 256, g.barGrid.arrived.toNat % 256)

/-! ## The check (R198, R200, R201) -/

/-- A group for whom an access is checked, with the stamp it carries. -/
structure Checker where
  g : Group
  stamp : Nat

/-- An access as the checker sees it. -/
structure Checked where
  agent : Nat
  engine : Bool
  by_ : List Checker
  stamp : Nat
  gens : Nat × Nat × Nat
  sync : Bool
  writes : Bool
  wscope : Nat
  block : Bool

/-- R455: the die counter at a check: that of the checking agent's die. -/
def checkTime (s : State) (e : Checked) : Nat := (s.dieTicks (e.agent / 2 ^ 13 % 4)).toNat

/-- R198: whether the recorded access of agent A with clock C and generations is tracked-before e, for one
group. -/
def trackedFor (s : State) (e : Checked) (k : Checker) (A C tg cg gg : Nat) : Bool :=
  let a2 := if e.engine then k.g.agent.toNat % 2 ^ 15 + 2 ^ 15 else e.agent
  let same := decide (A = a2) && (!e.engine || decide (C = k.stamp % 2 ^ 20))
  let barrier := match groupOfAgent s A with
    | none => false
    | some h => !ownSlotAgent A &&
        ((sameTeam k.g h && genExceeds (k.g.barTeam.waited.toNat % 256) tg) ||
         (sameCluster s k.g h && genExceeds (k.g.barCluster.waited.toNat % 256) cg) ||
         (sameGrid k.g h && genExceeds (k.g.barGrid.waited.toNat % 256) gg))
  let acquired := k.g.acquired.any fun x => decide (x.agent.toNat = A) && serialGe 20 x.clock.toNat C
  let issued := e.engine && decide (a2 = A + 2 ^ 15) && serialGe 20 (k.stamp % 2 ^ 20) C &&
    !decide (k.stamp % 2 ^ 20 = C)
  same || barrier || acquired || issued

/-- R198 for every group of the access. An agent with its own slot has no group: only its own entry. -/
def tracked (s : State) (e : Checked) (A C tg cg gg : Nat) : Bool :=
  (decide (A = e.agent) && (!e.engine || decide (C = e.stamp % 2 ^ 20))) ||
  e.by_.any (fun k => trackedFor s e k A C tg cg gg)

/-- R201: the smallest of team, cluster and grid that holds two agents: 0, 1, 2, or 3. -/
def levelOf (s : State) (a b : Nat) : Nat :=
  match groupOfAgent s a, groupOfAgent s b with
  | some g, some h =>
    if ownSlotAgent a || ownSlotAgent b then 3
    else if sameTeam g h then 0 else if sameCluster s g h then 1 else if sameGrid g h then 2 else 3
  | _, _ => 3

/-- R200 many_ok: whether the access comes after every recorded reader. -/
def manyOk (s : State) (m : Mark) (e : Checked) : Bool :=
  let level := field m.rclk 17 16
  let p := m.rclk % 2 ^ 16
  decide (level ≠ 3) && decide (levelOf s p e.agent ≤ level) &&
  e.by_.any fun k =>
    match level with
    | 0 => genExceeds (k.g.barTeam.waited.toNat % 256) m.rtgen
    | 1 => genExceeds (k.g.barCluster.waited.toNat % 256) m.rcgen
    | _ => genExceeds (k.g.barGrid.waited.toNat % 256) m.rggen

/-- What a failed check found: KIND of R449, the recorded agent, and its clock. -/
structure Found where
  kind : Nat
  other : Nat
  clock : Nat
  deriving DecidableEq, Repr

/-- R200: the check of an access on a granule. -/
def check (s : State) (e : Checked) (m : Mark) : Option Found :=
  if !m.valid || m.unknown then none else
  let pair := e.sync && m.atomicOnly
  let wOk := decide (m.wagent = 0xFFFF) || tracked s e m.wagent m.wclk m.wtgen m.wcgen m.wggen || pair
  let rOk := !e.writes || pair ||
    (if m.many then manyOk s m e else tracked s e m.ragent m.rclk m.rtgen m.rcgen m.rggen)
  if !wOk then some ⟨if e.writes then 2 else 1, m.wagent, m.wclk⟩
  else if !rOk then
    if m.many then some ⟨4, m.rclk % 2 ^ 16, 2 ^ 20⟩ else some ⟨3, m.ragent, m.rclk⟩
  else none

/-- The R fields taken from an access. -/
def Mark.withRead (m : Mark) (e : Checked) : Mark :=
  { m with ragent := e.agent, rclk := e.stamp % 2 ^ 20, rtgen := e.gens.1, rcgen := e.gens.2.1
           rggen := e.gens.2.2 }

/-- The W fields taken from an access. -/
def Mark.withWrite (m : Mark) (e : Checked) : Mark :=
  { m with wagent := e.agent, wclk := e.stamp % 2 ^ 20, wtgen := e.gens.1, wcgen := e.gens.2.1
           wggen := e.gens.2.2, wscope := e.wscope, mx := e.block }

/-- R201: the record after an access. -/
def recordAccess (s : State) (e : Checked) (m : Mark) : Mark :=
  if !m.valid || m.unknown then
    let m0 := { Mark.decode 0 with valid := true, atomicOnly := e.sync }
    if e.writes then (m0.withWrite e).withRead e else { m0.withRead e with wagent := 0xFFFF }
  else if e.writes then { ((m.withWrite e).withRead e) with many := false, atomicOnly := e.sync }
  else
    let ao := m.atomicOnly && e.sync
    if m.many then
      let p := m.rclk % 2 ^ 16
      { m with rclk := max (field m.rclk 17 16) (levelOf s p e.agent) * 2 ^ 16 + p
               rtgen := genMin m.rtgen e.gens.1, rcgen := genMin m.rcgen e.gens.2.1
               rggen := genMin m.rggen e.gens.2.2, atomicOnly := ao }
    else if (m.ragent = m.wagent ∧ m.rclk = m.wclk ∧ m.rtgen = m.wtgen ∧ m.rcgen = m.wcgen ∧
             m.rggen = m.wggen) ∨ m.ragent = e.agent ∨
            tracked s e m.ragent m.rclk m.rtgen m.rcgen m.rggen = true then
      { m.withRead e with atomicOnly := ao }
    else
      { m with ragent := 0xFFFF, rclk := levelOf s m.ragent e.agent * 2 ^ 16 + m.ragent
               rtgen := genMin m.rtgen e.gens.1, rcgen := genMin m.rcgen e.gens.2.1
               rggen := genMin m.rggen e.gens.2.2, many := true, atomicOnly := ao }

/-! ## Subcodes and records (R449, R455 to R458) -/

/-- R196: the bit of the overflow filter of an agent. -/
def filterBit (a : Nat) : Nat := Nat.xor (a % 2 ^ 16) (a % 2 ^ 16 / 64) % 64

/-- R449: the subcode of a race. -/
def raceSub (e : Checked) (m : Mark) (f : Found) : Nat :=
  let spilt := e.by_.any fun k => k.g.overflow.getLsbD (filterBit f.other)
  let fenceless := e.engine && e.by_.any fun k =>
    decide (f.other = k.g.agent.toNat % 2 ^ 15) && decide (f.clock = k.stamp % 2 ^ 20)
  (if e.engine then 2 ^ 15 else 0) + (if fenceless then 2 ^ 11 else 0) +
  (if e.block || m.mx then 2 ^ 10 else 0) + (if spilt then 2 ^ 8 else 0) + f.kind

/-- What a race record says beyond the check: where the access stands. -/
structure RaceSite where
  addr : Nat
  lane : Nat
  space : Nat
  acc : Nat
  clause : Word64
  index : Nat
  lid : Nat
  linteam : Nat
  ctx : Nat
  deriving DecidableEq, Repr

/-- R455: a race record, REPEAT 0. -/
def raceRecord (time : Nat) (e : Checked) (m : Mark) (f : Found) (w : RaceSite) : BitVec 512 :=
  BitVec.ofNat 512 (raceSub e m f * 2 ^ 16 + w.acc * 2 ^ 37 + w.ctx * 2 ^ 48 + w.space * 2 ^ 56 +
    w.index * 2 ^ 59 + w.lane * 2 ^ 64 + e.stamp % 2 ^ 20 * 2 ^ 76 + f.other * 2 ^ 96 + e.agent * 2 ^ 112 +
    w.linteam * 2 ^ 128 + w.lid * 2 ^ 160 + w.clause.toNat * 2 ^ 192 + m.encode * 2 ^ 256 +
    w.addr % 2 ^ 64 * 2 ^ 384 + time * 2 ^ 448)

/-- R456: REPEAT counts one more racing lane and granule. -/
def raceAgain (r : BitVec 512) : BitVec 512 := if r.toNat % 2 ^ 16 = 0xFFFF then r else r + 1

/-- R456: the record so far of an instruction, after one more race. -/
def addRace (old : Option (BitVec 512)) (r : BitVec 512) : Option (BitVec 512) :=
  match old with
  | none => some r
  | some x => some (raceAgain x)

/-- A 64-bit or 32-bit word of the race log's header. -/
def saveNat (s : State) (ctx va n : Nat) : Nat := leNat ((deviceRead s ctx va n).getD [])

/-- R454: a record enters the context's race log, or is counted as dropped. -/
def logRace (s : State) (ctx : Nat) (r : BitVec 512) : State :=
  match s.contexts.get? ctx with
  | none => s
  | some c =>
    let head := saveNat s ctx c.save 8
    let tail := saveNat s ctx (c.save + 8) 8
    if (head + 2 ^ 64 - tail) % 2 ^ 64 < 16384 then
      let s1 := (deviceWrite s ctx (c.save + 65536 + 64 * (head % 16384)) (leBytes 64 r.toNat)).getD s
      (deviceWrite s1 ctx c.save (leBytes 8 (head + 1))).getD s1
    else
      let d := saveNat s ctx (c.save + 16) 4
      (deviceWrite s ctx (c.save + 16) (leBytes 4 (min (d + 1) 0xFFFFFFFF))).getD s

/-- R459: a granule's record is lost: UNKNOWN, MDLOSS of the context that owns its page, LOSTMD and MDLOST. `sub` is that of
R489; what no context owns goes to the device ring (R460). -/
def loseMark (s : State) (owner : Option (Nat × Context)) (addr sub : Nat) (g : Granule) : State :=
  let s1 := setMark s g { markOf s g with unknown := true }
  let s2 := { s1 with lostmd := s1.lostmd + 1 }
  let s3 := match owner with
    | none => s2
    | some (ctx, c) =>
      let n := saveNat s2 ctx (c.save + 20) 4
      (deviceWrite s2 ctx (c.save + 20) (leBytes 4 (min (n + 1) 0xFFFFFFFF))).getD s2
  report s3 ⟨false, 3, sub, 0, addr, 0, 0xFFFF, owner.map Prod.fst, owner.map fun p => p.2.tenant⟩

/-! ## The acquire table (R196) -/

/-- R196: an agent and a clock enter the acquire table, which stands least recently used first. An entry
already there is used when its clock rises. -/
def enterAcquired (g : Group) (agent clock : Nat) : Group :=
  let a := BitVec.ofNat 16 agent
  let c := BitVec.ofNat 20 clock
  match g.acquired.find? (fun x => decide (x.agent = a)) with
  | some x =>
    if serialGe 20 x.clock.toNat c.toNat then g
    else { g with acquired := g.acquired.filter (fun y => decide (y.agent ≠ a)) ++ [⟨a, c⟩] }
  | none =>
    if g.acquired.length < 32 then { g with acquired := g.acquired ++ [⟨a, c⟩] }
    else
      let out := match g.acquired.head? with
        | some x => x.agent.toNat
        | none => 0
      { g with acquired := g.acquired.drop 1 ++ [⟨a, c⟩]
               overflow := g.overflow ||| (1#64 <<< filterBit out) }

/-- R196: what an acquire read or RMW of a granule enters. `reader` is the reading group, `promoted` an
acq.rmt. -/
def acquireFrom (s : State) (g : Group) (scope : Nat) (promoted : Bool) (m : Mark) : Group :=
  if !m.valid || m.unknown || m.wagent = 0xFFFF || m.wscope = 0 then g
  else
    let back := match groupOfAgent s m.wagent with
      | some h => scopeIncludes s (m.wscope - 1) h g.agent.toNat
      | none => decide (m.wscope = 3)
    if promoted || (scopeIncludes s scope g m.wagent && back) then enterAcquired g m.wagent m.wclk else g

end Sys2Proof.Machine
end

