-- ==== Sys2Proof/Machine/Wake.lean ====
section
/-!
DEFINITION. Completing barrier phases and waking blocked groups (spec/02 R38; spec/10 R274 to R281, R289; spec/13 R359,
R362, R365).
-/

namespace Sys2Proof.Machine

/-! ## Barriers (R273 to R276) -/

/-- A group's counts on the barrier of a level. -/
def Group.counts (g : Group) : Level → BarrierCounts
  | .team => g.barTeam
  | .cluster => g.barCluster
  | .grid => g.barGrid

/-- A group's counts on the barrier of a level set. -/
def Group.setCounts (g : Group) (lvl : Level) (c : BarrierCounts) : Group :=
  match lvl with
  | .team => { g with barTeam := c }
  | .cluster => { g with barCluster := c }
  | .grid => { g with barGrid := c }

/-- The groups of teams. -/
def groupsOf (s : State) (teams : List Nat) : List Group :=
  (teams.filterMap s.teams.get?).flatMap fun t => t.groups.filterMap s.groups.get?

/-- The dispatched teams of a launch for which p holds. -/
def teamsWhere (s : State) (lid : Nat) (p : Team → Bool) : List Nat :=
  (s.teams.filter fun q => decide (q.2.launch = lid) && p q.2).map Prod.fst

/-- R273: the teams that share the barrier of a level with a team. -/
def barrierTeams (s : State) (lvl : Level) (tid : Nat) (t : Team) (l : Launch) : List Nat :=
  match lvl with
  | .team => [tid]
  | .cluster => teamsWhere s t.launch fun x => decide (clusterOf l x = clusterOf l t)
  | .grid => teamsWhere s t.launch fun _ => true

/-- R195, R274: the phase after p. Phases are numbered as the 32-bit counts are. -/
def nextPhase (p : Nat) : Nat := (p + 1) % 2 ^ 32

/-- R274: the group has arrived at the phase p in progress: its count is p + 1. -/
def Group.hasArrived (g : Group) (lvl : Level) (p : Nat) : Bool := decide ((g.counts lvl).arrived.toNat = nextPhase p)

/-- R274: phase p is complete: every participant has arrived or retired, and one has arrived. -/
def allArrived (lvl : Level) (p : Nat) (gs : List Group) : Bool :=
  gs.any (fun g => g.hasArrived lvl p) && gs.all (fun g => decide (g.status = .retired) || g.hasArrived lvl p)

/-- R359: the greatest IC held at arrival by the participants of phase p. -/
def phaseMax (lvl : Level) (p : Nat) (gs : List Group) : Nat :=
  gs.foldl (fun m g => max m (if g.hasArrived lvl p then (g.counts lvl).arrivalIC else g.ic.toNat)) 0

/-- R274: the phase in progress of the barrier of a level: how many have completed, as 32 bits count. -/
def phasesDone (lvl : Level) (t : Team) (l : Launch) : Nat :=
  match lvl with
  | .team => t.barPhase
  | .cluster => l.clusterPhases.read (clusterOf l t) 0
  | .grid => l.gridPhase

/-- R359: M_p of a completed phase. -/
def phaseMaxOf (lvl : Level) (p : Nat) (t : Team) (l : Launch) : Nat :=
  match lvl with
  | .team => t.barMax.read p 0
  | .cluster => l.clusterMax.read (clusterOf l t * 2 ^ 32 + p) 0
  | .grid => l.gridMax.read p 0

/-- R365: ascending (g, IC, l). -/
def hzBefore (a b : HzEntry) : Bool :=
  decide (a.g < b.g) || (decide (a.g = b.g) &&
    (decide (a.ic < b.ic) || (decide (a.ic = b.ic) && decide (a.lane ≤ b.lane))))

/-- Insertion by an order. -/
def insertBy {α : Type} (le : α → α → Bool) (x : α) : List α → List α
  | [] => [x]
  | y :: r => if le x y then x :: y :: r else y :: insertBy le x r

/-- Sorting by an order, stable. -/
def sortBy {α : Type} (le : α → α → Bool) (l : List α) : List α := l.foldr (insertBy le) []

/-- R365: the buffered Horizon entries that satisfy p are drained, in order. -/
def drainFronts (t : Team) (p : HzEntry → Bool) : Team :=
  let t1 := (sortBy hzBefore (t.hzs.filter p)).foldl (fun t e =>
    match t.slots.get? e.slot with
    | none => t
    | some h => { t with slots := t.slots.insert e.slot (insertAll h e.tuples).1 }) t
  { t1 with hzs := t1.hzs.filter (fun e => !p e) }

/-- R408: a pod barrier arrival of this device for a phase, on its way to the switch. -/
def podArrival (s : State) (c : Context) (p : Nat) : State :=
  s.send 4096 4 c.tenant c.binding (.barrier c.domain p) (leBytes 16 (c.domain + 2 ^ 32 * p))

/-- R274: the next phase of the barrier of a level at a team completes, where its participants have all
arrived. -/
def completePhase (s : State) (lvl : Level) (tid : Nat) : State :=
  match s.teams.get? tid with
  | none => s
  | some t =>
    match s.launches.get? t.launch with
    | none => s
    | some l =>
      let p := phasesDone lvl t l
      let gs := groupsOf s (barrierTeams s lvl tid t l)
      if !allArrived lvl p gs then s else
      let m := phaseMax lvl p gs
      match lvl with
      | .team =>
        let t1 := { t with barPhase := nextPhase p, barMax := t.barMax.insert p m }
        s.setTeam tid (if l.det then drainFronts t1 (fun _ => true) else t1)
      | .cluster =>
        let c := clusterOf l t
        s.setLaunch t.launch { l with clusterPhases := l.clusterPhases.insert c (nextPhase p)
                                      clusterMax := l.clusterMax.insert (c * 2 ^ 32 + p) m }
      | .grid =>
        let s1 := s.setLaunch t.launch { l with gridPhase := nextPhase p, gridMax := l.gridMax.insert p m }
        let pod := gs.any fun g => decide (g.wait = some (.barrier .grid p true))
        match pod, s.contexts.get? l.ctx with
        | true, some c => podArrival s1 c p
        | _, _ => s1

/-- R274: every phase that has become complete. -/
def completePhases (s : State) : State :=
  s.teams.keys.foldl (fun s tid =>
    completePhase (completePhase (completePhase s .team tid) .cluster tid) .grid tid) s

/-- R276: phase p of the barrier of a level, at which the group has arrived, has completed; a pod barrier also needs the other
devices. -/
def phaseOver (u : Issuer) (lvl : Level) (p : Nat) (pod : Bool) : Bool :=
  decide (p ≠ phasesDone lvl u.t u.l) &&
  (!pod || decide (u.c.domainSize ≤ u.l.podReports.read p 0 + 1))

/-! ## Ends of waits -/

/-- R274, R276: the waited count after a wait on phase p: p + 1; after an `await`, the greater of it and what it was. -/
def waitedAfter (await : Bool) (waited : Word) (p : Nat) : Word :=
  BitVec.ofNat 32 (if await then max waited.toNat (nextPhase p) else nextPhase p)

/-- R195, R359: a wait on phase p ends. -/
def endBarrierWait (u : Issuer) (lvl : Level) (p : Nat) (await : Bool) : Group :=
  let c := u.g.counts lvl
  let g := u.g.setCounts lvl { c with waited := waitedAfter await c.waited p }
  if u.l.det then { g with ic := BitVec.ofNat 64 (max g.ic.toNat (phaseMaxOf lvl p u.t u.l)) } else g

/-- R160, R272: what an acquire at a scope leaves in the L1 of the group's core. -/
def acquireLines (s : State) (core scope : Nat) : State := if scope = 0 then s else dropCore s core

/-- The scope of a barrier of a level. -/
def levelScope : Level → Nat
  | .team => 0
  | .cluster => 1
  | .grid => 2

/-- R289: serial comparison of batch numbers: a is at or below b. -/
def batchLe (a b : Nat) : Bool := serialGe 32 b a

/-- R289: every batch numbered at or below n is complete. -/
def batchesDone (bs : Table Batch) (n : BitVec 32) : Bool :=
  bs.all fun p => !batchLe p.1 n.toNat || p.2.done

/-- R196: the highest stamp among the batches covered, if there is one. -/
def coveredStamp (bs : Table Batch) (n : BitVec 32) : Option Nat :=
  (bs.filter fun p => batchLe p.1 n.toNat).foldl (fun m p =>
    match m, p.2.stamp with
    | some x, some y => some (serialMax 32 x y)
    | none, y => y
    | x, none => x) none

/-- R196, R289: a `cpwait` for n completes. -/
def endCopyWait (g : Group) (n : BitVec 32) : Group :=
  let g1 := { g with copyBatches := g.copyBatches.filter (fun p => !batchLe p.1 n.toNat) }
  match coveredStamp g.copyBatches n with
  | none => g1
  | some st => enterAcquired g1 (g.agent.toNat % 2 ^ 15 + 2 ^ 15) st

/-- R305, R306: an `mmwait` for n completes. -/
def endMatrixWait (s : State) (gid : Nat) (g : Group) (n : BitVec 32) : State × Group :=
  let ops := (g.mmBatches.filter fun p => batchLe p.1 n.toNat).flatMap fun p => p.2.entries
  let s1 := s.modifyTeam g.team fun t =>
    { t with writers := t.writers.mapVals fun _ w =>
        if w.op ∈ ops then { w with waited := gid :: w.waited } else w }
  let g1 := { g with mmBatches := g.mmBatches.filter (fun p => !batchLe p.1 n.toNat) }
  match coveredStamp g.mmBatches n with
  | none => (s1, g1)
  | some st => (s1, enterAcquired g1 (g.agent.toNat % 2 ^ 15 + 2 ^ 15) st)

/-- R281: every source of the set's mask has delivered what is expected. -/
def arrivalMet (a : ArrivalSet) : Bool :=
  (upFrom 0 16).all fun i => !a.mask.getLsbD i || decide (a.got.read i 0 = a.expect.read i 0)

/-- R281: the set advances. -/
def advanceSet (a : ArrivalSet) : ArrivalSet :=
  { a with phase := a.phase + 1, got := a.next, next := []
           stamps := (a.stamps.filter fun p => decide (16 ≤ p.1)).map fun p => (p.1 - 16, p.2) }

/-- R196: what the completion of an `arvwait` enters: the source's agent of this device, and its stamp. -/
def arrivalAcquire (g : Group) (a : ArrivalSet) : Group :=
  (upFrom 0 16).foldl (fun g i =>
    if a.mask.getLsbD i then
      match a.stamps.get? i with
      | some (agent, st) => enterAcquired g agent st
      | none => g
    else g) g

/-- R278: set k of a team, as it stands. -/
def arrivalSet (t : Team) (k : Nat) : ArrivalSet :=
  t.sets.read k ⟨0, 0, [], [], [], 0, false, false, []⟩

/-- R362, R466: a DET launch is flagged: the first team that did is kept, and the ring hears of it. -/
def flagNondet (s : State) (u : Issuer) (sub : Nat) : State :=
  contextEvent (s.modifyLaunch u.g.launch fun l => { l with nondet := l.nondet.orElse fun _ => some u.t.index })
    u.l.ctx ueNondet sub u.t.index 0 u.l.lid u.g.agent.toNat

/-- R196: what a `monwait` that ends on a change enters. -/
def monitorAcquire (s : State) (u : Issuer) (loc : Nat) : Group :=
  let m := markOf s (.phys (loc / 64))
  if u.c.rmode = 0 ∨ s.mbase ≤ loc ∨ m.valid = false ∨ m.wagent = 0xFFFF then u.g
  else enterAcquired u.g m.wagent m.wclk

/-- R277, R362: a monitor's word has changed to w. `writer` is the launch and IC of an exchange or a
compare-and-swap that made the change. -/
def endMonitor (s : State) (u : Issuer) (loc : Nat) (dest : BitVec 11) (w : Word)
    (writer : Option (Nat × Nat)) : State :=
  let g1 := setScalar (monitorAcquire s u loc) dest w.toNat
  let s1 := acquireLines s u.t.core 2
  if !u.l.det then s1.setGroup u.gid (wakeAdvance g1)
  else match writer with
    | some (lid, ic) =>
      if lid = u.g.launch then
        s1.setGroup u.gid (wakeAdvance { g1 with ic := BitVec.ofNat 64 (max g1.ic.toNat ic) })
      else flagNondet (s1.setGroup u.gid (wakeAdvance g1)) u 1
    | none => flagNondet (s1.setGroup u.gid (wakeAdvance g1)) u 1

/-- The tagged instruction of a group that ends its wait. -/
def wokenSound (s : State) (u : Issuer) : State := soundEnd s u.l.ctx u.g.sound id

/-- R281: a set advances and everyone waiting on it completes. -/
def advanceTeamSet (s : State) (tid k : Nat) : State :=
  match s.teams.get? tid with
  | none => s
  | some t =>
    let a := arrivalSet t k
    t.groups.foldl (fun s gid =>
      match issuerOf s gid with
      | none => s
      | some u =>
        if u.g.status = .blocked ∧ u.g.wait = some (.arrival k) then
          wokenSound ((acquireLines s t.core 3).setGroup gid (wakeAdvance (arrivalAcquire u.g a))) u
        else s) (s.setTeam tid { t with sets := t.sets.insert k (advanceSet a) })

/-- Whether a target is a peer's. -/
def Target.isPeer : Target → Bool
  | .peer _ _ => true
  | _ => false

/-- Whether a lane goes to a peer. -/
def LaneAccess.toPeer (la : LaneAccess) : Bool :=
  la.target.isPeer || la.tail.any (fun r => r.1.isPeer) || la.scale.any (fun r => r.2.isPeer)

/-- R463: whether a lane waits for no peer's answer. -/
def peerAnswered (la : LaneAccess) : Bool := !la.toPeer || la.performed

/-- R358: the IC of a group's key. A group that an eviction has saved keeps the one that it had. -/
def keyIC (s : State) (u : Issuer) : Nat :=
  let atPhase := fun (lvl : Level) (p : Nat) =>
    1 + (if p ≠ phasesDone lvl u.t u.l then phaseMaxOf lvl p u.t u.l
         else phaseMax lvl p (groupsOf s (barrierTeams s lvl u.g.team u.t u.l)))
  match u.g.keptIC, u.g.status, u.g.wait with
  | some n, _, _ => n
  | none, .blocked, some (.barrier lvl p _) | none, .halted, some (.barrier lvl p _) => atPhase lvl p
  | none, .blocked, some (.await lvl p) | none, .halted, some (.await lvl p) => atPhase lvl p
  | none, _, _ => u.g.ic.toNat

/-- R362: the change of a monitored word is kept for a waiter of a DET launch that is evicted or halted: it rejoins the live set
with it at once, and ends its wait with it. -/
def noteChange (s : State) (u : Issuer) (writer : Option (Nat × Nat)) : State :=
  match u.g.wait with
  | some (.monitor _ loc expected _ _ _) =>
    let w := BitVec.ofNat 32 (s.readNat loc 4)
    if !u.l.det || u.g.changed.isSome || decide (w = expected) then s
    else
      let ic := match writer with
        | some (lid, ic) => if lid = u.g.launch then max u.g.ic.toNat ic else u.g.ic.toNat
        | none => u.g.ic.toNat
      s.setGroup u.gid { u.g with changed := some (w, writer), keptIC := some (ic + 1) }
  | _ => s

/-- R38, R42: one blocked group tests its condition. -/
def wakeGroup (s : State) (gid : Nat) (writer : Option (Nat × Nat)) : State :=
  match issuerOf s gid with
  | none => s
  | some u =>
    if u.g.status = .halted ∨ (u.g.status = .blocked ∧ u.t.status ≠ .resident) then noteChange s u writer
    else if u.g.status ≠ .blocked then s else
    match u.g.wait with
    | none => s
    | some w =>
      match w with
      | .barrier lvl p pod =>
        if phaseOver u lvl p pod then
          wokenSound ((acquireLines s u.t.core (if pod then 3 else levelScope lvl)).setGroup gid
            (wakeAdvance (endBarrierWait u lvl p false))) u
        else s
      | .await lvl p =>
        if phaseOver u lvl p false then
          wokenSound ((acquireLines s u.t.core (levelScope lvl)).setGroup gid
            (wakeAdvance (endBarrierWait u lvl p true))) u
        else s
      | .monitor _ loc expected dest _ _ =>
        match u.g.changed with
        | some (w, by_) => wokenSound (endMonitor s u loc dest w by_) u
        | none =>
          let w := BitVec.ofNat 32 (s.readNat loc 4)
          if w = expected then s else wokenSound (endMonitor s u loc dest w writer) u
      | .arrival k =>
        let a := arrivalSet u.t k
        if a.broken then s.setGroup gid (wakeReissue u.g)
        else if arrivalMet a then advanceTeamSet s u.g.team k else s
      | .copyBatch n =>
        if !u.g.heldFaults.isEmpty then s.setGroup gid (wakeReissue u.g)
        else if batchesDone u.g.copyBatches n then
          wokenSound (s.setGroup gid (wakeAdvance (endCopyWait u.g n))) u
        else s
      | .matrixBatch n =>
        if !u.g.heldFaults.isEmpty then s.setGroup gid (wakeReissue u.g)
        else if batchesDone u.g.mmBatches n then
          let (s1, g1) := endMatrixWait s gid u.g n
          wokenSound (s1.setGroup gid (wakeAdvance g1)) u
        else s
      | .remoteLoad a =>
        if (s.accesses.get? a).isNone then s.setGroup gid (wakeAdvance u.g) else s
      | .translation ws =>
        if ws.all (fun w => (s.walks.get? w).isNone) then s.setGroup gid (wakeReissue u.g) else s
      | .peers a counted =>
        let done := match s.accesses.get? a with
          | none => true
          | some x => if counted then x.lanes.all peerAnswered else x.lanes.all (·.performed)
        if done then s.setGroup gid (if counted then wakeCounted u.g else wakeAdvance u.g) else s
      | .checks a => if (s.accesses.get? a).all (·.checked) then s.setGroup gid (wakeCounted u.g) else s
      | .minimum _ => s
      | .halting => s
      | .calming => s

/-! ## A halt that lasts (R327) -/

/-- R371 stage 2: a member that a held group of its team waits for, and that has not issued the matching
operation, keeps issuing. -/
def exemptFromGate (s : State) (gid : Nat) (g : Group) : Bool :=
  s.joints.vals.any fun j => decide (j.team = g.team) && !j.ready &&
    j.members.all (fun m => decide (m.group ≠ gid)) &&
    j.members.any fun m => decide (g.g ∈ m.gang)

/-- A group halted, in mid-clause as a demotion leaves it. -/
def haltNow (g : Group) : Group := { wakeReissue (g.stall 14) with status := .halted, haltAsked := false }

/-- R327: a group that a `tgthalt` has named, where it can stop: between instructions, at a replay, or at once at a blocking
point that is no remote load. Else the gate stays. -/
def haltStanding (s : State) (gid : Nat) (g : Group) : Group :=
  match g.status, g.wait with
  | .running, _ => if exemptFromGate s gid g then { g with haltAsked := true } else haltNow g
  | .blocked, some (.translation _) => haltNow g
  | .blocked, some (.remoteLoad _) | .blocked, some (.peers _ _) | .blocked, some (.checks _) => { g with haltAsked := true }
  | .blocked, _ => { g.stall 14 with status := .halted, haltAsked := false }
  | .heldRendezvous _, _ => { g with haltAsked := true }
  | _, _ => g

/-- R327: the groups whose halt has been asked for stop where they can. -/
def haltAskedGroups (s : State) : State :=
  { s with groups := s.groups.mapVals fun gid g => if g.haltAsked then haltStanding s gid g else g }

/-- R345: a group's wait may have ended between two states: its team has then not been blocked throughout the slice. -/
def noteWoken (s s1 : State) (gid : Nat) : State :=
  match s.groups.get? gid, s1.groups.get? gid with
  | some g, some h =>
    if g.status = .blocked ∧ h.status ≠ .blocked then s1.modifyTeam g.team fun t => { t with woken := true } else s1
  | _, _ => s1

/-- Every condition that a step may have made true. -/
def settleBy (s : State) (writer : Option (Nat × Nat)) : State :=
  let s1 := completePhases (gateOrphans s)
  haltAskedGroups (s1.groups.keys.foldl (fun s gid => noteWoken s (wakeGroup s gid writer) gid) s1)

/-- The same for a step that is no exchange. -/
def settle (s : State) : State := settleBy s none

end Sys2Proof.Machine
end

