-- ==== Sys2Proof/Machine/Perform.lean ====
section
/-!
DEFINITION. Performing the accesses in flight (spec/06 R160; spec/07 R176 to R203; spec/10 R262, R266 to R270;
spec/22 R461, R462).
-/

namespace Sys2Proof.Machine

/-! ## Read-modify-write (R269) -/

/-- R268: the operand size of an atomic, in bytes. -/
def atomBytes : AtomOp → Nat
  | .addI64 | .addX64 | .andB64 | .orB64 | .xorB64 | .xchgB64 | .casB64 => 8
  | _ => 4

/-- R269: the value written, and the flags, for an old value and an operand; for `cas`, compare stands in the
operand's low half and new in its high half. -/
def rmwValue (op : AtomOp) (old v : Nat) : Nat × Flags :=
  let n := 8 * atomBytes op
  let x := v % 2 ^ n
  match op with
  | .addI32 => (intAdd 32 old x, 0)
  | .addI64 => (intAdd 64 old x, 0)
  | .addX64 => (intAdd 64 old x, 0)
  | .addF32 => floatAdd f32Fmt .rn old x
  | .addF16x2 => packed2 (fun a b _ => floatAdd f16Fmt .rn a b) old x 0
  | .addBf16x2 => packed2 (fun a b _ => floatAdd bf16Fmt .rn a b) old x 0
  | .minI32 => (intMin 32 .signed old x, 0)
  | .minN32 => (intMin 32 .unsigned old x, 0)
  | .maxI32 => (intMax 32 .signed old x, 0)
  | .maxN32 => (intMax 32 .unsigned old x, 0)
  | .andB32 => (bitAnd old x, 0)
  | .andB64 => (bitAnd old x, 0)
  | .orB32 => (bitOr old x, 0)
  | .orB64 => (bitOr old x, 0)
  | .xorB32 => (bitXor old x, 0)
  | .xorB64 => (bitXor old x, 0)
  | .xchgB32 => (x, 0)
  | .xchgB64 => (x, 0)
  | .casB32 => (if old = x then v / 2 ^ 32 % 2 ^ 32 else old, 0)
  | .casB64 => (if old = x then v / 2 ^ 64 % 2 ^ 64 else old, 0)
  | .incN32 => (if x ≤ old then 0 else old + 1, 0)
  | .decN32 => (if old = 0 ∨ x < old then x else old - 1, 0)

/-- R117: the atomic operation of a reduction. -/
def redAtom : RedOp → AtomOp
  | .addI32 => .addI32
  | .addI64 => .addI64
  | .addX64 => .addX64
  | .addF32 => .addF32
  | .addF16x2 => .addF16x2
  | .addBf16x2 => .addBf16x2
  | .minI32 => .minI32
  | .minN32 => .minN32
  | .maxI32 => .maxI32
  | .maxN32 => .maxN32
  | .andB32 => .andB32
  | .orB32 => .orB32
  | .xorB32 => .xorB32

/-! ## What an access is (R174, R177, R183) -/

/-- R174: whether the kind reads, and whether it writes. -/
def AccessKind.reads : AccessKind → Bool
  | .load _ | .rmw _ _ | .mxLoad _ _ => true
  | _ => false
def AccessKind.writes : AccessKind → Bool
  | .store | .rmw _ _ | .mxStore _ => true
  | _ => false
/-- R192: an MX block access. -/
def AccessKind.block : AccessKind → Bool
  | .mxLoad _ _ | .mxStore _ => true
  | _ => false
/-- Whether the kind is a read-modify-write. -/
def AccessKind.isRmw : AccessKind → Bool
  | .rmw _ _ => true
  | _ => false

/-- R183: an acquire; ORDER 2 on a load is acq.rmt. -/
def Access.isAcquire (a : Access) : Bool :=
  if a.kind.isRmw then decide (a.order = 1 ∨ a.order = 3)
  else a.kind.reads && decide (a.order = 1 ∨ a.order = 2)
/-- R183: a release. -/
def Access.isRelease (a : Access) : Bool := a.kind.writes && decide (a.order = 2 ∨ a.order = 3)
/-- R185: remote-scope promotion. -/
def Access.isPromoted (a : Access) : Bool := !a.kind.writes && decide (a.order = 2)
/-- R177: synchronising accesses. -/
def Access.isSync (a : Access) : Bool := a.kind.isRmw || a.isAcquire || a.isRelease

/-- R176: the scope at which a lane's access acts, for a group of a team. -/
def laneScope (team scope : Nat) (t : Target) : Nat :=
  match t with
  | .team tid _ => if tid = team then 0 else min scope 1
  | _ => scope

/-- The byte ranges of the data of a lane's access. -/
def LaneAccess.dataRanges (la : LaneAccess) : List (Target × Nat) := (la.target, la.size) :: la.tail.toList

/-- The byte ranges of a lane's access: elements, then scale. -/
def LaneAccess.ranges (la : LaneAccess) : List (Target × Nat) :=
  la.dataRanges ++ (match la.scale with
    | some (_, t) => [(t, 1)]
    | none => [])

/-- The bytes of data of a lane's access. -/
def LaneAccess.dataSize (la : LaneAccess) : Nat := la.dataRanges.foldl (fun n r => n + r.2) 0

/-- Whether two ranges share a byte. -/
def rangesMeet (a b : Target × Nat) : Bool :=
  match a.1, b.1 with
  | .phys x _ _, .phys y _ _ => decide (x < y + b.2) && decide (y < x + a.2)
  | .team t x, .team r y => decide (t = r) && decide (x < y + b.2) && decide (y < x + a.2)
  | .peer d x, .peer e y => decide (d = e) && decide (x < y + b.2) && decide (y < x + a.2)
  | _, _ => false

/-- Whether two lanes' accesses share a byte. -/
def lanesMeet (a b : LaneAccess) : Bool := a.ranges.any fun x => b.ranges.any (rangesMeet x)

/-- Whether every lane of an access has performed. -/
def Access.allPerformed (a : Access) : Bool := a.lanes.all (·.performed)

/-- The earlier accesses of a group, oldest first. -/
def earlierAccesses (s : State) (gid before : Nat) : List Access :=
  (s.accesses.filter fun p => decide (p.1 < before) && decide (p.2.group = gid)).map Prod.snd

/-- R371: a load takes the value of a frozen store of its own group. -/
def takesFrozen (a b : Access) : Bool := b.frozen && !a.kind.writes && !b.kind.isRmw && b.kind.writes

/-- R179 to R183, R189: whether a lane may perform after an earlier access of its group. What is frozen holds back only what
R189 orders after it: beyond the bytes they share, an acquire or a release at device or system scope (R371). -/
def orderedAfter (a : Access) (la : LaneAccess) (b : Access) : Bool :=
  let far := fun scope : Nat => !b.frozen || decide (2 ≤ scope)
  (takesFrozen a b && !(a.isRelease && far a.scope)) || b.lanes.all fun x => x.performed ||
    !(lanesMeet la x || (b.isAcquire && far b.scope) || (a.isRelease && far a.scope))

/-- R202: whether two ranges share a granule. -/
def granulesMeet (a b : Target × Nat) : Bool :=
  match a.1, b.1 with
  | .phys x _ _, .phys y _ _ => decide (x / 64 * 64 < y + max 1 b.2) && decide (y < (x + max 1 a.2 + 63) / 64 * 64)
  | .team t x, .team r y =>
    decide (t = r) && decide (x / 64 * 64 < y + max 1 b.2) && decide (y < (x + max 1 a.2 + 63) / 64 * 64)
  | _, _ => false

/-- Whether a range carries metadata. -/
def carriesMarks (r : Target × Nat) : Bool :=
  match r.1 with
  | .phys _ _ checked => checked
  | .team _ _ => true
  | .peer _ _ => false

/-- R202: ranges in granules that an access other than `aid` has checked in fault mode and not yet performed on: they take
no other access meanwhile. -/
def granuleHeld (s : State) (aid : Nat) (rs : List (Target × Nat)) : Bool :=
  s.accesses.any fun p => decide (p.1 ≠ aid) && p.2.checked && p.2.lanes.any fun x =>
    !x.performed && x.ranges.any fun r => carriesMarks r && rs.any (granulesMeet r)

/-- Whether the lane of an access numbered `aid` may perform now: nothing of its group that it follows is
outstanding, every peer of its instruction has answered, demotion has not frozen it, and its granules are free. -/
def mayPerform (s : State) (aid : Nat) (a : Access) (la : LaneAccess) : Bool :=
  !a.frozen && a.lanes.all peerAnswered && (earlierAccesses s a.group aid).all (orderedAfter a la) && !granuleHeld s aid la.ranges

/-- R183: every access that a group has issued has performed. -/
def groupPerformed (s : State) (gid : Nat) : Bool :=
  s.accesses.all fun p => decide (p.2.group ≠ gid) || p.2.allPerformed

/-- R183, R272: the reads of a group's accesses have performed. -/
def groupReadsPerformed (s : State) (gid : Nat) : Bool :=
  s.accesses.all fun p => decide (p.2.group ≠ gid) || !p.2.kind.reads || p.2.allPerformed

/-! ## Race checks of a group's access (R200 to R202) -/

/-- The access of a lane as the checker sees it. -/
def checkedOf (g : Group) (a : Access) (la : LaneAccess) : Checked where
  agent := g.agent.toNat
  engine := false
  by_ := [⟨g, a.stamp.toNat⟩]
  stamp := a.stamp.toNat
  gens := a.gens
  sync := a.isSync
  writes := a.kind.writes
  wscope := if a.isRelease then min (laneScope g.team a.scope la.target + 1) 3 else 0
  block := a.kind.block

/-- R455: SPACE of a race record. -/
def spaceCode : Space → Nat
  | .g => 0
  | .t => 1
  | .c => 2
  | .k => 0

/-- R455: ACC of a race record. -/
def accCode (k : AccessKind) : Nat :=
  if k.block then (if k.writes then 6 else 5)
  else if k.isRmw then 2 else if k.writes then 1 else 0

/-- R455: the address a race record names. -/
def raceAddr (la : LaneAccess) : Nat :=
  match la.target with
  | .team _ off => off
  | _ => la.va

/-- R455: where an access of a lane stands. -/
def raceSite (u : Issuer) (a : Access) (la : LaneAccess) : RaceSite where
  addr := raceAddr la
  lane := if a.scalar then 0xFF else la.lane
  space := spaceCode a.space
  acc := accCode a.kind
  clause := a.clause
  index := a.index
  lid := u.l.lid
  linteam := u.t.index
  ctx := u.l.ctx

/-- R199: the granules whose records a lane's access checks. -/
def laneGranules (u : Issuer) (a : Access) (la : LaneAccess) : List Granule :=
  if u.c.rmode = 0 ∨ a.space = .k then []
  else (la.ranges.flatMap fun r => granulesOf r.1 r.2).eraseDups

/-- R461: whether a lane's access meets a poisoned word at its target. -/
def lanePoisoned (s : State) (core : Nat) (la : LaneAccess) : Bool :=
  la.ranges.any fun r =>
    match r.1 with
    | .phys loc _ _ => corePoisoned s core loc r.2
    | .team tid off => match s.teams.get? tid with
      | some t => poisoned t.memPoison off r.2
      | none => false
    | .peer _ _ => false

/-- R200: the races of a lane's access, in address order. -/
def laneRaces (s : State) (u : Issuer) (a : Access) (la : LaneAccess) : List (Granule × Found) :=
  if lanePoisoned s u.t.core la then [] else
  (laneGranules u a la).filterMap fun g =>
    (check s (checkedOf u.g a la) (markOf s g)).map fun f => (g, f)

/-- R456: the race records of a lane in report mode, added to those of its instruction. -/
def noteRaces (s : State) (u : Issuer) (a : Access) (la : LaneAccess) (old : Option (BitVec 512)) :
    Option (BitVec 512) :=
  (laneRaces s u a la).foldl (fun r p =>
    addRace r (raceRecord (checkTime s (checkedOf u.g a la)) (checkedOf u.g a la) (markOf s p.1) p.2 (raceSite u a la))) old

/-- R201: the records after a lane's access. -/
def recordLane (s : State) (u : Issuer) (a : Access) (la : LaneAccess) : State :=
  (laneGranules u a la).foldl (fun s g => setMark s g (recordAccess s (checkedOf u.g a la) (markOf s g))) s

/-! ## Poison met by an access (R461, R463) -/

/-- R158: the channel, of 32 in each of 12 stacks, of a local HBM address: (pa div 4,096) mod 12 and (pa div 256) mod 32. -/
def channelOf (loc : Nat) : Nat := 32 * (loc / 4096 % 12) + loc / 256 % 32

/-- R158, R10: the usable channels. -/
def workingChannels (s : State) : List Nat := (upFrom 0 Config.channels).filter fun c => !s.lostChannels.read c false

/-- R158: where the firmware has folded a channel: itself while it is usable, else one of those that remain (log entry 5). -/
def foldedOn (s : State) (c : Nat) : Nat :=
  if s.lostChannels.read c false then
    let l := workingChannels s
    l.getD (Config.foldedChannel c % max 1 l.length) c
  else c

/-- R158: the compute die to which a channel's stack is attached: stacks 3d to 3d + 2 to die d. -/
def channelDie (c : Nat) : Nat := c / 32 / 3

/-- R158, R489: SUB of an HBM event: the channel that holds the word. -/
def hbmSub (s : State) (loc : Nat) : Nat := foldedOn s (channelOf loc)

/-- R461: the first meeting with each poisoned word of a range is reported to the owner of the access. A
mark that has been met is kept as false. -/
def meetPoison (s : State) (ctx lid agent : Nat) (t : Target) (n : Nat) : State :=
  match t with
  | .phys loc _ _ =>
    let fresh := s.memPoison.filter fun p => p.2 && decide (8 * p.1 < loc + n) && decide (loc < 8 * p.1 + 8)
    fresh.foldl (fun s p =>
      let s1 := { s with memPoison := s.memPoison.insert p.1 false }
      if hostBase ≤ loc then contextEvent s1 ctx ueTier 5 0 (8 * p.1 - hostBase) lid agent
      else if tierBase ≤ loc then contextEvent s1 ctx ueTier 1 (tierPort s (8 * p.1 - tierBase)) (8 * p.1 - tierBase) lid agent
      else contextEvent s1 ctx ueHbm (hbmSub s (8 * p.1)) 0 (8 * p.1) lid agent) s
  | .team tid off =>
    match s.teams.get? tid with
    | none => s
    | some t =>
      let fresh := t.memPoison.filter fun p => p.2 && decide (8 * p.1 < off + n) && decide (off < 8 * p.1 + 8)
      fresh.foldl (fun s p =>
        contextEvent (s.modifyTeam tid fun t => { t with memPoison := t.memPoison.insert p.1 false }) ctx
          ueSram 2 (t.core % Config.coresPerDie + 64 * dieOf t.core) (8 * p.1) lid agent) s
  | .peer _ _ => s

/-! ## Reads and writes at a target -/

/-- R160, R203: before an access of a core to a range: a checked line is recalled from every other core, and
from this one too where the access is not at team scope. -/
def prepareLine (s : State) (core scope : Nat) (t : Target) (n : Nat) : State :=
  match t with
  | .phys loc _ true => recallFrom s loc n (if scope = 0 then some core else none)
  | _ => s

/-- Whether a read may be served by the L1: a CACHE 0 page, and no acquire beyond team scope (R160). -/
def l1Serves (a : Access) (scope : Nat) (t : Target) : Bool :=
  match t with
  | .phys _ 0 _ => decide (scope = 0) || !a.isAcquire
  | _ => false

/-- A read of a range at its target; `l1` says that the L1 serves it. -/
def readTarget (s : State) (core ctx : Nat) (l1 : Bool) (t : Target) (n : Nat) : List Byte × State :=
  match t with
  | .phys loc _ _ =>
    if l1 then
      let s1 := fillRange s core ctx loc n
      (coreBytes s1 core loc n, s1)
    else
      let s1 := dropRange s core loc n
      (s1.readMem loc n, s1)
  | .team tid off => match s.teams.get? tid with
    | some x => (teamBytes x off n, s)
    | none => (leBytes n 0, s)
  | .peer _ _ => (leBytes n 0, s)

/-- A write of a range at its target; `l1` says that it stays in the L1. -/
def writeTarget (s : State) (core ctx : Nat) (l1 : Bool) (t : Target) (bytes : List Byte) : State :=
  match t with
  | .phys loc _ _ => if l1 then coreStore s core ctx loc bytes else homeStore s core loc bytes
  | .team tid off => s.modifyTeam tid fun x => setTeamBytes x off bytes
  | .peer _ _ => s

/-- R160: whether a write stays in the L1: plain team-scope stores and team-scope atomics of CACHE 0 pages. -/
def l1Keeps (scope : Nat) (t : Target) : Bool :=
  match t with
  | .phys _ 0 _ => decide (scope = 0)
  | _ => false

/-! ## One lane performs -/

/-- R183, R185: what a release writes back first, and what a promoted acquire makes visible: a team-scope release performed
on any core has left what came before it in that core's L1. -/
def beforeOrdered (s : State) (u : Issuer) (a : Access) (scope : Nat) : State :=
  let s1 := if a.isRelease && decide (scope ≠ 0) then cleanCore s u.t.core else s
  if a.isPromoted then s1.cores.keys.foldl cleanCore s1 else s1

/-- R196, R272: an acquire's entry of the table, and the L1 after it. -/
def afterAcquire (s : State) (u : Issuer) (a : Access) (scope : Nat) (marks : List Mark) : State :=
  if !a.isAcquire then s else
  let s1 := s.modifyGroup u.gid fun g =>
    marks.foldl (fun g m => acquireFrom s g scope a.isPromoted m) g
  acquireLines s1 u.t.core scope

/-! ## Frozen stores (R371) -/

/-- The place of the byte at a target within a range, if it lies there. -/
def offsetIn (r : Target × Nat) (t : Target) (i : Nat) : Option Nat :=
  match r.1, t with
  | .phys x _ _, .phys y _ _ => if x ≤ y + i ∧ y + i < x + r.2 then some (y + i - x) else none
  | .team a x, .team b y => if a = b ∧ x ≤ y + i ∧ y + i < x + r.2 then some (y + i - x) else none
  | _, _ => none

/-- The byte that a store leaves at a target's byte, if it writes there. -/
def storeByte (la : LaneAccess) (t : Target) (i : Nat) : Option Nat :=
  let data := fun o : Nat => la.data.toNat / 2 ^ (8 * o) % 256
  match offsetIn (la.target, la.size) t i, la.tail.bind (fun r => offsetIn r t i),
        la.scale.bind (fun r => offsetIn (r.2, 1) t i) with
  | some o, _, _ => some (data o)
  | none, some o, _ => some (data (la.size + o))
  | none, none, some _ => some (data 32)
  | none, none, none => none

/-- R371: the bytes read, each byte of a frozen earlier store of the group taken from that store. -/
def withFrozen (s : State) (gid before : Nat) (t : Target) (bytes : List Byte) : List Byte :=
  let stores := (s.accesses.filter fun p => decide (p.1 < before) && decide (p.2.group = gid) && p.2.frozen &&
    p.2.kind.writes && !p.2.kind.isRmw).flatMap fun p => p.2.lanes.filter (fun la => !la.performed)
  if stores.isEmpty then bytes else
  (bytes.zip (upFrom 0 bytes.length)).map fun p =>
    stores.foldl (fun b la => match storeByte la t p.2 with
      | some x => BitVec.ofNat 8 x
      | none => b) p.1

/-- R178: ranges read in turn, frozen stores of the group taken into account. -/
def readRanges (s : State) (u : Issuer) (aid : Nat) (l1 : Bool) : List (Target × Nat) → List Byte × State
  | [] => ([], s)
  | r :: t =>
    let (raw, s1) := readTarget s u.t.core u.l.ctx l1 r.1 r.2
    let (rest, s2) := readRanges s1 u aid l1 t
    (withFrozen s u.gid aid r.1 raw ++ rest, s2)

/-- R178: bytes written to ranges in turn. -/
def writeRanges (s : State) (u : Issuer) (l1 : Target → Bool) : List (Target × Nat) → List Byte → State
  | [], _ => s
  | r :: t, bytes =>
    writeRanges (writeTarget s u.t.core u.l.ctx (l1 r.1) r.1 (bytes.take r.2)) u l1 t (bytes.drop r.2)

/-- The place of the scale byte in the value of a block. -/
def blockValue (bytes : List Byte) : Nat := leNat bytes.dropLast + 2 ^ 256 * (bytes.getLastD 0).toNat

/-- R160: a team-scope atomic at the L1: the line is fetched afresh, and what is written goes through to its home too, so that
no other write comes between the read and the write (R190; log entry 20). -/
def l1Atomic (s : State) (core ctx : Nat) (t : Target) (n : Nat) (f : Nat → Nat × Flags) : Nat × Flags × State :=
  match t with
  | .phys loc _ _ =>
    let (bs, s1) := readTarget (dropRange s core loc n) core ctx true t n
    let (new, fl) := f (leNat bs)
    (leNat bs, fl, cleanRange (writeTarget s1 core ctx true t (leBytes n new)) core loc n)
  | _ =>
    let (bs, s1) := readTarget s core ctx false t n
    let (new, fl) := f (leNat bs)
    (leNat bs, fl, writeTarget s1 core ctx false t (leBytes n new))

/-- What a lane performs on its data: the value it has read, its flags, and the state. A block access goes to the home L2, so
that the elements and the scale are of one write (R192). -/
def laneEffect (s : State) (u : Issuer) (aid : Nat) (a : Access) (la : LaneAccess) (scope : Nat) (l1 : Bool) :
    BitVec 272 × Flags × State :=
  let readL1 := l1 && l1Serves a scope la.target
  let keep := fun t => l1Keeps scope t && !a.isRelease
  match a.kind with
  | .load _ =>
    let (bs, s1) := readRanges s u aid readL1 la.ranges
    (BitVec.ofNat 272 (leNat bs), 0, s1)
  | .mxLoad _ _ =>
    let (bs, s1) := readRanges s u aid false la.ranges
    (BitVec.ofNat 272 (blockValue bs), 0, s1)
  | .store => (0, 0, writeRanges s u keep la.ranges (leBytes la.size la.data.toNat))
  | .mxStore _ =>
    (0, 0, writeRanges s u (fun _ => false) la.ranges
      (leBytes la.dataSize la.data.toNat ++ leBytes 1 (la.data.toNat / 2 ^ 256)))
  | .rmw op _ =>
    if l1Keeps scope la.target then
      let (old, fl, s1) := l1Atomic s u.t.core u.l.ctx la.target la.size fun old => rmwValue op old la.data.toNat
      (BitVec.ofNat 272 old, fl, s1)
    else
      let (bs, s1) := readTarget s u.t.core u.l.ctx false la.target la.size
      let (new, fl) := rmwValue op (leNat bs) la.data.toNat
      (BitVec.ofNat 272 (leNat bs), fl, writeTarget s1 u.t.core u.l.ctx false la.target (leBytes la.size new))

/-! ## Sounding (R427) -/

/-- R427: the level that an access of a core reaches at a target, in LEVEL's numbers; the home L2 and its HBM are told apart by
a free value. `near` says that the L1 may serve it. -/
def levelReached (s : State) (core : Nat) (near : Bool) (t : Target) (n : Nat) : Nat :=
  match t with
  | .team _ _ => 2
  | .peer _ _ => 6
  | .phys loc _ _ =>
    if near && holdsRange s core loc n then 1
    else if hostBase ≤ loc then 7 else if tierBase ≤ loc then 5
    else if Config.homeHit s.turn then 3 else 4

/-- R427: LEVEL of a record raised to a level; beyond the L1 an access has missed it, and beyond the L2 that too. -/
def reached (r : Option (BitVec 512)) (near : Bool) (level : Nat) : Option (BitVec 512) :=
  match r with
  | none => none
  | some x =>
    let y := if (x.extractLsb' 237 3).toNat < level then
        (x &&& ~~~(7#512 <<< 237)) ||| (BitVec.ofNat 512 level <<< 237) else x
    stalled (if near && decide (2 < level) then stalled (some y) 6 else some y) (if level = 4 then 7 else 512)

/-- R427: the record of a lane's access, with the levels that it reaches. -/
def soundReached (s : State) (core : Nat) (near : Bool) (la : LaneAccess) (r : Option (BitVec 512)) : Option (BitVec 512) :=
  la.ranges.foldl (fun r x => reached r near (levelReached s core near x.1 x.2)) r

/-- The lane of an access with its outcome. -/
def setLane (a : Access) (la : LaneAccess) : Access :=
  { a with lanes := a.lanes.map fun x => if x.lane = la.lane then la else x }

/-- R352: what a lane pins: its own team by what it writes, others by what it reads. -/
def pinLane (s : State) (u : Issuer) (a : Access) (la : LaneAccess) (marks : List Mark) : State :=
  let s1 := if a.kind.reads then pinRead s u.g.team marks else s
  if a.kind.writes then la.ranges.foldl (fun s r => pinWriter s u.g.team u.c.rmode r.1) s1 else s1

/-- R202, R270: the check, the record and the perform of one lane are one. -/
def performLane (s : State) (aid : Nat) (la : LaneAccess) (l1 : Bool) : State :=
  match s.accesses.get? aid with
  | none => s
  | some a =>
    match issuerOf s a.group with
    | none => s
    | some u =>
      let scope := laneScope u.g.team a.scope la.target
      let bad := lanePoisoned s u.t.core la
      let s0 := if bad then la.ranges.foldl (fun s r => meetPoison s u.l.ctx u.l.lid u.g.agent.toNat r.1 r.2) s else s
      if bad && a.kind.isRmw then
        s0.modifyAccess aid fun a => setLane a { la with performed := true, value := some 0, poisoned := true }
      else
        let race := if a.checked then a.race else noteRaces s0 u a la a.race
        let marks := (laneGranules u a la).map (markOf s0)
        let s1 := la.ranges.foldl (fun s r => prepareLine s u.t.core scope r.1 r.2) s0
        let s2 := beforeOrdered s1 u a scope
        let near := !a.kind.block && ((l1 && l1Serves a scope la.target) || (!a.kind.reads && l1Keeps scope la.target && !a.isRelease) ||
          (a.kind.isRmw && l1Keeps scope la.target))
        let (v, fl, s3) := laneEffect s2 u aid a la scope l1
        let s4 := if bad then s3 else recordLane s3 u a la
        let s5 := pinLane (afterAcquire s4 u a scope marks) u a la marks
        s5.modifyAccess aid fun a =>
          { setLane a { la with performed := true, value := some v, poisoned := bad && a.kind.reads } with
            race := race, flags := a.flags ||| fl, sound := soundReached s2 u.t.core near la a.sound }

/-- R362: the launch and IC that a change by an exchange or a compare-and-swap carries: that before it counts. It has counted
where it performed, but where its group waits for a peer's answer to another of its lanes. -/
def exchangeWriter (s : State) (a : Access) : Option (Nat × Nat) :=
  match a.kind with
  | .rmw .xchgB32 _ | .rmw .xchgB64 _ | .rmw .casB32 _ | .rmw .casB64 _ =>
    (s.groups.get? a.group).map fun g => (g.launch, if g.status = .blocked then g.ic.toNat else g.ic.toNat - 1)
  | _ => none

/-- The first n lanes perform, those that have not already, in ascending order; none where one may not. -/
def performLanes (s : State) (aid : Nat) (l1 : Bool) : Nat → List LaneAccess → Option State
  | 0, _ => some s
  | _ + 1, [] => some s
  | n + 1, la :: t =>
    match s.accesses.get? aid with
    | none => none
    | some a =>
      if la.performed then performLanes s aid l1 n t
      else if la.toPeer || !mayPerform s aid a la then none
      else performLanes (settleBy (performLane s aid la l1) (exchangeWriter s a)) aid l1 n t

/-! ## Write-back and completion (R105, R106, R108) -/

/-- R261: what a load of a width delivers of the value read, in words. -/
def loadWords (w : LoadWidth) (v : Nat) : List Word :=
  match w with
  | .n8 => [BitVec.ofNat 32 (v % 2 ^ 8)]
  | .i8 => [BitVec.ofNat 32 (wrap (sext v 8) 32)]
  | .n16 => [BitVec.ofNat 32 (v % 2 ^ 16)]
  | .i16 => [BitVec.ofNat 32 (wrap (sext v 16) 32)]
  | .b32 => [BitVec.ofNat 32 v]
  | .b64 => [BitVec.ofNat 32 v, BitVec.ofNat 32 (v / 2 ^ 32)]
  | .b128 => [BitVec.ofNat 32 v, BitVec.ofNat 32 (v / 2 ^ 32), BitVec.ofNat 32 (v / 2 ^ 64),
              BitVec.ofNat 32 (v / 2 ^ 96)]

/-- R268: the words that an atomic delivers of the old value; `cas` writes its compare registers only. -/
def atomWords (op : AtomOp) (v : Nat) : List Word :=
  if atomBytes op = 8 then [BitVec.ofNat 32 v, BitVec.ofNat 32 (v / 2 ^ 32)] else [BitVec.ofNat 32 v]

/-- A word delivered to a register: written, no longer pending, and marked where it is poisoned (R461). -/
def deliverWord (g : Group) (scalar : Bool) (reg lane : Nat) (w : Word) (bad : Bool) : Group :=
  if scalar then
    let g1 := (g.setS reg w).pendS reg false
    if bad then { g1 with sPoison := g1.sPoison.insert reg true } else g1
  else
    let g1 := (g.setV reg lane w).pendV reg lane false
    if bad then { g1 with vPoison := g1.vPoison.insert (128 * reg + lane) true } else g1

/-- Words delivered to registers in turn; a register beyond them only ceases to be pending. -/
def deliverWords (g : Group) (scalar : Bool) (lane : Nat) (bad : Bool) : List Nat → List Word → Group
  | [], _ => g
  | r :: t, [] => deliverWords (if scalar then g.pendS r false else g.pendV r lane false) scalar lane bad t []
  | r :: t, w :: ws => deliverWords (deliverWord g scalar r lane w bad) scalar lane bad t ws

/-- R131: code i of a block of packed element codes of b bits. -/
def blockCode (b v i : Nat) : Nat := v / 2 ^ (b * i) % 2 ^ b

/-- R265: EB of a block format: 32, 24 or 16 bytes. -/
def blockBytes (fmt : Nat) : Nat :=
  match fmt with
  | 5 | 6 => 24
  | 7 => 16
  | _ => 32

/-- R131: bits of an element within a block's string. -/
def stringBits (fmt : Nat) : Nat := blockBytes fmt / 4

/-- R266: a block delivered: its scale, and the codes of the enabled lanes of its lane word. -/
def deliverBlock (g : Group) (mask : LaneMask) (fmt scaleReg word : Nat) (dest : Nat) (v : Nat) (bad : Bool) :
    Group :=
  let g1 := deliverWord g true (scaleReg + word) 0 (BitVec.ofNat 32 (v / 2 ^ 256 % 256)) bad
  ((upFrom (32 * word) 32).filter mask.getLsbD).foldl (fun g l =>
    deliverWord g false dest l (BitVec.ofNat 32 (blockCode (stringBits fmt) v (l % 32))) bad) g1

/-- What a lane of an access delivers to its group. -/
def deliverLane (g : Group) (a : Access) (la : LaneAccess) : Group :=
  let v := (la.value.getD 0).toNat
  match a.kind with
  | .load w => deliverWords g a.scalar la.lane la.poisoned la.dest (loadWords w v)
  | .rmw op true => deliverWords g a.scalar la.lane la.poisoned la.dest (atomWords op v)
  | .mxLoad fmt scaleReg =>
    deliverBlock g a.mask fmt scaleReg (la.lane / 32) (la.dest.headD 0) v la.poisoned
  | _ => g

/-- R105, R108: an access whose lanes have all returned completes: its counter falls, its flags are set,
its race record is logged and its Sounding record ends. -/
def completeAccess (s : State) (aid : Nat) (a : Access) : State :=
  let s1 := { s with accesses := s.accesses.erase aid }
  let s2 := s1.modifyGroup a.group fun g => (lowerCounter g a.counter).orFpstat a.flags
  match issuerOf s2 a.group with
  | none => s2
  | some u =>
    let s3 := match a.race with
      | some r => logRace s2 u.l.ctx r
      | none => s2
    soundEnd s3 u.l.ctx a.sound id

/-- The first n lanes, all performed, deliver and leave the access; the last one completes it. -/
def returnLanes (s : State) (aid n : Nat) : State :=
  match s.accesses.get? aid with
  | none => s
  | some a =>
    let done := a.lanes.take n
    let s1 := s.modifyGroup a.group fun g => done.foldl (fun g la => deliverLane g a la) g
    let a1 := { a with lanes := a.lanes.drop n }
    if a1.lanes.isEmpty then settle (completeAccess s1 aid a1) else s1.modifyAccess aid fun _ => a1

/-- R269: the flags of reductions at peers, each of its operation on the word that it met there (log entry 96). -/
def peerFlags (s : State) (a : Access) (lanes : List Nat) : Flags :=
  match a.kind with
  | .rmw op _ => (a.lanes.filter fun la => decide (la.lane ∈ lanes)).foldl (fun f la =>
      f ||| (rmwValue op (Config.peerWord s.turn la.lane).toNat la.data.toNat).2) 0
  | _ => 0

/-- R463: the next n lanes that wait for a peer's acknowledgement have it. -/
def acknowledgePeers (s : State) (aid n : Nat) : State :=
  match s.accesses.get? aid with
  | none => s
  | some a =>
    let out := fun la : LaneAccess => s.sent.all fun p => decide (p.2.what ≠ .lane aid la.lane) || p.2.left
    let lanes := ((a.lanes.filter fun la => la.toPeer && !la.performed && out la).take n).map (·.lane)
    let s1 := { s with sent := s.sent.filter fun p =>
      match p.2.what with
      | .lane x l => !(decide (x = aid) && decide (l ∈ lanes))
      | _ => true }
    settle (s1.modifyAccess aid fun a =>
      { a with lanes := a.lanes.map fun la => if la.lane ∈ lanes then { la with performed := true } else la
               flags := a.flags ||| peerFlags s a lanes, sound := reached a.sound false 6 })

/-- Whether an access waits for a peer. -/
def Access.awaitsPeer (a : Access) : Bool := a.lanes.any fun la => la.toPeer && !la.performed

end Sys2Proof.Machine
end

