-- ==== Sys2Proof/Machine/Freeze.lean ====
section
/-!
DEFINITION. The gate of a demotion (spec/14 R369 to R371): which groups it holds, what it takes back and what
it freezes.
-/

namespace Sys2Proof.Machine

/-- R370: whether the launch of a group is demoted with its context: every launch but handlers'. -/
def ofDemotedKind (s : State) (g : Group) (ctx : Nat) : Bool :=
  match s.launches.get? g.launch with
  | some l => decide (l.ctx = ctx) && l.handlerFor.isNone
  | none => false

/-- R370: the groups of a context in context order: by acceptance of their launches, then by rank. -/
def contextOrder (s : State) (ctx : Nat) : List Nat :=
  let key := fun (p : Nat × Group) =>
    match s.launches.get? p.2.launch, s.teams.get? p.2.team with
    | some l, some t => (l.accepted, logicalRank l t p.2)
    | _, _ => (0, 0)
  let before := fun (a b : Nat × Group) =>
    let x := key a
    let y := key b
    decide (x.1 < y.1) || (decide (x.1 = y.1) && decide (x.2 ≤ y.2))
  (sortBy before (s.groups.filter fun p => ofDemotedKind s p.2 ctx)).map Prod.fst

/-- R371, R327: whether the gate of a demotion or of a `tgthalt`, or Calm mode, holds a group's issue. -/
def gateHolds (s : State) (u : Issuer) : Bool :=
  if u.isHandler then false
  else if u.g.haltAsked && !exemptFromGate s u.gid u.g then true
  else match u.c.stage with
    | .parallel => false
    | .demoting => !exemptFromGate s u.gid u.g
    | .demoted => true

/-- R360, R371: an instruction held for the minimum is taken back: it has had no effect. -/
def takeBackMinimum (s : State) (gid : Nat) : State :=
  match s.groups.get? gid with
  | none => s
  | some g =>
    if g.status ≠ .heldMinimum then s else
    let s1 := s.setGroup gid (wakeReissue g)
    match g.wait with
    | some (.minimum a) => { s1 with accesses := s1.accesses.erase a }
    | _ => s1

/-- R371 stage 3, R189: whether an access that has not performed is frozen, after the frozen earlier ones of its group: a plain
store, or one that cannot perform before them. -/
def freezes (earlier : List Access) (a : Access) : Bool :=
  !a.allPerformed && !a.awaitsPeer &&
  ((a.kind.writes && !a.kind.isRmw) || earlier.any fun b => a.lanes.any fun la => !la.performed && !orderedAfter a la b)

/-- R371 stage 3: the accesses of a group at the gate; `earlier` are the frozen ones so far. -/
def freezeGroup (gid : Nat) : List Access → Table Access → Table Access
  | _, [] => []
  | earlier, (n, a) :: t =>
    if a.group = gid ∧ freezes earlier a = true then (n, { a with frozen := true }) :: freezeGroup gid ({ a with frozen := true } :: earlier) t
    else (n, a) :: freezeGroup gid earlier t

/-- R327, R382: a monitor's deadline as the ticks that remain, or back. -/
def mapDeadline (f : Nat → Nat) (g : Group) : Group :=
  match g.wait with
  | some (.monitor va loc e d (some t) i) => { g with wait := some (.monitor va loc e d (some (f t)) i) }
  | _ => g

/-- R369, R371: demotion begins: the gate falls. A context that is demoted or demoting stays as it is; where a promotion has
been asked for, that comes first, and the demotion follows (R384). -/
def beginDemotion (s : State) (ctx : Nat) : State :=
  match s.contexts.get? ctx with
  | none => s
  | some c =>
    if c.stage ≠ .parallel then (if c.promote then s.setContext ctx { c with demoteNext := true } else s) else
    let gids := contextOrder s ctx
    let s1 := s.setContext ctx { c with stage := .demoting, demoteAt := s.ticks.toNat }
    let s2 := gids.foldl takeBackMinimum s1
    { s2 with accesses := gids.foldl (fun t gid => freezeGroup gid [] t) s2.accesses }

end Sys2Proof.Machine
end

