-- ==== Sys2Proof/Machine/Named.lean ====
section
/-!
DEFINITION. The operands that an instruction names (spec/21 R437), for the record of a trap that is taken before the
instruction itself is looked at: a code breakpoint, a held engine fault, an illegal encoding.
-/

namespace Sys2Proof

/-! ## The registers of a value of each width -/

def IWidth.regs : IWidth → Nat
  | .w32 => 1
  | .w64 => 2
def FWidth.regs : FWidth → Nat
  | .f32 => 1
  | .f64 => 2
def FType.regs : FType → Nat
  | .f64 => 2
  | _ => 1
def ArithForm.regs : ArithForm → Nat
  | .f64 _ => 2
  | _ => 1
def CmpType.regs : CmpType → Nat
  | .i64 | .n64 | .f64 => 2
  | _ => 1
def LoadWidth.regs : LoadWidth → Nat
  | .b64 => 2
  | .b128 => 4
  | _ => 1
def StoreWidth.regs : StoreWidth → Nat
  | .b64 => 2
  | .b128 => 4
  | _ => 1
def AtomOp.regs : AtomOp → Nat
  | .casB64 => 4
  | .casB32 => 2
  | .addI64 | .addX64 | .andB64 | .orB64 | .xorB64 | .xchgB64 => 2
  | _ => 1
def RedOp.regs : RedOp → Nat
  | .addI64 | .addX64 => 2
  | _ => 1

namespace Machine

/-- A field that is named as n registers, or not at all. -/
def fieldUse (field : Nat) (n : Nat) (code : BitVec 11) (write : Bool) : List Use :=
  if n = 0 then [] else [⟨field, code, n, 1, write⟩]

/-- Format V with a destination D; how many registers each field names. -/
def namedV (f : FormV) (d a b c : Nat) : List Use :=
  (if f.nw then [] else fieldUse fieldD d f.d true) ++ fieldUse fieldA a f.a false ++ fieldUse fieldB b f.b false ++
    fieldUse fieldC c f.c false

/-- Format V with a source D. -/
def namedVs (f : FormV) (d a b c : Nat) : List Use :=
  fieldUse fieldD d f.d false ++ fieldUse fieldA a f.a false ++ fieldUse fieldB b f.b false ++ fieldUse fieldC c f.c false

/-- Format I. -/
def namedI (f : FormI) (d a : Nat) : List Use :=
  (if f.nw then [] else fieldUse fieldD d f.d true) ++ fieldUse fieldA a f.a false

/-- Format M: D, and the base of a space. -/
def namedM (f : FormM) (glob : Bool) (d : Nat) (write : Bool) : List Use :=
  fieldUse fieldD d f.d write ++ fieldUse fieldA (if glob then 2 else 1) f.a false

/-- R251: whether a type of `cvt` is 64 bits wide, as registers. -/
def cvtRegs (t : Nat) : Nat := if t = 0 ∨ t = 6 ∨ t = 7 then 2 else 1

/-- R437: the operands that an instruction of a group names, in field order. -/
def namedUses : Instr → List Use
  | .brx f | .loopd f => fieldUse fieldS 1 f.s false
  | .call f => fieldUse fieldS 2 f.s true
  | .ret f => fieldUse fieldS 2 f.s false
  | .cmp t f | .cmpa t f | .cmpo t f => namedVs f 0 t.regs t.regs 0
  | .pmov f => if f.c = 0 then [] else if f.c = 1 then namedVs f 0 1 0 0 else namedV f 1 0 0 0
  | .ballot f | .pcount f | .pfirst f => namedV f 1 0 0 0
  | .add w f | .sub w f | .mul w f | .and w f | .or w f | .xor w f | .andn w f => namedV f w.regs w.regs w.regs 0
  | .min w _ f | .max w _ f => namedV f w.regs w.regs w.regs 0
  | .addImm f | .subImm f | .mulImm f | .minImm f | .maxImm f | .andImm f | .orImm f | .xorImm f | .shlImm f | .shrImm f
  | .sarImm f | .rotlImm f | .movh f | .faddImm f | .fsubImm f | .fmulImm f => namedI f 1 1
  | .addc f | .subb f => namedV f 1 1 1 0
  | .mulhi _ f | .div _ f | .rem _ f => namedV f 1 1 1 0
  | .mad w f => namedV f w.regs w.regs w.regs w.regs
  | .madhi _ f | .bfe _ f => namedV f 1 1 1 1
  | .bfi f => namedV f 1 1 1 1
  | .abs w f | .neg w f | .not w f | .brev w f | .mov w f => namedV f w.regs w.regs 0 0
  | .addPacked _ f | .subPacked _ f => namedV f 1 1 1 0
  | .minPacked _ _ f | .maxPacked _ _ f => namedV f 1 1 1 0
  | .shl w f | .shr w f | .sar w f | .rotl w f => namedV f w.regs w.regs 1 0
  | .popc w f | .clz w f | .ctz w f => namedV f 1 w.regs 0 0
  | .movi f => namedI f 1 0
  | .lea f => namedV f 2 2 1 0
  | .leaImm f => namedI f 2 2
  | .shflIdx f | .shflUp f | .shflDown f | .shflXor f => namedV f 1 1 1 0
  | .xmov f => if f.c = 0 then namedVs f 0 1 0 0 else namedV f 1 0 0 0
  | .xadd f => namedVs f 0 0 1 0
  | .setfmt f => namedVs f 0 1 0 0
  | .getfmt f => namedV f 1 0 0 0
  | .fadd t f | .fsub t f | .fmul t f => namedV f t.regs t.regs t.regs 0
  | .ffma t f => namedV f t.regs t.regs t.regs t.regs
  | .fdiv t _ f => namedV f t.regs t.regs t.regs 0
  | .fsqrt t _ f | .frnd t _ f => namedV f t.regs t.regs 0 0
  | .fmin t f | .fmax t f | .fminn t f | .fmaxn t f | .fcopysign t f => namedV f t.regs t.regs t.regs 0
  | .fabs t f | .fneg t f => namedV f t.regs t.regs 0 0
  | .fclass t f => namedV f 1 t.regs 0 0
  | .fscale t f => namedV f t.regs t.regs 1 0
  | .frcp _ f | .frsq _ f | .fex2 _ f | .flg2 _ f | .fsin _ f | .fcos _ f | .ftanh _ f => namedV f 1 1 0 0
  | .cvt f => namedV f (cvtRegs (field f.c.toNat 10 8)) (cvtRegs (field f.c.toNat 7 5)) 0 0
  | .fxcvt f =>
    let w := if bitOf f.c.toNat 1 then 2 else 1
    if bitOf f.c.toNat 0 then namedV f w 2 0 0 else namedV f 2 w 0 0
  | .cvtpPack f | .cvtpUnpack f => namedV f 1 1 0 0
  | .dotp f => namedV f 1 1 1 1
  | .mxq f | .mxd f => namedV f 1 1 1 0
  | .ld sp w f => namedM f (decide (sp = .g)) w.regs true
  | .st sp w f => namedM f (decide (sp = .g)) w.regs false
  | .pf f => namedM f true 0 false
  | .ldmx sp f => namedM f (decide (sp = .g)) 1 true
  | .stmx sp f => namedM f (decide (sp = .g)) 1 false
  | .atom sp op f => namedM f (decide (sp = .g)) op.regs true
  | .red op f => namedM f true op.regs false
  | .arrive f => namedV f 1 0 0 0
  | .await f | .arvwait f | .cpwait f | .coll f | .thset f | .mmwait f => namedVs f 0 1 0 0
  | .monwait f => namedV f 1 2 1 1
  | .arvinit f => namedVs f 0 1 1 0
  | .arvexp f | .omap f => namedVs f 0 1 1 1
  | .cpgLd f | .cpgSt f => namedVs f 1 2 1 1
  | .cpc f => namedVs f 1 1 1 1
  | .fput f | .fget f | .fputr f => namedVs f 2 2 1 2
  | .cpclose f | .mmclose f => namedV f 1 0 0 0
  | .mma f | .mmasp f => fieldUse fieldA 1 f.ab false
  | .accld f => fieldUse fieldA 1 f.ab true
  | .accst sp f => namedM f (decide (sp = .g)) 0 false
  | .hzins f => fieldUse fieldD 1 f.d false ++ fieldUse fieldA 1 f.a false
  | .hzread f => fieldUse fieldD 1 f.d true ++ fieldUse fieldA 1 f.a false
  | .hzstore sp f => fieldUse fieldA (if sp = .g then 2 else 1) f.a false
  | .hzcount f | .hzstat f => if f.nw then [] else fieldUse fieldD 1 f.d true
  | .sysrd f => namedI f (if f.imm.toNat ∈ [1, 3, 4, 8, 12] then 2 else 1) 0
  | .syswr f => namedI f 0 1
  | .clock f => namedV f 2 0 0 0
  | .dmput f => namedVs f 0 1 2 0
  | .dmget f => namedV f 2 1 0 0
  | .tgtrd f => namedV f 2 2 1 0
  | .tgtwr f => namedVs f 0 2 1 2
  | .tgtres f => namedVs f 0 2 1 0
  | .tgtkill f | .tgthalt f | .tgtstep f | .tgtcalm f => namedVs f 0 2 0 0
  | .bpset f => namedVs f 0 1 2 0
  | .wpset f => namedVs f 0 1 2 1
  | _ => []

end Machine
end Sys2Proof
end

