-- ==== Sys2Proof/Machine/Fetch.lean ====
section
/-!
DEFINITION. From a clause to an instruction (spec/04 R83 to R87, R109, R113, R119, R120; spec/12 R344; spec/21 R435;
spec/20 R422, R423, R426): reading headers and words, the checks before an instruction, and tagging.
-/

namespace Sys2Proof.Machine

/-! ## Who may issue -/

/-- R344: the quadrant of a slot. -/
def quadOf (slot : Nat) : Nat := slot / Config.slotsPerQuadrant

/-- R346, R371, R477: whether issue is open to a running group: its team is resident, its tenant holds the
core's issue, and no gate holds it. -/
def issueOpen (s : State) (u : Issuer) : Bool :=
  decide (u.g.status = .running) && decide (u.t.status = .resident) && !s.gated && !s.stopped &&
  !u.c.destroying && !gateHolds s u &&
  match s.cores.get? u.t.core with
  | some c => decide (c.issuing = some u.c.tenant)
  | none => false

/-! ## Reading code -/

/-- What reading a word of code comes to. -/
inductive Peek
  | word (w : Word64) (bad : Bool)
  | trap (r : Raise)
  | miss
  | nowhere (loc : Nat)
  deriving Repr

/-- R83, R171, R451: a word of code at an address; the clause's address stands in the record of a fault. -/
def peekCode (s : State) (u : Issuer) (va clause : Nat) : Peek :=
  let fatal := fun sub => Peek.trap ⟨.mem, sub, 0xFF, clause, 0, 0⟩
  if !canonical va 8 then fatal memNoncanonical
  else if va % 8 ≠ 0 then fatal memAlign
  else match translate s u.t.core u.l.ctx u.c.root va kindFetch with
    | .ok (.phys loc _ _) => .word (BitVec.ofNat 64 (s.readNat loc 8)) (poisoned s.memPoison loc 8)
    | .ok _ => .trap ⟨.mem, memFetchProt, 0xFF, clause, 0, 0⟩
    | .miss => .miss
    | .absent _ => .miss
    | .fatal sub => fatal sub
    | .nowhere loc => .nowhere loc

/-- R165, R167: the group parks at its instruction until walks for these pages have ended. -/
def parkFor (s : State) (u : Issuer) (pages : List (Nat × Nat)) : State :=
  let distinct := (pages.map fun p => (p.1 / 65536 * 65536, p.2)).eraseDups
  let ids := upFrom s.nextId distinct.length
  let walks := (ids.zip distinct).foldl (fun t p =>
    Table.insert t p.1 (⟨u.l.ctx, u.t.core, p.2.1, walkKind s u.t.core u.l.ctx p.2.1 p.2.2, some u.gid, none, u.g.agent, none⟩ : Walk))
    s.walks
  block { s with walks := walks, nextId := s.nextId + distinct.length } u (u.g.stall 4) (.translation ids)

/-! ## Faults before an instruction -/

/-- R112, R451: the group stops with its index naming the header. -/
def headerTrap (s : State) (u : Issuer) (r : Raise) : State :=
  takeTrap s { u with g := { u.g with index := 16, latches := [] } } (trapInfo u r 0 [] false)

/-- R437: whether a word's format has SC, and it is 1. -/
def wordScalar (w : Word64) (i : Instr) : Bool :=
  match i with
  | .jmp _ | .jmpa _ | .jmpl _ | .brx _ | .loopd _ | .mark _ | .split _ | .call _ | .ret _ | .mma _ | .mmasp _ | .accld _
  | .acczero _ | .accadd _ => false
  | _ => w.getLsbD 45

/-- R437: a trap taken before a word is looked at, or because it is no legal instruction: the record shows the lanes and
operands that the word names. -/
def wordInfo (u : Issuer) (r : Raise) (w : Word64) : TrapInfo :=
  let i := decodeRaw w
  trapInfo u r (laneMask (u.enabledLanes (w.extractLsb' 46 8))) (opSlots ((i.map namedUses).getD []))
    ((i.map (wordScalar w)).getD false)

/-- The same for the word where a group stands, as far as it can be read. -/
def standingInfo (s : State) (u : Issuer) (r : Raise) : TrapInfo :=
  let plain := trapInfo u r u.g.active [] false
  let h := match u.g.header with
    | some h => some h
    | none => match peekCode s u u.g.clause.toNat u.g.clause.toNat with
      | .word h _ => some h
      | _ => none
  match h, peekCode s u (u.g.clause.toNat + 8 * (u.g.index + 1)) u.g.clause.toNat with
  | some h, .word w _ => wordInfo { u with g := { u.g with header := some h } } r w
  | _, _ => plain

/-- R452: the first held engine fault is raised before the group's next instruction. -/
def raiseHeld (s : State) (u : Issuer) : Option State :=
  match u.g.heldFaults with
  | [] => none
  | f :: t =>
    let i := { standingInfo s u ⟨f.cls, f.sub.toNat, 0xFF, f.addr, 0, f.mdsnap⟩ with engine := some f }
    some (takeTrap s { u with g := { u.g with heldFaults := t } } i)

/-- R442: the group has been resumed from a breakpoint on instruction 0 of its clause. -/
def resumedAtFirst (u : Issuer) : Bool :=
  match u.g.suppressed with
  | some (k, false) => (u.c.breakpoints.get? k).any fun p => decide (p.index = 0)
  | _ => false

/-- R328: the enabled code breakpoints on a word of a group's clause: their numbers, with DEMOTE. The header is not compared
again where its own trap, and then that of instruction 0, have been taken (R442; log entry 8). -/
def breakpointsAt (u : Issuer) (index : Nat) : List (Nat × Bool) :=
  if u.isHandler || (decide (index = 16) && resumedAtFirst u) then [] else
  (u.c.breakpoints.filter fun p => p.2.enabled && decide (p.2.index = index) && decide (p.2.clause = u.g.clause) &&
    decide (u.g.suppressed ≠ some (p.1, false))).map fun p => (p.1, p.2.demote)

/-- R326, R442: the suppressed comparator is one on the header where the group stands. -/
def headerSuppressed (u : Issuer) : Bool :=
  u.c.breakpoints.any fun p => decide (u.g.suppressed = some (p.1, false)) && decide (p.2.index = 16)

/-- R328, R369: a code breakpoint met before a word: it traps, or demotes its context. -/
def meetBreakpoint (s : State) (u : Issuer) (index : Nat) : Option State :=
  match breakpointsAt u index with
  | [] => none
  | (k, demote) :: _ =>
    if demote && decide (u.c.stage ≠ .demoted) then
      let g := { u.g with suppressed := some (k, false), header := none, entered := u.g.entered || u.g.header.isSome }
      some (beginDemotion (s.setGroup u.gid g) u.l.ctx)
    else
      let r : Raise := ⟨.debug, 0x2, 0xFF, 0, k, 0⟩
      let i := if index = 16 then { trapInfo u r 0 [] false with onHeader := true } else standingInfo s u r
      some (takeTrap s u i)

/-! ## Contrail (R422, R423) -/

/-- R423: an entry of a SYNC. -/
def syncEntry (l : Launch) (g : Group) : List Byte :=
  slotByte g :: BitVec.ofNat 8 (32 * l.widthCode + g.index) :: leBytes 7 (g.clause.toNat / 8) ++
    maskBytes l.width g.active

/-- R423: the traced groups of a context resident on a core, by slot. -/
def tracedGroups (s : State) (core ctx : Nat) : List (Launch × Group) :=
  let gs := s.groups.vals.filterMap fun g =>
    match s.teams.get? g.team, s.launches.get? g.launch with
    | some t, some l =>
      if t.core = core ∧ t.status = .resident ∧ l.ctx = ctx ∧ l.handlerFor.isNone = true ∧ g.status ≠ .retired
      then some (l, g) else none
    | _, _ => none
  sortBy (fun a b => decide (a.2.slot ≤ b.2.slot)) gs

/-- R423: the bytes of a SYNC. -/
def syncBytes (s : State) (core ctx : Nat) : List Byte :=
  let gs := tracedGroups s core ctx
  0x10#8 :: leBytes 8 (s.dieTicks (dieOf core)).toNat ++ (BitVec.ofNat 8 gs.length :: gs.flatMap fun p => syncEntry p.1 p.2)

/-- R423: a SYNC staged, in the order of the slot before it. -/
def stageSync (s : State) (core ctx : Nat) : State :=
  (stagePacket s core ctx (stagingOf s core ctx).lastSlot true (syncBytes s core ctx)).modifyCore core fun c =>
    { c with staging := c.staging.update ctx fun st =>
        if st.dropped = 0 then { st with sinceSync := 0, lastSync := s.ticks.toNat } else st }

/-- R423: a SYNC comes before a CLAUSE once 4,096 ticks or 256 packets have passed. -/
def periodicSync (s : State) (core ctx : Nat) : State :=
  match (s.cores.get? core).bind (fun c => c.staging.get? ctx) with
  | none => s
  | some st =>
    if st.dropped = 0 ∧ (4096 ≤ s.ticks.toNat - st.lastSync ∨ 256 ≤ st.sinceSync) then stageSync s core ctx else s

/-- R422: the CLAUSE packet of a group that begins issuing a clause. -/
def clausePacket (s : State) (u : Issuer) (h : Word64) : State :=
  if !u.c.tracing || u.isHandler then s else
  let s1 := periodicSync s u.t.core u.l.ctx
  let head := 0x20 + (if u.g.taken then 1 else 0) + (if u.g.addrNext then 2 else 0)
  let addr := if u.g.addrNext then BitVec.ofNat 8 u.g.index :: leBytes 7 (u.g.clause.toNat / 8) else []
  stagePacket s1 u.t.core u.l.ctx u.g.slot true
    (BitVec.ofNat 8 head :: slotByte u.g :: BitVec.ofNat 8 (hdrTag h) :: addr ++ deltaBytes s1 u.t.core u.l.ctx)

/-! ## The header (R84, R85, R113) -/

/-- R109, R297: whether the clause where a group stands is eligible, as far as its words can be read: the
counters of WAITD are zero, and before an `opfence` no register is pending. Where its word cannot be read yet, `opfence` itself
waits (execOpfence). -/
def clauseEligible (s : State) (u : Issuer) : Bool :=
  if u.g.entered || decide (u.g.index ≠ 0) then true else
  match peekCode s u u.g.clause.toNat u.g.clause.toNat with
  | .word h _ =>
    (upFrom 0 8).all (fun j => !bitOf (hdrWaitd h) j || decide (u.g.counter j = 0)) &&
    (match peekCode s u (u.g.clause.toNat + 8) u.g.clause.toNat with
     | .word w _ => !(decide (opcOf w = 0x303) && u.g.anyPending)
     | _ => true)
  | _ => true

/-- What processing a header, or fetching a word, comes to: the group goes on, or the step ends. -/
inductive Stage (α : Type)
  | go (a : α)
  | stop (o : Out)

/-- The group begins, or takes up again, the clause where it stands. A clause that has been begun is not
tested or traced again (R165); the index stays, but past the last instruction the group goes to the next clause (R113). -/
def processHeader (s : State) (u : Issuer) : Stage State :=
  match raiseHeld s u with
  | some s1 => .stop (.next s1)
  | none =>
    let fresh := !u.g.entered && decide (u.g.index = 0)
    match if fresh then meetBreakpoint s u 16 else none with
    | some s1 => .stop (.next s1)
    | none =>
      match peekCode s u u.g.clause.toNat u.g.clause.toNat with
      | .nowhere loc => .stop (.fault (.noSuchPhysicalAddress loc))
      | .miss => .stop (.next (parkFor s u [(u.g.clause.toNat, kindFetch)]))
      | .trap r => .stop (.next (headerTrap s u r))
      | .word h bad =>
        if bad then
          .stop (.next (takeTrap s u { trapInfo u (.group .err 0x2 0) 0 [] false with onHeader := true }))
        else match headerFault h with
          | some sub => .stop (.next (headerTrap s u (.group .enc sub 0)))
          | none =>
            if hdrNcount h < u.g.index then
              .stop (.next (s.setGroup u.gid (atClause u.g (u.g.clause + BitVec.ofNat 64 (8 * (hdrNcount h + 2))))))
            else
            let s1 := if u.g.entered then s else clausePacket s u h
            .go (s1.setGroup u.gid { u.g with
              header := some h, entered := true, taken := false, addrNext := false, yielded := false
              age := if u.g.entered then u.g.age else 0
              suppressed := if fresh && headerSuppressed u then none else u.g.suppressed })

/-! ## The word (R86, R87, R119, R120) -/

/-- R87: opcodes that must stand last in their clause. -/
def mustStandLast (i : Instr) : Bool :=
  match i with
  | .jmp _ | .jmpa _ | .jmpl _ | .brx _ | .loopd _ | .split _ | .join _ | .call _ | .ret _ | .exit _ | .yield _
  | .bar _ | .barc _ | .barg _ | .barp _ | .await _ | .monwait _ | .arvwait _ | .cpwait _ | .cpwaitImm _
  | .mmwait _ | .mmwaitImm _ | .mma _ | .mmasp _ => true
  | _ => false

/-- R120: whether a conversion names an f64 type (R96). -/
def cvtNames64 (f : FormV) : Bool :=
  decide (field f.c.toNat 10 8 = 0) || decide (field f.c.toNat 7 5 = 0)

/-- R116, R239: whether a word is an `.f64` form. -/
def isF64 (i : Instr) : Bool :=
  match i with
  | .cmp .f64 _ | .cmpa .f64 _ | .cmpo .f64 _ => true
  | .fadd (.f64 _) _ | .fsub (.f64 _) _ | .fmul (.f64 _) _ | .ffma (.f64 _) _ => true
  | .fdiv .f64 _ _ | .fsqrt .f64 _ _ | .fclass .f64 _ | .fscale .f64 _ | .frnd .f64 _ _ => true
  | .fmin .f64 _ | .fmax .f64 _ | .fminn .f64 _ | .fmaxn .f64 _ | .fabs .f64 _ | .fneg .f64 _
  | .fcopysign .f64 _ => true
  | .cvt f => cvtNames64 f
  | .fxcvt f => bitOf f.c.toNat 1
  | _ => false

/-- R120: the bits of FEAT that an instruction of an opcode needs. -/
def featuresOf (opc : Nat) (i : Instr) : List Nat :=
  (if 0x300 ≤ opc ∧ opc < 0x340 then [0] else []) ++ (if opc = 0x305 then [1] else []) ++
  (if 0x340 ≤ opc ∧ opc < 0x360 then [2] else []) ++ (if 0x1C0 ≤ opc ∧ opc < 0x200 then [3] else []) ++
  (if isF64 i then [4] else []) ++
  (if (0x2CE ≤ opc ∧ opc ≤ 0x2D0) ∨ opc = 0x2C4 then [5] else [])

/-- R276, R298: field values that are undefined in this group: a grid level without COGRID, and an SPSEL at or
above the lane words. -/
def undefinedHere (u : Issuer) (i : Instr) : Bool :=
  match i with
  | .arrive f => decide (f.a = 2) && !u.l.cogrid
  | .await f => decide (f.b = 2) && !u.l.cogrid
  | .mmasp f => decide (u.l.width / 32 ≤ f.spsel.toNat)
  | _ => false

/-- R86, R87, R95, R119, R120, R297: the ENC subcodes that a word raises where it stands. -/
def placeFaults (u : Issuer) (opc : Nat) (i : Instr) : List Nat :=
  (if classAdmits (hdrClass u.header) opc then [] else [Enc.classAdmit]) ++
  (if undefinedHere u i then [Enc.field] else []) ++
  (if mustStandLast i && decide (u.g.index ≠ hdrNcount u.header) then [Enc.position] else []) ++
  (if decide (opc = 0x303) && decide (u.g.index ≠ 0) then [Enc.position] else []) ++
  (if decide (0x370 ≤ opc) && decide (opc ≤ 0x378) && !u.isHandler then [Enc.handlerOnly] else []) ++
  (if (featuresOf opc i).any (fun b => !bitOf u.l.feat b) then [Enc.feature] else [])

/-- R434, R435: the instruction that a word is where it stands, or the ENC subcode that comes first. -/
def wordInstr (u : Issuer) (w : Word64) : Except Nat Instr :=
  if opcOf w = 0x3FF then .error Enc.hdrInClause else
  match decodeRaw w with
  | none => .error (if reservedVariant (opcOf w) then Enc.rsvVariant else Enc.rsvOpcode)
  | some i =>
    match lowest (encFaults i ++ placeFaults u (opcOf w) i) with
    | none => .ok i
    | some sub => .error sub

/-! ## Sounding (R426, R427) -/

/-- R427: STALL as it stands when an instruction first comes to issue: what issue has waited for is timing, but for Calm mode
(R432). -/
def firstStalls (s : State) (u : Issuer) : Nat :=
  let free := (Config.soundingStalls s.turn).toNat
  free % 8 + free / 8 * 2 ^ 8 + if u.calm then 2 ^ 13 else 0

/-- R427: the record of an instruction at its issue; LEVEL is 0 until an access performs. -/
def soundRecord (s : State) (u : Issuer) (w : Word64) : BitVec 512 :=
  let nen := (u.enabledLanes (w.extractLsb' 46 8)).length
  BitVec.ofNat 512 (firstStalls s u * 2 ^ 192 + nen * 2 ^ 224 +
    (Config.soundingTimes s.turn).toNat * 2 ^ 240 + u.g.clause.toNat * 2 ^ 320 + u.g.index * 2 ^ 385 +
    opcOf w * 2 ^ 390 + u.g.agent.toNat * 2 ^ 400 + u.l.lid * 2 ^ 416 + (s.dieTicks (dieOf u.t.core)).toNat * 2 ^ 448)

/-- R427: TIME of a record: the die counter at the instruction's issue, which is the attempt at which it goes ahead. -/
def retimed (r : BitVec 512) (time : Nat) : BitVec 512 := (r &&& BitVec.ofNat 512 (2 ^ 448 - 1)) ||| (BitVec.ofNat 512 time <<< 448)

/-- R426: the Galois LFSR steps. -/
def lfsrStep (x : Word) : Word := if x.getLsbD 0 then (x >>> 1) ^^^ 0x80200003 else x >>> 1

/-- R426: the instructions of an interval. -/
def intervalOf (sk : Nat) (lfsr : Word) : Nat := 2 ^ (sk - 1) + lfsr.toNat % 2 ^ sk

/-- R426: the next interval of a quadrant begins: the LFSR steps and gives its length, and its first instruction is tagged (log
entry 6: which one is not stated). -/
def Sampler.nextInterval (p : Sampler) (sk : Nat) : Sampler := ⟨lfsrStep p.lfsr, intervalOf sk (lfsrStep p.lfsr), true⟩

/-- R426: a quadrant counts an instruction; an interval that is over makes way for the next. The answer says whether it is
tagged. -/
def Sampler.count (p : Sampler) (sk : Nat) : Sampler × Bool :=
  let q := if p.left = 0 ∧ p.tagNext = false then p.nextInterval sk else p
  ({ q with left := q.left - 1, tagNext := false }, q.tagNext)

/-- R426: the quadrant counts an instruction of a sampled context once, however often it comes to issue, and tags the one whose
turn it is. -/
def sampleIssue (s : State) (u : Issuer) (w : Word64) : State :=
  if !u.c.sampling || u.isHandler then s
  else if u.g.counted then
    s.modifyGroup u.gid fun g => { g with sound := g.sound.map fun r => retimed r (s.dieTicks (dieOf u.t.core)).toNat }
  else
    let q := quadOf u.g.slot
    match (s.cores.get? u.t.core).bind (fun c => c.samplers.get? q) with
    | none => s
    | some p =>
      let (p1, tag) := p.count (field u.c.obsctl.toNat 20 16)
      let s1 := s.modifyCore u.t.core fun c => { c with samplers := c.samplers.insert q p1 }
      s1.modifyGroup u.gid fun g => { g with counted := true, sound := if tag then some (soundRecord s u w) else none }

/-! ## An instruction comes to issue -/

/-- R435: the word where a group stands comes to issue: its breakpoint, its fetch, its encoding. -/
def fetchInstr (s : State) (u : Issuer) : Stage (Instr × State) :=
  match raiseHeld s u with
  | some s1 => .stop (.next s1)
  | none =>
    match meetBreakpoint s u u.g.index with
    | some s1 => .stop (.next s1)
    | none =>
      let va := u.g.clause.toNat + 8 * (u.g.index + 1)
      match peekCode s u va u.g.clause.toNat with
      | .nowhere loc => .stop (.fault (.noSuchPhysicalAddress loc))
      | .miss => .stop (.next (parkFor s u [(va, kindFetch)]))
      | .trap r => .stop (.next (headerTrap s u r))
      | .word w bad =>
        if bad then .stop (.next (trapPlain s u (.group .err 0x2 0)))
        else match wordInstr u w with
          | .error sub => .stop (.next (takeTrap s u (wordInfo u (.group .enc sub 0) w)))
          | .ok i => .go (i, { sampleIssue s u w with cur := some u.gid })

/-- R423: a traced group's event would stand, in this tick, after one of a higher slot: it comes in a later tick. -/
def traceWaits (s : State) (u : Issuer) : Bool :=
  u.c.tracing && !u.isHandler && outOfOrder s u.t.core u.l.ctx u.g.slot

/-- A group's turn: the next instruction of the clause it is in, if issue is open to it. -/
def groupTurn (s : State) (gid : Nat) : Stage (Instr × State) :=
  match issuerOf s gid with
  | none => .stop (.next s)
  | some u =>
    if !issueOpen s u || u.g.header.isNone || traceWaits s u then .stop (.next s) else fetchInstr s u

end Sys2Proof.Machine
end

