-- ==== Sys2Proof/Machine/Access.lean ====
section
/-!
DEFINITION. The issue of a memory instruction of a group (spec/06 R152 to R155, R165 to R171; spec/10 R259 to R263;
spec/21 R435; spec/11 R329; spec/13 R360 to R363): addresses, checks, and what issue does.
-/

namespace Sys2Proof.Machine

/-! ## What a memory instruction is -/

/-- One access of a memory instruction before its address is checked: the lane, its address, its bytes and
alignment, the address of a scale byte, its data, the registers it will write, and, for the operands' checks,
the faults found. -/
structure LaneReq where
  lane : Nat
  va : Nat
  size : Nat
  align : Nat
  scale : Option Nat
  data : BitVec 272
  dest : List Nat

/-- A memory instruction of a group. `fault` is the operand fault of a lane, `late` that of the further lanes of
its lane word, `req` its access, `pend` the registers that become pending, `lanes` the lanes (or lane words' lowest lanes) that make an access. -/
structure MemOp where
  kind : AccessKind
  space : Space
  scalar : Bool
  enabled : List Nat
  lanes : List Nat
  uses : List Use
  order : Nat
  scope : Nat
  opc : Nat
  fault : Nat → Option Raise
  late : Nat → Option Raise
  req : Nat → LaneReq
  pend : List (Bool × Nat × Nat)

/-! ## Addresses (R152, R154, R155) -/

/-- R152: base + OFF18 in a space. -/
def laneAddress (u : Issuer) (sp : Space) (a : BitVec 11) (off : BitVec 18) (lane : Nat) : Nat :=
  match sp with
  | .g => wrap (((rd64 u a lane).toNat : Int) + sext off.toNat 18) 64
  | _ => wrap (((rd u a lane).toNat : Int) + sext off.toNat 18) 32

/-- R155: the global address of a spill-stack offset of a group. -/
def spillAddress (u : Issuer) (a : Nat) : Nat := (u.c.spb + 65536 * logicalRank u.l u.t u.g + a) % 2 ^ 64

/-- R154: the fields of a cluster-space address. -/
def clusterCI (a : Nat) : Nat := field a 27 24
def clusterOFF (a : Nat) : Nat := field a 20 0

/-- R152, R154: whether n bytes at an address are legal in a space. -/
def legalIn (u : Issuer) (sp : Space) (a n : Nat) : Bool :=
  match sp with
  | .g => canonical a n
  | .t => decide (a + n ≤ u.l.teamMem)
  | .c => decide (field a 31 28 = 0) && decide (field a 23 21 = 0) && decide (clusterCI a < u.l.clusterSize) &&
          decide (clusterOFF a + n ≤ u.l.teamMem)
  | .k => decide (a + n ≤ 65536)

/-- R152: the fault of an illegal address. -/
def illegalSub : Space → Nat
  | .g => memNoncanonical
  | _ => memAddrBound

/-- R26: the team of a launch with a linear index. -/
def teamAt (s : State) (launch index : Nat) : Option Nat :=
  ((s.teams.filter fun p => decide (p.2.launch = launch) && decide (p.2.index = index)).head?).map Prod.fst

/-- R154: the team that CI names, of the issuing team's cluster. -/
def clusterTeam (s : State) (u : Issuer) (ci : Nat) : Nat :=
  if ci = placeInCluster u.l u.t then u.g.team
  else (teamAt s u.g.launch (clusterOf u.l u.t * u.l.clusterSize + ci)).getD u.g.team

/-! ## Translation of an access -/

/-- R168: KIND of an access. -/
def accessKind (k : AccessKind) : Nat := if k.isRmw then kindAtomic else if k.writes then kindWrite else kindRead

/-- What the translation of one lane comes to. -/
inductive LaneXlate
  | ok (la : LaneAccess)
  | miss (pages : List Nat)
  | fatal (sub : Nat)
  | nowhere (loc : Nat)
  deriving DecidableEq, Repr

/-- R165: a global address for an access; R155: a spill access ignores the page's CACHE and CHECKED. -/
def xlate (s : State) (u : Issuer) (sp : Space) (kind va : Nat) : Xlate :=
  match translate s u.t.core u.l.ctx u.c.root va kind with
  | .ok (.phys loc c k) => .ok (if sp = .k then .phys loc 0 false else .phys loc c k)
  | x => x

/-- The worse of two outcomes: a fatal fault, then an address that does not exist, then a walk. -/
def joinXlate (a b : Xlate) : Xlate :=
  match a, b with
  | .fatal n, _ => .fatal n
  | _, .fatal n => .fatal n
  | .nowhere n, _ => .nowhere n
  | _, .nowhere n => .nowhere n
  | .ok _, x => x
  | x, _ => x

/-- Where the data of a lane in the global or spill space goes: its bytes up to the end of the page, the rest,
and the scale byte. -/
def xlateGlobal (s : State) (u : Issuer) (sp : Space) (kind : Nat) (r : LaneReq) (va : Nat) : LaneXlate :=
  let here := Nat.min r.size (65536 - va % 65536)
  let t0 := xlate s u sp kind va
  let t1 := if here < r.size then some (xlate s u sp kind (va + here)) else none
  let t2 := r.scale.map fun p => (p, xlate s u sp kind p)
  let all := (va, t0) :: (t1.toList.map fun x => (va + here, x)) ++ t2.toList
  match all.foldl (fun a x => joinXlate a x.2) t0 with
  | .fatal n => .fatal n
  | .nowhere n => .nowhere n
  | .ok _ =>
    let of := fun x : Xlate => match x with
      | .ok t => t
      | _ => .phys 0 0 false
    .ok { lane := r.lane, va := r.va, target := of t0, tail := t1.map fun x => (of x, r.size - here)
          scale := t2.map fun x => (x.1, of x.2), size := here, data := r.data, performed := false
          value := none, poisoned := false, dest := r.dest }
  | _ => .miss ((all.filter fun x => match x.2 with
      | .ok _ => false
      | _ => true).map Prod.fst)

/-- Where the access of a lane goes. -/
def xlateLane (s : State) (u : Issuer) (sp : Space) (kind : Nat) (r : LaneReq) : LaneXlate :=
  let inTeam := fun (tid off : Nat) => LaneXlate.ok
    { lane := r.lane, va := r.va, target := .team tid off, tail := none
      scale := r.scale.map fun p => (p, .team tid p), size := r.size, data := r.data, performed := false
      value := none, poisoned := false, dest := r.dest }
  match sp with
  | .g => xlateGlobal s u sp kind r r.va
  | .k =>
    let va := spillAddress u r.va
    if canonical va r.size then xlateGlobal s u sp kind r va else .fatal memNoncanonical
  | .t => inTeam u.g.team r.va
  | .c => inTeam (clusterTeam s u (clusterCI r.va)) (clusterOFF r.va)

/-! ## Watchpoints (R329) -/

/-- R329: the ranges of a lane's access as watchpoints name them: whether in team space, start and length. -/
def watchRanges (u : Issuer) (sp : Space) (r : LaneReq) : List (Bool × Nat × Nat) :=
  let data := match sp with
    | .g => (false, r.va, r.size)
    | .t => (true, r.va, r.size)
    | .c => (true, clusterOFF r.va, r.size)
    | .k => (false, spillAddress u r.va, r.size)
  data :: (r.scale.toList.map fun p => (decide (sp ≠ .g), p, 1))

/-- R329, R417: the watchpoint that an access of a lane meets. -/
def watchpointOf (u : Issuer) (m : MemOp) (r : LaneReq) : Option Nat :=
  if u.isHandler then none else
  ((u.c.watchpoints.filter fun p =>
    p.2.enabled && decide (u.g.suppressed ≠ some (p.1, true)) &&
    ((p.2.onRead && m.kind.reads) || (p.2.onWrite && m.kind.writes)) &&
    (watchRanges u m.space r).any fun x =>
      decide (x.1 = p.2.team) && decide (x.2.1 < p.2.start + p.2.length) && decide (p.2.start < x.2.1 + x.2.2)).head?).map
    Prod.fst

/-! ## The checks of a lane, in the order of R435 -/

/-- A MEM fault of a lane. -/
def memRaise (sub lane va : Nat) : Raise := ⟨.mem, sub, lane, va, 0, 0⟩

/-- What a lane's checks come to. -/
inductive LaneCheck
  | fault (r : Raise)
  | xlate (x : LaneXlate)
  deriving DecidableEq, Repr

/-- R435, 4: POISON and OPER, WATCHPOINT, legality, alignment, translation. -/
def checkLane (s : State) (u : Issuer) (m : MemOp) (l : Nat) : LaneCheck :=
  match m.fault l with
  | some r => .fault r
  | none =>
    let r := m.req l
    match watchpointOf u m r with
    | some k => .fault ⟨.debug, 0x3, l, r.va, k, 0⟩
    | none =>
      if !legalIn u m.space r.va r.size || r.scale.any (fun p => !legalIn u m.space p 1) then
        .fault (memRaise (illegalSub m.space) l r.va)
      else if r.va % r.align ≠ 0 then .fault (memRaise memAlign l r.va)
      else match xlateLane s u m.space (accessKind m.kind) r with
        | .fatal sub => .fault (memRaise sub l r.va)
        | x => match m.late l with
          | some r => .fault r
          | none => .xlate x

/-- The lanes' accesses up to the first fault, and that fault. -/
def checkLanes (s : State) (u : Issuer) (m : MemOp) : List Nat → List LaneXlate × Option Raise
  | [] => ([], none)
  | l :: t =>
    match checkLane s u m l with
    | .fault r => ([], some (if m.scalar then { r with lane := 0xFF } else r))
    | .xlate x => let o := checkLanes s u m t; (x :: o.1, o.2)

/-- The accesses that have their address. -/
def readyLanes (xs : List LaneXlate) : List LaneAccess :=
  xs.filterMap fun x => match x with
    | .ok la => some la
    | _ => none

/-- The pages that need a walk, and the first address that does not exist. -/
def missedPages (xs : List LaneXlate) : List Nat :=
  xs.flatMap fun x => match x with
    | .miss ps => ps
    | _ => []
def firstNowhere (xs : List LaneXlate) : Option Nat :=
  firstSome (fun x => match x with
    | .nowhere n => some n
    | _ => none) xs

/-! ## The access of the instruction -/

/-- R174, R194, R195: the accesses of an instruction, stamped. -/
def accessOf (u : Issuer) (m : MemOp) (lanes : List LaneAccess) : Access where
  group := u.gid
  kind := m.kind
  space := m.space
  scalar := m.scalar
  lanes := lanes
  mask := laneMask m.enabled
  order := m.order
  scope := m.scope
  counter := hdrSetd u.header
  stamp := u.g.rc
  gens := u.g.gens
  clause := u.g.clause
  index := u.g.index
  opc := m.opc
  checked := false
  frozen := false
  race := none
  flags := 0
  sound := u.g.sound

/-- Whether every lane may perform now, after the group's earlier accesses, with its granules free. -/
def lanesFree (s : State) (a : Access) (lanes : List LaneAccess) : Bool :=
  lanes.all fun la => (earlierAccesses s a.group s.nextId).all (orderedAfter a la) && !granuleHeld s s.nextId la.ranges

/-- R12: the memory requests that a core has outstanding. -/
def requestsOf (s : State) (core : Nat) : Nat :=
  s.accesses.foldl (fun n p =>
    if (issuerOf s p.2.group).any (fun u => decide (u.t.core = core)) then n + p.2.lanes.length else n) 0

/-- R12: a core has no room for n more requests. -/
def requestsFull (s : State) (core n : Nat) : Bool := decide (Config.requests < requestsOf s core + n)

/-- R360: whether an atomic waits for the minimum in a DET launch. -/
def minimumWaited (k : AccessKind) : Bool :=
  match k with
  | .rmw op true =>
    match op with
    | .xchgB32 | .xchgB64 | .casB32 | .casB64 | .addF32 | .addF16x2 | .addBf16x2 => true
    | _ => false
  | _ => false

/-- R105: the registers that an access delivers to. -/
def pendingOf (a : Access) : List (Bool × Nat × Nat) := a.lanes.flatMap fun la => la.dest.map fun r => (a.scalar, r, la.lane)

/-- R105, R111, R357: an instruction that has faulted has had no effect: its registers are not pending, its counter, clock and
count stand as before. -/
def withdrawAccess (g : Group) (a : Access) (counted : Bool) : Group :=
  let g1 := (pendingOf a).foldl (fun g p => if p.1 then g.pendS p.2.1 false else g.pendV p.2.1 p.2.2 false) g
  { lowerCounter g1 a.counter with rc := a.stamp, ic := if counted then g.ic - 1 else g.ic }

/-- R202: the lanes that fault mode checks. -/
def checkedLanes (u : Issuer) (a : Access) : List LaneAccess :=
  if u.c.rmode = 2 then a.lanes.filter fun la => !(laneGranules u a la).isEmpty else []

/-- R202: the races of an instruction in fault mode, lanes ascending. -/
def racesOf (s : State) (u : Issuer) (a : Access) : List (LaneAccess × Granule × Found) :=
  if u.c.rmode = 2 then a.lanes.flatMap fun la => (laneRaces s u a la).map fun p => (la, p) else []

/-- R454, R456: the race record of an instruction in fault mode. -/
def raceRecordOf (s : State) (u : Issuer) (a : Access) (rs : List (LaneAccess × Granule × Found)) :
    Option (BitVec 512) :=
  rs.foldl (fun r p => addRace r
    (raceRecord (checkTime s (checkedOf u.g a p.1)) (checkedOf u.g a p.1) (markOf s p.2.1) p.2.2 (raceSite u a p.1))) none

/-- A fault of a memory instruction. -/
def trapMem (s : State) (u : Issuer) (m : MemOp) (r : Raise) : State :=
  if m.scalar then trapScalar s u r m.uses else trapLanes s u r m.enabled m.uses

/-- R202, R455: a race in fault mode: logged, and a precise fault. -/
def raceTrap (s : State) (u : Issuer) (m : MemOp) (a : Access) (rs : List (LaneAccess × Granule × Found)) : State :=
  match rs with
  | [] => s
  | p :: _ =>
    let s1 := match raceRecordOf s u a rs with
      | some r => logRace s u.l.ctx r
      | none => s
    let mark := markOf s p.2.1
    trapMem s1 u m ⟨.race, raceSub (checkedOf u.g a p.1) mark p.2.2, if m.scalar then 0xFF else p.1.lane,
      p.1.va, 0, BitVec.ofNat 128 mark.encode⟩

/-! ## Effects -/

/-- R105: registers become pending. -/
def pendAll (g : Group) (ps : List (Bool × Nat × Nat)) : Group :=
  ps.foldl (fun g p => if p.1 then g.pendS p.2.1 true else g.pendV p.2.1 p.2.2 true) g

/-- R194: a release stamps itself and the clock rises. -/
def bumpRelease (g : Group) (a : Access) : Group := if a.isRelease then { g with rc := g.rc + 1 } else g

/-- R403: the packet of a lane that goes to a peer is sent: its device, class, tenant, and its place and data there. -/
def sendLane (s : State) (u : Issuer) (aid : Nat) (a : Access) (la : LaneAccess) : State :=
  let (dev, off) := match (la.ranges.filter fun r => r.1.isPeer).head? with
    | some (.peer d o, _) => (d, o)
    | _ => (0, 0)
  let put := a.kind.writes && (match a.kind with
    | .rmw _ ret => !ret
    | _ => true)
  let cls := if put then 0 else if a.kind.isRmw then 2 else 1
  let data := if a.kind.writes then leBytes 34 la.data.toNat else leBytes 2 la.dataSize
  s.send dev cls u.c.tenant u.c.binding (.lane aid la.lane) (leBytes 8 off ++ data)

/-- R403, R352: the packets of an instruction's lanes that go to peers. -/
def sendLanes (s : State) (u : Issuer) (aid : Nat) (a : Access) : State :=
  (a.lanes.filter LaneAccess.toPeer).foldl (fun s la => sendLane s u aid a la) (if a.kind.writes then pinTeam s u.g.team else s)

/-- R38, R154: a load that names another team of its cluster. -/
def Access.isRemoteLoad (a : Access) (team : Nat) : Bool :=
  decide (a.space = .c) && !a.kind.writes && a.lanes.any fun la =>
    match la.target with
    | .team t _ => decide (t ≠ team)
    | _ => false

/-- R105, R108, R194, R357: the effects of issue. The lanes perform now where `now` says so; a group one of whose lanes goes to
a peer, or whose checks are still to be made, waits at the instruction (R463, R202). -/
def beginAccess (s : State) (u : Issuer) (aid : Nat) (a : Access) (pend : List (Bool × Nat × Nat)) (now checks : Bool) :
    State :=
  let g1 := bumpRelease (raiseCounter u (pendAll u.g pend)) a
  let record := if a.isRemoteLoad u.g.team then stalled a.sound 12 else a.sound
  let s1 := { s with accesses := s.accesses.insert aid { a with frozen := false, sound := record } }
  let counted := !(u.l.det && minimumWaited a.kind)
  let g2 := { g1 with sound := none, ic := if counted then g1.ic + 1 else g1.ic }
  let s2 :=
    if a.isRemoteLoad u.g.team then block s1 u ({ g1 with sound := none } : Group) (.remoteLoad aid)
    else if a.lanes.any LaneAccess.toPeer then block (sendLanes s1 u aid a) u g2 (.peers aid counted)
    else if checks then block s1 u g2 (.checks aid)
    else finishInFlight s1 u g1 voidEntry
  if now then (performLanes s2 aid true a.lanes.length a.lanes).getD s2 else s2

/-- R363: whether a reduction is buffered in a DET launch. -/
def floatRed : RedOp → Bool
  | .addF32 | .addF16x2 | .addBf16x2 => true
  | _ => false

/-- R360: the instruction holds its group in place until its key is the minimum. -/
def holdMinimum (s : State) (u : Issuer) (a : Access) : State :=
  let (n, s1) := s.fresh
  { s1 with accesses := s1.accesses.insert n { a with frozen := true } }.setGroup u.gid
    { u.g.stall 10 with status := .heldMinimum, wait := some (.minimum n) }

/-- R363: an entry of the reduction buffer for each lane; the instruction is complete. The accesses of entries count on no
counter: 8 stands for none. -/
def bufferReds (s : State) (u : Issuer) (a : Access) : State :=
  let es := a.lanes.map fun la =>
    (⟨u.g.g, u.g.ic.toNat, la.lane, { a with lanes := [la], counter := 8, sound := none }⟩ : RedEntry)
  finish (s.modifyTeam u.g.team fun t => { t with reds := t.reds ++ es }) u u.g voidEntry

/-- What a memory instruction does once every lane has its address. In fault mode its checks are made as it performs: now where
nothing of the group comes before it, else when what does has performed (R202). -/
def effectOf (s : State) (u : Issuer) (a : Access) (pend : List (Bool × Nat × Nat)) (red : Option RedOp) : Out :=
  if a.lanes.isEmpty then .next (finish s u u.g voidEntry)
  else match red with
    | some _ => .next (bufferReds s u a)
    | none =>
      if u.l.det && !u.calm && minimumWaited a.kind then .next (holdMinimum s u a)
      else
        let checks := !(checkedLanes u a).isEmpty
        let free := lanesFree s a a.lanes
        let held := a.lanes.any LaneAccess.toPeer || (checks && a.isRemoteLoad u.g.team)
        if requestsFull s u.t.core a.lanes.length then .next (stallIn s u 3)
        else if held && !free then .next s
        else
          let (n, s1) := s.fresh
          .next (beginAccess s1 u n { a with checked := checks && free } pend (checks && free) (checks && !free))

/-- R259, R435: a memory instruction whose group-level checks have passed. `red` says that it is buffered. -/
def issueAccess (s : State) (u : Issuer) (m : MemOp) (red : Option RedOp) : Out :=
  let (xs, fault) := checkLanes s u m m.lanes
  let a := accessOf u m (readyLanes xs)
  let early := if red.isSome || (u.l.det && !u.calm && minimumWaited m.kind) then [] else checkedLanes u a
  match fault with
  | some r =>
    if !lanesFree s a early then .next s
    else if early.isEmpty then .next (trapMem s u m r)
    else match racesOf s u a with
      | [] => .next (trapMem s u m r)
      | rs => .next (raceTrap s u m a rs)
  | none =>
    match firstNowhere xs with
    | some loc => .fault (.noSuchPhysicalAddress loc)
    | none =>
      match missedPages xs with
      | p :: ps => .next (parkFor s u ((p :: ps).map fun q => (q, accessKind m.kind)))
      | [] =>
        if early.isEmpty || !lanesFree s a early then effectOf s u a m.pend red
        else match racesOf s u a with
          | [] => effectOf s u a m.pend red
          | rs => .next (raceTrap s u m a rs)

/-! ## An access performs -/

/-- R202: an access that has issued in fault mode and not been checked. -/
def awaitsCheck (u : Issuer) (aid : Nat) : Bool := decide (u.g.wait = some (.checks aid))

/-- R202, R372: a race found as an access performs in fault mode: the access is left without effect, and its group traps at the
instruction. -/
def nullifyAccess (s : State) (u : Issuer) (aid : Nat) (a : Access) (p : LaneAccess × Granule × Found) : State :=
  let s1 := match raceRecordOf s u a (racesOf s u a) with
    | some r => logRace s u.l.ctx r
    | none => s
  let mark := markOf s p.2.1
  let r : Raise := ⟨.race, raceSub (checkedOf u.g a p.1) mark p.2.2, if a.scalar then 0xFF else p.1.lane, p.1.va, 0,
    BitVec.ofNat 128 mark.encode⟩
  let u1 := { u with g := withdrawAccess u.g a true }
  settle (takeTrap { s1 with accesses := s1.accesses.erase aid } u1
    { standingInfo s1 u1 r with enabled := if a.scalar then u.g.active else a.mask, scalar := a.scalar })

/-- The next n lanes of an access perform and return. One whose checks are still to be made is checked, and then performs in
every lane. -/
def advanceAccess (s : State) (aid n : Nat) (l1 : Bool) : Option State :=
  match s.accesses.get? aid with
  | none => none
  | some a =>
    if n = 0 ∨ a.lanes.length < n then none else
    match issuerOf s a.group with
    | none => (performLanes s aid l1 n a.lanes).map fun s1 => returnLanes s1 aid n
    | some u =>
      if !awaitsCheck u aid then (performLanes s aid l1 n a.lanes).map fun s1 => returnLanes s1 aid n
      else if !a.lanes.all (mayPerform s aid a) then none
      else match racesOf s u a with
        | p :: _ => some (nullifyAccess s u aid a p)
        | [] =>
          (performLanes (s.modifyAccess aid fun a => { a with checked := true }) aid l1 a.lanes.length a.lanes).map fun s1 =>
            returnLanes (settle s1) aid n

/-- R105, R108, R435: a memory instruction of a group: it waits while its counter cannot rise; then its
group-level checks; then its lanes. -/
def memoryOp (s : State) (build : Issuer → MemOp) (pre : Issuer → Option Raise)
    (red : Issuer → Option RedOp) : Out :=
  withIssuer s fun u =>
    if counterFull u then .next (stallIn s u 3) else
    match pre u with
    | some r => .next (trapMem s u (build u) r)
    | none => issueAccess s u (build u) (red u)

end Sys2Proof.Machine
end

