-- ==== Sys2Proof/Machine/Integer.lean ====
section
/-!
DEFINITION. Integer arithmetic, logic, shifts, bit fields, moves and addresses (spec/08 R221 to R231).
-/

namespace Sys2Proof.Machine

/-! ## The forms -/

/-- The size of the latch element of a result of a width. -/
def latchSize : IWidth → Nat
  | .w32 => 1
  | .w64 => 2

/-- D, A and B of one width (R221). -/
def form2 (w : IWidth) (f : FormV) : LaneForm :=
  ⟨f.tt, f.sc, destUnless f.nw (dstW w f.d), [srcW w fieldA f.a, srcW w fieldB f.b], latchSize w⟩

/-- D, A, B and C of one width (R224). -/
def form3 (w : IWidth) (f : FormV) : LaneForm :=
  ⟨f.tt, f.sc, destUnless f.nw (dstW w f.d), [srcW w fieldA f.a, srcW w fieldB f.b, srcW w fieldC f.c],
   latchSize w⟩

/-- D of one width and A of another (R226). -/
def form1 (wd w : IWidth) (f : FormV) : LaneForm :=
  ⟨f.tt, f.sc, destUnless f.nw (dstW wd f.d), [srcW w fieldA f.a], latchSize wd⟩

/-- R228: D and A of a width, and a 32-bit amount B. -/
def formShift (w : IWidth) (f : FormV) : LaneForm :=
  ⟨f.tt, f.sc, destUnless f.nw (dstW w f.d), [srcW w fieldA f.a, src fieldB f.b], latchSize w⟩

/-- R222: D and A of a width, and an immediate. -/
def formImm (w : IWidth) (f : FormI) : LaneForm :=
  ⟨f.tt, f.sc, destUnless f.nw (dstW w f.d), [srcW w fieldA f.a], latchSize w⟩

/-- R221: r from a and b. -/
def intOp2 (s : State) (w : IWidth) (f : FormV) (op : Nat → Nat → Nat) : Out :=
  vectorOp s (form2 w f) noCheck fun u l => outW w (op (rdW u w f.a l) (rdW u w f.b l))

/-- R224: r from a, b and c. -/
def intOp3 (s : State) (w : IWidth) (f : FormV) (op : Nat → Nat → Nat → Nat) : Out :=
  vectorOp s (form3 w f) noCheck fun u l => outW w (op (rdW u w f.a l) (rdW u w f.b l) (rdW u w f.c l))

/-- R226: r of width wd from a of width w. -/
def intOp1 (s : State) (wd w : IWidth) (f : FormV) (op : Nat → Nat) : Out :=
  vectorOp s (form1 wd w f) noCheck fun u l => outW wd (op (rdW u w f.a l))

/-- R228: r from a and the amount, taken modulo the width. -/
def shiftOp (s : State) (w : IWidth) (f : FormV) (op : Nat → Nat → Nat) : Out :=
  vectorOp s (formShift w f) noCheck fun u l =>
    outW w (op (rdW u w f.a l) ((rd u f.b l).toNat % widthBits w))

/-- R222: r from a and the immediate as a 32-bit code. -/
def immOp (s : State) (f : FormI) (op : Nat → Nat → Nat) : Out :=
  vectorOp s (formImm .w32 f) noCheck fun u l => out32 (op (rd u f.a l).toNat (immediate 32 f.imm))

/-- R228: r from a and an immediate amount. -/
def shiftImmOp (s : State) (f : FormI) (op : Nat → Nat → Nat) : Out :=
  vectorOp s (formImm .w32 f) noCheck fun u l => out32 (op (rd u f.a l).toNat f.imm.toNat)

/-! ## The instructions -/

/-- R221: add. -/
def execAdd (w : IWidth) (f : FormV) (s : State) : Out :=
  intOp2 s w f (intAdd (widthBits w))

/-- R222: add, immediate. -/
def execAddImm (f : FormI) (s : State) : Out :=
  immOp s f (intAdd 32)

/-- R221: sub. -/
def execSub (w : IWidth) (f : FormV) (s : State) : Out :=
  intOp2 s w f (intSub (widthBits w))

/-- R222: sub, immediate. -/
def execSubImm (f : FormI) (s : State) : Out :=
  immOp s f (intSub 32)

/-- R223: the operands of addc and subb. -/
def carryForm (f : FormV) : LaneForm :=
  ⟨f.tt, false, destUnless f.nw (dst f.d), [src fieldA f.a, src fieldB f.b], 1⟩

/-- R223: the carry or borrow of a lane. -/
def carryIn (f : FormV) (u : Issuer) (l : Nat) : Nat := if u.g.pred (f.c.toNat % 8) l then 1 else 0

/-- R223: addc. -/
def execAddc (f : FormV) (s : State) : Out :=
  vectorOp s (carryForm f) noCheck fun u l =>
    let t := (rd u f.a l).toNat + (rd u f.b l).toNat + carryIn f u l
    { out32 t with preds := [(f.c.toNat % 8, decide (2 ^ 32 ≤ t))] }

/-- R223: subb. -/
def execSubb (f : FormV) (s : State) : Out :=
  vectorOp s (carryForm f) noCheck fun u l =>
    let t : Int := ((rd u f.a l).toNat : Int) - (rd u f.b l).toNat - carryIn f u l
    { out32 (wrap t 32) with preds := [(f.c.toNat % 8, decide (t < 0))] }

/-- R221: mul. -/
def execMul (w : IWidth) (f : FormV) (s : State) : Out :=
  intOp2 s w f (intMul (widthBits w))

/-- R222: mul, immediate. -/
def execMulImm (f : FormI) (s : State) : Out :=
  immOp s f (intMul 32)

/-- R221: mulhi. -/
def execMulhi (g : Sign) (f : FormV) (s : State) : Out :=
  intOp2 s .w32 f (intMulHi g)

/-- R224: mad. -/
def execMad (w : IWidth) (f : FormV) (s : State) : Out :=
  intOp3 s w f (intMad (widthBits w))

/-- R224: madhi. -/
def execMadhi (g : Sign) (f : FormV) (s : State) : Out :=
  intOp3 s .w32 f (intMadHi g)

/-- R225: div. -/
def execDiv (g : Sign) (f : FormV) (s : State) : Out :=
  intOp2 s .w32 f (intDiv g)

/-- R225: rem. -/
def execRem (g : Sign) (f : FormV) (s : State) : Out :=
  intOp2 s .w32 f (intRem g)

/-- R221: min. -/
def execMin (w : IWidth) (g : Sign) (f : FormV) (s : State) : Out :=
  intOp2 s w f (intMin (widthBits w) g)

/-- R221: max. -/
def execMax (w : IWidth) (g : Sign) (f : FormV) (s : State) : Out :=
  intOp2 s w f (intMax (widthBits w) g)

/-- R222: min, immediate. -/
def execMinImm (f : FormI) (s : State) : Out :=
  immOp s f (intMin 32 .signed)

/-- R222: max, immediate. -/
def execMaxImm (f : FormI) (s : State) : Out :=
  immOp s f (intMax 32 .signed)

/-- R226: abs. -/
def execAbs (w : IWidth) (f : FormV) (s : State) : Out :=
  intOp1 s w w f (intAbs (widthBits w))

/-- R226: neg. -/
def execNeg (w : IWidth) (f : FormV) (s : State) : Out :=
  intOp1 s w w f (intNeg (widthBits w))

/-- R227: packed add. -/
def execAddPacked (e : PackWidth) (f : FormV) (s : State) : Out :=
  intOp2 s .w32 f (packedMap e (intAdd (packedElems e).2))

/-- R227: packed sub. -/
def execSubPacked (e : PackWidth) (f : FormV) (s : State) : Out :=
  intOp2 s .w32 f (packedMap e (intSub (packedElems e).2))

/-- R227: packed min. -/
def execMinPacked (e : PackWidth) (g : Sign) (f : FormV) (s : State) : Out :=
  intOp2 s .w32 f (packedMap e (intMin (packedElems e).2 g))

/-- R227: packed max. -/
def execMaxPacked (e : PackWidth) (g : Sign) (f : FormV) (s : State) : Out :=
  intOp2 s .w32 f (packedMap e (intMax (packedElems e).2 g))

/-- R221: and. -/
def execAnd (w : IWidth) (f : FormV) (s : State) : Out :=
  intOp2 s w f bitAnd

/-- R222: and, immediate. -/
def execAndImm (f : FormI) (s : State) : Out :=
  immOp s f bitAnd

/-- R221: or. -/
def execOr (w : IWidth) (f : FormV) (s : State) : Out :=
  intOp2 s w f bitOr

/-- R222: or, immediate. -/
def execOrImm (f : FormI) (s : State) : Out :=
  immOp s f bitOr

/-- R221: xor. -/
def execXor (w : IWidth) (f : FormV) (s : State) : Out :=
  intOp2 s w f bitXor

/-- R222: xor, immediate. -/
def execXorImm (f : FormI) (s : State) : Out :=
  immOp s f bitXor

/-- R221: andn. -/
def execAndn (w : IWidth) (f : FormV) (s : State) : Out :=
  intOp2 s w f (bitAndn (widthBits w))

/-- R226: not. -/
def execNot (w : IWidth) (f : FormV) (s : State) : Out :=
  intOp1 s w w f (bitNot (widthBits w))

/-- R228: shl. -/
def execShl (w : IWidth) (f : FormV) (s : State) : Out :=
  shiftOp s w f (shiftLeft (widthBits w))

/-- R228: shl, immediate. -/
def execShlImm (f : FormI) (s : State) : Out :=
  shiftImmOp s f (shiftLeft 32)

/-- R228: shr. -/
def execShr (w : IWidth) (f : FormV) (s : State) : Out :=
  shiftOp s w f shiftRight

/-- R228: shr, immediate. -/
def execShrImm (f : FormI) (s : State) : Out :=
  shiftImmOp s f shiftRight

/-- R228: sar. -/
def execSar (w : IWidth) (f : FormV) (s : State) : Out :=
  shiftOp s w f (shiftArith (widthBits w))

/-- R228: sar, immediate. -/
def execSarImm (f : FormI) (s : State) : Out :=
  shiftImmOp s f (shiftArith 32)

/-- R228: rotl. -/
def execRotl (w : IWidth) (f : FormV) (s : State) : Out :=
  shiftOp s w f (rotateLeft (widthBits w))

/-- R228: rotl, immediate. -/
def execRotlImm (f : FormI) (s : State) : Out :=
  shiftImmOp s f (rotateLeft 32)

/-- R229: bfe. -/
def execBfe (g : Sign) (f : FormV) (s : State) : Out :=
  intOp3 s .w32 f (bitExtract g)

/-- R229: bfi. -/
def execBfi (f : FormV) (s : State) : Out :=
  intOp3 s .w32 f bitInsert

/-- R226: popc. -/
def execPopc (w : IWidth) (f : FormV) (s : State) : Out :=
  intOp1 s .w32 w f (popCount (widthBits w))

/-- R226: clz. -/
def execClz (w : IWidth) (f : FormV) (s : State) : Out :=
  intOp1 s .w32 w f (leadingZeros (widthBits w))

/-- R226: ctz. -/
def execCtz (w : IWidth) (f : FormV) (s : State) : Out :=
  intOp1 s .w32 w f (trailingZeros (widthBits w))

/-- R226: brev. -/
def execBrev (w : IWidth) (f : FormV) (s : State) : Out :=
  intOp1 s w w f (bitReverse (widthBits w))

/-- R226: mov. -/
def execMov (w : IWidth) (f : FormV) (s : State) : Out :=
  intOp1 s w w f fun a => a

/-- R230: movi. -/
def execMovi (f : FormI) (s : State) : Out :=
  vectorOp s ⟨f.tt, f.sc, destUnless f.nw (dst f.d), [], 1⟩ noCheck fun _ _ => out32 (immediate 32 f.imm)

/-- R230: movh. -/
def execMovh (f : FormI) (s : State) : Out :=
  vectorOp s (formImm .w32 f) noCheck fun u l => out32 (moveHigh f.imm.toNat (rd u f.a l).toNat)

/-- R231: lea. -/
def execLea (f : FormV) (s : State) : Out :=
  vectorOp s (formShift .w64 f) noCheck fun u l =>
    out64 (scaledAddress (rd64 u f.a l).toNat (rd u f.b l).toNat (f.c.toNat % 8))

/-- R231: lea, immediate. -/
def execLeaImm (f : FormI) (s : State) : Out :=
  vectorOp s (formImm .w64 f) noCheck fun u l => out64 (intAdd 64 (rd64 u f.a l).toNat (immediate 64 f.imm))

end Sys2Proof.Machine
end

