-- ==== Sys2Proof/Machine/Deferred.lean ====
section
/-!
DEFINITION. Long-latency instructions whose result is computed from operands read at issue and written at
completion (spec/04 R105 to R108; spec/09 R248, R255; spec/11 R307, R316).
-/

namespace Sys2Proof.Machine

/-- The registers that a result of n words names in a lane, or for a scalar-marked instruction. -/
def resultRegs (u : Issuer) (d : Use) (lane n : Nat) : List Nat :=
  match operandOf d.code with
  | .s k => upFrom k n
  | _ => match vectorReg u.g d.code lane with
    | some k => upFrom k n
    | none => []

/-- The writes that a lane's result makes at completion. -/
def resultWrites (u : Issuer) (d : Use) (scalar : Bool) (lane : Nat) (words : List Word) :
    List DeferredWrite :=
  ((resultRegs u d lane words.length).zip words).map fun p => ⟨scalar, p.1, lane, p.2, false⟩

/-- R105: the pending bits of deferred writes set. -/
def pendWrites (g : Group) (ws : List DeferredWrite) : Group :=
  ws.foldl (fun g w => if w.scalar then g.pendS w.reg true else g.pendV w.reg w.lane true) g

/-- R105: the instruction issues: its destinations are pending, its counter rises, its latch entry is void,
and its result is on its way. With no enabled lane it completes at issue (R108). -/
def issueDeferred (s : State) (u : Issuer) (kind : DeferredKind) (ws : List DeferredWrite) (fl : Flags) : State :=
  if ws.isEmpty then finish s u u.g voidEntry else
  let (n, s1) := s.fresh
  let s2 := { s1 with deferred := s1.deferred.insert n ⟨u.gid, kind, ws, fl, hdrSetd u.header, u.g.sound⟩ }
  finishInFlight s2 u (raiseCounter u (pendWrites u.g ws)) voidEntry

/-- The writes and flags of a long-latency per-lane or scalar-marked instruction. -/
def deferredOuts (u : Issuer) (k : LaneForm) (d : Use) (f : Nat → LaneOut) : List DeferredWrite × Flags :=
  let lanes := if k.sc then [0] else u.enabledLanes k.tt
  (lanes.flatMap fun l => resultWrites u d k.sc l (f l).words, lanes.foldl (fun fl l => fl ||| (f l).flags) 0)

/-- R105, R108: a long-latency per-lane or scalar-marked instruction. It waits in place while its counter
cannot rise. -/
def longOp (s : State) (k : LaneForm) (d : Use) (kind : DeferredKind) (pre : Issuer → Option Raise)
    (f : Issuer → Nat → LaneOut) : Out :=
  withIssuer s fun u =>
    if counterFull u then .next (stallIn s u 3) else
    match pre u with
    | some r => .next (trapLanes s u r (u.enabledLanes k.tt) k.uses)
    | none =>
      let fault := if k.sc then scalarFault u k.uses else lanesFault u k.uses (u.enabledLanes k.tt)
      match fault with
      | some r => .next (if k.sc then trapScalar s u r k.uses else trapLanes s u r (u.enabledLanes k.tt) k.uses)
      | none =>
        let o := deferredOuts u k d (f u)
        .next (issueDeferred s u kind o.1 o.2)

/-- R105, R250, R255: a result is written, its pending bits are cleared, its flags are set and its counter
falls. -/
def completeDeferred (s : State) (n : Nat) (ok : DeferredKind → Bool) : Out :=
  match s.deferred.get? n with
  | none => .refused .notEnabled
  | some d =>
    if !ok d.kind then .refused .notEnabled else
    let s1 := { s with deferred := s.deferred.erase n }
    let s2 := s1.modifyGroup d.group fun g =>
      (lowerCounter (d.writes.foldl (fun g w => deliverWord g w.scalar w.reg w.lane w.value w.poisoned) g)
        d.counter).orFpstat d.flags
    match issuerOf s2 d.group with
    | none => .next s2
    | some u => .next (soundEnd s2 u.l.ctx d.sound id)

end Sys2Proof.Machine
end

