-- ==== Sys2Proof/Machine/Dot.lean ====
section
/-!
DEFINITION. Dot products in the one order that Volauz fixes (spec/05 R139 to R146).
-/

namespace Sys2Proof.Machine

/-- R141: the product of two elements, rounded once to FP32 (exact for every format but bf16 and f32). -/
def dotProduct (x y : Num) : Coded :=
  nanOr f32Fmt [x, y] (deliver f32Fmt .rn (exactProduct x y) 0)

/-- R142: one level of the tree: neighbours added in FP32, to nearest even. -/
def treeLevel : List Nat → List Nat × Flags
  | a :: b :: t =>
    let s := floatAdd f32Fmt .rn a b
    let r := treeLevel t
    (s.1 :: r.1, s.2 ||| r.2)
  | rest => (rest, 0)

/-- R142: the given number of levels. -/
def tree : Nat → List Nat → List Nat × Flags
  | 0, ts => (ts, 0)
  | n + 1, ts =>
    let l := treeLevel ts
    let r := tree n l.1
    (r.1, l.2 ||| r.2)

/-- R145: the products of a block, with +0 from the shorter list's end to position 31. -/
def blockProducts (a b : List Num) : List Coded :=
  let ps := (a.zip b).map fun p => dotProduct p.1 p.2
  ps ++ List.replicate (32 - ps.length) (0, 0)

/-- R142: block_dot; sa and sb are E8M0 codes. -/
def blockDot (a b : List Num) (sa sb : Nat) : Coded :=
  if sa = 0xFF ∨ sb = 0xFF then (f32Fmt.nanCode, flagNV ||| flagSN)
  else
    let ps := blockProducts a b
    let t := tree 5 (ps.map Prod.fst)
    let r := encodeFloat f32Fmt .rn false
      ((decodeFloat f32Fmt (t.1.headD 0)).scale ((sa : Int) - 127 + ((sb : Int) - 127)))
    (r.1, ps.foldl (fun acc p => acc ||| p.2) 0 ||| t.2 ||| r.2)

/-- R143: a block added to the accumulator, in FP32 to nearest even. -/
def accumulateFloat (c : Nat) (block : Coded) : Coded :=
  let r := floatAdd f32Fmt .rn c block.1
  (r.1, r.2 ||| block.2)

/-- R144: the exact sum of the exact products of integer elements. -/
def intDot (a b : List Int) : Int := (a.zip b).foldl (fun acc p => acc + p.1 * p.2) 0

/-- R144: an exact block sum added to the i32 accumulator, wrapping or clamping. -/
def accumulateInt (sat : Bool) (c : Nat) (t : Int) : Coded :=
  let x := sext c 32 + t
  if sat then
    if x < -(2 : Int) ^ 31 then (wrap (-(2 : Int) ^ 31) 32, flagSATF)
    else if (2 : Int) ^ 31 - 1 < x then (wrap ((2 : Int) ^ 31 - 1) 32, flagSATF)
    else (wrap x 32, 0)
  else (wrap x 32, 0)

/-- The value of an integer element code under a code of FMT. -/
def intElement (fmt code : Nat) : Int :=
  match fmtInt fmt with
  | some (n, sg) => intValue n sg code
  | none => 0

/-- The value of a floating-point element code under a code of FMT; i8 is read as MXINT8. -/
def floatElement (fmt code : Nat) : Num := elementValue fmt true code

/-- R143, R144: one block of element codes added to an accumulator word. -/
def accumulateBlock (kind : DotKind) (fmt : Word) (c : Nat) (a b : List Nat) (sa sb : Nat) : Coded :=
  match kind with
  | .integer =>
    accumulateInt (fmtSAT fmt) c
      (intDot (a.map (intElement (fmtAF fmt))) (b.map (intElement (fmtBF fmt))))
  | _ =>
    accumulateFloat c
      (blockDot (a.map (floatElement (fmtAF fmt))) (b.map (floatElement (fmtBF fmt))) sa sb)

/-- Elements 0 to n - 1 of consecutive registers, as codes under a code of FMT. -/
def elementsOf (fmt : Nat) (regs : List Nat) : List Nat :=
  regs.flatMap fun w => (upFrom 0 (elementsPerRegister fmt)).map (elementOf fmt w)

/-- R254: dotp with SCALE = 0 on one register of each operand. -/
def dotpShort (kind : DotKind) (fmt : Word) (a b c : Nat) : Coded :=
  let n := min (elementsPerRegister (fmtAF fmt)) (elementsPerRegister (fmtBF fmt))
  accumulateBlock kind fmt c ((elementsOf (fmtAF fmt) [a]).take n) ((elementsOf (fmtBF fmt) [b]).take n)
    127 127

/-- R255: registers that hold 32 elements of a format. -/
def registersPerBlock (fmt : Nat) : Nat := 32 / elementsPerRegister fmt

/-- R255: dotp with SCALE = 1 on one MX block. -/
def dotpBlock (kind : DotKind) (fmt : Word) (a b : List Nat) (acc scales : Nat) : Coded :=
  accumulateBlock kind fmt acc (elementsOf (fmtAF fmt) a) (elementsOf (fmtBF fmt) b)
    (scales % 256) (scales / 256 % 256)

/-- R253: packs n FP32 codes into one register of elements of a format. -/
def packElements (fmt : Nat) (mode : Rounding) (sat : Bool) (xs : List Nat) : Coded :=
  let w := 32 / elementsPerRegister fmt
  let cs := xs.map fun x => elementCode fmt false mode sat (decodeFloat f32Fmt x)
  ((cs.map Prod.fst).foldr (fun c acc => c + 2 ^ w * acc) 0,
   cs.foldl (fun acc c => acc ||| c.2) 0)

/-- R253: the FP32 codes of the elements of a register. -/
def unpackElements (fmt w : Nat) : List Coded :=
  (elementsOf fmt [w]).map fun e => encodeFloat f32Fmt .rn false (elementValue fmt false e)

end Sys2Proof.Machine
end

