-- ==== Sys2Proof/Machine/Floating.lean ====
section
/-!
DEFINITION. Floating-point arithmetic (spec/09 R236 to R247).
-/

namespace Sys2Proof.Machine

/-! ## Formats and forms -/

/-- The format and the register width of a scalar floating-point type. -/
def fwFmt : FWidth → FloatFmt
  | .f32 => f32Fmt
  | .f64 => f64Fmt
def fwWidth : FWidth → IWidth
  | .f32 => .w32
  | .f64 => .w64

/-- The register width of a type of R116, variant p, and of an arithmetic form. -/
def ftWidth : FType → IWidth
  | .f64 => .w64
  | _ => .w32
def arithWidth : ArithForm → IWidth
  | .f64 _ => .w64
  | _ => .w32

/-- An outcome with its flags. -/
def outC (w : IWidth) (r : Coded) : LaneOut := withFlags (outW w r.1) r.2

/-- R238: an operation of a format and a mode applied to registers of an arithmetic form. -/
def arithOn (t : ArithForm) (op : FloatFmt → Rounding → Nat → Nat → Nat → Coded) (a b c : Nat) : Coded :=
  match t with
  | .f32 m => op f32Fmt m a b c
  | .f64 m => op f64Fmt m a b c
  | .f16x2 => packed2 (op f16Fmt .rn) a b c
  | .bf16x2 => packed2 (op bf16Fmt .rn) a b c

/-- R238: an operation of a format applied to registers of a type. -/
def typeOn (t : FType) (op : FloatFmt → Nat → Nat → Coded) (a b : Nat) : Coded :=
  match t with
  | .f32 => op f32Fmt a b
  | .f64 => op f64Fmt a b
  | .f16x2 => packed2 (fun x y _ => op f16Fmt x y) a b 0
  | .bf16x2 => packed2 (fun x y _ => op bf16Fmt x y) a b 0

/-- R239, R242: a two-source operation. -/
def floatOp2 (s : State) (t : ArithForm) (f : FormV) (op : FloatFmt → Rounding → Nat → Nat → Coded) : Out :=
  let w := arithWidth t
  vectorOp s (form2 w f) noCheck fun u l =>
    outC w (arithOn t (fun g m a b _ => op g m a b) (rdW u w f.a l) (rdW u w f.b l) 0)

/-- R243, R244: a two-source operation without rounding. -/
def typeOp2 (s : State) (t : FType) (f : FormV) (op : FloatFmt → Nat → Nat → Coded) : Out :=
  let w := ftWidth t
  vectorOp s (form2 w f) noCheck fun u l => outC w (typeOn t op (rdW u w f.a l) (rdW u w f.b l))

/-- R244: a one-source operation without rounding. -/
def typeOp1 (s : State) (t : FType) (f : FormV) (op : FloatFmt → Nat → Coded) : Out :=
  let w := ftWidth t
  vectorOp s (form1 w w f) noCheck fun u l => outC w (typeOn t (fun g a _ => op g a) (rdW u w f.a l) 0)

/-- R241: the FP32 code of an immediate. -/
def floatImmediate (imm : BitVec 22) : Nat := imm.toNat * 2 ^ 10

/-- R241: an immediate form, to nearest even. -/
def floatImmOp (s : State) (f : FormI) (op : FloatFmt → Rounding → Nat → Nat → Coded) : Out :=
  vectorOp s (formImm .w32 f) noCheck fun u l =>
    outC .w32 (op f32Fmt .rn (rd u f.a l).toNat (floatImmediate f.imm))

/-! ## The instructions -/

/-- R239, R242: fadd. -/
def execFadd (t : ArithForm) (f : FormV) (s : State) : Out :=
  floatOp2 s t f floatAdd

/-- R239, R242: fsub. -/
def execFsub (t : ArithForm) (f : FormV) (s : State) : Out :=
  floatOp2 s t f floatSub

/-- R239, R242: fmul. -/
def execFmul (t : ArithForm) (f : FormV) (s : State) : Out :=
  floatOp2 s t f floatMul

/-- R239, R242: ffma. -/
def execFfma (t : ArithForm) (f : FormV) (s : State) : Out :=
  let w := arithWidth t
  vectorOp s (form3 w f) noCheck fun u l =>
    outC w (arithOn t floatFma (rdW u w f.a l) (rdW u w f.b l) (rdW u w f.c l))

/-- R241: fadd, immediate. -/
def execFaddImm (f : FormI) (s : State) : Out :=
  floatImmOp s f floatAdd

/-- R241: fsub, immediate. -/
def execFsubImm (f : FormI) (s : State) : Out :=
  floatImmOp s f floatSub

/-- R241: fmul, immediate. -/
def execFmulImm (f : FormI) (s : State) : Out :=
  floatImmOp s f floatMul

/-- R240: fdiv. -/
def execFdiv (t : FWidth) (m : Rounding) (f : FormV) (s : State) : Out :=
  vectorOp s (form2 (fwWidth t) f) noCheck fun u l =>
    outC (fwWidth t) (floatDiv (fwFmt t) m (rdW u (fwWidth t) f.a l) (rdW u (fwWidth t) f.b l))

/-- R240: fsqrt. -/
def execFsqrt (t : FWidth) (m : Rounding) (f : FormV) (s : State) : Out :=
  vectorOp s (form1 (fwWidth t) (fwWidth t) f) noCheck fun u l =>
    outC (fwWidth t) (floatSqrt (fwFmt t) m (rdW u (fwWidth t) f.a l))

/-- R243: fmin. -/
def execFmin (t : FType) (f : FormV) (s : State) : Out :=
  typeOp2 s t f fun g => floatMinMax g false false

/-- R243: fmax. -/
def execFmax (t : FType) (f : FormV) (s : State) : Out :=
  typeOp2 s t f fun g => floatMinMax g true false

/-- R243: fminn. -/
def execFminn (t : FType) (f : FormV) (s : State) : Out :=
  typeOp2 s t f fun g => floatMinMax g false true

/-- R243: fmaxn. -/
def execFmaxn (t : FType) (f : FormV) (s : State) : Out :=
  typeOp2 s t f fun g => floatMinMax g true true

/-- R244: fabs. -/
def execFabs (t : FType) (f : FormV) (s : State) : Out :=
  typeOp1 s t f fun g a => floatSign g .clear a 0

/-- R244: fneg. -/
def execFneg (t : FType) (f : FormV) (s : State) : Out :=
  typeOp1 s t f fun g a => floatSign g .invert a 0

/-- R244: fcopysign. -/
def execFcopysign (t : FType) (f : FormV) (s : State) : Out :=
  typeOp2 s t f fun g => floatSign g .copy

/-- R245: fclass. -/
def execFclass (t : FWidth) (f : FormV) (s : State) : Out :=
  vectorOp s (form1 .w32 (fwWidth t) f) noCheck fun u l =>
    out32 (floatClass (fwFmt t) (rdW u (fwWidth t) f.a l))

/-- R246: fscale. -/
def execFscale (t : FWidth) (f : FormV) (s : State) : Out :=
  vectorOp s (formShift (fwWidth t) f) noCheck fun u l =>
    outC (fwWidth t) (floatScale (fwFmt t) (rdW u (fwWidth t) f.a l) (sext (rd u f.b l).toNat 32))

/-- R247: frnd. -/
def execFrnd (t : FWidth) (m : Rounding) (f : FormV) (s : State) : Out :=
  vectorOp s (form1 (fwWidth t) (fwWidth t) f) noCheck fun u l =>
    outC (fwWidth t) (floatIntegral (fwFmt t) m (rdW u (fwWidth t) f.a l))

end Sys2Proof.Machine
end

