-- ==== Sys2Proof/Machine/Convert.lean ====
section
/-!
DEFINITION. Conversions, packed dot products and MX quantisation (spec/09 R251 to R257).
-/

namespace Sys2Proof.Machine

/-! ## cvt and fxcvt -/

/-- The register width of a type that is or is not held in a pair. -/
def pairWidth (wide : Bool) : IWidth := if wide then .w64 else .w32

/-- R251: cvt. -/
def execCvt (f : FormV) (s : State) : Out :=
  let dt := field f.c.toNat 10 8
  let st := field f.c.toNat 7 5
  let wd := pairWidth (cvtWide dt)
  let ws := pairWidth (cvtWide st)
  vectorOp s (form1 wd ws f) noCheck fun u l =>
    outC wd (convert (cvtType dt) (cvtType st) (roundingOf (field f.c.toNat 4 3)) (bitOf f.c.toNat 2)
      (rdW u ws f.a l))

/-- R96, R252: the fields of the control of fxcvt: the float type, the direction, SAT and the mode. -/
def fxFloat64 (c : BitVec 11) : Bool := bitOf c.toNat 1
def fxToFloat (c : BitVec 11) : Bool := bitOf c.toNat 0
def fxSat (c : BitVec 11) : Bool := bitOf c.toNat 2
def fxMode (c : BitVec 11) : Rounding := roundingOf (field c.toNat 4 3)

/-- R252: fxcvt. -/
def execFxcvt (f : FormV) (s : State) : Out :=
  let w := pairWidth (fxFloat64 f.c)
  let fmt := if fxFloat64 f.c then f64Fmt else f32Fmt
  if fxToFloat f.c then
    vectorOp s (form1 w .w64 f) noCheck fun u l =>
      outC w (encodeFloat fmt (fxMode f.c) false (Num.ofInt (sext (rd64 u f.a l).toNat 64) (-32)))
  else
    vectorOp s (form1 .w64 w f) noCheck fun u l =>
      outC .w64 (roundToX64 (fxMode f.c) (fxSat f.c) (decodeFloat fmt (rdW u w f.a l)))

/-! ## cvtp (R253) -/

/-- R253: the formats that cvtp accepts. -/
def cvtpCheck (u : Issuer) : Option Raise :=
  if fmtAF u.g.fmt = 0 ∨ 12 ≤ fmtAF u.g.fmt then some (.group .fmt 0x4 0) else none

/-- R253: cvtp.pack. -/
def execCvtpPack (f : FormV) (s : State) : Out :=
  withIssuer s fun u =>
    let af := fmtAF u.g.fmt
    let n := elementsPerRegister af
    vectorOp s ⟨f.tt, false, destUnless f.nw (dst f.d), [srcRun fieldA f.a n], 1⟩ cvtpCheck fun u l =>
      outC .w32 (packElements af (fmtRMODE u.g.fmt) (fmtSAT u.g.fmt)
        ((upFrom 0 n).map fun k => (rdRun u f.a k l).toNat))

/-- R123, R134, R253: the results of a run of registers, with the flags of each. -/
def outRun (rs : List Coded) : LaneOut :=
  ⟨rs.map fun r => BitVec.ofNat 32 r.1, [], none, rs.foldl (fun w r => w ||| r.2) 0⟩

/-- R123, R253: cvtp.unpack. A signalling NaN element sets NV. -/
def execCvtpUnpack (f : FormV) (s : State) : Out :=
  withIssuer s fun u =>
    let af := fmtAF u.g.fmt
    vectorOp s ⟨f.tt, false, some (dstRun f.d (elementsPerRegister af)), [src fieldA f.a], 0⟩ cvtpCheck
      fun u l => outRun (unpackElements af (rd u f.a l).toNat)

/-! ## dotp (R254, R255) -/

/-- R139, R254: the combination of FMT. -/
def dotCheck (u : Issuer) : Option Raise :=
  match dotKind u.g.fmt with
  | none => some (.group .fmt 0x2 0)
  | some .single => some (.group .fmt 0x2 0)
  | some _ => none

/-- R102, R255: what a word of a scaled dotp breaks: NW = 1, and operands that are no direct vector
registers. -/
def scaledDotFault (f : FormV) : Option Nat :=
  let direct := fun c : BitVec 11 => match operandOf c with
    | .v _ => true
    | _ => false
  if !direct f.a || !direct f.b then some Enc.operand else if f.nw then some Enc.nw else none

/-- R255: the operands of a scaled dotp. -/
def scaledDotForm (u : Issuer) (f : FormV) : LaneForm :=
  ⟨f.tt, false, some (dst f.d), [srcRun fieldA f.a (registersPerBlock (fmtAF u.g.fmt)),
    srcRun fieldB f.b (registersPerBlock (fmtBF u.g.fmt)), src64 fieldC f.c], 0⟩

/-- The registers of a run in a lane. -/
def runValues (u : Issuer) (code : BitVec 11) (n l : Nat) : List Nat :=
  (upFrom 0 n).map fun k => (rdRun u code k l).toNat

/-- R255: the result of a scaled dotp in a lane. -/
def scaledDotLane (f : FormV) (u : Issuer) (l : Nat) : LaneOut :=
  let fmt := u.g.fmt
  let c := (rd64 u f.c l).toNat
  outC .w32 (dotpBlock ((dotKind fmt).getD .narrow) fmt (runValues u f.a (registersPerBlock (fmtAF fmt)) l)
    (runValues u f.b (registersPerBlock (fmtBF fmt)) l) (c % 2 ^ 32) (c / 2 ^ 32))

/-- R254, R255: dotp. -/
def execDotp (f : FormV) (s : State) : Out :=
  withIssuer s fun u =>
    if fmtSCALE u.g.fmt then
      match scaledDotFault f with
      | some sub => .next (trapLanes s u (.group .enc sub 0) (u.enabledLanes f.tt) [dst f.d, src fieldA f.a, src fieldB f.b, src64 fieldC f.c])
      | none => longOp s (scaledDotForm u f) (dst f.d) .dotp dotCheck (scaledDotLane f)
    else
      vectorOp s ⟨f.tt, false, destUnless f.nw (dst f.d), [src fieldA f.a, src fieldB f.b, src fieldC f.c], 1⟩
        dotCheck fun u l =>
          outC .w32 (dotpShort ((dotKind u.g.fmt).getD .narrow) u.g.fmt (rd u f.a l).toNat (rd u f.b l).toNat
            (rd u f.c l).toNat)

/-- DOTP_SCALED_COMPLETION (R255). -/
def execDotpScaledCompletion (access : Nat) (s : State) : Out :=
  completeDeferred s access fun k => decide (k = .dotp)

/-! ## mxq and mxd (R256, R257) -/

/-- R256: the element formats that mxq and mxd accept. -/
def mxFmt (af : Nat) : Bool := decide (3 ≤ af) && decide (af ≤ 8)

/-- R256: the check of FMT.AF. -/
def mxCheck (u : Issuer) : Option Raise :=
  if mxFmt (fmtAF u.g.fmt) then none else some (.group .fmt 0x4 0)

/-- R256: the scale scalar of a lane word. -/
def scaleReg (code : BitVec 11) (word : Nat) : Nat :=
  match operandOf code with
  | .s k => k + word
  | _ => 0

/-- R256, R439: the faults of naming the scale scalar of a lane's word. -/
def scaleFault (u : Issuer) (field : Nat) (code : BitVec 11) (l : Nat) : Option Raise :=
  let n := scaleReg code (l / 32)
  if u.l.sregs ≤ n then some (operRaise 0x1 l field code (l / 32))
  else if u.g.sPend n then some (operRaise 0x4 l field code (l / 32)) else none

/-- R443: a poisoned scale scalar. -/
def scalePoison (u : Issuer) (code : BitVec 11) (l : Nat) : Option Raise :=
  let n := scaleReg code (l / 32)
  if u.g.sBad n then some (poisonRaise l n) else none

/-- R435: the first fault of a lane of mxq or mxd; `reads` says that the scale scalar is read. -/
def mxFault (f : FormV) (reads : Bool) (uses : List Use) (u : Issuer) (l : Nat) : Option Raise :=
  firstSome id [firstSome (usePoison u l) uses, if reads then scalePoison u f.b l else none,
    firstSome (useFault u l) uses, scaleFault u fieldB f.b l]

/-- The lane words that have an enabled lane. -/
def enabledWords (lanes : List Nat) : List Nat := (upFrom 0 4).filter fun j => lanes.any fun l => decide (l / 32 = j)

/-- R256: a lane word quantised: its scale code, the codes of its 32 positions, and the flags. -/
def quantiseWord (u : Issuer) (f : FormV) (j : Nat) : Nat × List Nat × Flags :=
  mxQuantise (fmtAF u.g.fmt) (fmtRMODE u.g.fmt)
    ((upFrom (32 * j) 32).map fun l => if l ∈ u.enabledLanes f.tt then (rd u f.a l).toNat else 0)

/-- R256: what mxq writes to D in the lanes of a lane word. -/
def quantiseOuts (u : Issuer) (f : FormV) (j : Nat) : List (Nat × LaneOut) :=
  ((u.enabledLanes f.tt).filter fun l => decide (l / 32 = j)).map fun l =>
    (l, out32 ((quantiseWord u f j).2.1.getD (l % 32) 0))

/-- R256: what mxq writes for a lane word. -/
def quantiseInto (u : Issuer) (f : FormV) (g : Group) (j : Nat) : Group :=
  (writeLanes u.g (some f.d) (g.setS (scaleReg f.b j) (BitVec.ofNat 32 (quantiseWord u f j).1))
    (quantiseOuts u f j)).orFpstat (quantiseWord u f j).2.2

/-- R256: mxq. Its latch entry holds the codes (R103). -/
def execMxq (f : FormV) (s : State) : Out :=
  checkedOp s f.tt [dst f.d, src fieldA f.a, src fieldB f.b] mxCheck (mxFault f false [dst f.d, src fieldA f.a])
    fun u =>
      let words := enabledWords (u.enabledLanes f.tt)
      finish s u (words.foldl (quantiseInto u f) u.g) (resultEntry false (words.flatMap (quantiseOuts u f)))

/-- R257: mxd. -/
def execMxd (f : FormV) (s : State) : Out :=
  let k : LaneForm := ⟨f.tt, false, destUnless f.nw (dst f.d), [src fieldA f.a], 1⟩
  checkedOp s f.tt (k.uses ++ [src fieldB f.b]) mxCheck (mxFault f true k.uses) fun u =>
    runLanes s u k fun l =>
      outC .w32 (mxDequantise (fmtAF u.g.fmt) ((u.g.sreg (scaleReg f.b (l / 32))).toNat % 256) (rd u f.a l).toNat)

end Sys2Proof.Machine
end

