-- ==== Sys2Proof/Machine/LoadStore.lean ====
section
/-!
DEFINITION. Loads, stores, prefetch and MX block accesses (spec/10 R261 to R267), and the steps in which they
perform and complete (spec/04 R105, R106).
-/

namespace Sys2Proof.Machine

/-! ## Widths (R261) -/

/-- R261: the bytes of a load width and of a store width. -/
def loadBytes : LoadWidth → Nat
  | .n8 | .i8 => 1
  | .n16 | .i16 => 2
  | .b32 => 4
  | .b64 => 8
  | .b128 => 16
def storeBytes : StoreWidth → Nat
  | .b8 => 1
  | .b16 => 2
  | .b32 => 4
  | .b64 => 8
  | .b128 => 16

/-- R261: the registers of a datum of n bytes. -/
def dataRegs (n : Nat) : Nat := (n + 3) / 4

/-- R261: the data operand, of k registers from a multiple of k. -/
def dataUse (code : BitVec 11) (k : Nat) (write : Bool) : Use := ⟨fieldD, code, k, k, write⟩

/-- R152: the base operand of a space. -/
def baseUse (sp : Space) (code : BitVec 11) : Use :=
  match sp with
  | .g => src64 fieldA code
  | _ => src fieldA code

/-- The lanes that make an access: one for a scalar-marked instruction. -/
def accessLanes (u : Issuer) (sc : Bool) (tt : BitVec 8) : List Nat := if sc then [0] else u.enabledLanes tt

/-- The enabled lanes, as a record shows them. -/
def shownLanes (u : Issuer) (sc : Bool) (tt : BitVec 8) : List Nat := if sc then u.activeLanes else u.enabledLanes tt

/-- The registers of a data operand in a lane, k of them; none for a latch, `zero` or `laneid`. -/
def regsOf (u : Issuer) (code : BitVec 11) (k lane : Nat) : List Nat :=
  match operandOf code with
  | .s n => upFrom n k
  | _ => match vectorReg u.g code lane with
    | some n => upFrom n k
    | none => []

/-- The value of a data operand of k registers in a lane. -/
def dataValue (u : Issuer) (code : BitVec 11) (k lane : Nat) : Nat :=
  match k with
  | 1 => (rd u code lane).toNat
  | 2 => (rd64 u code lane).toNat
  | _ => leNat ((upFrom 0 k).flatMap fun j => leBytes 4 (rdRun u code j lane).toNat)

/-- The memory instruction of a format M word: its kind, space, data operand and bytes. -/
def memOpOf (u : Issuer) (kind : AccessKind) (sp : Space) (f : FormM) (opc regs bytes : Nat) (write : Bool) : MemOp where
  kind := kind
  space := sp
  scalar := f.sc
  enabled := shownLanes u f.sc f.tt
  lanes := accessLanes u f.sc f.tt
  uses := [dataUse f.d regs write, baseUse sp f.a]
  order := f.order.toNat
  scope := f.scope.toNat
  opc := opc
  fault := laneFault u [dataUse f.d regs write, baseUse sp f.a]
  late := fun _ => none
  req := fun l =>
    { lane := l, va := laneAddress u sp f.a f.off l, size := bytes, align := bytes, scale := none
      data := if kind.writes then BitVec.ofNat 272 (dataValue u f.d regs l) else 0
      dest := if kind.reads then regsOf u f.d regs l else [] }
  pend := if kind.reads then (accessLanes u f.sc f.tt).flatMap fun l =>
      (regsOf u f.d regs l).map fun n => (f.sc, n, l) else []

/-! ## ld and st (R261, R262) -/

/-- R116: the code of a space. -/
def spaceNumber : Space → Nat
  | .g => 0
  | .t => 1
  | .c => 2
  | .k => 3

/-- R116: the codes of the widths. -/
def loadNumber : LoadWidth → Nat
  | .n8 => 0
  | .i8 => 1
  | .n16 => 2
  | .i16 => 3
  | .b32 => 4
  | .b64 => 5
  | .b128 => 6
def storeNumber : StoreWidth → Nat
  | .b8 => 0
  | .b16 => 2
  | .b32 => 4
  | .b64 => 5
  | .b128 => 6

/-- R261, R262: ld. -/
def execLd (sp : Space) (w : LoadWidth) (f : FormM) (s : State) : Out :=
  memoryOp s (fun u => memOpOf u (.load w) sp f (0x200 + 8 * spaceNumber sp + loadNumber w)
    (dataRegs (loadBytes w)) (loadBytes w) true) noCheck fun _ => none

/-- R261, R262: st. -/
def execSt (sp : Space) (w : StoreWidth) (f : FormM) (s : State) : Out :=
  memoryOp s (fun u => memOpOf u .store sp f (0x220 + 8 * spaceNumber sp + storeNumber w)
    (dataRegs (storeBytes w)) (storeBytes w) false) noCheck fun _ => none

/-! ## pf (R264) -/

/-- R264: the line of a lane's address enters the L1, where SCOPE says so and the TLB or the tables give the
address; else the lane is dropped. The L2 holds no copy of its own here. -/
def prefetchLane (u : Issuer) (f : FormM) (s : State) (l : Nat) : State :=
  let va := laneAddress u .g f.a f.off l
  if !canonical va 1 then s
  else match walkXlate s u.c.root va kindRead with
    | .ok (.phys loc 0 checked) =>
    if f.scope = 0 ∧ !holdsRange s u.t.core loc 1 then fillRange (prepareLine s u.t.core 0 (.phys loc 0 checked) 1) u.t.core u.l.ctx loc 1
    else s
    | _ => s

/-- R264: pf. -/
def execPf (f : FormM) (s : State) : Out :=
  withIssuer s fun u =>
    let uses := [src64 fieldA f.a]
    let fault := if f.sc then scalarFault u uses else lanesFault u uses (u.enabledLanes f.tt)
    match fault with
    | some r => .next (if f.sc then trapScalar s u r uses else trapLanes s u r (u.enabledLanes f.tt) uses)
    | none => .next (finish ((accessLanes u f.sc f.tt).foldl (prefetchLane u f) s) u u.g voidEntry)

/-! ## ldmx and stmx (R265 to R267) -/

/-- R265: the fields of OFF18. -/
def mxSK (f : FormM) : Nat := field f.off.toNat 17 10
def mxSP (f : FormM) : Nat := field f.off.toNat 9 2

/-- R439: the operand code of a scalar named inside OFF18. -/
def scalarCode (n : Nat) : BitVec 11 := BitVec.ofNat 11 (1792 + n)

/-- Global or team space as a space. -/
def gtSpace : GTSpace → Space
  | .g => .g
  | .t => .t

/-- R265: E and P. -/
def mxElementBase (u : Issuer) (sp : GTSpace) (f : FormM) : Nat :=
  match sp with
  | .g => (rd64 u f.a 0).toNat
  | .t => (rd u f.a 0).toNat
def mxScaleBase (u : Issuer) (sp : GTSpace) (f : FormM) : Nat :=
  match sp with
  | .g => (u.g.spair (mxSP f)).toNat
  | .t => (u.g.sreg (mxSP f)).toNat

/-- R265: alignment of a block's elements. -/
def blockAlign (fmt : Nat) : Nat := if fmt = 5 ∨ fmt = 6 then 8 else blockBytes fmt

/-- R265: the scalars that an MX block access names. -/
def mxScaleUse (sp : GTSpace) (f : FormM) : Use :=
  match sp with
  | .g => src64 fieldOff (scalarCode (mxSP f))
  | .t => src fieldOff (scalarCode (mxSP f))

/-- R265: the lowest enabled lane of each lane word that has one. -/
def wordLanes (u : Issuer) (tt : BitVec 8) : List Nat :=
  (enabledWords (u.enabledLanes tt)).filterMap fun j => (u.enabledLanes tt).find? fun l => decide (l / 32 = j)

/-- R265, R435: the operand faults of a lane; the store's data is read, and so is its scale scalar. -/
def mxLaneFault (u : Issuer) (sp : GTSpace) (f : FormM) (store : Bool) (l : Nat) : Option Raise :=
  let d : Use := ⟨fieldD, f.d, 1, 1, !store⟩
  let a := baseUse (gtSpace sp) f.a
  let sk := scalarCode (mxSK f)
  firstSome id [firstSome (usePoison u l) [d, a, mxScaleUse sp f], if store then scalePoison u sk l else none,
    useFault u l d, useFault u l a, scaleFault u fieldOff sk l, useFault u l (mxScaleUse sp f)]

/-- R131, R267: the codes of a lane word packed, with its scale byte. -/
def blockData (u : Issuer) (f : FormM) (fmt j : Nat) : BitVec 272 :=
  let b := stringBits fmt
  let codes := (upFrom 0 32).map fun i =>
    if 32 * j + i < u.l.width then (rd u f.d (32 * j + i)).toNat % 2 ^ b else 0
  BitVec.ofNat 272 (codes.foldr (fun c acc => c + 2 ^ b * acc) 0 +
    2 ^ 256 * ((u.g.sreg (mxSK f + j)).toNat % 256))

/-- R265 to R267: an MX block instruction. -/
def mxOp (u : Issuer) (sp : GTSpace) (f : FormM) (store : Bool) : MemOp :=
  let fmt := fmtAF u.g.fmt
  let enabled := u.enabledLanes f.tt
  { kind := if store then .mxStore fmt else .mxLoad fmt (mxSK f)
    space := gtSpace sp
    scalar := false
    enabled := enabled
    lanes := wordLanes u f.tt
    uses := [⟨fieldD, f.d, 1, 1, !store⟩, baseUse (gtSpace sp) f.a, src fieldOff (scalarCode (mxSK f)),
      mxScaleUse sp f]
    order := f.order.toNat
    scope := f.scope.toNat
    opc := (if store then 0x242 else 0x240) + (if sp = .t then 1 else 0)
    fault := mxLaneFault u sp f store
    late := fun l => firstSome (mxLaneFault u sp f store) (enabled.filter fun x => decide (x / 32 = l / 32))
    req := fun l =>
      { lane := l
        va := wrap ((mxElementBase u sp f + l / 32 * blockBytes fmt : Nat) : Int) (if sp = .g then 64 else 32)
        size := blockBytes fmt, align := blockAlign fmt
        scale := some (wrap ((mxScaleBase u sp f + l / 32 : Nat) : Int) (if sp = .g then 64 else 32))
        data := if store then blockData u f fmt (l / 32) else 0
        dest := if store then [] else regsOf u f.d 1 l }
    pend := if store then [] else
      (enabled.flatMap fun l => (regsOf u f.d 1 l).map fun n => (false, n, l)) ++
      (enabledWords enabled).map fun j => (true, mxSK f + j, 0) }

/-- R267: a lane word with an enabled lane and one that exists and is not enabled. -/
def partialBlock (u : Issuer) (tt : BitVec 8) : Bool :=
  let e := u.enabledLanes tt
  (enabledWords e).any fun j => (upFrom (32 * j) 32).any fun l => decide (l < u.l.width) && decide (l ∉ e)

/-- R265 to R267: ldmx. -/
def execLdmx (sp : GTSpace) (f : FormM) (s : State) : Out :=
  memoryOp s (fun u => mxOp u sp f false) mxCheck fun _ => none

/-- R265, R267: stmx. -/
def execStmx (sp : GTSpace) (f : FormM) (s : State) : Out :=
  memoryOp s (fun u => mxOp u sp f true) (fun u =>
    match mxCheck u with
    | some r => some r
    | none => if partialBlock u f.tt then some (.group .copy 0x2 0) else none) fun _ => none

/-! ## Performing and completing -/

/-- Lanes of an access in flight perform and return. -/
def stepAccess (s : State) (access lanes : Nat) (l1 : Bool) (ok : AccessKind → Bool) : Out :=
  match s.accesses.get? access with
  | none => .refused .notEnabled
  | some a =>
    if !ok a.kind then .refused .notEnabled
    else match advanceAccess s access lanes l1 with
      | some s1 => .next s1
      | none => .refused .notEnabled

/-- LOAD_WRITEBACK (R105, R106): the next lanes of a load perform, if they have not, and are written. -/
def execLoadWriteback (access lanes : Nat) (l1 : Bool) (s : State) : Out :=
  stepAccess s access lanes l1 fun k => match k with
    | .load _ => true
    | _ => false

/-- STORE_PERFORM (R262): the next lanes of a store perform, or their peers acknowledge them. -/
def execStorePerform (access lanes : Nat) (s : State) : Out :=
  match s.accesses.get? access with
  | none => .refused .notEnabled
  | some a =>
    if a.awaitsPeer && a.kind.writes && !a.kind.isRmw then .next (acknowledgePeers s access lanes)
    else stepAccess s access lanes false fun k => k.writes && !k.isRmw

/-- LDMX_COMPLETION (R266): the next blocks of a block load perform, if they have not, and are written. -/
def execLdmxCompletion (access lanes : Nat) (s : State) : Out :=
  stepAccess s access lanes true fun k => k.block && k.reads

end Sys2Proof.Machine
end

