-- ==== Sys2Proof/Machine/Barrier.lean ====
section
/-!
DEFINITION. Fences, barriers, the monitor and arrival sets (spec/10 R272 to R281).
-/

namespace Sys2Proof.Machine

/-! ## Fences (R272) -/

/-- R272: fence. It waits in place for the group's earlier accesses. -/
def execFence (f : FormM) (s : State) : Out :=
  groupOp s [] noCheck fun u =>
    let rel := decide (2 ≤ f.order.toNat)
    let acq := decide (f.order = 1 ∨ f.order = 3)
    if (rel && !groupPerformed s u.gid) || (acq && !groupReadsPerformed s u.gid) then .next s
    else
      let s1 := if rel && decide (f.scope ≠ 0) then cleanCore s u.t.core else s
      let s2 := if acq then acquireLines s1 u.t.core f.scope.toNat else s1
      .next (finish s2 u (if rel then { u.g with rc := u.g.rc + 1 } else u.g) voidEntry)

/-! ## Barriers (R273 to R276) -/

/-- R439: the number of a level. -/
def levelNumber : Level → Nat
  | .team => 0
  | .cluster => 1
  | .grid => 2

/-- R276: the group holds an arrival whose phase has not completed. -/
def overrun (u : Issuer) (lvl : Level) : Option Raise :=
  if u.g.hasArrived lvl (phasesDone lvl u.t u.l) then some (.group .sync 0x4 (levelNumber lvl)) else none

/-- R275: the launch, or for a pod barrier the context, has no such barrier. -/
def barrierScope (u : Issuer) (lvl : Level) (pod : Bool) : Option Raise :=
  if (decide (lvl = .grid) && !u.l.cogrid) || (pod && decide (u.c.domainSize = 0)) then
    some (.group .sync 0x2 (levelNumber lvl))
  else none

/-- R194, R195, R274: a group's arrival at the phase p. -/
def arriveAt (g : Group) (lvl : Level) (p : Nat) : Group :=
  { g.setCounts lvl { g.counts lvl with arrived := BitVec.ofNat 32 (p + 1), arrivalIC := g.ic.toNat } with rc := g.rc + 1 }

/-- R183: what a release at the scope of a level, or at system scope, writes back. -/
def releaseLines (s : State) (core : Nat) (lvl : Level) : State :=
  match lvl with
  | .team => s
  | _ => cleanCore s core

/-- R273 to R276: arrives and waits. The release waits in place for the group's accesses. R276 lists bar, barc and barg for the
overrun fault, and barp, which arrives at the grid's barrier first, raises it too (log entry 90). -/
def barrierOp (s : State) (lvl : Level) (pod : Bool) : Out :=
  groupOp s [] (fun u => firstSome id [barrierScope u lvl pod, overrun u lvl]) fun u =>
    if !groupPerformed s u.gid then .next s
    else
      let p := phasesDone lvl u.t u.l
      .next (settle (block (releaseLines s u.t.core lvl) u (arriveAt u.g lvl p) (.barrier lvl p pod)))

/-- R274: bar. -/
def execBar (_f : FormV) (s : State) : Out := barrierOp s .team false

/-- R274: barc. -/
def execBarc (_f : FormV) (s : State) : Out := barrierOp s .cluster false

/-- R275: barg. -/
def execBarg (_f : FormV) (s : State) : Out := barrierOp s .grid false

/-- R275: barp. -/
def execBarp (_f : FormV) (s : State) : Out := barrierOp s .grid true

/-- R276: the level that a field names. -/
def levelOfField (x : BitVec 11) : Level :=
  match x.toNat with
  | 0 => .team
  | 1 => .cluster
  | _ => .grid

/-- R276: arrive. -/
def execArrive (f : FormV) (s : State) : Out :=
  let lvl := levelOfField f.a
  groupOp s [dst f.d] (fun u => overrun u lvl) fun u =>
    if !groupPerformed s u.gid then .next s
    else
      let p := phasesDone lvl u.t u.l
      .next (settle (finish (releaseLines s u.t.core lvl) u (setScalar (arriveAt u.g lvl p) f.d p) voidEntry))

/-- R276: await. -/
def execAwait (f : FormV) (s : State) : Out :=
  let lvl := levelOfField f.b
  withIssuer s fun u =>
    match scalarFault u [src fieldA f.a] with
    | some r => .next (trapScalar s u r [src fieldA f.a])
    | none =>
      if (u.g.counts lvl).arrived.toNat ≤ sval u f.a then
        .next (trapScalar s u (.group .sync 0x3 (levelNumber lvl)) [src fieldA f.a])
      else .next (settle (block s u u.g (.await lvl (sval u f.a))))

/-! ## The monitor (R277) -/

/-- R277: the operands of monwait. -/
def monwaitUses (f : FormV) : List Use := [dst f.d, src64 fieldA f.a, src fieldB f.b, src fieldC f.c]

/-- R277: the read of the monitored word: an acquire at device scope. What else the monitor needs stands in
the lane's data: the expected value, the timeout, D, and the codes of A, B and C. -/
def monitorAccess (u : Issuer) (f : FormV) (t : Target) : Access :=
  let va := sval64 u f.a
  let la : LaneAccess :=
    { lane := 0, va := va, target := t, tail := none, scale := none, size := 4
      data := BitVec.ofNat 272 (sval u f.b + 2 ^ 32 * sval u f.c + 2 ^ 64 * f.d.toNat + 2 ^ 75 * f.a.toNat +
        2 ^ 86 * f.b.toNat + 2 ^ 97 * f.c.toNat)
      performed := false, value := none, poisoned := false, dest := [] }
  { group := u.gid, kind := .load .b32, space := .g, scalar := true, lanes := [la], mask := u.g.active, order := 1
    scope := 2, counter := hdrSetd u.header, stamp := u.g.rc, gens := u.g.gens, clause := u.g.clause
    index := u.g.index, opc := 0x2C7, checked := false, frozen := false, race := none, flags := 0, sound := none }

/-- A read of one lane made at once: the value, whether poisoned, and the state, its race record logged. -/
def readNow (s : State) (u : Issuer) (a : Access) (la : LaneAccess) : Nat × Bool × State :=
  let (n, s1) := s.fresh
  let s2 := performLane { s1 with accesses := s1.accesses.insert n { a with frozen := false } } n la false
  let s3 := { s2 with accesses := s2.accesses.erase n }
  match s2.accesses.get? n with
  | none => (0, false, s3)
  | some b =>
    let s4 := match b.race with
      | some r => logRace s3 u.l.ctx r
      | none => s3
    match b.lanes.head? with
    | some x => ((x.value.getD 0).toNat, x.poisoned, s4)
    | none => (0, false, s4)

/-- R277: the expected value, the timeout, D, and the operands of a record. -/
def monitorFields (la : LaneAccess) : Nat × Nat × BitVec 11 × List OpSlot :=
  let d := la.data.toNat
  (d % 2 ^ 32, d / 2 ^ 32 % 2 ^ 32, BitVec.ofNat 11 (d / 2 ^ 64),
   [⟨fieldD, d / 2 ^ 64 % 2048, false, true⟩, ⟨fieldA, d / 2 ^ 75 % 2048, true, false⟩,
    ⟨fieldB, d / 2 ^ 86 % 2048, false, false⟩, ⟨fieldC, d / 2 ^ 97 % 2048, false, false⟩])

/-- R277, R382: the tick at which a timeout expires; in Calm mode, the ticks that remain. -/
def deadlineOf (s : State) (u : Issuer) (c : Nat) : Option Nat :=
  if c = 0 then none else some (if u.calm then c else s.ticks.toNat + c)

/-- R461: the scalar that D names is marked. -/
def markScalar (g : Group) (code : BitVec 11) (bad : Bool) : Group :=
  match bad, operandOf code with
  | true, .s n => { g with sPoison := g.sPoison.insert n true }
  | _, _ => g

/-- R277: the first read: the monitor completes, or blocks. -/
def beginMonitor (s : State) (u : Issuer) (a : Access) (la : LaneAccess) : State :=
  let (expected, timeout, d, ops) := monitorFields la
  let (v, bad, s1) := readNow s u a la
  match s1.groups.get? u.gid with
  | none => s1
  | some g =>
    let loc := match la.target with
      | .phys l _ _ => l
      | _ => 0
    if v ≠ expected then finish s1 u (markScalar (setScalar g d v) d bad) voidEntry
    else block s1 u g (.monitor la.va loc (BitVec.ofNat 32 expected) d (deadlineOf s1 u timeout) ops)

/-- R361: a monitor in a DET launch without COGRID. -/
def monwaitCheck (u : Issuer) : Option Raise :=
  if u.l.det && !u.l.cogrid then some (.group .det 0x1 0) else none

/-- R277, R202, R360: monwait, once its address is known. -/
def monwaitAt (s : State) (u : Issuer) (f : FormV) (t : Target) : Out :=
  let a := monitorAccess u f t
  match a.lanes with
  | [] => .next s
  | la :: _ =>
    if u.l.det && !u.calm then .next (holdMinimum s u a)
    else if !lanesFree s a a.lanes then .next s
    else match racesOf s u a with
      | [] => .next (beginMonitor s u a la)
      | p :: _ =>
        let s1 := match raceRecordOf s u a (racesOf s u a) with
          | some r => logRace s u.l.ctx r
          | none => s
        let mark := markOf s p.2.1
        .next (trapScalar s1 u ⟨.race, raceSub (checkedOf u.g a la) mark p.2.2, 0xFF, la.va, 0,
          BitVec.ofNat 128 mark.encode⟩ (monwaitUses f))

/-- R277: monwait. -/
def execMonwait (f : FormV) (s : State) : Out :=
  groupOp s (monwaitUses f) monwaitCheck fun u =>
    let va := sval64 u f.a
    let trap := fun sub : Nat => (.next (trapScalar s u (memRaise sub 0xFF va) (monwaitUses f)) : Out)
    if !canonical va 4 then trap memNoncanonical
    else if va % 4 ≠ 0 then trap memAlign
    else match translate s u.t.core u.l.ctx u.c.root va kindRead with
      | .fatal sub => trap sub
      | .nowhere loc => .fault (.noSuchPhysicalAddress loc)
      | .ok (.peer _ _) => trap memPeer
      | .ok t => monwaitAt s u f t
      | _ => .next (parkFor s u [(va, kindRead)])

/-- MONITOR_TIMEOUT (R277, R362, R444): the timeout of a group's monitor has expired. -/
def execMonitorTimeout (group : Nat) (s : State) : Out :=
  match issuerOf s group with
  | none => .refused .notEnabled
  | some u =>
    match u.g.wait with
    | some (.monitor va _ _ _ (some t) ops) =>
      if u.g.status ≠ .blocked ∨ u.t.status ≠ .resident ∨ u.calm = true ∨ s.ticks.toNat < t then
        .refused .notEnabled
      else
        let s1 := if u.l.det then flagNondet s u 2 else s
        .next (takeTrap s1 u (trapInfo u ⟨.sync, 0x1, 0xFF, va, 0, 0⟩ u.g.active ops true))
    | _ => .refused .notEnabled

/-! ## Arrival sets (R278 to R281) -/

/-- R279, R439: an arrival fault. -/
def arrivalRaise (sub set : Nat) : Raise := .group .sync sub (set % 16)

/-- R279: whether a set of the context other than this one is bound to an endpoint. -/
def endpointTaken (s : State) (u : Issuer) (k ep : Nat) : Bool :=
  s.teams.any fun p =>
    match s.launches.get? p.2.launch with
    | none => false
    | some l => decide (l.ctx = u.l.ctx) && decide (p.2.status ≠ .retired) &&
        p.2.sets.any fun q => decide (q.2.ep.toNat = ep) && !(decide (p.1 = u.g.team) && decide (q.1 = k))

/-- R280, R489: an ARVERR record of a set. -/
def arrivalError (s : State) (ctx lid sub detail : Nat) : State := contextEvent s ctx ueArverr sub detail 0 lid 0xFFFF

/-- R410: the launch id of a team. -/
def teamLid (s : State) (t : Team) : Nat := ((s.launches.get? t.launch).map (·.lid)).getD 0

/-- R489: DETAIL of an ARVERR record of a set. -/
def arrivalDetail (set src : Nat) (t : Team) : Nat := set + 16 * src + 256 * (t.index % 2 ^ 31)

/-- R280: whether a source has delivered more than the following phase expects. -/
def overDelivered (a : ArrivalSet) (i : Nat) : Bool := decide (a.expect.read i 0 < a.next.read i 0)

/-- R279: arvinit. -/
def execArvinit (f : FormV) (s : State) : Out :=
  withIssuer s fun u =>
    let uses := [src fieldA f.a, src fieldB f.b]
    match scalarFault u uses with
    | some r => .next (trapScalar s u r uses)
    | none =>
      let k := sval u f.a
      let ep := sval u f.b / 65536
      if 16 ≤ k then .next (trapScalar s u (arrivalRaise 0x6 k) uses)
      else if ep ≠ 0 ∧ endpointTaken s u k ep = true then .next (trapScalar s u (arrivalRaise 0x5 k) uses)
      else
        let a := arrivalSet u.t k
        let a1 := { a with mask := BitVec.ofNat 16 (sval u f.b), ep := BitVec.ofNat 16 ep, got := [], next := []
                           phase := 0, broken := false, initialised := true, stamps := [] }
        let s1 := s.modifyTeam u.g.team fun t => { t with sets := t.sets.insert k a1 }
        .next (settle (finish s1 u u.g voidEntry))

/-- R279: the bytes of a source above what is now expected move to the following phase. -/
def expectBytes (a : ArrivalSet) (i n : Nat) : ArrivalSet :=
  let w := BitVec.ofNat 32 n
  let got := a.got.read i 0
  let a1 := { a with expect := Table.write a.expect i w 0 }
  if w < got then
    let a2 := { a1 with got := Table.write a1.got i w 0
                        next := Table.write a1.next i (a1.next.read i 0 + (got - w)) 0 }
    if overDelivered a2 i then { a2 with broken := true } else a2
  else a1

/-- R279: arvexp. -/
def execArvexp (f : FormV) (s : State) : Out :=
  withIssuer s fun u =>
    let uses := [src fieldA f.a, src fieldB f.b, src fieldC f.c]
    match scalarFault u uses with
    | some r => .next (trapScalar s u r uses)
    | none =>
      let k := sval u f.a
      let i := sval u f.b
      if 16 ≤ k ∨ 16 ≤ i then .next (trapScalar s u (arrivalRaise 0x6 k) uses)
      else
        let a := arrivalSet u.t k
        let a1 := expectBytes a i (sval u f.c)
        let s1 := s.modifyTeam u.g.team fun t => { t with sets := t.sets.insert k a1 }
        let s2 := if BitVec.ofNat 32 (sval u f.c) < a.got.read i 0 ∧ overDelivered a1 i = true then arrivalError s1 u.l.ctx u.l.lid 3 (arrivalDetail k i u.t) else s1
        .next (settle (finish s2 u u.g voidEntry))

/-- R281: arvwait. -/
def execArvwait (f : FormV) (s : State) : Out :=
  withIssuer s fun u =>
    let uses := [src fieldA f.a]
    match scalarFault u uses with
    | some r => .next (trapScalar s u r uses)
    | none =>
      let k := sval u f.a
      if 16 ≤ k then .next (trapScalar s u (arrivalRaise 0x6 k) uses)
      else if (arrivalSet u.t k).broken then .next (trapScalar s u (arrivalRaise 0x7 k) uses)
      else .next (settle (block s u u.g (.arrival k)))

/-- R280: bytes of a source credited to a set. -/
def creditBytes (a : ArrivalSet) (i b : Nat) (from_ : Option (Nat × Nat)) : ArrivalSet :=
  let room := (a.expect.read i 0).toNat - (a.got.read i 0).toNat
  let c := Nat.min b room
  let put := fun (st : Table (Nat × Nat)) (key n : Nat) =>
    if n = 0 then st else match from_ with
      | some x => st.insert key x
      | none => st.erase key
  let a1 := { a with got := Table.write a.got i (a.got.read i 0 + BitVec.ofNat 32 c) 0
                     next := Table.write a.next i (a.next.read i 0 + BitVec.ofNat 32 (b - c)) 0
                     stamps := put (put a.stamps i c) (16 + i) (b - c) }
  if overDelivered a1 i then { a1 with broken := true } else a1

/-- R280: a delivery credited to a set of a team, or discarded and reported. -/
def creditSet (s : State) (ctx tid k i b : Nat) (from_ : Option (Nat × Nat)) : State :=
  match s.teams.get? tid with
  | none => s
  | some t =>
    let a := arrivalSet t k
    if !a.initialised then arrivalError s ctx (teamLid s t) 2 (arrivalDetail k i t)
    else if !a.mask.getLsbD i then arrivalError s ctx (teamLid s t) 1 (arrivalDetail k i t)
    else
      let a1 := creditBytes a i b from_
      let s1 := s.setTeam tid { t with sets := t.sets.insert k a1 }
      settle (if overDelivered a1 i then arrivalError s1 ctx (teamLid s t) 3 (arrivalDetail k i t) else s1)

/-- R279: the team and set of a context that an endpoint names. -/
def endpointSet (s : State) (ctx ep : Nat) : Option (Nat × Nat) :=
  firstSome (fun p : Nat × Team =>
    match s.launches.get? p.2.launch with
    | none => none
    | some l =>
      if l.ctx = ctx ∧ p.2.status ≠ .retired then
        (p.2.sets.find? fun q => decide (q.2.ep.toNat = ep)).map fun q => (p.1, q.1)
      else none) s.teams

/-- R280: a credit that names an endpoint. -/
def creditEndpoint (s : State) (ctx ep i b : Nat) (from_ : Option (Nat × Nat)) : State :=
  match if ep = 0 then none else endpointSet s ctx ep with
  | none => arrivalError s ctx 0 4 ep
  | some (tid, k) => creditSet s ctx tid k i b from_

/-- DELIVERY_CREDIT (R280): a delivery whose bytes have been performed is credited. -/
def execDeliveryCredit (credit : Nat) (s : State) : Out :=
  match s.credits.get? credit with
  | none => .refused .notEnabled
  | some c =>
    let s1 := { s with credits := s.credits.erase credit }
    let from_ := c.agent.map fun a => (a.toNat, c.stamp)
    match c.endpoint with
    | some ep => .next (creditEndpoint s1 c.ctx ep c.source c.bytes from_)
    | none => .next (creditSet s1 c.ctx c.team c.set c.source c.bytes from_)

end Sys2Proof.Machine
end

