-- ==== Sys2Proof/Machine/Engine.lean ====
section
/-!
DEFINITION. What the engines do to memory (spec/07 R178, R186, R193, R198; spec/10 R282 to R288; spec/22 R452, R453, R456,
R461): the units of an entry, where they stand, and reading and writing them.
-/

namespace Sys2Proof.Machine

/-! ## Units (R178) -/

/-- Where a byte of an entry stands: at a global address, in a team's memory, or at an address of a peer. -/
inductive Place
  | glob (va : Nat)
  | team (team off : Nat)
  | peer (dev va : Nat)
  deriving DecidableEq, Repr

/-- The address of a place, as records give it. -/
def Place.addr : Place → Nat
  | .glob va => va
  | .team _ off => off
  | .peer _ va => va

/-- The place k bytes on. -/
def Place.plus (p : Place) (k : Nat) : Place :=
  match p with
  | .glob va => .glob (va + k)
  | .team t off => .team t (off + k)
  | .peer d va => .peer d (va + k)

/-- Whether a place is a peer's. -/
def Place.isPeer : Place → Bool
  | .peer _ _ => true
  | _ => false

/-- n bytes of an entry from its byte `off` on, within one granule on either side. No source: the entry
carries the bytes; no destination: it collects them. -/
structure Chunk where
  off : Nat
  n : Nat
  src : Option Place
  dst : Option Place
  deriving DecidableEq, Repr

/-- The bytes to the end of a granule. -/
def granuleRoom : Option Place → Nat
  | some p => 64 - p.addr % 64
  | none => 64

/-- A range cut at granules; fuel bounds the number of parts. -/
def cutRange : Nat → Nat → Nat → Option Place → Option Place → List Chunk
  | 0, _, _, _, _ => []
  | fuel + 1, off, n, src, dst =>
    if n = 0 then [] else
    let k := Nat.min n (Nat.min (granuleRoom src) (granuleRoom dst))
    ⟨off, k, src, dst⟩ :: cutRange fuel (off + k) (n - k) (src.map fun p => p.plus k) (dst.map fun p => p.plus k)

/-- A range of n bytes cut at granules. -/
def chunksOf (off n : Nat) (src dst : Option Place) : List Chunk := cutRange (n / 16 + 4) off n src dst

/-- R178: the units of plain data; those that stand in one granule on either side go together. -/
def plainUnits (n : Nat) (src dst : Option Place) : List (List Chunk) := (chunksOf 0 n src dst).map fun c => [c]

/-- R178, R284: the units of a panel of MX blocks: each block with its scale. -/
def panelUnits (n eb : Nat) (src dst : Place) : List (List Chunk) :=
  let blocks := n / (eb + 1)
  let part := fun off k : Nat => chunksOf off k (some (src.plus off)) (some (dst.plus off))
  (upFrom 0 blocks).map fun m => part (m * eb) eb ++ part (blocks * eb + m) 1

/-! ## On whose behalf (R198) -/

/-- On whose behalf an engine makes its accesses. -/
structure EngineSite where
  core : Nat
  ctx : Nat
  root : Nat
  rmode : Nat
  agent : Nat
  by_ : List Checker
  stamp : Nat
  gens : Nat × Nat × Nat
  block : Bool
  clause : Word64
  index : Nat
  lid : Nat
  linteam : Nat
  cluster : Bool

/-- The team for which an engine makes its accesses. -/
def EngineSite.team (e : EngineSite) : Nat := ((e.by_.head?).map fun k => k.g.team).getD 0

/-- An engine access as the checker sees it. -/
def EngineSite.checked (e : EngineSite) (writes : Bool) : Checked where
  agent := e.agent
  engine := true
  by_ := e.by_
  stamp := e.stamp
  gens := e.gens
  sync := false
  writes := writes
  wscope := 0
  block := e.block

/-- R455: where an engine access stands. -/
def EngineSite.site (e : EngineSite) (p : Place) (writes : Bool) : RaceSite where
  addr := p.addr
  lane := 0xFF
  space := match p with
    | .team _ _ => if e.cluster then 2 else 1
    | _ => 0
  acc := if writes then 4 else 3
  clause := e.clause
  index := e.index
  lid := e.lid
  linteam := e.linteam
  ctx := e.ctx

/-- R152: the bytes of a team's allocation. -/
def teamMemOf (s : State) (tid : Nat) : Nat :=
  match (s.teams.get? tid).bind fun t => s.launches.get? t.launch with
  | some l => l.teamMem
  | none => 0

/-- R152, R170: where a place is. -/
def EngineSite.locate (e : EngineSite) (s : State) (p : Place) (n : Nat) (writes : Bool) : Xlate :=
  match p with
  | .team t off => if off + n ≤ teamMemOf s t then .ok (.team t off) else .fatal memAddrBound
  | .peer d va => .ok (.peer d va)
  | .glob va =>
    if canonical va n then walkXlate s e.root va (if writes then kindEngineWrite else kindEngineRead)
    else .fatal memNoncanonical

/-- The places of a chunk: its source, then its destination, each with whether it is written. -/
def Chunk.places (c : Chunk) : List (Place × Bool) :=
  (c.src.map fun p => (p, false)).toList ++ (c.dst.map fun p => (p, true)).toList

/-- The first place of a unit that is not an address, and what stands in the way. -/
def unitTrouble (s : State) (e : EngineSite) (u : List Chunk) : Option (Place × Bool × Xlate) :=
  firstSome (fun c : Chunk => firstSome (fun p : Place × Bool =>
    match e.locate s p.1 c.n p.2 with
    | .ok _ => none
    | x => some (p.1, p.2, x)) c.places) u

/-- The first unit that is not at addresses: how many come before it, and what stands in the way. -/
def firstTrouble (s : State) (e : EngineSite) : Nat → List (List Chunk) → Option (Nat × Place × Bool × Xlate)
  | _, [] => none
  | k, u :: t =>
    match unitTrouble s e u with
    | some (p, w, x) => some (k, p, w, x)
    | none => firstTrouble s e (k + 1) t

/-- R202: whether granules of a range of units are held by an access that has been checked and not yet performed. -/
def unitsHeld (s : State) (e : EngineSite) (us : List (List Chunk)) : Bool :=
  granuleHeld s 0 (us.flatMap fun u => u.flatMap fun c => c.places.filterMap fun p =>
    match e.locate s p.1 c.n p.2 with
    | .ok t => some (t, c.n)
    | _ => none)

/-! ## Access to one place -/

/-- The target of a place that has an address. -/
def EngineSite.target (e : EngineSite) (s : State) (p : Place) (n : Nat) (writes : Bool) : Option Target :=
  match e.locate s p n writes with
  | .ok t => some t
  | _ => none

/-- R199: the granules whose records an engine access checks. -/
def EngineSite.granules (e : EngineSite) (t : Target) (n : Nat) : List Granule :=
  if e.rmode = 0 then [] else granulesOf t n

/-- R461: whether an engine access meets a poisoned word. -/
def engineMeets (s : State) (core : Nat) (t : Target) (n : Nat) : Bool :=
  match t with
  | .phys loc _ _ => corePoisoned s core loc n
  | .team tid off => match s.teams.get? tid with
    | some x => poisoned x.memPoison off n
    | none => false
  | .peer _ _ => false

/-- R200: the races of an engine access at a place. -/
def engineRaces (s : State) (e : EngineSite) (p : Place) (t : Target) (n : Nat) (writes : Bool) :
    List (Place × Bool × Granule × Found) :=
  if engineMeets s e.core t n then [] else
  (e.granules t n).filterMap fun g => (check s (e.checked writes) (markOf s g)).map fun f => (p, writes, g, f)

/-- R202: the races of a unit, reads first within each chunk. -/
def unitRaces (s : State) (e : EngineSite) (u : List Chunk) : List (Place × Bool × Granule × Found) :=
  u.flatMap fun c => c.places.flatMap fun p =>
    match e.target s p.1 c.n p.2 with
    | some t => engineRaces s e p.1 t c.n p.2
    | none => []

/-- R455, R456: the record of races, added to those before. -/
def noteEngineRaces (s : State) (e : EngineSite) (old : Option (BitVec 512))
    (rs : List (Place × Bool × Granule × Found)) : Option (BitVec 512) :=
  rs.foldl (fun r x => addRace r
    (raceRecord (checkTime s (e.checked x.2.1)) (e.checked x.2.1) (markOf s x.2.2.1) x.2.2.2 (e.site x.1 x.2.1))) old

/-- What an entry has come to: the state, the bytes of peers and of its own still to come, the bytes it has
collected, its race record, and the packets it has made: the device and address, and the bytes. -/
structure EngineRun where
  s : State
  fetched : List Byte
  given : List (Byte × Bool)
  out : List (Byte × Bool)
  race : Option (BitVec 512)
  packets : List (Nat × Nat × List Byte)

/-- R200, R201, R461, R166: before an engine access performs: poison is met, or the access is checked and recorded; the
leaf is marked. -/
def noteEngine (e : EngineSite) (r : EngineRun) (p : Place) (t : Target) (n : Nat) (writes : Bool) : EngineRun :=
  let s0 := match p with
    | .glob va => walkFill r.s e.core e.ctx e.root va (if writes then kindEngineWrite else kindEngineRead)
    | _ => r.s
  if engineMeets s0 e.core t n then { r with s := meetPoison s0 e.ctx e.lid e.agent t n }
  else
    let race := noteEngineRaces s0 e r.race (engineRaces s0 e p t n writes)
    { r with s := (e.granules t n).foldl (fun s g => setMark s g (recordAccess s (e.checked writes) (markOf s g))) s0
             race := race }

/-- R461: whether the byte at a target, i bytes on, is poisoned. -/
def bytePoisoned (s : State) (core : Nat) (t : Target) (i : Nat) : Bool :=
  match t with
  | .phys loc c k => engineMeets s core (.phys (loc + i) c k) 1
  | .team tid off => engineMeets s core (.team tid (off + i)) 1
  | .peer _ _ => false

/-- R160, R203: the bytes of a range at a target, each with whether it is poisoned. -/
def engineRead (s : State) (e : EngineSite) (t : Target) (n : Nat) : List (Byte × Bool) × State :=
  let bad := (upFrom 0 n).map (bytePoisoned s e.core t)
  let o := readTarget (prepareLine s e.core 3 t n) e.core e.ctx false t n
  (o.1.zip bad, o.2)

/-- R461: the words of a range that take a poisoned byte are marked, not yet met. -/
def poisonTarget (s : State) (t : Target) (bad : List Bool) : State :=
  let words := fun a : Nat => (((upFrom a bad.length).zip bad).filter (·.2)).map fun p => p.1 / 8
  match t with
  | .phys loc _ _ => { s with memPoison := (words loc).foldl (fun m w => m.insert w true) s.memPoison }
  | .team tid off => s.modifyTeam tid fun x =>
      { x with memPoison := (words off).foldl (fun m w => m.insert w true) x.memPoison }
  | .peer _ _ => s

/-- R160, R203: bytes written to a range at a target. -/
def engineWrite (s : State) (e : EngineSite) (t : Target) (bytes : List (Byte × Bool)) : State :=
  let s1 := prepareLine s e.core 3 t bytes.length
  settle (poisonTarget (writeTarget s1 e.core e.ctx false t (bytes.map Prod.fst)) t (bytes.map Prod.snd))

/-- The source of a chunk read. -/
def readChunk (e : EngineSite) (r : EngineRun) (c : Chunk) : List (Byte × Bool) × EngineRun :=
  match c.src with
  | none => (r.given.take c.n, { r with given := r.given.drop c.n })
  | some (.peer _ _) => ((r.fetched.take c.n).map fun b => (b, false), { r with fetched := r.fetched.drop c.n })
  | some p =>
    match e.target r.s p c.n false with
    | some (.peer _ _) => ((r.fetched.take c.n).map fun b => (b, false), { r with fetched := r.fetched.drop c.n })
    | some t =>
      let r1 := noteEngine e { r with s := pinRead r.s e.team ((e.granules t c.n).map (markOf r.s)) } p t c.n false
      let o := engineRead r1.s e t c.n
      (o.1, { r1 with s := o.2 })
    | none => ([], r)

/-- The destination of a chunk written. -/
def writeChunk (e : EngineSite) (r : EngineRun) (c : Chunk) (bytes : List (Byte × Bool)) : EngineRun :=
  match c.dst with
  | none => { r with out := r.out ++ bytes }
  | some (.peer d va) => { r with packets := r.packets ++ [(d, va, bytes.map Prod.fst)] }
  | some p =>
    match e.target r.s p c.n true with
    | some (.peer d va) => { r with packets := r.packets ++ [(d, va, bytes.map Prod.fst)] }
    | some t =>
      let r1 := noteEngine e { r with s := pinWriter r.s e.team e.rmode t } p t c.n true
      { r1 with s := engineWrite r1.s e t bytes }
    | none => r

/-- The sources of a unit read, in turn. -/
def readUnit (e : EngineSite) (r : EngineRun) : List Chunk → List (Chunk × List (Byte × Bool)) × EngineRun
  | [] => ([], r)
  | c :: t =>
    let o := readChunk e r c
    let rest := readUnit e o.2 t
    ((c, o.1) :: rest.1, rest.2)

/-- R282: a unit is read, then written. -/
def performUnit (e : EngineSite) (r : EngineRun) (u : List Chunk) : EngineRun :=
  let o := readUnit e r u
  o.1.foldl (fun r p => writeChunk e r p.1 p.2) o.2

/-- How the units of an entry end: all performed, or stopped at one, with the races of fault mode. -/
structure EngineEnd where
  run : EngineRun
  stop : Option (Nat × List (Place × Bool × Granule × Found))

/-- R202, R452: units performed in turn, up to the first that races in fault mode. -/
def performUnits (e : EngineSite) (r : EngineRun) : List (List Chunk) → EngineEnd
  | [] => ⟨r, none⟩
  | u :: t =>
    let rs := if e.rmode = 2 then unitRaces r.s e u else []
    match rs with
    | [] => performUnits e (performUnit e r u) t
    | _ :: _ => ⟨r, some ((u.head?.map (·.off)).getD 0, rs)⟩

/-- R448, R449: ENG. -/
def engBit (sub : Nat) : Nat := sub ||| 0x8000

/-! ## Stalls (R170) -/

/-- R170: a walk for a place of an engine entry, which waits for it. -/
def engineWalk (s : State) (e : EngineSite) (va : Nat) (writes : Bool) : Nat × State :=
  let (n, s1) := s.fresh
  let w : Walk := ⟨e.ctx, e.core, va / 65536 * 65536, if writes then kindEngineWrite else kindEngineRead, none, none,
    BitVec.ofNat 16 e.agent, none⟩
  (n, { s1 with walks := s1.walks.insert n w })

end Sys2Proof.Machine
end

