-- ==== Sys2Proof/Machine/Create.lean ====
section
/-!
DEFINITION. Groups and teams as they are created (spec/02 R35, R36; spec/21 R436).
-/

namespace Sys2Proof.Machine

/-- R274: a group's counts on a barrier at creation. -/
def noCounts : BarrierCounts := ⟨0, 0, 0⟩

/-- R25: the mask of all w lanes. -/
def allLanes (w : Nat) : LaneMask := BitVec.ofNat 128 (2 ^ w - 1)

/-- R35: a group at creation. `s0s1` is the value of s0:s1: ARGS, or for a handler the trap record's
address (R440). -/
def newGroup (l : Launch) (launch team g : Nat) (agent : BitVec 16) (slot area : Nat) (s0s1 : Nat) : Group where
  launch := launch
  team := team
  g := g
  status := .running
  wait := none
  trap := none
  agent := agent
  slot := slot
  age := 0
  v := []
  s := Table.write (Table.write [] 0 (BitVec.ofNat 32 s0s1) 0) 1 (BitVec.ofNat 32 (s0s1 / 2 ^ 32)) 0
  q := []
  x := []
  clause := BitVec.ofNat 64 l.entry
  index := 0
  header := none
  active := allLanes l.width
  exited := 0
  stack := []
  d := []
  vPending := []
  sPending := []
  fmt := 0
  gang := []
  maps := []
  handles := []
  plive := 0xFF
  fpstat := 0
  acquired := []
  overflow := 0
  rc := 0
  ic := 0
  latches := []
  barTeam := noCounts
  barCluster := noCounts
  barGrid := noCounts
  copyOpen := []
  copyLast := 0
  copyBatches := []
  mmOpen := []
  mmOpenFlags := 0
  mmLast := 0
  mmBatches := []
  kept := none
  vPoison := []
  sPoison := []
  heldFaults := []
  suppressed := none
  savedLive := none
  handlerWrote := []
  trapArea := area
  yielded := false
  owes := false
  taken := false
  addrNext := false
  entered := false
  gangOps := 0
  haltAsked := false
  keptIC := none
  changed := none
  counted := false
  sound := none

/-- R36: a team at dispatch. -/
def newTeam (launch index core : Nat) (groups : List Nat) : Team where
  launch := launch
  index := index
  groups := groups
  core := core
  status := .resident
  mem := []
  memPoison := []
  marks := []
  tiles := []
  tilePoison := []
  writers := []
  tileReads := []
  slots := []
  sets := []
  barPhase := 0
  barMax := []
  reds := []
  hzs := []
  lostEntries := false
  drained := false
  pinned := false
  killed := 0
  regBlocks := []
  memBlocks := []
  tileBlocks := []
  yieldFor := none
  blockedSlices := 0
  woken := true
  agents := []

/-- A launch as accepted from a source, in the order of acceptance. -/
def newLaunch (packet desc : BitVec 512) (source accepted : Nat) : Launch where
  packet := packet
  desc := desc
  source := source
  accepted := accepted
  nextTeam := 0
  restarts := []
  start := 0
  started := false
  ended := false
  clusterPhases := []
  clusterMax := []
  gridPhase := 0
  gridMax := []
  podReports := []
  token := 0
  tokenBroken := false
  nondet := none
  debt := false
  faulted := none
  killed := none
  revoked := none
  unplaced := none
  handlerFor := none
  handlerClass := 0
  served := false

/-- R400: a context at creation. -/
def newContext (tenant rmode : Nat) (dbg : Bool) (trapPrio root save saveSize spb tvec : Nat) : Context where
  tenant := tenant
  rmode := rmode
  dbg := dbg
  trapPrio := trapPrio
  root := root
  save := save
  saveSize := saveSize
  spb := spb
  tvec := tvec
  steps := 0
  stage := .parallel
  demoteAt := 0
  lastStepped := none
  midStep := none
  stepsLeft := 0
  running := false
  promote := false
  demoteNext := false
  breakpoints := []
  watchpoints := []
  inbound := []
  outbound := []
  binding := 0
  domain := 0
  domainSize := 0
  comms := []
  trbase := 0
  obsctl := 0
  sbase := 0
  shead := 0
  stail := 0
  sdrop := 0
  soundQ := []
  trapQueue := []
  destroying := false

/-- R436, R454: the address of a trap area of a context. -/
def trapAreaAddr (c : Context) (area : Nat) : Nat :=
  c.save + (if c.rmode = 0 then 0 else 17 * 65536) + 8192 * area

/-- R436: the trap areas of a context that unretired groups hold. -/
def areasInUse (s : State) (ctx : Nat) : List Nat :=
  (s.groups.vals.filter fun g => decide (g.status ≠ .retired) &&
    match s.launches.get? g.launch with
    | some l => decide (l.ctx = ctx)
    | none => false).map (·.trapArea)

/-- R436: the lowest free trap areas, n of them. Log entry: which areas are given is not stated. -/
def freeAreas (used : List Nat) (n : Nat) : List Nat :=
  ((upFrom 0 (used.length + n)).filter fun k => decide (k ∉ used)).take n

end Sys2Proof.Machine
end

