-- ==== Sys2Proof/Machine/Lifecycle.lean ====
section
/-!
DEFINITION. How groups and teams end (spec/02 R36, R37, R51; spec/08 R213; spec/11 R326; spec/21 R441; spec/23 R466,
R473): retirement, killing, and what follows from each.
-/

namespace Sys2Proof.Machine

/-- What kills a group, as far as R466 tells it: a handler's `tgtkill`; a trap that no handler can serve or whose handler
failed (R440, R441, R487); the host or the module; the end of a revocation; the flush of a restart, which sets no STATUS. -/
inductive KillCause | handler | trapped | outside | revoked | flushed
  deriving DecidableEq, Repr

/-- A group with every lane retired. -/
def Group.ended (g : Group) (w : Nat) : Group :=
  { g with status := .retired, wait := none, trap := none, header := none, active := 0, exited := allLanes w
           stack := [], sound := none }

/-- R37, R442: whether a group is parked at a trap. -/
def Group.atTrap (g : Group) : Bool := decide (g.status = .trapping) || decide (g.status = .parked)

/-- The lower of two team indices. -/
def lowestTeam (old : Option Nat) (t : Nat) : Option Nat :=
  match old with
  | none => some t
  | some x => some (Nat.min x t)

/-- R466: what the killing of a group of team t sets in its launch. -/
def Launch.killedBy (l : Launch) (c : KillCause) (atTrap : Bool) (t : Nat) : Launch :=
  match c with
  | .handler => if atTrap then { l with faulted := lowestTeam l.faulted t } else { l with killed := lowestTeam l.killed t }
  | .trapped => { l with faulted := lowestTeam l.faulted t }
  | .outside => { l with killed := lowestTeam l.killed t }
  | .revoked => { l with revoked := lowestTeam l.revoked t }
  | .flushed => l

/-- R426: the tagged instructions of a killed group give failed records. -/
def killSounds (s : State) (gid ctx : Nat) (own : Option (BitVec 512)) : State :=
  let rs := own.toList ++
    (s.accesses.vals.filterMap fun a => if a.group = gid then a.sound else none) ++
    (s.deferred.vals.filterMap fun d => if d.group = gid then d.sound else none) ++
    (s.entries.vals.filterMap fun e => if e.group = gid then e.sound else none)
  let s1 := rs.foldl (fun s r => pushSound s ctx (soundFailed r)) s
  { s1 with accesses := s1.accesses.mapVals fun _ a => if a.group = gid then { a with sound := none } else a
            deferred := s1.deferred.mapVals fun _ d => if d.group = gid then { d with sound := none } else d
            entries := s1.entries.mapVals fun _ e => if e.group = gid then { e with sound := none } else e }

/-- R473: the buffered entries of a killed group are discarded. -/
def discardBuffered (t : Team) (g : Nat) : Team :=
  let had := t.reds.any (fun e => decide (e.g = g)) || t.hzs.any fun e => decide (e.g = g)
  { t with reds := t.reds.filter (fun e => decide (e.g ≠ g)), hzs := t.hzs.filter fun e => decide (e.g ≠ g)
           lostEntries := t.lostEntries || had }

/-- R326, R466, R473: a group is killed: every lane retires. Its stores and atomics already issued perform, and its batches
run on; an instruction held for the minimum has not issued. -/
def killGroup (s : State) (gid : Nat) (c : KillCause) : State :=
  match issuerOf s gid with
  | none => s
  | some u =>
    if u.g.status = .retired then s else
    let s1 := killSounds s gid u.l.ctx u.g.sound
    let s2 := s1.modifyLaunch u.g.launch fun l => l.killedBy c u.g.atTrap u.t.index
    let s3 := s2.modifyTeam u.g.team fun t => discardBuffered { t with killed := t.killed + 1 } u.g.g
    let s4 := if u.l.det && decide (c ≠ .flushed) then flagNondet s3 u 3 else s3
    let s5 := if c = .handler then tracePacket s4 u false (0x60 :: slotByte u.g :: maskBytes u.l.width (allLanes u.l.width &&& ~~~u.g.exited)) else s4
    let s6 := dropHeld s5 gid
    let s7 := match u.g.wait with
      | some (.minimum a) => { s6 with accesses := s6.accesses.erase a }
      | _ => s6
    s7.modifyGroup gid fun g => g.ended u.l.width

/-- Whether every group of a team has retired. -/
def teamDone (s : State) (t : Team) : Bool :=
  t.groups.all fun gid => (s.groups.get? gid).all fun g => decide (g.status = .retired)

/-- R36, R279, R365: a team whose last group has retired ends: its sets are unbound, and the entries of its Horizon buffer
drain. -/
def endTeam (s : State) (tid : Nat) : State :=
  match s.teams.get? tid with
  | none => s
  | some t =>
    if !teamDone s t || decide (t.status = .retired ∨ t.status = .restarting) then s
    else s.setTeam tid { drainFronts t (fun _ => true) with status := .retired, sets := [] }

/-- R302: groups have just ended: their partners are orphans. -/
def orphanPartners (s : State) (gids : List Nat) : State :=
  gids.foldl (fun s gid =>
    match s.groups.get? gid with
    | none => s
    | some g => if g.status = .retired then orphanHeld s g.team g.g else s) s

/-- The teams of groups. -/
def teamsOf (s : State) (gids : List Nat) : List Nat :=
  (gids.filterMap fun gid => (s.groups.get? gid).map (·.team)).eraseDups

/-- What follows from groups having ended. -/
def afterEnded (s : State) (gids : List Nat) : State :=
  (teamsOf s gids).foldl endTeam (orphanPartners s gids)

/-- Groups are killed together. -/
def killAll (s : State) (gids : List Nat) (c : KillCause) : State :=
  afterEnded (gids.foldl (fun s gid => killGroup s gid c) s) gids

/-- R441: the targets still parked at a trap whose handler work-group has ended. -/
def unserved (s : State) : List Nat :=
  s.launches.filterMap fun p =>
    match p.2.handlerFor with
    | none => none
    | some gid =>
      let done := !p.2.served && s.teams.any (fun q => decide (q.2.launch = p.1)) &&
        s.teams.all fun q => decide (q.2.launch ≠ p.1) || decide (q.2.status = .retired)
      let parked := (s.groups.get? gid).any fun g => g.atTrap
      if done && parked then some gid else none

/-- R441: targets without a handler are killed. -/
def killUnserved (s : State) : State := killAll s (unserved s) .trapped

/-- Groups are killed, with everything that follows. -/
def kill (s : State) (gids : List Nat) (c : KillCause) : State := settle (killUnserved (killAll s gids c))

/-- R37, R51: the last lane of a group has executed `exit`. -/
def retireGroup (s : State) (gid w : Nat) : State :=
  settle (killUnserved (afterEnded (s.modifyGroup gid fun g => g.ended w) [gid]))

end Sys2Proof.Machine
end

