-- ==== Sys2Proof/Machine/Entries.lean ====
section
/-!
DEFINITION. Engine entries from their issue to their completion (spec/10 R282 to R292; spec/12 R348 to R350; spec/22 R452,
R453, R464; spec/23 R467, R468, R474).
-/

namespace Sys2Proof.Machine

/-! ## What an entry is made of -/

/-- R140: the size of an element of an OUTF code. -/
def outSize (outf : Nat) : Nat :=
  match outf with
  | 0 => 4
  | 1 | 2 => 2
  | 13 => 8
  | _ => 1

/-- R290: the size of an element of a collective's TYPE. -/
def collSize (ty : Nat) : Nat :=
  match ty with
  | 2 | 3 => 8
  | 5 | 6 => 2
  | _ => 4

/-- R291: how many ranks' COUNT the result of a collective holds. -/
def collOut (op ranks count : Nat) : Nat := if op = 1 then ranks * count else count

/-- The place of an `accst` or an `hzstore`. -/
def spotOf (team : Bool) (tid base : Nat) : Place := if team then .team tid base else .glob base

/-- R178: the units of an entry. Those of a collective here are what it sends. -/
def entryUnits (e : Entry) : List (List Chunk) :=
  let panel := fun (count fmt : Nat) (src dst : Place) =>
    if fmt = 0 then plainUnits count (some src) (some dst) else panelUnits count (blockBytes fmt) src dst
  match e.kind with
  | .globalToTeam off va count fmt => panel count fmt (.glob va) (.team e.team off)
  | .teamToGlobal off va count fmt => panel count fmt (.team e.team off) (.glob va)
  | .cluster dt d st sr count _ => plainUnits count (some (.team st sr)) (some (.team dt d))
  | .put dst src count peer _ _ => plainUnits count (some (.glob src)) (some (.peer peer dst))
  | .get dst src count peer => plainUnits count (some (.peer peer src)) (some (.glob dst))
  | .collective _ _ _ ty _ _ _ sent send _ => plainUnits (sent * collSize ty) (some (.glob send)) none
  | .tile _ team base stride _ fmt _ _ _ =>
    let n := 32 * outSize (fmtOUTF fmt)
    (upFrom 0 32).flatMap fun i =>
      (chunksOf (i * n) n none (some (spotOf team e.team (base + i * stride)))).map fun c => [c]
  | .front team base words => plainUnits (4 * words.length) none (some (spotOf team e.team base))

/-- R282: the byte count of an entry. -/
def entryBytes (e : Entry) : Nat :=
  match e.kind with
  | .globalToTeam _ _ count _ => count
  | .teamToGlobal _ _ count _ => count
  | .cluster _ _ _ _ count _ => count
  | .put _ _ count _ _ _ => count
  | .get _ _ count _ => count
  | .collective _ _ _ ty _ _ count _ _ _ => count * collSize ty
  | .tile _ _ _ _ _ fmt _ _ _ => 1024 * outSize (fmtOUTF fmt)
  | .front _ _ words => 4 * words.length

/-- R468: an entry's address: where it reads, or where it writes what it carries. -/
def entryAddr (e : Entry) : Nat :=
  match e.kind with
  | .globalToTeam _ va _ _ => va
  | .teamToGlobal _ va _ _ => va
  | .cluster _ dst _ _ _ _ => dst
  | .put _ src _ _ _ _ => src
  | .get dst _ _ _ => dst
  | .collective _ _ _ _ _ _ _ _ send _ => send
  | .tile _ _ base _ _ _ _ _ _ => base
  | .front _ base _ => base

/-- Whether an entry moves MX blocks. -/
def entryBlocks (e : Entry) : Bool :=
  match e.kind with
  | .globalToTeam _ _ _ fmt => decide (fmt ≠ 0)
  | .teamToGlobal _ _ _ fmt => decide (fmt ≠ 0)
  | _ => false

/-- R198: on whose behalf an entry makes its accesses. -/
def entrySite (e : Entry) (u : Issuer) : EngineSite where
  core := e.core
  ctx := e.ctx
  root := u.c.root
  rmode := u.c.rmode
  agent := e.agent.toNat
  by_ := [⟨u.g, e.stamp.toNat⟩]
  stamp := e.stamp.toNat
  gens := e.gens
  block := entryBlocks e
  clause := e.clause
  index := e.index
  lid := u.l.lid
  linteam := u.t.index
  cluster := match e.kind with
    | .cluster _ _ _ _ _ _ => true
    | _ => false

/-- R308: word (i, j) of a tile as it is stored: its code and flags. -/
def tileCode (fmt : Word) (sexp : Int) (w : Word) : Coded :=
  let x := if 8 ≤ fmtAF fmt ∧ fmtAF fmt ≤ 11 then Num.ofInt w.toInt 0 else decodeFloat f32Fmt w.toNat
  let y := x.scale sexp
  if fmtOUTF fmt = 13 then roundToX64 (fmtRMODE fmt) (fmtSAT fmt) y
  else elementCode (fmtOUTF fmt) false (fmtRMODE fmt) (fmtSAT fmt) y

/-- The bytes that an entry carries, each with whether it is poisoned. -/
def entryGiven (e : Entry) : List (Byte × Bool) :=
  match e.kind with
  | .tile _ _ _ _ sexp fmt words _ _ =>
    words.flatMap fun p => (leBytes (outSize (fmtOUTF fmt)) (tileCode fmt sexp p.1).1).map fun b => (b, p.2)
  | .front _ _ words => words.flatMap fun w => (leBytes 4 w.toNat).map fun b => (b, false)
  | _ => []

/-- R150, R308: the flags of the words of a tile that stand below a byte of the entry. -/
def entryFlags (e : Entry) (bytes : Nat) : Flags :=
  match e.kind with
  | .tile _ _ _ _ sexp fmt words _ _ =>
    (words.take (bytes / outSize (fmtOUTF fmt))).foldl (fun f p => f ||| (tileCode fmt sexp p.1).2) 0
  | _ => 0

/-! ## Issue (R282, R348) -/

/-- R348: the queue of a tenant at an engine of a core. -/
abbrev queueKey (engine tenant : Nat) : Nat := 64 * engine + tenant
def queueOf (c : Core) (engine tenant : Nat) : EngineQueue := c.queues.read (queueKey engine tenant) ⟨[], 0⟩

/-- R348: whether a tenant's queue has no room. -/
def queueFull (s : State) (u : Issuer) (engine : Nat) : Bool :=
  match s.cores.get? u.t.core with
  | some c => decide (Config.engineQueue ≤ (queueOf c engine u.c.tenant).entries.length)
  | none => false

/-- R194, R282: the entry of a group. Engines 0 and 1 are the copy and collective engines; an entry of 2, 3
(`accst`, `hzstore`) starts at once. -/
def entryOf (s : State) (u : Issuer) (kind : EntryKind) (opc engine : Nat) : Entry where
  group := u.gid
  team := u.g.team
  ctx := u.l.ctx
  tenant := u.c.tenant
  core := u.t.core
  agent := engineOf u.g.agent
  kind := kind
  stamp := u.g.rc
  gens := u.g.gens
  counter := if 2 ≤ engine then some (hdrSetd u.header) else none
  engine := engine
  started := decide (2 ≤ engine)
  startTick := s.ticks.toNat
  stalled := none
  overrun := none
  fetched := []
  performed := false
  batch := 0
  clause := u.g.clause
  index := u.g.index
  opc := opc
  sound := if 2 ≤ engine then u.g.sound else none

/-- R282, R348: an entry enters its tenant's queue and the open batch, and the clock rises. -/
def issueCopy (s : State) (u : Issuer) (kind : EntryKind) (opc engine : Nat) : State :=
  let (n, s1) := s.fresh
  let s2 := { s1 with entries := s1.entries.insert n (entryOf s u kind opc engine) }
  let s3 := s2.modifyCore u.t.core fun c =>
    let q := queueOf c engine u.c.tenant
    { c with queues := c.queues.insert (queueKey engine u.c.tenant) { q with entries := q.entries ++ [n] } }
  finish s3 u { u.g with rc := u.g.rc + 1, copyOpen := u.g.copyOpen ++ [(n, u.g.rc.toNat)] } voidEntry

/-- R308, R317: an entry with a counter is issued. -/
def issueCounted (s : State) (u : Issuer) (kind : EntryKind) (opc engine : Nat) : State :=
  let (n, s1) := s.fresh
  finishInFlight { s1 with entries := s1.entries.insert n (entryOf s u kind opc engine) } u
    (raiseCounter u { u.g with rc := u.g.rc + 1 }) voidEntry

/-! ## Completion (R288, R305, R467) -/

/-- R288: a batch all of whose entries have completed is complete. -/
def refreshCopies (s : State) (g : Group) : Group :=
  { g with copyBatches := g.copyBatches.mapVals fun _ b =>
      { b with done := b.done || b.entries.all fun i => (s.entries.get? i).isNone } }

/-- R467: the debt of an entry that ran beyond its tenant's slice. -/
def chargeDebt (s : State) (e : Entry) : State :=
  match e.overrun with
  | none => s
  | some t0 =>
    let s1 := s.modifyCore e.core fun c =>
      { c with debts := Table.write c.debts e.tenant (c.debts.read e.tenant 0 + (s.ticks.toNat - t0)) 0 }
    match s1.groups.get? e.group with
    | none => s1
    | some g => s1.modifyLaunch g.launch fun l => { l with debt := true }

/-- R306: the tile that an entry reads is read no longer. -/
def releaseTile (s : State) (e : Entry) : State :=
  match e.kind with
  | .tile tile _ _ _ _ _ _ _ _ => s.modifyTeam e.team fun t =>
      { t with tileReads := Table.write t.tileReads tile (t.tileReads.read tile 0 - 1) 0 }
  | _ => s

/-- An entry leaves its queue, if it stands there. -/
def dequeue (s : State) (id : Nat) (e : Entry) : State :=
  s.modifyCore e.core fun c =>
    let q := queueOf c e.engine e.tenant
    let rest := q.entries.filter fun i => decide (i ≠ id)
    { c with queues := if rest.isEmpty then c.queues.erase (queueKey e.engine e.tenant)
                       else c.queues.insert (queueKey e.engine e.tenant) { q with entries := rest } }

/-- An entry completes: its counter falls or its batch is tested, its flags are set, its debt is charged. -/
def endEntry (s : State) (id : Nat) (e : Entry) (fl : Flags) : State :=
  let s1 := chargeDebt (dequeue (releaseTile { s with entries := s.entries.erase id
                                                      sent := s.sent.filter fun p => decide (p.2.what ≠ .entry id) } e) id e) e
  let s2 := s1.modifyGroup e.group fun g =>
    let g1 := match e.counter with
      | some j => lowerCounter g j
      | none => g
    refreshCopies s1 (g1.orFpstat fl)
  settle (soundEnd s2 e.ctx e.sound fun x => x)

/-! ## Faults of entries (R452, R453) -/

/-- R453: the batch number a fault names. -/
def batchNumber (id : Nat) (e : Entry) (g : Group) : Nat :=
  if e.counter.isSome then 0
  else if g.copyOpen.any (fun p => decide (p.1 = id)) then (g.copyLast + 1).toNat else e.batch

/-- R452: a fault is held for a group; the launch of a retired group is marked. -/
def holdFor (s : State) (gid : Nat) (f : EngineFault) : State :=
  match s.groups.get? gid with
  | none => s
  | some g =>
    if g.status = .retired then
      match s.teams.get? g.team with
      | some t => s.modifyLaunch g.launch fun l => { l with faulted := lowestTeam l.faulted t.index }
      | none => s
    else s.modifyGroup gid fun g => { g with heldFaults := g.heldFaults ++ [f] }

/-- R452: an entry stops, with a fault held for its group, and completes. -/
def failEntry (s : State) (id : Nat) (e : Entry) (cls : FaultClass) (sub cause off addr md : Nat) : State :=
  match s.groups.get? e.group with
  | none => endEntry s id e 0
  | some g =>
    let f : EngineFault :=
      { cls := cls, sub := BitVec.ofNat 16 sub, cause := cause, batch := batchNumber id e g, stamp := e.stamp.toNat
        opc := e.opc, index := e.index, clause := e.clause, offset := off, addr := addr, mdsnap := BitVec.ofNat 128 md }
    endEntry (holdFor s e.group f) id e (entryFlags e off)

/-! ## Order and enabling (R186, R308) -/

/-- R186: every release that a group issued before an entry has performed; R308: with ORDER 2, every access. -/
def entryFree (s : State) (id : Nat) (e : Entry) : Bool :=
  let all := match e.kind with
    | .tile _ _ _ _ _ _ _ order _ => decide (order = 2)
    | _ => false
  (earlierAccesses s e.group id).all fun a => a.allPerformed || !(all || a.isRelease)

/-- R170: the entry's stall has ended. -/
def entryUnstalled (s : State) (e : Entry) : Bool := e.stalled.all fun w => (s.walks.get? w).isNone

/-! ## Packets of entries (R403) -/

/-- What the head of a Put-class packet says beside the address: ROP, 0xFF for a plain put, and on the last packet of a
delivery the credit: the endpoint, the set, the source and the bytes. -/
def putHead (rop : Option Nat) (credit : Option (Nat × Nat × Nat × Nat)) : List Byte :=
  BitVec.ofNat 8 (rop.getD 0xFF) ::
    match credit with
    | some (set, src, ep, n) => 1#8 :: leBytes 2 ep ++ leBytes 1 (set + 16 * src) ++ leBytes 4 n
    | none => [0#8]

/-- The packets of an entry to peers, made as it performs; they pin its team (R352). -/
def sendPuts (s : State) (id : Nat) (e : Entry) : List (Nat × Nat × List Byte) → State
  | [] => s
  | (dev, va, bytes) :: t =>
    let (rop, cr) := match e.kind with
      | .put _ _ count _ rop credit => (rop, credit.map fun c => (c.1, c.2.1, c.2.2, count))
      | _ => (none, none)
    let s1 := s.send dev 0 e.tenant (s.bindingOf e.ctx) (.entry id)
      (leBytes 8 va ++ putHead rop (if t.isEmpty then cr else none) ++ bytes)
    sendPuts (pinTeam s1 e.team) id e t

/-- Where a chunk reads from a peer: the device, the address and the bytes. -/
def peerSource (s : State) (site : EngineSite) (c : Chunk) : Option (Nat × Nat × Nat) :=
  match c.src with
  | none => none
  | some p =>
    match site.target s p c.n false with
    | some (.peer d va) => some (d, va, c.n)
    | _ => none

/-- The bytes that an entry reads from peers, request by request. -/
def peerSources (s : State) (site : EngineSite) (units : List (List Chunk)) : List (Nat × Nat × Nat) :=
  units.flatMap fun u => u.filterMap (peerSource s site)

/-- The requests of an entry to peers. -/
def sendGets (s : State) (id : Nat) (e : Entry) (rs : List (Nat × Nat × Nat)) : State :=
  rs.foldl (fun s r =>
    s.send r.1 1 e.tenant (s.bindingOf e.ctx) (.entry id) (leBytes 8 r.2.1 ++ leBytes 2 r.2.2)) s

/-- Whether a packet of an entry is unanswered. -/
def awaited (s : State) (id : Nat) : Bool := s.sent.any fun p => decide (p.2.what = .entry id)

/-- R403: whether a packet of an entry has not gone out: its class is paused. -/
def unsent (s : State) (id : Nat) : Bool := s.sent.any fun p => decide (p.2.what = .entry id) && !p.2.left

/-! ## An entry performs -/

/-- What an entry does once it may: a step towards its end. -/
inductive Progress
  | done (r : EngineRun)
  | waits (s : State)
  | idle
  | failed (s : State)
  | nowhere (loc : Nat)

/-- R170, R452: the units of an entry: it stalls on a page that is not there before any of them performs; a fatal
fault stops it at its unit. -/
def runUnits (s : State) (id : Nat) (e : Entry) (site : EngineSite) (units : List (List Chunk))
    (given : List (Byte × Bool)) : Progress :=
  let trouble := firstTrouble s site 0 units
  match trouble with
  | some (_, p, w, .absent _) =>
    let o := engineWalk s site p.addr w
    .waits (o.2.modifyEntry id fun e => { e with stalled := some o.1 })
  | some (_, _, _, .nowhere loc) => .nowhere loc
  | _ =>
    let live := match trouble with
      | some (k, _, _, _) => units.take k
      | none => units
    let wanted := peerSources s site live
    if unitsHeld s site live then .idle
    else if !wanted.isEmpty && e.fetched.isEmpty then .waits (sendGets s id e wanted)
    else
      let o := performUnits site ⟨s, e.fetched, given, [], none, []⟩ live
      match o.stop with
      | some (off, rs) =>
        let s1 := match noteEngineRaces o.run.s site none rs with
          | some r => logRace o.run.s e.ctx r
          | none => o.run.s
        match rs with
        | [] => .done o.run
        | x :: _ =>
          let m := markOf o.run.s x.2.2.1
          .failed (failEntry (sendPuts s1 id e o.run.packets) id e .race (raceSub (site.checked x.2.1) m x.2.2.2) 1 off
            x.1.addr m.encode)
      | none =>
        let s1 := match o.run.race with
          | some r => logRace o.run.s e.ctx r
          | none => o.run.s
        match trouble with
        | some (k, p, _, .fatal sub) =>
          let off := ((units[k]?.bind List.head?).map fun c => c.off).getD 0
          .failed (failEntry (sendPuts s1 id e o.run.packets) id e .mem (engBit sub) 2 off p.addr 0)
        | _ => .done { o.run with s := s1 }

/-! ## Collectives (R291, R474) -/

/-- R291: an element of a collective's type, widened for its sums. -/
def widen (ty x : Nat) : Nat :=
  match ty with
  | 5 => x * 2 ^ 16
  | 6 => (encodeFloat f32Fmt .rn false (decodeFloat f16Fmt x)).1
  | _ => x

/-- R291: the sum of elements, rank 0 first. -/
def sumElements (ty : Nat) (xs : List Nat) : Nat :=
  match xs with
  | [] => 0
  | x :: t =>
    match ty with
    | 0 | 1 => t.foldl (intAdd 32) x
    | 2 | 3 => t.foldl (intAdd 64) x
    | 4 => t.foldl (fun a b => (floatAdd f32Fmt .rn a b).1) x
    | _ =>
      let sum := t.foldl (fun a b => (floatAdd f32Fmt .rn a (widen ty b)).1) (widen ty x)
      (encodeFloat (if ty = 5 then bf16Fmt else f16Fmt) .rn false (decodeFloat f32Fmt sum)).1

/-- R290, R291: the lesser or greater of two elements as their type reads. -/
def pickElement (ty : Nat) (greater : Bool) (a b : Nat) : Nat :=
  let int := fun (n : Nat) (sg : Sign) => if greater then intMax n sg a b else intMin n sg a b
  match ty with
  | 0 => int 32 .signed
  | 1 => int 32 .unsigned
  | 2 | 3 => int 64 .signed
  | 4 => (floatMinMax f32Fmt greater false a b).1
  | 5 => (floatMinMax bf16Fmt greater false a b).1
  | _ => (floatMinMax f16Fmt greater false a b).1

/-- R291: the reduction of elements, rank 0 first. -/
def reduceElements (ty rop : Nat) (xs : List Nat) : Nat :=
  match rop, xs with
  | 0, _ => sumElements ty xs
  | _, [] => 0
  | _, x :: t => t.foldl (pickElement ty (decide (rop = 2))) x

/-- Element e of a contribution. -/
def collElement (ty : Nat) (c : FabricColl) (e : Nat) : Nat :=
  leNat ((c.bytes.drop (e * collSize ty)).take (collSize ty))

/-- R291: the bytes of RECV of a rank. -/
def collResult (cs : List FabricColl) (op ty rop root count rank : Nat) : List Byte :=
  let merged := fun e => reduceElements ty rop (cs.map fun c => collElement ty c e)
  let elem := fun e : Nat =>
    match op with
    | 0 => merged e
    | 1 => (cs[e / count]?.map fun c => collElement ty c (e % count)).getD 0
    | 2 => merged (rank * count + e)
    | _ => (cs[root]?.map fun c => collElement ty c e).getD 0
  (upFrom 0 (collOut op cs.length count)).flatMap fun e => leBytes (collSize ty) (elem e)

/-- The staging of a collective, if there is one. -/
def stagedOf (s : State) (ctx comm k : Nat) : Option (Nat × Staged) :=
  s.collectives.find? fun p => decide (p.2.ctx = ctx) && decide (p.2.comm = comm) && decide (p.2.k = k)

/-- R291: whether contributions disagree in OP, TYPE, ROP or COUNT. -/
def disagree (a b : FabricColl) : Bool :=
  decide (a.op ≠ b.op) || decide (a.ty ≠ b.ty) || decide (a.rop ≠ b.rop) || decide (a.count ≠ b.count)

/-- The entries of a collective on this device. -/
def membersOf (s : State) (ctx comm k : Nat) : List (Nat × Entry) :=
  s.entries.filter fun p => decide (p.2.ctx = ctx) &&
    match p.2.kind with
    | .collective c j _ _ _ _ _ _ _ _ => decide (c = comm) && decide (j = k)
    | _ => false

/-- R489: DETAIL of COLLFLT. -/
def collDetail (comm k : Nat) : Nat := comm % 65536 + 65536 * (k % 2 ^ 23)

/-- R464, R474: a collective is faulted on every member of this device; contributions are discarded. -/
def failCollective (s : State) (ctx comm k sub : Nat) : State :=
  match stagedOf s ctx comm k with
  | none => s
  | some (n, st) =>
    if st.failed then s else
    let s1 := { s with collectives := s.collectives.insert n { st with parts := [], failed := true } }
    let s2 := contextEvent s1 ctx ueCollflt sub (collDetail comm k) 0 0 0xFFFF
    (membersOf s2 ctx comm k).foldl (fun s p => failEntry s p.1 p.2 .copy 0x1 4 0 (entryAddr p.2) 0) s2

/-- R291, R403: whether a rank's contribution has arrived whole, packet by packet. A rank sends nothing to a broadcast but at
its root. -/
def partWhole (ranks : Nat) (p : FabricColl) : Bool :=
  let full := (if p.op = 2 then ranks * p.count else p.count) * collSize p.ty
  decide (p.bytes.length = full) || (decide (p.op = 3) && p.bytes.isEmpty)

/-- R404: the bytes of a packet follow those of its rank that came before; one that comes again is discarded. -/
def joinParts (ranks : Nat) (old : Option FabricColl) (c : FabricColl) : FabricColl :=
  match old with
  | none => c
  | some p => if partWhole ranks p then p else { c with bytes := p.bytes ++ c.bytes }

/-- R291: every rank's contribution is here. -/
def partsWhole (ranks : Nat) (st : Staged) : Bool :=
  decide (ranks ≤ st.parts.length) && st.parts.vals.all (partWhole ranks) && st.parts.vals.any fun p => !p.bytes.isEmpty

/-- R291, R474: a contribution is staged; members that disagree fault the collective. One that arrives for a collective
that has been faulted is discarded. -/
def stagePart (s : State) (ctx : Nat) (c : FabricColl) : State :=
  match stagedOf s ctx c.comm c.k with
  | some (n, st) =>
    if st.failed then s else
    let ranks := (((s.contexts.get? ctx).bind fun x => x.comms.get? c.comm).map fun x => x.ranks.length).getD 0
    let bad := st.parts.vals.any (disagree c)
    let s1 := { s with collectives := s.collectives.insert n { st with parts := st.parts.insert c.rank (joinParts ranks (st.parts.get? c.rank) c) } }
    if bad then failCollective s1 ctx c.comm c.k 1 else s1
  | none =>
    let (n, s1) := s.fresh
    { s1 with collectives := s1.collectives.insert n ⟨ctx, c.comm, c.k, [(c.rank, c)], s.ticks.toNat, false⟩ }

/-- R291: the ranks of a communicator on this device. -/
def localRanks (s : State) (c : Communicator) : List Nat :=
  (upFrom 0 c.ranks.length).filter fun r => decide (c.ranks[r]?.map Prod.fst = some s.devnum)

/-- The staging of a collective that every rank of this device has issued and finished with is dropped. -/
def dropStaged (s : State) (ctx comm k : Nat) : State :=
  match stagedOf s ctx comm k, (s.contexts.get? ctx).bind (fun c => c.comms.get? comm) with
  | some (n, _), some c =>
    let done := (localRanks s c).all (fun r => decide (k < c.issued.read r 0)) && (membersOf s ctx comm k).isEmpty
    if done then { s with collectives := s.collectives.erase n } else s
  | _, _ => s

/-- R290: the rank of a team in a communicator. -/
def rankOf (s : State) (c : Communicator) (team : Nat) : Option Nat :=
  (upFrom 0 c.ranks.length).find? fun r => decide (c.ranks[r]? = some (s.devnum, team))

/-- R403: bytes cut into packets of at most 256; none make one packet. -/
def packetsOf (bytes : List Byte) : List (List Byte) :=
  (upFrom 0 (max 1 ((bytes.length + 255) / 256))).map fun i => (bytes.drop (256 * i)).take 256

/-- R403: a contribution goes to the other devices of a communicator. -/
def sendPart (s : State) (id : Nat) (e : Entry) (c : Communicator) (p : FabricColl) : State :=
  let others := ((c.ranks.map Prod.fst).filter fun d => decide (d ≠ s.devnum)).eraseDups
  others.foldl (fun s d => (packetsOf p.bytes).foldl (fun s b =>
    s.send d 5 e.tenant (s.bindingOf e.ctx) (.entry id) b) s) (if others.isEmpty then s else pinTeam s e.team)

/-- R291: a collective entry: it sends this rank's data; once every rank's is here, it writes the result. An entry
whose result went to a peer holds a byte until it ends. -/
def runCollective (s : State) (id : Nat) (e : Entry) (u : Issuer) (comm k op ty rop root count recv : Nat) : Progress :=
  match u.c.comms.get? comm with
  | none => .failed (failEntry s id e .copy 0x1 4 0 (entryAddr e) 0)
  | some c =>
    let rank := (rankOf s c u.t.index).getD 0
    let site := entrySite e u
    if !e.performed then
      if awaited s id then .idle else
      match runUnits s id e site (entryUnits e) [] with
      | .done r =>
        let part : FabricColl := ⟨e.tenant, u.c.binding, s.devnum, comm, k, rank, op, ty, rop, count, r.out.map Prod.fst⟩
        let s1 := (sendPart r.s id e c part).modifyEntry id fun e => { e with performed := true, fetched := [] }
        .waits (stagePart s1 e.ctx part)
      | x => x
    else if !e.fetched.isEmpty then if unsent s id then .idle else .done ⟨s, [], [], [], none, []⟩
    else match stagedOf s e.ctx comm k with
      | none => .idle
      | some (_, st) =>
        if !partsWhole c.ranks.length st then .idle
        else
          let bytes := collResult st.parts.vals op ty rop root count rank
          runUnits s id { e with fetched := [] } site (plainUnits bytes.length none (some (.glob recv)))
            (bytes.map fun b => (b, false))

/-- R288: what an entry's performing leads to: its packets, its credit, and its end unless something is outstanding. -/
def afterRun (id : Nat) (e : Entry) (r : EngineRun) : State :=
  let s1 := sendPuts r.s id e r.packets
  match e.kind with
  | .cluster dt _ _ _ count (some (set, src)) =>
    if count = 0 then endEntry s1 id e 0 else
    let c : Credit := ⟨e.ctx, none, dt, set, src, count, some e.agent, e.stamp.toNat⟩
    { s1 with credits := s1.credits.insert id c }.modifyEntry id fun e => { e with performed := true }
  | .collective comm k _ _ _ _ _ _ _ _ =>
    if r.packets.isEmpty then dropStaged (endEntry s1 id e 0) e.ctx comm k
    else s1.modifyEntry id fun e => { e with fetched := [0] }
  | _ =>
    if awaited s1 id then s1.modifyEntry id fun e => { e with performed := true }
    else endEntry s1 id e (entryFlags e (entryBytes e))

/-- A step of an entry towards its end (R288, R305, R308, R317). -/
def advanceEntry (s : State) (id : Nat) (e : Entry) : Out :=
  match issuerOf s e.group with
  | none => .refused .notEnabled
  | some u =>
    if !e.started || !entryUnstalled s e || !entryFree s id e then .refused .notEnabled
    else
      let e0 := { e with stalled := none }
      let s0 := s.modifyEntry id fun e => { e with stalled := none }
      let of := fun p : Progress => match p with
        | .done r => Host.Outcome.next (afterRun id e0 r)
        | .waits s1 => .next s1
        | .idle => .refused .notEnabled
        | .failed s1 => .next s1
        | .nowhere loc => .fault (.noSuchPhysicalAddress loc)
      match e.kind with
      | .collective comm k op ty rop root count _ _ recv => (of (runCollective s0 id e0 u comm k op ty rop root count recv) : Out)
      | _ =>
        if e.performed then
          if (s.credits.get? id).isSome || unsent s id then .refused .notEnabled
          else .next (endEntry s0 id e0 (entryFlags e (entryBytes e)))
        else if awaited s id then .refused .notEnabled
        else
          let s1 := match e.kind with
            | .tile _ _ _ _ _ _ _ 2 scope => if scope = 0 then s0 else cleanCore s0 e.core
            | _ => s0
          of (runUnits s1 id e0 (entrySite e u) (entryUnits e) (entryGiven e))

/-- COPY_ENTRY_COMPLETE (R288). -/
def execCopyEntryComplete (entry : Nat) (s : State) : Out :=
  match s.entries.get? entry with
  | none => .refused .notEnabled
  | some e => if 2 ≤ e.engine then .refused .notEnabled else advanceEntry s entry e

/-- ACCST_COMPLETION (R308). -/
def execAccstCompletion (entry : Nat) (s : State) : Out :=
  match s.entries.get? entry with
  | none => .refused .notEnabled
  | some e => if e.engine = 2 then advanceEntry s entry e else .refused .notEnabled

/-- HZSTORE_COMPLETION (R317). -/
def execHzstoreCompletion (entry : Nat) (s : State) : Out :=
  match s.entries.get? entry with
  | none => .refused .notEnabled
  | some e => if e.engine = 3 then advanceEntry s entry e else .refused .notEnabled

/-! ## The arbiter (R349) -/

/-- R349: the queue that the arbiter visits next: the tenant after the last one visited, in ascending order. -/
def nextQueue (c : Core) (engine : Nat) : Option Nat :=
  let ts := (upFrom 0 64).filter fun t => !(queueOf c engine t).entries.isEmpty
  let last := c.visited.get? engine
  match ts.filter (fun t => last.all fun l => decide (l < t)) with
  | t :: _ => some t
  | [] => ts.head?

/-- R349: head entries started while the credit is positive. -/
def startHeads (s : State) : List Nat → Int → State × List Nat × Int
  | [], _ => (s, [], 0)
  | n :: t, credit =>
    if credit ≤ 0 then (s, n :: t, credit)
    else
      let cost := match s.entries.get? n with
        | some e => if entryBytes e = 0 then 64 else entryBytes e
        | none => 0
      let s1 := s.modifyEntry n fun e => { e with started := true, startTick := s.ticks.toNat }
      startHeads s1 t (credit - cost)

/-- R282: the entries of no bytes among those just started complete. -/
def endEmpty (s : State) (ids : List Nat) : State :=
  ids.foldl (fun s id =>
    match s.entries.get? id with
    | some e => if e.started && decide (entryBytes e = 0) then endEntry s id e 0 else s
    | none => s) s

/-- ENGINE_ENTRY_START (R349): the arbiter's visit to a queue. -/
def execEngineEntryStart (core engine : Nat) (s : State) : Out :=
  match s.cores.get? core with
  | none => .refused .notEnabled
  | some c =>
    match if 2 ≤ engine then none else nextQueue c engine with
    | none => .refused .notEnabled
    | some tn =>
      let q := queueOf c engine tn
      let weight := match s.tenants.get? tn with
        | some t => t.weight
        | none => 0
      let o := startHeads s q.entries (q.credit + 4096 * weight)
      let s1 := o.1.modifyCore core fun c =>
        { c with visited := c.visited.insert engine tn
                 queues := if o.2.1.isEmpty then c.queues.erase (queueKey engine tn)
                           else c.queues.insert (queueKey engine tn) ⟨o.2.1, o.2.2⟩ }
      .next (endEmpty s1 q.entries)

end Sys2Proof.Machine
end

