-- ==== Sys2Proof/Machine/Copy.lean ====
section
/-!
DEFINITION. Copies, their batches and collectives (spec/10 R282 to R291).
-/

namespace Sys2Proof.Machine

/-- R282: a copy-argument fault. -/
def copyRaise : Raise := .group .copy 0x1 0

/-- R282: a copy instruction: its operands, then its arguments; it waits in place while the queue is full. -/
def copyOp (s : State) (uses : List Use) (opc : Nat) (build : State → Issuer → Except Raise EntryKind) : Out :=
  withIssuer s fun u =>
    match scalarFault u uses with
    | some r => .next (trapScalar s u r uses)
    | none =>
      match build s u with
      | .error r => .next (trapScalar s u r uses)
      | .ok k => if queueFull s u 0 then .next (stallIn s u 11) else .next (issueCopy s u k opc 0)

/-- R283: the most bytes of plain data. -/
abbrev copyLimit : Nat := 2 ^ 24

/-- R283, R284: whether the count, the addresses and the control of a panel are right; `off` is the team offset. -/
def panelOk (u : Issuer) (off va count ctl : Nat) : Bool :=
  decide (off + count ≤ u.l.teamMem) &&
  if ctl = 0 then decide (off % 4 = 0) && decide (va % 4 = 0) && decide (count % 4 = 0) && decide (count ≤ copyLimit)
  else decide (3 ≤ ctl) && decide (ctl ≤ 8) && decide (count % (blockBytes ctl + 1) = 0) &&
    decide (off % blockAlign ctl = 0) && decide (va % blockAlign ctl = 0)

/-- R283: the operands of `cpg`. -/
def cpgUses (f : FormV) : List Use := [src fieldD f.d, src64 fieldA f.a, src fieldB f.b, src fieldC f.c]

/-- R283: cpg.ld. -/
def execCpgLd (f : FormV) (s : State) : Out :=
  copyOp s (cpgUses f) 0x2CB fun _ u =>
    if panelOk u (sval u f.d) (sval64 u f.a) (sval u f.b) (sval u f.c) then
      .ok (.globalToTeam (sval u f.d) (sval64 u f.a) (sval u f.b) (sval u f.c))
    else .error copyRaise

/-- R283: cpg.st. -/
def execCpgSt (f : FormV) (s : State) : Out :=
  copyOp s (cpgUses f) 0x2CC fun _ u =>
    if panelOk u (sval u f.d) (sval64 u f.a) (sval u f.b) (sval u f.c) then
      .ok (.teamToGlobal (sval u f.d) (sval64 u f.a) (sval u f.b) (sval u f.c))
    else .error copyRaise

/-- R285: cpc. -/
def execCpc (f : FormV) (s : State) : Out :=
  copyOp s [src fieldD f.d, src fieldA f.a, src fieldB f.b, src fieldC f.c] 0x2CD fun s u =>
    let d := sval u f.d
    let a := sval u f.a
    let n := sval u f.b
    let tag := sval u f.c
    if field tag 30 8 = 0 ∧ d % 4 = 0 ∧ a % 4 = 0 ∧ n % 4 = 0 ∧ n ≤ copyLimit ∧
       legalIn u .c d n = true ∧ legalIn u .c a n = true then
      .ok (.cluster (clusterTeam s u (clusterCI d)) (clusterOFF d) (clusterTeam s u (clusterCI a)) (clusterOFF a) n
        (if bitOf tag 31 then some (field tag 3 0, field tag 7 4) else none))
    else .error copyRaise

/-! ## Fabric copies (R286, R287) -/

/-- R287: the operands of a fabric copy. -/
def fabricUses (f : FormV) : List Use := [src64 fieldD f.d, src64 fieldA f.a, src fieldB f.b, src64 fieldC f.c]

/-- R286: the control pair. -/
structure FabricControl where
  arv : Bool
  rop : Nat
  src : Nat
  set : Nat
  peer : Nat
  ep : Nat
  deriving DecidableEq, Repr

/-- R286: the control pair read, where every bit that must be 0 is. -/
def fabricControl (c : Nat) : Option FabricControl :=
  if field c 30 28 = 0 ∧ field c 15 12 = 0 ∧ field c 63 48 = 0 ∧ (bitOf c 31 = true ∨ field c 47 32 = 0) then
    some ⟨bitOf c 31, field c 27 24, field c 23 20, field c 19 16, field c 11 0, field c 47 32⟩
  else none

/-- R287: the size of an element of ROP. -/
def ropSize (rop : Nat) : Nat := if rop = 1 ∨ rop = 2 then 8 else 4

/-- R282, R283, R287, R405: whether the count and the addresses of a fabric copy are right. -/
def fabricOk (s : State) (k : FabricControl) (peerAddr here n size : Nat) : Bool :=
  decide (peerAddr % size = 0) && decide (here % size = 0) && decide (n % size = 0) && decide (n ≤ copyLimit) &&
  decide (peerAddr + n ≤ 2 ^ 52) && decide (k.peer ≠ s.devnum)

/-- R280: what a delivery names at the peer. -/
def FabricControl.credit (k : FabricControl) : Option (Nat × Nat × Nat) :=
  if k.arv then some (k.set, k.src, k.ep) else none

/-- R287: fput. -/
def execFput (f : FormV) (s : State) : Out :=
  copyOp s (fabricUses f) 0x2CE fun s u =>
    match fabricControl (sval64 u f.c) with
    | none => .error copyRaise
    | some k =>
      if k.rop = 0 ∧ fabricOk s k (sval64 u f.d) (sval64 u f.a) (sval u f.b) 4 = true then
        .ok (.put (sval64 u f.d) (sval64 u f.a) (sval u f.b) k.peer none k.credit)
      else .error copyRaise

/-- R287: fget. -/
def execFget (f : FormV) (s : State) : Out :=
  copyOp s (fabricUses f) 0x2CF fun s u =>
    match fabricControl (sval64 u f.c) with
    | none => .error copyRaise
    | some k =>
      if k.arv = false ∧ k.rop = 0 ∧ k.ep = 0 ∧ fabricOk s k (sval64 u f.a) (sval64 u f.d) (sval u f.b) 4 = true then
        .ok (.get (sval64 u f.d) (sval64 u f.a) (sval u f.b) k.peer)
      else .error copyRaise

/-- R287: fputr. -/
def execFputr (f : FormV) (s : State) : Out :=
  copyOp s (fabricUses f) 0x2D0 fun s u =>
    match fabricControl (sval64 u f.c) with
    | none => .error copyRaise
    | some k =>
      if k.rop < 8 ∧ fabricOk s k (sval64 u f.d) (sval64 u f.a) (sval u f.b) (ropSize k.rop) = true then
        if u.l.det && decide (k.rop = 3) then .error (.group .det 0x5 0)
        else .ok (.put (sval64 u f.d) (sval64 u f.a) (sval u f.b) k.peer (some k.rop) k.credit)
      else .error copyRaise

/-! ## Batches (R288, R289) -/

/-- R288: the batch that closes over open entries; `live` says which have not completed. -/
def closedBatch (opened : List (Nat × Nat)) (live : Nat → Bool) (fl : BitVec 7) : Batch where
  entries := opened.map Prod.fst
  stamp := opened.foldl (fun m p => some (match m with
    | some x => serialMax 32 x p.2
    | none => p.2)) none
  flags := fl
  done := opened.all fun p => !live p.1

/-- R288: a batch that would be one too many among those not complete. -/
def tooManyBatches (bs : Table Batch) (b : Batch) : Bool :=
  !b.done && decide (Config.batchesInFlight ≤ (bs.filter fun p => !p.2.done).length)

/-- R288: cpclose. -/
def execCpclose (f : FormV) (s : State) : Out :=
  groupOp s [dst f.d] noCheck fun u =>
    let b := closedBatch u.g.copyOpen (fun n => (s.entries.get? n).isSome) 0
    if tooManyBatches u.g.copyBatches b then .next (stallIn s u 3)
    else
      let n := u.g.copyLast + 1
      let g := { u.g with copyOpen := [], copyLast := n, copyBatches := u.g.copyBatches.insert n.toNat b }
      let s1 := { s with entries := s.entries.mapVals fun i e => if i ∈ b.entries then { e with batch := n.toNat } else e }
      .next (finish s1 u (setScalar g f.d n.toNat) voidEntry)

/-- R289: a batch number in the future. -/
def futureRaise (n : BitVec 32) : Raise := .group .sync 0x8 n.toNat

/-- R289: waits for the copy batches up to n. -/
def copyWait (s : State) (u : Issuer) (uses : List Use) (n : BitVec 32) : State :=
  if !batchLe n.toNat u.g.copyLast.toNat then trapScalar s u (futureRaise n) uses
  else settle (block s u u.g (.copyBatch n))

/-- R289: cpwait. -/
def execCpwait (f : FormV) (s : State) : Out :=
  groupOp s [src fieldA f.a] noCheck fun u => .next (copyWait s u [src fieldA f.a] (BitVec.ofNat 32 (sval u f.a)))

/-- R289: cpwait #k. -/
def execCpwaitImm (f : FormI) (s : State) : Out :=
  groupOp s [] noCheck fun u => .next (copyWait s u [] (u.g.copyLast - BitVec.ofNat 32 f.imm.toNat))

/-! ## Descriptors in team memory (R290, R296) -/

/-- R290, R296: a group's read of a 32-byte descriptor at a team offset. -/
def descriptorAccess (u : Issuer) (off opc : Nat) : Access :=
  let la : LaneAccess :=
    { lane := 0, va := off, target := .team u.g.team off, tail := none, scale := none, size := 32, data := 0
      performed := false, value := none, poisoned := false, dest := [] }
  { group := u.gid, kind := .load .b128, space := .t, scalar := true, lanes := [la], mask := u.g.active, order := 0
    scope := 0, counter := hdrSetd u.header, stamp := u.g.rc, gens := u.g.gens, clause := u.g.clause
    index := u.g.index, opc := opc, checked := false, frozen := false, race := none, flags := 0, sound := none }

/-- R202, R455: a race in fault mode of an access that a group instruction makes at issue. -/
def raceTrapScalar (s : State) (u : Issuer) (a : Access) (p : LaneAccess × Granule × Found) (uses : List Use) : State :=
  let s1 := match raceRecordOf s u a (racesOf s u a) with
    | some r => logRace s u.l.ctx r
    | none => s
  let mark := markOf s p.2.1
  trapScalar s1 u ⟨.race, raceSub (checkedOf u.g a p.1) mark p.2.2, 0xFF, p.1.va, 0, BitVec.ofNat 128 mark.encode⟩ uses

/-- R290, R296: an instruction that reads a descriptor at a team offset. It waits in place for the group's earlier
accesses to those bytes. What the words come to is a fault, or the effect on the state after the read. -/
def withDescriptor (s : State) (u : Issuer) (uses : List Use) (off opc : Nat)
    (k : Nat → Except Raise (State → Out)) : Out :=
  let a := descriptorAccess u off opc
  match a.lanes with
  | [] => .next s
  | la :: _ =>
    if !lanesFree s a a.lanes then .next s
    else match racesOf s u a with
      | p :: _ => .next (raceTrapScalar s u a p uses)
      | [] =>
        let (v, _, s1) := readNow s u a la
        match k v with
        | .error r => .next (trapScalar s u r uses)
        | .ok effect => effect s1

/-- Bits of word k of a descriptor. -/
def descWord (v k : Nat) : Nat := v / 2 ^ (32 * k) % 2 ^ 32

/-! ## Collectives (R290) -/

/-- R290: the arguments of a descriptor; `ranks` is the size of its communicator. -/
def collOk (v ranks : Nat) : Bool :=
  let w0 := descWord v 0
  let size := collSize (field w0 7 4)
  decide (field w0 31 12 = 0) && decide (field w0 11 8 < 3) && decide (field w0 7 4 < 7) && decide (field w0 3 0 < 4) &&
  decide (field (descWord v 1) 31 16 = 0) && decide (field (descWord v 2) 31 16 = 0) &&
  decide (field (descWord v 2) 15 0 < ranks) && (decide (field w0 3 0 = 3) || decide (field (descWord v 2) 15 0 = 0)) &&
  decide (1 ≤ descWord v 3) && decide (descWord v 3 ≤ 2 ^ 24) &&
  decide ((descWord v 4 + 2 ^ 32 * descWord v 5) % size = 0) && decide ((descWord v 6 + 2 ^ 32 * descWord v 7) % size = 0)

/-- R291: the elements that a rank sends: COUNT; for a reduce-scatter COUNT for every rank; for a broadcast none but the
root's. -/
def collSent (op ranks count root rank : Nat) : Nat :=
  if op = 2 then ranks * count else if op = 3 ∧ rank ≠ root then 0 else count

/-- R290, R474: the collective of a group is issued; one that has been faulted before completes at once, its fault held. -/
def issueColl (s : State) (u : Issuer) (v comm : Nat) (c : Communicator) (rank : Nat) : State :=
  let w0 := descWord v 0
  let k := c.issued.read rank 0
  let kind : EntryKind := .collective comm k (field w0 3 0) (field w0 7 4) (field w0 11 8) (field (descWord v 2) 15 0)
    (descWord v 3) (collSent (field w0 3 0) c.ranks.length (descWord v 3) (field (descWord v 2) 15 0) rank)
    (descWord v 4 + 2 ^ 32 * descWord v 5) (descWord v 6 + 2 ^ 32 * descWord v 7)
  let id := s.nextId
  let s1 := (issueCopy s u kind 0x2D4 1).modifyContext u.l.ctx fun x =>
    { x with comms := x.comms.insert comm { c with issued := c.issued.insert rank (k + 1) } }
  match stagedOf s1 u.l.ctx comm k, s1.entries.get? id with
  | some (_, st), some e =>
    if st.failed then dropStaged (failEntry s1 id e .copy 0x1 4 0 (entryAddr e) 0) u.l.ctx comm k else s1
  | _, _ => s1

/-- R290: coll. -/
def execColl (f : FormV) (s : State) : Out :=
  groupOp s [src fieldA f.a] noCheck fun u =>
    let off := sval u f.a
    let uses := [src fieldA f.a]
    if off % 32 ≠ 0 ∨ u.l.teamMem < off + 32 then .next (trapScalar s u copyRaise uses)
    else if queueFull s u 1 then .next (stallIn s u 11)
    else withDescriptor s u uses off 0x2D4 fun v =>
      let comm := field (descWord v 1) 15 0
      match u.c.comms.get? comm with
      | none => .error copyRaise
      | some c =>
        match rankOf s c u.t.index with
        | none => .error copyRaise
        | some rank =>
          if collOk v c.ranks.length then .ok fun s1 => .next (issueColl s1 u v comm c rank) else .error copyRaise

end Sys2Proof.Machine
end

