-- ==== Sys2Proof/Machine/Matrix.lean ====
section
/-!
DEFINITION. Gangs, operand maps, joint matrix operations and the accumulator store (spec/11 R294 to R310).
-/

namespace Sys2Proof.Machine

/-! ## Gangs, maps and handles (R294 to R297) -/

/-- A MATRIX fault of a group. -/
def matrixRaise (sub detail : Nat) : Raise := .group .matrix sub detail
abbrev gangConfig : Nat := 0x1
abbrev tileRange : Nat := 0x4
abbrev matrixArgument : Nat := 0x5
abbrev sparseIndex : Nat := 0x6
abbrev tileInFlight : Nat := 0x7
abbrev reuseMismatch : Nat := 0x8

/-- R294: the member fields of IMM22. -/
def gangFields (imm : Nat) : List Nat := (upFrom 0 6).map fun k => field imm (3 * k + 2) (3 * k)

/-- R294: the gang that IMM22 lists, for group g of a team of n. -/
def gangOf (imm n g : Nat) : Option Gang :=
  let count := field imm 20 18
  let members := (gangFields imm).take count
  let rest := (gangFields imm).drop count
  if bitOf imm 21 || !rest.all (fun x => decide (x = 0)) then none
  else if count = 0 then some []
  else if count = 1 ∨ count = 7 then none
  else if members.Nodup ∧ members.all (fun x => decide (x < n)) = true ∧ g ∈ members then some members
  else none

/-- R294, R302: gangset. The count of joint operations starts again. -/
def execGangset (f : FormI) (s : State) : Out :=
  groupOp s [] noCheck fun u =>
    match gangOf f.imm.toNat u.l.groupCount u.g.g with
    | none => .next (trapScalar s u (matrixRaise gangConfig 0) [])
    | some gang => .next (finish s u { u.g with gang := gang, gangOps := 0 } voidEntry)

/-- R295: omap. -/
def execOmap (f : FormV) (s : State) : Out :=
  let uses := [src fieldA f.a, src fieldB f.b, src fieldC f.c]
  groupOp s uses noCheck fun u =>
    let c := sval u f.c
    if field c 29 21 ≠ 0 then .next (trapScalar s u (matrixRaise matrixArgument 0) uses)
    else
      let m : OperandMap := ⟨sval u f.a, sval u f.b, field c 31 30, field c 20 0⟩
      .next (finish s u { u.g with maps := u.g.maps.insert f.d.toNat m } voidEntry)

/-- R301: EB, the bytes of a column of an element format. -/
def columnBytes (fmt : Nat) : Nat :=
  match fmt with
  | 0 => 128
  | 1 | 2 => 64
  | 5 | 6 => 24
  | 7 | 10 | 11 => 16
  | _ => 32

/-- R301: the alignment of a base. -/
def columnAlign (fmt : Nat) : Nat := if columnBytes fmt = 32 then 32 else 16

/-- R296: the handle that a descriptor gives. -/
def handleOf (v : Nat) : Option TileHandle :=
  let base := descWord v 0 + 2 ^ 32 * descWord v 1
  let w5 := descWord v 5
  let ef := field w5 19 16
  let ncols := field w5 15 0
  if field w5 31 20 = 0 ∧ descWord v 6 = 0 ∧ descWord v 7 = 0 ∧ ef ≤ 11 ∧ 1 ≤ ncols ∧ ncols ≤ 256 ∧
     base % columnAlign ef = 0 ∧ descWord v 4 % 16 = 0 ∧ columnBytes ef ≤ descWord v 4 then
    some ⟨base, descWord v 2 + 2 ^ 32 * descWord v 3, descWord v 4, ef, ncols⟩
  else none

/-- R296: thset. -/
def execThset (f : FormV) (s : State) : Out :=
  let uses := [src fieldA f.a]
  groupOp s uses noCheck fun u =>
    let off := sval u f.a
    if off % 32 ≠ 0 ∨ u.l.teamMem < off + 32 then .next (trapScalar s u (matrixRaise matrixArgument 0) uses)
    else withDescriptor s u uses off 0x302 fun v =>
      match handleOf v with
      | none => .error (matrixRaise matrixArgument 0)
      | some h => .ok fun s1 =>
          match issuerOf s1 u.gid with
          | none => .refused .noIssuer
          | some u1 => .next (finish s1 u1 { u1.g with handles := u1.g.handles.insert f.d.toNat h } voidEntry)

/-- R297: opfence. What it waits for stands in the eligibility of its clause; where that could not be tested (its word had
not been translated yet), it waits here. -/
def execOpfence (_f : FormV) (s : State) : Out :=
  withIssuer s fun u => .next (if u.g.anyPending then s else finish s u u.g voidEntry)

/-! ## The A fragment (R299, R300) -/

/-- R299: NR, the registers of 32 rows of an element format at a width. -/
def fragmentRegs (fmt width : Nat) : Nat := 1024 / (elementsPerRegister fmt * width)

/-- R299: element kk of row i, from the registers at ab. -/
def fragmentElem (u : Issuer) (ab i kk : Nat) : Nat :=
  let fmt := fmtAF u.g.fmt
  let e := elementsPerRegister fmt
  let q := u.l.width / 32
  let r := kk / e / q
  elementOf fmt (u.g.vreg (ab + r) (32 * (kk / e % q) + i)).toNat (kk % e)

/-- R300: the positions of row i in group g of four K elements, from an index register. -/
def sparsePair (w g : Nat) : Nat × Nat := (field w (4 * g + 1) (4 * g), field w (4 * g + 3) (4 * g + 2))

/-- R300: element kk of row i of a compressed fragment; `w` is the row's index word. -/
def sparseElem (u : Issuer) (ab i w kk : Nat) : Nat :=
  let p := sparsePair w (kk / 4)
  if kk % 4 = p.1 then fragmentElem u ab i (2 * (kk / 4))
  else if kk % 4 = p.2 then fragmentElem u ab i (2 * (kk / 4) + 1)
  else 0

/-- What an `mma` or `mmasp` is: its opcode, whether it is sparse, and its fields. -/
structure MatrixForm where
  opc : Nat
  sparse : Bool
  f : FormT

/-- R298: N / 32 and N. -/
def MatrixForm.nt (m : MatrixForm) : Nat := m.f.shape.toNat + 1
def MatrixForm.n (m : MatrixForm) : Nat := 32 * m.nt
def MatrixForm.ab (m : MatrixForm) : Nat := m.f.ab.toNat

/-- R300: NA. -/
def MatrixForm.fragRegs (m : MatrixForm) (u : Issuer) : Nat :=
  let nr := fragmentRegs (fmtAF u.g.fmt) u.l.width
  if m.sparse then (nr + 1) / 2 else nr

/-- R300: the place of the index register after AB. -/
def MatrixForm.indexReg (m : MatrixForm) (u : Issuer) : Nat :=
  m.ab + m.fragRegs u + if fmtSCALE u.g.fmt then 1 else 0

/-- R299, R300: the registers that the A operand takes from AB on. -/
def MatrixForm.regCount (m : MatrixForm) (u : Issuer) : Nat :=
  m.fragRegs u + (if fmtSCALE u.g.fmt then 1 else 0) + if m.sparse then 1 else 0

/-- R300: the index word of row i. -/
def MatrixForm.indexWord (m : MatrixForm) (u : Issuer) (i : Nat) : Nat :=
  (u.g.vreg (m.indexReg u) (32 * m.f.spsel.toNat + i)).toNat

/-- R98, R107, R298: the faults of the registers of the A operand, every lane of which is read. -/
def MatrixForm.regFault (m : MatrixForm) (u : Issuer) : Option Raise :=
  let ks := upFrom 0 (m.regCount u)
  match firstWhere (fun k => decide (u.l.regs ≤ m.ab + k)) ks with
  | some k => some (operRaise 0x1 0xFF fieldA m.f.ab k)
  | none =>
    match firstWhere (fun k => (upFrom 0 u.l.width).any (u.g.vPend (m.ab + k))) ks with
    | some k => some (operRaise 0x4 0xFF fieldA m.f.ab k)
    | none => none

/-- R300: a group of a row whose positions do not ascend. -/
def MatrixForm.indexFault (m : MatrixForm) (u : Issuer) : Bool :=
  m.sparse && (upFrom 0 32).any fun i => (upFrom 0 8).any fun g =>
    let p := sparsePair (m.indexWord u i) g
    decide (p.2 ≤ p.1)

/-- R443: DETAIL of the first poisoned element of the A operand. -/
def MatrixForm.poison (m : MatrixForm) (u : Issuer) : Option Nat :=
  firstSome (fun k => (firstWhere (u.g.vBad (m.ab + k)) (upFrom 0 u.l.width)).map fun l =>
    m.ab + k + 65536 * (l / 2)) (upFrom 0 (m.regCount u))

/-- R304: what the kept fragment must equal: OPC and AB. -/
def MatrixForm.word (m : MatrixForm) : Nat := m.opc * 2048 + m.ab

/-- R303: the member's A rows, from its registers. -/
def MatrixForm.fragment (m : MatrixForm) (u : Issuer) : Fragment where
  rows := (upFrom 0 32).map fun i => (upFrom 0 32).map fun kk =>
    if m.sparse then sparseElem u m.ab i (m.indexWord u i) kk else fragmentElem u m.ab i kk
  scales := (upFrom 0 32).map fun i =>
    if fmtSCALE u.g.fmt then (u.g.vreg (m.ab + m.fragRegs u) i).toNat % 256 else 127
  word := m.word
  fmt := u.g.fmt.toNat % 65536
  bad := m.poison u

/-! ## The B operand (R301) -/

/-- R301: the pieces of a column through a map: 16 bytes of it at a time, moved as SWZ says. -/
def mapColumn (tid : Nat) (m : OperandMap) (eb j : Nat) : List Chunk :=
  (upFrom 0 ((eb + 15) / 16)).map fun p =>
    let o := 16 * p
    ⟨0, Nat.min 16 (eb - o), some (.team tid (m.base + j * m.stride + Nat.xor o (16 * (j % 2 ^ m.swz)))), none⟩

/-- R301, R178: column j, with its scale where SCALE says so. -/
def columnUnit (j : JointOp) (col : Nat) : List Chunk :=
  let eb := columnBytes (fmtBF j.fmt)
  let scale := fun p : Place => if fmtSCALE j.fmt then [(⟨0, 1, some p, none⟩ : Chunk)] else []
  match j.map, j.handle with
  | some m, _ => mapColumn j.team m eb col ++ scale (.team j.team (m.scales + col))
  | none, some h =>
    chunksOf 0 eb (some (.glob (h.base + col * h.nstride))) none ++ scale (.glob (h.sbase + col))
  | none, none => []

/-- R301: the bounds of a column through a map. -/
def mapBytes (m : OperandMap) (eb n : Nat) : Nat :=
  (upFrom 0 n).foldl (fun hi j => (mapColumn 0 m eb j).foldl (fun hi c =>
    match c.src with
    | some p => max hi (p.addr + c.n)
    | none => hi) hi) 0

/-- R301: a map that an `mma` may not use. -/
def mapBad (u : Issuer) (m : OperandMap) (n : Nat) : Bool :=
  let fmt := fmtBF u.g.fmt
  let eb := columnBytes fmt
  decide (m.base % columnAlign fmt ≠ 0) ||
  (if m.swz ≠ 0 then decide (m.stride % 128 ≠ 0) else decide (m.stride % 16 ≠ 0) || decide (m.stride < eb)) ||
  decide (u.l.teamMem < mapBytes m eb n) || (fmtSCALE u.g.fmt && decide (u.l.teamMem < m.scales + n))

/-! ## Tiles in flight (R306) -/

/-- R306: whether group `gid` may not touch a tile: its last writer has not completed, or the group has not waited for
it. -/
def tileBusy (t : Team) (gid tile : Nat) : Bool :=
  match t.writers.get? tile with
  | none => false
  | some w => !w.complete || (decide (gid ∈ w.members) && decide (gid ∉ w.waited))

/-- R306: whether an operation of members `gids` may not name a tile in C. -/
def tileTaken (t : Team) (gids : List Nat) (tile : Nat) : Bool :=
  decide (0 < t.tileReads.read tile 0) ||
  match t.writers.get? tile with
  | none => false
  | some w => !w.complete && !(w.members.all (fun x => decide (x ∈ gids)) && gids.all fun x => decide (x ∈ w.members))

/-- R294: the groups of a gang. -/
def gangGroups (t : Team) (gang : Gang) : List Nat := gang.filterMap fun k => t.groups[k]?

/-! ## Issue (R298 to R302) -/

/-- R298: C's tiles. -/
def MatrixForm.tiles (m : MatrixForm) (count : Nat) : List Nat := upFrom m.f.acc.toNat (count * m.nt)

/-- R298: the map or handle that BS names. -/
def MatrixForm.operand (m : MatrixForm) (u : Issuer) : Option OperandMap × Option TileHandle :=
  if m.f.bs.toNat < 4 then (u.g.maps.get? m.f.bs.toNat, none) else (none, u.g.handles.get? (m.f.bs.toNat - 4))

/-- R298, R301, R304, R306, R435: the group-level checks of an `mma` or `mmasp`. -/
def MatrixForm.check (m : MatrixForm) (u : Issuer) : Option Raise :=
  let fmt := u.g.fmt
  let o := m.operand u
  let argBad := match o with
    | (some mp, _) => mapBad u mp m.n
    | (none, some h) => decide (h.ncols < m.n)
    | (none, none) => true
  let handleBad := match o.2 with
    | some h => decide (h.ef ≠ fmtBF fmt)
    | none => false
  let reuseBad := match u.g.kept with
    | some k => decide (k.word ≠ m.word) || decide (k.fmt ≠ fmt.toNat % 65536)
    | none => false
  if (dotKind fmt).isNone || (m.sparse && decide (fmtAF fmt = 0)) then some (.group .fmt 0x2 0)
  else if handleBad then some (.group .fmt 0x5 0)
  else if u.g.gang.isEmpty || decide (u.g.gang[m.f.gsel.toNat]? ≠ some u.g.g) then some (matrixRaise gangConfig 0)
  else if u.l.acc < m.f.acc.toNat + u.g.gang.length * m.nt then some (matrixRaise tileRange 0)
  else if decide (u.l.width < 32) || argBad then some (matrixRaise matrixArgument 0)
  else if (m.tiles u.g.gang.length).any (tileTaken u.t (gangGroups u.t u.g.gang)) then some (matrixRaise tileInFlight 0)
  else if reuseBad then some (matrixRaise reuseMismatch 0)
  else none

/-- R300, R302: the checks of the registers; a kept fragment needs none. -/
def MatrixForm.operands (m : MatrixForm) (u : Issuer) : Option Raise :=
  if u.g.kept.isSome then none else
  match m.regFault u with
  | some r => some r
  | none => if m.indexFault u then some (matrixRaise sparseIndex 0) else none

/-- R302: what a member issues. -/
def MatrixForm.member (m : MatrixForm) (u : Issuer) : Member where
  group := u.gid
  opc := m.opc
  word := ((m.opc * 2048 + m.f.acc.toNat) * 2048 + m.f.bs.toNat) * 64 + m.f.shape.toNat
  fmt := u.g.fmt
  gang := u.g.gang
  gsel := m.f.gsel.toNat
  ab := m.ab
  stamp := u.g.rc
  gens := u.g.gens
  clause := u.g.clause
  index := u.g.index
  reuse := m.f.reuse
  fragment := u.g.kept.getD (m.fragment u)

/-- R302: a member is stamped, recorded in its open batch and held. -/
def holdMember (s : State) (u : Issuer) (m : MatrixForm) : State :=
  let (n, s1) := s.fresh
  let o := m.operand u
  let j : JointOp :=
    { team := u.g.team, acc := m.f.acc.toNat, bs := m.f.bs.toNat, n := m.n, fmt := u.g.fmt, members := [m.member u]
      ready := false, map := o.1, handle := o.2, stalled := none, fetched := [], startTick := s.ticks.toNat }
  { s1 with joints := s1.joints.insert n j }.setGroup u.gid
    { u.g with status := .heldRendezvous n, rc := u.g.rc + 1, ic := u.g.ic + 1, suppressed := none, gangOps := u.g.gangOps + 1
               mmOpen := u.g.mmOpen ++ [(n, u.g.rc.toNat)] }

/-! ## The rendezvous (R302) -/

/-- The held members of a gang, in the order of their positions, if all are held. -/
def gangHeld (hs : List Held) (gang : Gang) : Option (List Held) :=
  gang.foldr (fun k r => match heldAs hs k, r with
    | some h, some t => some (h :: t)
    | _, _ => none) (some [])

/-- R302, R330: the gang whose last member has just issued: the issuer's, or that of a held member which lists it. -/
def metGang (hs : List Held) (m : Member) (g : Nat) : Option (List Held) :=
  firstSome (gangHeld hs) (m.gang :: (hs.filter fun h => decide (g ∈ h.m.gang)).map fun h => h.m.gang)

/-- R302: whether two members issued one operation. -/
def sameOperation (a b : Member) : Bool :=
  decide (a.word = b.word) && decide (a.fmt.toNat % 65536 = b.fmt.toNat % 65536) && decide (a.gang = b.gang)

/-- Every member takes a gang fault. -/
def faultMembers (s : State) (hs : List Held) (r : Raise) : State := hs.foldl (fun s h => faultHeld s h r) s

/-- R302, R304: a member is released: it goes on at the clause after its own. -/
def releaseMember (s : State) (op : Nat) (h : Held) : State :=
  let g := { h.u.g with
    status := .running, kept := if h.m.reuse then some h.m.fragment else none, sound := none, counted := false
    mmOpen := h.u.g.mmOpen.map fun p => if p.1 = h.op then (op, p.2) else p }
  soundEnd (s.setGroup h.u.gid (atClause g (nextClause h.u))) h.u.l.ctx h.u.g.sound id

/-- R302, R306: the members agree: the operation is one, it is the last writer of its tiles, and each goes on. -/
def formJoint (s : State) (op : Nat) (hs : List Held) : State :=
  match hs.head?.bind fun h => s.joints.get? h.op with
  | none => s
  | some j =>
    let tiles := upFrom j.acc (hs.length * (j.n / 32))
    let joint := { j with members := hs.map fun h => h.m, ready := true, startTick := s.ticks.toNat }
    let ops := hs.map fun h => h.op
    let s1 := { s with joints := Table.insert (s.joints.filter fun p => decide (p.1 ∉ ops)) op joint }
    let s2 := s1.modifyTeam j.team fun t =>
      { t with writers := tiles.foldl (fun w k => w.insert k ⟨op, hs.map fun h => h.m.group, false, []⟩) t.writers }
    hs.foldl (fun s h => releaseMember s op h) s2

/-- R302, R439, R443: the rendezvous of held members. -/
def meetMembers (s : State) (op : Nat) (hs : List Held) : State :=
  match hs.head? with
  | none => s
  | some h0 =>
    let diff := maskOf hs.length fun k => (hs[k]?).any fun h => !sameOperation h.m h0.m
    if diff ≠ 0 then faultMembers s hs (matrixRaise 0x2 (2 ^ hs.length - 1 + 256 * diff))
    else match firstSome (fun h : Held => h.m.fragment.bad) hs with
      | some d => faultMembers s hs (.group .err 0x1 d)
      | none => formJoint s op hs

/-- R302: the held groups whose joint operation is the k-th since their last `gangset`. -/
def heldFor (hs : List Held) (k : Nat) : List Held := hs.filter fun h => decide (h.u.g.gangOps = k)

/-- R302: an `mma` or `mmasp`: it is held, and meets those of its gang that have issued their operation of the same number if it
is the last. -/
def matrixOp (s : State) (m : MatrixForm) : Out :=
  withIssuer s fun u =>
    let trap := fun r : Raise => (.next (takeTrap s u (trapInfo u r u.g.active (gangOps m.ab) false)) : Out)
    match m.check u with
    | some r => trap r
    | none =>
      match m.operands u with
      | some r => trap r
      | none =>
        let s1 := holdMember s u m
        let hs := heldFor (heldIn s1 u.g.team) (u.g.gangOps + 1)
        match metGang hs (m.member u) u.g.g with
        | none => .next (s1.modifyGroup u.gid fun g => g.stall 9)
        | some ms => .next (settle (meetMembers s1 s.nextId ms))

/-- R298: mma. -/
def execMma (f : FormT) (s : State) : Out := matrixOp s ⟨0x304, false, f⟩

/-- R300: mmasp. -/
def execMmasp (f : FormT) (s : State) : Out := matrixOp s ⟨0x305, true, f⟩

/-! ## The matrix engine (R303) -/

/-- R305: a matrix batch whose operations have all completed sets its flags and is complete. -/
def refreshMatrix (s : State) (g : Group) : Group :=
  g.mmBatches.foldl (fun g p =>
    if !p.2.done && p.2.entries.all (fun i => (s.joints.get? i).isNone) then
      { g with mmBatches := g.mmBatches.insert p.1 { p.2 with done := true } }.orFpstat p.2.flags
    else g) g

/-- R150: the flags of an operation enter the batch it belongs to. -/
def batchFlags (g : Group) (op : Nat) (fl : BitVec 7) : Group :=
  let g1 := if g.mmOpen.any (fun p => decide (p.1 = op)) then { g with mmOpenFlags := g.mmOpenFlags ||| fl } else g
  { g1 with mmBatches := g1.mmBatches.mapVals fun _ b => if op ∈ b.entries then { b with flags := b.flags ||| fl } else b }

/-- R305: an operation completes: its tiles' writer is complete, and its members' batches are tested. -/
def endJoint (s : State) (op : Nat) (j : JointOp) (fl : BitVec 7) : State :=
  let s1 := { s with joints := s.joints.erase op, sent := s.sent.filter fun p => decide (p.2.what ≠ Sent.entry op) }
  let s2 := s1.modifyTeam j.team fun t =>
    { t with writers := t.writers.mapVals fun _ w => if w.op = op then { w with complete := true } else w }
  settle (j.members.foldl (fun s m =>
    s.modifyGroup m.group fun g => refreshMatrix s (batchFlags g op fl)) s2)

/-- R453: the batch of a group that an operation belongs to. -/
def matrixBatchNumber (g : Group) (op : Nat) : Nat :=
  match g.mmBatches.find? fun p => decide (op ∈ p.2.entries) with
  | some p => p.1
  | none => (g.mmLast + 1).toNat

/-- R452, R453: a fetch of B faults: every member takes the fault, and the tiles are unchanged. -/
def failJoint (s : State) (op : Nat) (j : JointOp) (cls : FaultClass) (sub cause off addr md : Nat) : State :=
  let s1 := j.members.foldl (fun s m =>
    match s.groups.get? m.group with
    | none => s
    | some g => holdFor s m.group
        { cls := cls, sub := BitVec.ofNat 16 sub, cause := cause, batch := matrixBatchNumber g op, stamp := m.stamp.toNat
          opc := m.opc, index := m.index, clause := m.clause, offset := off, addr := addr, mdsnap := BitVec.ofNat 128 md }) s
  endJoint s1 op j 0

/-- R198: on whose behalf B is read: every member's; the record is that of the member at position 0. -/
def jointSite (s : State) (j : JointOp) (m : Member) (u : Issuer) : EngineSite where
  core := u.t.core
  ctx := u.l.ctx
  root := u.c.root
  rmode := u.c.rmode
  agent := (engineOf u.g.agent).toNat
  by_ := j.members.filterMap fun m => (s.groups.get? m.group).map fun g => ⟨g, m.stamp.toNat⟩
  stamp := m.stamp.toNat
  gens := m.gens
  block := fmtSCALE j.fmt
  clause := m.clause
  index := m.index
  lid := u.l.lid
  linteam := u.t.index
  cluster := false

/-- A column as it was read: its element codes, its scale, and whether a byte was poisoned. -/
structure Column where
  codes : List Nat
  scale : Nat
  bad : Bool

/-- The bytes of a column as it is fetched. -/
def columnLength (j : JointOp) : Nat := columnBytes (fmtBF j.fmt) + if fmtSCALE j.fmt then 1 else 0

/-- R131, R301: the columns read, from their bytes. -/
def columnsOf (j : JointOp) (bytes : List (Byte × Bool)) : Nat → List Column
  | 0 => []
  | n + 1 =>
    let eb := columnBytes (fmtBF j.fmt)
    let col := bytes.take (columnLength j)
    let v := leNat ((col.take eb).map Prod.fst)
    let b := eb / 4
    ⟨(upFrom 0 32).map (blockCode b v), if fmtSCALE j.fmt then ((col.map Prod.fst).getLastD 0).toNat else 127,
      col.any Prod.snd⟩ :: columnsOf j (bytes.drop (columnLength j)) n

/-- R461: the poisoned words of a tile's rows that are met for the first time are reported. -/
def meetTiles (s : State) (u : Issuer) (agent : Nat) (tid : Nat) (keys : List Nat) : State :=
  match s.teams.get? tid with
  | none => s
  | some t =>
    let fresh := keys.filter fun k => t.tilePoison.get? k = some true
    fresh.foldl (fun s k =>
      contextEvent (s.modifyTeam tid fun t => { t with tilePoison := t.tilePoison.insert k false }) u.l.ctx ueSram 3
        (t.core % Config.coresPerDie + 64 * dieOf t.core) 0 u.l.lid agent) s

/-- The words of a list whose poison spreads over their tile row. -/
def poisonRow (t : Team) (key : Nat) : Team :=
  { t with tilePoison := (upFrom (key / 32 * 32) 32).foldl (fun p k => p.insert k true) t.tilePoison }

/-- R303: word (i, j) of C after an operation, for a member's row and a column. -/
def cWord (kind : DotKind) (fmt : Word) (c : Word) (row : List Nat) (sa : Nat) (col : Column) : Coded :=
  accumulateBlock kind fmt c.toNat row col.codes sa col.scale

/-- R298: the tile and word of C element (i, j) of an operation. -/
def cKey (j : JointOp) (i col : Nat) : Nat :=
  1024 * (j.acc + i / 32 * (j.n / 32) + col / 32) + 32 * (i % 32) + col % 32

/-- R303: one row of C. The words' old values are read first; each is written once. -/
def multiplyRow (j : JointOp) (kind : DotKind) (cols : List Column) (i : Nat) (row : List Nat) (sa : Nat)
    (x : Team × Flags) : Team × Flags :=
  (cols.zip (upFrom 0 cols.length)).foldl (fun x p =>
    let key := cKey j i p.2
    let o := cWord kind j.fmt (x.1.tiles.read key 0) row sa p.1
    ({ x.1 with tiles := Table.write x.1.tiles key (BitVec.ofNat 32 o.1) 0 }, x.2 ||| o.2)) x

/-- R303: every row of every member. -/
def multiply (j : JointOp) (kind : DotKind) (cols : List Column) (t : Team) : Team × Flags :=
  (j.members.zip (upFrom 0 j.members.length)).foldl (fun x p =>
    ((p.1.fragment.rows.zip p.1.fragment.scales).zip (upFrom 0 32)).foldl (fun x r =>
      multiplyRow j kind cols (32 * p.2 + r.2) r.1.1 r.1.2 x) x) (t, 0)

/-- R461: the tile rows that poison reaches: those with a poisoned C word, and those of the columns of a poisoned block. -/
def jointPoison (j : JointOp) (cols : List Column) (t : Team) : List Nat :=
  let keys := (upFrom 0 (32 * j.members.length)).flatMap fun i => (upFrom 0 j.n).map fun c => (cKey j i c, c)
  (keys.filter fun k => (t.tilePoison.get? k.1).isSome || (cols[k.2]?).any (·.bad)).map Prod.fst

/-- R303: the effect of an operation, its columns read. -/
def finishJoint (s : State) (op : Nat) (j : JointOp) (u : Issuer) (agent : Nat) (bytes : List (Byte × Bool)) : State :=
  let cols := columnsOf j bytes j.n
  match s.teams.get? j.team, dotKind j.fmt with
  | some t, some kind =>
    let bad := jointPoison j cols t
    let s1 := if bad.isEmpty then s else meetTiles s u agent j.team bad
    let o := multiply j kind cols t
    let s2 := s1.modifyTeam j.team fun x => bad.foldl poisonRow { x with tiles := o.1.tiles }
    endJoint s2 op j o.2
  | _, _ => endJoint s op j 0

/-- R170, R303, R452: a step of an operation towards its end: B is fetched, and the tiles are written. -/
def runJoint (s : State) (op : Nat) (j : JointOp) (m : Member) (u : Issuer) : Out :=
  let site := jointSite s j m u
  let units := (upFrom 0 j.n).map (columnUnit j)
  match firstTrouble s site 0 units with
  | some (_, p, w, .absent _) =>
    let o := engineWalk s site p.addr w
    .next { o.2 with joints := o.2.joints.insert op { j with stalled := some o.1 } }
  | some (_, _, _, .nowhere loc) => .fault (.noSuchPhysicalAddress loc)
  | some (k, p, _, .fatal sub) =>
    .next (failJoint s op j .mem (engBit sub) 2 (k * columnLength j) p.addr 0)
  | _ =>
    let wanted := peerSources s site units
    if unitsHeld s site units then .refused .notEnabled
    else if !wanted.isEmpty && j.fetched.isEmpty then
      .next (wanted.foldl (fun s r =>
        s.send r.1 1 u.c.tenant u.c.binding (.entry op) (leBytes 8 r.2.1 ++ leBytes 2 r.2.2)) s)
    else
      let o := performUnits site ⟨s, j.fetched, [], [], none, []⟩ units
      match o.stop with
      | some (_, x :: rs) =>
        let s1 := match noteEngineRaces o.run.s site none (x :: rs) with
          | some r => logRace o.run.s u.l.ctx r
          | none => o.run.s
        let mark := markOf o.run.s x.2.2.1
        .next (failJoint s1 op j .race (raceSub (site.checked x.2.1) mark x.2.2.2) 1
          (o.run.out.length) x.1.addr mark.encode)
      | _ =>
        let s1 := match o.run.race with
          | some r => logRace o.run.s u.l.ctx r
          | none => o.run.s
        .next (finishJoint s1 op j u site.agent o.run.out)

/-- R186, R193: an operation reads B after every release that any member issued before it. -/
def jointFree (s : State) (op : Nat) (j : JointOp) : Bool :=
  j.members.all fun m => (earlierAccesses s m.group op).all fun a => a.allPerformed || !a.isRelease

/-- R143: an operation completes after those before it that name a tile of its C. -/
def jointTurn (s : State) (op : Nat) (j : JointOp) : Bool :=
  match s.teams.get? j.team with
  | none => true
  | some _ => s.joints.all fun p => decide (op ≤ p.1) || !p.2.ready || decide (p.2.team ≠ j.team) ||
      decide (p.2.acc + p.2.members.length * (p.2.n / 32) ≤ j.acc) ||
      decide (j.acc + j.members.length * (j.n / 32) ≤ p.2.acc)

/-- MATRIX_OP_COMPLETE (R303). -/
def execMatrixOpComplete (op : Nat) (s : State) : Out :=
  match s.joints.get? op with
  | none => .refused .notEnabled
  | some j =>
    match j.members.head? with
    | none => .refused .notEnabled
    | some m =>
      match issuerOf s m.group with
      | none => .refused .notEnabled
      | some u =>
        let stalled := !(j.stalled.all fun w => (s.walks.get? w).isNone)
        if !j.ready || stalled || awaited s op || !jointFree s op j || !jointTurn s op j then .refused .notEnabled
        else runJoint s op { j with stalled := none } m u

/-! ## Matrix batches (R305) -/

/-- R305: mmclose. -/
def execMmclose (f : FormV) (s : State) : Out :=
  groupOp s [dst f.d] noCheck fun u =>
    let b := closedBatch u.g.mmOpen (fun n => (s.joints.get? n).isSome) u.g.mmOpenFlags
    if tooManyBatches u.g.mmBatches b then .next (stallIn s u 3)
    else
      let n := u.g.mmLast + 1
      let g := { u.g with mmOpen := [], mmOpenFlags := 0, mmLast := n, mmBatches := u.g.mmBatches.insert n.toNat b }
      let g1 := if b.done then g.orFpstat b.flags else g
      .next (finish s u (setScalar g1 f.d n.toNat) voidEntry)

/-- R305: waits for the matrix batches up to n. -/
def matrixWait (s : State) (u : Issuer) (uses : List Use) (n : BitVec 32) : State :=
  if !batchLe n.toNat u.g.mmLast.toNat then trapScalar s u (futureRaise n) uses
  else settle (block s u u.g (.matrixBatch n))

/-- R305: mmwait. -/
def execMmwait (f : FormV) (s : State) : Out :=
  groupOp s [src fieldA f.a] noCheck fun u => .next (matrixWait s u [src fieldA f.a] (BitVec.ofNat 32 (sval u f.a)))

/-- R305: mmwait #k. -/
def execMmwaitImm (f : FormI) (s : State) : Out :=
  groupOp s [] noCheck fun u => .next (matrixWait s u [] (u.g.mmLast - BitVec.ofNat 32 f.imm.toNat))

/-! ## The accumulator store (R307 to R310) -/

/-- R307, R308, R309: the faults of naming tiles: the range, then those in flight. -/
def tilesFault (u : Issuer) (ts : List Nat) : Option Raise :=
  if ts.any fun t => decide (u.l.acc ≤ t) then some (matrixRaise tileRange 0)
  else if ts.any (tileBusy u.t u.gid) then some (matrixRaise tileInFlight 0) else none

/-- R307: the destination run of an `accld`. -/
def accldUse (u : Issuer) (f : FormT) : Use := ⟨fieldA, f.ab, 1024 / u.l.width, 1, true⟩

/-- R307, R461: what an `accld` delivers in a lane. -/
def accldWrites (u : Issuer) (f : FormT) (l : Nat) : List DeferredWrite :=
  (upFrom 0 (1024 / u.l.width)).map fun k =>
    let e := k * u.l.width + l
    ⟨false, f.ab.toNat + k, l, tileWord u.t f.acc.toNat e, (u.t.tilePoison.get? (1024 * f.acc.toNat + e)).isSome⟩

/-- R307: accld. -/
def execAccld (f : FormT) (s : State) : Out :=
  withIssuer s fun u =>
    let uses := [accldUse u f]
    let lanes := u.enabledLanes f.tt
    if counterFull u then .next (stallIn s u 3) else
    match tilesFault u [f.acc.toNat] with
    | some r => .next (trapLanes s u r lanes uses)
    | none =>
      match lanesFault u uses lanes with
      | some r => .next (trapLanes s u r lanes uses)
      | none =>
        let ws := lanes.flatMap (accldWrites u f)
        let tile := f.acc.toNat
        let bad := ws.filter fun w => w.poisoned
        let s1 := if bad.isEmpty then s else
          meetTiles s u u.g.agent.toNat u.g.team ((upFrom (1024 * tile) 1024).filter fun k =>
            decide ((k - 1024 * tile) % u.l.width ∈ lanes))
        let s2 := if lanes.isEmpty then s1 else s1.modifyTeam u.g.team fun t =>
          { t with tileReads := t.tileReads.insert tile (t.tileReads.read tile 0 + 1) }
        .next (issueDeferred s2 u (.accld [tile]) ws 0)

/-- ACCLD_COMPLETION (R307): its tile is read no longer. -/
def execAccldCompletion (access : Nat) (s : State) : Out :=
  match s.deferred.get? access with
  | none => .refused .notEnabled
  | some d =>
    let tiles := match d.kind with
      | .accld ts => ts
      | _ => []
    let team := match s.groups.get? d.group with
      | some g => g.team
      | none => 0
    let s1 := s.modifyTeam team fun t => tiles.foldl (fun t k =>
      { t with tileReads := Table.write t.tileReads k (t.tileReads.read k 0 - 1) 0 }) t
    completeDeferred s1 access fun k => match k with
      | .accld _ => true
      | _ => false

/-- R140: the OUTF codes that `accst` accepts. -/
def outfOk (outf : Nat) : Bool :=
  decide (outf ≤ 4) || decide (outf = 8) || decide (outf = 9) || decide (outf = 13)

/-- R308: accst. RS stands where an MX block access has SK, SEXP where it has SP (R265). -/
def execAccst (sp : GTSpace) (f : FormM) (s : State) : Out :=
  withIssuer s fun u =>
    let uses := [baseUse (gtSpace sp) f.a, src fieldOff (scalarCode (mxSK f))]
    if counterFull u then .next (stallIn s u 3) else
    let tile := f.d.toNat
    let outf := fmtOUTF u.g.fmt
    let trap := fun r : Raise => (.next (trapScalar s u r uses) : Out)
    if !outfOk outf then trap (.group .fmt 0x3 0)
    else if u.l.acc ≤ tile then trap (matrixRaise tileRange 0)
    else match scalarFault u uses with
    | some r => trap r
    | none =>
      let base := mxElementBase u sp f
      let stride := (u.g.sreg (mxSK f)).toNat
      if base % 16 ≠ 0 ∨ stride % 16 ≠ 0 ∨ stride < 32 * outSize outf then trap (matrixRaise matrixArgument 0)
      else if tileBusy u.t u.gid tile then trap (matrixRaise tileInFlight 0)
      else
        let words := (upFrom 0 1024).map fun e =>
          (tileWord u.t tile e, (u.t.tilePoison.get? (1024 * tile + e)).isSome)
        let s1 := s.modifyTeam u.g.team fun t =>
          { t with tileReads := t.tileReads.insert tile (t.tileReads.read tile 0 + 1) }
        let s2 := if words.any Prod.snd then
            meetTiles s1 u (engineOf u.g.agent).toNat u.g.team (upFrom (1024 * tile) 1024) else s1
        .next (issueCounted s2 u (.tile tile (decide (sp = .t)) base stride (sext (mxSP f) 8) u.g.fmt words f.order.toNat
          f.scope.toNat) (0x30A + if sp = .t then 1 else 0) 2)

/-- R309: acczero. -/
def execAcczero (f : FormT) (s : State) : Out :=
  withIssuer s fun u =>
    let ts := upFrom f.acc.toNat (f.shape.toNat + 1)
    match tilesFault u ts with
    | some r => .next (trapPlain s u r)
    | none =>
      let gone := fun k : Nat => decide (1024 * f.acc.toNat ≤ k) && decide (k < 1024 * (f.acc.toNat + f.shape.toNat + 1))
      let s1 := s.modifyTeam u.g.team fun t =>
        { t with tiles := t.tiles.filter (fun p => !gone p.1), tilePoison := t.tilePoison.filter fun p => !gone p.1 }
      .next (finish s1 u u.g voidEntry)

/-- R309: the sum of two tile words. -/
def addWords (fmt : Word) (a b : Word) : Coded :=
  if 8 ≤ fmtAF fmt ∧ fmtAF fmt ≤ 11 then accumulateInt (fmtSAT fmt) a.toNat b.toInt
  else floatAdd f32Fmt .rn a.toNat b.toNat

/-- R309, R461: n tile words from one key added to those from another; poison of either travels. -/
def addTiles (fmt : Word) (dst src n : Nat) (t : Team) : Team × Flags :=
  (upFrom 0 n).foldl (fun x k =>
    let o := addWords fmt (t.tiles.read (dst + k) 0) (t.tiles.read (src + k) 0)
    let bad := (t.tilePoison.get? (dst + k)).isSome || (t.tilePoison.get? (src + k)).isSome
    ({ x.1 with tiles := Table.write x.1.tiles (dst + k) (BitVec.ofNat 32 o.1) 0
                tilePoison := if bad then x.1.tilePoison.insert (dst + k) true else x.1.tilePoison }, x.2 ||| o.2)) (t, 0)

/-- R309: accadd. -/
def execAccadd (f : FormT) (s : State) : Out :=
  withIssuer s fun u =>
    let n := f.shape.toNat + 1
    let d := f.acc.toNat
    let b := f.bs.toNat
    let fault :=
      if u.l.acc < d + n ∨ u.l.acc < b + n then some (matrixRaise tileRange 0)
      else if d ≠ b ∧ d < b + n ∧ b < d + n then some (matrixRaise matrixArgument 0)
      else tilesFault u (upFrom d n ++ upFrom b n)
    match fault with
    | some r => .next (trapPlain s u r)
    | none =>
      let keys := upFrom (1024 * d) (1024 * n) ++ upFrom (1024 * b) (1024 * n)
      let s1 := if u.t.tilePoison.isEmpty then s else meetTiles s u u.g.agent.toNat u.g.team keys
      let o := addTiles u.g.fmt (1024 * d) (1024 * b) (1024 * n) u.t
      let s2 := s1.modifyTeam u.g.team fun t => (addTiles u.g.fmt (1024 * d) (1024 * b) (1024 * n) t).1
      .next (finish s2 u (u.g.orFpstat o.2) voidEntry)

end Sys2Proof.Machine
end

