-- ==== Sys2Proof/Machine/System.lean ====
section
/-!
DEFINITION. System instructions (spec/11 R320 to R323).
-/

namespace Sys2Proof.Machine

/-- R320: trap. -/
def execTrap (f : FormI) (s : State) : Out :=
  groupOp s [] noCheck fun u => .next (trapScalar s u (.group .soft (f.imm.toNat % 256) 0) [])

/-- R320: brk. -/
def execBrk (_f : FormV) (s : State) : Out :=
  groupOp s [] noCheck fun u =>
    if u.c.dbg then .next (trapScalar s u (.group .debug 0x1 0) []) else .next (finish s u u.g voidEntry)

/-! ## Special registers (R321) -/

/-- R321, R369, R437: MODE. Bit 4 is that of the context, handlers included. -/
def modeWord (u : Issuer) : Nat :=
  let b := fun (p : Bool) (k : Nat) => if p then 2 ^ k else 0
  u.c.rmode % 4 + b u.l.det 2 + b u.c.dbg 3 + b (decide (u.c.stage = .demoted)) 4 + b u.l.cogrid 5 + b u.l.idem 6 + b u.l.revocable 7

/-- R27: the grid team index of a linear team index. -/
def teamIndexOf (l : Launch) (t : Nat) : Nat × Nat × Nat :=
  (t % max 1 l.tdx, t / max 1 l.tdx % max 1 l.tdy, t / max 1 l.tdx / max 1 l.tdy)

/-- R321: the selectors that are pairs. -/
def sysPair (sel : Nat) : Bool := decide (sel ∈ [1, 3, 4, 8, 12])

/-- R321: the content of a special register, as it stands at issue. -/
def sysValue (s : State) (u : Issuer) (sel : Nat) : Nat :=
  match sel with
  | 0 => u.g.g
  | 1 =>
    let (tx, ty, tz) := teamIndexOf u.l u.t.index
    tx + 2 ^ 16 * ty + 2 ^ 32 * tz
  | 2 => u.l.groupCount
  | 3 => u.l.tdx + 2 ^ 16 * u.l.tdy + 2 ^ 32 * u.l.tdz
  | 4 => clusterOf u.l u.t + 2 ^ 32 * (placeInCluster u.l u.t + 2 ^ 8 * u.l.cw + 2 ^ 12 * u.l.ch)
  | 5 => u.l.width
  | 6 => u.l.regs
  | 7 => modeWord u
  | 8 => (s.dieTicks (dieOf u.t.core)).toNat
  | 9 => u.g.barTeam.waited.toNat % 256
  | 10 => u.g.barCluster.waited.toNat % 256
  | 11 => u.g.barGrid.waited.toNat % 256
  | 12 => u.c.steps.toNat
  | 13 => u.g.agent.toNat
  | 14 => u.t.index
  | _ => u.g.fpstat.toNat

/-- R321: sysrd. -/
def execSysrd (f : FormI) (s : State) : Out :=
  let sel := f.imm.toNat
  groupOp s [if sysPair sel then dst64 f.d else dst f.d] noCheck fun u =>
    let x := sysValue s u sel
    .next (finish s u (if sysPair sel then setScalarPair u.g f.d x else setScalar u.g f.d x) voidEntry)

/-- R321: syswr writes FPSTAT. -/
def execSyswr (f : FormI) (s : State) : Out :=
  groupOp s [src fieldA f.a] noCheck fun u =>
    .next (finish s u { u.g with fpstat := BitVec.ofNat 32 (sval u f.a % 128) } voidEntry)

/-- R322: clock. -/
def execClock (f : FormV) (s : State) : Out :=
  groupOp s [dst64 f.d] noCheck fun u => .next (finish s u (setScalarPair u.g f.d s.clocks.toNat) voidEntry)

/-- R322, R422: tmark's MARK packet: the slot, the value and DT. -/
def markPacket (s : State) (u : Issuer) (v : Nat) : State :=
  tracePacket s u true (0x70 :: slotByte u.g :: (leBytes 2 v ++ deltaBytes s u.t.core u.l.ctx))

/-- R322: tmark. -/
def execTmark (f : FormI) (s : State) : Out :=
  groupOp s [] noCheck fun u => .next (finish (markPacket s u f.imm.toNat) u u.g voidEntry)

/-! ## The debug mailbox (R323) -/

/-- R323: a privilege fault. -/
def privRaise : Raise := .group .priv 0x1 0

/-- R323: the privilege a debug instruction needs. -/
def needsDebug (u : Issuer) : Option Raise := if u.c.dbg then none else some privRaise

/-- R323, R435: the checks of a mailbox instruction: the privilege, the word's register, then its value. -/
def mailboxOp (s : State) (uses : List Use) (word : BitVec 11) (body : Issuer → State) : Out :=
  groupOp s uses needsDebug fun u =>
    if 64 ≤ sval u word then .next (trapScalar s u (.group .priv 0x2 0) uses) else .next (body u)

/-- R323: dmput. The release waits in place for the group's accesses. -/
def execDmput (f : FormV) (s : State) : Out :=
  mailboxOp s [src fieldA f.a, src64 fieldB f.b] f.a fun u =>
    if !groupPerformed s u.gid then s
    else
      let s1 := (cleanCore s u.t.core).modifyContext u.l.ctx fun c =>
        { c with outbound := Table.write c.outbound (sval u f.a) (BitVec.ofNat 64 (sval64 u f.b)) 0 }
      finish s1 u u.g voidEntry

/-- R323: dmget. -/
def execDmget (f : FormV) (s : State) : Out :=
  mailboxOp s [dst64 f.d, src fieldA f.a] f.a fun u =>
    finish (acquireLines s u.t.core 3) u (setScalarPair u.g f.d (u.c.inbound.read (sval u f.a) 0).toNat) voidEntry

end Sys2Proof.Machine
end

