-- ==== Sys2Proof/Machine/Record.lean ====
section
/-!
DEFINITION. Trap records and demotion records (spec/21 R436 to R439; spec/22 R453; spec/14 R374; spec/02 R58).
-/

namespace Sys2Proof.Machine

/-- R433: the number of a class. -/
def FaultClass.number : FaultClass → Nat
  | .enc => 0 | .oper => 1 | .exec => 2 | .fmt => 3 | .mem => 4 | .race => 5 | .sync => 6 | .copy => 7
  | .matrix => 8 | .hzn => 9 | .det => 10 | .soft => 11 | .debug => 12 | .priv => 13 | .demote => 14 | .err => 15

/-- R437: the value an operand has in a lane when the record is written, 0 for a destination. Where the record names no
lane, a per-lane operand's value is open. -/
def slotValue (s : State) (u : Issuer) (lane : Nat) (o : OpSlot) : Nat :=
  let code := BitVec.ofNat 11 o.code
  if o.write then 0
  else
    let shared := match operandOf code with
      | .s _ | .zero | .reserved => true
      | _ => false
    if lane = 0xFF ∧ shared = false then (Config.recordValue s.turn).toNat
    else if o.wide then (rd64 u code lane).toNat
    else (rd u code lane).toNat

/-- R437: an operand slot; 31 names an unused one. -/
def slotBits (s : State) (u : Issuer) (lane : Nat) (o : Option OpSlot) : Nat :=
  match o with
  | none => 31 * 2 ^ 123
  | some o => o.field * 2 ^ 123 + o.code * 2 ^ 112 + lane * 2 ^ 104 + slotValue s u lane o

/-- R437: OPS. The scalar fields inside OFF18 have no slot. -/
def opsBits (s : State) (u : Issuer) (lane : Nat) (ops : List OpSlot) : Nat :=
  let named := ops.filter fun o => decide (o.field < 5)
  (upFrom 0 4).foldl (fun x n => x + slotBits s u lane named[n]? * 2 ^ (128 * n)) 0

/-- R437: LATST of a latch. -/
def latchState (g : Group) (k : Nat) : Nat :=
  match g.latches[k]? with
  | none => 0
  | some e => if e.elems.isEmpty then 3 else if e.wide then 2 else 1

/-- R437: FLAGS. -/
def recordFlags (g : Group) (i : TrapInfo) : Nat :=
  let b := fun (p : Bool) (k : Nat) => if p then 2 ^ k else 0
  b (decide (1 ≤ g.index) && decide (g.index ≤ 15)) 0 + b i.calm 1 + b i.gang 2 + b i.scalar 3 + b i.onHeader 4

/-- R437: the 2048 bits of a record at an address. -/
def recordBits (s : State) (u : Issuer) (i : TrapInfo) (area : Nat) : Nat :=
  let g := u.g
  let detail := if i.cls = .debug then 0 else i.detail.toNat
  i.sub.toNat + i.cls.number * 2 ^ 16 + recordFlags g i * 2 ^ 24 + i.lane * 2 ^ 32 + u.l.ctx * 2 ^ 40 +
  u.c.tenant * 2 ^ 48 + g.agent.toNat * 2 ^ 64 + detail * 2 ^ 96 + g.clause.toNat * 2 ^ 128 + g.index * 2 ^ 192 +
  g.plive.toNat * 2 ^ 200 + (upFrom 0 4).foldl (fun x k => x + latchState g k * 2 ^ (208 + 2 * k)) 0 +
  g.stack.length * 2 ^ 216 + g.fmt.toNat * 2 ^ 224 + g.fpstat.toNat * 2 ^ 256 + modeWord u * 2 ^ 288 +
  g.rc.toNat * 2 ^ 320 + u.t.index * 2 ^ 352 + u.l.lid * 2 ^ 384 + g.ic.toNat * 2 ^ 448 +
  (if i.calm then i.step else 0) * 2 ^ 512 + (area + 256) % 2 ^ 64 * 2 ^ 576 + g.active.toNat * 2 ^ 640 +
  i.enabled.toNat * 2 ^ 768 + i.addr % 2 ^ 64 * 2 ^ 896 + i.mdsnap.toNat * 2 ^ 960 +
  opsBits s u i.lane i.ops * 2 ^ 1152

/-- R58, R438: PLIVE, then the live predicates. -/
def livePredicates (g : Group) (w : Nat) : List Byte :=
  BitVec.ofNat 8 g.plive.toNat :: ((upFrom 0 8).filter g.plive.getLsbD).flatMap fun k => maskBytes w (g.q.read k 0)

/-- Bytes made n long with zeros. -/
def padBytes (n : Nat) (bytes : List Byte) : List Byte := bytes ++ List.replicate (n - bytes.length) 0

/-- R438: a latch in the extension: its void lanes, then its elements. -/
def latchBytes (g : Group) (w k : Nat) : List Byte :=
  leBytes 16 (maskOf w fun l => (latchElem g k l).isNone) ++
    (upFrom 0 w).flatMap fun l => leBytes 8 (match latchElem g k l with
      | some (_, x) => x.toNat
      | none => 0)

/-- R453: what an engine fault adds. -/
def engineBytes (e : Option EngineFault) : List Byte :=
  match e with
  | none => List.replicate 32 0
  | some e => leBytes 4 e.batch ++ leBytes 4 e.stamp ++ leBytes 2 (e.opc % 1024) ++ leBytes 1 e.index ++
      leBytes 1 e.cause ++ leBytes 4 e.offset ++ leBytes 8 e.clause.toNat ++ leBytes 8 e.addr

/-- R438, R453: the extension. -/
def extensionBytes (u : Issuer) (i : TrapInfo) : List Byte :=
  let w := u.l.width
  padBytes 4608 (padBytes 256 (livePredicates u.g w) ++ (upFrom 0 4).flatMap (latchBytes u.g w)) ++ engineBytes i.engine

/-- R436: a record and its extension. -/
def recordBytes (s : State) (u : Issuer) (i : TrapInfo) : List Byte :=
  leBytes 256 (recordBits s u i (trapAreaAddr u.c u.g.trapArea)) ++ extensionBytes u i

/-- R58, R59: a record has been written: it is what the predicates will be taken from. -/
def Group.recorded (g : Group) : Group := { g with savedLive := some g.plive, handlerWrote := [] }

/-- R436: the record of a group is performed at system scope. What cannot be written through the context's tables is lost
(log entry 10). -/
def putRecord (s : State) (u : Issuer) (i : TrapInfo) : State :=
  let s1 := (deviceWrite s u.l.ctx (trapAreaAddr u.c u.g.trapArea) (recordBytes s u i)).getD s
  s1.modifyGroup u.gid Group.recorded

/-- R374: the demotion record of a group at its serial point. -/
def demotionInfo (s : State) (u : Issuer) : TrapInfo :=
  { standingInfo s u (.group .demote 0 0) with step := u.c.steps.toNat, calm := true }

end Sys2Proof.Machine
end

