-- ==== Sys2Proof/Machine/Turns.lean ====
section
/-!
DEFINITION. Whose move it is (spec/00 R4; spec/95; log entry 2), and what a step adds around the meaning of
an instruction.
-/

namespace Sys2Proof.Machine

/-- The move that comes next: the head of the agenda, else the free schedule's. -/
def nextTurn (s : State) : Turn := s.agenda.headD (Config.schedule s.turn)

/-- R11: the arithmetic clocks at a tick of the reference counter, 17 for every 20 ticks; the next one may have come within the
tick. -/
def clocksAt (ticks old : Word64) (t : Turn) : Word64 :=
  BitVec.ofNat 64 (max old.toNat (17 * ticks.toNat / 20 + t.clocks % 2))

/-- The move is taken: it leaves the agenda, and the counters advance with it (R11, R322, R428). -/
def takeTurn (s : State) : State :=
  { s with agenda := s.agenda.tail, turn := s.turn + 1, cur := none
           ticks := s.ticks + BitVec.ofNat 64 (nextTurn s).ticks
           clocks := clocksAt (s.ticks + BitVec.ofNat 64 (nextTurn s).ticks) s.clocks (nextTurn s) }

/-- A move that cannot happen in a state changes nothing. -/
def afterEvent (s : State) (o : Out) : Out :=
  match o with
  | .refused .notEnabled => .next s
  | .refused .noIssuer => .next s
  | x => x

end Sys2Proof.Machine
end

