-- ==== Sys2Proof/Machine/Walks.lean ====
section
/-!
DEFINITION. Walks and the fault buffers (spec/06 R165 to R173; spec/22 R450).
-/

namespace Sys2Proof.Machine

/-- R168: entry n of the fault buffer of a die. -/
def faultKey (die n : Nat) : Nat := Config.faultEntries * die + n

/-- Whether a fault-buffer entry is of a die. -/
def ofDie (die key : Nat) : Bool := decide (key / Config.faultEntries = die)

/-- R167: the entry of a die that holds a context's page, if there is one. -/
def faultFor (s : State) (die ctx vpn : Nat) : Option Nat :=
  (s.faults.find? fun p => p.2.valid && ofDie die p.1 && decide (p.2.ctx = ctx) && decide (p.2.vpn = vpn)).map Prod.fst

/-- R168: V of an entry. -/
def validFault (s : State) (key : Nat) : Bool := (s.faults.get? key).any (·.valid)

/-- R167: the lowest free entry of a die. Which one is not stated (log entry 17). -/
def freeFault (s : State) (die : Nat) : Option Nat :=
  ((upFrom 0 Config.faultEntries).map (faultKey die)).find? fun k => !validFault s k

/-- R167, R450: a walk has found P = 0 at a level: it waits under the entry of its page, a new one if there is none. With a
full buffer it waits in the walker. -/
def enterFault (s : State) (id : Nat) (w : Walk) (level : Nat) : Option State :=
  let die := dieOf w.core
  let vpn := w.va / 65536 % 2 ^ 41
  let wait := fun (s : State) (k : Nat) => { s with walks := s.walks.insert id { w with waiting := some k } }
  match faultFor s die w.ctx vpn with
  | some k => some (wait s k)
  | none =>
    match freeFault s die with
    | none => none
    | some k =>
      let s1 := wait { s with faults := s.faults.insert k ⟨true, level, w.kind, w.ctx, w.agent, vpn⟩ } k
      some (if s.faults.any fun p => p.2.valid && ofDie die p.1 then s1 else raiseVector s1 (130 + die))

/-- R427: a walk waits for replay: the tagged instruction of its group has STALL bit 5. -/
def replayStall (s : State) (w : Walk) : State :=
  match w.group with
  | some gid => s.modifyGroup gid fun g => g.stall 5
  | none => s

/-- R165: how many walks of a die come before a walk and wait for no replay. -/
def walksBefore (s : State) (id die : Nat) : Nat :=
  (s.walks.filter fun p => decide (p.1 < id) && p.2.waiting.isNone && decide (dieOf p.2.core = die)).length

/-- A walk is over: what waited for it goes on. -/
def endWalk (s : State) (id : Nat) : State := settle { s with walks := s.walks.erase id }

/-- WALK_COMPLETE (R165 to R167, R171): a walk that is among the 64 in flight of its die, and waits for no replay, ends: by the
second-level TLB, else by the tables. A fatal fault is raised by the access, when it issues again. -/
def execWalkComplete (walk : Nat) (s : State) : Out :=
  match s.walks.get? walk with
  | none => .refused .notEnabled
  | some w =>
    if w.waiting.isSome || decide (Config.walksInFlight ≤ walksBefore s walk (dieOf w.core)) then .refused .notEnabled else
    match s.contexts.get? w.ctx, w.group.bind fun _ => dieTlbHit s w.core w.ctx w.va w.kind with
    | none, _ => .next (endWalk s walk)
    | some _, some e => .next (endWalk (fillTlbs s w.core e) walk)
    | some c, none =>
      match walkVa s c.root w.va with
      | .nowhere loc => .fault (.noSuchPhysicalAddress loc)
      | .invalid _ => .next (endWalk s walk)
      | .leaf _ _ _ => .next (endWalk (walkFill s w.core w.ctx c.root w.va w.kind) walk)
      | .absent level =>
        match enterFault s walk w level with
        | some s1 => .next (replayStall s1 w)
        | none => .refused .notEnabled

/-- R32: the engine agent with its own slot on a core: 96 copy, 97 matrix, 98 Horizon, 99 collective. -/
def ownAgent (core slot : Nat) : BitVec 16 := engineOf (agentId core slot)

/-- R167, R440: the device's own access to a page that is not there waits for a walk, as a core's does; core 0's walker
makes it, for its copy engine's own agent (R32; log entry 12). -/
def deviceWalk (s : State) (ctx va kind : Nat) : State :=
  let page := va / 65536 * 65536
  if s.walks.any (fun p => decide (p.2.ctx = ctx) && decide (p.2.va = page) && p.2.group.isNone && decide (p.2.kind = kind))
  then s
  else
    let (n, s1) := s.fresh
    { s1 with walks := s1.walks.insert n ⟨ctx, 0, page, kind, none, none, ownAgent 0 96, none⟩ }

/-- What the device's own access to a range comes to. -/
inductive DeviceAccess
  | ready
  | waits (s : State)
  | fatal
  | nowhere (loc : Nat)
  deriving DecidableEq, Repr

/-- R167, R440: whether the device may access a range: every page is there, or a walk is under way for the first that is
not. -/
def deviceReady (s : State) (ctx kind va n : Nat) : DeviceAccess :=
  let rec go : List (Nat × Nat) → DeviceAccess
    | [] => .ready
    | (a, _) :: t =>
      match deviceLoc s ctx a kind with
      | .ok (.phys _ _ _) => go t
      | .absent _ => .waits (deviceWalk s ctx a kind)
      | .nowhere loc => .nowhere loc
      | _ => .fatal
  go (pieces va n)

/-- REPLAY's effect (R167): an entry loses its V and the walks under it are repeated. -/
def replayFault (s : State) (key : Nat) : State :=
  { s with faults := s.faults.update key fun e => { e with valid := false }
           walks := s.walks.mapVals fun _ w => if w.waiting = some key then { w with waiting := none } else w }

end Sys2Proof.Machine
end

