-- ==== Sys2Proof/Machine/Calm.lean ====
section
/-!
DEFINITION. Calm mode (spec/14 R374 to R383): a step of a group, what completes within it, and promotion.
-/

namespace Sys2Proof.Machine

/-! ## A step begins (R376) -/

/-- R327, R376: the group as it takes its step. -/
def steppedGroup (g : Group) : Group := { g with status := .running }

/-- R376: the instruction of a step: a header first where the group begins a clause. A group that stands at a wait tests
its condition (R42). -/
def forcedTurn (s : State) (f : Forced) : Stage (Instr × State) :=
  let s0 := { s with force := none, cur := none }
  match s.groups.get? f.group with
  | none => .stop (.next s0)
  | some g =>
    if g.wait.isSome then
      .stop (.next (wakeGroup (s0.setGroup f.group { g with status := .blocked }) f.group none))
    else
      match issuerOf (s0.setGroup f.group (steppedGroup g)) f.group with
      | none => .stop (.next s0)
      | some u =>
        let s1 := s0.setGroup f.group u.g
        if u.g.header.isSome then fetchInstr s1 u
        else match processHeader s1 u with
          | .stop o => .stop o
          | .go s2 =>
            match issuerOf s2 f.group with
            | none => .stop (.next s2)
            | some u1 => fetchInstr s2 u1

/-! ## What completes within a step (R376) -/

/-- The state after a move, or the state itself where the move cannot happen. -/
def settleOut (s : State) (o : Out) : State :=
  match o with
  | .next s1 => s1
  | _ => s

/-- Every line that a core holds for a context is written back and dropped. -/
def dropContext (s : State) (ctx : Nat) : State :=
  s.cores.foldl (fun s p =>
    p.2.lines.foldl (fun s q => if q.2.ctx = ctx then dropLine s p.1 q.1 else s) s) s

/-- R376: a group's accesses perform, lanes ascending, and return. -/
def finishAccesses (s : State) (gid : Nat) : State :=
  ((s.accesses.filter fun p => decide (p.2.group = gid)).map Prod.fst).foldl (fun s n =>
    match s.accesses.get? n with
    | none => s
    | some a => (advanceAccess s n a.lanes.length false).getD s) s

/-- A group's deferred results are written. -/
def finishDeferred (s : State) (gid : Nat) : State :=
  ((s.deferred.filter fun p => decide (p.2.group = gid)).map Prod.fst).foldl (fun s n =>
    settleOut s (completeDeferred s n fun _ => true)) s

/-- R377: the joint operations whose rendezvous a group has met complete. -/
def finishJoints (s : State) (gid : Nat) : State :=
  ((s.joints.filter fun p => p.2.members.any fun m => decide (m.group = gid)).map Prod.fst).foldl (fun s n =>
    settleOut s (execMatrixOpComplete n s)) s

/-- R376: an engine entry starts, whatever its queue holds, and goes as far as it can. -/
def finishEntry (s : State) (n : Nat) : State :=
  match s.entries.get? n with
  | none => s
  | some e =>
    let s1 := if e.started then s
      else dequeue (s.modifyEntry n fun e => { e with started := true, startTick := s.ticks.toNat }) n e
    match s1.entries.get? n with
    | none => s1
    | some e1 => settleOut s1 (advanceEntry s1 n e1)

/-- A group's engine entries, with the credits they make, in the order of their issue. -/
def finishEntries (s : State) (gid : Nat) : State :=
  ((s.entries.filter fun p => decide (p.2.group = gid)).map Prod.fst).foldl (fun s n =>
    finishEntry (settleOut (finishEntry s n) (execDeliveryCredit n (finishEntry s n))) n) s

/-- R375: the walks of a group end. One that meets an absent page stays and waits for its replay. -/
def finishWalks (s : State) (gid : Nat) : State :=
  ((s.walks.filter fun p => decide (p.2.group = some gid)).map Prod.fst).foldl (fun s n =>
    settleOut s (execWalkComplete n s)) s

/-- R376: everything that a group has in flight completes, as far as no peer and no replay is waited for. -/
def finishWork (s : State) (gid : Nat) : State :=
  settle (finishWalks (finishEntries (finishJoints (finishDeferred (finishAccesses s gid) gid) gid) gid) gid)

/-- Whether a group has nothing in flight. A held `mma` waits for its partners, not for its step. -/
def workDone (s : State) (gid : Nat) : Bool :=
  !s.accesses.any (fun p => decide (p.2.group = gid)) && !s.deferred.any (fun p => decide (p.2.group = gid)) &&
  !s.entries.any (fun p => decide (p.2.group = gid)) &&
  !s.joints.any fun p => p.2.ready && p.2.members.any fun m => decide (m.group = gid)

/-! ## Promotion (R383) -/

/-- R383: a demoted group continues from its serial state: in mid-clause at its index, without a new WAITD test. -/
def promoteGroup (now : Nat) (g : Group) : Group :=
  let g1 := mapDeadline (fun r => now + r) g
  if g1.status = .parked ∨ g1.status = .trapping ∨ g1.status = .halted ∨ g1.status = .retired then g1
  else
    let g2 := applyLiveness g1
    if g2.status = .running then
      { g2 with header := none, entered := false, addrNext := true, latches := if g2.index = 0 then [] else g2.latches }
    else { g2 with addrNext := true }

/-- R383: the context returns to parallel execution. The watchdog counts again from where it stopped. A demotion asked for while
the promotion was pending begins after it (R384). -/
def promoteContext (s : State) (ctx : Nat) : State :=
  match s.contexts.get? ctx with
  | none => s
  | some c =>
    if c.stage ≠ .demoted then s else
    let now := s.ticks.toNat
    let s1 := s.setContext ctx { c with stage := .parallel, lastStepped := none, midStep := none, stepsLeft := 0,
                                        running := false, promote := false, demoteNext := false }
    let mine := fun gid : Nat => (s.groups.get? gid).any fun g => ofDemotedKind s g ctx
    let s2 := { s1 with
      groups := s1.groups.mapVals fun gid g => if mine gid then promoteGroup now g else g
      entries := s1.entries.mapVals fun _ e =>
        if mine e.group && e.started then { e with startTick := e.startTick + (now - c.demoteAt) } else e
      joints := s1.joints.mapVals fun _ j =>
        if j.members.any (fun m => mine m.group) then { j with startTick := j.startTick + (now - c.demoteAt) } else j
      walks := s1.walks.mapVals fun _ w =>
        if w.ctx = ctx then { w with began := w.began.map fun t => t + (now - c.demoteAt) } else w }
    if c.demoteNext then beginDemotion (settle s2) ctx else settle s2

/-! ## A step ends (R376, R379, R380) -/

/-- Whether what a group has done is a step: it has issued or completed its instruction, arrived, or faulted. A group that
waits for a walk, or in place, has done nothing. -/
def stepTaken (g : Group) (f : Forced) : Bool :=
  match g.status with
  | .trapping | .retired | .heldRendezvous _ => true
  | .blocked =>
    match g.wait with
    | some (.translation _) => false
    | _ => !f.waiting || decide (g.ic ≠ f.ic)
  | _ => decide (g.ic ≠ f.ic)

/-- R327, R484: a stepped group that was halted or parked is so again, at its new PC. -/
def afterStepGroup (g : Group) (f : Forced) : Group :=
  if f.was = .halted ∨ f.was = .parked then
    if g.status = .running then { g with status := f.was }
    else if g.status = .blocked then
      match g.wait with
      | some (.translation _) => { g with status := f.was, wait := none }
      | _ => { g with status := f.was }
    else g
  else g

/-- R382: a trap of the breakpoint, code-breakpoint or watchpoint class ends a RUN. -/
def endsRun (g : Group) : Bool := decide (g.status = .trapping) && g.trap.any fun i => decide (i.cls = .debug)

/-- R375: the place of a group in the context order. -/
def orderKey (u : Issuer) : Nat × Nat := (u.l.accepted, logicalRank u.l u.t u.g)

/-- R375, R380, R382: a counted step of a context. The round robin goes on from the group that has stepped; a handler's
`tgtstep` does not move it. -/
def countStep (c : Context) (f : Forced) (g : Group) (key : Option (Nat × Nat)) : Context :=
  let c1 := { c with steps := c.steps + 1, running := c.running && !endsRun g }
  if f.handler.isSome then c1
  else { c1 with lastStepped := key, stepsLeft := c.stepsLeft - 1 }

/-- R374: the record of a demoted group is written again after a step; a trap record stands in its place meanwhile. -/
def rewriteRecord (s : State) (gid : Nat) : State :=
  match issuerOf s gid with
  | none => s
  | some u =>
    if !u.calm || u.g.atTrap || decide (u.g.status = .retired) then s
    else putRecord s u (demotionInfo s u)

/-- R327: the handler's `tgtstep` completes with the step. -/
def endHandlerStep (s : State) (handler : Option Nat) : State :=
  match handler.bind (issuerOf s) with
  | none => s
  | some u => if u.g.status = .running then finish s u u.g voidEntry else s

/-- R383: a promotion that has been asked for takes effect at the step boundary. -/
def stepBoundary (s : State) (ctx : Nat) : State :=
  match s.contexts.get? ctx with
  | none => s
  | some c => if c.promote then promoteContext s ctx else s

/-- The end of a step, once nothing of it is in flight. -/
def endStep (s : State) (ctx : Nat) (f : Forced) : State :=
  match s.groups.get? f.group with
  | none => stepBoundary (endHandlerStep s f.handler) ctx
  | some g =>
    let taken := stepTaken g f
    let key := (issuerOf s f.group).map orderKey
    let s1 := s.setGroup f.group (afterStepGroup g f)
    let s2 := s1.modifyContext ctx fun c => { (if taken then countStep c f g key else c) with midStep := none }
    let s3 := if taken then endHandlerStep (rewriteRecord s2 f.group) f.handler else s2
    stepBoundary s3 ctx

/-- A step goes on: what it has in flight completes, and then it ends; else it stays in progress. -/
def goOnStep (s : State) (f : Forced) : State :=
  match issuerOf s f.group with
  | none => endHandlerStep s f.handler
  | some u =>
    let s1 := settle (dropContext (finishWork s f.group) u.l.ctx)
    if workDone s1 f.group then endStep s1 u.l.ctx f
    else s1.modifyContext u.l.ctx fun c => { c with midStep := some f }

/-- R376, R380, R378: what a step adds after its instruction. -/
def afterForced (f : Forced) (o : Out) : Out :=
  match o with
  | .next s => .next (goOnStep s f)
  | x => x

end Sys2Proof.Machine
end

