-- ==== Sys2Proof/Machine/Atomic.lean ====
section
/-!
DEFINITION. Atomics and reductions (spec/10 R268 to R271; spec/13 R360 to R363).
-/

namespace Sys2Proof.Machine

/-- R117: the numbers of the operations. -/
def atomNumber : AtomOp → Nat
  | .addI32 => 0 | .addI64 => 1 | .addX64 => 2 | .addF32 => 3 | .addF16x2 => 4 | .addBf16x2 => 5
  | .minI32 => 6 | .minN32 => 7 | .maxI32 => 8 | .maxN32 => 9 | .andB32 => 10 | .andB64 => 11
  | .orB32 => 12 | .orB64 => 13 | .xorB32 => 14 | .xorB64 => 15 | .xchgB32 => 16 | .xchgB64 => 17
  | .casB32 => 18 | .casB64 => 19 | .incN32 => 20 | .decN32 => 21
def redNumber : RedOp → Nat
  | .addI32 => 0 | .addI64 => 1 | .addX64 => 2 | .addF32 => 3 | .addF16x2 => 4 | .addBf16x2 => 5
  | .minI32 => 6 | .minN32 => 7 | .maxI32 => 8 | .maxN32 => 9 | .andB32 => 10 | .orB32 => 11 | .xorB32 => 12

/-- R268: the registers of D. -/
def atomRegs : AtomOp → Nat
  | .casB64 => 4
  | .casB32 => 2
  | op => dataRegs (atomBytes op)

/-- R360, R361: in a DET launch without COGRID, an ordered atomic in global space. -/
def atomCheck (sp : GTSpace) (op : AtomOp) (u : Issuer) : Option Raise :=
  if u.l.det && !u.l.cogrid && decide (sp = .g) && minimumWaited (.rmw op true) then some (.group .det 0x1 0) else none

/-- R268 to R270: atom. -/
def execAtom (sp : GTSpace) (op : AtomOp) (f : FormM) (s : State) : Out :=
  memoryOp s (fun u => memOpOf u (.rmw op true) (gtSpace sp) f ((if sp = .g then 0x280 else 0x296) + atomNumber op)
    (atomRegs op) (atomBytes op) false) (atomCheck sp op) fun _ => none

/-- R363: ORDER of a buffered reduction, and the room in the buffer. -/
def redCheck (op : RedOp) (f : FormM) (u : Issuer) : Option Raise :=
  if !u.l.det || !floatRed op then none
  else if f.order ≠ 0 then some (.group .det 0x2 0)
  else if decide (Config.detBuffer < u.t.reds.length + (accessLanes u f.sc f.tt).length) then
    some (.group .det 0x3 0)
  else none

/-- R268 to R270: red. -/
def execRed (op : RedOp) (f : FormM) (s : State) : Out :=
  memoryOp s (fun u =>
      let m := memOpOf u (.rmw (redAtom op) false) .g f (0x2AC + redNumber op) (dataRegs (atomBytes (redAtom op)))
        (atomBytes (redAtom op)) false
      { m with pend := [] }) (redCheck op f) fun u =>
    if u.l.det && floatRed op then some op else none

/-- ATOMIC_PERFORM (R270): the next lanes of a read-modify-write perform and return, or their peers answer. -/
def execAtomicPerform (access lanes : Nat) (s : State) : Out :=
  match s.accesses.get? access with
  | none => .refused .notEnabled
  | some a =>
    let noReturn := match a.kind with
      | .rmw _ ret => !ret
      | _ => false
    if a.awaitsPeer && noReturn then .next (acknowledgePeers s access lanes)
    else stepAccess s access lanes true fun k => k.isRmw

end Sys2Proof.Machine
end

