-- ==== Sys2Proof/Machine/Control.lean ====
section
/-!
DEFINITION. Control of a group (spec/02 R47 to R52; spec/08 R207 to R214): jumps, the reconvergence stack, calls, `exit` and
`yield`.
-/

namespace Sys2Proof.Machine

/-- R207: nop. -/
def execNop (_f : FormV) (s : State) : Out :=
  withIssuer s fun u => .next (finish s u u.g voidEntry)

/-! ## Jumps (R208 to R210, R212) -/

/-- A group instruction of format X: its operands, checked once, then its effect. It is not scalar-marked. -/
def formXOp (s : State) (uses : List Use) (body : Issuer → State) : Out :=
  withIssuer s fun u =>
    match scalarFault u uses with
    | some r => .next (takeTrap s u (trapInfo u r u.g.active (opSlots uses) false))
    | none => .next (body u)

/-- A control-flow fault of a word with this TT. -/
def controlTrap (s : State) (u : Issuer) (tt : BitVec 8) (sub : Nat) : State :=
  trapLanes s u (.group .exec sub 0) (u.enabledLanes tt) []

/-- R208, R210: the group branches to the target of the word, or goes on with the next clause. -/
def branchIf (s : State) (u : Issuer) (g : Group) (f : FormX) (taken : Bool) : State :=
  if taken then transfer s u g (targetOf u f) true false else finish s u g voidEntry

/-- R208: jmp. -/
def execJmp (f : FormX) (s : State) : Out :=
  withIssuer s fun u =>
    let cs := u.activeLanes.map (u.guard f.tt)
    if cs.any id && !cs.all id then .next (controlTrap s u f.tt 0x1)
    else .next (branchIf s u u.g f (cs.any id))

/-- R208: jmpa. -/
def execJmpa (f : FormX) (s : State) : Out :=
  withIssuer s fun u => .next (branchIf s u u.g f (u.activeLanes.any (u.guard f.tt)))

/-- R208: jmpl. -/
def execJmpl (f : FormX) (s : State) : Out :=
  withIssuer s fun u => .next (branchIf s u u.g f (u.activeLanes.all (u.guard f.tt)))

/-- The scalar operand of a format X word. -/
def scalarX (f : FormX) : Use := src fieldS f.s

/-- R209: brx. -/
def execBrx (f : FormX) (s : State) : Out :=
  formXOp s [scalarX f] fun u =>
    transfer s u u.g (BitVec.ofNat 64 (wrap ((targetOf u f).toNat + 8 * sext (sval u f.s) 32) 64)) false true

/-- R210: loopd. -/
def execLoopd (f : FormX) (s : State) : Out :=
  formXOp s [scalarX f] fun u =>
    let n := rd u f.s 0 - 1
    branchIf s u (setScalar u.g f.s n.toNat) f (decide (n ≠ 0))

/-- R212: call. -/
def execCall (f : FormX) (s : State) : Out :=
  formXOp s [⟨fieldS, f.s, 2, 2, true⟩] fun u =>
    transfer s u (setScalarPair u.g f.s (nextClause u).toNat) (targetOf u f) true false

/-- R212: ret. -/
def execRet (f : FormX) (s : State) : Out :=
  formXOp s [src64 fieldS f.s] fun u => transfer s u u.g (rd64 u f.s 0) false true

/-! ## The reconvergence stack (R47 to R51, R211) -/

/-- R47: the entries a stack holds. -/
abbrev stackDepth : Nat := 32

/-- R48: mark. -/
def execMark (f : FormX) (s : State) : Out :=
  withIssuer s fun u =>
    if stackDepth ≤ u.g.stack.length then .next (controlTrap s u f.tt 0x2)
    else .next (finish s u { u.g with stack := ⟨false, targetOf u f, u.g.active, u.g.fmt⟩ :: u.g.stack } voidEntry)

/-- R48: split. -/
def execSplit (f : FormX) (s : State) : Out :=
  withIssuer s fun u =>
    let taken := laneMask (u.activeLanes.filter (u.guard f.tt))
    let rest := u.g.active &&& ~~~taken
    if taken = 0 then .next (finish s u u.g voidEntry)
    else if rest = 0 then .next (transfer s u u.g (targetOf u f) true false)
    else if stackDepth ≤ u.g.stack.length then .next (controlTrap s u f.tt 0x2)
    else
      let s1 := tracePacket s u false (0x30 :: slotByte u.g :: maskBytes u.l.width taken)
      .next (finish s1 u { u.g with active := rest, stack := ⟨true, targetOf u f, taken, u.g.fmt⟩ :: u.g.stack }
        voidEntry)

/-- R49: the top entry that has a lane, and the stack below it. -/
def popEntry : List StackEntry → Option (StackEntry × List StackEntry)
  | [] => none
  | e :: t => if e.mask = 0 then popEntry t else some (e, t)

/-- R49: the group takes up an entry. -/
def rejoin (s : State) (u : Issuer) (g : Group) (e : StackEntry) (rest : List StackEntry) : State :=
  let head : Byte := if e.pending then 0x40 else 0x41
  transfer (tracePacket s u false (head :: slotByte g :: maskBytes u.l.width e.mask)) u
    { g with active := e.mask, fmt := e.fmt, stack := rest } e.target false false

/-- R49: join. -/
def execJoin (f : FormV) (s : State) : Out :=
  withIssuer s fun u =>
    match popEntry u.g.stack with
    | none => .next (controlTrap s u f.tt 0x3)
    | some (e, rest) => .next (rejoin s u u.g e rest)

/-- R51: the enabled lanes leave the active mask and every entry's. -/
def retireLanes (g : Group) (m : LaneMask) : Group :=
  { g with active := g.active &&& ~~~m, exited := g.exited ||| m
           stack := g.stack.map fun e => { e with mask := e.mask &&& ~~~m } }

/-- R51: exit. A group left without an active lane and without an entry has retired. -/
def execExit (f : FormV) (s : State) : Out :=
  withIssuer s fun u =>
    let m := laneMask (u.enabledLanes f.tt)
    let g := retireLanes u.g m
    let s1 := if m = 0 then s else tracePacket s u false (0x60 :: slotByte g :: maskBytes u.l.width m)
    if g.active ≠ 0 then .next (finish s1 u g voidEntry)
    else match popEntry g.stack with
      | some (e, rest) => .next (rejoin s1 u g e rest)
      | none => .next (retireGroup (finish s1 u g voidEntry) u.gid u.l.width)

/-- R214: yield. -/
def execYield (_f : FormV) (s : State) : Out :=
  withIssuer s fun u =>
    .next (settle (finish s u { u.g with yielded := true, owes := true } voidEntry))

end Sys2Proof.Machine
end

