-- ==== Sys2Proof/Machine/Determinism.lean ====
section
/-!
DEFINITION. Deterministic operation (spec/13 R357 to R366; spec/23 R473): the minimum, and the token that drains the reduction
buffers.
-/

namespace Sys2Proof.Machine

/-! ## The minimum (R358, R360) -/

/-- R358, R362: whether a group is live: it has not retired, and is not blocked at a `monwait` whose word has not changed. -/
def liveForMinimum (g : Group) : Bool :=
  match g.status, g.wait with
  | .retired, _ => false
  | .blocked, some (.monitor _ _ _ _ _ _) | .halted, some (.monitor _ _ _ _ _ _) => g.changed.isSome
  | _, _ => true

/-- R358: a key is at or below another. -/
def keyLe (a b : Nat × Nat × Nat) : Bool :=
  decide (a.1 < b.1) || (decide (a.1 = b.1) && (decide (a.2.1 < b.2.1) || (decide (a.2.1 = b.2.1) && decide (a.2.2 ≤ b.2.2))))

/-- A group's key. -/
def keyOf (s : State) (u : Issuer) : Nat × Nat × Nat := (keyIC s u, u.t.index, u.g.g)

/-- R358, R361: the groups over which the minimum is taken: those of the grid, or of the team without COGRID. -/
def minimumGroups (s : State) (u : Issuer) : List Issuer :=
  (s.groups.filter fun p => decide (p.2.launch = u.g.launch) && (u.l.cogrid || decide (p.2.team = u.g.team)) &&
    liveForMinimum p.2).filterMap fun p => issuerOf s p.1

/-- R360: the group's key is the minimum. -/
def holdsMinimum (s : State) (u : Issuer) : Bool := (minimumGroups s u).all fun x => keyLe (keyOf s u) (keyOf s x)

/-- R202, R360: a race of an instruction held for the minimum: precise, as the instruction has had no effect. -/
def minimumRace (s : State) (u : Issuer) (a : Access) (p : LaneAccess × Granule × Found) : State :=
  let s1 := match raceRecordOf s u a (racesOf s u a) with
    | some r => logRace s u.l.ctx r
    | none => s
  let mark := markOf s p.2.1
  let r : Raise := ⟨.race, raceSub (checkedOf u.g a p.1) mark p.2.2, if a.scalar then 0xFF else p.1.lane, p.1.va, 0,
    BitVec.ofNat 128 mark.encode⟩
  takeTrap s1 u { standingInfo s1 u r with enabled := if a.scalar then u.g.active else a.mask, scalar := a.scalar }

/-- R360: the held instruction performs: an atomic its lanes in ascending order, at once; a monitor its first read. -/
def performHeld (s : State) (u : Issuer) (aid : Nat) (a : Access) : State :=
  let s1 := { s with accesses := s.accesses.erase aid }
  let u1 := { u with g := { u.g with status := .running, wait := none } }
  match racesOf s u a with
  | p :: _ => minimumRace s1 u1 a p
  | [] =>
    if a.kind.writes then
      let (n, s2) := s1.fresh
      beginAccess s2 u1 n { a with checked := !(checkedLanes u a).isEmpty } (pendingOf a) (!a.lanes.any LaneAccess.toPeer) false
    else match a.lanes with
      | la :: _ => settle (beginMonitor s1 u1 a la)
      | [] => s1

/-- MIN_WAITED_PERFORM (R360): a held instruction performs once its group's key is the minimum. -/
def execMinWaitedPerform (group : Nat) (s : State) : Out :=
  match issuerOf s group with
  | none => .refused .notEnabled
  | some u =>
    match u.g.status, u.g.wait with
    | .heldMinimum, some (.minimum aid) =>
      match s.accesses.get? aid with
      | none => .refused .notEnabled
      | some a =>
        let free := a.lanes.all fun la => (earlierAccesses s group aid).all (orderedAfter a la) && !granuleHeld s aid la.ranges
        if !holdsMinimum s u || !free then .refused .notEnabled
        else .next (performHeld s u aid a)
    | _, _ => .refused .notEnabled

/-! ## The token (R364, R473) -/

/-- R364: ascending (g, IC, l). -/
def redBefore (a b : RedEntry) : Bool :=
  decide (a.g < b.g) || (decide (a.g = b.g) && (decide (a.ic < b.ic) || (decide (a.ic = b.ic) && decide (a.lane ≤ b.lane))))

/-- The team of a launch that stands for a linear index. A flushed team waits to be dispatched again. -/
def teamOfIndex (s : State) (lid index : Nat) : Option Nat :=
  ((s.teams.filter fun p => decide (p.2.launch = lid) && decide (p.2.index = index) &&
    decide (p.2.status ≠ .restarting)).head?).map Prod.fst

/-- R364, R470: one entry is performed as a relaxed read-modify-write. It sets no flag. -/
def drainEntry (s : State) (tid : Nat) (e : RedEntry) : Option State :=
  let s1 := s.modifyTeam tid fun t => { t with reds := t.reds.erase e, drained := true, pinned := true }
  let (n, s2) := s1.fresh
  let s3 := { s2 with accesses := s2.accesses.insert n e.access }
  match issuerOf s e.access.group with
  | none => some s1
  | some u =>
    if e.access.lanes.any LaneAccess.toPeer then some (sendLanes s3 u n e.access)
    else (performLanes s3 n true 1 e.access.lanes).map fun s4 =>
      returnLanes (s4.modifyAccess n fun a => { a with flags := 0 }) n 1

/-- R364: whether every group of the team below g has retired. -/
def lowerRetired (s : State) (t : Team) (g : Nat) : Bool :=
  t.groups.all fun gid => (s.groups.get? gid).all fun x => decide (g ≤ x.g) || decide (x.status = .retired)

/-- R364, R473: the token passes, broken if the team that held it lost entries or a group of it was killed. -/
def passToken (l : Launch) (t : Team) : Launch :=
  { l with token := l.token + 1, tokenBroken := l.tokenBroken || t.lostEntries || decide (0 < t.killed) }

/-- REDUCTION_DRAIN (R364): the team that holds the token drains its next entry, or passes the token on. -/
def execReductionDrain (launch : Nat) (s : State) : Out :=
  match s.launches.get? launch with
  | none => .refused .notEnabled
  | some l =>
    match teamOfIndex s launch l.token with
    | none => .refused .notEnabled
    | some tid =>
      match s.teams.get? tid with
      | none => .refused .notEnabled
      | some t =>
        if l.det = false then .refused .notEnabled else
        match sortBy redBefore t.reds with
        | e :: _ =>
          if !lowerRetired s t e.g then .refused .notEnabled
          else match drainEntry s tid e with
            | some s1 => .next s1
            | none => .refused .notEnabled
        | [] =>
          if teamDone s t then .next (s.setLaunch launch (passToken l t)) else .refused .notEnabled

end Sys2Proof.Machine
end

