-- ==== Sys2Proof/Machine/Admission.lean ====
section
/-!
DEFINITION. The checks of a code object descriptor (spec/12 R333, R337 checks 7 and 8; spec/03 R78), which launches and
handlers share.
-/

namespace Sys2Proof.Machine

/-- R338: a code region holds the n bytes from a. -/
def regionHolds (r a n : Nat) : Bool :=
  let first := r / 2 ^ 23 * 65536
  decide (first ≤ a) && decide (a + n ≤ first + r % 2 ^ 23 * 65536)

/-- R338: a tenant's code regions. -/
def codeRegions (t : Tenant) : List Nat := [recField t.entry 96 64, recField t.entry 160 64]

/-- R78, R333: the fields of a descriptor. -/
def descriptorOk (d : BitVec 512) : Bool :=
  let f := recField d
  let width := 8 * 2 ^ f 84 3
  decide (f 264 248 = 0) && decide (f 224 32 = 0) && decide (f 164 28 = 0) && decide (f 158 2 = 0) &&
  decide (f 145 7 = 0) && decide (f 118 10 = 0) && decide (f 91 5 = 0) &&
  decide (f 256 8 = 1) && decide (f 192 32 % 8 = 0) && decide (f 0 64 % 8 = 0) &&
  decide (f 84 3 ≤ 4) && decide (1 ≤ f 64 11) && decide (f 64 11 ≤ 1536) && decide (2 ≤ f 75 9) && decide (f 75 9 ≤ 256) &&
  decide (1 ≤ f 87 4) && decide (f 87 4 ≤ 8) && decide (f 87 4 * width ≤ 1024) &&
  decide (f 96 22 ≤ 2097152) && decide (f 128 12 ≤ 2048) && decide (f 140 5 ≤ 16)

/-- R337 check 7, but for the translation. -/
def codeOk (t : Tenant) (d : BitVec 512) : Bool :=
  descriptorOk d && (codeRegions t).any fun r => regionHolds r (recField d 0 64) (recField d 192 32)

/-- R337 check 8: one team fits the tenant's bank groups on one core. -/
def teamFits (t : Tenant) (l : Launch) : Bool :=
  decide (l.groupCount * ((l.regs + 7) / 8) * 8 * 4 * l.width ≤ t.bg * 2 ^ 18) && decide (l.teamMem ≤ t.bg * 2 ^ 18) &&
  decide (l.acc * 4096 ≤ t.bg * 2 ^ 20) && decide (l.hz ≤ 2 * t.bg)

/-- What reading a descriptor comes to. -/
inductive Descriptor
  | found (d : BitVec 512)
  | waits (s : State)
  | refused
  | nowhere (loc : Nat)
  deriving DecidableEq, Repr

/-- R331, R337 check 7: the descriptor at CODE, which is 64-byte aligned. -/
def readDescriptor (s : State) (ctx code : Nat) : Descriptor :=
  if code % 64 ≠ 0 then .refused
  else match deviceReady s ctx kindRead code 64 with
    | .waits s1 => .waits s1
    | .nowhere loc => .nowhere loc
    | .fatal => .refused
    | .ready =>
      match deviceRead s ctx code 64 with
      | some bytes => .found (BitVec.ofNat 512 (leNat bytes))
      | none => .refused

end Sys2Proof.Machine
end

