-- ==== Sys2Proof/Machine/Placement.lean ====
section
/-!
DEFINITION. Where teams are placed (spec/12 R341, R342, R347, R351; spec/02 R26, R36, R43; spec/08 R213): what a core holds and
offers, the buddy allocators, and the choice of cores and slots.
-/

namespace Sys2Proof.Machine

/-! ## What a core holds -/

/-- A team holds its part of its core. -/
def teamHolds (s : State) (t : Team) : Bool :=
  match t.status with
  | .resident | .evicting => true
  | .retired => t.groups.any (groupBusy s)
  | _ => false

/-- R36: a team holds its team memory: until every team of its cluster has retired. -/
def teamHoldsMem (s : State) (t : Team) : Bool :=
  teamHolds s t || (decide (t.status = .retired) &&
    match s.launches.get? t.launch with
    | none => false
    | some l => decide (1 < l.clusterSize) && s.teams.any fun p => decide (p.2.launch = t.launch) &&
        decide (clusterOf l p.2 = clusterOf l t) && decide (p.2.status ≠ .retired))

/-- The tenant of a team. -/
def tenantOf (s : State) (t : Team) : Option Nat :=
  match s.launches.get? t.launch with
  | none => none
  | some l => (s.contexts.get? l.ctx).map (·.tenant)

/-- The teams that a core holds, of any tenant. -/
def teamsOn (s : State) (core : Nat) : List Team :=
  s.teams.vals.filter fun t => decide (t.core = core) && (teamHolds s t || teamHoldsMem s t)

/-- The teams of a tenant that a core holds. -/
def tenantOn (s : State) (core tn : Nat) : List Team := (teamsOn s core).filter fun t => decide (tenantOf s t = some tn)

/-- The slots of a core that are taken. -/
def slotsTaken (s : State) (core : Nat) : List Nat :=
  (teamsOn s core).flatMap fun t =>
    if teamHolds s t then (t.groups.filter (inSlot s)).filterMap fun gid => (s.groups.get? gid).map (·.slot) else []

/-! ## Bank groups (R342, R347) -/

/-- The first bank group, and their number, of what `held` gives. -/
def bankFirst (x : Nat) : Nat := x % 16
def bankCount (x : Nat) : Nat := x / 16

/-- R347: the bank groups that tenants hold on a core: a tenant's stand released once its last team there has gone. -/
def heldOn (s : State) (core : Nat) (c : Core) : Table Nat := c.held.filter fun p => !(tenantOn s core p.1).isEmpty

/-- R347: the first of n consecutive free bank groups. -/
def claimBanks (held : Table Nat) (n : Nat) : Option Nat :=
  (upFrom 0 (9 - n)).find? fun f => held.vals.all fun x =>
    decide (f + n ≤ bankFirst x) || decide (bankFirst x + bankCount x ≤ f)

/-- R347: the bank groups that a tenant holds on a core, or could claim. -/
def banksFor (t : Tenant) (held : Table Nat) (tn : Nat) : Option Nat :=
  match held.get? tn with
  | some x => some x
  | none => (claimBanks held t.bg).map fun f => f + 16 * t.bg

/-- R347: a tenant's bank groups are released with its last team on a core. -/
def releaseBanks (s : State) (core : Nat) : State :=
  s.modifyCore core fun c => { c with held := heldOn s core c }

/-! ## Buddy allocators (R342) -/

/-- Two blocks do not overlap. -/
def apart (a b : Nat × Nat) : Bool := decide (a.1 + a.2 ≤ b.1) || decide (b.1 + b.2 ≤ a.1)

/-- The lower of two offsets, if there is one. -/
def lowerOf (a : Option Nat) (b : Nat) : Option Nat :=
  match a with
  | none => some b
  | some x => some (min x b)

/-- R342: the lowest free block of z units among n: it stands at a multiple of z. Which free block is taken is not stated
(log entry 49). -/
def allocBlock (n : Nat) (used : List (Nat × Nat)) (z : Nat) : Option (Nat × Nat) :=
  let starts := 0 :: used.map fun u => (u.1 + u.2 + z - 1) / z * z
  ((starts.filter fun o => decide (o + z ≤ n) && used.all (apart (o, z))).foldl lowerOf none).map fun o => (o, z)

/-- R342: the sizes of the blocks of a request: the binary decomposition, the largest first. -/
def blockSizes (n : Nat) : List Nat := ((upFrom 0 16).reverse.filter (bitOf n)).map (2 ^ ·)

/-- Blocks of these sizes, or none where one cannot be served. -/
def allocAll (n : Nat) : List (Nat × Nat) → List Nat → Option (List (Nat × Nat))
  | _, [] => some []
  | used, z :: t =>
    match allocBlock n used z with
    | none => none
    | some b => (allocAll n (b :: used) t).map (b :: ·)

/-- R342: the sizes of the register blocks of a team, in units of 256 bytes: each group asks for its granules. -/
def regSizes (l : Launch) : List Nat :=
  (upFrom 0 l.groupCount).flatMap fun _ => (blockSizes ((l.regs + 7) / 8)).map (· * (l.width / 8))

/-- R342: a team's pages and tiles. -/
def memSizes (l : Launch) : List Nat := blockSizes ((l.teamMem + 4095) / 4096)
def tileSizes (l : Launch) : List Nat := blockSizes l.acc

/-- Where a team would stand. -/
structure Seat where
  core : Nat
  banks : Nat
  regBlocks : List (Nat × Nat)
  memBlocks : List (Nat × Nat)
  tileBlocks : List (Nat × Nat)
  freeGranules : Nat

/-- The blocks of teams. -/
def regUsed (s : State) (ts : List Team) : List (Nat × Nat) := (ts.filter (teamHolds s)).flatMap (·.regBlocks)
def memUsed (ts : List Team) : List (Nat × Nat) := ts.flatMap (·.memBlocks)
def tileUsed (s : State) (ts : List Team) : List (Nat × Nat) := (ts.filter (teamHolds s)).flatMap (·.tileBlocks)

/-- The Horizon slots that teams hold. -/
def hzUsed (s : State) (ts : List Team) : Nat :=
  (ts.filter (teamHolds s)).foldl (fun n t => n + ((s.launches.get? t.launch).map (·.hz)).getD 0) 0

/-- The sum of the lengths of blocks. -/
def unitsOf (bs : List (Nat × Nat)) : Nat := bs.foldl (fun n b => n + b.2) 0

/-- R341, R342: the blocks that a core can give a team of a tenant, beside the teams `ts` that it holds for the tenant. -/
def allocOn (s : State) (l : Launch) (ts : List Team) (core banks : Nat) : Option Seat :=
  let n := bankCount banks
  match allocAll (1024 * n) (regUsed s ts) (regSizes l), allocAll (64 * n) (memUsed ts) (memSizes l),
        allocAll (256 * n) (tileUsed s ts) (tileSizes l) with
  | some r, some m, some a =>
    if hzUsed s ts + l.hz ≤ 2 * n then
      some ⟨core, banks, r, m, a, (1024 * n - unitsOf (regUsed s ts)) / (l.width / 8)⟩
    else none
  | _, _, _ => none

/-! ## Which cores are open (R341, R351) -/

/-- R43: a core that is usable, and whose features cover FEAT. -/
def covers (l : Launch) (c : Core) : Bool := c.usable && decide (BitVec.ofNat 6 l.feat &&& ~~~c.feat = 0)

/-- R351: a core of the tenant's own. -/
def ownCore (c : Core) (tn : Nat) : Bool := decide (c.kind = .guaranteed ∨ c.kind = .margin) && decide (c.owner = tn)

/-- R351: a margin core that a REVOCABLE launch of another tenant could borrow. -/
def borrowable (l : Launch) (c : Core) (tn : Nat) : Bool :=
  decide (c.kind = .margin) && decide (c.owner ≠ tn) && l.revocable

/-- R341: a core is open to a tenant for a launch, however busy it is. -/
def openTo (l : Launch) (c : Core) (tn : Nat) : Bool := ownCore c tn || decide (c.kind = .shared) || borrowable l c tn

/-- R351, R353: a margin core holds no team of the other side, and is not being returned. -/
def lendingAllows (s : State) (c : Core) (core tn : Nat) : Bool :=
  decide (c.kind ≠ .margin) ||
  (if c.owner = tn then (teamsOn s core).all (fun t => decide (tenantOf s t = some tn)) && c.returnBy.isNone
   else (tenantOn s core c.owner).isEmpty && c.returnBy.isNone)

/-- R341: a team of a tenant fits on a core, where `need` slots are wanted. -/
def fitOn (s : State) (l : Launch) (tn : Nat) (t : Tenant) (need core : Nat) (c : Core) : Option Seat :=
  if !covers l c || !openTo l c tn || !lendingAllows s c core tn then none
  else if Config.slotsPerQuadrant * Config.quadrants < (slotsTaken s core).length + need then none
  else match banksFor t (heldOn s core c) tn with
    | none => none
    | some b => allocOn s l (tenantOn s core tn) core b

/-- R341, R351: the places of a team on single cores. Margin cores of others count only where none of the tenant's own fits. -/
def places (s : State) (l : Launch) (tn : Nat) (t : Tenant) (need : Nat) : List Seat :=
  let all := s.cores.filterMap fun p => (fitOn s l tn t need p.1 p.2).map fun x => (p.2, x)
  let own := all.any fun p => ownCore p.1 tn
  (all.filter fun p => !(own && borrowable l p.1 tn)).map Prod.snd

/-- R341: the place with the most free granules; ties go to the lowest core. -/
def bestPlace (ps : List Seat) : Option Seat :=
  ps.foldl (fun best p =>
    match best with
    | none => some p
    | some b => if b.freeGranules < p.freeGranules then some p else some b) none

/-- R26: the cores of a w by h rectangle of a die, by core-in-cluster index. -/
def rectangle (die r0 c0 w h : Nat) : List Nat :=
  (upFrom 0 (w * h)).map fun i => 48 * die + (r0 + i / w) * 8 + c0 + i % w

/-- R26: the rectangles that a cluster may take, the lowest die first, then the lowest first row, then column. -/
def rectangles (w h : Nat) : List (List Nat) :=
  (upFrom 0 Config.dies).flatMap fun d => (upFrom 0 (7 - h)).flatMap fun r => (upFrom 0 (9 - w)).map fun c =>
    rectangle d r c w h

/-- The places on given cores, if each has one. -/
def placesOn (ps : List Seat) (cores : List Nat) : Option (List Seat) :=
  let found := cores.filterMap fun c => ps.find? fun p => decide (p.core = c)
  if found.length = cores.length then some found else none

/-- R340, R341: where the teams of one cluster go together, in their order. -/
def placeCluster (s : State) (l : Launch) (tn : Nat) (t : Tenant) (need : Nat) : Option (List Seat) :=
  let ps := places s l tn t need
  if l.clusterSize = 1 then (bestPlace ps).map fun p => [p]
  else (rectangles l.cw l.ch).findSome? (placesOn ps)

/-- R472: some usable core open to the tenant covers FEAT. -/
def canCover (s : State) (l : Launch) (tn : Nat) : Bool := s.cores.vals.any fun c => covers l c && openTo l c tn

/-! ## Slots (R341) -/

/-- The resident groups of a quadrant, by their slots. -/
def quadLoad (s : State) (core q : Nat) : Nat :=
  ((teamsOn s core).flatMap fun t => t.groups.filter fun gid =>
    (s.groups.get? gid).any fun g => decide (g.status ≠ .retired) && decide (quadOf g.slot = q) && teamHolds s t).length

/-- The lowest free slot of a quadrant. -/
def freeSlot (taken : List Nat) (q : Nat) : Option Nat :=
  (upFrom (Config.slotsPerQuadrant * q) Config.slotsPerQuadrant).find? fun k => decide (k ∉ taken)

/-- R341: the slot of the next group: the lowest free one of the quadrant with the fewest resident groups. `loads` is their
number in each quadrant. -/
def nextSlot (taken loads : List Nat) : Option Nat :=
  let qs := (upFrom 0 Config.quadrants).filter fun q => (freeSlot taken q).isSome
  let best := qs.foldl (fun b q =>
    match b with
    | none => some q
    | some x => if loads.getD q 0 < loads.getD x 0 then some q else some x) none
  best.bind (freeSlot taken)

/-- R341: the slots of n groups, in their order. -/
def slotsFor : Nat → List Nat → List Nat → List Nat
  | 0, _, _ => []
  | n + 1, taken, loads =>
    match nextSlot taken loads with
    | none => []
    | some k => k :: slotsFor n (k :: taken) (loads.modify (quadOf k) (· + 1))

/-- R341: slots on a core for n groups. -/
def newSlots (s : State) (core n : Nat) : List Nat :=
  slotsFor n (slotsTaken s core) ((upFrom 0 Config.quadrants).map (quadLoad s core))

end Sys2Proof.Machine
end

