-- ==== Sys2Proof/Machine/Traps.lean ====
section
/-!
DEFINITION. From a fault to its handler (spec/21 R436, R440, R441; spec/14 R475 in spec/23).
-/

namespace Sys2Proof.Machine

/-- R111, R436: every earlier instruction of a group has completed. -/
def groupSettled (s : State) (gid : Nat) (g : Group) : Bool :=
  !g.anyPending && g.d.isEmpty && !s.accesses.any (fun p => decide (p.2.group = gid)) &&
  !s.deferred.any fun p => decide (p.2.group = gid)

/-- R441: a fault in a handler work-group: its team is killed, and so is the group whose trap it served. -/
def handlerFailed (s : State) (u : Issuer) : State :=
  let s1 := killAll s u.t.groups .outside
  match u.l.handlerFor with
  | none => s1
  | some target => killAll s1 [target] .trapped

/-- R436, R440, R441: the record has been written: the group is parked, and its trap waits for a handler. -/
def parkAtTrap (s : State) (u : Issuer) : State :=
  let s1 := s.modifyGroup u.gid fun g => { g with status := .parked, header := none, entered := false, addrNext := true }
  if u.isHandler then handlerFailed s1 u
  else s1.modifyContext u.l.ctx fun c => { c with trapQueue := c.trapQueue ++ [u.gid] }

/-- TRAP_RECORD_WRITE (R436): the record of a faulting group whose earlier instructions have all completed. -/
def execTrapRecordWrite (group : Nat) (s : State) : Out :=
  match issuerOf s group with
  | none => .refused .notEnabled
  | some u =>
    match u.g.trap with
    | none => .refused .notEnabled
    | some i =>
      if u.g.status ≠ .trapping ∨ groupSettled s group u.g = false then .refused .notEnabled
      else
        match deviceReady s u.l.ctx kindWrite (trapAreaAddr u.c u.g.trapArea) 4896 with
        | .waits s1 => .next s1
        | .nowhere loc => .fault (.noSuchPhysicalAddress loc)
        | _ => .next (settle (killUnserved (parkAtTrap (putRecord s u i) u)))

/-- R440: the packet of a handler's launch: one team, with the record's address for arguments. The launch has no id
(log entry 16). -/
def handlerPacket (c : Context) (ctx code record : Nat) : BitVec 512 :=
  BitVec.ofNat 512 (code + record % 2 ^ 64 * 2 ^ 64 + 2 ^ 192 + 2 ^ 208 + 2 ^ 224 + 2 ^ 240 + 2 ^ 244 + c.trapPrio * 2 ^ 248 +
    c.tenant * 2 ^ 352 + ctx * 2 ^ 360)

/-- R440: the handlers of a context that are live. -/
def liveHandlers (s : State) (ctx : Nat) : Nat :=
  (s.launches.vals.filter fun l => decide (l.ctx = ctx) && l.handlerFor.isSome && !l.ended).length

/-- The head of a context's traps leaves the queue. -/
def popTrap (s : State) (ctx : Nat) : State := s.modifyContext ctx fun c => { c with trapQueue := c.trapQueue.tail }

/-- R440: the launch of a handler is created, and will be dispatched like any other. -/
def createHandler (s : State) (ctx gid : Nat) (c : Context) (cls code record : Nat) (desc : BitVec 512) : State :=
  let (n, s1) := (popTrap s ctx).fresh
  let l := { newLaunch (handlerPacket c ctx code record) desc 0 n with handlerFor := some gid, handlerClass := cls }
  s1.setLaunch n l

/-- R440: the code object of a trap's handler: what TVEC names, if it may run. -/
def handlerAt (s : State) (c : Context) (ctx code : Nat) : Descriptor :=
  if code = 0 then .refused else
  match readDescriptor s ctx code with
  | .found d =>
    match s.tenants.get? c.tenant with
    | some t => if codeOk t d && teamFits t (newLaunch 0 d 0 0) then .found d else .refused
    | none => .refused
  | x => x

/-- R440: the head of a context's traps gets its handler, or is killed. -/
def serveTrap (s : State) (ctx : Nat) (c : Context) (u : Issuer) (i : TrapInfo) : Out :=
  let entry := c.tvec + 8 * i.cls.number
  let give := fun (s : State) (code : Nat) =>
    match handlerAt s c ctx code with
    | .found d =>
      (.next (createHandler s ctx u.gid c i.cls.number code (trapAreaAddr c u.g.trapArea) d) : Out)
    | .waits s1 => .next s1
    | .nowhere loc => .fault (.noSuchPhysicalAddress loc)
    | .refused => .next (kill (popTrap s ctx) [u.gid] .trapped)
  match deviceReady s ctx kindRead entry 8 with
  | .waits s1 => .next s1
  | .nowhere loc => .fault (.noSuchPhysicalAddress loc)
  | .fatal => .next (kill (popTrap s ctx) [u.gid] .trapped)
  | .ready => give (touchPages s ctx kindRead (pieces entry 8)) (leNat ((deviceRead s ctx entry 8).getD []))

/-- HANDLER_CREATE (R440, R475): the first trap of a context that waits gets its handler. At most 64 handlers of a context are
live; none is created while the context is being demoted. -/
def execHandlerCreate (ctx : Nat) (s : State) : Out :=
  match s.contexts.get? ctx with
  | none => .refused .notEnabled
  | some c =>
    match c.trapQueue with
    | [] => .refused .notEnabled
    | gid :: _ =>
      match issuerOf s gid with
      | none => .next (popTrap s ctx)
      | some u =>
        match u.g.trap with
        | none => .next (popTrap s ctx)
        | some i =>
          if u.g.status ≠ .parked then .next (popTrap s ctx)
          else if c.stage = .demoting ∨ c.destroying = true ∨ 64 ≤ liveHandlers s ctx then .refused .notEnabled
          else serveTrap s ctx c u i

end Sys2Proof.Machine
end

