-- ==== Sys2Proof/Machine/Dispatcher.lean ====
section
/-!
DEFINITION. The dispatcher (spec/12 R339 to R345; spec/02 R33, R40 to R45; spec/23 R472): what waits to be placed, dispatch,
eviction, resumption, and the compactor.
-/

namespace Sys2Proof.Machine

/-! ## What waits to be placed (R340, R353) -/

/-- R340, R353: a cluster of evicted teams, a cluster to be restarted, or the next of a launch. -/
inductive Waiting
  | resume (launch cluster : Nat)
  | restart (launch cluster : Nat)
  | fresh (launch : Nat)
  deriving DecidableEq, Repr

/-- The launch of what waits. -/
def Waiting.launch : Waiting → Nat
  | .resume l _ | .restart l _ | .fresh l => l

/-- R340, R353: at one priority, what is resumed stands before what is restarted, and that before what is new. -/
def Waiting.rank : Waiting → Nat
  | .resume _ _ => 0
  | .restart _ _ => 1
  | .fresh _ => 2

/-- The cluster, for what has one. -/
def Waiting.cluster : Waiting → Nat
  | .resume _ k | .restart _ k => k
  | .fresh _ => 0

/-- R371, R381, R481: the dispatcher serves a context: it is not being demoted or destroyed, and between steps. -/
def served (s : State) (ctx : Nat) : Bool :=
  !s.stopped && (s.contexts.get? ctx).any fun c => decide (c.stage ≠ .demoting) && !c.destroying && c.midStep.isNone

/-- R339: a prerequisite is met: it is 0, or names no launch of the same tenant and source that has not ended. -/
def prereqMet (s : State) (l : Launch) (pre : Nat) : Bool :=
  decide (pre = 0) || s.launches.vals.all fun x =>
    !(decide (x.tenant = l.tenant) && decide (x.source = l.source) && decide (x.lid = pre) && x.handlerFor.isNone && !x.ended)

/-- R339, R472: a launch has a team to dispatch. -/
def dispatchable (s : State) (l : Launch) : Bool :=
  !l.ended && l.unplaced.isNone && decide (l.nextTeam < l.teamTotal) && prereqMet s l l.pre0 && prereqMet s l l.pre1

/-- The teams of a cluster of a launch that have not ended. -/
def clusterMembers (s : State) (lid : Nat) (l : Launch) (k : Nat) : List Nat :=
  (s.teams.filter fun p => decide (p.2.launch = lid) && decide (clusterOf l p.2 = k) &&
    decide (p.2.status ≠ .retired ∧ p.2.status ≠ .restarting ∧ p.2.status ≠ .lost)).map Prod.fst

/-- R42: whether a group of an evicted team could go on: its wake condition, tested as at home, is true. In Calm mode no timeout
runs (R374, R381). -/
def wouldWake (s : State) (tid gid : Nat) : Bool :=
  let home := s.modifyTeam tid fun t => { t with status := .resident }
  match s.groups.get? gid with
  | none => false
  | some g =>
    match g.status, g.wait with
    | .running, _ => true
    | .blocked, some (.monitor _ _ _ _ (some d) _) =>
      (decide (d ≤ s.ticks.toNat) && !(issuerOf s gid).any (fun u => decide (u.c.stage = .demoted))) || ((wakeGroup home gid none).groups.get? gid).any fun x => decide (x.status ≠ .blocked)
    | .blocked, _ => ((wakeGroup home gid none).groups.get? gid).any fun x => decide (x.status ≠ .blocked)
    | _, _ => false

/-- R340: a team evicted at a `yield` waits for the team for whose sake it was evicted, until that has been placed or its
launch has ended. -/
def yieldServed (s : State) (t : Team) : Bool :=
  match t.yieldFor with
  | none => true
  | some (lid, _) =>
    match s.launches.get? lid with
    | none => true
    | some l => l.ended

/-- R340: a cluster of evicted teams may be resumed. -/
def resumableCluster (s : State) (tids : List Nat) : Bool :=
  let ts := tids.filterMap fun tid => (s.teams.get? tid).map fun t => (tid, t)
  !ts.isEmpty && ts.all (fun p => decide (p.2.status = .evicted) && yieldServed s p.2) &&
  ts.any fun p => p.2.groups.any (wouldWake s p.1)

/-- The clusters of a launch that have evicted teams. -/
def evictedClusters (s : State) (lid : Nat) (l : Launch) : List Nat :=
  ((s.teams.vals.filter fun t => decide (t.launch = lid) && decide (t.status = .evicted)).map (clusterOf l)).eraseDups

/-- Everything of a launch that waits to be placed. -/
def waitingOf (s : State) (lid : Nat) (l : Launch) : List Waiting :=
  if !served s l.ctx || l.ended then [] else
  ((evictedClusters s lid l).filter fun k => resumableCluster s (clusterMembers s lid l k)).map (.resume lid) ++
  ((l.restarts.map (· / max 1 l.clusterSize)).eraseDups.map (.restart lid)) ++
  (if dispatchable s l then [.fresh lid] else [])

/-- R340: one stands before another. -/
def placedBefore (s : State) (a b : Waiting) : Bool :=
  match s.launches.get? a.launch, s.launches.get? b.launch with
  | some x, some y =>
    if x.prio ≠ y.prio then decide (y.prio < x.prio)
    else if a.rank ≠ b.rank then decide (a.rank < b.rank)
    else if x.accepted ≠ y.accepted then decide (x.accepted < y.accepted)
    else decide (a.cluster ≤ b.cluster)
  | _, _ => true

/-- R340: everything that waits, in the order in which it is placed. -/
def waitingUnits (s : State) : List Waiting :=
  sortBy (placedBefore s) (s.launches.flatMap fun p => waitingOf s p.1 p.2)

/-! ## A team is placed (R35, R36, R341, R423) -/

/-- The tenant of a launch's context, with its number. -/
def launchTenant (s : State) (l : Launch) : Option (Nat × Tenant) :=
  match s.contexts.get? l.ctx with
  | none => none
  | some c => (s.tenants.get? c.tenant).map fun t => (c.tenant, t)

/-- R347: a core takes a tenant's team: its bank groups are claimed, and it holds no stale line of the context. -/
def claimCore (s : State) (ctx tn core banks : Nat) : State :=
  let s1 := s.modifyCore core fun c =>
    { c with held := (heldOn s core c).insert tn banks
             issuing := c.issuing.orElse fun _ => some tn
             sliceStart := if c.issuing.isNone then s.ticks.toNat else c.sliceStart }
  (coreLines s1 core).foldl (fun s ln =>
    if ((s.cores.get? core).bind fun c => c.lines.get? ln).any fun l => decide (l.ctx = ctx) then dropLine s core ln else s) s1

/-- The groups of a traced context, no handlers, that a placement from s to s1 has put on a core, by slot. -/
def newlyPlaced (s s1 : State) (core ctx : Nat) : List Issuer :=
  sortBy (fun a b : Issuer => decide (a.g.slot ≤ b.g.slot)) ((s1.groups.keys.filterMap (issuerOf s1)).filter fun u =>
    decide (u.t.core = core ∧ u.l.ctx = ctx ∧ u.t.status = .resident ∧ u.g.status ≠ .retired) && !u.isHandler &&
    (s.teams.get? u.g.team).all fun t => decide (t.status ≠ .resident))

/-- The cores and traced contexts for which a placement writes packets, with the groups placed. -/
def placedTraces (s s1 : State) : List (Nat × Nat × List Issuer) :=
  (s1.contexts.filter fun p => p.2.tracing).flatMap fun p =>
    (s1.cores.keys.map fun k => (k, p.1, newlyPlaced s s1 k p.1)).filter fun x => !x.2.2.isEmpty

/-- R422, R423: the MASK packets of the groups placed on a core together, by slot, and the SYNC after them. -/
def tracePlaced (s s1 : State) : State :=
  (placedTraces s s1).foldl (fun s x => stageSync (x.2.2.foldl (fun s u =>
    tracePacket s u false (0x50 :: slotByte u.g :: maskBytes u.l.width u.g.active)) s) x.1 x.2.1) s1

/-- R423: whether their packets stand behind those of the same tick, by slot. -/
def placedInOrder (s s1 : State) : Bool :=
  (placedTraces s s1).all fun x => x.2.2.all fun u => !outOfOrder s x.1 x.2.1 u.g.slot

/-- R35, R36, R436: a team of a launch is created on a core. -/
def placeTeam (s : State) (lid : Nat) (l : Launch) (tn index : Nat) (p : Seat) : State :=
  let (tid, s1) := s.fresh
  let gids := upFrom s1.nextId l.groupCount
  let slots := newSlots s p.core l.groupCount
  let areas := freeAreas (areasInUse s l.ctx) l.groupCount
  let groups := (upFrom 0 l.groupCount).foldl (fun t g =>
    Table.insert t (s1.nextId + g)
      (newGroup l lid tid g (agentId p.core (slots.getD g 0)) (slots.getD g 0) (areas.getD g 0) l.args)) s1.groups
  let t := { newTeam lid index p.core gids with regBlocks := p.regBlocks, memBlocks := p.memBlocks, tileBlocks := p.tileBlocks
                                                pinned := l.cogrid, agents := slots.map (agentId p.core) }
  let s2 := { s1 with nextId := s1.nextId + l.groupCount, groups := groups, teams := s1.teams.insert tid t }
  claimCore s2 l.ctx tn p.core p.banks

/-- The teams of a cluster are created, from linear index `index` on. -/
def placeTeams (s : State) (lid : Nat) (l : Launch) (tn : Nat) : Nat → List Seat → State
  | _, [] => s
  | index, p :: ps => placeTeams (placeTeam s lid l tn index p) lid l tn (index + 1) ps

/-- R334, R340: the next cluster of a launch is dispatched, if it fits. -/
def dispatchNext (s : State) (lid : Nat) : Option State :=
  match s.launches.get? lid with
  | none => none
  | some l =>
    match launchTenant s l with
    | none => none
    | some (tn, t) =>
      match placeCluster s l tn t l.groupCount with
      | none => none
      | some ps =>
        let l1 := { l with nextTeam := l.nextTeam + ps.length, started := true
                           start := if l.started then l.start else s.ticks.toNat }
        some (placeTeams (s.setLaunch lid l1) lid l tn l.nextTeam ps)

/-- R45, R340: n clusters of a launch, all of them or none. -/
def dispatchAll (lid : Nat) : Nat → State → Option State
  | 0, s => some s
  | n + 1, s => (dispatchNext s lid).bind (dispatchAll lid n)

/-- R353: a flushed team leaves nothing of its earlier run. -/
def forgetTeam (s : State) (tid : Nat) : State :=
  match s.teams.get? tid with
  | none => s
  | some t => { s with teams := s.teams.erase tid, groups := s.groups.filter fun p => decide (p.1 ∉ t.groups) }

/-- R353: a flushed cluster is placed again, from its creation state. -/
def restartCluster (s : State) (lid k : Nat) : Option State :=
  match s.launches.get? lid with
  | none => none
  | some l =>
    match launchTenant s l with
    | none => none
    | some (tn, t) =>
      (placeCluster s l tn t l.groupCount).map fun ps =>
        let old := (s.teams.filter fun p => decide (p.2.launch = lid) && decide (clusterOf l p.2 = k) &&
          decide (p.2.status = .restarting)).map Prod.fst
        let l1 := { l with restarts := l.restarts.filter fun i => decide (i / max 1 l.clusterSize ≠ k) }
        placeTeams (old.foldl forgetTeam (s.setLaunch lid l1)) lid l tn (k * l.clusterSize) ps

/-! ## A team is resumed (R33, R40, R42) -/

/-- R33, R59, R358, R422: a group takes up its saved state in a slot. -/
def resumedGroup (g : Group) (core slot : Nat) : Group :=
  let id := agentId core slot
  let g1 := if id = g.agent then g else enterAcquired g g.agent.toNat g.rc.toNat
  { applyLiveness g1 with
    agent := id, slot := slot, age := 0, addrNext := true, yielded := false, owes := false, keptIC := none }

/-- R42: an evicted team is resident again. -/
def resumeTeam (s : State) (ctx tn tid : Nat) (p : Seat) : State :=
  match s.teams.get? tid with
  | none => s
  | some t =>
    let gids := t.groups.filter fun gid => (s.groups.get? gid).any fun g => decide (g.status ≠ .retired)
    let slots := newSlots s p.core gids.length
    let s1 := (gids.zip slots).foldl (fun s q => s.modifyGroup q.1 fun g => resumedGroup g p.core q.2) s
    let s2 := s1.setTeam tid { t with core := p.core, status := .resident, regBlocks := p.regBlocks, memBlocks := p.memBlocks
                                      tileBlocks := p.tileBlocks, blockedSlices := 0, yieldFor := none, woken := true
                                      agents := t.agents ++ slots.map (agentId p.core) }
    claimCore s2 ctx tn p.core p.banks

/-- R40: the teams of a cluster are resumed together. -/
def resumeCluster (s : State) (lid k : Nat) : Option State :=
  match s.launches.get? lid with
  | none => none
  | some l =>
    match launchTenant s l with
    | none => none
    | some (tn, t) =>
      (placeCluster s l tn t l.groupCount).map fun ps =>
        settle ((clusterMembers s lid l k).foldl (fun s tid =>
          match s.teams.get? tid with
          | none => s
          | some x =>
            match ps[placeInCluster l x]? with
            | some p => resumeTeam s l.ctx tn tid p
            | none => s) s)

/-- The first team of what waits. -/
def firstTeam (l : Launch) (w : Waiting) : Nat :=
  match w with
  | .fresh _ => l.nextTeam
  | .resume _ k | .restart _ k => k * l.clusterSize

/-- What waits is placed, if it fits. A COGRID launch is placed whole. -/
def placeUnit (s : State) (w : Waiting) : Option State :=
  match w with
  | .resume lid k => resumeCluster s lid k
  | .restart lid k => restartCluster s lid k
  | .fresh lid =>
    match s.launches.get? lid with
    | none => none
    | some l => if l.cogrid then dispatchAll lid (l.teamTotal / max 1 l.clusterSize) s else dispatchNext s lid

/-! ## Placement faults (R472) -/

/-- R472: no usable core open to the tenant covers FEAT. -/
def uncovered (s : State) (w : Waiting) : Bool :=
  match s.launches.get? w.launch with
  | none => false
  | some l =>
    match launchTenant s l with
    | none => false
    | some (tn, _) => !canCover s l tn

/-- R472: the launch dispatches no further team, and its evicted teams and those awaiting restart are killed. A handler that
cannot be placed leaves its target unserved. -/
def placementFault (s : State) (w : Waiting) : State :=
  match s.launches.get? w.launch with
  | none => s
  | some l =>
    let team := firstTeam l w
    let s1 := s.setLaunch w.launch { l with unplaced := lowestTeam l.unplaced team, restarts := [] }
    let gids := (s1.teams.vals.filter fun t => decide (t.launch = w.launch) && decide (t.status = .evicted)).flatMap (·.groups)
    let s2 := killAll s1 gids .outside
    let s3 := match l.handlerFor with
      | some target => killAll s2 [target] .trapped
      | none => s2
    let s4 := { s3 with teams := s3.teams.mapVals fun _ t =>
      if t.launch = w.launch ∧ t.status = .restarting then { t with status := .retired } else t }
    settle (killUnserved (contextEvent s4 l.ctx ueRefused 10 team 0 l.lid 0xFFFF))

/-- R340: what was placed from s on is what teams evicted at a `yield` have given way to: they wait for it no longer. -/
def yieldsServed (s : State) (w : Waiting) (s1 : State) : State :=
  match s.launches.get? w.launch with
  | none => s1
  | some l => { s1 with teams := s1.teams.mapVals fun _ t =>
      if t.yieldFor = some (w.launch, firstTeam l w) then { t with yieldFor := none } else t }

/-- R340, R422: a placement from s to s1, and what follows from it. -/
def afterPlaced (s : State) (w : Waiting) (s1 : State) : State := tracePlaced s (yieldsServed s w s1)

/-- R340, R472: the first of what waits that fits, or that no core can ever hold, and the state after it. -/
def firstPlaced (s : State) : List Waiting → Option (Waiting × State)
  | [] => none
  | w :: ws =>
    if uncovered s w then some (w, placementFault s w)
    else match placeUnit s w with
      | some s1 => some (w, s1)
      | none => firstPlaced s ws

/-- TEAM_DISPATCH (R340): the dispatcher places the next team, or cluster, or whole COGRID grid, of the first launch in its
order that fits. -/
def execTeamDispatch (s : State) : Out :=
  match firstPlaced s (waitingUnits s) with
  | none => .refused .notEnabled
  | some (w, s1) => if w.rank = 0 ∨ placedInOrder s s1 = false then .refused .notEnabled else .next (afterPlaced s w s1)

/-- TEAM_RESUME (R42, R340): an evicted team whose wake condition is true is resumed, with its cluster. -/
def execTeamResume (team : Nat) (s : State) : Out :=
  match s.teams.get? team with
  | none => .refused .notEnabled
  | some t =>
    match s.launches.get? t.launch with
    | none => .refused .notEnabled
    | some l =>
      match firstPlaced s (waitingUnits s) with
      | none => .refused .notEnabled
      | some (w, s1) =>
        if w = .resume t.launch (clusterOf l t) ∧ placedInOrder s s1 = true then .next (afterPlaced s w s1) else .refused .notEnabled

/-! ## Eviction (R40, R345) -/

/-- R38, R40: a group stands at a blocking point, `yield` included. -/
def atBlockingPoint (g : Group) : Bool :=
  match g.status, g.wait with
  | .blocked, some (.peers _ _) | .blocked, some (.checks _) => false
  | .blocked, _ => true
  | .running, _ => g.yielded && g.header.isNone
  | .retired, _ => true
  | _, _ => false

/-- The groups of teams, with those that have not retired. -/
def liveGroups (s : State) (tids : List Nat) : List Group :=
  (groupsOf s tids).filter fun g => decide (g.status ≠ .retired)

/-- R40, R384: a cluster may be evicted; in a demoted context between steps. -/
def evictable (s : State) (l : Launch) (tids : List Nat) : Bool :=
  tids.all (fun tid => (s.teams.get? tid).any fun t => decide (t.status = .resident)) &&
  (s.contexts.get? l.ctx).any (fun c => decide (c.stage ≠ .demoting) && c.midStep.isNone && !c.destroying) &&
  !(liveGroups s tids).isEmpty && (liveGroups s tids).all atBlockingPoint

/-- A cluster of teams in a status. -/
def teamsTo (s : State) (tids : List Nat) (st : TeamStatus) : State :=
  tids.foldl (fun s tid => s.modifyTeam tid fun t => { t with status := st }) s

/-- R345: what waits fits nowhere, and would fit with a cluster gone. -/
def fitsWithout (s : State) (tids : List Nat) (w : Waiting) : Bool :=
  (placeUnit s w).isNone && (placeUnit (teamsTo s tids .evicted) w).isSome

/-- R345: what waits of the same tenant as a launch. -/
def waitingOfTenant (s : State) (l : Launch) : List Waiting :=
  (waitingUnits s).filter fun w => (s.launches.get? w.launch).any fun x => decide (x.tenant = l.tenant)

/-- R345: the third case: what waits for the sake of which a cluster at a `yield` gives way. -/
def yieldsFor (s : State) (l : Launch) (tids : List Nat) : Option Waiting :=
  if (liveGroups s tids).any (fun g => g.yielded) then (waitingOfTenant s l).find? (fitsWithout s tids) else none

/-- R345: the first two cases: a launch of strictly higher priority that does not fit, or four slices wholly blocked. -/
def givesWay (s : State) (l : Launch) (tids : List Nat) : Bool :=
  tids.all (fun tid => (s.teams.get? tid).any fun t => decide (4 ≤ t.blockedSlices)) ||
  (waitingOfTenant s l).any fun w => (s.launches.get? w.launch).any (fun x => decide (l.prio < x.prio)) && fitsWithout s tids w

/-- TEAM_EVICT (R345): an eligible team is chosen for eviction, with its cluster. Its save begins. -/
def execTeamEvict (team : Nat) (s : State) : Out :=
  match s.teams.get? team with
  | none => .refused .notEnabled
  | some t =>
    match s.launches.get? t.launch with
    | none => .refused .notEnabled
    | some l =>
      let tids := clusterMembers s t.launch l (clusterOf l t)
      if team ∉ tids ∨ evictable s l tids = false then .refused .notEnabled
      else if givesWay s l tids then .next (teamsTo s tids .evicting)
      else match yieldsFor s l tids with
        | none => .refused .notEnabled
        | some w =>
          let index := (s.launches.get? w.launch).map (firstTeam · w)
          .next (tids.foldl (fun s tid => s.modifyTeam tid fun t =>
            { t with status := .evicting, yieldFor := some (w.launch, index.getD 0) }) s)

/-- R41: the save of a team may complete: every load, store, atomic and special function of its groups has. -/
def saveReady (s : State) (tid : Nat) : Bool :=
  match s.teams.get? tid with
  | none => false
  | some t => decide (t.status = .evicting) && t.groups.all fun gid => (s.groups.get? gid).all (groupSettled s gid)

/-- R58, R358: what is saved of a group: of its predicates the live ones, and the IC of its key. -/
def savedGroup (s : State) (gid : Nat) (g : Group) : Group :=
  { g with savedLive := some g.plive, handlerWrote := [], yielded := false, owes := false, keptIC := (issuerOf s gid).map (keyIC s) }

/-- R58, R345: PLIVE and the live predicates of a group in the context's save area, behind the place of its trap record (log
entry 11: where they stand there is not stated). A page that is not there takes nothing. -/
def saveGroup (s : State) (gid : Nat) : State :=
  match issuerOf s gid with
  | none => s
  | some u =>
    if u.g.status = .retired then s
    else (deviceWrite s u.l.ctx (trapAreaAddr u.c u.g.trapArea + 0x1400)
      (livePredicates u.g u.l.width)).getD s

/-- EVICT_SAVE_COMPLETE (R41): the team's save completes, with its cluster's: it is evicted, and leaves its core. -/
def execEvictSaveComplete (team : Nat) (s : State) : Out :=
  match s.teams.get? team with
  | none => .refused .notEnabled
  | some t =>
    match s.launches.get? t.launch with
    | none => .refused .notEnabled
    | some l =>
      let tids := clusterMembers s t.launch l (clusterOf l t)
      if team ∉ tids ∨ tids.all (saveReady s) = false then .refused .notEnabled
      else
        let cores := (tids.filterMap fun tid => (s.teams.get? tid).map (·.core)).eraseDups
        let s1 := ((tids.filterMap s.teams.get?).flatMap (·.groups)).foldl saveGroup (cores.foldl cleanCore s)
        let s2 := { s1 with groups := s1.groups.mapVals fun gid g => if g.team ∈ tids then savedGroup s1 gid g else g }
        .next (cores.foldl releaseBanks (teamsTo s2 tids .evicted))

/-! ## The compactor (R343) -/

/-- R343: a team's blocks may be moved: its unretired groups are all blocked. -/
def movable (s : State) (t : Team) : Bool :=
  decide (t.status = .resident) && (t.groups.filterMap s.groups.get?).all fun g => decide (g.status = .blocked ∨ g.status = .retired)

/-- Blocks of given owners and sizes, the largest first, each at the lowest free place. -/
def packBlocks (n : Nat) : List (Nat × Nat) → List (Nat × Nat) → Option (List (Nat × (Nat × Nat)))
  | _, [] => some []
  | used, (owner, z) :: rest =>
    match allocBlock n used z with
    | none => none
    | some b => (packBlocks n (b :: used) rest).map ((owner, b) :: ·)

/-- The blocks of owners packed again beside the others. -/
def repack (n : Nat) (fixed : List (Nat × Nat)) (moved : List (Nat × List (Nat × Nat))) : Option (List (Nat × (Nat × Nat))) :=
  packBlocks n fixed (sortBy (fun a b => decide (b.2 ≤ a.2)) (moved.flatMap fun p => p.2.map fun b => (p.1, b.2)))

/-- The blocks of an owner. -/
def blocksOfOwner (xs : List (Nat × (Nat × Nat))) (k : Nat) : List (Nat × Nat) := (xs.filter fun x => decide (x.1 = k)).map Prod.snd

/-- R343: a tenant's part of a core with its movable blocks packed, together with those that a team of a launch needs: blocks of
powers of two packed by size leave room for those if there is any. -/
def compacted (s : State) (core tn banks : Nat) (l : Launch) : Option State :=
  let n := bankCount banks
  let ts := s.teams.filter fun p => decide (p.2.core = core) && (teamHolds s p.2 || teamHoldsMem s p.2) &&
    decide (tenantOf s p.2 = some tn)
  let mov := ts.filter fun p => movable s p.2
  let fixed := (ts.filter fun p => !movable s p.2).map Prod.snd
  let need := fun sizes : List Nat => (s.nextId, sizes.map fun z => (0, z))
  match repack (1024 * n) (regUsed s fixed) (need (regSizes l) :: mov.map fun p => (p.1, p.2.regBlocks)),
        repack (64 * n) (memUsed fixed) (need (memSizes l) :: mov.map fun p => (p.1, p.2.memBlocks)),
        repack (256 * n) (tileUsed s fixed) (need (tileSizes l) :: mov.map fun p => (p.1, p.2.tileBlocks)) with
  | some r, some m, some a =>
    some (mov.foldl (fun s p => s.modifyTeam p.1 fun t =>
      { t with regBlocks := blocksOfOwner r p.1, memBlocks := blocksOfOwner m p.1, tileBlocks := blocksOfOwner a p.1 }) s)
  | _, _, _ => none

/-- R343: the compacted core holds a team of what waits, and did not before. -/
def compactFor (s : State) (core : Nat) (c : Core) (w : Waiting) : Option State :=
  match s.launches.get? w.launch with
  | none => none
  | some l =>
    match launchTenant s l with
    | none => none
    | some (tn, t) =>
      match banksFor t (heldOn s core c) tn with
      | none => none
      | some b =>
        if (fitOn s l tn t l.groupCount core c).isSome then none
        else match compacted s core tn b l with
          | none => none
          | some s1 => if (fitOn s1 l tn t l.groupCount core c).isSome then some s1 else none

/-- COMPACTOR_MOVE (R343): the compactor moves blocks of wholly blocked teams until a team that waits fits. -/
def execCompactorMove (core : Nat) (s : State) : Out :=
  match s.cores.get? core with
  | none => .refused .notEnabled
  | some c =>
    match (waitingUnits s).findSome? (compactFor s core c) with
    | some s1 => .next s1
    | none => .refused .notEnabled

end Sys2Proof.Machine
end

