-- ==== Sys2Proof/Machine/Lanes.lean ====
section
/-!
DEFINITION. Values between lanes, index registers and FMT (spec/08 R232 to R234).
-/

namespace Sys2Proof.Machine

/-! ## shfl (R232) -/

/-- R232: the lane that lane l reads. -/
def shuffleLane (mode : ShuffleMode) (f : FormV) (u : Issuer) (l : Nat) : Nat :=
  shuffleSource mode (Nat.min (2 ^ (f.c.toNat % 8)) u.l.width) l (rd u f.b l).toNat

/-- R232, R435: the faults of a lane: B's first, since B names the source lane; then POISON of A there, D, and A there. -/
def shuffleFault (mode : ShuffleMode) (f : FormV) (u : Issuer) (l : Nat) : Option Raise :=
  let a := src fieldA f.a
  let b := src fieldB f.b
  let at_ := fun r : Raise => { r with lane := l }
  let from_ := shuffleLane mode f u l
  firstSome id
    [usePoison u l b, useFault u l b, (usePoison u from_ a).map at_, if f.nw then none else useFault u l (dst f.d),
     (useFault u from_ a).map at_]

/-- R232: shfl. -/
def shuffle (s : State) (mode : ShuffleMode) (f : FormV) : Out :=
  let k : LaneForm := ⟨f.tt, false, destUnless f.nw (dst f.d), [src fieldA f.a, src fieldB f.b], 1⟩
  checkedOp s f.tt k.uses noCheck (shuffleFault mode f) fun u =>
    runLanes s u k fun l => out32 (rd u f.a (shuffleLane mode f u l)).toNat

/-- R232: shfl.idx. -/
def execShflIdx (f : FormV) (s : State) : Out := shuffle s .idx f

/-- R232: shfl.up. -/
def execShflUp (f : FormV) (s : State) : Out := shuffle s .up f

/-- R232: shfl.down. -/
def execShflDown (f : FormV) (s : State) : Out := shuffle s .down f

/-- R232: shfl.xor. -/
def execShflXor (f : FormV) (s : State) : Out := shuffle s .xor f

/-! ## Index registers (R233) -/

/-- A lane's write of an index register. -/
def outIndex (k : BitVec 11) (x : Nat) : LaneOut := ⟨[], [], some (k.toNat % 8, BitVec.ofNat 16 x), 0⟩

/-- R233: xmov. -/
def execXmov (f : FormV) (s : State) : Out :=
  if f.c = 0 then
    vectorOp s ⟨f.tt, false, none, [src fieldA f.a], 0⟩ noCheck fun u l => outIndex f.d (rd u f.a l).toNat
  else
    vectorOp s ⟨f.tt, false, destUnless f.nw (dst f.d), [], 1⟩ noCheck fun u l =>
      out32 (u.g.xreg (f.a.toNat % 8) l).toNat

/-- R233: xadd. -/
def execXadd (f : FormV) (s : State) : Out :=
  vectorOp s ⟨f.tt, false, none, [src fieldB f.b], 0⟩ noCheck fun u l =>
    outIndex f.d ((u.g.xreg (f.a.toNat % 8) l).toNat + (rd u f.b l).toNat)

/-- R233: xadd, immediate. -/
def execXaddImm (f : FormI) (s : State) : Out :=
  vectorOp s ⟨f.tt, false, none, [], 0⟩ noCheck fun u l =>
    outIndex f.d ((u.g.xreg (f.a.toNat % 8) l).toNat + immediate 32 f.imm)

/-! ## FMT (R138, R234) -/

/-- R138: an unaccepted value. -/
def fmtRaise (w : Word) : Option Raise := if fmtAccepted w then none else some (.group .fmt 0x1 0)

/-- R234: setfmt. The check of R138 reads the operand, which is checked first. -/
def execSetfmt (f : FormV) (s : State) : Out :=
  withIssuer s fun u =>
    match scalarFault u [src fieldA f.a] with
    | some r => .next (takeTrap s u (trapInfo u r u.g.active (opSlots [src fieldA f.a]) false))
    | none =>
      match fmtRaise (rd u f.a 0) with
      | some r => .next (takeTrap s u (trapInfo u r u.g.active (opSlots [src fieldA f.a]) false))
      | none => .next (finish s u { u.g with fmt := rd u f.a 0 } voidEntry)

/-- R234: setfmt, immediate. -/
def execSetfmtImm (f : FormI) (s : State) : Out :=
  withIssuer s fun u =>
    match fmtRaise (f.imm.zeroExtend 32) with
    | some r => .next (trapPlain s u r)
    | none => .next (finish s u { u.g with fmt := f.imm.zeroExtend 32 } voidEntry)

/-- R234: getfmt. -/
def execGetfmt (f : FormV) (s : State) : Out :=
  vectorOp s ⟨f.tt, f.sc, destUnless f.nw (dst f.d), [], 1⟩ noCheck fun u _ => out32 u.g.fmt.toNat

end Sys2Proof.Machine
end

