-- ==== Sys2Proof/Machine/Handler.lean ====
section
/-!
DEFINITION. The handler instructions (spec/11 R324 to R329; spec/21 R442, R447; spec/24 R484, R485; spec/20 R417).
-/

namespace Sys2Proof.Machine

/-! ## Targets (R324) -/

/-- R434: subcodes of the PRIV class. -/
abbrev debugArgument : Nat := 0x2
abbrev targetArgument : Nat := 0x3
abbrev targetState : Nat := 0x4

/-- A PRIV fault. -/
def privFault (sub : Nat) : Raise := .group .priv sub 0

/-- R324: a group that a handler instruction reaches, with its number. -/
structure TargetGroup where
  gid : Nat
  u : Issuer

/-- R324: the named group's LEVEL, and the groups of the target. A team not yet dispatched or already retired, a g at or above G,
and every other breach, name none, at every LEVEL. -/
def targets (s : State) (u : Issuer) (v : Nat) : Option (Nat × List Nat) :=
  let hi := v / 2 ^ 32
  let level := field hi 9 8
  match u.l.handlerFor.bind s.groups.get? with
  | none => none
  | some served =>
    if field hi 31 10 ≠ 0 ∨ field hi 7 3 ≠ 0 ∨ level = 3 then none
    else
      match s.teams.vals.find? fun t => decide (t.launch = served.launch) && decide (t.index = v % 2 ^ 32) &&
          decide (t.status ≠ .retired ∧ t.status ≠ .restarting ∧ t.status ≠ .lost) with
      | none => none
      | some t =>
        match t.groups[field hi 2 0]? with
        | none => none
        | some gid => some (level, if level = 2 then contextOrder s u.l.ctx else if level = 1 then t.groups else [gid])

/-- R324, R435: a handler instruction: its privilege, its scalar operands, then its target. -/
def targetOp (s : State) (uses : List Use) (a : BitVec 11) (debug : Bool) (body : Issuer → Nat → List Nat → Out) : Out :=
  groupOp s uses (fun u => if debug then needsDebug u else none) fun u =>
    match targets s u (sval64 u a) with
    | none => .next (trapScalar s u (privFault targetArgument) uses)
    | some (level, gids) => body u level gids

/-- R324: whether a group is stopped: parked at a trap, halted, or at its serial point. -/
def stoppedGroup (s : State) (u : Issuer) : Bool :=
  match u.g.status with
  | .parked => true
  | .halted => groupSettled s u.gid u.g
  | .running | .blocked => decide (u.c.stage = .demoted) && groupSettled s u.gid u.g
  | _ => false

/-- R325, R327: the one stopped group that a LEVEL 0 target names. -/
def stoppedTarget (s : State) (level : Nat) (gids : List Nat) : Option Issuer :=
  match gids with
  | [gid] =>
    match issuerOf s gid with
    | some t => if level = 0 ∧ stoppedGroup s t = true then some t else none
    | none => none
  | _ => none

/-- R485: what the handler has done is there for its targets. -/
def handlerRelease (s : State) (u : Issuer) (gids : List Nat) : State :=
  gids.foldl (fun s gid =>
    match issuerOf s gid with
    | some t => dropCore s t.t.core
    | none => s) (cleanCore s u.t.core)

/-! ## tgtrd and tgtwr (R325) -/

/-- R325: a selector's KIND, INDEX and SUB. -/
def selKind (x : Nat) : Nat := field x 31 28
def selIndex (x : Nat) : Nat := field x 27 16
def selSub (x : Nat) : Nat := field x 15 0

/-- R325: the bounds of INDEX and SUB of a kind. -/
def selBounds (u : Issuer) (kind : Nat) : Nat × Nat :=
  let w := u.l.width
  let words := (w + 31) / 32
  match kind with
  | 0 => (u.l.regs, w)
  | 1 => (u.l.sregs, 1)
  | 2 => (8, words)
  | 3 => (8, w)
  | 4 => (1, 2)
  | 5 => (1, words)
  | 6 | 7 | 11 | 12 => (1, 1)
  | 8 => (4, w)
  | 9 => (8, 1)
  | 10 => (32, 7)
  | _ => (0, 0)

/-- R325: whether a selector names an item, and for a write one that is RW. -/
def selOk (u : Issuer) (write : Bool) (x : Nat) : Bool :=
  let (idx, sub) := selBounds u (selKind x)
  decide (selIndex x < idx) && decide (selSub x < sub) && !(write && decide (selKind x ∈ [5, 8, 9, 10, 11]))

/-- R59, R325: a predicate as the handler sees it. -/
def targetPred (g : Group) (k : Nat) : LaneMask :=
  match g.savedLive with
  | some saved => if keepsPredicate g saved k then g.q.read k 0 else 0
  | none => g.q.read k 0

/-- Lane word n of a mask. -/
def maskWord (m : LaneMask) (n : Nat) : Nat := m.toNat / 2 ^ (32 * n) % 2 ^ 32

/-- R325: an item of the stack entry counted from the top. -/
def stackItem (g : Group) (n sub : Nat) : Nat :=
  match g.stack[n]? with
  | none => if sub = 6 then 0xFFFFFFFF else 0
  | some e =>
    match sub with
    | 0 => e.target.toNat
    | 5 => e.fmt.toNat
    | 6 => if e.pending then 1 else 0
    | k => maskWord e.mask (k - 1)

/-- R294, R325: GANG as `gangset` writes it (log entry 44). -/
def gangWord (gang : Gang) : Nat :=
  gang.length * 2 ^ 18 + (upFrom 0 gang.length).foldl (fun x k => x + (gang[k]?).getD 0 * 2 ^ (3 * k)) 0

/-- R325: the value of an item. -/
def targetItem (t : Issuer) (x : Nat) : Nat :=
  let g := t.g
  let idx := selIndex x
  let sub := selSub x
  match selKind x with
  | 0 => (g.vreg idx sub).toNat
  | 1 => (g.sreg idx).toNat
  | 2 => maskWord (targetPred g idx) sub
  | 3 => (g.xreg idx sub).toNat
  | 4 => if sub = 0 then g.clause.toNat else g.index
  | 5 => maskWord g.active sub
  | 6 => g.fmt.toNat
  | 7 => g.fpstat.toNat
  | 8 =>
    match latchElem g idx sub with
    | some (_, v) => v.toNat
    | none => 2 ^ 63
  | 9 => g.counter idx
  | 10 => stackItem g idx sub
  | 11 => gangWord g.gang
  | _ => g.plive.toNat

/-- R325: tgtrd. -/
def execTgtrd (f : FormV) (s : State) : Out :=
  let uses := [dst64 f.d, src64 fieldA f.a, src fieldB f.b]
  targetOp s uses f.a false fun u level gids =>
    match stoppedTarget s level gids with
    | none => .next (trapScalar s u (privFault targetState) uses)
    | some t =>
      if selOk t false (sval u f.b) then
        .next (finish s u (setScalarPair u.g f.d (targetItem t (sval u f.b))) voidEntry)
      else .next (trapScalar s u (privFault targetArgument) uses)

/-- R59, R325: a predicate's lane word n set, from the value that the handler sees. The spec does not say what the other lane words
of a predicate become that is not live in the record: they are 0, and the whole register counts as written (log entry 90). -/
def writeTargetPred (g : Group) (w k n v : Nat) : Group :=
  let ones : LaneMask := BitVec.ofNat 128 (2 ^ 32 - 1) <<< (32 * n)
  let m := (targetPred g k &&& ~~~ones) ||| ((BitVec.ofNat 128 (v % 2 ^ 32) <<< (32 * n)) &&& allLanes w)
  { g with q := Table.write g.q k m 0, handlerWrote := k :: g.handlerWrote.filter fun j => decide (j ≠ k) }

/-- R113, R325, R442: a group's PC written: it leaves a wait, and the latches that the new index makes empty go. -/
def writeTargetPc (g : Group) (clause : Bool) (v : Nat) : Group :=
  let g1 := if clause then { g with clause := BitVec.ofNat 64 v } else { g with index := v }
  { g1 with header := none, entered := false, addrNext := true, wait := none
            status := if g.status = .blocked then .running else g.status
            counted := false
            latches := if clause then [] else g.latches.take v
            suppressed := if g1.clause = g.clause ∧ g1.index = g.index then g.suppressed else none }

/-- R325: an item written. -/
def writeItem (t : Issuer) (x v : Nat) : Group :=
  let g := t.g
  let idx := selIndex x
  let sub := selSub x
  match selKind x with
  | 0 => g.setV idx sub (BitVec.ofNat 32 v)
  | 1 => g.setS idx (BitVec.ofNat 32 v)
  | 2 => writeTargetPred g t.l.width idx sub v
  | 3 => g.setX idx sub (BitVec.ofNat 16 v)
  | 4 => writeTargetPc g (decide (sub = 0)) v
  | 6 => { g with fmt := BitVec.ofNat 32 v }
  | 7 => { g with fpstat := BitVec.ofNat 32 (v % 128) }
  | _ => { g with plive := BitVec.ofNat 8 v }

/-- R325: the fault of the value of a write. -/
def writeFault (x v : Nat) : Option Raise :=
  if selKind x = 4 ∧ selSub x = 1 ∧ 16 < v then some (privFault targetArgument)
  else if selKind x = 6 then fmtRaise (BitVec.ofNat 32 v)
  else none

/-- R325, R485: tgtwr. -/
def execTgtwr (f : FormV) (s : State) : Out :=
  let uses := [src64 fieldA f.a, src fieldB f.b, src64 fieldC f.c]
  targetOp s uses f.a false fun u level gids =>
    match stoppedTarget s level gids with
    | none => .next (trapScalar s u (privFault targetState) uses)
    | some t =>
      let x := sval u f.b
      let v := sval64 u f.c
      if selOk t true x = false then .next (trapScalar s u (privFault targetArgument) uses)
      else match writeFault x v with
        | some r => .next (trapScalar s u r uses)
        | none =>
          if !groupPerformed s u.gid then .next s
          else
            let s1 := (handlerRelease s u gids).setGroup t.gid (writeItem t x v)
            .next (settle (finish s1 u u.g voidEntry))

/-! ## tgtres (R326, R382, R442) -/

/-- R441: the trap of a group is served. -/
def serve (s : State) (ctx gid : Nat) : State :=
  { s with launches := s.launches.mapVals fun _ l => if l.handlerFor = some gid then { l with served := true } else l
           contexts := s.contexts.update ctx fun c => { c with trapQueue := c.trapQueue.filter fun x => decide (x ≠ gid) } }

/-- R113: NCOUNT of the clause where a group stands, or 16 where no header can be read. -/
def standingNcount (s : State) (t : Issuer) : Nat :=
  match peekCode s t t.g.clause.toNat t.g.clause.toNat with
  | .word h _ => if (headerFault h).isNone then hdrNcount h else 16
  | _ => 16

/-- R326, R327: a stopped group goes on: one halted at a blocking point tests its condition again, unless it is skipped. -/
def resumeTarget (s : State) (skip : Bool) (gid : Nat) : State :=
  match issuerOf s gid with
  | none => s
  | some t =>
    if t.g.status = .halted ∧ t.g.wait.isSome = true ∧ skip = false then
      s.setGroup gid (applyLiveness { t.g with status := .blocked, addrNext := true })
    else if t.g.status = .halted ∨ t.g.status = .parked then
      (serve s t.l.ctx gid).setGroup gid (resumeGroup t.g skip (standingNcount s t))
    else if t.g.haltAsked then s.setGroup gid { t.g with haltAsked := false }
    else s

/-- Whether `tgtres` resumes a group. -/
def resumable (s : State) (gid : Nat) : Bool :=
  (s.groups.get? gid).any fun g => decide (g.status = .halted) || decide (g.status = .parked)

/-- R326: a current PC that `tgtres` refuses. -/
def atHeader (s : State) (gid : Nat) : Bool := resumable s gid && (s.groups.get? gid).any fun g => decide (g.index = 16)

/-- R383: a request for promotion: it takes effect at once unless a step is in progress. -/
def askPromotion (s : State) (ctx : Nat) : State :=
  match s.contexts.get? ctx with
  | none => s
  | some c =>
    if c.stage = .parallel then s
    else if c.stage = .demoted ∧ c.midStep = none ∧ s.force = none then promoteContext s ctx
    else s.setContext ctx { c with promote := true }

/-- R326, R382: tgtres. -/
def execTgtres (f : FormV) (s : State) : Out :=
  let uses := [src64 fieldA f.a, src fieldB f.b]
  targetOp s uses f.a false fun u level gids =>
    let b := sval u f.b
    let state := level = 0 ∧ (stoppedTarget s level gids).isNone = true ∨ gids.any (atHeader s) = true
    if 1 < b then .next (trapScalar s u (privFault targetArgument) uses)
    else if state then .next (trapScalar s u (privFault targetState) uses)
    else if !groupPerformed s u.gid then .next s
    else
      let s1 := gids.foldl (fun s gid => resumeTarget s (decide (level = 0) && decide (b = 1)) gid) (handlerRelease s u gids)
      let s2 := if level = 2 then askPromotion s1 u.l.ctx else s1
      .next (settle (finish s2 u u.g voidEntry))

/-! ## tgtkill (R326) -/

/-- R326, R422, R423: the groups to be killed by slot, which is the order of their EXIT packets. -/
def killOrder (s : State) (gids : List Nat) : List Nat :=
  (sortBy (fun a b : Issuer => decide (a.g.slot ≤ b.g.slot)) (gids.filterMap (issuerOf s))).map (·.gid)

/-- R423: an EXIT packet of a group would stand behind one of the same tick and a higher slot. -/
def exitWaits (s : State) (gid : Nat) : Bool :=
  (issuerOf s gid).any fun t =>
    t.c.tracing && !t.isHandler && decide (t.g.status ≠ .retired) && outOfOrder s t.t.core t.l.ctx t.g.slot

/-- R326: tgtkill. -/
def execTgtkill (f : FormV) (s : State) : Out :=
  targetOp s [src64 fieldA f.a] f.a false fun u _ gids =>
    if gids.any (exitWaits s) then .next s
    else .next (finish (kill (gids.foldl (fun s gid => serve s u.l.ctx gid) s) (killOrder s gids) .handler) u u.g voidEntry)

/-! ## tgthalt (R327, R484) -/

/-- R302, R327: a held group one of whose partners cannot meet it is an orphan. -/
def resolveHeld (s : State) (gid op : Nat) : State :=
  match issuerOf s gid, (s.joints.get? op).bind (fun j => j.members.head?) with
  | some t, some m =>
    let gone := (t.t.groups.filterMap s.groups.get?).filter fun g =>
      decide (g.g ∈ m.gang) && decide (g.status = .blocked ∨ g.status = .retired ∨ g.status = .halted)
    match gone with
    | [] => s
    | g :: _ => orphanHeld s t.g.team g.g
  | _, _ => s

/-- R327, R484: the gate of a `tgthalt` falls on a group. `endPark` says that a trap's park ends. -/
def haltGroup (s : State) (endPark : Bool) (gid : Nat) : State :=
  match issuerOf s gid with
  | none => s
  | some t =>
    let g := t.g
    match g.status with
    | .heldMinimum => (takeBackMinimum s gid).modifyGroup gid haltNow
    | .heldRendezvous op => resolveHeld (s.setGroup gid (haltStanding s gid g)) gid op
    | .parked => if endPark then (serve s t.l.ctx gid).setGroup gid { g with status := .halted, trap := none } else s
    | _ => s.setGroup gid (haltStanding s gid g)

/-- R327: whether a group of the target is stopped or parked at a trap. -/
def haltDone (s : State) (gid : Nat) : Bool :=
  match issuerOf s gid with
  | none => true
  | some t =>
    match t.g.status with
    | .retired | .parked => true
    | .halted => groupSettled s gid t.g
    | _ => false

/-- R327: tgthalt. It waits in place; a group that traps before it is stopped stays parked. -/
def execTgthalt (f : FormV) (s : State) : Out :=
  targetOp s [src64 fieldA f.a] f.a true fun u level gids =>
    let endPark := level = 0 ∧ u.g.wait ≠ some .halting
    let s1 := settle (gids.foldl (fun s gid => haltGroup s (decide endPark) gid) s)
    if gids.all (haltDone s1) then .next (finish s1 u u.g voidEntry)
    else .next (s1.setGroup u.gid { u.g with wait := some .halting })

/-! ## tgtstep and tgtcalm (R327, R376) -/

/-- Whether a step of a group has to wait: a walk of its own, or another step of its context, is in progress. -/
def stepBusy (s : State) (t : Issuer) : Bool :=
  s.walks.any (fun p => decide (p.2.group = some t.gid)) || t.c.midStep.isSome || s.force.isSome

/-- R327, R485: tgtstep. The step is taken next; it completes the instruction. -/
def execTgtstep (f : FormV) (s : State) : Out :=
  let uses := [src64 fieldA f.a]
  targetOp s uses f.a true fun u level gids =>
    if level ≠ 0 then .next (trapScalar s u (privFault targetArgument) uses)
    else if u.c.midStep.any (fun m => decide (m.handler = some u.gid)) then .next s
    else match stoppedTarget s level gids with
      | none => .next (trapScalar s u (privFault targetState) uses)
      | some t =>
        if !groupPerformed s u.gid || stepBusy s t then .next s
        else .next { handlerRelease s u gids with force := some ⟨t.gid, some u.gid, t.g.status, t.g.ic, t.g.wait.isSome⟩ }

/-- R327, R369: tgtcalm. It waits in place, as a request once made, until the serial point, even one at which a promotion takes
effect (R384). -/
def execTgtcalm (f : FormV) (s : State) : Out :=
  targetOp s [src64 fieldA f.a] f.a true fun u _ _ =>
    let asked := u.g.wait = some .calming
    if u.c.stage = .demoted ∧ u.c.promote = false ∨ asked ∧ u.c.stage ≠ .demoting ∧ u.c.demoteNext = false then
      .next (finish s u { u.g with wait := none } voidEntry)
    else if asked then .next s
    else .next (settle ((beginDemotion s u.l.ctx).setGroup u.gid { u.g with wait := some .calming }))

/-! ## bpset and wpset (R328, R329, R417) -/

/-- R417: another context of the tenant holds an enabled breakpoint or watchpoint. -/
def comparatorsTaken (s : State) (u : Issuer) : Bool :=
  s.contexts.any fun p => decide (p.1 ≠ u.l.ctx) && decide (p.2.tenant = u.c.tenant) &&
    (p.2.breakpoints.vals.any (fun b => b.enabled) || p.2.watchpoints.vals.any fun w => w.enabled)

/-- R328: bpset. -/
def execBpset (f : FormV) (s : State) : Out :=
  let uses := [src fieldA f.a, src64 fieldB f.b]
  groupOp s uses needsDebug fun u =>
    let a := sval u f.a
    let addr := sval64 u f.b
    let bad := field a 31 21 ≠ 0 ∨ field a 15 10 ≠ 0 ∨ field a 7 2 ≠ 0 ∨ 16 < field a 20 16 ∨ addr % 8 ≠ 0 ∨
      (bitOf a 8 && comparatorsTaken s u) = true
    if bad then .next (trapScalar s u (privFault debugArgument) uses)
    else
      let b : CodeBp := ⟨bitOf a 8, bitOf a 9, field a 20 16, BitVec.ofNat 64 addr⟩
      .next (finish (s.modifyContext u.l.ctx fun c => { c with breakpoints := c.breakpoints.insert (a % 4) b }) u u.g voidEntry)

/-- R329: wpset. -/
def execWpset (f : FormV) (s : State) : Out :=
  let uses := [src fieldA f.a, src64 fieldB f.b, src fieldC f.c]
  groupOp s uses needsDebug fun u =>
    let a := sval u f.a
    let n := sval u f.c
    let kind := field a 10 9
    let bad := field a 31 14 ≠ 0 ∨ field a 11 11 ≠ 0 ∨ field a 7 2 ≠ 0 ∨ 1 < field a 13 12 ∨ (kind = 0 ∧ bitOf a 8 = true) ∨
      n = 0 ∨ 2 ^ 31 < n ∨ (bitOf a 8 && comparatorsTaken s u) = true
    if bad then .next (trapScalar s u (privFault debugArgument) uses)
    else
      let w : Watchpoint := ⟨bitOf a 8, decide (kind = 1 ∨ kind = 3), decide (2 ≤ kind), decide (field a 13 12 = 1), sval64 u f.b, n⟩
      .next (finish (s.modifyContext u.l.ctx fun c => { c with watchpoints := c.watchpoints.insert (a % 4) w }) u u.g voidEntry)

end Sys2Proof.Machine
end

