-- ==== Sys2Proof/Machine/Launches.lean ====
section
/-!
DEFINITION. From a launch packet to an accepted launch, and the end of a launch (spec/12 R331 to R339; spec/23 R466, R469).
-/

namespace Sys2Proof.Machine

/-! ## The completion record (R334) -/

/-- R334: the 256 bits of a completion record. -/
def completionRecord (lid status rsn flags team start stop : Nat) : Nat :=
  lid + status * 2 ^ 32 + flags * 2 ^ 40 + rsn * 2 ^ 48 + team % 2 ^ 32 * 2 ^ 64 + start * 2 ^ 128 + stop * 2 ^ 192

/-- R199: a write through a context's tables that is an external write. -/
def externalMarks (s : State) (ctx : Nat) (ps : List (Nat × Nat)) : State :=
  ps.foldl (fun s p =>
    match deviceLoc s ctx p.1 kindWrite with
    | .ok (.phys loc _ _) => externalWrite s loc p.2
    | _ => s) s

/-- R334: a record written at DONE, as one release at system scope. What cannot be written is lost (log entry 10). -/
def writeRecord (s : State) (ctx done r : Nat) : State :=
  if done = 0 then s else
  match deviceWrite s ctx done (leBytes 32 r) with
  | some s1 => settle (externalMarks s1 ctx (pieces done 32))
  | none => s

/-! ## The checks (R337) -/

/-- R337 check 1. -/
def packetOk (p : BitVec 512) (tn : Nat) (t : Tenant) (fabric : Bool) : Bool :=
  let f := recField p
  decide (f 400 112 = 0) && decide (f 358 2 = 0) && decide (f 253 3 = 0) && decide (f 251 1 = 0) && decide (f 247 1 = 0) &&
  decide (f 352 6 = tn) && t.enabled &&
  (!fabric || (decide (t.fablo ≤ f 388 12) && decide (f 388 12 ≤ t.fabhi)))

/-- RFC 1982: a is serially greater than b among 32-bit numbers. -/
def serialAfter (a b : Nat) : Bool :=
  let d := (a + 2 ^ 32 - b % 2 ^ 32) % 2 ^ 32
  decide (1 ≤ d) && decide (d < 2 ^ 31)

/-- R337 check 4. -/
def lidOk (l : Launch) (last : Option Word) : Bool :=
  decide (l.lid ≠ 0) && last.all (fun x => serialAfter l.lid x.toNat) &&
  (decide (l.pre0 = 0) || serialAfter l.lid l.pre0) && (decide (l.pre1 = 0) || serialAfter l.lid l.pre1)

/-- R337 check 6: R26 and R27. -/
def gridOk (l : Launch) : Bool :=
  decide (1 ≤ l.cw) && decide (l.cw ≤ 8) && decide (1 ≤ l.ch) && decide (l.ch ≤ 6) && decide (l.clusterSize ≤ 12) &&
  decide (1 ≤ l.tdx) && decide (1 ≤ l.tdy) && decide (1 ≤ l.tdz) && decide (l.teamTotal ≤ 2 ^ 31) &&
  decide (l.teamTotal % l.clusterSize = 0)

/-- R337 check 9: the module with no team on the cores open to the tenant but those of others on shared cores. -/
def emptyFor (s : State) (tn : Nat) : State :=
  { s with teams := s.teams.filter fun p => !decide (tenantOf s p.2 = some tn) &&
      (s.cores.get? p.2.core).any fun c => decide (c.kind = .shared)
           cores := s.cores.mapVals fun _ c => { c with returnBy := none } }

/-- R337 check 9: FEAT is covered, and a COGRID grid fits at once. -/
def canHold (s : State) (l : Launch) (tn : Nat) : Bool :=
  canCover s l tn &&
  (!l.cogrid ||
    let (n, s1) := (emptyFor s tn).fresh
    (dispatchAll n (l.teamTotal / max 1 l.clusterSize) (s1.setLaunch n l)).isSome)

/-- What the checks of R337 come to: the launch's descriptor, a refusal with its RSN, or a wait. -/
inductive Verdict
  | accept (desc : BitVec 512)
  | refuse (rsn : Nat)
  | waits (s : State)
  | nowhere (loc : Nat)

/-- R337: the checks from the seventh on. -/
def judgeCode (s : State) (l : Launch) (tn : Nat) (t : Tenant) : Verdict :=
  match readDescriptor s l.ctx l.code with
  | .waits s1 => .waits s1
  | .nowhere loc => .nowhere loc
  | .refused => .refuse 7
  | .found d =>
    let l1 := { l with desc := d }
    if !codeOk t d then .refuse 7
    else if !teamFits t l1 then .refuse 8
    else if !canHold s l1 tn then .refuse 9
    else .accept d

/-- R337: DONE, for a live context: 32-byte aligned, and writable; 0 is none. -/
def doneAccess (s : State) (l : Launch) : DeviceAccess :=
  if l.doneAt = 0 then .ready else if l.doneAt % 32 ≠ 0 then .fatal else deviceReady s l.ctx kindWrite l.doneAt 32

/-- R337 check 2: the context is live, and the tenant's. -/
def contextLive (s : State) (l : Launch) (tn : Nat) : Bool :=
  (s.contexts.get? l.ctx).any fun c => decide (c.tenant = tn) && !c.destroying

/-- R337: the checks, in order. -/
def judge (s : State) (p : BitVec 512) (tn : Nat) (t : Tenant) (fabric : Bool) (last : Option Word) : Verdict :=
  let l := newLaunch p 0 0 0
  let live := contextLive s l tn
  let done := if live then doneAccess s l else .ready
  match done with
  | .waits s1 => .waits s1
  | .nowhere loc => .nowhere loc
  | _ =>
    let fatal := match done with
      | .fatal => true
      | _ => false
    if !packetOk p tn t fabric then .refuse 1
    else if !live then .refuse 2
    else if fatal then .refuse 3
    else if !lidOk l last then .refuse 4
    else if t.maxPrio < l.prio then .refuse 5
    else if !gridOk l then .refuse 6
    else judgeCode s l tn t

/-! ## The validator (R335, R336, R339) -/

/-- R339: a prerequisite names an id that its source has never had accepted. -/
def neverAccepted (s : State) (l : Launch) (pre : Nat) : Bool :=
  decide (pre ≠ 0) && s.launches.vals.all fun x =>
    !(decide (x.tenant = l.tenant) && decide (x.source = l.source) && decide (x.lid = pre) && x.handlerFor.isNone)

/-- R339, R488: the notices UNKPRE. -/
def noticePrereqs (s : State) (l : Launch) : State :=
  let s1 := if neverAccepted s l l.pre0 then contextNotice s l.ctx 0x20 0 l.pre0 0 l.lid else s
  if neverAccepted s l l.pre1 then contextNotice s1 l.ctx 0x20 1 l.pre1 0 l.lid else s1

/-- R337: a packet is accepted, as the next of its source. -/
def acceptLaunch (s : State) (p d : BitVec 512) (tn source : Nat) : State :=
  let (n, s1) := s.fresh
  let l := newLaunch p d source n
  let s2 := noticePrereqs s1 l
  (s2.setLaunch n l).modifyTenant tn fun t => { t with lastLid := t.lastLid.insert source (BitVec.ofNat 32 l.lid) }

/-- R337, R489: a packet is refused: the report, and a record where DONE can take one. `detail` names the packet. -/
def refuseLaunch (s : State) (p : BitVec 512) (tn rsn detail : Nat) : State :=
  let l := newLaunch p 0 0 0
  let live := contextLive s l tn
  let s1 := report s ⟨true, ueRefused, rsn, detail, 0, l.lid, 0xFFFF, if live then some l.ctx else none, some tn⟩
  match if live then doneAccess s l else .fatal with
  | .ready => writeRecord s1 l.ctx l.doneAt (completionRecord l.lid 4 rsn 0 0xFFFFFFFF 0 s.ticks.toNat)
  | _ => s1

/-- The next packet is judged. `take` takes it from where it stands. -/
def serveLaunch (s : State) (p : BitVec 512) (tn : Nat) (t : Tenant) (fabric : Bool) (source detail : Nat)
    (take : State → State) : Out :=
  match judge s p tn t fabric (t.lastLid.get? source) with
  | .waits s1 => .next s1
  | .nowhere loc => .fault (.noSuchPhysicalAddress loc)
  | .refuse rsn => .next (take (refuseLaunch s p tn rsn detail))
  | .accept d => .next (take (acceptLaunch (touchPages s (newLaunch p 0 0 0).ctx kindRead (pieces (newLaunch p 0 0 0).code 64)) p d tn source))

/-- R469: a tenant is switched out: it holds bank groups, no core gives it issue, and it has no guaranteed or margin core. -/
def switchedOut (s : State) (tn : Nat) : Bool :=
  s.cores.any (fun p => ((heldOn s p.1 p.2).get? tn).isSome) && !s.cores.vals.any (fun c => decide (c.issuing = some tn)) &&
  !s.cores.vals.any (fun c => ownCore c tn)

/-- VALIDATE_PACKET (R335 to R337): the next packet of a tenant's window, or of its fabric queue. -/
def execValidatePacket (tenant : Nat) (fabric : Bool) (s : State) : Out :=
  match s.tenants.get? tenant with
  | none => .refused .notEnabled
  | some t =>
    if s.stopped then .refused .notEnabled
    else if fabric then
      match t.fabric with
      | [] => .refused .notEnabled
      | p :: _ =>
        let dev := recField p 388 12
        serveLaunch s p tenant t true (dev + 1) (2 ^ 32 + dev) fun s =>
          s.modifyTenant tenant fun t => { t with fabric := t.fabric.tail }
    else if t.tail = t.progress ∨ switchedOut s tenant = true then .refused .notEnabled
    else
      let p := BitVec.ofNat 512 (s.readNat (hostBase + t.wbase + 64 * (t.progress.toNat % 2 ^ t.wlog2)) 64)
      serveLaunch s p tenant t false 0 t.progress.toNat fun s =>
        s.modifyTenant tenant fun t => { t with progress := t.progress + 1 }

/-! ## The end of a launch (R334, R466) -/

/-- R364, R472: the buffers of the launch's teams have drained. -/
def drainedAll (s : State) (lid : Nat) (l : Launch) : Bool :=
  !l.det || decide (l.teamTotal ≤ l.token) ||
  (l.unplaced.isSome && s.teams.vals.all fun t => decide (t.launch ≠ lid) || t.reds.isEmpty)

/-- R334: every team has retired, and everything that its groups issued has been performed. -/
def launchOver (s : State) (lid : Nat) (l : Launch) : Bool :=
  (l.unplaced.isSome || decide (l.teamTotal ≤ l.nextTeam)) && l.restarts.isEmpty &&
  (s.teams.vals.all fun t => decide (t.launch ≠ lid) || (decide (t.status = .retired) && !t.groups.any (groupBusy s))) &&
  drainedAll s lid l

/-- R466: STATUS, and the team that gave it. -/
def launchStatus (l : Launch) : Nat × Option Nat :=
  match l.unplaced, l.revoked, l.faulted, l.killed with
  | some t, _, _, _ => (5, some t)
  | none, some t, _, _ => (3, some t)
  | none, none, some t, _ => (1, some t)
  | none, none, none, some t => (2, some t)
  | none, none, none, none => (0, l.nondet)

/-- R334: the completion record of a launch; `cut` says that the launch has been ended from outside (R477, R481). -/
def launchRecord (l : Launch) (cut : Bool) (now : Nat) : Nat :=
  let (st, team) := if cut && decide ((launchStatus l).1 = 0) then (2, none) else launchStatus l
  completionRecord l.lid st 0 ((if l.nondet.isSome then 1 else 0) + if l.debt then 2 else 0) (team.getD 0xFFFFFFFF) l.start now

/-- R334, R280: the record of a launch, and its credit. -/
def concludeLaunch (s : State) (l : Launch) (cut : Bool) : State :=
  let s1 := writeRecord (cleanContext s l.ctx) l.ctx l.doneAt (launchRecord l cut s.ticks.toNat)
  if l.darv then creditEndpoint s1 l.ctx l.dep l.dsrc 32 none else s1

/-- The teams and groups of a launch that has ended. -/
def forgetLaunch (s : State) (lid : Nat) : State :=
  let cores := ((s.teams.vals.filter fun t => decide (t.launch = lid)).map (·.core)).eraseDups
  cores.foldl releaseBanks
    { s with teams := s.teams.filter (fun p => decide (p.2.launch ≠ lid))
             groups := s.groups.filter fun p => decide (p.2.launch ≠ lid) }

/-- LAUNCH_END (R334): the completion record is written, and credited if it is to be. It waits for the page of DONE. -/
def execLaunchEnd (launch : Nat) (s : State) : Out :=
  match s.launches.get? launch with
  | none => .refused .notEnabled
  | some l =>
    if l.ended ∨ launchOver s launch l = false then .refused .notEnabled
    else
      match doneAccess s l with
      | .waits s1 => .next s1
      | .nowhere loc => .fault (.noSuchPhysicalAddress loc)
      | _ =>
        let s1 := concludeLaunch s l false
        .next (settle (forgetLaunch (s1.modifyLaunch launch fun l => { l with ended := true }) launch))

end Sys2Proof.Machine
end

