-- ==== Sys2Proof/Machine/Schedule.lean ====
section
/-!
DEFINITION. Issue in a quadrant (spec/12 R344; spec/02 R44): the choice of a clause.
-/

namespace Sys2Proof.Machine

/-- Whether a group stands in a quadrant of a core: its team is resident there and it has not retired. -/
def inQuadrant (s : State) (core quad : Nat) (g : Group) : Bool :=
  decide (g.status ≠ .retired) && decide (quadOf g.slot = quad) &&
  match s.teams.get? g.team with
  | some t => decide (t.core = core) && decide (t.status = .resident ∨ t.status = .evicting)
  | none => false

/-- The groups of a quadrant. -/
def quadrantGroups (s : State) (core quad : Nat) : List Nat :=
  (s.groups.filter fun p => inQuadrant s core quad p.2).map Prod.fst

/-- R344, R110, R360: a clause is in progress in the quadrant: its group may go on, or holds its place for
the minimum. -/
def quadrantBusy (s : State) (gids : List Nat) : Bool :=
  gids.any fun gid =>
    match issuerOf s gid with
    | none => false
    | some u => u.g.header.isSome && (issueOpen s u || decide (u.g.status = .heldMinimum))

/-- R37, R344: the groups that may begin a clause: running, open to issue, their next clause eligible. -/
def readyGroups (s : State) (gids : List Nat) : List Issuer :=
  (gids.filterMap (issuerOf s)).filter fun u => issueOpen s u && u.g.header.isNone && clauseEligible s u && !traceWaits s u

/-- R344: a comes before b: by age alone under rule 1, else by priority and age; then by slot. -/
def issueBefore (byAge : Bool) (a b : Issuer) : Bool :=
  if !byAge && decide (a.l.prio ≠ b.l.prio) then decide (b.l.prio < a.l.prio)
  else if a.g.age ≠ b.g.age then decide (b.g.age < a.g.age)
  else decide (a.g.slot ≤ b.g.slot)

/-- R214: a group at a `yield` lets another ready group begin a clause first, if there is one. -/
def afterYields (ready : List Issuer) : List Issuer :=
  let others := ready.filter fun u => !u.g.owes
  if others.isEmpty then ready else others

/-- R344: the quadrant's choice among its ready groups; `n` is the number of resident groups. -/
def chooseGroup (n : Nat) (ready : List Issuer) : Option Issuer :=
  (sortBy (issueBefore (ready.any fun u => decide (3 * n ≤ u.g.age))) ready).head?

/-- R344, R214: the quadrant has begun a clause: every other group there is one clause older, and no `yield` before it binds
any longer. -/
def agedBy (s : State) (gids : List Nat) (chosen : Nat) : State :=
  gids.foldl (fun s gid => s.modifyGroup gid fun g => { g with age := if gid = chosen then g.age else g.age + 1, owes := false }) s

/-- CLAUSE_ISSUE (R344): a quadrant with no clause in progress begins an eligible clause of a ready group. -/
def execClauseIssue (core quad : Nat) (s : State) : Out :=
  let gids := quadrantGroups s core quad
  if quadrantBusy s gids then .refused .notEnabled else
  match chooseGroup gids.length (afterYields (readyGroups s gids)) with
  | none => .refused .notEnabled
  | some u =>
    match processHeader s u with
    | .stop o => o
    | .go s1 => .next (if u.g.entered then s1 else agedBy s1 gids u.gid)

end Sys2Proof.Machine
end

