-- ==== Sys2Proof/Machine/Slices.lean ====
section
/-!
DEFINITION. Tenants on a core (spec/12 R346, R350 to R353; spec/23 R467, R470, R471): slices, debt, and the revocation of lent
cores.
-/

namespace Sys2Proof.Machine

/-! ## Slices (R346, R350, R467) -/

/-- R338: a tenant's slice in ticks of 1 ns. -/
def sliceTicks (s : State) (tn : Nat) : Nat :=
  match s.tenants.get? tn with
  | some t => 1000 * t.slice
  | none => 0

/-- R346: a group of a tenant is ready on a core, but for who holds issue. -/
def readyOn (s : State) (core tn : Nat) (p : Nat × Group) : Bool :=
  decide (p.2.status = .running) &&
  match issuerOf s p.1 with
  | none => false
  | some u => decide (u.t.core = core) && decide (u.t.status = .resident) && decide (u.c.tenant = tn) && !gateHolds s u &&
      (u.g.header.isSome || clauseEligible s u)

/-- R346: a tenant has a ready group on a core. -/
def anyReady (s : State) (core tn : Nat) : Bool := s.groups.any (readyOn s core tn)

/-- R346: the tenants that hold bank groups after one, in rotation. -/
def rotation (held : Table Nat) (tn : Nat) : List Nat := held.keys.filter (fun k => decide (tn < k)) ++ held.keys.filter fun k => decide (k ≤ tn)

/-- R467: debts that reach a whole slice skip it. `fuel` bounds the turns of the rotation. The answer is the tenant that takes
issue, with its debt, and the debts that are left. -/
def takeSlice (s : State) : Nat → List Nat → Table Nat → Option (Nat × Nat × Table Nat)
  | 0, _, _ => none
  | _ + 1, [], _ => none
  | fuel + 1, tn :: t, debts =>
    let d := debts.read tn 0
    if sliceTicks s tn ≤ d ∧ 0 < sliceTicks s tn then
      takeSlice s fuel (t ++ [tn]) (Table.write debts tn (d - sliceTicks s tn) 0)
    else some (tn, d, debts.erase tn)

/-- R350: entries of a tenant that run on when its slice on a core ends. -/
def markOverrun (s : State) (core tn : Nat) : State :=
  { s with entries := s.entries.mapVals fun _ e =>
      if e.core = core ∧ e.tenant = tn ∧ e.started = true ∧ e.engine < 2 ∧ e.overrun = none
      then { e with overrun := some s.ticks.toNat } else e }

/-- R350: an entry that runs on past its tenant's slice on a core. -/
def overruns (core : Nat) (e : Entry) : Bool := decide (e.core = core) && e.overrun.isSome

/-- R350: the debts of a core's tenants with what their entries that still run have run beyond a slice's end so far. -/
def runningDebts (s : State) (core : Nat) (debts : Table Nat) : Table Nat :=
  (s.entries.vals.filter (overruns core)).foldl (fun t e =>
    t.insert e.tenant (t.read e.tenant 0 + (s.ticks.toNat - e.overrun.getD 0))) debts

/-- R350: what those entries have run so far has been charged; they run on in the slice of the tenant that takes issue. -/
def chargedEntries (s : State) (core next : Nat) : State :=
  { s with entries := s.entries.mapVals fun _ e =>
      if overruns core e then { e with overrun := if e.tenant = next then none else some s.ticks.toNat } else e }

/-- R345: the slices throughout which each team of a tenant on a core has been wholly blocked: none of its groups was ready at
their start, has woken in them or is ready at their end. A group at a `yield` is ready (R214). -/
def countBlocked (s : State) (core tn : Nat) : State :=
  { s with teams := s.teams.mapVals fun _ t =>
      if t.core = core ∧ t.status = .resident ∧ tenantOf s t = some tn then
        let blocked := (t.groups.filterMap s.groups.get?).all fun g => decide (g.status ≠ .running) && atBlockingPoint g
        { t with blockedSlices := if blocked && !t.woken then t.blockedSlices + 1 else 0, woken := !blocked }
      else t }

/-- R346: a slice of a core has run its length. A debt has been taken off its start. -/
def sliceOver (s : State) (c : Core) (tn : Nat) : Bool := decide (c.sliceStart + sliceTicks s tn ≤ s.ticks.toNat)

/-- SLICE_END (R346, R467): the slice of the tenant that holds issue ends, at its length, or where another tenant waits and it
has no ready group. A tenant alone on its core is not gated. -/
def execSliceEnd (core : Nat) (s : State) : Out :=
  match s.cores.get? core with
  | none => .refused .notEnabled
  | some c =>
    let held := heldOn s core c
    match held.keys, c.issuing with
    | [], none => .refused .notEnabled
    | [], some _ => .next (s.setCore core { c with issuing := none })
    | tn :: _, none => .next (s.setCore core { c with issuing := some tn, sliceStart := s.ticks.toNat })
    | _ :: _, some tn =>
      let alone := held.keys.all fun k => decide (k = tn)
      if alone then
        if sliceOver s c tn then .next ((countBlocked s core tn).modifyCore core fun c => { c with sliceStart := s.ticks.toNat })
        else .refused .notEnabled
      else if (held.get? tn).isSome && !sliceOver s c tn && anyReady s core tn then .refused .notEnabled
      else
        let s1 := countBlocked (markOverrun s core tn) core tn
        match takeSlice s (64 * 65536) (rotation held tn) (runningDebts s1 core c.debts) with
        | none => .refused .notEnabled
        | some (next, debt, debts) =>
          .next ((chargedEntries s1 core next).modifyCore core fun c =>
            { c with issuing := some next, sliceStart := s.ticks.toNat - debt, debts := debts })

/-! ## Revocation (R352, R353, R470, R471) -/

/-- R353: the teams of borrowers on a core. -/
def borrowed (s : State) (core owner : Nat) : List Nat :=
  (s.teams.filter fun p => decide (p.2.core = core) && decide (p.2.status = .resident ∨ p.2.status = .evicting) &&
    decide (tenantOf s p.2 ≠ some owner)).map Prod.fst

/-- R352, R470: a cluster may be flushed and restarted. -/
def restartable (s : State) (l : Launch) (tids : List Nat) : Bool :=
  l.idem && !l.cogrid && tids.all fun tid => (s.teams.get? tid).any fun t => !t.pinned && !t.drained

/-- R354: a team with a group held at a rendezvous waits for it. -/
def rendezvousHeld (s : State) (tids : List Nat) : Bool :=
  tids.any fun tid => !(heldIn s tid).isEmpty

/-- R471: the engine entries of groups are aborted at once, and raise no fault. -/
def abortEntriesOf (s : State) (gids : List Nat) : State :=
  (s.entries.filter fun p => decide (p.2.group ∈ gids)).foldl (fun s p =>
    match s.entries.get? p.1 with
    | none => s
    | some e => { endEntry s p.1 e 0 with credits := s.credits.erase p.1 }) s

/-- R353: what groups have in flight goes with them: nothing more of it performs. -/
def discardWork (s : State) (gids : List Nat) : State :=
  let s1 := abortEntriesOf s gids
  { s1 with accesses := s1.accesses.filter fun p => decide (p.2.group ∉ gids)
            deferred := s1.deferred.filter fun p => decide (p.2.group ∉ gids)
            joints := s1.joints.filter fun p => !p.2.members.any fun m => decide (m.group ∈ gids)
            walks := s1.walks.filter fun p => !p.2.group.any fun g => decide (g ∈ gids) }

/-- R353, R470: a cluster is flushed: its groups are killed, what has not performed is discarded, and it waits to be
restarted. -/
def flushCluster (s : State) (lid k : Nat) (tids : List Nat) : State :=
  let ts := tids.filterMap s.teams.get?
  let gids := ts.flatMap (·.groups)
  let s1 := teamsTo (discardWork s gids) tids .restarting
  let s2 := killAll s1 gids .flushed
  let s3 := tids.foldl (fun s tid => s.modifyTeam tid fun t => { t with sets := [], reds := [], hzs := [] }) s2
  let s4 := s3.modifyLaunch lid fun l =>
    { l with restarts := l.restarts ++ ts.map (·.index), clusterPhases := l.clusterPhases.erase k
             clusterMax := l.clusterMax.filter fun p => decide (p.1 / 2 ^ 32 ≠ k) }
  ((ts.map (·.core)).eraseDups).foldl releaseBanks s4

/-- R353: the clusters of borrowers on a core that may be flushed now: launch, number and teams. -/
def flushable (s : State) (core owner : Nat) : List (Nat × Nat × List Nat) :=
  ((borrowed s core owner).filterMap fun tid =>
    match s.teams.get? tid with
    | none => none
    | some t =>
      match s.launches.get? t.launch with
      | none => none
      | some l =>
        let k := clusterOf l t
        let tids := clusterMembers s t.launch l k
        if restartable s l tids && !rendezvousHeld s tids then some (t.launch, k, tids) else none).eraseDups

/-- R353: the restartable clusters on a core are flushed. -/
def flushAll (s : State) (core owner : Nat) : State :=
  settle ((flushable s core owner).foldl (fun s p => flushCluster s p.1 p.2.1 p.2.2) s)

/-- R353: the module with the borrowers gone from every margin core of a lender. -/
def withoutBorrowers (s : State) (owner : Nat) : State :=
  let lent := (s.cores.filter fun p => decide (p.2.kind = .margin) && decide (p.2.owner = owner)).map Prod.fst
  lent.foldl (fun s k => (teamsTo s (borrowed s k owner) .restarting).modifyCore k fun c => { c with returnBy := none }) s

/-- A placement from s to s1 has put a team of a launch on a core. -/
def putsOn (s s1 : State) (lid core : Nat) : Bool :=
  s1.teams.any fun p => decide (p.2.launch = lid) && decide (p.2.core = core) && decide (p.2.status = .resident) &&
    (s.teams.get? p.1).all fun t => decide (t.status ≠ .resident)

/-- R353: the lender has something to place that fits none of its other cores, and that, with the borrowers gone, would stand on
this one, alone or with others. -/
def lenderNeeds (s : State) (core owner : Nat) : Bool :=
  (waitingUnits s).any fun w => (s.launches.get? w.launch).any (fun l => decide (l.tenant = owner)) &&
    (placeUnit s w).isNone && (placeUnit (withoutBorrowers s owner) w).any fun s1 => putsOn s s1 w.launch core

/-- REVOCATION (R353, R471): a lender revokes a margin core that borrowers hold: restartable teams are flushed, and pinned ones
run on until the deadline, 200 µs later. -/
def execRevocation (core : Nat) (s : State) : Out :=
  match s.cores.get? core with
  | none => .refused .notEnabled
  | some c =>
    if c.kind ≠ .margin ∨ borrowed s core c.owner = [] then .refused .notEnabled
    else match c.returnBy with
      | some _ => if (flushable s core c.owner).isEmpty then .refused .notEnabled else .next (flushAll s core c.owner)
      | none =>
        if !lenderNeeds s core c.owner then .refused .notEnabled
        else .next (flushAll (s.setCore core { c with returnBy := some (s.ticks.toNat + 200000) }) core c.owner)

/-- R471, R489: a borrowed team is killed at the deadline. -/
def killBorrowed (s : State) (tid : Nat) : State :=
  match s.teams.get? tid with
  | none => s
  | some t =>
    match s.launches.get? t.launch with
    | none => s
    | some l =>
      let s1 := killAll (discardWork s t.groups) t.groups .revoked
      contextEvent s1 l.ctx ueRevoked 0 t.index 0 l.lid 0xFFFF

/-- R459, R471: the scrub of a core's bank groups may meet an uncorrectable error, which goes to the device ring. -/
def scrubCore (s : State) (core : Nat) : State :=
  if Config.scrubMeetsError s.turn then
    report s ⟨true, ueSram, 2, core % Config.coresPerDie + 64 * dieOf core, 0, 0, 0xFFFF, none, none⟩
  else s

/-- REVOCATION_DEADLINE (R471): borrowed teams still on the core are killed, and the core is scrubbed and returned; it may be
returned as soon as no borrower is left. -/
def execRevocationDeadline (core : Nat) (s : State) : Out :=
  match s.cores.get? core with
  | none => .refused .notEnabled
  | some c =>
    match c.returnBy with
    | none => .refused .notEnabled
    | some limit =>
      let left := borrowed s core c.owner
      if s.ticks.toNat < limit ∧ left ≠ [] then .refused .notEnabled
      else
        let s1 := scrubCore (settle (killUnserved (left.foldl killBorrowed s))) core
        .next (releaseBanks (s1.modifyCore core fun c => { c with returnBy := none }) core)

end Sys2Proof.Machine
end

