-- ==== Sys2Proof/Machine/Closing.lean ====
section
/-!
DEFINITION. How a context's work is ended from outside (spec/23 R477, R481): its groups, what they have in flight, and its
launches.
-/

namespace Sys2Proof.Machine

/-- The groups of a context, handlers' among them. -/
def contextGroups (s : State) (ctx : Nat) : List Nat :=
  (s.groups.filter fun p => (s.launches.get? p.2.launch).any fun l => decide (l.ctx = ctx)).map Prod.fst

/-- R481: accesses that wait for a peer are given up; a frozen one may perform again. -/
def releaseAccesses (s : State) (gids : List Nat) : State :=
  let gone := (s.accesses.filter fun p => decide (p.2.group ∈ gids) && p.2.awaitsPeer).map Prod.fst
  { s with
    accesses := Table.mapVals (s.accesses.filter fun p => decide (p.1 ∉ gone)) fun _ a =>
      if a.group ∈ gids then { a with frozen := false } else a
    sent := s.sent.filter fun p =>
      match p.2.what with
      | .lane a _ => decide (a ∉ gone)
      | _ => true }

/-- R481, steps 1 to 3: groups are killed, their engine entries aborted and what is deferred for them dropped. -/
def cutGroups (s : State) (gids : List Nat) : State :=
  let s1 := releaseAccesses (killAll s gids .outside) gids
  let s2 := abortEntriesOf s1 gids
  { s2 with deferred := s2.deferred.filter fun p => decide (p.2.group ∉ gids)
            joints := s2.joints.filter fun p => !p.2.members.any fun m => decide (m.group ∈ gids) }

/-- R173, R481: the walks of a context go, and V is cleared in its fault-buffer entries. -/
def dropWalks (s : State) (ctx : Nat) : State :=
  { s with walks := s.walks.filter fun p => decide (p.2.ctx ≠ ctx)
           faults := s.faults.mapVals fun _ e => if e.ctx = ctx then { e with valid := false } else e }

/-- R481, step 4: a launch that has not ended does so, with its record; its teams and groups go. -/
def cutLaunch (s : State) (lid : Nat) : State :=
  match s.launches.get? lid with
  | none => s
  | some l =>
    let s1 := if l.ended then s else concludeLaunch s l true
    forgetLaunch (s1.modifyLaunch lid fun l => { l with ended := true }) lid

/-- The launches of a context. -/
def contextLaunches (s : State) (ctx : Nat) : List Nat :=
  (s.launches.filter fun p => decide (p.2.ctx = ctx)).map Prod.fst

/-- Every launch of a context is ended. -/
def cutLaunches (s : State) (ctx : Nat) : State := (contextLaunches s ctx).foldl cutLaunch s

/-- Whether a group of a context still has an access in flight. -/
def contextBusy (s : State) (ctx : Nat) : Bool :=
  let gids := contextGroups s ctx
  s.accesses.any fun p => decide (p.2.group ∈ gids)

/-- The cores that hold a team of a context. -/
def contextCores (s : State) (ctx : Nat) : List Nat :=
  ((s.teams.vals.filter fun t => (s.launches.get? t.launch).any fun l => decide (l.ctx = ctx)).map (·.core)).eraseDups

/-- What the module holds for a context beside its launches: L1 lines, TLB entries, staged bytes, collectives, credits. -/
def forgetContext (s : State) (ctx : Nat) : State :=
  let s1 := dropContext s ctx
  { s1 with
    contexts := s1.contexts.erase ctx
    collectives := s1.collectives.filter fun p => decide (p.2.ctx ≠ ctx)
    credits := s1.credits.filter fun p => decide (p.2.ctx ≠ ctx)
    dieTlb := s1.dieTlb.mapVals fun _ t => t.filter fun e => decide (e.ctx ≠ ctx)
    cores := s1.cores.mapVals fun _ c =>
      { c with tlb := c.tlb.filter fun e => decide (e.ctx ≠ ctx)
               staging := c.staging.erase ctx } }

/-- R481: a context is destroyed, once nothing of it is in flight. -/
def closeContext (s : State) (ctx : Nat) (c : Context) : State :=
  let cores := contextCores s ctx
  let s1 := cores.foldl scrubCore (cutLaunches s ctx)
  let s2 := forgetContext s1 ctx
  settle { s2 with released := if c.binding = 0 then s2.released else (c.tenant, c.binding) :: s2.released }

end Sys2Proof.Machine
end

