-- ==== Sys2Proof/Machine/Crypto.lean ====
section
/-!
DEFINITION. Signatures and digests of the module (spec/01 R22): SHA-384, and ECDSA over P-384 (FIPS 180-4, FIPS 186-5 and
SP 800-186, which R22 names by the names of their algorithms; log entry 91).
-/

namespace Sys2Proof

/-! ## SHA-384 -/

namespace Sha

/-- The greatest r below 2^n with r^e at most x, its bits found from the top. -/
def rootFrom (e x : Nat) : Nat → Nat → Nat
  | 0, r => r
  | n + 1, r => rootFrom e x n (if (r + 2 ^ n) ^ e ≤ x then r + 2 ^ n else r)

/-- The primes up to the 80th. -/
def primes : List Nat := (upFrom 2 408).filter fun p => (upFrom 2 19).all fun d => decide (p ≤ d) || decide (p % d ≠ 0)

/-- The first 64 bits of the fractional parts of the cube roots of the first 80 primes. -/
def roundConstants : List Nat := primes.map fun p => rootFrom 3 (p * 2 ^ 192) 67 0 % 2 ^ 64

/-- The first 64 bits of the fractional parts of the square roots of the ninth to sixteenth primes. -/
def initial : List Nat := ((primes.drop 8).take 8).map fun p => rootFrom 2 (p * 2 ^ 128) 68 0 % 2 ^ 64

/-- A 64-bit word rotated right. -/
def rotr (x n : Nat) : Nat := x / 2 ^ n + x % 2 ^ n * 2 ^ (64 - n)

/-- Exclusive or of three words. -/
def xor3 (a b c : Nat) : Nat := Nat.xor (Nat.xor a b) c

/-- The schedule of a block: n more words after those so far, the newest first. -/
def expand : Nat → List Nat → List Nat
  | 0, w => w
  | n + 1, w =>
    let at_ := fun i : Nat => w.getD (i - 1) 0
    let s0 := xor3 (rotr (at_ 15) 1) (rotr (at_ 15) 8) (at_ 15 / 2 ^ 7)
    let s1 := xor3 (rotr (at_ 2) 19) (rotr (at_ 2) 61) (at_ 2 / 2 ^ 6)
    expand n ((s1 + at_ 7 + s0 + at_ 16) % 2 ^ 64 :: w)

/-- One round on the eight working words. -/
def round (v : List Nat) (kw : Nat) : List Nat :=
  match v with
  | [a, b, c, d, e, f, g, h] =>
    let ch := Nat.xor (Nat.land e f) (Nat.land (2 ^ 64 - 1 - e) g)
    let t1 := h + xor3 (rotr e 14) (rotr e 18) (rotr e 41) + ch + kw
    let t2 := xor3 (rotr a 28) (rotr a 34) (rotr a 39) + xor3 (Nat.land a b) (Nat.land a c) (Nat.land b c)
    [(t1 + t2) % 2 ^ 64, a, b, c, (d + t1) % 2 ^ 64, e, f, g]
  | _ => v

/-- A block of sixteen words enters the digest. -/
def compress (h block : List Nat) : List Nat :=
  let ws := (expand 64 block.reverse).reverse
  (h.zip ((roundConstants.zip ws).foldl (fun v p => round v (p.1 + p.2)) h)).map fun p => (p.1 + p.2) % 2 ^ 64

/-- n bytes of a number, the highest first. -/
def beBytes (n x : Nat) : List Byte := (leBytes n x).reverse

/-- The number that bytes stand for, the highest first. -/
def beNat (bs : List Byte) : Nat := leNat bs.reverse

/-- A message with its padding: a bit 1, zeros, and its length in bits. -/
def padded (msg : List Byte) : List Byte :=
  msg ++ 0x80#8 :: leBytes ((239 - msg.length % 128) % 128) 0 ++ beBytes 16 (8 * msg.length)

/-- The blocks of a padded message taken in, n of them. -/
def blocks : Nat → List Byte → List Nat → List Nat
  | 0, _, h => h
  | n + 1, bs, h => blocks n (bs.drop 128) (compress h ((upFrom 0 16).map fun i => beNat ((bs.drop (8 * i)).take 8)))

end Sha

/-- R22: the SHA-384 of bytes: 48 bytes. -/
def sha384 (msg : List Byte) : List Byte :=
  ((Sha.blocks ((Sha.padded msg).length / 128) (Sha.padded msg) Sha.initial).take 6).flatMap fun w => Sha.beBytes 8 w

/-! ## ECDSA over P-384 -/

namespace P384

/-- The field, the order of the base point, the coefficient b, and the base point. -/
abbrev p : Nat := 2 ^ 384 - 2 ^ 128 - 2 ^ 96 + 2 ^ 32 - 1
abbrev n : Nat := 0xffffffffffffffffffffffffffffffffffffffffffffffffc7634d81f4372ddf581a0db248b0a77aecec196accc52973
abbrev b : Nat := 0xb3312fa7e23ee7e4988e056be3f82d19181d9c6efe8141120314088f5013875ac656398d8a2ed19d2a85c8edd3ec2aef
abbrev gx : Nat := 0xaa87ca22be8b05378eb1c71ef320ad746e1d3b628ba79b9859f741e082542a385502f25dbf55296c3a545e3872760ab7
abbrev gy : Nat := 0x3617de4a96262c6f5d9e98bf9292dc29f8f41dbd289a147ce9da3113b5f0b8c00a60b1ce1d7e819d7a431d7c90ea0e5f

/-- x to the power e modulo m; fuel bounds the bits of e. -/
def power (m x : Nat) : Nat → Nat → Nat
  | 0, _ => 1
  | fuel + 1, e =>
    let h := power m (x * x % m) fuel (e / 2)
    if e % 2 = 1 then x * h % m else h

/-- The inverse modulo a prime of 384 bits. -/
def inverse (m x : Nat) : Nat := power m x 384 (m - 2)

/-- A point of the curve; none is the point at infinity. -/
abbrev Point := Option (Nat × Nat)

/-- Whether a point other than infinity lies on the curve. -/
def onCurve (q : Nat × Nat) : Bool :=
  decide (q.1 < p) && decide (q.2 < p) && decide ((q.2 * q.2 + 3 * q.1) % p = (q.1 * q.1 * q.1 + b) % p)

/-- The sum of two points. -/
def add : Point → Point → Point
  | none, q => q
  | q, none => q
  | some (x1, y1), some (x2, y2) =>
    if x1 = x2 ∧ (y1 + y2) % p = 0 then none else
    let l := if x1 = x2 then (3 * x1 * x1 + p - 3) * inverse p (2 * y1 % p) % p
      else (y2 + p - y1) * inverse p ((x2 + p - x1) % p) % p
    let x := (l * l + 2 * p - x1 - x2) % p
    some (x, (l * (x1 + p - x) + p - y1) % p)

/-- A multiple of a point; fuel bounds the bits of the factor. -/
def mul (q : Point) : Nat → Nat → Point
  | 0, _ => none
  | fuel + 1, k =>
    let h := mul (add q q) fuel (k / 2)
    if k % 2 = 1 then add q h else h

/-- A multiple of the base point. -/
def base (k : Nat) : Point := mul (some (gx, gy)) 384 k

/-- The signature (r, s) of a digest by a secret key, with k for its secret number. -/
def sign (d k z : Nat) : Nat × Nat :=
  let r := ((base k).map fun q => q.1 % n).getD 0
  (r, inverse n k * (z + r * d) % n)

/-- Whether (r, s) is a signature of a digest under a public key. -/
def verifies (key : Nat × Nat) (z r s : Nat) : Bool :=
  onCurve key && decide (1 ≤ r) && decide (r < n) && decide (1 ≤ s) && decide (s < n) &&
  (add (base (z * inverse n s % n)) (mul (some key) 384 (r * inverse n s % n))).any fun q => decide (q.1 % n = r)

end P384

/-- R22, R412: the signature of bytes by a secret key: r, then s, 48 bytes each, the highest first. -/
def ecdsaSign (d k : Nat) (bytes : List Byte) : List Byte :=
  let q := P384.sign d k (Sha.beNat (sha384 bytes))
  Sha.beBytes 48 q.1 ++ Sha.beBytes 48 q.2

/-- R22: whether 96 bytes are a signature of bytes under a public key. -/
def ecdsaVerifies (key : Nat × Nat) (bytes sig : List Byte) : Bool :=
  decide (sig.length = 96) &&
  P384.verifies key (Sha.beNat (sha384 bytes)) (Sha.beNat (sig.take 48)) (Sha.beNat (sig.drop 48))

/-- R413: whether an image verifies: its key is the one whose hash is fused in the module, and its signature is one by that
key. -/
def imageVerifies (image : List Byte) : Bool :=
  let key := Config.imageKey image
  decide (sha384 key = Config.keyHash) &&
  ecdsaVerifies (Sha.beNat (key.take 48), Sha.beNat (key.drop 48)) (Config.imageBody image) (Config.imageSignature image)

end Sys2Proof
end

