-- ==== Sys2Proof/Machine/Power.lean ====
section
/-!
DEFINITION. Failures that belong to no instruction (spec/01 R24; spec/19 R402, R413; spec/22 R459, R460, R463; spec/23 R477,
R478): the memory tier, the scrubber, heat, power and reset.
-/

namespace Sys2Proof.Machine

/-! ## Whose page a word is in -/

/-- R161, R157: whether the tables from one of a level on map a byte of local HBM. -/
def mapsByte (s : State) (loc : Nat) : Nat → Nat → Bool
  | 0, table => (upFrom 0 32).any fun i =>
    let e := s.readNat (table + 8 * i) 8
    pteP e && !pteInvalid s.mbase 0 e && decide (pteTier e = 0) && decide (pteFrame e ≤ loc) && decide (loc < pteFrame e + 2 ^ pageBits 0)
  | level + 1, table => (upFrom 0 512).any fun i =>
    let e := s.readNat (table + 8 * i) 8
    pteP e && !pteInvalid s.mbase (level + 1) e &&
    if isLeafAt (level + 1) e then
      decide (pteTier e = 0) && decide (pteFrame e ≤ loc) && decide (loc < pteFrame e + 2 ^ pageBits (level + 1))
    else mapsByte s loc level (pteFrame e)

/-- R460: the context that owns a byte of HBM: the lowest whose tables map it. -/
def ownerOf (s : State) (loc : Nat) : Option (Nat × Context) := s.contexts.find? fun p => mapsByte s loc 4 p.2.root

/-! ## The scrubber (R459, R460) -/

/-- R460, R489: an HBM event at a word, for the owner of its page. -/
def hbmEvent (s : State) (ue : Bool) (loc : Nat) : State :=
  let o := ownerOf s loc
  report s ⟨ue, 0, hbmSub s loc, 0, loc, 0, 0xFFFF, o.map Prod.fst, o.map fun p => p.2.tenant⟩

/-- R459: the metadata of HBM granule g is lost. -/
def loseEntry (s : State) (g sub : Nat) : State := loseMark s (ownerOf s (64 * g)) (64 * g) sub (.phys g)

/-- R459, R460: what is found in an HBM word. The carve-out's hold the entries of the granules below MBASE. -/
def scrubbed (s : State) (addr : Nat) (ue : Bool) : State :=
  if ue then
    let s1 := hbmEvent { s with memPoison := s.memPoison.insert (addr / 8) true } true addr
    let g := (addr - s.mbase) / 16
    if s.mbase ≤ addr ∧ 64 * g < s.mbase then loseEntry s1 g 1 else s1
  else hbmEvent s false addr

/-! ## ECC of the on-die SRAMs (R443, R459 to R461) -/

/-- The context of a team. -/
def teamOwner (s : State) (tid : Nat) : Option (Nat × Context) :=
  (s.teams.get? tid).bind fun t => (s.launches.get? t.launch).bind fun l => (s.contexts.get? l.ctx).map fun c => (l.ctx, c)

/-- The core of a team, and the context of its launch; none where there is no such team. -/
def teamPlace (s : State) (tid store : Nat) : Option (Nat × Nat × Option (Nat × Context)) :=
  (s.teams.get? tid).map fun t => (store, t.core, teamOwner s tid)

/-- R489: the store of a word of SRAM, its core and its owner; none where there is no such word. L2 words, and the metadata
there, carry the first core of the die of their channel (log entry 82). -/
def sramPlace (s : State) : SramWord → Option (Nat × Nat × Option (Nat × Context))
  | .l2 a _ => if a < s.hbmBytes then some (0, Config.coresPerDie * channelDie (hbmSub s a), ownerOf s a) else none
  | .l1 core a => ((s.cores.get? core).bind fun c => c.lines.get? (lineOf a)).map fun ln =>
      (1, core, (s.contexts.get? ln.ctx).map fun c => (ln.ctx, c))
  | .team t _ => teamPlace s t 2
  | .tile t _ => teamPlace s t 3
  | .vector g _ _ => (s.groups.get? g).bind fun x => teamPlace s x.team 4
  | .scalar g _ => (s.groups.get? g).bind fun x => teamPlace s x.team 5
  | .slot t k => ((s.teams.get? t).bind fun x => x.slots.get? k).bind fun _ => teamPlace s t 6
  | .metadata n => if 64 * n < s.mbase then some (0, Config.coresPerDie * channelDie (hbmSub s (64 * n)), ownerOf s (64 * n)) else none
  | .teamMetadata t _ => teamPlace s t 7

/-- R460, R489: an event of an on-die SRAM. -/
def sramEvent (s : State) (ue : Bool) (p : Nat × Nat × Option (Nat × Context)) : State :=
  report s ⟨ue, 1, p.1, p.2.1 % Config.coresPerDie + 64 * dieOf p.2.1, 0, 0, 0xFFFF, p.2.2.map Prod.fst,
    p.2.2.map fun o => o.2.tenant⟩

/-- R461: whether the word of a core's L1 at a location has a byte that is not yet written back. -/
def dirtyWord (s : State) (core a : Nat) : Bool :=
  ((s.cores.get? core).bind fun c => c.lines.get? (lineOf a)).any fun ln => (upFrom (a % 128 / 8 * 8) 8).any ln.dirty.getLsbD

/-- R443: the lanes that a group's next instruction is enabled in, as far as its word can be read. -/
def nextLanes (s : State) (u : Issuer) : List Nat :=
  match peekCode s u (u.g.clause.toNat + 8 * (u.g.index + 1)) u.g.clause.toNat with
  | .word w _ => u.enabledLanes (w.extractLsb' 46 8)
  | _ => u.activeLanes

/-- R443: a word of the vector file that cannot be corrected: both elements are marked. Where the instruction that reads it
has neither lane enabled, it proceeds, and the event has UESTAT bit 9. -/
def loseVector (s : State) (gid reg pair : Nat) : State :=
  match issuerOf s gid with
  | none => s
  | some u =>
    let s1 := s.modifyGroup gid fun g =>
      { g with vPoison := (g.vPoison.insert (128 * reg + 2 * pair) true).insert (128 * reg + 2 * pair + 1) true }
    if (nextLanes s u).any fun l => decide (l / 2 = pair) then s1
    else contextEvent s1 u.l.ctx uePoison 0 (reg + 65536 * pair) 0 u.l.lid u.g.agent.toNat

/-- R460, R461: a word of SRAM turns out uncorrectable. What a mark stands for is reported when it is met; what has none is
reported here. A clean line is fetched again. -/
def loseSram (s : State) (p : Nat × Nat × Option (Nat × Context)) : SramWord → State
  | .l2 a dirty => if dirty then { s with memPoison := s.memPoison.insert (a / 8) true } else sramEvent s false p
  | .l1 core a =>
    if dirtyWord s core a then
      let s1 := dropLine s core (lineOf a)
      { s1 with memPoison := s1.memPoison.insert (a / 8) true }
    else sramEvent (dropLine s core (lineOf a)) false p
  | .team t off => s.modifyTeam t fun x => { x with memPoison := x.memPoison.insert (off / 8) true }
  | .tile t k => s.modifyTeam t fun x => { x with tilePoison := x.tilePoison.insert k true }
  | .vector g r pair => loseVector (sramEvent s true p) g r pair
  | .scalar g r => (sramEvent s true p).modifyGroup g fun x => { x with sPoison := x.sPoison.insert r true }
  | .slot t k => (sramEvent s true p).modifyTeam t fun x =>
      { x with slots := match x.slots.get? k with | some h => x.slots.insert k { h with bad := true } | none => x.slots }
  | .metadata n => loseEntry (sramEvent s true p) n 2
  | .teamMetadata t n => loseMark (sramEvent s true p) p.2.2 (64 * n) 2 (.team t n)

/-- PATROL_SCRUB (R460): an HBM word is read, and written back corrected; with it stand the findings of ECC in the SRAMs, and
a write-back of metadata that fails (R459). -/
def execPatrolScrub (addr : Nat) (err : ScrubFinding) (s : State) : Out :=
  match err with
  | .sram w ue =>
    match sramPlace s w with
    | none => .refused .notEnabled
    | some p => .next (if ue then loseSram s p w else sramEvent s false p)
  | .writeBackFailed n => if 64 * n < s.mbase then .next (loseEntry s n 3) else .refused .notEnabled
  | f =>
    if s.hbmBytes ≤ addr ∨ addr % 8 ≠ 0 then .refused .notEnabled
    else .next (if f = .clean then s else scrubbed s addr (decide (f = .uncorrectable)))

/-! ## The memory tier and host memory (R402, R463) -/

/-- R463: whether a lane's access goes to the memory tier or to host memory, and where. -/
def outerLoc (la : LaneAccess) : Option Nat :=
  firstSome (fun r : Target × Nat =>
    match r.1 with
    | .phys loc _ _ => if tierBase ≤ loc then some loc else none
    | _ => none) la.ranges

/-- R463: a lane's access fails: a read is poisoned, a write is dropped, an RMW is not performed. -/
def failLane (s : State) (aid : Nat) (la : LaneAccess) (reads : Bool) : State :=
  s.modifyAccess aid fun a => setLane a { la with performed := true, value := some 0, poisoned := reads }

/-- R463, R489: a lane's access to the memory tier or to host memory fails, and is reported. -/
def failOuter (s : State) (aid : Nat) (a : Access) (la : LaneAccess) (loc sub : Nat) : State :=
  match issuerOf s a.group with
  | none => s
  | some u =>
    let s1 := failLane s aid la a.kind.reads
    if hostBase ≤ loc then contextEvent s1 u.l.ctx ueTier 5 0 la.va u.l.lid u.g.agent.toNat
    else contextEvent s1 u.l.ctx ueTier sub (tierPort s (loc - tierBase)) la.va u.l.lid u.g.agent.toNat

/-- TIER_ACCESS_TIMEOUT (R463): an access of a lane to the tier or to host memory has not completed, or has with an error. -/
def execTierAccessTimeout (failure : OuterFailure) (lane : Nat) (s : State) : Out :=
  match s.accesses.get? failure.access with
  | none => .refused .notEnabled
  | some a =>
    match a.lanes.find? fun la => decide (la.lane = lane) with
    | none => .refused .notEnabled
    | some la =>
      match outerLoc la with
      | none => .refused .notEnabled
      | some loc =>
        if la.performed || !mayPerform s failure.access a la then .refused .notEnabled
        else .next (settle (failOuter s failure.access a la loc (if failure.error then 3 else 2)))

/-- R463: the accesses in flight to a port's capacity fail. -/
def failPort (s : State) (port : Nat) : State :=
  s.accesses.foldl (fun s p => p.2.lanes.foldl (fun s la =>
    match outerLoc la with
    | some loc =>
      if !la.performed && decide (loc < hostBase) && decide (tierPort s (loc - tierBase) = port) then failOuter s p.1 p.2 la loc 4
      else s
    | none => s) s) s

/-- TIER_PORT_DOWN (R402, R463). -/
def execTierPortDown (port : Nat) (s : State) : Out :=
  match s.tiers.get? port with
  | none => .refused .notEnabled
  | some p =>
    if !p.up then .refused .notEnabled
    else .next (settle { failPort s port with tiers := s.tiers.insert port { p with up := false } })

/-! ## Power and heat (R24, R477) -/

/-- R24, R477, R489: an episode of throttling begins. It has no owner. -/
def throttleEvent (s : State) (sub : Nat) : State :=
  report { s with throt := s.throt + 1 } ⟨false, 4, sub, 0, 0, 0, 0xFFFF, none, none⟩

/-- POWER_THROTTLE (R24): issue gaps change timing alone. -/
def execPowerThrottle (s : State) : Out :=
  if s.throttled then .refused .notEnabled else .next { throttleEvent s 1 with throttled := true }

/-- THROTTLE_EPISODE_END (R24). -/
def execThrottleEpisodeEnd (s : State) : Out :=
  if s.throttled then .next { s with throttled := false } else .refused .notEnabled

/-- THERMAL_GATE (R477): a sensor, of the 16 of a die (R430), reads above 105 °C. -/
def execThermalGate (sensor : Nat) (s : State) : Out :=
  if s.gated ∨ 64 ≤ sensor then .refused .notEnabled
  else .next { throttleEvent s 2 with gated := true, hotSince := some s.ticks.toNat }

/-- THERMAL_GATE_END (R477). -/
def execThermalGateEnd (s : State) : Out :=
  if s.gated then .next { s with gated := false, hotSince := none } else .refused .notEnabled

/-- R477: everything of a context stops, and its launches end. -/
def stopContext (s : State) (ctx : Nat) : State :=
  let gids := contextGroups s ctx
  cutLaunches (dropWalks (discardWork (killAll s gids .outside) gids) ctx) ctx

/-- THERMAL_SHUTDOWN (R477): a sensor has read above 115 °C for 1 ms. The module stops until it is reset. -/
def execThermalShutdown (sensor : Nat) (s : State) : Out :=
  match s.hotSince with
  | none => .refused .notEnabled
  | some t =>
    if s.stopped ∨ 64 ≤ sensor ∨ s.ticks.toNat < t + 1000000 then .refused .notEnabled
    else
      let s1 := s.contexts.keys.foldl stopContext { s with stopped := true }
      .next (settle (deviceRecord s1 (Event.record ⟨false, 4, 2, 0, 0, 0, 0xFFFF, none, none⟩ s.ticks.toNat)))

/-! ## Reset (R413, R428, R478) -/

/-- R478: a core after reset: withdrawn if it logged four uncorrectable errors in the run before. Its samplers are seeded with
the counter of its die, as it stood (R426, log entry 6). -/
def resetCore (c : Core) (counter : Word64) : Core :=
  { Core.reset with
    usable := c.usable && decide (c.uncorrectable < 4)
    feat := c.feat
    samplers := Core.reset.samplers.mapVals fun _ p => { p with lfsr := counter.setWidth 32 } }

/-- R478: an HBM channel that logged four is withdrawn too. -/
def resetChannels (s : State) : Table Bool :=
  s.channelErrors.foldl (fun t p => if 4 ≤ p.2 then t.insert p.1 true else t) s.lostChannels

/-- R402, R413, R428, R478: the module is reset with an image to run: it is verified, the counters start and the expanders are
found. What stands in memory, what lies outside the module, and the order of happenings go on. -/
def resetWith (s : State) (image : List Byte) : State :=
  { State.reset with
    mem := s.mem
    memPoison := s.memPoison
    cores := s.cores.mapVals fun k c => resetCore c (s.dieTicks (dieOf k))
    lostChannels := resetChannels s
    lostLanes := s.lostLanes
    tiers := expandersAt s.turn
    skew := skewAt s.turn
    image := image
    fwstate := if imageVerifies image then 0 else 1
    vectors := s.vectors
    agenda := s.agenda
    turn := s.turn
    nextId := s.nextId }

/-- R413: a reset with the image that the module holds. -/
def resetModule (s : State) : State := resetWith s s.image

/-- MODULE_RESET (R413). -/
def execModuleReset (s : State) : Out := .next (resetModule s)

end Sys2Proof.Machine
end

