-- ==== Sys2Proof/Machine/Mailbox.lean ====
section
/-!
DEFINITION. The management mailbox and its commands (spec/19 R397 to R401, R406 to R409, R412 to R414; spec/14 R369, R382,
R383; spec/06 R172; spec/23 R481, R482).
-/

namespace Sys2Proof.Machine

/-! ## Replies (R397, R399) -/

/-- Bytes as words, the last one filled with zeros. -/
def wordsOf : List Byte → List Word
  | [] => []
  | a :: b :: c :: d :: t => BitVec.ofNat 32 (leNat [a, b, c, d]) :: wordsOf t
  | l => [BitVec.ofNat 32 (leNat l)]

/-- Words in an area of the mailbox, which reads 0 beyond them. -/
def areaOf (ws : List Word) : Table Word := (ws.zip (upFrom 0 ws.length)).foldl (fun t p => Table.write t p.2 p.1 0) []

/-- R397: the command under way ends: its reply, then BUSY, then vector 0. -/
def answer (s : State) (result : Nat) (body : List Byte) : State :=
  let tag := match s.mailbox.current with
    | some (_, t, _) => t
    | none => 0
  let head := BitVec.ofNat 32 (tag.toNat * 2 ^ 16 + result * 2 ^ 8)
  raiseVector { s with mailbox := { s.mailbox with
    reply := areaOf (head :: BitVec.ofNat 32 body.length :: wordsOf body)
    busy := false, result := BitVec.ofNat 8 result, tag := tag, current := none, draining := false } } 0

/-- R397: RESULT 0, with no body. -/
def done (s : State) : State := answer s 0 []

/-- R397: RESULT 2. -/
def badArgument (s : State) : Out := .next (answer s 2 [])

/-- R399: the least of the reasons that apply. -/
def leastReason (rs : List (Nat × Bool)) : Option Nat := ((rs.filter (·.2)).map Prod.fst).foldl lowerOf none

/-- R399: a command goes on where no reason applies against it. -/
def unlessRefused (s : State) (rs : List (Nat × Bool)) (k : Out) : Out :=
  match leastReason rs with
  | some r => .next (answer s 1 (leBytes 4 r))
  | none => k

/-- R399, R413: in recovery, reason 4, every command is refused but SUMMARY, IDCERT and FWLOAD, whatever its parameters. No
context is live then, so no lower reason applies. -/
def refusedInRecovery (s : State) (op : Nat) : Bool := decide (s.fwstate = 1) && !decide (op = 0x20 ∨ op = 0x22 ∨ op = 0x30)

/-- R399: a context is not live. -/
def notLive (s : State) (ctx : Nat) : Nat × Bool := (7, (s.contexts.get? ctx).isNone)

/-- R397, R398: the command under way, where it is the one with this OP: its n parameter words. -/
def command (s : State) (op n : Nat) (k : List Nat → Out) : Out :=
  match s.mailbox.current with
  | none => .refused .notEnabled
  | some (o, _, ps) =>
    if o.toNat ≠ op ∨ s.mailbox.draining = true then .refused .notEnabled
    else if refusedInRecovery s op then .next (answer s 1 (leBytes 4 4))
    else if ps.length ≠ n then badArgument s
    else k (ps.map BitVec.toNat)

/-- Parameter word i. -/
def par (ps : List Nat) (i : Nat) : Nat := ps.getD i 0

/-- R398: a 64-bit parameter: the low word first. -/
def par64 (ps : List Nat) (i : Nat) : Nat := par ps i + 2 ^ 32 * par ps (i + 1)

/-- R397, R398: the OPs that there are. -/
def knownOps : List Nat :=
  [0x01, 0x02, 0x03, 0x04, 0x05, 0x06, 0x07, 0x08, 0x09, 0x0A, 0x0B, 0x10, 0x11, 0x12, 0x13, 0x14, 0x20, 0x21, 0x22, 0x30]

/-- R397: a command is submitted: latched, or answered with RESULT 3. -/
def submit (s : State) : State :=
  let w := fun k : Nat => s.mailbox.command.read k 0
  let n := min (w 1).toNat 62
  let op : BitVec 16 := (w 0).truncate 16
  let s1 := { s with mailbox := { s.mailbox with
    busy := true, current := some (op, (w 0).extractLsb' 16 16, (upFrom 2 n).map w) } }
  if op.toNat ∈ knownOps then s1 else answer s1 3 []

/-- R397: a write to DOORBELL. -/
def ringDoorbell (s : State) (value : Word) : State :=
  if s.mailbox.busy then { s with mailbox := { s.mailbox with drop := true } }
  else if value = 1 then submit s else s

/-- DOORBELL_WRITE (R397). -/
def execDoorbellWrite (s : State) : Out := .next (ringDoorbell s 1)

/-- MSTAT_READ (R394): the read clears DROP. -/
def execMstatRead (s : State) : Out := .next { s with mailbox := { s.mailbox with drop := false } }

/-! ## Contexts (R400, R481) -/

/-- R400, R155, R161, R454: the parameters of CTXCREATE are well formed. -/
def createOk (s : State) (ps : List Nat) : Bool :=
  let w := par ps 0
  decide (field w 15 14 = 0) && !bitOf w 19 && decide (field w 31 23 = 0) && decide (field w 17 16 < 3) &&
  decide (par64 ps 1 % 4096 = 0) && decide (par64 ps 1 + 4096 ≤ s.hbmBytes) && decide (par64 ps 3 % 65536 = 0) &&
  decide (par64 ps 6 % 65536 = 0) && (decide (field w 17 16 = 0) || decide (17 ≤ par ps 5))

/-- CTXCREATE (R400). -/
def execCtxcreate (s : State) : Out :=
  command s 0x01 10 fun ps =>
    let w := par ps 0
    let ctx := field w 7 0
    let tn := field w 13 8
    if !createOk s ps then badArgument s
    else unlessRefused s [(7, (s.contexts.get? ctx).isSome), (8, !(s.tenants.get? tn).any Tenant.enabled)]
      (.next (done (s.setContext ctx (newContext tn (field w 17 16) (bitOf w 18) (field w 22 20) (par64 ps 1) (par64 ps 3)
        (par ps 5) (par64 ps 6) (par64 ps 8)))))

/-- R481, steps 1 to 3: the context is closing. A run of it is abandoned. -/
def beginDestroy (s : State) (ctx : Nat) : State :=
  let mine := fun f : Forced => (s.groups.get? f.group).any fun g => (s.launches.get? g.launch).any fun l => decide (l.ctx = ctx)
  let s1 := s.modifyContext ctx fun c =>
    { c with destroying := true, stepsLeft := 0, running := false, promote := false, midStep := none, trapQueue := [] }
  let s2 := { s1 with force := match s.force with
    | some f => if mine f then none else some f
    | none => none }
  settle (dropWalks (cutGroups s2 (contextGroups s2 ctx)) ctx)

/-- R481, steps 4 and 5, once the last access in flight has been performed. -/
def finishDestroy (s : State) (ctx : Nat) : State :=
  if contextBusy s ctx then s
  else match s.contexts.get? ctx with
    | none => s
    | some c => done (closeContext s ctx c)

/-- CTXDESTROY (R481). -/
def execCtxdestroy (s : State) : Out :=
  command s 0x02 1 fun ps =>
    let ctx := par ps 0
    if 255 < ctx then badArgument s
    else if (s.contexts.get? ctx).any (·.destroying) then
      if contextBusy s ctx then .refused .notEnabled else .next (finishDestroy s ctx)
    else unlessRefused s [notLive s ctx] (.next (finishDestroy (beginDestroy s ctx) ctx))

/-! ## Tenants, rings and cores (R338, R351, R398, R410) -/

/-- R338: a tenant table entry is well formed. -/
def tenantEntryOk (r : BitVec 512) : Bool :=
  let f := recField r
  let t : Tenant := { Tenant.reset with entry := r }
  decide (f 280 232 = 0) && decide (f 252 4 = 0) && decide (f 72 8 = 0) &&
  decide (1 ≤ t.weight) && decide (10 ≤ t.slice) && decide (1 ≤ t.bg) && decide (t.bg ≤ 8) &&
  decide (t.margin ≤ 192) && decide (t.guar ≤ 192) && decide (4 ≤ t.wlog2) && decide (t.wlog2 ≤ 12) &&
  decide (t.wbase % 4096 = 0) && decide (t.wbase + 64 * 2 ^ t.wlog2 ≤ Config.hostBytes)

/-- The words of a parameter list as one number, the first word lowest. -/
def parsNat : List Nat → Nat
  | [] => 0
  | w :: t => w + 2 ^ 32 * parsNat t

/-- TENANTSET (R338). -/
def execTenantset (s : State) : Out :=
  command s 0x03 17 fun ps =>
    let tn := par ps 0
    let r := BitVec.ofNat 512 (parsNat ps.tail)
    if 63 < tn ∨ tenantEntryOk r = false then badArgument s
    else (.next (done (s.modifyTenant tn fun t => { t with entry := r })))

/-- R398, R410: a ring set: empty, its count of dropped records kept. -/
def newRing (old : Option ErrorRing) (base log2 : Nat) : ErrorRing := ⟨base, log2, 0, 0, (old.map (·.drop)).getD 0⟩

/-- ERRSET (R398). -/
def execErrset (s : State) : Out :=
  command s 0x04 4 fun ps =>
    let tn := par ps 0
    let base := par64 ps 1
    let log2 := par ps 3
    if (63 < tn ∧ tn ≠ 0xFF) ∨ base % 4096 ≠ 0 ∨ log2 < 6 ∨ 16 < log2 ∨ Config.hostBytes < base + 32 * 2 ^ log2 then badArgument s
    else (.next (done (
      if tn = 0xFF then { s with deviceRing := some (newRing s.deviceRing base log2) }
      else s.modifyTenant tn fun t => { t with ring := some (newRing t.ring base log2) })))

/-- R351: the kinds of cores by their numbers. -/
def kindOf (n : Nat) : CoreKind :=
  match n with
  | 0 => .guaranteed
  | 1 => .margin
  | 2 => .shared
  | _ => .unassigned

/-- R398, R483: a core holds teams that stand in the way of an assignment: another tenant's, or any where it is to be no
tenant's. -/
def coreTaken (s : State) (tn kind core : Nat) : Bool :=
  (teamsOn s core).any fun t => decide (kind = 3) || decide (tenantOf s t ≠ some tn)

/-- PARTITION (R351). -/
def execPartition (s : State) : Out :=
  command s 0x05 4 fun ps =>
    let first := par ps 0
    let n := par ps 1
    let tn := par ps 2
    let kind := par ps 3
    if Config.cores < first + n ∨ 63 < tn ∨ 3 < kind then badArgument s
    else
      let cores := upFrom first n
      unlessRefused s [(6, cores.any (coreTaken s tn kind)),
          (8, decide (kind < 3) && !(s.tenants.get? tn).any Tenant.enabled)]
        (.next (done (cores.foldl (fun s k => s.modifyCore k fun c =>
          { c with owner := tn, kind := kindOf kind, returnBy := none }) s)))

/-! ## Translations (R167, R172) -/

/-- Whether two ranges of bytes meet. -/
def meets (a n b m : Nat) : Bool := decide (a < b + m) && decide (b < a + n)

/-- R172: a TLB without what serves a range of a context. -/
def tlbDrop (tlb : List TlbEntry) (ctx base n : Nat) : List TlbEntry :=
  tlb.filter fun e => !(decide (e.ctx = ctx) && meets e.va (2 ^ pageBits e.level) base n)

/-- R172: a lane's access, not performed, that used a translation of a range; `at` gives its global address (R155). -/
def laneUses (base n : Nat) (addr : Nat → Nat) (la : LaneAccess) : Bool :=
  !la.performed && (meets (addr la.va) la.dataSize base n || la.scale.any fun p => meets p.1 1 base n)

/-- R172: an access of a context that used a translation of a range and has not been performed. -/
def accessUses (s : State) (ctx base n : Nat) (a : Access) : Bool :=
  decide (a.space = .g ∨ a.space = .k) && (issuerOf s a.group).any fun u => decide (u.l.ctx = ctx) &&
    a.lanes.any (laneUses base n fun va => if a.space = .k then spillAddress u va else va)

/-- R172: whether any access still uses the old translation of a range, a buffered reduction among them. -/
def rangeInUse (s : State) (ctx base n : Nat) : Bool :=
  s.accesses.vals.any (accessUses s ctx base n) || s.teams.vals.any fun t => t.reds.any fun e => accessUses s ctx base n e.access

/-- INVAL (R172): every TLB entry of the range goes; the reply follows completion. -/
def execInval (s : State) : Out :=
  command s 0x06 5 fun ps =>
    let ctx := par ps 0
    if 255 < ctx then badArgument s
    else unlessRefused s [notLive s ctx]
      (.next { s with cores := s.cores.mapVals fun _ c => { c with tlb := tlbDrop c.tlb ctx (par64 ps 1) (par64 ps 3) }
                      dieTlb := s.dieTlb.mapVals fun _ t => tlbDrop t ctx (par64 ps 1) (par64 ps 3)
                      mailbox := { s.mailbox with draining := true } })

/-- R172: a group that monitors a word of a range takes its new translation; where the page is not there to read, it issues its
`monwait` again. -/
def retargetMonitor (s : State) (base n gid : Nat) : State :=
  match issuerOf s gid with
  | none => s
  | some u =>
    match u.g.wait with
    | some (.monitor va loc e d t ops) =>
      if !meets va 4 base n || u.g.status = .retired then s
      else match walkXlate s u.c.root va kindRead with
        | .ok (.phys l _ _) => if l = loc then s else s.setGroup gid { u.g with wait := some (.monitor va l e d t ops) }
        | _ => s.setGroup gid (wakeReissue u.g)
    | _ => s

/-- INVAL_COMPLETE (R172). -/
def execInvalComplete (s : State) : Out :=
  match s.mailbox.current with
  | none => .refused .notEnabled
  | some (_, _, ws) =>
    let ps := ws.map BitVec.toNat
    if s.mailbox.draining = false ∨ rangeInUse s (par ps 0) (par64 ps 1) (par64 ps 3) = true then .refused .notEnabled
    else .next (done (settle ((contextGroups s (par ps 0)).foldl (fun s g => retargetMonitor s (par64 ps 1) (par64 ps 3) g) s)))

/-- REPLAY (R167). -/
def execReplay (s : State) : Out :=
  command s 0x07 2 fun ps =>
    let die := par ps 0
    let n := par ps 1
    if Config.dies ≤ die ∨ Config.faultEntries ≤ n then badArgument s
    else unlessRefused s [(11, !validFault s (faultKey die n))]
      (.next (done (replayFault s (faultKey die n))))

/-! ## The pod (R406 to R409) -/

/-- DEVSET (R406). -/
def execDevset (s : State) : Out :=
  command s 0x08 1 fun ps =>
    if 4095 < par ps 0 then badArgument s
    else unlessRefused s [(5, !s.contexts.isEmpty)] (.next (done { s with devnum := par ps 0 }))

/-- R407: another context of this device holds a binding. -/
def bindingHeld (s : State) (ctx binding : Nat) : Bool :=
  decide (binding ≠ 0) && s.contexts.any fun p => decide (p.1 ≠ ctx) && decide (p.2.binding = binding)

/-- PODBIND (R407). -/
def execPodbind (s : State) : Out :=
  command s 0x09 2 fun ps =>
    let ctx := par ps 0
    let b := par ps 1
    if 255 < ctx ∨ 65535 < b then badArgument s
    else unlessRefused s [(3, bindingHeld s ctx b), notLive s ctx]
      (.next (done { s.modifyContext ctx (fun c => { c with binding := b }) with
        released := s.released.filter fun p => decide (p.2 ≠ b) }))

/-- BARDOMAIN (R398, R408): domain 0 stands for none. -/
def execBardomain (s : State) : Out :=
  command s 0x0A 3 fun ps =>
    let ctx := par ps 0
    let d := par ps 1
    let n := par ps 2
    if 255 < ctx ∨ 255 < d ∨ n < 2 ∨ 4096 < n then badArgument s
    else unlessRefused s [notLive s ctx]
      (.next (done (s.modifyContext ctx fun c => { c with domain := d, domainSize := if d = 0 then 0 else n })))

/-- R409: the entries of a rank table in host memory. -/
def rankTable (s : State) (base n : Nat) : List Nat := (upFrom 0 n).map fun r => s.readNat (hostBase + base + 8 * r) 8

/-- R409: the teams of a device's grid: of this device, the most that a launch of the context which has not ended has; of
another, and before there is a launch, what the host has agreed, which is a free value (log entry 59). -/
def gridTeams (s : State) (ctx device : Nat) : Nat :=
  let mine := (s.launches.vals.filter fun l => decide (l.ctx = ctx) && !l.ended && l.handlerFor.isNone).map Launch.teamTotal
  if device = s.devnum ∧ mine ≠ [] then mine.foldl max 0 else Config.podGrid s.turn device

/-- R409: the entries of a rank table are well formed: bits 31:12 zero, and no device more often than its grid has teams, which
is once at least. -/
def ranksOk (s : State) (ctx : Nat) (es : List Nat) : Bool :=
  es.all fun e => decide (field e 31 12 = 0) &&
    let k := (es.filter fun x => decide (field x 11 0 = field e 11 0)).length
    (decide (k = 1) || decide (k ≤ gridTeams s ctx (field e 11 0)))

/-- COMMCREATE (R409). -/
def execCommcreate (s : State) : Out :=
  command s 0x0B 5 fun ps =>
    let ctx := par ps 0
    let comm := par ps 1
    let n := par ps 2
    let base := par64 ps 3
    if 255 < ctx ∨ 65535 < comm ∨ n = 0 ∨ Config.hostBytes < base + 8 * n then badArgument s
    else
      let es := rankTable s base n
      if !ranksOk s ctx es then badArgument s
      else unlessRefused s [notLive s ctx,
          (10, (s.contexts.get? ctx).any fun c => (c.comms.get? comm).isSome)]
        (.next (done (s.modifyContext ctx fun c =>
          { c with comms := c.comms.insert comm ⟨es.map fun e => (field e 11 0, field e 63 32), []⟩ })))

/-! ## Demotion and stepping (R369, R382, R383) -/

/-- R399: reason 1: the context is live, and was not created debuggable. -/
def notDebuggable (s : State) (ctx : Nat) : Nat × Bool := (1, (s.contexts.get? ctx).any fun c => !c.dbg)

/-- R399: reason 2: the context is live and not demoted. -/
def notDemoted (s : State) (ctx : Nat) : Nat × Bool := (2, (s.contexts.get? ctx).any fun c => decide (c.stage ≠ .demoted))

/-- DEMOTE (R369): it replies when accepted. -/
def execDemote (s : State) : Out :=
  command s 0x10 1 fun ps =>
    let ctx := par ps 0
    if 255 < ctx then badArgument s
    else unlessRefused s [notDebuggable s ctx, notLive s ctx] (.next (done (settle (beginDemotion s ctx))))

/-- STEP (R382). -/
def execStep (s : State) : Out :=
  command s 0x11 2 fun ps =>
    let ctx := par ps 0
    if 255 < ctx ∨ par ps 1 = 0 then badArgument s
    else unlessRefused s [notDemoted s ctx, notLive s ctx]
      (.next (done (s.modifyContext ctx fun c => { c with stepsLeft := par ps 1, running := false })))

/-- RUN (R382). -/
def execRun (s : State) : Out :=
  command s 0x12 1 fun ps =>
    let ctx := par ps 0
    if 255 < ctx then badArgument s
    else unlessRefused s [notDemoted s ctx, notLive s ctx]
      (.next (done (s.modifyContext ctx fun c => { c with stepsLeft := 0, running := true })))

/-- PAUSE (R382): after the step in progress, if there is one. -/
def execPause (s : State) : Out :=
  command s 0x13 1 fun ps =>
    let ctx := par ps 0
    if 255 < ctx then badArgument s
    else unlessRefused s [notDemoted s ctx, notLive s ctx]
      (.next (done (s.modifyContext ctx fun c => { c with stepsLeft := 0, running := false })))

/-- R384, R399: reason 2 for PROMOTE: the context is live, and in parallel execution. -/
def notDemoting (s : State) (ctx : Nat) : Nat × Bool := (2, (s.contexts.get? ctx).any fun c => decide (c.stage = .parallel))

/-- PROMOTE (R383). -/
def execPromote (s : State) : Out :=
  command s 0x14 1 fun ps =>
    let ctx := par ps 0
    if 255 < ctx then badArgument s
    else unlessRefused s [notDemoting s ctx, notLive s ctx] (.next (done (askPromotion s ctx)))

/-! ## SUMMARY (R401) -/

/-- R10, R401: usable cores. -/
def usableCores (s : State) : Nat := (s.cores.vals.filter (·.usable)).length

/-- The launches accepted and not ended for which p holds. -/
def pending (s : State) (p : Launch → Bool) : Nat :=
  (s.launches.vals.filter fun l => !l.ended && l.handlerFor.isNone && p l).length

/-- R401: the capacity of the memory tier over the ports that are up, in GiB. -/
def tierGib (s : State) : Nat := tierCapacity (s.tiers.vals.filter (·.up)) / 2 ^ 30

/-- R401: the header. -/
def summaryHead (s : State) : Nat :=
  s.fwstate * 2 ^ 181 + tierGib s % 2 ^ 14 * 2 ^ 183 + (s.tenants.vals.filter Tenant.enabled).length * 2 ^ 197 +
  s.contexts.length * 2 ^ 204 + (s.ports.vals.filter id).length * 2 ^ 213 + s.usableLanes * 2 ^ 218 + usableCores s * 2 ^ 226 +
  s.usableChannels * 2 ^ 234 + s.devnum * 2 ^ 244 + s.throt.toNat * 2 ^ 256 + s.lostmd.toNat * 2 ^ 288 + s.cecnt.toNat * 2 ^ 320 +
  s.uecnt.toNat * 2 ^ 352 + pending s (fun _ => true) % 2 ^ 32 * 2 ^ 384 + s.seq.toNat * 2 ^ 416 + s.ticks.toNat * 2 ^ 448

/-- The teams of a context for which p holds. -/
def teamsIn (s : State) (ctx : Nat) (p : Team → Bool) : Nat :=
  (s.teams.vals.filter fun t => p t && (s.launches.get? t.launch).any fun l => decide (l.ctx = ctx)).length

/-- R401: STATE of a context. -/
def contextState (c : Context) : Nat :=
  if c.destroying then 3 else match c.stage with
    | .parallel => 0
    | .demoting => 1
    | .demoted => 2

/-- R401: a context record. -/
def contextRecord (s : State) (n : Nat) (c : Context) : Nat :=
  c.steps.toNat % 2 ^ 32 + teamsIn s n (fun t => decide (t.status = .resident ∨ t.status = .evicting)) % 2 ^ 32 * 2 ^ 32 +
  teamsIn s n (fun t => decide (t.status = .evicted)) % 2 ^ 16 * 2 ^ 64 + pending s (fun l => decide (l.ctx = n)) % 2 ^ 16 * 2 ^ 80 +
  (if c.dbg then 2 ^ 109 else 0) + c.rmode * 2 ^ 110 + contextState c * 2 ^ 112 + c.tenant * 2 ^ 114 + n * 2 ^ 120

/-- The number of cores for which p holds. -/
def coresWhere (s : State) (p : Nat → Core → Bool) : Nat := (s.cores.filter fun q => p q.1 q.2).length

/-- R401: a tenant record. -/
def tenantSummary (s : State) (n : Nat) (t : Tenant) : Nat :=
  let lent := coresWhere s fun k c => decide (c.kind = .margin) && decide (c.owner = n) && !(borrowed s k n).isEmpty
  let taken := coresWhere s fun k c => decide (c.kind = .margin) && decide (c.owner ≠ n) && !(tenantOn s k n).isEmpty
  ((t.ring.map fun r => r.drop.toNat).getD 0) + t.progress.toNat * 2 ^ 32 + taken * 2 ^ 88 + lent * 2 ^ 96 +
  coresWhere s (fun _ c => decide (c.kind = .margin) && decide (c.owner = n)) * 2 ^ 104 +
  coresWhere s (fun _ c => decide (c.kind = .guaranteed) && decide (c.owner = n)) * 2 ^ 112 +
  (if t.enabled then 2 ^ 121 else 0) + n * 2 ^ 122

/-- R401: the body of the reply. -/
def summaryBody (s : State) : List Byte :=
  leBytes 64 (summaryHead s) ++ s.contexts.flatMap (fun p => leBytes 16 (contextRecord s p.1 p.2)) ++
  (s.tenants.filter fun p => p.2.enabled).flatMap fun p => leBytes 16 (tenantSummary s p.1 p.2)

/-- SUMMARY (R401): SEQ rises before the snapshot. -/
def execSummary (s : State) : Out :=
  command s 0x20 0 fun _ =>
    let s1 := { s with seq := s.seq + 1 }
    .next (answer s1 0 (summaryBody s1))

/-! ## Attestation and firmware (R412, R413) -/

/-- n bytes of a list, zeros where it has fewer. -/
def padTo (n : Nat) (bs : List Byte) : List Byte := (bs ++ leBytes n 0).take n

/-- R412: bytes 0 to 127 of the report. -/
def attestReport (s : State) (ctx : Nat) (c : Context) (nonce : List Byte) : List Byte :=
  sha384 s.image ++ padTo 16 Config.serialNumber ++ nonce ++
  leBytes 1 ctx ++ leBytes 1 c.tenant ++ leBytes 1 (c.rmode + if c.dbg then 4 else 0) ++ leBytes 1 s.fwstate ++
  leBytes 1 (usableCores s) ++ leBytes 2 s.usableChannels ++ leBytes 1 s.usableLanes ++ leBytes 8 s.devnum

/-- ATTEST (R412). -/
def execAttest (s : State) : Out :=
  command s 0x21 13 fun ps =>
    let ctx := par ps 0
    if 255 < ctx then badArgument s
    else unlessRefused s [notLive s ctx]
      (match s.contexts.get? ctx with
      | none => .refused .notEnabled
      | some c =>
        let r := attestReport s ctx c (ps.tail.flatMap fun w => leBytes 4 w)
        .next (answer s 0 (r ++ ecdsaSign Config.identityKey (Config.signatureSecret s.turn) r)))

/-- IDCERT (R398). -/
def execIdcert (s : State) : Out := command s 0x22 0 fun _ => .next (answer s 0 Config.identityChain)

/-- FWLOAD (R413): an image that verifies resets the module, which then runs it; one that does not leaves it in recovery, with
no image. -/
def execFwload (s : State) : Out :=
  command s 0x30 3 fun ps =>
    let base := par64 ps 0
    let n := par ps 2
    if Config.hostBytes < base + n then badArgument s
    else unlessRefused s [(5, decide (s.fwstate = 0) && !s.contexts.isEmpty)]
      (let image := s.readMem (hostBase + base) n
      if imageVerifies image then .next (done { resetWith s image with mailbox := s.mailbox })
      else .next (answer { s with image := [], fwstate := 1 } 1 (leBytes 4 9)))

end Sys2Proof.Machine
end

