-- ==== Sys2Proof/Machine/Registers.lean ====
section
/-!
DEFINITION. Host accesses (spec/19 R394 to R396, R411; spec/20 R418, R419, R426, R430; spec/12 R335; spec/23 R469): register
writes, and the host's accesses to memory.
-/

namespace Sys2Proof.Machine

/-! ## Tenant pages (R335, R395, R411) -/

/-- R335, R469: a write to TAIL. -/
def writeTail (s : State) (tn : Nat) (value : Word) : State :=
  match s.tenants.get? tn with
  | none => s
  | some t =>
    if 2 ^ t.wlog2 < (value - t.progress).toNat then
      report s ⟨true, ueWinovf, 0, value.toNat, 0, 0, 0xFFFF, none, some tn⟩
    else s.setTenant tn { t with tail := value }

/-- TAIL_WRITE (R335). -/
def execTailWrite (tenant : Nat) (value : Word) (s : State) : Out :=
  if 63 < tenant then .refused .notEnabled else .next (writeTail s tenant value)

/-- R411: status bits cleared by writing 1. HLOG is held until its bit is cleared. -/
def clearUestat (t : Tenant) (value : Word) : Tenant :=
  let st := t.uestat &&& ~~~value
  if t.fepSet && !st.getLsbD t.fep.toNat then { t with uestat := st, hlog := 0, fepSet := false } else { t with uestat := st }

/-- UESTAT_WRITE (R411). -/
def execUestatWrite (tenant : Nat) (value : Word) (s : State) : Out :=
  if 63 < tenant then .refused .notEnabled else .next (s.modifyTenant tenant fun t => clearUestat t value)

/-- R411: the same for the corrected events. -/
def clearCestat (t : Tenant) (value : Word) : Tenant := { t with cestat := t.cestat &&& ~~~value }

/-- CESTAT_WRITE (R411). -/
def execCestatWrite (tenant : Nat) (value : Word) (s : State) : Out :=
  if 63 < tenant then .refused .notEnabled else .next (s.modifyTenant tenant fun t => clearCestat t value)

/-- R395, R411: a write to a register of a tenant page. -/
def writeTenantPage (s : State) (tn r : Nat) (v : Word) : State :=
  match r with
  | 0x000 => writeTail s tn v
  | 0x00C => s.modifyTenant tn fun t => { t with ring := t.ring.map fun x => { x with tail := v }, tailHeld := v }
  | 0x100 => s.modifyTenant tn fun t => clearUestat t v
  | 0x104 => s.modifyTenant tn fun t => { t with uemask := v &&& 0xFFF }
  | 0x108 => s.modifyTenant tn fun t => { t with uesev := v &&& 0xFFF }
  | 0x10C => s.modifyTenant tn fun t => clearCestat t v
  | 0x110 => s.modifyTenant tn fun t => { t with cemask := v &&& 0x1F }
  | _ => s

/-! ## Context pages (R396, R418, R419) -/

/-- R396: a context whose page answers. -/
def pageOf (s : State) (ctx : Nat) : Option Context := (s.contexts.get? ctx).filter (·.dbg)

/-- R396, R488: a write to a mailbox word. -/
def writeMailbox (s : State) (ctx off size : Nat) (v : Word64) : State :=
  match pageOf s ctx with
  | none => s
  | some _ =>
    if size ≠ 8 ∨ off % 8 ≠ 0 then contextNotice s ctx 0x21 0 off 0 0
    else if off < 0x200 then s.modifyContext ctx fun c => { c with inbound := Table.write c.inbound (off / 8) v 0 }
    else s

/-- MAILBOX_HOST_WRITE (R396). -/
def execMailboxHostWrite (ctx offset size : Nat) (value : Word64) (s : State) : Out :=
  if 255 < ctx ∨ 0x400 ≤ offset then .refused .notEnabled else .next (writeMailbox s ctx offset size value)

/-- R419, R488: a write is ignored. -/
def ignoredWrite (s : State) (ctx off : Nat) : State := contextNotice s ctx 0x22 0 off 0 0

/-- R419: whether a value of OBSCTL is ignored. -/
def obsctlBad (c : Context) (v : Nat) : Bool :=
  decide (field v 31 29 ≠ 0) || decide (field v 23 21 ≠ 0) || decide (field v 15 13 ≠ 0) || decide (field v 7 2 ≠ 0) ||
  (bitOf v 0 && (decide (field v 12 8 < 12 ∨ 24 < field v 12 8) || decide (c.trbase.toNat % 65536 ≠ 0))) ||
  (bitOf v 1 && (decide (field v 20 16 < 6 ∨ 24 < field v 20 16) || decide (field v 28 24 < 4 ∨ 20 < field v 28 24) ||
    decide (c.sbase.toNat % 65536 ≠ 0)))

/-- R426: Sounding begins: each quadrant counts its first interval. -/
def startSamplers (sk : Nat) (c : Core) : Core :=
  { c with samplers := c.samplers.mapVals fun _ p => { p with left := intervalOf sk p.lfsr, tagNext := false } }

/-- R423, R432: Contrail begins: each core that holds a traced group writes a SYNC. -/
def startTrace (s : State) (ctx : Nat) : State :=
  s.cores.keys.foldl (fun s k => if (tracedGroups s k ctx).isEmpty then s else stageSync s k ctx) s

/-- R419: a write to OBSCTL. -/
def writeObsctl (s : State) (ctx : Nat) (v : Word) : State :=
  match pageOf s ctx with
  | none => s
  | some c =>
    if obsctlBad c v.toNat then ignoredWrite s ctx 0x508
    else
      let s1 := s.setContext ctx { c with obsctl := v }
      let s2 := if bitOf v.toNat 1 && !c.sampling then
          { s1 with cores := s1.cores.mapVals fun _ c => startSamplers (field v.toNat 20 16) c } else s1
      if bitOf v.toNat 0 && !c.tracing then startTrace s2 ctx else s2

/-- OBSCTL_WRITE (R419). -/
def execObsctlWrite (ctx : Nat) (value : Word) (s : State) : Out :=
  if 255 < ctx then .refused .notEnabled else .next (writeObsctl s ctx value)

/-- R418, R419: a write to TRBASE or SBASE. -/
def writeObsBase (s : State) (ctx : Nat) (sounding : Bool) (v : Word64) : State :=
  match pageOf s ctx with
  | none => s
  | some c =>
    if sounding then if c.sampling then ignoredWrite s ctx 0x510 else s.setContext ctx { c with sbase := v }
    else if c.tracing then ignoredWrite s ctx 0x500 else s.setContext ctx { c with trbase := v }

/-- OBS_BASE_WRITE (R419). -/
def execObsBaseWrite (ctx : Nat) (sounding : Bool) (value : Word64) (s : State) : Out :=
  if 255 < ctx then .refused .notEnabled else .next (writeObsBase s ctx sounding value)

/-- R396, R418: a write to a context page. -/
def writeContextPage (s : State) (ctx r size : Nat) (v : Word64) : State :=
  if r < 0x400 then writeMailbox s ctx r size v
  else if r = 0x508 ∧ size = 4 then writeObsctl s ctx (v.truncate 32)
  else if size ≠ 8 then s
  else if r = 0x500 then writeObsBase s ctx false v
  else if r = 0x510 then writeObsBase s ctx true v
  else if r = 0x520 then match pageOf s ctx with
    | none => s
    | some c => s.setContext ctx { c with stail := v }
  else s

/-! ## Barometer monitors (R430) -/

/-- R431: the bin of a value: the lowest whose edge is above it, or 31. -/
def binOf (m : Monitor) (v : Word) : Nat :=
  ((upFrom 0 31).find? fun b => decide (v.toNat < (m.edges.read b 0).toNat)).getD 31

/-- A saturating count. -/
def countUp (n : Word) : Word := if n = 0xFFFFFFFF then n else n + 1

/-- R431: a value counted in MIN, MAX, SAMPLES and its bin. -/
def counted (m : Monitor) (v : Word) : Monitor :=
  { m with min := if v.toNat < m.min.toNat then v else m.min
           max := if m.max.toNat < v.toNat then v else m.max
           samples := countUp m.samples
           bins := m.bins.insert (binOf m v) (countUp (m.bins.read (binOf m v) 0)) }

/-- R431: a value captured at a tick. -/
def capture (m : Monitor) (tick : Nat) (v : Word) : Monitor :=
  { counted m v with last := some v, lastTick := tick, recent := if m.lastTick = tick then m.recent ++ [v] else [v] }

/-- R430: a monitor's key. -/
def monitorKey (die mon : Nat) : Nat := 16 * die + mon

/-- R430: a write to BCTL at a tick. CLR acts and reads 0; a capture of the same tick comes after it (R432). -/
def writeBctl (m : Monitor) (tick : Nat) (v : Word) : Monitor :=
  let m1 := { m with bctl := v &&& 0x00FFFF05 }
  if v.getLsbD 1 then
    (if m.lastTick = tick then m.recent else []).foldl counted { m1 with min := 0xFFFFFFFF, max := 0, samples := 0, bins := [] }
  else m1

/-- BCTL_WRITE (R430). -/
def execBctlWrite (die mon : Nat) (value : Word) (s : State) : Out :=
  if Config.dies ≤ die ∨ 16 ≤ mon then .refused .notEnabled
  else .next { s with monitors := s.monitors.update (monitorKey die mon) fun m => writeBctl m (s.dieTicks die).toNat value }

/-- R430: a write to a register of a monitor. -/
def writeMonitor (m : Monitor) (tick r : Nat) (v : Word) : Monitor :=
  if r = 0 then writeBctl m tick v
  else if r = 4 then { m with alarmHi := v }
  else if 0x80 ≤ r ∧ r ≤ 0xF8 then { m with edges := Table.write m.edges ((r - 0x80) / 4) v 0 }
  else m

/-! ## Any register (R394) -/

/-- R394: a write in BAR0. -/
def writeBar0 (s : State) (off : Nat) (v : Word) : State :=
  if 0x1000 ≤ off ∧ off < 0x1100 then
    { s with mailbox := { s.mailbox with command := Table.write s.mailbox.command ((off - 0x1000) / 4) v 0 } }
  else if off = 0x1100 then ringDoorbell s v
  else if off = 0x4004 then { s with deviceRing := s.deviceRing.map fun x => { x with tail := v }, tailHeld := v }
  else if 0x8000 ≤ off ∧ off < 0x10000 then
    { s with monitors := s.monitors.update (monitorKey ((off - 0x8000) / 0x2000) (off / 0x200 % 16)) fun m =>
        writeMonitor m (s.dieTicks ((off - 0x8000) / 0x2000)).toNat (off % 0x200) v }
  else s

/-- REGISTER_WRITE (R394): a host write to a register. One of the wrong size or alignment has no effect. -/
def execRegisterWrite (bar offset size : Nat) (value : Word64) (s : State) : Out :=
  let aligned := decide (size = 4) && decide (offset % 4 = 0)
  if bar = 0 ∧ offset < 0x10000 then .next (if aligned then writeBar0 s offset (value.truncate 32) else s)
  else if bar = 2 ∧ offset < 0x40000 then
    .next (if aligned then writeTenantPage s (offset / 0x1000) (offset % 0x1000) (value.truncate 32) else s)
  else if bar = 2 ∧ 0x100000 ≤ offset ∧ offset < 0x200000 then
    .next (writeContextPage s ((offset - 0x100000) / 0x1000) (offset % 0x1000) size value)
  else if bar = 2 ∧ offset < 0x100000 then .next s
  else .refused .notEnabled

/-! ## What a host read of a register returns (R394) -/

/-- R394: bits of a wide value as the 32-bit word at a byte offset into it. -/
def wordOf (x off : Nat) : Nat := field x (8 * off + 31) (8 * off)

/-- R395, R410: ERRHEAD and ERRTAIL. Where no ring is set, ERRHEAD reads 0, and ERRTAIL what was written to it last. -/
def errHead (r : Option ErrorRing) : Nat := (r.map fun x => x.head.toNat).getD 0
def errTail (r : Option ErrorRing) (held : Word) : Nat := (r.map fun x => x.tail.toNat).getD held.toNat

/-- R429: the dies of a pair of SKEWDIE. -/
def skewPair (p : Nat) : Nat × Nat := [(0, 1), (0, 2), (0, 3), (1, 2), (1, 3), (2, 3)].getD p (0, 0)

/-- R428, R429: the offset of counter j from counter i, in 1/16 tick. The counters are never adjusted, so that it stands. -/
def dieOffset (s : State) (p : Nat) : BitVec 28 := BitVec.ofInt 28 (s.skew.read (skewPair p).2 0 - s.skew.read (skewPair p).1 0)

/-- R429: SKEWDIE: V is 1 from the first measurement on, which each millisecond makes. -/
def skewDieWord (s : State) (p : Nat) : Nat :=
  match s.skewDie.get? p with
  | some w => w.toNat
  | none => if s.ticks.toNat < 1000000 then 0 else 2 ^ 31 + (dieOffset s p).toNat

/-- R394: MSTAT. -/
def mstat (m : Mailbox) : Nat :=
  m.tag.toNat * 2 ^ 16 + m.result.toNat * 2 ^ 8 + (if m.drop then 2 else 0) + (if m.busy then 1 else 0)

/-- R430: a register of a monitor. -/
def readMonitor (m : Monitor) (r : Nat) : Option Nat :=
  match r with
  | 0x000 => some m.bctl.toNat
  | 0x004 => some m.alarmHi.toNat
  | 0x008 => some m.min.toNat
  | 0x00C => some m.max.toNat
  | 0x010 => some m.samples.toNat
  | _ =>
    if 0x080 ≤ r ∧ r ≤ 0x0F8 then some (m.edges.read ((r - 0x080) / 4) 0).toNat
    else if 0x100 ≤ r ∧ r ≤ 0x17C then some (m.bins.read ((r - 0x100) / 4) 0).toNat
    else none

/-- R394, R397, R410, R429, R430: a register of BAR0. DOORBELL is WO and reads 0 (R5). The spec lays out no word of the
capability block (log entry 78). -/
def readBar0 (s : State) (off : Nat) : Option Nat :=
  if 0x1000 ≤ off ∧ off < 0x1100 then some (s.mailbox.command.read ((off - 0x1000) / 4) 0).toNat
  else if off = 0x1100 then some 0
  else if off = 0x1104 then some (mstat s.mailbox)
  else if 0x2000 ≤ off ∧ off < 0x4000 then some (s.mailbox.reply.read ((off - 0x2000) / 4) 0).toNat
  else if off = 0x4000 then some (errHead s.deviceRing)
  else if off = 0x4004 then some (errTail s.deviceRing s.tailHeld)
  else if 0x5000 ≤ off ∧ off < 0x5018 then some (skewDieWord s ((off - 0x5000) / 4))
  else if 0x5040 ≤ off ∧ off < 0x50A0 then some (s.skewPort.read ((off - 0x5040) / 4) 0).toNat
  else if 0x8000 ≤ off ∧ off < 0x10000 then
    (s.monitors.get? (monitorKey ((off - 0x8000) / 0x2000) (off / 0x200 % 16))).bind fun m => readMonitor m (off % 0x200)
  else none

/-- R395, R411: a register of a tenant page. -/
def readTenantPage (t : Tenant) (r : Nat) : Option Nat :=
  match r with
  | 0x000 => some t.tail.toNat
  | 0x004 => some t.progress.toNat
  | 0x008 => some (errHead t.ring)
  | 0x00C => some (errTail t.ring t.tailHeld)
  | 0x100 => some t.uestat.toNat
  | 0x104 => some t.uemask.toNat
  | 0x108 => some t.uesev.toNat
  | 0x10C => some t.cestat.toNat
  | 0x110 => some t.cemask.toNat
  | 0x114 => some t.fep.toNat
  | _ => if 0x118 ≤ r ∧ r < 0x128 then some (wordOf t.hlog.toNat (r - 0x118)) else none

/-- R450, R168: a word of a die's fault buffer, as BAR2 mirrors it. -/
def readFaultBuffer (s : State) (die r : Nat) : Nat :=
  match s.faults.get? (faultKey die (r / 16)) with
  | none => 0
  | some e => wordOf (e.vpn + e.agent.toNat * 2 ^ 96 + e.ctx * 2 ^ 112 + e.kind * 2 ^ 120 + e.level * 2 ^ 124 +
    (if e.valid then 2 ^ 127 else 0)) (r % 16)

/-- R396: CSTAT. A context that steps, or waits in a step, is not at a serial point (log entry 77). -/
def cstat (c : Context) : Nat :=
  let demoted := decide (c.stage = .demoted)
  let stepping := c.running || decide (0 < c.stepsLeft)
  (if demoted then 1 else 0) + (if stepping then 2 else 0) + (if demoted && !stepping && c.midStep.isNone then 4 else 0)

/-- R396, R418: a register of a context page, with its size in bytes. -/
def readContextPage (c : Context) (r : Nat) : Option (Nat × Nat) :=
  if r < 0x200 then some (8, (c.inbound.read (r / 8) 0).toNat)
  else if r < 0x400 then some (8, (c.outbound.read ((r - 0x200) / 8) 0).toNat)
  else match r with
    | 0x400 => some (4, cstat c)
    | 0x408 => some (8, c.steps.toNat)
    | 0x500 => some (8, c.trbase.toNat)
    | 0x508 => some (4, c.obsctl.toNat)
    | 0x510 => some (8, c.sbase.toNat)
    | 0x518 => some (8, c.shead.toNat)
    | 0x520 => some (8, c.stail.toNat)
    | 0x528 => some (4, c.sdrop.toNat)
    | _ => none

/-- The register at an offset of a region, with its size, where the spec gives one that can be read. -/
def registerAt (s : State) (bar off : Nat) : Option (Nat × Nat) :=
  if bar = 0 then (readBar0 s off).map fun v => (4, v)
  else if bar ≠ 2 then none
  else if off < 0x40000 then ((s.tenants.get? (off / 0x1000)).bind fun t => readTenantPage t (off % 0x1000)).map fun v => (4, v)
  else if off < 0x50000 then some (4, readFaultBuffer s ((off - 0x40000) / 0x4000) (off % 0x4000))
  else if 0x100000 ≤ off ∧ off < 0x200000 then
    (pageOf s ((off - 0x100000) / 0x1000)).bind fun c => readContextPage c (off % 0x1000)
  else none

/-- R394, R396: what a host read returns: ones where its size or alignment is not the register's; 0 from the page of a
context that is not debuggable. (MSTAT_READ is the read that clears DROP.) -/
def readRegister (s : State) (bar off size : Nat) : Option Nat :=
  if bar = 2 ∧ 0x100000 ≤ off ∧ off < 0x200000 ∧ (pageOf s ((off - 0x100000) / 0x1000)).isNone then some 0
  else match registerAt s bar (off / 4 * 4) with
    | some (n, v) => some (if n = size ∧ off % size = 0 then v else 0xFFFFFFFF)
    | none =>
      match registerAt s bar (off / 8 * 8) with
      | some (8, _) => some 0xFFFFFFFF
      | _ => none

/-! ## The host's accesses to memory (R159, R394, R199, R461) -/

/-- R461, R489: a host read meets poison: the first meetings are reported, to no tenant. -/
def hostMeets (s : State) (loc n : Nat) : State :=
  (s.memPoison.filter fun p => p.2 && meets (8 * p.1) 8 loc n).foldl (fun s p =>
    report { s with memPoison := s.memPoison.insert p.1 false } ⟨true, 0, hbmSub s (8 * p.1), 0, 8 * p.1, 0, 0xFFFF, none, none⟩) s

/-- R394, R199: a host write to HBM at the home L2: an external write. -/
def hostStore (s : State) (loc : Nat) (bytes : List Byte) : State :=
  settle (externalWrite (s.writeMem loc bytes) loc bytes.length)

/-- R394, R461: what a host read of the 64 bytes at an HBM address returns: each byte, and whether it comes with poison. -/
def readHbm (s : State) (addr : Nat) : List (Byte × Bool) :=
  (s.readMem addr 64).zip ((upFrom addr 64).map fun a => poisoned s.memPoison a 1)

/-- HOST_CXL_MEM_ACCESS (R394): a write of bytes, or a read of the 64 bytes at an address, which returns `readHbm`. A write to a
granule in which a checked access is under way waits (R202). -/
def execHostCxlMemAccess (addr : Nat) (write : Option (List Byte)) (s : State) : Out :=
  match write with
  | none => if s.hbmBytes < addr + 64 then .refused .notEnabled else .next (hostMeets s addr 64)
  | some bytes =>
    if s.hbmBytes < addr + bytes.length ∨ granuleHeld s 0 [(.phys addr 0 true, bytes.length)] = true then .refused .notEnabled
    else .next (hostStore s addr bytes)

/-- HOST_SNOOP (R159): the home L2 answers, and the host may write its own memory. -/
def execHostSnoop (addr : Nat) (write : Option (List Byte)) (s : State) : Out :=
  let n := (write.map List.length).getD 1
  if Config.hostBytes < addr + n then .refused .notEnabled
  else match write with
    | none => .next s
    | some bytes => .next (settle (s.writeMem (hostBase + addr) bytes))

end Sys2Proof.Machine
end

