-- ==== Sys2Proof/Machine/Fabric.lean ====
section
/-!
DEFINITION. Jetstream (spec/19 R403 to R408; spec/10 R280, R287, R291; spec/12 R336; spec/22 R463, R464; spec/23 R474, R476):
what arrives from peers and switches, and the loss of links.
-/

namespace Sys2Proof.Machine

/-! ## The bound context (R405, R489) -/

/-- R405: the context bound to a binding whose tenant matches. -/
def boundContext (s : State) (tenant binding : Nat) : Option (Nat × Context) :=
  if binding = 0 then none
  else s.contexts.find? fun p => decide (p.2.binding = binding) && decide (p.2.tenant = tenant) && !p.2.destroying

/-- R489: DETAIL of FABDEL. -/
def fabdelDetail (device cls : Nat) : Nat := device % 4096 + cls * 4096

/-- R405, R481, R489: a packet for no context is dropped. -/
def dropPacket (s : State) (tenant binding src cls : Nat) : State :=
  let sub := if (tenant, binding) ∈ s.released then 4 else 1
  report s ⟨true, ueFabdel, sub, fabdelDetail src cls, 0, 0, 0xFFFF, none, some tenant⟩

/-- Responses already sent to a device have arrived there (log entry 38). -/
def acknowledge (s : State) (device : Nat) : State :=
  { s with sent := s.sent.filter fun p => !(decide (p.2.dest = device) && p.2.left && match p.2.what with
      | .response _ => true
      | _ => false) }

/-- R403: a response goes to a peer; one of no bytes refuses the request (R463, R464). -/
def respond (s : State) (device cls tenant binding : Nat) (bytes : List Byte) : State :=
  s.send device cls tenant binding (.response tenant) bytes

/-- R32: the engine agents with a slot of their own for what arrives from peers: the copy and the collective engine of core 0
(log entry 88). -/
abbrev arrivalAgent : Nat := (ownAgent 0 96).toNat
abbrev collAgent : Nat := (ownAgent 0 99).toNat

/-! ## What peers do to memory (R199, R203, R405) -/

/-- R203: a range that keeps records is recalled from every L1. -/
def recallExternal (s : State) (t : Target) (n : Nat) : State :=
  match t with
  | .phys loc _ true => recallFrom s loc n none
  | _ => s

/-- R199, R405: bytes of a peer are performed in the pieces of a range: external writes at system scope. -/
def placeBytes (s : State) (ctx : Nat) : List (Nat × Nat) → List Byte → State
  | [], _ => s
  | (va, n) :: t, bytes =>
    let s1 := match deviceLoc s ctx va kindEngineWrite with
      | .ok (.phys loc c k) =>
        externalWrite ((recallExternal s (.phys loc c k) n).writeMem loc (bytes.take n)) loc n
      | _ => s
    placeBytes s1 ctx t (bytes.drop n)

/-- R403, R461: the bytes of a range read for a peer; poison is met. -/
def takeBytes (s : State) (ctx : Nat) : List (Nat × Nat) → List Byte × State
  | [] => ([], s)
  | (va, n) :: t =>
    match deviceLoc s ctx va kindEngineRead with
    | .ok (.phys loc c k) =>
      let s1 := meetPoison (recallExternal s (.phys loc c k) n) ctx 0 arrivalAgent (.phys loc c k) n
      let o := takeBytes s1 ctx t
      (s1.readMem loc n ++ o.1, o.2)
    | _ => takeBytes s ctx t

/-- R461, R269: a peer's read-modify-write at an address: the old value, and whether the word was poisoned. -/
def peerRmw (s : State) (ctx va : Nat) (op : AtomOp) (operand : Nat) : Nat × State :=
  match deviceLoc s ctx va kindAtomic with
  | .ok (.phys loc c k) =>
    let n := atomBytes op
    let s1 := recallExternal s (.phys loc c k) n
    if poisoned s1.memPoison loc n then (0, meetPoison s1 ctx 0 arrivalAgent (.phys loc c k) n)
    else
      let old := s1.readNat loc n
      (old, externalWrite (s1.writeMem loc (leBytes n (rmwValue op old operand).1)) loc n)
  | _ => (0, s)

/-- R287: the operation of an element run: ROP, and from 8 on the other reductions of R117 (log entry 39). -/
def ropAtom (rop : Nat) : Option AtomOp :=
  match rop with
  | 0 => some .addI32
  | 1 => some .addI64
  | 2 => some .addX64
  | 3 => some .addF32
  | 4 => some .minI32
  | 5 => some .maxI32
  | 6 => some .minN32
  | 7 => some .maxN32
  | 8 => some .addF16x2
  | 9 => some .addBf16x2
  | 10 => some .andB32
  | 11 => some .orB32
  | 12 => some .xorB32
  | _ => none

/-- R287: the elements of a run, in ascending address order; fuel bounds their number. -/
def reduceRun (ctx : Nat) (op : AtomOp) : Nat → State → Nat → List Byte → State
  | 0, s, _, _ => s
  | fuel + 1, s, va, bytes =>
    if bytes.isEmpty then s
    else
      let n := atomBytes op
      reduceRun ctx op fuel (settle (peerRmw s ctx va op (leNat (bytes.take n))).2) (va + n) (bytes.drop n)

/-- R280, R404: the credit of a delivery is made once its bytes have been performed. -/
def queueCredit (s : State) (ctx : Nat) (credit : Option (Nat × Nat × Nat)) : State :=
  match credit with
  | none => s
  | some (ep, src, n) =>
    let (k, s1) := s.fresh
    { s1 with credits := s1.credits.insert k ⟨ctx, some ep, 0, 0, src, n, none, 0⟩ }

/-- R202: whether granules of a delivery's pieces are held by an access that has been checked and not yet performed. -/
def arrivalHeld (s : State) (ctx kind : Nat) (ps : List (Nat × Nat)) : Bool :=
  granuleHeld s 0 (ps.filterMap fun p =>
    match deviceLoc s ctx p.1 kind with
    | .ok t => some (t, p.2)
    | _ => none)

/-- R170, R468: a delivery to a range stalls: its own agent's entry began to wait when its walk did. -/
def stallArrival (s : State) (ctx kind va n : Nat) : State :=
  { s with walks := s.walks.mapVals fun _ w =>
      if w.group.isNone ∧ w.ctx = ctx ∧ w.kind = kind ∧ w.began = none ∧ va < w.va + 65536 ∧ w.va < va + n then
        { w with began := some s.ticks.toNat }
      else w }

/-- R405, R194: what a packet does in the bound context, if its range is there, as an entry of its own agent. A refusal goes
back to the sender (R464). -/
def inBound (s : State) (tenant binding src cls kind va n : Nat) (k : State → Nat → Out) : Out :=
  let s0 := acknowledge s src
  match boundContext s0 tenant binding with
  | none => .next (dropPacket s0 tenant binding src cls)
  | some (ctx, _) =>
    if 2 ^ 52 < va + n then .next (respond s0 src cls tenant binding [])
    else match deviceReady s0 ctx kind va n with
      | .waits s1 => .next (stallArrival s1 ctx kind va n)
      | .nowhere loc => .fault (.noSuchPhysicalAddress loc)
      | .fatal => .next (respond s0 src cls tenant binding [])
      | .ready =>
        if arrivalHeld s0 ctx kind (pieces va n) then .refused .notEnabled
        else k (touchPages (s0.engineStamp arrivalAgent).2 ctx kind (pieces va n)) ctx

/-! ## Answers to what we sent (R463, R464) -/

/-- The packet of ours that has gone out, to a device, that an answer is for. -/
def sentFor (s : State) (what : Sent) (device : Option Nat) : Option (Nat × Packet) :=
  s.sent.find? fun p => decide (p.2.what = what) && p.2.left && device.all fun d => decide (p.2.dest = d)

/-- R464: a peer refuses part of an entry, or of the fetch of a joint operation. -/
def refuseEntry (s : State) (id peer : Nat) : Out :=
  match sentFor s (.entry id) (some peer) with
  | none => .refused .notEnabled
  | some (_, p) =>
    match s.entries.get? id, s.joints.get? id with
    | some e, _ =>
      let s1 := contextEvent s e.ctx ueFabdel 3 (fabdelDetail peer p.cls) (entryAddr e) 0 e.agent.toNat
      .next (failEntry s1 id e .mem (engBit memPeer) 3 0 (entryAddr e) 0)
    | none, some j =>
      let s1 := report s ⟨true, ueFabdel, 3, fabdelDetail peer p.cls, 0, 0, 0xFFFF, none, some p.tenant⟩
      let s2 := { s1 with sent := s1.sent.filter fun q => decide (q.2.what ≠ .entry id) }
      .next (failJoint s2 id j .mem (engBit memPeer) 3 0 0 0)
    | none, none => .refused .notEnabled

/-- R463: a peer refuses a lane of a group's access: PEER, precise at the instruction, whose group waits at it. -/
def refuseAccess (s : State) (access lane peer : Nat) : Out :=
  match s.accesses.get? access, sentFor s (.lane access lane) (some peer) with
  | some a, some _ =>
    match issuerOf s a.group, a.lanes.find? fun la => decide (la.lane = lane) with
    | some u, some la =>
      let counted := decide (u.g.wait = some (.peers access true))
      if u.g.status ≠ .blocked ∨ (counted = false ∧ u.g.wait ≠ some (.peers access false)) then .refused .notEnabled
      else
        let s1 := { s with
          accesses := s.accesses.erase access
          sent := s.sent.filter fun p => match p.2.what with
            | .lane x _ => decide (x ≠ access)
            | _ => true }
        let u1 := { u with g := withdrawAccess u.g a counted }
        let r : Raise := ⟨.mem, memPeer, if a.scalar then 0xFF else lane, la.va, 0, 0⟩
        .next (takeTrap s1 u1 { standingInfo s1 u1 r with enabled := if a.scalar then u.g.active else a.mask, scalar := a.scalar })
    | _, _ => .refused .notEnabled
  | _, _ => .refused .notEnabled

/-- R269: the flags of a read-modify-write at a peer: those of its operation on the value that it returns. -/
def answerFlags (a : Access) (la : LaneAccess) (v : Option (BitVec 272)) : Flags :=
  match a.kind, v with
  | .rmw op _, some old => (rmwValue op old.toNat la.data.toNat).2
  | _, _ => 0

/-- A lane of ours has its peer's answer. -/
def answerLane (s : State) (access lane : Nat) (ok : Access → LaneAccess → Bool) (value : Access → Option (BitVec 272)) : Out :=
  match s.accesses.get? access, sentFor s (.lane access lane) none with
  | some a, some (k, _) =>
    match issuerOf s a.group, a.lanes.find? fun la => decide (la.lane = lane) with
    | some u, some la =>
      if la.performed || !ok a la then .refused .notEnabled
      else
        let s1 := { s with sent := s.sent.erase k }
        let s2 := s1.modifyAccess access fun a =>
          { setLane a { la with performed := true, value := value a } with
            flags := a.flags ||| answerFlags a la (value a), sound := reached a.sound false 6 }
        .next (settle (afterAcquire s2 u a a.scope []))
    | _, _ => .refused .notEnabled
  | _, _ => .refused .notEnabled

/-! ## Put, get and atomic packets (R403, R405) -/

/-- FABRIC_PUT_RECEIVE (R403, R405). -/
def execFabricPutReceive (pkt : FabricPut) (s : State) : Out :=
  match pkt with
  | .data tenant binding src va bytes credit =>
    if bytes.isEmpty ∨ 256 < bytes.length then .refused .notEnabled
    else inBound s tenant binding src 0 kindEngineWrite va bytes.length fun s1 ctx =>
      .next (queueCredit (settle (placeBytes s1 ctx (pieces va bytes.length) bytes)) ctx credit)
  | .reduce tenant binding src rop va bytes credit =>
    match ropAtom rop with
    | none => .refused .notEnabled
    | some op =>
      if bytes.isEmpty ∨ 256 < bytes.length ∨ bytes.length % atomBytes op ≠ 0 ∨ va % atomBytes op ≠ 0 then .refused .notEnabled
      else inBound s tenant binding src 0 kindEngineWrite va bytes.length fun s1 ctx =>
        .next (queueCredit (reduceRun ctx op bytes.length s1 va bytes) ctx credit)
  | .entryRefused entry peer => refuseEntry s entry peer
  | .accessRefused access lane peer => refuseAccess s access lane peer

/-- R282, R303: bytes that an entry or the fetch of a joint operation has asked for arrive, request by request. -/
def takeAnswer (s : State) (id : Nat) (bytes : List Byte) : Out :=
  match sentFor s (.entry id) none with
  | none => .refused .notEnabled
  | some (k, p) =>
    if p.cls ≠ 1 ∨ leNat (p.bytes.drop 8) ≠ bytes.length then .refused .notEnabled
    else
      .next { s with
        sent := s.sent.erase k
        entries := s.entries.update id fun e => { e with fetched := e.fetched ++ bytes }
        joints := s.joints.update id fun j => { j with fetched := j.fetched ++ bytes } }

/-- The bytes of a lane of a load: for a block, its elements and then its scale. -/
def laneLength (a : Access) (la : LaneAccess) : Nat := la.dataSize + if a.kind.block then 1 else 0

/-- FABRIC_GET_RECEIVE (R403, R405). -/
def execFabricGetReceive (pkt : FabricGet) (s : State) : Out :=
  match pkt with
  | .request tenant binding src va n =>
    if n = 0 ∨ 256 < n then .refused .notEnabled
    else inBound s tenant binding src 1 kindEngineRead va n fun s1 ctx =>
      let o := takeBytes s1 ctx (pieces va n)
      .next (respond o.2 src 1 tenant binding o.1)
  | .entryData entry bytes => takeAnswer s entry bytes
  | .loadData access lane bytes =>
    answerLane s access lane (fun a la => a.kind.reads && !a.kind.isRmw && decide (bytes.length = laneLength a la)) fun a =>
      some (BitVec.ofNat 272 (if a.kind.block then blockValue bytes else leNat bytes))
  | .entryRefused entry peer => refuseEntry s entry peer
  | .loadRefused access lane peer => refuseAccess s access lane peer

/-- FABRIC_ATOMIC_RECEIVE (R403, R405). -/
def execFabricAtomicReceive (pkt : FabricAtomic) (s : State) : Out :=
  match pkt with
  | .request tenant binding src op va operand =>
    if va % atomBytes op ≠ 0 then .refused .notEnabled
    else inBound s tenant binding src 2 kindAtomic va (atomBytes op) fun s1 ctx =>
      let o := peerRmw s1 ctx va op operand.toNat
      .next (respond (settle o.2) src 2 tenant binding (leBytes (atomBytes op) o.1))
  | .response access lane old =>
    answerLane s access lane (fun a _ => match a.kind with
      | .rmw _ true => true
      | _ => false) fun _ => some (BitVec.ofNat 272 old.toNat)
  | .refused access lane peer => refuseAccess s access lane peer

/-! ## Launches and barriers (R336, R408) -/

/-- R336: SRCDEV written into a packet. -/
def withSource (p : BitVec 512) (srcdev : Nat) : BitVec 512 :=
  (p &&& ~~~(BitVec.ofNat 512 (0xFFF * 2 ^ 388))) ||| BitVec.ofNat 512 (srcdev % 4096 * 2 ^ 388)

/-- R336: a port pauses the launch class of its link while the queue for which it did so is full. -/
def launchPaused (s : State) (port : Nat) : Bool :=
  ((s.pausing.get? port).bind s.tenants.get?).any fun t => decide (64 ≤ t.fabric.length)

/-- FABRIC_LAUNCH_RECEIVE (R336, R405): a packet that finds its tenant's queue full stays on the link, and the port pauses the
class. -/
def execFabricLaunchReceive (route : LaunchRoute) (srcdev : Nat) (packet : BitVec 512) (s : State) : Out :=
  let port := route.port
  let tenant := route.tenant
  let binding := route.binding
  if 24 ≤ port ∨ 4096 ≤ srcdev ∨ launchPaused s port = true then .refused .notEnabled
  else match boundContext s tenant binding, s.tenants.get? tenant with
    | some _, some t =>
      if 64 ≤ t.fabric.length then .next { s with pausing := s.pausing.insert port tenant }
      else .next ({ s with pausing := s.pausing.erase port }.setTenant tenant
        { t with fabric := t.fabric ++ [withSource packet srcdev] })
    | _, _ => .next (dropPacket s tenant binding srcdev 3)

/-- R408: the reports of a phase in the launches of a context. -/
def reportPhase (s : State) (ctx phase : Nat) (f : Nat → Nat) : State :=
  { s with launches := s.launches.mapVals fun _ l =>
      if l.ctx = ctx ∧ l.ended = false ∧ l.handlerFor = none then
        { l with podReports := l.podReports.insert phase (f (l.podReports.read phase 0)) }
      else l }

/-- R408: the barrier packets of a tenant for a phase of a domain have done their work. -/
def endBarrierPackets (s : State) (tenant domain phase : Nat) : State :=
  { s with sent := s.sent.filter fun p => !(decide (p.2.what = .barrier domain phase) && decide (p.2.tenant = tenant)) }

/-- FABRIC_BARRIER_RECEIVE (R405, R408): another device's arrival counts towards the phase in the bound context, if it is of
the domain; a release completes the phase. -/
def execFabricBarrierReceive (route : BarrierRoute) (phase : Nat) (release : Bool) (s : State) : Out :=
  let tenant := route.tenant
  let domain := route.domain
  if domain = 0 ∨ 255 < domain then .refused .notEnabled
  else match boundContext s tenant route.binding with
    | none => .next (dropPacket s tenant route.binding route.src 4)
    | some (ctx, c) =>
      if c.domain ≠ domain then .next s
      else
        let s1 := reportPhase s ctx phase fun n => if release then c.domainSize else n + 1
        .next (settle (if release then endBarrierPackets s1 tenant domain phase else s1))

/-! ## Collectives (R291, R474) -/

/-- R474: the bytes that a tenant's contributions take in staging: those that no member here has started. -/
def stagedBytes (s : State) (tenant : Nat) : Nat :=
  (s.collectives.vals.filter fun st => (s.contexts.get? st.ctx).any (fun c => decide (c.tenant = tenant)) &&
    (membersOf s st.ctx st.comm st.k).isEmpty).foldl (fun n st => n + st.parts.vals.foldl (fun n p => n + p.bytes.length) 0) 0

/-- FABRIC_COLLECTIVE_RECEIVE (R474): it waits while staging is full. -/
def execFabricCollectiveReceive (pkt : FabricColl) (s : State) : Out :=
  match boundContext s pkt.tenant pkt.binding with
  | none => .next (dropPacket s pkt.tenant pkt.binding pkt.src 5)
  | some (ctx, _) =>
    if 256 < pkt.bytes.length ∨ (pkt.bytes = [] ∧ pkt.op ≠ 3) ∨
       ((membersOf s ctx pkt.comm pkt.k).isEmpty ∧ 2 ^ 22 < stagedBytes s pkt.tenant + pkt.bytes.length) then .refused .notEnabled
    else .next (settle (stagePart ((acknowledge s pkt.src).engineStamp collAgent).2 ctx pkt))

/-- R474, R483: a collective that has not completed when its time is up. -/
def overdue (s : State) (st : Staged) : Bool := !st.failed && decide (st.since + 10000000 ≤ s.ticks.toNat)

/-- COLLECTIVE_TIMEOUT (R474). -/
def execCollectiveTimeout (tenant comm k : Nat) (s : State) : Out :=
  match s.collectives.vals.find? fun st => decide (st.comm = comm) && decide (st.k = k) && overdue s st &&
      (s.contexts.get? st.ctx).any fun c => decide (c.tenant = tenant) with
  | none => .refused .notEnabled
  | some st => .next (settle (dropStaged (failCollective s st.ctx comm k 2) st.ctx comm k))

/-! ## Links (R403, R429, R476) -/

/-- Whether a port's link is up. -/
def portUp (s : State) (port : Nat) : Bool := s.ports.read port false

/-- R403, R476: packets go out whose class is paused on their route no more. -/
def releasePackets (s : State) : State :=
  { s with sent := s.sent.mapVals fun _ p => { p with left := p.left || !s.classPaused p.dest p.cls } }

/-- R403, R489: a peer pauses a class on a port's link, or lets it go on. -/
def execClassPause (port cls : Nat) (paused : Bool) (s : State) : Out :=
  if 24 ≤ port ∨ 6 ≤ cls then .refused .notEnabled
  else .next (releasePackets { s with paused := Table.write s.paused (8 * port + cls) paused false })

/-- LINKRETRY (R403, R476): a flit is sent again. The event has no owner. -/
def execLinkretry (port : Nat) (s : State) : Out :=
  if 24 ≤ port ∨ portUp s port = false then .refused .notEnabled
  else .next (report s ⟨false, 2, port, 0, 0, 0, 0xFFFF, none, none⟩)

/-- R476: the destinations to which something is unacknowledged. -/
def pendingDests (s : State) : List Nat := (s.sent.vals.map (·.dest)).eraseDups

/-- LINK_DOWN (R476): packets not acknowledged are sent again on new routes, for up to 1 ms. -/
def execLinkDown (port : Nat) (s : State) : Out :=
  if 24 ≤ port ∨ portUp s port = false then .refused .notEnabled
  else .next <| releasePackets { s with
    ports := s.ports.erase port
    skewPort := s.skewPort.update port fun w => w &&& 0x7FFFFFFF
    rerouting := (pendingDests s).foldl (fun t d => if (t.get? d).isSome then t else t.insert d s.ticks.toNat) s.rerouting }

/-- LINK_UP (R476, R429): the port's SKEWPORT gets V, and packets are sent again on the restored route. -/
def execLinkUp (port : Nat) (s : State) : Out :=
  if 24 ≤ port ∨ portUp s port = true then .refused .notEnabled
  else .next <| releasePackets { s with
    ports := s.ports.insert port true
    skewPort := s.skewPort.insert port (s.skewPort.read port 0 ||| 0x80000000)
    rerouting := [] }

/-- R476, R461: a lane's packet is lost: a read is poisoned, a write dropped, an RMW not performed. -/
def loseLane (s : State) (p : Packet) (access lane : Nat) : State :=
  match s.accesses.get? access with
  | none => s
  | some a =>
    match issuerOf s a.group, a.lanes.find? fun la => decide (la.lane = lane) with
    | some u, some la =>
      let s1 := failLane s access la a.kind.reads
      settle (contextEvent s1 u.l.ctx ueFabdel 2 (fabdelDetail p.dest p.cls) la.va u.l.lid u.g.agent.toNat)
    | _, _ => s

/-- R476: an entry's packet is lost, or one of the fetch of a joint operation. -/
def loseEntryPacket (s : State) (p : Packet) (id : Nat) : State :=
  match s.entries.get? id, s.joints.get? id with
  | some e, _ =>
    let s1 := contextEvent s e.ctx ueFabdel 2 (fabdelDetail p.dest p.cls) (entryAddr e) 0 e.agent.toNat
    failEntry s1 id e .mem (engBit memPeer) 3 0 (entryAddr e) 0
  | none, some j =>
    let s1 := report s ⟨true, ueFabdel, 2, fabdelDetail p.dest p.cls, 0, 0, 0xFFFF, none, some p.tenant⟩
    failJoint s1 id j .mem (engBit memPeer) 3 0 0 0
  | none, none => s

/-- R476: a group that waits at a pod barrier of a domain raises POD_LOST. -/
def losePod (s : State) (domain gid : Nat) : State :=
  match issuerOf s gid with
  | none => s
  | some u =>
    match u.g.status, u.g.wait with
    | .blocked, some (.barrier .grid _ true) =>
      if u.c.domain = domain then takeTrap s u (standingInfo s u (.group .sync 0x9 0)) else s
    | _, _ => s

/-- R476: a barrier packet is lost: the phase is abandoned, and the domain must be set again. -/
def loseBarrier (s : State) (domain : Nat) : State :=
  let s1 := s.groups.keys.foldl (fun s gid => losePod s domain gid) s
  { s1 with contexts := s1.contexts.mapVals fun _ c => if c.domain = domain then { c with domain := 0, domainSize := 0 } else c }

/-- R476: a packet to an unreachable destination ends. -/
def losePacket (s : State) (k : Nat) : State :=
  match s.sent.get? k with
  | none => s
  | some p =>
    let s1 := { s with sent := s.sent.erase k }
    match p.what with
    | .entry id => loseEntryPacket s1 p id
    | .lane access lane => loseLane s1 p access lane
    | .barrier domain _ => loseBarrier s1 domain
    | .response _ => s1

/-- LINK_REROUTE_TIMEOUT (R476): a destination is still unreachable after 1 ms. -/
def execLinkRerouteTimeout (device : Nat) (s : State) : Out :=
  match s.rerouting.get? device with
  | none => .refused .notEnabled
  | some t =>
    if s.ticks.toNat < t + 1000000 then .refused .notEnabled
    else
      let lost := (s.sent.filter fun p => decide (p.2.dest = device)).map Prod.fst
      let s1 := lost.foldl losePacket { s with rerouting := s.rerouting.erase device }
      .next (settle (deviceRecord s1
        (Event.record ⟨true, ueFabdel, 2, device % 4096, 0, 0, 0xFFFF, none, none⟩ s.ticks.toNat)))

end Sys2Proof.Machine
end

