-- ==== Sys2Proof/Machine/Horizon.lean ====
section
/-!
DEFINITION. Horizon instructions (spec/11 R311 to R319; spec/13 R365).
-/

namespace Sys2Proof.Machine

/-! ## Slots -/

/-- R439: a Horizon fault. -/
def hzRaise (u : Issuer) (sub slot lane : Nat) : Raise :=
  let n := match u.t.slots.get? slot with
    | some h => h.front.length
    | none => 0
  ⟨.hzn, sub, lane, 0, slot + 256 * n, 0⟩

/-- R311, R461: the faults of naming a slot. One that has an uncorrectable word raises POISON until `hzinit` has written it
(log entry 82). -/
def slotFault (u : Issuer) (slot : Nat) (configured : Bool) : Option Raise :=
  if u.l.hz ≤ slot then some (hzRaise u 0x1 slot 0xFF)
  else if !configured then none
  else match u.t.slots.get? slot with
    | none => some (hzRaise u 0x2 slot 0xFF)
    | some h => if h.bad then some ⟨.err, 0x1, 0xFF, 0, 0, 0⟩ else none

/-- The slot of a number, as it stands. -/
def slotOf (t : Team) (k : Nat) : HzSlot := t.slots.read k (HzSlot.init 0)

/-- A slot set. -/
def setSlot (s : State) (tid k : Nat) (h : HzSlot) : State :=
  s.modifyTeam tid fun t => { t with slots := t.slots.insert k h }

/-- R365: a group's own buffered entries for a slot are drained before its instruction takes effect. -/
def drainOwn (s : State) (u : Issuer) (slot : Nat) : State :=
  if u.l.det then s.modifyTeam u.g.team fun t => drainFronts t fun e => decide (e.g = u.g.g) && decide (e.slot = slot)
  else s

/-- R319, R365: whether insertions into a slot are buffered. -/
def buffered (u : Issuer) (h : HzSlot) : Bool := u.l.det && decide (h.policy = 1 ∨ h.policy = 2)

/-- R365: whether n more entries exceed the buffer. -/
def hzFull (u : Issuer) (n : Nat) : Bool := decide (Config.detBuffer < u.t.hzs.length + n)

/-- R365: the fault of n more entries that exceed the buffer. -/
def fullRaise (u : Issuer) (h : HzSlot) (n : Nat) : Option Raise :=
  if buffered u h && hzFull u n then some (.group .det 0x3 0) else none

/-- R314, R319: the fault of an insertion that overflows in a slot whose overflow is a fault. -/
def overflowRaise (u : Issuer) (h : HzSlot) (slot lane : Nat) : Option Raise :=
  if h.policy = 3 then some (hzRaise u 0x3 slot lane)
  else if u.l.det && decide (h.policy = 0) then some ⟨.det, 0x4, lane, 0, 0, 0⟩ else none

/-! ## hzinit, hzins and hzmerge -/

/-- R94: the configuration field of `hzinit`. -/
def hzConfig (f : FormH) : BitVec 22 := f.d ++ f.a

/-- R311: hzinit. -/
def execHzinit (f : FormH) (s : State) : Out :=
  groupOp s [] (fun u => slotFault u f.hs.toNat false) fun u =>
    .next (finish (setSlot (drainOwn s u f.hs.toNat) u.g.team f.hs.toNat (HzSlot.init (hzConfig f))) u u.g voidEntry)

/-- R313: the tuple of a lane. -/
def tupleOf (u : Issuer) (f : FormH) (nkeys l : Nat) : Tuple :=
  ⟨(upFrom 0 nkeys).map fun k => rdRun u f.d k l, rd u f.a l⟩

/-- R313: the predicates of the lanes, from whether each was kept. -/
def keptPreds (g : Group) (f : FormH) (ks : List (Nat × Bool)) : Group :=
  ks.foldl (fun g p => (g.setPred f.qn.toNat p.1 (!p.2)).setPred f.qk.toNat p.1 p.2) g

/-- R313: hzins. -/
def execHzins (f : FormH) (s : State) : Out :=
  withIssuer s fun u =>
    let slot := f.hs.toNat
    let lanes := u.enabledLanes f.tt
    let h := slotOf u.t slot
    let uses := [srcRun fieldD f.d h.nkeys, src fieldA f.a]
    let trap := fun r : Raise => (.next (trapLanes s u r lanes uses) : Out)
    match (slotFault u slot true).orElse fun _ => fullRaise u h lanes.length with
    | some r => trap r
    | none =>
      match lanesFault u uses lanes with
      | some r => trap r
      | none =>
        let ts := lanes.map (tupleOf u f h.nkeys)
        if buffered u h then
            let es := (lanes.zip ts).map fun p => (⟨u.g.g, u.g.ic.toNat, p.1, slot, [p.2]⟩ : HzEntry)
            let ks := (lanes.zip ts).map fun p => (p.1, h.kint || !p.2.keys.any wordNaN)
            .next (finish (s.modifyTeam u.g.team fun t => { t with hzs := t.hzs ++ es }) u (keptPreds u.g f ks) voidEntry)
        else
          let o := insertAll h ts
          match o.2.2.bind fun i => overflowRaise u h slot ((lanes[i]?).getD 0) with
          | some r => trap r
          | none =>
            .next (finish (setSlot s u.g.team slot o.1) u (keptPreds u.g f (lanes.zip o.2.1)) voidEntry)

/-- R315: the slots of a merge must differ and agree. -/
def mergeFault (u : Issuer) (f : FormH) : Option Raise :=
  let d := slotOf u.t f.hs.toNat
  let x := slotOf u.t f.hx.toNat
  firstSome id [slotFault u f.hs.toNat true, slotFault u f.hx.toNat true,
    if f.hs = f.hx ∨ d.nkeys ≠ x.nkeys ∨ d.kint ≠ x.kint ∨
       (upFrom 0 8).any (fun k => decide (d.maximised k ≠ x.maximised k)) = true
    then some (hzRaise u 0x2 f.hs.toNat 0xFF) else none]

/-- R315: a merge, the group's own entries drained. -/
def mergeSlots (s0 s : State) (u : Issuer) (f : FormH) : Out :=
  match s.teams.get? u.g.team with
  | none => .next s0
  | some t =>
    let d := slotOf t f.hs.toNat
    let ts := (slotOf t f.hx.toNat).front
    if buffered u d then
      if hzFull { u with t := t } 1 then .next (trapScalar s0 u (.group .det 0x3 0) [])
      else
        let e : HzEntry := ⟨u.g.g, u.g.ic.toNat, 0, f.hs.toNat, ts⟩
        .next (finish (s.modifyTeam u.g.team fun t => { t with hzs := t.hzs ++ [e] }) u u.g voidEntry)
    else
      let o := insertAll d ts
      match o.2.2.bind fun _ => overflowRaise { u with t := t } d f.hs.toNat 0xFF with
      | some r => .next (trapScalar s0 u r [])
      | none => .next (finish (setSlot s u.g.team f.hs.toNat o.1) u u.g voidEntry)

/-- R315: hzmerge. -/
def execHzmerge (f : FormH) (s : State) : Out :=
  groupOp s [] (fun u => mergeFault u f) fun u =>
    mergeSlots s (drainOwn (drainOwn s u f.hs.toNat) u f.hx.toNat) u f

/-! ## Reading (R316) -/

/-- R316: the words that a lane of an `hzread` receives. -/
def hzWords (h : HzSlot) (i : Nat) : List Word :=
  match h.front[i]? with
  | some t => t.keys ++ [t.payload]
  | none => List.replicate h.nkeys 0 ++ [0xFFFFFFFF]

/-- R316: hzread. -/
def execHzread (f : FormH) (s : State) : Out :=
  withIssuer s fun u =>
    let slot := f.hs.toNat
    let lanes := u.enabledLanes f.tt
    let d := dstRun f.d ((slotOf u.t slot).nkeys + 1)
    let uses := [d, src fieldA f.a]
    if counterFull u then .next (stallIn s u 3) else
    match slotFault u slot true with
    | some r => .next (trapLanes s u r lanes uses)
    | none =>
      match lanesFault u uses lanes with
      | some r => .next (trapLanes s u r lanes uses)
      | none =>
        let s1 := drainOwn s u slot
        let h := match s1.teams.get? u.g.team with
          | some t => slotOf t slot
          | none => slotOf u.t slot
        let ws := lanes.flatMap fun l => resultWrites u d false l (hzWords h (rd u f.a l).toNat)
        .next (issueDeferred s1 u .hzread ws 0)

/-- HZREAD_COMPLETION (R316). -/
def execHzreadCompletion (access : Nat) (s : State) : Out :=
  completeDeferred s access fun k => decide (k = .hzread)

/-- R316: an instruction that reads a slot into D: the group's own entries drain where it faults in no check. -/
def hzReadOp (f : FormH) (value : HzSlot → Word) (s : State) : Out :=
  withIssuer s fun u =>
    let d := dst f.d
    let k : LaneForm := ⟨f.tt, f.sc, destUnless f.nw d, [], 1⟩
    let pre := fun u : Issuer => slotFault u f.hs.toNat true
    let bad := (pre u).isSome || (if f.sc then scalarFault u k.uses else lanesFault u k.uses (u.enabledLanes f.tt)).isSome
    vectorOp (if bad then s else drainOwn s u f.hs.toNat) k pre fun u _ =>
      out32 (value (slotOf u.t f.hs.toNat)).toNat

/-- R316: hzcount. -/
def execHzcount (f : FormH) (s : State) : Out := hzReadOp f (fun h => BitVec.ofNat 32 h.front.length) s

/-- R316: the statistics that `hzstat` selects. -/
def hzStatistic (fn : Nat) (h : HzSlot) : Word :=
  match fn with
  | 0 => h.insert
  | 1 => h.discard
  | 2 => h.evict
  | 3 => h.overs
  | 4 => h.nan
  | _ => h.config.zeroExtend 32

/-- R316: hzstat. -/
def execHzstat (f : FormH) (s : State) : Out := hzReadOp f (hzStatistic f.fn.toNat) s

/-- R316: hzclear. -/
def execHzclear (f : FormH) (s : State) : Out :=
  groupOp s [] (fun u => slotFault u f.hs.toNat true) fun u =>
    .next (finish (setSlot (drainOwn s u f.hs.toNat) u.g.team f.hs.toNat
      (HzSlot.init (slotOf u.t f.hs.toNat).config)) u u.g voidEntry)

/-- R317: what an `hzstore` writes: the count, then the tuples. -/
def frontWords (h : HzSlot) : List Word :=
  BitVec.ofNat 32 h.front.length :: h.front.flatMap fun t => t.keys ++ [t.payload]

/-- R317: hzstore. -/
def execHzstore (sp : GTSpace) (f : FormH) (s : State) : Out :=
  withIssuer s fun u =>
    let uses := [baseUse (gtSpace sp) f.a]
    let slot := f.hs.toNat
    if counterFull u then .next (stallIn s u 3) else
    match slotFault u slot true with
    | some r => .next (trapScalar s u r uses)
    | none =>
      match scalarFault u uses with
      | some r => .next (trapScalar s u r uses)
      | none =>
        let base := match sp with
          | .g => sval64 u f.a
          | .t => sval u f.a
        let s1 := drainOwn s u slot
        let h := match s1.teams.get? u.g.team with
          | some t => slotOf t slot
          | none => slotOf u.t slot
        let ws := frontWords h
        if !legalIn u (gtSpace sp) base (4 * ws.length) then
          .next (trapScalar s u (memRaise (illegalSub (gtSpace sp)) 0xFF base) uses)
        else if base % 4 ≠ 0 then .next (trapScalar s u (memRaise memAlign 0xFF base) uses)
        else .next (issueCounted s1 u (.front (decide (sp = .t)) base ws) (0x344 + if sp = .g then 1 else 0) 3)

end Sys2Proof.Machine
end

