-- ==== Sys2Proof/Machine/Observing.lean ====
section
/-!
DEFINITION. Watching the machine (spec/20 R420 to R431): Contrail and Sounding written to memory, sampling, Barometer captures
and the skew registers.
-/

namespace Sys2Proof.Machine

/-! ## Writes for the host to see (R420) -/

/-- R420, R488: a write through W = 0 is dropped, and reported. -/
def droppedWrite (s : State) (ctx sub va : Nat) : State := contextNotice s ctx 0x23 sub 0 va 0

/-- R420: bytes written through a context's tables, once the pages are there. -/
def observe (s : State) (ctx va : Nat) (bytes : List Byte) : State :=
  match deviceWrite s ctx va bytes with
  | some s1 => settle s1
  | none => s

/-! ## Sounding (R426, R427) -/

/-- R426: whether a context's ring is full. -/
def soundFull (c : Context) : Bool := decide ((c.shead - c.stail).toNat = 2 ^ field c.obsctl.toNat 28 24)

/-- R426: where the next record stands. -/
def soundAddr (c : Context) : Nat := c.sbase.toNat + 64 * (c.shead.toNat % 2 ^ field c.obsctl.toNat 28 24)

/-- R426: the first finished record of a context is written, dropped, or waits for its page. -/
def flushSound (s : State) (ctx : Nat) (c : Context) : State :=
  match c.soundQ with
  | [] => s
  | r :: t =>
    let c1 := { c with soundQ := t }
    if soundFull c then s.setContext ctx { c1 with sdrop := if c.sdrop = 0xFFFFFFFF then c.sdrop else c.sdrop + 1 }
    else match deviceReady s ctx kindEngineWrite (soundAddr c) 64 with
      | .waits s1 => s1
      | .ready => (observe s ctx (soundAddr c) (leBytes 64 r.toNat)).modifyContext ctx fun c => { c with soundQ := t, shead := c.shead + 1 }
      | _ => droppedWrite (s.setContext ctx c1) ctx 1 (soundAddr c)

/-- The finished records of every context, the first of each. -/
def flushSounds (s : State) : State := s.contexts.foldl (fun s p => flushSound s p.1 p.2) s

/-- R426: the sampled context that has a team on a core. -/
def sampledOn (s : State) (core : Nat) : Option Context :=
  (s.contexts.find? fun p => p.2.sampling && s.teams.any fun q => decide (q.2.core = core) &&
    (s.launches.get? q.2.launch).any fun l => decide (l.ctx = p.1)).map Prod.snd

/-- SOUNDING_INTERVAL (R426): the interval of a quadrant is over before its next instruction is counted, which would begin the
next one too: the LFSR steps and gives the interval. -/
def execSoundingInterval (core quad : Nat) (s : State) : Out :=
  match (s.cores.get? core).bind fun c => c.samplers.get? quad, sampledOn s core with
  | some p, some c =>
    if p.left ≠ 0 ∨ p.tagNext = true then .refused .notEnabled
    else
      let q := p.nextInterval (field c.obsctl.toNat 20 16)
      .next ((flushSounds s).modifyCore core fun c => { c with samplers := c.samplers.insert quad q })
  | _, _ => .refused .notEnabled

/-! ## Contrail (R421, R423, R424) -/

/-- R421: a core's segment, and the bytes of stream that it holds, by the TRBASE and SEGLOG2 under which its bytes were staged
(R419, log entry 92). -/
def segmentBase (seg : Nat × Nat) (core : Nat) : Nat := seg.1 + core * 2 ^ seg.2
def segmentRoom (seg : Nat × Nat) : Nat := 2 ^ seg.2 - 64

/-- R421: stream bytes from byte n on at their places in a segment, one by one: they run on across the wrap. -/
def writeStream (s : State) (ctx base room : Nat) : Nat → List Byte → State
  | _, [] => s
  | n, b :: t => writeStream ((deviceWrite s ctx (base + 64 + n % room) [b]).getD s) ctx base room (n + 1) t

/-- R421: whether the pages of the head of a segment, and of stream bytes from n on, are there. -/
def streamReady (s : State) (ctx base room n k : Nat) : DeviceAccess :=
  match deviceReady s ctx kindEngineWrite base 16 with
  | .ready =>
    match deviceReady s ctx kindEngineWrite (base + 64 + n % room) (min k (room - n % room)) with
    | .ready => deviceReady s ctx kindEngineWrite (base + 64) (max 1 (k - (room - n % room)))
    | x => x
  | x => x

/-- R424: bytes have left a staging buffer. When it has emptied after drops, also of a packet longer than the buffer, a LOSS
follows, and after it a SYNC. -/
def afterDrain (s : State) (core ctx : Nat) (c : Context) (k : Nat) : State :=
  match (s.cores.get? core).bind fun x => x.staging.get? ctx with
  | none => s
  | some st =>
    let rest := st.bytes.drop k
    let put := fun st : Staging => s.modifyCore core fun x => { x with staging := x.staging.insert ctx st }
    if rest.isEmpty && decide (0 < st.dropped) then
      let s1 := put { st with bytes := [], dropped := 0 }
      if c.tracing then stageSync (stagePacket s1 core ctx st.lastSlot false (0x80#8 :: varBytes 10 st.dropped)) core ctx else s1
    else put { st with bytes := rest }

/-- R420, R421, R424: the staged bytes of a core for a context drain as far as there is room. -/
def drainStaging (s : State) (core ctx : Nat) (c : Context) (st : Staging) : Option Out :=
  let base := segmentBase st.segment core
  let room := segmentRoom st.segment
  if st.bytes.isEmpty then if st.dropped = 0 then none else some (.next (afterDrain s core ctx c 0))
  else match deviceReady s ctx kindEngineWrite base 16 with
    | .waits s1 => some (.next s1)
    | .nowhere loc => some (.fault (.noSuchPhysicalAddress loc))
    | .fatal => some (.next (droppedWrite (afterDrain s core ctx c st.bytes.length) ctx 0 base))
    | .ready =>
      let head := leNat ((deviceRead s ctx base 8).getD [])
      let tail := leNat ((deviceRead s ctx (base + 8) 8).getD [])
      let k := min st.bytes.length (room - (head - tail))
      if k = 0 then none
      else match streamReady s ctx base room head k with
        | .waits s1 => some (.next s1)
        | .nowhere loc => some (.fault (.noSuchPhysicalAddress loc))
        | .fatal => some (.next (droppedWrite (afterDrain s core ctx c st.bytes.length) ctx 0 (base + 64 + head % room)))
        | .ready =>
          let s1 := writeStream s ctx base room head (st.bytes.take k)
          let s2 := (deviceWrite s1 ctx base (leBytes 8 (head + k))).getD s1
          some (.next (settle (afterDrain s2 core ctx c k)))

/-- CONTRAIL_DRAIN (R424): a core's staged bytes drain into a segment: those of the lowest context that has some and room for
them. Finished Sounding records are written too. -/
def execContrailDrain (core : Nat) (s : State) : Out :=
  let s0 := flushSounds s
  match s.cores.get? core with
  | none => .refused .notEnabled
  | some c =>
    let go := fun p : Nat × Staging => (s0.contexts.get? p.1).bind fun x => drainStaging s0 core p.1 x p.2
    match firstSome go c.staging with
    | some o => o
    | none => if s.contexts.vals.all fun x => x.soundQ.isEmpty then .refused .notEnabled else .next s0

/-! ## Barometer (R430, R431) -/

/-- R430: whether SRC and INDEX of a monitor name a source. -/
def monitorSource (die : Nat) (bctl : Nat) : Bool :=
  let i := field bctl 23 16
  match field bctl 15 8 with
  | 1 => decide (i < 128) && decide (field i 6 5 < 3)
  | 2 => decide (i = 0)
  | 3 => decide (i < 24)
  | 4 => decide (field i 4 0 < 24) && decide (field i 7 5 < 6)
  | 5 => decide (i < 16)
  | 6 => decide (i < 8)
  | 7 => decide (i < 48)
  | 8 => decide (i < 4) && decide (i ≠ die)
  | _ => false

/-- R431: a value above ALARMHI that follows one at or below it. -/
def alarms (m : Monitor) (v : Word) : Bool :=
  m.bctl.getLsbD 2 && decide (m.alarmHi.toNat < v.toNat) && m.last.any fun x => decide (x.toNat ≤ m.alarmHi.toNat)

/-- R430, R431: whether the source of a monitor is a level, sampled every 1,024 ticks, and not a latency. -/
def levelSource (bctl : Nat) : Bool := let src := field bctl 15 8; decide (4 ≤ src) && decide (src ≤ 7)

/-- R431: a monitor's source may be captured at a tick: a level once in each 1,024. -/
def captureDue (m : Monitor) (tick : Nat) : Bool :=
  !levelSource m.bctl.toNat || m.last.isNone || decide (m.lastTick / 1024 ≠ tick / 1024)

/-- R430: the entries in the engine queues of a core, of all tenants. -/
def queueDepth (s : State) (core : Nat) : Nat :=
  ((s.cores.get? core).map fun c => c.queues.vals.foldl (fun n q => n + q.entries.length) 0).getD 0

/-- R430: the value of a source: the state's where it holds it, else what the outside world shows. -/
def sourceValue (s : State) (die : Nat) (m : Monitor) (value : Word) : Word :=
  if field m.bctl.toNat 15 8 = 7 then BitVec.ofNat 32 (queueDepth s (Config.coresPerDie * die + field m.bctl.toNat 23 16)) else value

/-- BAROMETER_CAPTURE (R431). -/
def execBarometerCapture (die mon : Nat) (value : Word) (s : State) : Out :=
  match if Config.dies ≤ die ∨ 16 ≤ mon then none else s.monitors.get? (monitorKey die mon) with
  | none => .refused .notEnabled
  | some m =>
    let tick := (s.dieTicks die).toNat
    if !m.bctl.getLsbD 0 || !monitorSource die m.bctl.toNat || !captureDue m tick then .refused .notEnabled
    else
      let v := sourceValue s die m value
      let s1 := { s with monitors := s.monitors.insert (monitorKey die mon) (capture m tick v) }
      .next (if alarms m v then report s1 ⟨false, 0x40, monitorKey die mon, v.toNat, 0, 0, 0xFFFF, none, none⟩ else s1)

/-! ## Skew (R429) -/

/-- R429: a measured offset as a skew register holds it. -/
def skewWord (offset : BitVec 28) : Word := BitVec.ofNat 32 (2 ^ 31 + offset.toNat)

/-- SKEW_MEASURE (R429): a register takes a new measurement: the six pairs of dies, whose offsets are those of their counters,
then the 24 ports, across which the neighbour's counter is the outside world's. -/
def execSkewMeasure (reg : Nat) (offset : BitVec 28) (s : State) : Out :=
  if reg < 6 then .next { s with skewDie := s.skewDie.insert reg (skewWord (dieOffset s reg)) }
  else if reg < 30 ∧ s.ports.read (reg - 6) false = true then
    .next { s with skewPort := s.skewPort.insert (reg - 6) (skewWord offset) }
  else .refused .notEnabled

end Sys2Proof.Machine
end

