-- ==== Sys2Proof/Machine/Predicate.lean ====
section
/-!
DEFINITION. Comparisons and predicates (spec/08 R215 to R220).
-/

namespace Sys2Proof.Machine

/-! ## Compares (R215, R216) -/

/-- The width of a compared type. -/
def cmpWidth : CmpType → IWidth
  | .i32 | .n32 | .f32 => .w32
  | .i64 | .n64 | .f64 => .w64

/-- R215, R216: condition cc of two codes of a type, and its flags. -/
def compareAs (t : CmpType) (cc a b : Nat) : Bool × Flags :=
  match t with
  | .i32 => (intCompare cc (readInt 32 .signed a) (readInt 32 .signed b), 0)
  | .n32 => (intCompare cc (readInt 32 .unsigned a) (readInt 32 .unsigned b), 0)
  | .i64 => (intCompare cc (readInt 64 .signed a) (readInt 64 .signed b), 0)
  | .n64 => (intCompare cc (readInt 64 .unsigned a) (readInt 64 .unsigned b), 0)
  | .f32 => floatCompare f32Fmt cc a b
  | .f64 => floatCompare f64Fmt cc a b

/-- R96: the condition and the predicate destinations of field D. -/
def cmpCond (d : BitVec 11) : Nat := field d.toNat 10 8
def cmpPd1 (d : BitVec 11) : Nat := field d.toNat 5 3
def cmpPd2 (d : BitVec 11) : Nat := field d.toNat 2 0

/-- A compare's operands. -/
def cmpForm (t : CmpType) (f : FormV) : LaneForm :=
  ⟨f.tt, false, none, [srcW (cmpWidth t) fieldA f.a, srcW (cmpWidth t) fieldB f.b], 0⟩

/-- R215: a lane's compare; `put` says what the old value and the outcome make of a destination. -/
def cmpLane (t : CmpType) (f : FormV) (put : Bool → Bool → Bool) (u : Issuer) (l : Nat) : LaneOut :=
  let w := cmpWidth t
  let r := compareAs t (cmpCond f.d) (rdW u w f.a l) (rdW u w f.b l)
  withFlags (outPreds [(cmpPd1 f.d, put (u.g.pred (cmpPd1 f.d) l) r.1),
                       (cmpPd2 f.d, put (u.g.pred (cmpPd2 f.d) l) !r.1)]) r.2

/-- R215: cmp. -/
def execCmp (t : CmpType) (f : FormV) (s : State) : Out :=
  vectorOp s (cmpForm t f) noCheck (cmpLane t f fun _ c => c)

/-- R215: cmpa. -/
def execCmpa (t : CmpType) (f : FormV) (s : State) : Out :=
  vectorOp s (cmpForm t f) noCheck (cmpLane t f fun old c => old && c)

/-- R215: cmpo. -/
def execCmpo (t : CmpType) (f : FormV) (s : State) : Out :=
  vectorOp s (cmpForm t f) noCheck (cmpLane t f fun old c => old || c)

/-! ## Predicates -/

/-- R217: plop. -/
def execPlop (f : FormI) (s : State) : Out :=
  vectorOp s ⟨f.tt, false, none, [], 0⟩ noCheck fun u l =>
    let p := fun hi lo : Nat => if u.g.pred (field f.imm.toNat hi lo) l then 1 else 0
    outPreds [(field f.imm.toNat 19 17, bitOf (f.imm.toNat % 256) (p 10 8 * 4 + p 13 11 * 2 + p 16 14))]

/-- R218: the operands of a form of pmov. -/
def pmovForm (f : FormV) : LaneForm :=
  if f.c = 0 then ⟨f.tt, false, none, [], 0⟩
  else if f.c = 1 then ⟨f.tt, false, none, [src fieldA f.a], 0⟩
  else ⟨f.tt, false, destUnless f.nw (dst f.d), [], 1⟩

/-- R218: pmov. -/
def execPmov (f : FormV) (s : State) : Out :=
  vectorOp s (pmovForm f) noCheck fun u l =>
    if f.c = 0 then outPreds [(f.d.toNat % 8, u.g.pred (f.a.toNat % 8) l)]
    else if f.c = 1 then outPreds [(f.d.toNat % 8, (rd u f.a l).getLsbD 0)]
    else out32 (if u.g.pred (f.a.toNat % 8) l then 1 else 0)

/-- R219: the active lanes whose predicate qs is set. -/
def predLanes (u : Issuer) (qs : BitVec 11) : List Nat := u.activeLanes.filter (u.g.pred (qs.toNat % 8))

/-- R219: ballot. -/
def execBallot (f : FormV) (s : State) : Out :=
  groupOp s [dst f.d] noCheck fun u =>
    let lanes := predLanes u f.a
    let r := maskOf 32 fun i => decide (32 * (f.b.toNat % 4) + i ∈ lanes)
    .next (finish s u (setScalar u.g f.d r) voidEntry)

/-- R219: pcount. -/
def execPcount (f : FormV) (s : State) : Out :=
  groupOp s [dst f.d] noCheck fun u =>
    .next (finish s u (setScalar u.g f.d (predLanes u f.a).length) voidEntry)

/-- R219: pfirst. -/
def execPfirst (f : FormV) (s : State) : Out :=
  groupOp s [dst f.d] noCheck fun u =>
    .next (finish s u (setScalar u.g f.d ((predLanes u f.a).headD 0xFFFFFFFF)) voidEntry)

/-- R220: plive. -/
def execPlive (f : FormI) (s : State) : Out :=
  groupOp s [] noCheck fun u =>
    .next (finish s u { u.g with plive := f.imm.truncate 8 } voidEntry)

end Sys2Proof.Machine
end

