-- ==== Sys2Proof/Machine/Serial.lean ====
section
/-!
DEFINITION. The serial point of a demotion, and the round robin of Calm mode (spec/14 R371 to R375, R382, R383; spec/23 R475).
-/

namespace Sys2Proof.Machine

/-! ## Completion (R371 stage 3) -/

/-- Whether a group is of the context that is being demoted. -/
def demotes (s : State) (ctx gid : Nat) : Bool := (s.groups.get? gid).any fun g => ofDemotedKind s g ctx

/-- R371 stage 3: everything that the demoted groups have issued has completed, but for what is frozen. A held rendezvous and
an exempt partner have been resolved. -/
def demotionComplete (s : State) (ctx : Nat) : Bool :=
  s.accesses.vals.all (fun a => a.frozen || !demotes s ctx a.group) &&
  s.deferred.vals.all (fun d => !demotes s ctx d.group) &&
  s.entries.vals.all (fun e => !demotes s ctx e.group) &&
  s.joints.vals.all (fun j => j.members.all fun m => !demotes s ctx m.group) &&
  s.groups.all fun p => !demotes s ctx p.1 || !exemptFromGate s p.1 p.2

/-! ## The drain (R371 stage 4) -/

/-- The frozen accesses of a group, in program order. -/
def frozenOf (s : State) (gid : Nat) : List Nat :=
  (s.accesses.filter fun p => decide (p.2.group = gid) && p.2.frozen).map Prod.fst

/-- R371: one frozen access performs, lanes ascending, and completes. -/
def thaw (s : State) (n : Nat) : State :=
  match s.accesses.get? n with
  | none => s
  | some a =>
    let s1 := s.modifyAccess n fun a => { a with frozen := false }
    (advanceAccess s1 n a.lanes.length false).getD s1

/-- R371: the frozen accesses of a context perform in context order. -/
def drainFrozen (s : State) (ctx : Nat) : State :=
  (contextOrder s ctx).foldl (fun s gid => (frozenOf s gid).foldl thaw s) s

/-- The teams of a context in context order, with their launches. -/
def contextTeams (s : State) (ctx : Nat) : List Nat :=
  let key := fun p : Nat × Team =>
    match s.launches.get? p.2.launch with
    | some l => (l.accepted, p.2.index)
    | none => (0, 0)
  let before := fun a b : Nat × Team => decide ((key a).1 < (key b).1) ||
    (decide ((key a).1 = (key b).1) && decide ((key a).2 ≤ (key b).2))
  (sortBy before (s.teams.filter fun p => (s.launches.get? p.2.launch).any fun l =>
    decide (l.ctx = ctx) && l.handlerFor.isNone && l.det)).map Prod.fst

/-- R371, R364: a team's reduction buffer drains whole. -/
def drainTeam (s : State) (tid : Nat) : State :=
  match s.teams.get? tid with
  | none => s
  | some t => (sortBy redBefore t.reds).foldl (fun s e => (drainEntry s tid e).getD s) s

/-- R371, R365: the buffers of the DET launches of a context drain. -/
def drainBuffers (s : State) (ctx : Nat) : State :=
  let s1 := (contextTeams s ctx).foldl drainTeam s
  (contextTeams s1 ctx).foldl (fun s tid => s.modifyTeam tid fun t => drainFronts t fun _ => true) s1

/-! ## The serial point (R371 stage 5, R374, R475) -/

/-- R374, R475: the record of a group at its serial point: a group whose trap has not been recorded gets its trap record, and
a group parked at a trap, or retired, gets none. -/
def serialRecord (s : State) (gid : Nat) : State :=
  match issuerOf s gid with
  | none => s
  | some u =>
    match u.g.status, u.g.trap with
    | .retired, _ | .parked, _ => s
    | .trapping, some i => parkAtTrap (putRecord s u { i with calm := false, step := 0 }) u
    | _, _ => putRecord s u (demotionInfo s u)

/-- R371, R374: the state that a group holds at its serial point. A timeout stops with its remaining ticks. -/
def serialGroup (now : Nat) (g : Group) : Group := mapDeadline (fun t => t - now) g

/-- The context reaches its serial point. A promotion already asked for takes effect there (R383). -/
def reachSerialPoint (s : State) (ctx : Nat) (c : Context) : State :=
  let now := s.ticks.toNat
  let s2 := { s with groups := s.groups.mapVals fun gid g => if demotes s ctx gid then serialGroup now g else g }
  let s3 := s2.modifyContext ctx fun c => { c with stage := .demoted, demoteAt := now, lastStepped := none, midStep := none }
  let s4 := (contextOrder s3 ctx).foldl serialRecord s3
  settle (if c.promote then promoteContext s4 ctx else s4)

/-- R371 stage 4: what the demoted groups still have in flight: what the drain has sent to peers. -/
def drainInFlight (s : State) (ctx : Nat) : Bool := s.accesses.vals.any fun a => demotes s ctx a.group

/-- DEMOTION_SERIAL_POINT (R371): once every issued instruction has completed, the drain, and then the serial point. It comes once
peers have answered what the drain sent them. -/
def execDemotionSerialPoint (ctx : Nat) (s : State) : Out :=
  match s.contexts.get? ctx with
  | none => .refused .notEnabled
  | some c =>
    if c.stage ≠ .demoting ∨ demotionComplete s ctx = false then .refused .notEnabled
    else
      let s1 := dropContext (drainFrozen s ctx) ctx
      if drainInFlight s1 ctx then .next s1
      else
        let s2 := dropContext (drainBuffers s1 ctx) ctx
        .next (if drainInFlight s2 ctx then s2 else reachSerialPoint s2 ctx c)

/-! ## The round robin (R375, R382) -/

/-- A place comes after another. -/
def keyAfter (a b : Nat × Nat) : Bool := decide (b.1 < a.1) || (decide (a.1 = b.1) && decide (b.2 < a.2))

/-- R375: the runnable groups of a demoted context, ascending. -/
def runnable (s : State) (ctx : Nat) : List Issuer :=
  ((contextOrder s ctx).filterMap (issuerOf s)).filter fun u =>
    decide (u.g.status = .running) && decide (u.t.status = .resident)

/-- R375: the next to step: the first after the last one, wrapping. -/
def nextToStep (us : List Issuer) (last : Option (Nat × Nat)) : Option Issuer :=
  match last with
  | none => us.head?
  | some k => (us.find? fun u => keyAfter (orderKey u) k).orElse fun _ => us.head?

/-- R382: whether a launch of the context is unended. -/
def launchesLeft (s : State) (ctx : Nat) : Bool :=
  s.launches.vals.any fun l => decide (l.ctx = ctx) && l.handlerFor.isNone && !l.ended

/-- R382: with no runnable group a RUN ends; a STEP waits while a launch is unended. -/
def noneRunnable (s : State) (ctx : Nat) (c : Context) : Out :=
  if c.running then .next (s.setContext ctx { c with running := false })
  else if launchesLeft s ctx then .refused .notEnabled
  else .next (s.setContext ctx { c with stepsLeft := 0 })

/-- R375: the walks of the demoted groups end before the next step is chosen: a walk is no blocking, a replay is. -/
def endWalks (s : State) (ctx : Nat) : State := (contextOrder s ctx).foldl finishWalks s

/-- CALM_STEP (R375, R376, R382): a step in progress goes on; else the next runnable group's step is taken next. -/
def execCalmStep (ctx : Nat) (s : State) : Out :=
  match s.contexts.get? ctx with
  | none => .refused .notEnabled
  | some c =>
    match c.midStep with
    | some f => .next (goOnStep s f)
    | none =>
      if c.stage ≠ .demoted ∨ s.force.isSome = true ∨ s.stopped = true ∨ s.gated = true ∨ c.destroying = true ∨
          (c.running = false ∧ c.stepsLeft = 0) then
        .refused .notEnabled
      else
        let s1 := endWalks s ctx
        match nextToStep (runnable s1 ctx) c.lastStepped with
        | none => noneRunnable s1 ctx c
        | some u => .next { s1 with force := some ⟨u.gid, none, .running, u.g.ic, false⟩ }

end Sys2Proof.Machine
end

