-- ==== Sys2Proof/Machine/Sfu.lean ====
section
/-!
DEFINITION. The special functions (spec/09 R248 to R250): the exact mathematical result rounded once, to
nearest even. 1/a and 1/√a are rounded from the exact quotient. The others are computed in fixed point, to within 2^-340, and
rounded from there (log entry 13).
-/

namespace Sys2Proof.Machine

/-- R248: the seven functions, in the order of their opcodes. -/
inductive SfuFn | rcp | rsq | ex2 | lg2 | sin | cos | tanh deriving DecidableEq, Repr

/-! ## Fixed point with 400 fraction bits -/

/-- 1 in fixed point. -/
def fxOne : Int := (2 : Int) ^ 400

/-- The integer part of π · 2^600. -/
def piBits : Nat := 0x3243f6a8885a308d313198a2e03707344a4093822299f31d0082efa98ec4e6c89452821e638d01377be5466cf34e90c6cc0ac29b7c97c50dd3f84d5b5b54709179216d5d98979fb1bd1310b

/-- The integer part of ln 2 · 2^600. -/
def ln2Bits : Nat := 0xb17217f7d1cf79abc9e3b39803f2f6af40f343267298b62d8a0d175b8baafa2be7b876206debac98559552fb4afa1b10ed2eae35c138214427573b291169b8253e96ca16224ae8c51acbda

/-- ln 2 in fixed point. -/
def fxLn2 : Int := (ln2Bits / 2 ^ 200 : Nat)

/-- The product in fixed point. -/
def fxMul (a b : Int) : Int := a * b / fxOne

/-- A finite value in fixed point; every binary32 value below 2^400 in magnitude is exact. -/
def fxOf : Num → Int
  | .fin neg m e =>
    let n : Int := (if 0 ≤ e + 400 then m * 2 ^ (e + 400).toNat else m / 2 ^ (-(e + 400)).toNat : Nat)
    if neg then -n else n
  | _ => 0

/-- The sum of term k, k + 1, …; each term is the last one times step / (next divisor). -/
def fxSeries (step : Int) (divisor : Nat → Nat) : Nat → Nat → Int → Int → Int
  | 0, _, _, acc => acc
  | n + 1, k, term, acc =>
    fxSeries step divisor n (k + 1) (fxMul term step / (divisor k : Int)) (acc + term)

/-- e^t for 0 ≤ t < 1, from its power series. -/
def fxExp (t : Int) : Int := fxSeries t (fun k => k + 1) 120 0 fxOne 0

/-- 2^t for 0 ≤ t < 1. -/
def fxExp2 (t : Int) : Int := fxExp (fxMul t fxLn2)

/-- The odd series z + z^3/3 + z^5/5 + …, with z2 = z · z. -/
def fxAtanh (z2 : Int) : Nat → Nat → Int → Int → Int
  | 0, _, _, acc => acc
  | n + 1, k, zk, acc => fxAtanh z2 n (k + 2) (fxMul zk z2) (acc + zk / (k : Int))

/-- log2 of m / 2^(bitLength m - 1), a number from 1 up to 2: 2 · atanh((m - 1)/(m + 1)) / ln 2. -/
def fxLog2Mantissa (m : Nat) : Int :=
  let one : Nat := 2 ^ (bitLength m - 1)
  let z : Int := (((m - one) * 2 ^ 400 / (m + one) : Nat) : Int)
  2 * fxAtanh (fxMul z z) 140 1 z 0 * fxOne / fxLn2

/-- The sine (first = x, first divisor number 1) or cosine (first = 1, number 0) of x by its series. -/
def fxCircular (x : Int) (first : Int) (start : Nat) : Int :=
  fxSeries (-(fxMul x x)) (fun k => (2 * k + start + 1) * (2 * k + start + 2)) 140 0 first 0

/-- |x| modulo 2π in fixed point. -/
def fxReduce (x : Int) : Int :=
  ((x.natAbs * 2 ^ 200 % (2 * piBits) / 2 ^ 200 : Nat) : Int)

/-- A number in fixed point that lies within 2^-340 of f(x), for a finite nonzero x that no special row
of R249 settles; scaled by 2^scale for ex2. -/
def fxValue (fn : SfuFn) (x : Num) : Int × Int :=
  let t := fxOf x
  match fn with
  | .ex2 => (fxExp2 (t % fxOne), t / fxOne)
  | .lg2 =>
    match x with
    | .fin _ m e => (fxLog2Mantissa m + (e + (bitLength m : Int) - 1) * fxOne, 0)
    | _ => (0, 0)
  | .sin =>
    let r := fxReduce t
    let s := fxCircular r r 1
    (if x.sign then -s else s, 0)
  | .cos => let r := fxReduce t; (fxCircular r fxOne 0, 0)
  | .tanh =>
    -- e^(2|x|) = 2^(2|x| / ln 2)
    let y := 2 * (t.natAbs : Int) * fxOne / fxLn2
    let e := fxExp2 (y % fxOne) * 2 ^ (y / fxOne).toNat
    let s := (e - fxOne) * fxOne / (e + fxOne)
    (if x.sign then -s else s, 0)
  | _ => (0, 0)

/-- R249, R250: whether a magnitude is at least 9.1. -/
def atLeast9point1 : Num → Bool
  | .fin _ m e =>
    if 0 ≤ e then decide (91 ≤ 10 * (m * 2 ^ e.toNat)) else decide (91 * 2 ^ (-e).toNat ≤ 10 * m)
  | _ => false

/-- Whether a finite value is an integer, and which. -/
def integerValue : Num → Option Int
  | .fin neg m e =>
    let r := roundMag .rz neg m e 0
    if r.2 then none else some (if neg then -(r.1 : Int) else (r.1 : Int))
  | _ => none

/-- R249, R250: flags NV, DZ and OF only. -/
def sfuFlags (r : Coded) : Coded := (r.1, r.2 &&& (flagNV ||| flagDZ ||| flagOF))

/-- R250: the exact result rounded once, to nearest even. It is transcendental, and so no tie; that none lies within 2^-340 of a
rounding boundary is presumed (log entry 13). -/
def sfuRounded (f : FloatFmt) (fn : SfuFn) (x : Num) : Coded :=
  let v := fxValue fn x
  sfuFlags (encodeFloat f .rn false (Num.ofInt v.1 (v.2 - 400)))

/-- 1/√x for a positive finite x, with bits to spare and a last bit that says whether it is inexact. -/
def exactRsqrt (f : FloatFmt) (m : Nat) (e : Int) : Num :=
  let odd := decide (e % 2 ≠ 0)
  let m1 := if odd then 2 * m else m
  let e1 := if odd then e - 1 else e
  let k := f.mbits + 4 + bitLength m1
  let n := 2 ^ (2 * k)
  let r := isqrt (n / m1)
  .fin false (2 * r + (if r * r * m1 = n then 0 else 1)) (-(k : Int) - e1 / 2 - 1)

/-- R249, R250: a special function of a code, in binary32 or binary16. -/
def sfuValue (f : FloatFmt) (fn : SfuFn) (a : Nat) : Coded :=
  let x := decodeFloat f a
  let nan : Coded := (f.nanCode, flagNV)
  let one : Nat := (encodeFloat f .rn false (.fin false 1 0)).1
  match fn, x with
  | _, .nan sig => (f.nanCode, flagIf sig flagNV)
  | .rcp, .zero n => (f.signed n f.infCode, flagDZ)
  | .rcp, .inf n => (f.signed n 0, 0)
  | .rcp, .fin n m e =>
    let q := quotientWith (f.mbits + 4) 1 m
    sfuFlags (roundFinite f .rn false n q.1 (q.2 - e))
  | .rsq, .zero n => (f.signed n f.infCode, flagDZ)
  | .rsq, .inf false => (0, 0)
  | .rsq, .inf true => nan
  | .rsq, .fin true _ _ => nan
  | .rsq, .fin false m e => sfuFlags (encodeFloat f .rn false (exactRsqrt f m e))
  | .ex2, .zero _ => (one, 0)
  | .ex2, .inf false => (f.infCode, 0)
  | .ex2, .inf true => (0, 0)
  | .ex2, .fin neg m e =>
    -- beyond ±256 the result overflows, or lies below half the smallest subnormal number
    if 8 ≤ e + (bitLength m : Int) - 1 then (if neg then (0, 0) else (f.infCode, flagOF))
    else match integerValue x with
      | some n => sfuFlags (encodeFloat f .rn false (.fin false 1 n))
      | none => sfuRounded f .ex2 x
  | .lg2, .zero _ => (f.signed true f.infCode, flagDZ)
  | .lg2, .inf false => (f.infCode, 0)
  | .lg2, .inf true => nan
  | .lg2, .fin true _ _ => nan
  | .lg2, .fin false m e =>
    if m = 2 ^ (bitLength m - 1) then
      ((encodeFloat f .rn false (Num.ofInt (e + (bitLength m : Int) - 1) 0)).1, 0)
    else sfuRounded f .lg2 x
  | .sin, .zero n => (f.signed n 0, 0)
  | .sin, .inf _ => nan
  | .cos, .zero _ => (one, 0)
  | .cos, .inf _ => nan
  | .tanh, .zero n => (f.signed n 0, 0)
  | .tanh, .inf n => (f.signed n one, 0)
  | .tanh, .fin n _ _ => if atLeast9point1 x then (f.signed n one, 0) else sfuRounded f .tanh x
  | fn, _ => sfuRounded f fn x

/-- R248: a special function on a register: one binary32 value, or two binary16 elements. -/
def sfuRegister (ty : SfuType) (fn : SfuFn) (w : Nat) : Coded :=
  match ty with
  | .f32 => sfuValue f32Fmt fn w
  | .f16x2 => packed2 (fun a _ _ => sfuValue f16Fmt fn a) w 0 0

end Sys2Proof.Machine
end

