-- ==== Sys2Proof/Machine/Special.lean ====
section
/-!
DEFINITION. The special functions (spec/09 R248 to R250).
-/

namespace Sys2Proof.Machine

/-- R248: a special function. -/
def sfuOp (s : State) (fn : SfuFn) (t : SfuType) (f : FormV) : Out :=
  longOp s ⟨f.tt, f.sc, some (dst f.d), [src fieldA f.a], 0⟩ (dst f.d) .sfu noCheck fun u l =>
    let r := sfuRegister t fn (rd u f.a l).toNat
    withFlags (out32 r.1) r.2

/-- R248: frcp. -/
def execFrcp (t : SfuType) (f : FormV) (s : State) : Out :=
  sfuOp s .rcp t f

/-- R248: frsq. -/
def execFrsq (t : SfuType) (f : FormV) (s : State) : Out :=
  sfuOp s .rsq t f

/-- R248: fex2. -/
def execFex2 (t : SfuType) (f : FormV) (s : State) : Out :=
  sfuOp s .ex2 t f

/-- R248: flg2. -/
def execFlg2 (t : SfuType) (f : FormV) (s : State) : Out :=
  sfuOp s .lg2 t f

/-- R248: fsin. -/
def execFsin (t : SfuType) (f : FormV) (s : State) : Out :=
  sfuOp s .sin t f

/-- R248: fcos. -/
def execFcos (t : SfuType) (f : FormV) (s : State) : Out :=
  sfuOp s .cos t f

/-- R248: ftanh. -/
def execFtanh (t : SfuType) (f : FormV) (s : State) : Out :=
  sfuOp s .tanh t f

/-- SFU_COMPLETION (R250). -/
def execSfuCompletion (access : Nat) (s : State) : Out :=
  completeDeferred s access fun k => decide (k = .sfu)

end Sys2Proof.Machine
end

