-- ==== Sys2Proof/Machine/Watchdog.lean ====
section
/-!
DEFINITION. The watchdog of the engines (spec/06 R170; spec/12 R350; spec/23 R467, R468).
-/

namespace Sys2Proof.Machine

/-- R468: the limit of a tenant's entries, in ticks of 1 ns (R11). -/
def watchLimit (s : State) (tenant : Nat) : Nat :=
  match s.tenants.get? tenant with
  | some t => 4 * t.slice * 1000
  | none => 0

/-- R468: an entry is aborted by the watchdog. -/
def abortEntry (s : State) (id : Nat) (e : Entry) (u : Issuer) : State :=
  let off := if e.performed then entryBytes e else 0
  let s1 := failEntry s id e .copy 0x3 5 off (entryAddr e) 0
  let s2 := contextEvent s1 e.ctx ueWdog (if 2 ≤ e.engine then Config.watchdogSub e.engine else e.engine) e.stamp.toNat (entryAddr e) u.l.lid e.agent.toNat
  let s3 := s2.modifyLaunch u.g.launch fun l => { l with debt := true }
  match e.kind with
  | .collective comm k _ _ _ _ _ _ _ _ =>
    match stagedOf s3 e.ctx comm k with
    | some _ => dropStaged (failCollective s3 e.ctx comm k 3) e.ctx comm k
    | none =>
      let (n, s4) := s3.fresh
      dropStaged (failCollective { s4 with collectives := s4.collectives.insert n ⟨e.ctx, comm, k, [], s.ticks.toNat, false⟩ }
        e.ctx comm k 3) e.ctx comm k
  | _ => s3

/-- R170, R468: a joint operation whose fetch of B has stalled for too long is aborted. -/
def abortJoint (s : State) (op : Nat) (j : JointOp) (u : Issuer) : State :=
  let addr := ((j.stalled.bind s.walks.get?).map (·.va)).getD 0
  let s1 := failJoint s op j .copy 0x3 5 0 addr 0
  let stamp := ((j.members.head?).map fun m => m.stamp.toNat).getD 0
  let s2 := contextEvent s1 u.l.ctx ueWdog (Config.watchdogSub 4) stamp addr u.l.lid (engineOf u.g.agent).toNat
  s2.modifyLaunch u.g.launch fun l => { l with debt := true }

/-- R468: a delivery that has stalled for too long on a walk is aborted; the fault goes to the ring alone. -/
def abortArrival (s : State) (id : Nat) (w : Walk) : State :=
  let stamp := s.engineStamp w.agent.toNat
  contextEvent { stamp.2 with walks := s.walks.erase id } w.ctx ueWdog 0 stamp.1 w.va 0 w.agent.toNat

/-- R170, R468: WATCHDOG_ABORT of an engine entry; where it is of neither the copy nor the collective engine, only while it is
stalled. -/
def abortOfEntry (s : State) (id : Nat) (e : Entry) : Out :=
  match issuerOf s e.group with
  | none => .refused .notEnabled
  | some u =>
    if !e.started || (decide (2 ≤ e.engine) && entryUnstalled s e) || u.calm ||
       decide (s.ticks.toNat < e.startTick + watchLimit s e.tenant) then .refused .notEnabled
    else .next (abortEntry s id e u)

/-- R170, R468: WATCHDOG_ABORT of a joint operation whose fetch is stalled. -/
def abortOfJoint (s : State) (op : Nat) (j : JointOp) : Out :=
  match (j.members.head?).bind fun m => issuerOf s m.group with
  | none => .refused .notEnabled
  | some u =>
    if j.stalled.all (fun w => (s.walks.get? w).isNone) || u.calm ||
       decide (s.ticks.toNat < j.startTick + watchLimit s u.c.tenant) then .refused .notEnabled
    else .next (abortJoint s op j u)

/-- R468: WATCHDOG_ABORT of a delivery that is stalled on a walk; not while its context is demoted. -/
def abortOfArrival (s : State) (id : Nat) (w : Walk) : Out :=
  match w.began, s.contexts.get? w.ctx with
  | some t, some c =>
    if c.stage = .demoted ∨ s.ticks.toNat < t + watchLimit s c.tenant then .refused .notEnabled
    else .next (abortArrival s id w)
  | _, _ => .refused .notEnabled

/-- WATCHDOG_ABORT (R468). -/
def execWatchdogAbort (entry : Nat) (s : State) : Out :=
  match s.entries.get? entry, s.joints.get? entry, s.walks.get? entry with
  | some e, _, _ => abortOfEntry s entry e
  | none, some j, _ => abortOfJoint s entry j
  | none, none, some w => abortOfArrival s entry w
  | none, none, none => .refused .notEnabled

end Sys2Proof.Machine
end

