-- ==== Sys2Proof/Machine/Dispatch.lean ====
section
/-!
DEFINITION. One arm per constructor of Instr: the meaning of each instruction and of each step.
-/

namespace Sys2Proof.Machine

/-- The meaning of an instruction, or of a step of the part or of the outside, in a state. -/
def exec (i : Instr) (s : State) : Host.Outcome State Fault Refusal :=
  match i with
  | .clauseIssue core quad => Sys2Proof.Machine.execClauseIssue core quad s
  | .nop f => Sys2Proof.Machine.execNop f s
  | .jmp f => Sys2Proof.Machine.execJmp f s
  | .jmpa f => Sys2Proof.Machine.execJmpa f s
  | .jmpl f => Sys2Proof.Machine.execJmpl f s
  | .brx f => Sys2Proof.Machine.execBrx f s
  | .loopd f => Sys2Proof.Machine.execLoopd f s
  | .mark f => Sys2Proof.Machine.execMark f s
  | .split f => Sys2Proof.Machine.execSplit f s
  | .join f => Sys2Proof.Machine.execJoin f s
  | .call f => Sys2Proof.Machine.execCall f s
  | .ret f => Sys2Proof.Machine.execRet f s
  | .exit f => Sys2Proof.Machine.execExit f s
  | .yield f => Sys2Proof.Machine.execYield f s
  | .cmp t f => Sys2Proof.Machine.execCmp t f s
  | .cmpa t f => Sys2Proof.Machine.execCmpa t f s
  | .cmpo t f => Sys2Proof.Machine.execCmpo t f s
  | .plop f => Sys2Proof.Machine.execPlop f s
  | .pmov f => Sys2Proof.Machine.execPmov f s
  | .ballot f => Sys2Proof.Machine.execBallot f s
  | .pcount f => Sys2Proof.Machine.execPcount f s
  | .pfirst f => Sys2Proof.Machine.execPfirst f s
  | .plive f => Sys2Proof.Machine.execPlive f s
  | .add w f => Sys2Proof.Machine.execAdd w f s
  | .addImm f => Sys2Proof.Machine.execAddImm f s
  | .sub w f => Sys2Proof.Machine.execSub w f s
  | .subImm f => Sys2Proof.Machine.execSubImm f s
  | .addc f => Sys2Proof.Machine.execAddc f s
  | .subb f => Sys2Proof.Machine.execSubb f s
  | .mul w f => Sys2Proof.Machine.execMul w f s
  | .mulImm f => Sys2Proof.Machine.execMulImm f s
  | .mulhi g f => Sys2Proof.Machine.execMulhi g f s
  | .mad w f => Sys2Proof.Machine.execMad w f s
  | .madhi g f => Sys2Proof.Machine.execMadhi g f s
  | .div g f => Sys2Proof.Machine.execDiv g f s
  | .rem g f => Sys2Proof.Machine.execRem g f s
  | .min w g f => Sys2Proof.Machine.execMin w g f s
  | .max w g f => Sys2Proof.Machine.execMax w g f s
  | .minImm f => Sys2Proof.Machine.execMinImm f s
  | .maxImm f => Sys2Proof.Machine.execMaxImm f s
  | .abs w f => Sys2Proof.Machine.execAbs w f s
  | .neg w f => Sys2Proof.Machine.execNeg w f s
  | .addPacked e f => Sys2Proof.Machine.execAddPacked e f s
  | .subPacked e f => Sys2Proof.Machine.execSubPacked e f s
  | .minPacked e g f => Sys2Proof.Machine.execMinPacked e g f s
  | .maxPacked e g f => Sys2Proof.Machine.execMaxPacked e g f s
  | .and w f => Sys2Proof.Machine.execAnd w f s
  | .andImm f => Sys2Proof.Machine.execAndImm f s
  | .or w f => Sys2Proof.Machine.execOr w f s
  | .orImm f => Sys2Proof.Machine.execOrImm f s
  | .xor w f => Sys2Proof.Machine.execXor w f s
  | .xorImm f => Sys2Proof.Machine.execXorImm f s
  | .andn w f => Sys2Proof.Machine.execAndn w f s
  | .not w f => Sys2Proof.Machine.execNot w f s
  | .shl w f => Sys2Proof.Machine.execShl w f s
  | .shlImm f => Sys2Proof.Machine.execShlImm f s
  | .shr w f => Sys2Proof.Machine.execShr w f s
  | .shrImm f => Sys2Proof.Machine.execShrImm f s
  | .sar w f => Sys2Proof.Machine.execSar w f s
  | .sarImm f => Sys2Proof.Machine.execSarImm f s
  | .rotl w f => Sys2Proof.Machine.execRotl w f s
  | .rotlImm f => Sys2Proof.Machine.execRotlImm f s
  | .bfe g f => Sys2Proof.Machine.execBfe g f s
  | .bfi f => Sys2Proof.Machine.execBfi f s
  | .popc w f => Sys2Proof.Machine.execPopc w f s
  | .clz w f => Sys2Proof.Machine.execClz w f s
  | .ctz w f => Sys2Proof.Machine.execCtz w f s
  | .brev w f => Sys2Proof.Machine.execBrev w f s
  | .mov w f => Sys2Proof.Machine.execMov w f s
  | .movi f => Sys2Proof.Machine.execMovi f s
  | .movh f => Sys2Proof.Machine.execMovh f s
  | .lea f => Sys2Proof.Machine.execLea f s
  | .leaImm f => Sys2Proof.Machine.execLeaImm f s
  | .shflIdx f => Sys2Proof.Machine.execShflIdx f s
  | .shflUp f => Sys2Proof.Machine.execShflUp f s
  | .shflDown f => Sys2Proof.Machine.execShflDown f s
  | .shflXor f => Sys2Proof.Machine.execShflXor f s
  | .xmov f => Sys2Proof.Machine.execXmov f s
  | .xadd f => Sys2Proof.Machine.execXadd f s
  | .xaddImm f => Sys2Proof.Machine.execXaddImm f s
  | .setfmt f => Sys2Proof.Machine.execSetfmt f s
  | .setfmtImm f => Sys2Proof.Machine.execSetfmtImm f s
  | .getfmt f => Sys2Proof.Machine.execGetfmt f s
  | .fadd t f => Sys2Proof.Machine.execFadd t f s
  | .fsub t f => Sys2Proof.Machine.execFsub t f s
  | .fmul t f => Sys2Proof.Machine.execFmul t f s
  | .ffma t f => Sys2Proof.Machine.execFfma t f s
  | .faddImm f => Sys2Proof.Machine.execFaddImm f s
  | .fsubImm f => Sys2Proof.Machine.execFsubImm f s
  | .fmulImm f => Sys2Proof.Machine.execFmulImm f s
  | .fdiv t m f => Sys2Proof.Machine.execFdiv t m f s
  | .fsqrt t m f => Sys2Proof.Machine.execFsqrt t m f s
  | .fmin t f => Sys2Proof.Machine.execFmin t f s
  | .fmax t f => Sys2Proof.Machine.execFmax t f s
  | .fminn t f => Sys2Proof.Machine.execFminn t f s
  | .fmaxn t f => Sys2Proof.Machine.execFmaxn t f s
  | .fabs t f => Sys2Proof.Machine.execFabs t f s
  | .fneg t f => Sys2Proof.Machine.execFneg t f s
  | .fcopysign t f => Sys2Proof.Machine.execFcopysign t f s
  | .fclass t f => Sys2Proof.Machine.execFclass t f s
  | .fscale t f => Sys2Proof.Machine.execFscale t f s
  | .frnd t m f => Sys2Proof.Machine.execFrnd t m f s
  | .frcp t f => Sys2Proof.Machine.execFrcp t f s
  | .frsq t f => Sys2Proof.Machine.execFrsq t f s
  | .fex2 t f => Sys2Proof.Machine.execFex2 t f s
  | .flg2 t f => Sys2Proof.Machine.execFlg2 t f s
  | .fsin t f => Sys2Proof.Machine.execFsin t f s
  | .fcos t f => Sys2Proof.Machine.execFcos t f s
  | .ftanh t f => Sys2Proof.Machine.execFtanh t f s
  | .sfuCompletion access => Sys2Proof.Machine.execSfuCompletion access s
  | .cvt f => Sys2Proof.Machine.execCvt f s
  | .fxcvt f => Sys2Proof.Machine.execFxcvt f s
  | .cvtpPack f => Sys2Proof.Machine.execCvtpPack f s
  | .cvtpUnpack f => Sys2Proof.Machine.execCvtpUnpack f s
  | .dotp f => Sys2Proof.Machine.execDotp f s
  | .dotpScaledCompletion access => Sys2Proof.Machine.execDotpScaledCompletion access s
  | .mxq f => Sys2Proof.Machine.execMxq f s
  | .mxd f => Sys2Proof.Machine.execMxd f s
  | .ld sp w f => Sys2Proof.Machine.execLd sp w f s
  | .st sp w f => Sys2Proof.Machine.execSt sp w f s
  | .pf f => Sys2Proof.Machine.execPf f s
  | .ldmx sp f => Sys2Proof.Machine.execLdmx sp f s
  | .stmx sp f => Sys2Proof.Machine.execStmx sp f s
  | .atom sp op f => Sys2Proof.Machine.execAtom sp op f s
  | .red op f => Sys2Proof.Machine.execRed op f s
  | .loadWriteback access lanes l1 => Sys2Proof.Machine.execLoadWriteback access lanes l1 s
  | .storePerform access lanes => Sys2Proof.Machine.execStorePerform access lanes s
  | .atomicPerform access lanes => Sys2Proof.Machine.execAtomicPerform access lanes s
  | .ldmxCompletion access lanes => Sys2Proof.Machine.execLdmxCompletion access lanes s
  | .fence f => Sys2Proof.Machine.execFence f s
  | .bar f => Sys2Proof.Machine.execBar f s
  | .barc f => Sys2Proof.Machine.execBarc f s
  | .barg f => Sys2Proof.Machine.execBarg f s
  | .barp f => Sys2Proof.Machine.execBarp f s
  | .arrive f => Sys2Proof.Machine.execArrive f s
  | .await f => Sys2Proof.Machine.execAwait f s
  | .monwait f => Sys2Proof.Machine.execMonwait f s
  | .monitorTimeout group => Sys2Proof.Machine.execMonitorTimeout group s
  | .arvinit f => Sys2Proof.Machine.execArvinit f s
  | .arvexp f => Sys2Proof.Machine.execArvexp f s
  | .arvwait f => Sys2Proof.Machine.execArvwait f s
  | .deliveryCredit credit => Sys2Proof.Machine.execDeliveryCredit credit s
  | .cpgLd f => Sys2Proof.Machine.execCpgLd f s
  | .cpgSt f => Sys2Proof.Machine.execCpgSt f s
  | .cpc f => Sys2Proof.Machine.execCpc f s
  | .fput f => Sys2Proof.Machine.execFput f s
  | .fget f => Sys2Proof.Machine.execFget f s
  | .fputr f => Sys2Proof.Machine.execFputr f s
  | .cpclose f => Sys2Proof.Machine.execCpclose f s
  | .cpwait f => Sys2Proof.Machine.execCpwait f s
  | .cpwaitImm f => Sys2Proof.Machine.execCpwaitImm f s
  | .coll f => Sys2Proof.Machine.execColl f s
  | .engineEntryStart core engine => Sys2Proof.Machine.execEngineEntryStart core engine s
  | .copyEntryComplete entry => Sys2Proof.Machine.execCopyEntryComplete entry s
  | .watchdogAbort entry => Sys2Proof.Machine.execWatchdogAbort entry s
  | .gangset f => Sys2Proof.Machine.execGangset f s
  | .omap f => Sys2Proof.Machine.execOmap f s
  | .thset f => Sys2Proof.Machine.execThset f s
  | .opfence f => Sys2Proof.Machine.execOpfence f s
  | .mma f => Sys2Proof.Machine.execMma f s
  | .mmasp f => Sys2Proof.Machine.execMmasp f s
  | .matrixOpComplete op => Sys2Proof.Machine.execMatrixOpComplete op s
  | .mmclose f => Sys2Proof.Machine.execMmclose f s
  | .mmwait f => Sys2Proof.Machine.execMmwait f s
  | .mmwaitImm f => Sys2Proof.Machine.execMmwaitImm f s
  | .accld f => Sys2Proof.Machine.execAccld f s
  | .accldCompletion access => Sys2Proof.Machine.execAccldCompletion access s
  | .accst sp f => Sys2Proof.Machine.execAccst sp f s
  | .accstCompletion entry => Sys2Proof.Machine.execAccstCompletion entry s
  | .acczero f => Sys2Proof.Machine.execAcczero f s
  | .accadd f => Sys2Proof.Machine.execAccadd f s
  | .hzinit f => Sys2Proof.Machine.execHzinit f s
  | .hzins f => Sys2Proof.Machine.execHzins f s
  | .hzmerge f => Sys2Proof.Machine.execHzmerge f s
  | .hzread f => Sys2Proof.Machine.execHzread f s
  | .hzreadCompletion access => Sys2Proof.Machine.execHzreadCompletion access s
  | .hzstore sp f => Sys2Proof.Machine.execHzstore sp f s
  | .hzstoreCompletion entry => Sys2Proof.Machine.execHzstoreCompletion entry s
  | .hzcount f => Sys2Proof.Machine.execHzcount f s
  | .hzclear f => Sys2Proof.Machine.execHzclear f s
  | .hzstat f => Sys2Proof.Machine.execHzstat f s
  | .trap f => Sys2Proof.Machine.execTrap f s
  | .brk f => Sys2Proof.Machine.execBrk f s
  | .sysrd f => Sys2Proof.Machine.execSysrd f s
  | .syswr f => Sys2Proof.Machine.execSyswr f s
  | .clock f => Sys2Proof.Machine.execClock f s
  | .tmark f => Sys2Proof.Machine.execTmark f s
  | .dmput f => Sys2Proof.Machine.execDmput f s
  | .dmget f => Sys2Proof.Machine.execDmget f s
  | .tgtrd f => Sys2Proof.Machine.execTgtrd f s
  | .tgtwr f => Sys2Proof.Machine.execTgtwr f s
  | .tgtres f => Sys2Proof.Machine.execTgtres f s
  | .tgtkill f => Sys2Proof.Machine.execTgtkill f s
  | .tgthalt f => Sys2Proof.Machine.execTgthalt f s
  | .tgtstep f => Sys2Proof.Machine.execTgtstep f s
  | .tgtcalm f => Sys2Proof.Machine.execTgtcalm f s
  | .bpset f => Sys2Proof.Machine.execBpset f s
  | .wpset f => Sys2Proof.Machine.execWpset f s
  | .trapRecordWrite group => Sys2Proof.Machine.execTrapRecordWrite group s
  | .handlerCreate ctx => Sys2Proof.Machine.execHandlerCreate ctx s
  | .minWaitedPerform group => Sys2Proof.Machine.execMinWaitedPerform group s
  | .reductionDrain launch => Sys2Proof.Machine.execReductionDrain launch s
  | .walkComplete walk => Sys2Proof.Machine.execWalkComplete walk s
  | .teamEvict team => Sys2Proof.Machine.execTeamEvict team s
  | .evictSaveComplete team => Sys2Proof.Machine.execEvictSaveComplete team s
  | .teamResume team => Sys2Proof.Machine.execTeamResume team s
  | .compactorMove core => Sys2Proof.Machine.execCompactorMove core s
  | .validatePacket tenant fabric => Sys2Proof.Machine.execValidatePacket tenant fabric s
  | .launchEnd launch => Sys2Proof.Machine.execLaunchEnd launch s
  | .sliceEnd core => Sys2Proof.Machine.execSliceEnd core s
  | .revocation core => Sys2Proof.Machine.execRevocation core s
  | .revocationDeadline core => Sys2Proof.Machine.execRevocationDeadline core s
  | .demotionSerialPoint ctx => Sys2Proof.Machine.execDemotionSerialPoint ctx s
  | .calmStep ctx => Sys2Proof.Machine.execCalmStep ctx s
  | .tailWrite tenant value => Sys2Proof.Machine.execTailWrite tenant value s
  | .uestatWrite tenant value => Sys2Proof.Machine.execUestatWrite tenant value s
  | .cestatWrite tenant value => Sys2Proof.Machine.execCestatWrite tenant value s
  | .mailboxHostWrite ctx offset size value => Sys2Proof.Machine.execMailboxHostWrite ctx offset size value s
  | .obsctlWrite ctx value => Sys2Proof.Machine.execObsctlWrite ctx value s
  | .obsBaseWrite ctx sounding value => Sys2Proof.Machine.execObsBaseWrite ctx sounding value s
  | .bctlWrite die mon value => Sys2Proof.Machine.execBctlWrite die mon value s
  | .registerWrite bar offset size value => Sys2Proof.Machine.execRegisterWrite bar offset size value s
  | .hostCxlMemAccess addr write => Sys2Proof.Machine.execHostCxlMemAccess addr write s
  | .hostSnoop addr write => Sys2Proof.Machine.execHostSnoop addr write s
  | .fabricPutReceive pkt => Sys2Proof.Machine.execFabricPutReceive pkt s
  | .fabricGetReceive pkt => Sys2Proof.Machine.execFabricGetReceive pkt s
  | .fabricAtomicReceive pkt => Sys2Proof.Machine.execFabricAtomicReceive pkt s
  | .fabricLaunchReceive route srcdev packet => Sys2Proof.Machine.execFabricLaunchReceive route srcdev packet s
  | .fabricBarrierReceive route phase release => Sys2Proof.Machine.execFabricBarrierReceive route phase release s
  | .fabricCollectiveReceive pkt => Sys2Proof.Machine.execFabricCollectiveReceive pkt s
  | .collectiveTimeout tenant comm k => Sys2Proof.Machine.execCollectiveTimeout tenant comm k s
  | .linkretry port => Sys2Proof.Machine.execLinkretry port s
  | .linkDown port => Sys2Proof.Machine.execLinkDown port s
  | .linkRerouteTimeout device => Sys2Proof.Machine.execLinkRerouteTimeout device s
  | .tierAccessTimeout failure lane => Sys2Proof.Machine.execTierAccessTimeout failure lane s
  | .tierPortDown port => Sys2Proof.Machine.execTierPortDown port s
  | .patrolScrub addr err => Sys2Proof.Machine.execPatrolScrub addr err s
  | .thermalGate sensor => Sys2Proof.Machine.execThermalGate sensor s
  | .thermalShutdown sensor => Sys2Proof.Machine.execThermalShutdown sensor s
  | .contrailDrain core => Sys2Proof.Machine.execContrailDrain core s
  | .soundingInterval core quad => Sys2Proof.Machine.execSoundingInterval core quad s
  | .barometerCapture die mon value => Sys2Proof.Machine.execBarometerCapture die mon value s
  | .skewMeasure reg offset => Sys2Proof.Machine.execSkewMeasure reg offset s
  | .linkUp port => Sys2Proof.Machine.execLinkUp port s
  | .classPause port cls paused => Sys2Proof.Machine.execClassPause port cls paused s
  | .teamDispatch => Sys2Proof.Machine.execTeamDispatch s
  | .ctxcreate => Sys2Proof.Machine.execCtxcreate s
  | .ctxdestroy => Sys2Proof.Machine.execCtxdestroy s
  | .tenantset => Sys2Proof.Machine.execTenantset s
  | .errset => Sys2Proof.Machine.execErrset s
  | .partition => Sys2Proof.Machine.execPartition s
  | .inval => Sys2Proof.Machine.execInval s
  | .invalComplete => Sys2Proof.Machine.execInvalComplete s
  | .replay => Sys2Proof.Machine.execReplay s
  | .devset => Sys2Proof.Machine.execDevset s
  | .podbind => Sys2Proof.Machine.execPodbind s
  | .bardomain => Sys2Proof.Machine.execBardomain s
  | .commcreate => Sys2Proof.Machine.execCommcreate s
  | .demote => Sys2Proof.Machine.execDemote s
  | .step => Sys2Proof.Machine.execStep s
  | .run => Sys2Proof.Machine.execRun s
  | .pause => Sys2Proof.Machine.execPause s
  | .promote => Sys2Proof.Machine.execPromote s
  | .summary => Sys2Proof.Machine.execSummary s
  | .attest => Sys2Proof.Machine.execAttest s
  | .idcert => Sys2Proof.Machine.execIdcert s
  | .fwload => Sys2Proof.Machine.execFwload s
  | .mstatRead => Sys2Proof.Machine.execMstatRead s
  | .powerThrottle => Sys2Proof.Machine.execPowerThrottle s
  | .moduleReset => Sys2Proof.Machine.execModuleReset s
  | .thermalGateEnd => Sys2Proof.Machine.execThermalGateEnd s
  | .throttleEpisodeEnd => Sys2Proof.Machine.execThrottleEpisodeEnd s
  | .doorbellWrite => Sys2Proof.Machine.execDoorbellWrite s

end Sys2Proof.Machine
end

