-- ==== Sys2Proof/Machine/Step.lean ====
section
/-!
DEFINITION. One step of the machine: one move of one agent.
-/

namespace Sys2Proof.Machine

/-- One step: a Calm-mode step that has been decided (R376); else the next move, which is a group's next
instruction or one step of the part or of the outside. -/
def step (s : State) : Host.Outcome State Fault Refusal :=
  match s.force with
  | some f =>
    match forcedTurn s f with
    | .stop o => afterForced f o
    | .go (i, s1) => afterForced f (exec i s1)
  | none =>
    match (nextTurn s).move with
    | .issue gid =>
      match groupTurn (takeTurn s) gid with
      | .stop o => o
      | .go (i, s1) => exec i s1
    | .event i => afterEvent (takeTurn s) (exec i (takeTurn s))

/-- The descriptor of the code object that withFetchWord loads: 8 lanes, one group, every register, 64 KiB of
team memory, 64 tiles, 16 slots, every feature, COGRID. -/
def fetchDescriptor : BitVec 512 :=
  BitVec.ofNat 512 (0x10000 + 1536 * 2 ^ 64 + 256 * 2 ^ 75 + 1 * 2 ^ 87 + 65536 * 2 ^ 96 + 64 * 2 ^ 128 +
    16 * 2 ^ 140 + 0x3F * 2 ^ 152 + 2 ^ 162 + 16 * 2 ^ 192 + 2 ^ 256)

/-- The launch packet that goes with it: LID 1, a grid of one team in a cluster of one. -/
def fetchPacket : BitVec 512 :=
  BitVec.ofNat 512 (2 ^ 192 + 2 ^ 208 + 2 ^ 224 + 2 ^ 240 + 2 ^ 244 + 2 ^ 256)

/-- The class of a clause that admits an opcode (R86). -/
def fetchClass (opc : Nat) : Nat :=
  if 0x300 ≤ opc ∧ opc < 0x340 then 1 else if 0x340 ≤ opc ∧ opc < 0x360 then 2 else if 0x360 ≤ opc then 3 else 0

/-- The header of a clause of one instruction of an opcode, the guard trio q0, q1, q2. -/
def fetchHeader (opc : Nat) : Word64 :=
  BitVec.ofNat 64 (0x3FF * 2 ^ 54 + 0x8000 + 0x80000 + 16 * fetchClass opc)

/-- s with a program of one clause of one instruction loaded and begun, so that the next step fetches and runs
the instruction: a context 0 of tenant 0, a launch, a team on core 0 and its group in slot 0, the code page in
the core's TLB, and the group's turn (log entry 21: how a program comes to run from reset). A word of a handler
instruction goes to a handler work-group. -/
def State.withFetchWord (s : State) (nbits w : Nat) : State :=
  let word := w % 2 ^ nbits % 2 ^ 64
  let opc := word / 2 ^ 54
  let lid := s.nextId
  let l := { newLaunch fetchPacket fetchDescriptor 0 0 with
    nextTeam := 1, started := true
    handlerFor := if 0x370 ≤ opc ∧ opc ≤ 0x378 then some 0 else none }
  let g := { newGroup l lid lid 0 (agentId 0 0) 0 0 0 with header := some (fetchHeader opc), entered := true }
  let leaf := 0x10000 + 2 ^ 9 + 2 ^ 3 + 2 ^ 2 + 2 ^ 0
  { s with
    contexts := s.contexts.insert 0 (newContext 0 0 true 0 0 0 0 0 0)
    launches := s.launches.insert lid l
    teams := s.teams.insert lid (newTeam lid 0 0 [lid])
    groups := s.groups.insert lid g
    cores := s.cores.update 0 fun c => { c with issuing := some 0, tlb := [⟨0, 0x10000, 0, BitVec.ofNat 64 leaf⟩] }
    mem := Memory.setBytes s.mem 0x10000 (leBytes 8 (fetchHeader opc).toNat ++ leBytes 8 word)
    gated := false
    stopped := false
    agenda := [⟨.issue lid, 0, 0⟩]
    force := none
    nextId := lid + 1 }

end Sys2Proof.Machine
end

