-- ==== Sys2Proof/Claims/Frame.lean ====
section
/-!
DEFINITION. The words in which the obligations speak of an instruction of a group: who executes it, when its operands
may be read, where the group stands after it, and what of the state stays as it was.
-/

namespace Sys2Proof.Claims

open Sys2Proof.Machine

/-! ## Who executes -/

/-- u is the group whose instruction executes in s, with its team, launch and context. -/
def Issuing (s : State) (u : Issuer) : Prop := s.cur = some u.gid ∧ issuerOf s u.gid = some u

/-! ## Operands (R97 to R107, R443) -/

/-- An operand that a lane may name: the registers lie within the launch's allocation, a pair or a run of four starts at
a multiple of its alignment (R98 to R100), none of them is in flight (R107), and none that is read is poisoned (R443);
a latch holds an element of the width in that lane (R104). -/
def Fits (u : Issuer) (l : Nat) (use : Use) : Prop :=
  let vectors := fun n => n % use.align = 0 ∧ n + use.size ≤ u.l.regs ∧
    ∀ k, k < use.size → u.g.vPend (n + k) l = false ∧ (use.write = false → u.g.vBad (n + k) l = false)
  match operandOf use.code with
  | .v n => vectors n
  | .indexed k => vectors (u.g.xreg k l).toNat
  | .s n => n % use.align = 0 ∧ n + use.size ≤ u.l.sregs ∧
      ∀ k, k < use.size → u.g.sPend (n + k) = false ∧ (use.write = false → u.g.sBad (n + k) = false)
  | .latch k => ∃ e x, u.g.latches[k]? = some e ∧ e.elems.get? l = some x ∧ e.wide = decide (use.size = 2)
  | _ => True

/-- The operands of an instruction fit: of a scalar-marked one once, of a per-lane one in every enabled lane (R81, R101). -/
def OperandsFit (u : Issuer) (k : LaneForm) : Prop :=
  if k.sc then ∀ x ∈ k.uses, Fits u 0 x else ∀ l ∈ u.enabledLanes k.tt, ∀ x ∈ k.uses, Fits u l x

/-- The operands of a group instruction fit. -/
def ScalarsFit (u : Issuer) (uses : List Use) : Prop := ∀ x ∈ uses, Fits u 0 x

/-! ## Where the group stands after an instruction (R83, R103, R357) -/

/-- The address of the clause that follows the one in progress. -/
def followingClause (u : Issuer) : Word64 := u.g.clause + BitVec.ofNat 64 (8 * (hdrNcount u.header + 2))

/-- The instruction counts, and the group stands at the next word of its clause with the entry in b0, or at the start of
the next clause with no latch filled. -/
def NextPlace (u : Issuer) (entry : Latch) (g : Group) : Prop :=
  g.ic = u.g.ic + 1 ∧ g.status = .running ∧ g.wait = none ∧ g.sound = none ∧ g.suppressed = none ∧ g.counted = false ∧
  g.taken = u.g.taken ∧ g.addrNext = u.g.addrNext ∧
  if u.g.index < hdrNcount u.header then
    g.clause = u.g.clause ∧ g.index = u.g.index + 1 ∧ g.header = u.g.header ∧ g.latches = (entry :: u.g.latches).take 4 ∧
    g.entered = u.g.entered
  else
    g.clause = followingClause u ∧ g.index = 0 ∧ g.header = none ∧ g.latches = [] ∧ g.entered = false

/-- An instruction of control: it counts, and the group stands at the start of the clause at a; `taken` and `byAddress` are
what its next CLAUSE packet says (R422). -/
def AtTarget (u : Issuer) (a : Word64) (taken byAddress : Bool) (g : Group) : Prop :=
  g.ic = u.g.ic + 1 ∧ g.taken = taken ∧ g.addrNext = byAddress ∧ g.clause = a ∧ g.index = 0 ∧ g.header = none ∧ g.latches = [] ∧ g.entered = false ∧
  g.status = u.g.status ∧ g.wait = u.g.wait ∧ g.sound = none ∧ g.suppressed = none ∧ g.counted = false

/-- The group h but for what NextPlace or AtTarget says, which is as in g. -/
def moved (h g : Group) : Group :=
  { h with ic := g.ic, status := g.status, wait := g.wait, sound := g.sound, suppressed := g.suppressed, clause := g.clause,
           index := g.index, header := g.header, latches := g.latches, entered := g.entered, taken := g.taken
           addrNext := g.addrNext, counted := g.counted }

/-! ## What stays as it was -/

/-- Every byte of memory reads as before. -/
def SameMemory (s t : State) : Prop := ∀ a, Memory.byte t.mem a = Memory.byte s.mem a

/-- R199: granule g has race metadata, and the n bytes from a touch it. -/
def Marked (s : State) (a n g : Nat) : Prop := a / 64 ≤ g ∧ 64 * g < a + n ∧ 64 * g < s.mbase

/-- R164, R199: the n bytes from a have been written from outside: every other byte of memory reads as before, but that UNKNOWN stands
in the metadata of the granules written. -/
def WrittenOutside (s t : State) (a n : Nat) : Prop :=
  (∀ b, ¬ (a ≤ b ∧ b < a + n) → (∀ g, Marked s a n g → ¬ (s.mbase + 16 * g ≤ b ∧ b < s.mbase + 16 * g + 16)) →
    Memory.byte t.mem b = Memory.byte s.mem b) ∧
  ∀ g k, Marked s a n g → k < 16 → ¬ (a ≤ s.mbase + 16 * g + k ∧ s.mbase + 16 * g + k < a + n) →
    Memory.byte t.mem (s.mbase + 16 * g + k) =
      if k = 0 then Memory.byte s.mem (s.mbase + 16 * g) &&& 0xFE ||| 0x10 else Memory.byte s.mem (s.mbase + 16 * g + k)

/-- The n bytes from a do not stand where the metadata of their own granules does. -/
def RecordsApart (s : State) (a n : Nat) : Prop := a + n ≤ s.mbase ∨ s.mbase ≤ a / 64 * 64

/-- Every byte of memory outside the n bytes from a reads as before. -/
def SameMemoryBut (s t : State) (a n : Nat) : Prop :=
  ∀ b, b < a ∨ a + n ≤ b → Memory.byte t.mem b = Memory.byte s.mem b

/-- Every group but one is as before. -/
def OtherGroups (s t : State) (gid : Nat) : Prop := ∀ k, k ≠ gid → t.groups.get? k = s.groups.get? k

/-- R427: the instruction waits in place: nothing changes but, where it is tagged, bit k of STALL in its record. -/
def WaitsHere (s : State) (u : Issuer) (k : Nat) (t : State) : Prop :=
  t = { s with groups := t.groups } ∧ OtherGroups s t u.gid ∧
  t.groups.get? u.gid = some { u.g with sound := u.g.sound.map fun r => r ||| (1#512 <<< (192 + k)) }

/-- Every context is as before, but that the Sounding record of u's instruction, if it is tagged, joins its context's
(R426). -/
def OnlySound (s t : State) (u : Issuer) : Prop :=
  ∀ c, t.contexts.get? c =
    (s.contexts.get? c).map fun x => if c = u.l.ctx then { x with soundQ := x.soundQ ++ u.g.sound.toList } else x

/-- Nothing changes but u's group and the Sounding record of its instruction. -/
def OnlyGroup (s t : State) (u : Issuer) : Prop :=
  t = { s with groups := t.groups, contexts := t.contexts } ∧ OtherGroups s t u.gid ∧ OnlySound s t u ∧ SameMemory s t

/-- Nothing changes but u's group, the Sounding record of its instruction, and, where its context is traced, the packets
staged at its core (R422, R424). -/
def OnlyTraced (s t : State) (u : Issuer) : Prop :=
  t = { s with groups := t.groups, contexts := t.contexts, cores := t.cores } ∧ OtherGroups s t u.gid ∧ OnlySound s t u ∧
  (∀ c, (t.cores.get? c).map (fun x => { x with staging := [] }) = (s.cores.get? c).map (fun x => { x with staging := [] })) ∧
  ((u.c.tracing && !u.isHandler) = false → t.cores = s.cores) ∧ SameMemory s t

/-- Nothing changes but u's group, its team and the Sounding record of its instruction. -/
def OnlyTeam (s t : State) (u : Issuer) : Prop :=
  t = { s with groups := t.groups, contexts := t.contexts, teams := t.teams } ∧ OtherGroups s t u.gid ∧ OnlySound s t u ∧
  (∀ k, k ≠ u.g.team → t.teams.get? k = s.teams.get? k) ∧ SameMemory s t

/-! ## Short-latency instructions (R54, R81, R101 to R103, R204) -/

/-- A short-latency instruction: the operands it names, and what a lane computes. -/
structure Compute where
  form : LaneForm
  out : Issuer → Nat → LaneOut

/-- A 32-bit result. -/
def word (x : Word) : LaneOut := ⟨[x], [], none, 0⟩
/-- A 64-bit result: the even register holds the low half (R122). -/
def pair (x : Word64) : LaneOut := ⟨[x.truncate 32, (x >>> 32).truncate 32], [], none, 0⟩

/-- The words that a run gives register n where it starts at register m; else the old value. -/
def inRun (m : Option Nat) (ws : List Word) (n : Nat) (old : Word) : Word :=
  match m with
  | some m => if m ≤ n ∧ n < m + ws.length then ws.getD (n - m) 0 else old
  | none => old

/-- Whether a run that starts at register m covers register n. -/
def reaches (m : Option Nat) (ws : List Word) (n : Nat) : Bool :=
  match m with
  | some m => decide (m ≤ n) && decide (n < m + ws.length)
  | none => false

/-- The register that the destination of a per-lane instruction names in a lane, read at issue (R204). -/
def vectorDest (u : Issuer) (k : LaneForm) (l : Nat) : Option Nat := k.dest.bind fun d => vectorReg u.g d.code l

/-- The register that the destination of a scalar-marked instruction names. -/
def scalarDest (k : LaneForm) : Option Nat :=
  k.dest.bind fun d => match operandOf d.code with
    | .s n => some n
    | _ => none

/-- What a lane leaves in predicate m: its last write of it. -/
def newPred (ps : List (Nat × Bool)) (m : Nat) (old : Bool) : Bool :=
  ps.foldl (fun b p => if p.1 = m then p.2 else b) old

/-- The latch element of a result: its words, the first lowest (R103, R122). -/
def element : List Word → Word64
  | [] => 0
  | [a] => a.zeroExtend 64
  | a :: b :: _ => b ++ a

/-- The latch entry of an instruction: each enabled lane's result; void for a scalar-marked instruction and for one without a
single vector result (R103). -/
def latchEntry (u : Issuer) (k : Compute) : Latch :=
  if k.form.sc ∨ k.form.latch = 0 then ⟨false, []⟩
  else ⟨decide (k.form.latch = 2), (u.enabledLanes k.form.tt).map fun l => (l, element (k.out u l).words)⟩

/-- The registers of a group after a per-lane instruction: each enabled lane's own, and nothing in another lane. -/
def LaneResults (u : Issuer) (k : Compute) (g : Group) : Prop :=
  (∀ n l, l < 128 → g.vreg n l =
    if l ∈ u.enabledLanes k.form.tt then inRun (vectorDest u k.form l) (k.out u l).words n (u.g.vreg n l) else u.g.vreg n l) ∧
  (∀ n l, l < 128 → g.vBad n l =
    (u.g.vBad n l && !(decide (l ∈ u.enabledLanes k.form.tt) && reaches (vectorDest u k.form l) (k.out u l).words n))) ∧
  (∀ n l, l < 128 → g.pred n l =
    if l ∈ u.enabledLanes k.form.tt then newPred (k.out u l).preds n (u.g.pred n l) else u.g.pred n l) ∧
  (∀ n l, l < 128 → g.xreg n l =
    match (k.out u l).index with
    | some (j, x) => if l ∈ u.enabledLanes k.form.tt ∧ n = j then x else u.g.xreg n l
    | none => u.g.xreg n l) ∧
  g.fpstat = (u.enabledLanes k.form.tt).foldl (fun w l => w ||| (k.out u l).flags.zeroExtend 32) u.g.fpstat ∧
  g = { moved u.g g with v := g.v, vPoison := g.vPoison, q := g.q, x := g.x, fpstat := g.fpstat }

/-- The registers of a group after a scalar-marked instruction, which executes once (R101, R205). -/
def ScalarResult (u : Issuer) (k : Compute) (g : Group) : Prop :=
  (∀ n, g.sreg n = inRun (scalarDest k.form) (k.out u 0).words n (u.g.sreg n)) ∧
  (∀ n, g.sBad n = (u.g.sBad n && !reaches (scalarDest k.form) (k.out u 0).words n)) ∧
  g.fpstat = u.g.fpstat ||| (k.out u 0).flags.zeroExtend 32 ∧
  g = { moved u.g g with s := g.s, sPoison := g.sPoison, fpstat := g.fpstat }

/-- The state after a short-latency instruction: its results in the group's registers, its result in b0, the group at
its next place, and nothing else changed. -/
def Computed (s : State) (u : Issuer) (k : Compute) (t : State) : Prop :=
  OnlyGroup s t u ∧ ∃ g, t.groups.get? u.gid = some g ∧ NextPlace u (latchEntry u k) g ∧
    (if k.form.sc then ScalarResult u k g else LaneResults u k g)

/-- Every well-formed instruction of a table, issued with operands that fit, computes what the table says. -/
def Executes (table : Instr → Option Compute) : Prop :=
  ∀ (i : Instr) (k : Compute), table i = some k → i.WellFormed = true → ∀ (s : State) (u : Issuer), Issuing s u → OperandsFit u k.form →
    ∃ t, exec i s = .next t ∧ Computed s u k t

/-- The state after an instruction that changes its group alone. `entry` enters b0, `ok` says what changes. -/
def GroupDone (s : State) (u : Issuer) (entry : Latch) (ok : Group → Prop) (t : State) : Prop :=
  OnlyGroup s t u ∧ ∃ g, t.groups.get? u.gid = some g ∧ NextPlace u entry g ∧ ok g

/-- A group instruction's scalar result: the register that the field names, no longer poisoned, and nothing else. -/
def ScalarIs (u : Issuer) (code : BitVec 11) (w : Word) (g : Group) : Prop :=
  (∀ n, g.sreg n = if operandOf code = .s n then w else u.g.sreg n) ∧
  (∀ n, g.sBad n = (u.g.sBad n && decide (operandOf code ≠ .s n))) ∧
  g = { moved u.g g with s := g.s, sPoison := g.sPoison }

/-- A group instruction's 64-bit result in a scalar pair (R122). -/
def PairIs (u : Issuer) (code : BitVec 11) (x : Word64) (g : Group) : Prop :=
  (∀ n, g.sreg n = if operandOf code = .s n then x.truncate 32 else
    if 0 < n ∧ operandOf code = .s (n - 1) then (x >>> 32).truncate 32 else u.g.sreg n) ∧
  (∀ n, g.sBad n = (u.g.sBad n && decide (operandOf code ≠ .s n) && !(decide (0 < n) && decide (operandOf code = .s (n - 1))))) ∧
  g = { moved u.g g with s := g.s, sPoison := g.sPoison }

/-- A void latch entry. -/
def void : Latch := ⟨false, []⟩

end Sys2Proof.Claims
end

