-- ==== Sys2Proof/Claims/Control.lean ====
section
/-!
DEFINITION. What control instructions and system instructions do (spec/02 R47 to R53, R213; spec/08 R207 to R214; spec/11 R320
to R323).
-/

namespace Sys2Proof.Claims

open Sys2Proof.Machine

/-! ## Guards and targets (R53, R92) -/

/-- R53: the bit of TT that a lane's guard predicates choose. -/
def guardBit (u : Issuer) (tt : BitVec 8) (l : Nat) : Bool :=
  tt.getLsbD (4 * (u.g.pred (hdrGA u.header) l).toNat + 2 * (u.g.pred (hdrGB u.header) l).toNat +
    (u.g.pred (hdrGC u.header) l).toNat)

/-- An active lane of the group. -/
def Active (u : Issuer) (l : Nat) : Prop := l < u.l.width ∧ u.g.active.getLsbD l = true

/-- R92: the clause that TGT names. -/
def target (u : Issuer) (f : FormX) : Word64 := u.g.clause + f.tgt.signExtend 64 * 8

/-! ## Branches (R208 to R210, R212) -/

/-- A branch that is taken, or not. `ok` says what else changes in the group. -/
def Branches (s : State) (u : Issuer) (f : FormX) (taken : Prop) (ok : Group → Prop) (t : State) : Prop :=
  OnlyGroup s t u ∧ ∃ g, t.groups.get? u.gid = some g ∧ ok g ∧
    (taken → AtTarget u (target u f) true false g) ∧ (¬ taken → NextPlace u void g)

/-- The group changes its place alone. -/
def Only (u : Issuer) (g : Group) : Prop := g = moved u.g g

/-- A transfer of control to an address that a register gives. -/
def Goes (s : State) (u : Issuer) (a : Word64) (taken byAddress : Bool) (ok : Group → Prop) (t : State) : Prop :=
  OnlyGroup s t u ∧ ∃ g, t.groups.get? u.gid = some g ∧ ok g ∧ AtTarget u a taken byAddress g

/-- R208: the jumps: when each may execute, and when it is taken. -/
def jump : Instr → Option (FormX × (Issuer → Prop) × (Issuer → Prop))
  | .jmp f => some (f, fun u => ∀ l m, Active u l → Active u m → guardBit u f.tt l = guardBit u f.tt m,
      fun u => ∃ l, Active u l ∧ guardBit u f.tt l = true)
  | .jmpa f => some (f, fun _ => True, fun u => ∃ l, Active u l ∧ guardBit u f.tt l = true)
  | .jmpl f => some (f, fun _ => True, fun u => ∀ l, Active u l → guardBit u f.tt l = true)
  | _ => none

/-! ## The reconvergence stack (R47 to R51) -/

/-- The lanes where the condition of a split or an exit holds. -/
def condMask (u : Issuer) (tt : BitVec 8) (m : LaneMask) : Prop :=
  ∀ l, l < 128 → (m.getLsbD l = true ↔ Active u l ∧ guardBit u tt l = true)

/-- R49: the group takes up an entry of its stack. -/
def Rejoins (s : State) (u : Issuer) (e : StackEntry) (rest : List StackEntry) (ok : Group → Prop) (t : State) : Prop :=
  OnlyTraced s t u ∧ ∃ g, t.groups.get? u.gid = some g ∧ AtTarget u e.target false false g ∧
    g.active = e.mask ∧ g.fmt = e.fmt ∧ g.stack = rest ∧ ok g

/-- The stack without the entries that have no lane left on top. -/
def liveTop (stack : List StackEntry) : List StackEntry := stack.dropWhile fun e => e.mask == 0

/-- R51: lanes leave every entry of a stack. -/
def without (m : LaneMask) (stack : List StackEntry) : List StackEntry := stack.map fun e => { e with mask := e.mask &&& ~~~m }

/-! ## Traps (R111, R437) -/

/-- A group takes a trap: it stops at the instruction, which has no effect, with the fault recorded; its Sounding record, if
it is tagged, says that the instruction failed. -/
def Traps (s : State) (u : Issuer) (cls : FaultClass) (sub : Nat) (t : State) : Prop :=
  t = { s with groups := t.groups, contexts := t.contexts } ∧ OtherGroups s t u.gid ∧ SameMemory s t ∧
  (∀ c, t.contexts.get? c = (s.contexts.get? c).map fun x =>
    if c = u.l.ctx then { x with soundQ := x.soundQ ++ (u.g.sound.map soundFailed).toList } else x) ∧
  ∃ g i, t.groups.get? u.gid = some g ∧ g.status = .trapping ∧ g.wait = none ∧ g.trap = some i ∧ i.cls = cls ∧
    i.sub = BitVec.ofNat 16 sub ∧
    g = { u.g with status := g.status, wait := g.wait, trap := g.trap, sound := none,
                   suppressed := g.suppressed, haltAsked := false }

/-- As Traps, with the lane, the address and DETAIL of the record. -/
def TrapsAt (s : State) (u : Issuer) (cls : FaultClass) (sub lane addr detail : Nat) (t : State) : Prop :=
  Traps s u cls sub t ∧ ∃ g i, t.groups.get? u.gid = some g ∧ g.trap = some i ∧ i.lane = lane ∧ i.addr = addr ∧
    i.detail = BitVec.ofNat 32 detail

/-! ## Operands that do not fit (R98 to R107, R434, R443) -/

/-- R98 to R100, R107: why the registers of an operand in a file of `limit` registers are refused: REG_RANGE, PAIR, IN_FLIGHT. -/
def FileMisfit (use : Use) (n limit : Nat) (pending : Nat → Bool) (sub : Nat) : Prop :=
  let outside := (n % use.align = 0 ∧ limit < n + use.size) ∨ (n % use.align ≠ 0 ∧ limit ≤ n)
  (outside ∧ sub = 1) ∨ (¬ outside ∧ n % use.align ≠ 0 ∧ sub = 3) ∨
  (¬ outside ∧ n % use.align = 0 ∧ (∃ k, k < use.size ∧ pending (n + k) = true) ∧ sub = 4)

/-- R99, R107: why an indexed operand is refused: PAIR, INDEX_BOUND, IN_FLIGHT. -/
def IndexedMisfit (u : Issuer) (l : Nat) (use : Use) (n sub : Nat) : Prop :=
  let odd := n % use.align ≠ 0 ∨ (use.align = 2 ∧ u.l.regs ≤ n + 1)
  (odd ∧ sub = 3) ∨ (¬ odd ∧ u.l.regs < n + use.size ∧ sub = 2) ∨
  (¬ odd ∧ n + use.size ≤ u.l.regs ∧ (∃ k, k < use.size ∧ u.g.vPend (n + k) l = true) ∧ sub = 4)

/-- R104: why a latch is refused: void, empty in the lane, of the other width. -/
def LatchMisfit (u : Issuer) (l : Nat) (use : Use) (k sub : Nat) : Prop :=
  (u.g.latches[k]? = none ∧ sub = 5) ∨
  ∃ e, u.g.latches[k]? = some e ∧ ((e.elems.get? l = none ∧ sub = 6) ∨
    ((e.elems.get? l).isSome = true ∧ e.wide ≠ decide (use.size = 2) ∧ sub = 7))

/-- R434: the subcode of the OPER fault of an operand in a lane. -/
def Misfits (u : Issuer) (l : Nat) (use : Use) (sub : Nat) : Prop :=
  match operandOf use.code with
  | .v n => FileMisfit use n u.l.regs (fun r => u.g.vPend r l) sub
  | .s n => FileMisfit use n u.l.sregs u.g.sPend sub
  | .indexed k => IndexedMisfit u l use (u.g.xreg k l).toNat sub
  | .latch k => LatchMisfit u l use k sub
  | _ => False

/-- R443: the operand reads a poisoned register in a lane. -/
def ReadsPoison (u : Issuer) (l : Nat) (use : Use) : Prop :=
  use.write = false ∧ match operandOf use.code with
    | .v n => ∃ k, k < use.size ∧ u.g.vBad (n + k) l = true
    | .indexed j => ∃ k, k < use.size ∧ u.g.vBad ((u.g.xreg j l).toNat + k) l = true
    | .s n => ∃ k, k < use.size ∧ u.g.sBad (n + k) = true
    | _ => False

/-- R81, R435: an instruction of a table with an operand that does not fit traps, in the lowest lane that has one: with POISON if an
operand of the lane reads poison, else for the first operand that does not fit. -/
def Refuses (table : Instr → Option Compute) : Prop :=
  ∀ (i : Instr) (k : Compute), table i = some k → i.WellFormed = true → ∀ (s : State) (u : Issuer), Issuing s u →
    ∀ l, (if k.form.sc then l = 0 else l ∈ u.enabledLanes k.form.tt) →
      (k.form.sc = false → ∀ m ∈ u.enabledLanes k.form.tt, m < l → ∀ x ∈ k.form.uses, Fits u m x) →
      ((∃ x ∈ k.form.uses, ReadsPoison u l x) → ∃ t d, exec i s = .next t ∧ TrapsAt s u .err 1 (if k.form.sc then 0xFF else l) 0 d t) ∧
      ∀ pre x post sub, k.form.uses = pre ++ x :: post → (∀ y ∈ k.form.uses, ¬ ReadsPoison u l y) → (∀ y ∈ pre, Fits u l y) →
        Misfits u l x sub → ∃ t d, exec i s = .next t ∧ TrapsAt s u .oper sub (if k.form.sc then 0xFF else l) 0 d t

/-! ## Special registers (R321, R322) -/

/-- R27: the grid team index of a team. -/
def teamPlace (u : Issuer) : Word64 :=
  BitVec.ofNat 64 (u.t.index % Nat.max 1 u.l.tdx + 2 ^ 16 * (u.t.index / Nat.max 1 u.l.tdx % Nat.max 1 u.l.tdy) +
    2 ^ 32 * (u.t.index / Nat.max 1 u.l.tdx / Nat.max 1 u.l.tdy))

/-- R321, R437: MODE. -/
def modeBits (u : Issuer) : Word :=
  BitVec.ofNat 32 (u.c.rmode % 4 + 4 * u.l.det.toNat + 8 * u.c.dbg.toNat + 16 * (decide (u.c.stage = .demoted)).toNat + 32 * u.l.cogrid.toNat +
    64 * u.l.idem.toNat + 128 * u.l.revocable.toNat)

/-- R321: what a 32-bit selector of sysrd reads. -/
def special (u : Issuer) : Nat → Option Word
  | 0 => some (BitVec.ofNat 32 u.g.g)
  | 2 => some (BitVec.ofNat 32 u.l.groupCount)
  | 5 => some (BitVec.ofNat 32 u.l.width)
  | 6 => some (BitVec.ofNat 32 u.l.regs)
  | 7 => some (modeBits u)
  | 9 => some (BitVec.ofNat 32 (u.g.barTeam.waited.toNat % 256))
  | 10 => some (BitVec.ofNat 32 (u.g.barCluster.waited.toNat % 256))
  | 11 => some (BitVec.ofNat 32 (u.g.barGrid.waited.toNat % 256))
  | 13 => some (u.g.agent.zeroExtend 32)
  | 14 => some (BitVec.ofNat 32 u.t.index)
  | 15 => some u.g.fpstat
  | _ => none

/-- R321: what a 64-bit selector of sysrd reads. -/
def specialPair (s : State) (u : Issuer) : Nat → Option Word64
  | 1 => some (teamPlace u)
  | 3 => some (BitVec.ofNat 64 (u.l.tdx + 2 ^ 16 * u.l.tdy + 2 ^ 32 * u.l.tdz))
  | 4 => some (BitVec.ofNat 64 (clusterOf u.l u.t + 2 ^ 32 * placeInCluster u.l u.t + 2 ^ 40 * u.l.cw + 2 ^ 44 * u.l.ch))
  | 8 => some (s.dieTicks (dieOf u.t.core))
  | 12 => some u.c.steps
  | _ => none

end Sys2Proof.Claims
end

