-- ==== Sys2Proof/Claims/Code.lean ====
section
/-!
DEFINITION. Where a group stands in its code and when it may issue (spec/04 R83 to R87, R109; spec/12 R344; spec/21 R435).
-/

namespace Sys2Proof.Claims

open Sys2Proof.Machine

/-- The eight bytes at an address of code are the word w: the address is aligned and canonical (R83, R152), it translates for
fetching (R166), its bytes in memory are w's, the lowest first (R3), and none of them is poisoned. -/
def CodeAt (s : State) (u : Issuer) (va : Nat) (w : Word64) : Prop :=
  va % 8 = 0 ∧ va + 8 ≤ 2 ^ 57 ∧ ∃ loc cache checked, translate s u.t.core u.l.ctx u.c.root va kindFetch = .ok (.phys loc cache checked) ∧
    (∀ k, k < 8 → Memory.byte s.mem (loc + k) = w.extractLsb' (8 * k) 8) ∧ poisoned s.memPoison loc 8 = false

/-- The address of the word where a group stands (R83). -/
def wordAddress (u : Issuer) : Nat := u.g.clause.toNat + 8 * (u.g.index + 1)

/-- A group may issue: it runs, its team is resident on a core whose issue its tenant holds, and no gate, hold or engine fault
stands before it (R346, R371, R452, R477). -/
def MayIssue (s : State) (u : Issuer) : Prop :=
  u.g.status = .running ∧ u.t.status = .resident ∧ s.gated = false ∧ s.stopped = false ∧ u.c.destroying = false ∧
  gateHolds s u = false ∧ (∃ c, s.cores.get? u.t.core = some c ∧ c.issuing = some u.c.tenant) ∧ u.g.heldFaults = []

/-- No enabled breakpoint of the context stands at the word at index k of the group's clause, other than the one that the group
is free of (R326, R328). -/
def NoBreakpoint (u : Issuer) (k : Nat) : Prop :=
  u.isHandler = true ∨ ∀ p ∈ u.c.breakpoints, p.2.enabled = true → p.2.clause = u.g.clause → p.2.index = k →
    u.g.suppressed = some (p.1, false)

/-- The word is an instruction where it stands: its class admits it, its position is legal, and its features are there
(R86, R87, R119, R120). -/
def InPlace (u : Issuer) (w : Word64) (i : Instr) : Prop := decodeWord w = .ok i ∧ placeFaults u (opcOf w) i = []

/-- No Contrail packet and no Sounding tag of the group is made (R422, R426). -/
def Unobserved (u : Issuer) : Prop := u.isHandler = true ∨ (u.c.tracing = false ∧ u.c.sampling = false)

/-- The state in which the instruction of a turn executes: the turn is taken, and the group issues. -/
def issuing (s : State) (gid : Nat) : State :=
  { s with agenda := s.agenda.tail, turn := s.turn + 1, ticks := s.ticks + BitVec.ofNat 64 (nextTurn s).ticks
           clocks := clocksAt (s.ticks + BitVec.ofNat 64 (nextTurn s).ticks) s.clocks (nextTurn s), cur := some gid }

/-- A group may begin the clause where it stands: the counters of the header's WAITD are 0, and no register is pending before an
opfence (R109, R297). -/
def Eligible (u : Issuer) (h first : Word64) : Prop :=
  (∀ j, j < 8 → (hdrWaitd h).testBit j = true → u.g.counter j = 0) ∧ (opcOf first = 0x303 → u.g.anyPending = false)

/-- R344: a group comes before another: by priority unless the quadrant goes by age, then by age, then by slot. -/
def Precedes (byAge : Bool) (a b : Issuer) : Prop :=
  if byAge = false ∧ a.l.prio ≠ b.l.prio then b.l.prio < a.l.prio
  else if a.g.age ≠ b.g.age then b.g.age < a.g.age else a.g.slot ≤ b.g.slot

/-- The groups of a quadrant that may begin a clause. -/
def Candidates (s : State) (core quad : Nat) : List Issuer := afterYields (readyGroups s (quadrantGroups s core quad))

end Sys2Proof.Claims
end

