-- ==== Sys2Proof/Claims/Memory.lean ====
section
/-!
DEFINITION. What memory instructions do at issue, and what their lanes do when they perform and return (spec/06 R152 to R160;
spec/07 R174 to R183; spec/04 R105 to R108; spec/10 R259 to R271).
-/

namespace Sys2Proof.Claims

open Sys2Proof.Machine

/-! ## Addresses (R152, R154, R155) -/

/-- R152: base + OFF18. -/
def address (u : Issuer) (sp : Space) (f : FormM) (l : Nat) : Nat :=
  match sp with
  | .g => (rd64 u f.a l + f.off.signExtend 64).toNat
  | _ => (rd u f.a l + f.off.signExtend 32).toNat

/-- R152, R154, R155: n bytes at an address are legal in a space. -/
def LegalAt (u : Issuer) (sp : Space) (a n : Nat) : Prop :=
  match sp with
  | .g => a + n ≤ 2 ^ 57
  | .t => a + n ≤ u.l.teamMem
  | .c => a / 2 ^ 28 % 16 = 0 ∧ a / 2 ^ 21 % 8 = 0 ∧ a / 2 ^ 24 % 16 < u.l.clusterSize ∧ a % 2 ^ 21 + n ≤ u.l.teamMem
  | .k => a + n ≤ 65536

/-- The scalar, or per-lane, memory instructions of format M: what they access, with how many registers and bytes, and
whether D is written. -/
structure Datum where
  kind : AccessKind
  space : Space
  form : FormM
  opc : Nat
  regs : Nat
  bytes : Nat
  written : Bool

/-- R261, R268: ld, st, atom and red. -/
def datumOf : Instr → Option Datum
  | .ld sp w f => some ⟨.load w, sp, f, 0x200 + 8 * spaceNumber sp + loadNumber w, dataRegs (loadBytes w), loadBytes w, true⟩
  | .st sp w f => some ⟨.store, sp, f, 0x220 + 8 * spaceNumber sp + storeNumber w, dataRegs (storeBytes w), storeBytes w, false⟩
  | .atom sp op f => some ⟨.rmw op true, gtSpace sp, f, (if sp = .g then 0x280 else 0x296) + atomNumber op, atomRegs op,
      atomBytes op, false⟩
  | .red op f => some ⟨.rmw (redAtom op) false, .g, f, 0x2AC + redNumber op, dataRegs (atomBytes (redAtom op)),
      atomBytes (redAtom op), false⟩
  | _ => none

/-- The memory instruction as the model checks it lane by lane. -/
def Datum.op (d : Datum) (u : Issuer) : MemOp := memOpOf u d.kind d.space d.form d.opc d.regs d.bytes d.written

/-- The operands of a lane: the data and the base. -/
def Datum.uses (d : Datum) : List Use := [dataUse d.form.d d.regs d.written, baseUse d.space d.form.a]

/-- No enabled watchpoint of the context, other than one that the instruction is free of, meets a lane's access (R329). -/
def Unwatched (u : Issuer) (m : MemOp) (l : Nat) : Prop := watchpointOf u m (m.req l) = none

/-! ## Issue (R105, R108, R194) -/

/-- The memory instructions, under the group's FMT. -/
def memoryOf (u : Issuer) (i : Instr) : Option MemOp :=
  match i with
  | .ldmx sp f => some (mxOp u sp f false)
  | .stmx sp f => some (mxOp u sp f true)
  | .red _ _ => (datumOf i).map fun d => { d.op u with pend := [] }
  | _ => (datumOf i).map fun d => d.op u

/-- The group-level conditions of an instruction: FMT of the MX forms, whole blocks for stmx (R265, R267), and, in a DET
launch, an atomic or a reduction that needs no minimum and no buffer (R360 to R363). -/
def mayAccess (u : Issuer) : Instr → Prop
  | .ldmx _ _ => 3 ≤ fmtAF u.g.fmt ∧ fmtAF u.g.fmt ≤ 8
  | .stmx _ f => 3 ≤ fmtAF u.g.fmt ∧ fmtAF u.g.fmt ≤ 8 ∧
      ∀ l ∈ u.enabledLanes f.tt, ∀ m, m / 32 = l / 32 → m < u.l.width → m ∈ u.enabledLanes f.tt
  | .atom _ op _ => u.l.det = false ∨ minimumWaited (.rmw op true) = false
  | .red op _ => u.l.det = false ∨ floatRed op = false
  | _ => True

/-- An instruction may take up its accesses `acc`: its counter can rise (R108), its core has room for its requests (R12), every lane
passes its checks with that access (R435), the context's race mode is not fault (R202), and no lane goes to a peer or loads from
another team (R38, R463). -/
def Ready (s : State) (u : Issuer) (m : MemOp) (acc : Nat → LaneAccess) : Prop :=
  u.g.counter (hdrSetd u.header) < 63 ∧ requestsOf s u.t.core + m.lanes.length ≤ 2048 ∧
  (∀ l ∈ m.lanes, checkLane s u m l = .xlate (.ok (acc l))) ∧ u.c.rmode ≠ 2 ∧
  (∀ l ∈ m.lanes, (acc l).toPeer = false) ∧ (m.space = .c → ∀ l ∈ m.lanes, ∃ off, (acc l).target = .team u.g.team off)

/-- R183: the access is a release. -/
def Releases (m : MemOp) : Bool := m.kind.writes && (m.order == 2 || m.order == 3)

/-- The registers that a memory instruction makes pending: a scalar register, or a register in a lane. -/
def pendsV (m : MemOp) (n l : Nat) : Bool := m.pend.any fun p => !p.1 && p.2.1 == n && p.2.2 == l
def pendsS (m : MemOp) (n : Nat) : Bool := m.pend.any fun p => p.1 && p.2.1 == n

/-- R105, R108, R194: the accesses are in flight, stamped with the group's release count; the destinations are pending; the
counter of the clause has risen; a release has raised the release count. No register has its new value, and no byte of
memory has changed. With no lane the instruction is complete. -/
def Issued (s : State) (u : Issuer) (m : MemOp) (acc : Nat → LaneAccess) (t : State) : Prop :=
  if m.lanes = [] then GroupDone s u void (Only u) t
  else
    t = { s with groups := t.groups, accesses := t.accesses, nextId := s.nextId + 1 } ∧ OtherGroups s t u.gid ∧
    (∀ k, k ≠ s.nextId → t.accesses.get? k = s.accesses.get? k) ∧ SameMemory s t ∧
    (∃ a, t.accesses.get? s.nextId = some a ∧ a.group = u.gid ∧ a.kind = m.kind ∧ a.space = m.space ∧
      a.scalar = m.scalar ∧ a.lanes = m.lanes.map acc ∧ a.order = m.order ∧ a.scope = m.scope ∧
      a.counter = hdrSetd u.header ∧ a.stamp = u.g.rc ∧ a.frozen = false ∧ a.sound = u.g.sound) ∧
    ∃ g, t.groups.get? u.gid = some g ∧ NextPlace u void g ∧
      (∀ j, g.counter j = if j = hdrSetd u.header then u.g.counter j + 1 else u.g.counter j) ∧
      (∀ n l, l < 128 → g.vPend n l = (u.g.vPend n l || pendsV m n l)) ∧
      (∀ n, g.sPend n = (u.g.sPend n || pendsS m n)) ∧
      g.rc = (if Releases m then u.g.rc + 1 else u.g.rc) ∧
      g = { moved u.g g with d := g.d, vPending := g.vPending, sPending := g.sPending, rc := g.rc }

/-! ## Performing (R174, R178, R270) -/

/-- No core's L1 holds a byte that it has not written back. -/
def NoDirty (s : State) : Prop := ∀ c b, coreDirty s c b = false

/-- The first lane of an access in flight, whose checks are not still to be made, may perform: it has not, nothing of its group that it
follows is outstanding, its bytes are in one piece, not a peer's, and not poisoned. -/
def FirstLane (s : State) (aid : Nat) (a : Access) (u : Issuer) (la : LaneAccess) (rest : List LaneAccess) : Prop :=
  s.accesses.get? aid = some a ∧ issuerOf s a.group = some u ∧ u.g.wait ≠ some (.checks aid) ∧ a.lanes = la :: rest ∧
  la.performed = false ∧
  (∀ x ∈ a.lanes, x.toPeer = false) ∧ la.tail = none ∧ la.scale = none ∧ mayPerform s aid a la = true ∧
  lanePoisoned s u.t.core la = false

/-- Byte k of a lane's data. -/
def dataByte (la : LaneAccess) (k : Nat) : Byte := la.data.extractLsb' (8 * k) 8

/-- A byte of a team's memory. -/
def teamByte (t : Team) (b : Nat) : Byte := t.mem.read b 0

/-- Every byte of memory but the race records of the carve-out (R164), outside n bytes at a, reads as before. -/
def SameBut (s t : State) (u : Issuer) (a n : Nat) : Prop :=
  ∀ b, b < a ∨ a + n ≤ b → u.c.rmode = 0 ∨ b < s.mbase → Memory.byte t.mem b = Memory.byte s.mem b

/-- Every byte of memory but the race records reads as before. -/
def SameAll (s t : State) (u : Issuer) : Prop :=
  ∀ b, u.c.rmode = 0 ∨ b < s.mbase → Memory.byte t.mem b = Memory.byte s.mem b

/-- The registers of a word list delivered in a lane, or to scalars (R105): each written, none of them pending. -/
def Delivered (old g : Group) (scalar : Bool) (lane : Nat) (regs : List Nat) (ws : List Word) : Prop :=
  if scalar then
    (∀ i (h : i < regs.length), (∀ w, ws[i]? = some w → g.sreg regs[i] = w) ∧ g.sPend regs[i] = false) ∧
    (∀ n, n ∉ regs → g.sreg n = old.sreg n ∧ g.sPend n = old.sPend n) ∧
    (∀ n l, l < 128 → g.vreg n l = old.vreg n l ∧ g.vPend n l = old.vPend n l)
  else
    (∀ i (h : i < regs.length), (∀ w, ws[i]? = some w → g.vreg regs[i] lane = w) ∧ g.vPend regs[i] lane = false) ∧
    (∀ n l, l < 128 → n ∉ regs ∨ l ≠ lane → g.vreg n l = old.vreg n l ∧ g.vPend n l = old.vPend n l) ∧
    (∀ n, g.sreg n = old.sreg n ∧ g.sPend n = old.sPend n)

/-- R261: what a load of a width delivers of the bytes read. -/
def loaded (w : LoadWidth) (v : BitVec 272) : List Word :=
  match w with
  | .n8 => [(v.extractLsb' 0 8).zeroExtend 32]
  | .i8 => [(v.extractLsb' 0 8).signExtend 32]
  | .n16 => [(v.extractLsb' 0 16).zeroExtend 32]
  | .i16 => [(v.extractLsb' 0 16).signExtend 32]
  | .b32 => [v.extractLsb' 0 32]
  | .b64 => [v.extractLsb' 0 32, v.extractLsb' 32 32]
  | .b128 => [v.extractLsb' 0 32, v.extractLsb' 32 32, v.extractLsb' 64 32, v.extractLsb' 96 32]

/-- R268: what an atomic delivers of the old value. -/
def oldWords (op : AtomOp) (v : BitVec 272) : List Word :=
  if atomBytes op = 8 then [v.extractLsb' 0 32, v.extractLsb' 32 32] else [v.extractLsb' 0 32]

/-- R269: what a 32-bit integer or logic atomic writes for an old value and an operand. -/
def updated (op : AtomOp) (old v : Word) : Option Word :=
  match op with
  | .addI32 => some (old + v)
  | .minI32 => some (if v.slt old then v else old)
  | .minN32 => some (if v.ult old then v else old)
  | .maxI32 => some (if old.slt v then v else old)
  | .maxN32 => some (if old.ult v then v else old)
  | .andB32 => some (old &&& v)
  | .orB32 => some (old ||| v)
  | .xorB32 => some (old ^^^ v)
  | .xchgB32 => some v
  | .incN32 => some (if v ≤ old then 0 else old + 1)
  | .decN32 => some (if old = 0 ∨ v < old then v else old - 1)
  | _ => none

/-- R269: the same for the 64-bit ones. -/
def updated64 (op : AtomOp) (old v : Word64) : Option Word64 :=
  match op with
  | .addI64 => some (old + v)
  | .addX64 => some (old + v)
  | .andB64 => some (old &&& v)
  | .orB64 => some (old ||| v)
  | .xorB64 => some (old ^^^ v)
  | .xchgB64 => some v
  | _ => none

end Sys2Proof.Claims
end

