-- ==== Sys2Proof/Claims/Sync.lean ====
section
/-!
DEFINITION. What fences, barriers, the monitor, arrival sets and the debug mailbox do (spec/07 R183 to R196; spec/10 R272 to R281;
spec/11 R323).
-/

namespace Sys2Proof.Claims

open Sys2Proof.Machine

/-! ## The L1 of a core (R160, R183, R272) -/

/-- The cores are as before, but for the lines that their L1s hold. -/
def OnlyLines (s t : State) : Prop :=
  ∀ c, (t.cores.get? c).map (fun x => { x with lines := [] }) = (s.cores.get? c).map fun x => { x with lines := [] }

/-- R183: a core's dirty bytes are at their home: memory reads as the core did, and no byte of the core is dirty; the other
cores keep theirs. -/
def WroteBack (s t : State) (core : Nat) : Prop :=
  (∀ b, Memory.byte t.mem b = if coreDirty s core b then coreByte s core b else Memory.byte s.mem b) ∧
  (∀ b, coreDirty t core b = false) ∧ (∀ c b, c ≠ core → coreDirty t c b = coreDirty s c b) ∧ OnlyLines s t

/-- R272: the core's L1 holds no line. -/
def NoLine (t : State) (core : Nat) : Prop := ∀ c, t.cores.get? core = some c → ∀ ln, c.lines.get? ln = none

/-- Nothing changes but u's group, the Sounding record of its instruction, and memory and the lines of the cores. -/
def OnlyOrdered (s t : State) (u : Issuer) : Prop :=
  t = { s with groups := t.groups, contexts := t.contexts, cores := t.cores, mem := t.mem, memPoison := t.memPoison } ∧
  OtherGroups s t u.gid ∧ OnlySound s t u ∧ OnlyLines s t

/-! ## Fences (R272) -/

/-- R183, R272: which halves a fence has. -/
def releases (f : FormM) : Prop := 2 ≤ f.order.toNat
def acquires (f : FormM) : Prop := f.order = 1 ∨ f.order = 3

/-- R183, R272: the accesses that a fence waits for have performed. -/
def FenceReady (s : State) (u : Issuer) (f : FormM) : Prop :=
  (releases f → groupPerformed s u.gid = true) ∧ (acquires f → groupReadsPerformed s u.gid = true)

/-- R194, R272: the state after a fence: what the core had written is at its home where the fence releases beyond its team,
and its L1 is empty where it acquires beyond it; a release raises the group's release count. -/
def Fenced (s : State) (u : Issuer) (f : FormM) (t : State) : Prop :=
  OnlyOrdered s t u ∧
  (f.scope = 0 → t.cores = s.cores ∧ SameMemory s t) ∧ (f.scope ≠ 0 → (releases f ∨ acquires f) → WroteBack s t u.t.core) ∧
  (f.scope ≠ 0 → acquires f → NoLine t u.t.core) ∧
  ∃ g rc, t.groups.get? u.gid = some g ∧ NextPlace u void g ∧ (releases f → rc = u.g.rc + 1) ∧ (¬ releases f → rc = u.g.rc) ∧
    g = { moved u.g g with rc := rc }

/-! ## Barriers (R273 to R276) -/

/-- The barrier instructions: their level, and whether the other devices of the pod take part. -/
def barrierOf : Instr → Option (Level × Bool)
  | .bar _ => some (.team, false)
  | .barc _ => some (.cluster, false)
  | .barg _ => some (.grid, false)
  | .barp _ => some (.grid, true)
  | _ => none

/-- R275: the launch, or the context, has the barrier. -/
def HasBarrier (u : Issuer) (lvl : Level) (pod : Bool) : Prop :=
  (lvl = .grid → u.l.cogrid = true) ∧ (pod = true → u.c.domainSize ≠ 0)

/-- R276: the group holds no arrival whose phase has not completed. -/
def NoOpenArrival (u : Issuer) (lvl : Level) : Prop :=
  (u.g.counts lvl).arrived ≠ BitVec.ofNat 32 (phasesDone lvl u.t u.l + 1)

/-- R194, R195, R274, R359: the group with its arrival at the phase in progress counted, with the instruction count it had. -/
def arrived (u : Issuer) (lvl : Level) : Group :=
  let c : BarrierCounts := { u.g.counts lvl with arrived := BitVec.ofNat 32 (phasesDone lvl u.t u.l + 1), arrivalIC := u.g.ic.toNat }
  let g := { u.g with rc := u.g.rc + 1 }
  match lvl with
  | .team => { g with barTeam := c }
  | .cluster => { g with barCluster := c }
  | .grid => { g with barGrid := c }

/-- R183, R274: the release of an arrival: beyond the team, what the core had written is at its home. -/
def ArrivalOrdered (s : State) (u : Issuer) (lvl : Level) (t : State) : Prop :=
  OtherGroups s t u.gid ∧ OnlyLines s t ∧
  t = { s with groups := t.groups, contexts := t.contexts, cores := t.cores, mem := t.mem, memPoison := t.memPoison } ∧
  (lvl = .team → t.cores = s.cores ∧ SameMemory s t) ∧ (lvl ≠ .team → WroteBack s t u.t.core)

/-- R276: the level that `arrive` and `await` name. -/
def levelNamed (x : BitVec 11) : Level := if x = 0 then .team else if x = 1 then .cluster else .grid

/-- R37: the group blocks at its instruction, and nothing else changes. -/
def Blocks (s : State) (u : Issuer) (w : Wait) (t : State) : Prop :=
  t = { s with groups := t.groups } ∧ OtherGroups s t u.gid ∧ SameMemory s t ∧
  t.groups.get? u.gid = some { u.g with status := .blocked, wait := some w }

/-! ## The monitor (R277) -/

/-- The word of a monitor's address: aligned, canonical, at a location of memory, unpoisoned, and free of the group's own
accesses in flight and of those that hold granules (R202); no core has written what is not at its home, the context makes no race checks, and the launch is not
deterministic. -/
def MonitorReads (s : State) (u : Issuer) (f : FormV) (loc : Nat) : Prop :=
  let va := (rd64 u f.a 0).toNat
  va % 4 = 0 ∧ va + 4 ≤ 2 ^ 57 ∧ (∃ cache checked, translate s u.t.core u.l.ctx u.c.root va kindRead = .ok (.phys loc cache checked)) ∧
  poisoned s.memPoison loc 4 = false ∧ (∀ p ∈ s.accesses, p.2.group ≠ u.gid ∧ p.2.checked = false) ∧ NoDirty s ∧ u.c.rmode = 0 ∧ u.l.det = false

/-- The word in memory. -/
def memoryWord (s : State) (loc : Nat) : Word := BitVec.ofNat 32 (s.readNat loc 4)

/-- R277: the first read of a monitor found another value: it goes to D, and the instruction is complete. -/
def MonitorDone (s : State) (u : Issuer) (f : FormV) (loc : Nat) (t : State) : Prop :=
  OtherGroups s t u.gid ∧ SameMemory s t ∧ NoLine t u.t.core ∧
  ∃ g, t.groups.get? u.gid = some g ∧ NextPlace u void g ∧ ScalarIs u f.d (memoryWord s loc) g

/-- R277: the first read found the expected value: the group blocks until the word changes, or its timeout expires. -/
def MonitorBlocks (s : State) (u : Issuer) (f : FormV) (loc : Nat) (t : State) : Prop :=
  OtherGroups s t u.gid ∧ SameMemory s t ∧
  ∃ ops, t.groups.get? u.gid = some { u.g with status := .blocked, wait := some (.monitor (rd64 u f.a 0).toNat loc (rd u f.b 0) f.d
    (if rd u f.c 0 = 0 then none else some (if u.calm then (rd u f.c 0).toNat else s.ticks.toNat + (rd u f.c 0).toNat)) ops) }

/-! ## Arrival sets (R278 to R281) -/

/-- The team's set k. -/
def setOf (t : Team) (k : Nat) : ArrivalSet := t.sets.read k ⟨0, 0, [], [], [], 0, false, false, []⟩

/-- Set k of the group's team is a, and its other sets and the rest of the team are as before. -/
def SetIs (s t : State) (u : Issuer) (k : Nat) (a : ArrivalSet) : Prop :=
  ∃ x, t.teams.get? u.g.team = some x ∧ x.sets.get? k = some a ∧ (∀ j, j ≠ k → x.sets.get? j = u.t.sets.get? j) ∧
    x = { u.t with sets := x.sets }

/-- R279: the endpoint is free: no other set of the context is bound to it. -/
def EndpointFree (s : State) (u : Issuer) (k ep : Nat) : Prop :=
  ep = 0 ∨ ∀ p ∈ s.teams, ∀ l, s.launches.get? p.2.launch = some l → l.ctx = u.l.ctx → p.2.status ≠ .retired →
    ∀ q ∈ p.2.sets, q.2.ep.toNat = ep → p.1 = u.g.team ∧ q.1 = k

/-- R279: bytes above what is now expected of a source move to the following phase. -/
def Expected (a : ArrivalSet) (i : Nat) (n : Word) (b : ArrivalSet) : Prop :=
  let got := a.got.read i 0
  (∀ j, b.expect.read j 0 = if j = i then n else a.expect.read j 0) ∧
  (∀ j, b.got.read j 0 = if j = i ∧ n < got then n else a.got.read j 0) ∧
  (∀ j, b.next.read j 0 = if j = i ∧ n < got then a.next.read j 0 + (got - n) else a.next.read j 0) ∧
  b.broken = (a.broken || (decide (n < got) && decide (n < b.next.read i 0))) ∧
  b = { a with expect := b.expect, got := b.got, next := b.next, broken := b.broken }

/-- R280: bytes of a source are credited, first to the phase in progress and then to the following one. -/
def Credited (a : ArrivalSet) (i n : Nat) (b : ArrivalSet) : Prop :=
  let now := Nat.min n ((a.expect.read i 0).toNat - (a.got.read i 0).toNat)
  (∀ j, b.got.read j 0 = if j = i then a.got.read j 0 + BitVec.ofNat 32 now else a.got.read j 0) ∧
  (∀ j, b.next.read j 0 = if j = i then a.next.read j 0 + BitVec.ofNat 32 (n - now) else a.next.read j 0) ∧
  b.broken = (a.broken || decide (a.expect.read i 0 < b.next.read i 0)) ∧
  b = { a with got := b.got, next := b.next, broken := b.broken, stamps := b.stamps }

/-! ## Ends of waits (R38, R42, R195, R281, R359) -/

/-- R42, R357: the group takes up issue after the instruction at which it waited: the instruction counts, and b0 is void. -/
def Resumes (u : Issuer) (g : Group) : Prop :=
  g.status = .running ∧ g.wait = none ∧
  if u.g.index < hdrNcount u.header then
    g.clause = u.g.clause ∧ g.index = u.g.index + 1 ∧ g.latches = (void :: u.g.latches).take 4
  else g.clause = followingClause u ∧ g.index = 0 ∧ g.latches = []

/-- R195, R274, R276, R359: after a wait for phase p the group has waited for it, and an await takes no count down; in a DET launch its instruction count is at least the
greatest that an arrival at the phase had. -/
def HasWaited (u : Issuer) (lvl : Level) (p : Nat) (await : Bool) (g : Group) : Prop :=
  (g.counts lvl).waited = BitVec.ofNat 32
    (if await then Nat.max (u.g.counts lvl).waited.toNat ((p + 1) % 2 ^ 32) else (p + 1) % 2 ^ 32) ∧
  g.ic = (if u.l.det then BitVec.ofNat 64 (Nat.max u.g.ic.toNat (phaseMaxOf lvl p u.t u.l)) else u.g.ic) + 1

end Sys2Proof.Claims
end

