-- ==== Sys2Proof/Claims/Copies.lean ====
section
/-!
DEFINITION. What copies, batches, collectives and the engines' arbiter do (spec/10 R282 to R291; spec/12 R348 to R350; spec/23
R467, R468).
-/

namespace Sys2Proof.Claims

open Sys2Proof.Machine

/-! ## Arguments (R282 to R287) -/

/-- R284, R131: the bytes of a block's elements in a panel, and their alignment. -/
def panelBlock (ctl : Nat) : Nat := if ctl = 5 ∨ ctl = 6 then 24 else if ctl = 7 then 16 else 32
def panelAlign (ctl : Nat) : Nat := if ctl = 5 ∨ ctl = 6 then 8 else if ctl = 7 then 16 else 32

/-- R283, R284: the arguments of a panel: plain words, or MX blocks. -/
def PanelLegal (u : Issuer) (off va n ctl : Nat) : Prop :=
  off + n ≤ u.l.teamMem ∧
  (ctl = 0 → off % 4 = 0 ∧ va % 4 = 0 ∧ n % 4 = 0 ∧ n ≤ 2 ^ 24) ∧
  (ctl ≠ 0 → 3 ≤ ctl ∧ ctl ≤ 8 ∧ n % (panelBlock ctl + 1) = 0 ∧ off % panelAlign ctl = 0 ∧ va % panelAlign ctl = 0)

/-- R154: the team and the offset that a cluster address names. -/
def placeOf (s : State) (u : Issuer) (a : Nat) : Nat := clusterTeam s u (a / 2 ^ 24 % 16)

/-- R285: the arguments of cpc. -/
def ClusterLegal (u : Issuer) (d a n : Nat) (tag : Word) : Prop :=
  tag.extractLsb' 8 23 = 0 ∧ d % 4 = 0 ∧ a % 4 = 0 ∧ n % 4 = 0 ∧ n ≤ 2 ^ 24 ∧ LegalAt u .c d n ∧ LegalAt u .c a n

/-- R286: the fields of a fabric control pair. -/
def ctlPeer (c : Word64) : Nat := (c.extractLsb' 0 12).toNat
def ctlSet (c : Word64) : Nat := (c.extractLsb' 16 4).toNat
def ctlSource (c : Word64) : Nat := (c.extractLsb' 20 4).toNat
def ctlRop (c : Word64) : Nat := (c.extractLsb' 24 4).toNat
def ctlEndpoint (c : Word64) : Nat := (c.extractLsb' 32 16).toNat
def ctlCredit (c : Word64) : Option (Nat × Nat × Nat) :=
  if c.getLsbD 31 then some (ctlSet c, ctlSource c, ctlEndpoint c) else none

/-- R286: the bits of a control pair that must be 0 are. -/
def ControlLegal (c : Word64) : Prop :=
  c.extractLsb' 28 3 = 0 ∧ c.extractLsb' 12 4 = 0 ∧ c.extractLsb' 48 16 = 0 ∧ (c.getLsbD 31 = false → c.extractLsb' 32 16 = 0)

/-- R283, R287, R405: the addresses and the count of a fabric copy, in elements of `size` bytes. -/
def FabricLegal (s : State) (c : Word64) (there here n size : Nat) : Prop :=
  there % size = 0 ∧ here % size = 0 ∧ n % size = 0 ∧ n ≤ 2 ^ 24 ∧ there + n ≤ 2 ^ 52 ∧ ctlPeer c ≠ s.devnum

/-- R283 to R287: the copies: their operands and opcode, when their arguments are legal, and the entry that they make. -/
def copyOf (s : State) (u : Issuer) : Instr → Option (List Use × Nat × Prop × EntryKind)
  | .cpgLd f =>
    let off := (rd u f.d 0).toNat
    let va := (rd64 u f.a 0).toNat
    let n := (rd u f.b 0).toNat
    let ctl := (rd u f.c 0).toNat
    some ([src fieldD f.d, src64 fieldA f.a, src fieldB f.b, src fieldC f.c], 0x2CB, PanelLegal u off va n ctl,
      .globalToTeam off va n ctl)
  | .cpgSt f =>
    let off := (rd u f.d 0).toNat
    let va := (rd64 u f.a 0).toNat
    let n := (rd u f.b 0).toNat
    let ctl := (rd u f.c 0).toNat
    some ([src fieldD f.d, src64 fieldA f.a, src fieldB f.b, src fieldC f.c], 0x2CC, PanelLegal u off va n ctl,
      .teamToGlobal off va n ctl)
  | .cpc f =>
    let d := (rd u f.d 0).toNat
    let a := (rd u f.a 0).toNat
    let n := (rd u f.b 0).toNat
    let tag := rd u f.c 0
    some ([src fieldD f.d, src fieldA f.a, src fieldB f.b, src fieldC f.c], 0x2CD, ClusterLegal u d a n tag,
      .cluster (placeOf s u d) (d % 2 ^ 21) (placeOf s u a) (a % 2 ^ 21) n
        (if tag.getLsbD 31 then some ((tag.extractLsb' 0 4).toNat, (tag.extractLsb' 4 4).toNat) else none))
  | .fput f =>
    let c := rd64 u f.c 0
    let n := (rd u f.b 0).toNat
    some ([src64 fieldD f.d, src64 fieldA f.a, src fieldB f.b, src64 fieldC f.c], 0x2CE,
      ControlLegal c ∧ ctlRop c = 0 ∧ FabricLegal s c (rd64 u f.d 0).toNat (rd64 u f.a 0).toNat n 4,
      .put (rd64 u f.d 0).toNat (rd64 u f.a 0).toNat n (ctlPeer c) none (ctlCredit c))
  | .fget f =>
    let c := rd64 u f.c 0
    let n := (rd u f.b 0).toNat
    some ([src64 fieldD f.d, src64 fieldA f.a, src fieldB f.b, src64 fieldC f.c], 0x2CF,
      ControlLegal c ∧ c.getLsbD 31 = false ∧ ctlRop c = 0 ∧ FabricLegal s c (rd64 u f.a 0).toNat (rd64 u f.d 0).toNat n 4,
      .get (rd64 u f.d 0).toNat (rd64 u f.a 0).toNat n (ctlPeer c))
  | .fputr f =>
    let c := rd64 u f.c 0
    let n := (rd u f.b 0).toNat
    some ([src64 fieldD f.d, src64 fieldA f.a, src fieldB f.b, src64 fieldC f.c], 0x2D0,
      ControlLegal c ∧ ctlRop c < 8 ∧
        FabricLegal s c (rd64 u f.d 0).toNat (rd64 u f.a 0).toNat n (if ctlRop c = 1 ∨ ctlRop c = 2 then 8 else 4),
      .put (rd64 u f.d 0).toNat (rd64 u f.a 0).toNat n (ctlPeer c) (some (ctlRop c)) (ctlCredit c))
  | _ => none

/-- R363: what a DET launch does not allow: a reduction to a peer whose sum depends on its order. -/
def detRefuses (u : Issuer) : Instr → Prop
  | .fputr f => u.l.det = true ∧ ctlRop (rd64 u f.c 0) = 3
  | _ => False

/-! ## Issue (R282, R348) -/

/-- R348: the tenant's queue at an engine of the core has room. -/
def HasRoom (s : State) (u : Issuer) (engine : Nat) : Prop := queueFull s u engine = false

/-- The entries of the tenant's queue at an engine of a core. -/
def queued (s : State) (core engine tenant : Nat) : List Nat :=
  (s.cores.get? core).elim [] fun c => (queueOf c engine tenant).entries

/-- R194, R282, R348: the entry of a group in a tenant's queue at an engine: not started, stamped with the group's release count,
made by the engine agent of the group. -/
def EntryIs (s : State) (u : Issuer) (kind : EntryKind) (opc engine : Nat) (e : Entry) : Prop :=
  e.group = u.gid ∧ e.team = u.g.team ∧ e.ctx = u.l.ctx ∧ e.tenant = u.c.tenant ∧ e.core = u.t.core ∧
  e.agent = u.g.agent ||| 0x8000 ∧ e.kind = kind ∧ e.stamp = u.g.rc ∧ e.engine = engine ∧ e.started = false ∧
  e.performed = false ∧ e.counter = none ∧ e.opc = opc ∧ e.batch = 0 ∧ e.clause = u.g.clause ∧ e.index = u.g.index ∧
  e.stalled = none ∧ e.startTick = s.ticks.toNat

/-- R282, R348: a copy is issued: its entry joins its tenant's queue and the open batch, and the group's release count rises. -/
def CopyIssued (s : State) (u : Issuer) (kind : EntryKind) (opc engine : Nat) (t : State) : Prop :=
  t = { s with groups := t.groups, contexts := t.contexts, cores := t.cores, entries := t.entries, nextId := s.nextId + 1 } ∧
  OtherGroups s t u.gid ∧ OnlySound s t u ∧ SameMemory s t ∧
  (∃ e, t.entries.get? s.nextId = some e ∧ EntryIs s u kind opc engine e) ∧
  (∀ n, n ≠ s.nextId → t.entries.get? n = s.entries.get? n) ∧
  (∀ c, (t.cores.get? c).map (fun x => { x with queues := [] }) = (s.cores.get? c).map fun x => { x with queues := [] }) ∧
  ((s.cores.get? u.t.core).isSome = true →
    queued t u.t.core engine u.c.tenant = queued s u.t.core engine u.c.tenant ++ [s.nextId]) ∧
  ∃ g, t.groups.get? u.gid = some g ∧ NextPlace u void g ∧
    g = { moved u.g g with rc := u.g.rc + 1, copyOpen := u.g.copyOpen ++ [(s.nextId, u.g.rc.toNat)] }

/-! ## Batches (R288, R289) -/

/-- R289: batch n is not in the future of the last closed batch. -/
def Reached (n last : BitVec 32) : Prop := (last - n).toNat < 2 ^ 31

/-- R288: a batch over the group's open entries: complete if each of them has completed. -/
def Closes (s : State) (opened : List (Nat × Nat)) (b : Batch) : Prop :=
  b.entries = opened.map (·.1) ∧ b.flags = 0 ∧ (b.done = true ↔ ∀ p ∈ opened, s.entries.get? p.1 = none)

/-- The batches of a group that are not complete. -/
def openBatches (bs : Table Batch) : Nat := (bs.filter fun p => !p.2.done).length

/-! ## Moving bytes (R178, R282, R288) -/

/-- No group is blocked or about to be halted, none that is halted waits for anything, none is held at a rendezvous, and no access
has been checked and not yet performed (R202). -/
def Quiet (s : State) : Prop :=
  (∀ p ∈ s.groups, p.2.status ≠ .blocked ∧ p.2.haltAsked = false ∧ (p.2.status = .halted → p.2.wait = none)) ∧ s.joints = [] ∧
  ∀ p ∈ s.accesses, p.2.checked = false

/-- An entry may perform: its group stands, it has started, it waits for no walk, the releases before it have performed, and no
packet or credit of it is outstanding (R186, R349). -/
def EntryRuns (s : State) (id : Nat) (e : Entry) (u : Issuer) : Prop :=
  s.entries.get? id = some e ∧ issuerOf s e.group = some u ∧ e.started = true ∧ e.stalled = none ∧ entryFree s id e = true ∧
  e.performed = false ∧ awaited s id = false ∧ s.credits.get? id = none ∧ e.fetched = []

/-- R152: n bytes at an offset lie in a team's memory, and none of them is poisoned. -/
def InTeam (s : State) (tid off n : Nat) : Prop :=
  ∃ x l, s.teams.get? tid = some x ∧ s.launches.get? x.launch = some l ∧ off + n ≤ l.teamMem ∧ poisoned x.memPoison off n = false

/-- R288, R467: an entry is over: it is gone from the table and from its queue. -/
def EntryGone (s t : State) (id : Nat) (e : Entry) : Prop :=
  t.entries.get? id = none ∧ (∀ n, n ≠ id → t.entries.get? n = s.entries.get? n) ∧
  id ∉ queued t e.core e.engine e.tenant

/-- The bytes of a team's memory: those of v in the range, and the old ones elsewhere. -/
def TeamHas (s t : State) (tid off n : Nat) (v : Nat → Byte) : Prop :=
  ∃ x y, s.teams.get? tid = some x ∧ t.teams.get? tid = some y ∧
    ∀ b, teamByte y b = if off ≤ b ∧ b < off + n then v (b - off) else teamByte x b

/-- The other teams' memory is as before. -/
def OtherTeamBytes (s t : State) (tid : Nat) : Prop :=
  ∀ k, k ≠ tid → (t.teams.get? k).map (·.mem) = (s.teams.get? k).map (·.mem)

/-! ## The arbiter (R349) -/

/-- R349: what an entry takes of its tenant's credit. -/
def costOf (s : State) (n : Nat) : Int :=
  match s.entries.get? n with
  | some e => if entryBytes e = 0 then 64 else entryBytes e
  | none => 0

/-- R349: the credit left after the first k entries of a queue. -/
def creditAfter (s : State) (ids : List Nat) (credit : Int) (k : Nat) : Int := credit - ((ids.take k).map (costOf s)).sum

/-- R349: the first k entries of a queue start: each while the credit is positive. -/
def Starts (s : State) (ids : List Nat) (credit : Int) (k : Nat) : Prop :=
  k ≤ ids.length ∧ (∀ j, j < k → 0 < creditAfter s ids credit j) ∧ (k < ids.length → creditAfter s ids credit k ≤ 0)

/-- R349: the tenant whose queue the arbiter visits: the next one, in ascending order, that has an entry. -/
def Visits (c : Core) (engine tn : Nat) : Prop :=
  let filled := fun t => (queueOf c engine t).entries ≠ []
  tn < 64 ∧ filled tn ∧
  match c.visited.get? engine with
  | none => ∀ t, t < tn → ¬ filled t
  | some last =>
    (last < tn ∧ ∀ t, last < t → t < tn → ¬ filled t) ∨
    (tn ≤ last ∧ (∀ t, t < tn → ¬ filled t) ∧ ∀ t, last < t → t < 64 → ¬ filled t)

/-! ## Collectives (R290) -/

/-- Word k of the 32 bytes at an offset of a team's memory. -/
def teamWord (x : Team) (off k : Nat) : Nat := leNat ((List.range 4).map fun j => teamByte x (off + 4 * k + j))

/-- R290: the descriptor of a collective: what each of its words says. -/
def descOp (w : Nat → Nat) : Nat := w 0 % 16
def descType (w : Nat → Nat) : Nat := w 0 / 16 % 16
def descRop (w : Nat → Nat) : Nat := w 0 / 256 % 16
def descComm (w : Nat → Nat) : Nat := w 1 % 65536
def descRoot (w : Nat → Nat) : Nat := w 2 % 65536
def descCount (w : Nat → Nat) : Nat := w 3
def descSend (w : Nat → Nat) : Nat := w 4 + 2 ^ 32 * w 5
def descRecv (w : Nat → Nat) : Nat := w 6 + 2 ^ 32 * w 7
def typeSize (t : Nat) : Nat := if t = 2 ∨ t = 3 then 8 else if t = 5 ∨ t = 6 then 2 else 4

/-- R290: the arguments of a descriptor are legal for a communicator of n ranks. -/
def DescriptorLegal (w : Nat → Nat) (n : Nat) : Prop :=
  w 0 < 2 ^ 12 ∧ w 1 < 2 ^ 16 ∧ w 2 < 2 ^ 16 ∧ descRop w < 3 ∧ descType w < 7 ∧ descOp w < 4 ∧ descRoot w < n ∧
  (descOp w ≠ 3 → descRoot w = 0) ∧ 1 ≤ descCount w ∧ descCount w ≤ 2 ^ 24 ∧
  descSend w % typeSize (descType w) = 0 ∧ descRecv w % typeSize (descType w) = 0

/-- R291: the elements that a rank of n sends. -/
def sentBy (w : Nat → Nat) (n rank : Nat) : Nat :=
  if descOp w = 2 then n * descCount w else if descOp w = 3 ∧ rank ≠ descRoot w then 0 else descCount w

/-- The rank of a team of this device in a communicator: the lowest place that names both. -/
def RankIs (s : State) (c : Communicator) (team rank : Nat) : Prop :=
  c.ranks[rank]? = some (s.devnum, team) ∧ ∀ r, r < rank → c.ranks[r]? ≠ some (s.devnum, team)

end Sys2Proof.Claims
end

