-- ==== Sys2Proof/Claims/Placing.lean ====
section
/-!
DEFINITION. Walks, and the path from a launch packet to a placed team and to the launch's end (spec/06 R165 to R168; spec/12 R331 to
R354; spec/23 R466 to R472).
-/

namespace Sys2Proof.Claims

open Sys2Proof.Machine

/-! ## Walks (R165 to R168) -/

/-- R166: a leaf after a walk for an access of a kind: A is set, and DIRTY where a write may be made. -/
def touchedLeaf (leaf kind : Nat) : Nat :=
  leaf ||| 2 ^ 9 ||| (if (kind = 1 ∨ kind = 2 ∨ kind = 5 ∨ kind = 6) ∧ leaf / 2 % 2 = 1 then 2 ^ 10 else 0)

/-- R168: the page number of an address. -/
def pageOf (va : Nat) : Nat := va / 65536 % 2 ^ 41

/-- R167: entry k of the buffer of a walk's die holds the page of the walk. -/
def HoldsPage (s : State) (w : Walk) (k : Nat) : Prop :=
  k / 1024 = w.core / 48 ∧ ∃ e, s.faults.get? k = some e ∧ e.valid = true ∧ e.ctx = w.ctx ∧ e.vpn = pageOf w.va

/-- V of entry k. -/
def EntryFree (s : State) (k : Nat) : Prop := ∀ e, s.faults.get? k = some e → e.valid = false

/-- R167: the lowest free entry of the buffer of a walk's die. -/
def FreeEntry (s : State) (w : Walk) (k : Nat) : Prop :=
  k / 1024 = w.core / 48 ∧ EntryFree s k ∧ ∀ j, j < k → j / 1024 = w.core / 48 → ¬ EntryFree s j

/-- R165: a walk is among the 64 that its die has in flight: fewer that wait for no replay were begun before it. -/
def WalkInFlight (s : State) (id : Nat) (w : Walk) : Prop :=
  (s.walks.filter fun p => decide (p.1 < id) && p.2.waiting.isNone && decide (p.2.core / 48 = w.core / 48)).length < 64

/-- R165, R166: a TLB entry serves a walk: it is of its context and holds its page, and a write needs DIRTY, unless the page takes
none. -/
def TlbServes (e : TlbEntry) (w : Walk) : Prop :=
  e.ctx = w.ctx ∧ e.va ≤ w.va ∧ w.va < e.va + 2 ^ pageBits e.level ∧
  (w.kind = 1 ∨ w.kind = 2 ∨ w.kind = 5 ∨ w.kind = 6 → e.leaf.toNat / 1024 % 2 = 1 ∨ e.leaf.toNat / 2 % 2 = 0)

/-- R165: the second-level TLB of a walk's die. -/
def dieEntries (s : State) (w : Walk) : List TlbEntry := s.dieTlb.read (w.core / 48) []

/-- R165: the second-level TLB of a core's die does not serve its walk. -/
def DieMisses (s : State) (w : Walk) : Prop := w.group.isSome = true → ∀ e ∈ dieEntries s w, ¬ TlbServes e w

/-- R427: a walk waits for replay: the tagged instruction of its group has STALL bit 5, and no group is otherwise changed. -/
def ReplayNoted (s t : State) (w : Walk) : Prop :=
  ∀ n, t.groups.get? n = (s.groups.get? n).map fun g =>
    if w.group = some n then { g with sound := g.sound.map fun r => r ||| (1#512 <<< 197) } else g

/-- The walk waits under entry k, and the other walks are as before. -/
def WaitsUnder (s t : State) (id : Nat) (w : Walk) (k : Nat) : Prop :=
  ∀ n, t.walks.get? n = if n = id then some { w with waiting := some k } else s.walks.get? n

/-! ## Packets (R331, R335 to R337) -/

/-- The 64 bytes of memory at a location are those of a record. -/
def HasRecord (s : State) (loc : Nat) (p : BitVec 512) : Prop :=
  ∀ k, k < 64 → p.extractLsb' (8 * k) 8 = Memory.byte s.mem (loc + k)

/-- R335, R336: p is the next packet of a tenant's window, or of its fabric queue; its source. -/
def PacketNext (s : State) (tn : Nat) (t : Tenant) (fabric : Bool) (p : BitVec 512) (source : Nat) : Prop :=
  if fabric then t.fabric.head? = some p ∧ source = (p.extractLsb' 388 12).toNat + 1
  else t.tail ≠ t.progress ∧ switchedOut s tn = false ∧ source = 0 ∧
    HasRecord s (hostBase + t.wbase + 64 * (t.progress.toNat % 2 ^ t.wlog2)) p

/-- R335, R336: the packet is taken: PROGRESS rises, or the queue loses its first. -/
def PacketTaken (t : Tenant) (fabric : Bool) (y : Tenant) : Prop :=
  if fabric then y.fabric = t.fabric.tail ∧ y.progress = t.progress
  else y.fabric = t.fabric ∧ y.progress = t.progress + 1

/-- R337: an address of a context translates, for an access of a kind, to a location of memory. -/
def PageAt (s : State) (ctx va kind loc : Nat) : Prop :=
  ∃ c k b, s.contexts.get? ctx = some c ∧ va < 2 ^ 57 ∧ walkXlate s c.root va kind = .ok (.phys loc k b)

/-- R337: the tables of a context answer for the page of an address: it is there, or a fatal fault. -/
def PageAnswers (s : State) (ctx va : Nat) : Prop :=
  ∀ c, s.contexts.get? ctx = some c → va < 2 ^ 57 →
    (∀ level, walkVa s c.root va ≠ .absent level) ∧ (∀ loc, walkVa s c.root va ≠ .nowhere loc) ∧
    ∀ level leaf at_, walkVa s c.root va = .leaf level leaf at_ → leaf % 2 ^ 52 / 4096 * 4096 + 2 ^ 30 ≤ s.hbmBytes

/-- R332, R337: a is serially greater than b. -/
def SeriallyAfter (a b : Nat) : Prop := 1 ≤ (BitVec.ofNat 32 a - BitVec.ofNat 32 b).toNat ∧ (BitVec.ofNat 32 a - BitVec.ofNat 32 b).toNat < 2 ^ 31

/-- R43: a core's features cover those of a launch. -/
def Covers (l : Launch) (c : Core) : Prop := c.usable = true ∧ ∀ i, i < 6 → l.desc.getLsbD (152 + i) = true → c.feat.getLsbD i = true

/-- R341, R351: a core is open to a tenant for a launch. -/
def OpenTo (l : Launch) (c : Core) (tn : Nat) : Prop :=
  ((c.kind = .guaranteed ∨ c.kind = .margin) ∧ c.owner = tn) ∨ c.kind = .shared ∨ (c.kind = .margin ∧ l.revocable = true)

/-- R78, R333: the reserved bits of a descriptor, and the ranges of its fields. -/
def DescriptorFields (d : BitVec 512) : Prop :=
  d.extractLsb' 264 248 = 0 ∧ d.extractLsb' 224 32 = 0 ∧ d.extractLsb' 164 28 = 0 ∧ d.extractLsb' 158 2 = 0 ∧
  d.extractLsb' 145 7 = 0 ∧ d.extractLsb' 118 10 = 0 ∧ d.extractLsb' 91 5 = 0 ∧ d.extractLsb' 256 8 = 1 ∧
  d.extractLsb' 192 3 = 0 ∧ d.extractLsb' 0 3 = 0 ∧ (d.extractLsb' 84 3).toNat ≤ 4 ∧
  1 ≤ (d.extractLsb' 64 11).toNat ∧ (d.extractLsb' 64 11).toNat ≤ 1536 ∧
  2 ≤ (d.extractLsb' 75 9).toNat ∧ (d.extractLsb' 75 9).toNat ≤ 256 ∧
  1 ≤ (d.extractLsb' 87 4).toNat ∧ (d.extractLsb' 87 4).toNat ≤ 8 ∧
  (d.extractLsb' 87 4).toNat * (8 * 2 ^ (d.extractLsb' 84 3).toNat) ≤ 1024 ∧
  (d.extractLsb' 96 22).toNat ≤ 2097152 ∧ (d.extractLsb' 128 12).toNat ≤ 2048 ∧ (d.extractLsb' 140 5).toNat ≤ 16

/-- R338: a code region of a tenant holds the code of a descriptor. -/
def InRegion (t : Tenant) (d : BitVec 512) : Prop :=
  ∃ lo, (lo = 96 ∨ lo = 160) ∧
    let first := (t.entry.extractLsb' (lo + 23) 41).toNat * 65536
    let pages := (t.entry.extractLsb' lo 23).toNat
    first ≤ (d.extractLsb' 0 64).toNat ∧ (d.extractLsb' 0 64).toNat + (d.extractLsb' 192 32).toNat ≤ first + pages * 65536

/-- R337: the checks of a packet, by their RSN. `d` is the descriptor that its CODE names. -/
def Check (s : State) (tn : Nat) (t : Tenant) (fabric : Bool) (source : Nat) (p d : BitVec 512) (rsn : Nat) : Prop :=
  let l := newLaunch p d source s.nextId
  match rsn with
  | 1 => p.extractLsb' 400 112 = 0 ∧ p.extractLsb' 358 2 = 0 ∧ p.extractLsb' 253 3 = 0 ∧ p.getLsbD 251 = false ∧
      p.getLsbD 247 = false ∧ l.tenant = tn ∧ t.enabled = true ∧
      (fabric = true → t.fablo ≤ l.srcdev ∧ l.srcdev ≤ t.fabhi)
  | 2 => ∃ c, s.contexts.get? l.ctx = some c ∧ c.tenant = tn ∧ c.destroying = false
  | 3 => l.doneAt = 0 ∨ (l.doneAt % 32 = 0 ∧ ∃ loc, PageAt s l.ctx l.doneAt kindWrite loc)
  | 4 => l.lid ≠ 0 ∧ (∀ x, t.lastLid.get? source = some x → SeriallyAfter l.lid x.toNat) ∧
      (l.pre0 = 0 ∨ SeriallyAfter l.lid l.pre0) ∧ (l.pre1 = 0 ∨ SeriallyAfter l.lid l.pre1)
  | 5 => l.prio ≤ t.maxPrio
  | 6 => 1 ≤ l.cw ∧ l.cw ≤ 8 ∧ 1 ≤ l.ch ∧ l.ch ≤ 6 ∧ l.cw * l.ch ≤ 12 ∧ 1 ≤ l.tdx ∧ 1 ≤ l.tdy ∧ 1 ≤ l.tdz ∧
      l.tdx * l.tdy * l.tdz ≤ 2 ^ 31 ∧ l.tdx * l.tdy * l.tdz % (l.cw * l.ch) = 0
  | 7 => l.code % 64 = 0 ∧ (∃ loc, PageAt s l.ctx l.code kindRead loc) ∧ DescriptorFields d ∧ InRegion t d
  | 8 => l.groupCount * ((l.regs + 7) / 8) * 8 * 4 * l.width ≤ t.bg * 256 * 1024 ∧ l.teamMem ≤ t.bg * 256 * 1024 ∧
      l.acc * 4 * 1024 ≤ t.bg * 1024 * 1024 ∧ l.hz ≤ 2 * t.bg
  | 9 => (∃ p ∈ s.cores, Covers l p.2 ∧ OpenTo l p.2 tn) ∧ (l.cogrid = true → canHold s (newLaunch p d 0 0) tn = true)
  | _ => True

/-- The pages of a packet's DONE and CODE answer, and d is what stands at CODE. -/
def PacketReady (s : State) (p d : BitVec 512) : Prop :=
  let l := newLaunch p d 0 0
  (l.doneAt ≠ 0 → PageAnswers s l.ctx l.doneAt) ∧ PageAnswers s l.ctx l.code ∧ ∀ loc, PageAt s l.ctx l.code kindRead loc → HasRecord s loc d

/-! ## Creation (R35, R36) -/

/-- R35: a group of a team at creation, on a core. -/
def Created (l : Launch) (lid tid k core : Nat) (pinArgs : Nat) (g : Group) : Prop :=
  g.launch = lid ∧ g.team = tid ∧ g.g = k ∧ g.status = .running ∧ g.clause = BitVec.ofNat 64 l.entry ∧ g.index = 0 ∧ g.header = none ∧
  (∀ i, i < 128 → g.active.getLsbD i = decide (i < l.width)) ∧ g.exited = 0 ∧ g.stack = [] ∧ (∀ n i, i < 128 → g.vreg n i = 0) ∧
  (∀ n, g.sreg n = if n = 0 then BitVec.ofNat 32 pinArgs else if n = 1 then BitVec.ofNat 32 (pinArgs / 2 ^ 32) else 0) ∧
  (∀ n i, g.pred n i = false) ∧ (∀ n i, i < 128 → g.xreg n i = 0) ∧ (∀ j, g.counter j = 0) ∧ (∀ n, g.sPend n = false) ∧
  (∀ n i, i < 128 → g.vPend n i = false) ∧ g.fmt = 0 ∧ g.gang = [] ∧ g.maps = [] ∧ g.handles = [] ∧ g.plive = 0xFF ∧ g.fpstat = 0 ∧
  g.rc = 0 ∧ g.ic = 0 ∧ g.latches = [] ∧ g.acquired = [] ∧ g.age = 0 ∧ g.agent = agentId core g.slot

/-- R36: a team at dispatch: nothing in its memory or tiles, its barrier at phase 0, no set bound, no slot configured. -/
def TeamAt (s : State) (lid tid index core : Nat) (x : Team) : Prop :=
  s.teams.get? tid = some x ∧ x.launch = lid ∧ x.index = index ∧ x.core = core ∧ x.status = .resident ∧
  (∀ b, teamByte x b = 0) ∧ x.tiles = [] ∧ x.barPhase = 0 ∧ x.sets = [] ∧ x.slots = []

/-- R340: the first of what waits to be placed is the next team of a launch, which some core can hold. -/
def NextIsFresh (s : State) (lid : Nat) (l : Launch) (tn : Nat) (t : Tenant) : Prop :=
  s.stopped = false ∧ (waitingUnits s).head? = some (.fresh lid) ∧ s.launches.get? lid = some l ∧ launchTenant s l = some (tn, t) ∧
  (∃ p ∈ s.cores, Covers l p.2 ∧ OpenTo l p.2 tn) ∧ 1 ≤ l.clusterSize

/-! ## Teams that move (R40 to R42, R343, R345) -/

/-- A range of a context is in one page of memory that makes no checks, which a device may access in a way; its leaf says so already. -/
def PageOpen (s : State) (c : Context) (kind va n loc : Nat) : Prop :=
  1 ≤ n ∧ va % 65536 + n ≤ 65536 ∧ va + n ≤ 2 ^ 52 ∧ ∃ k level leaf at_, walkVa s c.root va = .leaf level leaf at_ ∧ pteA leaf = true ∧
    pteDirty leaf = true ∧ walkXlate s c.root va kind = .ok (.phys loc k false)

/-- R423: no Contrail packet of a slot above 0 has been staged in this tick. -/
def NoPacketsNow (s : State) : Prop :=
  ∀ core c, s.cores.get? core = some c → ∀ p ∈ c.staging, p.2.lastEvent = s.ticks.toNat → p.2.lastSlot = 0

/-- A team is as before, but for the team that it has given way to at a `yield` (R340). -/
def ButYield (x y : Team) : Prop := y = { x with yieldFor := y.yieldFor }

/-- A team is the whole of its cluster. -/
def Alone (s : State) (tid : Nat) (x : Team) (l : Launch) : Prop :=
  s.teams.get? tid = some x ∧ s.launches.get? x.launch = some l ∧ l.clusterSize = 1 ∧ s.teams.sorted = true ∧
  ∀ p ∈ s.teams, p.1 ≠ tid → p.2.launch = x.launch → p.2.index ≠ x.index

/-- R40, R384: a team whose groups that have not retired all stand at blocking points, in a context that is not about to be demoted,
and has no step under way. -/
def Evictable (s : State) (x : Team) (l : Launch) : Prop :=
  x.status = .resident ∧ (∃ c, s.contexts.get? l.ctx = some c ∧ c.stage ≠ .demoting ∧ c.midStep = none ∧ c.destroying = false) ∧
  (∃ gid ∈ x.groups, ∃ g, s.groups.get? gid = some g ∧ g.status ≠ .retired) ∧
  ∀ gid ∈ x.groups, ∀ g, s.groups.get? gid = some g → g.status = .retired ∨
    (g.status = .blocked ∧ ∀ a, (∀ k, g.wait ≠ some (.peers a k)) ∧ g.wait ≠ some (.checks a)) ∨ (g.status = .running ∧ g.yielded = true ∧ g.header = none)

/-- R41: nothing that a group issued is outstanding. -/
def GroupIdle (s : State) (gid : Nat) (g : Group) : Prop :=
  g.anyPending = false ∧ g.d = [] ∧ (∀ p ∈ s.accesses, p.2.group ≠ gid) ∧ ∀ p ∈ s.deferred, p.2.group ≠ gid

/-- R345: where a group's live predicates are saved in the save area of its context (the model's choice: log entry 11). -/
def savePlace (u : Issuer) : Nat := trapAreaAddr u.c u.g.trapArea + 0x1400

/-- Only the status of one team, and what an eviction records there, has changed. -/
def TeamTo (s : State) (tid : Nat) (x : Team) (st : TeamStatus) (t : State) : Prop :=
  t = { s with teams := t.teams } ∧ (∀ k, k ≠ tid → t.teams.get? k = s.teams.get? k) ∧
  ∃ y, t.teams.get? tid = some y ∧ y = { x with status := st, yieldFor := y.yieldFor }

/-- R343: the blocks of a team stand elsewhere, with the same lengths, and nothing else of it has changed. -/
def SameSizes (a b : List (Nat × Nat)) : Prop := (a.map Prod.snd).Perm (b.map Prod.snd)
def BlocksMoved (x y : Team) : Prop :=
  y = { x with regBlocks := y.regBlocks, memBlocks := y.memBlocks, tileBlocks := y.tileBlocks } ∧
  SameSizes x.regBlocks y.regBlocks ∧ SameSizes x.memBlocks y.memBlocks ∧ SameSizes x.tileBlocks y.tileBlocks

/-! ## The end of a launch (R334, R466) -/

/-- R334: every team of a launch has been placed and has retired, and nothing that its groups issued is outstanding; in a DET launch
the token has passed every team. -/
def LaunchDone (s : State) (lid : Nat) (l : Launch) : Prop :=
  s.launches.get? lid = some l ∧ l.ended = false ∧ l.teamTotal ≤ l.nextTeam ∧ l.restarts = [] ∧
  (∀ x ∈ s.teams.vals, x.launch = lid → x.status = .retired ∧ ∀ gid ∈ x.groups, groupBusy s gid = false) ∧
  (l.det = true → l.teamTotal ≤ l.token)

/-- R334: byte k of a completion record. -/
def recordByte (lid status flags rsn team start : Nat) (now : Word64) (k : Nat) : Byte :=
  if k < 4 then BitVec.ofNat 8 (lid / 256 ^ k)
  else if k = 4 then BitVec.ofNat 8 status
  else if k = 5 then BitVec.ofNat 8 flags
  else if k = 6 then BitVec.ofNat 8 rsn
  else if k = 7 then 0
  else if k < 12 then BitVec.ofNat 8 (team / 256 ^ (k - 8))
  else if k < 16 then 0
  else if k < 24 then BitVec.ofNat 8 (start / 256 ^ (k - 16))
  else now.extractLsb' (8 * (k - 24)) 8

/-- R334, R466: FLAGS of a launch. -/
def flagsOf (l : Launch) : Nat := (if l.nondet.isSome then 1 else 0) + if l.debt then 2 else 0

/-- R466: the STATUS of a launch that ran to its end, and the team that it names, or else FLAGS. -/
def StatusOf (l : Launch) (status team : Nat) : Prop :=
  match l.unplaced, l.revoked, l.faulted, l.killed with
  | some x, _, _, _ => status = 5 ∧ team = x
  | none, some x, _, _ => status = 3 ∧ team = x
  | none, none, some x, _ => status = 1 ∧ team = x
  | none, none, none, some x => status = 2 ∧ team = x
  | none, none, none, none => status = 0 ∧ team = l.nondet.getD 0xFFFF_FFFF

/-- The tables that lead to an address do not stand within n bytes at a location. -/
def TablesApart (s : State) (root va loc n : Nat) : Prop :=
  ∀ t, t.hbmBytes = s.hbmBytes → SameMemoryBut s t loc n → walkVa t root va = walkVa s root va

/-- R334: DONE of a launch is in memory that may be written, on a page that has been written before and makes no checks. -/
def DoneAt (s : State) (l : Launch) (loc : Nat) : Prop :=
  l.doneAt % 32 = 0 ∧ l.doneAt ≠ 0 ∧ l.doneAt < 2 ^ 57 ∧ ∃ c k level leaf at_, s.contexts.get? l.ctx = some c ∧
    walkVa s c.root l.doneAt = .leaf level leaf at_ ∧ pteA leaf = true ∧ pteDirty leaf = true ∧
    walkXlate s c.root l.doneAt kindWrite = .ok (.phys loc k false) ∧ RecordsApart s loc 32 ∧
    TablesApart s c.root l.doneAt loc 32

/-- A launch has ended, its teams and groups are gone, and every other group is as before. -/
def LaunchGone (s : State) (lid : Nat) (l : Launch) (t : State) : Prop :=
  (∃ m, t.launches.get? lid = some m ∧ m.ended = true ∧ m.packet = l.packet ∧ m.desc = l.desc ∧ m.source = l.source) ∧
  (∀ p ∈ t.teams, p.2.launch ≠ lid) ∧ (∀ p ∈ t.groups, p.2.launch ≠ lid) ∧
  ∀ n g, s.groups.get? n = some g → g.launch ≠ lid → t.groups.get? n = some g

/-- Every other launch and team is as before. -/
def OthersStay (s : State) (lid : Nat) (l : Launch) (t : State) : Prop :=
  (∀ n, t.launches.get? n = if n = lid then some { l with ended := true } else s.launches.get? n) ∧
  ∀ n x, s.teams.get? n = some x → x.launch ≠ lid → t.teams.get? n = some x

/-! ## Slices and lending (R346, R350, R353, R467, R471) -/

/-- R346, R347: the tenants that hold bank groups on a core. -/
def holders (s : State) (core : Nat) (c : Core) : List Nat := (heldOn s core c).keys

/-- R346: the tenant whose turn follows that of tn among those that hold bank groups on a core. -/
def NextTenant (ks : List Nat) (tn next : Nat) : Prop :=
  next ∈ ks ∧ ((tn < next ∧ ∀ k ∈ ks, tn < k → next ≤ k) ∨ ((∀ k ∈ ks, k ≤ tn) ∧ ∀ k ∈ ks, next ≤ k))

/-- R338: a tenant's slice in ticks of 1 ns. -/
def sliceOf (s : State) (tn : Nat) : Nat := (s.tenants.get? tn).elim 0 fun t => 1000 * (t.entry.extractLsb' 256 16).toNat

/-- R350, R467: a tenant's debt on a core, with what its entries that still run have run beyond the end of a slice so far. -/
def debtNow (s : State) (core : Nat) (c : Core) (tn : Nat) : Nat :=
  c.debts.read tn 0 + ((s.entries.vals.filter fun e => decide (e.core = core) && decide (e.tenant = tn)).map fun e =>
    s.ticks.toNat - e.overrun.getD s.ticks.toNat).sum

/-- R345: no group of a team is ready: each has retired, or stands at a blocking point other than `yield`. -/
def WhollyBlocked (s : State) (x : Team) : Prop :=
  ∀ gid ∈ x.groups, ∀ g, s.groups.get? gid = some g → g.status = .retired ∨
    (g.status = .blocked ∧ ∀ a, (∀ k, g.wait ≠ some (.peers a k)) ∧ g.wait ≠ some (.checks a))

/-- R345: what the end of a tenant's slice counts: for how many slices each of its teams there has been wholly blocked. -/
def TeamsCounted (s t : State) (core tn : Nat) : Prop :=
  ∀ n x, s.teams.get? n = some x → ∃ y, t.teams.get? n = some y ∧
    (¬ (x.core = core ∧ x.status = .resident ∧ tenantOf s x = some tn) → y = x) ∧
    (x.core = core → x.status = .resident → tenantOf s x = some tn →
      (WhollyBlocked s x → y = { x with blockedSlices := if x.woken then 0 else x.blockedSlices + 1, woken := false }) ∧
      (¬ WhollyBlocked s x → y = { x with blockedSlices := 0, woken := true }))

/-- R350, R467: at the end of tn's slice, with `next` to take issue: the entries of tn run on beyond it, what others have run so far is
charged, and those of `next` run in its slice. -/
def EntriesCounted (s t : State) (core tn next : Nat) : Prop :=
  ∀ n e, s.entries.get? n = some e → ∃ f, t.entries.get? n = some f ∧ f = { e with overrun := f.overrun } ∧
    (e.core ≠ core → f = e) ∧
    (e.core = core → e.tenant = tn → e.started = true → e.engine < 2 → f.overrun = some s.ticks.toNat) ∧
    (e.core = core → e.tenant = next → f.overrun = none) ∧
    (e.core = core → e.tenant ≠ tn → e.tenant ≠ next → f.overrun = e.overrun.map fun _ => s.ticks.toNat)

/-- R353: the groups of a team have retired, and nothing that they issued is left. -/
def TeamCut (t : State) (x : Team) : Prop :=
  (∀ gid ∈ x.groups, ∀ g, t.groups.get? gid = some g → g.status = .retired) ∧
  (∀ p ∈ t.accesses, p.2.group ∉ x.groups) ∧ ∀ p ∈ t.deferred, p.2.group ∉ x.groups

end Sys2Proof.Claims
end

