-- ==== Sys2Proof/Claims/Commands.lean ====
section
/-!
DEFINITION. What the commands of the management mailbox do (spec/19 R397 to R401, R406 to R409, R412, R413; spec/06 R167, R172;
spec/14 R369, R382, R383; spec/23 R481).
-/

namespace Sys2Proof.Claims

open Sys2Proof.Machine

/-! ## Replies (R397, R399) -/

/-- R397: a command with an OP and a tag is under way; ps are its parameter words. -/
def Under (s : State) (op : Nat) (tag : BitVec 16) (ps : List Word) : Prop :=
  ∃ o, s.mailbox.current = some (o, tag, ps) ∧ o.toNat = op ∧ s.mailbox.draining = false

/-- R397: parameter word i, and a parameter of two words. -/
def word32 (ps : List Word) (i : Nat) : Word := ps.getD i 0
def word64 (ps : List Word) (i : Nat) : Word64 := word32 ps (i + 1) ++ word32 ps i

/-- Byte k of the body of a reply. -/
def bodyByte (m : Mailbox) (k : Nat) : Byte := (m.reply.read (2 + k / 4) 0).extractLsb' (8 * (k % 4)) 8

/-- R397: the command has ended in the state s1: its reply stands in the area, with zeros after it, MSTAT shows it, and vector 0 is
raised. -/
def Replies (s1 : State) (tag : BitVec 16) (result : Nat) (body : List Byte) (t : State) : Prop :=
  t = { s1 with mailbox := t.mailbox, vectors := s1.vectors ++ [0] } ∧
  t.mailbox = { s1.mailbox with reply := t.mailbox.reply, busy := false, result := BitVec.ofNat 8 result, tag := tag, current := none
                                draining := false } ∧
  t.mailbox.reply.read 0 0 = tag ++ BitVec.ofNat 8 result ++ 0#8 ∧ t.mailbox.reply.read 1 0 = BitVec.ofNat 32 body.length ∧
  ∀ k, bodyByte t.mailbox k = body.getD k 0

/-! ## The commands (R398) -/

/-- A command: its OP, how many parameter words it takes, when they are good, the reasons against it, and what it does. -/
structure Command where
  op : Nat
  words : Nat
  good : Prop
  reasons : List (Nat × Prop)
  effect : State → Prop

/-- R399: a reason is given: it applies, and no lower one does. -/
def Command.refusedWith (c : Command) (r : Nat) : Prop := (∃ q ∈ c.reasons, q.1 = r ∧ q.2) ∧ ∀ q ∈ c.reasons, q.2 → r ≤ q.1

/-- R399: no reason applies. -/
def Command.allowed (c : Command) : Prop := ∀ q ∈ c.reasons, ¬ q.2

/-- R399: reason 7; reason 8; reason 2, which a context that is not live does not give. -/
def dead (s : State) (ctx : Nat) : Nat × Prop := (7, s.contexts.get? ctx = none)
def disabled (s : State) (tn : Nat) : Nat × Prop := (8, ∀ t, s.tenants.get? tn = some t → t.enabled = false)
def undemoted (s : State) (ctx : Nat) : Nat × Prop := (2, ∃ c, s.contexts.get? ctx = some c ∧ c.stage ≠ .demoted)

/-- One context changes, as `ok` says, and nothing else. -/
def OneContext (s : State) (ctx : Nat) (ok : Context → Context → Prop) (t : State) : Prop :=
  t = { s with contexts := t.contexts } ∧ (∀ k, k ≠ ctx → t.contexts.get? k = s.contexts.get? k) ∧
  ∀ c, s.contexts.get? ctx = some c → ∃ y, t.contexts.get? ctx = some y ∧ ok c y

/-- R400: CTXCREATE. -/
def createCommand (s : State) (ps : List Word) : Command where
  op := 0x01
  words := 10
  good := (word32 ps 0).extractLsb' 14 2 = 0 ∧ (word32 ps 0).getLsbD 19 = false ∧ (word32 ps 0).extractLsb' 23 9 = 0 ∧
    (word32 ps 0).extractLsb' 16 2 ≠ 3 ∧ (word64 ps 1).toNat % 4096 = 0 ∧ (word64 ps 1).toNat + 4096 ≤ s.hbmBytes ∧
    (word64 ps 3).toNat % 65536 = 0 ∧ (word64 ps 6).toNat % 65536 = 0 ∧
    ((word32 ps 0).extractLsb' 16 2 ≠ 0 → 17 ≤ (word32 ps 5).toNat)
  reasons := [(7, s.contexts.get? ((word32 ps 0).extractLsb' 0 8).toNat ≠ none),
    disabled s ((word32 ps 0).extractLsb' 8 6).toNat]
  effect := fun t =>
    let w := word32 ps 0
    t = { s with contexts := t.contexts } ∧
    ∀ k, t.contexts.get? k = if k = (w.extractLsb' 0 8).toNat then
      some (newContext (w.extractLsb' 8 6).toNat (w.extractLsb' 16 2).toNat (w.getLsbD 18) (w.extractLsb' 20 3).toNat
        (word64 ps 1).toNat (word64 ps 3).toNat (word32 ps 5).toNat (word64 ps 6).toNat (word64 ps 8).toNat)
      else s.contexts.get? k

/-- R338: a tenant entry is in its words. -/
def EntryIn (ps : List Word) (e : BitVec 512) : Prop := ∀ i, i < 16 → e.extractLsb' (32 * i) 32 = word32 ps (1 + i)

/-- R338: the ranges and reserved bits of a tenant entry. -/
def EntryGood (e : BitVec 512) : Prop :=
  e.extractLsb' 280 232 = 0 ∧ e.extractLsb' 252 4 = 0 ∧ e.extractLsb' 72 8 = 0 ∧ 1 ≤ (e.extractLsb' 272 8).toNat ∧
  10 ≤ (e.extractLsb' 256 16).toNat ∧ 1 ≤ (e.extractLsb' 248 4).toNat ∧ (e.extractLsb' 248 4).toNat ≤ 8 ∧
  (e.extractLsb' 88 8).toNat ≤ 192 ∧ (e.extractLsb' 80 8).toNat ≤ 192 ∧ 4 ≤ (e.extractLsb' 64 4).toNat ∧
  (e.extractLsb' 64 4).toNat ≤ 12 ∧ (e.extractLsb' 0 64).toNat % 4096 = 0 ∧
  (e.extractLsb' 0 64).toNat + 64 * 2 ^ (e.extractLsb' 64 4).toNat ≤ 2 ^ 52

/-- R338: TENANTSET. -/
def tenantCommand (s : State) (ps : List Word) : Command where
  op := 0x03
  words := 17
  good := (word32 ps 0).toNat < 64 ∧ ∀ e, EntryIn ps e → EntryGood e
  reasons := []
  effect := fun t => t = { s with tenants := t.tenants } ∧ (∀ k, k ≠ (word32 ps 0).toNat → t.tenants.get? k = s.tenants.get? k) ∧
    ∀ x e, s.tenants.get? (word32 ps 0).toNat = some x → EntryIn ps e → t.tenants.get? (word32 ps 0).toNat = some { x with entry := e }

/-- R398, R410: ERRSET: an empty ring. -/
def ringCommand (s : State) (ps : List Word) : Command where
  op := 0x04
  words := 4
  good := ((word32 ps 0).toNat < 64 ∨ word32 ps 0 = 0xFF) ∧ (word64 ps 1).toNat % 4096 = 0 ∧ 6 ≤ (word32 ps 3).toNat ∧
    (word32 ps 3).toNat ≤ 16 ∧ (word64 ps 1).toNat + 32 * 2 ^ (word32 ps 3).toNat ≤ 2 ^ 52
  reasons := []
  effect := fun t =>
    let ring := fun old : Option ErrorRing => (⟨(word64 ps 1).toNat, (word32 ps 3).toNat, 0, 0, old.elim 0 (·.drop)⟩ : ErrorRing)
    if word32 ps 0 = 0xFF then t = { s with deviceRing := some (ring s.deviceRing) }
    else t = { s with tenants := t.tenants } ∧ ∀ k, t.tenants.get? k =
      (s.tenants.get? k).map fun x => if k = (word32 ps 0).toNat then { x with ring := some (ring x.ring) } else x

/-- R351: the kind of a number. -/
def kindNumber (w : Word) : CoreKind := if w = 0 then .guaranteed else if w = 1 then .margin else if w = 2 then .shared else .unassigned

/-- R351, R398: PARTITION. -/
def partitionCommand (s : State) (ps : List Word) : Command where
  op := 0x05
  words := 4
  good := (word32 ps 0).toNat + (word32 ps 1).toNat ≤ 192 ∧ (word32 ps 2).toNat < 64 ∧ (word32 ps 3).toNat < 4
  reasons := [(6, ∃ k, (word32 ps 0).toNat ≤ k ∧ k < (word32 ps 0).toNat + (word32 ps 1).toNat ∧
      ∃ x ∈ teamsOn s k, word32 ps 3 = 3 ∨ tenantOf s x ≠ some (word32 ps 2).toNat),
    (8, word32 ps 3 ≠ 3 ∧ (disabled s (word32 ps 2).toNat).2)]
  effect := fun t => t = { s with cores := t.cores } ∧ ∀ k, t.cores.get? k = (s.cores.get? k).map fun c =>
    if (word32 ps 0).toNat ≤ k ∧ k < (word32 ps 0).toNat + (word32 ps 1).toNat
    then { c with owner := (word32 ps 2).toNat, kind := kindNumber (word32 ps 3), returnBy := none } else c

/-- R167: REPLAY. -/
def replayCommand (s : State) (ps : List Word) : Command :=
  let key := 1024 * (word32 ps 0).toNat + (word32 ps 1).toNat
  { op := 0x07
    words := 2
    good := (word32 ps 0).toNat < 4 ∧ (word32 ps 1).toNat < 1024
    reasons := [(11, EntryFree s key)]
    effect := fun t => t = { s with faults := t.faults, walks := t.walks } ∧
      (∀ k, t.faults.get? k = (s.faults.get? k).map fun e => if k = key then { e with valid := false } else e) ∧
      ∀ k, t.walks.get? k = (s.walks.get? k).map fun w => if w.waiting = some key then { w with waiting := none } else w }

/-- R406: DEVSET. -/
def deviceCommand (s : State) (ps : List Word) : Command where
  op := 0x08
  words := 1
  good := (word32 ps 0).toNat < 4096
  reasons := [(5, s.contexts ≠ [])]
  effect := fun t => t = { s with devnum := (word32 ps 0).toNat }

/-- R407: PODBIND. -/
def bindCommand (s : State) (ps : List Word) : Command where
  op := 0x09
  words := 2
  good := (word32 ps 0).toNat < 256 ∧ (word32 ps 1).toNat < 65536
  reasons := [(3, word32 ps 1 ≠ 0 ∧ ∃ p ∈ s.contexts, p.1 ≠ (word32 ps 0).toNat ∧ p.2.binding = (word32 ps 1).toNat),
    dead s (word32 ps 0).toNat]
  effect := fun t => OneContext { s with released := t.released } (word32 ps 0).toNat
    (fun c y => y = { c with binding := (word32 ps 1).toNat }) t

/-- R408: BARDOMAIN. -/
def domainCommand (s : State) (ps : List Word) : Command where
  op := 0x0A
  words := 3
  good := (word32 ps 0).toNat < 256 ∧ (word32 ps 1).toNat < 256 ∧ 2 ≤ (word32 ps 2).toNat ∧ (word32 ps 2).toNat ≤ 4096
  reasons := [dead s (word32 ps 0).toNat]
  effect := fun t => OneContext s (word32 ps 0).toNat
    (fun c y => y = { c with domain := (word32 ps 1).toNat, domainSize := if word32 ps 1 = 0 then 0 else (word32 ps 2).toNat }) t

/-- R409: entry r of a rank table in host memory. -/
def rankEntry (s : State) (base r : Nat) : Nat := leNat ((List.range 8).map fun j => Memory.byte s.mem (hostBase + base + 8 * r + j))

/-- R409: COMMCREATE. -/
def communicatorCommand (s : State) (ps : List Word) : Command :=
  let ctx := (word32 ps 0).toNat
  let n := (word32 ps 2).toNat
  let e := rankEntry s (word64 ps 3).toNat
  { op := 0x0B
    words := 5
    good := ctx < 256 ∧ (word32 ps 1).toNat < 65536 ∧ n ≠ 0 ∧ (word64 ps 3).toNat + 8 * n ≤ 2 ^ 52 ∧ ∀ r, r < n →
      e r / 4096 % 2 ^ 20 = 0 ∧ let k := ((List.range n).filter fun j => e j % 4096 = e r % 4096).length
        (k = 1 ∨ k ≤ gridTeams s ctx (e r % 4096))
    reasons := [dead s ctx, (10, ∃ c, s.contexts.get? ctx = some c ∧ c.comms.get? (word32 ps 1).toNat ≠ none)]
    effect := fun t => OneContext s ctx (fun c y => y = { c with comms := y.comms } ∧
      (∀ k, k ≠ (word32 ps 1).toNat → y.comms.get? k = c.comms.get? k) ∧
      ∃ x, y.comms.get? (word32 ps 1).toNat = some x ∧ x.issued = [] ∧ x.ranks.length = n ∧
        ∀ r, r < n → x.ranks[r]? = some (e r % 4096, e r / 2 ^ 32)) t }

/-- R369, R371, R384: a context as a demotion finds it: it begins, where the context runs in parallel, and it follows a promotion that
has been asked for. -/
def demotionBegun (s : State) (c : Context) : Context :=
  if c.stage = .parallel then { c with stage := .demoting, demoteAt := s.ticks.toNat }
  else if c.promote then { c with demoteNext := true } else c

/-- R369: DEMOTE: the demotion begins, and the reply does not wait for its end. -/
def demoteCommand (s : State) (ps : List Word) : Command where
  op := 0x10
  words := 1
  good := (word32 ps 0).toNat < 256
  reasons := [(1, ∃ c, s.contexts.get? (word32 ps 0).toNat = some c ∧ c.dbg = false), dead s (word32 ps 0).toNat]
  effect := fun t => ∃ x, t = settle x ∧ x = { s with contexts := x.contexts, groups := x.groups, accesses := x.accesses } ∧
    ∀ k, x.contexts.get? k = (s.contexts.get? k).map fun c => if k = (word32 ps 0).toNat then demotionBegun s c else c

/-- R382: STEP, RUN and PAUSE: what of a run of steps is left. -/
def stepCommand (s : State) (ps : List Word) : Command where
  op := 0x11
  words := 2
  good := (word32 ps 0).toNat < 256 ∧ word32 ps 1 ≠ 0
  reasons := [undemoted s (word32 ps 0).toNat, dead s (word32 ps 0).toNat]
  effect := fun t => OneContext s (word32 ps 0).toNat
    (fun c y => y = { c with stepsLeft := (word32 ps 1).toNat, running := false }) t
def runCommand (s : State) (ps : List Word) (pause : Bool) : Command where
  op := if pause then 0x13 else 0x12
  words := 1
  good := (word32 ps 0).toNat < 256
  reasons := [undemoted s (word32 ps 0).toNat, dead s (word32 ps 0).toNat]
  effect := fun t => OneContext s (word32 ps 0).toNat (fun c y => y = { c with stepsLeft := 0, running := !pause }) t

/-- R383: PROMOTE: a context at a serial point is promoted, and one on its way there, or within a step, once it is there. -/
def promoteCommand (s : State) (ps : List Word) : Command where
  op := 0x14
  words := 1
  good := (word32 ps 0).toNat < 256
  reasons := [(2, ∃ c, s.contexts.get? (word32 ps 0).toNat = some c ∧ c.stage = .parallel), dead s (word32 ps 0).toNat]
  effect := fun t => ∀ c, s.contexts.get? (word32 ps 0).toNat = some c →
    ((c.stage = .demoting ∨ c.midStep ≠ none ∨ s.force ≠ none) → OneContext s (word32 ps 0).toNat (fun c y => y = { c with promote := true }) t) ∧
    (c.stage = .demoted → c.midStep = none → s.force = none → ∃ y, t.contexts.get? (word32 ps 0).toNat = some y ∧
      y.stage = if c.demoteNext then .demoting else .parallel)

/-- The command of an instruction, but those that reply otherwise. -/
def commandOf (s : State) (ps : List Word) : Instr → Option Command
  | .ctxcreate => some (createCommand s ps)
  | .tenantset => some (tenantCommand s ps)
  | .errset => some (ringCommand s ps)
  | .partition => some (partitionCommand s ps)
  | .replay => some (replayCommand s ps)
  | .devset => some (deviceCommand s ps)
  | .podbind => some (bindCommand s ps)
  | .bardomain => some (domainCommand s ps)
  | .commcreate => some (communicatorCommand s ps)
  | .demote => some (demoteCommand s ps)
  | .step => some (stepCommand s ps)
  | .run => some (runCommand s ps false)
  | .pause => some (runCommand s ps true)
  | .promote => some (promoteCommand s ps)
  | _ => none

/-! ## SUMMARY and ATTEST (R401, R412) -/

/-- R401: n bits at bit lo of the body of a reply. -/
def bodyField (body : List Byte) (lo n : Nat) : Nat := leNat body / 2 ^ lo % 2 ^ n

/-- R401: the launches accepted and not ended. -/
def notEnded (s : State) : Nat := (s.launches.filter fun p => !p.2.ended && p.2.handlerFor.isNone).length

/-- The counts of the header stand within their fields. -/
def SummaryFits (s : State) : Prop :=
  s.contexts.length ≤ 256 ∧ s.tenants.length ≤ 64 ∧ s.cores.length ≤ 192 ∧ s.lostChannels.length ≤ 384 ∧ s.ports.length ≤ 24 ∧
  s.devnum < 4096 ∧ s.fwstate < 4 ∧ notEnded s < 2 ^ 32

/-- R401: the header of a summary, with what it says of one context. -/
def SummaryHeader (s : State) (seq : Word) (body : List Byte) : Prop :=
  bodyField body 448 64 = s.ticks.toNat ∧ bodyField body 416 32 = seq.toNat ∧ bodyField body 384 32 = notEnded s ∧
  bodyField body 352 32 = s.uecnt.toNat ∧ bodyField body 320 32 = s.cecnt.toNat ∧ bodyField body 288 32 = s.lostmd.toNat ∧
  bodyField body 256 32 = s.throt.toNat ∧ bodyField body 244 12 = s.devnum ∧
  bodyField body 226 8 = (s.cores.filter fun p => p.2.usable).length ∧
  bodyField body 213 5 = (s.ports.filter fun p => p.2).length ∧ bodyField body 204 9 = s.contexts.length ∧
  bodyField body 197 7 = (s.tenants.filter fun p => p.2.enabled).length ∧ bodyField body 181 2 = s.fwstate ∧ bodyField body 0 181 = 0
def SummaryContext (s : State) (body : List Byte) (i n : Nat) (c : Context) : Prop :=
  let at_ := fun lo m => bodyField body (512 + 128 * i + lo) m
  s.contexts[i]? = some (n, c) → n < 256 → c.tenant < 64 → c.rmode < 4 →
    at_ 120 8 = n ∧ at_ 114 6 = c.tenant ∧
    at_ 112 2 = (if c.destroying then 3 else if c.stage = .parallel then 0 else if c.stage = .demoting then 1 else 2) ∧
    at_ 110 2 = c.rmode ∧ at_ 109 1 = (if c.dbg then 1 else 0) ∧ at_ 0 32 = c.steps.toNat % 2 ^ 32

/-- R412: what an attestation report says of a context, for a nonce. -/
def Attests (s : State) (ctx : Nat) (c : Context) (ps : List Word) (body : List Byte) : Prop :=
  body.length = 224 ∧ body.take 48 = sha384 s.image ∧ (∃ k, body.drop 128 = ecdsaSign Config.identityKey k (body.take 128)) ∧
  (∀ k, k < 48 → body.getD (64 + k) 0 = (word32 ps (1 + k / 4)).extractLsb' (8 * (k % 4)) 8) ∧
  body.getD 112 0 = BitVec.ofNat 8 ctx ∧ body.getD 113 0 = BitVec.ofNat 8 c.tenant ∧
  body.getD 114 0 = BitVec.ofNat 8 (c.rmode + if c.dbg then 4 else 0) ∧ body.getD 115 0 = BitVec.ofNat 8 s.fwstate ∧
  body.getD 116 0 = BitVec.ofNat 8 (s.cores.filter fun p => p.2.usable).length ∧
  ∀ k, k < 8 → body.getD (120 + k) 0 = BitVec.ofNat 8 (s.devnum / 256 ^ k)

/-! ## INVAL, CTXDESTROY and FWLOAD (R172, R413, R481) -/

/-- R172: a TLB entry serves part of a range of a context. -/
def Serves (e : TlbEntry) (ctx base n : Nat) : Prop := e.ctx = ctx ∧ e.va < base + n ∧ base < e.va + 2 ^ pageBits e.level

/-- R172: a group of a context that waits for a change of a word of a range. -/
def MonitorsIn (s : State) (ctx base n : Nat) (u : Issuer) (va : Nat) : Prop :=
  issuerOf s u.gid = some u ∧ u.l.ctx = ctx ∧ u.g.status ≠ .retired ∧ (∃ loc e d dl ops, u.g.wait = some (.monitor va loc e d dl ops)) ∧
  va < base + n ∧ base < va + 4

/-- R172: once nothing uses the old translations of a range, each such group takes the new one of its word, and one whose page is not
there to read issues its `monwait` again. -/
def Retargeted (s x : State) (ctx base n : Nat) : Prop :=
  (∀ u va, MonitorsIn s ctx base n u va → ∃ h, x.groups.get? u.gid = some h ∧
    (∀ loc k b, walkXlate s u.c.root va kindRead = .ok (.phys loc k b) → h = { u.g with wait := h.wait } ∧
      ∀ old e d dl ops, u.g.wait = some (.monitor va old e d dl ops) → h.wait = some (.monitor va loc e d dl ops)) ∧
    ((∀ loc k b, walkXlate s u.c.root va kindRead ≠ .ok (.phys loc k b)) → h.status = .running ∧ h.wait = none ∧ h.clause = u.g.clause ∧
      h.index = u.g.index)) ∧
  ∀ gid, (∀ u va, u.gid = gid → ¬ MonitorsIn s ctx base n u va) → x.groups.get? gid = s.groups.get? gid

/-- Nothing of a context is left but its launches, which have ended. -/
def ContextGone (t : State) (ctx : Nat) : Prop :=
  t.contexts.get? ctx = none ∧ (∀ p ∈ t.launches, p.2.ctx = ctx → p.2.ended = true) ∧
  (∀ p ∈ t.teams, ∀ l, t.launches.get? p.2.launch = some l → l.ctx ≠ ctx) ∧
  (∀ p ∈ t.groups, ∀ l, t.launches.get? p.2.launch = some l → l.ctx ≠ ctx) ∧
  (∀ p ∈ t.cores, ∀ e ∈ p.2.tlb, e.ctx ≠ ctx) ∧ (∀ p ∈ t.dieTlb, ∀ e ∈ p.2, e.ctx ≠ ctx) ∧ ∀ e ∈ t.faults.vals, e.ctx = ctx → e.valid = false

/-- R413, R428: the module after a reset: no context, no launch and no work, and its counts at 0. -/
def ModuleReset (s t : State) : Prop :=
  t.mem = s.mem ∧ t.contexts = [] ∧ t.launches = [] ∧ t.teams = [] ∧ t.groups = [] ∧ t.accesses = [] ∧ t.entries = [] ∧
  t.walks = [] ∧ t.dieTlb = [] ∧ t.faults = [] ∧ t.uecnt = 0 ∧ t.cecnt = 0 ∧ t.seq = 0 ∧ t.ticks = 0 ∧ t.throt = 0 ∧ t.devnum = 0 ∧ t.stopped = false ∧
  ∀ k x, s.cores.get? k = some x → ∃ y, t.cores.get? k = some y ∧ y.kind = .unassigned ∧ y.tlb = [] ∧ y.lines = [] ∧
    y.usable = (x.usable && decide (x.uncorrectable < 4))

end Sys2Proof.Claims
end

