-- ==== Sys2Proof/Claims/Integer.lean ====
section
/-!
DEFINITION. What the integer, logic, shift, bit-field and move instructions compute (spec/08 R221 to R231), written with the
operations of bit vectors.
-/

namespace Sys2Proof.Claims

open Sys2Proof.Machine

/-- The 22-bit immediate of a format I integer instruction, sign-extended (R222). -/
def imm32 (f : FormI) : Word := f.imm.signExtend 32

/-- A 32-bit operation on A and B. -/
def both (f : FormV) (op : Word → Word → Word) : Compute := ⟨form2 .w32 f, fun u l => word (op (rd u f.a l) (rd u f.b l))⟩
/-- A 64-bit operation on A and B. -/
def both64 (f : FormV) (op : Word64 → Word64 → Word64) : Compute :=
  ⟨form2 .w64 f, fun u l => pair (op (rd64 u f.a l) (rd64 u f.b l))⟩
/-- A 32-bit operation on A and the immediate. -/
def withImm (f : FormI) (op : Word → Word → Word) : Compute := ⟨formImm .w32 f, fun u l => word (op (rd u f.a l) (imm32 f))⟩
/-- A 32-bit operation on A, B and C. -/
def three (f : FormV) (op : Word → Word → Word → Word) : Compute :=
  ⟨form3 .w32 f, fun u l => word (op (rd u f.a l) (rd u f.b l) (rd u f.c l))⟩
/-- A 32-bit operation on A. -/
def one (f : FormV) (op : Word → Word) : Compute := ⟨form1 .w32 .w32 f, fun u l => word (op (rd u f.a l))⟩
/-- A 64-bit operation on A. -/
def one64 (f : FormV) (op : Word64 → Word64) : Compute := ⟨form1 .w64 .w64 f, fun u l => pair (op (rd64 u f.a l))⟩

/-! ## Arithmetic (R221 to R226) -/

/-- A 32-bit value read with or without sign, in 64 bits. -/
def widen (g : Sign) (x : Word) : Word64 :=
  match g with
  | .signed => x.signExtend 64
  | .unsigned => x.zeroExtend 64

/-- Bits 63 to 32. -/
def high (x : Word64) : Word := (x >>> 32).truncate 32

/-- R225: a quotient truncated toward zero; all ones for a divisor of 0. -/
def quotient (g : Sign) (a b : Word) : Word :=
  if b = 0 then BitVec.allOnes 32 else
  match g with
  | .signed => a.sdiv b
  | .unsigned => a / b

/-- R225: a remainder with the sign of the dividend; the dividend for a divisor of 0. -/
def remainder (g : Sign) (a b : Word) : Word :=
  if b = 0 then a else
  match g with
  | .signed => a.srem b
  | .unsigned => a % b

/-- R223: the carry or borrow of a lane, as a 33-bit number. -/
def carry (f : FormV) (u : Issuer) (l : Nat) : BitVec 33 := if u.g.pred (f.c.toNat % 8) l then 1 else 0

/-- R223: the low 32 bits to the destination, bit 32 to the predicate. -/
def carried (f : FormV) (t : BitVec 33) : LaneOut := ⟨[t.truncate 32], [(f.c.toNat % 8, t.getLsbD 32)], none, 0⟩

/-- R221 to R226: add, sub, mul, mulhi, mad, madhi, div, rem, abs, neg, addc and subb. -/
def arithmetic : Instr → Option Compute
  | .add .w32 f => some (both f (· + ·))
  | .add .w64 f => some (both64 f (· + ·))
  | .addImm f => some (withImm f (· + ·))
  | .sub .w32 f => some (both f (· - ·))
  | .sub .w64 f => some (both64 f (· - ·))
  | .subImm f => some (withImm f (· - ·))
  | .mul .w32 f => some (both f (· * ·))
  | .mul .w64 f => some (both64 f (· * ·))
  | .mulImm f => some (withImm f (· * ·))
  | .mulhi g f => some (both f fun a b => high (widen g a * widen g b))
  | .mad .w32 f => some (three f fun a b c => a * b + c)
  | .mad .w64 f => some ⟨form3 .w64 f, fun u l => pair (rd64 u f.a l * rd64 u f.b l + rd64 u f.c l)⟩
  | .madhi g f => some (three f fun a b c => high (widen g a * widen g b + widen g c))
  | .div g f => some (both f (quotient g))
  | .rem g f => some (both f (remainder g))
  | .abs .w32 f => some (one f BitVec.abs)
  | .abs .w64 f => some (one64 f BitVec.abs)
  | .neg .w32 f => some (one f (- ·))
  | .neg .w64 f => some (one64 f (- ·))
  | .addc f => some ⟨carryForm f, fun u l =>
      carried f ((rd u f.a l).zeroExtend 33 + (rd u f.b l).zeroExtend 33 + carry f u l)⟩
  | .subb f => some ⟨carryForm f, fun u l =>
      carried f ((rd u f.a l).zeroExtend 33 - (rd u f.b l).zeroExtend 33 - carry f u l)⟩
  | _ => none

/-! ## Minimum, maximum and packed elements (R221, R222, R227) -/

/-- Whether a is less than b, read with or without sign. -/
def below (g : Sign) {n : Nat} (a b : BitVec n) : Bool :=
  match g with
  | .signed => a.slt b
  | .unsigned => a.ult b

/-- The lesser and the greater of two values. -/
def lesser (g : Sign) {n : Nat} (a b : BitVec n) : BitVec n := if below g b a then b else a
def greater (g : Sign) {n : Nat} (a b : BitVec n) : BitVec n := if below g a b then b else a

/-- R227: an operation on each half of a word. -/
def halves (op : BitVec 16 → BitVec 16 → BitVec 16) (a b : Word) : Word :=
  op (a.extractLsb' 16 16) (b.extractLsb' 16 16) ++ op (a.extractLsb' 0 16) (b.extractLsb' 0 16)

/-- R227: an operation on each byte of a word. -/
def quarters (op : Byte → Byte → Byte) (a b : Word) : Word :=
  op (a.extractLsb' 24 8) (b.extractLsb' 24 8) ++ op (a.extractLsb' 16 8) (b.extractLsb' 16 8) ++
  op (a.extractLsb' 8 8) (b.extractLsb' 8 8) ++ op (a.extractLsb' 0 8) (b.extractLsb' 0 8)

/-- R221, R222, R227: min and max, and the packed add, sub, min and max. -/
def minMaxPacked : Instr → Option Compute
  | .min .w32 g f => some (both f (lesser g))
  | .min .w64 g f => some (both64 f (lesser g))
  | .max .w32 g f => some (both f (greater g))
  | .max .w64 g f => some (both64 f (greater g))
  | .minImm f => some (withImm f (lesser .signed))
  | .maxImm f => some (withImm f (greater .signed))
  | .addPacked .p16 f => some (both f (halves (· + ·)))
  | .addPacked .p8 f => some (both f (quarters (· + ·)))
  | .subPacked .p16 f => some (both f (halves (· - ·)))
  | .subPacked .p8 f => some (both f (quarters (· - ·)))
  | .minPacked .p16 g f => some (both f (halves (lesser g)))
  | .minPacked .p8 g f => some (both f (quarters (lesser g)))
  | .maxPacked .p16 g f => some (both f (halves (greater g)))
  | .maxPacked .p8 g f => some (both f (quarters (greater g)))
  | _ => none

/-! ## Logic (R221, R222, R226) -/

/-- R221, R222, R226: and, or, xor, andn and not. -/
def logic : Instr → Option Compute
  | .and .w32 f => some (both f (· &&& ·))
  | .and .w64 f => some (both64 f (· &&& ·))
  | .andImm f => some (withImm f (· &&& ·))
  | .or .w32 f => some (both f (· ||| ·))
  | .or .w64 f => some (both64 f (· ||| ·))
  | .orImm f => some (withImm f (· ||| ·))
  | .xor .w32 f => some (both f (· ^^^ ·))
  | .xor .w64 f => some (both64 f (· ^^^ ·))
  | .xorImm f => some (withImm f (· ^^^ ·))
  | .andn .w32 f => some (both f fun a b => a &&& ~~~b)
  | .andn .w64 f => some (both64 f fun a b => a &&& ~~~b)
  | .not .w32 f => some (one f (~~~ ·))
  | .not .w64 f => some (one64 f (~~~ ·))
  | _ => none

/-! ## Shifts (R228) -/

/-- The low five or six bits of the amount: bits beyond the width do not count. -/
def shift32 (f : FormV) (op : Word → Nat → Word) : Compute :=
  ⟨formShift .w32 f, fun u l => word (op (rd u f.a l) ((rd u f.b l).extractLsb' 0 5).toNat)⟩
def shift64 (f : FormV) (op : Word64 → Nat → Word64) : Compute :=
  ⟨formShift .w64 f, fun u l => pair (op (rd64 u f.a l) ((rd u f.b l).extractLsb' 0 6).toNat)⟩
/-- An immediate amount, below 32 in a well-formed word. -/
def shiftBy (f : FormI) (op : Word → Nat → Word) : Compute :=
  ⟨formImm .w32 f, fun u l => word (op (rd u f.a l) (f.imm.extractLsb' 0 5).toNat)⟩

/-- R228: shl, shr, sar and rotl. -/
def shifts : Instr → Option Compute
  | .shl .w32 f => some (shift32 f (· <<< ·))
  | .shl .w64 f => some (shift64 f (· <<< ·))
  | .shlImm f => some (shiftBy f (· <<< ·))
  | .shr .w32 f => some (shift32 f (· >>> ·))
  | .shr .w64 f => some (shift64 f (· >>> ·))
  | .shrImm f => some (shiftBy f (· >>> ·))
  | .sar .w32 f => some (shift32 f BitVec.sshiftRight)
  | .sar .w64 f => some (shift64 f BitVec.sshiftRight)
  | .sarImm f => some (shiftBy f BitVec.sshiftRight)
  | .rotl .w32 f => some (shift32 f BitVec.rotateLeft)
  | .rotl .w64 f => some (shift64 f BitVec.rotateLeft)
  | .rotlImm f => some (shiftBy f BitVec.rotateLeft)
  | _ => none

/-! ## Bit fields and counts (R226, R229) -/

/-- R229: at most 32. -/
def upTo32 (x : BitVec 8) : Nat := Nat.min x.toNat 32

/-- R229 bfe: the field of a of that length at that position, with or without sign; beyond bit 31 the signed form goes on
with a's bit 31, the unsigned form with 0. -/
def extractBits (g : Sign) (a b c : Word) : Word :=
  let pos := upTo32 (b.extractLsb' 0 8)
  let len := upTo32 (c.extractLsb' 0 8)
  match g with
  | .signed => ((a.sshiftRight pos).setWidth len).signExtend 32
  | .unsigned => ((a >>> pos).setWidth len).zeroExtend 32

/-- R229 bfi: the low bits of a stand in place of the field of b of that length at that position. -/
def insertBits (a b c : Word) : Word :=
  let pos := (c.extractLsb' 0 8).toNat
  let mask : Word := (BitVec.allOnes (upTo32 (c.extractLsb' 8 8))).zeroExtend 32 <<< pos
  (b &&& ~~~mask) ||| (a <<< pos &&& mask)

/-- R226: the 1 bits of a value, the 0 bits above its highest 1, and the 0 bits below its lowest. -/
def ones {n : Nat} (x : BitVec n) : Word := BitVec.ofNat 32 ((List.range n).countP x.getLsbD)
def zerosAbove {n : Nat} (x : BitVec n) : Word := BitVec.ofNat 32 ((List.range n).takeWhile fun i => !x.getMsbD i).length
def zerosBelow {n : Nat} (x : BitVec n) : Word := BitVec.ofNat 32 ((List.range n).takeWhile fun i => !x.getLsbD i).length

/-- A count of the bits of A, of either width. -/
def counted (w : IWidth) (f : FormV) (n32 : Word → Word) (n64 : Word64 → Word) : Compute :=
  match w with
  | .w32 => one f n32
  | .w64 => ⟨form1 .w32 .w64 f, fun u l => word (n64 (rd64 u f.a l))⟩

/-- R226, R229: bfe, bfi, popc, clz, ctz and brev. -/
def bitFields : Instr → Option Compute
  | .bfe g f => some (three f (extractBits g))
  | .bfi f => some (three f insertBits)
  | .popc w f => some (counted w f ones ones)
  | .clz w f => some (counted w f zerosAbove zerosAbove)
  | .ctz w f => some (counted w f zerosBelow zerosBelow)
  | .brev .w32 f => some (one f BitVec.reverse)
  | .brev .w64 f => some (one64 f BitVec.reverse)
  | _ => none

/-! ## Moves and addresses (R226, R230, R231) -/

/-- R226, R230, R231: mov, movi, movh and lea. -/
def moves : Instr → Option Compute
  | .mov .w32 f => some (one f fun a => a)
  | .mov .w64 f => some (one64 f fun a => a)
  | .movi f => some ⟨⟨f.tt, f.sc, destUnless f.nw (dst f.d), [], 1⟩, fun _ _ => word (imm32 f)⟩
  | .movh f => some (withImm f fun a _ => f.imm ++ a.extractLsb' 0 10)
  | .lea f => some ⟨formShift .w64 f, fun u l =>
      pair (rd64 u f.a l + (rd u f.b l).signExtend 64 <<< (f.c.extractLsb' 0 3).toNat)⟩
  | .leaImm f => some ⟨formImm .w64 f, fun u l => pair (rd64 u f.a l + f.imm.signExtend 64)⟩
  | _ => none

end Sys2Proof.Claims
end

