-- ==== Sys2Proof/Claims/Floats.lean ====
section
/-!
DEFINITION. What the floating-point, conversion and packed dot-product instructions do with their operands (spec/09 R236 to
R257). The values themselves are those of the model's arithmetic on codes; the obligations FloatRounds, FloatSpecials,
FloatOrder and ConversionsRound say what those are.
-/

namespace Sys2Proof.Claims

open Sys2Proof.Machine

/-! ## Registers of codes (R238, R122) -/

/-- A code as a 32-bit, or as a 64-bit, result, with its flags. -/
def code32 (r : Coded) : LaneOut := ⟨[BitVec.ofNat 32 r.1], [], none, r.2⟩
def code64 (r : Coded) : LaneOut := { pair (BitVec.ofNat 64 r.1) with flags := r.2 }
/-- Two 16-bit elements, the first in the low half. -/
def code16x2 (lo hi : Coded) : LaneOut := ⟨[BitVec.ofNat 16 hi.1 ++ BitVec.ofNat 16 lo.1], [], none, lo.2 ||| hi.2⟩

/-- The two elements of a register. -/
def low16 (x : Word) : Nat := (x.extractLsb' 0 16).toNat
def high16 (x : Word) : Nat := (x.extractLsb' 16 16).toNat

/-- An operation on A and B of a type: of one value, or of each of two elements (R238). -/
def ofType (t : FType) (f : FormV) (op : FloatFmt → Nat → Nat → Coded) : Compute :=
  let twice := fun g : FloatFmt => (⟨form2 .w32 f, fun u l =>
    code16x2 (op g (low16 (rd u f.a l)) (low16 (rd u f.b l))) (op g (high16 (rd u f.a l)) (high16 (rd u f.b l)))⟩ : Compute)
  match t with
  | .f32 => ⟨form2 .w32 f, fun u l => code32 (op f32Fmt (rd u f.a l).toNat (rd u f.b l).toNat)⟩
  | .f64 => ⟨form2 .w64 f, fun u l => code64 (op f64Fmt (rd64 u f.a l).toNat (rd64 u f.b l).toNat)⟩
  | .f16x2 => twice f16Fmt
  | .bf16x2 => twice bf16Fmt

/-- An operation on A of a type. -/
def ofType1 (t : FType) (f : FormV) (op : FloatFmt → Nat → Coded) : Compute :=
  let twice := fun g : FloatFmt => (⟨form1 .w32 .w32 f, fun u l =>
    code16x2 (op g (low16 (rd u f.a l))) (op g (high16 (rd u f.a l)))⟩ : Compute)
  match t with
  | .f32 => ⟨form1 .w32 .w32 f, fun u l => code32 (op f32Fmt (rd u f.a l).toNat)⟩
  | .f64 => ⟨form1 .w64 .w64 f, fun u l => code64 (op f64Fmt (rd64 u f.a l).toNat)⟩
  | .f16x2 => twice f16Fmt
  | .bf16x2 => twice bf16Fmt

/-- The type and the mode of an arithmetic form; the packed ones round to nearest (R242). -/
def formType : ArithForm → FType
  | .f32 _ => .f32
  | .f64 _ => .f64
  | .f16x2 => .f16x2
  | .bf16x2 => .bf16x2
def formMode : ArithForm → Rounding
  | .f32 m => m
  | .f64 m => m
  | _ => .rn

/-- An operation of an arithmetic form. -/
def ofForm (t : ArithForm) (f : FormV) (op : FloatFmt → Rounding → Nat → Nat → Coded) : Compute :=
  ofType (formType t) f fun g => op g (formMode t)

/-- R239: the fused form. -/
def fused (t : ArithForm) (f : FormV) : Compute :=
  let m := formMode t
  let twice := fun g : FloatFmt => (⟨form3 .w32 f, fun u l =>
    let a := rd u f.a l
    let b := rd u f.b l
    let c := rd u f.c l
    code16x2 (floatFma g m (low16 a) (low16 b) (low16 c)) (floatFma g m (high16 a) (high16 b) (high16 c))⟩ : Compute)
  match formType t with
  | .f32 => ⟨form3 .w32 f, fun u l => code32 (floatFma f32Fmt m (rd u f.a l).toNat (rd u f.b l).toNat (rd u f.c l).toNat)⟩
  | .f64 => ⟨form3 .w64 f, fun u l =>
      code64 (floatFma f64Fmt m (rd64 u f.a l).toNat (rd64 u f.b l).toNat (rd64 u f.c l).toNat)⟩
  | .f16x2 => twice f16Fmt
  | .bf16x2 => twice bf16Fmt

/-- R241: an operation on A and the FP32 value with the immediate in its high 22 bits, to nearest even. -/
def withFloatImm (f : FormI) (op : FloatFmt → Rounding → Nat → Nat → Coded) : Compute :=
  ⟨formImm .w32 f, fun u l => code32 (op f32Fmt .rn (rd u f.a l).toNat (f.imm ++ (0 : BitVec 10)).toNat)⟩

/-- A two-source, or a one-source, operation of a scalar type (R240, R247). -/
def scalar2 (t : FWidth) (f : FormV) (op : FloatFmt → Nat → Nat → Coded) : Compute :=
  match t with
  | .f32 => ofType .f32 f op
  | .f64 => ofType .f64 f op
def scalar1 (t : FWidth) (f : FormV) (op : FloatFmt → Nat → Coded) : Compute :=
  match t with
  | .f32 => ofType1 .f32 f op
  | .f64 => ofType1 .f64 f op

/-- R239 to R247: fadd, fsub, fmul, ffma, fdiv, fsqrt, fmin, fmax, fminn, fmaxn, fabs, fneg, fcopysign, fclass, fscale and
frnd. -/
def floats : Instr → Option Compute
  | .fadd t f => some (ofForm t f floatAdd)
  | .fsub t f => some (ofForm t f floatSub)
  | .fmul t f => some (ofForm t f floatMul)
  | .ffma t f => some (fused t f)
  | .faddImm f => some (withFloatImm f floatAdd)
  | .fsubImm f => some (withFloatImm f floatSub)
  | .fmulImm f => some (withFloatImm f floatMul)
  | .fdiv t m f => some (scalar2 t f fun g => floatDiv g m)
  | .fsqrt t m f => some (scalar1 t f fun g => floatSqrt g m)
  | .fmin t f => some (ofType t f fun g => floatMinMax g false false)
  | .fmax t f => some (ofType t f fun g => floatMinMax g true false)
  | .fminn t f => some (ofType t f fun g => floatMinMax g false true)
  | .fmaxn t f => some (ofType t f fun g => floatMinMax g true true)
  | .fabs t f => some (ofType1 t f fun g a => floatSign g .clear a 0)
  | .fneg t f => some (ofType1 t f fun g a => floatSign g .invert a 0)
  | .fcopysign t f => some (ofType t f fun g => floatSign g .copy)
  | .fclass .f32 f => some ⟨form1 .w32 .w32 f, fun u l => word (BitVec.ofNat 32 (floatClass f32Fmt (rd u f.a l).toNat))⟩
  | .fclass .f64 f => some ⟨form1 .w32 .w64 f, fun u l => word (BitVec.ofNat 32 (floatClass f64Fmt (rd64 u f.a l).toNat))⟩
  | .fscale .f32 f => some ⟨formShift .w32 f, fun u l =>
      code32 (floatScale f32Fmt (rd u f.a l).toNat (rd u f.b l).toInt)⟩
  | .fscale .f64 f => some ⟨formShift .w64 f, fun u l =>
      code64 (floatScale f64Fmt (rd64 u f.a l).toNat (rd u f.b l).toInt)⟩
  | .frnd t m f => some (scalar1 t f fun g => floatIntegral g m)
  | _ => none

/-! ## Conversions (R251 to R254) -/

/-- A conversion of A, each side of 32 or of 64 bits. -/
def convertForm (wide from64 : Bool) (f : FormV) (op : Nat → Coded) : Compute :=
  ⟨form1 (pairWidth wide) (pairWidth from64) f, fun u l =>
    let r := op (if from64 then (rd64 u f.a l).toNat else (rd u f.a l).toNat)
    if wide then code64 r else code32 r⟩

/-- R96: the fields of the control of cvt. -/
def cvtTo (f : FormV) : Nat := (f.c.extractLsb' 8 3).toNat
def cvtFrom (f : FormV) : Nat := (f.c.extractLsb' 5 3).toNat
def cvtMode (f : FormV) : Rounding := roundingOf (f.c.extractLsb' 3 2).toNat

/-- R253, R254, R256: the codes of FMT.AF that cvtp, and that mxq and mxd, accept. -/
def cvtpAccepts (u : Issuer) : Prop := fmtAF u.g.fmt ≠ 0 ∧ fmtAF u.g.fmt < 12
def mxAccepts (u : Issuer) : Prop := 3 ≤ fmtAF u.g.fmt ∧ fmtAF u.g.fmt ≤ 8

/-- R251, R252: cvt and fxcvt. -/
def conversions : Instr → Option Compute
  | .cvt f => some (convertForm (cvtWide (cvtTo f)) (cvtWide (cvtFrom f)) f
      (convert (cvtType (cvtTo f)) (cvtType (cvtFrom f)) (cvtMode f) (f.c.getLsbD 2)))
  | .fxcvt f =>
    let g := if f.c.getLsbD 1 then f64Fmt else f32Fmt
    if f.c.getLsbD 0 then some (convertForm (f.c.getLsbD 1) true f fun x =>
      encodeFloat g (cvtMode f) false (Num.ofInt (BitVec.ofNat 64 x).toInt (-32)))
    else some (convertForm true (f.c.getLsbD 1) f fun a => roundToX64 (cvtMode f) (f.c.getLsbD 2) (decodeFloat g a))
  | _ => none

/-- R253: register D + k of a run of A in a lane. -/
def runOf (u : Issuer) (code : BitVec 11) (n l : Nat) : List Nat := (List.range n).map fun k => (rdRun u code k l).toNat

/-- R253, R254: cvtp, and dotp with SCALE = 0, under the group's FMT. -/
def underFmt (u : Issuer) : Instr → Option Compute
  | .cvtpPack f =>
    let n := elementsPerRegister (fmtAF u.g.fmt)
    some ⟨⟨f.tt, false, destUnless f.nw (dst f.d), [srcRun fieldA f.a n], 1⟩, fun u l =>
      code32 (packElements (fmtAF u.g.fmt) (fmtRMODE u.g.fmt) (fmtSAT u.g.fmt) (runOf u f.a n l))⟩
  | .cvtpUnpack f =>
    some ⟨⟨f.tt, false, some (dstRun f.d (elementsPerRegister (fmtAF u.g.fmt))), [src fieldA f.a], 0⟩, fun u l =>
      let rs := unpackElements (fmtAF u.g.fmt) (rd u f.a l).toNat
      ⟨rs.map fun r => BitVec.ofNat 32 r.1, [], none, rs.foldl (fun w r => w ||| r.2) 0⟩⟩
  | .dotp f =>
    (dotKind u.g.fmt).map fun k =>
      ⟨⟨f.tt, false, destUnless f.nw (dst f.d), [src fieldA f.a, src fieldB f.b, src fieldC f.c], 1⟩, fun u l =>
        code32 (dotpShort k u.g.fmt (rd u f.a l).toNat (rd u f.b l).toNat (rd u f.c l).toNat)⟩
  | _ => none

/-- R139, R253, R254: FMT suits the instruction. -/
def FmtSuits (u : Issuer) : Instr → Prop
  | .cvtpPack _ => cvtpAccepts u
  | .cvtpUnpack _ => cvtpAccepts u
  | .dotp _ => fmtSCALE u.g.fmt = false ∧ dotKind u.g.fmt ≠ some .single
  | _ => True

/-! ## Microscaling (R256, R257) -/

/-- The scalar register that holds the scale of a lane word. -/
def scaleOf (f : FormV) (j : Nat) : Nat := f.b.toNat - 1792 + j

/-- R256: a lane word has an enabled lane. -/
def wordEnabled (u : Issuer) (f : FormV) (j : Nat) : Prop := ∃ l ∈ u.enabledLanes f.tt, l / 32 = j

/-- R256, R257: the scale scalars of the lane words with an enabled lane lie in range, none of them in flight, none that is
read poisoned. -/
def ScalesFit (u : Issuer) (f : FormV) (reads : Bool) : Prop :=
  ∀ l ∈ u.enabledLanes f.tt, scaleOf f (l / 32) < u.l.sregs ∧ u.g.sPend (scaleOf f (l / 32)) = false ∧
    (reads = true → u.g.sBad (scaleOf f (l / 32)) = false)

/-- R257: mxd. -/
def dequantised (f : FormV) : Compute :=
  ⟨⟨f.tt, false, destUnless f.nw (dst f.d), [src fieldA f.a], 1⟩, fun u l =>
    code32 (mxDequantise (fmtAF u.g.fmt) ((u.g.sreg (scaleOf f (l / 32))).extractLsb' 0 8).toNat (rd u f.a l).toNat)⟩

/-- R256: the block of a lane word: the enabled lanes' values, and +0 for the others; its scale code, its element codes and
its flags. -/
def quantised (u : Issuer) (f : FormV) (j : Nat) : Nat × List Nat × Flags :=
  mxQuantise (fmtAF u.g.fmt) (fmtRMODE u.g.fmt) ((List.range 32).map fun i =>
    if 32 * j + i ∈ u.enabledLanes f.tt then (rd u f.a (32 * j + i)).toNat else 0)

/-- The code of a lane of mxq. -/
def quantisedCode (u : Issuer) (f : FormV) (l : Nat) : Word := BitVec.ofNat 32 ((quantised u f (l / 32)).2.1.getD (l % 32) 0)

/-- R256: the lane words of a group that have an enabled lane. -/
def wordsOf (u : Issuer) (f : FormV) : List Nat := (List.range 4).filter fun j => (u.enabledLanes f.tt).any fun l => l / 32 == j

/-- R256: the registers after mxq: each enabled lane's code, each lane word's scale. -/
def Quantised (u : Issuer) (f : FormV) (g : Group) : Prop :=
  (∀ n l, l < 128 → g.vreg n l =
    if l ∈ u.enabledLanes f.tt then inRun (vectorReg u.g f.d l) [quantisedCode u f l] n (u.g.vreg n l) else u.g.vreg n l) ∧
  (∀ n l, l < 128 → g.vBad n l =
    (u.g.vBad n l && !(decide (l ∈ u.enabledLanes f.tt) && reaches (vectorReg u.g f.d l) [quantisedCode u f l] n))) ∧
  (∀ j, j ∈ wordsOf u f → g.sreg (scaleOf f j) = BitVec.ofNat 32 (quantised u f j).1 ∧ g.sBad (scaleOf f j) = false) ∧
  (∀ n, (∀ j ∈ wordsOf u f, n ≠ scaleOf f j) → g.sreg n = u.g.sreg n ∧ g.sBad n = u.g.sBad n) ∧
  g.fpstat = (wordsOf u f).foldl (fun w j => w ||| (quantised u f j).2.2.zeroExtend 32) u.g.fpstat ∧
  g = { moved u.g g with v := g.v, vPoison := g.vPoison, s := g.s, sPoison := g.sPoison, fpstat := g.fpstat }

/-- R103: the entry of mxq holds the codes. -/
def quantisedEntry (u : Issuer) (f : FormV) : Latch :=
  ⟨false, (u.enabledLanes f.tt).map fun l => (l, (quantisedCode u f l).zeroExtend 64)⟩

end Sys2Proof.Claims
end

