-- ==== Sys2Proof/Claims/Deferred.lean ====
section
/-!
DEFINITION. What instructions do whose results come later, when they issue and when they complete (spec/04 R105 to R108;
spec/09 R248 to R250, R255).
-/

namespace Sys2Proof.Claims

open Sys2Proof.Machine

/-- The number of the special function, and its type and fields. -/
def specialFunction : Instr → Option (SfuFn × SfuType × FormV)
  | .frcp t f => some (.rcp, t, f)
  | .frsq t f => some (.rsq, t, f)
  | .fex2 t f => some (.ex2, t, f)
  | .flg2 t f => some (.lg2, t, f)
  | .fsin t f => some (.sin, t, f)
  | .fcos t f => some (.cos, t, f)
  | .ftanh t f => some (.tanh, t, f)
  | _ => none

/-- R248: a special function of one binary32 value, or of two binary16 elements. -/
def functionOf (fn : SfuFn) (t : SfuType) (a : Word) : LaneOut :=
  match t with
  | .f32 => code32 (sfuValue f32Fmt fn a.toNat)
  | .f16x2 => code16x2 (sfuValue f16Fmt fn (low16 a)) (sfuValue f16Fmt fn (high16 a))

/-- R255: the codes of the elements that a run of registers of an FMT code holds. -/
def elementRun (u : Issuer) (fmt : Nat) (code : BitVec 11) (l : Nat) : List Nat :=
  elementsOf fmt (runOf u code (32 / elementsPerRegister fmt) l)

/-- The special functions (R248), and dotp with SCALE = 1 (R255): the operands, and what a lane computes at issue. -/
def deferredOf (u : Issuer) : Instr → Option (DeferredKind × Compute)
  | .dotp f =>
    let fmt := u.g.fmt
    some (.dotp, ⟨⟨f.tt, false, some (dst f.d),
        [srcRun fieldA f.a (32 / elementsPerRegister (fmtAF fmt)), srcRun fieldB f.b (32 / elementsPerRegister (fmtBF fmt)),
         src64 fieldC f.c], 0⟩, fun u l =>
      code32 (accumulateBlock ((dotKind fmt).getD .narrow) fmt ((rd64 u f.c l).extractLsb' 0 32).toNat
        (elementRun u (fmtAF fmt) f.a l) (elementRun u (fmtBF fmt) f.b l)
        ((rd64 u f.c l).extractLsb' 32 8).toNat ((rd64 u f.c l).extractLsb' 40 8).toNat)⟩)
  | i => (specialFunction i).map fun p =>
      (.sfu, ⟨⟨p.2.2.tt, p.2.2.sc, some (dst p.2.2.d), [src fieldA p.2.2.a], 0⟩, fun u l =>
        functionOf p.1 p.2.1 (rd u p.2.2.a l)⟩)

/-- R102, R139, R255: a scaled dotp is legal: FMT says SCALE and a combination with 32 elements; A and B are direct vector
registers; NW = 0. -/
def mayDefer (u : Issuer) : Instr → Prop
  | .dotp f => fmtSCALE u.g.fmt = true ∧ dotKind u.g.fmt ≠ none ∧ dotKind u.g.fmt ≠ some .single ∧ f.nw = false ∧
      (∃ n, operandOf f.a = .v n) ∧ ∃ n, operandOf f.b = .v n
  | _ => True

/-- The lanes that compute: lane 0 stands for a scalar-marked instruction. -/
def computing (u : Issuer) (k : LaneForm) : List Nat := if k.sc then [0] else u.enabledLanes k.tt

/-- The register where a lane's result goes. -/
def destOf (u : Issuer) (k : LaneForm) (l : Nat) : Option Nat := if k.sc then scalarDest k else vectorDest u k l

/-- The writes that the results await, lane by lane. -/
def awaited (u : Issuer) (k : Compute) : List DeferredWrite :=
  (computing u k.form).flatMap fun l =>
    (List.range (k.out u l).words.length).map fun j =>
      ⟨k.form.sc, (destOf u k.form l).getD 0 + j, l, (k.out u l).words.getD j 0, false⟩

/-- Whether a write names a register of a lane, or a scalar register. -/
def writesV (ws : List DeferredWrite) (n l : Nat) : Bool := ws.any fun w => !w.scalar && w.reg == n && w.lane == l
def writesS (ws : List DeferredWrite) (n : Nat) : Bool := ws.any fun w => w.scalar && w.reg == n

/-- R105: a long-latency result of the group is on its way: its registers are pending, its counter has risen, no register
has its value yet, and b0 is void. Without an enabled lane the instruction is complete (R108). -/
def Awaits (s : State) (u : Issuer) (kind : DeferredKind) (ws : List DeferredWrite) (flags : Flags) (t : State) : Prop :=
  if ws = [] then GroupDone s u void (Only u) t
  else
    t = { s with groups := t.groups, deferred := t.deferred, nextId := s.nextId + 1 } ∧ OtherGroups s t u.gid ∧
    SameMemory s t ∧ (∀ k, k ≠ s.nextId → t.deferred.get? k = s.deferred.get? k) ∧
    t.deferred.get? s.nextId = some ⟨u.gid, kind, ws, flags, hdrSetd u.header, u.g.sound⟩ ∧
    ∃ g, t.groups.get? u.gid = some g ∧ NextPlace u void g ∧
      (∀ j, g.counter j = if j = hdrSetd u.header then u.g.counter j + 1 else u.g.counter j) ∧
      (∀ n l, l < 128 → g.vPend n l = (u.g.vPend n l || writesV ws n l)) ∧
      (∀ n, g.sPend n = (u.g.sPend n || writesS ws n)) ∧
      g = { moved u.g g with d := g.d, vPending := g.vPending, sPending := g.sPending }

/-- The last of the awaited writes to a register of a lane, or to a scalar register. -/
def lastV (ws : List DeferredWrite) (n l : Nat) : Option DeferredWrite :=
  ws.reverse.find? fun w => !w.scalar && w.reg == n && w.lane == l
def lastS (ws : List DeferredWrite) (n : Nat) : Option DeferredWrite := ws.reverse.find? fun w => w.scalar && w.reg == n

/-- R105, R108, R250: a result in flight is delivered: the registers it names have it and are no longer pending, its flags
are set, its counter falls, and it is in flight no more. -/
def Arrives (s : State) (n : Nat) (d : Deferred) (u : Issuer) (t : State) : Prop :=
  t = { s with groups := t.groups, contexts := t.contexts, deferred := t.deferred } ∧ SameMemory s t ∧
  (∀ k, t.deferred.get? k = if k = n then none else s.deferred.get? k) ∧ OtherGroups s t d.group ∧
  (∀ c, t.contexts.get? c =
    (s.contexts.get? c).map fun x => if c = u.l.ctx then { x with soundQ := x.soundQ ++ d.sound.toList } else x) ∧
  ∃ g, t.groups.get? d.group = some g ∧
    (∀ r l, l < 128 → g.vreg r l = (lastV d.writes r l).elim (u.g.vreg r l) (·.value) ∧
      g.vPend r l = (u.g.vPend r l && (lastV d.writes r l).isNone) ∧
      g.vBad r l = (lastV d.writes r l).elim (u.g.vBad r l) (·.poisoned)) ∧
    (∀ r, g.sreg r = (lastS d.writes r).elim (u.g.sreg r) (·.value) ∧
      g.sPend r = (u.g.sPend r && (lastS d.writes r).isNone) ∧
      g.sBad r = (lastS d.writes r).elim (u.g.sBad r) (·.poisoned)) ∧
    (∀ j, g.counter j = if j = d.counter then u.g.counter j - 1 else u.g.counter j) ∧
    g.fpstat = u.g.fpstat ||| d.flags.zeroExtend 32 ∧
    g = { u.g with v := g.v, s := g.s, vPending := g.vPending, sPending := g.sPending, vPoison := g.vPoison,
                   sPoison := g.sPoison, d := g.d, fpstat := g.fpstat }

/-- A result in flight, of a group that stands, each of whose writes is to a lane. -/
def InFlight (s : State) (n : Nat) (kind : DeferredKind) (d : Deferred) (u : Issuer) : Prop :=
  s.deferred.get? n = some d ∧ d.kind = kind ∧ issuerOf s d.group = some u ∧ ∀ w ∈ d.writes, w.lane < 128

/-! ## The table of R249 -/

/-- An exact value that R249's table settles, or bounds of its argument. -/
def tableValue (f : FloatFmt) (fn : SfuFn) (x : Machine.Num) : Option Coded :=
  let nan : Coded := (f.nanCode, flagNV)
  let one := f.signed false (2 ^ f.mbits * f.bias)
  match fn, x with
  | _, .nan sig => some (f.nanCode, flagIf sig flagNV)
  | .rcp, .zero n => some (f.signed n f.infCode, flagDZ)
  | .rcp, .inf n => some (f.signed n 0, 0)
  | .rsq, .zero n => some (f.signed n f.infCode, flagDZ)
  | .rsq, .inf false => some (f.signed false 0, 0)
  | .rsq, .inf true => some nan
  | .rsq, .fin true _ _ => some nan
  | .ex2, .zero _ => some (one, 0)
  | .ex2, .inf false => some (f.infCode, 0)
  | .ex2, .inf true => some (f.signed false 0, 0)
  | .lg2, .zero _ => some (f.signed true f.infCode, flagDZ)
  | .lg2, .inf false => some (f.infCode, 0)
  | .lg2, .inf true => some nan
  | .lg2, .fin true _ _ => some nan
  | .sin, .zero n => some (f.signed n 0, 0)
  | .sin, .inf _ => some nan
  | .cos, .zero _ => some (one, 0)
  | .cos, .inf _ => some nan
  | .tanh, .zero n => some (f.signed n 0, 0)
  | .tanh, .inf n => some (f.signed n one, 0)
  | _, _ => none

end Sys2Proof.Claims
end

