-- ==== Sys2Proof/Claims/Matrix.lean ====
section
/-!
DEFINITION. What gangs, joint matrix operations, matrix batches and the accumulator store do (spec/11 R294 to R310).
-/

namespace Sys2Proof.Claims

open Sys2Proof.Machine

/-! ## Gangs, maps and handles (R294 to R296) -/

/-- R294: the count and the member fields of IMM22. -/
def gangCount (imm : BitVec 22) : Nat := (imm.extractLsb' 18 3).toNat
def gangMember (imm : BitVec 22) (k : Nat) : Nat := (imm.extractLsb' (3 * k) 3).toNat

/-- R294: the gang that IMM22 lists for a group. -/
def GangListed (u : Issuer) (imm : BitVec 22) (gang : Gang) : Prop :=
  imm.getLsbD 21 = false ∧ gang.length = gangCount imm ∧ gangCount imm ≠ 1 ∧ gangCount imm ≠ 7 ∧
  (∀ k, k < 6 → gangMember imm k = gang.getD k 0) ∧
  (gang ≠ [] → gang.Nodup ∧ (∀ k ∈ gang, k < u.l.groupCount) ∧ u.g.g ∈ gang)

/-- R301: EB, and the alignment of a base. -/
def columnSize (fmt : Nat) : Nat :=
  if fmt = 0 then 128 else if fmt = 1 ∨ fmt = 2 then 64 else if fmt = 5 ∨ fmt = 6 then 24
  else if fmt = 7 ∨ fmt = 10 ∨ fmt = 11 then 16 else 32
def baseAlign (fmt : Nat) : Nat := if columnSize fmt = 32 then 32 else 16

/-- R296: the handle of a descriptor's words, and when the words are legal. -/
def handleIn (w : Nat → Nat) : TileHandle := ⟨w 0 + 2 ^ 32 * w 1, w 2 + 2 ^ 32 * w 3, w 4, w 5 / 2 ^ 16 % 16, w 5 % 2 ^ 16⟩
def HandleLegal (w : Nat → Nat) : Prop :=
  w 5 < 2 ^ 20 ∧ w 6 = 0 ∧ w 7 = 0 ∧ (handleIn w).ef ≤ 11 ∧ 1 ≤ (handleIn w).ncols ∧ (handleIn w).ncols ≤ 256 ∧
  (handleIn w).base % baseAlign (handleIn w).ef = 0 ∧ w 4 % 16 = 0 ∧ columnSize (handleIn w).ef ≤ w 4

/-! ## The A fragment (R299, R300) -/

/-- The matrix multiplications. -/
def matrixForm : Instr → Option MatrixForm
  | .mma f => some ⟨0x304, false, f⟩
  | .mmasp f => some ⟨0x305, true, f⟩
  | _ => none

/-- R299: element kk of row i stands in the registers from ab on, packed, 32 rows to a lane word. -/
def Packed (u : Issuer) (ab i kk x : Nat) : Prop :=
  let fmt := fmtAF u.g.fmt
  let e := elementsPerRegister fmt
  let q := u.l.width / 32
  ∀ r p j, p < q → j < e → kk = (r * q + p) * e + j → x = elementOf fmt (u.g.vreg (ab + r) (32 * p + i)).toNat j

/-- R300: the positions of group g of a row's index word. -/
def firstPlace (w g : Nat) : Nat := w / 2 ^ (4 * g) % 4
def secondPlace (w g : Nat) : Nat := w / 2 ^ (4 * g + 2) % 4

/-- R299, R300: the rows and scales of a member's A, read from its registers. -/
def FragmentOf (u : Issuer) (m : MatrixForm) (fr : Fragment) : Prop :=
  let elem := fun i kk => (fr.rows.getD i []).getD kk 0
  fr.rows.length = 32 ∧ (∀ row ∈ fr.rows, row.length = 32) ∧ fr.scales.length = 32 ∧
  (m.sparse = false → ∀ i kk, i < 32 → kk < 32 → Packed u m.ab i kk (elem i kk)) ∧
  (m.sparse = true → ∀ i g, i < 32 → g < 8 →
    let w := m.indexWord u i
    Packed u m.ab i (2 * g) (elem i (4 * g + firstPlace w g)) ∧
    Packed u m.ab i (2 * g + 1) (elem i (4 * g + secondPlace w g)) ∧
    ∀ k, k < 4 → k ≠ firstPlace w g → k ≠ secondPlace w g → elem i (4 * g + k) = 0) ∧
  (∀ i, i < 32 → fr.scales.getD i 0 =
    if fmtSCALE u.g.fmt then (u.g.vreg (m.ab + m.fragRegs u) i).toNat % 256 else 127) ∧
  fr.word = m.opc * 2048 + m.ab ∧ fr.fmt = u.g.fmt.toNat % 65536 ∧
  (fr.bad = none ↔ ∀ k l, k < m.regCount u → l < u.l.width → u.g.vBad (m.ab + k) l = false)

/-- R98, R107, R300: the registers of A may be read. -/
def FragmentFits (u : Issuer) (m : MatrixForm) : Prop :=
  (∀ k, k < m.regCount u → m.ab + k < u.l.regs ∧ ∀ l, l < u.l.width → u.g.vPend (m.ab + k) l = false) ∧
  (m.sparse = true → ∀ i g, i < 32 → g < 8 → firstPlace (m.indexWord u i) g < secondPlace (m.indexWord u i) g)

/-! ## The B operand (R301) -/

/-- R301: where byte o of column j stands through a map. -/
def columnByte (mp : OperandMap) (j o : Nat) : Nat := mp.base + j * mp.stride + (o ^^^ (16 * (j % 2 ^ mp.swz)))

/-- R301: a map that an operation of n columns may use. -/
def MapLegal (u : Issuer) (mp : OperandMap) (n : Nat) : Prop :=
  let bf := fmtBF u.g.fmt
  mp.base % baseAlign bf = 0 ∧ (mp.swz ≠ 0 → mp.stride % 128 = 0) ∧
  (mp.swz = 0 → mp.stride % 16 = 0 ∧ columnSize bf ≤ mp.stride) ∧
  (∀ j o, j < n → o < columnSize bf → columnByte mp j o < u.l.teamMem) ∧
  (fmtSCALE u.g.fmt = true → mp.scales + n ≤ u.l.teamMem)

/-- R298, R301: BS names a map or a handle that the operation may use. -/
def OperandLegal (u : Issuer) (m : MatrixForm) : Prop :=
  if m.f.bs.toNat < 4 then ∃ mp, u.g.maps.get? m.f.bs.toNat = some mp ∧ MapLegal u mp m.n
  else ∃ h, u.g.handles.get? (m.f.bs.toNat - 4) = some h ∧ h.ef = fmtBF u.g.fmt ∧ m.n ≤ h.ncols

/-! ## Issue (R298 to R304) -/

/-- The groups of a gang of a team. -/
def gangIds (t : Team) (gang : Gang) : List Nat := gang.filterMap fun k => t.groups[k]?

/-- R306: an operation of the gang may name the tile in C. -/
def TileOpen (u : Issuer) (tile : Nat) : Prop :=
  u.t.tileReads.read tile 0 = 0 ∧
  ∀ w, u.t.writers.get? tile = some w → w.complete = true ∨ ∀ x, x ∈ w.members ↔ x ∈ gangIds u.t u.g.gang

/-- R298 to R301, R304, R306: an operation may issue. -/
def MatrixLegal (u : Issuer) (m : MatrixForm) : Prop :=
  dotKind u.g.fmt ≠ none ∧ (m.sparse = true → fmtAF u.g.fmt ≠ 0) ∧ OperandLegal u m ∧
  u.g.gang[m.f.gsel.toNat]? = some u.g.g ∧ m.f.acc.toNat + u.g.gang.length * m.nt ≤ u.l.acc ∧ 32 ≤ u.l.width ∧
  (∀ k, k < u.g.gang.length * m.nt → TileOpen u (m.f.acc.toNat + k)) ∧
  (∀ k, u.g.kept = some k → k.word = m.opc * 2048 + m.ab ∧ k.fmt = u.g.fmt.toNat % 65536) ∧
  (u.g.kept = none → FragmentFits u m)

/-- R302, R304: what a member issues: A from its registers, or the fragment that it kept. -/
def MemberIs (u : Issuer) (m : MatrixForm) (mb : Member) : Prop :=
  (∀ k, u.g.kept = some k → mb.fragment = k) ∧ (u.g.kept = none → FragmentOf u m mb.fragment) ∧
  mb = ⟨u.gid, m.opc, ((m.opc * 2048 + m.f.acc.toNat) * 2048 + m.f.bs.toNat) * 64 + m.f.shape.toNat, u.g.fmt, u.g.gang,
    m.f.gsel.toNat, m.ab, u.g.rc, u.g.gens, u.g.clause, u.g.index, m.f.reuse, mb.fragment⟩

/-- R302: the joint operation of a member that is held. -/
def jointOf (s : State) (u : Issuer) (m : MatrixForm) (mb : Member) : JointOp :=
  ⟨u.g.team, m.f.acc.toNat, m.f.bs.toNat, m.n, u.g.fmt, [mb], false,
    if m.f.bs.toNat < 4 then u.g.maps.get? m.f.bs.toNat else none,
    if m.f.bs.toNat < 4 then none else u.g.handles.get? (m.f.bs.toNat - 4), none, [], s.ticks.toNat⟩

/-- R302: the group of a member after its issue. -/
def heldGroup (u : Issuer) (op : Nat) : Group :=
  { u.g with status := .heldRendezvous op, rc := u.g.rc + 1, ic := u.g.ic + 1, suppressed := none
             gangOps := u.g.gangOps + 1, mmOpen := u.g.mmOpen ++ [(op, u.g.rc.toNat)] }

/-- R302, R427: the member is held, its operation in its open batch, and its Sounding record says so. -/
def IsHeld (s : State) (u : Issuer) (m : MatrixForm) (t : State) : Prop :=
  t = { s with groups := t.groups, joints := t.joints, nextId := s.nextId + 1 } ∧ OtherGroups s t u.gid ∧
  (∀ n, n ≠ s.nextId → t.joints.get? n = s.joints.get? n) ∧ t.groups.get? u.gid = some ((heldGroup u s.nextId).stall 9) ∧
  ∃ mb, MemberIs u m mb ∧ t.joints.get? s.nextId = some (jointOf s u m mb)

/-! ## The rendezvous (R302) -/

/-- Group v of a team is held with the operation op. -/
def HeldBy (s : State) (tid op : Nat) (mb : Member) (v : Issuer) : Prop :=
  ∃ j, (op, j) ∈ s.joints ∧ j.team = tid ∧ j.ready = false ∧ j.members = [mb] ∧ issuerOf s mb.group = some v ∧ v.g.team = tid

/-- The operations have numbers that are not yet given, each once, and a group is held with one operation, as its own in-team
number. -/
def JointsTidy (s : State) (u : Issuer) : Prop :=
  s.joints.sorted = true ∧ (∀ p ∈ s.joints, p.1 < s.nextId) ∧
  (∀ a b mb mc v w, HeldBy s u.g.team a mb v → HeldBy s u.g.team b mc w → v.g.g = w.g.g → a = b) ∧
  ∀ a mb v, HeldBy s u.g.team a mb v → v.g.g ≠ u.g.g ∧ v.gid ≠ u.gid

/-- R302: the last member of a gang issues: each other is held, with the operation and the group that `at_` gives for its place
in the gang, and with as many joint operations since its last `gangset`. -/
def LastOf (s : State) (u : Issuer) (at_ : Nat → Nat × Member × Issuer) : Prop :=
  JointsTidy s u ∧ u.g.gang.Nodup ∧
  ∀ k g, u.g.gang[k]? = some g → g ≠ u.g.g →
    HeldBy s u.g.team (at_ k).1 (at_ k).2.1 (at_ k).2.2 ∧ (at_ k).2.2.g.g = g ∧
      (at_ k).2.2.g.gangOps = u.g.gangOps + 1

/-- R302: two members issue one operation. -/
def Agree (a b : Member) : Prop := a.word = b.word ∧ a.fmt.toNat % 65536 = b.fmt.toNat % 65536 ∧ a.gang = b.gang

/-- R302, R304: a member goes on at the clause after its own, its operation known by its new number. -/
def MemberGoes (v : Issuer) (g0 : Group) (mb : Member) (old op : Nat) (g : Group) : Prop :=
  g = { g0 with status := .running, kept := if mb.reuse then some mb.fragment else none, sound := none
                mmOpen := g0.mmOpen.map fun p => if p.1 = old then (op, p.2) else p
                clause := followingClause v, index := 0, header := none, latches := [], entered := false, counted := false }

/-- R302: a member of an operation that is undone: its clock and its count take back what they had gained. -/
def undone (g : Group) (op : Nat) : Group :=
  { g with rc := g.rc - 1, ic := g.ic - 1, gangOps := g.gangOps - 1, mmOpen := g.mmOpen.filter fun p => decide (p.1 ≠ op) }

/-- R302, R446: a group takes a gang fault. -/
def GangFaults (g0 : Group) (cls : FaultClass) (sub : Nat) (g : Group) : Prop :=
  ∃ i, g.trap = some i ∧ i.cls = cls ∧ i.sub = BitVec.ofNat 16 sub ∧ i.gang = true ∧
    g = { g0 with status := .trapping, wait := none, trap := g.trap, sound := none, suppressed := g.suppressed
                  haltAsked := false }

/-- R302, R306: the rendezvous of members that agree: one operation of them all, the last writer of the tiles of its C. -/
def Formed (s : State) (u : Issuer) (m : MatrixForm) (mb : Member) (at_ : Nat → Nat × Member × Issuer) (t : State) : Prop :=
  let op := s.nextId
  let own := fun k => decide (u.g.gang[k]? = some u.g.g)
  let member := fun k => if own k then mb else (at_ k).2.1
  let first := if own 0 then some (jointOf s u m mb) else s.joints.get? (at_ 0).1
  (∃ j, t.joints.get? op = some j ∧ j.members = (List.range u.g.gang.length).map member ∧ j.ready = true ∧
    ∃ j0, first = some j0 ∧ j = { j0 with members := j.members, ready := true, startTick := s.ticks.toNat }) ∧
  (∀ k, k < u.g.gang.length → own k = false → t.joints.get? (at_ k).1 = none) ∧
  (∃ g, t.groups.get? u.gid = some g ∧ MemberGoes u (heldGroup u op) mb op op g) ∧
  (∀ k, k < u.g.gang.length → own k = false →
    ∃ g, t.groups.get? (at_ k).2.1.group = some g ∧ MemberGoes (at_ k).2.2 (at_ k).2.2.g (at_ k).2.1 (at_ k).1 op g) ∧
  (∀ n, (∀ k, k < u.g.gang.length → n ≠ (member k).group) → t.groups.get? n = s.groups.get? n) ∧
  (∃ y, t.teams.get? u.g.team = some y ∧ y = { u.t with writers := y.writers } ∧
    ∀ tile, y.writers.get? tile =
      if m.f.acc.toNat ≤ tile ∧ tile < m.f.acc.toNat + u.g.gang.length * m.nt then
        some ⟨op, (List.range u.g.gang.length).map fun k => (member k).group, false, []⟩
      else u.t.writers.get? tile) ∧
  (∀ n, n ≠ u.g.team → t.teams.get? n = s.teams.get? n) ∧
  t = { s with groups := t.groups, contexts := t.contexts, teams := t.teams, joints := t.joints, nextId := op + 1 }

/-- R302, R446: the members of an operation that is undone all take a gang fault, and the operation is gone. -/
def GangUndone (s : State) (u : Issuer) (at_ : Nat → Nat × Member × Issuer) (cls : FaultClass) (sub : Nat) (t : State) : Prop :=
  t.joints.get? s.nextId = none ∧
  (∃ g, t.groups.get? u.gid = some g ∧ GangFaults (undone (heldGroup u s.nextId) s.nextId) cls sub g) ∧
  (∀ k g, u.g.gang[k]? = some g → g ≠ u.g.g → t.joints.get? (at_ k).1 = none ∧
    ∃ x, t.groups.get? (at_ k).2.1.group = some x ∧ GangFaults (undone (at_ k).2.2.g (at_ k).1) cls sub x) ∧
  t = { s with groups := t.groups, contexts := t.contexts, joints := t.joints, nextId := s.nextId + 1 }

/-! ## The matrix engine (R303) -/

/-- R303: an operation may complete: it has met, waits for no walk and no packet, every release before it has performed, it
is the first of those that share a tile of C, and no access has been checked and not yet performed (R202). -/
def JointRuns (s : State) (op : Nat) (j : JointOp) (mb : Member) (u : Issuer) : Prop :=
  s.joints.get? op = some j ∧ j.members.head? = some mb ∧ issuerOf s mb.group = some u ∧ j.ready = true ∧ j.stalled = none ∧
  Machine.awaited s op = false ∧ jointFree s op j = true ∧ jointTurn s op j = true ∧ j.fetched = [] ∧ ∀ p ∈ s.accesses, p.2.checked = false

/-- R301, R131: the element codes of column c of B through a map, and its scale. -/
def columnElements (x : Team) (fmt : Word) (mp : OperandMap) (c : Nat) : List Nat :=
  let eb := columnSize (fmtBF fmt)
  let bits := leNat ((List.range eb).map fun o => teamByte x (columnByte mp c o))
  (List.range 32).map fun kk => bits / 2 ^ (eb / 4 * kk) % 2 ^ (eb / 4)
def columnScale (x : Team) (fmt : Word) (mp : OperandMap) (c : Nat) : Nat :=
  if fmtSCALE fmt then (teamByte x (mp.scales + c)).toNat else 127

/-- R298: the tile word of C element (i, c). -/
def cellKey (j : JointOp) (i c : Nat) : Nat := (j.acc + i / 32 * (j.n / 32) + c / 32) * 1024 + i % 32 * 32 + c % 32

/-- R303: C element (i, c) after an operation. -/
def cell (x : Team) (j : JointOp) (kind : DotKind) (mp : OperandMap) (i c : Nat) : Coded :=
  let fr := (j.members[i / 32]?).elim (⟨[], [], 0, 0, none⟩ : Fragment) (·.fragment)
  accumulateBlock kind j.fmt (x.tiles.read (cellKey j i c) 0).toNat (fr.rows.getD (i % 32) []) (columnElements x j.fmt mp c)
    (fr.scales.getD (i % 32) 0) (columnScale x j.fmt mp c)

/-- R150, R305: a member's matrix batches after its operation op has completed with the flags fl. -/
def BatchesAfter (t : State) (op : Nat) (fl : BitVec 7) (g h : Group) : Prop :=
  h.mmOpenFlags = (if g.mmOpen.any (fun p => decide (p.1 = op)) then g.mmOpenFlags ||| fl else g.mmOpenFlags) ∧
  (∀ n b, g.mmBatches.get? n = some b → ∃ b', h.mmBatches.get? n = some b' ∧ b'.entries = b.entries ∧ b'.stamp = b.stamp ∧
    b'.flags = (if op ∈ b.entries then b.flags ||| fl else b.flags) ∧
    (b'.done = true ↔ b.done = true ∨ ∀ k ∈ b.entries, t.joints.get? k = none)) ∧
  (∀ k, k < 32 → (h.fpstat.getLsbD k = true ↔ g.fpstat.getLsbD k = true ∨
    ∃ n b b', g.mmBatches.get? n = some b ∧ h.mmBatches.get? n = some b' ∧ b.done = false ∧ b'.done = true ∧
      (b'.flags.zeroExtend 32).getLsbD k = true)) ∧
  h = { g with mmOpenFlags := h.mmOpenFlags, mmBatches := h.mmBatches, fpstat := h.fpstat }

/-! ## The accumulator store (R306 to R309) -/

/-- R306: group u may touch a tile: its last writer has completed, and u has waited for it if it is a member. -/
def TileFree (u : Issuer) (tile : Nat) : Prop :=
  ∀ w, u.t.writers.get? tile = some w → w.complete = true ∧ (u.gid ∈ w.members → u.gid ∈ w.waited)

/-- R461: no word of n tiles is poisoned. -/
def CleanTiles (x : Team) (tile n : Nat) : Prop := ∀ k, 1024 * tile ≤ k → k < 1024 * (tile + n) → x.tilePoison.get? k = none

/-- R307: the writes of an accld. -/
def tileLoads (u : Issuer) (f : FormT) : List DeferredWrite :=
  (u.enabledLanes f.tt).flatMap fun l => (List.range (1024 / u.l.width)).map fun k =>
    ⟨false, f.ab.toNat + k, l, u.t.tiles.read (1024 * f.acc.toNat + (k * u.l.width + l)) 0, false⟩

/-- A team is as before, but for one field that `ok` speaks of; no other team changes. -/
def TeamTiles (s t : State) (u : Issuer) (ok : Team → Prop) : Prop :=
  (∀ k, k ≠ u.g.team → t.teams.get? k = s.teams.get? k) ∧ ∃ y, t.teams.get? u.g.team = some y ∧ ok y

/-- R306: the tile is read by one more access. -/
def ReadBy (x : Team) (tile d : Nat) (y : Team) : Prop :=
  (∀ k, y.tileReads.read k 0 = if k = tile then x.tileReads.read k 0 + d else x.tileReads.read k 0) ∧
  y = { x with tileReads := y.tileReads }

/-- R308, R317: an entry that completes for a counter: it starts at once. -/
def CountedEntry (s : State) (u : Issuer) (kind : EntryKind) (opc engine : Nat) (e : Entry) : Prop :=
  e.group = u.gid ∧ e.team = u.g.team ∧ e.ctx = u.l.ctx ∧ e.tenant = u.c.tenant ∧ e.core = u.t.core ∧
  e.agent = u.g.agent ||| 0x8000 ∧ e.kind = kind ∧ e.stamp = u.g.rc ∧ e.engine = engine ∧ e.started = true ∧
  e.performed = false ∧ e.counter = some (hdrSetd u.header) ∧ e.opc = opc ∧ e.clause = u.g.clause ∧ e.index = u.g.index ∧
  e.stalled = none ∧ e.startTick = s.ticks.toNat ∧ e.sound = u.g.sound

/-- R194, R308, R317: the entry is issued: the group's release count and its counter rise. -/
def CountedIssued (s : State) (u : Issuer) (kind : EntryKind) (opc engine : Nat) (t : State) : Prop :=
  t = { s with groups := t.groups, entries := t.entries, teams := t.teams, nextId := s.nextId + 1 } ∧ OtherGroups s t u.gid ∧
  (∃ e, t.entries.get? s.nextId = some e ∧ CountedEntry s u kind opc engine e) ∧
  (∀ n, n ≠ s.nextId → t.entries.get? n = s.entries.get? n) ∧
  ∃ g, t.groups.get? u.gid = some g ∧ NextPlace u void g ∧
    (∀ j, g.counter j = if j = hdrSetd u.header then u.g.counter j + 1 else u.g.counter j) ∧
    g = { moved u.g g with rc := u.g.rc + 1, d := g.d }

/-- R308: the arguments of an accst. -/
def TileStoreLegal (u : Issuer) (tile base stride : Nat) : Prop :=
  let outf := fmtOUTF u.g.fmt
  tile < u.l.acc ∧ base % 16 = 0 ∧ stride % 16 = 0 ∧ 32 * outSize outf ≤ stride

/-- R140: the OUTF codes of an accst. -/
def outCodes : List Nat := [0, 1, 2, 3, 4, 8, 9, 13]

/-- R309: the sum of two tile words. -/
def tileSum (fmt : Word) (a b : Word) : Coded :=
  if 8 ≤ fmtAF fmt ∧ fmtAF fmt ≤ 11 then accumulateInt (fmtSAT fmt) a.toNat b.toInt else floatAdd f32Fmt .rn a.toNat b.toNat

/-- A completed entry's counter falls, and its flags are set. -/
def CounterFalls (u : Issuer) (e : Entry) (fl : Flags) (g : Group) : Prop :=
  (∀ j, g.counter j = if e.counter = some j then u.g.counter j - 1 else u.g.counter j) ∧
  g.fpstat = u.g.fpstat ||| fl.zeroExtend 32

end Sys2Proof.Claims
end

