-- ==== Sys2Proof/Claims/Reals.lean ====
section
/-!
DEFINITION. Floating-point values as real numbers, and what it is to round one correctly (spec/05 R121, R123, R124, R133).
-/

namespace Sys2Proof.Claims

open Sys2Proof.Machine

/-- The real number that an exact finite value is; 0 for the others. -/
noncomputable def realOf : Machine.Num → ℝ
  | .fin neg m e => (if neg then -1 else 1) * (m : ℝ) * (2 : ℝ) ^ e
  | _ => 0

/-- The value as an extended real number; 0 for a NaN. -/
noncomputable def extendedOf : Machine.Num → EReal
  | .inf neg => if neg then ⊥ else ⊤
  | x => (realOf x : EReal)

/-- Whether a value is finite. -/
def isFinite : Machine.Num → Bool
  | .zero _ => true
  | .fin _ _ _ => true
  | _ => false

/-- R121: the magnitude of the n-th code of a format counted from zero, as if the exponents above the largest finite number
went on. -/
noncomputable def magnitude (f : FloatFmt) (n : Nat) : ℝ :=
  if n < 2 ^ f.mbits then (n : ℝ) * (2 : ℝ) ^ (f.emin - (f.mbits : ℤ))
  else ((2 ^ f.mbits + n % 2 ^ f.mbits : ℕ) : ℝ) * (2 : ℝ) ^ (((n / 2 ^ f.mbits : ℕ) : ℤ) - (f.bias : ℤ) - (f.mbits : ℤ))

/-- R124: whether a value between the magnitudes lo (of code n) and hi is rounded away from zero. -/
def RoundsAway (mode : Rounding) (x lo hi : ℝ) (n : Nat) : Prop :=
  |x| ≠ lo ∧
  match mode with
  | .rn => lo + hi < 2 * |x| ∨ (lo + hi = 2 * |x| ∧ n % 2 = 1)
  | .rz => False
  | .rd => x < 0
  | .ru => 0 < x

/-- R123: a value is tiny after rounding: rounded to the precision of the format as if exponents had no bound, it is below the
smallest normal number; the largest such value has an odd code. -/
def Tiny (f : FloatFmt) (mode : Rounding) (x : ℝ) : Prop :=
  let top := (2 - (2 : ℝ) ^ (-(f.mbits : ℤ))) * (2 : ℝ) ^ (f.emin - 1)
  |x| ≤ top ∨ (|x| < (2 : ℝ) ^ f.emin ∧ ¬ RoundsAway mode x top ((2 : ℝ) ^ f.emin) 1)

/-- R123, R124, R133: r is x rounded once to a format by a mode: the code of one of the two magnitudes that enclose it; past
the largest finite number what R133 delivers, with OF and NX; NX where the code is not x; UF where it is not x and x
is tiny. -/
def Rounded (f : FloatFmt) (mode : Rounding) (x : ℝ) (r : Coded) : Prop :=
  ∃ n k, magnitude f n ≤ |x| ∧ |x| < magnitude f (n + 1) ∧
    (RoundsAway mode x (magnitude f n) (magnitude f (n + 1)) n → k = n + 1) ∧
    (¬ RoundsAway mode x (magnitude f n) (magnitude f (n + 1)) n → k = n) ∧
    if f.largest < k then r = (overflowCode f mode false (decide (x < 0)), flagOF ||| flagNX)
    else
      r.1 = f.signed (decide (x < 0)) k ∧
      (r.2.getLsbD 0 = false ∧ r.2.getLsbD 1 = false ∧ r.2.getLsbD 2 = false ∧ r.2.getLsbD 5 = false ∧ r.2.getLsbD 6 = false) ∧
      (r.2.getLsbD 4 = true ↔ |x| ≠ magnitude f n) ∧
      (r.2.getLsbD 3 = true ↔ |x| ≠ magnitude f n ∧ Tiny f mode x)

/-- The formats of R121 that arithmetic computes in. -/
def arithmeticFormats : List FloatFmt := [f64Fmt, f32Fmt, f16Fmt, bf16Fmt]

/-- R135: the integer nearest a real number by a mode. -/
noncomputable def nearestInt (mode : Rounding) (x : ℝ) : ℤ :=
  match mode with
  | .rn => if x - ⌊x⌋ < 1 / 2 then ⌊x⌋ else if 1 / 2 < x - ⌊x⌋ then ⌊x⌋ + 1 else if ⌊x⌋ % 2 = 0 then ⌊x⌋ else ⌊x⌋ + 1
  | .rz => if 0 ≤ x then ⌊x⌋ else ⌈x⌉
  | .rd => ⌊x⌋
  | .ru => ⌈x⌉

end Sys2Proof.Claims
end

