-- ==== Sys2Proof/Claims/Values.lean ====
section
/-!
DEFINITION. What the floating-point operations on codes give (spec/05 R121 to R135; spec/08 R215, R216; spec/09 R239 to R252).
-/

namespace Sys2Proof.Claims

open Sys2Proof.Machine

/-- The value of a code. -/
abbrev val (f : FloatFmt) (a : Nat) : Machine.Num := decodeFloat f a

/-- A finite value, as a real number. -/
def IsReal (f : FloatFmt) (a : Nat) (x : ℝ) : Prop := a < 2 ^ f.width ∧ isFinite (val f a) = true ∧ realOf (val f a) = x

/-- NV where one of the values is a signalling NaN (R123). -/
def signals (xs : List Machine.Num) : Flags := if xs.any Num.isSignalling then flagNV else 0

/-- R123: the canonical NaN of a NaN operand. -/
def PropagatesNaN (f : FloatFmt) (xs : List Machine.Num) (r : Coded) : Prop := xs.any Num.isNaN = true → r = (f.nanCode, signals xs)

/-- An invalid operation. -/
def invalid (f : FloatFmt) : Coded := (f.nanCode, flagNV)

/-- The sign of the product or quotient of two values. -/
def signs (x y : Machine.Num) : Bool := x.sign ^^ y.sign

/-- R239: NaN operands, infinities and exact zeros of a sum. -/
def SumCases (f : FloatFmt) (m : Rounding) (x y : Machine.Num) (r : Coded) : Prop :=
  PropagatesNaN f [x, y] r ∧
  (∀ s t, x = .inf s → y = .inf t → r = if s = t then (f.signed s f.infCode, 0) else invalid f) ∧
  (∀ s, x = .inf s → isFinite y = true → r = (f.signed s f.infCode, 0)) ∧
  (∀ s, y = .inf s → isFinite x = true → r = (f.signed s f.infCode, 0)) ∧
  (isFinite x = true → isFinite y = true → realOf x + realOf y = 0 →
    r = (f.signed (if x.sign = y.sign then x.sign else decide (m = .rd)) 0, 0))

/-- R239: the same of a product. -/
def ProductCases (f : FloatFmt) (x y : Machine.Num) (r : Coded) : Prop :=
  PropagatesNaN f [x, y] r ∧
  (∀ s t, (x = .inf s ∧ y = .zero t) ∨ (x = .zero t ∧ y = .inf s) → r = invalid f) ∧
  (∀ s t, x = .inf s ∧ y = .inf t → r = (f.signed (s ^^ t) f.infCode, 0)) ∧
  (∀ s, x = .inf s → isFinite y = true → realOf y ≠ 0 → r = (f.signed (signs x y) f.infCode, 0)) ∧
  (∀ s, y = .inf s → isFinite x = true → realOf x ≠ 0 → r = (f.signed (signs x y) f.infCode, 0)) ∧
  (isFinite x = true → isFinite y = true → realOf x * realOf y = 0 → r = (f.signed (signs x y) 0, 0))

/-- R240: the same of a quotient. -/
def QuotientCases (f : FloatFmt) (x y : Machine.Num) (r : Coded) : Prop :=
  PropagatesNaN f [x, y] r ∧
  (∀ s t, (x = .inf s ∧ y = .inf t) ∨ (x = .zero s ∧ y = .zero t) → r = invalid f) ∧
  (∀ s, x = .inf s → isFinite y = true → r = (f.signed (signs x y) f.infCode, 0)) ∧
  (∀ s, y = .inf s → isFinite x = true → r = (f.signed (signs x y) 0, 0)) ∧
  (∀ s, y = .zero s → isFinite x = true → realOf x ≠ 0 → r = (f.signed (signs x y) f.infCode, flagDZ)) ∧
  (∀ s, x = .zero s → isFinite y = true → realOf y ≠ 0 → r = (f.signed (signs x y) 0, 0))

/-- R240: the same of a square root. -/
def RootCases (f : FloatFmt) (x : Machine.Num) (r : Coded) : Prop :=
  PropagatesNaN f [x] r ∧ (∀ s, x = .zero s → r = (f.signed s 0, 0)) ∧ (x = .inf false → r = (f.infCode, 0)) ∧
  (x = .inf true → r = invalid f) ∧ (isFinite x = true → realOf x < 0 → r = invalid f)

/-- R239: the same of the fused form: its product is exact, and 0 · ∞ is invalid whatever c is. -/
def FusedCases (f : FloatFmt) (m : Rounding) (x y z : Machine.Num) (r : Coded) : Prop :=
  ((x.isNaN = true ∨ y.isNaN = true) → r = (f.nanCode, signals [x, y, z])) ∧
  (∀ s t, (x = .inf s ∧ y = .zero t) ∨ (x = .zero t ∧ y = .inf s) → r = invalid f) ∧
  (x.isNaN = false → y.isNaN = false → z.isNaN = true → ¬ (∃ s t, (x = .inf s ∧ y = .zero t) ∨ (x = .zero t ∧ y = .inf s)) →
    r = (f.nanCode, signals [z])) ∧
  (∀ s t, isFinite x = true → realOf x ≠ 0 → y = .inf s → z = .inf t →
    r = if (x.sign ^^ s) = t then (f.signed t f.infCode, 0) else invalid f) ∧
  (∀ t, isFinite x = true → isFinite y = true → z = .inf t → r = (f.signed t f.infCode, 0)) ∧
  (isFinite x = true → isFinite y = true → isFinite z = true → realOf x * realOf y + realOf z = 0 →
    r = (f.signed (if signs x y = z.sign then z.sign else decide (m = .rd)) 0, 0))

/-- R215: what condition cc says of two values that are not NaN. -/
def ordered (cc : Nat) (x y : EReal) : Prop :=
  match cc with
  | 0 => x = y
  | 1 => x ≠ y
  | 2 => x < y
  | 3 => x ≤ y
  | 4 => y < x
  | 5 => y ≤ x
  | 6 => True
  | _ => False

/-- R216: a compare of two codes. -/
def OrderCases (f : FloatFmt) (cc a b : Nat) : Prop :=
  let x := val f a
  let y := val f b
  let r := floatCompare f cc a b
  (x.isNaN = false → y.isNaN = false → (r.1 = true ↔ ordered cc (extendedOf x) (extendedOf y)) ∧ r.2 = 0) ∧
  (x.isNaN = true ∨ y.isNaN = true →
    r = (decide (cc = 1 ∨ cc = 7), if decide (2 ≤ cc ∧ cc ≤ 5) then flagNV else signals [x, y]))

/-- R243: x stands before y, −0 before +0. -/
def Before (x y : Machine.Num) : Prop :=
  extendedOf x < extendedOf y ∨ (extendedOf x = extendedOf y ∧ x.sign = true ∧ y.sign = false)

/-- R243: a minimum (or maximum) of two codes; `prefers` says that one NaN yields the other operand. -/
def MinMaxCases (f : FloatFmt) (greater prefers : Bool) (a b : Nat) : Prop :=
  let x := val f a
  let y := val f b
  let r := floatMinMax f greater prefers a b
  r.2 = signals [x, y] ∧
  (x.isNaN = false → y.isNaN = false → Before x y → r.1 = if greater then b else a) ∧
  (x.isNaN = false → y.isNaN = false → Before y x → r.1 = if greater then a else b) ∧
  (x.isNaN = false → y.isNaN = false → a = b → r.1 = a) ∧
  (x.isNaN = true → y.isNaN = false → r.1 = if prefers then b else f.nanCode) ∧
  (x.isNaN = false → y.isNaN = true → r.1 = if prefers then a else f.nanCode) ∧
  (x.isNaN = true → y.isNaN = true → r.1 = f.nanCode)

/-- The magnitude bits and the sign bit of a code. -/
def magBits (f : FloatFmt) (a : Nat) : Nat := a % 2 ^ (f.ebits + f.mbits)
def signBit (f : FloatFmt) (a : Nat) : Bool := decide (2 ^ (f.ebits + f.mbits) ≤ a)

/-- R244: what the sign instructions give. -/
def SignCases (f : FloatFmt) (a b : Nat) : Prop :=
  PropagatesNaN f [val f a] (floatSign f .clear a 0) ∧ PropagatesNaN f [val f a] (floatSign f .invert a 0) ∧
  PropagatesNaN f [val f a, val f b] (floatSign f .copy a b) ∧
  ((val f a).isNaN = false → floatSign f .clear a 0 = (f.signed false (magBits f a), 0) ∧
    floatSign f .invert a 0 = (f.signed (!signBit f a) (magBits f a), 0) ∧
    ((val f b).isNaN = false → floatSign f .copy a b = (f.signed (signBit f b) (magBits f a), 0)))

/-- R245: the class of a value. -/
noncomputable def classBit (f : FloatFmt) (x : Machine.Num) : Nat :=
  open Classical in
  match x with
  | .inf true => 0
  | .inf false => 7
  | .zero true => 3
  | .zero false => 4
  | .nan true => 8
  | .nan false => 9
  | .fin neg m e =>
    if (2 : ℝ) ^ f.emin ≤ |realOf (.fin neg m e)| then (if neg then 1 else 6) else (if neg then 2 else 5)

/-- R246: fscale of a code. -/
def ScaleCases (f : FloatFmt) (a : Nat) (n : Int) : Prop :=
  let x := val f a
  let r := floatScale f a n
  PropagatesNaN f [x] r ∧ (∀ s, x = .inf s ∨ x = .zero s → r = (a, 0)) ∧
  (isFinite x = true → realOf x ≠ 0 → Rounded f .rn (realOf x * (2 : ℝ) ^ n) r)

/-- R247: frnd of a code. -/
def IntegralCases (f : FloatFmt) (m : Rounding) (a : Nat) : Prop :=
  let x := val f a
  let r := floatIntegral f m a
  PropagatesNaN f [x] r ∧ (∀ s, x = .inf s ∨ x = .zero s → r = (a, 0)) ∧
  (isFinite x = true → r.2 = 0 ∧ isFinite (val f r.1) = true ∧ realOf (val f r.1) = (nearestInt m (realOf x) : ℝ) ∧
    signBit f r.1 = x.sign)

/-! ## Conversions (R133 to R135, R251, R252) -/

/-- The formats that a value is rounded to. -/
def roundingFormats : List FloatFmt := arithmeticFormats ++ [e5m2Fmt, e4m3Fmt, e3m2Fmt, e2m3Fmt, e2m1Fmt]

/-- R133: with SAT = 1 a result that overflows is the largest finite number. -/
def saturating (f : FloatFmt) (neg : Bool) (r : Coded) : Coded :=
  if r.2.getLsbD 2 then (f.signed neg f.largest, r.2) else r

/-- R134: special values to a format with an infinity. -/
def SpecialsConvert (f : FloatFmt) (sat : Bool) (x : Machine.Num) (r : Coded) : Prop :=
  (∀ sig, x = .nan sig → r = (f.nanCode, if sig then flagNV else 0)) ∧
  (∀ s, x = .inf s → r = (f.signed s (if sat then f.largest else f.infCode), 0)) ∧ (∀ s, x = .zero s → r = (f.signed s 0, 0))

/-- The least and the greatest integer of a type. -/
def leastInt (n : Nat) (sg : Bool) : Int := if sg then -2 ^ (n - 1) else 0
def greatestInt (n : Nat) (sg : Bool) : Int := if sg then 2 ^ (n - 1) - 1 else 2 ^ n - 1

/-- The code of an integer in n bits. -/
def intCode (n : Nat) (x : Int) : Nat := (x % 2 ^ n).toNat

/-- R135: a value to an integer type. -/
noncomputable def toInteger (m : Rounding) (n : Nat) (sg : Bool) (x : Machine.Num) : Coded :=
  open Classical in
  match x with
  | .nan _ => (0, flagNV)
  | .inf s => (intCode n (if s then leastInt n sg else greatestInt n sg), flagNV)
  | x =>
    let k := nearestInt m (realOf x)
    if k < leastInt n sg then (intCode n (leastInt n sg), flagNV)
    else if greatestInt n sg < k then (intCode n (greatestInt n sg), flagNV)
    else (intCode n k, if (k : ℝ) = realOf x then 0 else flagNX)

/-- R135, R252: a value to X64: with SAT = 0 a value out of range wraps. -/
noncomputable def toFixed (m : Rounding) (sat : Bool) (x : Machine.Num) : Coded :=
  open Classical in
  match x with
  | .nan _ => (0, flagNV)
  | .inf s => (intCode 64 (if s then leastInt 64 true else greatestInt 64 true), flagNV)
  | x =>
    let k := nearestInt m (realOf x * 2 ^ 32)
    if k < leastInt 64 true then (intCode 64 (if sat then leastInt 64 true else k), flagNV)
    else if greatestInt 64 true < k then (intCode 64 (if sat then greatestInt 64 true else k), flagNV)
    else (intCode 64 k, if (k : ℝ) = realOf x * 2 ^ 32 then 0 else flagNX)

/-- R251: an integer to an integer type: extended, clamped with SAT, or wrapped. -/
def betweenInts (n : Nat) (sat : Bool) (k : Nat) (tg : Bool) (x : Int) : Nat :=
  if n < k ∨ sat = false then intCode k x else intCode k (Max.max (leastInt k tg) (Min.min (greatestInt k tg) x))

end Sys2Proof.Claims
end

