-- ==== Sys2Proof/Claims/Fronts.lean ====
section
/-!
DEFINITION. What the Horizon instructions do to the fronts of a team (spec/11 R311 to R319; spec/13 R365).
-/

namespace Sys2Proof.Claims

open Sys2Proof.Machine

/-! ## Keys and their order (R312) -/

/-- R94, R311: the configuration of a slot: its keys, their type and direction, its policy and its capacity. -/
def keyCount (h : HzSlot) : Nat := (h.config.extractLsb' 19 3).toNat + 1
def intKeys (h : HzSlot) : Bool := h.config.getLsbD 18
def upwards (h : HzSlot) (k : Nat) : Bool := h.config.getLsbD (10 + k)
def policyOf (h : HzSlot) : Nat := (h.config.extractLsb' 8 2).toNat
def capacityOf (h : HzSlot) : Nat := (h.config.extractLsb' 0 8).toNat + 1

/-- Key k of a tuple. -/
def keyAt (t : Tuple) (k : Nat) : Word := t.keys.getD k 0

/-- R312: the number that a key is. -/
noncomputable def keyValue (h : HzSlot) (w : Word) : EReal :=
  if intKeys h then (((w.toInt : ℝ)) : EReal) else extendedOf (val f32Fmt w.toNat)

/-- R312: a tuple with a key that is a NaN. -/
def HasNaN (h : HzSlot) (t : Tuple) : Prop := intKeys h = false ∧ ∃ w ∈ t.keys, (val f32Fmt w.toNat).isNaN = true

/-- R312: key k of a is better than that of b. -/
def Better (h : HzSlot) (k : Nat) (a b : Tuple) : Prop :=
  if upwards h k then keyValue h (keyAt b k) < keyValue h (keyAt a k) else keyValue h (keyAt a k) < keyValue h (keyAt b k)

/-- R312: a dominates b; their keys are equal; a stands before b in canonical order. -/
def Dominates (h : HzSlot) (a b : Tuple) : Prop :=
  (∀ k, k < keyCount h → ¬ Better h k b a) ∧ ∃ k, k < keyCount h ∧ Better h k a b
def SameKeys (h : HzSlot) (a b : Tuple) : Prop := ∀ k, k < keyCount h → keyValue h (keyAt a k) = keyValue h (keyAt b k)
def StandsBefore (h : HzSlot) (a b : Tuple) : Prop :=
  (∃ k, k < keyCount h ∧ Better h k a b ∧ ∀ j, j < k → keyValue h (keyAt a j) = keyValue h (keyAt b j)) ∨
  (SameKeys h a b ∧ a.payload < b.payload)

/-- R312: what a front never holds, and the order in which it stands. -/
def FrontLegal (h : HzSlot) : Prop :=
  (∀ t ∈ h.front, t.keys.length = keyCount h ∧ ¬ HasNaN h t) ∧
  h.front.Pairwise (fun a b => StandsBefore h a b ∧ ¬ SameKeys h a b ∧ ¬ Dominates h a b ∧ ¬ Dominates h b a) ∧
  h.front.length ≤ capacityOf h

/-! ## Insertion (R313, R314) -/

/-- R314: the difference of two keys 0 for THIN. -/
noncomputable def keyDistance (h : HzSlot) (a b : Tuple) : EReal :=
  let x := keyValue h (keyAt a 0)
  let y := keyValue h (keyAt b 0)
  if x = y then 0 else if x = ⊤ ∨ x = ⊥ ∨ y = ⊤ ∨ y = ⊥ then ⊤ else ((|x.toReal - y.toReal| : ℝ) : EReal)

/-- R314: place i is the worst on key 0, among ties the latest. -/
def Worst (h : HzSlot) (front : List Tuple) (i : Nat) : Prop :=
  ∃ t, front[i]? = some t ∧ ∀ j x, front[j]? = some x → j ≠ i →
    Better h 0 x t ∨ (keyValue h (keyAt x 0) = keyValue h (keyAt t 0) ∧ j < i)

/-- R314: place i is the inner one whose neighbours are nearest, among ties the latest. -/
def Thinnest (h : HzSlot) (front : List Tuple) (i : Nat) : Prop :=
  let gap := fun j => keyDistance h (front.getD (j - 1) ⟨[], 0⟩) (front.getD (j + 1) ⟨[], 0⟩)
  1 ≤ i ∧ i + 1 < front.length ∧ ∀ j, 1 ≤ j → j + 1 < front.length → j ≠ i → gap i < gap j ∨ (gap i = gap j ∧ j < i)

/-- R314: the front after the policy, where the tuples are one more than the capacity. -/
def Thinned (h : HzSlot) (old new front : List Tuple) : Prop :=
  match policyOf h with
  | 0 => front = old
  | 2 => if new.length < 3 then ∃ i, Worst h new i ∧ front = new.eraseIdx i else ∃ i, Thinnest h new i ∧ front = new.eraseIdx i
  | _ => ∃ i, Worst h new i ∧ front = new.eraseIdx i

/-- R313, R314: one tuple is inserted: the slot after it, whether it was kept, and whether it overflowed the capacity. -/
def Inserts (h : HzSlot) (t : Tuple) (h1 : HzSlot) (kept over_ : Bool) : Prop :=
  let held := ∃ x ∈ h.front, Dominates h x t ∨ (SameKeys h x t ∧ x.payload ≤ t.payload)
  let goes := fun x => Dominates h t x ∨ SameKeys h t x
  (HasNaN h t → h1 = { h with nan := h.nan + 1 } ∧ kept = false ∧ over_ = false) ∧
  (¬ HasNaN h t → held → h1 = { h with discard := h.discard + 1 } ∧ kept = false ∧ over_ = false) ∧
  (¬ HasNaN h t → ¬ held → kept = true ∧
    ∃ new : List Tuple, (∀ x, x ∈ new ↔ x = t ∨ (x ∈ h.front ∧ ¬ goes x)) ∧ new.Pairwise (StandsBefore h) ∧
      h1.evict + BitVec.ofNat 32 new.length = h.evict + BitVec.ofNat 32 (h.front.length + 1) ∧
      (over_ = true ↔ capacityOf h < new.length) ∧ (over_ = false → h1.front = new ∧ h1.overs = h.overs) ∧
      (over_ = true → Thinned h h.front new h1.front ∧ h1.overs = h.overs + 1) ∧
      h1 = { h with front := h1.front, insert := h.insert + 1, evict := h1.evict, overs := h1.overs })

/-- R313: tuples are inserted in turn; for each, whether it was kept and whether it overflowed. -/
def InsertsAll (h : HzSlot) : List Tuple → List (Bool × Bool) → HzSlot → Prop
  | [], [], h1 => h1 = h
  | t :: ts, p :: ps, h1 => ∃ m, Inserts h t m p.1 p.2 ∧ InsertsAll m ts ps h1
  | _, _, _ => False

/-! ## Slots (R311, R319, R365) -/

/-- R311: a slot of the team that has been configured, and in which no error has been found (R461). -/
def SlotIs (u : Issuer) (k : Nat) (h : HzSlot) : Prop := k < u.l.hz ∧ u.t.slots.get? k = some h ∧ h.bad = false

/-- R319: insertions into the slot are buffered. -/
def Buffers (u : Issuer) (h : HzSlot) : Prop := u.l.det = true ∧ (policyOf h = 1 ∨ policyOf h = 2)

/-- R314, R319: an overflow of the slot is a fault. -/
def Strict (u : Issuer) (h : HzSlot) : Prop := policyOf h = 3 ∨ (u.l.det = true ∧ policyOf h = 0)

/-- R365: the group has no buffered insertion of its own for the slot. -/
def OwnDrained (u : Issuer) (k : Nat) : Prop := u.l.det = true → ∀ e ∈ u.t.hzs, e.g = u.g.g → e.slot ≠ k

/-- The team's slot k is h, and nothing else of the team has changed. -/
def SlotSet (u : Issuer) (k : Nat) (h : HzSlot) (y : Team) : Prop :=
  y.slots.get? k = some h ∧ (∀ j, j ≠ k → y.slots.get? j = u.t.slots.get? j) ∧ y = { u.t with slots := y.slots }

/-- R313: the tuple of a lane. -/
def laneTuple (u : Issuer) (f : FormH) (h : HzSlot) (l : Nat) : Tuple :=
  ⟨(List.range (keyCount h)).map fun k => u.g.vreg (f.d.toNat + k) l, rd u f.a l⟩

/-- R313: each enabled lane's two predicates say whether its tuple was kept. -/
def KeptPredicates (u : Issuer) (f : FormH) (kept : Nat → Prop) (g : Group) : Prop :=
  (∀ l ∈ u.enabledLanes f.tt, (g.pred f.qk.toNat l = true ↔ kept l) ∧ (g.pred f.qn.toNat l = true ↔ ¬ kept l)) ∧
  (∀ n l, l < 128 → l ∉ u.enabledLanes f.tt ∨ (n ≠ f.qk.toNat ∧ n ≠ f.qn.toNat) → g.pred n l = u.g.pred n l) ∧
  g = { moved u.g g with q := g.q }

/-- R316: the words that a lane of hzread receives. -/
def frontRow (h : HzSlot) (i : Nat) : List Word :=
  match h.front[i]? with
  | some t => t.keys ++ [t.payload]
  | none => List.replicate (keyCount h) 0 ++ [0xFFFF_FFFF]

/-- R317: the words of a front in memory. -/
def frontImage (h : HzSlot) : List Word := BitVec.ofNat 32 h.front.length :: h.front.flatMap fun t => t.keys ++ [t.payload]

/-- R316: the counter that hzstat selects. -/
def statistic (h : HzSlot) : Nat → Word
  | 0 => h.insert
  | 1 => h.discard
  | 2 => h.evict
  | 3 => h.overs
  | 4 => h.nan
  | _ => h.config.zeroExtend 32

/-- The group goes on, and its team changes as `ok` says. -/
def TeamDone (s : State) (u : Issuer) (ok : Team → Prop) (t : State) : Prop :=
  OnlyTeam s t u ∧ (∃ g, t.groups.get? u.gid = some g ∧ NextPlace u void g ∧ Only u g) ∧
  ∃ y, t.teams.get? u.g.team = some y ∧ ok y

/-- The Horizon instructions, with what each needs of its slot (spec/11 R311): that it exists, or that it is configured too. -/
def horizonForm : Instr → Option (FormH × Bool)
  | .hzinit f => some (f, false)
  | .hzins f => some (f, true)
  | .hzmerge f => some (f, true)
  | .hzread f => some (f, true)
  | .hzcount f => some (f, true)
  | .hzstat f => some (f, true)
  | .hzclear f => some (f, true)
  | .hzstore _ f => some (f, true)
  | _ => none

end Sys2Proof.Claims
end

