-- ==== Sys2Proof/Claims/Predicates.lean ====
section
/-!
DEFINITION. What compares, predicate instructions, lane exchanges, index registers and FMT instructions do (spec/08 R215 to
R220, R232 to R234).
-/

namespace Sys2Proof.Claims

open Sys2Proof.Machine

/-! ## Compares (R215, R216) -/

/-- R215: condition cc of two integers, read with or without sign. -/
def holds (g : Sign) {n : Nat} (cc : Nat) (a b : BitVec n) : Bool :=
  match cc with
  | 0 => a == b
  | 1 => a != b
  | 2 => below g a b
  | 3 => !below g b a
  | 4 => below g b a
  | _ => !below g a b

/-- R215, R216: condition cc of A and B in a lane, and the flags. The order of floating-point values is that of the model's
floatCompare, which the obligation FloatOrder describes. -/
def compared (t : CmpType) (f : FormV) (u : Issuer) (l : Nat) : Bool × Flags :=
  let cc := (f.d.extractLsb' 8 3).toNat
  match t with
  | .i32 => (holds .signed cc (rd u f.a l) (rd u f.b l), 0)
  | .n32 => (holds .unsigned cc (rd u f.a l) (rd u f.b l), 0)
  | .i64 => (holds .signed cc (rd64 u f.a l) (rd64 u f.b l), 0)
  | .n64 => (holds .unsigned cc (rd64 u f.a l) (rd64 u f.b l), 0)
  | .f32 => floatCompare f32Fmt cc (rd u f.a l).toNat (rd u f.b l).toNat
  | .f64 => floatCompare f64Fmt cc (rd64 u f.a l).toNat (rd64 u f.b l).toNat

/-- R96: the two predicate destinations of a compare. -/
def firstPred (f : FormV) : Nat := (f.d.extractLsb' 3 3).toNat
def secondPred (f : FormV) : Nat := (f.d.extractLsb' 0 3).toNat

/-- R215: the outcome to the first predicate and its complement to the second, joined with the old values by `put`. -/
def comparison (t : CmpType) (f : FormV) (put : Bool → Bool → Bool) : Compute :=
  ⟨cmpForm t f, fun u l =>
    let c := compared t f u l
    ⟨[], [(firstPred f, put (u.g.pred (firstPred f) l) c.1), (secondPred f, put (u.g.pred (secondPred f) l) (!c.1))],
     none, c.2⟩⟩

/-- A predicate's bit in a lane, as a number. -/
def predBit (u : Issuer) (k : BitVec 3) (l : Nat) : Nat := (u.g.pred k.toNat l).toNat

/-- R217: the entry of the function table that the three predicates of a lane choose. -/
def tableBit (f : FormI) (u : Issuer) (l : Nat) : Bool :=
  f.imm.getLsbD (4 * predBit u (f.imm.extractLsb' 8 3) l + 2 * predBit u (f.imm.extractLsb' 11 3) l +
    predBit u (f.imm.extractLsb' 14 3) l)

/-- R215, R217, R218: cmp, cmpa, cmpo, plop and pmov. -/
def predicates : Instr → Option Compute
  | .cmp t f => some (comparison t f fun _ c => c)
  | .cmpa t f => some (comparison t f fun old c => old && c)
  | .cmpo t f => some (comparison t f fun old c => old || c)
  | .plop f => some ⟨⟨f.tt, false, none, [], 0⟩, fun u l =>
      ⟨[], [((f.imm.extractLsb' 17 3).toNat, tableBit f u l)], none, 0⟩⟩
  | .pmov f => some ⟨pmovForm f, fun u l =>
      if f.c = 0 then ⟨[], [((f.d.extractLsb' 0 3).toNat, u.g.pred (f.a.extractLsb' 0 3).toNat l)], none, 0⟩
      else if f.c = 1 then ⟨[], [((f.d.extractLsb' 0 3).toNat, (rd u f.a l).getLsbD 0)], none, 0⟩
      else word (if u.g.pred (f.a.extractLsb' 0 3).toNat l then 1 else 0)⟩
  | _ => none

/-! ## Predicates of the whole group (R219, R220) -/

/-- R219: the active lanes with the predicate set. -/
def chosen (u : Issuer) (f : FormV) (l : Nat) : Bool :=
  decide (l < u.l.width) && u.g.active.getLsbD l && u.g.pred (f.a.extractLsb' 0 3).toNat l

/-- R219: what ballot, pcount and pfirst give. -/
def groupResult : Instr → Option (FormV × (Issuer → Word → Prop))
  | .ballot f => some (f, fun u r => ∀ i, i < 32 → r.getLsbD i = chosen u f (32 * (f.b.extractLsb' 0 2).toNat + i))
  | .pcount f => some (f, fun u r => r.toNat = (List.range 128).countP (chosen u f))
  | .pfirst f => some (f, fun u r => r = ((List.range 128).find? (chosen u f)).elim 0xFFFFFFFF (BitVec.ofNat 32))
  | _ => none

/-! ## Lanes and index registers (R232, R233) -/

/-- R232: the segment width. -/
def segment (f : FormV) (u : Issuer) : Nat := Nat.min (2 ^ (f.c.extractLsb' 0 3).toNat) u.l.width

/-- R232: the lane that a lane reads in each mode, for the value d of B. -/
def sourceIdx (seg l d : Nat) : Nat := l / seg * seg + d % seg
def sourceUp (seg l d : Nat) : Nat := if d ≤ l % seg then l - d else l
def sourceDown (seg l d : Nat) : Nat := if l % seg + d < seg then l + d else l
def sourceXor (seg l d : Nat) : Nat := l / seg * seg + (l % seg ^^^ d % seg)

/-- R232: the four modes of shfl. -/
def exchange : Instr → Option (FormV × (Nat → Nat → Nat → Nat))
  | .shflIdx f => some (f, sourceIdx)
  | .shflUp f => some (f, sourceUp)
  | .shflDown f => some (f, sourceDown)
  | .shflXor f => some (f, sourceXor)
  | _ => none

/-- The lane whose A a lane of shfl reads. -/
def sourceLane (f : FormV) (src : Nat → Nat → Nat → Nat) (u : Issuer) (l : Nat) : Nat :=
  src (segment f u) l (rd u f.b l).toNat

/-- R232: D and B of a lane of shfl are checked there, A in the lane it reads. -/
def ShuffleFits (u : Issuer) (f : FormV) (src : Nat → Nat → Nat → Nat) : Prop :=
  ∀ l ∈ u.enabledLanes f.tt, (f.nw = false → Fits u l (dst f.d)) ∧ Fits u l (Machine.src fieldB f.b) ∧
    Fits u (sourceLane f src u l) (Machine.src fieldA f.a)

/-- R232: shfl. -/
def shuffled (f : FormV) (src : Nat → Nat → Nat → Nat) : Compute :=
  ⟨⟨f.tt, false, destUnless f.nw (dst f.d), [Machine.src fieldA f.a, Machine.src fieldB f.b], 1⟩, fun u l =>
    word (rd u f.a (sourceLane f src u l))⟩

/-- The write of an index register. -/
def indexWrite (d : BitVec 11) (x : BitVec 16) : LaneOut := ⟨[], [], some ((d.extractLsb' 0 3).toNat, x), 0⟩

/-- R233, R234: xmov, xadd and getfmt. -/
def indexes : Instr → Option Compute
  | .xmov f => some (
      if f.c = 0 then ⟨⟨f.tt, false, none, [src fieldA f.a], 0⟩, fun u l => indexWrite f.d ((rd u f.a l).truncate 16)⟩
      else ⟨⟨f.tt, false, destUnless f.nw (dst f.d), [], 1⟩, fun u l =>
        word ((u.g.xreg (f.a.extractLsb' 0 3).toNat l).zeroExtend 32)⟩)
  | .xadd f => some ⟨⟨f.tt, false, none, [src fieldB f.b], 0⟩, fun u l =>
      indexWrite f.d (u.g.xreg (f.a.extractLsb' 0 3).toNat l + (rd u f.b l).truncate 16)⟩
  | .xaddImm f => some ⟨⟨f.tt, false, none, [], 0⟩, fun u l =>
      indexWrite f.d (u.g.xreg (f.a.extractLsb' 0 3).toNat l + f.imm.truncate 16)⟩
  | .getfmt f => some ⟨⟨f.tt, f.sc, destUnless f.nw (dst f.d), [], 1⟩, fun u _ => word u.g.fmt⟩
  | _ => none

/-- R138: a value that FMT accepts: reserved bits 0, and no reserved format code. -/
def FmtFits (w : Word) : Prop :=
  w.toNat < 2 ^ 20 ∧ w.toNat % 16 < 14 ∧ w.toNat / 2 ^ 4 % 16 < 14 ∧ w.toNat / 2 ^ 8 % 16 < 14 ∧ w.toNat / 2 ^ 16 % 16 < 14

end Sys2Proof.Claims
end

