-- ==== Sys2Proof/Claims/Handlers.lean ====
section
/-!
DEFINITION. What the handler instructions do, and what happens between a fault and its handler (spec/11 R324 to R329; spec/14 R371
to R382; spec/21 R436 to R442).
-/

namespace Sys2Proof.Claims

open Sys2Proof.Machine

/-! ## Targets (R324) -/

/-- R324: a team that has been dispatched and has not retired. -/
def Standing (t : Team) : Prop := t.status ≠ .retired ∧ t.status ≠ .restarting ∧ t.status ≠ .lost

/-- R324: t is the team that a target pair names: of the launch of the group that the handler serves. -/
def NamesTeam (s : State) (u : Issuer) (v : Word64) (t : Team) : Prop :=
  ∃ served g, u.l.handlerFor = some served ∧ s.groups.get? served = some g ∧ t ∈ s.teams.vals ∧
    t.launch = g.launch ∧ t.index = (v.extractLsb' 0 32).toNat ∧ Standing t ∧
    ∀ x ∈ s.teams.vals, x.launch = g.launch → x.index = t.index → Standing x → x = t

/-- R324: LEVEL of a target pair, and the groups that it names. -/
def levelOf (v : Word64) : Nat := (v.extractLsb' 40 2).toNat
def NamesGroups (s : State) (u : Issuer) (v : Word64) (gids : List Nat) : Prop :=
  v.extractLsb' 42 22 = 0 ∧ v.extractLsb' 35 5 = 0 ∧
  ∃ t gid, NamesTeam s u v t ∧ t.groups[(v.extractLsb' 32 3).toNat]? = some gid ∧
  match levelOf v with
  | 0 => gids = [gid]
  | 1 => gids = t.groups
  | 2 => gids = contextOrder s u.l.ctx
  | _ => False

/-- R324: a target pair that names nothing, at any LEVEL: a field that is wrong, a team that is not there, or a g at or above G. -/
def NamesNothing (s : State) (u : Issuer) (v : Word64) : Prop :=
  v.extractLsb' 42 22 ≠ 0 ∨ v.extractLsb' 35 5 ≠ 0 ∨ levelOf v = 3 ∨
  ∀ t ∈ s.teams.vals, ∀ served g, u.l.handlerFor = some served → s.groups.get? served = some g →
    t.launch = g.launch → t.index = (v.extractLsb' 0 32).toNat → Standing t → t.groups[(v.extractLsb' 32 3).toNat]? = none

/-- R111: nothing of a group is in flight. -/
def NothingInFlight (s : State) (x : Issuer) : Prop :=
  x.g.anyPending = false ∧ x.g.d = [] ∧ (∀ p ∈ s.accesses, p.2.group ≠ x.gid) ∧ ∀ p ∈ s.deferred, p.2.group ≠ x.gid

/-- R324: a group that is stopped: parked at a trap, halted, or at its serial point. -/
def Stopped (s : State) (x : Issuer) : Prop :=
  x.g.status = .parked ∨ (x.g.status = .halted ∧ NothingInFlight s x) ∨
  ((x.g.status = .running ∨ x.g.status = .blocked) ∧ x.c.stage = .demoted ∧ NothingInFlight s x)

/-- R324, R325: the pair names one group, x, which is stopped. -/
def StoppedTarget (s : State) (u : Issuer) (v : Word64) (x : Issuer) : Prop :=
  levelOf v = 0 ∧ NamesGroups s u v [x.gid] ∧ issuerOf s x.gid = some x ∧ Stopped s x ∧ x.gid ≠ u.gid

/-! ## Items (R325) -/

/-- R325: KIND, INDEX and SUB of a selector. -/
def kindOf (w : Word) : Nat := (w.extractLsb' 28 4).toNat
def indexOf (w : Word) : Nat := (w.extractLsb' 16 12).toNat
def subOf (w : Word) : Nat := (w.extractLsb' 0 16).toNat

/-- Lane word n of a mask. -/
def laneWord (m : LaneMask) (n : Nat) : Word := m.extractLsb' (32 * n) 32

/-- R58, R59: a predicate as the record and the handler's own writes make it. -/
def recordedPred (g : Group) (k : Nat) : LaneMask :=
  match g.savedLive with
  | some saved => if g.plive.getLsbD k && (saved.getLsbD k || g.handlerWrote.contains k) then g.q.read k 0 else 0
  | none => g.q.read k 0

/-- R325: an item of the stack, counted from the top. -/
def stackField (g : Group) (n sub : Nat) : Word64 :=
  match g.stack[n]? with
  | none => if sub = 6 then 0xFFFF_FFFF else 0
  | some e => if sub = 0 then e.target else if sub = 5 then e.fmt.zeroExtend 64 else if sub = 6 then (if e.pending then 1 else 0)
      else (laneWord e.mask (sub - 1)).zeroExtend 64

/-- R325: the item that a selector names. -/
def itemAt (x : Issuer) (w : Word) : Option Word64 :=
  let n := indexOf w
  let sub := subOf w
  let words := (x.l.width + 31) / 32
  match kindOf w with
  | 0 => if n < x.l.regs ∧ sub < x.l.width then some ((x.g.vreg n sub).zeroExtend 64) else none
  | 1 => if n < x.l.sregs ∧ sub = 0 then some ((x.g.sreg n).zeroExtend 64) else none
  | 2 => if n < 8 ∧ sub < words then some ((laneWord (recordedPred x.g n) sub).zeroExtend 64) else none
  | 3 => if n < 8 ∧ sub < x.l.width then some ((x.g.xreg n sub).zeroExtend 64) else none
  | 4 => if n = 0 ∧ sub = 0 then some x.g.clause else if n = 0 ∧ sub = 1 then some (BitVec.ofNat 64 x.g.index) else none
  | 5 => if n = 0 ∧ sub < words then some ((laneWord x.g.active sub).zeroExtend 64) else none
  | 6 => if n = 0 ∧ sub = 0 then some (x.g.fmt.zeroExtend 64) else none
  | 7 => if n = 0 ∧ sub = 0 then some (x.g.fpstat.zeroExtend 64) else none
  | 8 => if n < 4 ∧ sub < x.l.width then some (((x.g.latches[n]?).bind fun e => e.elems.get? sub).getD (BitVec.ofNat 64 (2 ^ 63)))
      else none
  | 9 => if n < 8 ∧ sub = 0 then some (BitVec.ofNat 64 (x.g.counter n)) else none
  | 10 => if n < 32 ∧ sub < 7 then some (stackField x.g n sub) else none
  | 12 => if n = 0 ∧ sub = 0 then some (x.g.plive.zeroExtend 64) else none
  | _ => none

/-- R325: the kinds that a handler may write, and the values that they take. -/
def MayWrite (w : Word) (v : Word64) : Prop :=
  kindOf w ∈ [0, 1, 2, 3, 4, 6, 7, 12] ∧ (kindOf w = 4 → subOf w = 1 → v.toNat ≤ 16) ∧
  (kindOf w = 6 → FmtFits (v.truncate 32))

/-- R113, R325, R442: a group whose PC has been written. -/
def PcWritten (g : Group) (atClause : Bool) (v : Word64) (h : Group) : Prop :=
  let clause := if atClause then v else g.clause
  let index := if atClause then g.index else v.toNat
  h = { g with clause := clause, index := index, header := none, entered := false, addrNext := true, wait := none
               counted := false, status := if g.status = .blocked then .running else g.status
               latches := if atClause then [] else g.latches.take index
               suppressed := if clause = g.clause ∧ index = g.index then g.suppressed else none }

/-- R325: the group after an item of it has been written. -/
def ItemWritten (x : Issuer) (w : Word) (v : Word64) (g : Group) : Prop :=
  let n := indexOf w
  let sub := subOf w
  match kindOf w with
  | 0 => (∀ r l, l < 128 → g.vreg r l = (if r = n ∧ l = sub then v.truncate 32 else x.g.vreg r l) ∧
      g.vBad r l = (x.g.vBad r l && !(decide (r = n) && decide (l = sub)))) ∧
      g = { x.g with v := g.v, vPoison := g.vPoison }
  | 1 => (∀ r, g.sreg r = (if r = n then v.truncate 32 else x.g.sreg r) ∧ g.sBad r = (x.g.sBad r && decide (r ≠ n))) ∧
      g = { x.g with s := g.s, sPoison := g.sPoison }
  | 2 => (∀ l, l < x.l.width → (recordedPred g n).getLsbD l =
        (if l / 32 = sub then v.getLsbD (l % 32) && (x.g.plive.getLsbD n || x.g.savedLive.isNone)
         else (recordedPred x.g n).getLsbD l)) ∧
      (∀ k, k ≠ n → recordedPred g k = recordedPred x.g k) ∧ g = { x.g with q := g.q, handlerWrote := g.handlerWrote }
  | 3 => (∀ r l, l < 128 → g.xreg r l = if r = n ∧ l = sub then v.truncate 16 else x.g.xreg r l) ∧ g = { x.g with x := g.x }
  | 4 => PcWritten x.g (decide (sub = 0)) v g
  | 6 => g = { x.g with fmt := v.truncate 32 }
  | 7 => g = { x.g with fpstat := (v.extractLsb' 0 7).zeroExtend 32 }
  | 12 => g = { x.g with plive := v.truncate 8 }
  | _ => False

/-! ## Stopping and resuming (R326, R327, R442) -/

/-- R485: nothing of the memory that a handler, or its target, has used is still on its way: no core has written what is not at
its home, and the handler's accesses have performed. -/
def HandlerClean (s : State) (u : Issuer) : Prop := NoDirty s ∧ groupPerformed s u.gid = true

/-- R59: the predicates of a group that goes on from a record. -/
def PredicatesTaken (g h : Group) : Prop :=
  (∀ k, h.q.read k 0 = recordedPred g k) ∧ h.savedLive = none ∧ h.handlerWrote = []

/-- R113, R326, R442: a group goes on from a trap or a halt, at its index or, skipping it, at the next. -/
def GoesOn (g : Group) (skip : Bool) (ncount : Nat) (h : Group) : Prop :=
  let at_ := if skip then g.index + 1 else g.index
  PredicatesTaken g h ∧
  h = { g with q := h.q, savedLive := none, handlerWrote := [], status := .running, wait := none, trap := none, header := none
               addrNext := true, entered := false, suppressed := if skip then none else g.suppressed
               sound := if skip then none else g.sound, counted := g.counted && !skip
               clause := if ncount < at_ then g.clause + BitVec.ofNat 64 (8 * (ncount + 2)) else g.clause
               index := if ncount < at_ then 0 else at_
               latches := if ncount < at_ ∨ at_ = 0 then [] else g.latches }

/-- R85: the code where a group stands begins with a header; NCOUNT of it. -/
def HeaderAt (s : State) (x : Issuer) (n : Nat) : Prop :=
  ∃ h, CodeAt s x x.g.clause.toNat h ∧ headerFault h = none ∧ hdrNcount h = n

/-- R441: the traps of a group are served, and wait for no handler. -/
def Served (s t : State) (ctx gid : Nat) : Prop :=
  (∀ k, t.launches.get? k = (s.launches.get? k).map fun l => if l.handlerFor = some gid then { l with served := true } else l) ∧
  ∀ c x, s.contexts.get? c = some x → ∃ y, t.contexts.get? c = some y ∧
    y.trapQueue = if c = ctx then x.trapQueue.filter (fun k => decide (k ≠ gid)) else x.trapQueue

/-- R37, R165, R427: a group halted in mid-clause takes up its instruction again; the record of a tagged one says so. -/
def haltedHere (g : Group) : Group :=
  { g with status := .halted, wait := none, header := none, entered := (g.entered || g.header.isSome) && !g.addrNext
           sound := g.sound.map fun r => r ||| (1#512 <<< 206), haltAsked := false }

/-! ## Breakpoints (R328, R329, R417) -/

/-- R417: no other context of the tenant holds an enabled comparator. -/
def ComparatorsFree (s : State) (u : Issuer) : Prop :=
  ∀ p ∈ s.contexts, p.1 ≠ u.l.ctx → p.2.tenant = u.c.tenant →
    (∀ b ∈ p.2.breakpoints.vals, b.enabled = false) ∧ ∀ w ∈ p.2.watchpoints.vals, w.enabled = false

/-- R328: the arguments of bpset. -/
def BreakpointLegal (s : State) (u : Issuer) (a : Word) (addr : Word64) : Prop :=
  a.extractLsb' 21 11 = 0 ∧ a.extractLsb' 10 6 = 0 ∧ a.extractLsb' 2 6 = 0 ∧ a.extractLsb' 16 5 ≤ 16 ∧ addr.extractLsb' 0 3 = 0 ∧
  (a.getLsbD 8 = true → ComparatorsFree s u)

/-- R329: the arguments of wpset. -/
def WatchpointLegal (s : State) (u : Issuer) (a : Word) (n : Word) : Prop :=
  a.extractLsb' 14 18 = 0 ∧ a.getLsbD 11 = false ∧ a.extractLsb' 2 6 = 0 ∧ a.extractLsb' 12 2 ≤ 1 ∧
  (a.getLsbD 8 = true → a.extractLsb' 9 2 ≠ 0) ∧ n ≠ 0 ∧ n.toNat ≤ 2 ^ 31 ∧ (a.getLsbD 8 = true → ComparatorsFree s u)

/-- The group goes on, and its context changes as `ok` says. -/
def ContextDone (s : State) (u : Issuer) (ok : Context → Prop) (t : State) : Prop :=
  t = { s with groups := t.groups, contexts := t.contexts } ∧ OtherGroups s t u.gid ∧
  (∃ g, t.groups.get? u.gid = some g ∧ NextPlace u void g ∧ Only u g) ∧
  (∀ c, c ≠ u.l.ctx → t.contexts.get? c = s.contexts.get? c) ∧ ∃ y, t.contexts.get? u.l.ctx = some y ∧ ok y

/-! ## Calm mode (R375, R380) -/

/-- R375: the groups of a demoted context that can take a step. -/
def Runnable (s : State) (ctx : Nat) (x : Issuer) : Prop :=
  issuerOf s x.gid = some x ∧ x.l.ctx = ctx ∧ x.l.handlerFor = none ∧ x.g.status = .running ∧ x.t.status = .resident

/-- R375: the place of a group in the context order. -/
def placeInOrder (x : Issuer) : Nat × Nat := (x.l.accepted, logicalRank x.l x.t x.g)
def Earlier (a b : Nat × Nat) : Prop := a.1 < b.1 ∨ (a.1 = b.1 ∧ a.2 < b.2)

/-- R375: the next group to step: the first after the last one that did, or, where there is none, the first of all. -/
def StepsNext (s : State) (ctx : Nat) (last : Option (Nat × Nat)) (x : Issuer) : Prop :=
  Runnable s ctx x ∧
  ((∃ k, last = some k ∧ Earlier k (placeInOrder x) ∧
      ∀ y, Runnable s ctx y → y.gid ≠ x.gid → Earlier k (placeInOrder y) → Earlier (placeInOrder x) (placeInOrder y)) ∨
   ((∀ k, last = some k → ∀ y, Runnable s ctx y → ¬ Earlier k (placeInOrder y)) ∧
      ∀ y, Runnable s ctx y → y.gid ≠ x.gid → Earlier (placeInOrder x) (placeInOrder y)))

/-! ## Records and handlers (R436, R437, R440) -/

/-- R437: the first sixteen bytes of a record, its place in the code and its clock, from byte k on. -/
def recordWord (u : Issuer) (i : TrapInfo) (k : Nat) : Option Byte :=
  if k = 0 then some (i.sub.extractLsb' 0 8)
  else if k = 1 then some (i.sub.extractLsb' 8 8)
  else if k = 2 then some (BitVec.ofNat 8 i.cls.number)
  else if k = 4 then some (BitVec.ofNat 8 i.lane)
  else if k = 5 then some (BitVec.ofNat 8 u.l.ctx)
  else if k = 6 then some (BitVec.ofNat 8 u.c.tenant)
  else if k = 8 ∨ k = 9 then some (u.g.agent.extractLsb' (8 * (k - 8)) 8)
  else if 12 ≤ k ∧ k < 16 ∧ i.cls ≠ .debug then some (i.detail.extractLsb' (8 * (k - 12)) 8)
  else if 16 ≤ k ∧ k < 24 then some (u.g.clause.extractLsb' (8 * (k - 16)) 8)
  else if k = 24 then some (BitVec.ofNat 8 u.g.index)
  else if k = 25 then some u.g.plive
  else if 28 ≤ k ∧ k < 32 then some (u.g.fmt.extractLsb' (8 * (k - 28)) 8)
  else if 32 ≤ k ∧ k < 36 then some (u.g.fpstat.extractLsb' (8 * (k - 32)) 8)
  else if 40 ≤ k ∧ k < 44 then some (u.g.rc.extractLsb' (8 * (k - 40)) 8)
  else if 44 ≤ k ∧ k < 48 then some (BitVec.ofNat 8 (u.t.index / 256 ^ (k - 44)))
  else if 56 ≤ k ∧ k < 64 then some (u.g.ic.extractLsb' (8 * (k - 56)) 8)
  else if 80 ≤ k ∧ k < 96 then some (u.g.active.extractLsb' (8 * (k - 80)) 8)
  else if 96 ≤ k ∧ k < 112 then some (i.enabled.extractLsb' (8 * (k - 96)) 8)
  else none

/-- R436: the bytes of a record are in one page of memory that the device may write, whose leaf is marked as written. -/
def RecordRoom (s : State) (u : Issuer) (loc : Nat) : Prop :=
  let va := trapAreaAddr u.c u.g.trapArea
  va % 65536 + 4896 ≤ 65536 ∧ va + 4896 ≤ 2 ^ 57 ∧
  ∃ c k level leaf at_, walkVa s u.c.root va = .leaf level leaf at_ ∧ pteA leaf = true ∧ pteDirty leaf = true ∧
    walkXlate s u.c.root va kindWrite = .ok (.phys loc c k)

/-- The fields of a record fit their places. -/
def RecordFits (u : Issuer) (i : TrapInfo) : Prop :=
  i.lane < 256 ∧ u.c.tenant < 64 ∧ u.g.index < 256 ∧ u.g.stack.length < 256 ∧ u.t.index < 2 ^ 32 ∧ i.step < 2 ^ 64

/-- R441: no handler has been created. -/
def NoHandlers (s : State) : Prop := ∀ p ∈ s.launches, p.2.handlerFor = none

end Sys2Proof.Claims
end

