-- ==== Sys2Proof/Claims/Perform.lean ====
section
/-!
DEFINITION. What a lane does when it performs, and what it delivers when it returns (spec/04 R105, R106, R108; spec/06 R157,
R160; spec/07 R174, R178; spec/10 R261 to R271).
-/

namespace Sys2Proof.Claims

open Sys2Proof.Machine

/-! ## Targets -/

/-- The scope at which a lane's access acts (R176). -/
def scopeOf (u : Issuer) (a : Access) (la : LaneAccess) : Nat :=
  match la.target with
  | .team tid _ => if tid = u.g.team then 0 else Nat.min a.scope 1
  | _ => a.scope

/-- R160: the access is of a page whose CACHE lets the L1 hold it. -/
def cached : Target → Prop
  | .phys _ c _ => c = 0
  | _ => False

/-- R203: the page makes race checks. -/
def tracked : Target → Prop
  | .phys _ _ c => c = true
  | _ => False

/-- Byte k of a target: a team's memory; a location, as the core's L1 shows it or as its home holds it. -/
noncomputable def byteAt (s : State) (core : Nat) (l1 : Prop) (t : Target) (k : Nat) : Byte :=
  open Classical in
  match t with
  | .team tid off => (s.teams.get? tid).elim 0 fun x => teamByte x (off + k)
  | .phys loc _ _ => if l1 then coreByte s core (loc + k) else Memory.byte s.mem (loc + k)
  | .peer _ _ => 0

/-- The target is a team that stands, or locations apart from the race records of the carve-out. -/
def Placed (s : State) (u : Issuer) (t : Target) (n : Nat) : Prop :=
  match t with
  | .team tid _ => (s.teams.get? tid).isSome = true
  | .phys loc _ c => (c = false ∨ loc + n ≤ s.mbase) ∧ (s.cores.get? u.t.core).isSome = true
  | .peer _ _ => False

/-- n bytes at a target are those of v, in the L1 of the core or at their home, and every other byte is as before, but the race
records; of a byte whose line had to leave a full L1, the core then reads what memory holds (R12). -/
def Stored (s t : State) (u : Issuer) (l1 : Prop) (at_ : Target) (n : Nat) (v : Nat → Byte) : Prop :=
  match at_ with
  | .team tid off =>
    SameAll s t u ∧ (∀ k, k ≠ tid → (t.teams.get? k).map (·.mem) = (s.teams.get? k).map (·.mem)) ∧
    ∃ x y, s.teams.get? tid = some x ∧ t.teams.get? tid = some y ∧
      ∀ b, teamByte y b = if off ≤ b ∧ b < off + n then v (b - off) else teamByte x b
  | .phys loc _ _ =>
    (∀ k, (t.teams.get? k).map (·.mem) = (s.teams.get? k).map (·.mem)) ∧
    (l1 → SameAll s t u ∧ ∀ b, u.c.rmode = 0 ∨ b < s.mbase →
      if loc ≤ b ∧ b < loc + n then coreByte t u.t.core b = v (b - loc)
      else coreByte t u.t.core b = coreByte s u.t.core b ∨ coreByte t u.t.core b = Memory.byte s.mem b) ∧
    (¬ l1 → SameBut s t u loc n ∧ ∀ k, k < n → Memory.byte t.mem (loc + k) = v k)
  | .peer _ _ => False

/-- No byte of any team's memory, and no byte of memory but the race records, has changed. -/
def NothingStored (s t : State) (u : Issuer) : Prop :=
  SameAll s t u ∧ ∀ k, (t.teams.get? k).map (·.mem) = (s.teams.get? k).map (·.mem)

/-- The first lane of an access is now la. -/
def FirstIs (t : State) (aid : Nat) (la : LaneAccess) : Prop :=
  ∃ a, t.accesses.get? aid = some a ∧ a.lanes.head? = some la

/-- No access is frozen (R371). -/
def NoFrozen (s : State) : Prop := ∀ p ∈ s.accesses, p.2.frozen = false

/-- v has the n bytes that f gives, and nothing above them. -/
def HasBytes (v : BitVec 272) (n : Nat) (f : Nat → Byte) : Prop :=
  v.toNat < 2 ^ (8 * n) ∧ ∀ k, k < n → k < 34 → v.extractLsb' (8 * k) 8 = f k

/-- R160: where a read of a lane is served: by the L1, if it holds the page, and the access is no acquire beyond its team, nor a
checked one beyond it. -/
def servedByL1 (u : Issuer) (a : Access) (la : LaneAccess) (l1 : Bool) : Prop :=
  l1 = true ∧ cached la.target ∧ (scopeOf u a la = 0 ∨ (a.isAcquire = false ∧ ¬ tracked la.target))

/-- R160: whether a store of a lane stays in the L1. -/
def keptByL1 (u : Issuer) (a : Access) (la : LaneAccess) : Prop :=
  cached la.target ∧ scopeOf u a la = 0 ∧ a.isRelease = false

/-! ## Blocks (R131, R265 to R267) -/

/-- The first block of an access in flight, which may perform: elements and scale in the memory of teams, or at locations of
pages that make no race checks. -/
def FirstBlock (s : State) (aid : Nat) (a : Access) (u : Issuer) (la : LaneAccess) (va : Nat) (scaleAt : Target)
    (rest : List LaneAccess) : Prop :=
  s.accesses.get? aid = some a ∧ issuerOf s a.group = some u ∧ u.g.wait ≠ some (.checks aid) ∧ a.lanes = la :: rest ∧
  la.performed = false ∧
  (∀ x ∈ a.lanes, x.toPeer = false) ∧ la.tail = none ∧ la.scale = some (va, scaleAt) ∧ mayPerform s aid a la = true ∧
  lanePoisoned s u.t.core la = false ∧ la.size ≤ 32 ∧ ¬ tracked la.target ∧ ¬ tracked scaleAt

/-! ## Returning (R105, R106, R108) -/

/-- The first lane of an access has performed and returns; no race record is to be logged. -/
def Returning (s : State) (aid : Nat) (a : Access) (u : Issuer) (la : LaneAccess) (rest : List LaneAccess) : Prop :=
  s.accesses.get? aid = some a ∧ issuerOf s a.group = some u ∧ u.g.wait ≠ some (.checks aid) ∧ a.lanes = la :: rest ∧
  la.performed = true ∧
  (∀ x ∈ a.lanes, x.toPeer = false) ∧ a.race = none ∧ la.lane < 128 ∧ la.dest.Nodup ∧ la.poisoned = false

/-- R105, R106, R108: the lane leaves the access, and its group has what `ok` says; with its last lane the access ends: its
counter falls, its flags are set and its Sounding record ends. -/
def Returned (s : State) (aid : Nat) (a : Access) (u : Issuer) (rest : List LaneAccess) (ok : Group → Group → Prop) (out : Out) :
    Prop :=
  if rest = [] then
    ∃ t g h, out = .next (settle t) ∧ t = { s with groups := t.groups, contexts := t.contexts, accesses := t.accesses } ∧
      (∀ k, t.accesses.get? k = if k = aid then none else s.accesses.get? k) ∧ OtherGroups s t a.group ∧
      (∀ c, t.contexts.get? c =
        (s.contexts.get? c).map fun x => if c = u.l.ctx then { x with soundQ := x.soundQ ++ a.sound.toList } else x) ∧
      ok u.g h ∧ t.groups.get? a.group = some g ∧
      (∀ j, g.counter j = if j = a.counter then u.g.counter j - 1 else u.g.counter j) ∧
      g = { h with d := g.d, fpstat := u.g.fpstat ||| a.flags.zeroExtend 32 }
  else
    ∃ t h, out = .next t ∧ t = { s with groups := t.groups, accesses := t.accesses } ∧
      (∀ k, t.accesses.get? k = if k = aid then some { a with lanes := rest } else s.accesses.get? k) ∧
      OtherGroups s t a.group ∧ t.groups.get? a.group = some h ∧ ok u.g h

/-- Registers of the group that a delivery may change. -/
def OnlyDelivered (old g : Group) : Prop :=
  g = { old with v := g.v, s := g.s, vPending := g.vPending, sPending := g.sPending, vPoison := g.vPoison, sPoison := g.sPoison }

/-- R131: code i of a block, of b bits, zero-extended. -/
def blockElement (fmt : Nat) (v : BitVec 272) (i : Nat) : Word :=
  let b := if fmt = 5 ∨ fmt = 6 then 6 else if fmt = 7 then 4 else 8
  BitVec.ofNat 32 (v.toNat / 2 ^ (b * i) % 2 ^ b)

/-- R266: a block is delivered: each enabled lane of its lane word its code, and the scale to its scalar register. -/
def BlockDelivered (a : Access) (fmt scale : Nat) (la : LaneAccess) (v : BitVec 272) (old g : Group) : Prop :=
  let j := la.lane / 32
  let d := la.dest.headD 0
  (∀ n l, l < 128 →
    (g.vreg n l = if n = d ∧ l / 32 = j ∧ a.mask.getLsbD l = true then blockElement fmt v (l % 32) else old.vreg n l) ∧
    (g.vPend n l = (old.vPend n l && !(decide (n = d ∧ l / 32 = j) && a.mask.getLsbD l)))) ∧
  (∀ n, (g.sreg n = if n = scale + j then BitVec.ofNat 32 (v.extractLsb' 256 8).toNat else old.sreg n) ∧
    g.sPend n = (old.sPend n && decide (n ≠ scale + j))) ∧
  OnlyDelivered old g

end Sys2Proof.Claims
end

