-- ==== Sys2Proof/Claims/Ordered.lean ====
section
/-!
DEFINITION. What a deterministic launch puts in order: instructions held for the minimum, and buffered reductions (spec/13 R357 to
R366; spec/23 R473).
-/

namespace Sys2Proof.Claims

open Sys2Proof.Machine

/-- R360: the atomics that wait for the minimum: exchanges, and float additions that return. -/
def waitsForMinimum (op : AtomOp) : Prop :=
  op = .xchgB32 ∨ op = .xchgB64 ∨ op = .casB32 ∨ op = .casB64 ∨ op = .addF32 ∨ op = .addF16x2 ∨ op = .addBf16x2

/-- R363: the reductions that are buffered. -/
def isBuffered (op : RedOp) : Prop := op = .addF32 ∨ op = .addF16x2 ∨ op = .addBf16x2

/-- Every lane of a memory instruction that the group issues passes its checks with the access `acc`, and none goes to a peer. -/
def LanesReady (s : State) (u : Issuer) (m : MemOp) (acc : Nat → LaneAccess) : Prop :=
  u.g.counter (hdrSetd u.header) < 63 ∧ m.lanes ≠ [] ∧ (∀ l ∈ m.lanes, checkLane s u m l = .xlate (.ok (acc l))) ∧
  ∀ l ∈ m.lanes, (acc l).toPeer = false

/-- R360, R427: the group holds in place, its access taken up but not begun; the record of a tagged one says so. -/
def HeldForMinimum (s : State) (u : Issuer) (m : MemOp) (lanes : List LaneAccess) (t : State) : Prop :=
  t = { s with groups := t.groups, accesses := t.accesses, nextId := s.nextId + 1 } ∧ OtherGroups s t u.gid ∧
  (∀ k, k ≠ s.nextId → t.accesses.get? k = s.accesses.get? k) ∧
  t.groups.get? u.gid = some { u.g with status := .heldMinimum, wait := some (.minimum s.nextId), sound := u.g.sound.map fun r => r ||| (1#512 <<< 202) } ∧
  ∃ a, t.accesses.get? s.nextId = some a ∧ a.group = u.gid ∧ a.kind = m.kind ∧ a.space = m.space ∧ a.lanes = lanes ∧
    a.order = m.order ∧ a.scope = m.scope ∧ a.stamp = u.g.rc ∧ a.frozen = true

/-- Ascending order of triples. -/
def InOrder (a b : Nat × Nat × Nat) : Prop :=
  a.1 < b.1 ∨ (a.1 = b.1 ∧ (a.2.1 < b.2.1 ∨ (a.2.1 = b.2.1 ∧ a.2.2 ≤ b.2.2)))

/-- R358: the key of a group that is neither blocked nor halted, and that no eviction has saved. -/
def plainKey (x : Issuer) : Nat × Nat × Nat := (x.g.ic.toNat, x.t.index, x.g.g)

/-- R358, R361: no group of the grid, or without COGRID of the team, stands before u; none of them is blocked, halted or saved. -/
def IsMinimum (s : State) (u : Issuer) : Prop :=
  u.g.status ≠ .blocked ∧ ∀ x, issuerOf s x.gid = some x → x.g.launch = u.g.launch → (u.l.cogrid = true ∨ x.g.team = u.g.team) →
    x.g.status ≠ .blocked ∧ x.g.status ≠ .halted ∧ x.g.keptIC = none ∧ (x.g.status ≠ .retired → InOrder (plainKey u) (plainKey x))

/-- R360: an instruction of one lane is held, and may begin: its group stands at the minimum, with nothing else in flight; the lane
is in one piece and unpoisoned, and the context makes no checks that fault. -/
def HeldReady (s : State) (u : Issuer) (aid : Nat) (a : Access) (la : LaneAccess) : Prop :=
  issuerOf s u.gid = some u ∧ u.g.status = .heldMinimum ∧ u.g.wait = some (.minimum aid) ∧ u.g.header.isSome = true ∧
  s.accesses.get? aid = some a ∧ a.group = u.gid ∧ a.lanes = [la] ∧ la.performed = false ∧ la.toPeer = false ∧ la.tail = none ∧
  la.scale = none ∧ (∀ p ∈ s.accesses, p.1 < s.nextId ∧ (p.2.group = u.gid → p.1 = aid) ∧ p.2.checked = false) ∧ u.c.rmode ≠ 2 ∧
  lanePoisoned s u.t.core la = false ∧ IsMinimum s u ∧ s.accesses.sorted = true

/-- R105, R108: the group has issued the instruction: it counts, its counter has risen, its registers are pending. -/
def HeldIssued (u : Issuer) (a : Access) (la : LaneAccess) (g : Group) : Prop :=
  g.ic = u.g.ic + 1 ∧ g.status = .running ∧ g.wait = none ∧
  (∀ j, g.counter j = if j = hdrSetd u.header then u.g.counter j + 1 else u.g.counter j) ∧
  (∀ n l, l < 128 → g.vPend n l = (u.g.vPend n l || (!a.scalar && decide (n ∈ la.dest) && decide (l = la.lane)))) ∧
  ∀ n, g.sPend n = (u.g.sPend n || (a.scalar && decide (n ∈ la.dest)))

/-! ## The token (R364, R473) -/

/-- R364: the team that holds the token of a DET launch. -/
def HoldsToken (s : State) (lid : Nat) (l : Launch) (tid : Nat) (x : Team) : Prop :=
  s.launches.get? lid = some l ∧ l.det = true ∧ s.teams.get? tid = some x ∧ x.launch = lid ∧ x.index = l.token ∧
  x.status ≠ .restarting ∧ s.teams.sorted = true ∧
  ∀ p ∈ s.teams, p.2.launch = lid → p.2.index = l.token → p.2.status ≠ .restarting → p.1 = tid

/-- R364: the entry that drains next: the least by group, IC and lane, once the lower groups of the team have retired. -/
def DrainsNext (s : State) (x : Team) (e : RedEntry) : Prop :=
  e ∈ x.reds ∧ (∀ d ∈ x.reds, d ≠ e → InOrder (e.g, e.ic, e.lane) (d.g, d.ic, d.lane) ∧ (e.g, e.ic, e.lane) ≠ (d.g, d.ic, d.lane)) ∧
  ∀ gid ∈ x.groups, ∀ g, s.groups.get? gid = some g → g.g < e.g → g.status = .retired

/-- An entry of one lane whose access may be made at once. -/
def EntryPlain (s : State) (e : RedEntry) (u : Issuer) (op : AtomOp) (la : LaneAccess) : Prop :=
  issuerOf s e.access.group = some u ∧ e.access.kind = .rmw op false ∧ e.access.lanes = [la] ∧ la.performed = false ∧
  la.toPeer = false ∧ la.tail = none ∧ la.scale = none ∧ la.size = atomBytes op ∧ e.access.order = 0 ∧ e.access.checked = false ∧
  e.access.counter = 8 ∧ e.access.frozen = false ∧ e.access.race = none ∧ e.access.sound = none ∧ u.c.rmode = 0 ∧
  (∀ p ∈ s.accesses, p.1 < s.nextId ∧ p.2.group ≠ e.access.group) ∧ lanePoisoned s u.t.core la = false

/-- R364, R473: the launch after its token has passed. -/
def TokenPassed (l : Launch) (x : Team) (m : Launch) : Prop :=
  m = { l with token := l.token + 1, tokenBroken := l.tokenBroken || x.lostEntries || decide (0 < x.killed) }

end Sys2Proof.Claims
end

