-- ==== Sys2Proof/Machine/Ordering.lean ====
section
/-!
DEFINITION. Which values a read may return (spec/07 R174 to R193): the events of an execution, the relations among them, the
axioms that every execution satisfies, and data races. The machine of Step.lean orders its accesses operationally (log entry
1); this file says the rules over executions. Where their words leave a choice, see log entry 87.
-/

namespace Sys2Proof.Ordering

/-! ## Locations, scopes and agents -/

/-- R174: a location is one byte. A team's memory is a space of its own (R152). -/
inductive Location
  | global (a : Nat)
  | team (team off : Nat)
  deriving DecidableEq, Repr

/-- The address of a location in its space. -/
def Location.place : Location → Nat
  | .global a => a
  | .team _ off => off

/-- Team memory is reached by its own team, and in cluster space. -/
def Location.isGlobal : Location → Bool
  | .global _ => true
  | .team _ _ => false

/-- R175. -/
inductive Scope | team | cluster | device | system
  deriving DecidableEq, Repr

/-- R91: the field SCOPE. -/
def Scope.ofField (f : BitVec 2) : Scope :=
  if f = 0 then .team else if f = 1 then .cluster else if f = 2 then .device else .system

/-- Device or system scope. -/
def Scope.wide : Scope → Bool
  | .team | .cluster => false
  | .device | .system => true

/-- R31, R32, R175: a group, with its team and its cluster; an engine acting for a group; an engine with a slot number of its
own; an agent of the host; a peer Henzar. -/
inductive Agent
  | group (id team cluster : Nat)
  | engineFor (id team cluster : Nat)
  | engine (slot : Nat)
  | host (n : Nat)
  | peer (device : Nat)
  deriving DecidableEq, Repr

/-- The team and the cluster of an agent that has them. -/
def Agent.home : Agent → Option (Nat × Nat)
  | .group _ t c | .engineFor _ t c => some (t, c)
  | .engine _ | .host _ | .peer _ => none

/-- An agent of this Henzar. -/
def Agent.here : Agent → Bool
  | .group _ _ _ | .engineFor _ _ _ | .engine _ => true
  | .host _ | .peer _ => false

/-- R180: only groups have a program order. -/
def Agent.isGroup : Agent → Bool
  | .group _ _ _ => true
  | .engineFor _ _ _ | .engine _ | .host _ | .peer _ => false

/-- R177: engine accesses form no morally strong pair. -/
def Agent.isEngine : Agent → Bool
  | .engineFor _ _ _ | .engine _ => true
  | .group _ _ _ | .host _ | .peer _ => false

/-- R175: the scope, taken with respect to agent a, includes agent b. -/
def includes (s : Scope) (a b : Agent) : Bool :=
  a == b ||
  match s with
  | .team => a.home.isSome && a.home.map (·.1) == b.home.map (·.1)
  | .cluster => a.home.isSome && a.home.map (·.2) == b.home.map (·.2)
  | .device => b.here
  | .system => true

/-- Each scope includes the other's agent. -/
def eachIncludes (s : Scope) (a : Agent) (t : Scope) (b : Agent) : Bool := includes s a b && includes t b a

/-! ## Events -/

/-- R183, R184: a barrier, or an arrival set of a team, and one of its phases. -/
structure Phase where
  which : Nat
  number : Nat
  deriving DecidableEq, Repr

/-- R174, R183: what an event is. A barrier instruction that both arrives and waits is two events of one instruction, its
arrival before its completion (R184). -/
inductive Kind
  | load | store | rmw
  | monitor
  | engineRead | engineWrite
  | fence
  | arrival (p : Phase) | completion (p : Phase)
  | delivery (p : Phase) | delivered (p : Phase)
  | batchWait
  deriving DecidableEq, Repr

/-- R181: an element that holds a value between instructions: a register, and the lane. -/
structure Slot where
  register : Nat
  lane : Nat
  deriving DecidableEq, Repr

/-- R178: the rows of its table: a lane's access of up to 8 bytes, one of 16 bytes, an MX block, data that a copy, a collective
or an `fput` moves, MX blocks that an engine moves, and what `accst` and `hzstore` write. -/
inductive Row
  | upTo8 | b128 | block | plain | blocks | stored
  deriving DecidableEq, Repr

/-- R178: the unit of a row: none where the access is one unit, and n where each naturally aligned n bytes are. -/
def Row.unit : Row → Option Nat
  | .upTo8 | .block | .blocks => none
  | .b128 => some 8
  | .plain | .stored => some 4

/-- R174: an event. issue counts the instructions of the group as they are issued; lane orders the events of one instruction
(R180). row is that of R178 for the access. An MX block access
is one event over its elements and its scale (R192); an engine entry makes one event per unit (R178). covers are the entries
of the batches that a wait covers. results and operands are the elements that the event's result is written to and that its
data and address come from (R181). -/
structure Event where
  agent : Agent
  issue : Nat
  lane : Nat
  kind : Kind
  bytes : List Location
  row : Row
  release : Bool
  acquire : Bool
  promotes : Bool
  suffix : Scope
  entry : Option Nat
  covers : List Nat
  results : List Slot
  operands : List Slot
  deriving DecidableEq, Repr

/-- R174: the event reads. -/
def Event.reads (e : Event) : Bool :=
  match e.kind with
  | .load | .rmw | .monitor | .engineRead => true
  | .store | .engineWrite | .fence | .arrival _ | .completion _ | .delivery _ | .delivered _ | .batchWait => false

/-- R174, R184: the event writes; a delivery is the write of a source's bytes. -/
def Event.writes (e : Event) : Bool :=
  match e.kind with
  | .store | .rmw | .engineWrite | .delivery _ => true
  | .load | .monitor | .engineRead | .fence | .arrival _ | .completion _ | .delivered _ | .batchWait => false

/-- R176: the scope at which an event acts. -/
def Event.scope (e : Event) : Scope :=
  match e.bytes with
  | .team t _ :: _ => if e.agent.home.map (·.1) = some t ∨ e.suffix = .team then .team else .cluster
  | _ => e.suffix

/-- R174: the two share a byte and at least one writes. -/
def conflict (e f : Event) : Bool := e.bytes.any (fun b => b ∈ f.bytes) && (e.writes || f.writes)

/-- R177: the synchronising accesses. -/
def Event.synchronising (e : Event) : Bool :=
  match e.kind with
  | .rmw => true
  | .load => e.acquire
  | .store => e.release
  | .monitor | .engineRead | .engineWrite | .fence | .arrival _ | .completion _ | .delivery _ | .delivered _ | .batchWait => false

/-- R177: a morally strong pair. -/
def strong (e f : Event) : Bool :=
  e.synchronising && f.synchronising && e.bytes == f.bytes && eachIncludes e.scope e.agent f.scope f.agent &&
    !e.agent.isEngine && !f.agent.isEngine

/-- R178: two bytes of one unit of the access. -/
def Event.sameUnit (e : Event) (b c : Location) : Bool :=
  b ∈ e.bytes && c ∈ e.bytes &&
  match e.row.unit with
  | none => true
  | some n => b.place / n == c.place / n

/-- R183: what the order of an instruction makes its event. -/
structure Ordered where
  release : Bool
  acquire : Bool
  promotes : Bool
  scope : Scope
  deriving DecidableEq, Repr

/-- R91, R183: the release and acquire events, by instruction; none for an instruction that makes no event of its group. -/
def ordered : Instr → Option Ordered
  | .ld _ _ f | .ldmx _ f => some ⟨false, f.order == 1 || f.order == 2, f.order == 2, .ofField f.scope⟩
  | .st _ _ f | .stmx _ f => some ⟨f.order == 2, false, false, .ofField f.scope⟩
  | .atom _ _ f | .red _ f | .fence f => some ⟨f.order == 2 || f.order == 3, f.order == 1 || f.order == 3, false, .ofField f.scope⟩
  | .bar _ => some ⟨true, true, false, .team⟩
  | .barc _ => some ⟨true, true, false, .cluster⟩
  | .barg _ => some ⟨true, true, false, .device⟩
  | .barp _ => some ⟨true, true, false, .system⟩
  | .monwait _ => some ⟨false, true, false, .device⟩
  | .arvwait _ => some ⟨false, true, false, .system⟩
  | .cpwait _ | .cpwaitImm _ | .mmwait _ | .mmwaitImm _ => some ⟨false, true, false, .team⟩
  | _ => none

/-- R183: arrive and await take the scope of the barrier that they name (R276: 0 team, 1 cluster, 2 grid). -/
def orderedAt (barrier : Scope) : Instr → Option Ordered
  | .arrive _ => some ⟨true, false, false, barrier⟩
  | .await _ => some ⟨false, true, false, barrier⟩
  | i => ordered i

/-! ## Executions -/

/-- R181: an instruction as issued: the elements that it writes, and which of them take a value from which. -/
structure Issued where
  written : List Slot
  flows : List (Slot × Slot)
  deriving DecidableEq, Repr

/-- R186: an engine entry: the groups that issue it, each with the count of its issuing instruction, and, of an accst or
hzstore, the group and the counts of the instructions of the first clause that issues after its completion with its counter in
WAITD, from the first up to and without the second. -/
structure Entry where
  issuers : List (Agent × Nat)
  settled : Option (Agent × Nat × Nat)
  deriving DecidableEq, Repr

/-- What is done: the events, named by their places in the list; the engine entries; and the instructions of each group. -/
structure Program where
  events : List Event
  entries : List Entry
  issued : List (Agent × List Issued)
  deriving DecidableEq, Repr

/-- R182, R188: a program, and what its events found: of each byte the writes in the order co, after the initial one; the
write that each read takes each byte from, none for the initial one; and the fence order. -/
structure Execution where
  program : Program
  co : Location → List Nat
  source : Nat → Location → Option Nat
  fences : List Nat

/-- The event of a name has p. -/
def Execution.one (x : Execution) (p : Event → Bool) (i : Nat) : Bool := (x.program.events[i]?).elim false p

/-- The events of two names have p. -/
def Execution.two (x : Execution) (p : Event → Event → Bool) (i j : Nat) : Bool := x.one (fun e => x.one (p e) j) i

/-- The names of the events. -/
def Execution.names (x : Execution) : List Nat := List.range x.program.events.length

/-- The bytes of the accesses. -/
def Execution.locations (x : Execution) : List Location := x.program.events.flatMap (·.bytes)

/-- The event reads byte b. -/
def Execution.readsAt (x : Execution) (b : Location) (i : Nat) : Bool := x.one (fun e => e.reads && (b ∈ e.bytes)) i

/-- The event writes byte b. -/
def Execution.writesAt (x : Execution) (b : Location) (i : Nat) : Bool := x.one (fun e => e.writes && (b ∈ e.bytes)) i

/-! ## Relations -/

/-- R180: program order. -/
def Execution.po (x : Execution) : Nat → Nat → Bool :=
  x.two fun e f => e.agent == f.agent && e.agent.isGroup && (e.issue < f.issue || (e.issue == f.issue && e.lane < f.lane))

/-- R181: the elements that hold, after the instructions of the list, what the elements held before them. -/
def reached (held : List Slot) (l : List Issued) : List Slot :=
  l.foldl (fun h i => h.filter (fun s => !(s ∈ i.written)) ++ (i.flows.filter (fun f => f.1 ∈ h)).map (·.2)) held

/-- R181: a dependency. -/
def Execution.dep (x : Execution) (i j : Nat) : Bool :=
  x.po i j && x.two (fun e f => e.reads && f.writes &&
    let between := (((x.program.issued.lookup e.agent).getD []).drop (e.issue + 1)).take (f.issue - e.issue - 1)
    (reached e.results between).any (fun s => s ∈ f.operands)) i j

/-- R182: where a write of byte b stands in co; the initial write first. -/
def Execution.rank (x : Execution) (b : Location) : Option Nat → Nat
  | none => 0
  | some w => (x.co b).idxOf w + 1

/-- R182: one write of byte b stands before another in co. -/
def Execution.coAt (x : Execution) (b : Location) (v w : Nat) : Bool :=
  x.writesAt b v && x.writesAt b w && x.rank b (some v) < x.rank b (some w)

/-- R182: the read takes byte b from the write. -/
def Execution.rfAt (x : Execution) (b : Location) (w r : Nat) : Bool := x.readsAt b r && x.source r b == some w

/-- R182: the write comes after the one that the read takes byte b from. A read-modify-write does not stand before itself. -/
def Execution.frAt (x : Execution) (b : Location) (r w : Nat) : Bool :=
  x.readsAt b r && x.writesAt b w && r != w && x.rank b (x.source r b) < x.rank b (some w)

/-- A relation of some byte. -/
def Execution.somewhere (x : Execution) (p : Location → Nat → Nat → Bool) (i j : Nat) : Bool := x.locations.any (fun b => p b i j)

/-- R184: w is in the release sequence of the write a of byte b. -/
def Execution.inSequence (x : Execution) (b : Location) (a w : Nat) : Bool :=
  w == a || (x.coAt b a w && (x.one (fun e => e.kind == .rmw) w || x.two (fun e f => e.agent == f.agent) a w))

/-- The read takes some byte from the release write or from its release sequence. -/
def Execution.takesRelease (x : Execution) (a r : Nat) : Bool :=
  x.locations.any fun b => x.writesAt b a && x.names.any fun w => x.rfAt b w r && x.inSequence b a w

/-- R184, case 1: a release write and an acquire read. -/
def Execution.swAccess (x : Execution) (i j : Nat) : Bool :=
  x.two (fun e f => e.release && e.writes && f.acquire && f.reads && strong e f) i j && x.takesRelease i j

/-- R184, case 2: a release fence and an acquire read of a write after it, or a release write and an acquire fence after a
read of it. -/
def Execution.swFence (x : Execution) (i j : Nat) : Bool :=
  x.two (fun e f => eachIncludes e.scope e.agent f.scope f.agent) i j &&
  ((x.two (fun e f => e.kind == .fence && e.release && f.acquire && f.reads) i j &&
      x.names.any fun w => x.po i w && x.somewhere x.rfAt w j) ||
   (x.two (fun e f => e.release && e.writes && f.kind == .fence && f.acquire) i j &&
      x.names.any fun r => x.po r j && x.takesRelease i r))

/-- R184, cases 3 and 4: an arrival and a completion of one phase of a barrier; a delivery and the wait that completes its
phase. -/
def Execution.swPhase (x : Execution) : Nat → Nat → Bool :=
  x.two fun e f =>
    match e.kind, f.kind with
    | .arrival p, .completion q => p == q
    | .delivery p, .delivered q => p == q
    | _, _ => false

/-- R185: promotion. -/
def Execution.swPromotion (x : Execution) (i j : Nat) : Bool :=
  x.two (fun e f => e.release && e.writes && e.scope == .team && f.kind == .load && f.promotes && f.scope == .device) i j &&
    x.takesRelease i j

/-- R188: two fences that release and acquire, whose scopes include one another's agents. -/
def Execution.fencePair (x : Execution) : Nat → Nat → Bool :=
  x.two fun e f => e.kind == .fence && f.kind == .fence && e.release && e.acquire && f.release && f.acquire &&
    eachIncludes e.scope e.agent f.scope f.agent

/-- R188: the first precedes the second in fence order. -/
def Execution.swOrder (x : Execution) (i j : Nat) : Bool :=
  x.fencePair i j && x.fences.idxOf i < x.fences.idxOf j

/-- R184, R185, R188: synchronises-with. -/
def Execution.sw (x : Execution) (i j : Nat) : Bool :=
  x.swAccess i j || x.swFence i j || x.swPhase i j || x.swPromotion i j || x.swOrder i j

/-- R186: what orders a group and the accesses of its engine entries. -/
def Execution.eng (x : Execution) : Nat → Nat → Bool :=
  x.two fun e f =>
    (e.release && e.agent.isGroup && (f.entry.bind (fun k => x.program.entries[k]?)).elim false
      (fun n => n.issuers.any fun u => u.1 == e.agent && e.issue < u.2)) ||
    (f.kind == .batchWait && e.entry.elim false (fun k => k ∈ f.covers)) ||
    ((e.entry.bind (fun k => x.program.entries[k]?)).elim false fun n =>
      n.settled.elim false fun u => f.agent == u.1 && u.2.1 ≤ f.issue && f.issue < u.2.2)

/-- One edge of happens-before. -/
def Execution.hbEdge (x : Execution) (i j : Nat) : Bool := x.po i j || x.sw i j || x.eng i j

/-- R187: happens-before. -/
def Execution.hb (x : Execution) : Nat → Nat → Prop := Relation.TransGen fun i j => x.hbEdge i j = true

/-- R189: preserved program order. -/
def Execution.ppo (x : Execution) (i j : Nat) : Bool :=
  x.po i j && x.two (fun e f => !e.bytes.isEmpty && !f.bytes.isEmpty) i j &&
  (x.one (fun e => e.acquire && e.scope.wide) i ||
   x.one (fun f => f.release && f.scope.wide) j ||
   (x.names.any fun k => x.po i k && x.po k j && x.one (fun n => n.kind == .fence && n.scope.wide) k &&
     ((x.one (·.acquire) k && x.one (·.reads) i) || (x.one (·.release) k && x.one (·.writes) j))) ||
   x.dep i j ||
   x.two (fun e f => e.bytes.any fun b => b ∈ f.bytes) i j)

/-! ## Axioms -/

/-- A relation without a cycle. -/
def Acyclic (r : Nat → Nat → Prop) : Prop := ∀ i, ¬ Relation.TransGen r i i

/-- R190: the global-space accesses whose scope is device or system. -/
def Event.visible (e : Event) : Bool := !e.bytes.isEmpty && e.bytes.all (·.isGlobal) && e.scope.wide

/-- R178, R182, R188: what makes the orders of an execution orders: co of a byte holds its writes, each once; a read takes what
a write wrote; the fence order holds the fences that release and acquire; and a unit is written in one order and read wholly
from before or from after each write. -/
structure WellFormed (x : Execution) : Prop where
  order : ∀ b ∈ x.locations, (x.co b).Nodup ∧ ∀ w, w ∈ x.co b ↔ x.writesAt b w = true
  taken : ∀ b ∈ x.locations, ∀ r w, x.readsAt b r = true → x.source r b = some w → x.writesAt b w = true ∧ w ≠ r
  fenced : x.fences.Nodup ∧ ∀ i, i ∈ x.fences ↔ x.one (fun e => e.kind == .fence && e.release && e.acquire) i = true
  written : ∀ b ∈ x.locations, ∀ c ∈ x.locations, ∀ v w, x.one (fun e => e.writes && e.sameUnit b c) v = true →
    x.one (fun e => e.writes && e.sameUnit b c) w = true → x.coAt b v w = x.coAt c v w
  whole : ∀ b ∈ x.locations, ∀ c ∈ x.locations, ∀ r w, x.one (fun e => e.reads && e.sameUnit b c) r = true →
    x.one (fun e => e.writes && e.sameUnit b c) w = true →
    (x.rank b (some w) ≤ x.rank b (x.source r b) ↔ x.rank c (some w) ≤ x.rank c (x.source r c))

/-- R190, Coherence. -/
def Coherence (x : Execution) : Prop :=
  ∀ b ∈ x.locations, Acyclic fun i j =>
    (x.hb i j ∧ x.one (fun e => b ∈ e.bytes) i = true ∧ x.one (fun e => b ∈ e.bytes) j = true) ∨
    x.rfAt b i j = true ∨ x.coAt b i j = true ∨ x.frAt b i j = true

/-- R182, R190, Atomicity: a read-modify-write reads from the write directly before its own. -/
def Atomicity (x : Execution) : Prop :=
  ∀ b ∈ x.locations, ∀ m, x.readsAt b m = true → x.writesAt b m = true → x.rank b (some m) = x.rank b (x.source m b) + 1

/-- R190, Causality. -/
def Causality (x : Execution) : Prop := Acyclic x.hb

/-- R190, No thin air. -/
def NoThinAir (x : Execution) : Prop := Acyclic fun i j => x.dep i j = true ∨ x.somewhere x.rfAt i j = true

/-- R190, Device visibility. -/
def DeviceVisibility (x : Execution) : Prop :=
  Acyclic fun i j => x.two (fun e f => e.visible && f.visible) i j = true ∧
    (x.ppo i j = true ∨ x.somewhere x.rfAt i j = true ∨ x.somewhere x.coAt i j = true ∨ x.somewhere x.frAt i j = true)

/-- R190: what every execution of the Henzar satisfies. -/
structure Consistent (x : Execution) : Prop where
  wellFormed : WellFormed x
  coherence : Coherence x
  atomicity : Atomicity x
  causality : Causality x
  noThinAir : NoThinAir x
  deviceVisibility : DeviceVisibility x

/-- R191: a data race. -/
def Race (x : Execution) (i j : Nat) : Prop :=
  x.two (fun e f => conflict e f && e.agent != f.agent && !strong e f) i j = true ∧ ¬ x.hb i j ∧ ¬ x.hb j i

end Sys2Proof.Ordering
end

