-- ==== Sys2Proof/Claims/Ordering.lean ====
section
/-!
DEFINITION. The tests of spec/07's catalogue, as programs of events, and what their loads see. Word x is at 0x1000 and word y
at 0x2000; every party's group is a scalar one.
-/

namespace Sys2Proof.Litmus

open Sys2Proof.Ordering

/-- The four bytes of a word. -/
def word (a : Nat) : List Location := (List.range 4).map fun k => .global (a + k)

/-- The four bytes of a word of a team's memory. -/
def teamWord (t a : Nat) : List Location := (List.range 4).map fun k => .team t (a + k)

/-- A relaxed event of no scope narrower than the device. -/
def plain (a : Agent) (n : Nat) (k : Kind) (l : List Location) : Event :=
  ⟨a, n, 0, k, l, .upTo8, false, false, false, .device, none, [], [], []⟩

/-- A relaxed load. -/
def load (a : Agent) (n : Nat) (l : List Location) : Event := plain a n .load l

/-- A load with .acq. -/
def loadAcq (a : Agent) (n : Nat) (s : Scope) (l : List Location) : Event := { plain a n .load l with acquire := true, suffix := s }

/-- A relaxed store. -/
def store (a : Agent) (n : Nat) (l : List Location) : Event := plain a n .store l

/-- A store with .rel. -/
def storeRel (a : Agent) (n : Nat) (s : Scope) (l : List Location) : Event := { plain a n .store l with release := true, suffix := s }

/-- A fence. -/
def fenceOf (a : Agent) (n : Nat) (rel acq : Bool) (s : Scope) : Event :=
  { plain a n .fence [] with release := rel, acquire := acq, suffix := s }

/-- Events of no engine entry and no dependency. -/
def events (l : List Event) : Program := ⟨l, [], []⟩

/-- Every byte of the load's word is from the write; none is the initial one. -/
def Sees (x : Execution) (r : Nat) (l : List Location) (w : Option Nat) : Prop := ∀ b ∈ l, x.source r b = w

/-- An outcome that some execution shows. -/
def Allowed (p : Program) (o : Execution → Prop) : Prop := ∃ x : Execution, x.program = p ∧ Consistent x ∧ o x

/-- An outcome that no execution shows. -/
def Forbidden (p : Program) (o : Execution → Prop) : Prop := ∀ x : Execution, x.program = p → Consistent x → ¬ o x

/-- Word x. -/
def wordX : List Location := word 0x1000

/-- Word y. -/
def wordY : List Location := word 0x2000

/-- A group of team 0, in cluster 0. -/
def groupP : Agent := .group 0 0 0

/-- Another group of that team; of another team of its cluster; and of three teams of other clusters. -/
def sameTeam : Agent := .group 1 0 0
def sameCluster : Agent := .group 2 1 0
def farAway : Agent := .group 3 2 1
def further : Agent := .group 4 3 2
def furthest : Agent := .group 5 4 3

/-- Message passing: P stores x and then y; Q loads y and then x. -/
def messagePassing (q : Agent) (release : Event) (acquire : Event) : Program :=
  events [store groupP 0 wordX, release, acquire, load q 1 wordX]

/-- Message passing with a release and an acquire of these scopes. -/
def scopedPassing (q : Agent) (s t : Scope) : Program := messagePassing q (storeRel groupP 1 s wordY) (loadAcq q 0 t wordY)

/-- Q sees the flag, and not the data. -/
def FlagWithoutData (x : Execution) : Prop := Sees x 2 wordY (some 1) ∧ Sees x 3 wordX none

/-- Promotion: P1 and P2 are of one team; Q is on another die. -/
def promotion (promoted : Bool) : Program :=
  events [store groupP 0 wordX, storeRel groupP 1 .team (word 0x3000), loadAcq sameTeam 0 .team (word 0x3000),
    storeRel sameTeam 1 .team wordY, { loadAcq farAway 0 .device wordY with promotes := promoted }, load farAway 1 wordX]

/-- Both flags are seen, and not the data. -/
def PromotedWithoutData (x : Execution) : Prop := Sees x 2 (word 0x3000) (some 1) ∧ Sees x 4 wordY (some 3) ∧ Sees x 5 wordX none

/-- Store buffering, with a fence of each party between its store and its load, or with none. -/
def storeBuffering (fence : Agent → Option Event) : Program :=
  events ([store groupP 0 wordX, store farAway 0 wordY, load groupP 2 wordY, load farAway 2 wordX] ++
    (fence groupP).toList ++ (fence farAway).toList)

/-- Neither party's load sees the other's store. -/
def NeitherStore (x : Execution) : Prop := Sees x 2 wordY none ∧ Sees x 3 wordX none

/-- Load buffering: each store's data is its party's constant, or what its load has read. -/
def loadBuffering (dependent : Bool) : Program :=
  let s (k : Nat) : List Slot := if dependent then [⟨k, 0⟩] else []
  { events := [{ load groupP 0 wordX with results := [⟨20, 0⟩] }, { store groupP 1 wordY with operands := s 20 },
      { load farAway 0 wordY with results := [⟨21, 0⟩] }, { store farAway 1 wordX with operands := s 21 }],
    entries := [],
    issued := [(groupP, [⟨[⟨20, 0⟩], []⟩, ⟨[], []⟩]), (farAway, [⟨[⟨21, 0⟩], []⟩, ⟨[], []⟩])] }

/-- Each load sees the other party's later store. -/
def BothLater (x : Execution) : Prop := Sees x 0 wordX (some 3) ∧ Sees x 2 wordY (some 1)

/-- Independent reads of independent writes. -/
def independentReads (first : Agent → List Location → Event) : Program :=
  events [store groupP 0 wordX, store farAway 0 wordY, first further wordX, load further 1 wordY, first furthest wordY,
    load furthest 1 wordX]

/-- The readers see the two writes in opposite orders. -/
def OppositeOrders (x : Execution) : Prop :=
  Sees x 2 wordX (some 0) ∧ Sees x 3 wordY none ∧ Sees x 4 wordY (some 1) ∧ Sees x 5 wordX none

/-- P stores to x twice; Q loads x twice. -/
def readsOfOne : Program := events [store groupP 0 wordX, store groupP 1 wordX, load farAway 0 wordX, load farAway 1 wordX]

/-- P stores to x, copies x to its team's memory and loads it there, with a release between or with none. -/
def freshCopy (fence : Bool) : Program :=
  let engine : Agent := .engineFor 0 0 0
  { events := [store groupP 0 wordX, { plain engine 0 .engineRead wordX with row := .plain, entry := some 0 },
      { plain engine 0 .engineWrite (teamWord 0 0x100) with row := .plain, entry := some 0 },
      { plain groupP 4 .batchWait [] with acquire := true, suffix := .team, covers := [0] }, load groupP 5 (teamWord 0 0x100)] ++
      if fence then [fenceOf groupP 1 true false .team] else [],
    entries := [⟨[(groupP, 2)], none⟩], issued := [] }

/-- The load has what x held before the store. -/
def Stale (x : Execution) : Prop :=
  Sees x 4 (teamWord 0 0x100) none ∨ (Sees x 4 (teamWord 0 0x100) (some 2) ∧ Sees x 1 wordX none)

/-- The 32 elements of a block, and its scale elsewhere (R192). -/
def blockBytes : List Location := ((List.range 32).map fun k => .global (0x1000 + k)) ++ [.global 0x2000]

/-- P stores a block; Q loads it. -/
def blockPassing : Program := events [{ store groupP 0 blockBytes with row := .block }, { load farAway 0 blockBytes with row := .block }]

/-- Some of the block is new and some is old. -/
def Torn (x : Execution) : Prop := ∃ b ∈ blockBytes, ∃ c ∈ blockBytes, x.source 1 b = some 0 ∧ x.source 1 c = none

/-- What stands between the store to a B operand in team memory and the gang's mma. -/
inductive Between | bars | nothing | ownStore | ownFence
  deriving DecidableEq, Repr

/-- A gang of two groups, one of which stores the B operand before the gang's mma reads it. -/
def operandB (b : Between) : Program :=
  let writer := if b = .ownStore ∨ b = .ownFence then groupP else sameTeam
  let half (a : Agent) : List Event :=
    [{ plain a 1 (.arrival ⟨0, 1⟩) [] with release := true, suffix := .team },
     { plain a 1 (.completion ⟨0, 1⟩) [] with lane := 1, acquire := true, suffix := .team }]
  { events := [store writer 0 (teamWord 0 0x100),
      { plain (.engineFor 0 0 0) 0 .engineRead (teamWord 0 0x100) with row := .blocks, entry := some 0 }] ++
      (if b = .bars then half groupP ++ half sameTeam else []) ++
      (if b = .ownFence then [fenceOf groupP 1 true false .team] else []),
    entries := [⟨[(groupP, 2), (sameTeam, 2)], none⟩], issued := [] }

/-- The operand is read as it was before the store. -/
def OldOperand (x : Execution) : Prop := Sees x 1 (teamWord 0 0x100) none

/-- Ordering through two hops: P, Q and W are of three teams. -/
def twoHops : Program :=
  events [store groupP 0 wordX, storeRel groupP 1 .device (word 0x3000), loadAcq farAway 0 .device (word 0x3000),
    storeRel farAway 1 .device wordY, loadAcq further 0 .device wordY, load further 1 wordX]

/-- W has seen both flags, and has x from the write. -/
def HopsSee (w : Option Nat) (x : Execution) : Prop :=
  Sees x 2 (word 0x3000) (some 1) ∧ Sees x 4 wordY (some 3) ∧ Sees x 5 wordX w

end Sys2Proof.Litmus
end

