-- ==== Sys2Proof/Claims/World.lean ====
section
/-!
DEFINITION. What comes from outside: error events, the host's accesses, the fabric, power and heat, and what is observed (spec/19
R394 to R405, R410, R411; spec/20 R418 to R431; spec/22 R460, R463; spec/23 R474 to R477).
-/

namespace Sys2Proof.Claims

open Sys2Proof.Machine

/-! ## Events (R410, R411, R488) -/

/-- The parts of an event stand within their fields. -/
def EventFits (e : Event) : Prop :=
  e.event < 256 ∧ e.sub < 2 ^ 16 ∧ e.detail < 2 ^ 39 ∧ e.addr < 2 ^ 64 ∧ e.lid < 2 ^ 32 ∧ e.agent < 2 ^ 16 ∧
  (∀ c, e.ctx = some c → c < 256) ∧ ∀ n, e.tenant = some n → n < 64

/-- R410: the fields of the record of an event at a tick. -/
def EventRecord (e : Event) (now : Word64) (r : BitVec 256) : Prop :=
  r.extractLsb' 192 64 = now ∧ (r.extractLsb' 128 64).toNat = e.addr ∧ (r.extractLsb' 96 32).toNat = e.lid ∧
  (r.extractLsb' 80 16).toNat = e.agent ∧ (r.extractLsb' 72 8).toNat = e.ctx.getD 0 ∧ (r.extractLsb' 66 6).toNat = e.tenant.getD 0 ∧
  r.getLsbD 65 = e.tenant.isNone ∧ r.getLsbD 64 = e.ue ∧ (r.extractLsb' 48 16).toNat = e.sub ∧
  (r.extractLsb' 40 8).toNat = e.event ∧ r.getLsbD 39 = e.ctx.isNone ∧ (r.extractLsb' 0 39).toNat = e.detail

/-- R410: where the next record of a ring stands, in host memory; and whether the ring is full. -/
def slotOf (r : ErrorRing) : Nat := hostBase + r.base + 32 * (r.head.toNat % 2 ^ r.log2)
def RingFull (r : ErrorRing) : Prop := (r.head - r.tail).toNat = 2 ^ r.log2

/-- R410: a record joins a ring, or is counted as dropped. -/
def RingTakes (s t : State) (old new : ErrorRing) (rcd : BitVec 256) : Prop :=
  (RingFull old → new = { old with drop := old.drop + 1 } ∧ SameMemory s t) ∧
  (¬ RingFull old → new = { old with head := old.head + 1 } ∧ SameMemoryBut s t (slotOf old) 32 ∧
    ∀ k, k < 32 → Memory.byte t.mem (slotOf old + k) = rcd.extractLsb' (8 * k) 8)

/-- R411, R414: the status bits of a tenant after an unmasked event: its bit, and FEP and HLOG for the first uncorrectable one, or for
the one that FEP names once its bit has been cleared. -/
def StatusAfter (x : Tenant) (e : Event) (rcd : BitVec 256) (y : Tenant) : Prop :=
  if e.ue then y.uestat = x.uestat ||| 1#32 <<< e.event ∧ y.cestat = x.cestat ∧
    (if x.uestat = 0 ∨ (x.fepSet = false ∧ x.fep.toNat = e.event)
     then y.fep = BitVec.ofNat 5 e.event ∧ y.hlog = rcd.extractLsb' 0 128 ∧ y.fepSet = true
     else y.fep = x.fep ∧ y.hlog = x.hlog ∧ y.fepSet = x.fepSet)
  else y.cestat = x.cestat ||| 1#32 <<< e.event ∧ y.uestat = x.uestat ∧ y.fep = x.fep ∧ y.hlog = x.hlog

/-- R410: what an event raises: the ring's vector if the ring was empty, and the urgent one if UESEV says so. -/
def vectorsOf (n : Nat) (x : Tenant) (r : ErrorRing) (e : Event) : List Nat :=
  (if r.head = r.tail then [2 + 2 * n] else []) ++ (if e.ue && x.uesev.getLsbD e.event then [3 + 2 * n] else [])

/-- R411: the event is masked for a tenant. -/
def IsMasked (x : Tenant) (e : Event) : Prop := (if e.ue then x.uemask else x.cemask).getLsbD e.event = true

/-- A notice of a context (R488). -/
def noticeOf (ctx tn event sub detail addr : Nat) : Event := ⟨false, event, sub, detail, addr, 0, 0xFFFF, some ctx, some tn⟩

/-! ## Host registers (R394 to R396, R419, R430) -/

/-- One tenant changes, as `ok` says, and nothing else. -/
def OneTenant (s : State) (tn : Nat) (x : Tenant) (ok : Tenant → Prop) (t : State) : Prop :=
  s.tenants.get? tn = some x ∧ t = { s with tenants := t.tenants } ∧ (∀ k, k ≠ tn → t.tenants.get? k = s.tenants.get? k) ∧
  ∃ y, t.tenants.get? tn = some y ∧ ok y

/-- R411: W1C bits, and HLOG, held until its bit is cleared. -/
def Cleared (x : Tenant) (v : Word) (y : Tenant) : Prop :=
  y.uestat = x.uestat &&& ~~~v ∧
  (y.hlog = if x.fepSet = true ∧ (x.uestat &&& ~~~v).getLsbD x.fep.toNat = false then 0 else x.hlog) ∧
  y = { x with uestat := y.uestat, hlog := y.hlog, fepSet := y.fepSet }

/-- R419: a value of OBSCTL that is not ignored. -/
def ObsctlLegal (c : Context) (v : Word) : Prop :=
  v.extractLsb' 29 3 = 0 ∧ v.extractLsb' 21 3 = 0 ∧ v.extractLsb' 13 3 = 0 ∧ v.extractLsb' 2 6 = 0 ∧
  (v.getLsbD 0 = true → 12 ≤ (v.extractLsb' 8 5).toNat ∧ (v.extractLsb' 8 5).toNat ≤ 24 ∧ c.trbase.toNat % 65536 = 0) ∧
  (v.getLsbD 1 = true → 6 ≤ (v.extractLsb' 16 5).toNat ∧ (v.extractLsb' 16 5).toNat ≤ 24 ∧ 4 ≤ (v.extractLsb' 24 5).toNat ∧
    (v.extractLsb' 24 5).toNat ≤ 20 ∧ c.sbase.toNat % 65536 = 0)

/-- R426: where Sounding has just begun, each sampler counts its first interval, of 2^(SK-1) to 3 times that. -/
def SamplersStart (sk : Nat) (s t : State) : Prop :=
  ∀ k x, s.cores.get? k = some x → ∃ y, t.cores.get? k = some y ∧
    ∀ q p, x.samplers.get? q = some p → y.samplers.get? q = some { p with left := 2 ^ (sk - 1) + p.lfsr.toNat % 2 ^ sk, tagNext := false }

/-- R430, R432: a monitor after a write to BCTL at a tick: what was captured in the same tick comes after a CLR. -/
def bctlWritten (m : Monitor) (tick : Nat) (v : Word) : Monitor :=
  let m1 := { m with bctl := v &&& 0x00FFFF05 }
  let m2 := { m1 with min := 0xFFFFFFFF, max := 0, samples := 0, bins := [] }
  if v.getLsbD 1 then (if m.lastTick = tick then m.recent.foldl Machine.counted m2 else m2) else m1

/-! ## The fabric (R403 to R405) -/

/-- R405: a context of this device is the only one bound to a tenant's binding. -/
def BoundTo (s : State) (tenant binding ctx : Nat) (c : Context) : Prop :=
  binding ≠ 0 ∧ s.contexts.get? ctx = some c ∧ s.contexts.sorted = true ∧ c.binding = binding ∧ c.tenant = tenant ∧ c.destroying = false ∧
  ∀ p ∈ s.contexts, p.1 ≠ ctx → p.2.binding ≠ binding

/-- No word that n bytes at a location meet is poisoned. -/
def Unpoisoned (s : State) (loc n : Nat) : Prop := poisoned s.memPoison loc n = false

/-- A packet of a class for a destination has left. -/
def SentTo (t : State) (dest cls tenant : Nat) (what : Sent) (bytes : List Byte) : Prop :=
  ∃ k p, t.sent.get? k = some p ∧ p.dest = dest ∧ p.cls = cls ∧ p.tenant = tenant ∧ p.what = what ∧ p.bytes = bytes

/-- A lane of an access waits for a peer's answer; what it makes of the answer. -/
def LaneWaits (s : State) (aid lane : Nat) (a : Access) (u : Issuer) : Prop :=
  s.accesses.get? aid = some a ∧ issuerOf s a.group = some u ∧ a.isAcquire = false ∧ s.sent.sorted = true ∧
  (∃ k p, s.sent.get? k = some p ∧ p.what = .lane aid lane ∧ p.left = true) ∧ (∃ la ∈ a.lanes, la.lane = lane) ∧
  ∀ la ∈ a.lanes, la.lane = lane → la.performed = false
def LaneAnswered (t : State) (aid lane : Nat) (a : Access) (v : BitVec 272) : Prop :=
  ∃ b, t.accesses.get? aid = some b ∧ b.lanes.length = a.lanes.length ∧
    ∀ (k : Nat) (x : LaneAccess), a.lanes[k]? = some x → ∃ y, b.lanes[k]? = some y ∧ y.lane = x.lane ∧
      if x.lane = lane then y.performed = true ∧ y.value = some v else y = x

/-- R336: a launch packet with its SRCDEV. -/
def SourceIs (p q : BitVec 512) (dev : Nat) : Prop :=
  (q.extractLsb' 388 12).toNat = dev ∧ q.extractLsb' 0 388 = p.extractLsb' 0 388 ∧ q.extractLsb' 400 112 = p.extractLsb' 400 112

/-- R336: a port of a full queue: the tenant for which it has paused the launch class, and whose queue is full still. -/
def PortPaused (s : State) (port : Nat) : Prop :=
  ∃ tn x, s.pausing.get? port = some tn ∧ s.tenants.get? tn = some x ∧ 64 ≤ x.fabric.length

/-- R403, R476: packets go out whose class is not paused on their route. -/
def PacketsGo (s t : State) : Prop :=
  ∀ k, t.sent.get? k = (s.sent.get? k).map fun p => { p with left := p.left || !t.classPaused p.dest p.cls }

/-- R408: the reports of a phase in the launches of a context that have not ended. -/
def PhaseReported (s t : State) (ctx phase : Nat) (f : Nat → Nat) : Prop :=
  ∀ k l, s.launches.get? k = some l → ∃ m, t.launches.get? k = some m ∧ m = { l with podReports := m.podReports } ∧
    ∀ p, m.podReports.read p 0 =
      if p = phase ∧ l.ctx = ctx ∧ l.ended = false ∧ l.handlerFor = none then f (l.podReports.read p 0) else l.podReports.read p 0

/-! ## Failures of memory (R460, R463) -/

/-- R463: a lane's access to the memory tier or to host memory is in flight, and may perform. -/
def OuterLane (s : State) (aid : Nat) (a : Access) (u : Issuer) (la : LaneAccess) (loc : Nat) : Prop :=
  s.accesses.get? aid = some a ∧ issuerOf s a.group = some u ∧ a.lanes = [la] ∧ la.performed = false ∧ mayPerform s aid a la = true ∧
  la.tail = none ∧ la.scale = none ∧ (∃ k c, la.target = .phys loc k c) ∧ tierBase ≤ loc

/-! ## Watching (R421, R424, R426, R430, R431) -/

/-- R430: the source that a monitor's BCTL names exists. -/
def SourceExists (die : Nat) (v : Word) : Prop :=
  let i := (v.extractLsb' 16 8).toNat
  match (v.extractLsb' 8 8).toNat with
  | 1 => i / 32 < 3
  | 2 => i = 0
  | 3 => i < 24
  | 4 => i % 32 < 24 ∧ i / 32 < 6
  | 5 => i < 16
  | 6 => i < 8
  | 7 => i < 48
  | 8 => i < 4 ∧ i ≠ die
  | _ => False

/-- R430, R431: a level is sampled once in each 1,024 ticks, and a latency whenever it is measured. -/
def DueAt (m : Monitor) (tick : Nat) : Prop :=
  let src := (m.bctl.extractLsb' 8 8).toNat
  (src < 4 ∨ src = 8) ∨ m.last = none ∨ m.lastTick / 1024 ≠ tick / 1024

/-- R430: the value of a source: that of SRC 7 is the depth of a core's engine queues, and v what the others show. -/
def shownValue (s : State) (die : Nat) (m : Monitor) (v : Word) : Word :=
  if m.bctl.extractLsb' 8 8 = 7 then BitVec.ofNat 32 (queueDepth s (48 * die + (m.bctl.extractLsb' 16 8).toNat)) else v

/-- R431: the bin of a value: the first whose edge is above it, or the last. -/
def BinIs (m : Monitor) (v : Word) (b : Nat) : Prop :=
  b ≤ 31 ∧ (b < 31 → v.ult (m.edges.read b 0) = true) ∧ ∀ j, j < b → v.ult (m.edges.read j 0) = false

/-- A count that stays at its greatest value. -/
def saturating32 (w : Word) : Word := if w = 0xFFFF_FFFF then w else w + 1

/-- R431: a monitor that has captured a value at a tick. -/
def Captured (m : Monitor) (tick : Nat) (v : Word) (y : Monitor) : Prop :=
  y.min = (if v.ult m.min then v else m.min) ∧ y.max = (if m.max.ult v then v else m.max) ∧ y.samples = saturating32 m.samples ∧
  y.last = some v ∧ y.lastTick = tick ∧ y.recent = (if m.lastTick = tick then m.recent ++ [v] else [v]) ∧ y.bctl = m.bctl ∧ y.edges = m.edges ∧ y.alarmHi = m.alarmHi ∧
  ∃ b, BinIs m v b ∧ ∀ j, y.bins.read j 0 = if j = b then saturating32 (m.bins.read j 0) else m.bins.read j 0

/-- R431: the alarm of a monitor: a value above ALARMHI after one that was not. -/
def Alarms (m : Monitor) (v : Word) : Prop :=
  m.bctl.getLsbD 2 = true ∧ m.alarmHi.ult v = true ∧ ∃ x, m.last = some x ∧ m.alarmHi.ult x = false

/-- R426: the next state of the Galois LFSR, with taps 32, 22, 2 and 1. -/
def lfsrNext (x : Word) : Word := if x.getLsbD 0 then x >>> 1 ^^^ 0x8020_0003 else x >>> 1

/-- R426: the lowest sampled context with a team on a core. -/
def SampledOn (s : State) (core : Nat) (c : Context) : Prop := sampledOn s core = some c

/-- No Sounding record waits to be written. -/
def NoSounds (s : State) : Prop := ∀ p ∈ s.contexts, p.2.soundQ = []

/-- R421: a core's segment of a traced context, as it stood when its bytes were staged: its size, and that it lies in one page that may
be written. -/
def segmentSize (st : Staging) : Nat := 2 ^ st.segment.2
def Segment (s : State) (c : Context) (st : Staging) (core loc : Nat) : Prop :=
  let base := st.segment.1 + core * segmentSize st
  12 ≤ st.segment.2 ∧ st.segment.2 ≤ 16 ∧ base < 2 ^ 52 ∧
  PageOpen s c kindEngineWrite base (segmentSize st) loc ∧ TablesApart s c.root base loc (segmentSize st)

/-- R421: a 64-bit number at a location. -/
def NumberAt (s : State) (loc : Nat) (n : Nat) : Prop := ∀ k, k < 8 → Memory.byte s.mem (loc + k) = BitVec.ofNat 8 (n / 256 ^ k)

end Sys2Proof.Claims
end

