-- ==== Sys2Proof/Certificates/Slice0/Obligations.lean ====
section
/-!
DEFINITION. The statements about the machine, in the order of OBLIGATIONS.json. The words they use are those of Claims/.
-/

open Sys2Proof Sys2Proof.Machine Sys2Proof.Claims

/-! ## Decoding and the step -/

/-- Words of the spec, written out from its encodings (spec/04 R89 to R94), decode to the instructions they stand for. -/
def Obligations.WordsDecode : Prop :=
  decodeTableWord 64 0x208C_0014_0100_000C = some (.addImm ⟨0x30, false, false, 10, 4, 12⟩) ∧
  decodeTableWord 64 0x443F_D000_0180_3800 = some (.fmul (.f32 .rn) ⟨0xFF, false, true, 0, 6, 7, 0⟩) ∧
  decodeTableWord 64 0xB07F_E000_0000_0000 = some (.bar ⟨0xFF, true, false, 0, 0, 0, 0⟩) ∧
  decodeTableWord 64 0xD87F_E000_0000_0000 = some (.brk ⟨0xFF, true, false, 0, 0, 0, 0⟩) ∧
  decodeTableWord 64 0x01BF_C000_0000_000C = some (.mark ⟨0xFF, 0, 0, 12⟩)

/-- Decoding the word that encodes a well-formed instruction gives it back (spec/04 R89 to R96). -/
def Obligations.DecodeEncode : Prop :=
  ∀ (i : Instr) (w : Word64), i.WellFormed = true → encode i = some w → decodeWord w = .ok i

/-- Every word that decodes is the encoding of its instruction: no bit of it is ignored (spec/04 R83, R88, R95); and a word
whose opcode the table of R117 does not hold, or whose opcode is that of a header, decodes to nothing. -/
def Obligations.EncodeDecode : Prop :=
  (∀ (w : Word64) (i : Instr), decodeWord w = .ok i → i.WellFormed = true ∧ encode i = some w) ∧
  (∀ w : Word64, opMap (opcOf w) = none ∨ opcOf w = 0x3FF → ∃ r, decodeWord w = .error r)

/-- A group's turn executes the instruction whose word stands at its index, and a move of the machine's other parts executes
that move; a move that cannot be made only takes its turn (spec/04 R83, R109; spec/21 R435). Where the spec leaves a
point open, the model's choice: log entry 2. -/
def Obligations.StepRunsDecoded : Prop :=
  (∀ (s : State) (gid : Nat) (u : Issuer) (w : Word64) (i : Instr), s.force = none → (nextTurn s).move = .issue gid →
    issuerOf s gid = some u → u.g.header.isSome = true → MayIssue s u → NoBreakpoint u u.g.index →
    CodeAt s u (wordAddress u) w → InPlace u w i → (u.c.sampling = false ∨ u.isHandler = true) →
    traceWaits (takeTurn s) u = false →
    step s = exec i (issuing s gid)) ∧
  (∀ (s : State) (i : Instr), s.force = none → (nextTurn s).move = .event i →
    (∀ t, exec i (takeTurn s) = .next t → step s = .next t) ∧
    (exec i (takeTurn s) = .refused .notEnabled → step s = .next (takeTurn s)))

/-- A quadrant with no clause in progress begins the clause of the candidate that precedes the others: the group takes up
the header, and, unless it had begun this clause already, the quadrant's other groups are one clause older (spec/12
R344; spec/04 R84, R109). Where the spec leaves a point open, the model's choice: log entries 8, 84. -/
def Obligations.ClausesBegin : Prop :=
  (∀ (s : State) (core quad : Nat) (u : Issuer) (h : Word64),
    quadrantBusy s (quadrantGroups s core quad) = false → u ∈ Candidates s core quad →
    (∀ v ∈ Candidates s core quad, v.gid ≠ u.gid →
      ¬ Precedes ((Candidates s core quad).any fun x => decide (3 * (quadrantGroups s core quad).length ≤ x.g.age)) v u) →
    u.g.heldFaults = [] → NoBreakpoint u 16 → Unobserved u → CodeAt s u u.g.clause.toNat h → headerFault h = none →
    u.g.index ≤ hdrNcount h →
    ∃ t, exec (.clauseIssue core quad) s = .next t ∧ t = { s with groups := t.groups } ∧
      (∃ g x, t.groups.get? u.gid = some g ∧ (x = u.g.suppressed ∨ x = none) ∧
        g = { u.g with header := some h, entered := true, taken := false, addrNext := false, yielded := false,
                       suppressed := x, age := if u.g.entered = true then u.g.age else 0,
                       owes := u.g.owes && u.g.entered }) ∧
      ∀ k, k ≠ u.gid → t.groups.get? k =
        if u.g.entered = false ∧ k ∈ quadrantGroups s core quad
        then (s.groups.get? k).map fun g => { g with age := g.age + 1, owes := false } else s.groups.get? k) ∧
  (∀ (s : State) (u : Issuer) (h first : Word64), CodeAt s u u.g.clause.toNat h → CodeAt s u (u.g.clause.toNat + 8) first →
    u.g.entered = false → u.g.index = 0 → (clauseEligible s u = true ↔ Eligible u h first))

/-! ## Integer, logic and predicate instructions -/

/-- spec/08 R221 to R226: the integer arithmetic instructions of 32 and 64 bits. spec/08 R225, R227: minimum, maximum and
the packed forms. -/
def Obligations.IntegerResults : Prop :=
  (Executes arithmetic) ∧
  (Executes minMaxPacked)

/-- spec/08 R228: bitwise logic. spec/08 R228: shifts and rotations, by any amount. spec/08 R229 to R231: bit fields,
counts, moves and address arithmetic. -/
def Obligations.LogicAndMoveResults : Prop :=
  (Executes logic) ∧
  (Executes shifts) ∧
  (Executes bitFields ∧ Executes moves)

/-- spec/08 R215, R217, R218: compares, plop and pmov. spec/08 R219, R220: ballot, pcount and pfirst, and plive. -/
def Obligations.PredicateResults : Prop :=
  (Executes predicates) ∧
  ((∀ (i : Instr) (f : FormV) (r : Issuer → Word → Prop), groupResult i = some (f, r) → i.WellFormed = true →
     ∀ (s : State) (u : Issuer), Issuing s u → ScalarsFit u [dst f.d] →
       ∃ t w, exec i s = .next t ∧ r u w ∧ GroupDone s u void (ScalarIs u f.d w) t) ∧
   (∀ (f : FormI) (s : State) (u : Issuer), (Instr.plive f).WellFormed = true → Issuing s u →
     ∃ t, exec (.plive f) s = .next t ∧ GroupDone s u void (fun g => g = { moved u.g g with plive := f.imm.truncate 8 }) t))

/-- spec/08 R232, R233: shuffles in their four modes, and the index registers; and getfmt (R234). -/
def Obligations.LaneExchangeResults : Prop :=
  (∀ (i : Instr) (f : FormV) (src : Nat → Nat → Nat → Nat), exchange i = some (f, src) → i.WellFormed = true →
    ∀ (s : State) (u : Issuer), Issuing s u → ShuffleFits u f src →
      ∃ t, exec i s = .next t ∧ Computed s u (shuffled f src) t) ∧
  Executes indexes

/-- spec/08 R234, spec/05 R138: setfmt writes an accepted value, and otherwise traps with FMT unchanged. -/
def Obligations.FmtIsSet : Prop :=
  (∀ (f : FormV) (s : State) (u : Issuer), (Instr.setfmt f).WellFormed = true → Issuing s u → ScalarsFit u [Machine.src fieldA f.a] →
    (FmtFits (rd u f.a 0) → ∃ t, exec (.setfmt f) s = .next t ∧
      GroupDone s u void (fun g => g = { moved u.g g with fmt := rd u f.a 0 }) t) ∧
    (¬ FmtFits (rd u f.a 0) → ∃ t, exec (.setfmt f) s = .next t ∧ Traps s u .fmt 1 t)) ∧
  (∀ (f : FormI) (s : State) (u : Issuer), (Instr.setfmtImm f).WellFormed = true → Issuing s u →
    (FmtFits (f.imm.zeroExtend 32) → ∃ t, exec (.setfmtImm f) s = .next t ∧
      GroupDone s u void (fun g => g = { moved u.g g with fmt := f.imm.zeroExtend 32 }) t) ∧
    (¬ FmtFits (f.imm.zeroExtend 32) → ∃ t, exec (.setfmtImm f) s = .next t ∧ Traps s u .fmt 1 t))

/-! ## Floating point -/

/-- spec/09 R239 to R247: the floating-point instructions apply the operations on codes to their operands, under the type
and rounding of the word. spec/09 R251, R252: cvt and fxcvt apply the conversions of codes. -/
def Obligations.FloatResults : Prop :=
  (Executes floats) ∧
  (Executes conversions)

/-- spec/05 R123, R124, R133; spec/09 R239, R240: the sum, difference, product, quotient, fused product and sum, and square
root of finite values, where it is not zero, is the exact real result rounded once. -/
def Obligations.FloatRounds : Prop :=
  ∀ f ∈ arithmeticFormats, ∀ (m : Rounding) (a b c : Nat) (x y z : ℝ), IsReal f a x → IsReal f b y → IsReal f c z →
    (x + y ≠ 0 → Rounded f m (x + y) (floatAdd f m a b)) ∧ (x - y ≠ 0 → Rounded f m (x - y) (floatSub f m a b)) ∧
    (x * y ≠ 0 → Rounded f m (x * y) (floatMul f m a b)) ∧ (x * y + z ≠ 0 → Rounded f m (x * y + z) (floatFma f m a b c)) ∧
    (x ≠ 0 → y ≠ 0 → Rounded f m (x / y) (floatDiv f m a b)) ∧ (0 < x → Rounded f m (Real.sqrt x) (floatSqrt f m a))

/-- spec/09 R239, R240; spec/05 R123: NaN operands, infinities, invalid operations, divisions by zero and the signs of exact
zeros. -/
def Obligations.FloatSpecials : Prop :=
  ∀ f ∈ arithmeticFormats, ∀ (m : Rounding) (a b c : Nat), a < 2 ^ f.width → b < 2 ^ f.width → c < 2 ^ f.width →
    SumCases f m (val f a) (val f b) (floatAdd f m a b) ∧ SumCases f m (val f a) (val f b).negate (floatSub f m a b) ∧
    ProductCases f (val f a) (val f b) (floatMul f m a b) ∧ QuotientCases f (val f a) (val f b) (floatDiv f m a b) ∧
    RootCases f (val f a) (floatSqrt f m a) ∧ FusedCases f m (val f a) (val f b) (val f c) (floatFma f m a b c)

/-- spec/08 R215, R216: compares order values as real numbers, −0 equal to +0, and say what NaN gives. spec/09 R243 to R247:
minimum and maximum, the sign instructions, the class, scaling by a power of two, and rounding to an integral value. -/
def Obligations.FloatOrder : Prop :=
  (∀ f ∈ [f32Fmt, f64Fmt], ∀ cc a b : Nat, cc < 8 → a < 2 ^ f.width → b < 2 ^ f.width → OrderCases f cc a b) ∧
  (∀ f ∈ arithmeticFormats, ∀ (a b : Nat) (n : Int) (m : Rounding), a < 2 ^ f.width → b < 2 ^ f.width →
     (∀ greater prefers, MinMaxCases f greater prefers a b) ∧ SignCases f a b ∧
     floatClass f a = 2 ^ classBit f (val f a) ∧ ScaleCases f a n ∧ IntegralCases f m a)

/-- spec/05 R133 to R135; spec/09 R251, R252: a finite value converts to a floating-point format rounded once, saturated
where SAT is set; special values convert by the table; values convert to integers and to X64 rounded and clamped;
integers convert among themselves. spec/09 R253, R254, R256, R257: cvtp, dotp with SCALE = 0, mxq and mxd, under an FMT
that suits them. Where the spec leaves a point open, the model's choice: log entry 90. -/
def Obligations.ConversionsRound : Prop :=
  ((∀ f ∈ roundingFormats, ∀ (m : Rounding) (neg : Bool) (k : Nat) (e : Int), 0 < k →
     Rounded f m (realOf (.fin neg k e)) (encodeFloat f m false (.fin neg k e)) ∧
     encodeFloat f m true (.fin neg k e) = saturating f neg (encodeFloat f m false (.fin neg k e))) ∧
   (∀ f ∈ arithmeticFormats, ∀ g ∈ arithmeticFormats, ∀ (m : Rounding) (sat : Bool) (a : Nat), a < 2 ^ f.width →
     convert (.float g) (.float f) m sat a = encodeFloat g m sat (val f a) ∧
     SpecialsConvert g sat (val f a) (convert (.float g) (.float f) m sat a)) ∧
   (∀ f ∈ arithmeticFormats, ∀ (m : Rounding) (sat : Bool) (a : Nat), a < 2 ^ f.width →
     (∀ n ∈ [32, 64], ∀ sg, convert (.int n sg) (.float f) m sat a = toInteger m n sg (val f a)) ∧
     roundToX64 m sat (val f a) = toFixed m sat (val f a)) ∧
   (∀ n ∈ [32, 64], ∀ (sg : Bool) (m : Rounding) (sat : Bool) (a : Nat), a < 2 ^ n →
     (∀ f ∈ arithmeticFormats, (intValue n sg a = 0 → convert (.float f) (.int n sg) m sat a = (0, 0)) ∧
       (intValue n sg a ≠ 0 → sat = false → Rounded f m (intValue n sg a : ℝ) (convert (.float f) (.int n sg) m sat a))) ∧
     ∀ k ∈ [32, 64], ∀ tg, convert (.int k tg) (.int n sg) m sat a = (betweenInts n sat k tg (intValue n sg a), 0))) ∧
  ((∀ (i : Instr) (s : State) (u : Issuer) (k : Compute), underFmt u i = some k → i.WellFormed = true → FmtSuits u i →
     Issuing s u → OperandsFit u k.form → ∃ t, exec i s = .next t ∧ Computed s u k t) ∧
   (∀ (f : FormV) (s : State) (u : Issuer), (Instr.mxd f).WellFormed = true → mxAccepts u → Issuing s u →
     OperandsFit u (dequantised f).form → ScalesFit u f true → ∃ t, exec (.mxd f) s = .next t ∧ Computed s u (dequantised f) t) ∧
   (∀ (f : FormV) (s : State) (u : Issuer), (Instr.mxq f).WellFormed = true → mxAccepts u → Issuing s u →
     (∀ l ∈ u.enabledLanes f.tt, Fits u l (dst f.d) ∧ Fits u l (Machine.src fieldA f.a)) → ScalesFit u f false →
     ∃ t, exec (.mxq f) s = .next t ∧ GroupDone s u (quantisedEntry u f) (Quantised u f) t))

/-- spec/09 R248, R255; spec/04 R105, R108: the special functions and dotp with SCALE = 1 compute at issue, and their
results are on their way. spec/04 R105, R108; spec/09 R250, R255: a result in flight is delivered. -/
def Obligations.DeferredWork : Prop :=
  (∀ (i : Instr) (s : State) (u : Issuer) (kind : DeferredKind) (k : Compute), deferredOf u i = some (kind, k) →
     i.WellFormed = true → mayDefer u i → Issuing s u → u.g.counter (hdrSetd u.header) < 63 → OperandsFit u k.form →
     ∃ t, exec i s = .next t ∧
       Awaits s u kind (awaited u k) ((computing u k.form).foldl (fun w l => w ||| (k.out u l).flags) 0) t) ∧
  (∀ (s : State) (n : Nat) (d : Deferred) (u : Issuer),
     (InFlight s n .sfu d u → ∃ t, exec (.sfuCompletion n) s = .next t ∧ Arrives s n d u t) ∧
     (InFlight s n .dotp d u → ∃ t, exec (.dotpScaledCompletion n) s = .next t ∧ Arrives s n d u t))

/-- spec/09 R249, R250: the special values of the special functions; the reciprocal, the reciprocal square root, and the
powers and logarithms that are exact, rounded once; no UF and no NX. Where the spec leaves a point open, the model's
choice: log entry 13. -/
def Obligations.SpecialFunctionValues : Prop :=
  ∀ f ∈ [f32Fmt, f16Fmt], ∀ (a : Nat), a < 2 ^ f.width →
    (∀ fn r, tableValue f fn (val f a) = some r → sfuValue f fn a = r) ∧
    (∀ fn, (sfuValue f fn a).2 &&& (flagUF ||| flagNX) = 0) ∧
    (∀ x, IsReal f a x → x ≠ 0 → ∃ r, Rounded f .rn x⁻¹ r ∧ (sfuValue f .rcp a).1 = r.1 ∧
      (sfuValue f .rcp a).2 = r.2 &&& (flagNV ||| flagDZ ||| flagOF)) ∧
    (∀ x, IsReal f a x → 0 < x → ∃ r, Rounded f .rn (Real.sqrt x)⁻¹ r ∧ sfuValue f .rsq a = (r.1, 0)) ∧
    (∀ x (n : ℤ), IsReal f a x → x = n → x ≠ 0 → ∃ r, Rounded f .rn ((2 : ℝ) ^ n) r ∧ (sfuValue f .ex2 a).1 = r.1) ∧
    (∀ x (n : ℤ), IsReal f a x → x = (2 : ℝ) ^ n → n ≠ 0 → ∃ r, Rounded f .rn (n : ℝ) r ∧ sfuValue f .lg2 a = (r.1, 0)) ∧
    (∀ x, IsReal f a x → (9.1 : ℝ) ≤ |x| → sfuValue f .tanh a = (f.signed (decide (x < 0)) (2 ^ f.mbits * f.bias), 0))

/-! ## Control -/

/-- spec/08 R208, R209, R210, R212: jumps, brx, loopd, call and ret; a jmp whose active lanes disagree traps. spec/02 R47 to
R50; spec/08 R211: mark, split and join, and the traps of a full and of an empty stack. -/
def Obligations.Branching : Prop :=
  ((∀ (i : Instr) (f : FormX) (may taken : Issuer → Prop), jump i = some (f, may, taken) → i.WellFormed = true →
     ∀ (s : State) (u : Issuer), Issuing s u → may u → ∃ t, exec i s = .next t ∧ Branches s u f (taken u) (Only u) t) ∧
   (∀ (f : FormX) (s : State) (u : Issuer) (l m : Nat), Issuing s u → Active u l → Active u m →
     guardBit u f.tt l ≠ guardBit u f.tt m → ∃ t, exec (.jmp f) s = .next t ∧ Traps s u .exec 1 t) ∧
   (∀ (f : FormX) (s : State) (u : Issuer), (Instr.brx f).WellFormed = true → Issuing s u → ScalarsFit u [Machine.src fieldS f.s] →
     ∃ t, exec (.brx f) s = .next t ∧ Goes s u (target u f + (rd u f.s 0).signExtend 64 * 8) false true (Only u) t) ∧
   (∀ (f : FormX) (s : State) (u : Issuer), (Instr.loopd f).WellFormed = true → Issuing s u →
     ScalarsFit u [Machine.src fieldS f.s] →
     ∃ t, exec (.loopd f) s = .next t ∧ Branches s u f (rd u f.s 0 - 1 ≠ 0) (ScalarIs u f.s (rd u f.s 0 - 1)) t) ∧
   (∀ (f : FormX) (s : State) (u : Issuer), (Instr.call f).WellFormed = true → Issuing s u →
     ScalarsFit u [⟨fieldS, f.s, 2, 2, true⟩] →
     ∃ t, exec (.call f) s = .next t ∧ Goes s u (target u f) true false (PairIs u f.s (followingClause u)) t) ∧
   (∀ (f : FormX) (s : State) (u : Issuer), (Instr.ret f).WellFormed = true → Issuing s u → ScalarsFit u [src64 fieldS f.s] →
     ∃ t, exec (.ret f) s = .next t ∧ Goes s u (rd64 u f.s 0) false true (Only u) t)) ∧
  ((∀ (f : FormX) (s : State) (u : Issuer), (Instr.mark f).WellFormed = true → Issuing s u →
     (u.g.stack.length < 32 → ∃ t, exec (.mark f) s = .next t ∧ GroupDone s u void
       (fun g => g = { moved u.g g with stack := ⟨false, target u f, u.g.active, u.g.fmt⟩ :: u.g.stack }) t) ∧
     (32 ≤ u.g.stack.length → ∃ t, exec (.mark f) s = .next t ∧ Traps s u .exec 2 t)) ∧
   (∀ (f : FormX) (s : State) (u : Issuer) (m : LaneMask), (Instr.split f).WellFormed = true → Issuing s u → condMask u f.tt m →
     (m = 0 → ∃ t, exec (.split f) s = .next t ∧ GroupDone s u void (Only u) t) ∧
     (m ≠ 0 → u.g.active &&& ~~~m = 0 → ∃ t, exec (.split f) s = .next t ∧ Goes s u (target u f) true false (Only u) t) ∧
     (m ≠ 0 → u.g.active &&& ~~~m ≠ 0 → u.g.stack.length < 32 →
       ∃ t g, exec (.split f) s = .next t ∧ OnlyTraced s t u ∧ t.groups.get? u.gid = some g ∧ NextPlace u void g ∧
         g = { moved u.g g with active := u.g.active &&& ~~~m, stack := ⟨true, target u f, m, u.g.fmt⟩ :: u.g.stack }) ∧
     (m ≠ 0 → u.g.active &&& ~~~m ≠ 0 → 32 ≤ u.g.stack.length →
       ∃ t, exec (.split f) s = .next t ∧ Traps s u .exec 2 t)) ∧
   (∀ (f : FormV) (s : State) (u : Issuer), (Instr.join f).WellFormed = true → Issuing s u →
     (liveTop u.g.stack = [] → ∃ t, exec (.join f) s = .next t ∧ Traps s u .exec 3 t) ∧
     (∀ e rest, liveTop u.g.stack = e :: rest → ∃ t, exec (.join f) s = .next t ∧
       Rejoins s u e rest (fun g => g = { moved u.g g with active := g.active, fmt := g.fmt, stack := g.stack }) t)))

/-- spec/02 R37, R51, R52; spec/08 R207, R213, R214: nop, exit and yield. A group whose last lane exits retires, with what
follows from that. Where the spec leaves a point open, the model's choice: log entry 23. -/
def Obligations.NopExitYield : Prop :=
  (∀ (f : FormV) (s : State) (u : Issuer), (Instr.nop f).WellFormed = true → Issuing s u →
    ∃ t, exec (.nop f) s = .next t ∧ GroupDone s u void (Only u) t) ∧
  (∀ (f : FormV) (s : State) (u : Issuer), (Instr.yield f).WellFormed = true → Issuing s u →
    ∃ t, exec (.yield f) s = .next (settle t) ∧
      GroupDone s u void (fun g => g = { moved u.g g with yielded := true, owes := true }) t) ∧
  (∀ (f : FormV) (s : State) (u : Issuer) (m : LaneMask), (Instr.exit f).WellFormed = true → Issuing s u → condMask u f.tt m →
    let left := u.g.active &&& ~~~m
    let stack := without m u.g.stack
    (left ≠ 0 → ∃ t g, exec (.exit f) s = .next t ∧ OnlyTraced s t u ∧ t.groups.get? u.gid = some g ∧ NextPlace u void g ∧
      g = { moved u.g g with active := left, exited := u.g.exited ||| m, stack := stack }) ∧
    (∀ e rest, left = 0 → liveTop stack = e :: rest → ∃ t, exec (.exit f) s = .next t ∧
      Rejoins s u e rest
        (fun g => g = { moved u.g g with active := g.active, fmt := g.fmt, stack := g.stack, exited := u.g.exited ||| m }) t) ∧
    (left = 0 → liveTop stack = [] → ∃ t g, exec (.exit f) s = .next (retireGroup t u.gid u.l.width) ∧ OnlyTraced s t u ∧
      t.groups.get? u.gid = some g ∧ g = { moved u.g g with active := 0, exited := u.g.exited ||| m, stack := stack }))

/-! ## System registers and the debug mailbox -/

/-- spec/11 R321, R322; spec/05 R149: sysrd reads each special register, syswr writes FPSTAT, clock reads the clock counter,
and tmark stages its packet. -/
def Obligations.SystemRegisters : Prop :=
  (∀ (f : FormI) (s : State) (u : Issuer) (w : Word), (Instr.sysrd f).WellFormed = true → Issuing s u →
    special u f.imm.toNat = some w → ScalarsFit u [dst f.d] →
    ∃ t, exec (.sysrd f) s = .next t ∧ GroupDone s u void (ScalarIs u f.d w) t) ∧
  (∀ (f : FormI) (s : State) (u : Issuer) (x : Word64), (Instr.sysrd f).WellFormed = true → Issuing s u →
    specialPair s u f.imm.toNat = some x → ScalarsFit u [dst64 f.d] →
    ∃ t, exec (.sysrd f) s = .next t ∧ GroupDone s u void (PairIs u f.d x) t) ∧
  (∀ (f : FormI) (s : State) (u : Issuer), (Instr.sysrd f).WellFormed = true →
    (special u f.imm.toNat).isSome = true ∨ (specialPair s u f.imm.toNat).isSome = true) ∧
  (∀ (f : FormI) (s : State) (u : Issuer), (Instr.syswr f).WellFormed = true → Issuing s u →
    ScalarsFit u [Machine.src fieldA f.a] → ∃ t, exec (.syswr f) s = .next t ∧
      GroupDone s u void (fun g => g = { moved u.g g with fpstat := rd u f.a 0 &&& 0x7F }) t) ∧
  (∀ (f : FormV) (s : State) (u : Issuer), (Instr.clock f).WellFormed = true → Issuing s u → ScalarsFit u [dst64 f.d] →
    ∃ t, exec (.clock f) s = .next t ∧ GroupDone s u void (PairIs u f.d s.clocks) t) ∧
  (∀ (f : FormI) (s : State) (u : Issuer), (Instr.tmark f).WellFormed = true → Issuing s u →
    ∃ t g, exec (.tmark f) s = .next t ∧ OnlyTraced s t u ∧ t.groups.get? u.gid = some g ∧ NextPlace u void g ∧ Only u g ∧
      t.cores = (tracePacket s u true
        (0x70 :: slotByte u.g :: (leBytes 2 f.imm.toNat ++ deltaBytes s u.t.core u.l.ctx))).cores)

/-- spec/11 R320: trap raises the software fault that its immediate names; brk traps where the context allows debugging, and
is otherwise without effect. -/
def Obligations.SoftwareTraps : Prop :=
  (∀ (f : FormI) (s : State) (u : Issuer), (Instr.trap f).WellFormed = true → Issuing s u →
    ∃ t, exec (.trap f) s = .next t ∧ Traps s u .soft (f.imm.toNat % 256) t) ∧
  (∀ (f : FormV) (s : State) (u : Issuer), (Instr.brk f).WellFormed = true → Issuing s u →
    (u.c.dbg = true → ∃ t, exec (.brk f) s = .next t ∧ Traps s u .debug 1 t) ∧
    (u.c.dbg = false → ∃ t, exec (.brk f) s = .next t ∧ GroupDone s u void (Only u) t))

/-- spec/11 R323: dmput writes a word of the outbound mailbox once the group's accesses have performed, and dmget reads a
word of the inbound one; they trap without the privilege, and beyond word 63. Where the spec leaves a point open, the
model's choice: log entry 43. -/
def Obligations.DebugMailbox : Prop :=
  (∀ (f : FormV) (s : State) (u : Issuer), (Instr.dmput f).WellFormed = true → Issuing s u →
    ScalarsFit u [Machine.src fieldA f.a, src64 fieldB f.b] → u.c.dbg = true →
    let k := (rd u f.a 0).toNat
    (k < 64 → groupPerformed s u.gid = true → ∃ t g c, exec (.dmput f) s = .next t ∧
      t = { s with groups := t.groups, contexts := t.contexts, cores := t.cores, mem := t.mem, memPoison := t.memPoison } ∧
      OtherGroups s t u.gid ∧ WroteBack s t u.t.core ∧ t.groups.get? u.gid = some g ∧ NextPlace u void g ∧ Only u g ∧
      (∀ x, x ≠ u.l.ctx → t.contexts.get? x = s.contexts.get? x) ∧ t.contexts.get? u.l.ctx = some c ∧
      (∀ j, c.outbound.read j 0 = if j = k then rd64 u f.b 0 else u.c.outbound.read j 0) ∧
      c = { u.c with outbound := c.outbound, soundQ := u.c.soundQ ++ u.g.sound.toList }) ∧
    (k < 64 → groupPerformed s u.gid = false → exec (.dmput f) s = .next s) ∧
    (64 ≤ k → ∃ t, exec (.dmput f) s = .next t ∧ Traps s u .priv 2 t)) ∧
  (∀ (f : FormV) (s : State) (u : Issuer), (Instr.dmget f).WellFormed = true → Issuing s u →
    ScalarsFit u [dst64 f.d, Machine.src fieldA f.a] → u.c.dbg = true →
    let k := (rd u f.a 0).toNat
    (k < 64 → ∃ t g, exec (.dmget f) s = .next t ∧ OnlyOrdered s t u ∧ WroteBack s t u.t.core ∧ NoLine t u.t.core ∧
      t.groups.get? u.gid = some g ∧ NextPlace u void g ∧ PairIs u f.d (u.c.inbound.read k 0) g) ∧
    (64 ≤ k → ∃ t, exec (.dmget f) s = .next t ∧ Traps s u .priv 2 t)) ∧
  (∀ (f : FormV) (s : State) (u : Issuer), Issuing s u → u.c.dbg = false →
    (∃ t, exec (.dmput f) s = .next t ∧ Traps s u .priv 1 t) ∧ ∃ t, exec (.dmget f) s = .next t ∧ Traps s u .priv 1 t)

/-! ## Synchronisation -/

/-- spec/10 R272; spec/07 R183, R194: a fence waits for the group's accesses; then it orders what the core holds and, as a
release, raises the group's release count. -/
def Obligations.Fences : Prop :=
  ∀ (f : FormM) (s : State) (u : Issuer), (Instr.fence f).WellFormed = true → Issuing s u →
    (FenceReady s u f → ∃ t, exec (.fence f) s = .next t ∧ Fenced s u f t) ∧ (¬ FenceReady s u f → exec (.fence f) s = .next s)

/-- spec/10 R273 to R276: a barrier counts the group's arrival at the phase in progress and blocks the group until that
phase is over; arrive counts it and goes on with the phase's number; await blocks until the phase that it names is over.
spec/02 R38, R42; spec/07 R195; spec/13 R359: a group that waits for a phase that is over resumes after its instruction.
Where the spec leaves a point open, the model's choice: log entry 90. -/
def Obligations.Barriers : Prop :=
  ((∀ (i : Instr) (s : State) (u : Issuer) (lvl : Level) (pod : Bool), barrierOf i = some (lvl, pod) → i.WellFormed = true →
     Issuing s u →
     (HasBarrier u lvl pod → NoOpenArrival u lvl → groupPerformed s u.gid = true →
       ∃ t, exec i s = .next (settle t) ∧ ArrivalOrdered s u lvl t ∧ t.contexts = s.contexts ∧
         t.groups.get? u.gid =
           some { arrived u lvl with status := .blocked, wait := some (.barrier lvl (phasesDone lvl u.t u.l) pod) }) ∧
     (HasBarrier u lvl pod → NoOpenArrival u lvl → groupPerformed s u.gid = false → exec i s = .next s) ∧
     (¬ HasBarrier u lvl pod → ∃ t, exec i s = .next t ∧ Traps s u .sync 2 t) ∧
     (HasBarrier u lvl pod → ¬ NoOpenArrival u lvl → ∃ t, exec i s = .next t ∧ Traps s u .sync 4 t)) ∧
   (∀ (f : FormV) (s : State) (u : Issuer), (Instr.arrive f).WellFormed = true → Issuing s u → ScalarsFit u [dst f.d] →
     let lvl := levelNamed f.a
     (NoOpenArrival u lvl → groupPerformed s u.gid = true →
       ∃ t g, exec (.arrive f) s = .next (settle t) ∧ ArrivalOrdered s u lvl t ∧ OnlySound s t u ∧
         t.groups.get? u.gid = some g ∧ NextPlace u void g ∧
         ScalarIs { u with g := arrived u lvl } f.d (BitVec.ofNat 32 (phasesDone lvl u.t u.l)) g) ∧
     (NoOpenArrival u lvl → groupPerformed s u.gid = false → exec (.arrive f) s = .next s) ∧
     (¬ NoOpenArrival u lvl → ∃ t, exec (.arrive f) s = .next t ∧ Traps s u .sync 4 t)) ∧
   (∀ (f : FormV) (s : State) (u : Issuer), (Instr.await f).WellFormed = true → Issuing s u →
     ScalarsFit u [Machine.src fieldA f.a] →
     let lvl := levelNamed f.b
     let p := (rd u f.a 0).toNat
     (p < (u.g.counts lvl).arrived.toNat → ∃ t, exec (.await f) s = .next (settle t) ∧ Blocks s u (.await lvl p) t) ∧
     ((u.g.counts lvl).arrived.toNat ≤ p → ∃ t, exec (.await f) s = .next t ∧ Traps s u .sync 3 t))) ∧
  (∀ (s : State) (gid : Nat) (u : Issuer) (lvl : Level) (p : Nat) (pod await : Bool) (w : Wait), issuerOf s gid = some u →
     u.g.status = .blocked → u.t.status = .resident → u.g.header.isSome = true → u.g.wait = some w →
     (w = .barrier lvl p pod ∧ await = false ∨ w = .await lvl p ∧ pod = false ∧ await = true) → phaseOver u lvl p pod = true →
     ∃ g, (wakeGroup s gid none).groups.get? gid = some g ∧ Resumes u g ∧ HasWaited u lvl p await g)

/-- spec/10 R277: monwait reads its word; where it is not the expected value the instruction completes with it, else the
group blocks. A monitor whose timeout expires traps. -/
def Obligations.Monitors : Prop :=
  (∀ (f : FormV) (s : State) (u : Issuer) (loc : Nat), (Instr.monwait f).WellFormed = true → Issuing s u →
    ScalarsFit u [dst f.d, src64 fieldA f.a, Machine.src fieldB f.b, Machine.src fieldC f.c] → MonitorReads s u f loc →
    (∃ c k, translate s u.t.core u.l.ctx u.c.root (rd64 u f.a 0).toNat kindRead = .ok (.phys loc c k)) →
    (memoryWord s loc ≠ rd u f.b 0 → ∃ t, exec (.monwait f) s = .next t ∧ MonitorDone s u f loc t) ∧
    (memoryWord s loc = rd u f.b 0 → ∃ t, exec (.monwait f) s = .next t ∧ MonitorBlocks s u f loc t)) ∧
  (∀ (s : State) (gid va loc : Nat) (u : Issuer) (e : Word) (d : BitVec 11) (t0 : Nat) (ops : List OpSlot),
    issuerOf s gid = some u → u.g.status = .blocked → u.t.status = .resident → u.calm = false → u.l.det = false →
    u.g.wait = some (.monitor va loc e d (some t0) ops) → t0 ≤ s.ticks.toNat →
    ∃ t, exec (.monitorTimeout gid) s = .next t ∧ TrapsAt s u .sync 1 0xFF va 0 t)

/-- spec/10 R278 to R281: arvinit, arvexp and arvwait, their traps, and the credit of a delivery. Where the spec leaves a
point open, the model's choice: log entry 26. -/
def Obligations.ArrivalSets : Prop :=
  (∀ (f : FormV) (s : State) (u : Issuer), (Instr.arvinit f).WellFormed = true → Issuing s u →
    ScalarsFit u [Machine.src fieldA f.a, Machine.src fieldB f.b] →
    let k := (rd u f.a 0).toNat
    let ep := (rd u f.b 0).extractLsb' 16 16
    (k < 16 → EndpointFree s u k ep.toNat → ∃ t g, exec (.arvinit f) s = .next (settle t) ∧ OnlyTeam s t u ∧
      t.groups.get? u.gid = some g ∧ NextPlace u void g ∧ Only u g ∧
      SetIs s t u k { setOf u.t k with mask := (rd u f.b 0).extractLsb' 0 16, ep := ep, got := [], next := [], phase := 0,
                                       broken := false, initialised := true, stamps := [] }) ∧
    (k < 16 → ¬ EndpointFree s u k ep.toNat → ∃ t, exec (.arvinit f) s = .next t ∧ Traps s u .sync 5 t) ∧
    (16 ≤ k → ∃ t, exec (.arvinit f) s = .next t ∧ Traps s u .sync 6 t)) ∧
  (∀ (f : FormV) (s : State) (u : Issuer), (Instr.arvexp f).WellFormed = true → Issuing s u →
    ScalarsFit u [Machine.src fieldA f.a, Machine.src fieldB f.b, Machine.src fieldC f.c] →
    let k := (rd u f.a 0).toNat
    let i := (rd u f.b 0).toNat
    (k < 16 → i < 16 → ∃ a, Expected (setOf u.t k) i (rd u f.c 0) a ∧
      let past := rd u f.c 0 < (setOf u.t k).got.read i 0 ∧ rd u f.c 0 < a.next.read i 0
      (¬ past → ∃ t g, exec (.arvexp f) s = .next (settle t) ∧ OnlyTeam s t u ∧
        t.groups.get? u.gid = some g ∧ NextPlace u void g ∧ Only u g ∧ SetIs s t u k a) ∧
      (past → ∃ t g, exec (.arvexp f) s = .next (settle t) ∧ t.groups.get? u.gid = some g ∧ NextPlace u void g ∧ Only u g ∧
        SetIs s t u k a ∧ a.broken = true ∧
        t.tenants = (arrivalError s u.l.ctx u.l.lid 3 (arrivalDetail k i u.t)).tenants)) ∧
    (16 ≤ k ∨ 16 ≤ i → ∃ t, exec (.arvexp f) s = .next t ∧ Traps s u .sync 6 t)) ∧
  (∀ (f : FormV) (s : State) (u : Issuer), (Instr.arvwait f).WellFormed = true → Issuing s u →
    ScalarsFit u [Machine.src fieldA f.a] →
    let k := (rd u f.a 0).toNat
    (k < 16 → (setOf u.t k).broken = false → ∃ t, exec (.arvwait f) s = .next (settle t) ∧ Blocks s u (.arrival k) t) ∧
    (k < 16 → (setOf u.t k).broken = true → ∃ t, exec (.arvwait f) s = .next t ∧ Traps s u .sync 7 t) ∧
    (16 ≤ k → ∃ t, exec (.arvwait f) s = .next t ∧ Traps s u .sync 6 t)) ∧
  (∀ (s : State) (n : Nat) (c : Credit) (x : Team), s.credits.get? n = some c → c.endpoint = none →
    s.teams.get? c.team = some x → (setOf x c.set).initialised = true → (setOf x c.set).mask.getLsbD c.source = true →
    ∃ a, Credited (setOf x c.set) c.source c.bytes a ∧
      let past := a.expect.read c.source 0 < a.next.read c.source 0
      ∃ t y, exec (.deliveryCredit n) s = .next (settle (if past then
          arrivalError t c.ctx (teamLid s x) 3 (arrivalDetail c.set c.source x) else t)) ∧ (past → a.broken = true) ∧
        t = { s with teams := t.teams, credits := t.credits } ∧
        (∀ k, t.credits.get? k = if k = n then none else s.credits.get? k) ∧
        (∀ k, k ≠ c.team → t.teams.get? k = s.teams.get? k) ∧ t.teams.get? c.team = some y ∧ y = { x with sets := y.sets } ∧
        y.sets.get? c.set = some a ∧ ∀ j, j ≠ c.set → y.sets.get? j = x.sets.get? j)

/-! ## Memory -/

/-- spec/06 R152, R154, R155; spec/21 R435; spec/22 R451: a lane's access whose operands fit and which no watchpoint meets
is refused where its address is illegal or misaligned, and in team space it goes to the team's memory otherwise; in
global space to the location of its page. The instruction then traps at the first lane that is refused. Where the spec
leaves a point open, the model's choice: log entry 7. -/
def Obligations.LaneChecks : Prop :=
  (∀ (i : Instr) (d : Datum) (s : State) (u : Issuer) (l : Nat), datumOf i = some d → i.WellFormed = true →
    (∀ x ∈ d.uses, Fits u l x) → Unwatched u (d.op u) l →
    let va := address u d.space d.form l
    (¬ LegalAt u d.space va d.bytes →
      checkLane s u (d.op u) l = .fault ⟨.mem, if d.space = .g then memNoncanonical else memAddrBound, l, va, 0, 0⟩) ∧
    (LegalAt u d.space va d.bytes → va % d.bytes ≠ 0 → checkLane s u (d.op u) l = .fault ⟨.mem, memAlign, l, va, 0, 0⟩) ∧
    (LegalAt u d.space va d.bytes → va % d.bytes = 0 →
      (d.space = .t → ∃ la, checkLane s u (d.op u) l = .xlate (.ok la) ∧ la.target = .team u.g.team va ∧ la.lane = l ∧
        la.size = d.bytes ∧ la.tail = none ∧ la.scale = none ∧ la.performed = false) ∧
      (d.space = .g → ∀ loc c k, translate s u.t.core u.l.ctx u.c.root va (accessKind d.kind) = .ok (.phys loc c k) →
        ∃ la, checkLane s u (d.op u) l = .xlate (.ok la) ∧ la.target = .phys loc c k ∧ la.lane = l ∧
          la.size = d.bytes ∧ la.tail = none ∧ la.scale = none ∧ la.performed = false))) ∧
  (∀ (i : Instr) (d : Datum) (s : State) (u : Issuer) (before after : List Nat) (l : Nat) (r : Raise), datumOf i = some d →
    i.WellFormed = true → mayAccess u i → Issuing s u → u.g.counter (hdrSetd u.header) < 63 → u.c.rmode ≠ 2 →
    (d.op u).lanes = before ++ l :: after → (∀ x ∈ before, ∃ y, checkLane s u (d.op u) x = .xlate y) →
    checkLane s u (d.op u) l = .fault r →
    ∃ t, exec i s = .next t ∧ TrapsAt s u r.cls r.sub (if d.form.sc then 0xFF else r.lane) r.addr r.detail t)

/-- spec/04 R105, R108; spec/07 R194; spec/10 R261, R265, R268: a load, store, atomic, reduction or block access that is
ready is in flight after its issue: its destinations are pending and no byte of memory has changed; pf only brings clean
lines. Where the spec leaves a point open, the model's choice: log entries 24, 27. -/
def Obligations.MemoryIssues : Prop :=
  (∀ (i : Instr) (s : State) (u : Issuer) (m : MemOp) (acc : Nat → LaneAccess), memoryOf u i = some m → i.WellFormed = true →
    mayAccess u i → Issuing s u → Ready s u m acc → ∃ t, exec i s = .next t ∧ Issued s u m acc t) ∧
  (∀ (f : FormM) (s : State) (u : Issuer), (Instr.pf f).WellFormed = true → Issuing s u →
    (if f.sc then ScalarsFit u [src64 fieldA f.a] else ∀ l ∈ u.enabledLanes f.tt, Fits u l (src64 fieldA f.a)) → NoDirty s →
    ∃ t g, exec (.pf f) s = .next t ∧ t = { s with groups := t.groups, contexts := t.contexts, cores := t.cores } ∧
      OtherGroups s t u.gid ∧ OnlySound s t u ∧ OnlyLines s t ∧ SameMemory s t ∧
      NoDirty t ∧
      t.groups.get? u.gid = some g ∧ NextPlace u void g ∧ Only u g)

/-- spec/07 R174, R178; spec/06 R160; spec/10 R262, R267: when a lane of a store performs, its bytes are at its target, and
every other byte of memory is as before. Where the spec leaves a point open, the model's choice: log entries 1, 19, 20. -/
def Obligations.StoresPerform : Prop :=
  (∀ (s : State) (aid : Nat) (a : Access) (u : Issuer) (la : LaneAccess) (rest : List LaneAccess),
    FirstLane s aid a u la rest → a.kind = .store → Placed s u la.target la.size → NoDirty s →
    ∃ t v, exec (.storePerform aid 1) s = .next (returnLanes (settle t) aid 1) ∧
      Stored s t u (keptByL1 u a la) la.target la.size (dataByte la) ∧ t.groups = s.groups ∧
      FirstIs t aid { la with performed := true, value := some v, poisoned := false }) ∧
  (∀ (s : State) (aid : Nat) (a : Access) (u : Issuer) (la : LaneAccess) (fmt va tid off soff : Nat) (rest : List LaneAccess)
    (x : Team), FirstBlock s aid a u la va (.team tid soff) rest → a.kind = .mxStore fmt → la.target = .team tid off →
    s.teams.get? tid = some x → (soff < off ∨ off + la.size ≤ soff) → NoDirty s →
    ∃ t y, exec (.storePerform aid 1) s = .next (returnLanes (settle t) aid 1) ∧ SameAll s t u ∧ t.groups = s.groups ∧
      (∀ k, k ≠ tid → (t.teams.get? k).map (·.mem) = (s.teams.get? k).map (·.mem)) ∧ t.teams.get? tid = some y ∧
      ∀ b, teamByte y b = if off ≤ b ∧ b < off + la.size then dataByte la (b - off)
        else if b = soff then dataByte la 32 else teamByte x b)

/-- spec/07 R174, R178; spec/06 R160; spec/10 R262, R266: when a lane of a load performs it has the bytes of its target, and
no byte of memory changes. Where the spec leaves a point open, the model's choice: log entries 1, 19, 20. -/
def Obligations.LoadsPerform : Prop :=
  (∀ (s : State) (aid : Nat) (a : Access) (u : Issuer) (la : LaneAccess) (w : LoadWidth) (l1 : Bool) (rest : List LaneAccess),
    FirstLane s aid a u la rest → a.kind = .load w → Placed s u la.target la.size → NoDirty s → NoFrozen s →
    ∃ t v, exec (.loadWriteback aid 1 l1) s = .next (returnLanes (settle t) aid 1) ∧
      HasBytes v la.size (byteAt s u.t.core (servedByL1 u a la l1) la.target) ∧ NothingStored s t u ∧
      OtherGroups s t a.group ∧ (a.isAcquire = false → t.groups = s.groups) ∧
      FirstIs t aid { la with performed := true, value := some v, poisoned := false }) ∧
  (∀ (s : State) (aid : Nat) (a : Access) (u : Issuer) (la : LaneAccess) (fmt reg va : Nat) (sc : Target)
    (rest : List LaneAccess), FirstBlock s aid a u la va sc rest → a.kind = .mxLoad fmt reg → Placed s u la.target la.size →
    Placed s u sc 1 → NoDirty s → NoFrozen s →
    ∃ t v, exec (.ldmxCompletion aid 1) s = .next (returnLanes (settle t) aid 1) ∧ NothingStored s t u ∧
      (∀ k, k < la.size → v.extractLsb' (8 * k) 8 = byteAt s u.t.core False la.target k) ∧
      v.extractLsb' 256 8 = byteAt s u.t.core False sc 0 ∧
      FirstIs t aid { la with performed := true, value := some v, poisoned := false })

/-- spec/10 R269, R270: when a lane of an atomic or a reduction performs it has the old value, and its target holds what the
operation gives of the old value and the operand. Where the spec leaves a point open, the model's choice: log entries 1,
19, 20. -/
def Obligations.AtomicsPerform : Prop :=
  (∀ (s : State) (aid : Nat) (a : Access) (u : Issuer) (la : LaneAccess) (op : AtomOp) (ret : Bool) (rest : List LaneAccess),
    FirstLane s aid a u la rest → a.kind = .rmw op ret → Placed s u la.target la.size → NoDirty s → la.size = atomBytes op →
    ∃ t old v, exec (.atomicPerform aid 1) s = .next (returnLanes (settleBy t (exchangeWriter s a)) aid 1) ∧
      HasBytes old la.size (byteAt s u.t.core False la.target) ∧
      Stored s t u False la.target la.size v ∧ OtherGroups s t a.group ∧
      (∀ k, k < la.size → v k = BitVec.ofNat 8 ((rmwValue op old.toNat la.data.toNat).1 / 2 ^ (8 * k) % 256)) ∧
      FirstIs t aid { la with performed := true, value := some old, poisoned := false } ∧
      ∃ b, t.accesses.get? aid = some b ∧ b.flags = a.flags ||| (rmwValue op old.toNat la.data.toNat).2) ∧
  (∀ (op : AtomOp) (old v w : Word), updated op old v = some w → rmwValue op old.toNat v.toNat = (w.toNat, 0)) ∧
  (∀ (op : AtomOp) (old v w : Word64), updated64 op old v = some w → rmwValue op old.toNat v.toNat = (w.toNat, 0)) ∧
  (∀ old cmp new : Word, rmwValue .casB32 old.toNat (new ++ cmp).toNat = (if old = cmp then new.toNat else old.toNat, 0)) ∧
  (∀ old cmp new : Word64, rmwValue .casB64 old.toNat (new ++ cmp).toNat = (if old = cmp then new.toNat else old.toNat, 0)) ∧
  (∀ old v : Word, rmwValue .addF32 old.toNat v.toNat = floatAdd f32Fmt .rn old.toNat v.toNat)

/-- spec/04 R105, R106, R108; spec/10 R261, R266, R268: a lane that has performed returns: its registers have what it read
and are pending no more; with the last one the counter falls. Where the spec leaves a point open, the model's choice:
log entry 19. -/
def Obligations.AccessesReturn : Prop :=
  ∀ (s : State) (aid : Nat) (a : Access) (u : Issuer) (la : LaneAccess) (rest : List LaneAccess) (v : BitVec 272),
    Returning s aid a u la rest → la.value = some v →
    (∀ w l1, a.kind = .load w → Returned s aid a u rest
      (fun old g => Delivered old g a.scalar la.lane la.dest (loaded w v) ∧ OnlyDelivered old g) (exec (.loadWriteback aid 1 l1) s)) ∧
    (∀ op, a.kind = .rmw op true → Returned s aid a u rest
      (fun old g => Delivered old g a.scalar la.lane la.dest (oldWords op v) ∧ OnlyDelivered old g) (exec (.atomicPerform aid 1) s)) ∧
    (∀ op, a.kind = .rmw op false → Returned s aid a u rest (fun old g => g = old) (exec (.atomicPerform aid 1) s)) ∧
    (a.kind = .store ∨ (∃ f, a.kind = .mxStore f) → Returned s aid a u rest (fun old g => g = old) (exec (.storePerform aid 1) s)) ∧
    (∀ fmt reg, a.kind = .mxLoad fmt reg → Returned s aid a u rest (BlockDelivered a fmt reg la v) (exec (.ldmxCompletion aid 1) s))

/-! ## Memory ordering -/

section

open Sys2Proof.Ordering Sys2Proof.Litmus

/-- spec/07 R174 to R193: what the axioms of memory ordering let a read return. No read takes a write older than one that
happens before it; program order is the order of a group's writes of one byte; without a data race the write that a read
takes from another agent happens before it, or the two form a morally strong pair; and the verdicts of the spec's
catalogue of tests hold. Where the spec leaves a point open, the model's choice: log entries 1, 87. -/
def Obligations.OrderingVerdicts : Prop :=
  (∀ (x : Execution) (b : Location) (w r : Nat), Consistent x → x.hb w r → x.writesAt b w = true → x.readsAt b r = true →
    x.rank b (some w) ≤ x.rank b (x.source r b)) ∧
  (∀ (x : Execution) (b : Location) (v w : Nat), Consistent x → x.po v w = true → x.writesAt b v = true → x.writesAt b w = true →
    x.coAt b v w = true) ∧
  (∀ (x : Execution) (b : Location) (w r : Nat), Consistent x → (∀ i j, ¬ Race x i j) → x.rfAt b w r = true →
    x.two (fun e f => e.agent != f.agent && !strong e f) w r = true → x.hb w r) ∧
  (let rel := storeRel groupP 1 .device wordY
   let acq := loadAcq farAway 0 .device wordY
   Forbidden (messagePassing farAway rel acq) FlagWithoutData ∧
   Allowed (messagePassing farAway (store groupP 1 wordY) acq) FlagWithoutData ∧
   Allowed (messagePassing farAway rel acq) (fun x => Sees x 2 wordY none ∧ Sees x 3 wordX (some 0))) ∧
  (Forbidden (scopedPassing sameTeam .team .team) FlagWithoutData ∧ Allowed (scopedPassing sameCluster .team .team) FlagWithoutData ∧
   Forbidden (scopedPassing sameCluster .cluster .cluster) FlagWithoutData ∧
   Allowed (scopedPassing farAway .cluster .cluster) FlagWithoutData ∧ Allowed (scopedPassing farAway .device .team) FlagWithoutData) ∧
  (Forbidden (promotion true) PromotedWithoutData ∧ Allowed (promotion false) PromotedWithoutData) ∧
  (Allowed (storeBuffering fun _ => none) NeitherStore ∧ Allowed (storeBuffering fun a => some (fenceOf a 1 true false .device)) NeitherStore ∧
   Forbidden (storeBuffering fun a => some (fenceOf a 1 true true .device)) NeitherStore ∧
   Allowed (storeBuffering fun a => some (fenceOf a 1 true true .team)) NeitherStore) ∧
  (Allowed (loadBuffering false) BothLater ∧ Forbidden (loadBuffering true) BothLater) ∧
  (Forbidden (independentReads fun a l => loadAcq a 0 .device l) OppositeOrders ∧
   Allowed (independentReads fun a l => load a 0 l) OppositeOrders) ∧
  (Forbidden readsOfOne (fun x => Sees x 2 wordX (some 1) ∧ Sees x 3 wordX (some 0)) ∧
   Allowed readsOfOne (fun x => Sees x 2 wordX (some 0) ∧ Sees x 3 wordX (some 1))) ∧
  (Allowed (freshCopy false) Stale ∧ Allowed (freshCopy false) (fun x => Sees x 4 (teamWord 0 0x100) (some 2) ∧ Sees x 1 wordX (some 0)) ∧
   Forbidden (freshCopy true) Stale) ∧
  Forbidden blockPassing Torn ∧
  (Forbidden (operandB .bars) OldOperand ∧ Allowed (operandB .nothing) OldOperand ∧ Allowed (operandB .ownStore) OldOperand ∧
   Forbidden (operandB .ownFence) OldOperand) ∧
  (Forbidden twoHops (HopsSee none) ∧ Allowed twoHops (HopsSee (some 0)))

end

/-! ## Copies and collectives -/

/-- spec/10 R282 to R287: a copy whose arguments are legal joins its tenant's queue; with wrong arguments it traps; it waits
in place while the queue is full. spec/10 R288, R289: cpclose closes the open batch under the next number; cpwait and
its immediate form block for the batches up to a number, and trap for a number of the future. -/
def Obligations.CopiesIssue : Prop :=
  (∀ (i : Instr) (s : State) (u : Issuer) (uses : List Use) (opc : Nat) (ok : Prop) (kind : EntryKind),
     copyOf s u i = some (uses, opc, ok, kind) → i.WellFormed = true → Issuing s u → ScalarsFit u uses →
     (ok → ¬ detRefuses u i → HasRoom s u 0 → ∃ t, exec i s = .next t ∧ CopyIssued s u kind opc 0 t) ∧
     (ok → ¬ detRefuses u i → ¬ HasRoom s u 0 → ∃ t, exec i s = .next t ∧ WaitsHere s u 11 t) ∧
     (ok → detRefuses u i → ∃ t, exec i s = .next t ∧ Traps s u .det 5 t) ∧
     (¬ ok → ∃ t, exec i s = .next t ∧ Traps s u .copy 1 t)) ∧
  ((∀ (f : FormV) (s : State) (u : Issuer), (Instr.cpclose f).WellFormed = true → Issuing s u → ScalarsFit u [dst f.d] →
     ∃ b, Closes s u.g.copyOpen b ∧
       (b.done = true ∨ openBatches u.g.copyBatches < 64 →
         ∃ t g bs, exec (.cpclose f) s = .next t ∧
           t = { s with groups := t.groups, contexts := t.contexts, entries := t.entries } ∧ OtherGroups s t u.gid ∧
           OnlySound s t u ∧ SameMemory s t ∧
           (∀ n, t.entries.get? n = (s.entries.get? n).map fun e =>
             if n ∈ b.entries then { e with batch := (u.g.copyLast + 1).toNat } else e) ∧
           bs.get? (u.g.copyLast + 1).toNat = some b ∧
           (∀ n, n ≠ (u.g.copyLast + 1).toNat → bs.get? n = u.g.copyBatches.get? n) ∧
           t.groups.get? u.gid = some g ∧ NextPlace u void g ∧
           ScalarIs { u with g := { u.g with copyOpen := [], copyLast := u.g.copyLast + 1, copyBatches := bs } } f.d
             (u.g.copyLast + 1) g) ∧
       (b.done = false → 64 ≤ openBatches u.g.copyBatches → ∃ t, exec (.cpclose f) s = .next t ∧ WaitsHere s u 3 t)) ∧
   (∀ (f : FormV) (s : State) (u : Issuer), (Instr.cpwait f).WellFormed = true → Issuing s u →
     ScalarsFit u [Machine.src fieldA f.a] →
     (Reached (rd u f.a 0) u.g.copyLast →
       ∃ t, exec (.cpwait f) s = .next (settle t) ∧ Blocks s u (.copyBatch (rd u f.a 0)) t) ∧
     (¬ Reached (rd u f.a 0) u.g.copyLast → ∃ t, exec (.cpwait f) s = .next t ∧ Traps s u .sync 8 t)) ∧
   (∀ (f : FormI) (s : State) (u : Issuer), (Instr.cpwaitImm f).WellFormed = true → Issuing s u →
     ∃ t, exec (.cpwaitImm f) s = .next (settle t) ∧ Blocks s u (.copyBatch (u.g.copyLast - f.imm.zeroExtend 32)) t))

/-- spec/07 R178; spec/10 R282, R285, R288: an entry that may run moves its bytes and is over: between teams of a cluster,
and between a team and a line of memory whose page is marked as accessed, where no group is blocked. An entry that has
performed and waits for nothing more is over. Where the spec leaves a point open, the model's choice: log entry 18. -/
def Obligations.CopiesMove : Prop :=
  (∀ (s : State) (id : Nat) (e : Entry) (u : Issuer) (dt d st sr n : Nat) (x : Team), EntryRuns s id e u → e.engine < 2 →
    e.kind = .cluster dt d st sr n none → u.c.rmode = 0 → Quiet s → InTeam s st sr n → InTeam s dt d n →
    (dt ≠ st ∨ d + n ≤ sr ∨ sr + n ≤ d) → s.teams.get? st = some x →
    ∃ t, exec (.copyEntryComplete id) s = .next t ∧ TeamHas s t dt d n (fun k => teamByte x (sr + k)) ∧
      OtherTeamBytes s t dt ∧ SameMemory s t ∧ EntryGone s t id e) ∧
  (∀ (s : State) (id : Nat) (e : Entry) (u : Issuer) (off va n loc c level leaf at_ : Nat), EntryRuns s id e u → e.engine < 2 →
    e.kind = .globalToTeam off va n 0 → u.c.rmode = 0 → Quiet s → NoDirty s → InTeam s e.team off n → 0 < n →
    va % 64 + n ≤ 64 → off % 64 + n ≤ 64 → va + n ≤ 2 ^ 57 → walkVa s u.c.root va = .leaf level leaf at_ → pteA leaf = true →
    walkXlate s u.c.root va kindEngineRead = .ok (.phys loc c false) → poisoned s.memPoison loc n = false →
    ∃ t, exec (.copyEntryComplete id) s = .next t ∧ TeamHas s t e.team off n (fun k => Memory.byte s.mem (loc + k)) ∧
      OtherTeamBytes s t e.team ∧ SameMemory s t ∧ EntryGone s t id e) ∧
  (∀ (s : State) (id : Nat) (e : Entry) (u : Issuer) (off va n loc c level leaf at_ : Nat) (x : Team), EntryRuns s id e u →
    e.engine < 2 → e.kind = .teamToGlobal off va n 0 → u.c.rmode = 0 → Quiet s → NoDirty s → InTeam s e.team off n → 0 < n →
    va % 64 + n ≤ 64 → off % 64 + n ≤ 64 → va + n ≤ 2 ^ 57 → walkVa s u.c.root va = .leaf level leaf at_ →
    pteA leaf = true → pteDirty leaf = true → s.teams.get? e.team = some x →
    walkXlate s u.c.root va kindEngineWrite = .ok (.phys loc c false) → poisoned s.memPoison loc n = false →
    ∃ t, exec (.copyEntryComplete id) s = .next t ∧ (∀ k, k < n → Memory.byte t.mem (loc + k) = teamByte x (off + k)) ∧
      SameMemoryBut s t loc n ∧ (∀ k, (t.teams.get? k).map (·.mem) = (s.teams.get? k).map (·.mem)) ∧ EntryGone s t id e) ∧
  (∀ (s : State) (id : Nat) (e : Entry) (u : Issuer), s.entries.get? id = some e → issuerOf s e.group = some u →
    e.started = true → e.stalled = none → entryFree s id e = true → e.performed = true → s.credits.get? id = none →
    unsent s id = false → e.engine < 2 → (∀ a b c d f g h i j k, e.kind ≠ .collective a b c d f g h i j k) →
    ∃ t g, exec (.copyEntryComplete id) s = .next (settle t) ∧ EntryGone s t id e ∧ SameMemory s t ∧
      t.groups.get? e.group = some g ∧
      ∀ n b, u.g.copyBatches.get? n = some b → ∃ b', g.copyBatches.get? n = some b' ∧ b'.entries = b.entries ∧
        (b'.done = true ↔ b.done = true ∨ ∀ m ∈ b.entries, t.entries.get? m = none))

/-- spec/12 R349: the arbiter visits the next tenant's queue, adds its credit, and starts head entries while the credit
lasts. spec/23 R468; spec/12 R350; spec/06 R170: the watchdog aborts an entry that has run four slices: it is over, and
its launch owes debt; so with a matrix operation or a delivery of a peer that has waited so long for a page. Where the
spec leaves a point open, the model's choice: log entries 34, 50, 88. -/
def Obligations.EntriesStart : Prop :=
  (∀ (s : State) (core engine tn k : Nat) (c : Core) (x : Tenant) (q : EngineQueue), s.cores.get? core = some c → engine < 2 →
     Visits c engine tn → s.tenants.get? tn = some x → queueOf c engine tn = q →
     (∀ n ∈ q.entries, ∃ e, s.entries.get? n = some e ∧ 0 < entryBytes e) → q.entries.Nodup →
     let credit := q.credit + 4096 * x.weight
     Starts s q.entries credit k →
     ∃ t d, exec (.engineEntryStart core engine) s = .next t ∧ t = { s with cores := t.cores, entries := t.entries } ∧
       (∀ n, t.entries.get? n = (s.entries.get? n).map fun e =>
         if n ∈ q.entries.take k then { e with started := true, startTick := s.ticks.toNat } else e) ∧
       (∀ m, m ≠ core → t.cores.get? m = s.cores.get? m) ∧ t.cores.get? core = some d ∧
       d = { c with visited := d.visited, queues := d.queues } ∧ d.visited.get? engine = some tn ∧
       queueOf d engine tn = (if k < q.entries.length then ⟨q.entries.drop k, creditAfter s q.entries credit k⟩ else ⟨[], 0⟩) ∧
       ∀ m, m ≠ queueKey engine tn → d.queues.get? m = c.queues.get? m) ∧
  (∀ (s : State) (id : Nat) (e : Entry) (u : Issuer) (x : Tenant), s.entries.get? id = some e → issuerOf s e.group = some u →
     e.started = true → e.engine < 2 → u.calm = false → s.tenants.get? e.tenant = some x →
     e.startTick + 4 * x.slice * 1000 ≤ s.ticks.toNat → (∀ a b c d f g h i j k, e.kind ≠ .collective a b c d f g h i j k) →
     ∃ t l, exec (.watchdogAbort id) s = .next t ∧ t.entries.get? id = none ∧
       (∀ n, n ≠ id → t.entries.get? n = s.entries.get? n) ∧ t.launches.get? u.g.launch = some l ∧ l.debt = true) ∧
  (∀ (s : State) (op : Nat) (j : JointOp) (mb : Member) (u : Issuer) (x : Tenant) (k : Nat) (w : Walk), s.entries.get? op = none →
     s.joints.get? op = some j → j.members.head? = some mb → issuerOf s mb.group = some u → u.calm = false →
     j.stalled = some k → s.walks.get? k = some w → s.tenants.get? u.c.tenant = some x →
     j.startTick + 4 * x.slice * 1000 ≤ s.ticks.toNat →
     ∃ t l, exec (.watchdogAbort op) s = .next t ∧ t.joints.get? op = none ∧ t.launches.get? u.g.launch = some l ∧ l.debt = true) ∧
  (∀ (s : State) (id : Nat) (w : Walk) (c : Context) (x : Tenant) (t0 : Nat), s.entries.get? id = none → s.joints.get? id = none →
     s.walks.get? id = some w → w.began = some t0 → s.contexts.get? w.ctx = some c → c.stage ≠ .demoted →
     s.tenants.get? c.tenant = some x → t0 + 4 * x.slice * 1000 ≤ s.ticks.toNat →
     ∃ t, exec (.watchdogAbort id) s = .next t ∧ t.walks.get? id = none ∧ ∀ n, n ≠ id → t.walks.get? n = s.walks.get? n)

/-- spec/10 R290: coll reads its descriptor in team memory; the collective of its team's rank is the communicator's next.
Where the spec leaves a point open, the model's choice: log entry 36. -/
def Obligations.CollectivesIssue : Prop :=
  ∀ (f : FormV) (s : State) (u : Issuer), (Instr.coll f).WellFormed = true → Issuing s u →
    ScalarsFit u [Machine.src fieldA f.a] →
    let off := (rd u f.a 0).toNat
    let w := teamWord u.t off
    (off % 32 ≠ 0 ∨ u.l.teamMem < off + 32 → ∃ t, exec (.coll f) s = .next t ∧ Traps s u .copy 1 t) ∧
    (off % 32 = 0 → off + 32 ≤ u.l.teamMem → ¬ HasRoom s u 1 → ∃ t, exec (.coll f) s = .next t ∧ WaitsHere s u 11 t) ∧
    (off % 32 = 0 → off + 32 ≤ u.l.teamMem → HasRoom s u 1 →
      (∀ p ∈ s.accesses, p.2.group ≠ u.gid ∧ p.2.checked = false) → u.c.rmode = 0 →
      poisoned u.t.memPoison off 32 = false → (∀ p ∈ s.accesses, p.1 < s.nextId) → (∀ p ∈ s.entries, p.1 < s.nextId) →
      (∀ c rank, u.c.comms.get? (descComm w) = some c → RankIs s c u.t.index rank → DescriptorLegal w c.ranks.length →
        stagedOf s u.l.ctx (descComm w) (c.issued.read rank 0) = none →
        ∃ t id e g, exec (.coll f) s = .next t ∧ s.nextId ≤ id ∧ t.entries.get? id = some e ∧
          EntryIs s u (.collective (descComm w) (c.issued.read rank 0) (descOp w) (descType w) (descRop w) (descRoot w)
            (descCount w) (sentBy w c.ranks.length rank) (descSend w) (descRecv w)) 0x2D4 1 e ∧
          (∀ n, n ≠ id → t.entries.get? n = s.entries.get? n) ∧ SameMemory s t ∧ OtherGroups s t u.gid ∧
          t.groups.get? u.gid = some g ∧ NextPlace u void g ∧
          g = { moved u.g g with rc := u.g.rc + 1, copyOpen := u.g.copyOpen ++ [(id, u.g.rc.toNat)] } ∧
          ∃ y d, t.contexts.get? u.l.ctx = some y ∧ y.comms.get? (descComm w) = some d ∧ d.ranks = c.ranks ∧
            ∀ r, d.issued.read r 0 = if r = rank then c.issued.read rank 0 + 1 else c.issued.read r 0) ∧
      (u.c.comms.get? (descComm w) = none → ∃ t, exec (.coll f) s = .next t ∧ Traps s u .copy 1 t) ∧
      (∀ c, u.c.comms.get? (descComm w) = some c → (∀ rank, ¬ RankIs s c u.t.index rank) →
        ∃ t, exec (.coll f) s = .next t ∧ Traps s u .copy 1 t) ∧
      (∀ c, u.c.comms.get? (descComm w) = some c → ¬ DescriptorLegal w c.ranks.length →
        ∃ t, exec (.coll f) s = .next t ∧ Traps s u .copy 1 t))

/-! ## The matrix unit -/

/-- spec/11 R294 to R297: gangset writes the gang that it lists, or traps; omap writes an operand map; thset takes a tile
handle from a descriptor in team memory; opfence goes on once no register is in flight. spec/11 R298 to R304: mma and
mmasp. A member whose gang is not complete is held; when the last issues, all of them go on with one operation; where
the operations differ, or a register of A is poisoned, each of them takes a gang fault. Where the spec leaves a point
open, the model's choice: log entries 30, 31, 90. -/
def Obligations.MatrixRegisters : Prop :=
  ((∀ (f : FormI) (s : State) (u : Issuer), (Instr.gangset f).WellFormed = true → Issuing s u →
     (∀ gang, GangListed u f.imm gang → ∃ t, exec (.gangset f) s = .next t ∧
       GroupDone s u void (fun g => g = { moved u.g g with gang := gang, gangOps := 0 }) t) ∧
     ((∀ gang, ¬ GangListed u f.imm gang) → ∃ t, exec (.gangset f) s = .next t ∧ Traps s u .matrix 1 t)) ∧
   (∀ (f : FormV) (s : State) (u : Issuer), (Instr.omap f).WellFormed = true → Issuing s u →
     ScalarsFit u [Machine.src fieldA f.a, Machine.src fieldB f.b, Machine.src fieldC f.c] →
     let c := rd u f.c 0
     (c.extractLsb' 21 9 = 0 → ∃ t, exec (.omap f) s = .next t ∧ GroupDone s u void (fun g =>
       g.maps.get? f.d.toNat = some ⟨(rd u f.a 0).toNat, (rd u f.b 0).toNat, (c.extractLsb' 30 2).toNat, (c.extractLsb' 0 21).toNat⟩ ∧
       (∀ k, k ≠ f.d.toNat → g.maps.get? k = u.g.maps.get? k) ∧ g = { moved u.g g with maps := g.maps }) t) ∧
     (c.extractLsb' 21 9 ≠ 0 → ∃ t, exec (.omap f) s = .next t ∧ Traps s u .matrix 5 t)) ∧
   (∀ (f : FormV) (s : State) (u : Issuer), (Instr.thset f).WellFormed = true → Issuing s u →
     ScalarsFit u [Machine.src fieldA f.a] →
     let off := (rd u f.a 0).toNat
     let w := teamWord u.t off
     (off % 32 ≠ 0 ∨ u.l.teamMem < off + 32 → ∃ t, exec (.thset f) s = .next t ∧ Traps s u .matrix 5 t) ∧
     (off % 32 = 0 → off + 32 ≤ u.l.teamMem → (∀ p ∈ s.accesses, p.2.group ≠ u.gid ∧ p.2.checked = false) → u.c.rmode = 0 →
       poisoned u.t.memPoison off 32 = false → (∀ p ∈ s.accesses, p.1 < s.nextId) →
       (HandleLegal w → ∃ t g, exec (.thset f) s = .next t ∧ OtherGroups s t u.gid ∧ SameMemory s t ∧
         t.groups.get? u.gid = some g ∧ NextPlace u void g ∧ g.handles.get? f.d.toNat = some (handleIn w) ∧
         (∀ k, k ≠ f.d.toNat → g.handles.get? k = u.g.handles.get? k) ∧ g = { moved u.g g with handles := g.handles }) ∧
       (¬ HandleLegal w → ∃ t, exec (.thset f) s = .next t ∧ Traps s u .matrix 5 t))) ∧
   (∀ (f : FormV) (s : State) (u : Issuer), (Instr.opfence f).WellFormed = true → Issuing s u →
     (u.g.vPending = [] → u.g.sPending = [] → ∃ t, exec (.opfence f) s = .next t ∧ GroupDone s u void (Only u) t) ∧
     (u.g.vPending ≠ [] ∨ u.g.sPending ≠ [] → exec (.opfence f) s = .next s))) ∧
  (∀ (i : Instr) (m : MatrixForm) (s : State) (u : Issuer), matrixForm i = some m → i.WellFormed = true → Issuing s u →
     (MatrixLegal u m → (∃ k ∈ u.g.gang, k ≠ u.g.g) → (∀ p ∈ s.joints, p.2.team = u.g.team → p.2.ready = true) →
       ∃ t, exec i s = .next t ∧ IsHeld s u m t) ∧
     (∀ at_, MatrixLegal u m → LastOf s u at_ → ∃ mb, MemberIs u m mb ∧
       let others := fun ok : Member → Prop => ∀ k g, u.g.gang[k]? = some g → g ≠ u.g.g → ok (at_ k).2.1
       (others (Agree mb) → mb.fragment.bad = none → others (fun x => x.fragment.bad = none) →
         ∃ t, exec i s = .next (settle t) ∧ Formed s u m mb at_ t) ∧
       (¬ others (Agree mb) → ∃ t, exec i s = .next (settle t) ∧ GangUndone s u at_ .matrix 2 t) ∧
       (others (Agree mb) → ¬ (mb.fragment.bad = none ∧ others fun x => x.fragment.bad = none) → ∃ t, exec i s = .next (settle t) ∧ GangUndone s u at_ .err 1 t)) ∧
     (dotKind u.g.fmt = none → ∃ t, exec i s = .next t ∧ Traps s u .fmt 2 t))

/-- spec/11 R303, R305, R306: an operation whose B stands in team memory adds the products to the tiles of C; it is the
complete last writer of its tiles, and its flags enter the batches of its members. spec/11 R305: mmclose closes the open
matrix batch under the next number, and sets its flags where it is complete; mmwait and its immediate form block for the
batches up to a number, and trap for a number of the future. Where the spec leaves a point open, the model's choice: log
entries 30, 31. -/
def Obligations.MatrixEngine : Prop :=
  (∀ (s : State) (op : Nat) (j : JointOp) (mb : Member) (u : Issuer) (x : Team) (l : Launch) (kind : DotKind) (mp : OperandMap),
     JointRuns s op j mb u → j.team = u.g.team → u.c.rmode = 0 → s.teams.get? j.team = some x →
     s.launches.get? x.launch = some l → dotKind j.fmt = some kind → j.map = some mp → j.n % 32 = 0 → 0 < j.n →
     (∀ c o, c < j.n → o < columnSize (fmtBF j.fmt) →
       columnByte mp c o < l.teamMem ∧ poisoned x.memPoison (columnByte mp c o) 1 = false) →
     (fmtSCALE j.fmt = true → ∀ c, c < j.n → mp.scales + c < l.teamMem ∧ poisoned x.memPoison (mp.scales + c) 1 = false) →
     (∀ b ∈ j.members, b.fragment.rows.length = 32 ∧ b.fragment.scales.length = 32) →
     (j.members.map (·.group)).Nodup → (∀ b ∈ j.members, ∀ g, s.groups.get? b.group = some g → g.mmBatches.sorted = true) →
     (∀ i c, i < 32 * j.members.length → c < j.n → x.tilePoison.get? (cellKey j i c) = none) →
     ∃ t y fl, exec (.matrixOpComplete op) s = .next (settle t) ∧ SameMemory s t ∧
       (∀ n, t.joints.get? n = if n = op then none else s.joints.get? n) ∧ t.teams.get? j.team = some y ∧
       (∀ i c, i < 32 * j.members.length → c < j.n →
         y.tiles.read (cellKey j i c) 0 = BitVec.ofNat 32 (cell x j kind mp i c).1) ∧
       (∀ k, (∀ i c, i < 32 * j.members.length → c < j.n → k ≠ cellKey j i c) → y.tiles.read k 0 = x.tiles.read k 0) ∧
       (∀ k, k < 7 → (fl.getLsbD k = true ↔
         ∃ i c, i < 32 * j.members.length ∧ c < j.n ∧ (cell x j kind mp i c).2.getLsbD k = true)) ∧
       (∀ k, y.writers.get? k = (x.writers.get? k).map fun w => if w.op = op then { w with complete := true } else w) ∧
       (∀ b ∈ j.members, ∀ g, s.groups.get? b.group = some g → ∃ h, t.groups.get? b.group = some h ∧ BatchesAfter t op fl g h) ∧
       ∀ n, (∀ b ∈ j.members, n ≠ b.group) → t.groups.get? n = s.groups.get? n) ∧
  ((∀ (f : FormV) (s : State) (u : Issuer), (Instr.mmclose f).WellFormed = true → Issuing s u → ScalarsFit u [dst f.d] →
     let n := u.g.mmLast + 1
     ∃ b : Batch, b.entries = u.g.mmOpen.map (·.1) ∧ b.flags = u.g.mmOpenFlags ∧
       (b.done = true ↔ ∀ p ∈ u.g.mmOpen, s.joints.get? p.1 = none) ∧
       (b.done = true ∨ openBatches u.g.mmBatches < 64 →
         ∃ t bs, exec (.mmclose f) s = .next t ∧ bs.get? n.toNat = some b ∧
           (∀ k, k ≠ n.toNat → bs.get? k = u.g.mmBatches.get? k) ∧
           GroupDone s u void (ScalarIs { u with g := { u.g with
             mmOpen := [], mmOpenFlags := 0, mmLast := n, mmBatches := bs
             fpstat := u.g.fpstat ||| (if b.done then b.flags.zeroExtend 32 else 0) } } f.d n) t) ∧
       (b.done = false → 64 ≤ openBatches u.g.mmBatches → ∃ t, exec (.mmclose f) s = .next t ∧ WaitsHere s u 3 t)) ∧
   (∀ (f : FormV) (s : State) (u : Issuer), (Instr.mmwait f).WellFormed = true → Issuing s u →
     ScalarsFit u [Machine.src fieldA f.a] →
     (Reached (rd u f.a 0) u.g.mmLast →
       ∃ t, exec (.mmwait f) s = .next (settle t) ∧ Blocks s u (.matrixBatch (rd u f.a 0)) t) ∧
     (¬ Reached (rd u f.a 0) u.g.mmLast → ∃ t, exec (.mmwait f) s = .next t ∧ Traps s u .sync 8 t)) ∧
   (∀ (f : FormI) (s : State) (u : Issuer), (Instr.mmwaitImm f).WellFormed = true → Issuing s u →
     ∃ t, exec (.mmwaitImm f) s = .next (settle t) ∧ Blocks s u (.matrixBatch (u.g.mmLast - f.imm.zeroExtend 32)) t))

/-- spec/11 R307 to R309: the instructions of the accumulator store, and the completion of those that take their time. Where
the spec leaves a point open, the model's choice: log entry 41. -/
def Obligations.AccumulatorStore : Prop :=
  (∀ (f : FormT) (s : State) (u : Issuer), (Instr.acczero f).WellFormed = true → Issuing s u →
    let n := f.shape.toNat + 1
    (f.acc.toNat + n ≤ u.l.acc → (∀ k, k < n → TileFree u (f.acc.toNat + k)) →
      ∃ t, exec (.acczero f) s = .next t ∧ OnlyTeam s t u ∧
        (∃ g, t.groups.get? u.gid = some g ∧ NextPlace u void g ∧ Only u g) ∧ TeamTiles s t u fun y =>
          (∀ k, y.tiles.read k 0 =
            if 1024 * f.acc.toNat ≤ k ∧ k < 1024 * (f.acc.toNat + n) then 0 else u.t.tiles.read k 0) ∧
          CleanTiles y f.acc.toNat n ∧ y = { u.t with tiles := y.tiles, tilePoison := y.tilePoison }) ∧
    (u.l.acc < f.acc.toNat + n → ∃ t, exec (.acczero f) s = .next t ∧ Traps s u .matrix 4 t) ∧
    (f.acc.toNat + n ≤ u.l.acc → ¬ (∀ k, k < n → TileFree u (f.acc.toNat + k)) →
      ∃ t, exec (.acczero f) s = .next t ∧ Traps s u .matrix 7 t)) ∧
  (∀ (f : FormT) (s : State) (u : Issuer), (Instr.accadd f).WellFormed = true → Issuing s u →
    let n := f.shape.toNat + 1
    let d := f.acc.toNat
    let b := f.bs.toNat
    let inRange := d + n ≤ u.l.acc ∧ b + n ≤ u.l.acc
    let apart := d = b ∨ b + n ≤ d ∨ d + n ≤ b
    let free := ∀ k, k < n → TileFree u (d + k) ∧ TileFree u (b + k)
    (inRange → apart → free → u.t.tilePoison = [] →
      ∃ t, exec (.accadd f) s = .next t ∧ OnlyTeam s t u ∧
        (∃ g, t.groups.get? u.gid = some g ∧ NextPlace u void g ∧ g = { moved u.g g with fpstat := g.fpstat } ∧
          ∀ k, k < 32 → (g.fpstat.getLsbD k = true ↔ u.g.fpstat.getLsbD k = true ∨ ∃ e, e < 1024 * n ∧
            ((tileSum u.g.fmt (u.t.tiles.read (1024 * d + e) 0) (u.t.tiles.read (1024 * b + e) 0)).2.zeroExtend 32).getLsbD k = true)) ∧
        TeamTiles s t u fun y => y = { u.t with tiles := y.tiles } ∧
          ∀ k, y.tiles.read k 0 = if 1024 * d ≤ k ∧ k < 1024 * (d + n) then
              BitVec.ofNat 32 (tileSum u.g.fmt (u.t.tiles.read k 0) (u.t.tiles.read (1024 * b + (k - 1024 * d)) 0)).1
            else u.t.tiles.read k 0) ∧
    (¬ inRange → apart → ∃ t, exec (.accadd f) s = .next t ∧ Traps s u .matrix 4 t) ∧
    (inRange → ¬ apart → ∃ t, exec (.accadd f) s = .next t ∧ Traps s u .matrix 5 t) ∧
    (inRange → apart → ¬ free → ∃ t, exec (.accadd f) s = .next t ∧ Traps s u .matrix 7 t)) ∧
  (∀ (f : FormT) (s : State) (u : Issuer), (Instr.accld f).WellFormed = true → Issuing s u → u.l.width ≤ 128 →
    u.g.counter (hdrSetd u.header) < 63 →
    (u.l.acc ≤ f.acc.toNat → ∃ t, exec (.accld f) s = .next t ∧ Traps s u .matrix 4 t) ∧
    (f.acc.toNat < u.l.acc → ¬ TileFree u f.acc.toNat → ∃ t, exec (.accld f) s = .next t ∧ Traps s u .matrix 7 t) ∧
    (f.acc.toNat < u.l.acc → TileFree u f.acc.toNat → CleanTiles u.t f.acc.toNat 1 →
      (∀ l ∈ u.enabledLanes f.tt, Fits u l ⟨fieldA, f.ab, 1024 / u.l.width, 1, true⟩) →
      ∃ t, exec (.accld f) s = .next t ∧ Awaits s u (.accld [f.acc.toNat]) (tileLoads u f) 0 { t with teams := s.teams } ∧
        TeamTiles s t u (ReadBy u.t f.acc.toNat (if u.enabledLanes f.tt = [] then 0 else 1)))) ∧
  (∀ (s : State) (n : Nat) (d : Deferred) (u : Issuer) (tile : Nat), InFlight s n (.accld [tile]) d u →
    ∃ t, exec (.accldCompletion n) s = .next t ∧ Arrives s n d u { t with teams := s.teams } ∧
      TeamTiles s t u fun y => y = { u.t with tileReads := y.tileReads } ∧
        ∀ k, y.tileReads.read k 0 = if k = tile then u.t.tileReads.read k 0 - 1 else u.t.tileReads.read k 0) ∧
  (∀ (sp : GTSpace) (f : FormM) (s : State) (u : Issuer), (Instr.accst sp f).WellFormed = true → Issuing s u →
    u.g.counter (hdrSetd u.header) < 63 →
    let rs := (f.off.extractLsb' 10 8).toNat
    let base := match sp with
      | .g => (rd64 u f.a 0).toNat
      | .t => (rd u f.a 0).toNat
    let stride := (u.g.sreg rs).toNat
    ScalarsFit u [baseUse (gtSpace sp) f.a, Machine.src fieldOff (BitVec.ofNat 11 (0x700 + rs))] →
    (fmtOUTF u.g.fmt ∈ outCodes → TileStoreLegal u f.d.toNat base stride → TileFree u f.d.toNat → CleanTiles u.t f.d.toNat 1 →
      ∃ t, exec (.accst sp f) s = .next t ∧
        CountedIssued s u (.tile f.d.toNat (decide (sp = .t)) base stride (f.off.extractLsb' 2 8).toInt u.g.fmt
          ((List.range 1024).map fun e => (u.t.tiles.read (1024 * f.d.toNat + e) 0, false)) f.order.toNat f.scope.toNat)
          (if sp = .t then 0x30B else 0x30A) 2 t ∧
        TeamTiles s t u (ReadBy u.t f.d.toNat 1)) ∧
    (fmtOUTF u.g.fmt ∉ outCodes → ∃ t, exec (.accst sp f) s = .next t ∧ Traps s u .fmt 3 t) ∧
    (fmtOUTF u.g.fmt ∈ outCodes → u.l.acc ≤ f.d.toNat → ∃ t, exec (.accst sp f) s = .next t ∧ Traps s u .matrix 4 t) ∧
    (fmtOUTF u.g.fmt ∈ outCodes → f.d.toNat < u.l.acc → ¬ TileStoreLegal u f.d.toNat base stride →
      ∃ t, exec (.accst sp f) s = .next t ∧ Traps s u .matrix 5 t) ∧
    (fmtOUTF u.g.fmt ∈ outCodes → TileStoreLegal u f.d.toNat base stride → ¬ TileFree u f.d.toNat →
      ∃ t, exec (.accst sp f) s = .next t ∧ Traps s u .matrix 7 t)) ∧
  (∀ (s : State) (id : Nat) (e : Entry) (u : Issuer) (tile base stride : Nat) (sexp : Int) (fmt : Word) (words : List (Word × Bool))
    (scope : Nat) (x : Team), EntryRuns s id e u → e.engine = 2 → e.kind = .tile tile true base stride sexp fmt words 0 scope →
    u.c.rmode = 0 → Quiet s → e.sound = none → e.overrun = none → s.teams.get? e.team = some x → words.length = 1024 →
    (∀ w ∈ words, w.2 = false) → fmtOUTF fmt ∈ outCodes →
    let z := outSize (fmtOUTF fmt)
    32 * z ≤ stride → InTeam s e.team base (31 * stride + 32 * z) →
    let code := fun i k => tileCode fmt sexp ((words.getD (32 * i + k) (0, false)).1)
    ∃ t y g, exec (.accstCompletion id) s = .next t ∧ SameMemory s t ∧ OtherTeamBytes s t e.team ∧ EntryGone s t id e ∧
      t.teams.get? e.team = some y ∧
      (∀ i k b, i < 32 → k < 32 → b < z → teamByte y (base + i * stride + k * z + b) = BitVec.ofNat 8 ((code i k).1 / 256 ^ b)) ∧
      (∀ a, (∀ i, i < 32 → a < base + i * stride ∨ base + i * stride + 32 * z ≤ a) → teamByte y a = teamByte x a) ∧
      (y.tileReads.read tile 0 = x.tileReads.read tile 0 - 1) ∧ t.groups.get? e.group = some g ∧
      ∃ fl, CounterFalls u e fl g ∧ ∀ k, k < 7 → (fl.getLsbD k = true ↔ ∃ i c, i < 32 ∧ c < 32 ∧ (code i c).2.getLsbD k = true))

/-! ## Horizon -/

/-- spec/11 R311, R315: a slot that the team does not own, that is not configured, or in which an error has been found, is a
fault, and so are merges of slots that do not differ or do not agree; hzinit configures an empty slot, hzclear empties
one, and both clear its statistics. spec/11 R312 to R315, R319: hzins inserts the tuples of the enabled lanes in
ascending order, and hzmerge those of another slot in their order; a front stays free of NaN keys, of equal keys and of
dominated tuples. An overflow of a TRAP slot, or in a DET launch of a REJECT slot, is a fault before any effect. Where a
DET launch buffers insertions, they join the buffer. Where the spec leaves a point open, the model's choice: log entries
42, 82. -/
def Obligations.HorizonInsertion : Prop :=
  ((∀ (i : Instr) (f : FormH) (b : Bool) (s : State) (u : Issuer), horizonForm i = some (f, b) → i.WellFormed = true → Issuing s u →
     ((∃ f, i = .hzread f) ∨ (∃ sp f, i = .hzstore sp f) → u.g.counter (hdrSetd u.header) < 63) →
     (u.l.hz ≤ f.hs.toNat → ∃ t, exec i s = .next t ∧ Traps s u .hzn 1 t) ∧
     (b = true → f.hs.toNat < u.l.hz → u.t.slots.get? f.hs.toNat = none → ∃ t, exec i s = .next t ∧ Traps s u .hzn 2 t) ∧
     (∀ h, b = true → f.hs.toNat < u.l.hz → u.t.slots.get? f.hs.toNat = some h → h.bad = true →
       ∃ t, exec i s = .next t ∧ Traps s u .err 1 t)) ∧
   (∀ (f : FormH) (s : State) (u : Issuer), (Instr.hzinit f).WellFormed = true → Issuing s u → f.hs.toNat < u.l.hz →
     OwnDrained u f.hs.toNat →
     ∃ t, exec (.hzinit f) s = .next t ∧ TeamDone s u (SlotSet u f.hs.toNat ⟨f.d ++ f.a, [], 0, 0, 0, 0, 0, false⟩) t) ∧
   (∀ (f : FormH) (s : State) (u : Issuer) (h : HzSlot), (Instr.hzclear f).WellFormed = true → Issuing s u →
     SlotIs u f.hs.toNat h → OwnDrained u f.hs.toNat →
     ∃ t, exec (.hzclear f) s = .next t ∧ TeamDone s u (SlotSet u f.hs.toNat ⟨h.config, [], 0, 0, 0, 0, 0, false⟩) t) ∧
   (∀ (f : FormH) (s : State) (u : Issuer) (h x : HzSlot), (Instr.hzmerge f).WellFormed = true → Issuing s u →
     SlotIs u f.hs.toNat h → SlotIs u f.hx.toNat x →
     (f.hs = f.hx ∨ keyCount h ≠ keyCount x ∨ intKeys h ≠ intKeys x ∨ (∃ k, k < 8 ∧ upwards h k ≠ upwards x k)) →
     ∃ t, exec (.hzmerge f) s = .next t ∧ Traps s u .hzn 2 t)) ∧
  ((∀ (f : FormH) (s : State) (u : Issuer) (h : HzSlot), (Instr.hzins f).WellFormed = true → Issuing s u →
     SlotIs u f.hs.toNat h → FrontLegal h →
     (∀ l ∈ u.enabledLanes f.tt, Fits u l (srcRun fieldD f.d (keyCount h)) ∧ Fits u l (Machine.src fieldA f.a)) →
     let lanes := u.enabledLanes f.tt
     (¬ Buffers u h → ∃ (h1 : HzSlot) (ps : List (Bool × Bool)), InsertsAll h (lanes.map (laneTuple u f h)) ps h1 ∧ FrontLegal h1 ∧
       (¬ (Strict u h ∧ ∃ p ∈ ps, p.2 = true) → ∃ t, exec (.hzins f) s = .next t ∧ OnlyTeam s t u ∧
         (∃ g, t.groups.get? u.gid = some g ∧ NextPlace u void g ∧
           KeptPredicates u f (fun l : Nat => ∃ k : Nat, lanes[k]? = some l ∧ (ps[k]?).any (fun p : Bool × Bool => p.1) = true) g) ∧
         ∃ y, t.teams.get? u.g.team = some y ∧ SlotSet u f.hs.toNat h1 y) ∧
       (Strict u h → ∀ k l : Nat, lanes[k]? = some l → (ps[k]?).any (fun p : Bool × Bool => p.2) = true → (∀ j : Nat, j < k → (ps[j]?).any (fun p : Bool × Bool => p.2) = false) →
         ∃ t, exec (.hzins f) s = .next t ∧ Traps s u (if policyOf h = 3 then .hzn else .det) (if policyOf h = 3 then 3 else 4) t ∧
           ∃ g i, t.groups.get? u.gid = some g ∧ g.trap = some i ∧ i.lane = l)) ∧
     (Buffers u h → u.t.hzs.length + lanes.length ≤ 65536 → ∃ t, exec (.hzins f) s = .next t ∧ OnlyTeam s t u ∧
       (∃ g, t.groups.get? u.gid = some g ∧ NextPlace u void g ∧
         KeptPredicates u f (fun l => ¬ HasNaN h (laneTuple u f h l)) g) ∧
       ∃ y, t.teams.get? u.g.team = some y ∧ y = { u.t with hzs := u.t.hzs ++
         (lanes.map fun l => ⟨u.g.g, u.g.ic.toNat, l, f.hs.toNat, [laneTuple u f h l]⟩) }) ∧
     (Buffers u h → 65536 < u.t.hzs.length + lanes.length → ∃ t, exec (.hzins f) s = .next t ∧ Traps s u .det 3 t)) ∧
   (∀ (f : FormH) (s : State) (u : Issuer) (h x : HzSlot), (Instr.hzmerge f).WellFormed = true → Issuing s u →
     SlotIs u f.hs.toNat h → SlotIs u f.hx.toNat x → FrontLegal h → FrontLegal x → f.hs ≠ f.hx → keyCount h = keyCount x →
     intKeys h = intKeys x → (∀ k, k < 8 → upwards h k = upwards x k) → OwnDrained u f.hs.toNat → OwnDrained u f.hx.toNat →
     (¬ Buffers u h → ∃ (h1 : HzSlot) (ps : List (Bool × Bool)), InsertsAll h x.front ps h1 ∧ FrontLegal h1 ∧
       (¬ (Strict u h ∧ ∃ p ∈ ps, p.2 = true) → ∃ t, exec (.hzmerge f) s = .next t ∧ TeamDone s u (SlotSet u f.hs.toNat h1) t) ∧
       (Strict u h → (∃ p ∈ ps, p.2 = true) → ∃ t, exec (.hzmerge f) s = .next t ∧
         Traps s u (if policyOf h = 3 then .hzn else .det) (if policyOf h = 3 then 3 else 4) t)) ∧
     (Buffers u h → u.t.hzs.length < 65536 → ∃ t, exec (.hzmerge f) s = .next t ∧ TeamDone s u (fun y =>
       y = { u.t with hzs := u.t.hzs ++ [⟨u.g.g, u.g.ic.toNat, 0, f.hs.toNat, x.front⟩] }) t)))

/-- spec/11 R316, R317: what the reading instructions give: the tuples of the front, their number, a statistics counter, and
the image of the front in memory; and the completion of those that take their time. Where the spec leaves a point open,
the model's choice: log entries 18, 42, 90. -/
def Obligations.HorizonReads : Prop :=
  (∀ (f : FormH) (s : State) (u : Issuer) (h : HzSlot), (Instr.hzread f).WellFormed = true → Issuing s u →
    SlotIs u f.hs.toNat h → OwnDrained u f.hs.toNat → u.g.counter (hdrSetd u.header) < 63 →
    let k : Compute := ⟨⟨f.tt, false, some (dstRun f.d (keyCount h + 1)), [Machine.src fieldA f.a], 0⟩, fun u l =>
      ⟨frontRow h (rd u f.a l).toNat, [], none, 0⟩⟩
    OperandsFit u k.form → (∀ t ∈ h.front, t.keys.length = keyCount h) →
    ∃ t, exec (.hzread f) s = .next t ∧ Awaits s u .hzread (Claims.awaited u k) 0 t) ∧
  (∀ (s : State) (n : Nat) (d : Deferred) (u : Issuer), InFlight s n .hzread d u →
    ∃ t, exec (.hzreadCompletion n) s = .next t ∧ Arrives s n d u t) ∧
  (∀ (f : FormH) (s : State) (u : Issuer) (h : HzSlot), Issuing s u → SlotIs u f.hs.toNat h → OwnDrained u f.hs.toNat →
    let k := fun w : Word => (⟨⟨f.tt, f.sc, if f.nw then none else some (dst f.d), [], 1⟩, fun _ _ => word w⟩ : Compute)
    OperandsFit u (k 0).form →
    ((Instr.hzcount f).WellFormed = true → ∃ t, exec (.hzcount f) s = .next t ∧ Computed s u (k (BitVec.ofNat 32 h.front.length)) t) ∧
    ((Instr.hzstat f).WellFormed = true → ∃ t, exec (.hzstat f) s = .next t ∧ Computed s u (k (statistic h f.fn.toNat)) t)) ∧
  (∀ (sp : GTSpace) (f : FormH) (s : State) (u : Issuer) (h : HzSlot), (Instr.hzstore sp f).WellFormed = true → Issuing s u →
    SlotIs u f.hs.toNat h → OwnDrained u f.hs.toNat → u.g.counter (hdrSetd u.header) < 63 →
    ScalarsFit u [baseUse (gtSpace sp) f.a] →
    let base := match sp with
      | .g => (rd64 u f.a 0).toNat
      | .t => (rd u f.a 0).toNat
    let legal := LegalAt u (gtSpace sp) base (4 * (frontImage h).length)
    (legal → base % 4 = 0 → ∃ t, exec (.hzstore sp f) s = .next t ∧
      CountedIssued s u (.front (decide (sp = .t)) base (frontImage h)) (if sp = .t then 0x344 else 0x345) 3 t ∧
      t.teams = s.teams) ∧
    (legal → base % 4 ≠ 0 → ∃ t, exec (.hzstore sp f) s = .next t ∧ TrapsAt s u .mem memAlign 0xFF base 0 t) ∧
    (¬ legal → ∃ t, exec (.hzstore sp f) s = .next t ∧ TrapsAt s u .mem (illegalSub (gtSpace sp)) 0xFF base 0 t)) ∧
  (∀ (s : State) (id : Nat) (e : Entry) (u : Issuer) (base : Nat) (words : List Word) (x : Team), EntryRuns s id e u → e.engine = 3 →
    e.kind = .front true base words → u.c.rmode = 0 → Quiet s → e.sound = none → e.overrun = none →
    s.teams.get? e.team = some x → InTeam s e.team base (4 * words.length) →
    ∃ t g, exec (.hzstoreCompletion id) s = .next t ∧ SameMemory s t ∧ OtherTeamBytes s t e.team ∧ EntryGone s t id e ∧
      TeamHas s t e.team base (4 * words.length) (fun k => ((words.getD (k / 4) 0).extractLsb' (8 * (k % 4)) 8)) ∧
      t.groups.get? e.group = some g ∧ CounterFalls u e 0 g)

/-! ## Handlers, traps and Calm mode -/

/-- spec/11 R324 to R327: the instructions that a handler runs upon the groups of its context: reading and writing an item
of a stopped group, resuming, killing, halting, stepping and demoting; and their faults. spec/11 R328, R329; spec/20
R417: bpset and wpset write a comparator of the context, need a debuggable context, and leave it unchanged with wrong
arguments. Where the spec leaves a point open, the model's choice: log entries 44, 45, 46, 90. -/
def Obligations.HandlerInstructions : Prop :=
  ((∀ (f : FormV) (s : State) (u x : Issuer), (Instr.tgtrd f).WellFormed = true → Issuing s u →
     ScalarsFit u [dst64 f.d, src64 fieldA f.a, Machine.src fieldB f.b] → StoppedTarget s u (rd64 u f.a 0) x →
     (∀ v, itemAt x (rd u f.b 0) = some v → ∃ t, exec (.tgtrd f) s = .next t ∧ GroupDone s u void (PairIs u f.d v) t) ∧
     (itemAt x (rd u f.b 0) = none → kindOf (rd u f.b 0) ≠ 11 → ∃ t, exec (.tgtrd f) s = .next t ∧ Traps s u .priv 3 t)) ∧
   (∀ (f : FormV) (s : State) (u x : Issuer), (Instr.tgtwr f).WellFormed = true → Issuing s u →
     ScalarsFit u [src64 fieldA f.a, Machine.src fieldB f.b, src64 fieldC f.c] → StoppedTarget s u (rd64 u f.a 0) x →
     let w := rd u f.b 0
     let v := rd64 u f.c 0
     ((itemAt x w).isSome = true → MayWrite w v → HandlerClean s u → ∃ t, exec (.tgtwr f) s = .next (settle t) ∧ SameMemory s t ∧
       OnlyLines s t ∧ NoLine t x.t.core ∧ OnlySound s t u ∧ (∀ k, k ≠ u.gid → k ≠ x.gid → t.groups.get? k = s.groups.get? k) ∧
       (∃ g, t.groups.get? u.gid = some g ∧ NextPlace u void g ∧ Only u g) ∧
       ∃ g, t.groups.get? x.gid = some g ∧ ItemWritten x w v g) ∧
     ((itemAt x w).isSome = true → MayWrite w v → groupPerformed s u.gid = false → exec (.tgtwr f) s = .next s) ∧
     ((itemAt x w = none ∧ kindOf w ≠ 11) ∨ kindOf w ∈ [5, 8, 9, 10, 11] →
       ∃ t, exec (.tgtwr f) s = .next t ∧ Traps s u .priv 3 t)) ∧
   (∀ (f : FormV) (s : State) (u x : Issuer) (n : Nat), (Instr.tgtres f).WellFormed = true → Issuing s u →
     ScalarsFit u [src64 fieldA f.a, Machine.src fieldB f.b] → StoppedTarget s u (rd64 u f.a 0) x → HeaderAt s x n →
     HandlerClean s u → (rd u f.b 0).toNat ≤ 1 → x.g.index ≠ 16 →
     (x.g.status = .parked ∨ (x.g.status = .halted ∧ x.g.wait = none)) →
     ∃ t, exec (.tgtres f) s = .next (settle t) ∧ SameMemory s t ∧ Served s t u.l.ctx x.gid ∧
       (∀ k, k ≠ u.gid → k ≠ x.gid → t.groups.get? k = s.groups.get? k) ∧
       (∃ g, t.groups.get? u.gid = some g ∧ NextPlace u void g ∧ Only u g) ∧
       ∃ g, t.groups.get? x.gid = some g ∧ GoesOn x.g (decide (rd u f.b 0 = 1)) n g) ∧
   (∀ (f : FormV) (s : State) (u : Issuer) (gids : List Nat), (Instr.tgtkill f).WellFormed = true → Issuing s u →
     ScalarsFit u [src64 fieldA f.a] → NamesGroups s u (rd64 u f.a 0) gids → u.gid ∉ gids →
     ((∀ k ∈ gids, exitWaits s k = false) →
       ∃ t g, exec (.tgtkill f) s = .next t ∧ t.groups.get? u.gid = some g ∧ NextPlace u void g ∧ Only u g ∧
         ∀ k ∈ gids, ∀ x, issuerOf s k = some x → x.g.status ≠ .retired →
           ∃ h, t.groups.get? k = some h ∧ h.status = .retired ∧ h.active = 0 ∧ h.trap = none) ∧
     ((∃ k ∈ gids, exitWaits s k = true) → exec (.tgtkill f) s = .next s)) ∧
   (∀ (f : FormV) (s : State) (u x : Issuer), (Instr.tgthalt f).WellFormed = true → Issuing s u → u.c.dbg = true →
     ScalarsFit u [src64 fieldA f.a] → levelOf (rd64 u f.a 0) = 0 → NamesGroups s u (rd64 u f.a 0) [x.gid] →
     issuerOf s x.gid = some x → x.gid ≠ u.gid → NothingInFlight s x → s.joints = [] →
     (∀ p ∈ s.groups, p.1 ≠ x.gid → p.2.status ≠ .blocked) → x.g.status = .running →
     ∃ t g, exec (.tgthalt f) s = .next t ∧ SameMemory s t ∧ t.groups.get? u.gid = some g ∧ NextPlace u void g ∧
       t.groups.get? x.gid = some (haltedHere x.g)) ∧
   (∀ (f : FormV) (s : State) (u x : Issuer), (Instr.tgtstep f).WellFormed = true → Issuing s u → u.c.dbg = true →
     ScalarsFit u [src64 fieldA f.a] → StoppedTarget s u (rd64 u f.a 0) x → HandlerClean s u → s.force = none →
     u.c.midStep = none → x.c.midStep = none → (∀ p ∈ s.walks, p.2.group ≠ some x.gid) →
     ∃ t, exec (.tgtstep f) s = .next t ∧ SameMemory s t ∧ OnlyLines s t ∧
       t = { s with cores := t.cores, mem := t.mem, force := some ⟨x.gid, some u.gid, x.g.status, x.g.ic, x.g.wait.isSome⟩ }) ∧
   (∀ (f : FormV) (s : State) (u : Issuer) (gids : List Nat), (Instr.tgtcalm f).WellFormed = true → Issuing s u → u.c.dbg = true →
     ScalarsFit u [src64 fieldA f.a] → NamesGroups s u (rd64 u f.a 0) gids →
     ((u.c.stage = .demoted ∧ u.c.promote = false) ∨
         (u.g.wait = some .calming ∧ u.c.stage ≠ .demoting ∧ u.c.demoteNext = false) →
       ∃ t, exec (.tgtcalm f) s = .next t ∧ GroupDone s u void (Only u) t) ∧
     (u.g.wait = some .calming → u.c.stage = .demoting → exec (.tgtcalm f) s = .next s) ∧
     (u.g.wait ≠ some .calming → u.c.stage = .parallel → ∃ t y, exec (.tgtcalm f) s = .next (settle t) ∧ t.contexts.get? u.l.ctx = some y ∧
       y = { u.c with stage := .demoting, demoteAt := s.ticks.toNat } ∧ SameMemory s t)) ∧
   (∀ (f : FormV) (s : State) (u : Issuer), Issuing s u → ScalarsFit u [src64 fieldA f.a] →
     (u.c.dbg = false →
       ((Instr.tgthalt f).WellFormed = true → ∃ t, exec (.tgthalt f) s = .next t ∧ Traps s u .priv 1 t) ∧
       ((Instr.tgtstep f).WellFormed = true → ∃ t, exec (.tgtstep f) s = .next t ∧ Traps s u .priv 1 t) ∧
       ((Instr.tgtcalm f).WellFormed = true → ∃ t, exec (.tgtcalm f) s = .next t ∧ Traps s u .priv 1 t)) ∧
     (NamesNothing s u (rd64 u f.a 0) → (∃ k g, u.l.handlerFor = some k ∧ s.groups.get? k = some g) → u.c.dbg = true →
       ((Instr.tgtkill f).WellFormed = true → ∃ t, exec (.tgtkill f) s = .next t ∧ Traps s u .priv 3 t) ∧
       ((Instr.tgthalt f).WellFormed = true → ∃ t, exec (.tgthalt f) s = .next t ∧ Traps s u .priv 3 t) ∧
       ((Instr.tgtcalm f).WellFormed = true → ∃ t, exec (.tgtcalm f) s = .next t ∧ Traps s u .priv 3 t)))) ∧
  ((∀ (f : FormV) (s : State) (u : Issuer), (Instr.bpset f).WellFormed = true → Issuing s u →
     ScalarsFit u [Machine.src fieldA f.a, src64 fieldB f.b] →
     let a := rd u f.a 0
     let addr := rd64 u f.b 0
     let k := (a.extractLsb' 0 2).toNat
     (u.c.dbg = true → BreakpointLegal s u a addr → ∃ t, exec (.bpset f) s = .next t ∧ ContextDone s u (fun y =>
       y.breakpoints.get? k = some ⟨a.getLsbD 8, a.getLsbD 9, (a.extractLsb' 16 5).toNat, addr⟩ ∧
       (∀ j, j ≠ k → y.breakpoints.get? j = u.c.breakpoints.get? j) ∧
       y = { u.c with breakpoints := y.breakpoints, soundQ := u.c.soundQ ++ u.g.sound.toList }) t) ∧
     (u.c.dbg = true → ¬ BreakpointLegal s u a addr → ∃ t, exec (.bpset f) s = .next t ∧ Traps s u .priv 2 t) ∧
     (u.c.dbg = false → ∃ t, exec (.bpset f) s = .next t ∧ Traps s u .priv 1 t)) ∧
   (∀ (f : FormV) (s : State) (u : Issuer), (Instr.wpset f).WellFormed = true → Issuing s u →
     ScalarsFit u [Machine.src fieldA f.a, src64 fieldB f.b, Machine.src fieldC f.c] →
     let a := rd u f.a 0
     let n := rd u f.c 0
     let k := (a.extractLsb' 0 2).toNat
     (u.c.dbg = true → WatchpointLegal s u a n → ∃ t, exec (.wpset f) s = .next t ∧ ContextDone s u (fun y =>
       y.watchpoints.get? k = some ⟨a.getLsbD 8, a.getLsbD 9, a.getLsbD 10, a.getLsbD 12, (rd64 u f.b 0).toNat, n.toNat⟩ ∧
       (∀ j, j ≠ k → y.watchpoints.get? j = u.c.watchpoints.get? j) ∧
       y = { u.c with watchpoints := y.watchpoints, soundQ := u.c.soundQ ++ u.g.sound.toList }) t) ∧
     (u.c.dbg = true → ¬ WatchpointLegal s u a n → ∃ t, exec (.wpset f) s = .next t ∧ Traps s u .priv 2 t) ∧
     (u.c.dbg = false → ∃ t, exec (.wpset f) s = .next t ∧ Traps s u .priv 1 t)))

/-- spec/21 R436, R437, R440, R441: the record of a group that has stopped at a fault is written once its earlier
instructions have completed, and the group waits for a handler; the first that waits gets one, or is killed where none
can be named. spec/14 R371, R375, R380, R382: a demotion reaches its serial point once what was issued has completed; in
Calm mode the groups step in the context's order, while steps are asked for. Where the spec leaves a point open, the
model's choice: log entries 9, 10, 11, 12, 55. -/
def Obligations.TrapsAreHandled : Prop :=
  ((∀ (s : State) (gid loc : Nat) (u : Issuer) (i : TrapInfo), issuerOf s gid = some u → u.g.trap = some i →
     u.g.status = .trapping → NothingInFlight s u → RecordRoom s u loc → RecordFits u i → NoHandlers s → u.l.handlerFor = none →
     ∃ t g y, exec (.trapRecordWrite gid) s = .next (settle t) ∧
       t = { s with groups := t.groups, contexts := t.contexts, mem := t.mem, memPoison := t.memPoison } ∧
       OtherGroups s t gid ∧ SameMemoryBut s t loc 4896 ∧
       (∀ k b, k < 2 ^ 8 → recordWord u i k = some b → Memory.byte t.mem (loc + k) = b) ∧
       t.groups.get? gid = some g ∧
       g = { u.g with status := .parked, header := none, entered := false, addrNext := true, savedLive := some u.g.plive
                      handlerWrote := [] } ∧
       t.contexts.get? u.l.ctx = some y ∧ y = { u.c with trapQueue := u.c.trapQueue ++ [gid] }) ∧
   (∀ (s : State) (ctx gid code : Nat) (c : Context) (rest : List Nat) (u : Issuer) (i : TrapInfo) (d : BitVec 512),
     s.contexts.get? ctx = some c → c.trapQueue = gid :: rest → issuerOf s gid = some u → u.g.trap = some i →
     u.g.status = .parked → c.stage ≠ .demoting → c.destroying = false → liveHandlers s ctx < 64 →
     let entry := c.tvec + 8 * i.cls.number
     deviceReady s ctx kindRead entry 8 = .ready →
     let s1 := touchPages s ctx kindRead (pieces entry 8)
     leNat ((deviceRead s ctx entry 8).getD []) = code → handlerAt s1 c ctx code = .found d →
     ∃ t l y, exec (.handlerCreate ctx) s = .next t ∧ t.launches.get? s.nextId = some l ∧ l.handlerFor = some gid ∧
       l.handlerClass = i.cls.number ∧ l.desc = d ∧ l.ended = false ∧ l.started = false ∧ l.served = false ∧
       l.packet.extractLsb' 0 64 = BitVec.ofNat 64 code ∧
       l.packet.extractLsb' 64 64 = BitVec.ofNat 64 (trapAreaAddr c u.g.trapArea) ∧
       (∀ k, k ≠ s.nextId → t.launches.get? k = s.launches.get? k) ∧ t.groups = s.groups ∧
       t.contexts.get? ctx = some y ∧ y = { c with trapQueue := rest }) ∧
   (∀ (s : State) (ctx gid : Nat) (c : Context) (rest : List Nat) (u : Issuer) (i : TrapInfo),
     s.contexts.get? ctx = some c → c.trapQueue = gid :: rest → issuerOf s gid = some u → u.g.trap = some i →
     u.g.status = .parked → c.stage ≠ .demoting → c.destroying = false → liveHandlers s ctx < 64 →
     let entry := c.tvec + 8 * i.cls.number
     deviceReady s ctx kindRead entry 8 = .ready → leNat ((deviceRead s ctx entry 8).getD []) = 0 →
     ∃ t g, exec (.handlerCreate ctx) s = .next t ∧ t.groups.get? gid = some g ∧ g.status = .retired)) ∧
  ((∀ (s : State) (ctx : Nat) (c : Context), s.contexts.get? ctx = some c → c.stage = .demoting → demotionComplete s ctx = true →
     (∀ p ∈ s.accesses, ∀ g l, s.groups.get? p.2.group = some g → s.launches.get? g.launch = some l → l.ctx ≠ ctx) → (∀ p ∈ s.teams, p.2.reds = []) →
     ∃ t y, exec (.demotionSerialPoint ctx) s = .next t ∧ t.contexts.get? ctx = some y ∧ y.midStep = none ∧ y.lastStepped = none ∧
       y.stage = (if c.promote then (if c.demoteNext then .demoting else .parallel) else .demoted) ∧ y.demoteAt = s.ticks.toNat ∧ y.promote = false) ∧
   (∀ (s : State) (ctx : Nat) (c : Context), s.contexts.get? ctx = some c → c.midStep = none → c.stage = .demoted →
     s.force = none → s.stopped = false → s.gated = false → c.destroying = false → (c.running = true ∨ c.stepsLeft ≠ 0) →
     s.walks = [] → s.groups.sorted = true →
     (∀ x, StepsNext s ctx c.lastStepped x →
       exec (.calmStep ctx) s = .next { s with force := some ⟨x.gid, none, .running, x.g.ic, false⟩ }) ∧
     ((∀ x, ¬ Runnable s ctx x) → c.running = true →
       ∃ t, exec (.calmStep ctx) s = .next t ∧ t = { s with contexts := t.contexts } ∧
         ∀ k, t.contexts.get? k = if k = ctx then some { c with running := false } else s.contexts.get? k) ∧
     ((∀ x, ¬ Runnable s ctx x) → c.running = false →
       (∀ p ∈ s.launches, p.2.ctx = ctx → p.2.handlerFor = none → p.2.ended = true) →
       ∃ t, exec (.calmStep ctx) s = .next t ∧ t = { s with contexts := t.contexts } ∧
         ∀ k, t.contexts.get? k = if k = ctx then some { c with stepsLeft := 0 } else s.contexts.get? k)))

/-! ## Deterministic operation -/

/-- spec/13 R358, R360, R361: in a DET launch an ordered atomic, and a monitor, hold their group until it stands at the
minimum, and then take effect; in global space without COGRID they trap. spec/13 R363, R364; spec/23 R473: a float
reduction of a DET launch joins its team's buffer; the team that holds the token drains it in order, and passes the
token on when it is empty and every group of the team has retired. Where the spec leaves a point open, the model's
choice: log entries 48, 53. -/
def Obligations.DeterministicOrder : Prop :=
  ((∀ (sp : GTSpace) (op : AtomOp) (f : FormM) (s : State) (u : Issuer) (d : Datum), (Instr.atom sp op f).WellFormed = true →
     Issuing s u → u.l.det = true → waitsForMinimum op → datumOf (.atom sp op f) = some d →
     (u.l.cogrid = false → sp = .g → u.g.counter (hdrSetd u.header) < 63 →
       ∃ t, exec (.atom sp op f) s = .next t ∧ Traps s u .det 1 t) ∧
     (∀ acc, u.calm = false → (u.l.cogrid = true ∨ sp = .t) → LanesReady s u (d.op u) acc →
       ∃ t, exec (.atom sp op f) s = .next t ∧ HeldForMinimum s u (d.op u) ((d.op u).lanes.map acc) t)) ∧
   (∀ (f : FormV) (s : State) (u : Issuer) (loc : Nat) (c : Nat) (k : Bool), (Instr.monwait f).WellFormed = true → Issuing s u →
     ScalarsFit u [dst f.d, src64 fieldA f.a, Machine.src fieldB f.b, Machine.src fieldC f.c] → u.l.det = true →
     (u.l.cogrid = false → ∃ t, exec (.monwait f) s = .next t ∧ Traps s u .det 1 t) ∧
     (u.l.cogrid = true → u.calm = false → (rd64 u f.a 0).toNat % 4 = 0 → (rd64 u f.a 0).toNat + 4 ≤ 2 ^ 57 →
       translate s u.t.core u.l.ctx u.c.root (rd64 u f.a 0).toNat kindRead = .ok (.phys loc c k) →
       ∃ t g n, exec (.monwait f) s = .next t ∧ t = { s with groups := t.groups, accesses := t.accesses, nextId := s.nextId + 1 } ∧
         OtherGroups s t u.gid ∧ t.groups.get? u.gid = some g ∧ g.status = .heldMinimum ∧ g.wait = some (.minimum n) ∧
         g = { u.g with status := g.status, wait := g.wait, sound := u.g.sound.map fun r => r ||| (1#512 <<< 202) } ∧
         (t.accesses.get? n).isSome = true)) ∧
   (∀ (s : State) (u : Issuer) (aid : Nat) (a : Access) (la : LaneAccess) (op : AtomOp), HeldReady s u aid a la →
     a.kind = .rmw op true → la.size = atomBytes op → Placed s u la.target la.size → NoDirty s →
     ∃ t w old v g, exec (.minWaitedPerform u.gid) s = .next (settleBy t w) ∧
       HasBytes old la.size (byteAt s u.t.core False la.target) ∧ Stored s t u False la.target la.size v ∧
       (∀ k, k < la.size → v k = BitVec.ofNat 8 ((rmwValue op old.toNat la.data.toNat).1 / 2 ^ (8 * k) % 256)) ∧
       t.accesses.get? aid = none ∧ FirstIs t s.nextId { la with performed := true, value := some old, poisoned := false } ∧
       OtherGroups s t u.gid ∧ t.groups.get? u.gid = some g ∧ HeldIssued u a la g)) ∧
  ((∀ (op : RedOp) (f : FormM) (s : State) (u : Issuer) (d : Datum), (Instr.red op f).WellFormed = true → Issuing s u →
     u.l.det = true → isBuffered op → datumOf (.red op f) = some d → u.g.counter (hdrSetd u.header) < 63 →
     let lanes := (d.op u).lanes
     (f.order ≠ 0 → ∃ t, exec (.red op f) s = .next t ∧ Traps s u .det 2 t) ∧
     (f.order = 0 → 65536 < u.t.reds.length + lanes.length →
       ∃ t, exec (.red op f) s = .next t ∧ Traps s u .det 3 t) ∧
     (∀ acc, f.order = 0 → u.t.reds.length + lanes.length ≤ 65536 → LanesReady s u (d.op u) acc →
       ∃ (t : State) (y : Team) (es : List RedEntry), exec (.red op f) s = .next t ∧ OnlyTeam s t u ∧
         (∃ g, t.groups.get? u.gid = some g ∧ NextPlace u void g ∧ Only u g) ∧ t.teams.get? u.g.team = some y ∧
         y = { u.t with reds := u.t.reds ++ es } ∧ es.length = lanes.length ∧
         ∀ (k : Nat) (l : Nat), lanes[k]? = some l → ∃ e : RedEntry, es[k]? = some e ∧ e.g = u.g.g ∧ e.ic = u.g.ic.toNat ∧ e.lane = (acc l).lane ∧
           e.access.group = u.gid ∧ e.access.kind = d.kind ∧ e.access.lanes = [acc l])) ∧
   (∀ (s : State) (lid tid : Nat) (l : Launch) (x : Team) (e : RedEntry) (u : Issuer) (op : AtomOp) (la : LaneAccess),
     HoldsToken s lid l tid x → DrainsNext s x e → EntryPlain s e u op la → Placed s u la.target la.size → NoDirty s → Quiet s →
     (∀ off, la.target ≠ .team tid off) →
     ∃ t y old v, exec (.reductionDrain lid) s = .next t ∧
       HasBytes old la.size (byteAt s u.t.core False la.target) ∧ Stored s t u False la.target la.size v ∧
       (∀ k, k < la.size → v k = BitVec.ofNat 8 ((rmwValue op old.toNat la.data.toNat).1 / 2 ^ (8 * k) % 256)) ∧
       t.teams.get? tid = some y ∧ y.reds = x.reds.erase e) ∧
   (∀ (s : State) (lid tid : Nat) (l : Launch) (x : Team), HoldsToken s lid l tid x → x.reds = [] →
     (∀ gid ∈ x.groups, ∀ g, s.groups.get? gid = some g → g.status = .retired) →
     ∃ t m, exec (.reductionDrain lid) s = .next t ∧ t = { s with launches := t.launches } ∧
       t.launches.get? lid = some m ∧ TokenPassed l x m ∧ ∀ k, k ≠ lid → t.launches.get? k = s.launches.get? k))

/-! ## Walks, launches and teams -/

/-- spec/06 R166, R167; spec/22 R450: a walk that finds a leaf sets its A, and DIRTY for a write, and fills the core's TLB;
one that finds nothing waits under the entry of its page, a new one if there is none; one that finds an invalid entry
ends. A core's walk that the second-level TLB of its die serves ends without the tables. Where the spec leaves a point
open, the model's choice: log entries 17, 97. -/
def Obligations.WalksEnd : Prop :=
  ∀ (s : State) (id : Nat) (w : Walk) (c : Context), s.walks.get? id = some w → w.waiting = none → s.contexts.get? w.ctx = some c →
    WalkInFlight s id w →
    (∀ (i : Nat) (e : TlbEntry), w.group.isSome = true → (dieEntries s w)[i]? = some e → TlbServes e w →
      (∀ (j : Nat) (f : TlbEntry), j < i → (dieEntries s w)[j]? = some f → ¬ TlbServes f w) →
      ∃ t, exec (.walkComplete id) s = .next (settle t) ∧ t = { s with walks := t.walks, cores := t.cores, dieTlb := t.dieTlb } ∧
        (∀ n, t.walks.get? n = if n = id then none else s.walks.get? n) ∧ (∀ n, n ≠ w.core → t.cores.get? n = s.cores.get? n) ∧
        (dieEntries t w).head? = some e ∧
        ∀ x, s.cores.get? w.core = some x → ∃ y, t.cores.get? w.core = some y ∧ y = { x with tlb := y.tlb } ∧ y.tlb.head? = some e) ∧
    (DieMisses s w →
    (∀ level leaf loc, walkVa s c.root w.va = .leaf level leaf loc →
      ∃ t, exec (.walkComplete id) s = .next (settle t) ∧
        t = { s with walks := t.walks, mem := t.mem, memPoison := t.memPoison, cores := t.cores, dieTlb := t.dieTlb } ∧
        (∀ n, t.walks.get? n = if n = id then none else s.walks.get? n) ∧ SameMemoryBut s t loc 8 ∧
        (∀ k, k < 8 → Memory.byte t.mem (loc + k) = BitVec.ofNat 8 (touchedLeaf leaf w.kind / 256 ^ k)) ∧
        (∀ n, n ≠ w.core → t.cores.get? n = s.cores.get? n) ∧
        ∃ e, (dieEntries t w).head? = some e ∧
          (∀ x, s.cores.get? w.core = some x → ∃ y, t.cores.get? w.core = some y ∧ y = { x with tlb := y.tlb } ∧ y.tlb.head? = some e) ∧
          e.ctx = w.ctx ∧ e.va = w.va / 2 ^ pageBits level * 2 ^ pageBits level ∧ e.level = level ∧
          e.leaf = BitVec.ofNat 64 (touchedLeaf leaf w.kind)) ∧
    (∀ level k, walkVa s c.root w.va = .absent level → HoldsPage s w k → (∀ j, HoldsPage s w j → j = k) → s.faults.sorted = true →
      ∃ t, exec (.walkComplete id) s = .next t ∧ t = { s with walks := t.walks, groups := t.groups } ∧ ReplayNoted s t w ∧
        WaitsUnder s t id w k) ∧
    (∀ level k, walkVa s c.root w.va = .absent level → (∀ j, ¬ HoldsPage s w j) → s.faults.sorted = true → FreeEntry s w k →
      ∃ t e, exec (.walkComplete id) s = .next t ∧ 
        t = { s with walks := t.walks, faults := t.faults, vectors := t.vectors, groups := t.groups } ∧ ReplayNoted s t w ∧
        WaitsUnder s t id w k ∧ (∀ j, t.faults.get? j = if j = k then some e else s.faults.get? j) ∧
        e.valid = true ∧ e.level = level ∧ e.kind = w.kind ∧ e.ctx = w.ctx ∧ e.vpn = pageOf w.va ∧
        e.agent = w.agent ∧
        ((∀ j, j / 1024 = w.core / 48 → EntryFree s j) → t.vectors = s.vectors ++ [130 + w.core / 48]) ∧
        ((∃ j, j / 1024 = w.core / 48 ∧ ¬ EntryFree s j) → t.vectors = s.vectors)) ∧
    (∀ level, walkVa s c.root w.va = .invalid level →
      ∃ t, exec (.walkComplete id) s = .next (settle t) ∧ t = { s with walks := t.walks } ∧
        ∀ n, t.walks.get? n = if n = id then none else s.walks.get? n))

/-- spec/12 R335 to R337, R339: the next packet of a tenant's window or fabric queue is taken; one that passes every check
is accepted as a launch, and the first check that fails refuses it with its RSN. spec/12 R334; spec/23 R466: a launch
whose teams have all retired ends: its record stands at DONE, and its teams and groups are gone. Where the spec leaves a
point open, the model's choice: log entries 51, 85, 94. -/
def Obligations.LaunchesServed : Prop :=
  (∀ (s : State) (tn : Nat) (tt : Tenant) (fabric : Bool) (p d : BitVec 512) (source : Nat), s.tenants.get? tn = some tt → s.stopped = false →
     PacketNext s tn tt fabric p source → PacketReady s p d →
     ((∀ rsn, 1 ≤ rsn → rsn ≤ 9 → Check s tn tt fabric source p d rsn) →
       ∃ t y, exec (.validatePacket tn fabric) s = .next t ∧
         t = { s with mem := t.mem, memPoison := t.memPoison, vectors := t.vectors, tenants := t.tenants, launches := t.launches
                      nextId := s.nextId + 1 } ∧
         (∀ n, t.launches.get? n = if n = s.nextId then some (newLaunch p d source s.nextId) else s.launches.get? n) ∧
         (∀ n, n ≠ tn → t.tenants.get? n = s.tenants.get? n) ∧ t.tenants.get? tn = some y ∧ PacketTaken tt fabric y ∧
         y = { tt with fabric := y.fabric, progress := y.progress, lastLid := y.lastLid, ring := y.ring } ∧
         ∀ n, y.lastLid.get? n = if n = source then some (p.extractLsb' 256 32) else tt.lastLid.get? n) ∧
     (∀ rsn, 1 ≤ rsn → rsn ≤ 9 → (∀ k, 1 ≤ k → k < rsn → Check s tn tt fabric source p d k) → ¬ Check s tn tt fabric source p d rsn →
       let l := newLaunch p d source s.nextId
       (l.doneAt = 0 ∨ rsn ≤ 3 ∧ 1 < rsn →
         ∃ t x y, exec (.validatePacket tn fabric) s = .next t ∧
           (∃ ctx detail, (if 2 < rsn then ctx = some l.ctx else rsn = 2 → ctx = none) ∧
             let r := report s ⟨true, ueRefused, rsn, detail, 0, l.lid, 0xFFFF, ctx, some tn⟩
             t = { r with tenants := t.tenants } ∧ (∀ n, n ≠ tn → t.tenants.get? n = r.tenants.get? n) ∧ r.tenants.get? tn = some x ∧
             t.tenants.get? tn = some y) ∧ PacketTaken tt fabric y ∧ y = { x with fabric := y.fabric, progress := y.progress }) ∧
       (∀ loc, 3 < rsn → DoneAt s l loc → NoDirty s → Quiet s →
         ∃ t y, exec (.validatePacket tn fabric) s = .next t ∧ (∀ n, (t.launches.get? n).isSome = (s.launches.get? n).isSome) ∧
           t.tenants.get? tn = some y ∧ PacketTaken tt fabric y ∧
           ∀ k, k < 32 → Memory.byte t.mem (loc + k) = recordByte l.lid 4 0 rsn 0xFFFF_FFFF 0 s.ticks k))) ∧
  (∀ (s : State) (lid : Nat) (l : Launch), LaunchDone s lid l → NoDirty s → Quiet s → l.darv = false →
     (l.doneAt = 0 → ∃ t, exec (.launchEnd lid) s = .next (settle t) ∧ SameMemory s t ∧ LaunchGone s lid l t ∧ OthersStay s lid l t) ∧
     (∀ loc status team, DoneAt s l loc → StatusOf l status team → team < 2 ^ 32 → l.start < 2 ^ 64 → status < 256 →
       ∃ t, exec (.launchEnd lid) s = .next (settle t) ∧ LaunchGone s lid l t ∧ WrittenOutside s t loc 32 ∧
         ∀ k, k < 32 → Memory.byte t.mem (loc + k) = recordByte l.lid status (flagsOf l) 0 team l.start s.ticks k))

/-- spec/02 R35, R36; spec/12 R340, R341: the dispatcher places the next cluster of the first launch in its order that fits:
a team alone on the core with the most free granules; its groups stand as at creation. spec/02 R40 to R42; spec/12 R343,
R345: a team that has been wholly blocked for four slices is evicted; its save completes when nothing of it is
outstanding; it is resumed on a core that holds it; and the compactor moves blocks of blocked teams. Where the spec
leaves a point open, the model's choice: log entries 11, 35, 47, 49. -/
def Obligations.TeamsPlaced : Prop :=
  (∀ (s : State) (lid : Nat) (l : Launch) (tn : Nat) (tt : Tenant), NextIsFresh s lid l tn tt → NoDirty s → NoPacketsNow s →
     (∀ ps, l.cogrid = false → placeCluster s l tn tt l.groupCount = some ps →
       ∃ t, exec .teamDispatch s = .next t ∧ SameMemory s t ∧
         t.launches.get? lid = some { l with nextTeam := l.nextTeam + ps.length, started := true
                                             start := if l.started then l.start else s.ticks.toNat } ∧
         (∀ n, n ≠ lid → t.launches.get? n = s.launches.get? n) ∧
         (∀ n x, n < s.nextId → s.teams.get? n = some x →
           t.teams.get? n = some (if x.yieldFor = some (lid, l.nextTeam) then { x with yieldFor := none } else x)) ∧
         (∀ n g, n < s.nextId → s.groups.get? n = some g → t.groups.get? n = some g) ∧
         ∀ (j : Nat) (p : Seat), ps[j]? = some p → ∃ tid x, TeamAt t lid tid (l.nextTeam + j) p.core x ∧ x.regBlocks = p.regBlocks ∧
           x.memBlocks = p.memBlocks ∧ x.tileBlocks = p.tileBlocks ∧ x.groups.length = l.groupCount ∧
           ∀ (k gid : Nat), x.groups[k]? = some gid → ∃ g, t.groups.get? gid = some g ∧ Created l lid tid k p.core l.args g) ∧
     (∀ (ps : List Seat) (p : Seat), l.clusterSize = 1 → s.cores.sorted = true → placeCluster s l tn tt l.groupCount = some ps → ps[0]? = some p →
       ps.length = 1 ∧ p ∈ places s l tn tt l.groupCount ∧
       ∀ q ∈ places s l tn tt l.groupCount, q.freeGranules < p.freeGranules ∨ (q.freeGranules = p.freeGranules ∧ p.core ≤ q.core)) ∧
     (l.cogrid = true → (dispatchAll lid (l.teamTotal / l.clusterSize) s).isSome = true →
       ∃ t m, exec .teamDispatch s = .next t ∧ t.launches.get? lid = some m ∧
         m.nextTeam = l.nextTeam + l.teamTotal / l.clusterSize * l.clusterSize)) ∧
  ((∀ (s : State) (tid : Nat) (x : Team) (l : Launch), Alone s tid x l → Evictable s x l → 4 ≤ x.blockedSlices →
     ∃ t, exec (.teamEvict tid) s = .next t ∧ TeamTo s tid x .evicting t) ∧
   (∀ (s : State) (tid : Nat) (x : Team) (l : Launch) (p : Nat × Launch), Alone s tid x l → Evictable s x l → p ∈ s.launches → s.launches.sorted = true →
     p.2.tenant = l.tenant → l.prio < p.2.prio → .fresh p.1 ∈ waitingUnits s → placeUnit s (.fresh p.1) = none →
     (placeUnit (teamsTo s [tid] .evicted) (.fresh p.1)).isSome = true →
     ∃ t, exec (.teamEvict tid) s = .next t ∧ TeamTo s tid x .evicting t) ∧
   (∀ (s : State) (tid : Nat) (x : Team) (l : Launch), Alone s tid x l → x.status = .evicting → NoDirty s →
     (∀ gid ∈ x.groups, ∀ g, s.groups.get? gid = some g → GroupIdle s gid g) →
     ∃ t, exec (.evictSaveComplete tid) s = .next t ∧
       ((∀ gid ∈ x.groups, ∀ u, issuerOf s gid = some u → u.g.status = .retired ∨ ∀ loc, ¬ PageAt s u.l.ctx (savePlace u) kindWrite loc) →
         SameMemory s t) ∧
       (∀ u loc, x.groups.Nodup → u.gid ∈ x.groups → issuerOf s u.gid = some u → u.g.status ≠ .retired → (∀ gid ∈ x.groups, gid ≠ u.gid →
           ∀ g, s.groups.get? gid = some g → g.status = .retired) →
         let saved := livePredicates u.g u.l.width
         PageOpen s u.c kindWrite (savePlace u) saved.length loc →
         SameMemoryBut s t loc saved.length ∧ ∀ (k : Nat) (b : Byte), saved[k]? = some b → Memory.byte t.mem (loc + k) = b) ∧
       t.launches = s.launches ∧
       (∀ k, k ≠ tid → t.teams.get? k = s.teams.get? k) ∧ t.teams.get? tid = some { x with status := .evicted } ∧
       ∀ gid g, s.groups.get? gid = some g → ∃ h, t.groups.get? gid = some h ∧
         (g.team ≠ tid → h = g) ∧
         (g.team = tid → h = { g with savedLive := some g.plive, handlerWrote := [], yielded := false, owes := false, keptIC := h.keptIC }) ∧
         ∀ u, g.team = tid → issuerOf s gid = some u → h.keptIC = some (keyIC s u)) ∧
   (∀ (s : State) (tid : Nat) (x : Team) (l : Launch) (tn : Nat) (tt : Tenant) (p : Seat), Alone s tid x l → x.status = .evicted →
     (waitingUnits s).head? = some (.resume x.launch x.index) → launchTenant s l = some (tn, tt) →
     (∃ p ∈ s.cores, Covers l p.2 ∧ OpenTo l p.2 tn) → placeCluster s l tn tt l.groupCount = some [p] →
     x.groups.length ≤ l.groupCount → NoDirty s → NoPacketsNow s →
     ∃ t t1 y, exec (.teamResume tid) s = .next t1 ∧ t1 = { settle t with cores := t1.cores, teams := t1.teams } ∧
       (∀ k, Option.Rel ButYield ((settle t).teams.get? k) (t1.teams.get? k)) ∧
       (∀ k, (t1.cores.get? k).map (fun c => { c with staging := [] }) = ((settle t).cores.get? k).map fun c => { c with staging := [] }) ∧
       SameMemory s t ∧ (∀ k, k ≠ tid → t.teams.get? k = s.teams.get? k) ∧
       t.teams.get? tid = some y ∧ y = { x with core := p.core, status := .resident, regBlocks := p.regBlocks, memBlocks := p.memBlocks
                                                tileBlocks := p.tileBlocks, blockedSlices := 0, yieldFor := none, woken := true
                                                agents := y.agents } ∧
       ∀ gid g, gid ∈ x.groups → g.status ≠ .retired → s.groups.get? gid = some g → ∃ h, t.groups.get? gid = some h ∧ h.status = g.status ∧
         h.v = g.v ∧ h.s = g.s ∧ h.x = g.x ∧ (∀ k, h.q.read k 0 = recordedPred g k) ∧ h.clause = g.clause ∧ h.index = g.index ∧
         h.ic = g.ic ∧ h.agent = agentId p.core h.slot ∧ h.age = 0 ∧ h.entered = g.entered ∧ h.keptIC = none ∧ h.addrNext = true ∧
         h.agent ∈ y.agents) ∧
   (∀ (s s1 : State) (core : Nat) (c : Core), s.cores.get? core = some c → (waitingUnits s).findSome? (compactFor s core c) = some s1 →
     s.teams.sorted = true → s.teams.get? s.nextId = none →
     exec (.compactorMove core) s = .next s1 ∧ s1 = { s with teams := s1.teams } ∧
     ∀ n x, s.teams.get? n = some x → ∃ y, s1.teams.get? n = some y ∧ BlocksMoved x y ∧
       (x.core ≠ core ∨ (∃ gid ∈ x.groups, ∃ g, s.groups.get? gid = some g ∧ g.status ≠ .blocked ∧ g.status ≠ .retired) → y = x)))

/-- spec/12 R346, R350, R353; spec/23 R467, R471: a slice ends, and the next tenant in turn takes issue, its slice shortened
by its debt; a lender's revocation sets the deadline and flushes what can restart, and at the deadline the rest is
killed and the core returned. Where the spec leaves a point open, the model's choice: log entries 32, 50, 54. -/
def Obligations.SlicesAndLending : Prop :=
  (∀ (s : State) (core tn next : Nat) (c : Core), s.cores.get? core = some c → c.issuing = some tn → c.held.sorted = true →
    (∃ k ∈ holders s core c, k ≠ tn) → (c.sliceStart + sliceOf s tn ≤ s.ticks.toNat ∨ tn ∉ holders s core c ∨ anyReady s core tn = false) →
    NextTenant (holders s core c) tn next → debtNow s core c next < sliceOf s next →
    ∃ t d, exec (.sliceEnd core) s = .next t ∧ t = { s with cores := t.cores, teams := t.teams, entries := t.entries } ∧
      (∀ k, k ≠ core → t.cores.get? k = s.cores.get? k) ∧ t.cores.get? core = some d ∧
      d = { c with issuing := some next, sliceStart := s.ticks.toNat - debtNow s core c next, debts := d.debts } ∧
      (∀ k, d.debts.read k 0 = if k = next then 0 else debtNow s core c k) ∧
      TeamsCounted s t core tn ∧ EntriesCounted s t core tn next) ∧
  (∀ (s : State) (core tn : Nat) (c : Core), s.cores.get? core = some c → c.issuing = some tn → holders s core c ≠ [] →
    (∀ k ∈ holders s core c, k = tn) → c.sliceStart + sliceOf s tn ≤ s.ticks.toNat →
    ∃ t, exec (.sliceEnd core) s = .next t ∧ t = { s with cores := t.cores, teams := t.teams } ∧
      (∀ k, k ≠ core → t.cores.get? k = s.cores.get? k) ∧ t.cores.get? core = some { c with sliceStart := s.ticks.toNat } ∧
      TeamsCounted s t core tn) ∧
  (∀ (s : State) (core : Nat) (c : Core), s.cores.get? core = some c →
    (holders s core c = [] → c.issuing ≠ none →
      ∃ t, exec (.sliceEnd core) s = .next t ∧ t = { s with cores := t.cores } ∧
        ∀ k, t.cores.get? k = if k = core then some { c with issuing := none } else s.cores.get? k) ∧
    (∀ tn, (holders s core c).head? = some tn → c.issuing = none →
      ∃ t, exec (.sliceEnd core) s = .next t ∧ t = { s with cores := t.cores } ∧
        ∀ k, t.cores.get? k = if k = core then some { c with issuing := some tn, sliceStart := s.ticks.toNat } else s.cores.get? k)) ∧
  (∀ (s : State) (core : Nat) (c : Core), s.cores.get? core = some c → c.kind = .margin → c.returnBy = none →
    borrowed s core c.owner ≠ [] → lenderNeeds s core c.owner = true →
    (flushable (s.setCore core { c with returnBy := some (s.ticks.toNat + 200000) }) core c.owner = [] →
      ∃ t, exec (.revocation core) s = .next (settle t) ∧ t = { s with cores := t.cores } ∧
        ∀ k, t.cores.get? k = if k = core then some { c with returnBy := some (s.ticks.toNat + 200000) } else s.cores.get? k) ∧
    (∀ lid tid x l, s.teams.get? tid = some x → s.launches.get? lid = some l → x.launch = lid →
      (∀ gid ∈ x.groups, ∃ u, issuerOf s gid = some u ∧ u.g.team = tid) →
      flushable (s.setCore core { c with returnBy := some (s.ticks.toNat + 200000) }) core c.owner = [(lid, clusterOf l x, [tid])] →
      ∃ t y m, exec (.revocation core) s = .next (settle t) ∧ t.teams.get? tid = some y ∧ y.status = .restarting ∧ TeamCut t x ∧
        t.launches.get? lid = some m ∧ m.restarts = l.restarts ++ [x.index] ∧ m.revoked = l.revoked ∧ m.killed = l.killed)) ∧
  (∀ (s : State) (core limit : Nat) (c : Core), s.cores.get? core = some c → c.returnBy = some limit → limit ≤ s.ticks.toNat →
    ∃ t d, exec (.revocationDeadline core) s = .next t ∧ t.cores.get? core = some d ∧ d.returnBy = none ∧
      ∀ tid ∈ borrowed s core c.owner, ∀ x, s.teams.get? tid = some x → (s.launches.get? x.launch).isSome = true →
        (∀ gid ∈ x.groups, ∃ u, issuerOf s gid = some u ∧ u.g.team = tid) →
        ∀ gid ∈ x.groups, ∀ g, t.groups.get? gid = some g → g.status = .retired)

/-! ## The management mailbox -/

/-- spec/19 R397 to R400, R406 to R409; spec/06 R167; spec/12 R338, R351; spec/14 R369, R382, R383: a command under way
replies. In recovery each gives RESULT 1 with reason 4. A wrong number of parameters, or a bad one, gives RESULT 2; a
reason against it RESULT 1, with the lowest; else it has its effect and replies RESULT 0. Where the spec leaves a point
open, the model's choice: log entries 56, 57, 58, 59, 60. -/
def Obligations.CommandsReply : Prop :=
  ∀ (i : Instr) (c : Command) (s : State) (tag : BitVec 16) (ps : List Word), commandOf s ps i = some c → Under s c.op tag ps →
    (s.fwstate = 1 → ∃ t, exec i s = .next t ∧ Replies s tag 1 [4, 0, 0, 0] t) ∧
    (s.fwstate ≠ 1 → (ps.length ≠ c.words ∨ ¬ c.good) → ∃ t, exec i s = .next t ∧ Replies s tag 2 [] t) ∧
    (s.fwstate ≠ 1 → ps.length = c.words → c.good → ∀ r, r < 256 → c.refusedWith r →
      ∃ t, exec i s = .next t ∧ Replies s tag 1 [BitVec.ofNat 8 r, 0, 0, 0] t) ∧
    (s.fwstate ≠ 1 → ps.length = c.words → c.good → c.allowed →
      ∃ s1 t, exec i s = .next t ∧ c.effect s1 ∧ Replies s1 tag 0 [] t)

/-- spec/19 R401, R412, R413; spec/06 R172; spec/23 R481: the commands whose reply carries more, or comes later: SUMMARY,
ATTEST, IDCERT, INVAL with its completion, CTXDESTROY and FWLOAD; and the reset of the module. Where the spec leaves a
point open, the model's choice: log entries 61, 62, 63, 79, 80, 91. -/
def Obligations.LongCommands : Prop :=
  (∀ (s : State) (tag : BitVec 16), Under s 0x20 tag [] → SummaryFits s →
    ∃ t body, exec .summary s = .next t ∧ Replies { s with seq := s.seq + 1 } tag 0 body t ∧ SummaryHeader s (s.seq + 1) body ∧
      body.length = 64 + 16 * s.contexts.length + 16 * (s.tenants.filter fun p => p.2.enabled).length ∧
      ∀ i n c, SummaryContext s body i n c) ∧
  (∀ (s : State) (tag : BitVec 16) (ps : List Word) (c : Context), Under s 0x21 tag ps → ps.length = 13 → s.fwstate ≠ 1 →
    (word32 ps 0).toNat < 256 → s.contexts.get? (word32 ps 0).toNat = some c →
    ∃ t body, exec .attest s = .next t ∧ Replies s tag 0 body t ∧ Attests s (word32 ps 0).toNat c ps body) ∧
  (∀ (s : State) (tag : BitVec 16), Under s 0x22 tag [] → ∃ t, exec .idcert s = .next t ∧ Replies s tag 0 Config.identityChain t) ∧
  (∀ (s : State) (tag : BitVec 16) (ps : List Word), Under s 0x06 tag ps → ps.length = 5 → s.fwstate ≠ 1 →
    (word32 ps 0).toNat < 256 → s.contexts.get? (word32 ps 0).toNat ≠ none →
    ∃ t, exec .inval s = .next t ∧ t = { s with cores := t.cores, dieTlb := t.dieTlb, mailbox := { s.mailbox with draining := true } } ∧
      (∀ k x, s.dieTlb.get? k = some x → ∃ y, t.dieTlb.get? k = some y ∧
        ∀ e, e ∈ y ↔ e ∈ x ∧ ¬ Serves e (word32 ps 0).toNat (word64 ps 1).toNat (word64 ps 3).toNat) ∧
      ∀ k x, s.cores.get? k = some x → ∃ y, t.cores.get? k = some y ∧ y = { x with tlb := y.tlb } ∧
        ∀ e, e ∈ y.tlb ↔ e ∈ x.tlb ∧ ¬ Serves e (word32 ps 0).toNat (word64 ps 1).toNat (word64 ps 3).toNat) ∧
  (∀ (s : State) (o : BitVec 16) (tag : BitVec 16) (ps : List Word), s.mailbox.current = some (o, tag, ps) → s.mailbox.draining = true →
    rangeInUse s (word32 ps 0).toNat (word64 ps 1).toNat (word64 ps 3).toNat = false →
    s.groups.sorted = true →
    ∃ x t, exec .invalComplete s = .next t ∧ Replies (settle x) tag 0 [] t ∧ x = { s with groups := x.groups } ∧
      Retargeted s x (word32 ps 0).toNat (word64 ps 1).toNat (word64 ps 3).toNat) ∧
  (∀ (s : State) (tag : BitVec 16) (ps : List Word) (c : Context), Under s 0x02 tag ps → ps.length = 1 → s.fwstate ≠ 1 →
    (word32 ps 0).toNat < 256 → s.contexts.get? (word32 ps 0).toNat = some c → c.destroying = false → s.contexts.sorted = true → s.launches.sorted = true →
    (contextBusy (beginDestroy s (word32 ps 0).toNat) (word32 ps 0).toNat = false →
      ∃ t, exec .ctxdestroy s = .next t ∧ ContextGone t (word32 ps 0).toNat ∧ t.mailbox.busy = false ∧ t.mailbox.result = 0 ∧
        t.mailbox.tag = tag) ∧
    (contextBusy (beginDestroy s (word32 ps 0).toNat) (word32 ps 0).toNat = true →
      ∃ t y, exec .ctxdestroy s = .next t ∧ t.contexts.get? (word32 ps 0).toNat = some y ∧ y.destroying = true ∧ t.mailbox = s.mailbox)) ∧
  (∀ (s : State) (tag : BitVec 16) (ps : List Word) (image : List Byte), Under s 0x30 tag ps → ps.length = 3 →
    (word64 ps 0).toNat + (word32 ps 2).toNat ≤ 2 ^ 52 → image.length = (word32 ps 2).toNat →
    (∀ k, k < image.length → image.getD k 0 = Memory.byte s.mem (hostBase + (word64 ps 0).toNat + k)) →
    (s.fwstate = 0 → s.contexts ≠ [] → ∃ t, exec .fwload s = .next t ∧ Replies s tag 1 [5, 0, 0, 0] t) ∧
    ((s.fwstate ≠ 0 ∨ s.contexts = []) → Sys2Proof.imageVerifies image = true →
      ∃ t, exec .fwload s = .next t ∧ ModuleReset s t ∧ t.image = image ∧ t.fwstate = 0 ∧ t.mailbox.busy = false ∧ t.mailbox.result = 0) ∧
    ((s.fwstate ≠ 0 ∨ s.contexts = []) → Sys2Proof.imageVerifies image = false →
      ∃ t, exec .fwload s = .next t ∧ Replies { s with image := [], fwstate := 1 } tag 1 [9, 0, 0, 0] t)) ∧
  (∀ s, ∃ t, exec .moduleReset s = .next t ∧ ModuleReset s t ∧ t.image = s.image ∧
    t.fwstate = if Sys2Proof.imageVerifies s.image then 0 else 1)

/-! ## Events and the host -/

/-- spec/19 R410, R411, R488: an event of a tenant is counted; unless it is masked it sets its status bit, writes its record
to the tenant's ring or counts it as dropped, and raises vectors. A notice does none of the counting, and no mask
applies to it. Where the spec leaves a point open, the model's choice: log entries 60, 93. -/
def Obligations.EventsReported : Prop :=
  ∀ (s : State) (e : Event) (n : Nat) (x : Tenant) (r : ErrorRing), EventFits e → e.tenant = some n → s.tenants.get? n = some x → x.ring = some r →
    (e.event < 0x20 → e.ue = true → (report s e).uecnt = s.uecnt + 1 ∧ (report s e).cecnt = s.cecnt) ∧
    (e.event < 0x20 → e.ue = false → (report s e).cecnt = s.cecnt + 1 ∧ (report s e).uecnt = s.uecnt) ∧
    (e.event < 0x20 → IsMasked x e →
      (report s e).tenants = s.tenants ∧ (report s e).vectors = s.vectors ∧ SameMemory s (report s e)) ∧
    (e.event < 0x20 → ¬ IsMasked x e → ∃ rcd y q, EventRecord e s.ticks rcd ∧ (report s e).tenants.get? n = some y ∧ y.ring = some q ∧
      StatusAfter x e rcd y ∧ RingTakes s (report s e) r q rcd ∧
      (¬ RingFull r → (report s e).vectors = s.vectors ++ vectorsOf n x r e)) ∧
    (0x20 ≤ e.event → ∃ rcd y q, EventRecord e s.ticks rcd ∧ (report s e).tenants.get? n = some y ∧ y = { x with ring := some q } ∧
      RingTakes s (report s e) r q rcd ∧ (report s e).uecnt = s.uecnt ∧ (report s e).cecnt = s.cecnt ∧
      (¬ RingFull r → (report s e).vectors = s.vectors ++ if r.head = r.tail then [2 + 2 * n] else []))

/-- spec/12 R335; spec/19 R394 to R397, R411; spec/20 R419, R430: what the host's register writes do, each to its own
register. spec/19 R394; spec/06 R159; spec/07 R199: the host's writes to HBM and to its own memory, and its reads. Where
the spec leaves a point open, the model's choice: log entries 66, 68, 69, 94. -/
def Obligations.HostAccesses : Prop :=
  ((∀ (s : State) (tn : Nat) (x : Tenant) (v : Word), tn < 64 → s.tenants.get? tn = some x →
     ((v - x.progress).toNat ≤ 2 ^ x.wlog2 → ∃ t, exec (.tailWrite tn v) s = .next t ∧ OneTenant s tn x (fun y => y = { x with tail := v }) t) ∧
     (2 ^ x.wlog2 < (v - x.progress).toNat →
       exec (.tailWrite tn v) s = .next (report s ⟨true, 11, 0, v.toNat, 0, 0, 0xFFFF, none, some tn⟩)) ∧
     (∃ t, exec (.uestatWrite tn v) s = .next t ∧ OneTenant s tn x (Cleared x v) t) ∧
     (∃ t, exec (.cestatWrite tn v) s = .next t ∧ OneTenant s tn x (fun y => y = { x with cestat := x.cestat &&& ~~~v }) t)) ∧
   (∀ s : State, exec .mstatRead s = .next { s with mailbox := { s.mailbox with drop := false } }) ∧
   (∀ s : State, (s.mailbox.busy = true → exec .doorbellWrite s = .next { s with mailbox := { s.mailbox with drop := true } }) ∧
     (s.mailbox.busy = false → ∀ (n : Nat), (s.mailbox.command.read 1 0).toNat = n → n ≤ 62 →
       ∃ ps : List Word, ps.length = n ∧ (∀ k, k < n → word32 ps k = s.mailbox.command.read (2 + k) 0) ∧
         let w := s.mailbox.command.read 0 0
         let q := { s with mailbox := { s.mailbox with busy := true, current := some (w.truncate 16, w.extractLsb' 16 16, ps) } }
         (((w.truncate 16 : BitVec 16).toNat ∈ knownOps → exec .doorbellWrite s = .next q) ∧
         ((w.truncate 16 : BitVec 16).toNat ∉ knownOps → ∃ t, exec .doorbellWrite s = .next t ∧ Replies q (w.extractLsb' 16 16) 3 [] t)))) ∧
   (∀ (s : State) (ctx off size : Nat) (v : Word64), ctx < 256 → off < 0x400 →
     (∀ c, s.contexts.get? ctx = some c → c.dbg = true → size = 8 → off % 8 = 0 → off < 0x200 →
       ∃ t, exec (.mailboxHostWrite ctx off size v) s = .next t ∧
         OneContext s ctx (fun c y => y = { c with inbound := y.inbound } ∧
           ∀ k, y.inbound.read k 0 = if k = off / 8 then v else c.inbound.read k 0) t) ∧
     (∀ c, s.contexts.get? ctx = some c → c.dbg = true → (size ≠ 8 ∨ off % 8 ≠ 0) →
       exec (.mailboxHostWrite ctx off size v) s = .next (report s (noticeOf ctx c.tenant 0x21 0 off 0))) ∧
     ((∀ c, s.contexts.get? ctx = some c → c.dbg = false) → exec (.mailboxHostWrite ctx off size v) s = .next s)) ∧
   (∀ (s : State) (ctx : Nat) (c : Context) (v : Word), ctx < 256 → s.contexts.get? ctx = some c → c.dbg = true →
     (ObsctlLegal c v → ∃ t, exec (.obsctlWrite ctx v) s = .next t ∧ OneContext { s with cores := t.cores } ctx
         (fun c y => y = { c with obsctl := v }) t ∧
       (v.getLsbD 1 = true → c.obsctl.getLsbD 1 = false → SamplersStart (v.extractLsb' 16 5).toNat s t)) ∧
     (¬ ObsctlLegal c v → exec (.obsctlWrite ctx v) s = .next (report s (noticeOf ctx c.tenant 0x22 0 0x508 0)))) ∧
   (∀ (s : State) (ctx : Nat) (c : Context) (b : Bool) (v : Word64), ctx < 256 → s.contexts.get? ctx = some c → c.dbg = true →
     (c.obsctl.getLsbD (if b then 1 else 0) = false → ∃ t, exec (.obsBaseWrite ctx b v) s = .next t ∧
       OneContext s ctx (fun c y => y = if b then { c with sbase := v } else { c with trbase := v }) t) ∧
     (c.obsctl.getLsbD (if b then 1 else 0) = true →
       exec (.obsBaseWrite ctx b v) s = .next (report s (noticeOf ctx c.tenant 0x22 0 (if b then 0x510 else 0x500) 0)))) ∧
   (∀ (s : State) (die mon : Nat) (v : Word), die < 4 → mon < 16 → ∃ t, exec (.bctlWrite die mon v) s = .next t ∧
     t = { s with monitors := t.monitors } ∧
     ∀ k, t.monitors.get? k = (s.monitors.get? k).map fun m => if k = 16 * die + mon then bctlWritten m (s.dieTicks die).toNat v else m) ∧
   (∀ (s : State) (tn : Nat) (x : Tenant) (v : Word), tn < 64 → s.tenants.get? tn = some x →
     exec (.registerWrite 2 (0x1000 * tn) 4 (v.zeroExtend 64)) s = exec (.tailWrite tn v) s ∧
     exec (.registerWrite 2 (0x1000 * tn + 0x100) 4 (v.zeroExtend 64)) s = exec (.uestatWrite tn v) s ∧
     exec (.registerWrite 2 (0x1000 * tn + 0x10C) 4 (v.zeroExtend 64)) s = exec (.cestatWrite tn v) s ∧
     (∃ t, exec (.registerWrite 2 (0x1000 * tn + 0x104) 4 (v.zeroExtend 64)) s = .next t ∧
       OneTenant s tn x (fun y => y = { x with uemask := v &&& 0xFFF }) t) ∧
     (∃ t, exec (.registerWrite 2 (0x1000 * tn + 0x108) 4 (v.zeroExtend 64)) s = .next t ∧
       OneTenant s tn x (fun y => y = { x with uesev := v &&& 0xFFF }) t) ∧
     (∃ t, exec (.registerWrite 2 (0x1000 * tn + 0x00C) 4 (v.zeroExtend 64)) s = .next t ∧
       OneTenant s tn x (fun y => y = { x with ring := x.ring.map fun r => { r with tail := v }, tailHeld := v }) t) ∧
     (∀ size, size ≠ 4 → exec (.registerWrite 2 (0x1000 * tn) size (v.zeroExtend 64)) s = .next s) ∧
     exec (.registerWrite 0 0x1100 4 1) s = exec .doorbellWrite s)) ∧
  ((∀ (s : State) (a : Nat) (bytes : List Byte), a + bytes.length ≤ s.hbmBytes → 1 ≤ bytes.length → (∀ p ∈ s.accesses, p.2.checked = false) →
     ∃ t, exec (.hostCxlMemAccess a (some bytes)) s = .next (settle t) ∧ t = { s with mem := t.mem, memPoison := t.memPoison } ∧
       WrittenOutside s t a bytes.length ∧
       (RecordsApart s a bytes.length → ∀ k, k < bytes.length → Memory.byte t.mem (a + k) = bytes.getD k 0)) ∧
   (∀ (s : State) (a : Nat), a + 64 ≤ s.hbmBytes → Unpoisoned s a 64 → exec (.hostCxlMemAccess a none) s = .next s ∧
     ∀ k, k < 64 → (readHbm s a)[k]? = some (Memory.byte s.mem (a + k), false)) ∧
   (∀ (s : State) (a : Nat) (bytes : List Byte), a + bytes.length ≤ 2 ^ 52 →
     ∃ t, exec (.hostSnoop a (some bytes)) s = .next (settle t) ∧ t = { s with mem := t.mem, memPoison := t.memPoison } ∧
       SameMemoryBut s t (hostBase + a) bytes.length ∧ ∀ k, k < bytes.length → Memory.byte t.mem (hostBase + a + k) = bytes.getD k 0) ∧
   (∀ (s : State) (a : Nat), a < 2 ^ 52 → exec (.hostSnoop a none) s = .next s))

/-! ## The fabric -/

/-- spec/19 R403, R405; spec/10 R280, R287: put, get and atomic packets act in the bound context on one page: bytes are
written, read for an answer, or updated; one for no bound context is dropped with FABDEL; and the answers to this
device's lanes arrive. Where the spec leaves a point open, the model's choice: log entries 38, 39, 40, 70, 88, 94. -/
def Obligations.PacketsArrive : Prop :=
  (∀ (s : State) (tenant binding src : Nat) (p : List Byte) (va : Nat), 1 ≤ p.length → p.length ≤ 256 →
    (∀ q ∈ s.contexts, q.2.binding = binding → q.2.tenant ≠ tenant) → (tenant, binding) ∉ s.released →
    ∃ s1, s1 = { s with sent := s1.sent } ∧ exec (.fabricPutReceive (.data tenant binding src va p none)) s =
      .next (report s1 ⟨true, 3, 1, src % 4096, 0, 0, 0xFFFF, none, some tenant⟩)) ∧
  (∀ (s : State) (tenant binding src ctx : Nat) (c : Context) (p : List Byte) (va loc : Nat) (credit : Option (Nat × Nat × Nat)),
    BoundTo s tenant binding ctx c → p.length ≤ 256 → PageOpen s c kindEngineWrite va p.length loc → NoDirty s → Quiet s →
    ∃ t, exec (.fabricPutReceive (.data tenant binding src va p credit)) s = .next t ∧ WrittenOutside s t loc p.length ∧
      t.groups = s.groups ∧ (RecordsApart s loc p.length → ∀ k, k < p.length → Memory.byte t.mem (loc + k) = p.getD k 0) ∧
      ∀ ep i n, credit = some (ep, i, n) → ∃ k x, t.credits.get? k = some x ∧ x.ctx = ctx ∧ x.endpoint = some ep ∧ x.source = i ∧ x.bytes = n) ∧
  (∀ (s : State) (tenant binding src ctx : Nat) (c : Context) (va loc : Nat) (op : AtomOp) (v : BitVec 128) (rop : Nat) (p : List Byte),
    BoundTo s tenant binding ctx c → PageOpen s c kindAtomic va (atomBytes op) loc → PageOpen s c kindEngineWrite va (atomBytes op) loc →
    va % atomBytes op = 0 → RecordsApart s loc (atomBytes op) → Unpoisoned s loc (atomBytes op) → NoDirty s → Quiet s →
    ∃ old : Nat, old < 2 ^ (8 * atomBytes op) ∧ (∀ k, k < atomBytes op → Memory.byte s.mem (loc + k) = BitVec.ofNat 8 (old / 256 ^ k)) ∧
      (∃ t, exec (.fabricAtomicReceive (.request tenant binding src op va v)) s = .next t ∧ WrittenOutside s t loc (atomBytes op) ∧
        (∀ k, k < atomBytes op → Memory.byte t.mem (loc + k) = BitVec.ofNat 8 ((rmwValue op old v.toNat).1 / 256 ^ k)) ∧
        SentTo t src 2 tenant (.response tenant) (leBytes (atomBytes op) old)) ∧
      (ropAtom rop = some op → p.length = atomBytes op →
        ∃ t, exec (.fabricPutReceive (.reduce tenant binding src rop va p none)) s = .next t ∧ WrittenOutside s t loc (atomBytes op) ∧
          ∀ k, k < atomBytes op → Memory.byte t.mem (loc + k) = BitVec.ofNat 8 ((rmwValue op old (leNat p)).1 / 256 ^ k))) ∧
  (∀ (s : State) (tenant binding src ctx : Nat) (c : Context) (va n loc : Nat), BoundTo s tenant binding ctx c → n ≤ 256 →
    PageOpen s c kindEngineRead va n loc → Unpoisoned s loc n → NoDirty s →
    ∃ t bytes, exec (.fabricGetReceive (.request tenant binding src va n)) s = .next t ∧ SameMemory s t ∧
      SentTo t src 1 tenant (.response tenant) bytes ∧ bytes.length = n ∧ ∀ k, k < n → bytes.getD k 0 = Memory.byte s.mem (loc + k)) ∧
  (∀ (s : State) (id k : Nat) (e : Entry) (p : Packet) (bytes : List Byte), s.entries.get? id = some e → s.sent.get? k = some p →
    p.what = .entry id → p.left = true → p.cls = 1 → leNat (p.bytes.drop 8) = bytes.length → s.sent.sorted = true →
    (∀ q ∈ s.sent, q.2.what = .entry id → q.1 = k) →
    ∃ t, exec (.fabricGetReceive (.entryData id bytes)) s = .next t ∧ t.sent.get? k = none ∧ SameMemory s t ∧
      t.entries.get? id = some { e with fetched := e.fetched ++ bytes }) ∧
  (∀ (s : State) (aid lane : Nat) (a : Access) (u : Issuer) (w : LoadWidth) (bytes : List Byte), LaneWaits s aid lane a u → a.kind = .load w →
    (∀ la ∈ a.lanes, la.size = bytes.length ∧ la.tail = none) →
    ∃ t, exec (.fabricGetReceive (.loadData aid lane bytes)) s = .next (settle t) ∧ SameMemory s t ∧
      LaneAnswered t aid lane a (BitVec.ofNat 272 (leNat bytes))) ∧
  (∀ (s : State) (aid lane : Nat) (a : Access) (u : Issuer) (op : AtomOp) (old : Word64), LaneWaits s aid lane a u → a.kind = .rmw op true →
    ∃ t, exec (.fabricAtomicReceive (.response aid lane old)) s = .next (settle t) ∧ SameMemory s t ∧
      LaneAnswered t aid lane a (old.zeroExtend 272))

/-- spec/12 R336; spec/19 R403, R408; spec/23 R474, R476: launch, barrier and collective packets, and what becomes of links.
Where the spec leaves a point open, the model's choice: log entries 37, 38, 71, 75. -/
def Obligations.PodAndLinks : Prop :=
  (∀ (s : State) (port tn binding dev : Nat) (x : Tenant) (p : BitVec 512), port < 24 → dev < 4096 → ¬ PortPaused s port →
    (∀ ctx c, BoundTo s tn binding ctx c → s.tenants.get? tn = some x →
      (x.fabric.length < 64 → ∃ t q, exec (.fabricLaunchReceive ⟨port, tn, binding⟩ dev p) s = .next t ∧ SourceIs p q dev ∧
        OneTenant { s with pausing := s.pausing.erase port } tn x (fun y => y = { x with fabric := x.fabric ++ [q] }) t) ∧
      (64 ≤ x.fabric.length →
        ∃ t, exec (.fabricLaunchReceive ⟨port, tn, binding⟩ dev p) s = .next t ∧ t = { s with pausing := t.pausing } ∧ PortPaused t port)) ∧
    ((∀ q ∈ s.contexts, q.2.binding = binding → q.2.tenant ≠ tn) → (tn, binding) ∉ s.released →
      exec (.fabricLaunchReceive ⟨port, tn, binding⟩ dev p) s =
        .next (report s ⟨true, 3, 1, dev + 3 * 4096, 0, 0, 0xFFFF, none, some tn⟩))) ∧
  (∀ (s : State) (tn binding src domain phase ctx : Nat) (c : Context), 1 ≤ domain → domain < 256 → BoundTo s tn binding ctx c →
    (c.domain ≠ domain → ∀ release, exec (.fabricBarrierReceive ⟨tn, binding, src, domain⟩ phase release) s = .next s) ∧
    (c.domain = domain →
      (∃ t, exec (.fabricBarrierReceive ⟨tn, binding, src, domain⟩ phase false) s = .next (settle t) ∧ t = { s with launches := t.launches } ∧
        PhaseReported s t ctx phase fun n => n + 1) ∧
      (∃ t, exec (.fabricBarrierReceive ⟨tn, binding, src, domain⟩ phase true) s = .next (settle t) ∧
        t = { s with launches := t.launches, sent := t.sent } ∧ PhaseReported s t ctx phase fun _ => c.domainSize))) ∧
  (∀ (s : State) (p : FabricColl) (ctx : Nat) (c : Context), BoundTo s p.tenant p.binding ctx c →
    p.bytes.length ≤ 256 → (p.bytes ≠ [] ∨ p.op = 3) → stagedBytes s p.tenant + p.bytes.length ≤ 2 ^ 22 → (∀ q ∈ s.collectives, q.2.ctx = ctx → q.2.comm = p.comm → q.2.k ≠ p.k) →
    ∃ t x, exec (.fabricCollectiveReceive p) s = .next (settle t) ∧ t.collectives.get? s.nextId = some x ∧ x.ctx = ctx ∧ x.comm = p.comm ∧
      x.k = p.k ∧ x.parts.get? p.rank = some p ∧ x.since = s.ticks.toNat ∧ x.failed = false ∧
      t = { s with collectives := t.collectives, sent := t.sent, engineClocks := t.engineClocks, nextId := s.nextId + 1 }) ∧
  (∀ (s : State) (n tenant : Nat) (x : Staged) (c : Context), s.collectives = [(n, x)] → s.contexts.get? x.ctx = some c → c.tenant = tenant →
    x.failed = false → x.since + 10000000 ≤ s.ticks.toNat → (∀ m, c.comms.get? x.comm = some m → x.parts.length < m.ranks.length) →
    (∀ p ∈ s.entries, p.2.ctx ≠ x.ctx) →
    ∃ t e, exec (.collectiveTimeout tenant x.comm x.k) s = .next (settle t) ∧ e.ue = true ∧ e.event = 4 ∧ e.sub = 2 ∧ e.ctx = some x.ctx ∧
      e.tenant = some tenant ∧ t = { report { s with collectives := [(n, { x with parts := [], failed := true })] } e with
        collectives := t.collectives } ∧ ∀ y, t.collectives.get? n = some y → y.failed = true ∧ y.parts = []) ∧
  (∀ (s : State) (port : Nat), port < 24 → s.ports.read port false = true →
    exec (.linkretry port) s = .next (report s ⟨false, 2, port, 0, 0, 0, 0xFFFF, none, none⟩) ∧
    ∃ t, exec (.linkDown port) s = .next t ∧ 
      t = { s with ports := t.ports, skewPort := t.skewPort, rerouting := t.rerouting, sent := t.sent } ∧ PacketsGo s t ∧
      (∀ k, t.ports.read k false = if k = port then false else s.ports.read k false) ∧
      (∀ w, s.skewPort.get? port = some w → ∃ v, t.skewPort.get? port = some v ∧ v.getLsbD 31 = false ∧ v.extractLsb' 0 31 = w.extractLsb' 0 31) ∧
      ∀ p ∈ s.sent, ∃ since, t.rerouting.get? p.2.dest = some since ∧ since = (s.rerouting.get? p.2.dest).getD s.ticks.toNat) ∧
  (∀ (s : State) (port : Nat), port < 24 → s.ports.read port false = false →
    ∃ t v, exec (.linkUp port) s = .next t ∧ 
      t = { s with ports := t.ports, skewPort := t.skewPort, rerouting := [], sent := t.sent } ∧ PacketsGo s t ∧
      (∀ k, t.ports.read k false = if k = port then true else s.ports.read k false) ∧ t.skewPort.get? port = some v ∧ v.getLsbD 31 = true) ∧
  (∀ (s : State) (device since : Nat), s.rerouting.get? device = some since → since + 1000000 ≤ s.ticks.toNat →
    (∀ p ∈ s.sent, p.2.dest ≠ device) → s.deviceRing = none →
    ∃ t, exec (.linkRerouteTimeout device) s = .next (settle t) ∧ t = { s with rerouting := s.rerouting.erase device }) ∧
  (∀ (s : State) (port cls : Nat) (b : Bool), port < 24 → cls < 6 → ∃ t, exec (.classPause port cls b) s = .next t ∧
    t = { s with paused := t.paused, sent := t.sent } ∧ PacketsGo s t ∧ ∀ k, t.paused.read k false = if k = 8 * port + cls then b else s.paused.read k false)

/-! ## Failures of memory, power and heat -/

/-- spec/01 R24; spec/22 R460, R463; spec/23 R477: the scrubber's findings, a lost access to the memory tier or to host
memory, a port that goes down, and throttling, gating and shutdown. spec/20 R421, R424, R426, R429 to R431: staged
Contrail bytes drain into their segment, an interval of Sounding ends, a Barometer monitor captures a value, and a skew
register takes a measurement. Where the spec leaves a point open, the model's choice: log entries 64, 65, 67, 68, 73,
74, 82, 92. -/
def Obligations.MachineObserved : Prop :=
  ((∀ (s : State) (a : Nat), a < s.hbmBytes → a % 8 = 0 →
     exec (.patrolScrub a .clean) s = .next s ∧
     (∃ e, exec (.patrolScrub a .corrected) s = .next (report s e) ∧ e.ue = false ∧ e.event = 0 ∧ e.addr = a) ∧
     (a < s.mbase → ∃ e s1, exec (.patrolScrub a .uncorrectable) s = .next (report s1 e) ∧ e.ue = true ∧ e.event = 0 ∧ e.addr = a ∧
       s1 = { s with memPoison := s1.memPoison } ∧ ∀ k, s1.memPoison.get? k = if k = a / 8 then some true else s.memPoison.get? k)) ∧
   (∀ (s : State) (a : Nat) (w : SramWord) (p : Nat × Nat × Option (Nat × Context)), sramPlace s w = some p →
     (∃ e, exec (.patrolScrub a (.sram w false)) s = .next (report s e) ∧ e.ue = false ∧ e.event = 1 ∧ e.sub = p.1) ∧
     (∀ tid off x, w = .team tid off → s.teams.get? tid = some x → ∃ t y, exec (.patrolScrub a (.sram w true)) s = .next t ∧
       t = { s with teams := t.teams } ∧ t.teams.get? tid = some y ∧ y = { x with memPoison := y.memPoison } ∧
       ∀ k, y.memPoison.get? k = if k = off / 8 then some true else x.memPoison.get? k) ∧
     (∀ loc, w = .l2 loc true → ∃ t, exec (.patrolScrub a (.sram w true)) s = .next t ∧ t = { s with memPoison := t.memPoison } ∧
       ∀ k, t.memPoison.get? k = if k = loc / 8 then some true else s.memPoison.get? k)) ∧
   (∀ (s : State) (aid loc : Nat) (a : Access) (u : Issuer) (la : LaneAccess), OuterLane s aid a u la loc → ∀ error : Bool,
     ∃ e s1, exec (.tierAccessTimeout ⟨aid, error⟩ la.lane) s = .next (settle (report s1 e)) ∧ e.ue = true ∧ e.event = 2 ∧ e.addr = la.va ∧
       e.sub = (if hostBase ≤ loc then 5 else if error then 3 else 2) ∧ e.lid = u.l.lid ∧ e.tenant = some u.c.tenant ∧ s1 = { s with accesses := s1.accesses } ∧
       SameMemory s s1 ∧ ∃ b, s1.accesses.get? aid = some b ∧
         b.lanes = [{ la with performed := true, value := some 0, poisoned := a.kind.reads }]) ∧
   (∀ (s : State) (port : Nat) (x : TierPort), s.tiers.get? port = some x → x.up = true → s.accesses = [] →
     ∃ t, exec (.tierPortDown port) s = .next (settle t) ∧ t = { s with tiers := t.tiers } ∧
       ∀ k, t.tiers.get? k = if k = port then some { x with up := false } else s.tiers.get? k) ∧
   (∀ s : State, s.throttled = false → ∃ t, exec .powerThrottle s = .next t ∧ t.throttled = true ∧ t.throt = s.throt + 1 ∧
     t.cecnt = s.cecnt + 1 ∧ t.groups = s.groups ∧ t.tenants = s.tenants) ∧
   (∀ s : State, s.throttled = true → exec .throttleEpisodeEnd s = .next { s with throttled := false }) ∧
   (∀ (s : State) (k : Nat), s.gated = false → k < 64 → ∃ t, exec (.thermalGate k) s = .next t ∧ t.gated = true ∧
     t.hotSince = some s.ticks.toNat ∧ t.throt = s.throt + 1 ∧ t.cecnt = s.cecnt + 1 ∧ t.groups = s.groups ∧ t.tenants = s.tenants) ∧
   (∀ s : State, s.gated = true → exec .thermalGateEnd s = .next { s with gated := false, hotSince := none }) ∧
   (∀ (s : State) (k since : Nat), s.hotSince = some since → s.stopped = false → k < 64 → since + 1000000 ≤ s.ticks.toNat →
     s.launches.sorted = true →
     ∃ t, exec (.thermalShutdown k) s = .next t ∧ t.stopped = true ∧
       ∀ n l, t.launches.get? n = some l → (s.contexts.get? l.ctx).isSome = true → l.ended = true)) ∧
  ((∀ (s : State) (core ctx loc head tail : Nat) (x : Core) (c : Context) (st : Staging), s.cores.get? core = some x → x.staging = [(ctx, st)] →
     st.bytes ≠ [] → st.dropped = 0 → s.contexts.get? ctx = some c → NoSounds s → NoDirty s → Quiet s → Segment s c st core loc → NumberAt s loc head → NumberAt s (loc + 8) tail →
     tail ≤ head → head < 2 ^ 63 → head - tail < segmentSize st - 64 →
     let room := segmentSize st - 64
     let k := min st.bytes.length (room - (head - tail))
     ∃ t y, exec (.contrailDrain core) s = .next (settle t) ∧ NumberAt t loc (head + k) ∧
       (∀ i, i < k → Memory.byte t.mem (loc + 64 + (head + i) % room) = st.bytes.getD i 0) ∧
       (∀ i, i < room → (∀ j, j < k → i ≠ (head + j) % room) → Memory.byte t.mem (loc + 64 + i) = Memory.byte s.mem (loc + 64 + i)) ∧
       SameMemoryBut s t loc (segmentSize st) ∧ t.cores.get? core = some y ∧ y.staging = [(ctx, { st with bytes := st.bytes.drop k })]) ∧
   (∀ (s : State) (core quad : Nat) (x : Core) (q : Sampler) (c : Context), s.cores.get? core = some x → x.samplers.get? quad = some q →
     q.left = 0 → q.tagNext = false → SampledOn s core c → NoSounds s →
     let sk := (c.obsctl.extractLsb' 16 5).toNat
     ∃ t y, exec (.soundingInterval core quad) s = .next t ∧ t = { s with cores := t.cores } ∧ (∀ k, k ≠ core → t.cores.get? k = s.cores.get? k) ∧
       t.cores.get? core = some y ∧ y = { x with samplers := y.samplers } ∧ ∀ k, y.samplers.get? k = if k = quad then
         some ⟨lfsrNext q.lfsr, 2 ^ (sk - 1) + (lfsrNext q.lfsr).toNat % 2 ^ sk, true⟩ else x.samplers.get? k) ∧
   (∀ (s : State) (die mon : Nat) (m : Monitor) (v : Word), die < 4 → mon < 16 → s.monitors.get? (16 * die + mon) = some m →
     m.bctl.getLsbD 0 = true → SourceExists die m.bctl → DueAt m (s.dieTicks die).toNat →
     let w := shownValue s die m v
     ∃ y s1, s1 = { s with monitors := s1.monitors } ∧ s1.monitors.get? (16 * die + mon) = some y ∧ Captured m (s.dieTicks die).toNat w y ∧
       (∀ k, k ≠ 16 * die + mon → s1.monitors.get? k = s.monitors.get? k) ∧
       (¬ Alarms m w → exec (.barometerCapture die mon v) s = .next s1) ∧
       (Alarms m w → exec (.barometerCapture die mon v) s =
         .next (report s1 ⟨false, 0x40, 16 * die + mon, w.toNat, 0, 0, 0xFFFF, none, none⟩))) ∧
   (∀ (s : State) (r : Nat) (v : BitVec 28),
     (r < 6 → ∃ t, exec (.skewMeasure r v) s = .next t ∧ t = { s with skewDie := t.skewDie } ∧
       ∀ k, t.skewDie.get? k = if k = r then some (1#1 ++ 0#3 ++ dieOffset s r) else s.skewDie.get? k) ∧
     (6 ≤ r → r < 30 → s.ports.read (r - 6) false = true → ∃ t, exec (.skewMeasure r v) s = .next t ∧ t = { s with skewPort := t.skewPort } ∧
       ∀ k, t.skewPort.get? k = if k = r - 6 then some (1#1 ++ 0#3 ++ v) else s.skewPort.get? k)))

/-! ## Operands, reset, and what every step keeps -/

/-- spec/04 R98 to R107; spec/21 R434, R435; spec/22 R443: an instruction with an operand that does not fit has no effect
and traps. Where the spec leaves a point open, the model's choice: log entries 7, 90. -/
def Obligations.OperandFaults : Prop :=
  Refuses arithmetic ∧ Refuses minMaxPacked ∧ Refuses logic ∧ Refuses shifts ∧ Refuses bitFields ∧ Refuses moves ∧ Refuses predicates ∧
  Refuses floats ∧ Refuses conversions

/-- spec/12 R338; spec/19 R401, R411; spec/20 R430: what reset leaves, where the spec gives a value: tenant entries, masks,
counts and monitors; and no work is under way. Where the spec leaves a point open, the model's choice: log entries 4, 5. -/
def Obligations.ResetValues : Prop :=
  (∀ n, n < 64 → ∃ x, State.reset.tenants.get? n = some x ∧ x.weight = 1 ∧ x.slice = 250 ∧ x.bg = 1 ∧ x.wlog2 = 4 ∧ x.enabled = false ∧
    x.maxPrio = 0 ∧ x.guar = 0 ∧ x.margin = 0 ∧ x.uemask = 0 ∧ x.uesev = 0 ∧ x.cemask = 0x10 ∧ x.uestat = 0 ∧ x.cestat = 0 ∧ x.tail = 0 ∧
    x.progress = 0) ∧
  (∀ n, n < 64 → ∃ m, State.reset.monitors.get? n = some m ∧ m.bctl = 0 ∧ m.alarmHi = 0 ∧ m.min = 0xFFFF_FFFF ∧ m.max = 0 ∧ m.samples = 0) ∧
  (∀ n, n < 192 → ∃ c, State.reset.cores.get? n = some c ∧ c.kind = .unassigned ∧ c.tlb = [] ∧ c.lines = []) ∧
  State.reset.contexts = [] ∧ State.reset.launches = [] ∧ State.reset.groups = [] ∧ State.reset.seq = 0 ∧ State.reset.uecnt = 0 ∧
  State.reset.cecnt = 0 ∧ State.reset.devnum = 0

/-- The memory list of the state after reset is in its canonical form (the model's own form of memory, spec/06 R157). Where
the spec leaves a point open, the model's choice: log entry 3. -/
def Obligations.MemoryFormAtReset : Prop := Memory.wf State.reset.mem = true

/-- Whatever a step does, the memory list keeps its canonical form: addresses strictly rising, and no entry that an unlisted
address would read as too (spec/06 R157; the form is the model's own). Where the spec leaves a point open, the model's
choice: log entry 3. -/
def Obligations.StepKeepsMemoryForm : Prop :=
  ∀ s t : State, Memory.wf s.mem = true → step s = .next t → Memory.wf t.mem = true
end

