-- ==== Sys2Proof/Laws/State.lean ====
section
/-!
SUPPORT. What each named update of the state, of a group and of a team leaves as it was: one lemma per field per update.
-/

namespace Sys2Proof.Machine

section
variable (s : State)

/-! State.setGroup -/

@[simp] theorem State.setGroup_ticks (n : Nat) (x : Group) : (s.setGroup n x).ticks = s.ticks := rfl
@[simp] theorem State.setGroup_clocks (n : Nat) (x : Group) : (s.setGroup n x).clocks = s.clocks := rfl
@[simp] theorem State.setGroup_mem (n : Nat) (x : Group) : (s.setGroup n x).mem = s.mem := rfl
@[simp] theorem State.setGroup_memPoison (n : Nat) (x : Group) : (s.setGroup n x).memPoison = s.memPoison := rfl
@[simp] theorem State.setGroup_cores (n : Nat) (x : Group) : (s.setGroup n x).cores = s.cores := rfl
@[simp] theorem State.setGroup_dieTlb (n : Nat) (x : Group) : (s.setGroup n x).dieTlb = s.dieTlb := rfl
@[simp] theorem State.setGroup_engineClocks (n : Nat) (x : Group) : (s.setGroup n x).engineClocks = s.engineClocks := rfl
@[simp] theorem State.setGroup_faults (n : Nat) (x : Group) : (s.setGroup n x).faults = s.faults := rfl
@[simp] theorem State.setGroup_walks (n : Nat) (x : Group) : (s.setGroup n x).walks = s.walks := rfl
@[simp] theorem State.setGroup_tenants (n : Nat) (x : Group) : (s.setGroup n x).tenants = s.tenants := rfl
@[simp] theorem State.setGroup_contexts (n : Nat) (x : Group) : (s.setGroup n x).contexts = s.contexts := rfl
@[simp] theorem State.setGroup_launches (n : Nat) (x : Group) : (s.setGroup n x).launches = s.launches := rfl
@[simp] theorem State.setGroup_teams (n : Nat) (x : Group) : (s.setGroup n x).teams = s.teams := rfl
@[simp] theorem State.setGroup_accesses (n : Nat) (x : Group) : (s.setGroup n x).accesses = s.accesses := rfl
@[simp] theorem State.setGroup_deferred (n : Nat) (x : Group) : (s.setGroup n x).deferred = s.deferred := rfl
@[simp] theorem State.setGroup_entries (n : Nat) (x : Group) : (s.setGroup n x).entries = s.entries := rfl
@[simp] theorem State.setGroup_joints (n : Nat) (x : Group) : (s.setGroup n x).joints = s.joints := rfl
@[simp] theorem State.setGroup_credits (n : Nat) (x : Group) : (s.setGroup n x).credits = s.credits := rfl
@[simp] theorem State.setGroup_collectives (n : Nat) (x : Group) : (s.setGroup n x).collectives = s.collectives := rfl
@[simp] theorem State.setGroup_sent (n : Nat) (x : Group) : (s.setGroup n x).sent = s.sent := rfl
@[simp] theorem State.setGroup_mailbox (n : Nat) (x : Group) : (s.setGroup n x).mailbox = s.mailbox := rfl
@[simp] theorem State.setGroup_deviceRing (n : Nat) (x : Group) : (s.setGroup n x).deviceRing = s.deviceRing := rfl
@[simp] theorem State.setGroup_tailHeld (n : Nat) (x : Group) : (s.setGroup n x).tailHeld = s.tailHeld := rfl
@[simp] theorem State.setGroup_devnum (n : Nat) (x : Group) : (s.setGroup n x).devnum = s.devnum := rfl
@[simp] theorem State.setGroup_released (n : Nat) (x : Group) : (s.setGroup n x).released = s.released := rfl
@[simp] theorem State.setGroup_seq (n : Nat) (x : Group) : (s.setGroup n x).seq = s.seq := rfl
@[simp] theorem State.setGroup_uecnt (n : Nat) (x : Group) : (s.setGroup n x).uecnt = s.uecnt := rfl
@[simp] theorem State.setGroup_cecnt (n : Nat) (x : Group) : (s.setGroup n x).cecnt = s.cecnt := rfl
@[simp] theorem State.setGroup_lostmd (n : Nat) (x : Group) : (s.setGroup n x).lostmd = s.lostmd := rfl
@[simp] theorem State.setGroup_throt (n : Nat) (x : Group) : (s.setGroup n x).throt = s.throt := rfl
@[simp] theorem State.setGroup_ports (n : Nat) (x : Group) : (s.setGroup n x).ports = s.ports := rfl
@[simp] theorem State.setGroup_paused (n : Nat) (x : Group) : (s.setGroup n x).paused = s.paused := rfl
@[simp] theorem State.setGroup_pausing (n : Nat) (x : Group) : (s.setGroup n x).pausing = s.pausing := rfl
@[simp] theorem State.setGroup_rerouting (n : Nat) (x : Group) : (s.setGroup n x).rerouting = s.rerouting := rfl
@[simp] theorem State.setGroup_tiers (n : Nat) (x : Group) : (s.setGroup n x).tiers = s.tiers := rfl
@[simp] theorem State.setGroup_skewDie (n : Nat) (x : Group) : (s.setGroup n x).skewDie = s.skewDie := rfl
@[simp] theorem State.setGroup_skewPort (n : Nat) (x : Group) : (s.setGroup n x).skewPort = s.skewPort := rfl
@[simp] theorem State.setGroup_monitors (n : Nat) (x : Group) : (s.setGroup n x).monitors = s.monitors := rfl
@[simp] theorem State.setGroup_skew (n : Nat) (x : Group) : (s.setGroup n x).skew = s.skew := rfl
@[simp] theorem State.setGroup_image (n : Nat) (x : Group) : (s.setGroup n x).image = s.image := rfl
@[simp] theorem State.setGroup_fwstate (n : Nat) (x : Group) : (s.setGroup n x).fwstate = s.fwstate := rfl
@[simp] theorem State.setGroup_throttled (n : Nat) (x : Group) : (s.setGroup n x).throttled = s.throttled := rfl
@[simp] theorem State.setGroup_gated (n : Nat) (x : Group) : (s.setGroup n x).gated = s.gated := rfl
@[simp] theorem State.setGroup_hotSince (n : Nat) (x : Group) : (s.setGroup n x).hotSince = s.hotSince := rfl
@[simp] theorem State.setGroup_stopped (n : Nat) (x : Group) : (s.setGroup n x).stopped = s.stopped := rfl
@[simp] theorem State.setGroup_channelErrors (n : Nat) (x : Group) : (s.setGroup n x).channelErrors = s.channelErrors := rfl
@[simp] theorem State.setGroup_lostChannels (n : Nat) (x : Group) : (s.setGroup n x).lostChannels = s.lostChannels := rfl
@[simp] theorem State.setGroup_lostLanes (n : Nat) (x : Group) : (s.setGroup n x).lostLanes = s.lostLanes := rfl
@[simp] theorem State.setGroup_vectors (n : Nat) (x : Group) : (s.setGroup n x).vectors = s.vectors := rfl
@[simp] theorem State.setGroup_agenda (n : Nat) (x : Group) : (s.setGroup n x).agenda = s.agenda := rfl
@[simp] theorem State.setGroup_turn (n : Nat) (x : Group) : (s.setGroup n x).turn = s.turn := rfl
@[simp] theorem State.setGroup_cur (n : Nat) (x : Group) : (s.setGroup n x).cur = s.cur := rfl
@[simp] theorem State.setGroup_force (n : Nat) (x : Group) : (s.setGroup n x).force = s.force := rfl
@[simp] theorem State.setGroup_nextId (n : Nat) (x : Group) : (s.setGroup n x).nextId = s.nextId := rfl
@[simp] theorem State.setGroup_usableChannels (n : Nat) (x : Group) : (s.setGroup n x).usableChannels = s.usableChannels := rfl
@[simp] theorem State.setGroup_hbmBytes (n : Nat) (x : Group) : (s.setGroup n x).hbmBytes = s.hbmBytes := rfl
@[simp] theorem State.setGroup_mbase (n : Nat) (x : Group) : (s.setGroup n x).mbase = s.mbase := rfl

/-! State.setTeam -/

@[simp] theorem State.setTeam_ticks (n : Nat) (x : Team) : (s.setTeam n x).ticks = s.ticks := rfl
@[simp] theorem State.setTeam_clocks (n : Nat) (x : Team) : (s.setTeam n x).clocks = s.clocks := rfl
@[simp] theorem State.setTeam_mem (n : Nat) (x : Team) : (s.setTeam n x).mem = s.mem := rfl
@[simp] theorem State.setTeam_memPoison (n : Nat) (x : Team) : (s.setTeam n x).memPoison = s.memPoison := rfl
@[simp] theorem State.setTeam_cores (n : Nat) (x : Team) : (s.setTeam n x).cores = s.cores := rfl
@[simp] theorem State.setTeam_dieTlb (n : Nat) (x : Team) : (s.setTeam n x).dieTlb = s.dieTlb := rfl
@[simp] theorem State.setTeam_engineClocks (n : Nat) (x : Team) : (s.setTeam n x).engineClocks = s.engineClocks := rfl
@[simp] theorem State.setTeam_faults (n : Nat) (x : Team) : (s.setTeam n x).faults = s.faults := rfl
@[simp] theorem State.setTeam_walks (n : Nat) (x : Team) : (s.setTeam n x).walks = s.walks := rfl
@[simp] theorem State.setTeam_tenants (n : Nat) (x : Team) : (s.setTeam n x).tenants = s.tenants := rfl
@[simp] theorem State.setTeam_contexts (n : Nat) (x : Team) : (s.setTeam n x).contexts = s.contexts := rfl
@[simp] theorem State.setTeam_launches (n : Nat) (x : Team) : (s.setTeam n x).launches = s.launches := rfl
@[simp] theorem State.setTeam_groups (n : Nat) (x : Team) : (s.setTeam n x).groups = s.groups := rfl
@[simp] theorem State.setTeam_accesses (n : Nat) (x : Team) : (s.setTeam n x).accesses = s.accesses := rfl
@[simp] theorem State.setTeam_deferred (n : Nat) (x : Team) : (s.setTeam n x).deferred = s.deferred := rfl
@[simp] theorem State.setTeam_entries (n : Nat) (x : Team) : (s.setTeam n x).entries = s.entries := rfl
@[simp] theorem State.setTeam_joints (n : Nat) (x : Team) : (s.setTeam n x).joints = s.joints := rfl
@[simp] theorem State.setTeam_credits (n : Nat) (x : Team) : (s.setTeam n x).credits = s.credits := rfl
@[simp] theorem State.setTeam_collectives (n : Nat) (x : Team) : (s.setTeam n x).collectives = s.collectives := rfl
@[simp] theorem State.setTeam_sent (n : Nat) (x : Team) : (s.setTeam n x).sent = s.sent := rfl
@[simp] theorem State.setTeam_mailbox (n : Nat) (x : Team) : (s.setTeam n x).mailbox = s.mailbox := rfl
@[simp] theorem State.setTeam_deviceRing (n : Nat) (x : Team) : (s.setTeam n x).deviceRing = s.deviceRing := rfl
@[simp] theorem State.setTeam_tailHeld (n : Nat) (x : Team) : (s.setTeam n x).tailHeld = s.tailHeld := rfl
@[simp] theorem State.setTeam_devnum (n : Nat) (x : Team) : (s.setTeam n x).devnum = s.devnum := rfl
@[simp] theorem State.setTeam_released (n : Nat) (x : Team) : (s.setTeam n x).released = s.released := rfl
@[simp] theorem State.setTeam_seq (n : Nat) (x : Team) : (s.setTeam n x).seq = s.seq := rfl
@[simp] theorem State.setTeam_uecnt (n : Nat) (x : Team) : (s.setTeam n x).uecnt = s.uecnt := rfl
@[simp] theorem State.setTeam_cecnt (n : Nat) (x : Team) : (s.setTeam n x).cecnt = s.cecnt := rfl
@[simp] theorem State.setTeam_lostmd (n : Nat) (x : Team) : (s.setTeam n x).lostmd = s.lostmd := rfl
@[simp] theorem State.setTeam_throt (n : Nat) (x : Team) : (s.setTeam n x).throt = s.throt := rfl
@[simp] theorem State.setTeam_ports (n : Nat) (x : Team) : (s.setTeam n x).ports = s.ports := rfl
@[simp] theorem State.setTeam_paused (n : Nat) (x : Team) : (s.setTeam n x).paused = s.paused := rfl
@[simp] theorem State.setTeam_pausing (n : Nat) (x : Team) : (s.setTeam n x).pausing = s.pausing := rfl
@[simp] theorem State.setTeam_rerouting (n : Nat) (x : Team) : (s.setTeam n x).rerouting = s.rerouting := rfl
@[simp] theorem State.setTeam_tiers (n : Nat) (x : Team) : (s.setTeam n x).tiers = s.tiers := rfl
@[simp] theorem State.setTeam_skewDie (n : Nat) (x : Team) : (s.setTeam n x).skewDie = s.skewDie := rfl
@[simp] theorem State.setTeam_skewPort (n : Nat) (x : Team) : (s.setTeam n x).skewPort = s.skewPort := rfl
@[simp] theorem State.setTeam_monitors (n : Nat) (x : Team) : (s.setTeam n x).monitors = s.monitors := rfl
@[simp] theorem State.setTeam_skew (n : Nat) (x : Team) : (s.setTeam n x).skew = s.skew := rfl
@[simp] theorem State.setTeam_image (n : Nat) (x : Team) : (s.setTeam n x).image = s.image := rfl
@[simp] theorem State.setTeam_fwstate (n : Nat) (x : Team) : (s.setTeam n x).fwstate = s.fwstate := rfl
@[simp] theorem State.setTeam_throttled (n : Nat) (x : Team) : (s.setTeam n x).throttled = s.throttled := rfl
@[simp] theorem State.setTeam_gated (n : Nat) (x : Team) : (s.setTeam n x).gated = s.gated := rfl
@[simp] theorem State.setTeam_hotSince (n : Nat) (x : Team) : (s.setTeam n x).hotSince = s.hotSince := rfl
@[simp] theorem State.setTeam_stopped (n : Nat) (x : Team) : (s.setTeam n x).stopped = s.stopped := rfl
@[simp] theorem State.setTeam_channelErrors (n : Nat) (x : Team) : (s.setTeam n x).channelErrors = s.channelErrors := rfl
@[simp] theorem State.setTeam_lostChannels (n : Nat) (x : Team) : (s.setTeam n x).lostChannels = s.lostChannels := rfl
@[simp] theorem State.setTeam_lostLanes (n : Nat) (x : Team) : (s.setTeam n x).lostLanes = s.lostLanes := rfl
@[simp] theorem State.setTeam_vectors (n : Nat) (x : Team) : (s.setTeam n x).vectors = s.vectors := rfl
@[simp] theorem State.setTeam_agenda (n : Nat) (x : Team) : (s.setTeam n x).agenda = s.agenda := rfl
@[simp] theorem State.setTeam_turn (n : Nat) (x : Team) : (s.setTeam n x).turn = s.turn := rfl
@[simp] theorem State.setTeam_cur (n : Nat) (x : Team) : (s.setTeam n x).cur = s.cur := rfl
@[simp] theorem State.setTeam_force (n : Nat) (x : Team) : (s.setTeam n x).force = s.force := rfl
@[simp] theorem State.setTeam_nextId (n : Nat) (x : Team) : (s.setTeam n x).nextId = s.nextId := rfl
@[simp] theorem State.setTeam_usableChannels (n : Nat) (x : Team) : (s.setTeam n x).usableChannels = s.usableChannels := rfl
@[simp] theorem State.setTeam_hbmBytes (n : Nat) (x : Team) : (s.setTeam n x).hbmBytes = s.hbmBytes := rfl
@[simp] theorem State.setTeam_mbase (n : Nat) (x : Team) : (s.setTeam n x).mbase = s.mbase := rfl

/-! State.setLaunch -/

@[simp] theorem State.setLaunch_ticks (n : Nat) (x : Launch) : (s.setLaunch n x).ticks = s.ticks := rfl
@[simp] theorem State.setLaunch_clocks (n : Nat) (x : Launch) : (s.setLaunch n x).clocks = s.clocks := rfl
@[simp] theorem State.setLaunch_mem (n : Nat) (x : Launch) : (s.setLaunch n x).mem = s.mem := rfl
@[simp] theorem State.setLaunch_memPoison (n : Nat) (x : Launch) : (s.setLaunch n x).memPoison = s.memPoison := rfl
@[simp] theorem State.setLaunch_cores (n : Nat) (x : Launch) : (s.setLaunch n x).cores = s.cores := rfl
@[simp] theorem State.setLaunch_dieTlb (n : Nat) (x : Launch) : (s.setLaunch n x).dieTlb = s.dieTlb := rfl
@[simp] theorem State.setLaunch_engineClocks (n : Nat) (x : Launch) : (s.setLaunch n x).engineClocks = s.engineClocks := rfl
@[simp] theorem State.setLaunch_faults (n : Nat) (x : Launch) : (s.setLaunch n x).faults = s.faults := rfl
@[simp] theorem State.setLaunch_walks (n : Nat) (x : Launch) : (s.setLaunch n x).walks = s.walks := rfl
@[simp] theorem State.setLaunch_tenants (n : Nat) (x : Launch) : (s.setLaunch n x).tenants = s.tenants := rfl
@[simp] theorem State.setLaunch_contexts (n : Nat) (x : Launch) : (s.setLaunch n x).contexts = s.contexts := rfl
@[simp] theorem State.setLaunch_teams (n : Nat) (x : Launch) : (s.setLaunch n x).teams = s.teams := rfl
@[simp] theorem State.setLaunch_groups (n : Nat) (x : Launch) : (s.setLaunch n x).groups = s.groups := rfl
@[simp] theorem State.setLaunch_accesses (n : Nat) (x : Launch) : (s.setLaunch n x).accesses = s.accesses := rfl
@[simp] theorem State.setLaunch_deferred (n : Nat) (x : Launch) : (s.setLaunch n x).deferred = s.deferred := rfl
@[simp] theorem State.setLaunch_entries (n : Nat) (x : Launch) : (s.setLaunch n x).entries = s.entries := rfl
@[simp] theorem State.setLaunch_joints (n : Nat) (x : Launch) : (s.setLaunch n x).joints = s.joints := rfl
@[simp] theorem State.setLaunch_credits (n : Nat) (x : Launch) : (s.setLaunch n x).credits = s.credits := rfl
@[simp] theorem State.setLaunch_collectives (n : Nat) (x : Launch) : (s.setLaunch n x).collectives = s.collectives := rfl
@[simp] theorem State.setLaunch_sent (n : Nat) (x : Launch) : (s.setLaunch n x).sent = s.sent := rfl
@[simp] theorem State.setLaunch_mailbox (n : Nat) (x : Launch) : (s.setLaunch n x).mailbox = s.mailbox := rfl
@[simp] theorem State.setLaunch_deviceRing (n : Nat) (x : Launch) : (s.setLaunch n x).deviceRing = s.deviceRing := rfl
@[simp] theorem State.setLaunch_tailHeld (n : Nat) (x : Launch) : (s.setLaunch n x).tailHeld = s.tailHeld := rfl
@[simp] theorem State.setLaunch_devnum (n : Nat) (x : Launch) : (s.setLaunch n x).devnum = s.devnum := rfl
@[simp] theorem State.setLaunch_released (n : Nat) (x : Launch) : (s.setLaunch n x).released = s.released := rfl
@[simp] theorem State.setLaunch_seq (n : Nat) (x : Launch) : (s.setLaunch n x).seq = s.seq := rfl
@[simp] theorem State.setLaunch_uecnt (n : Nat) (x : Launch) : (s.setLaunch n x).uecnt = s.uecnt := rfl
@[simp] theorem State.setLaunch_cecnt (n : Nat) (x : Launch) : (s.setLaunch n x).cecnt = s.cecnt := rfl
@[simp] theorem State.setLaunch_lostmd (n : Nat) (x : Launch) : (s.setLaunch n x).lostmd = s.lostmd := rfl
@[simp] theorem State.setLaunch_throt (n : Nat) (x : Launch) : (s.setLaunch n x).throt = s.throt := rfl
@[simp] theorem State.setLaunch_ports (n : Nat) (x : Launch) : (s.setLaunch n x).ports = s.ports := rfl
@[simp] theorem State.setLaunch_paused (n : Nat) (x : Launch) : (s.setLaunch n x).paused = s.paused := rfl
@[simp] theorem State.setLaunch_pausing (n : Nat) (x : Launch) : (s.setLaunch n x).pausing = s.pausing := rfl
@[simp] theorem State.setLaunch_rerouting (n : Nat) (x : Launch) : (s.setLaunch n x).rerouting = s.rerouting := rfl
@[simp] theorem State.setLaunch_tiers (n : Nat) (x : Launch) : (s.setLaunch n x).tiers = s.tiers := rfl
@[simp] theorem State.setLaunch_skewDie (n : Nat) (x : Launch) : (s.setLaunch n x).skewDie = s.skewDie := rfl
@[simp] theorem State.setLaunch_skewPort (n : Nat) (x : Launch) : (s.setLaunch n x).skewPort = s.skewPort := rfl
@[simp] theorem State.setLaunch_monitors (n : Nat) (x : Launch) : (s.setLaunch n x).monitors = s.monitors := rfl
@[simp] theorem State.setLaunch_skew (n : Nat) (x : Launch) : (s.setLaunch n x).skew = s.skew := rfl
@[simp] theorem State.setLaunch_image (n : Nat) (x : Launch) : (s.setLaunch n x).image = s.image := rfl
@[simp] theorem State.setLaunch_fwstate (n : Nat) (x : Launch) : (s.setLaunch n x).fwstate = s.fwstate := rfl
@[simp] theorem State.setLaunch_throttled (n : Nat) (x : Launch) : (s.setLaunch n x).throttled = s.throttled := rfl
@[simp] theorem State.setLaunch_gated (n : Nat) (x : Launch) : (s.setLaunch n x).gated = s.gated := rfl
@[simp] theorem State.setLaunch_hotSince (n : Nat) (x : Launch) : (s.setLaunch n x).hotSince = s.hotSince := rfl
@[simp] theorem State.setLaunch_stopped (n : Nat) (x : Launch) : (s.setLaunch n x).stopped = s.stopped := rfl
@[simp] theorem State.setLaunch_channelErrors (n : Nat) (x : Launch) : (s.setLaunch n x).channelErrors = s.channelErrors := rfl
@[simp] theorem State.setLaunch_lostChannels (n : Nat) (x : Launch) : (s.setLaunch n x).lostChannels = s.lostChannels := rfl
@[simp] theorem State.setLaunch_lostLanes (n : Nat) (x : Launch) : (s.setLaunch n x).lostLanes = s.lostLanes := rfl
@[simp] theorem State.setLaunch_vectors (n : Nat) (x : Launch) : (s.setLaunch n x).vectors = s.vectors := rfl
@[simp] theorem State.setLaunch_agenda (n : Nat) (x : Launch) : (s.setLaunch n x).agenda = s.agenda := rfl
@[simp] theorem State.setLaunch_turn (n : Nat) (x : Launch) : (s.setLaunch n x).turn = s.turn := rfl
@[simp] theorem State.setLaunch_cur (n : Nat) (x : Launch) : (s.setLaunch n x).cur = s.cur := rfl
@[simp] theorem State.setLaunch_force (n : Nat) (x : Launch) : (s.setLaunch n x).force = s.force := rfl
@[simp] theorem State.setLaunch_nextId (n : Nat) (x : Launch) : (s.setLaunch n x).nextId = s.nextId := rfl
@[simp] theorem State.setLaunch_usableChannels (n : Nat) (x : Launch) : (s.setLaunch n x).usableChannels = s.usableChannels := rfl
@[simp] theorem State.setLaunch_hbmBytes (n : Nat) (x : Launch) : (s.setLaunch n x).hbmBytes = s.hbmBytes := rfl
@[simp] theorem State.setLaunch_mbase (n : Nat) (x : Launch) : (s.setLaunch n x).mbase = s.mbase := rfl

/-! State.setContext -/

@[simp] theorem State.setContext_ticks (n : Nat) (x : Context) : (s.setContext n x).ticks = s.ticks := rfl
@[simp] theorem State.setContext_clocks (n : Nat) (x : Context) : (s.setContext n x).clocks = s.clocks := rfl
@[simp] theorem State.setContext_mem (n : Nat) (x : Context) : (s.setContext n x).mem = s.mem := rfl
@[simp] theorem State.setContext_memPoison (n : Nat) (x : Context) : (s.setContext n x).memPoison = s.memPoison := rfl
@[simp] theorem State.setContext_cores (n : Nat) (x : Context) : (s.setContext n x).cores = s.cores := rfl
@[simp] theorem State.setContext_dieTlb (n : Nat) (x : Context) : (s.setContext n x).dieTlb = s.dieTlb := rfl
@[simp] theorem State.setContext_engineClocks (n : Nat) (x : Context) : (s.setContext n x).engineClocks = s.engineClocks := rfl
@[simp] theorem State.setContext_faults (n : Nat) (x : Context) : (s.setContext n x).faults = s.faults := rfl
@[simp] theorem State.setContext_walks (n : Nat) (x : Context) : (s.setContext n x).walks = s.walks := rfl
@[simp] theorem State.setContext_tenants (n : Nat) (x : Context) : (s.setContext n x).tenants = s.tenants := rfl
@[simp] theorem State.setContext_launches (n : Nat) (x : Context) : (s.setContext n x).launches = s.launches := rfl
@[simp] theorem State.setContext_teams (n : Nat) (x : Context) : (s.setContext n x).teams = s.teams := rfl
@[simp] theorem State.setContext_groups (n : Nat) (x : Context) : (s.setContext n x).groups = s.groups := rfl
@[simp] theorem State.setContext_accesses (n : Nat) (x : Context) : (s.setContext n x).accesses = s.accesses := rfl
@[simp] theorem State.setContext_deferred (n : Nat) (x : Context) : (s.setContext n x).deferred = s.deferred := rfl
@[simp] theorem State.setContext_entries (n : Nat) (x : Context) : (s.setContext n x).entries = s.entries := rfl
@[simp] theorem State.setContext_joints (n : Nat) (x : Context) : (s.setContext n x).joints = s.joints := rfl
@[simp] theorem State.setContext_credits (n : Nat) (x : Context) : (s.setContext n x).credits = s.credits := rfl
@[simp] theorem State.setContext_collectives (n : Nat) (x : Context) : (s.setContext n x).collectives = s.collectives := rfl
@[simp] theorem State.setContext_sent (n : Nat) (x : Context) : (s.setContext n x).sent = s.sent := rfl
@[simp] theorem State.setContext_mailbox (n : Nat) (x : Context) : (s.setContext n x).mailbox = s.mailbox := rfl
@[simp] theorem State.setContext_deviceRing (n : Nat) (x : Context) : (s.setContext n x).deviceRing = s.deviceRing := rfl
@[simp] theorem State.setContext_tailHeld (n : Nat) (x : Context) : (s.setContext n x).tailHeld = s.tailHeld := rfl
@[simp] theorem State.setContext_devnum (n : Nat) (x : Context) : (s.setContext n x).devnum = s.devnum := rfl
@[simp] theorem State.setContext_released (n : Nat) (x : Context) : (s.setContext n x).released = s.released := rfl
@[simp] theorem State.setContext_seq (n : Nat) (x : Context) : (s.setContext n x).seq = s.seq := rfl
@[simp] theorem State.setContext_uecnt (n : Nat) (x : Context) : (s.setContext n x).uecnt = s.uecnt := rfl
@[simp] theorem State.setContext_cecnt (n : Nat) (x : Context) : (s.setContext n x).cecnt = s.cecnt := rfl
@[simp] theorem State.setContext_lostmd (n : Nat) (x : Context) : (s.setContext n x).lostmd = s.lostmd := rfl
@[simp] theorem State.setContext_throt (n : Nat) (x : Context) : (s.setContext n x).throt = s.throt := rfl
@[simp] theorem State.setContext_ports (n : Nat) (x : Context) : (s.setContext n x).ports = s.ports := rfl
@[simp] theorem State.setContext_paused (n : Nat) (x : Context) : (s.setContext n x).paused = s.paused := rfl
@[simp] theorem State.setContext_pausing (n : Nat) (x : Context) : (s.setContext n x).pausing = s.pausing := rfl
@[simp] theorem State.setContext_rerouting (n : Nat) (x : Context) : (s.setContext n x).rerouting = s.rerouting := rfl
@[simp] theorem State.setContext_tiers (n : Nat) (x : Context) : (s.setContext n x).tiers = s.tiers := rfl
@[simp] theorem State.setContext_skewDie (n : Nat) (x : Context) : (s.setContext n x).skewDie = s.skewDie := rfl
@[simp] theorem State.setContext_skewPort (n : Nat) (x : Context) : (s.setContext n x).skewPort = s.skewPort := rfl
@[simp] theorem State.setContext_monitors (n : Nat) (x : Context) : (s.setContext n x).monitors = s.monitors := rfl
@[simp] theorem State.setContext_skew (n : Nat) (x : Context) : (s.setContext n x).skew = s.skew := rfl
@[simp] theorem State.setContext_image (n : Nat) (x : Context) : (s.setContext n x).image = s.image := rfl
@[simp] theorem State.setContext_fwstate (n : Nat) (x : Context) : (s.setContext n x).fwstate = s.fwstate := rfl
@[simp] theorem State.setContext_throttled (n : Nat) (x : Context) : (s.setContext n x).throttled = s.throttled := rfl
@[simp] theorem State.setContext_gated (n : Nat) (x : Context) : (s.setContext n x).gated = s.gated := rfl
@[simp] theorem State.setContext_hotSince (n : Nat) (x : Context) : (s.setContext n x).hotSince = s.hotSince := rfl
@[simp] theorem State.setContext_stopped (n : Nat) (x : Context) : (s.setContext n x).stopped = s.stopped := rfl
@[simp] theorem State.setContext_channelErrors (n : Nat) (x : Context) : (s.setContext n x).channelErrors = s.channelErrors := rfl
@[simp] theorem State.setContext_lostChannels (n : Nat) (x : Context) : (s.setContext n x).lostChannels = s.lostChannels := rfl
@[simp] theorem State.setContext_lostLanes (n : Nat) (x : Context) : (s.setContext n x).lostLanes = s.lostLanes := rfl
@[simp] theorem State.setContext_vectors (n : Nat) (x : Context) : (s.setContext n x).vectors = s.vectors := rfl
@[simp] theorem State.setContext_agenda (n : Nat) (x : Context) : (s.setContext n x).agenda = s.agenda := rfl
@[simp] theorem State.setContext_turn (n : Nat) (x : Context) : (s.setContext n x).turn = s.turn := rfl
@[simp] theorem State.setContext_cur (n : Nat) (x : Context) : (s.setContext n x).cur = s.cur := rfl
@[simp] theorem State.setContext_force (n : Nat) (x : Context) : (s.setContext n x).force = s.force := rfl
@[simp] theorem State.setContext_nextId (n : Nat) (x : Context) : (s.setContext n x).nextId = s.nextId := rfl
@[simp] theorem State.setContext_usableChannels (n : Nat) (x : Context) : (s.setContext n x).usableChannels = s.usableChannels := rfl
@[simp] theorem State.setContext_hbmBytes (n : Nat) (x : Context) : (s.setContext n x).hbmBytes = s.hbmBytes := rfl
@[simp] theorem State.setContext_mbase (n : Nat) (x : Context) : (s.setContext n x).mbase = s.mbase := rfl

/-! State.setTenant -/

@[simp] theorem State.setTenant_ticks (n : Nat) (x : Tenant) : (s.setTenant n x).ticks = s.ticks := rfl
@[simp] theorem State.setTenant_clocks (n : Nat) (x : Tenant) : (s.setTenant n x).clocks = s.clocks := rfl
@[simp] theorem State.setTenant_mem (n : Nat) (x : Tenant) : (s.setTenant n x).mem = s.mem := rfl
@[simp] theorem State.setTenant_memPoison (n : Nat) (x : Tenant) : (s.setTenant n x).memPoison = s.memPoison := rfl
@[simp] theorem State.setTenant_cores (n : Nat) (x : Tenant) : (s.setTenant n x).cores = s.cores := rfl
@[simp] theorem State.setTenant_dieTlb (n : Nat) (x : Tenant) : (s.setTenant n x).dieTlb = s.dieTlb := rfl
@[simp] theorem State.setTenant_engineClocks (n : Nat) (x : Tenant) : (s.setTenant n x).engineClocks = s.engineClocks := rfl
@[simp] theorem State.setTenant_faults (n : Nat) (x : Tenant) : (s.setTenant n x).faults = s.faults := rfl
@[simp] theorem State.setTenant_walks (n : Nat) (x : Tenant) : (s.setTenant n x).walks = s.walks := rfl
@[simp] theorem State.setTenant_contexts (n : Nat) (x : Tenant) : (s.setTenant n x).contexts = s.contexts := rfl
@[simp] theorem State.setTenant_launches (n : Nat) (x : Tenant) : (s.setTenant n x).launches = s.launches := rfl
@[simp] theorem State.setTenant_teams (n : Nat) (x : Tenant) : (s.setTenant n x).teams = s.teams := rfl
@[simp] theorem State.setTenant_groups (n : Nat) (x : Tenant) : (s.setTenant n x).groups = s.groups := rfl
@[simp] theorem State.setTenant_accesses (n : Nat) (x : Tenant) : (s.setTenant n x).accesses = s.accesses := rfl
@[simp] theorem State.setTenant_deferred (n : Nat) (x : Tenant) : (s.setTenant n x).deferred = s.deferred := rfl
@[simp] theorem State.setTenant_entries (n : Nat) (x : Tenant) : (s.setTenant n x).entries = s.entries := rfl
@[simp] theorem State.setTenant_joints (n : Nat) (x : Tenant) : (s.setTenant n x).joints = s.joints := rfl
@[simp] theorem State.setTenant_credits (n : Nat) (x : Tenant) : (s.setTenant n x).credits = s.credits := rfl
@[simp] theorem State.setTenant_collectives (n : Nat) (x : Tenant) : (s.setTenant n x).collectives = s.collectives := rfl
@[simp] theorem State.setTenant_sent (n : Nat) (x : Tenant) : (s.setTenant n x).sent = s.sent := rfl
@[simp] theorem State.setTenant_mailbox (n : Nat) (x : Tenant) : (s.setTenant n x).mailbox = s.mailbox := rfl
@[simp] theorem State.setTenant_deviceRing (n : Nat) (x : Tenant) : (s.setTenant n x).deviceRing = s.deviceRing := rfl
@[simp] theorem State.setTenant_tailHeld (n : Nat) (x : Tenant) : (s.setTenant n x).tailHeld = s.tailHeld := rfl
@[simp] theorem State.setTenant_devnum (n : Nat) (x : Tenant) : (s.setTenant n x).devnum = s.devnum := rfl
@[simp] theorem State.setTenant_released (n : Nat) (x : Tenant) : (s.setTenant n x).released = s.released := rfl
@[simp] theorem State.setTenant_seq (n : Nat) (x : Tenant) : (s.setTenant n x).seq = s.seq := rfl
@[simp] theorem State.setTenant_uecnt (n : Nat) (x : Tenant) : (s.setTenant n x).uecnt = s.uecnt := rfl
@[simp] theorem State.setTenant_cecnt (n : Nat) (x : Tenant) : (s.setTenant n x).cecnt = s.cecnt := rfl
@[simp] theorem State.setTenant_lostmd (n : Nat) (x : Tenant) : (s.setTenant n x).lostmd = s.lostmd := rfl
@[simp] theorem State.setTenant_throt (n : Nat) (x : Tenant) : (s.setTenant n x).throt = s.throt := rfl
@[simp] theorem State.setTenant_ports (n : Nat) (x : Tenant) : (s.setTenant n x).ports = s.ports := rfl
@[simp] theorem State.setTenant_paused (n : Nat) (x : Tenant) : (s.setTenant n x).paused = s.paused := rfl
@[simp] theorem State.setTenant_pausing (n : Nat) (x : Tenant) : (s.setTenant n x).pausing = s.pausing := rfl
@[simp] theorem State.setTenant_rerouting (n : Nat) (x : Tenant) : (s.setTenant n x).rerouting = s.rerouting := rfl
@[simp] theorem State.setTenant_tiers (n : Nat) (x : Tenant) : (s.setTenant n x).tiers = s.tiers := rfl
@[simp] theorem State.setTenant_skewDie (n : Nat) (x : Tenant) : (s.setTenant n x).skewDie = s.skewDie := rfl
@[simp] theorem State.setTenant_skewPort (n : Nat) (x : Tenant) : (s.setTenant n x).skewPort = s.skewPort := rfl
@[simp] theorem State.setTenant_monitors (n : Nat) (x : Tenant) : (s.setTenant n x).monitors = s.monitors := rfl
@[simp] theorem State.setTenant_skew (n : Nat) (x : Tenant) : (s.setTenant n x).skew = s.skew := rfl
@[simp] theorem State.setTenant_image (n : Nat) (x : Tenant) : (s.setTenant n x).image = s.image := rfl
@[simp] theorem State.setTenant_fwstate (n : Nat) (x : Tenant) : (s.setTenant n x).fwstate = s.fwstate := rfl
@[simp] theorem State.setTenant_throttled (n : Nat) (x : Tenant) : (s.setTenant n x).throttled = s.throttled := rfl
@[simp] theorem State.setTenant_gated (n : Nat) (x : Tenant) : (s.setTenant n x).gated = s.gated := rfl
@[simp] theorem State.setTenant_hotSince (n : Nat) (x : Tenant) : (s.setTenant n x).hotSince = s.hotSince := rfl
@[simp] theorem State.setTenant_stopped (n : Nat) (x : Tenant) : (s.setTenant n x).stopped = s.stopped := rfl
@[simp] theorem State.setTenant_channelErrors (n : Nat) (x : Tenant) : (s.setTenant n x).channelErrors = s.channelErrors := rfl
@[simp] theorem State.setTenant_lostChannels (n : Nat) (x : Tenant) : (s.setTenant n x).lostChannels = s.lostChannels := rfl
@[simp] theorem State.setTenant_lostLanes (n : Nat) (x : Tenant) : (s.setTenant n x).lostLanes = s.lostLanes := rfl
@[simp] theorem State.setTenant_vectors (n : Nat) (x : Tenant) : (s.setTenant n x).vectors = s.vectors := rfl
@[simp] theorem State.setTenant_agenda (n : Nat) (x : Tenant) : (s.setTenant n x).agenda = s.agenda := rfl
@[simp] theorem State.setTenant_turn (n : Nat) (x : Tenant) : (s.setTenant n x).turn = s.turn := rfl
@[simp] theorem State.setTenant_cur (n : Nat) (x : Tenant) : (s.setTenant n x).cur = s.cur := rfl
@[simp] theorem State.setTenant_force (n : Nat) (x : Tenant) : (s.setTenant n x).force = s.force := rfl
@[simp] theorem State.setTenant_nextId (n : Nat) (x : Tenant) : (s.setTenant n x).nextId = s.nextId := rfl
@[simp] theorem State.setTenant_usableChannels (n : Nat) (x : Tenant) : (s.setTenant n x).usableChannels = s.usableChannels := rfl
@[simp] theorem State.setTenant_hbmBytes (n : Nat) (x : Tenant) : (s.setTenant n x).hbmBytes = s.hbmBytes := rfl
@[simp] theorem State.setTenant_mbase (n : Nat) (x : Tenant) : (s.setTenant n x).mbase = s.mbase := rfl

/-! State.setCore -/

@[simp] theorem State.setCore_ticks (n : Nat) (x : Core) : (s.setCore n x).ticks = s.ticks := rfl
@[simp] theorem State.setCore_clocks (n : Nat) (x : Core) : (s.setCore n x).clocks = s.clocks := rfl
@[simp] theorem State.setCore_mem (n : Nat) (x : Core) : (s.setCore n x).mem = s.mem := rfl
@[simp] theorem State.setCore_memPoison (n : Nat) (x : Core) : (s.setCore n x).memPoison = s.memPoison := rfl
@[simp] theorem State.setCore_dieTlb (n : Nat) (x : Core) : (s.setCore n x).dieTlb = s.dieTlb := rfl
@[simp] theorem State.setCore_engineClocks (n : Nat) (x : Core) : (s.setCore n x).engineClocks = s.engineClocks := rfl
@[simp] theorem State.setCore_faults (n : Nat) (x : Core) : (s.setCore n x).faults = s.faults := rfl
@[simp] theorem State.setCore_walks (n : Nat) (x : Core) : (s.setCore n x).walks = s.walks := rfl
@[simp] theorem State.setCore_tenants (n : Nat) (x : Core) : (s.setCore n x).tenants = s.tenants := rfl
@[simp] theorem State.setCore_contexts (n : Nat) (x : Core) : (s.setCore n x).contexts = s.contexts := rfl
@[simp] theorem State.setCore_launches (n : Nat) (x : Core) : (s.setCore n x).launches = s.launches := rfl
@[simp] theorem State.setCore_teams (n : Nat) (x : Core) : (s.setCore n x).teams = s.teams := rfl
@[simp] theorem State.setCore_groups (n : Nat) (x : Core) : (s.setCore n x).groups = s.groups := rfl
@[simp] theorem State.setCore_accesses (n : Nat) (x : Core) : (s.setCore n x).accesses = s.accesses := rfl
@[simp] theorem State.setCore_deferred (n : Nat) (x : Core) : (s.setCore n x).deferred = s.deferred := rfl
@[simp] theorem State.setCore_entries (n : Nat) (x : Core) : (s.setCore n x).entries = s.entries := rfl
@[simp] theorem State.setCore_joints (n : Nat) (x : Core) : (s.setCore n x).joints = s.joints := rfl
@[simp] theorem State.setCore_credits (n : Nat) (x : Core) : (s.setCore n x).credits = s.credits := rfl
@[simp] theorem State.setCore_collectives (n : Nat) (x : Core) : (s.setCore n x).collectives = s.collectives := rfl
@[simp] theorem State.setCore_sent (n : Nat) (x : Core) : (s.setCore n x).sent = s.sent := rfl
@[simp] theorem State.setCore_mailbox (n : Nat) (x : Core) : (s.setCore n x).mailbox = s.mailbox := rfl
@[simp] theorem State.setCore_deviceRing (n : Nat) (x : Core) : (s.setCore n x).deviceRing = s.deviceRing := rfl
@[simp] theorem State.setCore_tailHeld (n : Nat) (x : Core) : (s.setCore n x).tailHeld = s.tailHeld := rfl
@[simp] theorem State.setCore_devnum (n : Nat) (x : Core) : (s.setCore n x).devnum = s.devnum := rfl
@[simp] theorem State.setCore_released (n : Nat) (x : Core) : (s.setCore n x).released = s.released := rfl
@[simp] theorem State.setCore_seq (n : Nat) (x : Core) : (s.setCore n x).seq = s.seq := rfl
@[simp] theorem State.setCore_uecnt (n : Nat) (x : Core) : (s.setCore n x).uecnt = s.uecnt := rfl
@[simp] theorem State.setCore_cecnt (n : Nat) (x : Core) : (s.setCore n x).cecnt = s.cecnt := rfl
@[simp] theorem State.setCore_lostmd (n : Nat) (x : Core) : (s.setCore n x).lostmd = s.lostmd := rfl
@[simp] theorem State.setCore_throt (n : Nat) (x : Core) : (s.setCore n x).throt = s.throt := rfl
@[simp] theorem State.setCore_ports (n : Nat) (x : Core) : (s.setCore n x).ports = s.ports := rfl
@[simp] theorem State.setCore_paused (n : Nat) (x : Core) : (s.setCore n x).paused = s.paused := rfl
@[simp] theorem State.setCore_pausing (n : Nat) (x : Core) : (s.setCore n x).pausing = s.pausing := rfl
@[simp] theorem State.setCore_rerouting (n : Nat) (x : Core) : (s.setCore n x).rerouting = s.rerouting := rfl
@[simp] theorem State.setCore_tiers (n : Nat) (x : Core) : (s.setCore n x).tiers = s.tiers := rfl
@[simp] theorem State.setCore_skewDie (n : Nat) (x : Core) : (s.setCore n x).skewDie = s.skewDie := rfl
@[simp] theorem State.setCore_skewPort (n : Nat) (x : Core) : (s.setCore n x).skewPort = s.skewPort := rfl
@[simp] theorem State.setCore_monitors (n : Nat) (x : Core) : (s.setCore n x).monitors = s.monitors := rfl
@[simp] theorem State.setCore_skew (n : Nat) (x : Core) : (s.setCore n x).skew = s.skew := rfl
@[simp] theorem State.setCore_image (n : Nat) (x : Core) : (s.setCore n x).image = s.image := rfl
@[simp] theorem State.setCore_fwstate (n : Nat) (x : Core) : (s.setCore n x).fwstate = s.fwstate := rfl
@[simp] theorem State.setCore_throttled (n : Nat) (x : Core) : (s.setCore n x).throttled = s.throttled := rfl
@[simp] theorem State.setCore_gated (n : Nat) (x : Core) : (s.setCore n x).gated = s.gated := rfl
@[simp] theorem State.setCore_hotSince (n : Nat) (x : Core) : (s.setCore n x).hotSince = s.hotSince := rfl
@[simp] theorem State.setCore_stopped (n : Nat) (x : Core) : (s.setCore n x).stopped = s.stopped := rfl
@[simp] theorem State.setCore_channelErrors (n : Nat) (x : Core) : (s.setCore n x).channelErrors = s.channelErrors := rfl
@[simp] theorem State.setCore_lostChannels (n : Nat) (x : Core) : (s.setCore n x).lostChannels = s.lostChannels := rfl
@[simp] theorem State.setCore_lostLanes (n : Nat) (x : Core) : (s.setCore n x).lostLanes = s.lostLanes := rfl
@[simp] theorem State.setCore_vectors (n : Nat) (x : Core) : (s.setCore n x).vectors = s.vectors := rfl
@[simp] theorem State.setCore_agenda (n : Nat) (x : Core) : (s.setCore n x).agenda = s.agenda := rfl
@[simp] theorem State.setCore_turn (n : Nat) (x : Core) : (s.setCore n x).turn = s.turn := rfl
@[simp] theorem State.setCore_cur (n : Nat) (x : Core) : (s.setCore n x).cur = s.cur := rfl
@[simp] theorem State.setCore_force (n : Nat) (x : Core) : (s.setCore n x).force = s.force := rfl
@[simp] theorem State.setCore_nextId (n : Nat) (x : Core) : (s.setCore n x).nextId = s.nextId := rfl
@[simp] theorem State.setCore_usableChannels (n : Nat) (x : Core) : (s.setCore n x).usableChannels = s.usableChannels := rfl
@[simp] theorem State.setCore_hbmBytes (n : Nat) (x : Core) : (s.setCore n x).hbmBytes = s.hbmBytes := rfl
@[simp] theorem State.setCore_mbase (n : Nat) (x : Core) : (s.setCore n x).mbase = s.mbase := rfl

/-! State.modifyGroup -/

@[simp] theorem State.modifyGroup_ticks (n : Nat) (x : Group → Group) : (s.modifyGroup n x).ticks = s.ticks := rfl
@[simp] theorem State.modifyGroup_clocks (n : Nat) (x : Group → Group) : (s.modifyGroup n x).clocks = s.clocks := rfl
@[simp] theorem State.modifyGroup_mem (n : Nat) (x : Group → Group) : (s.modifyGroup n x).mem = s.mem := rfl
@[simp] theorem State.modifyGroup_memPoison (n : Nat) (x : Group → Group) : (s.modifyGroup n x).memPoison = s.memPoison := rfl
@[simp] theorem State.modifyGroup_cores (n : Nat) (x : Group → Group) : (s.modifyGroup n x).cores = s.cores := rfl
@[simp] theorem State.modifyGroup_dieTlb (n : Nat) (x : Group → Group) : (s.modifyGroup n x).dieTlb = s.dieTlb := rfl
@[simp] theorem State.modifyGroup_engineClocks (n : Nat) (x : Group → Group) : (s.modifyGroup n x).engineClocks = s.engineClocks := rfl
@[simp] theorem State.modifyGroup_faults (n : Nat) (x : Group → Group) : (s.modifyGroup n x).faults = s.faults := rfl
@[simp] theorem State.modifyGroup_walks (n : Nat) (x : Group → Group) : (s.modifyGroup n x).walks = s.walks := rfl
@[simp] theorem State.modifyGroup_tenants (n : Nat) (x : Group → Group) : (s.modifyGroup n x).tenants = s.tenants := rfl
@[simp] theorem State.modifyGroup_contexts (n : Nat) (x : Group → Group) : (s.modifyGroup n x).contexts = s.contexts := rfl
@[simp] theorem State.modifyGroup_launches (n : Nat) (x : Group → Group) : (s.modifyGroup n x).launches = s.launches := rfl
@[simp] theorem State.modifyGroup_teams (n : Nat) (x : Group → Group) : (s.modifyGroup n x).teams = s.teams := rfl
@[simp] theorem State.modifyGroup_accesses (n : Nat) (x : Group → Group) : (s.modifyGroup n x).accesses = s.accesses := rfl
@[simp] theorem State.modifyGroup_deferred (n : Nat) (x : Group → Group) : (s.modifyGroup n x).deferred = s.deferred := rfl
@[simp] theorem State.modifyGroup_entries (n : Nat) (x : Group → Group) : (s.modifyGroup n x).entries = s.entries := rfl
@[simp] theorem State.modifyGroup_joints (n : Nat) (x : Group → Group) : (s.modifyGroup n x).joints = s.joints := rfl
@[simp] theorem State.modifyGroup_credits (n : Nat) (x : Group → Group) : (s.modifyGroup n x).credits = s.credits := rfl
@[simp] theorem State.modifyGroup_collectives (n : Nat) (x : Group → Group) : (s.modifyGroup n x).collectives = s.collectives := rfl
@[simp] theorem State.modifyGroup_sent (n : Nat) (x : Group → Group) : (s.modifyGroup n x).sent = s.sent := rfl
@[simp] theorem State.modifyGroup_mailbox (n : Nat) (x : Group → Group) : (s.modifyGroup n x).mailbox = s.mailbox := rfl
@[simp] theorem State.modifyGroup_deviceRing (n : Nat) (x : Group → Group) : (s.modifyGroup n x).deviceRing = s.deviceRing := rfl
@[simp] theorem State.modifyGroup_tailHeld (n : Nat) (x : Group → Group) : (s.modifyGroup n x).tailHeld = s.tailHeld := rfl
@[simp] theorem State.modifyGroup_devnum (n : Nat) (x : Group → Group) : (s.modifyGroup n x).devnum = s.devnum := rfl
@[simp] theorem State.modifyGroup_released (n : Nat) (x : Group → Group) : (s.modifyGroup n x).released = s.released := rfl
@[simp] theorem State.modifyGroup_seq (n : Nat) (x : Group → Group) : (s.modifyGroup n x).seq = s.seq := rfl
@[simp] theorem State.modifyGroup_uecnt (n : Nat) (x : Group → Group) : (s.modifyGroup n x).uecnt = s.uecnt := rfl
@[simp] theorem State.modifyGroup_cecnt (n : Nat) (x : Group → Group) : (s.modifyGroup n x).cecnt = s.cecnt := rfl
@[simp] theorem State.modifyGroup_lostmd (n : Nat) (x : Group → Group) : (s.modifyGroup n x).lostmd = s.lostmd := rfl
@[simp] theorem State.modifyGroup_throt (n : Nat) (x : Group → Group) : (s.modifyGroup n x).throt = s.throt := rfl
@[simp] theorem State.modifyGroup_ports (n : Nat) (x : Group → Group) : (s.modifyGroup n x).ports = s.ports := rfl
@[simp] theorem State.modifyGroup_paused (n : Nat) (x : Group → Group) : (s.modifyGroup n x).paused = s.paused := rfl
@[simp] theorem State.modifyGroup_pausing (n : Nat) (x : Group → Group) : (s.modifyGroup n x).pausing = s.pausing := rfl
@[simp] theorem State.modifyGroup_rerouting (n : Nat) (x : Group → Group) : (s.modifyGroup n x).rerouting = s.rerouting := rfl
@[simp] theorem State.modifyGroup_tiers (n : Nat) (x : Group → Group) : (s.modifyGroup n x).tiers = s.tiers := rfl
@[simp] theorem State.modifyGroup_skewDie (n : Nat) (x : Group → Group) : (s.modifyGroup n x).skewDie = s.skewDie := rfl
@[simp] theorem State.modifyGroup_skewPort (n : Nat) (x : Group → Group) : (s.modifyGroup n x).skewPort = s.skewPort := rfl
@[simp] theorem State.modifyGroup_monitors (n : Nat) (x : Group → Group) : (s.modifyGroup n x).monitors = s.monitors := rfl
@[simp] theorem State.modifyGroup_skew (n : Nat) (x : Group → Group) : (s.modifyGroup n x).skew = s.skew := rfl
@[simp] theorem State.modifyGroup_image (n : Nat) (x : Group → Group) : (s.modifyGroup n x).image = s.image := rfl
@[simp] theorem State.modifyGroup_fwstate (n : Nat) (x : Group → Group) : (s.modifyGroup n x).fwstate = s.fwstate := rfl
@[simp] theorem State.modifyGroup_throttled (n : Nat) (x : Group → Group) : (s.modifyGroup n x).throttled = s.throttled := rfl
@[simp] theorem State.modifyGroup_gated (n : Nat) (x : Group → Group) : (s.modifyGroup n x).gated = s.gated := rfl
@[simp] theorem State.modifyGroup_hotSince (n : Nat) (x : Group → Group) : (s.modifyGroup n x).hotSince = s.hotSince := rfl
@[simp] theorem State.modifyGroup_stopped (n : Nat) (x : Group → Group) : (s.modifyGroup n x).stopped = s.stopped := rfl
@[simp] theorem State.modifyGroup_channelErrors (n : Nat) (x : Group → Group) : (s.modifyGroup n x).channelErrors = s.channelErrors := rfl
@[simp] theorem State.modifyGroup_lostChannels (n : Nat) (x : Group → Group) : (s.modifyGroup n x).lostChannels = s.lostChannels := rfl
@[simp] theorem State.modifyGroup_lostLanes (n : Nat) (x : Group → Group) : (s.modifyGroup n x).lostLanes = s.lostLanes := rfl
@[simp] theorem State.modifyGroup_vectors (n : Nat) (x : Group → Group) : (s.modifyGroup n x).vectors = s.vectors := rfl
@[simp] theorem State.modifyGroup_agenda (n : Nat) (x : Group → Group) : (s.modifyGroup n x).agenda = s.agenda := rfl
@[simp] theorem State.modifyGroup_turn (n : Nat) (x : Group → Group) : (s.modifyGroup n x).turn = s.turn := rfl
@[simp] theorem State.modifyGroup_cur (n : Nat) (x : Group → Group) : (s.modifyGroup n x).cur = s.cur := rfl
@[simp] theorem State.modifyGroup_force (n : Nat) (x : Group → Group) : (s.modifyGroup n x).force = s.force := rfl
@[simp] theorem State.modifyGroup_nextId (n : Nat) (x : Group → Group) : (s.modifyGroup n x).nextId = s.nextId := rfl
@[simp] theorem State.modifyGroup_usableChannels (n : Nat) (x : Group → Group) : (s.modifyGroup n x).usableChannels = s.usableChannels := rfl
@[simp] theorem State.modifyGroup_hbmBytes (n : Nat) (x : Group → Group) : (s.modifyGroup n x).hbmBytes = s.hbmBytes := rfl
@[simp] theorem State.modifyGroup_mbase (n : Nat) (x : Group → Group) : (s.modifyGroup n x).mbase = s.mbase := rfl

/-! State.modifyTeam -/

@[simp] theorem State.modifyTeam_ticks (n : Nat) (x : Team → Team) : (s.modifyTeam n x).ticks = s.ticks := rfl
@[simp] theorem State.modifyTeam_clocks (n : Nat) (x : Team → Team) : (s.modifyTeam n x).clocks = s.clocks := rfl
@[simp] theorem State.modifyTeam_mem (n : Nat) (x : Team → Team) : (s.modifyTeam n x).mem = s.mem := rfl
@[simp] theorem State.modifyTeam_memPoison (n : Nat) (x : Team → Team) : (s.modifyTeam n x).memPoison = s.memPoison := rfl
@[simp] theorem State.modifyTeam_cores (n : Nat) (x : Team → Team) : (s.modifyTeam n x).cores = s.cores := rfl
@[simp] theorem State.modifyTeam_dieTlb (n : Nat) (x : Team → Team) : (s.modifyTeam n x).dieTlb = s.dieTlb := rfl
@[simp] theorem State.modifyTeam_engineClocks (n : Nat) (x : Team → Team) : (s.modifyTeam n x).engineClocks = s.engineClocks := rfl
@[simp] theorem State.modifyTeam_faults (n : Nat) (x : Team → Team) : (s.modifyTeam n x).faults = s.faults := rfl
@[simp] theorem State.modifyTeam_walks (n : Nat) (x : Team → Team) : (s.modifyTeam n x).walks = s.walks := rfl
@[simp] theorem State.modifyTeam_tenants (n : Nat) (x : Team → Team) : (s.modifyTeam n x).tenants = s.tenants := rfl
@[simp] theorem State.modifyTeam_contexts (n : Nat) (x : Team → Team) : (s.modifyTeam n x).contexts = s.contexts := rfl
@[simp] theorem State.modifyTeam_launches (n : Nat) (x : Team → Team) : (s.modifyTeam n x).launches = s.launches := rfl
@[simp] theorem State.modifyTeam_groups (n : Nat) (x : Team → Team) : (s.modifyTeam n x).groups = s.groups := rfl
@[simp] theorem State.modifyTeam_accesses (n : Nat) (x : Team → Team) : (s.modifyTeam n x).accesses = s.accesses := rfl
@[simp] theorem State.modifyTeam_deferred (n : Nat) (x : Team → Team) : (s.modifyTeam n x).deferred = s.deferred := rfl
@[simp] theorem State.modifyTeam_entries (n : Nat) (x : Team → Team) : (s.modifyTeam n x).entries = s.entries := rfl
@[simp] theorem State.modifyTeam_joints (n : Nat) (x : Team → Team) : (s.modifyTeam n x).joints = s.joints := rfl
@[simp] theorem State.modifyTeam_credits (n : Nat) (x : Team → Team) : (s.modifyTeam n x).credits = s.credits := rfl
@[simp] theorem State.modifyTeam_collectives (n : Nat) (x : Team → Team) : (s.modifyTeam n x).collectives = s.collectives := rfl
@[simp] theorem State.modifyTeam_sent (n : Nat) (x : Team → Team) : (s.modifyTeam n x).sent = s.sent := rfl
@[simp] theorem State.modifyTeam_mailbox (n : Nat) (x : Team → Team) : (s.modifyTeam n x).mailbox = s.mailbox := rfl
@[simp] theorem State.modifyTeam_deviceRing (n : Nat) (x : Team → Team) : (s.modifyTeam n x).deviceRing = s.deviceRing := rfl
@[simp] theorem State.modifyTeam_tailHeld (n : Nat) (x : Team → Team) : (s.modifyTeam n x).tailHeld = s.tailHeld := rfl
@[simp] theorem State.modifyTeam_devnum (n : Nat) (x : Team → Team) : (s.modifyTeam n x).devnum = s.devnum := rfl
@[simp] theorem State.modifyTeam_released (n : Nat) (x : Team → Team) : (s.modifyTeam n x).released = s.released := rfl
@[simp] theorem State.modifyTeam_seq (n : Nat) (x : Team → Team) : (s.modifyTeam n x).seq = s.seq := rfl
@[simp] theorem State.modifyTeam_uecnt (n : Nat) (x : Team → Team) : (s.modifyTeam n x).uecnt = s.uecnt := rfl
@[simp] theorem State.modifyTeam_cecnt (n : Nat) (x : Team → Team) : (s.modifyTeam n x).cecnt = s.cecnt := rfl
@[simp] theorem State.modifyTeam_lostmd (n : Nat) (x : Team → Team) : (s.modifyTeam n x).lostmd = s.lostmd := rfl
@[simp] theorem State.modifyTeam_throt (n : Nat) (x : Team → Team) : (s.modifyTeam n x).throt = s.throt := rfl
@[simp] theorem State.modifyTeam_ports (n : Nat) (x : Team → Team) : (s.modifyTeam n x).ports = s.ports := rfl
@[simp] theorem State.modifyTeam_paused (n : Nat) (x : Team → Team) : (s.modifyTeam n x).paused = s.paused := rfl
@[simp] theorem State.modifyTeam_pausing (n : Nat) (x : Team → Team) : (s.modifyTeam n x).pausing = s.pausing := rfl
@[simp] theorem State.modifyTeam_rerouting (n : Nat) (x : Team → Team) : (s.modifyTeam n x).rerouting = s.rerouting := rfl
@[simp] theorem State.modifyTeam_tiers (n : Nat) (x : Team → Team) : (s.modifyTeam n x).tiers = s.tiers := rfl
@[simp] theorem State.modifyTeam_skewDie (n : Nat) (x : Team → Team) : (s.modifyTeam n x).skewDie = s.skewDie := rfl
@[simp] theorem State.modifyTeam_skewPort (n : Nat) (x : Team → Team) : (s.modifyTeam n x).skewPort = s.skewPort := rfl
@[simp] theorem State.modifyTeam_monitors (n : Nat) (x : Team → Team) : (s.modifyTeam n x).monitors = s.monitors := rfl
@[simp] theorem State.modifyTeam_skew (n : Nat) (x : Team → Team) : (s.modifyTeam n x).skew = s.skew := rfl
@[simp] theorem State.modifyTeam_image (n : Nat) (x : Team → Team) : (s.modifyTeam n x).image = s.image := rfl
@[simp] theorem State.modifyTeam_fwstate (n : Nat) (x : Team → Team) : (s.modifyTeam n x).fwstate = s.fwstate := rfl
@[simp] theorem State.modifyTeam_throttled (n : Nat) (x : Team → Team) : (s.modifyTeam n x).throttled = s.throttled := rfl
@[simp] theorem State.modifyTeam_gated (n : Nat) (x : Team → Team) : (s.modifyTeam n x).gated = s.gated := rfl
@[simp] theorem State.modifyTeam_hotSince (n : Nat) (x : Team → Team) : (s.modifyTeam n x).hotSince = s.hotSince := rfl
@[simp] theorem State.modifyTeam_stopped (n : Nat) (x : Team → Team) : (s.modifyTeam n x).stopped = s.stopped := rfl
@[simp] theorem State.modifyTeam_channelErrors (n : Nat) (x : Team → Team) : (s.modifyTeam n x).channelErrors = s.channelErrors := rfl
@[simp] theorem State.modifyTeam_lostChannels (n : Nat) (x : Team → Team) : (s.modifyTeam n x).lostChannels = s.lostChannels := rfl
@[simp] theorem State.modifyTeam_lostLanes (n : Nat) (x : Team → Team) : (s.modifyTeam n x).lostLanes = s.lostLanes := rfl
@[simp] theorem State.modifyTeam_vectors (n : Nat) (x : Team → Team) : (s.modifyTeam n x).vectors = s.vectors := rfl
@[simp] theorem State.modifyTeam_agenda (n : Nat) (x : Team → Team) : (s.modifyTeam n x).agenda = s.agenda := rfl
@[simp] theorem State.modifyTeam_turn (n : Nat) (x : Team → Team) : (s.modifyTeam n x).turn = s.turn := rfl
@[simp] theorem State.modifyTeam_cur (n : Nat) (x : Team → Team) : (s.modifyTeam n x).cur = s.cur := rfl
@[simp] theorem State.modifyTeam_force (n : Nat) (x : Team → Team) : (s.modifyTeam n x).force = s.force := rfl
@[simp] theorem State.modifyTeam_nextId (n : Nat) (x : Team → Team) : (s.modifyTeam n x).nextId = s.nextId := rfl
@[simp] theorem State.modifyTeam_usableChannels (n : Nat) (x : Team → Team) : (s.modifyTeam n x).usableChannels = s.usableChannels := rfl
@[simp] theorem State.modifyTeam_hbmBytes (n : Nat) (x : Team → Team) : (s.modifyTeam n x).hbmBytes = s.hbmBytes := rfl
@[simp] theorem State.modifyTeam_mbase (n : Nat) (x : Team → Team) : (s.modifyTeam n x).mbase = s.mbase := rfl

/-! State.modifyLaunch -/

@[simp] theorem State.modifyLaunch_ticks (n : Nat) (x : Launch → Launch) : (s.modifyLaunch n x).ticks = s.ticks := rfl
@[simp] theorem State.modifyLaunch_clocks (n : Nat) (x : Launch → Launch) : (s.modifyLaunch n x).clocks = s.clocks := rfl
@[simp] theorem State.modifyLaunch_mem (n : Nat) (x : Launch → Launch) : (s.modifyLaunch n x).mem = s.mem := rfl
@[simp] theorem State.modifyLaunch_memPoison (n : Nat) (x : Launch → Launch) : (s.modifyLaunch n x).memPoison = s.memPoison := rfl
@[simp] theorem State.modifyLaunch_cores (n : Nat) (x : Launch → Launch) : (s.modifyLaunch n x).cores = s.cores := rfl
@[simp] theorem State.modifyLaunch_dieTlb (n : Nat) (x : Launch → Launch) : (s.modifyLaunch n x).dieTlb = s.dieTlb := rfl
@[simp] theorem State.modifyLaunch_engineClocks (n : Nat) (x : Launch → Launch) : (s.modifyLaunch n x).engineClocks = s.engineClocks := rfl
@[simp] theorem State.modifyLaunch_faults (n : Nat) (x : Launch → Launch) : (s.modifyLaunch n x).faults = s.faults := rfl
@[simp] theorem State.modifyLaunch_walks (n : Nat) (x : Launch → Launch) : (s.modifyLaunch n x).walks = s.walks := rfl
@[simp] theorem State.modifyLaunch_tenants (n : Nat) (x : Launch → Launch) : (s.modifyLaunch n x).tenants = s.tenants := rfl
@[simp] theorem State.modifyLaunch_contexts (n : Nat) (x : Launch → Launch) : (s.modifyLaunch n x).contexts = s.contexts := rfl
@[simp] theorem State.modifyLaunch_teams (n : Nat) (x : Launch → Launch) : (s.modifyLaunch n x).teams = s.teams := rfl
@[simp] theorem State.modifyLaunch_groups (n : Nat) (x : Launch → Launch) : (s.modifyLaunch n x).groups = s.groups := rfl
@[simp] theorem State.modifyLaunch_accesses (n : Nat) (x : Launch → Launch) : (s.modifyLaunch n x).accesses = s.accesses := rfl
@[simp] theorem State.modifyLaunch_deferred (n : Nat) (x : Launch → Launch) : (s.modifyLaunch n x).deferred = s.deferred := rfl
@[simp] theorem State.modifyLaunch_entries (n : Nat) (x : Launch → Launch) : (s.modifyLaunch n x).entries = s.entries := rfl
@[simp] theorem State.modifyLaunch_joints (n : Nat) (x : Launch → Launch) : (s.modifyLaunch n x).joints = s.joints := rfl
@[simp] theorem State.modifyLaunch_credits (n : Nat) (x : Launch → Launch) : (s.modifyLaunch n x).credits = s.credits := rfl
@[simp] theorem State.modifyLaunch_collectives (n : Nat) (x : Launch → Launch) : (s.modifyLaunch n x).collectives = s.collectives := rfl
@[simp] theorem State.modifyLaunch_sent (n : Nat) (x : Launch → Launch) : (s.modifyLaunch n x).sent = s.sent := rfl
@[simp] theorem State.modifyLaunch_mailbox (n : Nat) (x : Launch → Launch) : (s.modifyLaunch n x).mailbox = s.mailbox := rfl
@[simp] theorem State.modifyLaunch_deviceRing (n : Nat) (x : Launch → Launch) : (s.modifyLaunch n x).deviceRing = s.deviceRing := rfl
@[simp] theorem State.modifyLaunch_tailHeld (n : Nat) (x : Launch → Launch) : (s.modifyLaunch n x).tailHeld = s.tailHeld := rfl
@[simp] theorem State.modifyLaunch_devnum (n : Nat) (x : Launch → Launch) : (s.modifyLaunch n x).devnum = s.devnum := rfl
@[simp] theorem State.modifyLaunch_released (n : Nat) (x : Launch → Launch) : (s.modifyLaunch n x).released = s.released := rfl
@[simp] theorem State.modifyLaunch_seq (n : Nat) (x : Launch → Launch) : (s.modifyLaunch n x).seq = s.seq := rfl
@[simp] theorem State.modifyLaunch_uecnt (n : Nat) (x : Launch → Launch) : (s.modifyLaunch n x).uecnt = s.uecnt := rfl
@[simp] theorem State.modifyLaunch_cecnt (n : Nat) (x : Launch → Launch) : (s.modifyLaunch n x).cecnt = s.cecnt := rfl
@[simp] theorem State.modifyLaunch_lostmd (n : Nat) (x : Launch → Launch) : (s.modifyLaunch n x).lostmd = s.lostmd := rfl
@[simp] theorem State.modifyLaunch_throt (n : Nat) (x : Launch → Launch) : (s.modifyLaunch n x).throt = s.throt := rfl
@[simp] theorem State.modifyLaunch_ports (n : Nat) (x : Launch → Launch) : (s.modifyLaunch n x).ports = s.ports := rfl
@[simp] theorem State.modifyLaunch_paused (n : Nat) (x : Launch → Launch) : (s.modifyLaunch n x).paused = s.paused := rfl
@[simp] theorem State.modifyLaunch_pausing (n : Nat) (x : Launch → Launch) : (s.modifyLaunch n x).pausing = s.pausing := rfl
@[simp] theorem State.modifyLaunch_rerouting (n : Nat) (x : Launch → Launch) : (s.modifyLaunch n x).rerouting = s.rerouting := rfl
@[simp] theorem State.modifyLaunch_tiers (n : Nat) (x : Launch → Launch) : (s.modifyLaunch n x).tiers = s.tiers := rfl
@[simp] theorem State.modifyLaunch_skewDie (n : Nat) (x : Launch → Launch) : (s.modifyLaunch n x).skewDie = s.skewDie := rfl
@[simp] theorem State.modifyLaunch_skewPort (n : Nat) (x : Launch → Launch) : (s.modifyLaunch n x).skewPort = s.skewPort := rfl
@[simp] theorem State.modifyLaunch_monitors (n : Nat) (x : Launch → Launch) : (s.modifyLaunch n x).monitors = s.monitors := rfl
@[simp] theorem State.modifyLaunch_skew (n : Nat) (x : Launch → Launch) : (s.modifyLaunch n x).skew = s.skew := rfl
@[simp] theorem State.modifyLaunch_image (n : Nat) (x : Launch → Launch) : (s.modifyLaunch n x).image = s.image := rfl
@[simp] theorem State.modifyLaunch_fwstate (n : Nat) (x : Launch → Launch) : (s.modifyLaunch n x).fwstate = s.fwstate := rfl
@[simp] theorem State.modifyLaunch_throttled (n : Nat) (x : Launch → Launch) : (s.modifyLaunch n x).throttled = s.throttled := rfl
@[simp] theorem State.modifyLaunch_gated (n : Nat) (x : Launch → Launch) : (s.modifyLaunch n x).gated = s.gated := rfl
@[simp] theorem State.modifyLaunch_hotSince (n : Nat) (x : Launch → Launch) : (s.modifyLaunch n x).hotSince = s.hotSince := rfl
@[simp] theorem State.modifyLaunch_stopped (n : Nat) (x : Launch → Launch) : (s.modifyLaunch n x).stopped = s.stopped := rfl
@[simp] theorem State.modifyLaunch_channelErrors (n : Nat) (x : Launch → Launch) : (s.modifyLaunch n x).channelErrors = s.channelErrors := rfl
@[simp] theorem State.modifyLaunch_lostChannels (n : Nat) (x : Launch → Launch) : (s.modifyLaunch n x).lostChannels = s.lostChannels := rfl
@[simp] theorem State.modifyLaunch_lostLanes (n : Nat) (x : Launch → Launch) : (s.modifyLaunch n x).lostLanes = s.lostLanes := rfl
@[simp] theorem State.modifyLaunch_vectors (n : Nat) (x : Launch → Launch) : (s.modifyLaunch n x).vectors = s.vectors := rfl
@[simp] theorem State.modifyLaunch_agenda (n : Nat) (x : Launch → Launch) : (s.modifyLaunch n x).agenda = s.agenda := rfl
@[simp] theorem State.modifyLaunch_turn (n : Nat) (x : Launch → Launch) : (s.modifyLaunch n x).turn = s.turn := rfl
@[simp] theorem State.modifyLaunch_cur (n : Nat) (x : Launch → Launch) : (s.modifyLaunch n x).cur = s.cur := rfl
@[simp] theorem State.modifyLaunch_force (n : Nat) (x : Launch → Launch) : (s.modifyLaunch n x).force = s.force := rfl
@[simp] theorem State.modifyLaunch_nextId (n : Nat) (x : Launch → Launch) : (s.modifyLaunch n x).nextId = s.nextId := rfl
@[simp] theorem State.modifyLaunch_usableChannels (n : Nat) (x : Launch → Launch) : (s.modifyLaunch n x).usableChannels = s.usableChannels := rfl
@[simp] theorem State.modifyLaunch_hbmBytes (n : Nat) (x : Launch → Launch) : (s.modifyLaunch n x).hbmBytes = s.hbmBytes := rfl
@[simp] theorem State.modifyLaunch_mbase (n : Nat) (x : Launch → Launch) : (s.modifyLaunch n x).mbase = s.mbase := rfl

/-! State.modifyContext -/

@[simp] theorem State.modifyContext_ticks (n : Nat) (x : Context → Context) : (s.modifyContext n x).ticks = s.ticks := rfl
@[simp] theorem State.modifyContext_clocks (n : Nat) (x : Context → Context) : (s.modifyContext n x).clocks = s.clocks := rfl
@[simp] theorem State.modifyContext_mem (n : Nat) (x : Context → Context) : (s.modifyContext n x).mem = s.mem := rfl
@[simp] theorem State.modifyContext_memPoison (n : Nat) (x : Context → Context) : (s.modifyContext n x).memPoison = s.memPoison := rfl
@[simp] theorem State.modifyContext_cores (n : Nat) (x : Context → Context) : (s.modifyContext n x).cores = s.cores := rfl
@[simp] theorem State.modifyContext_dieTlb (n : Nat) (x : Context → Context) : (s.modifyContext n x).dieTlb = s.dieTlb := rfl
@[simp] theorem State.modifyContext_engineClocks (n : Nat) (x : Context → Context) : (s.modifyContext n x).engineClocks = s.engineClocks := rfl
@[simp] theorem State.modifyContext_faults (n : Nat) (x : Context → Context) : (s.modifyContext n x).faults = s.faults := rfl
@[simp] theorem State.modifyContext_walks (n : Nat) (x : Context → Context) : (s.modifyContext n x).walks = s.walks := rfl
@[simp] theorem State.modifyContext_tenants (n : Nat) (x : Context → Context) : (s.modifyContext n x).tenants = s.tenants := rfl
@[simp] theorem State.modifyContext_launches (n : Nat) (x : Context → Context) : (s.modifyContext n x).launches = s.launches := rfl
@[simp] theorem State.modifyContext_teams (n : Nat) (x : Context → Context) : (s.modifyContext n x).teams = s.teams := rfl
@[simp] theorem State.modifyContext_groups (n : Nat) (x : Context → Context) : (s.modifyContext n x).groups = s.groups := rfl
@[simp] theorem State.modifyContext_accesses (n : Nat) (x : Context → Context) : (s.modifyContext n x).accesses = s.accesses := rfl
@[simp] theorem State.modifyContext_deferred (n : Nat) (x : Context → Context) : (s.modifyContext n x).deferred = s.deferred := rfl
@[simp] theorem State.modifyContext_entries (n : Nat) (x : Context → Context) : (s.modifyContext n x).entries = s.entries := rfl
@[simp] theorem State.modifyContext_joints (n : Nat) (x : Context → Context) : (s.modifyContext n x).joints = s.joints := rfl
@[simp] theorem State.modifyContext_credits (n : Nat) (x : Context → Context) : (s.modifyContext n x).credits = s.credits := rfl
@[simp] theorem State.modifyContext_collectives (n : Nat) (x : Context → Context) : (s.modifyContext n x).collectives = s.collectives := rfl
@[simp] theorem State.modifyContext_sent (n : Nat) (x : Context → Context) : (s.modifyContext n x).sent = s.sent := rfl
@[simp] theorem State.modifyContext_mailbox (n : Nat) (x : Context → Context) : (s.modifyContext n x).mailbox = s.mailbox := rfl
@[simp] theorem State.modifyContext_deviceRing (n : Nat) (x : Context → Context) : (s.modifyContext n x).deviceRing = s.deviceRing := rfl
@[simp] theorem State.modifyContext_tailHeld (n : Nat) (x : Context → Context) : (s.modifyContext n x).tailHeld = s.tailHeld := rfl
@[simp] theorem State.modifyContext_devnum (n : Nat) (x : Context → Context) : (s.modifyContext n x).devnum = s.devnum := rfl
@[simp] theorem State.modifyContext_released (n : Nat) (x : Context → Context) : (s.modifyContext n x).released = s.released := rfl
@[simp] theorem State.modifyContext_seq (n : Nat) (x : Context → Context) : (s.modifyContext n x).seq = s.seq := rfl
@[simp] theorem State.modifyContext_uecnt (n : Nat) (x : Context → Context) : (s.modifyContext n x).uecnt = s.uecnt := rfl
@[simp] theorem State.modifyContext_cecnt (n : Nat) (x : Context → Context) : (s.modifyContext n x).cecnt = s.cecnt := rfl
@[simp] theorem State.modifyContext_lostmd (n : Nat) (x : Context → Context) : (s.modifyContext n x).lostmd = s.lostmd := rfl
@[simp] theorem State.modifyContext_throt (n : Nat) (x : Context → Context) : (s.modifyContext n x).throt = s.throt := rfl
@[simp] theorem State.modifyContext_ports (n : Nat) (x : Context → Context) : (s.modifyContext n x).ports = s.ports := rfl
@[simp] theorem State.modifyContext_paused (n : Nat) (x : Context → Context) : (s.modifyContext n x).paused = s.paused := rfl
@[simp] theorem State.modifyContext_pausing (n : Nat) (x : Context → Context) : (s.modifyContext n x).pausing = s.pausing := rfl
@[simp] theorem State.modifyContext_rerouting (n : Nat) (x : Context → Context) : (s.modifyContext n x).rerouting = s.rerouting := rfl
@[simp] theorem State.modifyContext_tiers (n : Nat) (x : Context → Context) : (s.modifyContext n x).tiers = s.tiers := rfl
@[simp] theorem State.modifyContext_skewDie (n : Nat) (x : Context → Context) : (s.modifyContext n x).skewDie = s.skewDie := rfl
@[simp] theorem State.modifyContext_skewPort (n : Nat) (x : Context → Context) : (s.modifyContext n x).skewPort = s.skewPort := rfl
@[simp] theorem State.modifyContext_monitors (n : Nat) (x : Context → Context) : (s.modifyContext n x).monitors = s.monitors := rfl
@[simp] theorem State.modifyContext_skew (n : Nat) (x : Context → Context) : (s.modifyContext n x).skew = s.skew := rfl
@[simp] theorem State.modifyContext_image (n : Nat) (x : Context → Context) : (s.modifyContext n x).image = s.image := rfl
@[simp] theorem State.modifyContext_fwstate (n : Nat) (x : Context → Context) : (s.modifyContext n x).fwstate = s.fwstate := rfl
@[simp] theorem State.modifyContext_throttled (n : Nat) (x : Context → Context) : (s.modifyContext n x).throttled = s.throttled := rfl
@[simp] theorem State.modifyContext_gated (n : Nat) (x : Context → Context) : (s.modifyContext n x).gated = s.gated := rfl
@[simp] theorem State.modifyContext_hotSince (n : Nat) (x : Context → Context) : (s.modifyContext n x).hotSince = s.hotSince := rfl
@[simp] theorem State.modifyContext_stopped (n : Nat) (x : Context → Context) : (s.modifyContext n x).stopped = s.stopped := rfl
@[simp] theorem State.modifyContext_channelErrors (n : Nat) (x : Context → Context) : (s.modifyContext n x).channelErrors = s.channelErrors := rfl
@[simp] theorem State.modifyContext_lostChannels (n : Nat) (x : Context → Context) : (s.modifyContext n x).lostChannels = s.lostChannels := rfl
@[simp] theorem State.modifyContext_lostLanes (n : Nat) (x : Context → Context) : (s.modifyContext n x).lostLanes = s.lostLanes := rfl
@[simp] theorem State.modifyContext_vectors (n : Nat) (x : Context → Context) : (s.modifyContext n x).vectors = s.vectors := rfl
@[simp] theorem State.modifyContext_agenda (n : Nat) (x : Context → Context) : (s.modifyContext n x).agenda = s.agenda := rfl
@[simp] theorem State.modifyContext_turn (n : Nat) (x : Context → Context) : (s.modifyContext n x).turn = s.turn := rfl
@[simp] theorem State.modifyContext_cur (n : Nat) (x : Context → Context) : (s.modifyContext n x).cur = s.cur := rfl
@[simp] theorem State.modifyContext_force (n : Nat) (x : Context → Context) : (s.modifyContext n x).force = s.force := rfl
@[simp] theorem State.modifyContext_nextId (n : Nat) (x : Context → Context) : (s.modifyContext n x).nextId = s.nextId := rfl
@[simp] theorem State.modifyContext_usableChannels (n : Nat) (x : Context → Context) : (s.modifyContext n x).usableChannels = s.usableChannels := rfl
@[simp] theorem State.modifyContext_hbmBytes (n : Nat) (x : Context → Context) : (s.modifyContext n x).hbmBytes = s.hbmBytes := rfl
@[simp] theorem State.modifyContext_mbase (n : Nat) (x : Context → Context) : (s.modifyContext n x).mbase = s.mbase := rfl

/-! State.modifyTenant -/

@[simp] theorem State.modifyTenant_ticks (n : Nat) (x : Tenant → Tenant) : (s.modifyTenant n x).ticks = s.ticks := rfl
@[simp] theorem State.modifyTenant_clocks (n : Nat) (x : Tenant → Tenant) : (s.modifyTenant n x).clocks = s.clocks := rfl
@[simp] theorem State.modifyTenant_mem (n : Nat) (x : Tenant → Tenant) : (s.modifyTenant n x).mem = s.mem := rfl
@[simp] theorem State.modifyTenant_memPoison (n : Nat) (x : Tenant → Tenant) : (s.modifyTenant n x).memPoison = s.memPoison := rfl
@[simp] theorem State.modifyTenant_cores (n : Nat) (x : Tenant → Tenant) : (s.modifyTenant n x).cores = s.cores := rfl
@[simp] theorem State.modifyTenant_dieTlb (n : Nat) (x : Tenant → Tenant) : (s.modifyTenant n x).dieTlb = s.dieTlb := rfl
@[simp] theorem State.modifyTenant_engineClocks (n : Nat) (x : Tenant → Tenant) : (s.modifyTenant n x).engineClocks = s.engineClocks := rfl
@[simp] theorem State.modifyTenant_faults (n : Nat) (x : Tenant → Tenant) : (s.modifyTenant n x).faults = s.faults := rfl
@[simp] theorem State.modifyTenant_walks (n : Nat) (x : Tenant → Tenant) : (s.modifyTenant n x).walks = s.walks := rfl
@[simp] theorem State.modifyTenant_contexts (n : Nat) (x : Tenant → Tenant) : (s.modifyTenant n x).contexts = s.contexts := rfl
@[simp] theorem State.modifyTenant_launches (n : Nat) (x : Tenant → Tenant) : (s.modifyTenant n x).launches = s.launches := rfl
@[simp] theorem State.modifyTenant_teams (n : Nat) (x : Tenant → Tenant) : (s.modifyTenant n x).teams = s.teams := rfl
@[simp] theorem State.modifyTenant_groups (n : Nat) (x : Tenant → Tenant) : (s.modifyTenant n x).groups = s.groups := rfl
@[simp] theorem State.modifyTenant_accesses (n : Nat) (x : Tenant → Tenant) : (s.modifyTenant n x).accesses = s.accesses := rfl
@[simp] theorem State.modifyTenant_deferred (n : Nat) (x : Tenant → Tenant) : (s.modifyTenant n x).deferred = s.deferred := rfl
@[simp] theorem State.modifyTenant_entries (n : Nat) (x : Tenant → Tenant) : (s.modifyTenant n x).entries = s.entries := rfl
@[simp] theorem State.modifyTenant_joints (n : Nat) (x : Tenant → Tenant) : (s.modifyTenant n x).joints = s.joints := rfl
@[simp] theorem State.modifyTenant_credits (n : Nat) (x : Tenant → Tenant) : (s.modifyTenant n x).credits = s.credits := rfl
@[simp] theorem State.modifyTenant_collectives (n : Nat) (x : Tenant → Tenant) : (s.modifyTenant n x).collectives = s.collectives := rfl
@[simp] theorem State.modifyTenant_sent (n : Nat) (x : Tenant → Tenant) : (s.modifyTenant n x).sent = s.sent := rfl
@[simp] theorem State.modifyTenant_mailbox (n : Nat) (x : Tenant → Tenant) : (s.modifyTenant n x).mailbox = s.mailbox := rfl
@[simp] theorem State.modifyTenant_deviceRing (n : Nat) (x : Tenant → Tenant) : (s.modifyTenant n x).deviceRing = s.deviceRing := rfl
@[simp] theorem State.modifyTenant_tailHeld (n : Nat) (x : Tenant → Tenant) : (s.modifyTenant n x).tailHeld = s.tailHeld := rfl
@[simp] theorem State.modifyTenant_devnum (n : Nat) (x : Tenant → Tenant) : (s.modifyTenant n x).devnum = s.devnum := rfl
@[simp] theorem State.modifyTenant_released (n : Nat) (x : Tenant → Tenant) : (s.modifyTenant n x).released = s.released := rfl
@[simp] theorem State.modifyTenant_seq (n : Nat) (x : Tenant → Tenant) : (s.modifyTenant n x).seq = s.seq := rfl
@[simp] theorem State.modifyTenant_uecnt (n : Nat) (x : Tenant → Tenant) : (s.modifyTenant n x).uecnt = s.uecnt := rfl
@[simp] theorem State.modifyTenant_cecnt (n : Nat) (x : Tenant → Tenant) : (s.modifyTenant n x).cecnt = s.cecnt := rfl
@[simp] theorem State.modifyTenant_lostmd (n : Nat) (x : Tenant → Tenant) : (s.modifyTenant n x).lostmd = s.lostmd := rfl
@[simp] theorem State.modifyTenant_throt (n : Nat) (x : Tenant → Tenant) : (s.modifyTenant n x).throt = s.throt := rfl
@[simp] theorem State.modifyTenant_ports (n : Nat) (x : Tenant → Tenant) : (s.modifyTenant n x).ports = s.ports := rfl
@[simp] theorem State.modifyTenant_paused (n : Nat) (x : Tenant → Tenant) : (s.modifyTenant n x).paused = s.paused := rfl
@[simp] theorem State.modifyTenant_pausing (n : Nat) (x : Tenant → Tenant) : (s.modifyTenant n x).pausing = s.pausing := rfl
@[simp] theorem State.modifyTenant_rerouting (n : Nat) (x : Tenant → Tenant) : (s.modifyTenant n x).rerouting = s.rerouting := rfl
@[simp] theorem State.modifyTenant_tiers (n : Nat) (x : Tenant → Tenant) : (s.modifyTenant n x).tiers = s.tiers := rfl
@[simp] theorem State.modifyTenant_skewDie (n : Nat) (x : Tenant → Tenant) : (s.modifyTenant n x).skewDie = s.skewDie := rfl
@[simp] theorem State.modifyTenant_skewPort (n : Nat) (x : Tenant → Tenant) : (s.modifyTenant n x).skewPort = s.skewPort := rfl
@[simp] theorem State.modifyTenant_monitors (n : Nat) (x : Tenant → Tenant) : (s.modifyTenant n x).monitors = s.monitors := rfl
@[simp] theorem State.modifyTenant_skew (n : Nat) (x : Tenant → Tenant) : (s.modifyTenant n x).skew = s.skew := rfl
@[simp] theorem State.modifyTenant_image (n : Nat) (x : Tenant → Tenant) : (s.modifyTenant n x).image = s.image := rfl
@[simp] theorem State.modifyTenant_fwstate (n : Nat) (x : Tenant → Tenant) : (s.modifyTenant n x).fwstate = s.fwstate := rfl
@[simp] theorem State.modifyTenant_throttled (n : Nat) (x : Tenant → Tenant) : (s.modifyTenant n x).throttled = s.throttled := rfl
@[simp] theorem State.modifyTenant_gated (n : Nat) (x : Tenant → Tenant) : (s.modifyTenant n x).gated = s.gated := rfl
@[simp] theorem State.modifyTenant_hotSince (n : Nat) (x : Tenant → Tenant) : (s.modifyTenant n x).hotSince = s.hotSince := rfl
@[simp] theorem State.modifyTenant_stopped (n : Nat) (x : Tenant → Tenant) : (s.modifyTenant n x).stopped = s.stopped := rfl
@[simp] theorem State.modifyTenant_channelErrors (n : Nat) (x : Tenant → Tenant) : (s.modifyTenant n x).channelErrors = s.channelErrors := rfl
@[simp] theorem State.modifyTenant_lostChannels (n : Nat) (x : Tenant → Tenant) : (s.modifyTenant n x).lostChannels = s.lostChannels := rfl
@[simp] theorem State.modifyTenant_lostLanes (n : Nat) (x : Tenant → Tenant) : (s.modifyTenant n x).lostLanes = s.lostLanes := rfl
@[simp] theorem State.modifyTenant_vectors (n : Nat) (x : Tenant → Tenant) : (s.modifyTenant n x).vectors = s.vectors := rfl
@[simp] theorem State.modifyTenant_agenda (n : Nat) (x : Tenant → Tenant) : (s.modifyTenant n x).agenda = s.agenda := rfl
@[simp] theorem State.modifyTenant_turn (n : Nat) (x : Tenant → Tenant) : (s.modifyTenant n x).turn = s.turn := rfl
@[simp] theorem State.modifyTenant_cur (n : Nat) (x : Tenant → Tenant) : (s.modifyTenant n x).cur = s.cur := rfl
@[simp] theorem State.modifyTenant_force (n : Nat) (x : Tenant → Tenant) : (s.modifyTenant n x).force = s.force := rfl
@[simp] theorem State.modifyTenant_nextId (n : Nat) (x : Tenant → Tenant) : (s.modifyTenant n x).nextId = s.nextId := rfl
@[simp] theorem State.modifyTenant_usableChannels (n : Nat) (x : Tenant → Tenant) : (s.modifyTenant n x).usableChannels = s.usableChannels := rfl
@[simp] theorem State.modifyTenant_hbmBytes (n : Nat) (x : Tenant → Tenant) : (s.modifyTenant n x).hbmBytes = s.hbmBytes := rfl
@[simp] theorem State.modifyTenant_mbase (n : Nat) (x : Tenant → Tenant) : (s.modifyTenant n x).mbase = s.mbase := rfl

/-! State.modifyCore -/

@[simp] theorem State.modifyCore_ticks (n : Nat) (x : Core → Core) : (s.modifyCore n x).ticks = s.ticks := rfl
@[simp] theorem State.modifyCore_clocks (n : Nat) (x : Core → Core) : (s.modifyCore n x).clocks = s.clocks := rfl
@[simp] theorem State.modifyCore_mem (n : Nat) (x : Core → Core) : (s.modifyCore n x).mem = s.mem := rfl
@[simp] theorem State.modifyCore_memPoison (n : Nat) (x : Core → Core) : (s.modifyCore n x).memPoison = s.memPoison := rfl
@[simp] theorem State.modifyCore_dieTlb (n : Nat) (x : Core → Core) : (s.modifyCore n x).dieTlb = s.dieTlb := rfl
@[simp] theorem State.modifyCore_engineClocks (n : Nat) (x : Core → Core) : (s.modifyCore n x).engineClocks = s.engineClocks := rfl
@[simp] theorem State.modifyCore_faults (n : Nat) (x : Core → Core) : (s.modifyCore n x).faults = s.faults := rfl
@[simp] theorem State.modifyCore_walks (n : Nat) (x : Core → Core) : (s.modifyCore n x).walks = s.walks := rfl
@[simp] theorem State.modifyCore_tenants (n : Nat) (x : Core → Core) : (s.modifyCore n x).tenants = s.tenants := rfl
@[simp] theorem State.modifyCore_contexts (n : Nat) (x : Core → Core) : (s.modifyCore n x).contexts = s.contexts := rfl
@[simp] theorem State.modifyCore_launches (n : Nat) (x : Core → Core) : (s.modifyCore n x).launches = s.launches := rfl
@[simp] theorem State.modifyCore_teams (n : Nat) (x : Core → Core) : (s.modifyCore n x).teams = s.teams := rfl
@[simp] theorem State.modifyCore_groups (n : Nat) (x : Core → Core) : (s.modifyCore n x).groups = s.groups := rfl
@[simp] theorem State.modifyCore_accesses (n : Nat) (x : Core → Core) : (s.modifyCore n x).accesses = s.accesses := rfl
@[simp] theorem State.modifyCore_deferred (n : Nat) (x : Core → Core) : (s.modifyCore n x).deferred = s.deferred := rfl
@[simp] theorem State.modifyCore_entries (n : Nat) (x : Core → Core) : (s.modifyCore n x).entries = s.entries := rfl
@[simp] theorem State.modifyCore_joints (n : Nat) (x : Core → Core) : (s.modifyCore n x).joints = s.joints := rfl
@[simp] theorem State.modifyCore_credits (n : Nat) (x : Core → Core) : (s.modifyCore n x).credits = s.credits := rfl
@[simp] theorem State.modifyCore_collectives (n : Nat) (x : Core → Core) : (s.modifyCore n x).collectives = s.collectives := rfl
@[simp] theorem State.modifyCore_sent (n : Nat) (x : Core → Core) : (s.modifyCore n x).sent = s.sent := rfl
@[simp] theorem State.modifyCore_mailbox (n : Nat) (x : Core → Core) : (s.modifyCore n x).mailbox = s.mailbox := rfl
@[simp] theorem State.modifyCore_deviceRing (n : Nat) (x : Core → Core) : (s.modifyCore n x).deviceRing = s.deviceRing := rfl
@[simp] theorem State.modifyCore_tailHeld (n : Nat) (x : Core → Core) : (s.modifyCore n x).tailHeld = s.tailHeld := rfl
@[simp] theorem State.modifyCore_devnum (n : Nat) (x : Core → Core) : (s.modifyCore n x).devnum = s.devnum := rfl
@[simp] theorem State.modifyCore_released (n : Nat) (x : Core → Core) : (s.modifyCore n x).released = s.released := rfl
@[simp] theorem State.modifyCore_seq (n : Nat) (x : Core → Core) : (s.modifyCore n x).seq = s.seq := rfl
@[simp] theorem State.modifyCore_uecnt (n : Nat) (x : Core → Core) : (s.modifyCore n x).uecnt = s.uecnt := rfl
@[simp] theorem State.modifyCore_cecnt (n : Nat) (x : Core → Core) : (s.modifyCore n x).cecnt = s.cecnt := rfl
@[simp] theorem State.modifyCore_lostmd (n : Nat) (x : Core → Core) : (s.modifyCore n x).lostmd = s.lostmd := rfl
@[simp] theorem State.modifyCore_throt (n : Nat) (x : Core → Core) : (s.modifyCore n x).throt = s.throt := rfl
@[simp] theorem State.modifyCore_ports (n : Nat) (x : Core → Core) : (s.modifyCore n x).ports = s.ports := rfl
@[simp] theorem State.modifyCore_paused (n : Nat) (x : Core → Core) : (s.modifyCore n x).paused = s.paused := rfl
@[simp] theorem State.modifyCore_pausing (n : Nat) (x : Core → Core) : (s.modifyCore n x).pausing = s.pausing := rfl
@[simp] theorem State.modifyCore_rerouting (n : Nat) (x : Core → Core) : (s.modifyCore n x).rerouting = s.rerouting := rfl
@[simp] theorem State.modifyCore_tiers (n : Nat) (x : Core → Core) : (s.modifyCore n x).tiers = s.tiers := rfl
@[simp] theorem State.modifyCore_skewDie (n : Nat) (x : Core → Core) : (s.modifyCore n x).skewDie = s.skewDie := rfl
@[simp] theorem State.modifyCore_skewPort (n : Nat) (x : Core → Core) : (s.modifyCore n x).skewPort = s.skewPort := rfl
@[simp] theorem State.modifyCore_monitors (n : Nat) (x : Core → Core) : (s.modifyCore n x).monitors = s.monitors := rfl
@[simp] theorem State.modifyCore_skew (n : Nat) (x : Core → Core) : (s.modifyCore n x).skew = s.skew := rfl
@[simp] theorem State.modifyCore_image (n : Nat) (x : Core → Core) : (s.modifyCore n x).image = s.image := rfl
@[simp] theorem State.modifyCore_fwstate (n : Nat) (x : Core → Core) : (s.modifyCore n x).fwstate = s.fwstate := rfl
@[simp] theorem State.modifyCore_throttled (n : Nat) (x : Core → Core) : (s.modifyCore n x).throttled = s.throttled := rfl
@[simp] theorem State.modifyCore_gated (n : Nat) (x : Core → Core) : (s.modifyCore n x).gated = s.gated := rfl
@[simp] theorem State.modifyCore_hotSince (n : Nat) (x : Core → Core) : (s.modifyCore n x).hotSince = s.hotSince := rfl
@[simp] theorem State.modifyCore_stopped (n : Nat) (x : Core → Core) : (s.modifyCore n x).stopped = s.stopped := rfl
@[simp] theorem State.modifyCore_channelErrors (n : Nat) (x : Core → Core) : (s.modifyCore n x).channelErrors = s.channelErrors := rfl
@[simp] theorem State.modifyCore_lostChannels (n : Nat) (x : Core → Core) : (s.modifyCore n x).lostChannels = s.lostChannels := rfl
@[simp] theorem State.modifyCore_lostLanes (n : Nat) (x : Core → Core) : (s.modifyCore n x).lostLanes = s.lostLanes := rfl
@[simp] theorem State.modifyCore_vectors (n : Nat) (x : Core → Core) : (s.modifyCore n x).vectors = s.vectors := rfl
@[simp] theorem State.modifyCore_agenda (n : Nat) (x : Core → Core) : (s.modifyCore n x).agenda = s.agenda := rfl
@[simp] theorem State.modifyCore_turn (n : Nat) (x : Core → Core) : (s.modifyCore n x).turn = s.turn := rfl
@[simp] theorem State.modifyCore_cur (n : Nat) (x : Core → Core) : (s.modifyCore n x).cur = s.cur := rfl
@[simp] theorem State.modifyCore_force (n : Nat) (x : Core → Core) : (s.modifyCore n x).force = s.force := rfl
@[simp] theorem State.modifyCore_nextId (n : Nat) (x : Core → Core) : (s.modifyCore n x).nextId = s.nextId := rfl
@[simp] theorem State.modifyCore_usableChannels (n : Nat) (x : Core → Core) : (s.modifyCore n x).usableChannels = s.usableChannels := rfl
@[simp] theorem State.modifyCore_hbmBytes (n : Nat) (x : Core → Core) : (s.modifyCore n x).hbmBytes = s.hbmBytes := rfl
@[simp] theorem State.modifyCore_mbase (n : Nat) (x : Core → Core) : (s.modifyCore n x).mbase = s.mbase := rfl

/-! State.modifyAccess -/

@[simp] theorem State.modifyAccess_ticks (n : Nat) (x : Access → Access) : (s.modifyAccess n x).ticks = s.ticks := rfl
@[simp] theorem State.modifyAccess_clocks (n : Nat) (x : Access → Access) : (s.modifyAccess n x).clocks = s.clocks := rfl
@[simp] theorem State.modifyAccess_mem (n : Nat) (x : Access → Access) : (s.modifyAccess n x).mem = s.mem := rfl
@[simp] theorem State.modifyAccess_memPoison (n : Nat) (x : Access → Access) : (s.modifyAccess n x).memPoison = s.memPoison := rfl
@[simp] theorem State.modifyAccess_cores (n : Nat) (x : Access → Access) : (s.modifyAccess n x).cores = s.cores := rfl
@[simp] theorem State.modifyAccess_dieTlb (n : Nat) (x : Access → Access) : (s.modifyAccess n x).dieTlb = s.dieTlb := rfl
@[simp] theorem State.modifyAccess_engineClocks (n : Nat) (x : Access → Access) : (s.modifyAccess n x).engineClocks = s.engineClocks := rfl
@[simp] theorem State.modifyAccess_faults (n : Nat) (x : Access → Access) : (s.modifyAccess n x).faults = s.faults := rfl
@[simp] theorem State.modifyAccess_walks (n : Nat) (x : Access → Access) : (s.modifyAccess n x).walks = s.walks := rfl
@[simp] theorem State.modifyAccess_tenants (n : Nat) (x : Access → Access) : (s.modifyAccess n x).tenants = s.tenants := rfl
@[simp] theorem State.modifyAccess_contexts (n : Nat) (x : Access → Access) : (s.modifyAccess n x).contexts = s.contexts := rfl
@[simp] theorem State.modifyAccess_launches (n : Nat) (x : Access → Access) : (s.modifyAccess n x).launches = s.launches := rfl
@[simp] theorem State.modifyAccess_teams (n : Nat) (x : Access → Access) : (s.modifyAccess n x).teams = s.teams := rfl
@[simp] theorem State.modifyAccess_groups (n : Nat) (x : Access → Access) : (s.modifyAccess n x).groups = s.groups := rfl
@[simp] theorem State.modifyAccess_deferred (n : Nat) (x : Access → Access) : (s.modifyAccess n x).deferred = s.deferred := rfl
@[simp] theorem State.modifyAccess_entries (n : Nat) (x : Access → Access) : (s.modifyAccess n x).entries = s.entries := rfl
@[simp] theorem State.modifyAccess_joints (n : Nat) (x : Access → Access) : (s.modifyAccess n x).joints = s.joints := rfl
@[simp] theorem State.modifyAccess_credits (n : Nat) (x : Access → Access) : (s.modifyAccess n x).credits = s.credits := rfl
@[simp] theorem State.modifyAccess_collectives (n : Nat) (x : Access → Access) : (s.modifyAccess n x).collectives = s.collectives := rfl
@[simp] theorem State.modifyAccess_sent (n : Nat) (x : Access → Access) : (s.modifyAccess n x).sent = s.sent := rfl
@[simp] theorem State.modifyAccess_mailbox (n : Nat) (x : Access → Access) : (s.modifyAccess n x).mailbox = s.mailbox := rfl
@[simp] theorem State.modifyAccess_deviceRing (n : Nat) (x : Access → Access) : (s.modifyAccess n x).deviceRing = s.deviceRing := rfl
@[simp] theorem State.modifyAccess_tailHeld (n : Nat) (x : Access → Access) : (s.modifyAccess n x).tailHeld = s.tailHeld := rfl
@[simp] theorem State.modifyAccess_devnum (n : Nat) (x : Access → Access) : (s.modifyAccess n x).devnum = s.devnum := rfl
@[simp] theorem State.modifyAccess_released (n : Nat) (x : Access → Access) : (s.modifyAccess n x).released = s.released := rfl
@[simp] theorem State.modifyAccess_seq (n : Nat) (x : Access → Access) : (s.modifyAccess n x).seq = s.seq := rfl
@[simp] theorem State.modifyAccess_uecnt (n : Nat) (x : Access → Access) : (s.modifyAccess n x).uecnt = s.uecnt := rfl
@[simp] theorem State.modifyAccess_cecnt (n : Nat) (x : Access → Access) : (s.modifyAccess n x).cecnt = s.cecnt := rfl
@[simp] theorem State.modifyAccess_lostmd (n : Nat) (x : Access → Access) : (s.modifyAccess n x).lostmd = s.lostmd := rfl
@[simp] theorem State.modifyAccess_throt (n : Nat) (x : Access → Access) : (s.modifyAccess n x).throt = s.throt := rfl
@[simp] theorem State.modifyAccess_ports (n : Nat) (x : Access → Access) : (s.modifyAccess n x).ports = s.ports := rfl
@[simp] theorem State.modifyAccess_paused (n : Nat) (x : Access → Access) : (s.modifyAccess n x).paused = s.paused := rfl
@[simp] theorem State.modifyAccess_pausing (n : Nat) (x : Access → Access) : (s.modifyAccess n x).pausing = s.pausing := rfl
@[simp] theorem State.modifyAccess_rerouting (n : Nat) (x : Access → Access) : (s.modifyAccess n x).rerouting = s.rerouting := rfl
@[simp] theorem State.modifyAccess_tiers (n : Nat) (x : Access → Access) : (s.modifyAccess n x).tiers = s.tiers := rfl
@[simp] theorem State.modifyAccess_skewDie (n : Nat) (x : Access → Access) : (s.modifyAccess n x).skewDie = s.skewDie := rfl
@[simp] theorem State.modifyAccess_skewPort (n : Nat) (x : Access → Access) : (s.modifyAccess n x).skewPort = s.skewPort := rfl
@[simp] theorem State.modifyAccess_monitors (n : Nat) (x : Access → Access) : (s.modifyAccess n x).monitors = s.monitors := rfl
@[simp] theorem State.modifyAccess_skew (n : Nat) (x : Access → Access) : (s.modifyAccess n x).skew = s.skew := rfl
@[simp] theorem State.modifyAccess_image (n : Nat) (x : Access → Access) : (s.modifyAccess n x).image = s.image := rfl
@[simp] theorem State.modifyAccess_fwstate (n : Nat) (x : Access → Access) : (s.modifyAccess n x).fwstate = s.fwstate := rfl
@[simp] theorem State.modifyAccess_throttled (n : Nat) (x : Access → Access) : (s.modifyAccess n x).throttled = s.throttled := rfl
@[simp] theorem State.modifyAccess_gated (n : Nat) (x : Access → Access) : (s.modifyAccess n x).gated = s.gated := rfl
@[simp] theorem State.modifyAccess_hotSince (n : Nat) (x : Access → Access) : (s.modifyAccess n x).hotSince = s.hotSince := rfl
@[simp] theorem State.modifyAccess_stopped (n : Nat) (x : Access → Access) : (s.modifyAccess n x).stopped = s.stopped := rfl
@[simp] theorem State.modifyAccess_channelErrors (n : Nat) (x : Access → Access) : (s.modifyAccess n x).channelErrors = s.channelErrors := rfl
@[simp] theorem State.modifyAccess_lostChannels (n : Nat) (x : Access → Access) : (s.modifyAccess n x).lostChannels = s.lostChannels := rfl
@[simp] theorem State.modifyAccess_lostLanes (n : Nat) (x : Access → Access) : (s.modifyAccess n x).lostLanes = s.lostLanes := rfl
@[simp] theorem State.modifyAccess_vectors (n : Nat) (x : Access → Access) : (s.modifyAccess n x).vectors = s.vectors := rfl
@[simp] theorem State.modifyAccess_agenda (n : Nat) (x : Access → Access) : (s.modifyAccess n x).agenda = s.agenda := rfl
@[simp] theorem State.modifyAccess_turn (n : Nat) (x : Access → Access) : (s.modifyAccess n x).turn = s.turn := rfl
@[simp] theorem State.modifyAccess_cur (n : Nat) (x : Access → Access) : (s.modifyAccess n x).cur = s.cur := rfl
@[simp] theorem State.modifyAccess_force (n : Nat) (x : Access → Access) : (s.modifyAccess n x).force = s.force := rfl
@[simp] theorem State.modifyAccess_nextId (n : Nat) (x : Access → Access) : (s.modifyAccess n x).nextId = s.nextId := rfl
@[simp] theorem State.modifyAccess_usableChannels (n : Nat) (x : Access → Access) : (s.modifyAccess n x).usableChannels = s.usableChannels := rfl
@[simp] theorem State.modifyAccess_hbmBytes (n : Nat) (x : Access → Access) : (s.modifyAccess n x).hbmBytes = s.hbmBytes := rfl
@[simp] theorem State.modifyAccess_mbase (n : Nat) (x : Access → Access) : (s.modifyAccess n x).mbase = s.mbase := rfl

/-! State.modifyEntry -/

@[simp] theorem State.modifyEntry_ticks (n : Nat) (x : Entry → Entry) : (s.modifyEntry n x).ticks = s.ticks := rfl
@[simp] theorem State.modifyEntry_clocks (n : Nat) (x : Entry → Entry) : (s.modifyEntry n x).clocks = s.clocks := rfl
@[simp] theorem State.modifyEntry_mem (n : Nat) (x : Entry → Entry) : (s.modifyEntry n x).mem = s.mem := rfl
@[simp] theorem State.modifyEntry_memPoison (n : Nat) (x : Entry → Entry) : (s.modifyEntry n x).memPoison = s.memPoison := rfl
@[simp] theorem State.modifyEntry_cores (n : Nat) (x : Entry → Entry) : (s.modifyEntry n x).cores = s.cores := rfl
@[simp] theorem State.modifyEntry_dieTlb (n : Nat) (x : Entry → Entry) : (s.modifyEntry n x).dieTlb = s.dieTlb := rfl
@[simp] theorem State.modifyEntry_engineClocks (n : Nat) (x : Entry → Entry) : (s.modifyEntry n x).engineClocks = s.engineClocks := rfl
@[simp] theorem State.modifyEntry_faults (n : Nat) (x : Entry → Entry) : (s.modifyEntry n x).faults = s.faults := rfl
@[simp] theorem State.modifyEntry_walks (n : Nat) (x : Entry → Entry) : (s.modifyEntry n x).walks = s.walks := rfl
@[simp] theorem State.modifyEntry_tenants (n : Nat) (x : Entry → Entry) : (s.modifyEntry n x).tenants = s.tenants := rfl
@[simp] theorem State.modifyEntry_contexts (n : Nat) (x : Entry → Entry) : (s.modifyEntry n x).contexts = s.contexts := rfl
@[simp] theorem State.modifyEntry_launches (n : Nat) (x : Entry → Entry) : (s.modifyEntry n x).launches = s.launches := rfl
@[simp] theorem State.modifyEntry_teams (n : Nat) (x : Entry → Entry) : (s.modifyEntry n x).teams = s.teams := rfl
@[simp] theorem State.modifyEntry_groups (n : Nat) (x : Entry → Entry) : (s.modifyEntry n x).groups = s.groups := rfl
@[simp] theorem State.modifyEntry_accesses (n : Nat) (x : Entry → Entry) : (s.modifyEntry n x).accesses = s.accesses := rfl
@[simp] theorem State.modifyEntry_deferred (n : Nat) (x : Entry → Entry) : (s.modifyEntry n x).deferred = s.deferred := rfl
@[simp] theorem State.modifyEntry_joints (n : Nat) (x : Entry → Entry) : (s.modifyEntry n x).joints = s.joints := rfl
@[simp] theorem State.modifyEntry_credits (n : Nat) (x : Entry → Entry) : (s.modifyEntry n x).credits = s.credits := rfl
@[simp] theorem State.modifyEntry_collectives (n : Nat) (x : Entry → Entry) : (s.modifyEntry n x).collectives = s.collectives := rfl
@[simp] theorem State.modifyEntry_sent (n : Nat) (x : Entry → Entry) : (s.modifyEntry n x).sent = s.sent := rfl
@[simp] theorem State.modifyEntry_mailbox (n : Nat) (x : Entry → Entry) : (s.modifyEntry n x).mailbox = s.mailbox := rfl
@[simp] theorem State.modifyEntry_deviceRing (n : Nat) (x : Entry → Entry) : (s.modifyEntry n x).deviceRing = s.deviceRing := rfl
@[simp] theorem State.modifyEntry_tailHeld (n : Nat) (x : Entry → Entry) : (s.modifyEntry n x).tailHeld = s.tailHeld := rfl
@[simp] theorem State.modifyEntry_devnum (n : Nat) (x : Entry → Entry) : (s.modifyEntry n x).devnum = s.devnum := rfl
@[simp] theorem State.modifyEntry_released (n : Nat) (x : Entry → Entry) : (s.modifyEntry n x).released = s.released := rfl
@[simp] theorem State.modifyEntry_seq (n : Nat) (x : Entry → Entry) : (s.modifyEntry n x).seq = s.seq := rfl
@[simp] theorem State.modifyEntry_uecnt (n : Nat) (x : Entry → Entry) : (s.modifyEntry n x).uecnt = s.uecnt := rfl
@[simp] theorem State.modifyEntry_cecnt (n : Nat) (x : Entry → Entry) : (s.modifyEntry n x).cecnt = s.cecnt := rfl
@[simp] theorem State.modifyEntry_lostmd (n : Nat) (x : Entry → Entry) : (s.modifyEntry n x).lostmd = s.lostmd := rfl
@[simp] theorem State.modifyEntry_throt (n : Nat) (x : Entry → Entry) : (s.modifyEntry n x).throt = s.throt := rfl
@[simp] theorem State.modifyEntry_ports (n : Nat) (x : Entry → Entry) : (s.modifyEntry n x).ports = s.ports := rfl
@[simp] theorem State.modifyEntry_paused (n : Nat) (x : Entry → Entry) : (s.modifyEntry n x).paused = s.paused := rfl
@[simp] theorem State.modifyEntry_pausing (n : Nat) (x : Entry → Entry) : (s.modifyEntry n x).pausing = s.pausing := rfl
@[simp] theorem State.modifyEntry_rerouting (n : Nat) (x : Entry → Entry) : (s.modifyEntry n x).rerouting = s.rerouting := rfl
@[simp] theorem State.modifyEntry_tiers (n : Nat) (x : Entry → Entry) : (s.modifyEntry n x).tiers = s.tiers := rfl
@[simp] theorem State.modifyEntry_skewDie (n : Nat) (x : Entry → Entry) : (s.modifyEntry n x).skewDie = s.skewDie := rfl
@[simp] theorem State.modifyEntry_skewPort (n : Nat) (x : Entry → Entry) : (s.modifyEntry n x).skewPort = s.skewPort := rfl
@[simp] theorem State.modifyEntry_monitors (n : Nat) (x : Entry → Entry) : (s.modifyEntry n x).monitors = s.monitors := rfl
@[simp] theorem State.modifyEntry_skew (n : Nat) (x : Entry → Entry) : (s.modifyEntry n x).skew = s.skew := rfl
@[simp] theorem State.modifyEntry_image (n : Nat) (x : Entry → Entry) : (s.modifyEntry n x).image = s.image := rfl
@[simp] theorem State.modifyEntry_fwstate (n : Nat) (x : Entry → Entry) : (s.modifyEntry n x).fwstate = s.fwstate := rfl
@[simp] theorem State.modifyEntry_throttled (n : Nat) (x : Entry → Entry) : (s.modifyEntry n x).throttled = s.throttled := rfl
@[simp] theorem State.modifyEntry_gated (n : Nat) (x : Entry → Entry) : (s.modifyEntry n x).gated = s.gated := rfl
@[simp] theorem State.modifyEntry_hotSince (n : Nat) (x : Entry → Entry) : (s.modifyEntry n x).hotSince = s.hotSince := rfl
@[simp] theorem State.modifyEntry_stopped (n : Nat) (x : Entry → Entry) : (s.modifyEntry n x).stopped = s.stopped := rfl
@[simp] theorem State.modifyEntry_channelErrors (n : Nat) (x : Entry → Entry) : (s.modifyEntry n x).channelErrors = s.channelErrors := rfl
@[simp] theorem State.modifyEntry_lostChannels (n : Nat) (x : Entry → Entry) : (s.modifyEntry n x).lostChannels = s.lostChannels := rfl
@[simp] theorem State.modifyEntry_lostLanes (n : Nat) (x : Entry → Entry) : (s.modifyEntry n x).lostLanes = s.lostLanes := rfl
@[simp] theorem State.modifyEntry_vectors (n : Nat) (x : Entry → Entry) : (s.modifyEntry n x).vectors = s.vectors := rfl
@[simp] theorem State.modifyEntry_agenda (n : Nat) (x : Entry → Entry) : (s.modifyEntry n x).agenda = s.agenda := rfl
@[simp] theorem State.modifyEntry_turn (n : Nat) (x : Entry → Entry) : (s.modifyEntry n x).turn = s.turn := rfl
@[simp] theorem State.modifyEntry_cur (n : Nat) (x : Entry → Entry) : (s.modifyEntry n x).cur = s.cur := rfl
@[simp] theorem State.modifyEntry_force (n : Nat) (x : Entry → Entry) : (s.modifyEntry n x).force = s.force := rfl
@[simp] theorem State.modifyEntry_nextId (n : Nat) (x : Entry → Entry) : (s.modifyEntry n x).nextId = s.nextId := rfl
@[simp] theorem State.modifyEntry_usableChannels (n : Nat) (x : Entry → Entry) : (s.modifyEntry n x).usableChannels = s.usableChannels := rfl
@[simp] theorem State.modifyEntry_hbmBytes (n : Nat) (x : Entry → Entry) : (s.modifyEntry n x).hbmBytes = s.hbmBytes := rfl
@[simp] theorem State.modifyEntry_mbase (n : Nat) (x : Entry → Entry) : (s.modifyEntry n x).mbase = s.mbase := rfl

/-! State.writeMem -/

@[simp] theorem State.writeMem_ticks (a : Nat) (b : List Byte) : (s.writeMem a b).ticks = s.ticks := rfl
@[simp] theorem State.writeMem_clocks (a : Nat) (b : List Byte) : (s.writeMem a b).clocks = s.clocks := rfl
@[simp] theorem State.writeMem_cores (a : Nat) (b : List Byte) : (s.writeMem a b).cores = s.cores := rfl
@[simp] theorem State.writeMem_dieTlb (a : Nat) (b : List Byte) : (s.writeMem a b).dieTlb = s.dieTlb := rfl
@[simp] theorem State.writeMem_engineClocks (a : Nat) (b : List Byte) : (s.writeMem a b).engineClocks = s.engineClocks := rfl
@[simp] theorem State.writeMem_faults (a : Nat) (b : List Byte) : (s.writeMem a b).faults = s.faults := rfl
@[simp] theorem State.writeMem_walks (a : Nat) (b : List Byte) : (s.writeMem a b).walks = s.walks := rfl
@[simp] theorem State.writeMem_tenants (a : Nat) (b : List Byte) : (s.writeMem a b).tenants = s.tenants := rfl
@[simp] theorem State.writeMem_contexts (a : Nat) (b : List Byte) : (s.writeMem a b).contexts = s.contexts := rfl
@[simp] theorem State.writeMem_launches (a : Nat) (b : List Byte) : (s.writeMem a b).launches = s.launches := rfl
@[simp] theorem State.writeMem_teams (a : Nat) (b : List Byte) : (s.writeMem a b).teams = s.teams := rfl
@[simp] theorem State.writeMem_groups (a : Nat) (b : List Byte) : (s.writeMem a b).groups = s.groups := rfl
@[simp] theorem State.writeMem_accesses (a : Nat) (b : List Byte) : (s.writeMem a b).accesses = s.accesses := rfl
@[simp] theorem State.writeMem_deferred (a : Nat) (b : List Byte) : (s.writeMem a b).deferred = s.deferred := rfl
@[simp] theorem State.writeMem_entries (a : Nat) (b : List Byte) : (s.writeMem a b).entries = s.entries := rfl
@[simp] theorem State.writeMem_joints (a : Nat) (b : List Byte) : (s.writeMem a b).joints = s.joints := rfl
@[simp] theorem State.writeMem_credits (a : Nat) (b : List Byte) : (s.writeMem a b).credits = s.credits := rfl
@[simp] theorem State.writeMem_collectives (a : Nat) (b : List Byte) : (s.writeMem a b).collectives = s.collectives := rfl
@[simp] theorem State.writeMem_sent (a : Nat) (b : List Byte) : (s.writeMem a b).sent = s.sent := rfl
@[simp] theorem State.writeMem_mailbox (a : Nat) (b : List Byte) : (s.writeMem a b).mailbox = s.mailbox := rfl
@[simp] theorem State.writeMem_deviceRing (a : Nat) (b : List Byte) : (s.writeMem a b).deviceRing = s.deviceRing := rfl
@[simp] theorem State.writeMem_tailHeld (a : Nat) (b : List Byte) : (s.writeMem a b).tailHeld = s.tailHeld := rfl
@[simp] theorem State.writeMem_devnum (a : Nat) (b : List Byte) : (s.writeMem a b).devnum = s.devnum := rfl
@[simp] theorem State.writeMem_released (a : Nat) (b : List Byte) : (s.writeMem a b).released = s.released := rfl
@[simp] theorem State.writeMem_seq (a : Nat) (b : List Byte) : (s.writeMem a b).seq = s.seq := rfl
@[simp] theorem State.writeMem_uecnt (a : Nat) (b : List Byte) : (s.writeMem a b).uecnt = s.uecnt := rfl
@[simp] theorem State.writeMem_cecnt (a : Nat) (b : List Byte) : (s.writeMem a b).cecnt = s.cecnt := rfl
@[simp] theorem State.writeMem_lostmd (a : Nat) (b : List Byte) : (s.writeMem a b).lostmd = s.lostmd := rfl
@[simp] theorem State.writeMem_throt (a : Nat) (b : List Byte) : (s.writeMem a b).throt = s.throt := rfl
@[simp] theorem State.writeMem_ports (a : Nat) (b : List Byte) : (s.writeMem a b).ports = s.ports := rfl
@[simp] theorem State.writeMem_paused (a : Nat) (b : List Byte) : (s.writeMem a b).paused = s.paused := rfl
@[simp] theorem State.writeMem_pausing (a : Nat) (b : List Byte) : (s.writeMem a b).pausing = s.pausing := rfl
@[simp] theorem State.writeMem_rerouting (a : Nat) (b : List Byte) : (s.writeMem a b).rerouting = s.rerouting := rfl
@[simp] theorem State.writeMem_tiers (a : Nat) (b : List Byte) : (s.writeMem a b).tiers = s.tiers := rfl
@[simp] theorem State.writeMem_skewDie (a : Nat) (b : List Byte) : (s.writeMem a b).skewDie = s.skewDie := rfl
@[simp] theorem State.writeMem_skewPort (a : Nat) (b : List Byte) : (s.writeMem a b).skewPort = s.skewPort := rfl
@[simp] theorem State.writeMem_monitors (a : Nat) (b : List Byte) : (s.writeMem a b).monitors = s.monitors := rfl
@[simp] theorem State.writeMem_skew (a : Nat) (b : List Byte) : (s.writeMem a b).skew = s.skew := rfl
@[simp] theorem State.writeMem_image (a : Nat) (b : List Byte) : (s.writeMem a b).image = s.image := rfl
@[simp] theorem State.writeMem_fwstate (a : Nat) (b : List Byte) : (s.writeMem a b).fwstate = s.fwstate := rfl
@[simp] theorem State.writeMem_throttled (a : Nat) (b : List Byte) : (s.writeMem a b).throttled = s.throttled := rfl
@[simp] theorem State.writeMem_gated (a : Nat) (b : List Byte) : (s.writeMem a b).gated = s.gated := rfl
@[simp] theorem State.writeMem_hotSince (a : Nat) (b : List Byte) : (s.writeMem a b).hotSince = s.hotSince := rfl
@[simp] theorem State.writeMem_stopped (a : Nat) (b : List Byte) : (s.writeMem a b).stopped = s.stopped := rfl
@[simp] theorem State.writeMem_channelErrors (a : Nat) (b : List Byte) : (s.writeMem a b).channelErrors = s.channelErrors := rfl
@[simp] theorem State.writeMem_lostChannels (a : Nat) (b : List Byte) : (s.writeMem a b).lostChannels = s.lostChannels := rfl
@[simp] theorem State.writeMem_lostLanes (a : Nat) (b : List Byte) : (s.writeMem a b).lostLanes = s.lostLanes := rfl
@[simp] theorem State.writeMem_vectors (a : Nat) (b : List Byte) : (s.writeMem a b).vectors = s.vectors := rfl
@[simp] theorem State.writeMem_agenda (a : Nat) (b : List Byte) : (s.writeMem a b).agenda = s.agenda := rfl
@[simp] theorem State.writeMem_turn (a : Nat) (b : List Byte) : (s.writeMem a b).turn = s.turn := rfl
@[simp] theorem State.writeMem_cur (a : Nat) (b : List Byte) : (s.writeMem a b).cur = s.cur := rfl
@[simp] theorem State.writeMem_force (a : Nat) (b : List Byte) : (s.writeMem a b).force = s.force := rfl
@[simp] theorem State.writeMem_nextId (a : Nat) (b : List Byte) : (s.writeMem a b).nextId = s.nextId := rfl
@[simp] theorem State.writeMem_usableChannels (a : Nat) (b : List Byte) : (s.writeMem a b).usableChannels = s.usableChannels := rfl
@[simp] theorem State.writeMem_hbmBytes (a : Nat) (b : List Byte) : (s.writeMem a b).hbmBytes = s.hbmBytes := rfl
@[simp] theorem State.writeMem_mbase (a : Nat) (b : List Byte) : (s.writeMem a b).mbase = s.mbase := rfl

/-! State.fresh -/

@[simp] theorem State.fresh_fst : s.fresh.1 = s.nextId := rfl
@[simp] theorem State.fresh_ticks : s.fresh.2.ticks = s.ticks := rfl
@[simp] theorem State.fresh_clocks : s.fresh.2.clocks = s.clocks := rfl
@[simp] theorem State.fresh_mem : s.fresh.2.mem = s.mem := rfl
@[simp] theorem State.fresh_memPoison : s.fresh.2.memPoison = s.memPoison := rfl
@[simp] theorem State.fresh_cores : s.fresh.2.cores = s.cores := rfl
@[simp] theorem State.fresh_dieTlb : s.fresh.2.dieTlb = s.dieTlb := rfl
@[simp] theorem State.fresh_engineClocks : s.fresh.2.engineClocks = s.engineClocks := rfl
@[simp] theorem State.fresh_faults : s.fresh.2.faults = s.faults := rfl
@[simp] theorem State.fresh_walks : s.fresh.2.walks = s.walks := rfl
@[simp] theorem State.fresh_tenants : s.fresh.2.tenants = s.tenants := rfl
@[simp] theorem State.fresh_contexts : s.fresh.2.contexts = s.contexts := rfl
@[simp] theorem State.fresh_launches : s.fresh.2.launches = s.launches := rfl
@[simp] theorem State.fresh_teams : s.fresh.2.teams = s.teams := rfl
@[simp] theorem State.fresh_groups : s.fresh.2.groups = s.groups := rfl
@[simp] theorem State.fresh_accesses : s.fresh.2.accesses = s.accesses := rfl
@[simp] theorem State.fresh_deferred : s.fresh.2.deferred = s.deferred := rfl
@[simp] theorem State.fresh_entries : s.fresh.2.entries = s.entries := rfl
@[simp] theorem State.fresh_joints : s.fresh.2.joints = s.joints := rfl
@[simp] theorem State.fresh_credits : s.fresh.2.credits = s.credits := rfl
@[simp] theorem State.fresh_collectives : s.fresh.2.collectives = s.collectives := rfl
@[simp] theorem State.fresh_sent : s.fresh.2.sent = s.sent := rfl
@[simp] theorem State.fresh_mailbox : s.fresh.2.mailbox = s.mailbox := rfl
@[simp] theorem State.fresh_deviceRing : s.fresh.2.deviceRing = s.deviceRing := rfl
@[simp] theorem State.fresh_tailHeld : s.fresh.2.tailHeld = s.tailHeld := rfl
@[simp] theorem State.fresh_devnum : s.fresh.2.devnum = s.devnum := rfl
@[simp] theorem State.fresh_released : s.fresh.2.released = s.released := rfl
@[simp] theorem State.fresh_seq : s.fresh.2.seq = s.seq := rfl
@[simp] theorem State.fresh_uecnt : s.fresh.2.uecnt = s.uecnt := rfl
@[simp] theorem State.fresh_cecnt : s.fresh.2.cecnt = s.cecnt := rfl
@[simp] theorem State.fresh_lostmd : s.fresh.2.lostmd = s.lostmd := rfl
@[simp] theorem State.fresh_throt : s.fresh.2.throt = s.throt := rfl
@[simp] theorem State.fresh_ports : s.fresh.2.ports = s.ports := rfl
@[simp] theorem State.fresh_paused : s.fresh.2.paused = s.paused := rfl
@[simp] theorem State.fresh_pausing : s.fresh.2.pausing = s.pausing := rfl
@[simp] theorem State.fresh_rerouting : s.fresh.2.rerouting = s.rerouting := rfl
@[simp] theorem State.fresh_tiers : s.fresh.2.tiers = s.tiers := rfl
@[simp] theorem State.fresh_skewDie : s.fresh.2.skewDie = s.skewDie := rfl
@[simp] theorem State.fresh_skewPort : s.fresh.2.skewPort = s.skewPort := rfl
@[simp] theorem State.fresh_monitors : s.fresh.2.monitors = s.monitors := rfl
@[simp] theorem State.fresh_skew : s.fresh.2.skew = s.skew := rfl
@[simp] theorem State.fresh_image : s.fresh.2.image = s.image := rfl
@[simp] theorem State.fresh_fwstate : s.fresh.2.fwstate = s.fwstate := rfl
@[simp] theorem State.fresh_throttled : s.fresh.2.throttled = s.throttled := rfl
@[simp] theorem State.fresh_gated : s.fresh.2.gated = s.gated := rfl
@[simp] theorem State.fresh_hotSince : s.fresh.2.hotSince = s.hotSince := rfl
@[simp] theorem State.fresh_stopped : s.fresh.2.stopped = s.stopped := rfl
@[simp] theorem State.fresh_channelErrors : s.fresh.2.channelErrors = s.channelErrors := rfl
@[simp] theorem State.fresh_lostChannels : s.fresh.2.lostChannels = s.lostChannels := rfl
@[simp] theorem State.fresh_lostLanes : s.fresh.2.lostLanes = s.lostLanes := rfl
@[simp] theorem State.fresh_vectors : s.fresh.2.vectors = s.vectors := rfl
@[simp] theorem State.fresh_agenda : s.fresh.2.agenda = s.agenda := rfl
@[simp] theorem State.fresh_turn : s.fresh.2.turn = s.turn := rfl
@[simp] theorem State.fresh_cur : s.fresh.2.cur = s.cur := rfl
@[simp] theorem State.fresh_force : s.fresh.2.force = s.force := rfl
@[simp] theorem State.fresh_nextId : s.fresh.2.nextId = s.nextId + 1 := rfl
@[simp] theorem State.fresh_usableChannels : s.fresh.2.usableChannels = s.usableChannels := rfl
@[simp] theorem State.fresh_hbmBytes : s.fresh.2.hbmBytes = s.hbmBytes := rfl
@[simp] theorem State.fresh_mbase : s.fresh.2.mbase = s.mbase := rfl

/-! State.send and State.engineStamp -/

@[simp] theorem State.send_ticks (d c t b : Nat) (x : Sent) (bs : List Byte) : (s.send d c t b x bs).ticks = s.ticks := rfl
@[simp] theorem State.engineStamp_ticks (a : Nat) : (s.engineStamp a).2.ticks = s.ticks := rfl
@[simp] theorem State.send_clocks (d c t b : Nat) (x : Sent) (bs : List Byte) : (s.send d c t b x bs).clocks = s.clocks := rfl
@[simp] theorem State.engineStamp_clocks (a : Nat) : (s.engineStamp a).2.clocks = s.clocks := rfl
@[simp] theorem State.send_mem (d c t b : Nat) (x : Sent) (bs : List Byte) : (s.send d c t b x bs).mem = s.mem := rfl
@[simp] theorem State.engineStamp_mem (a : Nat) : (s.engineStamp a).2.mem = s.mem := rfl
@[simp] theorem State.send_memPoison (d c t b : Nat) (x : Sent) (bs : List Byte) : (s.send d c t b x bs).memPoison = s.memPoison := rfl
@[simp] theorem State.engineStamp_memPoison (a : Nat) : (s.engineStamp a).2.memPoison = s.memPoison := rfl
@[simp] theorem State.send_cores (d c t b : Nat) (x : Sent) (bs : List Byte) : (s.send d c t b x bs).cores = s.cores := rfl
@[simp] theorem State.engineStamp_cores (a : Nat) : (s.engineStamp a).2.cores = s.cores := rfl
@[simp] theorem State.send_dieTlb (d c t b : Nat) (x : Sent) (bs : List Byte) : (s.send d c t b x bs).dieTlb = s.dieTlb := rfl
@[simp] theorem State.engineStamp_dieTlb (a : Nat) : (s.engineStamp a).2.dieTlb = s.dieTlb := rfl
@[simp] theorem State.send_engineClocks (d c t b : Nat) (x : Sent) (bs : List Byte) : (s.send d c t b x bs).engineClocks = s.engineClocks := rfl
@[simp] theorem State.send_faults (d c t b : Nat) (x : Sent) (bs : List Byte) : (s.send d c t b x bs).faults = s.faults := rfl
@[simp] theorem State.engineStamp_faults (a : Nat) : (s.engineStamp a).2.faults = s.faults := rfl
@[simp] theorem State.send_walks (d c t b : Nat) (x : Sent) (bs : List Byte) : (s.send d c t b x bs).walks = s.walks := rfl
@[simp] theorem State.engineStamp_walks (a : Nat) : (s.engineStamp a).2.walks = s.walks := rfl
@[simp] theorem State.send_tenants (d c t b : Nat) (x : Sent) (bs : List Byte) : (s.send d c t b x bs).tenants = s.tenants := rfl
@[simp] theorem State.engineStamp_tenants (a : Nat) : (s.engineStamp a).2.tenants = s.tenants := rfl
@[simp] theorem State.send_contexts (d c t b : Nat) (x : Sent) (bs : List Byte) : (s.send d c t b x bs).contexts = s.contexts := rfl
@[simp] theorem State.engineStamp_contexts (a : Nat) : (s.engineStamp a).2.contexts = s.contexts := rfl
@[simp] theorem State.send_launches (d c t b : Nat) (x : Sent) (bs : List Byte) : (s.send d c t b x bs).launches = s.launches := rfl
@[simp] theorem State.engineStamp_launches (a : Nat) : (s.engineStamp a).2.launches = s.launches := rfl
@[simp] theorem State.send_teams (d c t b : Nat) (x : Sent) (bs : List Byte) : (s.send d c t b x bs).teams = s.teams := rfl
@[simp] theorem State.engineStamp_teams (a : Nat) : (s.engineStamp a).2.teams = s.teams := rfl
@[simp] theorem State.send_groups (d c t b : Nat) (x : Sent) (bs : List Byte) : (s.send d c t b x bs).groups = s.groups := rfl
@[simp] theorem State.engineStamp_groups (a : Nat) : (s.engineStamp a).2.groups = s.groups := rfl
@[simp] theorem State.send_accesses (d c t b : Nat) (x : Sent) (bs : List Byte) : (s.send d c t b x bs).accesses = s.accesses := rfl
@[simp] theorem State.engineStamp_accesses (a : Nat) : (s.engineStamp a).2.accesses = s.accesses := rfl
@[simp] theorem State.send_deferred (d c t b : Nat) (x : Sent) (bs : List Byte) : (s.send d c t b x bs).deferred = s.deferred := rfl
@[simp] theorem State.engineStamp_deferred (a : Nat) : (s.engineStamp a).2.deferred = s.deferred := rfl
@[simp] theorem State.send_entries (d c t b : Nat) (x : Sent) (bs : List Byte) : (s.send d c t b x bs).entries = s.entries := rfl
@[simp] theorem State.engineStamp_entries (a : Nat) : (s.engineStamp a).2.entries = s.entries := rfl
@[simp] theorem State.send_joints (d c t b : Nat) (x : Sent) (bs : List Byte) : (s.send d c t b x bs).joints = s.joints := rfl
@[simp] theorem State.engineStamp_joints (a : Nat) : (s.engineStamp a).2.joints = s.joints := rfl
@[simp] theorem State.send_credits (d c t b : Nat) (x : Sent) (bs : List Byte) : (s.send d c t b x bs).credits = s.credits := rfl
@[simp] theorem State.engineStamp_credits (a : Nat) : (s.engineStamp a).2.credits = s.credits := rfl
@[simp] theorem State.send_collectives (d c t b : Nat) (x : Sent) (bs : List Byte) : (s.send d c t b x bs).collectives = s.collectives := rfl
@[simp] theorem State.engineStamp_collectives (a : Nat) : (s.engineStamp a).2.collectives = s.collectives := rfl
@[simp] theorem State.engineStamp_sent (a : Nat) : (s.engineStamp a).2.sent = s.sent := rfl
@[simp] theorem State.send_mailbox (d c t b : Nat) (x : Sent) (bs : List Byte) : (s.send d c t b x bs).mailbox = s.mailbox := rfl
@[simp] theorem State.engineStamp_mailbox (a : Nat) : (s.engineStamp a).2.mailbox = s.mailbox := rfl
@[simp] theorem State.send_deviceRing (d c t b : Nat) (x : Sent) (bs : List Byte) : (s.send d c t b x bs).deviceRing = s.deviceRing := rfl
@[simp] theorem State.engineStamp_deviceRing (a : Nat) : (s.engineStamp a).2.deviceRing = s.deviceRing := rfl
@[simp] theorem State.send_tailHeld (d c t b : Nat) (x : Sent) (bs : List Byte) : (s.send d c t b x bs).tailHeld = s.tailHeld := rfl
@[simp] theorem State.engineStamp_tailHeld (a : Nat) : (s.engineStamp a).2.tailHeld = s.tailHeld := rfl
@[simp] theorem State.send_devnum (d c t b : Nat) (x : Sent) (bs : List Byte) : (s.send d c t b x bs).devnum = s.devnum := rfl
@[simp] theorem State.engineStamp_devnum (a : Nat) : (s.engineStamp a).2.devnum = s.devnum := rfl
@[simp] theorem State.send_released (d c t b : Nat) (x : Sent) (bs : List Byte) : (s.send d c t b x bs).released = s.released := rfl
@[simp] theorem State.engineStamp_released (a : Nat) : (s.engineStamp a).2.released = s.released := rfl
@[simp] theorem State.send_seq (d c t b : Nat) (x : Sent) (bs : List Byte) : (s.send d c t b x bs).seq = s.seq := rfl
@[simp] theorem State.engineStamp_seq (a : Nat) : (s.engineStamp a).2.seq = s.seq := rfl
@[simp] theorem State.send_uecnt (d c t b : Nat) (x : Sent) (bs : List Byte) : (s.send d c t b x bs).uecnt = s.uecnt := rfl
@[simp] theorem State.engineStamp_uecnt (a : Nat) : (s.engineStamp a).2.uecnt = s.uecnt := rfl
@[simp] theorem State.send_cecnt (d c t b : Nat) (x : Sent) (bs : List Byte) : (s.send d c t b x bs).cecnt = s.cecnt := rfl
@[simp] theorem State.engineStamp_cecnt (a : Nat) : (s.engineStamp a).2.cecnt = s.cecnt := rfl
@[simp] theorem State.send_lostmd (d c t b : Nat) (x : Sent) (bs : List Byte) : (s.send d c t b x bs).lostmd = s.lostmd := rfl
@[simp] theorem State.engineStamp_lostmd (a : Nat) : (s.engineStamp a).2.lostmd = s.lostmd := rfl
@[simp] theorem State.send_throt (d c t b : Nat) (x : Sent) (bs : List Byte) : (s.send d c t b x bs).throt = s.throt := rfl
@[simp] theorem State.engineStamp_throt (a : Nat) : (s.engineStamp a).2.throt = s.throt := rfl
@[simp] theorem State.send_ports (d c t b : Nat) (x : Sent) (bs : List Byte) : (s.send d c t b x bs).ports = s.ports := rfl
@[simp] theorem State.engineStamp_ports (a : Nat) : (s.engineStamp a).2.ports = s.ports := rfl
@[simp] theorem State.send_paused (d c t b : Nat) (x : Sent) (bs : List Byte) : (s.send d c t b x bs).paused = s.paused := rfl
@[simp] theorem State.engineStamp_paused (a : Nat) : (s.engineStamp a).2.paused = s.paused := rfl
@[simp] theorem State.send_pausing (d c t b : Nat) (x : Sent) (bs : List Byte) : (s.send d c t b x bs).pausing = s.pausing := rfl
@[simp] theorem State.engineStamp_pausing (a : Nat) : (s.engineStamp a).2.pausing = s.pausing := rfl
@[simp] theorem State.send_rerouting (d c t b : Nat) (x : Sent) (bs : List Byte) : (s.send d c t b x bs).rerouting = s.rerouting := rfl
@[simp] theorem State.engineStamp_rerouting (a : Nat) : (s.engineStamp a).2.rerouting = s.rerouting := rfl
@[simp] theorem State.send_tiers (d c t b : Nat) (x : Sent) (bs : List Byte) : (s.send d c t b x bs).tiers = s.tiers := rfl
@[simp] theorem State.engineStamp_tiers (a : Nat) : (s.engineStamp a).2.tiers = s.tiers := rfl
@[simp] theorem State.send_skewDie (d c t b : Nat) (x : Sent) (bs : List Byte) : (s.send d c t b x bs).skewDie = s.skewDie := rfl
@[simp] theorem State.engineStamp_skewDie (a : Nat) : (s.engineStamp a).2.skewDie = s.skewDie := rfl
@[simp] theorem State.send_skewPort (d c t b : Nat) (x : Sent) (bs : List Byte) : (s.send d c t b x bs).skewPort = s.skewPort := rfl
@[simp] theorem State.engineStamp_skewPort (a : Nat) : (s.engineStamp a).2.skewPort = s.skewPort := rfl
@[simp] theorem State.send_monitors (d c t b : Nat) (x : Sent) (bs : List Byte) : (s.send d c t b x bs).monitors = s.monitors := rfl
@[simp] theorem State.engineStamp_monitors (a : Nat) : (s.engineStamp a).2.monitors = s.monitors := rfl
@[simp] theorem State.send_skew (d c t b : Nat) (x : Sent) (bs : List Byte) : (s.send d c t b x bs).skew = s.skew := rfl
@[simp] theorem State.engineStamp_skew (a : Nat) : (s.engineStamp a).2.skew = s.skew := rfl
@[simp] theorem State.send_image (d c t b : Nat) (x : Sent) (bs : List Byte) : (s.send d c t b x bs).image = s.image := rfl
@[simp] theorem State.engineStamp_image (a : Nat) : (s.engineStamp a).2.image = s.image := rfl
@[simp] theorem State.send_fwstate (d c t b : Nat) (x : Sent) (bs : List Byte) : (s.send d c t b x bs).fwstate = s.fwstate := rfl
@[simp] theorem State.engineStamp_fwstate (a : Nat) : (s.engineStamp a).2.fwstate = s.fwstate := rfl
@[simp] theorem State.send_throttled (d c t b : Nat) (x : Sent) (bs : List Byte) : (s.send d c t b x bs).throttled = s.throttled := rfl
@[simp] theorem State.engineStamp_throttled (a : Nat) : (s.engineStamp a).2.throttled = s.throttled := rfl
@[simp] theorem State.send_gated (d c t b : Nat) (x : Sent) (bs : List Byte) : (s.send d c t b x bs).gated = s.gated := rfl
@[simp] theorem State.engineStamp_gated (a : Nat) : (s.engineStamp a).2.gated = s.gated := rfl
@[simp] theorem State.send_hotSince (d c t b : Nat) (x : Sent) (bs : List Byte) : (s.send d c t b x bs).hotSince = s.hotSince := rfl
@[simp] theorem State.engineStamp_hotSince (a : Nat) : (s.engineStamp a).2.hotSince = s.hotSince := rfl
@[simp] theorem State.send_stopped (d c t b : Nat) (x : Sent) (bs : List Byte) : (s.send d c t b x bs).stopped = s.stopped := rfl
@[simp] theorem State.engineStamp_stopped (a : Nat) : (s.engineStamp a).2.stopped = s.stopped := rfl
@[simp] theorem State.send_channelErrors (d c t b : Nat) (x : Sent) (bs : List Byte) : (s.send d c t b x bs).channelErrors = s.channelErrors := rfl
@[simp] theorem State.engineStamp_channelErrors (a : Nat) : (s.engineStamp a).2.channelErrors = s.channelErrors := rfl
@[simp] theorem State.send_lostChannels (d c t b : Nat) (x : Sent) (bs : List Byte) : (s.send d c t b x bs).lostChannels = s.lostChannels := rfl
@[simp] theorem State.engineStamp_lostChannels (a : Nat) : (s.engineStamp a).2.lostChannels = s.lostChannels := rfl
@[simp] theorem State.send_lostLanes (d c t b : Nat) (x : Sent) (bs : List Byte) : (s.send d c t b x bs).lostLanes = s.lostLanes := rfl
@[simp] theorem State.engineStamp_lostLanes (a : Nat) : (s.engineStamp a).2.lostLanes = s.lostLanes := rfl
@[simp] theorem State.send_vectors (d c t b : Nat) (x : Sent) (bs : List Byte) : (s.send d c t b x bs).vectors = s.vectors := rfl
@[simp] theorem State.engineStamp_vectors (a : Nat) : (s.engineStamp a).2.vectors = s.vectors := rfl
@[simp] theorem State.send_agenda (d c t b : Nat) (x : Sent) (bs : List Byte) : (s.send d c t b x bs).agenda = s.agenda := rfl
@[simp] theorem State.engineStamp_agenda (a : Nat) : (s.engineStamp a).2.agenda = s.agenda := rfl
@[simp] theorem State.send_turn (d c t b : Nat) (x : Sent) (bs : List Byte) : (s.send d c t b x bs).turn = s.turn := rfl
@[simp] theorem State.engineStamp_turn (a : Nat) : (s.engineStamp a).2.turn = s.turn := rfl
@[simp] theorem State.send_cur (d c t b : Nat) (x : Sent) (bs : List Byte) : (s.send d c t b x bs).cur = s.cur := rfl
@[simp] theorem State.engineStamp_cur (a : Nat) : (s.engineStamp a).2.cur = s.cur := rfl
@[simp] theorem State.send_force (d c t b : Nat) (x : Sent) (bs : List Byte) : (s.send d c t b x bs).force = s.force := rfl
@[simp] theorem State.engineStamp_force (a : Nat) : (s.engineStamp a).2.force = s.force := rfl
@[simp] theorem State.engineStamp_nextId (a : Nat) : (s.engineStamp a).2.nextId = s.nextId := rfl
@[simp] theorem State.send_usableChannels (d c t b : Nat) (x : Sent) (bs : List Byte) : (s.send d c t b x bs).usableChannels = s.usableChannels := rfl
@[simp] theorem State.engineStamp_usableChannels (a : Nat) : (s.engineStamp a).2.usableChannels = s.usableChannels := rfl
@[simp] theorem State.send_hbmBytes (d c t b : Nat) (x : Sent) (bs : List Byte) : (s.send d c t b x bs).hbmBytes = s.hbmBytes := rfl
@[simp] theorem State.engineStamp_hbmBytes (a : Nat) : (s.engineStamp a).2.hbmBytes = s.hbmBytes := rfl
@[simp] theorem State.send_mbase (d c t b : Nat) (x : Sent) (bs : List Byte) : (s.send d c t b x bs).mbase = s.mbase := rfl
@[simp] theorem State.engineStamp_mbase (a : Nat) : (s.engineStamp a).2.mbase = s.mbase := rfl
@[simp] theorem State.send_nextId (d c t b : Nat) (x : Sent) (bs : List Byte) : (s.send d c t b x bs).nextId = s.nextId + 1 := rfl
@[simp] theorem State.engineStamp_fst (a : Nat) : (s.engineStamp a).1 = (s.engineClocks.read a 0).toNat := rfl

@[simp] theorem State.setGroup_groups (n : Nat) (x : Group) : (s.setGroup n x).groups = s.groups.insert n x := rfl
@[simp] theorem State.modifyGroup_groups (n : Nat) (x : Group → Group) : (s.modifyGroup n x).groups = s.groups.update n x := rfl
@[simp] theorem State.setTeam_teams (n : Nat) (x : Team) : (s.setTeam n x).teams = s.teams.insert n x := rfl
@[simp] theorem State.modifyTeam_teams (n : Nat) (x : Team → Team) : (s.modifyTeam n x).teams = s.teams.update n x := rfl
@[simp] theorem State.setLaunch_launches (n : Nat) (x : Launch) : (s.setLaunch n x).launches = s.launches.insert n x := rfl
@[simp] theorem State.modifyLaunch_launches (n : Nat) (x : Launch → Launch) : (s.modifyLaunch n x).launches = s.launches.update n x := rfl
@[simp] theorem State.setContext_contexts (n : Nat) (x : Context) : (s.setContext n x).contexts = s.contexts.insert n x := rfl
@[simp] theorem State.modifyContext_contexts (n : Nat) (x : Context → Context) : (s.modifyContext n x).contexts = s.contexts.update n x := rfl
@[simp] theorem State.setTenant_tenants (n : Nat) (x : Tenant) : (s.setTenant n x).tenants = s.tenants.insert n x := rfl
@[simp] theorem State.modifyTenant_tenants (n : Nat) (x : Tenant → Tenant) : (s.modifyTenant n x).tenants = s.tenants.update n x := rfl
@[simp] theorem State.setCore_cores (n : Nat) (x : Core) : (s.setCore n x).cores = s.cores.insert n x := rfl
@[simp] theorem State.modifyCore_cores (n : Nat) (x : Core → Core) : (s.modifyCore n x).cores = s.cores.update n x := rfl
@[simp] theorem State.modifyAccess_accesses (n : Nat) (x : Access → Access) : (s.modifyAccess n x).accesses = s.accesses.update n x := rfl
@[simp] theorem State.modifyEntry_entries (n : Nat) (x : Entry → Entry) : (s.modifyEntry n x).entries = s.entries.update n x := rfl
@[simp] theorem State.writeMem_mem (a : Nat) (b : List Byte) : (s.writeMem a b).mem = Memory.setBytes s.mem a b := rfl
@[simp] theorem State.writeMem_memPoison (a : Nat) (b : List Byte) : (s.writeMem a b).memPoison = clearPoison s.memPoison a b.length := rfl

end

section
variable (g : Group)

/-! Group.setV -/

@[simp] theorem Group.setV_launch (n l : Nat) (w : Word) : (g.setV n l w).launch = g.launch := rfl
@[simp] theorem Group.setV_team (n l : Nat) (w : Word) : (g.setV n l w).team = g.team := rfl
@[simp] theorem Group.setV_g (n l : Nat) (w : Word) : (g.setV n l w).g = g.g := rfl
@[simp] theorem Group.setV_status (n l : Nat) (w : Word) : (g.setV n l w).status = g.status := rfl
@[simp] theorem Group.setV_wait (n l : Nat) (w : Word) : (g.setV n l w).wait = g.wait := rfl
@[simp] theorem Group.setV_trap (n l : Nat) (w : Word) : (g.setV n l w).trap = g.trap := rfl
@[simp] theorem Group.setV_agent (n l : Nat) (w : Word) : (g.setV n l w).agent = g.agent := rfl
@[simp] theorem Group.setV_slot (n l : Nat) (w : Word) : (g.setV n l w).slot = g.slot := rfl
@[simp] theorem Group.setV_age (n l : Nat) (w : Word) : (g.setV n l w).age = g.age := rfl
@[simp] theorem Group.setV_s (n l : Nat) (w : Word) : (g.setV n l w).s = g.s := rfl
@[simp] theorem Group.setV_q (n l : Nat) (w : Word) : (g.setV n l w).q = g.q := rfl
@[simp] theorem Group.setV_x (n l : Nat) (w : Word) : (g.setV n l w).x = g.x := rfl
@[simp] theorem Group.setV_clause (n l : Nat) (w : Word) : (g.setV n l w).clause = g.clause := rfl
@[simp] theorem Group.setV_index (n l : Nat) (w : Word) : (g.setV n l w).index = g.index := rfl
@[simp] theorem Group.setV_header (n l : Nat) (w : Word) : (g.setV n l w).header = g.header := rfl
@[simp] theorem Group.setV_active (n l : Nat) (w : Word) : (g.setV n l w).active = g.active := rfl
@[simp] theorem Group.setV_exited (n l : Nat) (w : Word) : (g.setV n l w).exited = g.exited := rfl
@[simp] theorem Group.setV_stack (n l : Nat) (w : Word) : (g.setV n l w).stack = g.stack := rfl
@[simp] theorem Group.setV_d (n l : Nat) (w : Word) : (g.setV n l w).d = g.d := rfl
@[simp] theorem Group.setV_vPending (n l : Nat) (w : Word) : (g.setV n l w).vPending = g.vPending := rfl
@[simp] theorem Group.setV_sPending (n l : Nat) (w : Word) : (g.setV n l w).sPending = g.sPending := rfl
@[simp] theorem Group.setV_fmt (n l : Nat) (w : Word) : (g.setV n l w).fmt = g.fmt := rfl
@[simp] theorem Group.setV_gang (n l : Nat) (w : Word) : (g.setV n l w).gang = g.gang := rfl
@[simp] theorem Group.setV_maps (n l : Nat) (w : Word) : (g.setV n l w).maps = g.maps := rfl
@[simp] theorem Group.setV_handles (n l : Nat) (w : Word) : (g.setV n l w).handles = g.handles := rfl
@[simp] theorem Group.setV_plive (n l : Nat) (w : Word) : (g.setV n l w).plive = g.plive := rfl
@[simp] theorem Group.setV_fpstat (n l : Nat) (w : Word) : (g.setV n l w).fpstat = g.fpstat := rfl
@[simp] theorem Group.setV_acquired (n l : Nat) (w : Word) : (g.setV n l w).acquired = g.acquired := rfl
@[simp] theorem Group.setV_overflow (n l : Nat) (w : Word) : (g.setV n l w).overflow = g.overflow := rfl
@[simp] theorem Group.setV_rc (n l : Nat) (w : Word) : (g.setV n l w).rc = g.rc := rfl
@[simp] theorem Group.setV_ic (n l : Nat) (w : Word) : (g.setV n l w).ic = g.ic := rfl
@[simp] theorem Group.setV_latches (n l : Nat) (w : Word) : (g.setV n l w).latches = g.latches := rfl
@[simp] theorem Group.setV_barTeam (n l : Nat) (w : Word) : (g.setV n l w).barTeam = g.barTeam := rfl
@[simp] theorem Group.setV_barCluster (n l : Nat) (w : Word) : (g.setV n l w).barCluster = g.barCluster := rfl
@[simp] theorem Group.setV_barGrid (n l : Nat) (w : Word) : (g.setV n l w).barGrid = g.barGrid := rfl
@[simp] theorem Group.setV_copyOpen (n l : Nat) (w : Word) : (g.setV n l w).copyOpen = g.copyOpen := rfl
@[simp] theorem Group.setV_copyLast (n l : Nat) (w : Word) : (g.setV n l w).copyLast = g.copyLast := rfl
@[simp] theorem Group.setV_copyBatches (n l : Nat) (w : Word) : (g.setV n l w).copyBatches = g.copyBatches := rfl
@[simp] theorem Group.setV_mmOpen (n l : Nat) (w : Word) : (g.setV n l w).mmOpen = g.mmOpen := rfl
@[simp] theorem Group.setV_mmOpenFlags (n l : Nat) (w : Word) : (g.setV n l w).mmOpenFlags = g.mmOpenFlags := rfl
@[simp] theorem Group.setV_mmLast (n l : Nat) (w : Word) : (g.setV n l w).mmLast = g.mmLast := rfl
@[simp] theorem Group.setV_mmBatches (n l : Nat) (w : Word) : (g.setV n l w).mmBatches = g.mmBatches := rfl
@[simp] theorem Group.setV_kept (n l : Nat) (w : Word) : (g.setV n l w).kept = g.kept := rfl
@[simp] theorem Group.setV_sPoison (n l : Nat) (w : Word) : (g.setV n l w).sPoison = g.sPoison := rfl
@[simp] theorem Group.setV_heldFaults (n l : Nat) (w : Word) : (g.setV n l w).heldFaults = g.heldFaults := rfl
@[simp] theorem Group.setV_suppressed (n l : Nat) (w : Word) : (g.setV n l w).suppressed = g.suppressed := rfl
@[simp] theorem Group.setV_savedLive (n l : Nat) (w : Word) : (g.setV n l w).savedLive = g.savedLive := rfl
@[simp] theorem Group.setV_handlerWrote (n l : Nat) (w : Word) : (g.setV n l w).handlerWrote = g.handlerWrote := rfl
@[simp] theorem Group.setV_trapArea (n l : Nat) (w : Word) : (g.setV n l w).trapArea = g.trapArea := rfl
@[simp] theorem Group.setV_yielded (n l : Nat) (w : Word) : (g.setV n l w).yielded = g.yielded := rfl
@[simp] theorem Group.setV_owes (n l : Nat) (w : Word) : (g.setV n l w).owes = g.owes := rfl
@[simp] theorem Group.setV_taken (n l : Nat) (w : Word) : (g.setV n l w).taken = g.taken := rfl
@[simp] theorem Group.setV_addrNext (n l : Nat) (w : Word) : (g.setV n l w).addrNext = g.addrNext := rfl
@[simp] theorem Group.setV_entered (n l : Nat) (w : Word) : (g.setV n l w).entered = g.entered := rfl
@[simp] theorem Group.setV_gangOps (n l : Nat) (w : Word) : (g.setV n l w).gangOps = g.gangOps := rfl
@[simp] theorem Group.setV_haltAsked (n l : Nat) (w : Word) : (g.setV n l w).haltAsked = g.haltAsked := rfl
@[simp] theorem Group.setV_keptIC (n l : Nat) (w : Word) : (g.setV n l w).keptIC = g.keptIC := rfl
@[simp] theorem Group.setV_changed (n l : Nat) (w : Word) : (g.setV n l w).changed = g.changed := rfl
@[simp] theorem Group.setV_counted (n l : Nat) (w : Word) : (g.setV n l w).counted = g.counted := rfl
@[simp] theorem Group.setV_sound (n l : Nat) (w : Word) : (g.setV n l w).sound = g.sound := rfl

/-! Group.setS -/

@[simp] theorem Group.setS_launch (n : Nat) (w : Word) : (g.setS n w).launch = g.launch := rfl
@[simp] theorem Group.setS_team (n : Nat) (w : Word) : (g.setS n w).team = g.team := rfl
@[simp] theorem Group.setS_g (n : Nat) (w : Word) : (g.setS n w).g = g.g := rfl
@[simp] theorem Group.setS_status (n : Nat) (w : Word) : (g.setS n w).status = g.status := rfl
@[simp] theorem Group.setS_wait (n : Nat) (w : Word) : (g.setS n w).wait = g.wait := rfl
@[simp] theorem Group.setS_trap (n : Nat) (w : Word) : (g.setS n w).trap = g.trap := rfl
@[simp] theorem Group.setS_agent (n : Nat) (w : Word) : (g.setS n w).agent = g.agent := rfl
@[simp] theorem Group.setS_slot (n : Nat) (w : Word) : (g.setS n w).slot = g.slot := rfl
@[simp] theorem Group.setS_age (n : Nat) (w : Word) : (g.setS n w).age = g.age := rfl
@[simp] theorem Group.setS_v (n : Nat) (w : Word) : (g.setS n w).v = g.v := rfl
@[simp] theorem Group.setS_q (n : Nat) (w : Word) : (g.setS n w).q = g.q := rfl
@[simp] theorem Group.setS_x (n : Nat) (w : Word) : (g.setS n w).x = g.x := rfl
@[simp] theorem Group.setS_clause (n : Nat) (w : Word) : (g.setS n w).clause = g.clause := rfl
@[simp] theorem Group.setS_index (n : Nat) (w : Word) : (g.setS n w).index = g.index := rfl
@[simp] theorem Group.setS_header (n : Nat) (w : Word) : (g.setS n w).header = g.header := rfl
@[simp] theorem Group.setS_active (n : Nat) (w : Word) : (g.setS n w).active = g.active := rfl
@[simp] theorem Group.setS_exited (n : Nat) (w : Word) : (g.setS n w).exited = g.exited := rfl
@[simp] theorem Group.setS_stack (n : Nat) (w : Word) : (g.setS n w).stack = g.stack := rfl
@[simp] theorem Group.setS_d (n : Nat) (w : Word) : (g.setS n w).d = g.d := rfl
@[simp] theorem Group.setS_vPending (n : Nat) (w : Word) : (g.setS n w).vPending = g.vPending := rfl
@[simp] theorem Group.setS_sPending (n : Nat) (w : Word) : (g.setS n w).sPending = g.sPending := rfl
@[simp] theorem Group.setS_fmt (n : Nat) (w : Word) : (g.setS n w).fmt = g.fmt := rfl
@[simp] theorem Group.setS_gang (n : Nat) (w : Word) : (g.setS n w).gang = g.gang := rfl
@[simp] theorem Group.setS_maps (n : Nat) (w : Word) : (g.setS n w).maps = g.maps := rfl
@[simp] theorem Group.setS_handles (n : Nat) (w : Word) : (g.setS n w).handles = g.handles := rfl
@[simp] theorem Group.setS_plive (n : Nat) (w : Word) : (g.setS n w).plive = g.plive := rfl
@[simp] theorem Group.setS_fpstat (n : Nat) (w : Word) : (g.setS n w).fpstat = g.fpstat := rfl
@[simp] theorem Group.setS_acquired (n : Nat) (w : Word) : (g.setS n w).acquired = g.acquired := rfl
@[simp] theorem Group.setS_overflow (n : Nat) (w : Word) : (g.setS n w).overflow = g.overflow := rfl
@[simp] theorem Group.setS_rc (n : Nat) (w : Word) : (g.setS n w).rc = g.rc := rfl
@[simp] theorem Group.setS_ic (n : Nat) (w : Word) : (g.setS n w).ic = g.ic := rfl
@[simp] theorem Group.setS_latches (n : Nat) (w : Word) : (g.setS n w).latches = g.latches := rfl
@[simp] theorem Group.setS_barTeam (n : Nat) (w : Word) : (g.setS n w).barTeam = g.barTeam := rfl
@[simp] theorem Group.setS_barCluster (n : Nat) (w : Word) : (g.setS n w).barCluster = g.barCluster := rfl
@[simp] theorem Group.setS_barGrid (n : Nat) (w : Word) : (g.setS n w).barGrid = g.barGrid := rfl
@[simp] theorem Group.setS_copyOpen (n : Nat) (w : Word) : (g.setS n w).copyOpen = g.copyOpen := rfl
@[simp] theorem Group.setS_copyLast (n : Nat) (w : Word) : (g.setS n w).copyLast = g.copyLast := rfl
@[simp] theorem Group.setS_copyBatches (n : Nat) (w : Word) : (g.setS n w).copyBatches = g.copyBatches := rfl
@[simp] theorem Group.setS_mmOpen (n : Nat) (w : Word) : (g.setS n w).mmOpen = g.mmOpen := rfl
@[simp] theorem Group.setS_mmOpenFlags (n : Nat) (w : Word) : (g.setS n w).mmOpenFlags = g.mmOpenFlags := rfl
@[simp] theorem Group.setS_mmLast (n : Nat) (w : Word) : (g.setS n w).mmLast = g.mmLast := rfl
@[simp] theorem Group.setS_mmBatches (n : Nat) (w : Word) : (g.setS n w).mmBatches = g.mmBatches := rfl
@[simp] theorem Group.setS_kept (n : Nat) (w : Word) : (g.setS n w).kept = g.kept := rfl
@[simp] theorem Group.setS_vPoison (n : Nat) (w : Word) : (g.setS n w).vPoison = g.vPoison := rfl
@[simp] theorem Group.setS_heldFaults (n : Nat) (w : Word) : (g.setS n w).heldFaults = g.heldFaults := rfl
@[simp] theorem Group.setS_suppressed (n : Nat) (w : Word) : (g.setS n w).suppressed = g.suppressed := rfl
@[simp] theorem Group.setS_savedLive (n : Nat) (w : Word) : (g.setS n w).savedLive = g.savedLive := rfl
@[simp] theorem Group.setS_handlerWrote (n : Nat) (w : Word) : (g.setS n w).handlerWrote = g.handlerWrote := rfl
@[simp] theorem Group.setS_trapArea (n : Nat) (w : Word) : (g.setS n w).trapArea = g.trapArea := rfl
@[simp] theorem Group.setS_yielded (n : Nat) (w : Word) : (g.setS n w).yielded = g.yielded := rfl
@[simp] theorem Group.setS_owes (n : Nat) (w : Word) : (g.setS n w).owes = g.owes := rfl
@[simp] theorem Group.setS_taken (n : Nat) (w : Word) : (g.setS n w).taken = g.taken := rfl
@[simp] theorem Group.setS_addrNext (n : Nat) (w : Word) : (g.setS n w).addrNext = g.addrNext := rfl
@[simp] theorem Group.setS_entered (n : Nat) (w : Word) : (g.setS n w).entered = g.entered := rfl
@[simp] theorem Group.setS_gangOps (n : Nat) (w : Word) : (g.setS n w).gangOps = g.gangOps := rfl
@[simp] theorem Group.setS_haltAsked (n : Nat) (w : Word) : (g.setS n w).haltAsked = g.haltAsked := rfl
@[simp] theorem Group.setS_keptIC (n : Nat) (w : Word) : (g.setS n w).keptIC = g.keptIC := rfl
@[simp] theorem Group.setS_changed (n : Nat) (w : Word) : (g.setS n w).changed = g.changed := rfl
@[simp] theorem Group.setS_counted (n : Nat) (w : Word) : (g.setS n w).counted = g.counted := rfl
@[simp] theorem Group.setS_sound (n : Nat) (w : Word) : (g.setS n w).sound = g.sound := rfl

/-! Group.setX -/

@[simp] theorem Group.setX_launch (k l : Nat) (w : BitVec 16) : (g.setX k l w).launch = g.launch := rfl
@[simp] theorem Group.setX_team (k l : Nat) (w : BitVec 16) : (g.setX k l w).team = g.team := rfl
@[simp] theorem Group.setX_g (k l : Nat) (w : BitVec 16) : (g.setX k l w).g = g.g := rfl
@[simp] theorem Group.setX_status (k l : Nat) (w : BitVec 16) : (g.setX k l w).status = g.status := rfl
@[simp] theorem Group.setX_wait (k l : Nat) (w : BitVec 16) : (g.setX k l w).wait = g.wait := rfl
@[simp] theorem Group.setX_trap (k l : Nat) (w : BitVec 16) : (g.setX k l w).trap = g.trap := rfl
@[simp] theorem Group.setX_agent (k l : Nat) (w : BitVec 16) : (g.setX k l w).agent = g.agent := rfl
@[simp] theorem Group.setX_slot (k l : Nat) (w : BitVec 16) : (g.setX k l w).slot = g.slot := rfl
@[simp] theorem Group.setX_age (k l : Nat) (w : BitVec 16) : (g.setX k l w).age = g.age := rfl
@[simp] theorem Group.setX_v (k l : Nat) (w : BitVec 16) : (g.setX k l w).v = g.v := rfl
@[simp] theorem Group.setX_s (k l : Nat) (w : BitVec 16) : (g.setX k l w).s = g.s := rfl
@[simp] theorem Group.setX_q (k l : Nat) (w : BitVec 16) : (g.setX k l w).q = g.q := rfl
@[simp] theorem Group.setX_clause (k l : Nat) (w : BitVec 16) : (g.setX k l w).clause = g.clause := rfl
@[simp] theorem Group.setX_index (k l : Nat) (w : BitVec 16) : (g.setX k l w).index = g.index := rfl
@[simp] theorem Group.setX_header (k l : Nat) (w : BitVec 16) : (g.setX k l w).header = g.header := rfl
@[simp] theorem Group.setX_active (k l : Nat) (w : BitVec 16) : (g.setX k l w).active = g.active := rfl
@[simp] theorem Group.setX_exited (k l : Nat) (w : BitVec 16) : (g.setX k l w).exited = g.exited := rfl
@[simp] theorem Group.setX_stack (k l : Nat) (w : BitVec 16) : (g.setX k l w).stack = g.stack := rfl
@[simp] theorem Group.setX_d (k l : Nat) (w : BitVec 16) : (g.setX k l w).d = g.d := rfl
@[simp] theorem Group.setX_vPending (k l : Nat) (w : BitVec 16) : (g.setX k l w).vPending = g.vPending := rfl
@[simp] theorem Group.setX_sPending (k l : Nat) (w : BitVec 16) : (g.setX k l w).sPending = g.sPending := rfl
@[simp] theorem Group.setX_fmt (k l : Nat) (w : BitVec 16) : (g.setX k l w).fmt = g.fmt := rfl
@[simp] theorem Group.setX_gang (k l : Nat) (w : BitVec 16) : (g.setX k l w).gang = g.gang := rfl
@[simp] theorem Group.setX_maps (k l : Nat) (w : BitVec 16) : (g.setX k l w).maps = g.maps := rfl
@[simp] theorem Group.setX_handles (k l : Nat) (w : BitVec 16) : (g.setX k l w).handles = g.handles := rfl
@[simp] theorem Group.setX_plive (k l : Nat) (w : BitVec 16) : (g.setX k l w).plive = g.plive := rfl
@[simp] theorem Group.setX_fpstat (k l : Nat) (w : BitVec 16) : (g.setX k l w).fpstat = g.fpstat := rfl
@[simp] theorem Group.setX_acquired (k l : Nat) (w : BitVec 16) : (g.setX k l w).acquired = g.acquired := rfl
@[simp] theorem Group.setX_overflow (k l : Nat) (w : BitVec 16) : (g.setX k l w).overflow = g.overflow := rfl
@[simp] theorem Group.setX_rc (k l : Nat) (w : BitVec 16) : (g.setX k l w).rc = g.rc := rfl
@[simp] theorem Group.setX_ic (k l : Nat) (w : BitVec 16) : (g.setX k l w).ic = g.ic := rfl
@[simp] theorem Group.setX_latches (k l : Nat) (w : BitVec 16) : (g.setX k l w).latches = g.latches := rfl
@[simp] theorem Group.setX_barTeam (k l : Nat) (w : BitVec 16) : (g.setX k l w).barTeam = g.barTeam := rfl
@[simp] theorem Group.setX_barCluster (k l : Nat) (w : BitVec 16) : (g.setX k l w).barCluster = g.barCluster := rfl
@[simp] theorem Group.setX_barGrid (k l : Nat) (w : BitVec 16) : (g.setX k l w).barGrid = g.barGrid := rfl
@[simp] theorem Group.setX_copyOpen (k l : Nat) (w : BitVec 16) : (g.setX k l w).copyOpen = g.copyOpen := rfl
@[simp] theorem Group.setX_copyLast (k l : Nat) (w : BitVec 16) : (g.setX k l w).copyLast = g.copyLast := rfl
@[simp] theorem Group.setX_copyBatches (k l : Nat) (w : BitVec 16) : (g.setX k l w).copyBatches = g.copyBatches := rfl
@[simp] theorem Group.setX_mmOpen (k l : Nat) (w : BitVec 16) : (g.setX k l w).mmOpen = g.mmOpen := rfl
@[simp] theorem Group.setX_mmOpenFlags (k l : Nat) (w : BitVec 16) : (g.setX k l w).mmOpenFlags = g.mmOpenFlags := rfl
@[simp] theorem Group.setX_mmLast (k l : Nat) (w : BitVec 16) : (g.setX k l w).mmLast = g.mmLast := rfl
@[simp] theorem Group.setX_mmBatches (k l : Nat) (w : BitVec 16) : (g.setX k l w).mmBatches = g.mmBatches := rfl
@[simp] theorem Group.setX_kept (k l : Nat) (w : BitVec 16) : (g.setX k l w).kept = g.kept := rfl
@[simp] theorem Group.setX_vPoison (k l : Nat) (w : BitVec 16) : (g.setX k l w).vPoison = g.vPoison := rfl
@[simp] theorem Group.setX_sPoison (k l : Nat) (w : BitVec 16) : (g.setX k l w).sPoison = g.sPoison := rfl
@[simp] theorem Group.setX_heldFaults (k l : Nat) (w : BitVec 16) : (g.setX k l w).heldFaults = g.heldFaults := rfl
@[simp] theorem Group.setX_suppressed (k l : Nat) (w : BitVec 16) : (g.setX k l w).suppressed = g.suppressed := rfl
@[simp] theorem Group.setX_savedLive (k l : Nat) (w : BitVec 16) : (g.setX k l w).savedLive = g.savedLive := rfl
@[simp] theorem Group.setX_handlerWrote (k l : Nat) (w : BitVec 16) : (g.setX k l w).handlerWrote = g.handlerWrote := rfl
@[simp] theorem Group.setX_trapArea (k l : Nat) (w : BitVec 16) : (g.setX k l w).trapArea = g.trapArea := rfl
@[simp] theorem Group.setX_yielded (k l : Nat) (w : BitVec 16) : (g.setX k l w).yielded = g.yielded := rfl
@[simp] theorem Group.setX_owes (k l : Nat) (w : BitVec 16) : (g.setX k l w).owes = g.owes := rfl
@[simp] theorem Group.setX_taken (k l : Nat) (w : BitVec 16) : (g.setX k l w).taken = g.taken := rfl
@[simp] theorem Group.setX_addrNext (k l : Nat) (w : BitVec 16) : (g.setX k l w).addrNext = g.addrNext := rfl
@[simp] theorem Group.setX_entered (k l : Nat) (w : BitVec 16) : (g.setX k l w).entered = g.entered := rfl
@[simp] theorem Group.setX_gangOps (k l : Nat) (w : BitVec 16) : (g.setX k l w).gangOps = g.gangOps := rfl
@[simp] theorem Group.setX_haltAsked (k l : Nat) (w : BitVec 16) : (g.setX k l w).haltAsked = g.haltAsked := rfl
@[simp] theorem Group.setX_keptIC (k l : Nat) (w : BitVec 16) : (g.setX k l w).keptIC = g.keptIC := rfl
@[simp] theorem Group.setX_changed (k l : Nat) (w : BitVec 16) : (g.setX k l w).changed = g.changed := rfl
@[simp] theorem Group.setX_counted (k l : Nat) (w : BitVec 16) : (g.setX k l w).counted = g.counted := rfl
@[simp] theorem Group.setX_sound (k l : Nat) (w : BitVec 16) : (g.setX k l w).sound = g.sound := rfl

/-! Group.setPred -/

@[simp] theorem Group.setPred_launch (k l : Nat) (b : Bool) : (g.setPred k l b).launch = g.launch := rfl
@[simp] theorem Group.setPred_team (k l : Nat) (b : Bool) : (g.setPred k l b).team = g.team := rfl
@[simp] theorem Group.setPred_g (k l : Nat) (b : Bool) : (g.setPred k l b).g = g.g := rfl
@[simp] theorem Group.setPred_status (k l : Nat) (b : Bool) : (g.setPred k l b).status = g.status := rfl
@[simp] theorem Group.setPred_wait (k l : Nat) (b : Bool) : (g.setPred k l b).wait = g.wait := rfl
@[simp] theorem Group.setPred_trap (k l : Nat) (b : Bool) : (g.setPred k l b).trap = g.trap := rfl
@[simp] theorem Group.setPred_agent (k l : Nat) (b : Bool) : (g.setPred k l b).agent = g.agent := rfl
@[simp] theorem Group.setPred_slot (k l : Nat) (b : Bool) : (g.setPred k l b).slot = g.slot := rfl
@[simp] theorem Group.setPred_age (k l : Nat) (b : Bool) : (g.setPred k l b).age = g.age := rfl
@[simp] theorem Group.setPred_v (k l : Nat) (b : Bool) : (g.setPred k l b).v = g.v := rfl
@[simp] theorem Group.setPred_s (k l : Nat) (b : Bool) : (g.setPred k l b).s = g.s := rfl
@[simp] theorem Group.setPred_x (k l : Nat) (b : Bool) : (g.setPred k l b).x = g.x := rfl
@[simp] theorem Group.setPred_clause (k l : Nat) (b : Bool) : (g.setPred k l b).clause = g.clause := rfl
@[simp] theorem Group.setPred_index (k l : Nat) (b : Bool) : (g.setPred k l b).index = g.index := rfl
@[simp] theorem Group.setPred_header (k l : Nat) (b : Bool) : (g.setPred k l b).header = g.header := rfl
@[simp] theorem Group.setPred_active (k l : Nat) (b : Bool) : (g.setPred k l b).active = g.active := rfl
@[simp] theorem Group.setPred_exited (k l : Nat) (b : Bool) : (g.setPred k l b).exited = g.exited := rfl
@[simp] theorem Group.setPred_stack (k l : Nat) (b : Bool) : (g.setPred k l b).stack = g.stack := rfl
@[simp] theorem Group.setPred_d (k l : Nat) (b : Bool) : (g.setPred k l b).d = g.d := rfl
@[simp] theorem Group.setPred_vPending (k l : Nat) (b : Bool) : (g.setPred k l b).vPending = g.vPending := rfl
@[simp] theorem Group.setPred_sPending (k l : Nat) (b : Bool) : (g.setPred k l b).sPending = g.sPending := rfl
@[simp] theorem Group.setPred_fmt (k l : Nat) (b : Bool) : (g.setPred k l b).fmt = g.fmt := rfl
@[simp] theorem Group.setPred_gang (k l : Nat) (b : Bool) : (g.setPred k l b).gang = g.gang := rfl
@[simp] theorem Group.setPred_maps (k l : Nat) (b : Bool) : (g.setPred k l b).maps = g.maps := rfl
@[simp] theorem Group.setPred_handles (k l : Nat) (b : Bool) : (g.setPred k l b).handles = g.handles := rfl
@[simp] theorem Group.setPred_plive (k l : Nat) (b : Bool) : (g.setPred k l b).plive = g.plive := rfl
@[simp] theorem Group.setPred_fpstat (k l : Nat) (b : Bool) : (g.setPred k l b).fpstat = g.fpstat := rfl
@[simp] theorem Group.setPred_acquired (k l : Nat) (b : Bool) : (g.setPred k l b).acquired = g.acquired := rfl
@[simp] theorem Group.setPred_overflow (k l : Nat) (b : Bool) : (g.setPred k l b).overflow = g.overflow := rfl
@[simp] theorem Group.setPred_rc (k l : Nat) (b : Bool) : (g.setPred k l b).rc = g.rc := rfl
@[simp] theorem Group.setPred_ic (k l : Nat) (b : Bool) : (g.setPred k l b).ic = g.ic := rfl
@[simp] theorem Group.setPred_latches (k l : Nat) (b : Bool) : (g.setPred k l b).latches = g.latches := rfl
@[simp] theorem Group.setPred_barTeam (k l : Nat) (b : Bool) : (g.setPred k l b).barTeam = g.barTeam := rfl
@[simp] theorem Group.setPred_barCluster (k l : Nat) (b : Bool) : (g.setPred k l b).barCluster = g.barCluster := rfl
@[simp] theorem Group.setPred_barGrid (k l : Nat) (b : Bool) : (g.setPred k l b).barGrid = g.barGrid := rfl
@[simp] theorem Group.setPred_copyOpen (k l : Nat) (b : Bool) : (g.setPred k l b).copyOpen = g.copyOpen := rfl
@[simp] theorem Group.setPred_copyLast (k l : Nat) (b : Bool) : (g.setPred k l b).copyLast = g.copyLast := rfl
@[simp] theorem Group.setPred_copyBatches (k l : Nat) (b : Bool) : (g.setPred k l b).copyBatches = g.copyBatches := rfl
@[simp] theorem Group.setPred_mmOpen (k l : Nat) (b : Bool) : (g.setPred k l b).mmOpen = g.mmOpen := rfl
@[simp] theorem Group.setPred_mmOpenFlags (k l : Nat) (b : Bool) : (g.setPred k l b).mmOpenFlags = g.mmOpenFlags := rfl
@[simp] theorem Group.setPred_mmLast (k l : Nat) (b : Bool) : (g.setPred k l b).mmLast = g.mmLast := rfl
@[simp] theorem Group.setPred_mmBatches (k l : Nat) (b : Bool) : (g.setPred k l b).mmBatches = g.mmBatches := rfl
@[simp] theorem Group.setPred_kept (k l : Nat) (b : Bool) : (g.setPred k l b).kept = g.kept := rfl
@[simp] theorem Group.setPred_vPoison (k l : Nat) (b : Bool) : (g.setPred k l b).vPoison = g.vPoison := rfl
@[simp] theorem Group.setPred_sPoison (k l : Nat) (b : Bool) : (g.setPred k l b).sPoison = g.sPoison := rfl
@[simp] theorem Group.setPred_heldFaults (k l : Nat) (b : Bool) : (g.setPred k l b).heldFaults = g.heldFaults := rfl
@[simp] theorem Group.setPred_suppressed (k l : Nat) (b : Bool) : (g.setPred k l b).suppressed = g.suppressed := rfl
@[simp] theorem Group.setPred_savedLive (k l : Nat) (b : Bool) : (g.setPred k l b).savedLive = g.savedLive := rfl
@[simp] theorem Group.setPred_handlerWrote (k l : Nat) (b : Bool) : (g.setPred k l b).handlerWrote = g.handlerWrote := rfl
@[simp] theorem Group.setPred_trapArea (k l : Nat) (b : Bool) : (g.setPred k l b).trapArea = g.trapArea := rfl
@[simp] theorem Group.setPred_yielded (k l : Nat) (b : Bool) : (g.setPred k l b).yielded = g.yielded := rfl
@[simp] theorem Group.setPred_owes (k l : Nat) (b : Bool) : (g.setPred k l b).owes = g.owes := rfl
@[simp] theorem Group.setPred_taken (k l : Nat) (b : Bool) : (g.setPred k l b).taken = g.taken := rfl
@[simp] theorem Group.setPred_addrNext (k l : Nat) (b : Bool) : (g.setPred k l b).addrNext = g.addrNext := rfl
@[simp] theorem Group.setPred_entered (k l : Nat) (b : Bool) : (g.setPred k l b).entered = g.entered := rfl
@[simp] theorem Group.setPred_gangOps (k l : Nat) (b : Bool) : (g.setPred k l b).gangOps = g.gangOps := rfl
@[simp] theorem Group.setPred_haltAsked (k l : Nat) (b : Bool) : (g.setPred k l b).haltAsked = g.haltAsked := rfl
@[simp] theorem Group.setPred_keptIC (k l : Nat) (b : Bool) : (g.setPred k l b).keptIC = g.keptIC := rfl
@[simp] theorem Group.setPred_changed (k l : Nat) (b : Bool) : (g.setPred k l b).changed = g.changed := rfl
@[simp] theorem Group.setPred_counted (k l : Nat) (b : Bool) : (g.setPred k l b).counted = g.counted := rfl
@[simp] theorem Group.setPred_sound (k l : Nat) (b : Bool) : (g.setPred k l b).sound = g.sound := rfl

/-! Group.setCounter -/

@[simp] theorem Group.setCounter_launch (j n : Nat) : (g.setCounter j n).launch = g.launch := rfl
@[simp] theorem Group.setCounter_team (j n : Nat) : (g.setCounter j n).team = g.team := rfl
@[simp] theorem Group.setCounter_g (j n : Nat) : (g.setCounter j n).g = g.g := rfl
@[simp] theorem Group.setCounter_status (j n : Nat) : (g.setCounter j n).status = g.status := rfl
@[simp] theorem Group.setCounter_wait (j n : Nat) : (g.setCounter j n).wait = g.wait := rfl
@[simp] theorem Group.setCounter_trap (j n : Nat) : (g.setCounter j n).trap = g.trap := rfl
@[simp] theorem Group.setCounter_agent (j n : Nat) : (g.setCounter j n).agent = g.agent := rfl
@[simp] theorem Group.setCounter_slot (j n : Nat) : (g.setCounter j n).slot = g.slot := rfl
@[simp] theorem Group.setCounter_age (j n : Nat) : (g.setCounter j n).age = g.age := rfl
@[simp] theorem Group.setCounter_v (j n : Nat) : (g.setCounter j n).v = g.v := rfl
@[simp] theorem Group.setCounter_s (j n : Nat) : (g.setCounter j n).s = g.s := rfl
@[simp] theorem Group.setCounter_q (j n : Nat) : (g.setCounter j n).q = g.q := rfl
@[simp] theorem Group.setCounter_x (j n : Nat) : (g.setCounter j n).x = g.x := rfl
@[simp] theorem Group.setCounter_clause (j n : Nat) : (g.setCounter j n).clause = g.clause := rfl
@[simp] theorem Group.setCounter_index (j n : Nat) : (g.setCounter j n).index = g.index := rfl
@[simp] theorem Group.setCounter_header (j n : Nat) : (g.setCounter j n).header = g.header := rfl
@[simp] theorem Group.setCounter_active (j n : Nat) : (g.setCounter j n).active = g.active := rfl
@[simp] theorem Group.setCounter_exited (j n : Nat) : (g.setCounter j n).exited = g.exited := rfl
@[simp] theorem Group.setCounter_stack (j n : Nat) : (g.setCounter j n).stack = g.stack := rfl
@[simp] theorem Group.setCounter_vPending (j n : Nat) : (g.setCounter j n).vPending = g.vPending := rfl
@[simp] theorem Group.setCounter_sPending (j n : Nat) : (g.setCounter j n).sPending = g.sPending := rfl
@[simp] theorem Group.setCounter_fmt (j n : Nat) : (g.setCounter j n).fmt = g.fmt := rfl
@[simp] theorem Group.setCounter_gang (j n : Nat) : (g.setCounter j n).gang = g.gang := rfl
@[simp] theorem Group.setCounter_maps (j n : Nat) : (g.setCounter j n).maps = g.maps := rfl
@[simp] theorem Group.setCounter_handles (j n : Nat) : (g.setCounter j n).handles = g.handles := rfl
@[simp] theorem Group.setCounter_plive (j n : Nat) : (g.setCounter j n).plive = g.plive := rfl
@[simp] theorem Group.setCounter_fpstat (j n : Nat) : (g.setCounter j n).fpstat = g.fpstat := rfl
@[simp] theorem Group.setCounter_acquired (j n : Nat) : (g.setCounter j n).acquired = g.acquired := rfl
@[simp] theorem Group.setCounter_overflow (j n : Nat) : (g.setCounter j n).overflow = g.overflow := rfl
@[simp] theorem Group.setCounter_rc (j n : Nat) : (g.setCounter j n).rc = g.rc := rfl
@[simp] theorem Group.setCounter_ic (j n : Nat) : (g.setCounter j n).ic = g.ic := rfl
@[simp] theorem Group.setCounter_latches (j n : Nat) : (g.setCounter j n).latches = g.latches := rfl
@[simp] theorem Group.setCounter_barTeam (j n : Nat) : (g.setCounter j n).barTeam = g.barTeam := rfl
@[simp] theorem Group.setCounter_barCluster (j n : Nat) : (g.setCounter j n).barCluster = g.barCluster := rfl
@[simp] theorem Group.setCounter_barGrid (j n : Nat) : (g.setCounter j n).barGrid = g.barGrid := rfl
@[simp] theorem Group.setCounter_copyOpen (j n : Nat) : (g.setCounter j n).copyOpen = g.copyOpen := rfl
@[simp] theorem Group.setCounter_copyLast (j n : Nat) : (g.setCounter j n).copyLast = g.copyLast := rfl
@[simp] theorem Group.setCounter_copyBatches (j n : Nat) : (g.setCounter j n).copyBatches = g.copyBatches := rfl
@[simp] theorem Group.setCounter_mmOpen (j n : Nat) : (g.setCounter j n).mmOpen = g.mmOpen := rfl
@[simp] theorem Group.setCounter_mmOpenFlags (j n : Nat) : (g.setCounter j n).mmOpenFlags = g.mmOpenFlags := rfl
@[simp] theorem Group.setCounter_mmLast (j n : Nat) : (g.setCounter j n).mmLast = g.mmLast := rfl
@[simp] theorem Group.setCounter_mmBatches (j n : Nat) : (g.setCounter j n).mmBatches = g.mmBatches := rfl
@[simp] theorem Group.setCounter_kept (j n : Nat) : (g.setCounter j n).kept = g.kept := rfl
@[simp] theorem Group.setCounter_vPoison (j n : Nat) : (g.setCounter j n).vPoison = g.vPoison := rfl
@[simp] theorem Group.setCounter_sPoison (j n : Nat) : (g.setCounter j n).sPoison = g.sPoison := rfl
@[simp] theorem Group.setCounter_heldFaults (j n : Nat) : (g.setCounter j n).heldFaults = g.heldFaults := rfl
@[simp] theorem Group.setCounter_suppressed (j n : Nat) : (g.setCounter j n).suppressed = g.suppressed := rfl
@[simp] theorem Group.setCounter_savedLive (j n : Nat) : (g.setCounter j n).savedLive = g.savedLive := rfl
@[simp] theorem Group.setCounter_handlerWrote (j n : Nat) : (g.setCounter j n).handlerWrote = g.handlerWrote := rfl
@[simp] theorem Group.setCounter_trapArea (j n : Nat) : (g.setCounter j n).trapArea = g.trapArea := rfl
@[simp] theorem Group.setCounter_yielded (j n : Nat) : (g.setCounter j n).yielded = g.yielded := rfl
@[simp] theorem Group.setCounter_owes (j n : Nat) : (g.setCounter j n).owes = g.owes := rfl
@[simp] theorem Group.setCounter_taken (j n : Nat) : (g.setCounter j n).taken = g.taken := rfl
@[simp] theorem Group.setCounter_addrNext (j n : Nat) : (g.setCounter j n).addrNext = g.addrNext := rfl
@[simp] theorem Group.setCounter_entered (j n : Nat) : (g.setCounter j n).entered = g.entered := rfl
@[simp] theorem Group.setCounter_gangOps (j n : Nat) : (g.setCounter j n).gangOps = g.gangOps := rfl
@[simp] theorem Group.setCounter_haltAsked (j n : Nat) : (g.setCounter j n).haltAsked = g.haltAsked := rfl
@[simp] theorem Group.setCounter_keptIC (j n : Nat) : (g.setCounter j n).keptIC = g.keptIC := rfl
@[simp] theorem Group.setCounter_changed (j n : Nat) : (g.setCounter j n).changed = g.changed := rfl
@[simp] theorem Group.setCounter_counted (j n : Nat) : (g.setCounter j n).counted = g.counted := rfl
@[simp] theorem Group.setCounter_sound (j n : Nat) : (g.setCounter j n).sound = g.sound := rfl

/-! Group.setSPair -/

@[simp] theorem Group.setSPair_launch (n : Nat) (x : Word64) : (g.setSPair n x).launch = g.launch := rfl
@[simp] theorem Group.setSPair_team (n : Nat) (x : Word64) : (g.setSPair n x).team = g.team := rfl
@[simp] theorem Group.setSPair_g (n : Nat) (x : Word64) : (g.setSPair n x).g = g.g := rfl
@[simp] theorem Group.setSPair_status (n : Nat) (x : Word64) : (g.setSPair n x).status = g.status := rfl
@[simp] theorem Group.setSPair_wait (n : Nat) (x : Word64) : (g.setSPair n x).wait = g.wait := rfl
@[simp] theorem Group.setSPair_trap (n : Nat) (x : Word64) : (g.setSPair n x).trap = g.trap := rfl
@[simp] theorem Group.setSPair_agent (n : Nat) (x : Word64) : (g.setSPair n x).agent = g.agent := rfl
@[simp] theorem Group.setSPair_slot (n : Nat) (x : Word64) : (g.setSPair n x).slot = g.slot := rfl
@[simp] theorem Group.setSPair_age (n : Nat) (x : Word64) : (g.setSPair n x).age = g.age := rfl
@[simp] theorem Group.setSPair_v (n : Nat) (x : Word64) : (g.setSPair n x).v = g.v := rfl
@[simp] theorem Group.setSPair_q (n : Nat) (x : Word64) : (g.setSPair n x).q = g.q := rfl
@[simp] theorem Group.setSPair_x (n : Nat) (x : Word64) : (g.setSPair n x).x = g.x := rfl
@[simp] theorem Group.setSPair_clause (n : Nat) (x : Word64) : (g.setSPair n x).clause = g.clause := rfl
@[simp] theorem Group.setSPair_index (n : Nat) (x : Word64) : (g.setSPair n x).index = g.index := rfl
@[simp] theorem Group.setSPair_header (n : Nat) (x : Word64) : (g.setSPair n x).header = g.header := rfl
@[simp] theorem Group.setSPair_active (n : Nat) (x : Word64) : (g.setSPair n x).active = g.active := rfl
@[simp] theorem Group.setSPair_exited (n : Nat) (x : Word64) : (g.setSPair n x).exited = g.exited := rfl
@[simp] theorem Group.setSPair_stack (n : Nat) (x : Word64) : (g.setSPair n x).stack = g.stack := rfl
@[simp] theorem Group.setSPair_d (n : Nat) (x : Word64) : (g.setSPair n x).d = g.d := rfl
@[simp] theorem Group.setSPair_vPending (n : Nat) (x : Word64) : (g.setSPair n x).vPending = g.vPending := rfl
@[simp] theorem Group.setSPair_sPending (n : Nat) (x : Word64) : (g.setSPair n x).sPending = g.sPending := rfl
@[simp] theorem Group.setSPair_fmt (n : Nat) (x : Word64) : (g.setSPair n x).fmt = g.fmt := rfl
@[simp] theorem Group.setSPair_gang (n : Nat) (x : Word64) : (g.setSPair n x).gang = g.gang := rfl
@[simp] theorem Group.setSPair_maps (n : Nat) (x : Word64) : (g.setSPair n x).maps = g.maps := rfl
@[simp] theorem Group.setSPair_handles (n : Nat) (x : Word64) : (g.setSPair n x).handles = g.handles := rfl
@[simp] theorem Group.setSPair_plive (n : Nat) (x : Word64) : (g.setSPair n x).plive = g.plive := rfl
@[simp] theorem Group.setSPair_fpstat (n : Nat) (x : Word64) : (g.setSPair n x).fpstat = g.fpstat := rfl
@[simp] theorem Group.setSPair_acquired (n : Nat) (x : Word64) : (g.setSPair n x).acquired = g.acquired := rfl
@[simp] theorem Group.setSPair_overflow (n : Nat) (x : Word64) : (g.setSPair n x).overflow = g.overflow := rfl
@[simp] theorem Group.setSPair_rc (n : Nat) (x : Word64) : (g.setSPair n x).rc = g.rc := rfl
@[simp] theorem Group.setSPair_ic (n : Nat) (x : Word64) : (g.setSPair n x).ic = g.ic := rfl
@[simp] theorem Group.setSPair_latches (n : Nat) (x : Word64) : (g.setSPair n x).latches = g.latches := rfl
@[simp] theorem Group.setSPair_barTeam (n : Nat) (x : Word64) : (g.setSPair n x).barTeam = g.barTeam := rfl
@[simp] theorem Group.setSPair_barCluster (n : Nat) (x : Word64) : (g.setSPair n x).barCluster = g.barCluster := rfl
@[simp] theorem Group.setSPair_barGrid (n : Nat) (x : Word64) : (g.setSPair n x).barGrid = g.barGrid := rfl
@[simp] theorem Group.setSPair_copyOpen (n : Nat) (x : Word64) : (g.setSPair n x).copyOpen = g.copyOpen := rfl
@[simp] theorem Group.setSPair_copyLast (n : Nat) (x : Word64) : (g.setSPair n x).copyLast = g.copyLast := rfl
@[simp] theorem Group.setSPair_copyBatches (n : Nat) (x : Word64) : (g.setSPair n x).copyBatches = g.copyBatches := rfl
@[simp] theorem Group.setSPair_mmOpen (n : Nat) (x : Word64) : (g.setSPair n x).mmOpen = g.mmOpen := rfl
@[simp] theorem Group.setSPair_mmOpenFlags (n : Nat) (x : Word64) : (g.setSPair n x).mmOpenFlags = g.mmOpenFlags := rfl
@[simp] theorem Group.setSPair_mmLast (n : Nat) (x : Word64) : (g.setSPair n x).mmLast = g.mmLast := rfl
@[simp] theorem Group.setSPair_mmBatches (n : Nat) (x : Word64) : (g.setSPair n x).mmBatches = g.mmBatches := rfl
@[simp] theorem Group.setSPair_kept (n : Nat) (x : Word64) : (g.setSPair n x).kept = g.kept := rfl
@[simp] theorem Group.setSPair_vPoison (n : Nat) (x : Word64) : (g.setSPair n x).vPoison = g.vPoison := rfl
@[simp] theorem Group.setSPair_heldFaults (n : Nat) (x : Word64) : (g.setSPair n x).heldFaults = g.heldFaults := rfl
@[simp] theorem Group.setSPair_suppressed (n : Nat) (x : Word64) : (g.setSPair n x).suppressed = g.suppressed := rfl
@[simp] theorem Group.setSPair_savedLive (n : Nat) (x : Word64) : (g.setSPair n x).savedLive = g.savedLive := rfl
@[simp] theorem Group.setSPair_handlerWrote (n : Nat) (x : Word64) : (g.setSPair n x).handlerWrote = g.handlerWrote := rfl
@[simp] theorem Group.setSPair_trapArea (n : Nat) (x : Word64) : (g.setSPair n x).trapArea = g.trapArea := rfl
@[simp] theorem Group.setSPair_yielded (n : Nat) (x : Word64) : (g.setSPair n x).yielded = g.yielded := rfl
@[simp] theorem Group.setSPair_owes (n : Nat) (x : Word64) : (g.setSPair n x).owes = g.owes := rfl
@[simp] theorem Group.setSPair_taken (n : Nat) (x : Word64) : (g.setSPair n x).taken = g.taken := rfl
@[simp] theorem Group.setSPair_addrNext (n : Nat) (x : Word64) : (g.setSPair n x).addrNext = g.addrNext := rfl
@[simp] theorem Group.setSPair_entered (n : Nat) (x : Word64) : (g.setSPair n x).entered = g.entered := rfl
@[simp] theorem Group.setSPair_gangOps (n : Nat) (x : Word64) : (g.setSPair n x).gangOps = g.gangOps := rfl
@[simp] theorem Group.setSPair_haltAsked (n : Nat) (x : Word64) : (g.setSPair n x).haltAsked = g.haltAsked := rfl
@[simp] theorem Group.setSPair_keptIC (n : Nat) (x : Word64) : (g.setSPair n x).keptIC = g.keptIC := rfl
@[simp] theorem Group.setSPair_changed (n : Nat) (x : Word64) : (g.setSPair n x).changed = g.changed := rfl
@[simp] theorem Group.setSPair_counted (n : Nat) (x : Word64) : (g.setSPair n x).counted = g.counted := rfl
@[simp] theorem Group.setSPair_sound (n : Nat) (x : Word64) : (g.setSPair n x).sound = g.sound := rfl

/-! Group.pendV -/

@[simp] theorem Group.pendV_launch (n l : Nat) (b : Bool) : (g.pendV n l b).launch = g.launch := rfl
@[simp] theorem Group.pendV_team (n l : Nat) (b : Bool) : (g.pendV n l b).team = g.team := rfl
@[simp] theorem Group.pendV_g (n l : Nat) (b : Bool) : (g.pendV n l b).g = g.g := rfl
@[simp] theorem Group.pendV_status (n l : Nat) (b : Bool) : (g.pendV n l b).status = g.status := rfl
@[simp] theorem Group.pendV_wait (n l : Nat) (b : Bool) : (g.pendV n l b).wait = g.wait := rfl
@[simp] theorem Group.pendV_trap (n l : Nat) (b : Bool) : (g.pendV n l b).trap = g.trap := rfl
@[simp] theorem Group.pendV_agent (n l : Nat) (b : Bool) : (g.pendV n l b).agent = g.agent := rfl
@[simp] theorem Group.pendV_slot (n l : Nat) (b : Bool) : (g.pendV n l b).slot = g.slot := rfl
@[simp] theorem Group.pendV_age (n l : Nat) (b : Bool) : (g.pendV n l b).age = g.age := rfl
@[simp] theorem Group.pendV_v (n l : Nat) (b : Bool) : (g.pendV n l b).v = g.v := rfl
@[simp] theorem Group.pendV_s (n l : Nat) (b : Bool) : (g.pendV n l b).s = g.s := rfl
@[simp] theorem Group.pendV_q (n l : Nat) (b : Bool) : (g.pendV n l b).q = g.q := rfl
@[simp] theorem Group.pendV_x (n l : Nat) (b : Bool) : (g.pendV n l b).x = g.x := rfl
@[simp] theorem Group.pendV_clause (n l : Nat) (b : Bool) : (g.pendV n l b).clause = g.clause := rfl
@[simp] theorem Group.pendV_index (n l : Nat) (b : Bool) : (g.pendV n l b).index = g.index := rfl
@[simp] theorem Group.pendV_header (n l : Nat) (b : Bool) : (g.pendV n l b).header = g.header := rfl
@[simp] theorem Group.pendV_active (n l : Nat) (b : Bool) : (g.pendV n l b).active = g.active := rfl
@[simp] theorem Group.pendV_exited (n l : Nat) (b : Bool) : (g.pendV n l b).exited = g.exited := rfl
@[simp] theorem Group.pendV_stack (n l : Nat) (b : Bool) : (g.pendV n l b).stack = g.stack := rfl
@[simp] theorem Group.pendV_d (n l : Nat) (b : Bool) : (g.pendV n l b).d = g.d := rfl
@[simp] theorem Group.pendV_sPending (n l : Nat) (b : Bool) : (g.pendV n l b).sPending = g.sPending := rfl
@[simp] theorem Group.pendV_fmt (n l : Nat) (b : Bool) : (g.pendV n l b).fmt = g.fmt := rfl
@[simp] theorem Group.pendV_gang (n l : Nat) (b : Bool) : (g.pendV n l b).gang = g.gang := rfl
@[simp] theorem Group.pendV_maps (n l : Nat) (b : Bool) : (g.pendV n l b).maps = g.maps := rfl
@[simp] theorem Group.pendV_handles (n l : Nat) (b : Bool) : (g.pendV n l b).handles = g.handles := rfl
@[simp] theorem Group.pendV_plive (n l : Nat) (b : Bool) : (g.pendV n l b).plive = g.plive := rfl
@[simp] theorem Group.pendV_fpstat (n l : Nat) (b : Bool) : (g.pendV n l b).fpstat = g.fpstat := rfl
@[simp] theorem Group.pendV_acquired (n l : Nat) (b : Bool) : (g.pendV n l b).acquired = g.acquired := rfl
@[simp] theorem Group.pendV_overflow (n l : Nat) (b : Bool) : (g.pendV n l b).overflow = g.overflow := rfl
@[simp] theorem Group.pendV_rc (n l : Nat) (b : Bool) : (g.pendV n l b).rc = g.rc := rfl
@[simp] theorem Group.pendV_ic (n l : Nat) (b : Bool) : (g.pendV n l b).ic = g.ic := rfl
@[simp] theorem Group.pendV_latches (n l : Nat) (b : Bool) : (g.pendV n l b).latches = g.latches := rfl
@[simp] theorem Group.pendV_barTeam (n l : Nat) (b : Bool) : (g.pendV n l b).barTeam = g.barTeam := rfl
@[simp] theorem Group.pendV_barCluster (n l : Nat) (b : Bool) : (g.pendV n l b).barCluster = g.barCluster := rfl
@[simp] theorem Group.pendV_barGrid (n l : Nat) (b : Bool) : (g.pendV n l b).barGrid = g.barGrid := rfl
@[simp] theorem Group.pendV_copyOpen (n l : Nat) (b : Bool) : (g.pendV n l b).copyOpen = g.copyOpen := rfl
@[simp] theorem Group.pendV_copyLast (n l : Nat) (b : Bool) : (g.pendV n l b).copyLast = g.copyLast := rfl
@[simp] theorem Group.pendV_copyBatches (n l : Nat) (b : Bool) : (g.pendV n l b).copyBatches = g.copyBatches := rfl
@[simp] theorem Group.pendV_mmOpen (n l : Nat) (b : Bool) : (g.pendV n l b).mmOpen = g.mmOpen := rfl
@[simp] theorem Group.pendV_mmOpenFlags (n l : Nat) (b : Bool) : (g.pendV n l b).mmOpenFlags = g.mmOpenFlags := rfl
@[simp] theorem Group.pendV_mmLast (n l : Nat) (b : Bool) : (g.pendV n l b).mmLast = g.mmLast := rfl
@[simp] theorem Group.pendV_mmBatches (n l : Nat) (b : Bool) : (g.pendV n l b).mmBatches = g.mmBatches := rfl
@[simp] theorem Group.pendV_kept (n l : Nat) (b : Bool) : (g.pendV n l b).kept = g.kept := rfl
@[simp] theorem Group.pendV_vPoison (n l : Nat) (b : Bool) : (g.pendV n l b).vPoison = g.vPoison := rfl
@[simp] theorem Group.pendV_sPoison (n l : Nat) (b : Bool) : (g.pendV n l b).sPoison = g.sPoison := rfl
@[simp] theorem Group.pendV_heldFaults (n l : Nat) (b : Bool) : (g.pendV n l b).heldFaults = g.heldFaults := rfl
@[simp] theorem Group.pendV_suppressed (n l : Nat) (b : Bool) : (g.pendV n l b).suppressed = g.suppressed := rfl
@[simp] theorem Group.pendV_savedLive (n l : Nat) (b : Bool) : (g.pendV n l b).savedLive = g.savedLive := rfl
@[simp] theorem Group.pendV_handlerWrote (n l : Nat) (b : Bool) : (g.pendV n l b).handlerWrote = g.handlerWrote := rfl
@[simp] theorem Group.pendV_trapArea (n l : Nat) (b : Bool) : (g.pendV n l b).trapArea = g.trapArea := rfl
@[simp] theorem Group.pendV_yielded (n l : Nat) (b : Bool) : (g.pendV n l b).yielded = g.yielded := rfl
@[simp] theorem Group.pendV_owes (n l : Nat) (b : Bool) : (g.pendV n l b).owes = g.owes := rfl
@[simp] theorem Group.pendV_taken (n l : Nat) (b : Bool) : (g.pendV n l b).taken = g.taken := rfl
@[simp] theorem Group.pendV_addrNext (n l : Nat) (b : Bool) : (g.pendV n l b).addrNext = g.addrNext := rfl
@[simp] theorem Group.pendV_entered (n l : Nat) (b : Bool) : (g.pendV n l b).entered = g.entered := rfl
@[simp] theorem Group.pendV_gangOps (n l : Nat) (b : Bool) : (g.pendV n l b).gangOps = g.gangOps := rfl
@[simp] theorem Group.pendV_haltAsked (n l : Nat) (b : Bool) : (g.pendV n l b).haltAsked = g.haltAsked := rfl
@[simp] theorem Group.pendV_keptIC (n l : Nat) (b : Bool) : (g.pendV n l b).keptIC = g.keptIC := rfl
@[simp] theorem Group.pendV_changed (n l : Nat) (b : Bool) : (g.pendV n l b).changed = g.changed := rfl
@[simp] theorem Group.pendV_counted (n l : Nat) (b : Bool) : (g.pendV n l b).counted = g.counted := rfl
@[simp] theorem Group.pendV_sound (n l : Nat) (b : Bool) : (g.pendV n l b).sound = g.sound := rfl

/-! Group.pendS -/

@[simp] theorem Group.pendS_launch (n : Nat) (b : Bool) : (g.pendS n b).launch = g.launch := rfl
@[simp] theorem Group.pendS_team (n : Nat) (b : Bool) : (g.pendS n b).team = g.team := rfl
@[simp] theorem Group.pendS_g (n : Nat) (b : Bool) : (g.pendS n b).g = g.g := rfl
@[simp] theorem Group.pendS_status (n : Nat) (b : Bool) : (g.pendS n b).status = g.status := rfl
@[simp] theorem Group.pendS_wait (n : Nat) (b : Bool) : (g.pendS n b).wait = g.wait := rfl
@[simp] theorem Group.pendS_trap (n : Nat) (b : Bool) : (g.pendS n b).trap = g.trap := rfl
@[simp] theorem Group.pendS_agent (n : Nat) (b : Bool) : (g.pendS n b).agent = g.agent := rfl
@[simp] theorem Group.pendS_slot (n : Nat) (b : Bool) : (g.pendS n b).slot = g.slot := rfl
@[simp] theorem Group.pendS_age (n : Nat) (b : Bool) : (g.pendS n b).age = g.age := rfl
@[simp] theorem Group.pendS_v (n : Nat) (b : Bool) : (g.pendS n b).v = g.v := rfl
@[simp] theorem Group.pendS_s (n : Nat) (b : Bool) : (g.pendS n b).s = g.s := rfl
@[simp] theorem Group.pendS_q (n : Nat) (b : Bool) : (g.pendS n b).q = g.q := rfl
@[simp] theorem Group.pendS_x (n : Nat) (b : Bool) : (g.pendS n b).x = g.x := rfl
@[simp] theorem Group.pendS_clause (n : Nat) (b : Bool) : (g.pendS n b).clause = g.clause := rfl
@[simp] theorem Group.pendS_index (n : Nat) (b : Bool) : (g.pendS n b).index = g.index := rfl
@[simp] theorem Group.pendS_header (n : Nat) (b : Bool) : (g.pendS n b).header = g.header := rfl
@[simp] theorem Group.pendS_active (n : Nat) (b : Bool) : (g.pendS n b).active = g.active := rfl
@[simp] theorem Group.pendS_exited (n : Nat) (b : Bool) : (g.pendS n b).exited = g.exited := rfl
@[simp] theorem Group.pendS_stack (n : Nat) (b : Bool) : (g.pendS n b).stack = g.stack := rfl
@[simp] theorem Group.pendS_d (n : Nat) (b : Bool) : (g.pendS n b).d = g.d := rfl
@[simp] theorem Group.pendS_vPending (n : Nat) (b : Bool) : (g.pendS n b).vPending = g.vPending := rfl
@[simp] theorem Group.pendS_fmt (n : Nat) (b : Bool) : (g.pendS n b).fmt = g.fmt := rfl
@[simp] theorem Group.pendS_gang (n : Nat) (b : Bool) : (g.pendS n b).gang = g.gang := rfl
@[simp] theorem Group.pendS_maps (n : Nat) (b : Bool) : (g.pendS n b).maps = g.maps := rfl
@[simp] theorem Group.pendS_handles (n : Nat) (b : Bool) : (g.pendS n b).handles = g.handles := rfl
@[simp] theorem Group.pendS_plive (n : Nat) (b : Bool) : (g.pendS n b).plive = g.plive := rfl
@[simp] theorem Group.pendS_fpstat (n : Nat) (b : Bool) : (g.pendS n b).fpstat = g.fpstat := rfl
@[simp] theorem Group.pendS_acquired (n : Nat) (b : Bool) : (g.pendS n b).acquired = g.acquired := rfl
@[simp] theorem Group.pendS_overflow (n : Nat) (b : Bool) : (g.pendS n b).overflow = g.overflow := rfl
@[simp] theorem Group.pendS_rc (n : Nat) (b : Bool) : (g.pendS n b).rc = g.rc := rfl
@[simp] theorem Group.pendS_ic (n : Nat) (b : Bool) : (g.pendS n b).ic = g.ic := rfl
@[simp] theorem Group.pendS_latches (n : Nat) (b : Bool) : (g.pendS n b).latches = g.latches := rfl
@[simp] theorem Group.pendS_barTeam (n : Nat) (b : Bool) : (g.pendS n b).barTeam = g.barTeam := rfl
@[simp] theorem Group.pendS_barCluster (n : Nat) (b : Bool) : (g.pendS n b).barCluster = g.barCluster := rfl
@[simp] theorem Group.pendS_barGrid (n : Nat) (b : Bool) : (g.pendS n b).barGrid = g.barGrid := rfl
@[simp] theorem Group.pendS_copyOpen (n : Nat) (b : Bool) : (g.pendS n b).copyOpen = g.copyOpen := rfl
@[simp] theorem Group.pendS_copyLast (n : Nat) (b : Bool) : (g.pendS n b).copyLast = g.copyLast := rfl
@[simp] theorem Group.pendS_copyBatches (n : Nat) (b : Bool) : (g.pendS n b).copyBatches = g.copyBatches := rfl
@[simp] theorem Group.pendS_mmOpen (n : Nat) (b : Bool) : (g.pendS n b).mmOpen = g.mmOpen := rfl
@[simp] theorem Group.pendS_mmOpenFlags (n : Nat) (b : Bool) : (g.pendS n b).mmOpenFlags = g.mmOpenFlags := rfl
@[simp] theorem Group.pendS_mmLast (n : Nat) (b : Bool) : (g.pendS n b).mmLast = g.mmLast := rfl
@[simp] theorem Group.pendS_mmBatches (n : Nat) (b : Bool) : (g.pendS n b).mmBatches = g.mmBatches := rfl
@[simp] theorem Group.pendS_kept (n : Nat) (b : Bool) : (g.pendS n b).kept = g.kept := rfl
@[simp] theorem Group.pendS_vPoison (n : Nat) (b : Bool) : (g.pendS n b).vPoison = g.vPoison := rfl
@[simp] theorem Group.pendS_sPoison (n : Nat) (b : Bool) : (g.pendS n b).sPoison = g.sPoison := rfl
@[simp] theorem Group.pendS_heldFaults (n : Nat) (b : Bool) : (g.pendS n b).heldFaults = g.heldFaults := rfl
@[simp] theorem Group.pendS_suppressed (n : Nat) (b : Bool) : (g.pendS n b).suppressed = g.suppressed := rfl
@[simp] theorem Group.pendS_savedLive (n : Nat) (b : Bool) : (g.pendS n b).savedLive = g.savedLive := rfl
@[simp] theorem Group.pendS_handlerWrote (n : Nat) (b : Bool) : (g.pendS n b).handlerWrote = g.handlerWrote := rfl
@[simp] theorem Group.pendS_trapArea (n : Nat) (b : Bool) : (g.pendS n b).trapArea = g.trapArea := rfl
@[simp] theorem Group.pendS_yielded (n : Nat) (b : Bool) : (g.pendS n b).yielded = g.yielded := rfl
@[simp] theorem Group.pendS_owes (n : Nat) (b : Bool) : (g.pendS n b).owes = g.owes := rfl
@[simp] theorem Group.pendS_taken (n : Nat) (b : Bool) : (g.pendS n b).taken = g.taken := rfl
@[simp] theorem Group.pendS_addrNext (n : Nat) (b : Bool) : (g.pendS n b).addrNext = g.addrNext := rfl
@[simp] theorem Group.pendS_entered (n : Nat) (b : Bool) : (g.pendS n b).entered = g.entered := rfl
@[simp] theorem Group.pendS_gangOps (n : Nat) (b : Bool) : (g.pendS n b).gangOps = g.gangOps := rfl
@[simp] theorem Group.pendS_haltAsked (n : Nat) (b : Bool) : (g.pendS n b).haltAsked = g.haltAsked := rfl
@[simp] theorem Group.pendS_keptIC (n : Nat) (b : Bool) : (g.pendS n b).keptIC = g.keptIC := rfl
@[simp] theorem Group.pendS_changed (n : Nat) (b : Bool) : (g.pendS n b).changed = g.changed := rfl
@[simp] theorem Group.pendS_counted (n : Nat) (b : Bool) : (g.pendS n b).counted = g.counted := rfl
@[simp] theorem Group.pendS_sound (n : Nat) (b : Bool) : (g.pendS n b).sound = g.sound := rfl

/-! Group.orFpstat -/

@[simp] theorem Group.orFpstat_launch (f : Flags) : (g.orFpstat f).launch = g.launch := rfl
@[simp] theorem Group.orFpstat_team (f : Flags) : (g.orFpstat f).team = g.team := rfl
@[simp] theorem Group.orFpstat_g (f : Flags) : (g.orFpstat f).g = g.g := rfl
@[simp] theorem Group.orFpstat_status (f : Flags) : (g.orFpstat f).status = g.status := rfl
@[simp] theorem Group.orFpstat_wait (f : Flags) : (g.orFpstat f).wait = g.wait := rfl
@[simp] theorem Group.orFpstat_trap (f : Flags) : (g.orFpstat f).trap = g.trap := rfl
@[simp] theorem Group.orFpstat_agent (f : Flags) : (g.orFpstat f).agent = g.agent := rfl
@[simp] theorem Group.orFpstat_slot (f : Flags) : (g.orFpstat f).slot = g.slot := rfl
@[simp] theorem Group.orFpstat_age (f : Flags) : (g.orFpstat f).age = g.age := rfl
@[simp] theorem Group.orFpstat_v (f : Flags) : (g.orFpstat f).v = g.v := rfl
@[simp] theorem Group.orFpstat_s (f : Flags) : (g.orFpstat f).s = g.s := rfl
@[simp] theorem Group.orFpstat_q (f : Flags) : (g.orFpstat f).q = g.q := rfl
@[simp] theorem Group.orFpstat_x (f : Flags) : (g.orFpstat f).x = g.x := rfl
@[simp] theorem Group.orFpstat_clause (f : Flags) : (g.orFpstat f).clause = g.clause := rfl
@[simp] theorem Group.orFpstat_index (f : Flags) : (g.orFpstat f).index = g.index := rfl
@[simp] theorem Group.orFpstat_header (f : Flags) : (g.orFpstat f).header = g.header := rfl
@[simp] theorem Group.orFpstat_active (f : Flags) : (g.orFpstat f).active = g.active := rfl
@[simp] theorem Group.orFpstat_exited (f : Flags) : (g.orFpstat f).exited = g.exited := rfl
@[simp] theorem Group.orFpstat_stack (f : Flags) : (g.orFpstat f).stack = g.stack := rfl
@[simp] theorem Group.orFpstat_d (f : Flags) : (g.orFpstat f).d = g.d := rfl
@[simp] theorem Group.orFpstat_vPending (f : Flags) : (g.orFpstat f).vPending = g.vPending := rfl
@[simp] theorem Group.orFpstat_sPending (f : Flags) : (g.orFpstat f).sPending = g.sPending := rfl
@[simp] theorem Group.orFpstat_fmt (f : Flags) : (g.orFpstat f).fmt = g.fmt := rfl
@[simp] theorem Group.orFpstat_gang (f : Flags) : (g.orFpstat f).gang = g.gang := rfl
@[simp] theorem Group.orFpstat_maps (f : Flags) : (g.orFpstat f).maps = g.maps := rfl
@[simp] theorem Group.orFpstat_handles (f : Flags) : (g.orFpstat f).handles = g.handles := rfl
@[simp] theorem Group.orFpstat_plive (f : Flags) : (g.orFpstat f).plive = g.plive := rfl
@[simp] theorem Group.orFpstat_acquired (f : Flags) : (g.orFpstat f).acquired = g.acquired := rfl
@[simp] theorem Group.orFpstat_overflow (f : Flags) : (g.orFpstat f).overflow = g.overflow := rfl
@[simp] theorem Group.orFpstat_rc (f : Flags) : (g.orFpstat f).rc = g.rc := rfl
@[simp] theorem Group.orFpstat_ic (f : Flags) : (g.orFpstat f).ic = g.ic := rfl
@[simp] theorem Group.orFpstat_latches (f : Flags) : (g.orFpstat f).latches = g.latches := rfl
@[simp] theorem Group.orFpstat_barTeam (f : Flags) : (g.orFpstat f).barTeam = g.barTeam := rfl
@[simp] theorem Group.orFpstat_barCluster (f : Flags) : (g.orFpstat f).barCluster = g.barCluster := rfl
@[simp] theorem Group.orFpstat_barGrid (f : Flags) : (g.orFpstat f).barGrid = g.barGrid := rfl
@[simp] theorem Group.orFpstat_copyOpen (f : Flags) : (g.orFpstat f).copyOpen = g.copyOpen := rfl
@[simp] theorem Group.orFpstat_copyLast (f : Flags) : (g.orFpstat f).copyLast = g.copyLast := rfl
@[simp] theorem Group.orFpstat_copyBatches (f : Flags) : (g.orFpstat f).copyBatches = g.copyBatches := rfl
@[simp] theorem Group.orFpstat_mmOpen (f : Flags) : (g.orFpstat f).mmOpen = g.mmOpen := rfl
@[simp] theorem Group.orFpstat_mmOpenFlags (f : Flags) : (g.orFpstat f).mmOpenFlags = g.mmOpenFlags := rfl
@[simp] theorem Group.orFpstat_mmLast (f : Flags) : (g.orFpstat f).mmLast = g.mmLast := rfl
@[simp] theorem Group.orFpstat_mmBatches (f : Flags) : (g.orFpstat f).mmBatches = g.mmBatches := rfl
@[simp] theorem Group.orFpstat_kept (f : Flags) : (g.orFpstat f).kept = g.kept := rfl
@[simp] theorem Group.orFpstat_vPoison (f : Flags) : (g.orFpstat f).vPoison = g.vPoison := rfl
@[simp] theorem Group.orFpstat_sPoison (f : Flags) : (g.orFpstat f).sPoison = g.sPoison := rfl
@[simp] theorem Group.orFpstat_heldFaults (f : Flags) : (g.orFpstat f).heldFaults = g.heldFaults := rfl
@[simp] theorem Group.orFpstat_suppressed (f : Flags) : (g.orFpstat f).suppressed = g.suppressed := rfl
@[simp] theorem Group.orFpstat_savedLive (f : Flags) : (g.orFpstat f).savedLive = g.savedLive := rfl
@[simp] theorem Group.orFpstat_handlerWrote (f : Flags) : (g.orFpstat f).handlerWrote = g.handlerWrote := rfl
@[simp] theorem Group.orFpstat_trapArea (f : Flags) : (g.orFpstat f).trapArea = g.trapArea := rfl
@[simp] theorem Group.orFpstat_yielded (f : Flags) : (g.orFpstat f).yielded = g.yielded := rfl
@[simp] theorem Group.orFpstat_owes (f : Flags) : (g.orFpstat f).owes = g.owes := rfl
@[simp] theorem Group.orFpstat_taken (f : Flags) : (g.orFpstat f).taken = g.taken := rfl
@[simp] theorem Group.orFpstat_addrNext (f : Flags) : (g.orFpstat f).addrNext = g.addrNext := rfl
@[simp] theorem Group.orFpstat_entered (f : Flags) : (g.orFpstat f).entered = g.entered := rfl
@[simp] theorem Group.orFpstat_gangOps (f : Flags) : (g.orFpstat f).gangOps = g.gangOps := rfl
@[simp] theorem Group.orFpstat_haltAsked (f : Flags) : (g.orFpstat f).haltAsked = g.haltAsked := rfl
@[simp] theorem Group.orFpstat_keptIC (f : Flags) : (g.orFpstat f).keptIC = g.keptIC := rfl
@[simp] theorem Group.orFpstat_changed (f : Flags) : (g.orFpstat f).changed = g.changed := rfl
@[simp] theorem Group.orFpstat_counted (f : Flags) : (g.orFpstat f).counted = g.counted := rfl
@[simp] theorem Group.orFpstat_sound (f : Flags) : (g.orFpstat f).sound = g.sound := rfl

@[simp] theorem Group.orFpstat_fpstat (f : Flags) : (g.orFpstat f).fpstat = orFlags g.fpstat f := rfl

end

section
variable (t : Team)

/-! setTeamBytes -/

@[simp] theorem setTeamBytes_launch (a : Nat) (b : List Byte) : (setTeamBytes t a b).launch = t.launch := rfl
@[simp] theorem setTeamBytes_index (a : Nat) (b : List Byte) : (setTeamBytes t a b).index = t.index := rfl
@[simp] theorem setTeamBytes_groups (a : Nat) (b : List Byte) : (setTeamBytes t a b).groups = t.groups := rfl
@[simp] theorem setTeamBytes_core (a : Nat) (b : List Byte) : (setTeamBytes t a b).core = t.core := rfl
@[simp] theorem setTeamBytes_status (a : Nat) (b : List Byte) : (setTeamBytes t a b).status = t.status := rfl
@[simp] theorem setTeamBytes_marks (a : Nat) (b : List Byte) : (setTeamBytes t a b).marks = t.marks := rfl
@[simp] theorem setTeamBytes_tiles (a : Nat) (b : List Byte) : (setTeamBytes t a b).tiles = t.tiles := rfl
@[simp] theorem setTeamBytes_tilePoison (a : Nat) (b : List Byte) : (setTeamBytes t a b).tilePoison = t.tilePoison := rfl
@[simp] theorem setTeamBytes_writers (a : Nat) (b : List Byte) : (setTeamBytes t a b).writers = t.writers := rfl
@[simp] theorem setTeamBytes_tileReads (a : Nat) (b : List Byte) : (setTeamBytes t a b).tileReads = t.tileReads := rfl
@[simp] theorem setTeamBytes_slots (a : Nat) (b : List Byte) : (setTeamBytes t a b).slots = t.slots := rfl
@[simp] theorem setTeamBytes_sets (a : Nat) (b : List Byte) : (setTeamBytes t a b).sets = t.sets := rfl
@[simp] theorem setTeamBytes_barPhase (a : Nat) (b : List Byte) : (setTeamBytes t a b).barPhase = t.barPhase := rfl
@[simp] theorem setTeamBytes_barMax (a : Nat) (b : List Byte) : (setTeamBytes t a b).barMax = t.barMax := rfl
@[simp] theorem setTeamBytes_reds (a : Nat) (b : List Byte) : (setTeamBytes t a b).reds = t.reds := rfl
@[simp] theorem setTeamBytes_hzs (a : Nat) (b : List Byte) : (setTeamBytes t a b).hzs = t.hzs := rfl
@[simp] theorem setTeamBytes_lostEntries (a : Nat) (b : List Byte) : (setTeamBytes t a b).lostEntries = t.lostEntries := rfl
@[simp] theorem setTeamBytes_drained (a : Nat) (b : List Byte) : (setTeamBytes t a b).drained = t.drained := rfl
@[simp] theorem setTeamBytes_pinned (a : Nat) (b : List Byte) : (setTeamBytes t a b).pinned = t.pinned := rfl
@[simp] theorem setTeamBytes_killed (a : Nat) (b : List Byte) : (setTeamBytes t a b).killed = t.killed := rfl
@[simp] theorem setTeamBytes_regBlocks (a : Nat) (b : List Byte) : (setTeamBytes t a b).regBlocks = t.regBlocks := rfl
@[simp] theorem setTeamBytes_memBlocks (a : Nat) (b : List Byte) : (setTeamBytes t a b).memBlocks = t.memBlocks := rfl
@[simp] theorem setTeamBytes_tileBlocks (a : Nat) (b : List Byte) : (setTeamBytes t a b).tileBlocks = t.tileBlocks := rfl
@[simp] theorem setTeamBytes_yieldFor (a : Nat) (b : List Byte) : (setTeamBytes t a b).yieldFor = t.yieldFor := rfl
@[simp] theorem setTeamBytes_blockedSlices (a : Nat) (b : List Byte) : (setTeamBytes t a b).blockedSlices = t.blockedSlices := rfl
@[simp] theorem setTeamBytes_woken (a : Nat) (b : List Byte) : (setTeamBytes t a b).woken = t.woken := rfl
@[simp] theorem setTeamBytes_agents (a : Nat) (b : List Byte) : (setTeamBytes t a b).agents = t.agents := rfl

/-! setTileWord -/

@[simp] theorem setTileWord_launch (k e : Nat) (w : Word) : (setTileWord t k e w).launch = t.launch := rfl
@[simp] theorem setTileWord_index (k e : Nat) (w : Word) : (setTileWord t k e w).index = t.index := rfl
@[simp] theorem setTileWord_groups (k e : Nat) (w : Word) : (setTileWord t k e w).groups = t.groups := rfl
@[simp] theorem setTileWord_core (k e : Nat) (w : Word) : (setTileWord t k e w).core = t.core := rfl
@[simp] theorem setTileWord_status (k e : Nat) (w : Word) : (setTileWord t k e w).status = t.status := rfl
@[simp] theorem setTileWord_mem (k e : Nat) (w : Word) : (setTileWord t k e w).mem = t.mem := rfl
@[simp] theorem setTileWord_memPoison (k e : Nat) (w : Word) : (setTileWord t k e w).memPoison = t.memPoison := rfl
@[simp] theorem setTileWord_marks (k e : Nat) (w : Word) : (setTileWord t k e w).marks = t.marks := rfl
@[simp] theorem setTileWord_writers (k e : Nat) (w : Word) : (setTileWord t k e w).writers = t.writers := rfl
@[simp] theorem setTileWord_tileReads (k e : Nat) (w : Word) : (setTileWord t k e w).tileReads = t.tileReads := rfl
@[simp] theorem setTileWord_slots (k e : Nat) (w : Word) : (setTileWord t k e w).slots = t.slots := rfl
@[simp] theorem setTileWord_sets (k e : Nat) (w : Word) : (setTileWord t k e w).sets = t.sets := rfl
@[simp] theorem setTileWord_barPhase (k e : Nat) (w : Word) : (setTileWord t k e w).barPhase = t.barPhase := rfl
@[simp] theorem setTileWord_barMax (k e : Nat) (w : Word) : (setTileWord t k e w).barMax = t.barMax := rfl
@[simp] theorem setTileWord_reds (k e : Nat) (w : Word) : (setTileWord t k e w).reds = t.reds := rfl
@[simp] theorem setTileWord_hzs (k e : Nat) (w : Word) : (setTileWord t k e w).hzs = t.hzs := rfl
@[simp] theorem setTileWord_lostEntries (k e : Nat) (w : Word) : (setTileWord t k e w).lostEntries = t.lostEntries := rfl
@[simp] theorem setTileWord_drained (k e : Nat) (w : Word) : (setTileWord t k e w).drained = t.drained := rfl
@[simp] theorem setTileWord_pinned (k e : Nat) (w : Word) : (setTileWord t k e w).pinned = t.pinned := rfl
@[simp] theorem setTileWord_killed (k e : Nat) (w : Word) : (setTileWord t k e w).killed = t.killed := rfl
@[simp] theorem setTileWord_regBlocks (k e : Nat) (w : Word) : (setTileWord t k e w).regBlocks = t.regBlocks := rfl
@[simp] theorem setTileWord_memBlocks (k e : Nat) (w : Word) : (setTileWord t k e w).memBlocks = t.memBlocks := rfl
@[simp] theorem setTileWord_tileBlocks (k e : Nat) (w : Word) : (setTileWord t k e w).tileBlocks = t.tileBlocks := rfl
@[simp] theorem setTileWord_yieldFor (k e : Nat) (w : Word) : (setTileWord t k e w).yieldFor = t.yieldFor := rfl
@[simp] theorem setTileWord_blockedSlices (k e : Nat) (w : Word) : (setTileWord t k e w).blockedSlices = t.blockedSlices := rfl
@[simp] theorem setTileWord_woken (k e : Nat) (w : Word) : (setTileWord t k e w).woken = t.woken := rfl
@[simp] theorem setTileWord_agents (k e : Nat) (w : Word) : (setTileWord t k e w).agents = t.agents := rfl

end

end Sys2Proof.Machine
end

