-- ==== Sys2Proof/Laws/Tables.lean ====
section
/-!
SUPPORT. What the table operations of Machine/Maps.lean do: a read after a write, the other keys, and the sorted and
canonical forms.
-/

namespace Sys2Proof.Table

variable {α : Type}

@[simp] theorem get?_nil (k : Nat) : get? ([] : Table α) k = none := rfl

theorem get?_cons (j k : Nat) (a : α) (t : Table α) : get? ((j, a) :: t) k = if j = k then some a else get? t k := rfl

/-- What has been listed under a key is read there. -/
@[simp] theorem get?_insert_same (t : Table α) (k : Nat) (a : α) : (t.insert k a).get? k = some a := by
  induction t with
  | nil => simp [insert, get?]
  | cons p t ih =>
    obtain ⟨j, b⟩ := p
    simp only [insert]
    split
    · simp [get?]
    · split
      · simp [get?]
      · next h1 h2 => simp [get?, ih]; omega

/-- Every other key reads as before. -/
theorem get?_insert_other (t : Table α) {k m : Nat} (a : α) (h : m ≠ k) : (t.insert k a).get? m = t.get? m := by
  induction t with
  | nil => simp [insert, get?, Ne.symm h]
  | cons p t ih =>
    obtain ⟨j, b⟩ := p
    simp only [insert]
    split
    · simp [get?, Ne.symm h]
    · split
      · next _ h2 => subst h2; simp [get?, Ne.symm h]
      · simp [get?, ih]

theorem get?_insert (t : Table α) (k m : Nat) (a : α) :
    (t.insert k a).get? m = if m = k then some a else t.get? m := by
  split
  · next h => subst h; simp
  · next h => exact get?_insert_other t a h

@[simp] theorem get?_erase_same (t : Table α) (k : Nat) : (t.erase k).get? k = none := by
  induction t with
  | nil => rfl
  | cons p t ih =>
    obtain ⟨j, b⟩ := p
    simp only [erase]
    split
    · exact ih
    · next h => simp [get?, h, ih]

theorem get?_erase_other (t : Table α) {k m : Nat} (h : m ≠ k) : (t.erase k).get? m = t.get? m := by
  induction t with
  | nil => rfl
  | cons p t ih =>
    obtain ⟨j, b⟩ := p
    simp only [erase]
    split
    · next hj => subst hj; simp [get?, Ne.symm h, ih]
    · simp [get?, ih]

theorem get?_erase (t : Table α) (k m : Nat) : (t.erase k).get? m = if m = k then none else t.get? m := by
  split
  · next h => subst h; simp
  · next h => exact get?_erase_other t h

theorem get?_update (t : Table α) (k m : Nat) (f : α → α) :
    (t.update k f).get? m = if m = k then (t.get? k).map f else t.get? m := by
  induction t with
  | nil => simp [update]
  | cons p t ih =>
    obtain ⟨j, b⟩ := p
    simp only [update]
    split
    · next hj => subst hj; simp only [get?]; split <;> simp_all [eq_comm]
    · next hj => simp only [get?, ih]; split <;> split <;> simp_all

@[simp] theorem get?_update_same (t : Table α) (k : Nat) (f : α → α) : (t.update k f).get? k = (t.get? k).map f := by
  simp [get?_update]

theorem get?_update_other (t : Table α) {k m : Nat} (f : α → α) (h : m ≠ k) : (t.update k f).get? m = t.get? m := by
  simp [get?_update, h]

@[simp] theorem get?_mapVals (t : Table α) (f : Nat → α → α) (k : Nat) :
    (t.mapVals f).get? k = (t.get? k).map (f k) := by
  induction t with
  | nil => rfl
  | cons p t ih =>
    obtain ⟨j, b⟩ := p
    simp only [mapVals, List.map_cons, get?] at *
    split
    · next h => subst h; rfl
    · exact ih

/-- Two updates that f does not see leave its image as it was. -/
theorem mapVals_update (t : Table α) (k : Nat) (g : α → α) (f : Nat → α → α) (h : ∀ n a, f n (g a) = f n a) :
    (t.update k g).mapVals f = t.mapVals f := by
  induction t with
  | nil => rfl
  | cons p t ih =>
    obtain ⟨j, b⟩ := p
    simp only [update]
    split
    · simp [mapVals, h]
    · simp only [mapVals, List.map_cons] at *; rw [ih]

/-! ## Arrays -/

section
variable [DecidableEq α]

@[simp] theorem read_write_same (t : Table α) (k : Nat) (a z : α) : (t.write k a z).read k z = a := by
  unfold write read
  split
  · next h => simp [h]
  · simp

theorem read_write_other (t : Table α) {k m : Nat} (a z y : α) (h : m ≠ k) : (t.write k a z).read m y = t.read m y := by
  unfold write read
  split
  · rw [get?_erase_other t h]
  · rw [get?_insert_other t a h]

theorem read_write (t : Table α) (k m : Nat) (a z : α) : (t.write k a z).read m z = if m = k then a else t.read m z := by
  split
  · next h => subst h; simp
  · next h => exact read_write_other t a z z h

/-! ## The canonical form -/

/-- The first key of a table is above a bound. -/
def firstAbove (t : Table α) (k : Nat) : Bool :=
  match t with
  | [] => true
  | (j, _) :: _ => decide (k < j)

omit [DecidableEq α] in
theorem sorted_cons (j : Nat) (a : α) (t : Table α) : sorted ((j, a) :: t) = (firstAbove t j && sorted t) := by
  cases t with
  | nil => rfl
  | cons p t => obtain ⟨k, b⟩ := p; rfl

omit [DecidableEq α] in
theorem firstAbove_insert (t : Table α) (k j : Nat) (a : α) (h : firstAbove t j = true) (hk : j < k) :
    firstAbove (t.insert k a) j = true := by
  cases t with
  | nil => simpa [insert, firstAbove] using hk
  | cons p t =>
    obtain ⟨i, b⟩ := p
    simp only [firstAbove, decide_eq_true_eq] at h
    simp only [insert]
    split
    · simpa [firstAbove] using hk
    · split <;> simp [firstAbove, h, hk]

omit [DecidableEq α] in
theorem firstAbove_erase (t : Table α) (k j : Nat) (h : firstAbove t j = true) (hs : sorted t = true) :
    firstAbove (t.erase k) j = true := by
  induction t generalizing j with
  | nil => rfl
  | cons p t ih =>
    obtain ⟨i, b⟩ := p
    simp only [firstAbove, decide_eq_true_eq] at h
    simp only [sorted_cons, Bool.and_eq_true] at hs
    simp only [erase]
    split
    · refine ih j ?_ hs.2
      cases t with
      | nil => rfl
      | cons q t => obtain ⟨i2, b2⟩ := q; simp only [firstAbove, decide_eq_true_eq] at hs ⊢; omega
    · simpa [firstAbove] using h

omit [DecidableEq α] in
/-- An insertion keeps the keys rising. -/
theorem sorted_insert (t : Table α) (k : Nat) (a : α) (h : sorted t = true) : sorted (t.insert k a) = true := by
  induction t with
  | nil => rfl
  | cons p t ih =>
    obtain ⟨j, b⟩ := p
    have hs := h
    simp only [sorted_cons, Bool.and_eq_true] at hs
    simp only [insert]
    split
    · next hk => rw [sorted_cons, h]; simp [firstAbove, hk]
    · split
      · next _ hk => subst hk; simp [sorted_cons, hs]
      · simp only [sorted_cons, Bool.and_eq_true]
        exact ⟨firstAbove_insert t k j a hs.1 (by omega), ih hs.2⟩

omit [DecidableEq α] in
/-- An erasure keeps the keys rising. -/
theorem sorted_erase (t : Table α) (k : Nat) (h : sorted t = true) : sorted (t.erase k) = true := by
  induction t with
  | nil => rfl
  | cons p t ih =>
    obtain ⟨j, b⟩ := p
    simp only [sorted_cons, Bool.and_eq_true] at h
    simp only [erase]
    split
    · exact ih h.2
    · simp only [sorted_cons, Bool.and_eq_true]; exact ⟨firstAbove_erase t k j h.1 h.2, ih h.2⟩

omit [DecidableEq α] in
theorem all_insert (t : Table α) (k : Nat) (a : α) (q : Nat × α → Bool) (h : t.all q = true) (hq : q (k, a) = true) :
    (t.insert k a).all q = true := by
  induction t with
  | nil => simp [insert, hq]
  | cons p t ih =>
    obtain ⟨j, b⟩ := p
    simp only [List.all_cons, Bool.and_eq_true] at h
    simp only [insert]
    split
    · simp [hq, h]
    · split
      · simp [hq, h]
      · simp [h.1, ih h.2]

omit [DecidableEq α] in
theorem all_erase (t : Table α) (k : Nat) (q : Nat × α → Bool) (h : t.all q = true) : (t.erase k).all q = true := by
  induction t with
  | nil => rfl
  | cons p t ih =>
    obtain ⟨j, b⟩ := p
    simp only [List.all_cons, Bool.and_eq_true] at h
    simp only [erase]
    split
    · exact ih h.2
    · simp [h.1, ih h.2]

/-- An array write keeps the canonical form. -/
theorem canonical_write (t : Table α) (k : Nat) (a z : α) (h : canonical t z = true) : canonical (t.write k a z) z = true := by
  simp only [canonical, Bool.and_eq_true] at *
  unfold write
  split
  · exact ⟨sorted_erase t k h.1, all_erase t k _ h.2⟩
  · next ha => exact ⟨sorted_insert t k a h.1, all_insert t k a _ h.2 (by simpa using ha)⟩

end

end Sys2Proof.Table
end

