-- ==== Sys2Proof/Laws/Registers.lean ====
section
/-!
SUPPORT. What reading a register gives after a write of one, and what a lane's results leave in the registers.
-/

namespace Sys2Proof.Machine

/-! ## One register -/

theorem Group.vreg_setV (g : Group) {n m l k : Nat} (w : Word) (hl : l < 128) (hk : k < 128) :
    (g.setV n l w).vreg m k = if m = n ∧ k = l then w else g.vreg m k := by
  have : (128 * m + k = 128 * n + l) ↔ (m = n ∧ k = l) := by omega
  simp only [Group.vreg, Group.setV, Table.read_write, this]

theorem Group.vBad_setV (g : Group) {n m l k : Nat} (w : Word) (hl : l < 128) (hk : k < 128) :
    (g.setV n l w).vBad m k = if m = n ∧ k = l then false else g.vBad m k := by
  simp only [Group.vBad, Group.setV, Table.get?_erase]
  have : (128 * m + k = 128 * n + l) ↔ (m = n ∧ k = l) := by omega
  simp only [this]
  split <;> rfl

theorem Group.sreg_setS (g : Group) (n m : Nat) (w : Word) : (g.setS n w).sreg m = if m = n then w else g.sreg m := by
  simp only [Group.sreg, Group.setS, Table.read_write]

theorem Group.sBad_setS (g : Group) (n m : Nat) (w : Word) : (g.setS n w).sBad m = if m = n then false else g.sBad m := by
  simp only [Group.sBad, Group.setS, Table.get?_erase]
  split <;> rfl

theorem Group.xreg_setX (g : Group) {n m l k : Nat} (w : BitVec 16) (hl : l < 128) (hk : k < 128) :
    (g.setX n l w).xreg m k = if m = n ∧ k = l then w else g.xreg m k := by
  have : (128 * m + k = 128 * n + l) ↔ (m = n ∧ k = l) := by omega
  simp only [Group.xreg, Group.setX, Table.read_write, this]

theorem Group.pred_setPred (g : Group) {k m l j : Nat} (b : Bool) (hl : l < 128) (hj : j < 128) :
    (g.setPred k l b).pred m j = if m = k ∧ j = l then b else g.pred m j := by
  simp only [Group.pred, Group.setPred, Table.read_write]
  by_cases hm : m = k
  · subst hm
    by_cases hjl : j = l
    · subst hjl
      cases b <;> simp [hl]
    · cases b
      · simp only [Bool.false_eq_true, ↓reduceIte, BitVec.getLsbD_and, BitVec.getLsbD_not, BitVec.getLsbD_shiftLeft, hjl,
          and_false]
        by_cases h : j < l
        · simp [h, hj]
        · have : ¬ (j - l = 0) := by omega
          simp [h, hj, this, BitVec.getLsbD_one]
      · simp only [↓reduceIte, BitVec.getLsbD_or, BitVec.getLsbD_shiftLeft, hjl, and_false]
        by_cases h : j < l
        · simp [h]
        · have : ¬ (j - l = 0) := by omega
          simp [h, hj, this, BitVec.getLsbD_one]
  · simp [hm]

/-! ## A lane's results (R82 wr) -/

/-- The words of a run stand in the lane's registers from n on; everything else of the group is as before. -/
theorem writeRun_vreg (g : Group) {l k : Nat} (hl : l < 128) (hk : k < 128) (n : Nat) (ws : List Word) (m : Nat) :
    (writeRun g l n ws).vreg m k = if k = l ∧ n ≤ m ∧ m < n + ws.length then ws.getD (m - n) 0 else g.vreg m k := by
  induction ws generalizing g n with
  | nil =>
    rw [if_neg (by simp only [List.length_nil]; omega)]; rfl
  | cons w t ih =>
    have hlen : (w :: t).length = t.length + 1 := rfl
    rw [writeRun, ih, Group.vreg_setV g w hl hk]
    by_cases hkl : k = l
    · subst hkl
      rcases Nat.lt_trichotomy m n with h | h | h
      · rw [if_neg (by omega), if_neg (by omega), if_neg (by omega)]
      · subst h
        rw [if_neg (by omega), if_pos ⟨rfl, rfl⟩, if_pos (by simp), Nat.sub_self]; rfl
      · obtain ⟨d, rfl⟩ : ∃ d, m = n + 1 + d := ⟨m - n - 1, by omega⟩
        rw [if_neg (c := n + 1 + d = n ∧ k = k) (by omega)]
        have h1 : n + 1 + d - (n + 1) = d := by omega
        have h2 : n + 1 + d - n = d + 1 := by omega
        rw [h1, h2]
        by_cases hd : d < t.length
        · rw [if_pos (by omega), if_pos (by omega)]; rfl
        · rw [if_neg (by omega), if_neg (by omega)]
    · simp [hkl]

theorem writeRun_vBad (g : Group) {l k : Nat} (hl : l < 128) (hk : k < 128) (n : Nat) (ws : List Word) (m : Nat) :
    (writeRun g l n ws).vBad m k = if k = l ∧ n ≤ m ∧ m < n + ws.length then false else g.vBad m k := by
  induction ws generalizing g n with
  | nil =>
    rw [if_neg (by simp only [List.length_nil]; omega)]; rfl
  | cons w t ih =>
    have hlen : (w :: t).length = t.length + 1 := rfl
    rw [writeRun, ih, Group.vBad_setV g w hl hk]
    by_cases hkl : k = l
    · subst hkl
      by_cases hmn : m = n
      · subst hmn; simp
      · have : (n + 1 ≤ m ∧ m < n + 1 + t.length) ↔ (n ≤ m ∧ m < n + (w :: t).length) := by omega
        simp only [this, hmn, true_and, false_and, ↓reduceIte]
    · simp [hkl]

/-- What a run leaves alone. -/
theorem writeRun_frame (g : Group) (l n : Nat) (ws : List Word) :
    writeRun g l n ws = { g with v := (writeRun g l n ws).v, vPoison := (writeRun g l n ws).vPoison } := by
  induction ws generalizing g n with
  | nil => rfl
  | cons w t ih => rw [writeRun, ih]; rfl

theorem writeScalars_sreg (g : Group) (n : Nat) (ws : List Word) (m : Nat) :
    (writeScalars g n ws).sreg m = if n ≤ m ∧ m < n + ws.length then ws.getD (m - n) 0 else g.sreg m := by
  induction ws generalizing g n with
  | nil =>
    rw [if_neg (by simp only [List.length_nil]; omega)]; rfl
  | cons w t ih =>
    have hlen : (w :: t).length = t.length + 1 := rfl
    rw [writeScalars, ih, Group.sreg_setS]
    rcases Nat.lt_trichotomy m n with h | h | h
    · rw [if_neg (by omega), if_neg (by omega), if_neg (by omega)]
    · subst h
      rw [if_neg (by omega), if_pos rfl, if_pos (by simp), Nat.sub_self]; rfl
    · obtain ⟨d, rfl⟩ : ∃ d, m = n + 1 + d := ⟨m - n - 1, by omega⟩
      rw [if_neg (c := n + 1 + d = n) (by omega)]
      have h1 : n + 1 + d - (n + 1) = d := by omega
      have h2 : n + 1 + d - n = d + 1 := by omega
      rw [h1, h2]
      by_cases hd : d < t.length
      · rw [if_pos (by omega), if_pos (by omega)]; rfl
      · rw [if_neg (by omega), if_neg (by omega)]

theorem writeScalars_sBad (g : Group) (n : Nat) (ws : List Word) (m : Nat) :
    (writeScalars g n ws).sBad m = if n ≤ m ∧ m < n + ws.length then false else g.sBad m := by
  induction ws generalizing g n with
  | nil =>
    rw [if_neg (by simp only [List.length_nil]; omega)]; rfl
  | cons w t ih =>
    have hlen : (w :: t).length = t.length + 1 := rfl
    rw [writeScalars, ih, Group.sBad_setS]
    by_cases hmn : m = n
    · subst hmn; simp
    · have : (n + 1 ≤ m ∧ m < n + 1 + t.length) ↔ (n ≤ m ∧ m < n + (w :: t).length) := by omega
      simp only [this, hmn, ↓reduceIte]

theorem writeScalars_frame (g : Group) (n : Nat) (ws : List Word) :
    writeScalars g n ws = { g with s := (writeScalars g n ws).s, sPoison := (writeScalars g n ws).sPoison } := by
  induction ws generalizing g n with
  | nil => rfl
  | cons w t ih => rw [writeScalars, ih]; rfl

/-- The last of a lane's writes of predicate k. -/
def lastPred (k : Nat) : List (Nat × Bool) → Option Bool
  | [] => none
  | (j, b) :: t => match lastPred k t with
    | some c => some c
    | none => if j = k then some b else none

theorem writePreds_pred (g : Group) {l j : Nat} (hl : l < 128) (hj : j < 128) (ps : List (Nat × Bool)) (k : Nat) :
    (writePreds g l ps).pred k j = if j = l then (lastPred k ps).getD (g.pred k j) else g.pred k j := by
  induction ps generalizing g with
  | nil => simp [writePreds, lastPred]
  | cons p t ih =>
    obtain ⟨i, b⟩ := p
    rw [writePreds, ih, Group.pred_setPred g b hl hj]
    by_cases hjl : j = l
    · simp only [hjl, ↓reduceIte, lastPred, and_true]
      cases lastPred k t with
      | some c => rfl
      | none => by_cases h : k = i <;> simp [h, eq_comm]
    · simp [hjl]

theorem writePreds_frame (g : Group) (l : Nat) (ps : List (Nat × Bool)) :
    writePreds g l ps = { g with q := (writePreds g l ps).q } := by
  induction ps generalizing g with
  | nil => rfl
  | cons p t ih => obtain ⟨i, b⟩ := p; rw [writePreds, ih]; rfl

end Sys2Proof.Machine
end

