-- ==== Sys2Proof/Laws/Lanes.lean ====
section
/-!
SUPPORT. The lanes of a group, and what the results of a per-lane instruction leave in its registers.
-/

namespace Sys2Proof.Machine

/-! ## Lists of lanes -/

theorem mem_upFrom (a n k : Nat) : k ∈ upFrom a n ↔ a ≤ k ∧ k < a + n := by
  induction n generalizing a with
  | zero => simp [upFrom]
  | succ n ih => simp only [upFrom, List.mem_cons, ih]; omega

theorem nodup_upFrom (a n : Nat) : (upFrom a n).Nodup := by
  induction n generalizing a with
  | zero => simp [upFrom]
  | succ n ih => simp only [upFrom, List.nodup_cons, ih, mem_upFrom, and_true]; omega

theorem Issuer.activeLanes_lt (u : Issuer) {l : Nat} (h : l ∈ u.activeLanes) : l < 128 := by
  simp only [Issuer.activeLanes, List.mem_filter] at h
  exact BitVec.lt_of_getLsbD h.2

theorem Issuer.enabledLanes_lt (u : Issuer) (tt : BitVec 8) {l : Nat} (h : l ∈ u.enabledLanes tt) : l < 128 := by
  simp only [Issuer.enabledLanes, List.mem_filter] at h
  exact u.activeLanes_lt h.1

theorem Issuer.enabledLanes_nodup (u : Issuer) (tt : BitVec 8) : (u.enabledLanes tt).Nodup :=
  ((nodup_upFrom 0 u.l.width).filter _).filter _

/-! ## One lane's results -/

variable (at0 : Group) (d : Option (BitVec 11))

/-- The first register that a destination names in a lane. -/
def destReg (at0 : Group) (d : Option (BitVec 11)) (l : Nat) : Option Nat := d.bind fun c => vectorReg at0 c l

/-- The run of a lane's result, where its destination names a register. -/
def laneRun (g : Group) (l : Nat) (ws : List Word) : Option Nat → Group
  | some n => writeRun g l n ws
  | none => g

/-- The write of an index register, where a lane's result has one. -/
def laneIndex (g : Group) (l : Nat) : Option (Nat × BitVec 16) → Group
  | some (k, x) => g.setX k l x
  | none => g

theorem writeLane_eq (g : Group) (l : Nat) (o : LaneOut) :
    writeLane at0 d g l o =
      (laneIndex (writePreds (laneRun g l o.words (destReg at0 d l)) l o.preds) l o.index).orFpstat o.flags := by
  simp only [writeLane, destReg]
  cases d.bind (fun c => vectorReg at0 c l) <;> cases o.index <;> rfl

theorem laneRun_frame (g : Group) (l : Nat) (ws : List Word) (b : Option Nat) :
    laneRun g l ws b = { g with v := (laneRun g l ws b).v, vPoison := (laneRun g l ws b).vPoison } := by
  cases b with
  | none => rfl
  | some n => exact writeRun_frame g l n ws

theorem laneIndex_frame (g : Group) (l : Nat) (i : Option (Nat × BitVec 16)) :
    laneIndex g l i = { g with x := (laneIndex g l i).x } := by
  cases i <;> rfl

theorem writeLane_vreg (g : Group) {l k : Nat} (hl : l < 128) (hk : k < 128) (o : LaneOut) (m : Nat) :
    (writeLane at0 d g l o).vreg m k =
      if k = l then
        match destReg at0 d l with
        | some n => if n ≤ m ∧ m < n + o.words.length then o.words.getD (m - n) 0 else g.vreg m k
        | none => g.vreg m k
      else g.vreg m k := by
  rw [writeLane_eq, laneIndex_frame, writePreds_frame]
  show (laneRun g l o.words (destReg at0 d l)).vreg m k = _
  cases destReg at0 d l with
  | none => simp [laneRun]
  | some n =>
    simp only [laneRun, writeRun_vreg g hl hk]
    by_cases h : k = l <;> simp [h]

theorem writeLane_vBad (g : Group) {l k : Nat} (hl : l < 128) (hk : k < 128) (o : LaneOut) (m : Nat) :
    (writeLane at0 d g l o).vBad m k =
      if k = l then
        match destReg at0 d l with
        | some n => if n ≤ m ∧ m < n + o.words.length then false else g.vBad m k
        | none => g.vBad m k
      else g.vBad m k := by
  rw [writeLane_eq, laneIndex_frame, writePreds_frame]
  show (laneRun g l o.words (destReg at0 d l)).vBad m k = _
  cases destReg at0 d l with
  | none => simp [laneRun]
  | some n =>
    simp only [laneRun, writeRun_vBad g hl hk]
    by_cases h : k = l <;> simp [h]

theorem writeLane_pred (g : Group) {l k : Nat} (hl : l < 128) (hk : k < 128) (o : LaneOut) (m : Nat) :
    (writeLane at0 d g l o).pred m k = if k = l then (lastPred m o.preds).getD (g.pred m k) else g.pred m k := by
  have same : (laneRun g l o.words (destReg at0 d l)).pred m k = g.pred m k := by
    rw [laneRun_frame]; rfl
  rw [writeLane_eq, laneIndex_frame, ← same, ← writePreds_pred _ hl hk]; rfl

theorem writeLane_xreg (g : Group) {l k : Nat} (hl : l < 128) (hk : k < 128) (o : LaneOut) (m : Nat) :
    (writeLane at0 d g l o).xreg m k =
      match o.index with
      | some (j, x) => if m = j ∧ k = l then x else g.xreg m k
      | none => g.xreg m k := by
  have same : (writePreds (laneRun g l o.words (destReg at0 d l)) l o.preds).xreg m k = g.xreg m k := by
    rw [writePreds_frame, laneRun_frame]; rfl
  rw [writeLane_eq]
  cases o.index with
  | none => exact same
  | some p =>
    show (Group.setX _ p.1 l p.2).xreg m k = _
    rw [Group.xreg_setX _ _ hl hk, same]

theorem writeLane_fpstat (g : Group) (l : Nat) (o : LaneOut) :
    (writeLane at0 d g l o).fpstat = orFlags g.fpstat o.flags := by
  rw [writeLane_eq, laneIndex_frame, writePreds_frame, laneRun_frame]; rfl

/-- What the results of a lane leave alone: all but the registers and the flags. -/
theorem writeLane_frame (g : Group) (l : Nat) (o : LaneOut) :
    writeLane at0 d g l o = { g with v := (writeLane at0 d g l o).v, vPoison := (writeLane at0 d g l o).vPoison
                                     q := (writeLane at0 d g l o).q, x := (writeLane at0 d g l o).x
                                     fpstat := (writeLane at0 d g l o).fpstat } := by
  rw [writeLane_eq, laneIndex_frame, writePreds_frame, laneRun_frame]; rfl

/-! ## All lanes' results -/

/-- The registers after a per-lane instruction: in an enabled lane the words of the destination's run. -/
theorem writeLanes_vreg (g : Group) (lanes : List Nat) (f : Nat → LaneOut) (hn : lanes.Nodup)
    (hl : ∀ l ∈ lanes, l < 128) {k : Nat} (hk : k < 128) (m : Nat) :
    (writeLanes at0 d g (lanes.map fun l => (l, f l))).vreg m k =
      if k ∈ lanes then
        match destReg at0 d k with
        | some n => if n ≤ m ∧ m < n + (f k).words.length then (f k).words.getD (m - n) 0 else g.vreg m k
        | none => g.vreg m k
      else g.vreg m k := by
  induction lanes generalizing g with
  | nil => rfl
  | cons l t ih =>
    have hl' := hl l (by simp)
    rw [List.map_cons, writeLanes, ih _ (List.nodup_cons.mp hn).2 (fun x hx => hl x (by simp [hx])),
      writeLane_vreg at0 d g hl' hk]
    by_cases hkl : k = l
    · subst hkl
      simp [(List.nodup_cons.mp hn).1]
    · simp [hkl]

theorem writeLanes_vBad (g : Group) (lanes : List Nat) (f : Nat → LaneOut) (hn : lanes.Nodup)
    (hl : ∀ l ∈ lanes, l < 128) {k : Nat} (hk : k < 128) (m : Nat) :
    (writeLanes at0 d g (lanes.map fun l => (l, f l))).vBad m k =
      if k ∈ lanes then
        match destReg at0 d k with
        | some n => if n ≤ m ∧ m < n + (f k).words.length then false else g.vBad m k
        | none => g.vBad m k
      else g.vBad m k := by
  induction lanes generalizing g with
  | nil => rfl
  | cons l t ih =>
    have hl' := hl l (by simp)
    rw [List.map_cons, writeLanes, ih _ (List.nodup_cons.mp hn).2 (fun x hx => hl x (by simp [hx])),
      writeLane_vBad at0 d g hl' hk]
    by_cases hkl : k = l
    · subst hkl
      simp [(List.nodup_cons.mp hn).1]
    · simp [hkl]

/-- The predicates after it: in an enabled lane what the lane wrote last. -/
theorem writeLanes_pred (g : Group) (lanes : List Nat) (f : Nat → LaneOut) (hn : lanes.Nodup)
    (hl : ∀ l ∈ lanes, l < 128) {k : Nat} (hk : k < 128) (m : Nat) :
    (writeLanes at0 d g (lanes.map fun l => (l, f l))).pred m k =
      if k ∈ lanes then (lastPred m (f k).preds).getD (g.pred m k) else g.pred m k := by
  induction lanes generalizing g with
  | nil => rfl
  | cons l t ih =>
    have hl' := hl l (by simp)
    rw [List.map_cons, writeLanes, ih _ (List.nodup_cons.mp hn).2 (fun x hx => hl x (by simp [hx])),
      writeLane_pred at0 d g hl' hk]
    by_cases hkl : k = l
    · subst hkl
      simp [(List.nodup_cons.mp hn).1]
    · simp [hkl]

theorem writeLanes_xreg (g : Group) (lanes : List Nat) (f : Nat → LaneOut) (hn : lanes.Nodup)
    (hl : ∀ l ∈ lanes, l < 128) {k : Nat} (hk : k < 128) (m : Nat) :
    (writeLanes at0 d g (lanes.map fun l => (l, f l))).xreg m k =
      if k ∈ lanes then
        match (f k).index with
        | some (j, x) => if m = j then x else g.xreg m k
        | none => g.xreg m k
      else g.xreg m k := by
  induction lanes generalizing g with
  | nil => rfl
  | cons l t ih =>
    have hl' := hl l (by simp)
    rw [List.map_cons, writeLanes, ih _ (List.nodup_cons.mp hn).2 (fun x hx => hl x (by simp [hx])),
      writeLane_xreg at0 d g hl' hk]
    by_cases hkl : k = l
    · subst hkl
      simp only [(List.nodup_cons.mp hn).1, ↓reduceIte, List.mem_cons, true_or, and_true]
    · simp only [hkl, List.mem_cons, false_or, and_false, ↓reduceIte]
      cases (f l).index with
      | none => rfl
      | some p => rfl

/-- FPSTAT gathers the flags of every enabled lane. -/
theorem writeLanes_fpstat (g : Group) (lanes : List Nat) (f : Nat → LaneOut) :
    (writeLanes at0 d g (lanes.map fun l => (l, f l))).fpstat = lanes.foldl (fun w l => orFlags w (f l).flags) g.fpstat := by
  induction lanes generalizing g with
  | nil => rfl
  | cons l t ih => rw [List.map_cons, writeLanes, ih, writeLane_fpstat]; rfl

theorem writeLanes_frame (g : Group) (outs : List (Nat × LaneOut)) :
    writeLanes at0 d g outs = { g with v := (writeLanes at0 d g outs).v, vPoison := (writeLanes at0 d g outs).vPoison
                                       q := (writeLanes at0 d g outs).q, x := (writeLanes at0 d g outs).x
                                       fpstat := (writeLanes at0 d g outs).fpstat } := by
  induction outs generalizing g with
  | nil => rfl
  | cons p t ih => obtain ⟨l, o⟩ := p; rw [writeLanes, ih, writeLane_frame]

end Sys2Proof.Machine
end

