-- ==== Sys2Proof/Laws/Issue.lean ====
section
/-!
SUPPORT. What issuing an instruction does: the issuer, the operand checks, the place of the group afterwards, and the two
short-latency forms.
-/

namespace Sys2Proof.Machine

open Sys2Proof.Claims

variable {s : State} {u : Issuer}

/-! ## The issuer -/

theorem withIssuer_issuing (h : Issuing s u) (k : Issuer → Out) : withIssuer s k = k u := by
  simp [withIssuer, h.1, h.2]

/-- What issuerOf reads of the state. -/
theorem issuerOf_eq_some {gid : Nat} :
    issuerOf s gid = some u ↔
      u.gid = gid ∧ s.groups.get? gid = some u.g ∧ s.teams.get? u.g.team = some u.t ∧
      s.launches.get? u.g.launch = some u.l ∧ s.contexts.get? u.l.ctx = some u.c := by
  unfold issuerOf
  constructor
  · intro h
    split at h
    · cases h
    · split at h
      · split at h
        · cases h; simp_all
        · cases h
      · cases h
  · rintro ⟨rfl, h1, h2, h3, h4⟩
    simp [h1, h2, h3, h4]

theorem Issuing.group (h : Issuing s u) : s.groups.get? u.gid = some u.g := (issuerOf_eq_some.mp h.2).2.1
theorem Issuing.team (h : Issuing s u) : s.teams.get? u.g.team = some u.t := (issuerOf_eq_some.mp h.2).2.2.1
theorem Issuing.launch (h : Issuing s u) : s.launches.get? u.g.launch = some u.l := (issuerOf_eq_some.mp h.2).2.2.2.1
theorem Issuing.context (h : Issuing s u) : s.contexts.get? u.l.ctx = some u.c := (issuerOf_eq_some.mp h.2).2.2.2.2

/-! ## Operand checks (R98 to R107, R443) -/

theorem mem_upFrom_zero {n k : Nat} : k ∈ upFrom 0 n ↔ k < n := by simp [mem_upFrom]

theorem firstWhere_none {p : Nat → Bool} {xs : List Nat} : firstWhere p xs = none ↔ ∀ k ∈ xs, p k = false := by
  induction xs with
  | nil => simp [firstWhere]
  | cons a t ih => cases h : p a <;> simp [firstWhere, h, ih]

theorem firstSome_none {α β : Type} {f : α → Option β} {xs : List α} : firstSome f xs = none ↔ ∀ a ∈ xs, f a = none := by
  induction xs with
  | nil => simp [firstSome]
  | cons a t ih => cases h : f a <;> simp [firstSome, h, ih]

/-- The size and the alignment of an operand: one register, an aligned pair, an aligned run of four, or a free run. -/
def Use.Shaped (x : Use) : Prop :=
  0 < x.size ∧ (x.align = 1 ∨ (x.align = 2 ∧ x.size = 2) ∨ (x.align = 4 ∧ x.size = 4))

theorem fileFault_none {x : Use} (hx : x.Shaped) {lane n limit : Nat} {pend : Nat → Bool} :
    fileFault x lane n limit pend = none ↔
      n % x.align = 0 ∧ n + x.size ≤ limit ∧ ∀ k, k < x.size → pend (n + k) = false := by
  unfold fileFault
  by_cases ha : n % x.align = 0
  · simp only [ha, if_true, ne_eq, not_true_eq_false, if_false, true_and]
    cases h1 : firstWhere (fun k => decide (limit ≤ n + k)) (upFrom 0 x.size) with
    | some k =>
      simp only [reduceCtorEq, false_iff, not_and]
      intro hle
      have : ¬ (∀ k ∈ upFrom 0 x.size, decide (limit ≤ n + k) = false) := by
        intro hall; rw [firstWhere_none.mpr hall] at h1; cases h1
      exact absurd (fun k hk => by have := mem_upFrom_zero.mp hk; simp; omega) this
    | none =>
      have h2 := firstWhere_none.mp h1
      have hle : n + x.size ≤ limit := by
        have := h2 (x.size - 1) (mem_upFrom_zero.mpr (by have := hx.1; omega))
        simp at this; have := hx.1; omega
      simp only [hle, true_and]
      cases h3 : firstWhere (fun k => pend (n + k)) (upFrom 0 x.size) with
      | some k =>
        simp only [reduceCtorEq, false_iff]
        intro hall
        rw [firstWhere_none.mpr (fun k hk => hall k (mem_upFrom_zero.mp hk))] at h3; cases h3
      | none =>
        simp only [true_iff]
        exact fun k hk => firstWhere_none.mp h3 k (mem_upFrom_zero.mpr hk)
  · simp only [ha, if_false, false_and, iff_false, ne_eq, not_false_eq_true, if_true]
    split <;> simp

theorem indexedFault_none {x : Use} (hx : x.Shaped) {lane n : Nat} :
    indexedFault u x lane n = none ↔
      n % x.align = 0 ∧ n + x.size ≤ u.l.regs ∧ ∀ k, k < x.size → u.g.vPend (n + k) lane = false := by
  have hsize : x.align = 2 → x.size = 2 := by have := hx.2; omega
  have hpend : (match firstWhere (fun k => u.g.vPend (n + k) lane) (upFrom 0 x.size) with
      | some k => some (operRaise 0x4 lane x.field x.code k)
      | none => none) = none ↔ ∀ k, k < x.size → u.g.vPend (n + k) lane = false := by
    have h := firstWhere_none (p := fun k => u.g.vPend (n + k) lane) (xs := upFrom 0 x.size)
    simp only [mem_upFrom_zero] at h
    rw [← h]
    cases firstWhere (fun k => u.g.vPend (n + k) lane) (upFrom 0 x.size) <;> simp
  unfold indexedFault
  by_cases hbad : n % x.align ≠ 0 ∨ (x.align = 2 ∧ u.l.regs ≤ n + 1)
  · have h1 : (decide (n % x.align ≠ 0) || (decide (x.align = 2) && decide (u.l.regs ≤ n + 1))) = true := by simpa using hbad
    rw [h1]
    simp only [if_true, reduceCtorEq, false_iff]
    rintro ⟨h2, h3, -⟩
    rcases hbad with h4 | ⟨h4, h5⟩
    · exact h4 h2
    · have := hsize h4; omega
  · have h1 : (decide (n % x.align ≠ 0) || (decide (x.align = 2) && decide (u.l.regs ≤ n + 1))) = false := by
      rw [← Bool.not_eq_true]; simpa using hbad
    have ha : n % x.align = 0 := by
      apply Classical.byContradiction; intro h; exact hbad (Or.inl h)
    rw [h1]
    by_cases hr : u.l.regs < n + x.size
    · simp only [Bool.false_eq_true, if_false, hr, if_true, reduceCtorEq, false_iff]; omega
    · simp only [Bool.false_eq_true, if_false, hr]
      exact Iff.trans hpend ⟨fun h => ⟨ha, by omega, h⟩, fun h => h.2.2⟩

theorem latchFault_none {x : Use} {lane k : Nat} :
    latchFault u x lane k = none ↔
      ∃ e y, u.g.latches[k]? = some e ∧ e.elems.get? lane = some y ∧ e.wide = decide (x.size = 2) := by
  unfold latchFault latchElem
  by_cases hk : u.g.latches.length ≤ k
  · simp [hk]
  · have hk' : k < u.g.latches.length := by omega
    simp only [hk, if_false, List.getElem?_eq_getElem hk', Option.some.injEq]
    cases he : (u.g.latches[k]).elems.get? lane with
    | none => simp [he]
    | some y =>
      simp only
      by_cases hw : (u.g.latches[k]).wide = decide (x.size = 2)
      · simp [hw, he]
      · simp only [hw, if_false, reduceCtorEq, false_iff]
        rintro ⟨e, y', rfl, -, hw'⟩
        exact hw hw'

/-- R98 to R107, R443: an operand raises no fault in a lane exactly when it fits. -/
theorem use_fits {x : Use} (hx : x.Shaped) {l : Nat} :
    (usePoison u l x = none ∧ useFault u l x = none) ↔ Fits u l x := by
  unfold usePoison useFault Fits
  cases hc : operandOf x.code with
  | v n =>
    simp only [hc, vectorReg, fileFault_none hx]
    by_cases hw : x.write = true
    · simp [hw]
    · simp only [hw, Bool.false_eq_true, if_false, Option.map_eq_none_iff, firstWhere_none, mem_upFrom_zero]
      constructor
      · rintro ⟨h1, h2, h3, h4⟩; exact ⟨h2, h3, fun k hk => ⟨h4 k hk, fun _ => h1 k hk⟩⟩
      · rintro ⟨h2, h3, h4⟩; exact ⟨fun k hk => (h4 k hk).2 trivial, h2, h3, fun k hk => (h4 k hk).1⟩
  | indexed j =>
    simp only [hc, vectorReg, indexedFault_none hx]
    by_cases hw : x.write = true
    · simp [hw]
    · simp only [hw, Bool.false_eq_true, if_false, Option.map_eq_none_iff, firstWhere_none, mem_upFrom_zero]
      constructor
      · rintro ⟨h1, h2, h3, h4⟩; exact ⟨h2, h3, fun k hk => ⟨h4 k hk, fun _ => h1 k hk⟩⟩
      · rintro ⟨h2, h3, h4⟩; exact ⟨fun k hk => (h4 k hk).2 trivial, h2, h3, fun k hk => (h4 k hk).1⟩
  | s n =>
    simp only [fileFault_none hx]
    by_cases hw : x.write = true
    · simp [hw]
    · simp only [hw, Bool.false_eq_true, if_false, Option.map_eq_none_iff, firstWhere_none, mem_upFrom_zero]
      constructor
      · rintro ⟨h1, h2, h3, h4⟩; exact ⟨h2, h3, fun k hk => ⟨h4 k hk, fun _ => h1 k hk⟩⟩
      · rintro ⟨h2, h3, h4⟩; exact ⟨fun k hk => (h4 k hk).2 trivial, h2, h3, fun k hk => (h4 k hk).1⟩
  | latch k => simp [hc, vectorReg, latchFault_none]
  | laneid => simp [hc, vectorReg]
  | zero => simp [hc, vectorReg]
  | reserved => simp [hc, vectorReg]

/-- A lane's operands raise no fault exactly when each of them fits. -/
theorem laneFault_none {uses : List Use} (hx : ∀ x ∈ uses, x.Shaped) {l : Nat} :
    laneFault u uses l = none ↔ ∀ x ∈ uses, Fits u l x := by
  unfold laneFault
  constructor
  · intro h
    split at h
    · cases h
    · rename_i hp
      intro x hm
      exact (use_fits (hx x hm)).mp ⟨firstSome_none.mp hp x hm, firstSome_none.mp h x hm⟩
  · intro h
    have h1 : firstSome (usePoison u l) uses = none := firstSome_none.mpr fun x hm => ((use_fits (hx x hm)).mpr (h x hm)).1
    rw [h1]
    exact firstSome_none.mpr fun x hm => ((use_fits (hx x hm)).mpr (h x hm)).2

theorem lanesFault_none {uses : List Use} (hx : ∀ x ∈ uses, x.Shaped) {lanes : List Nat} :
    lanesFault u uses lanes = none ↔ ∀ l ∈ lanes, ∀ x ∈ uses, Fits u l x := by
  simp only [lanesFault, firstSome_none, laneFault_none hx]

theorem scalarFault_none {uses : List Use} (hx : ∀ x ∈ uses, x.Shaped) :
    scalarFault u uses = none ↔ ScalarsFit u uses := by
  simp only [scalarFault, Option.map_eq_none_iff, laneFault_none hx, ScalarsFit]

@[simp] theorem shaped_src (f : Nat) (c : BitVec 11) : (src f c).Shaped := by simp [Use.Shaped, src]
@[simp] theorem shaped_src64 (f : Nat) (c : BitVec 11) : (src64 f c).Shaped := by simp [Use.Shaped, src64]
@[simp] theorem shaped_dst (c : BitVec 11) : (dst c).Shaped := by simp [Use.Shaped, dst]
@[simp] theorem shaped_dst64 (c : BitVec 11) : (dst64 c).Shaped := by simp [Use.Shaped, dst64]
@[simp] theorem shaped_srcW (w : IWidth) (f : Nat) (c : BitVec 11) : (srcW w f c).Shaped := by cases w <;> simp [srcW]
@[simp] theorem shaped_dstW (w : IWidth) (c : BitVec 11) : (dstW w c).Shaped := by cases w <;> simp [dstW]
theorem shaped_srcRun (f : Nat) (c : BitVec 11) {n : Nat} (h : 0 < n) : (srcRun f c n).Shaped := by
  simp [Use.Shaped, srcRun, h]
theorem shaped_dstRun (c : BitVec 11) {n : Nat} (h : 0 < n) : (dstRun c n).Shaped := by simp [Use.Shaped, dstRun, h]

/-! ## After an instruction -/

/-- R103, R357: where advance leaves the group. -/
theorem advance_nextPlace (u : Issuer) (g : Group) (entry : Latch)
    (hi : g.ic = u.g.ic) (hx : g.index = u.g.index) (hc : g.clause = u.g.clause) (hh : g.header = u.g.header)
    (hl : g.latches = u.g.latches) (he : g.entered = u.g.entered) (ht : g.taken = u.g.taken)
    (ha : g.addrNext = u.g.addrNext) : NextPlace u entry (advance u g entry) := by
  unfold NextPlace advance
  by_cases h : hdrNcount u.header ≤ g.index
  · have h2 : ¬ u.g.index < hdrNcount u.header := by omega
    rw [if_pos h, if_neg h2]
    simp [atClause, hi, ht, ha, nextClause, followingClause]
  · have h2 : u.g.index < hdrNcount u.header := by omega
    rw [if_neg h, if_pos h2]
    simp [hi, hx, hc, hh, hl, he, ht, ha]

/-- What advance leaves alone. -/
theorem advance_frame (u : Issuer) (g : Group) (entry : Latch) :
    advance u g entry = moved g (advance u g entry) := by
  unfold advance moved atClause
  split <;> rfl

@[simp] theorem soundEnd_groups (s : State) (c : Nat) (r : Option (BitVec 512)) (f : BitVec 512 → BitVec 512) :
    (soundEnd s c r f).groups = s.groups := by cases r <;> rfl

theorem soundEnd_frame (s : State) (c : Nat) (r : Option (BitVec 512)) (f : BitVec 512 → BitVec 512) :
    soundEnd s c r f = { s with contexts := (soundEnd s c r f).contexts } := by cases r <;> rfl

theorem soundEnd_contexts (s : State) (c : Nat) (r : Option (BitVec 512)) (f : BitVec 512 → BitVec 512) (k : Nat) :
    (soundEnd s c r f).contexts.get? k =
      (s.contexts.get? k).map fun x => if k = c then { x with soundQ := x.soundQ ++ (r.map f).toList } else x := by
  cases r with
  | none => cases h : s.contexts.get? k <;> simp [soundEnd, h]
  | some x =>
    simp only [soundEnd, pushSound, State.modifyContext, Table.get?_update]
    by_cases hk : k = c
    · subst hk; cases s.contexts.get? k <;> simp
    · cases s.contexts.get? k <;> simp [hk]

/-- R35: what finishing an instruction does to the state. -/
theorem finish_onlyGroup (s : State) (u : Issuer) (g : Group) (entry : Latch) : OnlyGroup s (finish s u g entry) u := by
  unfold finish
  refine ⟨?_, ?_, ?_, ?_⟩
  · rw [soundEnd_frame]; rfl
  · intro k hk; simp [State.setGroup, Table.get?_insert, hk]
  · intro c; rw [soundEnd_contexts]; cases u.g.sound <;> rfl
  · intro a; rw [soundEnd_frame]; rfl

theorem finish_group (s : State) (u : Issuer) (g : Group) (entry : Latch) :
    (finish s u g entry).groups.get? u.gid = some (advance u g entry) := by
  simp [finish, State.setGroup]

/-! ## The two short-latency forms -/

/-- R54, R81: a short-latency instruction without a check of its own, whose operands fit, takes effect. -/
theorem vectorOp_next {k : LaneForm} (f : Issuer → Nat → LaneOut) (hx : ∀ x ∈ k.uses, x.Shaped) (h : Issuing s u)
    (hf : OperandsFit u k) :
    vectorOp s k noCheck f = .next (if k.sc then runScalar s u k (f u) else runLanes s u k (f u)) := by
  unfold OperandsFit at hf
  cases hs : k.sc with
  | true =>
    rw [hs, if_pos rfl] at hf
    have := (scalarFault_none (u := u) hx).mpr hf
    simp [vectorOp, withIssuer_issuing h, noCheck, hs, this]
  | false =>
    rw [hs] at hf
    have := (lanesFault_none (u := u) hx).mpr hf
    simp [vectorOp, withIssuer_issuing h, noCheck, hs, this]

theorem latchWord_element (ws : List Word) (h : ws.length ≤ 2) : latchWord ws = element ws := by
  match ws, h with
  | [], _ => rfl
  | [a], _ => apply BitVec.eq_of_toNat_eq; simp [latchWord, latchWord.leNatWords, element]
  | [a, b], _ =>
    apply BitVec.eq_of_toNat_eq
    simp only [latchWord, latchWord.leNatWords, element, BitVec.toNat_ofNat, BitVec.toNat_append]
    have ha := a.isLt
    have hb := b.isLt
    rw [Nat.shiftLeft_eq, Nat.mul_comm b.toNat, ← Nat.two_pow_add_eq_or_of_lt ha]
    omega

theorem lastPred_newPred (m : Nat) (ps : List (Nat × Bool)) (b : Bool) : (lastPred m ps).getD b = newPred ps m b := by
  induction ps generalizing b with
  | nil => rfl
  | cons p t ih =>
    obtain ⟨k, c⟩ := p
    rw [show newPred ((k, c) :: t) m b = newPred t m (if k = m then c else b) from rfl, ← ih]
    by_cases hk : k = m
    · subst hk
      cases h : lastPred k t <;> simp [lastPred, h]
    · cases h : lastPred m t <;> simp [lastPred, h, hk]

/-- R103: the latch entry that a lane form leaves. -/
theorem laneEntry_eq {k : Compute} (hs : k.form.sc = false) (hl : k.form.latch ≤ 2)
    (hw : k.form.latch ≠ 0 → ∀ l ∈ u.enabledLanes k.form.tt, (k.out u l).words.length ≤ 2) :
    laneEntry k.form ((u.enabledLanes k.form.tt).map fun l => (l, k.out u l)) = latchEntry u k := by
  unfold laneEntry latchEntry
  rw [hs]
  match h : k.form.latch, hl with
  | 0, _ => simp [voidEntry]
  | n + 1, _ =>
    simp only [Bool.false_eq_true, false_or, Nat.add_eq_zero_iff, Nat.one_ne_zero, and_false, if_false, resultEntry,
      List.map_map, Latch.mk.injEq, true_and]
    apply List.map_congr_left
    intro l hl'
    simp only [Function.comp, Prod.mk.injEq, true_and]
    exact latchWord_element _ (hw (by omega) l hl')

/-- R54, R81, R103, R204: the per-lane form. -/
theorem runLanes_computed (s : State) {k : Compute} (hs : k.form.sc = false) (hl : k.form.latch ≤ 2)
    (hw : k.form.latch ≠ 0 → ∀ l ∈ u.enabledLanes k.form.tt, (k.out u l).words.length ≤ 2) :
    Computed s u k (runLanes s u k.form (k.out u)) := by
  have hnd := u.enabledLanes_nodup k.form.tt
  have hlt : ∀ l ∈ u.enabledLanes k.form.tt, l < 128 := fun l h => u.enabledLanes_lt k.form.tt h
  have hdest : ∀ l, destReg u.g (k.form.dest.map fun d => d.code) l = vectorDest u k.form l := by
    intro l; unfold destReg vectorDest; cases k.form.dest <;> rfl
  generalize hg : writeLanes u.g (k.form.dest.map fun d => d.code) u.g ((u.enabledLanes k.form.tt).map fun l => (l, k.out u l)) = g
  have hframe : g = { u.g with v := g.v, vPoison := g.vPoison, q := g.q, x := g.x, fpstat := g.fpstat } := by
    rw [← hg]; exact writeLanes_frame _ _ _ _
  have hrun : runLanes s u k.form (k.out u) = finish s u g (latchEntry u k) := by
    unfold runLanes; simp only [hg, laneEntry_eq hs hl hw]
  have hadv := advance_frame u g (latchEntry u k)
  rw [hrun]
  refine ⟨finish_onlyGroup _ _ _ _, advance u g (latchEntry u k), finish_group _ _ _ _, ?_, ?_⟩
  · apply advance_nextPlace <;> rw [hframe]
  · rw [hs, if_neg (by simp)]
    refine ⟨?_, ?_, ?_, ?_, ?_, ?_⟩
    · intro n l hl
      rw [hadv]
      show g.vreg n l = _
      rw [← hg, writeLanes_vreg _ _ _ _ _ hnd hlt hl, hdest]
      unfold inRun
      cases vectorDest u k.form l <;> rfl
    · intro n l hl
      rw [hadv]
      show g.vBad n l = _
      rw [← hg, writeLanes_vBad _ _ _ _ _ hnd hlt hl, hdest]
      unfold reaches
      by_cases hm : l ∈ u.enabledLanes k.form.tt
      · cases vectorDest u k.form l with
        | none => simp [hm]
        | some m =>
          simp only [hm, if_true, decide_true, Bool.true_and]
          by_cases hc : m ≤ n ∧ n < m + (k.out u l).words.length
          · rw [if_pos hc]; simp [hc.1, hc.2]
          · rw [if_neg hc]
            have : (decide (m ≤ n) && decide (n < m + (k.out u l).words.length)) = false := by
              rw [← Bool.not_eq_true]; simpa using hc
            simp [this]
      · simp [hm]
    · intro n l hl
      rw [hadv]
      show g.pred n l = _
      rw [← hg, writeLanes_pred _ _ _ _ _ hnd hlt hl, lastPred_newPred]
    · intro n l hl
      rw [hadv]
      show g.xreg n l = _
      rw [← hg, writeLanes_xreg _ _ _ _ _ hnd hlt hl]
      by_cases hm : l ∈ u.enabledLanes k.form.tt
      · cases (k.out u l).index <;> simp [hm]
      · cases (k.out u l).index <;> simp [hm]
    · rw [hadv]
      show g.fpstat = _
      rw [← hg, writeLanes_fpstat]; rfl
    · have hv : ∀ x, x = advance u g (latchEntry u k) → x = moved g x := fun x hx => by rw [hx]; exact hadv
      generalize advance u g (latchEntry u k) = x at hv
      have hm := hv x rfl
      refine hm.trans ?_
      rw [hm, hframe]
      rfl

/-- R101, R205: the scalar-marked form. -/
theorem runScalar_computed (s : State) {k : Compute} (hs : k.form.sc = true) :
    Computed s u k (runScalar s u k.form (k.out u)) := by
  have hent : latchEntry u k = voidEntry := by simp [latchEntry, hs, voidEntry]
  generalize hg : (writeScalarDest u.g k.form (k.out u 0)).orFpstat (k.out u 0).flags = g
  have hrun : runScalar s u k.form (k.out u) = finish s u g (latchEntry u k) := by
    unfold runScalar; simp only [hg, hent]
  have hwrite : writeScalarDest u.g k.form (k.out u 0) =
      match scalarDest k.form with
      | some n => writeScalars u.g n (k.out u 0).words
      | none => u.g := by
    unfold writeScalarDest scalarDest
    cases k.form.dest with
    | none => rfl
    | some d => simp only [Option.bind_some]; cases operandOf d.code <;> rfl
  have hframe : g = { u.g with s := g.s, sPoison := g.sPoison, fpstat := g.fpstat } := by
    rw [← hg, hwrite]
    cases scalarDest k.form with
    | none => rfl
    | some n => simp only; rw [writeScalars_frame]; rfl
  have hadv := advance_frame u g (latchEntry u k)
  rw [hrun]
  refine ⟨finish_onlyGroup _ _ _ _, advance u g (latchEntry u k), finish_group _ _ _ _, ?_, ?_⟩
  · apply advance_nextPlace <;> rw [hframe]
  · rw [hs, if_pos rfl]
    refine ⟨?_, ?_, ?_, ?_⟩
    · intro n
      rw [hadv]
      show g.sreg n = _
      rw [← hg, hwrite]
      unfold inRun
      cases scalarDest k.form with
      | none => rfl
      | some m => show (writeScalars u.g m _).sreg n = _; rw [writeScalars_sreg]
    · intro n
      rw [hadv]
      show g.sBad n = _
      rw [← hg, hwrite]
      unfold reaches
      cases scalarDest k.form with
      | none => show u.g.sBad n = _; simp
      | some m =>
        show (writeScalars u.g m _).sBad n = _
        rw [writeScalars_sBad]
        by_cases hc : m ≤ n ∧ n < m + (k.out u 0).words.length
        · rw [if_pos hc]; simp [hc.1, hc.2]
        · rw [if_neg hc]
          have : (decide (m ≤ n) && decide (n < m + (k.out u 0).words.length)) = false := by
            rw [← Bool.not_eq_true]; simpa using hc
          simp [this]
    · rw [hadv]
      show g.fpstat = _
      rw [← hg, hwrite]
      cases scalarDest k.form with
      | none => rfl
      | some n => simp only [Group.orFpstat]; rw [writeScalars_frame]; rfl
    · have hv : ∀ x, x = advance u g (latchEntry u k) → x = moved g x := fun x hx => by rw [hx]; exact hadv
      generalize advance u g (latchEntry u k) = x at hv
      have hm := hv x rfl
      refine hm.trans ?_
      rw [hm, hframe]
      rfl

/-- R54, R81, R101: a short-latency instruction whose operands fit computes its results and does nothing else. -/
theorem vectorOp_computed {k : Compute} (hx : ∀ x ∈ k.form.uses, x.Shaped) (hl : k.form.latch ≤ 2)
    (hw : k.form.latch ≠ 0 → ∀ u l, (k.out u l).words.length ≤ 2) (h : Issuing s u) (hf : OperandsFit u k.form) :
    ∃ t, vectorOp s k.form noCheck k.out = .next t ∧ Computed s u k t := by
  refine ⟨_, vectorOp_next k.out hx h hf, ?_⟩
  cases hs : k.form.sc with
  | true => exact runScalar_computed s hs
  | false => exact runLanes_computed s hs hl fun h l _ => hw h u l

end Sys2Proof.Machine
end

