-- ==== Sys2Proof/Laws/Memory.lean ====
section
/-!
SUPPORT. The memory list: a read after a write, and the canonical form, which every operation over memory keeps.
-/

namespace Sys2Proof.Machine

/-- A byte written is read back, and every other location reads as before. -/
theorem Memory.byte_setByte (m : List Host.Cell) (a x : Nat) (b : Byte) :
    Memory.byte (Memory.setByte m a b) x = if x = a then b else Memory.byte m x :=
  Table.read_write m a x b Memory.default

theorem Memory.wf_setByte (m : List Host.Cell) (a : Nat) (b : Byte) (h : Memory.wf m = true) :
    Memory.wf (Memory.setByte m a b) = true :=
  Table.canonical_write m a b Memory.default h

theorem Memory.wf_setBytes (m : List Host.Cell) (a : Nat) (bs : List Byte) (h : Memory.wf m = true) :
    Memory.wf (Memory.setBytes m a bs) = true := by
  induction bs generalizing m a with
  | nil => exact h
  | cons b t ih => exact ih _ _ (Memory.wf_setByte m a b h)

/-- A location below the bytes written reads as before. -/
theorem Memory.byte_setBytes_below (m : List Host.Cell) (a x : Nat) (bs : List Byte) (h : x < a) :
    Memory.byte (Memory.setBytes m a bs) x = Memory.byte m x := by
  induction bs generalizing m a with
  | nil => rfl
  | cons b t ih =>
    show Memory.byte (Memory.setBytes (Memory.setByte m a b) (a + 1) t) x = _
    rw [ih _ _ (by omega), Memory.byte_setByte, if_neg (by omega)]

/-- A location above the bytes written reads as before. -/
theorem Memory.byte_setBytes_above (m : List Host.Cell) (a x : Nat) (bs : List Byte) (h : a + bs.length ≤ x) :
    Memory.byte (Memory.setBytes m a bs) x = Memory.byte m x := by
  induction bs generalizing m a with
  | nil => rfl
  | cons b t ih =>
    simp only [List.length_cons] at h
    show Memory.byte (Memory.setBytes (Memory.setByte m a b) (a + 1) t) x = _
    rw [ih _ _ (by omega), Memory.byte_setByte, if_neg (by omega)]

/-- What is written is what is read. -/
theorem Memory.bytes_setBytes (m : List Host.Cell) (a : Nat) (bs : List Byte) :
    Memory.bytes (Memory.setBytes m a bs) a bs.length = bs := by
  induction bs generalizing m a with
  | nil => rfl
  | cons b t ih =>
    show Memory.byte (Memory.setBytes (Memory.setByte m a b) (a + 1) t) a :: _ = _
    rw [Memory.byte_setBytes_below _ _ _ _ (by omega), Memory.byte_setByte, if_pos rfl]
    exact congrArg _ (ih _ _)

/-- A write at a home keeps the canonical form. -/
theorem State.wf_writeMem (s : State) (a : Nat) (bs : List Byte) (h : Memory.wf s.mem = true) :
    Memory.wf (s.writeMem a bs).mem = true :=
  Memory.wf_setBytes s.mem a bs h

/-- A location outside the bytes written reads as before. -/
theorem State.byte_writeMem (s : State) (a x : Nat) (bs : List Byte) (h : x < a ∨ a + bs.length ≤ x) :
    Memory.byte (s.writeMem a bs).mem x = Memory.byte s.mem x := by
  rcases h with h | h
  · exact Memory.byte_setBytes_below s.mem a x bs h
  · exact Memory.byte_setBytes_above s.mem a x bs h

/-- Reset memory lists nothing. -/
theorem State.reset_mem : State.reset.mem = [] := rfl

/-- The memory list after reset is in the canonical form. -/
theorem State.wf_reset : Memory.wf State.reset.mem = true := rfl

end Sys2Proof.Machine
end

