-- ==== Sys2Proof/Laws/Ordering.lean ====
section
/-!
SUPPORT. How an execution is shown to satisfy the axioms of spec/07 R190: from ranks that every edge raises.
-/

namespace Sys2Proof.Ordering

/-- A relation that raises a rank has no cycle. -/
theorem acyclic_of_rank {r : Nat → Nat → Prop} (f : Nat → Nat) (h : ∀ i j, r i j → f i < f j) : Acyclic r := by
  have key : ∀ i j, Relation.TransGen r i j → f i < f j := by
    intro i j p
    induction p with
    | single e => exact h _ _ e
    | tail _ e ih => exact lt_trans ih (h _ _ e)
  exact fun i p => lt_irrefl _ (key i i p)

theorem one_bound {x : Execution} {p : Event → Bool} {i : Nat} (h : x.one p i = true) : i ∈ x.names := by
  unfold Execution.one at h
  rcases hi : x.program.events[i]? with _ | e
  · simp [hi] at h
  · exact List.mem_range.mpr (List.getElem?_eq_some_iff.mp hi).1

theorem two_bound {x : Execution} {p : Event → Event → Bool} {i j : Nat} (h : x.two p i j = true) : i ∈ x.names ∧ j ∈ x.names := by
  unfold Execution.two Execution.one at h
  rcases hi : x.program.events[i]? with _ | e
  · simp [hi] at h
  · rcases hj : x.program.events[j]? with _ | f
    · simp [hi, hj] at h
    · exact ⟨List.mem_range.mpr (List.getElem?_eq_some_iff.mp hi).1, List.mem_range.mpr (List.getElem?_eq_some_iff.mp hj).1⟩

/-- Every pair of names meets a condition. -/
def Execution.pairs (x : Execution) (p : Nat → Nat → Bool) : Bool := x.names.all fun i => x.names.all fun j => p i j

theorem pairs_apply {x : Execution} {p : Nat → Nat → Bool} (h : x.pairs p = true) {i j : Nat} (hi : i ∈ x.names) (hj : j ∈ x.names) :
    p i j = true := List.all_eq_true.mp (List.all_eq_true.mp h i hi) j hj

/-- An edge of happens-before joins two names. -/
theorem hbEdge_bound {x : Execution} {i j : Nat} (h : x.hbEdge i j = true) : i ∈ x.names ∧ j ∈ x.names := by
  simp only [Execution.hbEdge, Execution.sw, Execution.swAccess, Execution.swFence, Execution.swPhase, Execution.swPromotion,
    Execution.swOrder, Execution.fencePair, Execution.po, Execution.eng, Bool.or_eq_true, Bool.and_eq_true] at h
  rcases h with (h | ((((h | h) | h) | h) | h)) | h
  · exact two_bound h
  · exact two_bound h.1
  · exact two_bound h.1
  · exact two_bound h
  · exact two_bound h.1
  · exact two_bound h.1
  · exact two_bound h

/-- A transitive relation that holds every edge holds all of happens-before. -/
theorem hb_within {x : Execution} (reach : Nat → Nat → Bool)
    (h : x.pairs (fun i j => !x.hbEdge i j || (reach i j && x.names.all fun k => !reach k i || reach k j)) = true) {i j : Nat}
    (p : x.hb i j) : i ∈ x.names ∧ j ∈ x.names ∧ reach i j = true := by
  induction p with
  | single e =>
    have b := hbEdge_bound e
    have := pairs_apply h b.1 b.2
    simp [e] at this
    exact ⟨b.1, b.2, this.1⟩
  | @tail m n _ e ih =>
    have b := hbEdge_bound e
    have := pairs_apply h b.1 b.2
    simp [e] at this
    exact ⟨ih.1, b.2, by simpa [ih.2.2] using this.2 i ih.1⟩

/-- The checks of consistency: reach holds happens-before; c, t and v are raised by the edges of the three other axioms. -/
def Execution.checks (x : Execution) (reach : Nat → Nat → Bool) (c : Location → Nat → Nat) (t v : Nat → Nat) : Bool :=
  x.locations.all (fun b =>
    (x.co b).Nodup && (x.co b).all (fun w => x.writesAt b w) && x.names.all (fun w => !x.writesAt b w || w ∈ x.co b) &&
    x.names.all (fun r => !x.readsAt b r || (x.source r b).all fun w => x.writesAt b w && w != r) &&
    x.locations.all (fun d => x.pairs fun v w =>
      !(x.one (fun e => e.sameUnit b d) v && x.one (fun e => e.sameUnit b d) w) ||
        ((!(x.one (·.writes) v && x.one (·.writes) w) || x.coAt b v w == x.coAt d v w) &&
         (!(x.one (·.reads) v && x.one (·.writes) w) ||
            decide (x.rank b (some w) ≤ x.rank b (x.source v b)) == decide (x.rank d (some w) ≤ x.rank d (x.source v d))))) &&
    x.names.all (fun m => !(x.readsAt b m && x.writesAt b m) || x.rank b (some m) == x.rank b (x.source m b) + 1) &&
    x.pairs (fun i j => !((reach i j && x.one (fun e => b ∈ e.bytes) i && x.one (fun e => b ∈ e.bytes) j) ||
      x.rfAt b i j || x.coAt b i j || x.frAt b i j) || c b i < c b j)) &&
  x.fences.Nodup && x.fences.all (x.one fun e => e.kind == .fence && e.release && e.acquire) &&
  x.names.all (fun i => !x.one (fun e => e.kind == .fence && e.release && e.acquire) i || i ∈ x.fences) &&
  x.pairs (fun i j => !x.hbEdge i j || (reach i j && x.names.all fun k => !reach k i || reach k j)) &&
  x.names.all (fun i => !reach i i) &&
  x.pairs (fun i j => !(x.dep i j || x.somewhere x.rfAt i j) || t i < t j) &&
  x.pairs (fun i j => !(x.two (fun e f => e.visible && f.visible) i j &&
    (x.ppo i j || x.somewhere x.rfAt i j || x.somewhere x.coAt i j || x.somewhere x.frAt i j)) || v i < v j)

theorem one_and {x : Execution} {p q : Event → Bool} {i : Nat} :
    x.one (fun e => p e && q e) i = (x.one p i && x.one q i) := by
  unfold Execution.one
  cases x.program.events[i]? <;> simp

theorem hb_trans_closed {x : Execution} {i : Nat} (h : Relation.TransGen x.hb i i) : x.hb i i := by
  have key : ∀ j, Relation.TransGen x.hb i j → x.hb i j := by
    intro j p
    induction p with
    | single e => exact e
    | tail _ e ih => exact Relation.TransGen.trans ih e
  exact key i h

/-- An execution that passes the checks satisfies the axioms. -/
theorem consistent_of_checks {x : Execution} {reach : Nat → Nat → Bool} {c : Location → Nat → Nat} {t v : Nat → Nat}
    (h : x.checks reach c t v = true) : Consistent x := by
  unfold Execution.checks at h
  simp only [Bool.and_eq_true] at h
  obtain ⟨⟨⟨⟨⟨⟨⟨hb, hn⟩, hf⟩, hg⟩, hr⟩, hi⟩, ht⟩, hv⟩ := h
  have bytes := List.all_eq_true.mp hb
  simp only [Bool.and_eq_true] at bytes
  have inside : ∀ i j, x.hb i j → i ∈ x.names ∧ j ∈ x.names ∧ reach i j = true := fun i j p => hb_within reach hr p
  have src : ∀ b ∈ x.locations, ∀ r, x.readsAt b r = true → ∀ w, x.source r b = some w → x.writesAt b w = true ∧ w ≠ r := by
    intro b m r h1 w h2
    have := List.all_eq_true.mp (bytes b m).1.1.1.2 r (one_bound h1)
    simpa [h1, h2] using this
  have unit : ∀ b ∈ x.locations, ∀ d ∈ x.locations, ∀ p q, x.one (fun e => e.sameUnit b d) p = true →
      x.one (fun e => e.sameUnit b d) q = true →
      (x.one (·.writes) p = true → x.one (·.writes) q = true → x.coAt b p q = x.coAt d p q) ∧
      (x.one (·.reads) p = true → x.one (·.writes) q = true →
        (x.rank b (some q) ≤ x.rank b (x.source p b) ↔ x.rank d (some q) ≤ x.rank d (x.source p d))) := by
    intro b m d n p q h1 h2
    have := pairs_apply (List.all_eq_true.mp (bytes b m).1.1.2 d n) (one_bound h1) (one_bound h2)
    simp only [h1, h2, Bool.and_self, Bool.not_true, Bool.false_or, Bool.and_eq_true] at this
    refine ⟨fun a e => ?_, fun a e => ?_⟩
    · have h3 := this.1
      simpa [a, e] using h3
    · have h3 := this.2
      simpa [a, e] using h3
  refine ⟨⟨?_, ?_, ?_, ?_, ?_⟩, ?_, ?_, ?_, ?_, ?_⟩
  · intro b m
    have := bytes b m
    refine ⟨by simpa using this.1.1.1.1.1.1, fun w => ⟨List.all_eq_true.mp this.1.1.1.1.1.2 w, fun h1 => ?_⟩⟩
    have h2 := List.all_eq_true.mp this.1.1.1.1.2 w (one_bound h1)
    simpa [h1] using h2
  · exact fun b m r w h1 h2 => src b m r h1 w h2
  · refine ⟨by simpa using hn, fun i => ⟨List.all_eq_true.mp hf i, fun h1 => ?_⟩⟩
    have h2 := List.all_eq_true.mp hg i (one_bound h1)
    rw [h1] at h2
    simpa using h2
  · intro b m d n p q h1 h2
    rw [one_and, Bool.and_eq_true] at h1 h2
    exact (unit b m d n p q h1.2 h2.2).1 h1.1 h2.1
  · intro b m d n p q h1 h2
    rw [one_and, Bool.and_eq_true] at h1 h2
    exact (unit b m d n p q h1.2 h2.2).2 h1.1 h2.1
  · intro b m
    refine acyclic_of_rank (c b) fun i j e => ?_
    have names : i ∈ x.names ∧ j ∈ x.names := by
      rcases e with ⟨e, -, -⟩ | e | e | e
      · exact ⟨(inside i j e).1, (inside i j e).2.1⟩
      · simp only [Execution.rfAt, Bool.and_eq_true, beq_iff_eq] at e
        exact ⟨one_bound (src b m j e.1 i e.2).1, one_bound e.1⟩
      · simp only [Execution.coAt, Bool.and_eq_true] at e
        exact ⟨one_bound e.1.1, one_bound e.1.2⟩
      · simp only [Execution.frAt, Bool.and_eq_true] at e
        exact ⟨one_bound e.1.1.1, one_bound e.1.1.2⟩
    have := pairs_apply (bytes b m).2 names.1 names.2
    rcases e with ⟨e, e1, e2⟩ | e | e | e
    · simpa [(inside i j e).2.2, e1, e2] using this
    · simpa [e] using this
    · simpa [e] using this
    · simpa [e] using this
  · intro b m k h1 h2
    have := List.all_eq_true.mp (bytes b m).1.2 k (one_bound h1)
    simpa [h1, h2] using this
  · intro i p
    have := inside i i (hb_trans_closed p)
    have h2 := List.all_eq_true.mp hi i this.1
    simp [this.2.2] at h2
  · refine acyclic_of_rank t fun i j e => ?_
    have names : i ∈ x.names ∧ j ∈ x.names := by
      rcases e with e | e
      · simp only [Execution.dep, Bool.and_eq_true] at e
        exact two_bound e.2
      · simp only [Execution.somewhere, List.any_eq_true] at e
        obtain ⟨b, m, e⟩ := e
        simp only [Execution.rfAt, Bool.and_eq_true, beq_iff_eq] at e
        exact ⟨one_bound (src b m j e.1 i e.2).1, one_bound e.1⟩
    have := pairs_apply ht names.1 names.2
    rcases e with e | e <;> simpa [e] using this
  · refine acyclic_of_rank v fun i j e => ?_
    have names := two_bound e.1
    have := pairs_apply hv names.1 names.2
    rcases e with ⟨e1, e | e | e | e⟩ <;> simpa [e, e1] using this

end Sys2Proof.Ordering
end

