-- ==== Sys2Proof/Laws/PerInstr.lean ====
section
/-!
SUPPORT. Statements made per instruction. RoundTrip: an instruction's word is read back as the instruction, every field of it
at every value; a step of the part or of the outside has no word.
-/

namespace Sys2Proof.Laws

/-- A field that lies in the high part of two joined vectors. -/
theorem extract_high {k m lo n : Nat} (x : BitVec k) (y : BitVec m) (h : m ≤ lo) :
    (x ++ y).extractLsb' lo n = x.extractLsb' (lo - m) n := by
  ext i hi
  simp only [BitVec.getElem_extractLsb', BitVec.getLsbD_append, show ¬ lo + i < m by omega, if_false]
  congr 1; omega

/-- A field that lies in the low part. -/
theorem extract_low {k m lo n : Nat} (x : BitVec k) (y : BitVec m) (h : lo + n ≤ m) :
    (x ++ y).extractLsb' lo n = y.extractLsb' lo n := by
  ext i hi
  simp only [BitVec.getElem_extractLsb', BitVec.getLsbD_append, show lo + i < m by omega, if_true]

/-- The whole of a vector. -/
theorem extract_all {n : Nat} (x : BitVec n) : x.extractLsb' 0 n = x := by
  ext i hi; simp

/-- The fields of a packed word are the fields packed. -/
theorem formVOf_packV (o : BitVec 10) (f : FormV) : formVOf (packV o f) = f := by
  obtain ⟨tt, sc, nw, d, a, b, c⟩ := f
  unfold formVOf packV
  rw [show @BitVec.extractLsb' 64 = @BitVec.extractLsb' (10 + 8 + 1 + 1 + 11 + 11 + 11 + 11) from rfl,
    show @BitVec.getLsbD 64 = @BitVec.getLsbD (10 + 8 + 1 + 1 + 11 + 11 + 11 + 11) from rfl]
  simp (disch := decide) only [extract_high, extract_low, Nat.reduceSub, extract_all, BitVec.getLsbD_append]
  simp

theorem opcOf_packV (o : BitVec 10) (f : FormV) : opcOf (packV o f) = o.toNat := by
  unfold opcOf packV
  rw [show @BitVec.extractLsb' 64 = @BitVec.extractLsb' (10 + 8 + 1 + 1 + 11 + 11 + 11 + 11) from rfl]
  simp (disch := decide) only [extract_high, Nat.reduceSub, extract_all]

/-- The fields of a packed word are the fields packed. -/
theorem formIOf_packI (o : BitVec 10) (f : FormI) : formIOf (packI o f) = f := by
  obtain ⟨tt, sc, nw, d, a, imm⟩ := f
  unfold formIOf packI
  rw [show @BitVec.extractLsb' 64 = @BitVec.extractLsb' (10 + 8 + 1 + 1 + 11 + 11 + 22) from rfl,
    show @BitVec.getLsbD 64 = @BitVec.getLsbD (10 + 8 + 1 + 1 + 11 + 11 + 22) from rfl]
  simp (disch := decide) only [extract_high, extract_low, Nat.reduceSub, extract_all, BitVec.getLsbD_append]
  simp

theorem opcOf_packI (o : BitVec 10) (f : FormI) : opcOf (packI o f) = o.toNat := by
  unfold opcOf packI
  rw [show @BitVec.extractLsb' 64 = @BitVec.extractLsb' (10 + 8 + 1 + 1 + 11 + 11 + 22) from rfl]
  simp (disch := decide) only [extract_high, Nat.reduceSub, extract_all]

/-- The fields of a packed word are the fields packed. -/
theorem formMOf_packM (o : BitVec 10) (f : FormM) : formMOf (packM o f) = f := by
  obtain ⟨tt, sc, nw, d, a, off, scope, order⟩ := f
  unfold formMOf packM
  rw [show @BitVec.extractLsb' 64 = @BitVec.extractLsb' (10 + 8 + 1 + 1 + 11 + 11 + 18 + 2 + 2) from rfl,
    show @BitVec.getLsbD 64 = @BitVec.getLsbD (10 + 8 + 1 + 1 + 11 + 11 + 18 + 2 + 2) from rfl]
  simp (disch := decide) only [extract_high, extract_low, Nat.reduceSub, extract_all, BitVec.getLsbD_append]
  simp

theorem opcOf_packM (o : BitVec 10) (f : FormM) : opcOf (packM o f) = o.toNat := by
  unfold opcOf packM
  rw [show @BitVec.extractLsb' 64 = @BitVec.extractLsb' (10 + 8 + 1 + 1 + 11 + 11 + 18 + 2 + 2) from rfl]
  simp (disch := decide) only [extract_high, Nat.reduceSub, extract_all]

/-- The fields of a packed word are the fields packed. -/
theorem formXOf_packX (o : BitVec 10) (f : FormX) : formXOf (packX o f) = f := by
  obtain ⟨tt, z, s, tgt⟩ := f
  unfold formXOf packX
  rw [show @BitVec.extractLsb' 64 = @BitVec.extractLsb' (10 + 8 + 3 + 11 + 32) from rfl]
  simp (disch := decide) only [extract_high, extract_low, Nat.reduceSub, extract_all]

theorem opcOf_packX (o : BitVec 10) (f : FormX) : opcOf (packX o f) = o.toNat := by
  unfold opcOf packX
  rw [show @BitVec.extractLsb' 64 = @BitVec.extractLsb' (10 + 8 + 3 + 11 + 32) from rfl]
  simp (disch := decide) only [extract_high, Nat.reduceSub, extract_all]

/-- The fields of a packed word are the fields packed. -/
theorem formTOf_packT (o : BitVec 10) (f : FormT) : formTOf (packT o f) = f := by
  obtain ⟨tt, reuse, z, acc, ab, bs, gsel, spsel, shape⟩ := f
  unfold formTOf packT
  rw [show @BitVec.extractLsb' 64 = @BitVec.extractLsb' (10 + 8 + 1 + 1 + 11 + 11 + 11 + 3 + 2 + 6) from rfl,
    show @BitVec.getLsbD 64 = @BitVec.getLsbD (10 + 8 + 1 + 1 + 11 + 11 + 11 + 3 + 2 + 6) from rfl]
  simp (disch := decide) only [extract_high, extract_low, Nat.reduceSub, extract_all, BitVec.getLsbD_append]
  simp

theorem opcOf_packT (o : BitVec 10) (f : FormT) : opcOf (packT o f) = o.toNat := by
  unfold opcOf packT
  rw [show @BitVec.extractLsb' 64 = @BitVec.extractLsb' (10 + 8 + 1 + 1 + 11 + 11 + 11 + 3 + 2 + 6) from rfl]
  simp (disch := decide) only [extract_high, Nat.reduceSub, extract_all]

/-- The fields of a packed word are the fields packed. -/
theorem formHOf_packH (o : BitVec 10) (f : FormH) : formHOf (packH o f) = f := by
  obtain ⟨tt, sc, nw, d, a, fn, qn, qk, hx, hs⟩ := f
  unfold formHOf packH
  rw [show @BitVec.extractLsb' 64 = @BitVec.extractLsb' (10 + 8 + 1 + 1 + 11 + 11 + 8 + 3 + 3 + 4 + 4) from rfl,
    show @BitVec.getLsbD 64 = @BitVec.getLsbD (10 + 8 + 1 + 1 + 11 + 11 + 8 + 3 + 3 + 4 + 4) from rfl]
  simp (disch := decide) only [extract_high, extract_low, Nat.reduceSub, extract_all, BitVec.getLsbD_append]
  simp

theorem opcOf_packH (o : BitVec 10) (f : FormH) : opcOf (packH o f) = o.toNat := by
  unfold opcOf packH
  rw [show @BitVec.extractLsb' 64 = @BitVec.extractLsb' (10 + 8 + 1 + 1 + 11 + 11 + 8 + 3 + 3 + 4 + 4) from rfl]
  simp (disch := decide) only [extract_high, Nat.reduceSub, extract_all]

/-! ## RoundTrip -/

/-- The word that encodes an instruction is read as that instruction. -/
def RoundTrip.Statement (i : Instr) : Prop := ∀ w, encode i = some w → decodeRaw w = some i

namespace RoundTrip

theorem readV {i : Instr} {C : FormV → Instr} {o : BitVec 10} {f : FormV}
    (h : (encode i, opMap o.toNat, i) = (some (packV o f), some (fun w => C (formVOf w)), C f)) : Statement i := by
  obtain ⟨he, ho, hi⟩ : _ ∧ _ ∧ _ := by simpa using h
  intro w hw
  obtain rfl : packV o f = w := by simpa [he] using hw
  simp [decodeRaw, opcOf_packV, ho, hi, formVOf_packV]

theorem readI {i : Instr} {C : FormI → Instr} {o : BitVec 10} {f : FormI}
    (h : (encode i, opMap o.toNat, i) = (some (packI o f), some (fun w => C (formIOf w)), C f)) : Statement i := by
  obtain ⟨he, ho, hi⟩ : _ ∧ _ ∧ _ := by simpa using h
  intro w hw
  obtain rfl : packI o f = w := by simpa [he] using hw
  simp [decodeRaw, opcOf_packI, ho, hi, formIOf_packI]

theorem readM {i : Instr} {C : FormM → Instr} {o : BitVec 10} {f : FormM}
    (h : (encode i, opMap o.toNat, i) = (some (packM o f), some (fun w => C (formMOf w)), C f)) : Statement i := by
  obtain ⟨he, ho, hi⟩ : _ ∧ _ ∧ _ := by simpa using h
  intro w hw
  obtain rfl : packM o f = w := by simpa [he] using hw
  simp [decodeRaw, opcOf_packM, ho, hi, formMOf_packM]

theorem readX {i : Instr} {C : FormX → Instr} {o : BitVec 10} {f : FormX}
    (h : (encode i, opMap o.toNat, i) = (some (packX o f), some (fun w => C (formXOf w)), C f)) : Statement i := by
  obtain ⟨he, ho, hi⟩ : _ ∧ _ ∧ _ := by simpa using h
  intro w hw
  obtain rfl : packX o f = w := by simpa [he] using hw
  simp [decodeRaw, opcOf_packX, ho, hi, formXOf_packX]

theorem readT {i : Instr} {C : FormT → Instr} {o : BitVec 10} {f : FormT}
    (h : (encode i, opMap o.toNat, i) = (some (packT o f), some (fun w => C (formTOf w)), C f)) : Statement i := by
  obtain ⟨he, ho, hi⟩ : _ ∧ _ ∧ _ := by simpa using h
  intro w hw
  obtain rfl : packT o f = w := by simpa [he] using hw
  simp [decodeRaw, opcOf_packT, ho, hi, formTOf_packT]

theorem readH {i : Instr} {C : FormH → Instr} {o : BitVec 10} {f : FormH}
    (h : (encode i, opMap o.toNat, i) = (some (packH o f), some (fun w => C (formHOf w)), C f)) : Statement i := by
  obtain ⟨he, ho, hi⟩ : _ ∧ _ ∧ _ := by simpa using h
  intro w hw
  obtain rfl : packH o f = w := by simpa [he] using hw
  simp [decodeRaw, opcOf_packH, ho, hi, formHOf_packH]

theorem clauseIssue (core : Nat) (quad : Nat) : Statement (.clauseIssue core quad) := nofun
theorem nop (f : FormV) : Statement (.nop f) := readV rfl
theorem jmp (f : FormX) : Statement (.jmp f) := readX rfl
theorem jmpa (f : FormX) : Statement (.jmpa f) := readX rfl
theorem jmpl (f : FormX) : Statement (.jmpl f) := readX rfl
theorem brx (f : FormX) : Statement (.brx f) := readX rfl
theorem loopd (f : FormX) : Statement (.loopd f) := readX rfl
theorem mark (f : FormX) : Statement (.mark f) := readX rfl
theorem split (f : FormX) : Statement (.split f) := readX rfl
theorem join (f : FormV) : Statement (.join f) := readV rfl
theorem call (f : FormX) : Statement (.call f) := readX rfl
theorem ret (f : FormX) : Statement (.ret f) := readX rfl
theorem exit (f : FormV) : Statement (.exit f) := readV rfl
theorem yield (f : FormV) : Statement (.yield f) := readV rfl
theorem cmp (t : CmpType) (f : FormV) : Statement (.cmp t f) := by cases t <;> exact readV rfl
theorem cmpa (t : CmpType) (f : FormV) : Statement (.cmpa t f) := by cases t <;> exact readV rfl
theorem cmpo (t : CmpType) (f : FormV) : Statement (.cmpo t f) := by cases t <;> exact readV rfl
theorem plop (f : FormI) : Statement (.plop f) := readI rfl
theorem pmov (f : FormV) : Statement (.pmov f) := readV rfl
theorem ballot (f : FormV) : Statement (.ballot f) := readV rfl
theorem pcount (f : FormV) : Statement (.pcount f) := readV rfl
theorem pfirst (f : FormV) : Statement (.pfirst f) := readV rfl
theorem plive (f : FormI) : Statement (.plive f) := readI rfl
theorem add (w : IWidth) (f : FormV) : Statement (.add w f) := by cases w <;> exact readV rfl
theorem addImm (f : FormI) : Statement (.addImm f) := readI rfl
theorem sub (w : IWidth) (f : FormV) : Statement (.sub w f) := by cases w <;> exact readV rfl
theorem subImm (f : FormI) : Statement (.subImm f) := readI rfl
theorem addc (f : FormV) : Statement (.addc f) := readV rfl
theorem subb (f : FormV) : Statement (.subb f) := readV rfl
theorem mul (w : IWidth) (f : FormV) : Statement (.mul w f) := by cases w <;> exact readV rfl
theorem mulImm (f : FormI) : Statement (.mulImm f) := readI rfl
theorem mulhi (g : Sign) (f : FormV) : Statement (.mulhi g f) := by cases g <;> exact readV rfl
theorem mad (w : IWidth) (f : FormV) : Statement (.mad w f) := by cases w <;> exact readV rfl
theorem madhi (g : Sign) (f : FormV) : Statement (.madhi g f) := by cases g <;> exact readV rfl
theorem div (g : Sign) (f : FormV) : Statement (.div g f) := by cases g <;> exact readV rfl
theorem rem (g : Sign) (f : FormV) : Statement (.rem g f) := by cases g <;> exact readV rfl
theorem min (w : IWidth) (g : Sign) (f : FormV) : Statement (.min w g f) := by cases w <;> cases g <;> exact readV rfl
theorem max (w : IWidth) (g : Sign) (f : FormV) : Statement (.max w g f) := by cases w <;> cases g <;> exact readV rfl
theorem minImm (f : FormI) : Statement (.minImm f) := readI rfl
theorem maxImm (f : FormI) : Statement (.maxImm f) := readI rfl
theorem abs (w : IWidth) (f : FormV) : Statement (.abs w f) := by cases w <;> exact readV rfl
theorem neg (w : IWidth) (f : FormV) : Statement (.neg w f) := by cases w <;> exact readV rfl
theorem addPacked (e : PackWidth) (f : FormV) : Statement (.addPacked e f) := by cases e <;> exact readV rfl
theorem subPacked (e : PackWidth) (f : FormV) : Statement (.subPacked e f) := by cases e <;> exact readV rfl
theorem minPacked (e : PackWidth) (g : Sign) (f : FormV) : Statement (.minPacked e g f) := by cases e <;> cases g <;> exact readV rfl
theorem maxPacked (e : PackWidth) (g : Sign) (f : FormV) : Statement (.maxPacked e g f) := by cases e <;> cases g <;> exact readV rfl
theorem and (w : IWidth) (f : FormV) : Statement (.and w f) := by cases w <;> exact readV rfl
theorem andImm (f : FormI) : Statement (.andImm f) := readI rfl
theorem or (w : IWidth) (f : FormV) : Statement (.or w f) := by cases w <;> exact readV rfl
theorem orImm (f : FormI) : Statement (.orImm f) := readI rfl
theorem xor (w : IWidth) (f : FormV) : Statement (.xor w f) := by cases w <;> exact readV rfl
theorem xorImm (f : FormI) : Statement (.xorImm f) := readI rfl
theorem andn (w : IWidth) (f : FormV) : Statement (.andn w f) := by cases w <;> exact readV rfl
theorem not (w : IWidth) (f : FormV) : Statement (.not w f) := by cases w <;> exact readV rfl
theorem shl (w : IWidth) (f : FormV) : Statement (.shl w f) := by cases w <;> exact readV rfl
theorem shlImm (f : FormI) : Statement (.shlImm f) := readI rfl
theorem shr (w : IWidth) (f : FormV) : Statement (.shr w f) := by cases w <;> exact readV rfl
theorem shrImm (f : FormI) : Statement (.shrImm f) := readI rfl
theorem sar (w : IWidth) (f : FormV) : Statement (.sar w f) := by cases w <;> exact readV rfl
theorem sarImm (f : FormI) : Statement (.sarImm f) := readI rfl
theorem rotl (w : IWidth) (f : FormV) : Statement (.rotl w f) := by cases w <;> exact readV rfl
theorem rotlImm (f : FormI) : Statement (.rotlImm f) := readI rfl
theorem bfe (g : Sign) (f : FormV) : Statement (.bfe g f) := by cases g <;> exact readV rfl
theorem bfi (f : FormV) : Statement (.bfi f) := readV rfl
theorem popc (w : IWidth) (f : FormV) : Statement (.popc w f) := by cases w <;> exact readV rfl
theorem clz (w : IWidth) (f : FormV) : Statement (.clz w f) := by cases w <;> exact readV rfl
theorem ctz (w : IWidth) (f : FormV) : Statement (.ctz w f) := by cases w <;> exact readV rfl
theorem brev (w : IWidth) (f : FormV) : Statement (.brev w f) := by cases w <;> exact readV rfl
theorem mov (w : IWidth) (f : FormV) : Statement (.mov w f) := by cases w <;> exact readV rfl
theorem movi (f : FormI) : Statement (.movi f) := readI rfl
theorem movh (f : FormI) : Statement (.movh f) := readI rfl
theorem lea (f : FormV) : Statement (.lea f) := readV rfl
theorem leaImm (f : FormI) : Statement (.leaImm f) := readI rfl
theorem shflIdx (f : FormV) : Statement (.shflIdx f) := readV rfl
theorem shflUp (f : FormV) : Statement (.shflUp f) := readV rfl
theorem shflDown (f : FormV) : Statement (.shflDown f) := readV rfl
theorem shflXor (f : FormV) : Statement (.shflXor f) := readV rfl
theorem xmov (f : FormV) : Statement (.xmov f) := readV rfl
theorem xadd (f : FormV) : Statement (.xadd f) := readV rfl
theorem xaddImm (f : FormI) : Statement (.xaddImm f) := readI rfl
theorem setfmt (f : FormV) : Statement (.setfmt f) := readV rfl
theorem setfmtImm (f : FormI) : Statement (.setfmtImm f) := readI rfl
theorem getfmt (f : FormV) : Statement (.getfmt f) := readV rfl
theorem fadd (t : ArithForm) (f : FormV) : Statement (.fadd t f) := by
  cases t with
    | f32 m => cases m <;> exact readV rfl
    | f64 m => cases m <;> exact readV rfl
    | f16x2 => exact readV rfl
    | bf16x2 => exact readV rfl
theorem fsub (t : ArithForm) (f : FormV) : Statement (.fsub t f) := by
  cases t with
    | f32 m => cases m <;> exact readV rfl
    | f64 m => cases m <;> exact readV rfl
    | f16x2 => exact readV rfl
    | bf16x2 => exact readV rfl
theorem fmul (t : ArithForm) (f : FormV) : Statement (.fmul t f) := by
  cases t with
    | f32 m => cases m <;> exact readV rfl
    | f64 m => cases m <;> exact readV rfl
    | f16x2 => exact readV rfl
    | bf16x2 => exact readV rfl
theorem ffma (t : ArithForm) (f : FormV) : Statement (.ffma t f) := by
  cases t with
    | f32 m => cases m <;> exact readV rfl
    | f64 m => cases m <;> exact readV rfl
    | f16x2 => exact readV rfl
    | bf16x2 => exact readV rfl
theorem faddImm (f : FormI) : Statement (.faddImm f) := readI rfl
theorem fsubImm (f : FormI) : Statement (.fsubImm f) := readI rfl
theorem fmulImm (f : FormI) : Statement (.fmulImm f) := readI rfl
theorem fdiv (t : FWidth) (m : Rounding) (f : FormV) : Statement (.fdiv t m f) := by cases t <;> cases m <;> exact readV rfl
theorem fsqrt (t : FWidth) (m : Rounding) (f : FormV) : Statement (.fsqrt t m f) := by cases t <;> cases m <;> exact readV rfl
theorem fmin (t : FType) (f : FormV) : Statement (.fmin t f) := by cases t <;> exact readV rfl
theorem fmax (t : FType) (f : FormV) : Statement (.fmax t f) := by cases t <;> exact readV rfl
theorem fminn (t : FType) (f : FormV) : Statement (.fminn t f) := by cases t <;> exact readV rfl
theorem fmaxn (t : FType) (f : FormV) : Statement (.fmaxn t f) := by cases t <;> exact readV rfl
theorem fabs (t : FType) (f : FormV) : Statement (.fabs t f) := by cases t <;> exact readV rfl
theorem fneg (t : FType) (f : FormV) : Statement (.fneg t f) := by cases t <;> exact readV rfl
theorem fcopysign (t : FType) (f : FormV) : Statement (.fcopysign t f) := by cases t <;> exact readV rfl
theorem fclass (t : FWidth) (f : FormV) : Statement (.fclass t f) := by cases t <;> exact readV rfl
theorem fscale (t : FWidth) (f : FormV) : Statement (.fscale t f) := by cases t <;> exact readV rfl
theorem frnd (t : FWidth) (m : Rounding) (f : FormV) : Statement (.frnd t m f) := by cases t <;> cases m <;> exact readV rfl
theorem frcp (t : SfuType) (f : FormV) : Statement (.frcp t f) := by cases t <;> exact readV rfl
theorem frsq (t : SfuType) (f : FormV) : Statement (.frsq t f) := by cases t <;> exact readV rfl
theorem fex2 (t : SfuType) (f : FormV) : Statement (.fex2 t f) := by cases t <;> exact readV rfl
theorem flg2 (t : SfuType) (f : FormV) : Statement (.flg2 t f) := by cases t <;> exact readV rfl
theorem fsin (t : SfuType) (f : FormV) : Statement (.fsin t f) := by cases t <;> exact readV rfl
theorem fcos (t : SfuType) (f : FormV) : Statement (.fcos t f) := by cases t <;> exact readV rfl
theorem ftanh (t : SfuType) (f : FormV) : Statement (.ftanh t f) := by cases t <;> exact readV rfl
theorem sfuCompletion (access : Nat) : Statement (.sfuCompletion access) := nofun
theorem cvt (f : FormV) : Statement (.cvt f) := readV rfl
theorem fxcvt (f : FormV) : Statement (.fxcvt f) := readV rfl
theorem cvtpPack (f : FormV) : Statement (.cvtpPack f) := readV rfl
theorem cvtpUnpack (f : FormV) : Statement (.cvtpUnpack f) := readV rfl
theorem dotp (f : FormV) : Statement (.dotp f) := readV rfl
theorem dotpScaledCompletion (access : Nat) : Statement (.dotpScaledCompletion access) := nofun
theorem mxq (f : FormV) : Statement (.mxq f) := readV rfl
theorem mxd (f : FormV) : Statement (.mxd f) := readV rfl
theorem ld (sp : Space) (w : LoadWidth) (f : FormM) : Statement (.ld sp w f) := by cases sp <;> cases w <;> exact readM rfl
theorem st (sp : Space) (w : StoreWidth) (f : FormM) : Statement (.st sp w f) := by cases sp <;> cases w <;> exact readM rfl
theorem pf (f : FormM) : Statement (.pf f) := readM rfl
theorem ldmx (sp : GTSpace) (f : FormM) : Statement (.ldmx sp f) := by cases sp <;> exact readM rfl
theorem stmx (sp : GTSpace) (f : FormM) : Statement (.stmx sp f) := by cases sp <;> exact readM rfl
theorem atom (sp : GTSpace) (op : AtomOp) (f : FormM) : Statement (.atom sp op f) := by cases sp <;> cases op <;> exact readM rfl
theorem red (op : RedOp) (f : FormM) : Statement (.red op f) := by cases op <;> exact readM rfl
theorem loadWriteback (access : Nat) (lanes : Nat) (l1 : Bool) : Statement (.loadWriteback access lanes l1) := nofun
theorem storePerform (access : Nat) (lanes : Nat) : Statement (.storePerform access lanes) := nofun
theorem atomicPerform (access : Nat) (lanes : Nat) : Statement (.atomicPerform access lanes) := nofun
theorem ldmxCompletion (access : Nat) (lanes : Nat) : Statement (.ldmxCompletion access lanes) := nofun
theorem fence (f : FormM) : Statement (.fence f) := readM rfl
theorem bar (f : FormV) : Statement (.bar f) := readV rfl
theorem barc (f : FormV) : Statement (.barc f) := readV rfl
theorem barg (f : FormV) : Statement (.barg f) := readV rfl
theorem barp (f : FormV) : Statement (.barp f) := readV rfl
theorem arrive (f : FormV) : Statement (.arrive f) := readV rfl
theorem await (f : FormV) : Statement (.await f) := readV rfl
theorem monwait (f : FormV) : Statement (.monwait f) := readV rfl
theorem monitorTimeout (group : Nat) : Statement (.monitorTimeout group) := nofun
theorem arvinit (f : FormV) : Statement (.arvinit f) := readV rfl
theorem arvexp (f : FormV) : Statement (.arvexp f) := readV rfl
theorem arvwait (f : FormV) : Statement (.arvwait f) := readV rfl
theorem deliveryCredit (credit : Nat) : Statement (.deliveryCredit credit) := nofun
theorem cpgLd (f : FormV) : Statement (.cpgLd f) := readV rfl
theorem cpgSt (f : FormV) : Statement (.cpgSt f) := readV rfl
theorem cpc (f : FormV) : Statement (.cpc f) := readV rfl
theorem fput (f : FormV) : Statement (.fput f) := readV rfl
theorem fget (f : FormV) : Statement (.fget f) := readV rfl
theorem fputr (f : FormV) : Statement (.fputr f) := readV rfl
theorem cpclose (f : FormV) : Statement (.cpclose f) := readV rfl
theorem cpwait (f : FormV) : Statement (.cpwait f) := readV rfl
theorem cpwaitImm (f : FormI) : Statement (.cpwaitImm f) := readI rfl
theorem coll (f : FormV) : Statement (.coll f) := readV rfl
theorem engineEntryStart (core : Nat) (engine : Nat) : Statement (.engineEntryStart core engine) := nofun
theorem copyEntryComplete (entry : Nat) : Statement (.copyEntryComplete entry) := nofun
theorem watchdogAbort (entry : Nat) : Statement (.watchdogAbort entry) := nofun
theorem gangset (f : FormI) : Statement (.gangset f) := readI rfl
theorem omap (f : FormV) : Statement (.omap f) := readV rfl
theorem thset (f : FormV) : Statement (.thset f) := readV rfl
theorem opfence (f : FormV) : Statement (.opfence f) := readV rfl
theorem mma (f : FormT) : Statement (.mma f) := readT rfl
theorem mmasp (f : FormT) : Statement (.mmasp f) := readT rfl
theorem matrixOpComplete (op : Nat) : Statement (.matrixOpComplete op) := nofun
theorem mmclose (f : FormV) : Statement (.mmclose f) := readV rfl
theorem mmwait (f : FormV) : Statement (.mmwait f) := readV rfl
theorem mmwaitImm (f : FormI) : Statement (.mmwaitImm f) := readI rfl
theorem accld (f : FormT) : Statement (.accld f) := readT rfl
theorem accldCompletion (access : Nat) : Statement (.accldCompletion access) := nofun
theorem accst (sp : GTSpace) (f : FormM) : Statement (.accst sp f) := by cases sp <;> exact readM rfl
theorem accstCompletion (entry : Nat) : Statement (.accstCompletion entry) := nofun
theorem acczero (f : FormT) : Statement (.acczero f) := readT rfl
theorem accadd (f : FormT) : Statement (.accadd f) := readT rfl
theorem hzinit (f : FormH) : Statement (.hzinit f) := readH rfl
theorem hzins (f : FormH) : Statement (.hzins f) := readH rfl
theorem hzmerge (f : FormH) : Statement (.hzmerge f) := readH rfl
theorem hzread (f : FormH) : Statement (.hzread f) := readH rfl
theorem hzreadCompletion (access : Nat) : Statement (.hzreadCompletion access) := nofun
theorem hzstore (sp : GTSpace) (f : FormH) : Statement (.hzstore sp f) := by cases sp <;> exact readH rfl
theorem hzstoreCompletion (entry : Nat) : Statement (.hzstoreCompletion entry) := nofun
theorem hzcount (f : FormH) : Statement (.hzcount f) := readH rfl
theorem hzclear (f : FormH) : Statement (.hzclear f) := readH rfl
theorem hzstat (f : FormH) : Statement (.hzstat f) := readH rfl
theorem trap (f : FormI) : Statement (.trap f) := readI rfl
theorem brk (f : FormV) : Statement (.brk f) := readV rfl
theorem sysrd (f : FormI) : Statement (.sysrd f) := readI rfl
theorem syswr (f : FormI) : Statement (.syswr f) := readI rfl
theorem clock (f : FormV) : Statement (.clock f) := readV rfl
theorem tmark (f : FormI) : Statement (.tmark f) := readI rfl
theorem dmput (f : FormV) : Statement (.dmput f) := readV rfl
theorem dmget (f : FormV) : Statement (.dmget f) := readV rfl
theorem tgtrd (f : FormV) : Statement (.tgtrd f) := readV rfl
theorem tgtwr (f : FormV) : Statement (.tgtwr f) := readV rfl
theorem tgtres (f : FormV) : Statement (.tgtres f) := readV rfl
theorem tgtkill (f : FormV) : Statement (.tgtkill f) := readV rfl
theorem tgthalt (f : FormV) : Statement (.tgthalt f) := readV rfl
theorem tgtstep (f : FormV) : Statement (.tgtstep f) := readV rfl
theorem tgtcalm (f : FormV) : Statement (.tgtcalm f) := readV rfl
theorem bpset (f : FormV) : Statement (.bpset f) := readV rfl
theorem wpset (f : FormV) : Statement (.wpset f) := readV rfl
theorem trapRecordWrite (group : Nat) : Statement (.trapRecordWrite group) := nofun
theorem handlerCreate (ctx : Nat) : Statement (.handlerCreate ctx) := nofun
theorem minWaitedPerform (group : Nat) : Statement (.minWaitedPerform group) := nofun
theorem reductionDrain (launch : Nat) : Statement (.reductionDrain launch) := nofun
theorem walkComplete (walk : Nat) : Statement (.walkComplete walk) := nofun
theorem teamEvict (team : Nat) : Statement (.teamEvict team) := nofun
theorem evictSaveComplete (team : Nat) : Statement (.evictSaveComplete team) := nofun
theorem teamResume (team : Nat) : Statement (.teamResume team) := nofun
theorem compactorMove (core : Nat) : Statement (.compactorMove core) := nofun
theorem validatePacket (tenant : Nat) (fabric : Bool) : Statement (.validatePacket tenant fabric) := nofun
theorem launchEnd (launch : Nat) : Statement (.launchEnd launch) := nofun
theorem sliceEnd (core : Nat) : Statement (.sliceEnd core) := nofun
theorem revocation (core : Nat) : Statement (.revocation core) := nofun
theorem revocationDeadline (core : Nat) : Statement (.revocationDeadline core) := nofun
theorem demotionSerialPoint (ctx : Nat) : Statement (.demotionSerialPoint ctx) := nofun
theorem calmStep (ctx : Nat) : Statement (.calmStep ctx) := nofun
theorem tailWrite (tenant : Nat) (value : Word) : Statement (.tailWrite tenant value) := nofun
theorem uestatWrite (tenant : Nat) (value : Word) : Statement (.uestatWrite tenant value) := nofun
theorem cestatWrite (tenant : Nat) (value : Word) : Statement (.cestatWrite tenant value) := nofun
theorem mailboxHostWrite (ctx : Nat) (offset : Nat) (size : Nat) (value : Word64) : Statement (.mailboxHostWrite ctx offset size value) := nofun
theorem obsctlWrite (ctx : Nat) (value : Word) : Statement (.obsctlWrite ctx value) := nofun
theorem obsBaseWrite (ctx : Nat) (sounding : Bool) (value : Word64) : Statement (.obsBaseWrite ctx sounding value) := nofun
theorem bctlWrite (die : Nat) (mon : Nat) (value : Word) : Statement (.bctlWrite die mon value) := nofun
theorem registerWrite (bar : Nat) (offset : Nat) (size : Nat) (value : Word64) : Statement (.registerWrite bar offset size value) := nofun
theorem hostCxlMemAccess (addr : Nat) (write : Option (List Byte)) : Statement (.hostCxlMemAccess addr write) := nofun
theorem hostSnoop (addr : Nat) (write : Option (List Byte)) : Statement (.hostSnoop addr write) := nofun
theorem fabricPutReceive (pkt : FabricPut) : Statement (.fabricPutReceive pkt) := nofun
theorem fabricGetReceive (pkt : FabricGet) : Statement (.fabricGetReceive pkt) := nofun
theorem fabricAtomicReceive (pkt : FabricAtomic) : Statement (.fabricAtomicReceive pkt) := nofun
theorem fabricLaunchReceive (route : LaunchRoute) (srcdev : Nat) (packet : BitVec 512) : Statement (.fabricLaunchReceive route srcdev packet) := nofun
theorem fabricBarrierReceive (route : BarrierRoute) (phase : Nat) (release : Bool) : Statement (.fabricBarrierReceive route phase release) := nofun
theorem fabricCollectiveReceive (pkt : FabricColl) : Statement (.fabricCollectiveReceive pkt) := nofun
theorem collectiveTimeout (tenant : Nat) (comm : Nat) (k : Nat) : Statement (.collectiveTimeout tenant comm k) := nofun
theorem linkretry (port : Nat) : Statement (.linkretry port) := nofun
theorem linkDown (port : Nat) : Statement (.linkDown port) := nofun
theorem linkRerouteTimeout (device : Nat) : Statement (.linkRerouteTimeout device) := nofun
theorem tierAccessTimeout (failure : OuterFailure) (lane : Nat) : Statement (.tierAccessTimeout failure lane) := nofun
theorem tierPortDown (port : Nat) : Statement (.tierPortDown port) := nofun
theorem patrolScrub (addr : Nat) (err : ScrubFinding) : Statement (.patrolScrub addr err) := nofun
theorem thermalGate (sensor : Nat) : Statement (.thermalGate sensor) := nofun
theorem thermalShutdown (sensor : Nat) : Statement (.thermalShutdown sensor) := nofun
theorem contrailDrain (core : Nat) : Statement (.contrailDrain core) := nofun
theorem soundingInterval (core : Nat) (quad : Nat) : Statement (.soundingInterval core quad) := nofun
theorem barometerCapture (die : Nat) (mon : Nat) (value : Word) : Statement (.barometerCapture die mon value) := nofun
theorem skewMeasure (reg : Nat) (offset : BitVec 28) : Statement (.skewMeasure reg offset) := nofun
theorem linkUp (port : Nat) : Statement (.linkUp port) := nofun
theorem classPause (port : Nat) (cls : Nat) (paused : Bool) : Statement (.classPause port cls paused) := nofun
theorem teamDispatch : Statement .teamDispatch := nofun
theorem ctxcreate : Statement .ctxcreate := nofun
theorem ctxdestroy : Statement .ctxdestroy := nofun
theorem tenantset : Statement .tenantset := nofun
theorem errset : Statement .errset := nofun
theorem partition : Statement .partition := nofun
theorem inval : Statement .inval := nofun
theorem invalComplete : Statement .invalComplete := nofun
theorem replay : Statement .replay := nofun
theorem devset : Statement .devset := nofun
theorem podbind : Statement .podbind := nofun
theorem bardomain : Statement .bardomain := nofun
theorem commcreate : Statement .commcreate := nofun
theorem demote : Statement .demote := nofun
theorem step : Statement .step := nofun
theorem run : Statement .run := nofun
theorem pause : Statement .pause := nofun
theorem promote : Statement .promote := nofun
theorem summary : Statement .summary := nofun
theorem attest : Statement .attest := nofun
theorem idcert : Statement .idcert := nofun
theorem fwload : Statement .fwload := nofun
theorem mstatRead : Statement .mstatRead := nofun
theorem powerThrottle : Statement .powerThrottle := nofun
theorem moduleReset : Statement .moduleReset := nofun
theorem thermalGateEnd : Statement .thermalGateEnd := nofun
theorem throttleEpisodeEnd : Statement .throttleEpisodeEnd := nofun
theorem doorbellWrite : Statement .doorbellWrite := nofun

end RoundTrip

end Sys2Proof.Laws
end

