-- ==== Sys2Proof/Machine/AsmText.lean ====
section
/-!
DEFINITION. The text of Volauz source: lines, tokens, expressions, guards and floating-point literals (spec/03 R60 to R65,
R70).
-/

namespace Sys2Proof.Asm

/-! ## Tokens (R60, R64, R65) -/

/-- A name or a dotted word; an integer; a decimal literal digits · 10^exp; a shape written axb; a mark. -/
inductive Token
  | name (s : String)
  | int (n : Nat)
  | dec (digits : Nat) (exp : Int)
  | shape (a b : Nat)
  | sym (s : String)
  deriving DecidableEq, Repr

abbrev Err := Except String

/-- A character of a name, a literal or a dotted word. -/
def wordChar (c : Char) : Bool := c.isAlphanum || c == '_' || c == '.'

/-- R60: a line without its comment. -/
def withoutComment : List Char → List Char
  | [] => []
  | ';' :: _ => []
  | '/' :: '/' :: _ => []
  | c :: r => c :: withoutComment r

/-- The value of a digit. -/
def digit (c : Char) : Option Nat :=
  if c.isDigit then some (c.toNat - 48)
  else if 'a'.toNat ≤ c.toNat && c.toNat ≤ 'f'.toNat then some (c.toNat - 87)
  else if 'A'.toNat ≤ c.toNat && c.toNat ≤ 'F'.toNat then some (c.toNat - 55)
  else none

/-- R64: the digits of a literal: underscores stand between digits. `last` says that a digit stands just before. -/
def digits (base : Nat) : Bool → Nat → List Char → Option Nat
  | last, n, [] => if last then some n else none
  | last, n, '_' :: r => if last then (match r with
      | '_' :: _ => digits base last n r
      | d :: _ => if (digit d).isSome then digits base last n r else none
      | [] => none) else none
  | _, n, c :: r => match digit c with
    | some d => if d < base then digits base true (n * base + d) r else none
    | none => none

/-- What stands before a character, and what stands after it, where it stands in the list. -/
def splitAtChar (p : Char → Bool) : List Char → Option (List Char × List Char)
  | [] => none
  | c :: r => if p c then some ([], r) else (splitAtChar p r).map fun x => (c :: x.1, x.2)

/-- The digits after a point: their value, and how many they are. -/
def fraction (l : List Char) : Option (Nat × Nat) :=
  if l.isEmpty then some (0, 0) else (digits 10 false 0 l).map fun n => (n, (l.filter (· != '_')).length)

/-- R65: a decimal literal with a point or an exponent. -/
def decimal (l : List Char) : Option Token :=
  let (mant, exp) := match splitAtChar (fun c => c == 'e' || c == 'E') l with
    | some (m, '-' :: e) => (m, (digits 10 false 0 e).map fun n => -(n : Int))
    | some (m, '+' :: e) => (m, (digits 10 false 0 e).map Int.ofNat)
    | some (m, e) => (m, (digits 10 false 0 e).map Int.ofNat)
    | none => (l, some 0)
  match exp, splitAtChar (· == '.') mant with
  | some e, some (whole, frac) => match digits 10 false 0 whole, fraction frac with
    | some n, some (k, w) => some (.dec (n * 10 ^ w + k) (e - w))
    | _, _ => none
  | some e, none => (digits 10 false 0 mant).map fun n => .dec n e
  | none, _ => none

/-- R64, R65, R79: a literal. -/
def literal (l : List Char) : Option Token :=
  match l with
  | '0' :: 'x' :: r => (digits 16 false 0 r).map .int
  | '0' :: 'b' :: r => (digits 2 false 0 r).map .int
  | _ =>
    match splitAtChar (· == 'x') l with
    | some (a, b) => match digits 10 false 0 a, digits 10 false 0 b with
      | some m, some n => some (.shape m n)
      | _, _ => none
    | none => if l.any fun c => c == '.' || c == 'e' || c == 'E' then decimal l else (digits 10 false 0 l).map .int

/-- A run of word characters, and the rest. In a decimal literal the sign of the exponent belongs to the run: `after` says
that an e stands just before. -/
def run (number after : Bool) : List Char → List Char × List Char
  | [] => ([], [])
  | c :: r =>
    if wordChar c || (after && (c == '-' || c == '+') && r.head?.any Char.isDigit) then
      let x := run number (number && (c == 'e' || c == 'E')) r
      (c :: x.1, x.2)
    else ([], c :: r)

/-- The tokens of a line. -/
def tokens : Nat → List Char → Err (List Token)
  | 0, _ => .ok []
  | _ + 1, [] => .ok []
  | n + 1, c :: r =>
    if c == ' ' || c == '\t' || c == '\r' then tokens n r
    else if c.isDigit then
      let x := run (!((c == '0') && (r.head? == some 'x'))) false (c :: r)
      match literal x.1 with
      | some t => (tokens n x.2).map (t :: ·)
      | none => .error ("not a literal: " ++ String.ofList x.1)
    else if wordChar c then
      let x := run false false (c :: r)
      (tokens n x.2).map (.name (String.ofList x.1) :: ·)
    else match c, r with
      | '<', '<' :: t => (tokens n t).map (.sym "<<" :: ·)
      | '>', '>' :: t => (tokens n t).map (.sym ">>" :: ·)
      | _, _ =>
        if c ∈ [',', '#', '(', ')', '[', ']', ':', '=', '-', '~', '*', '/', '%', '+', '&', '^', '|', '!'] then
          (tokens n r).map (.sym (String.ofList [c]) :: ·)
        else .error ("not a character of Volauz: " ++ String.ofList [c])

/-- The lines of a text. -/
def splitLines : List Char → List (List Char)
  | [] => [[]]
  | '\n' :: r => [] :: splitLines r
  | c :: r => match splitLines r with
    | l :: t => (c :: l) :: t
    | [] => [[c]]

/-- The pieces of a list of tokens between marks. -/
def splitTokens (mark : Token) : List Token → List (List Token)
  | [] => [[]]
  | t :: r => if t = mark then [] :: splitTokens mark r else match splitTokens mark r with
    | l :: rest => (t :: l) :: rest
    | [] => [[t]]

/-- Items between commas; none where nothing stands. -/
def items (l : List Token) : List (List Token) := if l.isEmpty then [] else splitTokens (.sym ",") l

/-! ## Integer expressions (R64) -/

/-- R64: the level of a binary operator, from the loosest, 1, to the tightest, 6. -/
def levelOf (s : String) : Nat :=
  if s = "|" then 1 else if s = "^" then 2 else if s = "&" then 3 else if s = "<<" ∨ s = ">>" then 4
  else if s = "+" ∨ s = "-" then 5 else if s = "*" ∨ s = "/" ∨ s = "%" then 6 else 0

/-- R64: a binary operator. The rule gives neither a shift by a negative amount, which is an error here, nor `>>` of a negative
value, which rounds down (log entry 89). -/
def binary (s : String) (a b : Int) : Err Int :=
  if s = "|" then .ok (Int.lor a b) else if s = "^" then .ok (Int.xor a b) else if s = "&" then .ok (Int.land a b)
  else if s = "<<" then (if b < 0 then .error "a shift by a negative amount" else .ok (a * 2 ^ b.toNat))
  else if s = ">>" then (if b < 0 then .error "a shift by a negative amount" else .ok (Int.fdiv a (2 ^ b.toNat)))
  else if s = "+" then .ok (a + b) else if s = "-" then .ok (a - b) else if s = "*" then .ok (a * b)
  else if b = 0 then .error "division by zero"
  else if s = "/" then .ok (Int.tdiv a b) else .ok (Int.tmod a b)

/-- R64: the value of the expression at the head of the tokens, from operators of a level and above; acc is what stands to
their left. -/
def expr (env : String → Err Int) : Nat → Nat → Option Int → List Token → Err (Int × List Token)
  | 0, _, _, _ => .error "an expression that is too long"
  | f + 1, level, some a, l => match l with
    | .sym o :: r => if level ≤ levelOf o then do
          let x ← expr env f (levelOf o + 1) none r
          let v ← binary o a x.1
          expr env f level (some v) x.2
        else .ok (a, l)
    | _ => .ok (a, l)
  | f + 1, level, none, l =>
    let first : Err (Int × List Token) := match l with
      | .sym "-" :: r => (expr env f 7 none r).map fun x => (-x.1, x.2)
      | .sym "~" :: r => (expr env f 7 none r).map fun x => (-x.1 - 1, x.2)
      | .sym "(" :: r => match expr env f 1 none r with
        | .ok (v, .sym ")" :: t) => .ok (v, t)
        | .ok _ => .error "a parenthesis that does not close"
        | .error e => .error e
      | .int n :: r => .ok (n, r)
      | .name s :: r => (env s).map fun v => (v, r)
      | _ => .error "an expression was expected"
    match first with
    | .ok (v, r) => expr env f level (some v) r
    | .error e => .error e

/-- The value of tokens that are one expression. -/
def evaluate (env : String → Err Int) (l : List Token) : Err Int :=
  match expr env (4 * l.length + 4) 1 none l with
  | .ok (v, []) => .ok v
  | .ok _ => .error "something stands after an expression"
  | .error e => .error e

/-! ## Guards (R70) -/

/-- R70: the level of a guard's operator. -/
def guardLevel (s : String) : Nat := if s = "|" then 1 else if s = "^" then 2 else if s = "&" then 3 else 0

/-- R70: the value of a guard under values of the predicates. -/
def guardExpr (env : String → Err Bool) : Nat → Nat → Option Bool → List Token → Err (Bool × List Token)
  | 0, _, _, _ => .error "a guard that is too long"
  | f + 1, level, some a, l => match l with
    | .sym o :: r => if 0 < guardLevel o ∧ level ≤ guardLevel o then do
          let x ← guardExpr env f (guardLevel o + 1) none r
          guardExpr env f level (some (if o = "|" then a || x.1 else if o = "^" then a ^^ x.1 else a && x.1)) x.2
        else .ok (a, l)
    | _ => .ok (a, l)
  | f + 1, level, none, l =>
    let first : Err (Bool × List Token) := match l with
      | .sym "!" :: r => (guardExpr env f 4 none r).map fun x => (!x.1, x.2)
      | .sym "(" :: r => match guardExpr env f 1 none r with
        | .ok (v, .sym ")" :: t) => .ok (v, t)
        | .ok _ => .error "a parenthesis that does not close"
        | .error e => .error e
      | .int 0 :: r => .ok (false, r)
      | .int 1 :: r => .ok (true, r)
      | .name s :: r => (env s).map fun v => (v, r)
      | _ => .error "a guard was expected"
    match first with
    | .ok (v, r) => guardExpr env f level (some v) r
    | .error e => .error e

/-- R70: the truth table of a guard over the trio of its clause: bit i is its value at index i = qa · 4 + qb · 2 + qc. -/
def truthTable (trio : Nat × Nat × Nat) (l : List Token) : Err Nat :=
  (List.range 8).foldlM (fun t i =>
    let env (s : String) : Err Bool :=
      if s = "q" ++ toString trio.1 then .ok (i / 4 % 2 == 1) else if s = "q" ++ toString trio.2.1 then .ok (i / 2 % 2 == 1)
      else if s = "q" ++ toString trio.2.2 then .ok (i % 2 == 1) else .error ("not a predicate of the trio: " ++ s)
    match guardExpr env (4 * l.length + 4) 1 none l with
    | .ok (v, []) => .ok (if v then t + 2 ^ i else t)
    | .ok _ => .error "something stands after a guard"
    | .error e => .error e) 0

/-! ## Floating-point literals (R65, R80) -/

/-- num / den, greater than 0, rounded to nearest even in a format with mant fraction bits whose least exponent is emin and
whose infinity is inf: the code, and whether the value is exact. -/
def nearest (mant : Nat) (emin : Int) (inf num den : Nat) : Nat × Bool :=
  let e0 : Int := (Nat.log2 num : Int) - Nat.log2 den
  let below : Bool := if 0 ≤ e0 then num < den * 2 ^ e0.toNat else num * 2 ^ (-e0).toNat < den
  let k : Int := max (if below then e0 - 1 else e0) emin
  let unit : Int := k - mant
  let n := if 0 ≤ unit then num else num * 2 ^ (-unit).toNat
  let d := if 0 ≤ unit then den * 2 ^ unit.toNat else den
  let q := n / d
  let r := n % d
  let up := d < 2 * r || (2 * r == d && q % 2 == 1)
  let code := (k - emin).toNat * 2 ^ mant + (if up then q + 1 else q)
  if inf ≤ code then (inf, false) else (code, r == 0)

/-- A decimal literal, or inf, -inf or nan: its code in a format of that many fraction bits below a sign at the given bit, and
whether it is exact. -/
def floatCode (mant : Nat) (emin : Int) (inf sign : Nat) (l : List Token) : Option (Nat × Bool) :=
  let finite (n : Nat) (e : Int) : Nat × Bool :=
    if n = 0 then (0, true) else nearest mant emin inf (n * 10 ^ e.toNat) (10 ^ (-e).toNat)
  match l with
  | [.dec n e] => some (finite n e)
  | [.sym "-", .dec n e] => some (sign + (finite n e).1, (finite n e).2)
  | [.name "inf"] => some (inf, true)
  | [.sym "-", .name "inf"] => some (sign + inf, true)
  | [.name "nan"] => some (inf + 2 ^ (mant - 1), true)
  | _ => none

/-- A literal in binary32 and in binary16. -/
def code32 (l : List Token) : Option (Nat × Bool) := floatCode 23 (-126) 0x7F800000 0x80000000 l
def code16 (l : List Token) : Option (Nat × Bool) := floatCode 10 (-14) 0x7C00 0x8000 l

/-- R65: bits 31:10 of a binary32 pattern whose low 10 bits are zero. -/
def upperBits (c : Nat) : Err Nat :=
  if c % 1024 = 0 then .ok (c / 1024) else .error "an immediate with nonzero low bits"

/-- R65: a floating-point immediate: bits 31:10 of a binary32 value that is exact and has zeros below, or of a pattern that an
integer expression gives. -/
def floatImm (env : String → Err Int) (l : List Token) : Err Nat :=
  match code32 l with
  | some (c, true) => upperBits c
  | some (_, false) => .error "an immediate that is not exact"
  | none => do
    let v ← evaluate env l
    if -2147483648 ≤ v ∧ v < 4294967296 then upperBits (v % 4294967296).toNat else .error "not a pattern of 32 bits"

/-- R65: an integer immediate: an integer expression, or the binary32 pattern of a floating-point form (log entry 89). -/
def integerImm (env : String → Err Int) (l : List Token) : Err Int :=
  match code32 l with
  | some (c, true) => .ok c
  | some (_, false) => .error "an immediate that is not exact"
  | none => evaluate env l

end Sys2Proof.Asm
end

