-- ==== Sys2Proof/Machine/AsmTable.lean ====
section
/-!
DEFINITION. The written forms of the instructions: their suffixes, their operands and what an assembled word must hold (spec/03
R62, R72 to R74; the entries of spec/08 to spec/11; spec/04 R88 to R96, R116 to R118). An amount is a number that is added to the
instruction word.
-/

namespace Sys2Proof.Asm

/-! ## What a form consists of -/

/-- R72: the values of SC that an instruction accepts; the formats X and T have no SC. -/
inductive Sc | zero | one | either | absent
  deriving DecidableEq, Repr

/-- R62 to R65, R79, R206, R294, R311: how an operand is written. `span` is how many consecutive registers it touches, `pair`
that it names an even–odd pair.
dest, src: an operand code of D, A, B or C, D with `_` for no write-back. scalar: a scalar register, scalarZero: or zero; target: a scalar of
format X. number: a scalar's number. vector: a direct vector register. imm: an immediate from lo to hi, less `base`, in bits. -/
inductive Form
  | dest (pair : Bool) (span : Nat) (noWrite : Bool)
  | src (pair : Bool) (span : Nat)
  | scalar (pair : Bool) (span : Nat)
  | scalarZero
  | target (pair : Bool)
  | number (pair : Bool) (span : Nat)
  | vector (span : Nat)
  | predicate | index | tile | slot | operandB
  | imm (lo hi : Int) (base : Int) (bits : Nat)
  | float
  | label
  | members
  | policy
  deriving DecidableEq, Repr

/-- An operand: how it is written, where its value stands in the word, and whether the instruction writes it. -/
structure Operand where
  form : Form
  at_ : Nat
  writes : Bool
  deriving DecidableEq, Repr

/-- A place in the suffixes: the suffixes that may stand there, each with its amount; the amount where none does; and whether a
verbose statement may leave it out too (R74). -/
structure Axis where
  choices : List (List String × Nat)
  default : Option Nat
  silent : Bool
  deriving DecidableEq, Repr

/-- A written form of an instruction. `last` says that it must stand last in its clause or transfers control (R39, R76), `long`
that it is long-latency (R105). -/
structure Row where
  base : String
  axes : List Axis
  opc : Nat
  operands : List Operand
  sc : Sc
  fixed : Nat
  last : Bool
  long : Bool
  deriving DecidableEq, Repr

/-! ## Suffixes -/

/-- One suffix that must be written, or one of several names for it. -/
def said (l : List String) : Axis := ⟨l.map fun s => ([s], 0), none, false⟩

/-- One suffix that may be left out. -/
def usual (l : List String) : Axis := ⟨l.map fun s => ([s], 0), some 0, false⟩

/-- R116, variant m: rounding; `.rn` may be left out (R74). -/
def rounding (bit : Nat) : Axis := ⟨[(["rn"], 0), (["rz"], 2 ^ bit), (["rd"], 2 * 2 ^ bit), (["ru"], 3 * 2 ^ bit)], some 0, false⟩

/-- Round to nearest even only (R241, R242). -/
def nearestOnly : Axis := ⟨[(["rn"], 0)], some 0, true⟩

/-- R91: the field SCOPE; `.dv` may be left out. -/
def scopes : Axis := ⟨[(["tm"], 0), (["cl"], 4), (["dv"], 8), (["sy"], 12)], some 8, false⟩

/-- R91, R263: the field ORDER of loads, stores, atomics and fences; `.rlx` may be left out where it is accepted. -/
def loadOrder : Axis := ⟨[(["rlx"], 0), (["acq"], 1)], some 0, false⟩
def storeOrder : Axis := ⟨[(["rlx"], 0), (["rel"], 2)], some 0, false⟩
def atomicOrder : Axis := ⟨[(["rlx"], 0), (["acq"], 1), (["rel"], 2), (["ar"], 3)], some 0, false⟩
def fenceOrder : Axis := ⟨[(["acq"], 1), (["rel"], 2), (["ar"], 3)], none, false⟩
def relaxed : Axis := ⟨[(["rlx"], 0)], some 0, false⟩

/-- `.acq.rmt.dv` (R91). -/
def remote : List Axis := [⟨[(["acq", "rmt"], 2)], none, false⟩, ⟨[(["dv"], 8)], some 8, false⟩]

/-! ## Operands -/

/-- D, A, B and C as operand codes (R89). -/
def opD (pair : Bool) (noWrite : Bool := true) : Operand := ⟨.dest pair (if pair then 2 else 1) noWrite, 33, true⟩
def opA (pair : Bool) : Operand := ⟨.src pair (if pair then 2 else 1), 22, false⟩
def opB (pair : Bool) : Operand := ⟨.src pair (if pair then 2 else 1), 11, false⟩
def opC (pair : Bool) : Operand := ⟨.src pair (if pair then 2 else 1), 0, false⟩

/-- Scalars of group instructions (R260). -/
def scD (pair : Bool) : Operand := ⟨.scalar pair (if pair then 2 else 1), 33, true⟩
def scDr (pair : Bool) : Operand := ⟨.scalar pair (if pair then 2 else 1), 33, false⟩
def scA (pair : Bool) : Operand := ⟨.scalar pair (if pair then 2 else 1), 22, false⟩
def scB (pair : Bool) : Operand := ⟨.scalar pair (if pair then 2 else 1), 11, false⟩
def scC : Operand := ⟨.scalar false 1, 0, false⟩
/-- C of cpg and cpc, which may be zero (R283, R285). -/
def scCzero : Operand := ⟨.scalarZero, 0, false⟩
def scCpair : Operand := ⟨.scalar true 2, 0, false⟩

/-- A predicate, and one that the instruction writes. -/
def pr (bit : Nat) : Operand := ⟨.predicate, bit, false⟩

/-- An index register. -/
def ix (bit : Nat) : Operand := ⟨.index, bit, false⟩

/-- An immediate. -/
def im (bit : Nat) (lo hi : Int) (bits : Nat) : Operand := ⟨.imm lo hi 0 bits, bit, false⟩

/-- R64, R90: IMM22 as a signed number. -/
def imm22 : Operand := im 0 (-2097152) 2097151 22

/-- R91: a byte offset. -/
def off18 : Operand := im 4 (-131072) 131071 18

/-- R92. -/
def tgt : Operand := ⟨.label, 0, false⟩
def opS (pair : Bool) (writes : Bool) : Operand := ⟨.target pair, 32, writes⟩

/-- A short instruction of any SC. -/
def alu (base : String) (axes : List Axis) (opc : Nat) (operands : List Operand) : Row :=
  ⟨base, axes, opc, operands, .either, 0, false, false⟩

/-- A short instruction without a scalar form. -/
def lanes (base : String) (axes : List Axis) (opc : Nat) (operands : List Operand) : Row :=
  ⟨base, axes, opc, operands, .zero, 0, false, false⟩

/-- A group instruction. -/
def group (base : String) (axes : List Axis) (opc : Nat) (operands : List Operand) : Row :=
  ⟨base, axes, opc, operands, .one, 0, false, false⟩

/-- R39: a group instruction that stands last in its clause. -/
def blocking (base : String) (axes : List Axis) (opc : Nat) (operands : List Operand) : Row :=
  ⟨base, axes, opc, operands, .one, 0, true, false⟩

/-- An instruction of format X. -/
def control (base : String) (opc : Nat) (operands : List Operand) : Row := ⟨base, [], opc, operands, .absent, 0, true, false⟩

/-! ## Control and predicates (spec/08 R207 to R220) -/

/-- R215: the condition and the type of a compare. -/
def compares (base : String) (opc : Nat) : List Row :=
  [("i32", 0, false, 6), ("n32", 1, false, 6), ("i64", 2, true, 6), ("n64", 3, true, 6), ("f32", 4, false, 8), ("f64", 5, true, 8)].map
    fun (t, v, pair, n) => lanes base
      [⟨(["eq", "ne", "lt", "le", "gt", "ge", "num", "nan"].take n).zipIdx.map fun c => ([c.1], c.2 * 2 ^ 41), none, false⟩,
       if t = "i32" then usual [t] else said [t]]
      (opc + v) [pr 36, pr 33, opA pair, opB pair]

def controlRows : List Row :=
  [⟨"nop", [], 0x000, [], .zero, 0, false, false⟩,
   control "jmp" 0x001 [tgt], control "jmpa" 0x002 [tgt], control "jmpl" 0x003 [tgt],
   control "brx" 0x004 [opS false false, tgt], control "loopd" 0x005 [opS false true, tgt],
   { control "mark" 0x006 [tgt] with last := false }, control "split" 0x007 [tgt],
   ⟨"join", [], 0x008, [], .zero, 0, true, false⟩,
   control "call" 0x009 [opS true true, tgt], control "ret" 0x00A [opS true false],
   ⟨"exit", [], 0x00B, [], .zero, 0, true, false⟩, ⟨"yield", [], 0x00C, [], .zero, 0, true, false⟩] ++
  compares "cmp" 0x020 ++ compares "cmpa" 0x028 ++ compares "cmpo" 0x030 ++
  [lanes "plop" [] 0x038 [pr 17, pr 8, pr 11, pr 14, im 0 0 255 8],
   lanes "pmov" [] 0x039 [pr 33, pr 22],
   { lanes "pmov" [] 0x039 [pr 33, opA false] with fixed := 1 },
   { lanes "pmov" [] 0x039 [opD false, pr 22] with fixed := 2 },
   group "ballot" [] 0x03A [scD false, pr 22, im 11 0 3 2],
   group "pcount" [] 0x03B [scD false, pr 22], group "pfirst" [] 0x03C [scD false, pr 22],
   lanes "plive" [] 0x03D [im 0 0 255 8]]

/-! ## Integer, logic, lanes (spec/08 R221 to R234) -/

/-- Two sources, of 32 or 64 bits. -/
def two (base : String) (types : List String) (opc : Nat) (pair : Bool) : Row :=
  alu base [said types] opc [opD pair, opA pair, opB pair]

/-- The second source an immediate (R222). -/
def twoImm (base : String) (types : List String) (opc : Nat) : Row := alu base [said types] opc [opD false, opA false, imm22]

/-- One source. -/
def unary (base : String) (types : List String) (opc : Nat) (pair : Bool) : Row := alu base [said types] opc [opD pair, opA pair]

/-- R228. -/
def shift (base : String) (t32 t64 : String) (opc : Nat) : List Row :=
  [two base [t32] opc false, alu base [said [t64]] (opc + 1) [opD true, opA true, opB false],
   alu base [said [t32]] (opc + 2) [opD false, opA false, im 0 0 31 22]]

def integerRows : List Row :=
  [two "add" ["i32", "n32"] 0x080 false, two "add" ["i64", "n64"] 0x081 true, twoImm "add" ["i32", "n32"] 0x082,
   two "sub" ["i32", "n32"] 0x083 false, two "sub" ["i64", "n64"] 0x084 true, twoImm "sub" ["i32", "n32"] 0x085,
   lanes "addc" [said ["n32"]] 0x086 [opD false, opA false, opB false, pr 0],
   lanes "subb" [said ["n32"]] 0x087 [opD false, opA false, opB false, pr 0],
   two "mul" ["i32", "n32"] 0x088 false, two "mul" ["i64", "n64"] 0x089 true, twoImm "mul" ["i32", "n32"] 0x08A,
   two "mulhi" ["i32"] 0x08B false, two "mulhi" ["n32"] 0x08C false,
   alu "mad" [said ["i32", "n32"]] 0x08D [opD false, opA false, opB false, opC false],
   alu "mad" [said ["i64", "n64"]] 0x08E [opD true, opA true, opB true, opC true],
   alu "madhi" [said ["i32"]] 0x08F [opD false, opA false, opB false, opC false],
   alu "madhi" [said ["n32"]] 0x090 [opD false, opA false, opB false, opC false],
   two "div" ["i32"] 0x091 false, two "div" ["n32"] 0x092 false, two "rem" ["i32"] 0x093 false, two "rem" ["n32"] 0x094 false,
   two "min" ["i32"] 0x095 false, two "min" ["n32"] 0x096 false, two "min" ["i64"] 0x097 true, two "min" ["n64"] 0x098 true,
   two "max" ["i32"] 0x099 false, two "max" ["n32"] 0x09A false, two "max" ["i64"] 0x09B true, two "max" ["n64"] 0x09C true] ++
  [unary "abs" ["i32", "n32"] 0x09D false, unary "abs" ["i64", "n64"] 0x09E true, unary "neg" ["i32", "n32"] 0x09F false,
   unary "neg" ["i64", "n64"] 0x0A0 true,
   two "add" ["i16", "n16"] 0x0A1 false, two "add" ["i8", "n8"] 0x0A2 false, two "sub" ["i16", "n16"] 0x0A3 false,
   two "sub" ["i8", "n8"] 0x0A4 false,
   two "min" ["i16"] 0x0A5 false, two "min" ["n16"] 0x0A6 false, two "min" ["i8"] 0x0A7 false, two "min" ["n8"] 0x0A8 false,
   two "max" ["i16"] 0x0A9 false, two "max" ["n16"] 0x0AA false, two "max" ["i8"] 0x0AB false, two "max" ["n8"] 0x0AC false,
   twoImm "min" ["i32"] 0x0AD, twoImm "max" ["i32"] 0x0AE,
   two "and" ["b32"] 0x0B0 false, two "and" ["b64"] 0x0B1 true, twoImm "and" ["b32"] 0x0B2,
   two "or" ["b32"] 0x0B3 false, two "or" ["b64"] 0x0B4 true, twoImm "or" ["b32"] 0x0B5,
   two "xor" ["b32"] 0x0B6 false, two "xor" ["b64"] 0x0B7 true, twoImm "xor" ["b32"] 0x0B8,
   two "andn" ["b32"] 0x0B9 false, two "andn" ["b64"] 0x0BA true, unary "not" ["b32"] 0x0BB false, unary "not" ["b64"] 0x0BC true] ++
  shift "shl" "b32" "b64" 0x0C0 ++ shift "shr" "n32" "n64" 0x0C3 ++ shift "sar" "i32" "i64" 0x0C6 ++ shift "rotl" "b32" "b64" 0x0C9 ++
  [alu "bfe" [said ["i32"]] 0x0CC [opD false, opA false, opB false, opC false],
   alu "bfe" [said ["n32"]] 0x0CD [opD false, opA false, opB false, opC false],
   alu "bfi" [said ["b32"]] 0x0CE [opD false, opA false, opB false, opC false],
   unary "popc" ["b32"] 0x0CF false, alu "popc" [said ["b64"]] 0x0D0 [opD false, opA true],
   unary "clz" ["b32"] 0x0D1 false, alu "clz" [said ["b64"]] 0x0D2 [opD false, opA true],
   unary "ctz" ["b32"] 0x0D3 false, alu "ctz" [said ["b64"]] 0x0D4 [opD false, opA true],
   unary "brev" ["b32"] 0x0D5 false, unary "brev" ["b64"] 0x0D6 true,
   unary "mov" ["b32"] 0x0D8 false, unary "mov" ["b64"] 0x0D9 true,
   alu "movi" [said ["b32"]] 0x0DA [opD false, imm22],
   alu "movh" [said ["b32"]] 0x0DB [opD false, opA false, im 0 (-2097152) 4194303 22],
   alu "lea" [] 0x0DC [opD true, opA true, opB false, im 0 0 7 3], alu "lea" [] 0x0DD [opD true, opA true, imm22]] ++
  [("idx", 0x0E0), ("up", 0x0E1), ("down", 0x0E2), ("xor", 0x0E3)].map (fun (m, o) => lanes "shfl"
    [said [m], ⟨(List.range 8).map fun k => (["w" ++ toString (2 ^ k)], k), some 7, false⟩] o [opD false, opA false, opB false]) ++
  [lanes "xmov" [] 0x0E4 [ix 33, opA false], { lanes "xmov" [] 0x0E4 [opD false, ix 22] with fixed := 1 },
   lanes "xadd" [] 0x0E5 [ix 33, ix 22, opB false], lanes "xadd" [] 0x0E6 [ix 33, ix 22, imm22],
   lanes "setfmt" [] 0x0E7 [opA false], lanes "setfmt" [] 0x0E8 [im 0 0 4194303 22], alu "getfmt" [] 0x0E9 [opD false]]

/-! ## Floating point, conversion (spec/09) -/

/-- R239, R241, R242: the rows of an arithmetic instruction with n sources. -/
def arithmetic (base : String) (n o32 o64 packed : Nat) : List Row :=
  let ops (pair : Bool) := [opD pair, opA pair, opB pair, opC pair].take (n + 1)
  [alu base [usual ["f32"], rounding 54] o32 (ops false), alu base [said ["f64"], rounding 54] o64 (ops true),
   alu base [said ["f16x2"], nearestOnly] packed (ops false), alu base [said ["bf16x2"], nearestOnly] (packed + 1) (ops false)]

/-- R116, variant p: the rows of an instruction with n sources in the four types. -/
def fourTypes (base : String) (n opc : Nat) : List Row :=
  [("f32", 0, false), ("f64", 1, true), ("f16x2", 2, false), ("bf16x2", 3, false)].map fun (t, v, pair) =>
    alu base [said [t]] (opc + v) ([opD pair, opA pair, opB pair].take (n + 1))

/-- R96, R251: cvt from every type to every other. -/
def cvtRows : List Row :=
  let types := [("f64", 0, true), ("f32", 1, false), ("f16", 2, false), ("bf16", 3, false), ("i32", 4, false), ("n32", 5, false),
    ("i64", 6, true), ("n64", 7, true)]
  types.flatMap fun (d, dc, dp) => types.filterMap fun (s, sc, sp) =>
    if dc = sc then none else
      some { alu "cvt" [said [d], said [s], if 4 ≤ dc ∧ 4 ≤ sc then ⟨[(["rn"], 0)], some 0, false⟩ else rounding 3,
        ⟨[(["sat"], 4)], some 0, true⟩] 0x180 [opD dp, opA sp] with fixed := dc * 2 ^ 8 + sc * 2 ^ 5 }

def floatRows : List Row :=
  arithmetic "fadd" 2 0x100 0x104 0x130 ++ arithmetic "fsub" 2 0x108 0x10C 0x132 ++ arithmetic "fmul" 2 0x110 0x114 0x134 ++
  arithmetic "ffma" 3 0x118 0x11C 0x136 ++
  [("fadd", 0x138), ("fsub", 0x139), ("fmul", 0x13A)].map (fun (b, o) =>
    alu b [usual ["f32"], ⟨[(["rn"], 0)], some 0, false⟩] o [opD false, opA false, ⟨.float, 0, false⟩]) ++
  [alu "fdiv" [said ["f32"], rounding 54] 0x120 [opD false, opA false, opB false],
   alu "fdiv" [said ["f64"], rounding 54] 0x124 [opD true, opA true, opB true],
   alu "fsqrt" [said ["f32"], rounding 54] 0x128 [opD false, opA false],
   alu "fsqrt" [said ["f64"], rounding 54] 0x12C [opD true, opA true]] ++
  fourTypes "fmin" 2 0x140 ++ fourTypes "fmax" 2 0x144 ++ fourTypes "fminn" 2 0x148 ++ fourTypes "fmaxn" 2 0x14C ++
  fourTypes "fabs" 1 0x150 ++ fourTypes "fneg" 1 0x154 ++ fourTypes "fcopysign" 2 0x158 ++
  [unary "fclass" ["f32"] 0x15C false, alu "fclass" [said ["f64"]] 0x15D [opD false, opA true],
   two "fscale" ["f32"] 0x15E false, alu "fscale" [said ["f64"]] 0x15F [opD true, opA true, opB false],
   alu "frnd" [said ["f32"], rounding 54] 0x160 [opD false, opA false],
   alu "frnd" [said ["f64"], rounding 54] 0x164 [opD true, opA true]] ++
  cvtRows ++
  [("x64", "f32", 0, true, false), ("x64", "f64", 2, true, true), ("f32", "x64", 1, false, true), ("f64", "x64", 3, true, true)].map
    (fun (d, s, c, dp, sp) => { alu "fxcvt" ([said [d], said [s], rounding 3] ++ if d = "x64" then [⟨[(["sat"], 4)], some 0, true⟩] else [])
      0x181 [opD dp, opA sp] with fixed := c }) ++
  [lanes "cvtp" [said ["pack"]] 0x182 [opD false, ⟨.src false 8, 22, false⟩],
   lanes "cvtp" [said ["unpack"]] 0x183 [⟨.dest false 8 false, 33, true⟩, opA false],
   { lanes "dotp" [] 0x184 [opD false, ⟨.src false 8, 22, false⟩, ⟨.src false 8, 11, false⟩, ⟨.src false 2, 0, false⟩] with long := true },
   lanes "mxq" [] 0x185 [opD false false, opA false, ⟨.scalar false 4, 11, true⟩],
   lanes "mxd" [] 0x186 [opD false, opA false, ⟨.scalar false 4, 11, false⟩]] ++
  (["frcp", "frsq", "fex2", "flg2", "fsin", "fcos", "ftanh"].zipIdx.flatMap fun (b, k) =>
    [{ alu b [said ["f32"]] (0x1C0 + k) [opD false false, opA false] with long := true },
     { alu b [said ["f16x2"]] (0x1C8 + k) [opD false false, opA false] with long := true }])

/-! ## Memory, barriers, copies (spec/10) -/

/-- R152, R154: the base of an access in a space is a pair in global space only. -/
def baseOf (space : String) : Operand := opA (space = "g")

/-- R261: an access of a space, a width and an order. -/
def access (base space width : String) (order : List Axis) (opc : Nat) (data : Operand) : Row :=
  ⟨base, [said [space], said [width]] ++ order, opc, [data, baseOf space, off18], .either, 0, false, true⟩

/-- R261: the data of a load and of a store, by width. -/
def loadData (w : Nat) : Operand := ⟨.dest (w = 5) (if w = 6 then 4 else if w = 5 then 2 else 1) false, 33, true⟩
def storeData (w : Nat) : Operand := ⟨.src (w = 5) (if w = 6 then 4 else if w = 5 then 2 else 1), 33, false⟩

/-- R116, R263. -/
def accessRows : List Row :=
  [("g", 0), ("t", 1), ("c", 2), ("k", 3)].flatMap fun (s, sv) =>
    [("n8", 0), ("i8", 1), ("n16", 2), ("i16", 3), ("b32", 4), ("b64", 5), ("b128", 6)].flatMap (fun (w, wv) =>
      access "ld" s w [if s = "k" then relaxed else loadOrder, scopes] (0x200 + 8 * sv + wv) (loadData wv) ::
      if s = "g" then [access "ld" s w remote (0x200 + wv) (loadData wv)] else []) ++
    [("b8", 0), ("b16", 2), ("b32", 4), ("b64", 5), ("b128", 6)].map fun (w, wv) =>
      access "st" s w [if s = "k" then relaxed else storeOrder, scopes] (0x220 + 8 * sv + wv) (storeData wv)

/-- R265. -/
def blockRow (base space : String) (order : List Axis) (opc : Nat) (load : Bool) : Row :=
  let g := space = "g"
  ⟨base, said [space] :: order, opc, [⟨.vector 1, 33, load⟩, scA g, ⟨.number false 4, 14, load⟩,
    ⟨.number g (if g then 2 else 1), 6, false⟩], .zero, 0, false, true⟩

/-- R117: the operations of atom and of red, and the registers of their operand. -/
def atomOps : List (String × String × Nat) :=
  [("add", "i32", 1), ("add", "i64", 2), ("add", "x64", 2), ("add", "f32", 1), ("add", "f16x2", 1), ("add", "bf16x2", 1),
   ("min", "i32", 1), ("min", "n32", 1), ("max", "i32", 1), ("max", "n32", 1), ("and", "b32", 1), ("and", "b64", 2), ("or", "b32", 1),
   ("or", "b64", 2), ("xor", "b32", 1), ("xor", "b64", 2), ("xchg", "b32", 1), ("xchg", "b64", 2), ("cas", "b32", 2), ("cas", "b64", 4),
   ("inc", "n32", 1), ("dec", "n32", 1)]
def redOps : List (String × String × Nat) :=
  [("add", "i32", 1), ("add", "i64", 2), ("add", "x64", 2), ("add", "f32", 1), ("add", "f16x2", 1), ("add", "bf16x2", 1),
   ("min", "i32", 1), ("min", "n32", 1), ("max", "i32", 1), ("max", "n32", 1), ("and", "b32", 1), ("or", "b32", 1), ("xor", "b32", 1)]

/-- R206, R276: the suffixes of the levels, whose spelling the manual does not give (log entry 89); the field may be written as
`#n` too. -/
def levels (bit : Nat) : Axis := ⟨[(["team"], 0), (["cluster"], 2 ^ bit), (["grid"], 2 * 2 ^ bit)], none, false⟩

def memoryRows : List Row :=
  accessRows ++
  (["g", "t"].zipIdx.flatMap fun (s, v) =>
    [blockRow "ldmx" s [loadOrder, scopes] (0x240 + v) true, blockRow "stmx" s [storeOrder, scopes] (0x242 + v) false]) ++
  [blockRow "ldmx" "g" remote 0x240 true,
   ⟨"pf", [said ["g"], ⟨[(["rlx"], 0)], some 0, true⟩, ⟨[(["tm"], 0), (["dv"], 8)], some 8, false⟩], 0x244, [opA true, off18], .either, 0,
    false, false⟩] ++
  ([("g", 0x280), ("t", 0x296)].flatMap fun (s, o) => atomOps.zipIdx.map fun ((op, t, n), k) =>
    ⟨"atom", [said [s], said [op], said [t], atomicOrder, scopes], o + k, [⟨.dest (n = 2) n false, 33, true⟩, baseOf s, off18], .either, 0,
      false, true⟩) ++
  (redOps.zipIdx.map fun ((op, t, n), j) =>
    ⟨"red", [said ["g"], said [op], said [t], atomicOrder, scopes], 0x2AC + j, [⟨.src (n = 2) n, 33, false⟩, opA true, off18], .either, 0,
      false, true⟩) ++
  [group "fence" [fenceOrder, scopes] 0x2C0 [],
   blocking "bar" [] 0x2C1 [], blocking "barc" [] 0x2C2 [], blocking "barg" [] 0x2C3 [], blocking "barp" [] 0x2C4 [],
   group "arrive" [levels 22] 0x2C5 [scD false], group "arrive" [] 0x2C5 [scD false, im 22 0 2 2],
   blocking "await" [levels 11] 0x2C6 [scA false], blocking "await" [] 0x2C6 [scA false, im 11 0 2 2],
   blocking "monwait" [] 0x2C7 [scD false, scA true, scB false, scC],
   group "arvinit" [] 0x2C8 [scA false, scB false], group "arvexp" [] 0x2C9 [scA false, scB false, scC],
   blocking "arvwait" [] 0x2CA [scA false],
   group "cpg" [said ["ld"]] 0x2CB [scDr false, scA true, scB false, scCzero],
   group "cpg" [said ["st"]] 0x2CC [scDr false, scA true, scB false, scCzero],
   group "cpc" [] 0x2CD [scDr false, scA false, scB false, scCzero],
   group "fput" [] 0x2CE [scDr true, scA true, scB false, scCpair],
   group "fget" [] 0x2CF [scDr true, scA true, scB false, scCpair],
   group "fputr" [] 0x2D0 [scDr true, scA true, scB false, scCpair],
   group "cpclose" [] 0x2D1 [scD false], blocking "cpwait" [] 0x2D2 [scA false], blocking "cpwait" [] 0x2D3 [im 0 0 2097151 22],
   group "coll" [] 0x2D4 [scA false]]

/-! ## Matrix, Horizon, system and handlers (spec/11) -/

/-- R298: the suffix .nN. -/
def blockN : Axis := ⟨(List.range 8).map fun k => (["n" ++ toString (32 * (k + 1))], k), none, false⟩

/-- R304: the suffix for REUSE = 1, which the manual does not name (log entry 89). -/
def reuse : Axis := ⟨[(["reuse"], 2 ^ 45)], none, false⟩

/-- Registers that an A fragment, its scales and its indices may take (R299, R300). -/
def fragment : Operand := ⟨.vector 34, 22, false⟩

/-- A tile; and a count that stands in SHAPE less 1. -/
def tl (bit : Nat) : Operand := ⟨.tile, bit, false⟩
def tiles : Operand := ⟨.imm 1 64 1 6, 0, false⟩

/-- A Horizon slot. -/
def hz (bit : Nat) : Operand := ⟨.slot, bit, false⟩

/-- R298, R304: mma and mmasp, with and without the suffix for REUSE. -/
def mmaRows : List Row :=
  [[blockN], [reuse, blockN], [blockN, reuse]].flatMap fun axes =>
    [⟨"mma", axes, 0x304, [tl 33, fragment, ⟨.operandB, 11, false⟩, im 8 0 5 3], .absent, 0, true, false⟩,
     ⟨"mmasp", axes, 0x305, [tl 33, fragment, ⟨.operandB, 11, false⟩, im 8 0 5 3, im 6 0 3 2], .absent, 0, true, false⟩]

def matrixRows : List Row :=
  mmaRows ++
  [group "gangset" [] 0x300 [⟨.members, 0, false⟩], group "omap" [] 0x301 [im 33 0 3 11, scA false, scB false, scC],
   group "thset" [] 0x302 [im 33 0 3 11, scA false], group "opfence" [] 0x303 [],
   group "mmclose" [] 0x306 [scD false], blocking "mmwait" [] 0x307 [scA false], blocking "mmwait" [] 0x308 [im 0 0 2097151 22],
   ⟨"accld", [], 0x309, [⟨.vector 0, 22, true⟩, tl 33], .absent, 0, false, true⟩] ++
  [("g", 0x30A), ("t", 0x30B)].map (fun (s, o) => { group "accst" [said [s], storeOrder, scopes] o
    [tl 33, scA (s = "g"), ⟨.number false 1, 14, false⟩, im 6 (-128) 127 8] with long := true }) ++
  [⟨"acczero", [], 0x30C, [tl 33, tiles], .absent, 0, false, false⟩, ⟨"accadd", [], 0x30D, [tl 33, tl 11, tiles], .absent, 0, false, false⟩,
   group "hzinit" [⟨[(["f32"], 0), (["i32"], 2 ^ 40)], none, false⟩] 0x340
     [hz 0, ⟨.imm 1 8 1 3, 41, false⟩, im 32 0 255 8, ⟨.policy, 30, false⟩, ⟨.imm 1 256 1 8, 22, false⟩],
   lanes "hzins" [] 0x341 [pr 11, pr 8, hz 0, ⟨.vector 8, 33, false⟩, opA false], group "hzmerge" [] 0x342 [hz 0, hz 4],
   ⟨"hzread", [], 0x343, [⟨.vector 9, 33, true⟩, opA false, hz 0], .zero, 0, false, true⟩,
   { group "hzstore" [said ["t"]] 0x344 [hz 0, scA false] with long := true },
   { group "hzstore" [said ["g"]] 0x345 [hz 0, scA true] with long := true },
   alu "hzcount" [] 0x346 [opD false, hz 0], group "hzclear" [] 0x347 [hz 0], alu "hzstat" [] 0x348 [opD false, hz 0, im 14 0 255 8]]

/-- R321: sysrd writes a pair, which its even register names, for these selectors, and one register for the others. -/
def pairSelectors : List Int := [1, 3, 4, 8, 12]

def systemRows : List Row :=
  [group "trap" [] 0x360 [im 0 0 255 8], group "brk" [] 0x361 [],
   group "sysrd" [] 0x362 [scD false, imm22], group "sysrd" [] 0x362 [scD true, imm22], group "syswr" [] 0x363 [imm22, scA false],
   group "clock" [] 0x364 [scD true], group "tmark" [] 0x365 [im 0 0 65535 16],
   group "dmput" [] 0x366 [scA false, scB true], group "dmget" [] 0x367 [scD true, scA false],
   group "tgtrd" [] 0x370 [scD true, scA true, scB false], group "tgtwr" [] 0x371 [scA true, scB false, scCpair],
   group "tgtres" [] 0x372 [scA true, scB false], group "tgtkill" [] 0x373 [scA true], group "tgthalt" [] 0x374 [scA true],
   group "tgtstep" [] 0x375 [scA true], group "tgtcalm" [] 0x376 [scA true],
   group "bpset" [] 0x377 [scA false, scB true], group "wpset" [] 0x378 [scA false, scB true, scC]]

/-- Every written form. -/
def rows : List Row := controlRows ++ integerRows ++ floatRows ++ memoryRows ++ matrixRows ++ systemRows

end Sys2Proof.Asm
end

