-- ==== Sys2Proof/Machine/AsmWord.lean ====
section
/-!
DEFINITION. From a written instruction to its word (spec/03 R61 to R63, R70 to R74), and what its registers tell autoclausing
(R76).
-/

namespace Sys2Proof.Asm

/-! ## Operands as written (R62, R63) -/

/-- R62: a register name: its letters and its number. -/
def registerName (s : String) : Option (String × Nat) :=
  let l := s.toList
  let letters := l.takeWhile Char.isAlpha
  let number := l.drop letters.length
  if letters.isEmpty ∨ number.isEmpty ∨ (number.length ≠ 1 ∧ number.head? = some '0') ∨ ¬ number.all Char.isDigit then none
  else (digits 10 false 0 number).map fun n => (String.ofList letters, n)

/-- R62: how many registers of a kind there are. -/
def registerCount : String → Nat
  | "v" => 1536 | "s" => 256 | "b" => 4 | "q" => 8 | "x" => 8 | "d" => 8 | "m" => 4 | "th" => 4 | "c" => 2048 | "h" => 16
  | _ => 0

/-- R62: a register of a kind. -/
def register (kind : String) (s : String) : Option Nat :=
  match registerName s with
  | some (k, n) => if k = kind ∧ n < registerCount k then some n else none
  | none => none

/-- R61: a name listed in R62. -/
def isRegister (s : String) : Bool :=
  s == "zero" || s == "laneid" || s == "_" || (registerName s).any fun (k, n) => decide (n < registerCount k)

/-- R62: an operand code. -/
def operandCode (s : String) : Option Nat :=
  match registerName s with
  | some ("v", n) => if n < 1536 then some n else none
  | some ("b", n) => if n < 4 then some (1536 + n) else none
  | some ("s", n) => if n < 256 then some (1792 + n) else none
  | _ => if s = "zero" then some 1548 else if s = "laneid" then some 1549 else none

/-- R62, R63: an operand that has an operand code: a register, a pair, or one named through an index register. -/
def codeOf (pair : Bool) : List Token → Option Nat
  | [.name s] => match operandCode s with
    | some c => if pair ∧ (c < 1536 ∨ 1792 ≤ c) ∧ c % 2 = 1 then none else some c
    | none => none
  | [.name s, .sym ":", .name t] => match operandCode s, operandCode t with
    | some c, some d => if pair ∧ c % 2 = 0 ∧ d = c + 1 ∧ (d < 1536 ∨ 1792 ≤ c) then some c else none
    | _, _ => none
  | [.name "v", .sym "[", .name x, .sym "]"] => (register "x" x).map (1540 + ·)
  | _ => none

/-- A scalar's operand code. -/
def isScalar (c : Nat) : Bool := decide (1792 ≤ c)

/-- An operand that has been read: its value, or an immediate or a label to be found. -/
inductive Value
  | code (c : Nat)
  | noWrite
  | fixed (n : Nat)
  | expression (l : List Token)
  | label (s : String)
  deriving DecidableEq, Repr

/-- R311. -/
def policies : List (String × Nat) := [("reject", 0), ("evictmin", 1), ("thin", 2), ("trap", 3)]

/-- R62 to R65, R73: one operand, as its form has it. -/
def readOperand (f : Form) (l : List Token) : Option Value :=
  match f, l with
  | .dest _ _ true, [.name "_"] => some .noWrite
  | .dest p _ _, l => (codeOf p l).bind fun c => if 1536 ≤ c ∧ c < 1540 ∨ c = 1548 ∨ c = 1549 then none else some (.code c)
  | .src p _, l => (codeOf p l).map .code
  | .scalar p _, l => (codeOf p l).bind fun c => if isScalar c then some (.code c) else none
  | .scalarZero, l => (codeOf false l).bind fun c => if isScalar c ∨ c = 1548 then some (.code c) else none
  | .target p, l => (codeOf p l).bind fun c => if isScalar c then some (.code c) else none
  | .number p _, l => (codeOf p l).bind fun c => if isScalar c then some (.code c) else none
  | .vector _, l => (codeOf false l).bind fun c => if c < 1536 then some (.code c) else none
  | .predicate, [.name s] => (register "q" s).map .fixed
  | .index, [.name s] => (register "x" s).map .fixed
  | .tile, [.name s] => (register "c" s).map .fixed
  | .slot, [.name s] => (register "h" s).map .fixed
  | .operandB, [.name s] => match register "m" s, register "th" s with
    | some n, _ => some (.fixed n)
    | none, some n => some (.fixed (4 + n))
    | none, none => none
  | .imm _ _ _ _, .sym "#" :: r => some (.expression r)
  | .float, .sym "#" :: r => some (.expression r)
  | .label, [.name s] => if isRegister s then none else some (.label s)
  | .policy, [.name s] => (policies.lookup s).map .fixed
  | _, _ => none

/-! ## Matching a row -/

/-- A written instruction: its row, the amount of its suffixes, and its operands. -/
structure Written where
  row : Row
  amount : Nat
  values : List (Operand × Value)
  deriving DecidableEq, Repr

/-- The suffixes of a mnemonic under the axes of a row: their amount. -/
def matchAxes (verbose : Bool) : List Axis → List String → Option Nat
  | [], [] => some 0
  | [], _ :: _ => none
  | a :: rest, l =>
    match a.choices.find? fun c => c.1.isPrefixOf l with
    | some c => (matchAxes verbose rest (l.drop c.1.length)).map (c.2 + ·)
    | none => match a.default with
      | some n => if verbose && !a.silent then none else (matchAxes verbose rest l).map (n + ·)
      | none => none

/-- R294: the members of a gang, each written as an immediate. -/
def gangMembers (l : List (List Token)) : Option (List (Operand × Value)) :=
  if 6 < l.length then none else
    (l.zipIdx.mapM fun (t, k) => (readOperand (.imm 0 7 0 3) t).map fun v => ((⟨.imm 0 7 0 3, 3 * k, false⟩ : Operand), v)).map fun vs =>
      (⟨.imm 0 7 0 3, 18, false⟩, .fixed l.length) :: vs

/-- The operands of a row. -/
def matchOperands (ops : List Operand) (l : List (List Token)) : Option (List (Operand × Value)) :=
  match ops with
  | [⟨.members, _, _⟩] => gangMembers l
  | _ => if ops.length = l.length then
      (ops.zip l).mapM fun (o, t) => (readOperand o.form t).map fun v => (o, v)
    else none

/-- The row of a mnemonic with its suffixes and operands. -/
def findRow (verbose : Bool) (base : String) (suffixes : List String) (l : List (List Token)) : List Row → Option Written
  | [] => none
  | r :: rest =>
    let here := if r.base = base then
        match matchAxes verbose r.axes suffixes, matchOperands r.operands l with
        | some n, some vs => some (⟨r, n, vs⟩ : Written)
        | _, _ => none
      else none
    match here with
    | some w => some w
    | none => findRow verbose base suffixes l rest

/-- The parts of a dotted word. -/
def dotted (s : String) : List String := (splitDots s.toList).map String.ofList
where
  /-- The pieces between dots. -/
  splitDots : List Char → List (List Char)
  | [] => [[]]
  | '.' :: r => [] :: splitDots r
  | c :: r => match splitDots r with
    | l :: t => (c :: l) :: t
    | [] => [[c]]

/-- R70, R74: what stands between a mnemonic and its operands: a guard in parentheses, or the fields tt, sc and wb. -/
inductive Marks
  | none
  | guard (l : List Token)
  | fields (tt sc wb : Nat)
  deriving DecidableEq, Repr

/-- The tokens of a parenthesis that has been opened, and the rest. -/
def untilClose : Nat → List Token → Option (List Token × List Token)
  | _, [] => Option.none
  | d, .sym ")" :: r => match d with
    | 0 => some ([], r)
    | d + 1 => (untilClose d r).map fun x => (.sym ")" :: x.1, x.2)
  | d, .sym "(" :: r => (untilClose (d + 1) r).map fun x => (.sym "(" :: x.1, x.2)
  | d, t :: r => (untilClose d r).map fun x => (t :: x.1, x.2)

/-- An instruction statement (R60, R70, R74). -/
structure Statement where
  written : Written
  marks : Marks
  deriving DecidableEq, Repr

/-- R70, R74: the marks of a statement, and its operands. -/
def readMarks : List Token → Err (Marks × List Token)
  | .sym "(" :: r => match untilClose 0 r with
    | some (g, t) => .ok (.guard g, t)
    | none => .error "a guard that does not close"
  | .name "tt" :: .sym "=" :: .int tt :: .name "sc" :: .sym "=" :: .int sc :: .name "wb" :: .sym "=" :: .int wb :: r =>
    if tt < 256 ∧ sc < 2 ∧ wb < 2 then .ok (.fields tt sc wb, r) else .error "tt, sc or wb out of range"
  | .name s :: .sym "=" :: _ => .error ("not a statement: " ++ s)
  | l => .ok (.none, l)

/-- R60, R72: an instruction statement. -/
def readStatement (l : List Token) : Err Statement :=
  match l with
  | .name m :: r => do
    let (marks, ops) ← readMarks r
    let verbose := match marks with
      | .fields _ _ _ => true
      | .none | .guard _ => false
    match dotted m with
    | base :: suffixes => match findRow verbose base suffixes (items ops) rows with
      | some w => .ok ⟨w, marks⟩
      | none => .error ("no form of an instruction: " ++ m)
    | [] => .error "an instruction was expected"
  | _ => .error "an instruction was expected"

/-! ## The word -/

/-- What the word of an instruction depends on: the kernel's REGS and SREGS, the trio of its clause, the values of names, and
where a label stands relative to its clause, in words. -/
structure Place where
  regs : Nat
  sregs : Nat
  trio : Nat × Nat × Nat
  env : String → Err Int
  distance : String → Err Int

/-- R62: a register lies within the kernel's. -/
def inRange (p : Place) (c : Nat) : Bool := !((c < 1536 && p.regs ≤ c) || (1792 ≤ c && p.sregs ≤ c - 1792))

/-- R63: an operand names a pair. -/
def Form.isPair : Form → Bool
  | .dest p _ _ | .src p _ | .scalar p _ | .target p | .number p _ => p
  | .scalarZero | .vector _ | .predicate | .index | .tile | .slot | .operandB | .imm _ _ _ _ | .float | .label | .members | .policy =>
    false

/-- R62, R63: the register that an operand names, or each of the pair, lies within the kernel's. -/
def namesInRange (p : Place) (f : Form) (c : Nat) : Bool :=
  inRange p c && (!f.isPair || !(decide (c < 1536) || isScalar c) || inRange p (c + 1))

/-- The amount of an operand in the word. -/
def placed (p : Place) (o : Operand) (v : Value) : Err Nat :=
  match v, o.form with
  | .noWrite, _ => .ok (2 ^ 44)
  | .fixed n, _ => .ok (n * 2 ^ o.at_)
  | .code c, f =>
    if !namesInRange p f c then .error "a register out of range"
    else match f with
      | .number _ _ => .ok ((c - 1792) * 2 ^ o.at_)
      | _ => .ok (c * 2 ^ o.at_)
  | .expression l, .imm lo hi base bits => do
    let n ← integerImm p.env l
    if lo ≤ n ∧ n ≤ hi then .ok (((n - base) % 2 ^ bits).toNat * 2 ^ o.at_) else .error "an immediate out of range"
  | .expression l, .float => (floatImm p.env l).map (· * 2 ^ o.at_)
  | .expression _, _ => .error "an immediate where none may stand"
  | .label s, _ => do
    let n ← p.distance s
    if -2147483648 ≤ n ∧ n < 2147483648 then .ok ((n % 4294967296).toNat * 2 ^ o.at_) else .error "a target out of range"

/-- R72: the operand is one of fields A, B and C, and is neither a scalar register nor zero. -/
def vectorSource (o : Operand) (v : Value) : Bool :=
  match v, o.form with
  | .code c, .src _ _ | .code c, .scalar _ _ | .code c, .vector _ => o.at_ != 33 && !(isScalar c || c == 1548)
  | _, _ => false

/-- R72: the register in field D, and whether it is a destination. -/
def fieldD (w : Written) : Option (Nat × Bool) :=
  w.values.findSome? fun (o, v) => match v, o.form with
    | .code c, .dest _ _ _ => some (c, true)
    | .code c, .scalar _ _ => if o.at_ = 33 then some (c, o.writes) else none
    | .code c, .vector _ => if o.at_ = 33 then some (c, o.writes) else none
    | .code c, .src _ _ => if o.at_ = 33 then some (c, false) else none
    | _, _ => none

/-- R72: SC in compact notation. -/
def compactSc (w : Written) : Nat :=
  match w.row.sc with
  | .one => 1
  | .zero | .absent => 0
  | .either => if (fieldD w).any (fun d => isScalar d.1) && !w.values.any (fun x => vectorSource x.1 x.2) then 1 else 0

/-- R72: SC of a statement, which must be a value that its instruction accepts. -/
def scOf (st : Statement) : Err Nat :=
  let w := st.written
  let destination := (fieldD w).any fun d => d.2 && isScalar d.1
  let vector := w.values.any fun x => vectorSource x.1 x.2
  if destination && vector then .error "a scalar destination with a vector source"
  else if destination && w.row.sc == .zero then .error "a scalar destination of an instruction that has none"
  else match st.marks with
    | .fields _ sc _ =>
      if sc = 0 ∧ destination then .error "sc=0 with a scalar destination"
      else if (sc = 1 ∧ (w.row.sc = .zero ∨ w.row.sc = .absent)) ∨ (sc = 0 ∧ w.row.sc = .one) then .error "an sc that is not accepted"
      else .ok sc
    | .none | .guard _ => .ok (compactSc w)

/-- R71, R72: an instruction acts once for its group (R50, R54), so that TT must be 0xFF. -/
def actsOnce (w : Written) (sc : Nat) : Bool :=
  sc == 1 || w.row.base ∈ ["mark", "join", "mma", "mmasp", "acczero", "accadd"]

/-- R70 to R74: the truth table. -/
def ttOf (p : Place) (st : Statement) : Err Nat :=
  match st.marks with
  | .none => .ok 0xFF
  | .guard l => truthTable p.trio l
  | .fields tt _ _ => .ok tt

/-- R73, R74: wb agrees with the destination. -/
def wbAgrees (st : Statement) : Bool :=
  match st.marks with
  | .fields _ _ wb => decide ((wb = 0) ↔ (st.written.values.any fun x => decide (x.2 = .noWrite)) = true)
  | .none | .guard _ => true

/-- R63, R321: sysrd names a pair for the selectors that give 64 bits, by its even register or as a pair, and one register for
the others. -/
def sysrdAgrees (p : Place) (w : Written) : Bool :=
  match w.row.base, w.values with
  | "sysrd", [(o, .code c), (_, .expression l)] => match evaluate p.env l with
    | .ok n => if n ∈ pairSelectors then c % 2 == 0 && inRange p (c + 1) else !o.form.isPair
    | .error _ => true
  | _, _ => true

/-- The word of a statement. -/
def wordOf (p : Place) (st : Statement) : Err (BitVec 64) := do
  let sc ← scOf st
  let tt ← ttOf p st
  if actsOnce st.written sc ∧ tt ≠ 0xFF then .error "a guard on an instruction that takes none"
  else if !wbAgrees st then .error "wb does not agree with the destination"
  else if !sysrdAgrees p st.written then .error "a destination that is not as wide as the special register"
  else
    let ops ← st.written.values.mapM fun x => placed p x.1 x.2
    .ok (BitVec.ofNat 64 (st.written.row.opc * 2 ^ 54 + tt * 2 ^ 46 + sc * 2 ^ 45 + st.written.row.fixed + st.written.amount + ops.sum))

/-! ## Registers, for autoclausing (R76) -/

/-- Registers that an instruction touches: operand codes from one on, or every vector register (R77). -/
inductive Touched
  | codes (first n : Nat)
  | allVectors
  deriving DecidableEq, Repr

/-- R77: two sets of registers have one in common. -/
def meets : Touched → Touched → Bool
  | .codes a m, .codes b n => decide (a < b + n ∧ b < a + m)
  | .codes a _, .allVectors | .allVectors, .codes a _ => decide (a < 1536)
  | .allVectors, .allVectors => true

/-- How many registers an operand touches; of dotp as many as with SCALE = 1 (R255; log entry 89). accld's span is what the tile fills at the group's width (R307); a scale run has a
scalar for each lane word (R265). -/
def spanOf (width : Nat) (base : String) : Form → Nat
  | .dest _ n _ | .src _ n => n
  | .scalar _ n => if base = "mxq" ∨ base = "mxd" then max 1 (width / 32) else n
  | .number _ n => if n = 4 then max 1 (width / 32) else n
  | .vector 0 => 1024 / width
  | .vector n => n
  | .target p => if p then 2 else 1
  | .scalarZero => 1
  | .predicate | .index | .tile | .slot | .operandB | .imm _ _ _ _ | .float | .label | .members | .policy => 0

/-- The registers of an operand. -/
def touchedBy (width : Nat) (base : String) (o : Operand) (v : Value) : List Touched :=
  match v with
  | .code c => if 1540 ≤ c ∧ c < 1548 then [.allVectors] else if c < 1536 ∨ 1792 ≤ c then [.codes c (spanOf width base o.form)] else []
  | .noWrite | .fixed _ | .expression _ | .label _ => []

/-- R321: the second register that sysrd writes for some selectors. -/
def secondOfPair (env : String → Err Int) (w : Written) : List Touched :=
  if w.row.base = "sysrd" then
    match w.values with
    | [(_, .code c), (_, .expression l)] => match evaluate env l with
      | .ok n => if n ∈ pairSelectors then [.codes (c + 1) 1] else []
      | .error _ => []
    | _ => []
  else []

/-- R76: every register that an instruction reads or writes. -/
def touches (env : String → Err Int) (width : Nat) (w : Written) : List Touched :=
  w.values.flatMap (fun x => touchedBy width w.row.base x.1 x.2) ++ secondOfPair env w

/-- R105: the registers that a long-latency instruction leaves pending. -/
def leavesPending (width : Nat) (w : Written) : List Touched :=
  if w.row.long then (w.values.filter fun x => x.1.writes).flatMap fun x => touchedBy width w.row.base x.1 x.2 else []

end Sys2Proof.Asm
end

