-- ==== Sys2Proof/Machine/Asm.lean ====
section
/-!
DEFINITION. Volauz source files: lines, labels, clauses, autoclausing, directives, code objects, data images and packet
templates (spec/03 R60, R61, R66 to R69, R75 to R80; spec/12 R331 to R333).
-/

namespace Sys2Proof.Asm

/-! ## Clauses -/

/-- The fields of a clause header that a line gives (R66, R68), or that autoclausing gives (R77). -/
structure Header where
  cls : Nat
  tag : Nat
  waitd : Nat
  setd : Nat
  trio : Nat × Nat × Nat
  deriving DecidableEq, Repr

/-- R84: the word of a header. -/
def headerWord (h : Header) (count : Nat) : BitVec 64 :=
  BitVec.ofNat 64 (0x3FF * 2 ^ 54 + h.tag * 2 ^ 48 + h.waitd * 2 ^ 24 + h.setd * 2 ^ 21 + h.trio.2.2 * 2 ^ 18 + h.trio.2.1 * 2 ^ 15 +
    h.trio.1 * 2 ^ 12 + h.cls * 2 ^ 4 + (count - 1))

/-- A clause under way, its statements in order. `line` says that a clause line opened it, `count` what a verbose line says. -/
structure Clause where
  header : Header
  line : Bool
  count : Option Nat
  statements : List Statement
  deriving DecidableEq, Repr

/-- R86: a class admits an opcode. -/
def admits (cls opc : Nat) : Bool :=
  match cls with
  | 0 => decide (opc < 0x300)
  | 1 => decide (opc = 0 ∨ (0x080 ≤ opc ∧ opc < 0x100) ∨ (0x300 ≤ opc ∧ opc < 0x340))
  | 2 => decide (opc < 0x300 ∨ (0x340 ≤ opc ∧ opc < 0x360))
  | _ => decide (opc < 0x300 ∨ (0x360 ≤ opc ∧ opc < 0x3C0))

/-- R77: the class of a clause of these opcodes. -/
def classOf (opcs : List Nat) : Nat :=
  if opcs.any fun o => decide (0x300 ≤ o ∧ o < 0x340) then 1 else if opcs.any fun o => decide (0x340 ≤ o ∧ o < 0x360) then 2
  else if opcs.any fun o => decide (0x360 ≤ o) then 3 else 0

def Clause.opcs (c : Clause) : List Nat := c.statements.map (·.written.row.opc)

/-- R76: some class admits the clause with one more instruction; a clause line has chosen its class. -/
def Clause.takes (c : Clause) (opc : Nat) : Bool :=
  if c.line then admits c.header.cls opc else [0, 1, 2, 3].any fun k => (c.opcs ++ [opc]).all (admits k)

/-! ## A kernel -/

/-- R78: what the directives of a kernel say, each at most once. -/
structure Directives where
  regs : Option Nat
  sregs : Option Nat
  width : Option Nat
  team : Option Nat
  teammem : Option Nat
  acc : Option Nat
  horizon : Option Nat
  features : Option Nat
  flags : Option Nat
  deriving DecidableEq, Repr

/-- A kernel as its lines are read: the clauses closed so far, the clause under way, the trio of the last clause line, the
registers left pending and the counter of each (R76), how many clauses hold a long-latency instruction (R77), whether the
last instruction was a call, and the labels with their words. -/
structure Kernel where
  name : String
  told : Directives
  auto : Bool
  clauses : List Clause
  now : Option Clause
  trio : Nat × Nat × Nat
  pending : List (Touched × Nat)
  holders : Nat
  afterCall : Bool
  labels : List (String × Nat)
  deriving DecidableEq, Repr

def Kernel.start (name : String) : Kernel :=
  ⟨name, ⟨none, none, none, none, none, none, none, none, none⟩, false, [], none, (0, 1, 2), [], 0, false, []⟩

/-- How many words stand in clauses. -/
def wordsIn (l : List Clause) : Nat := (l.map fun c => c.statements.length + 1).sum

/-- The place of the header of the clause under way, or of the next one. -/
def Kernel.header (k : Kernel) : Nat := wordsIn k.clauses

/-- The counters that a header waits on are zero: what they guarded is pending no more. -/
def settled (waitd : Nat) (l : List (Touched × Nat)) : List (Touched × Nat) := l.filter fun p => !waitd.testBit p.2

/-- R76, R77: the counters of what is pending among registers. -/
def waitsOn (pending : List (Touched × Nat)) (l : List Touched) : Nat :=
  pending.foldl (fun w p => if l.any (meets p.1) && !w.testBit p.2 then w + 2 ^ p.2 else w) 0

/-- R67, R68: the clause under way is over. -/
def Kernel.close (k : Kernel) : Err Kernel :=
  match k.now with
  | none => .ok k
  | some c =>
    let n := c.statements.length
    if n = 0 ∨ 16 < n then .error "a clause holds 1 to 16 instructions"
    else if c.count.any (· != n) then .error "the count of a clause line does not agree"
    else
      let h := if c.line then c.header else { c.header with cls := classOf c.opcs }
      .ok { k with clauses := k.clauses ++ [{ c with header := h }], now := none }

/-- R66, R68: a clause line opens a clause. -/
def Kernel.line (k : Kernel) (h : Header) (count : Option Nat) : Err Kernel := do
  let k ← k.close
  .ok { k with now := some ⟨h, true, count, []⟩, trio := h.trio, pending := settled h.waitd k.pending, afterCall := false }

/-- R77: autoclausing opens a clause that waits on these counters. -/
def Kernel.open_ (k : Kernel) (waitd : Nat) : Kernel :=
  { k with now := some ⟨⟨0, 0, waitd, 0, k.trio⟩, false, none, []⟩, pending := settled waitd k.pending, afterCall := false }

/-- R76: the clause under way ends before an instruction. -/
def Kernel.endsBefore (k : Kernel) (labelled : Bool) (w : Written) (touched : List Touched) : Bool :=
  match k.now with
  | none => false
  | some c => !c.statements.isEmpty &&
      (labelled || c.statements.length == 16 || !c.takes w.row.opc || k.pending.any fun p => touched.any (meets p.1))

/-- R77: the instruction joins the clause under way. Where it is the clause's first long-latency one, the clause holds one, and
a clause of autoclausing takes its SETD. -/
def Kernel.append (k : Kernel) (width : Nat) (c : Clause) (st : Statement) : Kernel :=
  let w := st.written
  let first := w.row.long && !c.statements.any fun s => s.written.row.long
  let setd := if first && !c.line then k.holders % 8 else c.header.setd
  { k with
    now := some { c with header := { c.header with setd := setd }, statements := c.statements ++ [st] }
    pending := (leavesPending width w).map (·, setd) ++ k.pending
    holders := if first then k.holders + 1 else k.holders
    afterCall := w.row.base == "call" }

/-- R69, R76: labels stand for the header where autoclausing begins a clause with their instruction, and for the instruction's
own word otherwise. -/
def Kernel.labelled (k : Kernel) (labels : List String) : Kernel :=
  let at_ := match k.now with
    | some c => if k.auto && c.statements.isEmpty then k.header else k.header + 1 + c.statements.length
    | none => k.header
  { k with labels := k.labels ++ labels.map (·, at_) }

/-- R75 to R77: an instruction. mma and mmasp end their clause too, since R298 wants them last, although R76 does not name them
(log entry 89). -/
def Kernel.instruction (k : Kernel) (env : String → Err Int) (width : Nat) (labels : List String) (st : Statement) : Err Kernel := do
  let touched := touches env width st.written
  let begins := fun (k : Kernel) =>
    k.open_ (if !labels.isEmpty || k.afterCall then 0xFF else waitsOn k.pending touched)
  let k ←
    if k.auto then
      if k.now.isNone then .ok (begins k)
      else if k.endsBefore (!labels.isEmpty) st.written touched then (k.close).map begins
      else .ok k
    else .ok k
  match k.now with
  | none => .error "an instruction outside a clause"
  | some c =>
    let k := (k.labelled labels).append width c st
    if k.auto && (st.written.row.last || c.statements.length == 15) then k.close else .ok k

/-! ## Clause lines (R66, R68) -/

def classes : List (String × Nat) := [("general", 0), ("matrix", 1), ("horizon", 2), ("system", 3)]

/-- R66: the items of a clause line in compact notation; each at most once, which the rule does not say (log entry 89). -/
def compactItems (env : String → Err Int) : List (List Token) → List String → Header → Err Header
  | [], _, h => .ok h
  | i :: rest, seen, h => do
    let (key, h) ← match i with
      | [.name s] => match classes.lookup s with
        | some n => .ok ("class", { h with cls := n })
        | none => .error ("not an item of a clause line: " ++ s)
      | [.name "guard", .name a, .name b, .name c] => match register "q" a, register "q" b, register "q" c with
        | some a, some b, some c => .ok ("guard", { h with trio := (a, b, c) })
        | _, _, _ => .error "a guard trio names three predicates"
      | .name "wait" :: l => (waitItem l).map fun n => ("wait", { h with waitd := n })
      | [.name "set", .name d] => match register "d" d with
        | some n => .ok ("set", { h with setd := n })
        | none => .error "set names a counter"
      | .name "tag" :: l => do
        let n ← evaluate env l
        if 0 ≤ n ∧ n < 64 then .ok ("tag", { h with tag := n.toNat }) else .error "a tag out of range"
      | _ => .error "not an item of a clause line"
    if key ∈ seen then .error ("written twice: " ++ key) else compactItems env rest (key :: seen) h
where
  /-- R66: the counters that are named. -/
  waitItem : List Token → Err Nat
  | [] => .error "wait names counters"
  | [.name d] => match register "d" d with
    | some n => .ok (2 ^ n)
    | none => .error "wait names counters"
  | .name d :: l => match register "d" d with
    | some n => (waitItem l).map fun m => if m.testBit n then m else m + 2 ^ n
    | none => .error "wait names counters"
  | _ => .error "wait names counters"

/-- R68: a clause line in verbose notation: the header, and the count. -/
def verboseLine : List Token → Err (Header × Nat)
  | [.name "class", .sym "=", .name c, .name "tag", .sym "=", .int t, .name "waitd", .sym "=", .int w, .name "setd", .sym "=", .name d,
     .name "guard", .sym "=", .name a, .sym ",", .name b, .sym ",", .name e, .name "count", .sym "=", .int n] =>
    match classes.lookup c, register "d" d, register "q" a, register "q" b, register "q" e with
    | some c, some d, some a, some b, some e =>
      if t < 64 ∧ w < 256 ∧ 1 ≤ n ∧ n ≤ 16 then .ok (⟨c, t, w, d, (a, b, e)⟩, n) else .error "a field of a clause line out of range"
    | _, _, _, _, _ => .error "not a clause line"
  | _ => .error "a verbose clause line writes every field"

/-- R66, R68: what follows the keyword. -/
def readClauseLine (env : String → Err Int) (l : List Token) : Err (Header × Option Nat) :=
  if (.sym "=") ∈ l then (verboseLine l).map fun x => (x.1, some x.2)
  else (compactItems env (items l) [] ⟨0, 0, 0, 0, (0, 1, 2)⟩).map (·, none)

/-! ## A file -/

/-- R79: a packet template: the grid, the cluster, the priority, and the data labels named by args and done. -/
structure Launch where
  kernel : String
  grid : Nat × Nat × Nat
  cluster : Nat × Nat
  prio : Nat
  args : Option String
  done : Option String
  deriving DecidableEq, Repr

/-- A value of the data image: its size in bytes, and how it is written. -/
inductive Datum
  | value (size : Nat) (l : List Token)
  | zeros (n : Nat)
  deriving DecidableEq, Repr

/-- A file as its lines are read. `inData` says which image the lines are of; `waiting` are labels that stand for what comes
next. -/
structure File where
  kernels : List Kernel
  now : Option Kernel
  inData : Bool
  data : List Datum
  size : Nat
  dataLabels : List (String × Nat)
  equ : List (String × List Token)
  launches : List Launch
  exports : List String
  waiting : List String
  deriving DecidableEq, Repr

def File.start : File := ⟨[], none, false, [], 0, [], [], [], [], []⟩

/-- R61: a name that may be defined. The keywords of a clause line are `clause` and those of R66 and R68, but not `count`: the
manual's whole file defines a label of that name (log entry 89). -/
def goodName (s : String) : Bool :=
  let l := s.toList
  (l.head?.any fun c => c.isAlpha || c == '_') && l.all (fun c => c.isAlphanum || c == '_') && decide (l.length ≤ 63) && !isRegister s &&
    !(s ∈ ["clause", "general", "matrix", "horizon", "system", "guard", "wait", "set", "tag", "class", "waitd", "setd"]) && !rows.any fun r => r.base == s

/-- R61: the names that a file has defined. -/
def File.defined (f : File) : List String :=
  f.equ.map (·.1) ++ f.dataLabels.map (·.1) ++ f.waiting ++ (f.kernels ++ f.now.toList).flatMap fun k => k.name :: k.labels.map (·.1)

/-- The word at which a label of some kernel stands in it. -/
def codeLabel (l : List Kernel) (s : String) : Option Nat := l.findSome? fun k => k.labels.lookup s

/-- The value of a name, through at most n names of `.equ`. -/
def File.valueOf (f : File) (k : Option Kernel) : Nat → String → Err Int
  | 0, s => .error ("defined by itself: " ++ s)
  | n + 1, s => match f.dataLabels.lookup s, codeLabel (k.toList ++ f.kernels ++ f.now.toList) s, f.equ.lookup s with
    | some v, _, _ => .ok v
    | none, some v, _ => .ok (8 * v)
    | none, none, some l => evaluate (f.valueOf k n) l
    | none, none, none => .error ("not defined: " ++ s)

/-- R64: the value of a name: a data label's offset in the image (R80), a code label's offset in its kernel (log entry 89), or
what `.equ` says. -/
def File.env (f : File) (k : Option Kernel) : String → Err Int := f.valueOf k (f.equ.length + 1)

/-- The value of tokens where they stand. -/
def File.value (f : File) (l : List Token) (lo hi : Int) : Err Nat := do
  let n ← evaluate (f.env f.now) l
  if lo ≤ n ∧ n ≤ hi then .ok n.toNat else .error "a value out of range"

/-- Labels that wait stand for a place of the data image. -/
def File.bindData (f : File) : File := { f with dataLabels := f.dataLabels ++ f.waiting.map (·, f.size), waiting := [] }

/-- R78, R80: values of the data image. -/
def File.addData (f : File) (size : Nat) (l : List (List Token)) : Err File :=
  if !f.inData then .error "outside the data image" else if l.isEmpty then .error "a value was expected"
  else
    let f := f.bindData
    .ok { f with data := f.data ++ l.map (.value size), size := f.size + size * l.length }

/-- R78: `.align`. A label that waits stands for what comes after the padding (log entry 89). -/
def File.align (f : File) (l : List Token) : Err File := do
  let n ← f.value l 1 4096
  if !f.inData then .error "outside the data image"
  else if !(List.range 13).any fun k => n == 2 ^ k then .error "not a power of two"
  else
    let z := (n - f.size % n) % n
    .ok { f with data := f.data ++ [.zeros z], size := f.size + z }

/-- R78: names of a directive, each a bit. -/
def namedBits (table : List String) (l : List (List Token)) : Err Nat :=
  l.foldlM (fun n i => match i with
    | [.name s] => match table.findIdx? (· == s) with
      | some k => if n.testBit k then .error ("written twice: " ++ s) else .ok (n + 2 ^ k)
      | none => .error ("not a name of this directive: " ++ s)
    | _ => .error "names were expected") 0

/-- R79: the items of `.launch`. -/
def launchItems (f : File) : List (List Token) → List String → Launch → Err Launch
  | [], _, t => .ok t
  | (.name "grid" :: .sym "=" :: x) :: y :: z :: rest, seen, t => do
    let x ← f.value x 1 65535
    let y ← f.value y 1 65535
    let z ← f.value z 1 65535
    if "grid" ∈ seen then .error "written twice: grid" else launchItems f rest ("grid" :: seen) { t with grid := (x, y, z) }
  | [.name "cluster", .sym "=", .shape w h] :: rest, seen, t =>
    if "cluster" ∈ seen then .error "written twice: cluster"
    else if 1 ≤ w ∧ w ≤ 8 ∧ 1 ≤ h ∧ h ≤ 6 then launchItems f rest ("cluster" :: seen) { t with cluster := (w, h) }
    else .error "a cluster out of range"
  | (.name "prio" :: .sym "=" :: p) :: rest, seen, t => do
    let p ← f.value p 0 7
    if "prio" ∈ seen then .error "written twice: prio" else launchItems f rest ("prio" :: seen) { t with prio := p }
  | [.name "args", .sym "=", .name s] :: rest, seen, t =>
    if "args" ∈ seen then .error "written twice: args" else launchItems f rest ("args" :: seen) { t with args := some s }
  | [.name "done", .sym "=", .name s] :: rest, seen, t =>
    if "done" ∈ seen then .error "written twice: done" else launchItems f rest ("done" :: seen) { t with done := some s }
  | _, _, _ => .error "not an item of .launch"

/-- R78: a directive of the open kernel, which may stand there once. -/
def File.say (f : File) (get : Directives → Option Nat) (set : Directives → Nat → Directives) (v : Err Nat) : Err File :=
  match f.now with
  | none => .error "a directive outside a kernel"
  | some k => do
    if (get k.told).isSome then .error "a directive stands twice in a kernel"
    else
      let n ← v
      .ok { f with now := some { k with told := set k.told n } }

/-- R78: a kernel closes. -/
def File.endKernel (f : File) : Err File :=
  match f.now with
  | none => .error ".kend without .kernel"
  | some k => do
    let f := if f.inData then f.bindData else f
    let k ← (k.labelled f.waiting).close
    match k.told.width, k.told.regs, k.told.team with
    | some w, some _, some g =>
      if 1024 < w * g then .error "a team of more than 1,024 lanes"
      else .ok { f with kernels := f.kernels ++ [k], now := none, waiting := [], inData := false }
    | _, _, _ => .error "a kernel without .width, .regs or .team"

/-- R78: a directive. -/
def File.directive (f : File) (d : String) (l : List Token) : Err File :=
  match d, l with
  | ".kernel", [.name s] =>
    if f.now.isSome then .error "a kernel within a kernel"
    else if !goodName s then .error ("not a name: " ++ s) else if s ∈ f.defined then .error ("defined twice: " ++ s)
    else
      let f := if f.inData then f.bindData else f
      .ok { f with now := some (Kernel.start s), inData := false }
  | ".kend", [] => f.endKernel
  | ".regs", l => f.say (·.regs) (fun s n => { s with regs := some n }) (f.value l 1 1536)
  | ".sregs", l => f.say (·.sregs) (fun s n => { s with sregs := some n }) (f.value l 2 256)
  | ".width", l => f.say (·.width) (fun s n => { s with width := some n }) (do
      let n ← f.value l 8 128
      if n ∈ [8, 16, 32, 64, 128] then .ok n else .error "not a width")
  | ".team", l => f.say (·.team) (fun s n => { s with team := some n }) (f.value l 1 8)
  | ".teammem", l => f.say (·.teammem) (fun s n => { s with teammem := some n }) (f.value l 0 2097152)
  | ".acc", l => f.say (·.acc) (fun s n => { s with acc := some n }) (f.value l 0 2048)
  | ".horizon", l => f.say (·.horizon) (fun s n => { s with horizon := some n }) (f.value l 0 16)
  | ".features", l => f.say (·.features) (fun s n => { s with features := some n })
      (namedBits ["matrix", "sparse", "horizon", "sfu", "f64", "fabric"] (items l))
  | ".flags", l => f.say (·.flags) (fun s n => { s with flags := some n }) (namedBits ["det", "idem", "cogrid", "revocable"] (items l))
  | ".launch", l => match items l with
    | [.name s] :: rest => (launchItems f rest [] ⟨s, (1, 1, 1), (1, 1), 0, none, none⟩).map fun t =>
        { f with launches := f.launches ++ [t] }
    | _ => .error ".launch names a kernel"
  | ".data", [] => match f.now, f.inData with
    | some k, false => .ok { f with now := some (k.labelled f.waiting), waiting := [], inData := true }
    | _, _ => .ok { f with inData := true }
  | ".word", l => f.addData 4 (items l)
  | ".half", l => f.addData 2 (items l)
  | ".byte", l => f.addData 1 (items l)
  | ".align", l => f.align l
  | ".equ", .name s :: .sym "," :: l =>
    if !goodName s then .error ("not a name: " ++ s) else if s ∈ f.defined then .error ("defined twice: " ++ s)
    else .ok { f with equ := f.equ ++ [(s, l)] }
  | ".global", [.name s] => .ok { f with exports := f.exports ++ [s] }
  | ".autoclause", [.name s] => match f.now with
    | none => .error ".autoclause outside a kernel"
    | some k =>
      if s = "on" then .ok { f with now := some { k with auto := true } }
      else if s = "off" then do
        let k ← if k.now.any fun c => !c.line then k.close else .ok k
        .ok { f with now := some { k with auto := false } }
      else .error ".autoclause on or off"
  | _, _ => .error ("not a directive: " ++ d)

/-- R60: a statement of a line. -/
def File.statement (f : File) (width : String → Nat) (l : List Token) : Err File :=
  match l with
  | [] => .ok f
  | .name s :: r =>
    if s.toList.head? = some '.' then f.directive s r
    else match f.now, f.inData with
      | some k, false =>
        if s = "clause" then do
          let (h, n) ← readClauseLine (f.env (some k)) r
          let k ← k.close
          let k ← ({ k with labels := k.labels ++ f.waiting.map (·, k.header) } : Kernel).line h n
          .ok { f with now := some k, waiting := [] }
        else do
          let st ← readStatement l
          let k ← k.instruction (f.env (some k)) (width k.name) f.waiting st
          .ok { f with now := some k, waiting := [] }
      | _, _ => .error "code outside a kernel"
  | _ => .error "not a statement"

/-- R60, R61: a line. -/
def File.line (f : File) (width : String → Nat) (l : List Token) : Err File :=
  match l with
  | .name s :: .sym ":" :: r =>
    if !goodName s then .error ("not a name: " ++ s) else if s ∈ f.defined then .error ("defined twice: " ++ s)
    else ({ f with waiting := f.waiting ++ [s] } : File).statement width r
  | l => f.statement width l

/-- The lines of a file, with the group width of each kernel. -/
def readLines (width : String → Nat) (f : File) : List (List Token) → Err File
  | [] => .ok f
  | l :: rest => do
    let f ← f.line width l
    readLines width f rest

/-- The names that `.equ` defines, wherever it stands. -/
def equates : List (List Token) → List (String × List Token)
  | [] => []
  | (.name ".equ" :: .name s :: .sym "," :: l) :: rest => (s, l) :: equates rest
  | _ :: rest => equates rest

/-- The width that a kernel's `.width` says, wherever it stands in it. -/
def widthIn (env : String → Err Int) (s : String) : Option String → List (List Token) → Nat
  | _, [] => 8
  | _, [.name ".kernel", .name k] :: rest => widthIn env s (some k) rest
  | k, (.name ".width" :: l) :: rest =>
    if k = some s then (match evaluate env l with
      | .ok n => if 0 < n then n.toNat else 8
      | .error _ => 8)
    else widthIn env s k rest
  | k, _ :: rest => widthIn env s k rest

/-! ## What a file gives -/

/-- A code object: its words, its descriptor's fields (R333) and the words of its labels. -/
structure CodeObject where
  name : String
  words : List (BitVec 64)
  regs : Nat
  sregs : Nat
  width : Nat
  groups : Nat
  teammem : Nat
  acc : Nat
  horizon : Nat
  features : Nat
  flags : Nat
  labels : List (String × Nat)
  deriving DecidableEq, Repr

/-- R78 to R80: code objects, the data image, its labels, packet templates and exported labels. -/
structure Assembled where
  objects : List CodeObject
  data : List (BitVec 8)
  labels : List (String × Nat)
  launches : List Launch
  exports : List String
  deriving DecidableEq, Repr

/-- R333: the code object descriptor of an object whose code a loader places at entry. -/
def CodeObject.descriptor (o : CodeObject) (entry : Nat) : BitVec 512 :=
  BitVec.ofNat 512 (entry % 2 ^ 64 + o.regs * 2 ^ 64 + o.sregs * 2 ^ 75 + (Nat.log2 o.width - 3) * 2 ^ 84 + o.groups * 2 ^ 87 +
    o.teammem * 2 ^ 96 + o.acc * 2 ^ 128 + o.horizon * 2 ^ 140 + o.features * 2 ^ 152 + o.flags * 2 ^ 160 + 8 * o.words.length * 2 ^ 192 +
    2 ^ 256)

/-- R79: where the loader has placed the data image: page k of 256 bytes. -/
def imageAt (k : Nat) : Nat := 256 * k

/-- R79: the address that ARGS holds: that of the label named by args, or of the image's first byte. -/
def Assembled.args (a : Assembled) (t : Launch) (image : Nat) : Nat :=
  match t.args with
  | some s => image + (a.labels.lookup s).getD 0
  | none => image

/-- R79: the address that DONE holds: that of the label named by done, or 0. -/
def Assembled.done (a : Assembled) (t : Launch) (image : Nat) : Nat :=
  match t.done with
  | some s => image + (a.labels.lookup s).getD 0
  | none => 0

/-- R79, R331, R332: the packet of a template, where the loader has placed the code object descriptor at code and the data image
at page k of 256 bytes, as the host has it before it fills in LID, TENANT and CTX. -/
def Assembled.packet (a : Assembled) (t : Launch) (code k : Nat) : BitVec 512 :=
  BitVec.ofNat 512 (code % 2 ^ 64 + a.args t (imageAt k) % 2 ^ 64 * 2 ^ 64 + a.done t (imageAt k) % 2 ^ 64 * 2 ^ 128 +
    t.grid.1 * 2 ^ 192 + t.grid.2.1 * 2 ^ 208 + t.grid.2.2 * 2 ^ 224 + t.cluster.1 * 2 ^ 240 + t.cluster.2 * 2 ^ 244 +
    t.prio * 2 ^ 248)

/-- R69: the place of a clause header that a label names. -/
def Kernel.target (k : Kernel) (s : String) : Err Nat :=
  match k.labels.lookup s with
  | none => .error ("not a label of this kernel: " ++ s)
  | some n => if (List.range k.clauses.length).any fun i => wordsIn (k.clauses.take i) == n then .ok n
      else .error ("not a clause header: " ++ s)

/-- The words of a kernel's clauses; `at_` is the place of the next header. -/
def clauseWords (f : File) (k : Kernel) : Nat → List Clause → Err (List (BitVec 64))
  | _, [] => .ok []
  | at_, c :: rest => do
    let p : Place :=
      { regs := k.told.regs.getD 0, sregs := k.told.sregs.getD 2, trio := c.header.trio, env := f.env (some k)
        distance := fun s => (k.target s).map fun n => (n : Int) - at_ }
    let ws ← c.statements.mapM (wordOf p)
    let more ← clauseWords f k (at_ + c.statements.length + 1) rest
    .ok (headerWord c.header c.statements.length :: ws ++ more)

/-- A kernel's code object. -/
def codeObject (f : File) (k : Kernel) : Err CodeObject := do
  let ws ← clauseWords f k 0 k.clauses
  .ok ⟨k.name, ws, k.told.regs.getD 0, k.told.sregs.getD 2, k.told.width.getD 8, k.told.team.getD 1, k.told.teammem.getD 0, k.told.acc.getD 0,
    k.told.horizon.getD 0, k.told.features.getD 0, k.told.flags.getD 0, k.labels⟩

/-- The low bytes of a number. -/
def lowBytes (n : Nat) (v : Int) : List (BitVec 8) := (List.range n).map fun k => BitVec.ofInt 8 (v / 256 ^ k)

/-- R78, R80: the bytes of a datum. -/
def datumBytes (f : File) : Datum → Err (List (BitVec 8))
  | .zeros n => .ok (List.replicate n 0)
  | .value size l =>
    match (if size = 4 then code32 l else if size = 2 then code16 l else none) with
    | some (c, _) => .ok (lowBytes size c)
    | none => do
      let v ← evaluate (f.env none) l
      if -(2 ^ (8 * size - 1)) ≤ v ∧ v < 2 ^ (8 * size) then .ok (lowBytes size v) else .error "a value out of range"

/-- R79: the labels that a template names are of the data image, and its kernel is of the file. -/
def launchStands (f : File) (t : Launch) : Bool :=
  f.kernels.any (fun k => k.name == t.kernel) && t.args.all (fun s => (f.dataLabels.lookup s).isSome) &&
    t.done.all (fun s => (f.dataLabels.lookup s).isSome)

/-- vzas: what a source gives, or the first error in it. -/
def assemble (source : String) : Err Assembled := do
  let lines ← (splitLines source.toList).mapM fun l => tokens (l.length + 1) (withoutComment l)
  let named : File := { File.start with equ := equates lines }
  let f ← readLines (fun s => widthIn (named.env none) s none lines) File.start lines
  if f.now.isSome then .error "a kernel without .kend"
  else
    let f := f.bindData
    if !f.launches.all (launchStands f) then .error ".launch names what the file does not hold"
    else if !f.exports.all (fun s => s ∈ f.defined) then .error ".global names what the file does not hold"
    else
      let _ ← f.equ.mapM fun e => evaluate (f.env none) e.2
      let objects ← f.kernels.mapM (codeObject f)
      let data ← f.data.mapM (datumBytes f)
      .ok ⟨objects, data.flatten, f.dataLabels, f.launches, f.exports⟩

end Sys2Proof.Asm
end

