-- ==== Sys2Proof/Tests/Assembler.lean ====
section
/-!
SUPPORT. Sources of the manual, assembled to the words that it prints, or that its entries' encodings give (spec/03, spec/04).
-/

namespace Sys2Proof.Tests.Assembler

set_option Elab.async false

open Sys2Proof.Asm

/-- The words of the one kernel of a source. -/
def wordsOf (source : String) : Option (List (BitVec 64)) :=
  match assemble source with
  | .ok a => match a.objects with
    | [o] => some o.words
    | _ => none
  | .error _ => none

/-- spec/03 R74 and spec/04: the clause that is worked both ways, in compact notation. -/
theorem test_compact : wordsOf
    ".kernel k\n.width 8\n.team 1\n.regs 16\n.sregs 32\nclause guard q3 q1 q2, wait d1\nadd.i32 (q3 & !q1) v10, v4, #12\nfmul.f32 _, v6, v7\nffma.f32 (q3 ^ q2) v11, b0, v8, s9\nmov.b32 s20, s21\n.kend"
    = some [0xFFC000000208B003, 0x208C00140100000C, 0x443FD00001803800, 0x4616801780004709, 0x363FEE29C5400000] := by
  decide +kernel

/-- The same in verbose notation. -/
theorem test_verbose : wordsOf
    ".kernel k\n.width 8\n.team 1\n.regs 16\n.sregs 32\nclause class=general tag=0 waitd=0x02 setd=d0 guard=q3,q1,q2 count=4\nadd.i32 tt=0x30 sc=0 wb=1 v10, v4, #12\nfmul.f32.rn tt=0xFF sc=0 wb=0 _, v6, v7\nffma.f32.rn tt=0x5A sc=0 wb=1 v11, b0, v8, s9\nmov.b32 tt=0xFF sc=1 wb=1 s20, s21\n.kend"
    = some [0xFFC000000208B003, 0x208C00140100000C, 0x443FD00001803800, 0x4616801780004709, 0x363FEE29C5400000] := by
  decide +kernel

/-- spec/03, "A whole file": autoclausing gives d0 to the load's clause, and a second clause that waits on it and sets d1. -/
theorem test_autoclause : wordsOf
    ".data\ncount: .word 41\n.kernel bump\n.width 8\n.team 1\n.regs 8\n.sregs 4\n.launch bump, grid=1,1,1, cluster=1x1, prio=0, args=count\n.autoclause on\nld.g.b32 s2, s0, #0\nadd.i32 s2, s2, #1\nst.g.b32 s2, s0, #0\nexit\n.kend"
    = some [0xFFC0000000088000, 0x813FEE05C0000008, 0xFFC0000001288002, 0x20BFEE05C0800001, 0x893FEE05C0000008, 0x02FFC00000000000] := by
  decide +kernel

/-- spec/08 R210: the loopd clause stands 24 bytes after the body. -/
theorem test_loop : (wordsOf
    ".kernel k\n.width 8\n.team 1\n.regs 16\n.sregs 8\nLtop: clause\nadd.i32 v9, v9, #1\nadd.i32 v10, v10, #2\nclause\nloopd s5, Ltop\n.kend").map
    (·.getD 4 0) = some 0x017FC705FFFFFFFD := by
  decide +kernel

/-- spec/03 R63, R65, R72: an odd pair, an immediate that is not exact and a scalar destination with a vector source are errors. -/
theorem test_errors : (["add.i64 v1, v2, v4", "fmul.f32 v4, v4, #0.1", "mov.b32 s2, v3"].map fun i =>
    wordsOf (".kernel k\n.width 8\n.team 1\n.regs 16\nclause\n" ++ i ++ "\n.kend")) = [none, none, none] := by
  decide +kernel

end Sys2Proof.Tests.Assembler
end

