-- ==== Sys2Proof/Tests/Slice0.lean ====
section
/-!
SUPPORT. Tests: an ill-formed term for each check of WellFormed, and words written out bit by bit from the encodings of spec/04
R88 to R94 and the entries of spec/08 to spec/11.
-/

namespace Sys2Proof.Tests

set_option Elab.async false

open Sys2Proof Sys2Proof.Machine

/-! ## What WellFormed refuses -/

/-- R205: an SC bit where the entry has none. -/
theorem test_refuses_sc_set : (Instr.nop ⟨0xFF, true, false, 0, 0, 0, 0⟩).WellFormed = false := by decide
/-- R260: a group instruction without SC. -/
theorem test_refuses_sc_clear : (Instr.bar ⟨0xFF, false, false, 0, 0, 0, 0⟩).WellFormed = false := by decide
/-- R102: NW where no single vector result is produced. -/
theorem test_refuses_nw : (Instr.frcp .f32 ⟨0xFF, false, true, 0, 1, 0, 0⟩).WellFormed = false := by decide
/-- R102: NW with a field D that is not 0. -/
theorem test_refuses_nw_with_d : (Instr.add .w32 ⟨0xFF, false, true, 5, 1, 2, 0⟩).WellFormed = false := by decide
/-- R54: TT of a scalar-marked instruction. -/
theorem test_refuses_tt_scalar : (Instr.add .w32 ⟨0x30, true, false, 0x702, 0x703, 0x704, 0⟩).WellFormed = false := by decide
/-- R50: TT of a join. -/
theorem test_refuses_tt_entry : (Instr.join ⟨0x30, false, false, 0, 0, 0, 0⟩).WellFormed = false := by decide
/-- R95: an unused field that is not 0. -/
theorem test_refuses_unused : (Instr.add .w32 ⟨0xFF, false, false, 0, 1, 2, 3⟩).WellFormed = false := by decide
/-- R97: a reserved operand code. -/
theorem test_refuses_reserved_operand : (Instr.add .w32 ⟨0xFF, false, false, 0, 0x60E, 2, 0⟩).WellFormed = false := by decide
/-- R101: a scalar destination of a per-lane instruction, a vector source of a scalar-marked one. -/
theorem test_refuses_scalar_dest : (Instr.add .w32 ⟨0xFF, false, false, 0x702, 1, 2, 0⟩).WellFormed = false := by decide
theorem test_refuses_vector_source : (Instr.add .w32 ⟨0xFF, true, false, 0x702, 1, 0x703, 0⟩).WellFormed = false := by decide
/-- R97: a latch as a destination. -/
theorem test_refuses_latch_dest : (Instr.add .w32 ⟨0xFF, false, false, 0x600, 1, 2, 0⟩).WellFormed = false := by decide
/-- R253: a run that starts at a latch. -/
theorem test_refuses_run : (Instr.cvtpPack ⟨0xFF, false, false, 0, 0x600, 0, 0⟩).WellFormed = false := by decide
theorem test_refuses_run_dest : (Instr.cvtpUnpack ⟨0xFF, false, false, 0x604, 1, 0, 0⟩).WellFormed = false := by decide
/-- R232: a scalar as the A of a shuffle. -/
theorem test_refuses_shuffle : (Instr.shflIdx ⟨0xFF, false, false, 0, 0x702, 1, 0⟩).WellFormed = false := by decide
/-- R234, R260: a vector register as an operand of a group instruction. -/
theorem test_refuses_group_source : (Instr.setfmt ⟨0xFF, false, false, 0, 1, 0, 0⟩).WellFormed = false := by decide
theorem test_refuses_group_dest : (Instr.clock ⟨0xFF, true, false, 2, 0, 0, 0⟩).WellFormed = false := by decide
/-- R256: a scale that is no scalar. -/
theorem test_refuses_scale : (Instr.mxq ⟨0xFF, false, false, 0, 1, 0x60C, 0⟩).WellFormed = false := by decide
/-- R91: laneid as 128-bit data. -/
theorem test_refuses_wide_data : (Instr.st .g .b128 ⟨0xFF, false, false, 0x60D, 4, 0, 0, 0⟩).WellFormed = false := by decide
/-- R93: an A that is no vector register. -/
theorem test_refuses_fragment : (Instr.mma ⟨0xFF, false, false, 0, 0x700, 0, 0, 0, 0⟩).WellFormed = false := by decide
/-- R96, R215: two equal predicate destinations, and an integer compare for an order that is only of floats. -/
theorem test_refuses_cmp_dest : (Instr.cmp .i32 ⟨0xFF, false, false, 0, 1, 2, 0⟩).WellFormed = false := by decide
theorem test_refuses_cmp_cc : (Instr.cmp .i32 ⟨0xFF, false, false, 0x608, 1, 2, 0⟩).WellFormed = false := by decide
/-- R251, R252: a conversion to the same type; bits of fxcvt above its control. -/
theorem test_refuses_cvt : (Instr.cvt ⟨0xFF, false, false, 0, 1, 0, 0x120⟩).WellFormed = false := by decide
theorem test_refuses_fxcvt : (Instr.fxcvt ⟨0xFF, false, false, 0, 1, 0, 0x20⟩).WellFormed = false := by decide
/-- R228: an immediate amount of 32. -/
theorem test_refuses_shift : (Instr.shlImm ⟨0xFF, false, false, 0, 1, 32⟩).WellFormed = false := by decide
/-- R92: Z, S and TGT of a jump. -/
theorem test_refuses_jump_z : (Instr.jmp ⟨0xFF, 1, 0, 0⟩).WellFormed = false := by decide
theorem test_refuses_jump_s : (Instr.jmp ⟨0xFF, 0, 0x702, 0⟩).WellFormed = false := by decide
theorem test_refuses_call_s : (Instr.call ⟨0xFF, 0, 2, 0⟩).WellFormed = false := by decide
theorem test_refuses_ret_tgt : (Instr.ret ⟨0xFF, 0, 0x702, 1⟩).WellFormed = false := by decide
/-- R93: Z, REUSE, BS, GSEL, SPSEL and SHAPE where an entry does not use them. -/
theorem test_refuses_matrix_z : (Instr.mma ⟨0xFF, false, true, 0, 0, 0, 0, 0, 0⟩).WellFormed = false := by decide
theorem test_refuses_reuse : (Instr.acczero ⟨0xFF, true, false, 0, 0, 0, 0, 0, 0⟩).WellFormed = false := by decide
theorem test_refuses_bs : (Instr.mma ⟨0xFF, false, false, 0, 0, 8, 0, 0, 0⟩).WellFormed = false := by decide
theorem test_refuses_gsel : (Instr.acczero ⟨0xFF, false, false, 0, 0, 0, 1, 0, 0⟩).WellFormed = false := by decide
theorem test_refuses_spsel : (Instr.mma ⟨0xFF, false, false, 0, 0, 0, 0, 1, 0⟩).WellFormed = false := by decide
theorem test_refuses_shape : (Instr.mma ⟨0xFF, false, false, 0, 0, 0, 0, 0, 8⟩).WellFormed = false := by decide
/-- R94: FN, the predicates and HX where an entry does not use them; equal predicates of hzins. -/
theorem test_refuses_fn : (Instr.hzclear ⟨0xFF, true, false, 0, 0, 1, 0, 0, 0, 0⟩).WellFormed = false := by decide
theorem test_refuses_q : (Instr.hzclear ⟨0xFF, true, false, 0, 0, 0, 1, 0, 0, 0⟩).WellFormed = false := by decide
theorem test_refuses_hx : (Instr.hzclear ⟨0xFF, true, false, 0, 0, 0, 0, 0, 1, 0⟩).WellFormed = false := by decide
theorem test_refuses_equal_q : (Instr.hzins ⟨0xFF, false, false, 1, 1, 0, 2, 2, 0, 0⟩).WellFormed = false := by decide
/-- R311: a direction of a key that the slot does not have. -/
theorem test_refuses_dir : (Instr.hzinit ⟨0xFF, true, false, 1, 0, 0, 0, 0, 0, 0⟩).WellFormed = false := by decide
/-- R91, R263: NW of format M; a load that is a release; a fence that is nothing; an OFF18 of a fence. -/
theorem test_refuses_memory_nw : (Instr.ld .g .b32 ⟨0xFF, false, true, 0, 2, 0, 0, 0⟩).WellFormed = false := by decide
theorem test_refuses_load_order : (Instr.ld .g .b32 ⟨0xFF, false, false, 0, 2, 0, 0, 3⟩).WellFormed = false := by decide
theorem test_refuses_store_order : (Instr.st .t .b32 ⟨0xFF, false, false, 0, 2, 0, 0, 1⟩).WellFormed = false := by decide
theorem test_refuses_fence : (Instr.fence ⟨0xFF, true, false, 0, 0, 0, 0, 0⟩).WellFormed = false := by decide
theorem test_refuses_off : (Instr.fence ⟨0xFF, true, false, 0, 0, 1, 0, 3⟩).WellFormed = false := by decide
/-- R321: a selector that sysrd does not have. -/
theorem test_refuses_selector : (Instr.sysrd ⟨0xFF, true, false, 0x702, 0, 16⟩).WellFormed = false := by decide

/-! ## Words -/

/-- spec/04 R90: OPC 0x082, TT 0x30, D v10, A v4, IMM22 12. -/
theorem test_word_add_imm : decodeTableWord 64 0x208C_0014_0100_000C = some (.addImm ⟨0x30, false, false, 10, 4, 12⟩) := by decide
/-- spec/04 R89: OPC 0x080, D v6, A b0, B v5. -/
theorem test_word_add : decodeTableWord 64 0x203F_C00D_8000_2800 = some (.add .w32 ⟨0xFF, false, false, 6, 0x600, 5, 0⟩) := by decide
/-- spec/04 R92: OPC 0x005, S s5, TGT -3. -/
theorem test_word_loopd : decodeTableWord 64 0x017F_C705_FFFF_FFFD = some (.loopd ⟨0xFF, 0, 0x705, 0xFFFF_FFFD⟩) := by decide
theorem test_word_mark : decodeTableWord 64 0x01BF_C000_0000_000C = some (.mark ⟨0xFF, 0, 0, 12⟩) := by decide
theorem test_word_split : decodeTableWord 64 0x01FC_0000_0000_0009 = some (.split ⟨0xF0, 0, 0, 9⟩) := by decide
/-- spec/08 R215: cc and the two predicates in D. -/
theorem test_word_cmp : decodeTableWord 64 0x087F_C403_8378_2000 = some (.cmp .n32 ⟨0xFF, false, false, 0x201, 0x60D, 0x704, 0⟩) := by
  decide
/-- spec/08 R226: mov.b64 of scalar pairs. -/
theorem test_word_mov : decodeTableWord 64 0x363F_EE29_C540_0000 = some (.mov .w32 ⟨0xFF, true, false, 0x714, 0x715, 0, 0⟩) := by
  decide
theorem test_word_shfl : decodeTableWord 64 0x38FF_D000_0078_4003 = some (.shflXor ⟨0xFF, false, true, 0, 1, 0x708, 3⟩) := by decide
theorem test_word_fmul : decodeTableWord 64 0x443F_D000_0180_3800 = some (.fmul (.f32 .rn) ⟨0xFF, false, true, 0, 6, 7, 0⟩) := by
  decide
theorem test_word_fmul_imm : decodeTableWord 64 0x4EBF_C008_010F_C000 = some (.fmulImm ⟨0xFF, false, false, 4, 4, 0x0FC000⟩) := by
  decide
theorem test_word_ffma : decodeTableWord 64 0x4616_8017_8000_4709 = some (.ffma (.f32 .rn) ⟨0x5A, false, false, 11, 0x600, 8, 0x709⟩) := by
  decide
theorem test_word_cvt : decodeTableWord 64 0x603F_C00A_00C0_0188 = some (.cvt ⟨0xFF, false, false, 5, 3, 0, 0x188⟩) := by decide
/-- spec/04 R91: OFF18, SCOPE and ORDER. -/
theorem test_word_ld : decodeTableWord 64 0x813F_C009_C000_0408 = some (.ld .g .b32 ⟨0xFF, false, false, 4, 0x700, 0x40, 2, 0⟩) := by
  decide
theorem test_word_st : decodeTableWord 64 0x893F_C004_0100_0008 = some (.st .g .b32 ⟨0xFF, false, false, 2, 4, 0, 2, 0⟩) := by decide
theorem test_word_ldmx : decodeTableWord 64 0x903F_C015_C105_0188 = some (.ldmx .g ⟨0xFF, false, false, 10, 0x704, 0x5018, 2, 0⟩) := by
  decide
theorem test_word_atom : decodeTableWord 64 0xA53C_000D_C100_0008 = some (.atom .g .incN32 ⟨0xF0, false, false, 6, 0x704, 0, 2, 0⟩) := by
  decide
theorem test_word_red : decodeTableWord 64 0xABFF_C009_C180_0008 = some (.red .addF32 ⟨0xFF, false, false, 4, 0x706, 0, 2, 0⟩) := by
  decide
theorem test_word_bar : decodeTableWord 64 0xB07F_E000_0000_0000 = some (.bar ⟨0xFF, true, false, 0, 0, 0, 0⟩) := by decide
theorem test_word_gangset : decodeTableWord 64 0xC03F_E000_0008_0008 = some (.gangset ⟨0xFF, true, false, 0, 0, 0x80008⟩) := by decide
/-- spec/04 R93: ACC 0, AB v8, BS 0, SHAPE 0. -/
theorem test_word_mma : decodeTableWord 64 0xC13F_C000_0200_0100 = some (.mma ⟨0xFF, false, false, 0, 8, 0, 1, 0, 0⟩) := by decide
/-- spec/04 R94. -/
theorem test_word_hzins : decodeTableWord 64 0xD07C_0014_0300_2501 = some (.hzins ⟨0xF0, false, false, 10, 12, 0, 4, 5, 0, 1⟩) := by
  decide
theorem test_word_hzinit :
    decodeTableWord 64 0xD03F_E401_41C0_0000 = some (.hzinit ⟨0xFF, true, false, 0x200, 0x507, 0, 0, 0, 0, 0⟩) := by decide
theorem test_word_brk : decodeTableWord 64 0xD87F_E000_0000_0000 = some (.brk ⟨0xFF, true, false, 0, 0, 0, 0⟩) := by decide
theorem test_word_tgthalt : decodeTableWord 64 0xDD3F_E001_C280_0000 = some (.tgthalt ⟨0xFF, true, false, 0, 0x70A, 0, 0⟩) := by decide
theorem test_word_wpset :
    decodeTableWord 64 0xDE3F_E001_C478_971E = some (.wpset ⟨0xFF, true, false, 0, 0x711, 0x712, 0x71E⟩) := by decide

/-- spec/04 R85: GA, GB, GC, NCOUNT, CLASS of a header. -/
theorem test_header : headerFault 0xFFC0_0000_0208_B003 = none ∧ hdrNcount 0xFFC0_0000_0208_B003 = 3 := by decide
/-- spec/04 R88: the opcode 0x3FF within a clause, and an opcode of the table's gaps. -/
theorem test_header_no_instruction : decodeWord 0xFFC0_0000_0208_B003 = .error (.illegal Enc.hdrInClause) := by rfl
theorem test_gap_no_instruction : decodeWord (0x00D <<< 54) = .error (.illegal Enc.rsvOpcode) := by rfl
/-- spec/04 R83, spec/01 R3: eight bytes, the lowest first; fewer are no word. -/
theorem test_bytes : decode [0x0C, 0x00, 0x00, 0x01, 0x14, 0x00, 0x8C, 0x20, 0xAA] =
    .ok (.addImm ⟨0x30, false, false, 10, 4, 12⟩, [0xAA]) := by rfl
theorem test_truncated : decode [0x0C, 0x00] = .error .truncated := by rfl

end Sys2Proof.Tests
end

