-- ==== Sys2Proof/Tests/Worlds.lean ====
section
/-!
SUPPORT. A small state for the witnesses: one group of one team of one launch of one context, whose instruction executes.
-/

namespace Sys2Proof.Tests

set_option Elab.async false

open Sys2Proof Sys2Proof.Machine Sys2Proof.Claims

/-- A launch of one team of one group of 8 lanes: every register, 64 KiB of team memory, 64 tiles, 16 slots, COGRID. -/
def launch0 : Launch := { newLaunch fetchPacket fetchDescriptor 0 0 with nextTeam := 1, started := true }
/-- Its group, in a clause of one instruction. -/
def group0 : Group := { newGroup launch0 1 1 0 (agentId 0 0) 0 0 0 with header := some 0, entered := true }
def team0 : Team := newTeam 1 0 0 [1]
def context0 : Context := newContext 0 0 true 0 0 0 0 0 0

/-- The state in which the group's instruction executes. -/
def world (g : Group) (t : Team) (l : Launch) (c : Context) : State :=
  { State.reset with contexts := [(0, c)], launches := [(1, l)], teams := [(1, t)], groups := [(1, g)], cur := some 1, nextId := 2 }
/-- The group, with its team, launch and context. -/
def user (g : Group) (t : Team) (l : Launch) (c : Context) : Issuer := ⟨1, g, t, l, c⟩

abbrev s0 : State := world group0 team0 launch0 context0
abbrev u0 : Issuer := user group0 team0 launch0 context0

theorem issuing (g : Group) (t : Team) (l : Launch) (c : Context) (ht : g.team = 1) (hl : g.launch = 1) (hc : l.ctx = 0) :
    Issuing (world g t l c) (user g t l c) :=
  ⟨rfl, by simp [issuerOf, world, user, Table.get?, ht, hl, hc]⟩

theorem issuing0 : Issuing s0 u0 := issuing _ _ _ _ rfl rfl (by decide +kernel)

theorem issuer_of (s : State) (u : Issuer) (n : Nat) (hg : s.groups.get? u.gid = some u.g) (ht : s.teams.get? u.g.team = some u.t)
    (hl : s.launches.get? u.g.launch = some u.l) (hn : u.l.ctx = n) (hc : s.contexts.get? n = some u.c) :
    issuerOf s u.gid = some u := by
  subst hn
  simp [issuerOf, hg, ht, hl, hc]

/-- The launch is one of context 0. -/
theorem ctx0 : launch0.ctx = 0 := by decide +kernel

/-- Whether an operand fits, as a value. -/
def fitsB (u : Issuer) (l : Nat) (use : Use) : Bool :=
  let vectors := fun n => decide (n % use.align = 0 ∧ n + use.size ≤ u.l.regs) &&
    (List.range use.size).all fun k => !u.g.vPend (n + k) l && (use.write || !u.g.vBad (n + k) l)
  match operandOf use.code with
  | .v n => vectors n
  | .indexed k => vectors (u.g.xreg k l).toNat
  | .s n => decide (n % use.align = 0 ∧ n + use.size ≤ u.l.sregs) &&
      (List.range use.size).all fun k => !u.g.sPend (n + k) && (use.write || !u.g.sBad (n + k))
  | .latch k => match u.g.latches[k]? with
    | some e => (e.elems.get? l).isSome && decide (e.wide = decide (use.size = 2))
    | none => false
  | _ => true

theorem vectors_of {u : Issuer} {l n : Nat} {use : Use}
    (h : (decide (n % use.align = 0 ∧ n + use.size ≤ u.l.regs) &&
      (List.range use.size).all fun k => !u.g.vPend (n + k) l && (use.write || !u.g.vBad (n + k) l)) = true) :
    n % use.align = 0 ∧ n + use.size ≤ u.l.regs ∧
      ∀ k, k < use.size → u.g.vPend (n + k) l = false ∧ (use.write = false → u.g.vBad (n + k) l = false) := by
  simp only [Bool.and_eq_true, decide_eq_true_eq, List.all_eq_true, List.mem_range, Bool.not_eq_true', Bool.or_eq_true] at h
  exact ⟨h.1.1, h.1.2, fun k hk => ⟨(h.2 k hk).1, fun hw => by have := (h.2 k hk).2; simp_all⟩⟩

theorem scalars_fit {u : Issuer} {n : Nat} {use : Use}
    (h : (decide (n % use.align = 0 ∧ n + use.size ≤ u.l.sregs) &&
      (List.range use.size).all fun k => !u.g.sPend (n + k) && (use.write || !u.g.sBad (n + k))) = true) :
    n % use.align = 0 ∧ n + use.size ≤ u.l.sregs ∧
      ∀ k, k < use.size → u.g.sPend (n + k) = false ∧ (use.write = false → u.g.sBad (n + k) = false) := by
  simp only [Bool.and_eq_true, decide_eq_true_eq, List.all_eq_true, List.mem_range, Bool.not_eq_true', Bool.or_eq_true] at h
  exact ⟨h.1.1, h.1.2, fun k hk => ⟨(h.2 k hk).1, fun hw => by have := (h.2 k hk).2; simp_all⟩⟩

theorem fits_of {u : Issuer} {l : Nat} {use : Use} (h : fitsB u l use = true) : Fits u l use := by
  simp only [fitsB] at h
  simp only [Fits]
  split at h <;> try simp only [*]
  · exact vectors_of h
  · exact vectors_of h
  · exact scalars_fit h
  · split at h
    · next e he =>
      simp only [Bool.and_eq_true, decide_eq_true_eq] at h
      obtain ⟨x, hx⟩ := Option.isSome_iff_exists.mp h.1
      exact ⟨e, x, he, hx, h.2⟩
    · exact absurd h (by simp)

/-- Operands of a form, and of a group instruction. -/
theorem operands_of {u : Issuer} {k : LaneForm}
    (h : (if k.sc then k.uses.all (fitsB u 0) else (u.enabledLanes k.tt).all fun l => k.uses.all (fitsB u l)) = true) :
    OperandsFit u k := by
  unfold OperandsFit
  split at h
  · next hs => rw [if_pos hs]; exact fun x hx => fits_of (List.all_eq_true.mp h x hx)
  · next hs => rw [if_neg hs]; exact fun l hl x hx => fits_of (List.all_eq_true.mp (List.all_eq_true.mp h l hl) x hx)

theorem scalars_of {u : Issuer} {uses : List Use} (h : uses.all (fitsB u 0) = true) : ScalarsFit u uses :=
  fun x hx => fits_of (List.all_eq_true.mp h x hx)

end Sys2Proof.Tests
end

