-- ==== Sys2Proof/Tests/WitnessLanes.lean ====
section
/-!
SUPPORT. Witnesses: states and operands that meet the hypotheses of the statements about instructions of lanes, one for each
clause.
-/

namespace Sys2Proof.Tests

set_option Elab.async false

open Sys2Proof Sys2Proof.Machine Sys2Proof.Claims

/-- A per-lane word with D v2, A zero, B laneid, C zero, and the same with scalars: D s2, A s3, B s4, C s5. -/
abbrev fv : FormV := ⟨0xFF, false, false, 2, 0x60C, 0x60D, 0⟩
abbrev fv3 : FormV := ⟨0xFF, false, false, 2, 0x60C, 0x60D, 0x60C⟩
abbrev fv1 : FormV := ⟨0xFF, false, false, 2, 0x60C, 0, 0⟩
abbrev fs : FormV := ⟨0xFF, true, false, 0x702, 0x703, 0x704, 0⟩
/-- The last vector pair of the launch. -/
abbrev fTop : FormV := ⟨0xFF, false, false, 1534, 1534, 1534, 0⟩
abbrev fi : FormI := ⟨0xFF, false, false, 2, 0x60C, 5⟩

/-- What a statement over a table asks of an instruction of it. -/
def Meets (table : Instr → Option Compute) (i : Instr) : Prop :=
  ∃ k, table i = some k ∧ i.WellFormed = true ∧ Issuing s0 u0 ∧ OperandsFit u0 k.form

theorem meets {table : Instr → Option Compute} {i : Instr} (h : (match table i with
    | some k => i.WellFormed && (if k.form.sc then k.form.uses.all (fitsB u0 0)
        else (u0.enabledLanes k.form.tt).all fun l => k.form.uses.all (fitsB u0 l))
    | none => false) = true) : Meets table i := by
  split at h
  · next k hk => rw [Bool.and_eq_true] at h; exact ⟨k, hk, h.1, issuing0, operands_of h.2⟩
  · exact absurd h (by simp)

theorem witness_arithmetic : Meets arithmetic (.add .w32 fv) := meets (by decide +kernel)
theorem witness_arithmetic_scalar : Meets arithmetic (.add .w32 fs) := meets (by decide +kernel)
theorem witness_arithmetic_pairs : Meets arithmetic (.add .w64 fTop) := meets (by decide +kernel)
theorem witness_carry : Meets arithmetic (.addc ⟨0xFF, false, false, 2, 0x60C, 0x60D, 7⟩) := meets (by decide +kernel)
theorem witness_minMaxPacked : Meets minMaxPacked (.min .w32 .signed fv) := meets (by decide +kernel)
theorem witness_logic : Meets logic (.and .w32 fv) := meets (by decide +kernel)
theorem witness_shifts : Meets shifts (.shlImm ⟨0xFF, false, false, 2, 0x60C, 31⟩) := meets (by decide +kernel)
theorem witness_bitFields : Meets bitFields (.bfi fv3) := meets (by decide +kernel)
theorem witness_moves : Meets moves (.lea ⟨0xFF, false, false, 2, 1534, 0x60D, 7⟩) := meets (by decide +kernel)
theorem witness_predicates : Meets predicates (.cmp .i32 ⟨0xFF, false, false, 1, 0x60C, 0x60D, 0⟩) := meets (by decide +kernel)
theorem witness_indexes : Meets indexes (.xaddImm ⟨0xFF, false, false, 7, 7, 0x3FFFFF⟩) := meets (by decide +kernel)
theorem witness_floats : Meets floats (.ffma (.f32 .rn) fv3) := meets (by decide +kernel)
theorem witness_conversions : Meets conversions (.cvt ⟨0xFF, false, false, 2, 0x60C, 0, 0x100⟩) := meets (by decide +kernel)

/-- Without an enabled lane an instruction has nothing to check. -/
theorem witness_no_lane : Meets arithmetic (.add .w32 ⟨0, false, false, 2, 1, 1, 0⟩) := meets (by decide +kernel)

/-! ## Instructions of predicates, lanes and FMT -/

theorem witness_groupResult : groupResult (.ballot ⟨0xFF, true, false, 0x702, 7, 3, 0⟩) ≠ none ∧
    (Instr.ballot ⟨0xFF, true, false, 0x702, 7, 3, 0⟩).WellFormed = true ∧ Issuing s0 u0 ∧ ScalarsFit u0 [dst 0x702] :=
  ⟨by simp [groupResult], by decide, issuing0, scalars_of (by decide +kernel)⟩

theorem witness_plive : (Instr.plive ⟨0xFF, false, false, 0, 0, 0xFF⟩).WellFormed = true ∧ Issuing s0 u0 := ⟨by decide, issuing0⟩

abbrev fShuffle : FormV := ⟨0xFF, false, false, 2, 3, 0x702, 2⟩
theorem witness_exchange : exchange (.shflXor fShuffle) = some (fShuffle, sourceXor) ∧ (Instr.shflXor fShuffle).WellFormed = true ∧
    Issuing s0 u0 ∧ ShuffleFits u0 fShuffle sourceXor := by
  refine ⟨rfl, by decide, issuing0, fun l hl => ?_⟩
  have h : ((u0.enabledLanes fShuffle.tt).all fun l => fitsB u0 l (dst fShuffle.d) && (fitsB u0 l (Machine.src fieldB fShuffle.b) &&
    fitsB u0 (sourceLane fShuffle sourceXor u0 l) (Machine.src fieldA fShuffle.a))) = true := by decide +kernel
  have := List.all_eq_true.mp h l hl
  simp only [Bool.and_eq_true] at this
  exact ⟨fun _ => fits_of this.1, fits_of this.2.1, fits_of this.2.2⟩

/-- FMT 0 is accepted, and a reserved bit, or a reserved code, is not. -/
theorem witness_setfmt : (Instr.setfmt ⟨0xFF, false, false, 0, 0x702, 0, 0⟩).WellFormed = true ∧ Issuing s0 u0 ∧
    ScalarsFit u0 [Machine.src fieldA 0x702] ∧ FmtFits (rd u0 0x702 0) :=
  ⟨by decide, issuing0, scalars_of (by decide +kernel), by unfold FmtFits; decide +kernel⟩
theorem witness_setfmtImm : (Instr.setfmtImm ⟨0xFF, false, false, 0, 0, 0xDDDDD⟩).WellFormed = true ∧
    FmtFits ((0xDDDDD : BitVec 22).zeroExtend 32) ∧ (Instr.setfmtImm ⟨0xFF, false, false, 0, 0, 0xE⟩).WellFormed = true ∧
    ¬ FmtFits ((0xE : BitVec 22).zeroExtend 32) ∧ ¬ FmtFits ((0x100000 : BitVec 22).zeroExtend 32) :=
  ⟨by decide, by unfold FmtFits; decide, by decide, by unfold FmtFits; decide, by unfold FmtFits; decide⟩
/-- A scalar with a reserved code. -/
abbrev gFmt : Group := group0.setS 2 0xE
theorem witness_setfmt_refused : Issuing (world gFmt team0 launch0 context0) (user gFmt team0 launch0 context0) ∧
    ScalarsFit (user gFmt team0 launch0 context0) [Machine.src fieldA 0x702] ∧ ¬ FmtFits (rd (user gFmt team0 launch0 context0) 0x702 0) :=
  ⟨issuing _ _ _ _ rfl rfl (by decide +kernel), scalars_of (by decide +kernel), by unfold FmtFits; decide +kernel⟩

/-! ## Under FMT, and results that come later -/

/-- A group whose FMT says e4m3 for A and for B, with 32-bit accumulation. -/
abbrev gE4 : Group := { group0 with fmt := 0x44 }
abbrev sE4 : State := world gE4 team0 launch0 context0
abbrev uE4 : Issuer := user gE4 team0 launch0 context0
theorem issuingE4 : Issuing sE4 uE4 := issuing _ _ _ _ rfl rfl (by decide +kernel)

abbrev fPack : FormV := ⟨0xFF, false, false, 2, 1532, 0, 0⟩
theorem witness_cvtp : ∃ k, underFmt uE4 (.cvtpPack fPack) = some k ∧ (Instr.cvtpPack fPack).WellFormed = true ∧
    FmtSuits uE4 (.cvtpPack fPack) ∧ Issuing sE4 uE4 ∧ OperandsFit uE4 k.form :=
  ⟨_, rfl, by decide, by simp only [FmtSuits, cvtpAccepts]; decide +kernel, issuingE4, operands_of (by decide +kernel)⟩

theorem witness_dotp : ∃ k, underFmt uE4 (.dotp fv3) = some k ∧ (Instr.dotp fv3).WellFormed = true ∧ FmtSuits uE4 (.dotp fv3) ∧
    Issuing sE4 uE4 ∧ OperandsFit uE4 k.form := by
  obtain ⟨k, hk⟩ : ∃ k, underFmt uE4 (.dotp fv3) = some k := Option.isSome_iff_exists.mp (by decide +kernel)
  have h : ((underFmt uE4 (.dotp fv3)).all fun k => (uE4.enabledLanes k.form.tt).all fun l => k.form.uses.all (fitsB uE4 l)) = true := by
    decide +kernel
  have hs : ((underFmt uE4 (.dotp fv3)).all fun k => !k.form.sc) = true := by decide +kernel
  rw [hk, Option.all_some] at h hs
  refine ⟨k, hk, by decide, ⟨by decide +kernel, by decide +kernel⟩, issuingE4, operands_of ?_⟩
  rw [if_neg (by simpa using hs)]; exact h

abbrev fScaled : FormV := ⟨0xFF, false, false, 2, 3, 0x704, 0⟩
theorem witness_mxd : (Instr.mxd fScaled).WellFormed = true ∧ mxAccepts uE4 ∧ Issuing sE4 uE4 ∧
    OperandsFit uE4 (dequantised fScaled).form ∧ ScalesFit uE4 fScaled true :=
  ⟨by decide, by unfold mxAccepts; decide +kernel, issuingE4, operands_of (by decide +kernel), by unfold ScalesFit; decide +kernel⟩
theorem witness_mxq : (Instr.mxq fScaled).WellFormed = true ∧ mxAccepts uE4 ∧ Issuing sE4 uE4 ∧
    (∀ l ∈ uE4.enabledLanes fScaled.tt, Fits uE4 l (dst fScaled.d) ∧ Fits uE4 l (Machine.src fieldA fScaled.a)) ∧
    ScalesFit uE4 fScaled false := by
  refine ⟨by decide, by unfold mxAccepts; decide +kernel, issuingE4, fun l hl => ?_, by unfold ScalesFit; decide +kernel⟩
  have h : ((uE4.enabledLanes fScaled.tt).all fun l => fitsB uE4 l (dst fScaled.d) && fitsB uE4 l (Machine.src fieldA fScaled.a)) =
    true := by decide +kernel
  have := List.all_eq_true.mp h l hl
  simp only [Bool.and_eq_true] at this
  exact ⟨fits_of this.1, fits_of this.2⟩

theorem witness_sfu : ∃ k, deferredOf u0 (.frcp .f32 fv1) = some (.sfu, k) ∧ (Instr.frcp .f32 fv1).WellFormed = true ∧
    mayDefer u0 (.frcp .f32 fv1) ∧ Issuing s0 u0 ∧ u0.g.counter (hdrSetd u0.header) < 63 ∧ OperandsFit u0 k.form :=
  ⟨_, rfl, by decide, trivial, issuing0, by decide +kernel, operands_of (by decide +kernel)⟩

/-- A group whose FMT says SCALE too, and its scaled dotp: A and B of eight registers, C a pair. -/
abbrev gScale : Group := { group0 with fmt := 0x8044 }
abbrev uScale : Issuer := user gScale team0 launch0 context0
abbrev fDot : FormV := ⟨0xFF, false, false, 2, 8, 16, 4⟩
theorem witness_scaled_dotp : ∃ k, deferredOf uScale (.dotp fDot) = some (.dotp, k) ∧ (Instr.dotp fDot).WellFormed = true ∧
    mayDefer uScale (.dotp fDot) ∧ Issuing (world gScale team0 launch0 context0) uScale ∧ u0.g.counter (hdrSetd uScale.header) < 63 ∧
    OperandsFit uScale k.form := by
  refine ⟨_, rfl, by decide, ⟨by decide +kernel, by decide +kernel, by decide +kernel, rfl, ⟨8, by decide⟩, ⟨16, by decide⟩⟩,
    issuing _ _ _ _ rfl rfl (by decide +kernel), by decide +kernel, operands_of (by decide +kernel)⟩

/-- A result on its way to lane 7. -/
abbrev inFlight0 (kind : DeferredKind) : Deferred := ⟨1, kind, [⟨false, 2, 7, 5, false⟩], 0, 0, none⟩
theorem witness_in_flight : InFlight { s0 with deferred := [(9, inFlight0 .sfu)] } 9 .sfu (inFlight0 .sfu) u0 ∧
    InFlight { s0 with deferred := [(9, inFlight0 .dotp)] } 9 .dotp (inFlight0 .dotp) u0 :=
  ⟨⟨rfl, rfl, issuer_of _ u0 0 rfl rfl rfl ctx0 rfl, by decide⟩, ⟨rfl, rfl, issuer_of _ u0 0 rfl rfl rfl ctx0 rfl, by decide⟩⟩

end Sys2Proof.Tests
end

