-- ==== Sys2Proof/Tests/WitnessControl.lean ====
section
/-!
SUPPORT. Witnesses for the statements about control, system registers, the debug mailbox and synchronisation.
-/

namespace Sys2Proof.Tests

set_option Elab.async false

open Sys2Proof Sys2Proof.Machine Sys2Proof.Claims

/-- The state and its issuer with another group. -/
abbrev sG (g : Group) : State := world g team0 launch0 context0
abbrev uG (g : Group) : Issuer := user g team0 launch0 context0
theorem issuingG (g : Group) (ht : g.team = 1) (hl : g.launch = 1) : Issuing (sG g) (uG g) := issuing _ _ _ _ ht hl ctx0

/-! ## Branching -/

abbrev fx : FormX := ⟨0xFF, 0, 0, 0xFFFF_FFFD⟩
abbrev fxs : FormX := ⟨0xFF, 0, 0x702, 9⟩

/-- Every lane's guard takes the same bit of TT = FF. -/
theorem guard_full (u : Issuer) (l : Nat) : guardBit u 0xFF l = true := by
  unfold guardBit
  have h : ∀ a b c : Bool, (0xFF : BitVec 8).getLsbD (4 * a.toNat + 2 * b.toNat + c.toNat) = true := by decide
  exact h _ _ _

theorem witness_jump : ∃ may taken, jump (.jmp fx) = some (fx, may, taken) ∧ (Instr.jmp fx).WellFormed = true ∧ Issuing s0 u0 ∧ may u0 :=
  ⟨_, _, rfl, by decide, issuing0, fun l m _ _ => by rw [guard_full, guard_full]⟩
/-- q1 set in lane 0 alone: TT = 0xCC chooses by it. -/
abbrev gOdd : Group := { group0 with q := [(1, 1#128)], header := some 0x8000 }
theorem witness_disagreement : Issuing (sG gOdd) (uG gOdd) ∧ Active (uG gOdd) 0 ∧ Active (uG gOdd) 1 ∧
    guardBit (uG gOdd) 0xCC 0 ≠ guardBit (uG gOdd) 0xCC 1 :=
  ⟨issuingG _ rfl rfl, by unfold Active; decide +kernel, by unfold Active; decide +kernel, by decide +kernel⟩
theorem witness_brx : (Instr.brx fxs).WellFormed = true ∧ (Instr.loopd fxs).WellFormed = true ∧ (Instr.call fxs).WellFormed = true ∧
    (Instr.ret ⟨0xFF, 0, 0x702, 0⟩).WellFormed = true ∧ Issuing s0 u0 ∧ ScalarsFit u0 [Machine.src fieldS 0x702] ∧
    ScalarsFit u0 [⟨fieldS, 0x702, 2, 2, true⟩] ∧ ScalarsFit u0 [src64 fieldS 0x702] :=
  ⟨by decide, by decide, by decide, by decide, issuing0, scalars_of (by decide +kernel), scalars_of (by decide +kernel),
   scalars_of (by decide +kernel)⟩

/-! ## The stack -/

/-- A full stack, whose entries have no lane. -/
abbrev gFull : Group := { group0 with stack := List.replicate 32 ⟨false, 0, 0, 0⟩ }
theorem witness_mark : (Instr.mark ⟨0xFF, 0, 0, 12⟩).WellFormed = true ∧ Issuing s0 u0 ∧ u0.g.stack.length < 32 ∧
    Issuing (sG gFull) (uG gFull) ∧ 32 ≤ (uG gFull).g.stack.length :=
  ⟨by decide, issuing0, by decide, issuingG _ rfl rfl, by decide⟩

/-- Where a guard of q1 holds in lane 0: TT = 0xCC. -/
theorem witness_cond : condMask (uG gOdd) 0xCC 1 := by
  have h : ∀ l < 128, ((1#128).getLsbD l = true ↔ (l < (uG gOdd).l.width ∧ (uG gOdd).g.active.getLsbD l = true) ∧
    guardBit (uG gOdd) 0xCC l = true) := by decide +kernel
  exact fun l hl => h l hl
theorem witness_split : (Instr.split ⟨0xCC, 0, 0, 9⟩).WellFormed = true ∧ Issuing (sG gOdd) (uG gOdd) ∧ condMask (uG gOdd) 0xCC 1 ∧
    (1#128) ≠ 0 ∧ (uG gOdd).g.active &&& ~~~(1#128) ≠ 0 ∧ (uG gOdd).g.stack.length < 32 :=
  ⟨by decide, issuingG _ rfl rfl, witness_cond, by decide, by decide +kernel, by decide⟩
/-- No lane, and every lane: TT = 0, and TT = FF with the group's own lanes. -/
theorem witness_split_none : condMask u0 0 0 := by
  have h : ∀ l < 128, ((0#128).getLsbD l = true ↔ (l < u0.l.width ∧ u0.g.active.getLsbD l = true) ∧ guardBit u0 0 l = true) := by
    decide +kernel
  exact fun l hl => h l hl
theorem witness_split_all : condMask u0 0xFF u0.g.active ∧ u0.g.active ≠ 0 ∧ u0.g.active &&& ~~~u0.g.active = 0 := by
  have h : ∀ l < 128, (u0.g.active.getLsbD l = true ↔ (l < u0.l.width ∧ u0.g.active.getLsbD l = true) ∧ guardBit u0 0xFF l = true) := by
    decide +kernel
  exact ⟨fun l hl => h l hl, by decide +kernel, by decide +kernel⟩
abbrev gFullOdd : Group := { gOdd with stack := List.replicate 32 ⟨false, 0, 0, 0⟩ }
theorem witness_split_full : condMask (uG gFullOdd) 0xCC 1 ∧ (uG gFullOdd).g.active &&& ~~~(1#128) ≠ 0 ∧
    32 ≤ (uG gFullOdd).g.stack.length := by
  have h : ∀ l < 128, ((1#128).getLsbD l = true ↔ (l < (uG gFullOdd).l.width ∧ (uG gFullOdd).g.active.getLsbD l = true) ∧
    guardBit (uG gFullOdd) 0xCC l = true) := by decide +kernel
  exact ⟨fun l hl => h l hl, by decide +kernel, by decide⟩
/-- A stack with an empty entry over one that has lanes. -/
abbrev gJoin : Group := { group0 with stack := [⟨true, 0, 0, 0⟩, ⟨false, 64, 3, 0⟩] }
theorem witness_join : (Instr.join ⟨0xFF, false, false, 0, 0, 0, 0⟩).WellFormed = true ∧ Issuing (sG gJoin) (uG gJoin) ∧
    liveTop (uG gJoin).g.stack = ⟨false, 64, 3, 0⟩ :: [] ∧ liveTop u0.g.stack = [] :=
  ⟨by decide, issuingG _ rfl rfl, by decide, by decide⟩

/-! ## Nop, exit and yield -/

theorem witness_nop_yield : (Instr.nop ⟨0xFF, false, false, 0, 0, 0, 0⟩).WellFormed = true ∧
    (Instr.yield ⟨0xFF, false, false, 0, 0, 0, 0⟩).WellFormed = true ∧ Issuing s0 u0 := ⟨by decide, by decide, issuing0⟩
theorem witness_exit_some : (Instr.exit ⟨0xCC, false, false, 0, 0, 0, 0⟩).WellFormed = true ∧ Issuing (sG gOdd) (uG gOdd) ∧
    condMask (uG gOdd) 0xCC 1 ∧ (uG gOdd).g.active &&& ~~~(1#128) ≠ 0 :=
  ⟨by decide, issuingG _ rfl rfl, witness_cond, by decide +kernel⟩
theorem witness_exit_last : condMask u0 0xFF u0.g.active ∧ liveTop (without u0.g.active u0.g.stack) = [] :=
  ⟨witness_split_all.1, by decide⟩
/-- Lanes 0 to 7 exit over an entry that keeps lane 9. -/
abbrev gOver : Group := { group0 with stack := [⟨false, 64, 1 <<< 9, 0⟩] }
theorem witness_exit_rejoins : Issuing (sG gOver) (uG gOver) ∧
    liveTop (without (uG gOver).g.active (uG gOver).g.stack) = ⟨false, 64, (1 <<< 9) &&& ~~~(uG gOver).g.active, 0⟩ :: [] :=
  ⟨issuingG _ rfl rfl, by decide +kernel⟩

/-! ## System registers, software traps and the mailbox -/

theorem witness_sysrd : (Instr.sysrd ⟨0xFF, true, false, 0x702, 0, 15⟩).WellFormed = true ∧ Issuing s0 u0 ∧ special u0 15 = some 0 ∧
    ScalarsFit u0 [dst 0x702] ∧ (Instr.sysrd ⟨0xFF, true, false, 0x702, 0, 12⟩).WellFormed = true ∧ specialPair s0 u0 12 = some 0 ∧
    ScalarsFit u0 [dst64 0x702] :=
  ⟨by decide, issuing0, rfl, scalars_of (by decide +kernel), by decide, rfl, scalars_of (by decide +kernel)⟩
theorem witness_syswr : (Instr.syswr ⟨0xFF, true, false, 0, 0x702, 15⟩).WellFormed = true ∧ ScalarsFit u0 [Machine.src fieldA 0x702] ∧
    (Instr.clock ⟨0xFF, true, false, 0x702, 0, 0, 0⟩).WellFormed = true ∧ (Instr.tmark ⟨0xFF, true, false, 0, 0, 0xFFFF⟩).WellFormed = true :=
  ⟨by decide, scalars_of (by decide +kernel), by decide, by decide⟩
/-- A context that does not allow debugging. -/
abbrev cShut : Context := { context0 with dbg := false }
theorem witness_traps : (Instr.trap ⟨0xFF, true, false, 0, 0, 0xFF⟩).WellFormed = true ∧
    (Instr.brk ⟨0xFF, true, false, 0, 0, 0, 0⟩).WellFormed = true ∧ u0.c.dbg = true ∧
    Issuing (world group0 team0 launch0 cShut) (user group0 team0 launch0 cShut) ∧ cShut.dbg = false :=
  ⟨by decide, by decide, rfl, issuing _ _ _ _ rfl rfl ctx0, rfl⟩
/-- The last word of a mailbox, and the first beyond it. -/
abbrev gBox (k : Word) : Group := group0.setS 2 k
abbrev fBox : FormV := ⟨0xFF, true, false, 0, 0x702, 0x704, 0⟩
theorem witness_mailbox : (Instr.dmput fBox).WellFormed = true ∧ Issuing (sG (gBox 63)) (uG (gBox 63)) ∧
    ScalarsFit (uG (gBox 63)) [Machine.src fieldA 0x702, src64 fieldB 0x704] ∧ (rd (uG (gBox 63)) 0x702 0).toNat < 64 ∧
    groupPerformed (sG (gBox 63)) 1 = true ∧ 64 ≤ (rd (uG (gBox 64)) 0x702 0).toNat ∧
    (Instr.dmget ⟨0xFF, true, false, 0x704, 0x702, 0, 0⟩).WellFormed = true ∧
    ScalarsFit (uG (gBox 63)) [dst64 0x704, Machine.src fieldA 0x702] :=
  ⟨by decide, issuingG _ rfl rfl, scalars_of (by decide +kernel), by decide +kernel, by decide +kernel, by decide +kernel, by decide,
   scalars_of (by decide +kernel)⟩

/-- An access of the group in flight. -/
abbrev lane0 (target : Target) (size : Nat) (done : Bool) : LaneAccess :=
  ⟨0, 0x40, target, none, none, size, 0, done, if done then some 5 else none, false, [2]⟩
abbrev access0 (kind : AccessKind) (sp : Space) (target : Target) (size : Nat) (done : Bool) : Access :=
  ⟨1, kind, sp, false, [lane0 target size done], 0xFF, 0, 0, 0, 0, (0, 0, 0), 0, 0, 0x204, false, false, none, 0, none⟩
abbrev sBusy : State := { s0 with accesses := [(5, access0 .store .g (.phys 0x40 0 false) 4 false)] }
theorem issuingBusy : Issuing sBusy u0 := ⟨rfl, issuer_of _ u0 0 rfl rfl rfl ctx0 rfl⟩
theorem witness_waits : Issuing sBusy u0 ∧ groupPerformed sBusy 1 = false := ⟨issuingBusy, by decide +kernel⟩

/-! ## Fences and barriers -/

abbrev fFence (scope order : BitVec 2) : FormM := ⟨0xFF, true, false, 0, 0, 0, scope, order⟩
theorem witness_fence : (Instr.fence (fFence 2 3)).WellFormed = true ∧ Issuing s0 u0 ∧ FenceReady s0 u0 (fFence 2 3) :=
  ⟨by decide, issuing0, fun _ => by decide +kernel, fun _ => by decide +kernel⟩
theorem witness_fence_waits : (Instr.fence (fFence 0 2)).WellFormed = true ∧ Issuing sBusy u0 ∧ ¬ FenceReady sBusy u0 (fFence 0 2) :=
  ⟨by decide, issuingBusy, fun h => absurd (h.1 (by unfold releases; decide)) (by decide +kernel)⟩

abbrev fBar : FormV := ⟨0xFF, true, false, 0, 0, 0, 0⟩
theorem witness_barrier : barrierOf (.barg fBar) = some (.grid, false) ∧ (Instr.barg fBar).WellFormed = true ∧ Issuing s0 u0 ∧
    HasBarrier u0 .grid false ∧ NoOpenArrival u0 .grid ∧ groupPerformed s0 1 = true :=
  ⟨rfl, by decide, issuing0, ⟨fun _ => by decide +kernel, nofun⟩, by unfold NoOpenArrival; decide +kernel, by decide +kernel⟩
/-- No pod domain; an arrival at a phase that is not over. -/
theorem witness_no_barrier : barrierOf (.barp fBar) = some (.grid, true) ∧ ¬ HasBarrier u0 .grid true := ⟨rfl, fun h => h.2 rfl rfl⟩
abbrev gOpen : Group := { group0 with barTeam := ⟨1, 0, 0⟩ }
theorem witness_open_arrival : Issuing (sG gOpen) (uG gOpen) ∧ ¬ NoOpenArrival (uG gOpen) .team ∧ HasBarrier (uG gOpen) .team false :=
  ⟨issuingG _ rfl rfl, by unfold NoOpenArrival; decide +kernel, nofun, nofun⟩
theorem witness_arrive : (Instr.arrive ⟨0xFF, true, false, 0x702, 2, 0, 0⟩).WellFormed = true ∧ ScalarsFit u0 [dst 0x702] ∧
    levelNamed 2 = .grid ∧ NoOpenArrival u0 .grid :=
  ⟨by decide, scalars_of (by decide +kernel), by decide, by unfold NoOpenArrival; decide +kernel⟩
theorem witness_await : (Instr.await ⟨0xFF, true, false, 0, 0x702, 0, 0⟩).WellFormed = true ∧ Issuing (sG gOpen) (uG gOpen) ∧
    ScalarsFit (uG gOpen) [Machine.src fieldA 0x702] ∧ (rd (uG gOpen) 0x702 0).toNat < ((uG gOpen).g.counts .team).arrived ∧
    (u0.g.counts .team).arrived ≤ (rd u0 0x702 0).toNat :=
  ⟨by decide, issuingG _ rfl rfl, scalars_of (by decide +kernel), by decide +kernel, by decide +kernel⟩
/-- A group that waits for phase 0, which is over. -/
abbrev gWaits : Group := { group0 with status := .blocked, wait := some (.barrier .team 0 false), barTeam := ⟨1, 0, 0⟩ }
abbrev tOver : Team := { team0 with barPhase := 1 }
theorem witness_wakes : issuerOf (world gWaits tOver launch0 context0) 1 = some (user gWaits tOver launch0 context0) ∧
    gWaits.status = .blocked ∧ tOver.status = .resident ∧ gWaits.header.isSome = true ∧
    phaseOver (user gWaits tOver launch0 context0) .team 0 false = true :=
  ⟨(issuing _ _ _ _ rfl rfl ctx0).2, rfl, rfl, rfl, by decide +kernel⟩

end Sys2Proof.Tests
end

