-- ==== Sys2Proof/Tests/WitnessMemory.lean ====
section
/-!
SUPPORT. Witnesses for the statements about monitors, arrival sets, and memory.
-/

namespace Sys2Proof.Tests

set_option Elab.async false

open Sys2Proof Sys2Proof.Machine Sys2Proof.Claims

/-! ## A paged world -/

/-- Tables that map the first GiB of the address space, writable and executable, to the offsets from 1 GiB on. -/
abbrev mem0 : List Host.Cell :=
  [(0x1000, 0x03), (0x1001, 0x20), (0x2000, 0x03), (0x2001, 0x30), (0x3000, 0x0F), (0x3001, 0x06), (0x3003, 0x40)]
abbrev core0 : Core := { Core.reset with tlb := [⟨0, 0, 2, 0x4000060F⟩], issuing := some 0 }
abbrev paged (s : State) : State := { s with mem := mem0, cores := [(0, core0)] }
abbrev cPaged : Context := { context0 with root := 0x1000 }
abbrev sP (g : Group) : State := paged (world g team0 launch0 cPaged)
abbrev uP (g : Group) : Issuer := user g team0 launch0 cPaged
theorem issuingP (g : Group) (ht : g.team = 1) (hl : g.launch = 1) : Issuing (sP g) (uP g) :=
  ⟨rfl, issuer_of _ (uP g) 0 rfl (by simp [uP, user, ht, world, Table.get?])
    (by simp [uP, user, hl, world, Table.get?]) ctx0 rfl⟩

/-- No core holds a line. -/
theorem noDirty_of (s : State) (c : Core) (h : s.cores = [(0, c)]) (hl : c.lines = []) : NoDirty s := by
  intro k b
  simp only [coreDirty, h, Table.get?]
  by_cases hk : (0 : Nat) = k <;> simp [hk, hl, Table.get?]

/-! ## Monitors (R277) -/

/-- s4 and s5 hold the address 0x40, s6 the value expected, s7 no timeout. -/
abbrev gMon (e : Word) : Group := ((group0.setS 4 0x40).setS 6 e)
abbrev fMon : FormV := ⟨0xFF, true, false, 0x702, 0x704, 0x706, 0x707⟩
theorem witness_monwait : (Instr.monwait fMon).WellFormed = true ∧ Issuing (sP (gMon 1)) (uP (gMon 1)) ∧
    ScalarsFit (uP (gMon 1)) [dst fMon.d, src64 fieldA fMon.a, Machine.src fieldB fMon.b, Machine.src fieldC fMon.c] ∧
    MonitorReads (sP (gMon 1)) (uP (gMon 1)) fMon 0x40000040 ∧
    translate (sP (gMon 1)) 0 0 0x1000 0x40 kindRead = .ok (.phys 0x40000040 0 false) ∧
    memoryWord (sP (gMon 1)) 0x40000040 ≠ rd (uP (gMon 1)) fMon.b 0 :=
  ⟨by decide, issuingP _ rfl rfl, scalars_of (by decide +kernel),
   ⟨by decide +kernel, by decide +kernel, ⟨0, false, by decide +kernel⟩, by decide, fun _ hp => (List.not_mem_nil hp).elim, noDirty_of _ core0 rfl rfl, rfl, by decide +kernel⟩,
   by decide +kernel, by decide +kernel⟩
theorem witness_monwait_blocks : Issuing (sP (gMon 0)) (uP (gMon 0)) ∧ MonitorReads (sP (gMon 0)) (uP (gMon 0)) fMon 0x40000040 ∧
    memoryWord (sP (gMon 0)) 0x40000040 = rd (uP (gMon 0)) fMon.b 0 :=
  ⟨issuingP _ rfl rfl,
   ⟨by decide +kernel, by decide +kernel, ⟨0, false, by decide +kernel⟩, by decide, fun _ hp => (List.not_mem_nil hp).elim, noDirty_of _ core0 rfl rfl, rfl, by decide +kernel⟩,
   by decide +kernel⟩
/-- A monitor whose time is out. -/
abbrev gTimeout : Group := { group0 with status := .blocked, wait := some (.monitor 0x40 0x40000040 0 0x702 (some 0) []) }
theorem witness_timeout : issuerOf (sP gTimeout) 1 = some (uP gTimeout) ∧ gTimeout.status = .blocked ∧ (uP gTimeout).t.status = .resident ∧
    (uP gTimeout).calm = false ∧ (uP gTimeout).l.det = false ∧ 0 ≤ (sP gTimeout).ticks.toNat :=
  ⟨(issuingP _ rfl rfl).2, rfl, rfl, by decide +kernel, by decide +kernel, Nat.zero_le _⟩

/-! ## Arrival sets (R278 to R281) -/

abbrev fSet (c : BitVec 11) : FormV := ⟨0xFF, true, false, 0, 0x702, 0x704, c⟩
abbrev set0 : ArrivalSet := ⟨0xFFFF, 5, [(3, 8)], [(3, 4)], [], 0, false, true, []⟩
/-- A team with set 1 bound to endpoint 5. -/
abbrev tSet : Team := { team0 with sets := [(1, set0)] }
abbrev sS (g : Group) (t : Team) : State := world g t launch0 context0
abbrev uS (g : Group) (t : Team) : Issuer := user g t launch0 context0
/-- s2 = 15, s4 = endpoint 0 and mask 1. -/
abbrev gInit : Group := (group0.setS 2 15).setS 4 1
theorem witness_arvinit : (Instr.arvinit (fSet 0)).WellFormed = true ∧ Issuing (sS gInit tSet) (uS gInit tSet) ∧
    ScalarsFit (uS gInit tSet) [Machine.src fieldA 0x702, Machine.src fieldB 0x704] ∧ (rd (uS gInit tSet) 0x702 0).toNat < 16 ∧
    EndpointFree (sS gInit tSet) (uS gInit tSet) 15 ((rd (uS gInit tSet) 0x704 0).extractLsb' 16 16).toNat :=
  ⟨by decide, issuing _ _ _ _ rfl rfl ctx0, scalars_of (by decide +kernel), by decide +kernel, .inl (by decide +kernel)⟩
/-- s4 = endpoint 5, which set 1 has. -/
abbrev gTaken : Group := (group0.setS 2 15).setS 4 0x50001
theorem witness_arvinit_taken : Issuing (sS gTaken tSet) (uS gTaken tSet) ∧
    ¬ EndpointFree (sS gTaken tSet) (uS gTaken tSet) 15 ((rd (uS gTaken tSet) 0x704 0).extractLsb' 16 16).toNat := by
  refine ⟨issuing _ _ _ _ rfl rfl ctx0, fun h => ?_⟩
  have e : ((rd (uS gTaken tSet) 0x704 0).extractLsb' 16 16).toNat = 5 := by decide +kernel
  rw [e] at h
  rcases h with h | h
  · exact absurd h (by decide)
  · have := (h (1, tSet) (by simp [sS, world]) launch0 rfl rfl (by decide) (1, set0) (by simp) rfl).2
    exact absurd this (by decide)
theorem witness_arvinit_index : Issuing (sG (gBox 16)) (uG (gBox 16)) ∧ ScalarsFit (uG (gBox 16)) [Machine.src fieldA 0x702] ∧
    16 ≤ (rd (uG (gBox 16)) 0x702 0).toNat :=
  ⟨issuingG _ rfl rfl, scalars_of (by decide +kernel), by decide +kernel⟩
/-- s2 = 1, s4 = 3, s6 = 8: set 1 expects 8 bytes of source 3. -/
abbrev gExp : Group := ((group0.setS 2 1).setS 4 3).setS 6 8
theorem witness_arvexp : (Instr.arvexp (fSet 0x706)).WellFormed = true ∧ Issuing (sS gExp tSet) (uS gExp tSet) ∧
    ScalarsFit (uS gExp tSet) [Machine.src fieldA 0x702, Machine.src fieldB 0x704, Machine.src fieldC 0x706] ∧
    (rd (uS gExp tSet) 0x702 0).toNat < 16 ∧ (rd (uS gExp tSet) 0x704 0).toNat < 16 ∧
    Expected (setOf tSet 1) 3 8 set0 ∧ set0.broken = (setOf tSet 1).broken := by
  refine ⟨by decide, issuing _ _ _ _ rfl rfl ctx0, scalars_of (by decide +kernel), by decide +kernel, by decide +kernel, ?_, rfl⟩
  refine ⟨fun j => ?_, fun j => ?_, fun j => ?_, by decide, rfl⟩
  · by_cases h : j = 3
    · subst h; decide
    · simp [h, Ne.symm h, Claims.setOf, Table.read, Table.get?]
  · by_cases h : j = 3
    · subst h; decide
    · simp [h, Ne.symm h, Claims.setOf, Table.read, Table.get?]
  · by_cases h : j = 3
    · subst h; decide
    · simp [h, Claims.setOf, Table.read, Table.get?]
abbrev tBroken : Team := { team0 with sets := [(1, { set0 with broken := true })] }
theorem witness_arvwait : (Instr.arvwait ⟨0xFF, true, false, 0, 0x702, 0, 0⟩).WellFormed = true ∧ Issuing (sS gExp tSet) (uS gExp tSet) ∧
    (rd (uS gExp tSet) 0x702 0).toNat < 16 ∧ (setOf tSet 1).broken = false ∧ Issuing (sS gExp tBroken) (uS gExp tBroken) ∧
    (setOf tBroken 1).broken = true :=
  ⟨by decide, issuing _ _ _ _ rfl rfl ctx0, by decide +kernel, by decide, issuing _ _ _ _ rfl rfl ctx0, by decide⟩
abbrev credit0 : Credit := ⟨0, none, 1, 1, 3, 4, none, 0⟩
abbrev sCredit : State := { sS group0 tSet with credits := [(9, credit0)] }
theorem witness_credit : sCredit.credits.get? 9 = some credit0 ∧ credit0.endpoint = none ∧ sCredit.teams.get? credit0.team = some tSet ∧
    (setOf tSet credit0.set).initialised = true ∧ (setOf tSet credit0.set).mask.getLsbD credit0.source = true ∧
    Credited (setOf tSet 1) 3 4 { set0 with got := [(3, 8)] } := by
  refine ⟨rfl, rfl, rfl, by decide, by decide, fun j => ?_, fun j => ?_, by decide, rfl⟩
  · by_cases h : j = 3
    · subst h; decide
    · simp [h, Ne.symm h, Claims.setOf, Table.read, Table.get?]
  · by_cases h : j = 3
    · subst h; decide
    · simp [h, Claims.setOf, Table.read, Table.get?]

/-! ## Accesses at issue (R152 to R155, R435) -/

/-- ld.t.b32 v2, zero + 4 in each lane; the last word of the team's memory, and the word after it; a misaligned one. -/
abbrev fLoad (off : BitVec 18) : FormM := ⟨0xFF, false, false, 2, 0, off, 0, 0⟩
theorem legal_t {u : Issuer} {a n : Nat} (h : a + n ≤ u.l.teamMem) : LegalAt u .t a n := h
theorem witness_lane_team : (∃ d, datumOf (.ld .t .b32 (fLoad 4)) = some d ∧ (∀ x ∈ d.uses, Fits u0 0 x) ∧ Unwatched u0 (d.op u0) 0 ∧
    LegalAt u0 d.space (address u0 d.space d.form 0) d.bytes ∧ address u0 d.space d.form 0 % d.bytes = 0) ∧
    (Instr.ld .t .b32 (fLoad 4)).WellFormed = true ∧ ¬ LegalAt u0 .t (address u0 .t (fLoad 0x10000) 0) 4 ∧
    LegalAt u0 .t (address u0 .t (fLoad 0xFFFC) 0) 4 ∧ address u0 .t (fLoad 2) 0 % 4 ≠ 0 := by
  refine ⟨⟨_, rfl, fun x hx => fits_of ?_, by unfold Unwatched; decide +kernel, ?_, by decide +kernel⟩, by decide, ?_, ?_, by decide +kernel⟩
  · have : ∀ x ∈ [dataUse 2 1 true, baseUse .t 0], fitsB u0 0 x = true := by decide +kernel
    exact this x hx
  · unfold LegalAt; decide +kernel
  · unfold LegalAt; decide +kernel
  · unfold LegalAt; decide +kernel
theorem witness_lane_global : LegalAt (uP group0) .g (address (uP group0) .g (fLoad 0x40) 0) 4 ∧
    translate (sP group0) 0 0 0x1000 (address (uP group0) .g (fLoad 0x40) 0) kindRead = .ok (.phys 0x40000040 0 false) ∧
    ¬ LegalAt (uP group0) .g (address (uP group0) .g (fLoad 0x3FFFC) 0) 8 := by
  refine ⟨?_, by decide +kernel, ?_⟩ <;> (unfold LegalAt; decide +kernel)
theorem witness_lane_cluster : LegalAt u0 .c (address u0 .c (fLoad 8) 0) 4 ∧ LegalAt u0 .k (address u0 .k (fLoad 0xFFFC) 0) 4 := by
  constructor <;> (unfold LegalAt; decide +kernel)

/-- The first lanes pass, lane 0 faults. -/
theorem witness_lane_trap : ∃ d, datumOf (.ld .t .b32 (fLoad 2)) = some d ∧ mayAccess u0 (.ld .t .b32 (fLoad 2)) ∧ Issuing s0 u0 ∧
    u0.g.counter (hdrSetd u0.header) < 63 ∧ u0.c.rmode ≠ 2 ∧ (d.op u0).lanes = [] ++ 0 :: [1, 2, 3, 4, 5, 6, 7] ∧
    checkLane s0 u0 (d.op u0) 0 = .fault ⟨.mem, memAlign, 0, 2, 0, 0⟩ :=
  ⟨_, rfl, trivial, issuing0, by decide +kernel, by decide, by decide +kernel, by decide +kernel⟩

abbrev mLoad : MemOp := memOpOf u0 (.load .b32) .t (fLoad 4) 0x20C 1 4 true
theorem witness_issue : memoryOf u0 (.ld .t .b32 (fLoad 4)) = some mLoad ∧ mayAccess u0 (.ld .t .b32 (fLoad 4)) ∧ Issuing s0 u0 ∧
    Ready s0 u0 mLoad fun l => ⟨l, 4, .team 1 4, none, none, 4, 0, false, none, false, [2]⟩ := by
  refine ⟨rfl, trivial, issuing0, by decide +kernel, by decide +kernel, ?_, by decide +kernel, fun _ _ => rfl, fun h => absurd h (by decide)⟩
  have e : mLoad.lanes = [0, 1, 2, 3, 4, 5, 6, 7] := by decide +kernel
  rw [e]
  decide +kernel
theorem witness_pf : (Instr.pf ⟨0xFF, false, false, 0, 0, 0x40, 0, 0⟩).WellFormed = true ∧ Issuing (sP group0) (uP group0) ∧
    ∀ l ∈ (uP group0).enabledLanes 0xFF, Fits (uP group0) l (src64 fieldA 0) :=
  ⟨by decide, issuingP _ rfl rfl, fun l hl => fits_of (List.all_eq_true.mp (by decide +kernel :
   ((uP group0).enabledLanes 0xFF).all (fun l => fitsB (uP group0) l (src64 fieldA 0)) = true) l hl)⟩

/-! ## Accesses that perform and return (R105, R174, R266 to R270) -/

abbrev sA (a : Access) : State := { sP group0 with accesses := [(5, a)], nextId := 6 }
abbrev uA : Issuer := uP group0
theorem issuerA (a : Access) (h : a.group = 1) : issuerOf (sA a) a.group = some uA := by
  rw [h]; exact issuer_of (sA a) uA 0 rfl rfl rfl ctx0 rfl
/-- The locations of the first GiB's page, in memory, and the team's memory. -/
abbrev home0 : Target := .phys 0x40000040 0 false
abbrev own0 : Target := .team 1 0x40

theorem witness_store : FirstLane (sA (access0 .store .g home0 4 false)) 5 (access0 .store .g home0 4 false) uA (lane0 home0 4 false) [] ∧
    Placed (sA (access0 .store .g home0 4 false)) uA home0 4 ∧ NoDirty (sA (access0 .store .g home0 4 false)) :=
  ⟨⟨rfl, issuerA _ rfl, by decide +kernel, rfl, rfl, by decide, rfl, by decide +kernel, by decide +kernel⟩, ⟨.inl rfl, by decide⟩,
   noDirty_of _ core0 rfl rfl⟩
theorem witness_store_team : FirstLane (sA (access0 .store .t own0 4 false)) 5 (access0 .store .t own0 4 false) uA (lane0 own0 4 false) [] ∧
    Placed (sA (access0 .store .t own0 4 false)) uA own0 4 :=
  ⟨⟨rfl, issuerA _ rfl, by decide +kernel, rfl, rfl, by decide, rfl, by decide +kernel, by decide +kernel⟩, by unfold Placed; decide +kernel⟩
/-- A block of 32 bytes, whose scale stands at 0x80. -/
abbrev laneMx (done : Bool) : LaneAccess := { lane0 own0 32 done with scale := some (0x80, .team 1 0x80) }
abbrev accessMx (k : AccessKind) (done : Bool) : Access := { access0 k .t own0 32 done with lanes := [laneMx done] }
theorem witness_block (k : AccessKind) (h : mayPerform (sA (accessMx k false)) 5 (accessMx k false) (laneMx false) = true) :
    FirstBlock (sA (accessMx k false)) 5 (accessMx k false) uA (laneMx false) 0x80 (.team 1 0x80) [] :=
  ⟨rfl, issuerA _ rfl, by decide +kernel, rfl, rfl, fun x hx => by rw [List.mem_singleton.mp hx]; rfl, rfl, rfl, h,
   (by decide +kernel : lanePoisoned (paged s0) 0 (laneMx false) = false), by decide, nofun, nofun⟩
theorem witness_store_block : FirstBlock (sA (accessMx (.mxStore 3) false)) 5 (accessMx (.mxStore 3) false) uA (laneMx false) 0x80
    (.team 1 0x80) [] ∧ (laneMx false).target = .team 1 0x40 ∧ (sA (accessMx (.mxStore 3) false)).teams.get? 1 = some team0 ∧
    0x40 + (laneMx false).size ≤ 0x80 ∧ NoDirty (sA (accessMx (.mxStore 3) false)) :=
  ⟨witness_block _ (by decide +kernel), rfl, rfl, by decide, noDirty_of _ core0 rfl rfl⟩
theorem witness_load : FirstLane (sA (access0 (.load .b32) .g home0 4 false)) 5 (access0 (.load .b32) .g home0 4 false) uA
    (lane0 home0 4 false) [] ∧ Placed (sA (access0 (.load .b32) .g home0 4 false)) uA home0 4 ∧
    NoDirty (sA (access0 (.load .b32) .g home0 4 false)) ∧ NoFrozen (sA (access0 (.load .b32) .g home0 4 false)) :=
  ⟨⟨rfl, issuerA _ rfl, by decide +kernel, rfl, rfl, by decide, rfl, by decide +kernel, by decide +kernel⟩, ⟨.inl rfl, by decide⟩,
   noDirty_of _ core0 rfl rfl, by unfold NoFrozen; decide⟩
theorem witness_load_block : FirstBlock (sA (accessMx (.mxLoad 3 9) false)) 5 (accessMx (.mxLoad 3 9) false) uA (laneMx false) 0x80
    (.team 1 0x80) [] ∧ Placed (sA (accessMx (.mxLoad 3 9) false)) uA own0 32 ∧
    Placed (sA (accessMx (.mxLoad 3 9) false)) uA (.team 1 0x80) 1 ∧ NoFrozen (sA (accessMx (.mxLoad 3 9) false)) :=
  ⟨witness_block _ (by decide +kernel), by unfold Placed; decide +kernel, by unfold Placed; decide +kernel, by unfold NoFrozen; decide⟩
theorem witness_atomic : FirstLane (sA (access0 (.rmw .incN32 true) .g home0 4 false)) 5 (access0 (.rmw .incN32 true) .g home0 4 false) uA
    (lane0 home0 4 false) [] ∧ Placed (sA (access0 (.rmw .incN32 true) .g home0 4 false)) uA home0 4 ∧
    NoDirty (sA (access0 (.rmw .incN32 true) .g home0 4 false)) ∧ (lane0 home0 4 false).size = atomBytes .incN32 :=
  ⟨⟨rfl, issuerA _ rfl, by decide +kernel, rfl, rfl, by decide, rfl, by decide +kernel, by decide +kernel⟩, ⟨.inl rfl, by decide⟩,
   noDirty_of _ core0 rfl rfl, by decide⟩
/-- spec/10's example of atom.inc: 7 gives 8 where the bound is above it. -/
theorem witness_update : updated .incN32 7 9 = some 8 ∧ updated64 .addI64 7 9 = some 16 := by decide

/-- The access of each kind returns with the value it has read, alone and before another lane. -/
theorem witness_returning (k : AccessKind) : Returning (sA (access0 k .g home0 4 true)) 5 (access0 k .g home0 4 true) uA (lane0 home0 4 true) [] ∧
    (lane0 home0 4 true).value = some 5 :=
  ⟨⟨rfl, issuerA _ rfl, by decide +kernel, rfl, rfl, fun x hx => by rw [List.mem_singleton.mp hx]; rfl, rfl, by decide, by decide, rfl⟩, rfl⟩
abbrev accessTwo (k : AccessKind) : Access := { access0 k .g home0 4 true with lanes := [lane0 home0 4 true, lane0 home0 4 false] }
theorem witness_returning_two (k : AccessKind) : Returning (sA (accessTwo k)) 5 (accessTwo k) uA (lane0 home0 4 true)
    [lane0 home0 4 false] :=
  ⟨rfl, issuerA _ rfl, by decide +kernel, rfl, rfl, (by decide : ∀ x ∈ [lane0 home0 4 true, lane0 home0 4 false], x.toPeer = false), rfl, by decide,
   by decide, rfl⟩

end Sys2Proof.Tests
end

