-- ==== Sys2Proof/Tests/WitnessCopies.lean ====
section
/-!
SUPPORT. Witnesses for the statements about copies, batches, collectives and the arbiter.
-/

namespace Sys2Proof.Tests

set_option Elab.async false

open Sys2Proof Sys2Proof.Machine Sys2Proof.Claims

/-! ## Issue (R282 to R289) -/

/-- cpg.ld: D s2, A s4 and s5, B s6, C s7. -/
abbrev fCopy : FormV := ⟨0xFF, true, false, 0x702, 0x704, 0x706, 0x707⟩
/-- 64 bytes from 0x40 to offset 0xFFC0, the last of the team's memory, and to the offset after it. -/
abbrev gCopy (off : Word) : Group := ((group0.setS 2 off).setS 4 0x40).setS 6 64
theorem witness_copy : copyOf (sG (gCopy 0xFFC0)) (uG (gCopy 0xFFC0)) (.cpgLd fCopy) = some ([Machine.src fieldD 0x702, src64 fieldA 0x704,
      Machine.src fieldB 0x706, Machine.src fieldC 0x707], 0x2CB, PanelLegal (uG (gCopy 0xFFC0)) 0xFFC0 0x40 64 0, .globalToTeam 0xFFC0 0x40 64 0) ∧
    (Instr.cpgLd fCopy).WellFormed = true ∧ Issuing (sG (gCopy 0xFFC0)) (uG (gCopy 0xFFC0)) ∧
    ScalarsFit (uG (gCopy 0xFFC0)) [Machine.src fieldD 0x702, src64 fieldA 0x704, Machine.src fieldB 0x706, Machine.src fieldC 0x707] ∧
    PanelLegal (uG (gCopy 0xFFC0)) 0xFFC0 0x40 64 0 ∧ HasRoom (sG (gCopy 0xFFC0)) (uG (gCopy 0xFFC0)) 0 ∧
    ¬ PanelLegal (uG (gCopy 0xFFC4)) 0xFFC4 0x40 64 0 := by
  refine ⟨?_, by decide, issuingG _ rfl rfl, scalars_of (by decide +kernel), ?_, by unfold HasRoom; decide +kernel, ?_⟩
  · have h : (rd (uG (gCopy 0xFFC0)) 0x702 0).toNat = 0xFFC0 ∧ (rd64 (uG (gCopy 0xFFC0)) 0x704 0).toNat = 0x40 ∧
      (rd (uG (gCopy 0xFFC0)) 0x706 0).toNat = 64 ∧ (rd (uG (gCopy 0xFFC0)) 0x707 0).toNat = 0 := by decide +kernel
    simp only [copyOf, h.1, h.2.1, h.2.2.1, h.2.2.2]
  · unfold PanelLegal; decide +kernel
  · unfold PanelLegal; decide +kernel
/-- A queue with 64 entries. -/
abbrev coreFull : Core := { core0 with queues := [(queueKey 0 0, ⟨List.range 64, 0⟩), (queueKey 1 0, ⟨List.range 64, 0⟩)] }
abbrev sFull (g : Group) : State := { sG g with cores := [(0, coreFull)] }
theorem issuingFull (g : Group) (ht : g.team = 1) (hl : g.launch = 1) : Issuing (sFull g) (uG g) :=
  ⟨rfl, issuer_of _ (uG g) 0 rfl (by simp [user, ht, world, Table.get?]) (by simp [user, hl, world, Table.get?]) ctx0 rfl⟩
theorem witness_no_room : Issuing (sFull (gCopy 0xFFC0)) (uG (gCopy 0xFFC0)) ∧ ¬ HasRoom (sFull (gCopy 0xFFC0)) (uG (gCopy 0xFFC0)) 0 :=
  ⟨issuingFull _ rfl rfl, by unfold HasRoom; decide +kernel⟩
/-- fput to device 1: D s2, A s4, B s6, C s8 and s9; fputr adds binary floats in a DET launch. -/
abbrev fPut : FormV := ⟨0xFF, true, false, 0x702, 0x704, 0x706, 0x708⟩
abbrev gPut : Group := ((group0.setS 4 0x40).setS 6 64).setS 8 1
theorem witness_put : ControlLegal (rd64 (uG gPut) 0x708 0) ∧ ctlRop (rd64 (uG gPut) 0x708 0) = 0 ∧
    FabricLegal (sG gPut) (rd64 (uG gPut) 0x708 0) (rd64 (uG gPut) 0x702 0).toNat (rd64 (uG gPut) 0x704 0).toNat
      (rd (uG gPut) 0x706 0).toNat 4 ∧ (Instr.fput fPut).WellFormed = true ∧
    ScalarsFit (uG gPut) [src64 fieldD 0x702, src64 fieldA 0x704, Machine.src fieldB 0x706, src64 fieldC 0x708] := by
  refine ⟨?_, by decide +kernel, ?_, by decide, scalars_of (by decide +kernel)⟩
  · unfold ControlLegal; decide +kernel
  · unfold FabricLegal; decide +kernel
abbrev launchDet : Launch := { launch0 with desc := fetchDescriptor ||| BitVec.ofNat 512 (2 ^ 160) }
abbrev gPutr : Group := gPut.setS 8 0x3000001
theorem witness_det_refuses : detRefuses (user gPutr team0 launchDet context0) (.fputr fPut) ∧
    Issuing (world gPutr team0 launchDet context0) (user gPutr team0 launchDet context0) ∧
    ctlRop (rd64 (user gPutr team0 launchDet context0) 0x708 0) < 8 :=
  ⟨⟨by decide +kernel, by decide +kernel⟩, issuing _ _ _ _ rfl rfl (by decide +kernel), by decide +kernel⟩

theorem witness_cpclose : (Instr.cpclose ⟨0xFF, true, false, 0x702, 0, 0, 0⟩).WellFormed = true ∧ Issuing s0 u0 ∧
    ScalarsFit u0 [dst 0x702] ∧ Closes s0 u0.g.copyOpen ⟨[], none, 0, true⟩ ∧ openBatches u0.g.copyBatches < 64 :=
  ⟨by decide, issuing0, scalars_of (by decide +kernel), ⟨rfl, rfl, by decide +kernel⟩, by decide⟩
/-- 64 batches that wait, and an open one with an entry. -/
abbrev gBatches : Group :=
  { group0 with copyOpen := [(5, 0)], copyLast := 64, copyBatches := tableFrom ⟨[5], some 0, 0, false⟩ 1 64 }
abbrev entry0 (k : EntryKind) (performed : Bool) : Entry :=
  ⟨1, 1, 0, 0, 0, 0x8000, k, 0, (0, 0, 0), none, 0, true, 0, none, none, [], performed, 0, 0x10000, 0, 0x2CD, none⟩
abbrev eCluster : Entry := entry0 (.cluster 1 0x100 1 0x40 16 none) false
abbrev sE (g : Group) (e : Entry) : State := { sP g with entries := [(5, e)], nextId := 6 }
theorem issuerE (g : Group) (e : Entry) (ht : g.team = 1) (hl : g.launch = 1) : issuerOf (sE g e) 1 = some (uP g) :=
  issuer_of (sE g e) (uP g) 0 rfl (by simp [uP, user, ht, world, Table.get?]) (by simp [uP, user, hl, world, Table.get?]) ctx0 rfl
theorem witness_cpclose_waits : Issuing (sE gBatches eCluster) (uP gBatches) ∧ ScalarsFit (uP gBatches) [dst 0x702] ∧
    Closes (sE gBatches eCluster) (uP gBatches).g.copyOpen ⟨[5], none, 0, false⟩ ∧ 64 ≤ openBatches (uP gBatches).g.copyBatches :=
  ⟨⟨rfl, issuerE _ _ rfl rfl⟩, scalars_of (by decide +kernel), ⟨rfl, rfl, by decide +kernel⟩, by decide +kernel⟩
theorem witness_cpwait : (Instr.cpwait ⟨0xFF, true, false, 0, 0x702, 0, 0⟩).WellFormed = true ∧
    ScalarsFit u0 [Machine.src fieldA 0x702] ∧ Reached (rd u0 0x702 0) u0.g.copyLast ∧
    ¬ Reached (rd (uG (gBox 1)) 0x702 0) (uG (gBox 1)).g.copyLast ∧ (Instr.cpwaitImm ⟨0xFF, true, false, 0, 0, 1⟩).WellFormed = true := by
  refine ⟨by decide, scalars_of (by decide +kernel), ?_, ?_, by decide⟩ <;> (unfold Reached; decide +kernel)

/-! ## Moving bytes (R178, R282, R288) -/

theorem quietE (e : Entry) : Quiet (sE group0 e) := 
  ⟨fun p hp => by rw [List.mem_singleton.mp hp]; exact ⟨by decide, rfl, fun h => absurd h (by decide)⟩, rfl,
   fun _ hp => (List.not_mem_nil hp).elim⟩
theorem inTeam0 (e : Entry) (off n : Nat) (h : off + n ≤ 65536) : InTeam (sE group0 e) 1 off n :=
  ⟨team0, launch0, rfl, rfl, by rw [show launch0.teamMem = 65536 by decide +kernel]; exact h, rfl⟩
theorem witness_cluster_copy : EntryRuns (sE group0 eCluster) 5 eCluster (uP group0) ∧ eCluster.engine < 2 ∧
    eCluster.kind = .cluster 1 0x100 1 0x40 16 none ∧ (uP group0).c.rmode = 0 ∧ Quiet (sE group0 eCluster) ∧
    InTeam (sE group0 eCluster) 1 0x40 16 ∧ InTeam (sE group0 eCluster) 1 0x100 16 ∧ 0x40 + 16 ≤ 0x100 :=
  ⟨⟨rfl, issuerE _ _ rfl rfl, rfl, rfl, by decide +kernel, rfl, by decide, rfl, rfl⟩, by decide, rfl, rfl, quietE _,
   inTeam0 _ _ _ (by decide), inTeam0 _ _ _ (by decide), by decide⟩
abbrev eLoad : Entry := entry0 (.globalToTeam 0xFFC0 0x40 64 0) false
abbrev eStore : Entry := entry0 (.teamToGlobal 0xFFC0 0x40 64 0) false
theorem witness_global_copy : EntryRuns (sE group0 eLoad) 5 eLoad (uP group0) ∧ Quiet (sE group0 eLoad) ∧ NoDirty (sE group0 eLoad) ∧
    InTeam (sE group0 eLoad) 1 0xFFC0 64 ∧ walkVa (sE group0 eLoad) 0x1000 0x40 = .leaf 2 0x4000060F 0x3000 ∧ pteA 0x4000060F = true ∧
    walkXlate (sE group0 eLoad) 0x1000 0x40 kindEngineRead = .ok (.phys 0x40000040 0 false) ∧
    poisoned (sE group0 eLoad).memPoison 0x40000040 64 = false :=
  ⟨⟨rfl, issuerE _ _ rfl rfl, rfl, rfl, by decide +kernel, rfl, by decide, rfl, rfl⟩, quietE _, noDirty_of _ core0 rfl rfl,
   inTeam0 _ _ _ (by decide), by decide +kernel, by decide, by decide +kernel, by decide⟩
theorem witness_global_store : EntryRuns (sE group0 eStore) 5 eStore (uP group0) ∧ Quiet (sE group0 eStore) ∧
    InTeam (sE group0 eStore) 1 0xFFC0 64 ∧ pteDirty 0x4000060F = true ∧ (sE group0 eStore).teams.get? 1 = some team0 ∧
    walkXlate (sE group0 eStore) 0x1000 0x40 kindEngineWrite = .ok (.phys 0x40000040 0 false) :=
  ⟨⟨rfl, issuerE _ _ rfl rfl, rfl, rfl, by decide +kernel, rfl, by decide, rfl, rfl⟩, quietE _, inTeam0 _ _ _ (by decide), by decide, rfl,
   by decide +kernel⟩
/-- An entry that has performed: its batch, of it alone, is complete when it is gone. -/
abbrev gBatch : Group := { group0 with copyLast := 1, copyBatches := [(1, ⟨[5], some 0, 0, false⟩)] }
abbrev eDone : Entry := entry0 (.cluster 1 0x100 1 0x40 16 none) true
theorem witness_entry_over : (sE gBatch eDone).entries.get? 5 = some eDone ∧ issuerOf (sE gBatch eDone) eDone.group = some (uP gBatch) ∧
    eDone.started = true ∧ eDone.stalled = none ∧ entryFree (sE gBatch eDone) 5 eDone = true ∧ eDone.performed = true ∧
    (sE gBatch eDone).credits.get? 5 = none ∧ unsent (sE gBatch eDone) 5 = false ∧ eDone.engine < 2 ∧ (∀ a b c d f g h i j k, eDone.kind ≠ .collective a b c d f g h i j k) ∧
    gBatch.copyBatches.get? 1 = some ⟨[5], some 0, 0, false⟩ :=
  ⟨rfl, issuerE _ _ rfl rfl, rfl, rfl, by decide +kernel, rfl, rfl, by decide +kernel, by decide, nofun, rfl⟩

/-! ## The arbiter and the watchdog (R349, R350) -/

abbrev coreQueue : Core := { core0 with queues := [(queueKey 0 0, ⟨[5], 0⟩)] }
abbrev eWaits : Entry := { eCluster with started := false }
abbrev sQueue : State := { sE group0 eWaits with cores := [(0, coreQueue)] }
theorem witness_starts : sQueue.cores.get? 0 = some coreQueue ∧ Visits coreQueue 0 0 ∧ sQueue.tenants.get? 0 = some Tenant.reset ∧
    queueOf coreQueue 0 0 = ⟨[5], 0⟩ ∧ (∀ n ∈ [5], ∃ e, sQueue.entries.get? n = some e ∧ 0 < entryBytes e) ∧
    Starts sQueue [5] (0 + 4096 * Tenant.reset.weight) 1 := by
  refine ⟨rfl, ⟨by decide, by decide, fun t ht => absurd ht (by omega)⟩, rfl, rfl, fun n hn => ?_, by decide, fun j hj => ?_, nofun⟩
  · rw [List.mem_singleton.mp hn]; exact ⟨eWaits, rfl, by decide⟩
  · rw [show j = 0 by omega]; decide +kernel
/-- The credit ends after the first of two entries: one entry of 4096 bytes. -/
abbrev eBig : Entry := { eWaits with kind := .cluster 1 0 1 0x4000 4096 none }
abbrev sTwo : State := { sQueue with entries := [(5, eBig), (6, eBig)], cores := [(0, { core0 with queues := [(queueKey 0 0, ⟨[5, 6], 0⟩)] })] }
theorem witness_starts_one : Starts sTwo [5, 6] (0 + 4096 * Tenant.reset.weight) 1 := by
  refine ⟨by decide, fun j hj => ?_, fun _ => by decide +kernel⟩
  rw [show j = 0 by omega]; decide +kernel
/-- A slice of 250 microseconds: 1,000,000 ticks are four. -/
abbrev sLate : State := { sE group0 eCluster with ticks := 1000000 }
theorem witness_watchdog : sLate.entries.get? 5 = some eCluster ∧ issuerOf sLate eCluster.group = some (uP group0) ∧
    (uP group0).calm = false ∧ sLate.tenants.get? 0 = some Tenant.reset ∧
    eCluster.startTick + 4 * Tenant.reset.slice * 1000 ≤ sLate.ticks.toNat :=
  ⟨rfl, issuer_of sLate (uP group0) 0 rfl rfl rfl ctx0 rfl, by decide, rfl, by decide +kernel⟩

/-- A delivery of a peer to context 0 that has waited for its page from tick 0. -/
abbrev wDelivery : Walk := ⟨0, 0, 0x50000, kindEngineWrite, none, none, ownAgent 0 96, some 0⟩
abbrev sDelivery : State := { sLate with entries := [], walks := [(4, wDelivery)] }
theorem witness_watchdog_delivery : sDelivery.entries.get? 4 = none ∧ sDelivery.joints.get? 4 = none ∧
    sDelivery.walks.get? 4 = some wDelivery ∧ wDelivery.began = some 0 ∧ sDelivery.contexts.get? wDelivery.ctx = some cPaged ∧
    cPaged.stage ≠ .demoted ∧ sDelivery.tenants.get? cPaged.tenant = some Tenant.reset ∧
    0 + 4 * Tenant.reset.slice * 1000 ≤ sDelivery.ticks.toNat :=
  ⟨rfl, rfl, rfl, rfl, rfl, by decide, rfl, by decide +kernel⟩

/-! ## Collectives (R290) -/

/-- A communicator of two ranks, and the descriptor of an all-reduce of one i32 at offset 0. -/
abbrev comm0 : Communicator := ⟨[(1, 0), (0, 0)], []⟩
abbrev cComm : Context := { cPaged with comms := [(0, comm0)] }
abbrev tColl : Team := { team0 with mem := [(12, 1)] }
abbrev sComm (g : Group) (t : Team) (c : Context) : State := paged (world g t launch0 c)
abbrev fColl : FormV := ⟨0xFF, true, false, 0, 0x702, 0, 0⟩
theorem issuingComm (g : Group) (t : Team) (c : Context) (ht : g.team = 1) (hl : g.launch = 1) :
    Issuing (sComm g t c) (user g t launch0 c) :=
  ⟨rfl, issuer_of _ (user g t launch0 c) 0 rfl (by simp [user, ht, world, Table.get?]) (by simp [user, hl, world, Table.get?]) ctx0 rfl⟩
theorem word0 : teamWord tColl 0 0 = 0 ∧ teamWord tColl 0 1 = 0 ∧ teamWord tColl 0 2 = 0 ∧ teamWord tColl 0 3 = 1 ∧
    teamWord tColl 0 4 = 0 ∧ teamWord tColl 0 5 = 0 ∧ teamWord tColl 0 6 = 0 ∧ teamWord tColl 0 7 = 0 := by decide
theorem witness_coll : (Instr.coll fColl).WellFormed = true ∧ Issuing (sComm group0 tColl cComm) (user group0 tColl launch0 cComm) ∧
    ScalarsFit (user group0 tColl launch0 cComm) [Machine.src fieldA 0x702] ∧ (rd (user group0 tColl launch0 cComm) 0x702 0).toNat = 0 ∧
    HasRoom (sComm group0 tColl cComm) (user group0 tColl launch0 cComm) 1 ∧ poisoned tColl.memPoison 0 32 = false ∧
    cComm.comms.get? (descComm (teamWord tColl 0)) = some comm0 ∧ RankIs (sComm group0 tColl cComm) comm0 0 1 ∧
    DescriptorLegal (teamWord tColl 0) 2 ∧ stagedOf (sComm group0 tColl cComm) 0 0 (comm0.issued.read 1 0) = none ∧
    (sComm group0 tColl cComm).accesses = [] ∧ (sComm group0 tColl cComm).entries = [] := by
  refine ⟨by decide, issuingComm _ _ _ rfl rfl, scalars_of (by decide +kernel), by decide +kernel, by unfold HasRoom; decide +kernel,
    rfl, by decide, ⟨rfl, fun r hr => ?_⟩, by unfold DescriptorLegal; decide, rfl, rfl, rfl⟩
  rw [show r = 0 by omega]; decide
/-- A misplaced descriptor; a full queue; no communicator; none of this team; a bad descriptor. -/
theorem witness_coll_refused : (rd (uG (gBox 16)) 0x702 0).toNat % 32 ≠ 0 ∧ ¬ HasRoom (sFull group0) u0 1 ∧
    cPaged.comms.get? (descComm (teamWord tColl 0)) = none ∧ (∀ rank, ¬ RankIs s0 ⟨[(1, 0), (1, 1)], []⟩ 0 rank) ∧
    ¬ DescriptorLegal (teamWord team0 0) 2 := by
  refine ⟨by decide +kernel, by unfold HasRoom; decide +kernel, rfl, fun rank h => ?_, by unfold DescriptorLegal; decide⟩
  have : ∀ r : Nat, (⟨[(1, 0), (1, 1)], []⟩ : Communicator).ranks[r]? ≠ some (0, 0) := by
    intro r
    match r with
    | 0 => decide
    | 1 => decide
    | n + 2 => simp
  exact this rank h.1

end Sys2Proof.Tests
end

