-- ==== Sys2Proof/Tests/WitnessMatrix.lean ====
section
/-!
SUPPORT. Witnesses for the statements about the matrix unit, the accumulator store and Horizon.
-/

namespace Sys2Proof.Tests

set_option Elab.async false

open Sys2Proof Sys2Proof.Machine Sys2Proof.Claims

/-! ## A team of two groups of 32 lanes -/

abbrev launchWide : Launch := { launch0 with desc := BitVec.ofNat 512 (fetchDescriptor.toNat + 2 * 2 ^ 84 + 2 ^ 87) }
/-- Group 0 and group 1, FMT of 8-bit integers, the gang of both, and map 0 over a column of 32 bytes. -/
abbrev groupWide (n : Nat) : Group :=
  { newGroup launchWide 1 1 n (BitVec.ofNat 16 n) n 0 0 with
    header := some 0, entered := true, fmt := 0x88, gang := [0, 1], maps := [(0, ⟨0x40, 32, 0, 0⟩)] }
abbrev teamWide : Team := newTeam 1 0 0 [1, 2]
/-- The state with both groups, where group 0 issues, and joint operations. -/
abbrev wide (a b : Group) (t : Team) (js : Table JointOp) : State :=
  { State.reset with contexts := [(0, context0)], launches := [(1, launchWide)], teams := [(1, t)], groups := [(1, a), (2, b)],
                     cur := some 1, nextId := 4, joints := js }
abbrev uW (a : Group) (t : Team) : Issuer := ⟨1, a, t, launchWide, context0⟩
theorem ctxWide : launchWide.ctx = 0 := by decide +kernel
theorem issuingW (a b : Group) (t : Team) (js : Table JointOp) (ht : a.team = 1) (hl : a.launch = 1) :
    Issuing (wide a b t js) (uW a t) :=
  ⟨rfl, issuer_of _ (uW a t) 0 rfl (by simp [ht, Table.get?]) (by simp [hl, Table.get?]) ctxWide rfl⟩

/-! ## Gangs, maps and handles (R294 to R296) -/

theorem witness_gangset : (Instr.gangset ⟨0xFF, true, false, 0, 0, 0x80008⟩).WellFormed = true ∧
    GangListed (uW (groupWide 0) teamWide) 0x80008 [0, 1] ∧ GangListed (uW (groupWide 0) teamWide) 0 [] ∧
    ∀ gang, ¬ GangListed (uW (groupWide 0) teamWide) 0x40000 gang := by
  refine ⟨by decide, ⟨by decide, by decide, by decide, by decide, by decide, fun _ => by decide +kernel⟩,
    ⟨by decide, by decide, by decide, by decide, by decide, fun h => absurd rfl h⟩, fun _ h => absurd h.2.2.1 (by decide)⟩
/-- omap with C = 0, and with a reserved bit. -/
abbrev fMap : FormV := ⟨0xFF, true, false, 3, 0x702, 0x704, 0x706⟩
theorem witness_omap : (Instr.omap fMap).WellFormed = true ∧ Issuing s0 u0 ∧
    ScalarsFit u0 [Machine.src fieldA 0x702, Machine.src fieldB 0x704, Machine.src fieldC 0x706] ∧
    (rd u0 0x706 0).extractLsb' 21 9 = 0 ∧ (rd (uG (group0.setS 6 0x200000)) 0x706 0).extractLsb' 21 9 ≠ 0 :=
  ⟨by decide, issuing0, scalars_of (by decide +kernel), by decide +kernel, by decide +kernel⟩
/-- A descriptor of 1 column of 16 bytes of FP4 at offset 0: words 4 and 5. -/
abbrev tHandle : Team := { team0 with mem := [(16, 16), (20, 1), (22, 7)] }
theorem witness_thset : (Instr.thset ⟨0xFF, true, false, 3, 0x702, 0, 0⟩).WellFormed = true ∧ Issuing (sS group0 tHandle) (uS group0 tHandle) ∧
    ScalarsFit (uS group0 tHandle) [Machine.src fieldA 0x702] ∧ (rd (uS group0 tHandle) 0x702 0).toNat = 0 ∧
    (∀ p ∈ (sS group0 tHandle).accesses, p.2.group ≠ 1 ∧ p.2.checked = false) ∧ poisoned tHandle.memPoison 0 32 = false ∧ HandleLegal (teamWord tHandle 0) ∧
    ¬ HandleLegal (teamWord team0 0) ∧ (rd (uG (gBox 16)) 0x702 0).toNat % 32 ≠ 0 := by
  refine ⟨by decide, issuing _ _ _ _ rfl rfl ctx0, scalars_of (by decide +kernel), by decide +kernel,
    fun _ hp => (List.not_mem_nil hp).elim, by decide, ?_, ?_, by decide +kernel⟩
  · unfold HandleLegal; decide
  · unfold HandleLegal; decide
/-- A group with nothing in flight, and one that waits for a vector register, or for a scalar one. -/
theorem witness_opfence : (Instr.opfence ⟨0xFF, true, false, 0, 0, 0, 0⟩).WellFormed = true ∧ Issuing s0 u0 ∧ u0.g.vPending = [] ∧
    u0.g.sPending = [] ∧ Issuing (sG { group0 with vPending := [(5, true)] }) (uG { group0 with vPending := [(5, true)] }) ∧
    (uG { group0 with vPending := [(5, true)] }).g.vPending ≠ [] ∧ Issuing (sG { group0 with sPending := [(5, true)] }) (uG { group0 with sPending := [(5, true)] }) ∧
    (uG { group0 with sPending := [(5, true)] }).g.sPending ≠ [] :=
  ⟨by decide, issuing0, rfl, rfl, issuingG _ rfl rfl, nofun, issuingG _ rfl rfl, nofun⟩

/-! ## Rendezvous (R298 to R304) -/

/-- mma of one tile, GSEL the place in the gang. -/
abbrev fMma (gsel : BitVec 3) : FormT := ⟨0xFF, false, false, 0, 0, 0, gsel, 0, 0⟩
abbrev mMma (gsel : BitVec 3) : MatrixForm := ⟨0x304, false, fMma gsel⟩
theorem legalMma : MatrixLegal (uW (groupWide 0) teamWide) (mMma 0) := by
  refine ⟨by decide +kernel, nofun, ?_, by decide +kernel, by decide +kernel, by decide +kernel, fun k _ => ⟨rfl, nofun⟩, nofun, fun _ => ?_⟩
  · unfold OperandLegal
    rw [if_pos (by decide)]
    refine ⟨⟨0x40, 32, 0, 0⟩, rfl, by decide +kernel, nofun, fun _ => by decide +kernel, ?_, ?_⟩
    · intro j o hj ho
      have hj : j < 32 := hj
      have ho : o < 32 := ho
      rw [show (uW (groupWide 0) teamWide).l.teamMem = 65536 by decide +kernel]
      simp only [columnByte, Nat.pow_zero, Nat.mod_one, Nat.mul_zero, Nat.xor_zero]
      omega
    · exact fun h => absurd h (by decide +kernel)
  · refine ⟨fun k hk => ⟨?_, fun _ _ => rfl⟩, nofun⟩
    have : (mMma 0).regCount (uW (groupWide 0) teamWide) = 8 := by decide +kernel
    rw [this] at hk
    rw [show (uW (groupWide 0) teamWide).l.regs = 1536 by decide +kernel, show (mMma 0).ab = 0 by decide]
    omega
theorem witness_mma_held : matrixForm (.mma (fMma 0)) = some (mMma 0) ∧ (Instr.mma (fMma 0)).WellFormed = true ∧
    Issuing (wide (groupWide 0) (groupWide 1) teamWide []) (uW (groupWide 0) teamWide) ∧ MatrixLegal (uW (groupWide 0) teamWide) (mMma 0) ∧
    (∃ k ∈ (uW (groupWide 0) teamWide).g.gang, k ≠ (uW (groupWide 0) teamWide).g.g) :=
  ⟨rfl, by decide, issuingW _ _ _ _ rfl rfl, legalMma, 1, by decide, by decide⟩
/-- Group 1 is held with operation 3. -/
abbrev zeros : Fragment := ⟨List.replicate 32 (List.replicate 32 0), List.replicate 32 127, 0, 0x88, none⟩
abbrev member1 : Member := ⟨2, 0x304, 0x304 * 2048 * 2048 * 64, 0x88, [0, 1], 1, 0, 0, (0, 0, 0), 0x10000, 0, false, zeros⟩
abbrev held1 : JointOp := ⟨1, 0, 0, 32, 0x88, [member1], false, some ⟨0x40, 32, 0, 0⟩, none, none, [], 0⟩
abbrev group1 : Group := { groupWide 1 with status := .heldRendezvous 3, mmOpen := [(3, 0)], rc := 1, ic := 1, gangOps := 1 }
abbrev sHeld : State := wide (groupWide 0) group1 teamWide [(3, held1)]
abbrev v1 : Issuer := ⟨2, group1, teamWide, launchWide, context0⟩
theorem held_only {a : Nat} {mb : Member} {v : Issuer} (h : HeldBy sHeld 1 a mb v) : a = 3 ∧ mb = member1 ∧ v = v1 := by
  obtain ⟨j, hj, -, -, hm, hi, -⟩ := h
  simp only [List.mem_singleton, Prod.mk.injEq] at hj
  obtain ⟨rfl, rfl⟩ := hj
  have e : member1 = mb := (List.cons.inj hm).1
  subst e
  have hv : issuerOf sHeld 2 = some v1 := issuer_of sHeld v1 0 rfl rfl rfl ctxWide rfl
  exact ⟨rfl, rfl, Option.some.inj (hi.symm.trans hv)⟩
theorem witness_mma_last : Issuing sHeld (uW (groupWide 0) teamWide) ∧ LastOf sHeld (uW (groupWide 0) teamWide) fun _ => (3, member1, v1) := by
  refine ⟨issuingW _ _ _ _ rfl rfl, ⟨by decide +kernel, by decide, fun a b mb mc v w ha hb _ => ?_, fun a mb v ha => ?_⟩, by decide, fun k g hk hg => ?_⟩
  · rw [(held_only ha).1, (held_only hb).1]
  · obtain ⟨-, -, rfl⟩ := held_only ha
    exact ⟨by decide, by decide⟩
  · refine ⟨⟨held1, by simp, rfl, rfl, rfl, issuer_of sHeld v1 0 rfl rfl rfl ctxWide rfl, rfl⟩, ?_⟩
    match k with
    | 0 => exact absurd (Option.some.inj hk).symm hg
    | 1 => exact ⟨Option.some.inj hk, rfl⟩
    | n + 2 => simp at hk
/-- FMT 0x400 has no product. -/
theorem witness_mma_fmt : dotKind (uG { group0 with fmt := 0x400 }).g.fmt = none ∧
    Issuing (sG { group0 with fmt := 0x400 }) (uG { group0 with fmt := 0x400 }) := ⟨by decide, issuingG _ rfl rfl⟩

/-! ## The matrix engine (R303, R305) -/

abbrev ready1 : JointOp := { held1 with ready := true, members := [{ member1 with group := 1, gsel := 0 }, member1] }
abbrev sReady : State := wide (groupWide 0) (groupWide 1) teamWide [(3, ready1)]
theorem witness_engine : JointRuns sReady 3 ready1 { member1 with group := 1, gsel := 0 } (uW (groupWide 0) teamWide) ∧
    ready1.team = (uW (groupWide 0) teamWide).g.team ∧ sReady.teams.get? 1 = some teamWide ∧ sReady.launches.get? teamWide.launch = some launchWide ∧
    dotKind ready1.fmt = some .integer ∧ ready1.map = some ⟨0x40, 32, 0, 0⟩ ∧ ready1.n % 32 = 0 ∧ 0 < ready1.n ∧
    (∀ b ∈ ready1.members, b.fragment.rows.length = 32 ∧ b.fragment.scales.length = 32) ∧ (ready1.members.map (·.group)).Nodup := by
  refine ⟨⟨rfl, rfl, issuer_of sReady (uW (groupWide 0) teamWide) 0 rfl rfl rfl ctxWide rfl, rfl, rfl, by decide, by decide +kernel, by decide +kernel, rfl,
    fun _ hp => (List.not_mem_nil hp).elim⟩, rfl, rfl, rfl, by decide, rfl, by decide, by decide, by decide, by decide⟩
theorem witness_engine_operand : ∀ c o, c < 32 → o < 32 → columnByte ⟨0x40, 32, 0, 0⟩ c o < launchWide.teamMem ∧
    poisoned teamWide.memPoison (columnByte ⟨0x40, 32, 0, 0⟩ c o) 1 = false := by
  intro c o hc ho
  rw [show launchWide.teamMem = 65536 by decide +kernel]
  simp only [columnByte, Nat.pow_zero, Nat.mod_one, Nat.mul_zero, Nat.xor_zero]
  exact ⟨by omega, rfl⟩
/-- An operation that has waited for a page of its tile handle from tick 0. -/
abbrev stalled1 : JointOp := { ready1 with stalled := some 4 }
abbrev wHandle : Walk := ⟨0, 0, 0x50000, kindEngineRead, none, none, 0, none⟩
abbrev sStalled : State := { wide (groupWide 0) (groupWide 1) teamWide [(3, stalled1)] with walks := [(4, wHandle)], ticks := 1000000 }
theorem witness_watchdog_joint : sStalled.entries.get? 3 = none ∧ sStalled.joints.get? 3 = some stalled1 ∧
    stalled1.members.head? = some { member1 with group := 1, gsel := 0 } ∧ issuerOf sStalled 1 = some (uW (groupWide 0) teamWide) ∧
    (uW (groupWide 0) teamWide).calm = false ∧ stalled1.stalled = some 4 ∧ sStalled.walks.get? 4 = some wHandle ∧
    sStalled.tenants.get? 0 = some Tenant.reset ∧ stalled1.startTick + 4 * Tenant.reset.slice * 1000 ≤ sStalled.ticks.toNat :=
  ⟨rfl, rfl, rfl, issuer_of sStalled (uW (groupWide 0) teamWide) 0 rfl rfl rfl ctxWide rfl, by decide, rfl, rfl, rfl, by decide +kernel⟩
theorem witness_mmclose : (Instr.mmclose ⟨0xFF, true, false, 0x702, 0, 0, 0⟩).WellFormed = true ∧ ScalarsFit u0 [dst 0x702] ∧
    openBatches u0.g.mmBatches < 64 ∧ (Instr.mmwait ⟨0xFF, true, false, 0, 0x702, 0, 0⟩).WellFormed = true ∧
    Reached (rd u0 0x702 0) u0.g.mmLast ∧ ¬ Reached (rd (uG (gBox 1)) 0x702 0) (uG (gBox 1)).g.mmLast ∧
    (Instr.mmwaitImm ⟨0xFF, true, false, 0, 0, 0⟩).WellFormed = true := by
  refine ⟨by decide, scalars_of (by decide +kernel), by decide, by decide, ?_, ?_, by decide⟩ <;> (unfold Reached; decide +kernel)
/-- 64 batches that wait, and an open one. -/
abbrev gMmBatches : Group := { group0 with mmOpen := [(3, 0)], mmBatches := tableFrom ⟨[3], none, 0, false⟩ 1 64 }
theorem witness_mmclose_waits : Issuing { sG gMmBatches with joints := [(3, held1)] } (uG gMmBatches) ∧
    64 ≤ openBatches (uG gMmBatches).g.mmBatches ∧ ¬ ∀ p ∈ gMmBatches.mmOpen, (Table.get? [(3, held1)] p.1) = none :=
  ⟨⟨rfl, issuer_of _ (uG gMmBatches) 0 rfl rfl rfl ctx0 rfl⟩, by decide +kernel, fun h => absurd (h (3, 0) (by simp)) (by decide +kernel)⟩

/-! ## The accumulator store (R306 to R309) -/

abbrev fTile (acc ab bs : BitVec 11) (shape : BitVec 6) : FormT := ⟨0xFF, false, false, acc, ab, bs, 0, 0, shape⟩
/-- A team whose tile 0 has a writer that is not complete. -/
abbrev tWritten : Team := { team0 with writers := [(0, ⟨3, [1], false, []⟩)] }
theorem free0 (k : Nat) : TileFree u0 k := nofun
theorem taken0 : ¬ TileFree (uS group0 tWritten) 0 := fun h => absurd (h _ rfl).1 (by decide)
theorem clean0 (t n : Nat) : CleanTiles team0 t n := fun _ _ _ => rfl
/-- The last two tiles of 64; a range that runs beyond them. -/
theorem witness_acczero : (Instr.acczero (fTile 62 0 0 1)).WellFormed = true ∧ Issuing s0 u0 ∧ (62 + 2 ≤ u0.l.acc) ∧
    (∀ k, k < 2 → TileFree u0 (62 + k)) ∧ u0.l.acc < 63 + 2 ∧ Issuing (sS group0 tWritten) (uS group0 tWritten) ∧
    ¬ ∀ k, k < 1 → TileFree (uS group0 tWritten) (0 + k) :=
  ⟨by decide, issuing0, by decide +kernel, fun _ _ => free0 _, by decide +kernel, issuing _ _ _ _ rfl rfl ctx0,
   fun h => taken0 (h 0 (by decide))⟩
theorem witness_accadd : (Instr.accadd (fTile 0 0 2 1)).WellFormed = true ∧ (0 + 2 ≤ u0.l.acc ∧ 2 + 2 ≤ u0.l.acc) ∧
    (∀ k, k < 2 → TileFree u0 (0 + k) ∧ TileFree u0 (2 + k)) ∧ u0.t.tilePoison = [] ∧ ¬ (0 + 2 ≤ u0.l.acc ∧ 63 + 2 ≤ u0.l.acc) ∧
    (Instr.accadd (fTile 0 0 1 1)).WellFormed = true ∧ ¬ (0 = 1 ∨ 1 + 2 ≤ 0 ∨ 0 + 2 ≤ 1) :=
  ⟨by decide, by decide +kernel, fun _ _ => ⟨free0 _, free0 _⟩, rfl, by decide +kernel, by decide, by decide⟩
theorem witness_accld : (Instr.accld (fTile 63 0 0 0)).WellFormed = true ∧ u0.l.width ≤ 128 ∧ u0.g.counter (hdrSetd u0.header) < 63 ∧
    (63 < u0.l.acc) ∧ CleanTiles u0.t 63 1 ∧
    (∀ l ∈ u0.enabledLanes 0xFF, Fits u0 l ⟨fieldA, 0, 1024 / u0.l.width, 1, true⟩) ∧ u0.l.acc ≤ 64 :=
  ⟨by decide, by decide +kernel, by decide +kernel, by decide +kernel, clean0 _ _,
   fun l hl => fits_of (List.all_eq_true.mp (by decide +kernel :
     (u0.enabledLanes 0xFF).all (fun l => fitsB u0 l ⟨fieldA, 0, 1024 / u0.l.width, 1, true⟩) = true) l hl), by decide +kernel⟩
abbrev loaded0 : Deferred := ⟨1, .accld [0], [], 0, 0, none⟩
theorem witness_accld_ends : InFlight { s0 with deferred := [(5, loaded0)] } 5 (.accld [0]) loaded0 u0 :=
  ⟨rfl, rfl, issuer_of _ u0 0 rfl rfl rfl ctx0 rfl, nofun⟩
/-- accst to team space: D tile 0, A zero, the stride s0 of 128 bytes. -/
abbrev gStore (stride : Word) : Group := group0.setS 8 stride
abbrev fAccst : FormM := ⟨0xFF, true, false, 0, 0x702, 0x2000, 0, 0⟩
theorem witness_accst : (Instr.accst .t fAccst).WellFormed = true ∧ (fAccst.off.extractLsb' 10 8).toNat = 8 ∧
    ScalarsFit (uG (gStore 128)) [baseUse .t 0x702, Machine.src fieldOff 0x708] ∧ fmtOUTF (uG (gStore 128)).g.fmt ∈ outCodes ∧
    TileStoreLegal (uG (gStore 128)) 0 0 128 ∧ ¬ TileStoreLegal (uG (gStore 128)) 0 0 112 ∧
    fmtOUTF (uG { group0 with fmt := 0x50000 }).g.fmt ∉ outCodes := by
  refine ⟨by decide, by decide, scalars_of (by decide +kernel), by decide +kernel, ?_, ?_, by decide +kernel⟩ <;>
    (unfold TileStoreLegal; decide +kernel)
abbrev eTile : Entry := { entry0 (.tile 0 true 0 128 0 0 (List.replicate 1024 (0, false)) 0 0) false with engine := 2, counter := some 0 }
theorem witness_accst_ends : EntryRuns (sE group0 eTile) 5 eTile (uP group0) ∧ Quiet (sE group0 eTile) ∧
    (sE group0 eTile).teams.get? 1 = some team0 ∧ (List.replicate 1024 ((0 : Word), false)).length = 1024 ∧ fmtOUTF 0 ∈ outCodes ∧
    32 * outSize (fmtOUTF 0) ≤ 128 ∧ InTeam (sE group0 eTile) 1 0 (31 * 128 + 32 * outSize (fmtOUTF 0)) :=
  ⟨⟨rfl, issuerE _ _ rfl rfl, rfl, rfl, by decide +kernel, rfl, by decide, rfl, rfl⟩, quietE _, rfl, List.length_replicate, by decide, by decide,
   inTeam0 _ _ _ (by decide)⟩

/-! ## Horizon (R311 to R319) -/

/-- Two i32 keys, the first up; EVICTMIN or REJECT of 3 tuples. -/
abbrev slotOf2 (policy : Nat) (front : List Tuple) : HzSlot :=
  ⟨BitVec.ofNat 22 (2 ^ 19 + 2 ^ 18 + 2 ^ 10 + 2 ^ 8 * policy + 2), front, 0, 0, 0, 0, 0, false⟩
abbrev front0 : List Tuple := [⟨[5, 3], 10⟩]
abbrev tSlots (policy : Nat) : Team := { team0 with slots := [(1, slotOf2 policy front0), (2, slotOf2 policy [])] }
theorem legalFront (p : Nat) (hp : p < 4) : FrontLegal (slotOf2 p front0) := by
  have hk : ∀ p < 4, keyCount (slotOf2 p front0) = 2 ∧ intKeys (slotOf2 p front0) = true ∧ 1 ≤ capacityOf (slotOf2 p front0) := by decide
  refine ⟨fun t ht => ?_, List.pairwise_singleton _ _, (hk p hp).2.2⟩
  rw [List.mem_singleton.mp ht, (hk p hp).1]
  exact ⟨rfl, fun h => absurd h.1 (by rw [(hk p hp).2.1]; decide)⟩
abbrev fHz (hs hx : BitVec 4) : FormH := ⟨0xFF, true, false, 0, 0, 0, 0, 0, hx, hs⟩
abbrev uH (p : Nat) : Issuer := uS group0 (tSlots p)
theorem issuingH (p : Nat) : Issuing (sS group0 (tSlots p)) (uH p) := issuing _ _ _ _ rfl rfl ctx0
theorem plain0 : launch0.det = false ∧ 1 < launch0.hz := by decide +kernel
theorem drained (p k : Nat) : OwnDrained (uH p) k := fun h => absurd (plain0.1.symm.trans h) (by decide)
theorem witness_slot : (Instr.hzclear (fHz 1 0)).WellFormed = true ∧ SlotIs (uH 0) 1 (slotOf2 0 front0) ∧ Issuing (sS group0 (tSlots 0)) (uH 0) ∧
    OwnDrained (uH 0) 1 ∧ (uH 0).t.slots.get? 15 = none ∧ 15 < (uH 0).l.hz ∧
    { (uH 0).l with desc := 0 }.hz ≤ 0 ∧ (Instr.hzinit { fHz 15 0 with d := 0, a := 0 }).WellFormed = true :=
  ⟨by decide, ⟨by decide +kernel, rfl, rfl⟩, issuingH _, drained _ _, rfl, by decide +kernel, by decide +kernel, by decide⟩
/-- A slot in which an error has been found. -/
abbrev tBad : Team := { team0 with slots := [(1, { slotOf2 0 front0 with bad := true })] }
theorem witness_slot_bad : horizonForm (.hzclear (fHz 1 0)) = some (fHz 1 0, true) ∧ Issuing (sS group0 tBad) (uS group0 tBad) ∧
    1 < (uS group0 tBad).l.hz ∧ tBad.slots.get? 1 = some { slotOf2 0 front0 with bad := true } :=
  ⟨rfl, issuing _ _ _ _ rfl rfl ctx0, plain0.2, rfl⟩
theorem witness_merge_mismatch : (Instr.hzmerge (fHz 1 1)).WellFormed = true ∧ SlotIs (uH 0) 1 (slotOf2 0 front0) := ⟨by decide, by decide +kernel, rfl, rfl⟩
/-- hzins q1, q2 into slot 1 of the keys v10 and v11 and the payload v12. -/
abbrev fIns : FormH := ⟨0xFF, false, false, 10, 12, 0, 1, 2, 0, 1⟩
theorem witness_insert (p : Nat) (hp : p < 4) : (Instr.hzins fIns).WellFormed = true ∧ Issuing (sS group0 (tSlots p)) (uH p) ∧
    SlotIs (uH p) 1 (slotOf2 p front0) ∧ FrontLegal (slotOf2 p front0) ∧ ¬ Buffers (uH p) (slotOf2 p front0) ∧
    ∀ l ∈ (uH p).enabledLanes 0xFF, Fits (uH p) l (srcRun fieldD 10 (keyCount (slotOf2 p front0))) ∧ Fits (uH p) l (Machine.src fieldA 12) := by
  have hk : ∀ p < 4, keyCount (slotOf2 p front0) = 2 := by decide
  refine ⟨by decide, issuingH p, ⟨plain0.2, rfl, rfl⟩, legalFront p hp, fun h => absurd (plain0.1.symm.trans h.1) (by decide), fun l hl => ?_⟩
  rw [hk p hp]
  have h := List.all_eq_true.mp (by decide +kernel : (u0.enabledLanes 0xFF).all (fun l => fitsB u0 l (srcRun fieldD 10 2) &&
    fitsB u0 l (Machine.src fieldA 12)) = true) l hl
  simp only [Bool.and_eq_true] at h
  have a : Fits u0 l (srcRun fieldD 10 2) := fits_of h.1
  have b : Fits u0 l (Machine.src fieldA 12) := fits_of h.2
  exact ⟨a, b⟩
theorem witness_strict : Strict (uH 3) (slotOf2 3 front0) := .inl (by decide)
/-- A DET launch buffers. -/
abbrev uDet (t : Team) : Issuer := user group0 t launchDet context0
theorem witness_buffers : Buffers (uDet (tSlots 1)) (slotOf2 1 front0) ∧ (uDet (tSlots 1)).t.hzs.length + 8 ≤ 65536 ∧
    OwnDrained (uDet (tSlots 1)) 1 ∧ Issuing (world group0 (tSlots 1) launchDet context0) (uDet (tSlots 1)) :=
  ⟨⟨by decide +kernel, .inl (by decide)⟩, by decide, fun _ _ he => (List.not_mem_nil he).elim,
   issuing _ _ _ _ rfl rfl (by decide +kernel)⟩
abbrev entries (n : Nat) : List HzEntry := List.replicate n ⟨1, 0, 0, 1, []⟩
theorem witness_buffer_full : 65536 < (uDet { tSlots 1 with hzs := entries 65530 }).t.hzs.length + 8 := by
  show 65536 < (List.replicate 65530 (⟨1, 0, 0, 1, []⟩ : HzEntry)).length + 8
  rw [List.length_replicate]; decide
theorem witness_merge : (Instr.hzmerge (fHz 1 2)).WellFormed = true ∧ SlotIs (uH 0) 2 (slotOf2 0 []) ∧ FrontLegal (slotOf2 0 []) ∧
    (1 : BitVec 4) ≠ 2 ∧ keyCount (slotOf2 0 front0) = keyCount (slotOf2 0 []) :=
  ⟨by decide, ⟨by decide +kernel, rfl, rfl⟩, ⟨fun _ h => (List.not_mem_nil h).elim, List.Pairwise.nil, Nat.zero_le _⟩, by decide, by decide⟩
theorem witness_hzread : (Instr.hzread { fHz 1 0 with sc := false, d := 20, a := 0x60D }).WellFormed = true ∧ u0.g.counter (hdrSetd u0.header) < 63 ∧
    OperandsFit (uH 0) ⟨0xFF, false, some (dstRun 20 3), [Machine.src fieldA 0x60D], 0⟩ ∧
    (∀ t ∈ (slotOf2 0 front0).front, t.keys.length = keyCount (slotOf2 0 front0)) :=
  ⟨by decide, by decide +kernel, operands_of (by decide +kernel), by decide⟩
abbrev read0 : Deferred := ⟨1, .hzread, [], 0, 0, none⟩
theorem witness_hzread_ends : InFlight { s0 with deferred := [(5, read0)] } 5 .hzread read0 u0 := ⟨rfl, rfl, issuer_of _ u0 0 rfl rfl rfl ctx0 rfl, nofun⟩
theorem witness_hzcount : (Instr.hzcount { fHz 1 0 with d := 0x702 }).WellFormed = true ∧ (Instr.hzstat { fHz 1 0 with d := 0x702 }).WellFormed = true ∧
    OperandsFit (uH 0) ⟨0xFF, true, some (dst 0x702), [], 1⟩ := ⟨by decide, by decide, operands_of (by decide +kernel)⟩
theorem witness_hzstore : (Instr.hzstore .t { fHz 1 0 with a := 0x702 }).WellFormed = true ∧ ScalarsFit (uH 0) [baseUse .t 0x702] ∧
    LegalAt (uH 0) .t 65520 (4 * (frontImage (slotOf2 0 front0)).length) ∧ ¬ LegalAt (uH 0) .t 65524 (4 * (frontImage (slotOf2 0 front0)).length) := by
  refine ⟨by decide, scalars_of (by decide +kernel), ?_, ?_⟩ <;> (unfold LegalAt; decide +kernel)
abbrev eFront : Entry := { entry0 (.front true 0x40 [1, 5, 3, 10]) false with engine := 3, counter := some 0 }
theorem witness_hzstore_ends : EntryRuns (sE group0 eFront) 5 eFront (uP group0) ∧ Quiet (sE group0 eFront) ∧ InTeam (sE group0 eFront) 1 0x40 16 :=
  ⟨⟨rfl, issuerE _ _ rfl rfl, rfl, rfl, by decide +kernel, rfl, by decide, rfl, rfl⟩, quietE _, inTeam0 _ _ _ (by decide)⟩

end Sys2Proof.Tests
end

