-- ==== Sys2Proof/Tests/WitnessHandlers.lean ====
section
/-!
SUPPORT. Witnesses for the statements about handlers, traps, Calm mode and deterministic launches.
-/

namespace Sys2Proof.Tests

set_option Elab.async false

open Sys2Proof Sys2Proof.Machine Sys2Proof.Claims

/-! ## A handler and the group that it serves -/

/-- The code of the launch: a header of one instruction at 0x10000, and a descriptor at 0x20100 whose address stands at 0x20000. -/
abbrev headerBytes : List Host.Cell := [(0x40010001, 0x80), (0x40010002, 0x08), (0x40010006, 0xC0), (0x40010007, 0xFF)]
abbrev descSmall : BitVec 512 := BitVec.ofNat 512 (fetchDescriptor.toNat - 14 * 2 ^ 140)
abbrev descCells : List Host.Cell := [(0x40020001, 0x01), (0x40020002, 0x02), (0x40020102, 0x01), (0x40020109, 0x06), (0x4002010A, 0x88),
  (0x4002010E, 0x01), (0x40020110, 0x40), (0x40020111, 0x20), (0x40020113, 0x3F), (0x40020114, 0x04), (0x40020118, 0x10), (0x40020120, 0x01)]
abbrev memCode : List Host.Cell := mem0 ++ headerBytes ++ descCells

abbrev cHandler : Context := { cPaged with tvec := 0x20000, save := 0x30000 }
abbrev launchH : Launch := { launch0 with handlerFor := some 1 }
abbrev teamH : Team := newTeam 5 0 0 [2]
abbrev handler0 : Group := { newGroup launchH 5 2 0 (agentId 0 1) 1 0 0 with header := some 0, entered := true }
/-- R157: where the leaf of the first GiB sends an access. -/
theorem leaf_at (s : State) (h : 2 ^ 31 ≤ s.hbmBytes) (va kind loc : Nat) (hk : (kindWrites kind && !pteW 0x4000060F) = false)
    (hf : (decide (kind = kindFetch) && !pteX 0x4000060F) = false) (hl : pteFrame 0x4000060F + va % 2 ^ pageBits 2 = loc) (hn : loc < 2 ^ 31) :
    leafTarget s 2 0x4000060F va kind = .ok (.phys loc 0 false) := by
  have f : pteTier 0x4000060F = 0 ∧ pteCache 0x4000060F = 0 ∧ pteChecked 0x4000060F = false := by decide +kernel
  have n : ¬ s.hbmBytes ≤ loc := by omega
  simp only [leafTarget, hk, hf, hl, f.1, f.2.1, f.2.2, n, if_false, Bool.false_eq_true]
/-- The handler h executes in a context c; x is the group that it serves. -/
abbrev served (h x : Group) (c : Context) : State :=
  { State.reset with mem := memCode, cores := [(0, core0)], contexts := [(0, c)], launches := [(1, launch0), (5, launchH)],
                     teams := [(1, team0), (2, teamH)], groups := [(1, x), (2, h)], cur := some 2, nextId := 6 }
abbrev uS2 (h : Group) (c : Context) : Issuer := ⟨2, h, teamH, launchH, c⟩
abbrev xS (x : Group) (c : Context) : Issuer := ⟨1, x, team0, launch0, c⟩
theorem ctxH : launchH.ctx = 0 := by decide +kernel
theorem issuingH2 (h x : Group) (c : Context) (ht : h.team = 2) (hl : h.launch = 5) : Issuing (served h x c) (uS2 h c) :=
  ⟨rfl, issuer_of _ (uS2 h c) 0 rfl (by simp [ht, Table.get?]) (by simp [hl, Table.get?]) ctxH rfl⟩
theorem servedIs (h x : Group) (c : Context) (ht : x.team = 1) (hl : x.launch = 1) : issuerOf (served h x c) 1 = some (xS x c) :=
  issuer_of _ (xS x c) 0 rfl (by simp [ht, Table.get?]) (by simp [hl, Table.get?]) ctx0 rfl
abbrev parked0 : Group := { newGroup launch0 1 1 0 (agentId 0 0) 0 0 0 with status := .parked, savedLive := some 0xFF, index := 0 }
abbrev sH (h : Group) : State := served h parked0 cHandler
abbrev uS3 (h : Group) : Issuer := uS2 h cHandler
abbrev xP : Issuer := xS parked0 cHandler

theorem namesServed (h : Group) : NamesTeam (sH h) (uS3 h) 0 team0 := by
  refine ⟨1, parked0, rfl, rfl, by simp [Table.vals], rfl, rfl, ⟨by decide, by decide, by decide⟩, fun x hx hl _ _ => ?_⟩
  simp only [Table.vals, List.map_cons, List.map_nil, List.mem_cons, List.not_mem_nil, or_false] at hx
  rcases hx with rfl | rfl
  · rfl
  · exact absurd hl (by decide)
theorem stoppedTarget (h : Group) : StoppedTarget (sH h) (uS3 h) 0 xP :=
  ⟨by decide, ⟨by decide, by decide, team0, 1, namesServed h, rfl, rfl⟩, servedIs _ _ _ rfl rfl, .inl rfl, (by decide : (1 : Nat) ≠ 2)⟩
theorem clean_handler (h : Group) : HandlerClean (sH h) (uS3 h) := ⟨noDirty_of _ core0 rfl rfl, rfl⟩

/-! ## Reading and writing items (R325) -/

/-- D s10 and s11, A s4 and s5, B s6, C s8 and s9. -/
abbrev fTgt (d a b c : BitVec 11) : FormV := ⟨0xFF, true, false, d, a, b, c⟩
/-- The selector: the last lane of v1535; lane 8 of it, which is beyond the width. -/
abbrev gSel (w : Word) : Group := handler0.setS 6 w
theorem witness_tgtrd : (Instr.tgtrd (fTgt 0x70A 0x704 0x706 0)).WellFormed = true ∧ Issuing (sH (gSel 0x05FF0007)) (uS3 (gSel 0x05FF0007)) ∧
    ScalarsFit (uS3 (gSel 0x05FF0007)) [dst64 0x70A, src64 fieldA 0x704, Machine.src fieldB 0x706] ∧
    rd64 (uS3 (gSel 0x05FF0007)) 0x704 0 = 0 ∧ StoppedTarget (sH (gSel 0x05FF0007)) (uS3 (gSel 0x05FF0007)) 0 xP ∧
    itemAt xP 0x05FF0007 = some 0 ∧ itemAt xP 0x05FF0008 = none ∧ rd (uS3 (gSel 0x05FF0007)) 0x706 0 = 0x05FF0007 :=
  ⟨by decide, issuingH2 _ _ _ rfl rfl, scalars_of (by decide +kernel), by decide +kernel, stoppedTarget _, by decide +kernel, by decide +kernel,
   by decide +kernel⟩
theorem witness_tgtwr : (Instr.tgtwr (fTgt 0 0x704 0x706 0x708)).WellFormed = true ∧
    ScalarsFit (uS3 (gSel 0x05FF0007)) [src64 fieldA 0x704, Machine.src fieldB 0x706, src64 fieldC 0x708] ∧
    MayWrite 0x05FF0007 0 ∧ MayWrite 0x60000000 0 ∧ HandlerClean (sH (gSel 0x05FF0007)) (uS3 (gSel 0x05FF0007)) ∧ Claims.kindOf 0x50000000 ∈ [5, 8, 9, 10, 11] :=
  ⟨by decide, scalars_of (by decide +kernel), ⟨by decide, fun h => absurd h (by decide), fun h => absurd h (by decide)⟩,
   ⟨by decide, fun h => absurd h (by decide), fun _ => by unfold FmtFits; decide⟩, clean_handler _, by decide⟩
/-- A handler with an access in flight. -/
abbrev sHBusy : State := { sH (gSel 0x05FF0007) with accesses := [(5, { access0 .store .g (.phys 0x40 0 false) 4 false with group := 2 })] }
theorem witness_tgtwr_waits : issuerOf sHBusy 2 = some (uS3 (gSel 0x05FF0007)) ∧ groupPerformed sHBusy 2 = false :=
  ⟨issuer_of _ (uS3 (gSel 0x05FF0007)) 0 rfl rfl rfl ctxH rfl, by decide +kernel⟩

/-! ## Resuming, killing, halting, stepping (R326, R327) -/

theorem headerAt0 : HeaderAt (sH handler0) xP 0 := by
  refine ⟨fetchHeader 0, ⟨by decide +kernel, by decide +kernel, 0x40010000, 0, false,
    by decide +kernel, ?_, rfl⟩, by decide +kernel, by decide +kernel⟩
  have : ∀ k < 8, Memory.byte memCode (0x40010000 + k) = (fetchHeader 0).extractLsb' (8 * k) 8 := by decide +kernel
  exact this
theorem witness_tgtres : (Instr.tgtres (fTgt 0 0x704 0x706 0)).WellFormed = true ∧ Issuing (sH handler0) (uS3 handler0) ∧
    ScalarsFit (uS3 handler0) [src64 fieldA 0x704, Machine.src fieldB 0x706] ∧ StoppedTarget (sH handler0) (uS3 handler0) 0 xP ∧
    HeaderAt (sH handler0) xP 0 ∧ HandlerClean (sH handler0) (uS3 handler0) ∧ (rd (uS3 handler0) 0x706 0).toNat ≤ 1 ∧ xP.g.index ≠ 16 ∧
    xP.g.status = .parked :=
  ⟨by decide, issuingH2 _ _ _ rfl rfl, scalars_of (by decide +kernel), stoppedTarget _, headerAt0, clean_handler _, by decide +kernel, by decide, rfl⟩
theorem witness_tgtkill : (Instr.tgtkill (fTgt 0 0x704 0 0)).WellFormed = true ∧ ScalarsFit (uS3 handler0) [src64 fieldA 0x704] ∧
    NamesGroups (sH handler0) (uS3 handler0) 0 [1] ∧ 2 ∉ [1] ∧ ∀ k ∈ [1], exitWaits (sH handler0) k = false :=
  ⟨by decide, scalars_of (by decide +kernel), (stoppedTarget _).2.1, by decide, by decide +kernel⟩
/-- A traced context, whose buffer of the core holds a packet of a later slot of this tick: the EXIT waits (R423). -/
abbrev sHTraced : State :=
  { served handler0 parked0 { cHandler with obsctl := 0xC01 } with
    cores := [(0, { core0 with staging := [(0, ⟨[], 0, 0, 0, 0, 0, 24, (0, 0)⟩)] })] }
theorem witness_tgtkill_waits : issuerOf sHTraced 2 = some (uS2 handler0 { cHandler with obsctl := 0xC01 }) ∧
    ∃ k ∈ [1], exitWaits sHTraced k = true :=
  ⟨issuer_of _ (uS2 handler0 _) 0 rfl rfl rfl ctxH rfl, 1, by simp, by decide +kernel⟩
abbrev running0 : Group := { parked0 with status := .running, savedLive := none }
abbrev sRun : State := served handler0 running0 cHandler
theorem namesRun : NamesGroups sRun (uS3 handler0) 0 [1] := by
  refine ⟨by decide, by decide, team0, 1, ⟨1, running0, rfl, rfl, by simp [Table.vals], rfl, rfl, ⟨by decide, by decide, by decide⟩, fun x hx hl _ _ => ?_⟩,
    rfl, rfl⟩
  simp only [Table.vals, List.map_cons, List.map_nil, List.mem_cons, List.not_mem_nil, or_false] at hx
  rcases hx with rfl | rfl
  · rfl
  · exact absurd hl (by decide)
theorem witness_tgthalt : (Instr.tgthalt (fTgt 0 0x704 0 0)).WellFormed = true ∧ Issuing sRun (uS3 handler0) ∧ (uS3 handler0).c.dbg = true ∧
    levelOf 0 = 0 ∧ NamesGroups sRun (uS3 handler0) 0 [1] ∧ issuerOf sRun 1 = some (xS running0 cHandler) ∧
    NothingInFlight sRun (xS running0 cHandler) ∧ sRun.joints = [] ∧ (∀ p ∈ sRun.groups, p.1 ≠ 1 → p.2.status ≠ .blocked) ∧ running0.status = .running :=
  ⟨by decide, issuingH2 _ _ _ rfl rfl, rfl, by decide, namesRun, servedIs _ _ _ rfl rfl,
   ⟨by decide +kernel, rfl, fun _ hp => (List.not_mem_nil hp).elim, fun _ hp => (List.not_mem_nil hp).elim⟩, rfl, by decide, rfl⟩
theorem witness_tgtstep : (Instr.tgtstep (fTgt 0 0x704 0 0)).WellFormed = true ∧ StoppedTarget (sH handler0) (uS3 handler0) 0 xP ∧
    HandlerClean (sH handler0) (uS3 handler0) ∧ (sH handler0).force = none ∧ cHandler.midStep = none ∧
    (∀ p ∈ (sH handler0).walks, p.2.group ≠ some 1) :=
  ⟨by decide, stoppedTarget _, clean_handler _, rfl, rfl, fun _ hp => (List.not_mem_nil hp).elim⟩
abbrev cDemoted : Context := { cHandler with stage := .demoted }
theorem witness_tgtcalm : (Instr.tgtcalm (fTgt 0 0x704 0 0)).WellFormed = true ∧ NamesGroups (sH handler0) (uS3 handler0) 0 [1] ∧
    handler0.wait ≠ some .calming ∧ (uS3 handler0).c.stage = .parallel ∧ Issuing (served handler0 parked0 cDemoted) (uS2 handler0 cDemoted) ∧
    cDemoted.stage = .demoted ∧ cDemoted.promote = false :=
  ⟨by decide, (stoppedTarget _).2.1, by decide, rfl, issuingH2 _ _ _ rfl rfl, rfl, rfl⟩
/-- A tgtcalm that has asked for Calm mode: the context is on its way there, or a promotion has ended it since (R384). -/
abbrev calming0 : Group := { handler0 with wait := some .calming }
theorem witness_tgtcalm_waits : Issuing (served calming0 parked0 { cHandler with stage := .demoting }) (uS2 calming0 { cHandler with stage := .demoting }) ∧
    Issuing (served calming0 parked0 cHandler) (uS2 calming0 cHandler) ∧ calming0.wait = some .calming ∧ cHandler.stage ≠ .demoting ∧
    cHandler.demoteNext = false :=
  ⟨issuingH2 _ _ _ rfl rfl, issuingH2 _ _ _ rfl rfl, rfl, by decide, rfl⟩
/-- A context that does not allow debugging; a target pair that names nothing: LEVEL 3. -/
abbrev gNothing : Group := handler0.setS 5 0x300
theorem witness_nothing : NamesNothing (sH gNothing) (uS3 gNothing) (rd64 (uS3 gNothing) 0x704 0) ∧
    (∃ k g, (uS3 gNothing).l.handlerFor = some k ∧ (sH gNothing).groups.get? k = some g) ∧ { cHandler with dbg := false }.dbg = false :=
  ⟨.inr (.inr (.inl (by decide +kernel))), ⟨1, parked0, rfl, rfl⟩, rfl⟩

/-! ## Breakpoints and watchpoints (R328, R329) -/

theorem free_alone (c : Context) (a : Word) : ComparatorsFree (served handler0 parked0 c) (uS2 handler0 c) ∧ a = a := by
  refine ⟨fun p hp hne => ?_, rfl⟩
  rw [List.mem_singleton.mp hp] at hne
  exact absurd ctxH.symm hne
/-- s6: comparator 3, enabled, index 16; and one with a reserved bit. -/
theorem witness_bpset : (Instr.bpset (fTgt 0 0x706 0x708 0)).WellFormed = true ∧ ScalarsFit (uS3 (gSel 0x100103)) [Machine.src fieldA 0x706, src64 fieldB 0x708] ∧
    BreakpointLegal (sH handler0) (uS3 handler0) 0x100103 0xFFFFFFFFFFFFFFF8 ∧ ¬ BreakpointLegal (sH handler0) (uS3 handler0) 0x110103 0 ∧
    ¬ BreakpointLegal (sH handler0) (uS3 handler0) 0 4 :=
  ⟨by decide, scalars_of (by decide +kernel), ⟨by decide, by decide, by decide, by decide, by decide, fun _ => (free_alone _ 0).1⟩,
   fun h => absurd h.2.2.2.1 (by decide), fun h => absurd h.2.2.2.2.1 (by decide)⟩
theorem witness_wpset : (Instr.wpset (fTgt 0 0x706 0x708 0x70A)).WellFormed = true ∧
    ScalarsFit (uS3 handler0) [Machine.src fieldA 0x706, src64 fieldB 0x708, Machine.src fieldC 0x70A] ∧
    WatchpointLegal (sH handler0) (uS3 handler0) 0x1703 0x80000000 ∧ ¬ WatchpointLegal (sH handler0) (uS3 handler0) 0x1703 0x80000001 ∧
    ¬ WatchpointLegal (sH handler0) (uS3 handler0) 0x1703 0 :=
  ⟨by decide, scalars_of (by decide +kernel),
   ⟨by decide, by decide, by decide, by decide, fun _ => by decide, by decide, by decide, fun _ => (free_alone _ 0).1⟩,
   fun h => absurd h.2.2.2.2.2.2.1 (by decide), fun h => absurd h.2.2.2.2.2.1 (by decide)⟩

/-! ## Records and handlers (R436, R437, R440) -/

abbrev info0 : TrapInfo := ⟨.soft, 5, 0xFF, 0, 0, 0xFF, [], true, false, false, 0, none, 0, false⟩
abbrev trapping0 : Group := { newGroup launch0 1 1 0 (agentId 0 0) 0 0 0 with status := .trapping, trap := some info0 }
abbrev sTrap : State := { sP trapping0 with mem := memCode, contexts := [(0, cHandler)], cur := none }
theorem witness_record : issuerOf sTrap 1 = some (xS trapping0 cHandler) ∧ trapping0.trap = some info0 ∧ trapping0.status = .trapping ∧
    NothingInFlight sTrap (xS trapping0 cHandler) ∧ RecordRoom sTrap (xS trapping0 cHandler) 0x40030000 ∧ RecordFits (xS trapping0 cHandler) info0 ∧
    NoHandlers sTrap ∧ launch0.handlerFor = none := by
  refine ⟨issuer_of _ (xS trapping0 cHandler) 0 rfl rfl rfl ctx0 rfl, rfl, rfl,
    ⟨by decide +kernel, rfl, fun _ hp => (List.not_mem_nil hp).elim, fun _ hp => (List.not_mem_nil hp).elim⟩,
    ⟨by decide, by decide, 0, false, 2, 0x4000060F, 0x3000, by decide +kernel, by decide, by decide, by decide +kernel⟩,
    ⟨by decide, by decide, by decide, by decide, by decide, by decide⟩, fun p hp => ?_, rfl⟩
  rw [show p = (1, launch0) from List.mem_singleton.mp hp]; rfl
abbrev waiting0 : Group := { trapping0 with status := .parked }
abbrev tenantCode : Tenant := { Tenant.reset with entry := BitVec.ofNat 512 (tenantEntryReset.toNat + 2 ^ 96 + 2 ^ 119) }
/-- SOFT is class 11: its code address stands at 0x20058; TVEC is 0x58 below the table of the memory. -/
abbrev cWaits (tvec : Nat) : Context := { cHandler with tvec := tvec, trapQueue := [1] }
abbrev sWaits (tvec : Nat) : State :=
  { sP waiting0 with mem := memCode, contexts := [(0, cWaits tvec)], cur := none, tenants := [(0, tenantCode)] }
theorem witness_handler : (sWaits 0x1FFA8).contexts.get? 0 = some (cWaits 0x1FFA8) ∧ (cWaits 0x1FFA8).trapQueue = [1] ∧
    issuerOf (sWaits 0x1FFA8) 1 = some (xS waiting0 (cWaits 0x1FFA8)) ∧ waiting0.status = .parked ∧ (cWaits 0x1FFA8).stage = .parallel ∧
    (cWaits 0x1FFA8).destroying = false ∧ liveHandlers (sWaits 0x1FFA8) 0 < 64 ∧ 0x1FFA8 + 8 * info0.cls.number = 0x20000 ∧
    deviceReady (sWaits 0x1FFA8) 0 kindRead 0x20000 8 = .ready ∧ leNat ((deviceRead (sWaits 0x1FFA8) 0 0x20000 8).getD []) = 0x20100 ∧
    handlerAt (touchPages (sWaits 0x1FFA8) 0 kindRead (pieces 0x20000 8)) (cWaits 0x1FFA8) 0 0x20100 = .found descSmall :=
  ⟨rfl, rfl, issuer_of _ (xS waiting0 (cWaits 0x1FFA8)) 0 rfl rfl rfl ctx0 rfl, rfl, rfl, rfl, by decide +kernel, by decide +kernel, by decide +kernel,
   by decide +kernel, by decide +kernel⟩
/-- A table that names no handler. -/
theorem witness_no_handler : deviceReady (sWaits 0x30000) 0 kindRead (0x30000 + 8 * info0.cls.number) 8 = .ready ∧
    leNat ((deviceRead (sWaits 0x30000) 0 (0x30000 + 8 * info0.cls.number) 8).getD []) = 0 := ⟨by decide +kernel, by decide +kernel⟩

/-! ## Calm mode (R371, R375, R380, R382) -/

abbrev cDemoting : Context := { cPaged with stage := .demoting }
abbrev sDemoting : State := { world group0 team0 launch0 cDemoting with cur := none }
theorem witness_serial_point : sDemoting.contexts.get? 0 = some cDemoting ∧ cDemoting.stage = .demoting ∧ demotionComplete sDemoting 0 = true ∧
    sDemoting.accesses = [] ∧ ∀ p ∈ sDemoting.teams, p.2.reds = [] := by
  refine ⟨rfl, rfl, by decide +kernel, rfl, fun p hp => ?_⟩
  rw [show p = (1, team0) from List.mem_singleton.mp hp]; rfl
abbrev cCalm (run : Bool) (n : Nat) : Context := { cPaged with stage := .demoted, running := run, stepsLeft := n }
abbrev sCalm (g : Group) (run : Bool) (n : Nat) : State := { world g team0 launch0 (cCalm run n) with cur := none }
abbrev uCalm (g : Group) (run : Bool) (n : Nat) : Issuer := user g team0 launch0 (cCalm run n)
theorem only_group {g : Group} {run : Bool} {n k : Nat} {y : Issuer} (h : issuerOf (sCalm g run n) k = some y) : k = 1 ∧ y.g = g := by
  by_cases hk : (1 : Nat) = k
  · subst hk
    refine ⟨rfl, ?_⟩
    simp only [issuerOf, world, Table.get?, if_true] at h
    repeat' split at h
    all_goals simp_all
    all_goals rw [← h]
  · simp [issuerOf, world, Table.get?, hk] at h
theorem witness_calm_step : (sCalm group0 false 1).contexts.get? 0 = some (cCalm false 1) ∧ (cCalm false 1).stepsLeft ≠ 0 ∧
    (cCalm false 1).stage = .demoted ∧ (sCalm group0 false 1).groups.sorted = true ∧
    StepsNext (sCalm group0 false 1) 0 none (uCalm group0 false 1) :=
  ⟨rfl, by decide, rfl, by decide,
   ⟨⟨issuer_of _ (uCalm group0 false 1) 0 rfl rfl rfl ctx0 rfl, ctx0, rfl, rfl, rfl⟩,
    .inr ⟨nofun, fun _ hy hne => absurd (only_group hy.1).1 hne⟩⟩⟩
abbrev retired0 : Group := { group0 with status := .retired }
theorem witness_calm_idle (run : Bool) (x : Issuer) : ¬ Runnable (sCalm retired0 run 1) 0 x := fun h => by
  have := h.2.2.2.1
  rw [(only_group h.1).2] at this
  exact absurd this (by decide)
theorem witness_calm_over : ∀ p ∈ [(1, { launch0 with ended := true })], p.2.ctx = 0 → p.2.handlerFor = none → p.2.ended = true := by
  intro p hp _ _
  rw [List.mem_singleton.mp hp]

/-! ## Deterministic launches (R358 to R364, R473) -/

abbrev launchSolo : Launch := { launch0 with desc := BitVec.ofNat 512 (fetchDescriptor.toNat + 2 ^ 160 - 2 ^ 162) }
theorem detOf : launchDet.det = true ∧ launchDet.cogrid = true ∧ launchDet.ctx = 0 ∧ launchSolo.det = true ∧ launchSolo.cogrid = false ∧
    launchSolo.ctx = 0 := by decide +kernel
abbrev sDet : State := paged (world group0 team0 launchDet cPaged)
abbrev uD : Issuer := user group0 team0 launchDet cPaged
abbrev sSolo : State := paged (world group0 team0 launchSolo cPaged)
abbrev uSolo : Issuer := user group0 team0 launchSolo cPaged
theorem issuingDet : Issuing sDet uD ∧ Issuing sSolo uSolo :=
  ⟨⟨rfl, issuer_of _ uD 0 rfl rfl rfl detOf.2.2.1 rfl⟩, rfl, issuer_of _ uSolo 0 rfl rfl rfl detOf.2.2.2.2.2 rfl⟩
theorem witness_det_atomic : (Instr.atom .g .xchgB32 (fLoad 0x40)).WellFormed = true ∧ Issuing sSolo uSolo ∧ waitsForMinimum .xchgB32 ∧
    uSolo.g.counter (hdrSetd uSolo.header) < 63 ∧
    (Instr.atom .t .xchgB32 (fLoad 4)).WellFormed = true ∧ Issuing sDet uD ∧ uD.calm = false :=
  ⟨by decide, issuingDet.2, .inl rfl, by decide +kernel, by decide, issuingDet.1, by decide +kernel⟩
theorem witness_det_held : ∃ d, datumOf (.atom .t .xchgB32 (fLoad 4)) = some d ∧
    LanesReady sDet uD (d.op uD) fun l => ⟨l, 4, .team 1 4, none, none, 4, 0, false, none, false, [2]⟩ := by
  refine ⟨_, rfl, by decide +kernel, by decide +kernel, ?_, fun _ _ => rfl⟩
  have e : (memOpOf uD (.rmw .xchgB32 true) .t (fLoad 4) (0x296 + atomNumber .xchgB32) 1 4 false).lanes = [0, 1, 2, 3, 4, 5, 6, 7] := by
    decide +kernel
  have h : ∀ l ∈ [0, 1, 2, 3, 4, 5, 6, 7], checkLane sDet uD (memOpOf uD (.rmw .xchgB32 true) .t (fLoad 4) (0x296 + atomNumber .xchgB32) 1 4 false) l =
      .xlate (.ok ⟨l, 4, .team 1 4, none, none, 4, 0, false, none, false, [2]⟩) := by decide +kernel
  exact fun l hl => h l (e ▸ hl)
theorem witness_det_monitor : ScalarsFit uD [dst fMon.d, src64 fieldA fMon.a, Machine.src fieldB fMon.b, Machine.src fieldC fMon.c] ∧
    (rd64 uD fMon.a 0).toNat = 0 ∧ translate sDet 0 0 0x1000 0 kindRead = .ok (.phys 0x40000000 0 false) :=
  ⟨scalars_of (by decide +kernel), by decide +kernel, by decide +kernel⟩
/-- A group that is held, alone in its grid. -/
abbrev gHeld : Group := { group0 with status := .heldMinimum, wait := some (.minimum 5) }
abbrev accessHeld : Access := { access0 (.rmw .xchgB32 true) .g home0 4 false with frozen := true }
abbrev sMin : State := { paged (world gHeld team0 launchDet cPaged) with accesses := [(5, accessHeld)], nextId := 6 }
abbrev uMin : Issuer := user gHeld team0 launchDet cPaged
theorem witness_minimum : HeldReady sMin uMin 5 accessHeld (lane0 home0 4 false) ∧ Placed sMin uMin home0 4 ∧ NoDirty sMin ∧
    (lane0 home0 4 false).size = atomBytes .xchgB32 := by
  have hi : issuerOf sMin 1 = some uMin := issuer_of _ uMin 0 rfl rfl rfl detOf.2.2.1 rfl
  refine ⟨⟨hi, rfl, rfl, rfl, rfl, rfl, rfl, rfl, rfl, rfl, rfl, fun p hp => ?_, by decide, by decide +kernel, ⟨by decide, fun x hx _ _ => ?_⟩, by decide⟩,
    ⟨.inl rfl, by decide⟩, noDirty_of _ core0 rfl rfl, by decide⟩
  · rw [show p = (5, accessHeld) from List.mem_singleton.mp hp]; exact ⟨by decide, fun _ => rfl, rfl⟩
  · by_cases hk : (1 : Nat) = x.gid
    · rw [← hk, hi] at hx
      have e := Option.some.inj hx
      rw [← e]
      exact ⟨by decide, by decide, rfl, fun _ => .inr ⟨rfl, .inr ⟨rfl, Nat.le_refl _⟩⟩⟩
    · simp [issuerOf, world, Table.get?, hk] at hx
abbrev fRed (order : BitVec 2) : FormM := ⟨0xFF, false, false, 2, 0, 0x40, 2, order⟩
theorem witness_red_order : (Instr.red .addF32 (fRed 2)).WellFormed = true ∧ isBuffered .addF32 ∧ (fRed 2).order ≠ 0 ∧
    (Instr.red .addF32 (fRed 0)).WellFormed = true ∧ uD.t.reds.length + 8 ≤ 65536 := ⟨by decide, .inl rfl, by decide, by decide, by decide⟩
theorem witness_red_buffer : ∃ d, datumOf (.red .addF32 (fRed 0)) = some d ∧
    LanesReady sDet uD (d.op uD) fun l => ⟨l, 0x40, home0, none, none, 4, 0, false, none, false, [2]⟩ := by
  refine ⟨_, rfl, by decide +kernel, by decide +kernel, ?_, fun _ _ => rfl⟩
  have e : (memOpOf uD (.rmw .addF32 false) .g (fRed 0) (0x2AC + redNumber .addF32) 1 4 false).lanes = [0, 1, 2, 3, 4, 5, 6, 7] := by decide +kernel
  have h : ∀ l ∈ [0, 1, 2, 3, 4, 5, 6, 7], checkLane sDet uD (memOpOf uD (.rmw .addF32 false) .g (fRed 0) (0x2AC + redNumber .addF32) 1 4 false) l =
      .xlate (.ok ⟨l, 0x40, home0, none, none, 4, 0, false, none, false, [2]⟩) := by decide +kernel
  exact fun l hl => h l (e ▸ hl)
abbrev accessRed : Access := { access0 (.rmw .addF32 false) .g home0 4 false with counter := 8 }
abbrev red0 : RedEntry := ⟨0, 0, 0, accessRed⟩
abbrev tReds (n : Nat) : Team := { team0 with reds := List.replicate n red0 }
abbrev sReds : State := { paged (world retired0 (tReds 1) launchDet cPaged) with cur := none }
abbrev uReds : Issuer := user retired0 (tReds 1) launchDet cPaged
theorem witness_red_full : 65536 < (user group0 (tReds 65536) launchDet cPaged).t.reds.length + 8 := by
  show 65536 < (List.replicate 65536 red0).length + 8
  rw [List.length_replicate]; decide
theorem holds (n : Nat) : HoldsToken { sReds with teams := [(1, tReds n)] } 1 launchDet 1 (tReds n) := by
  refine ⟨rfl, detOf.1, rfl, rfl, rfl, (by decide : TeamStatus.resident ≠ .restarting), rfl, fun p hp _ _ _ => ?_⟩
  rw [List.mem_singleton.mp hp]
theorem witness_drain : HoldsToken sReds 1 launchDet 1 (tReds 1) ∧ DrainsNext sReds (tReds 1) red0 ∧
    EntryPlain sReds red0 uReds .addF32 (lane0 home0 4 false) ∧ Placed sReds uReds home0 4 ∧ NoDirty sReds ∧ Quiet sReds ∧
    ∀ off, home0 ≠ .team 1 off := by
  refine ⟨holds 1, ⟨List.mem_singleton.mpr rfl, fun d hd hne => absurd (List.mem_singleton.mp hd) hne, fun gid hg g h _ => ?_⟩,
    ⟨issuer_of _ uReds 0 rfl rfl rfl detOf.2.2.1 rfl, rfl, rfl, rfl, rfl, rfl, rfl, by decide, rfl, rfl, rfl, rfl, rfl, rfl, rfl,
     fun _ hp => (List.not_mem_nil hp).elim, by decide +kernel⟩, ⟨.inl rfl, by decide⟩, noDirty_of _ core0 rfl rfl,
    ⟨fun p hp => by rw [List.mem_singleton.mp hp]; exact ⟨by decide, rfl, fun h => absurd h (by decide)⟩, rfl,
      fun _ hp => (List.not_mem_nil hp).elim⟩, nofun⟩
  rw [List.mem_singleton.mp hg] at h
  rw [← Option.some.inj (h : some retired0 = some g)]
theorem witness_token : HoldsToken { sReds with teams := [(1, tReds 0)] } 1 launchDet 1 (tReds 0) ∧ (tReds 0).reds = [] ∧
    ∀ gid ∈ (tReds 0).groups, ∀ g, sReds.groups.get? gid = some g → g.status = .retired := by
  refine ⟨holds 0, rfl, fun gid hg g h => ?_⟩
  rw [List.mem_singleton.mp hg] at h
  rw [← Option.some.inj (h : some retired0 = some g)]

end Sys2Proof.Tests
end

