-- ==== Sys2Proof/Tests/WitnessCode.lean ====
section
/-!
SUPPORT. Witnesses for the statements about decoding, the step, and the beginning of a clause.
-/

namespace Sys2Proof.Tests

set_option Elab.async false

open Sys2Proof Sys2Proof.Machine Sys2Proof.Claims

/-! ## Decoding -/

theorem witness_encode : (Instr.nop ⟨0xFF, false, false, 0, 0, 0, 0⟩).WellFormed = true ∧
    encode (.nop ⟨0xFF, false, false, 0, 0, 0, 0⟩) = some 0x003F_C000_0000_0000 ∧
    decodeWord 0x003F_C000_0000_0000 = .ok (.nop ⟨0xFF, false, false, 0, 0, 0, 0⟩) ∧ opcOf 0xFFC0_0000_0208_B003 = 0x3FF ∧
    opMap (opcOf (0x00D <<< 54)) = none := ⟨by decide, by decide, by decide, by decide, by decide⟩

/-! ## A step (R83, R109, R435) -/

/-- The header of memCode at 0x10000, and a nop after it. -/
abbrev memNop : List Host.Cell := mem0 ++ headerBytes ++ [(0x4001000D, 0xC0), (0x4001000E, 0x3F)]
abbrev gNop : Group := { group0 with header := some (fetchHeader 0), clause := 0x10000 }
abbrev sNop (g : Group) (c : Core) : State :=
  { sP g with mem := memNop, cores := [(0, c)], cur := none, agenda := [⟨.issue 1, 0, 0⟩] }
theorem code_at_nop (g : Group) (c : Core) (hc : c.tlb = core0.tlb) : CodeAt (sNop g c) (uP g) 0x10000 (fetchHeader 0) ∧
    CodeAt (sNop g c) (uP g) (0x10000 + 8) 0x003F_C000_0000_0000 := by
  have t : ∀ va loc, tlbFind 0 va kindFetch core0.tlb = some ⟨0, 0, 2, 0x4000060F⟩ →
      leafTarget (sNop g c) 2 0x4000060F va kindFetch = .ok (.phys loc 0 false) →
      translate (sNop g c) 0 0 0x1000 va kindFetch = .ok (.phys loc 0 false) := fun va loc h1 h2 => by
    have h : coreTlbHit (sNop g c) 0 0 va kindFetch = some ⟨0, 0, 2, 0x4000060F⟩ := by
      show tlbFind 0 va kindFetch c.tlb = _
      rw [hc, h1]
    unfold Machine.translate
    rw [h]
    exact h2
  have a : ∀ k < 8, Memory.byte memNop (0x40010000 + k) = (fetchHeader 0).extractLsb' (8 * k) 8 := by decide +kernel
  have b : ∀ k < 8, Memory.byte memNop (0x40010008 + k) = (0x003F_C000_0000_0000 : Word64).extractLsb' (8 * k) 8 := by decide +kernel
  refine ⟨⟨by decide, by decide, 0x40010000, 0, false, ?_, a, rfl⟩, by decide, by decide, 0x40010008, 0, false, ?_, b, rfl⟩
  · rw [show (uP g).l.ctx = 0 from ctx0]; exact t _ _ (by decide +kernel)
      (leaf_at _ (by rw [show (sNop g c).hbmBytes = State.reset.hbmBytes from rfl]; decide +kernel) _ _ _ (by decide +kernel) (by decide +kernel)
        (by decide +kernel) (by decide))
  · rw [show (uP g).l.ctx = 0 from ctx0]; exact t _ _ (by decide +kernel)
      (leaf_at _ (by rw [show (sNop g c).hbmBytes = State.reset.hbmBytes from rfl]; decide +kernel) _ _ _ (by decide +kernel) (by decide +kernel)
        (by decide +kernel) (by decide))
theorem witness_step_runs : (sNop gNop core0).force = none ∧ (nextTurn (sNop gNop core0)).move = .issue 1 ∧
    issuerOf (sNop gNop core0) 1 = some (uP gNop) ∧ (uP gNop).g.header.isSome = true ∧ MayIssue (sNop gNop core0) (uP gNop) ∧
    NoBreakpoint (uP gNop) (uP gNop).g.index ∧ CodeAt (sNop gNop core0) (uP gNop) (wordAddress (uP gNop)) 0x003F_C000_0000_0000 ∧
    InPlace (uP gNop) 0x003F_C000_0000_0000 (.nop ⟨0xFF, false, false, 0, 0, 0, 0⟩) ∧ (uP gNop).c.sampling = false :=
  ⟨rfl, rfl, issuer_of _ (uP gNop) 0 rfl rfl rfl ctx0 rfl, rfl, ⟨rfl, rfl, rfl, rfl, rfl, by decide +kernel, ⟨core0, rfl, rfl⟩, rfl⟩,
   .inr (fun _ hp => (List.not_mem_nil hp).elim), by
     rw [show wordAddress (uP gNop) = 0x10000 + 8 from by decide]; exact (code_at_nop gNop core0 rfl).2,
   ⟨by decide, by decide +kernel⟩, by decide +kernel⟩
abbrev sEvent (b : Bool) : State := { State.reset with throttled := b, agenda := [⟨.event .throttleEpisodeEnd, 0, 0⟩] }
theorem witness_event_step : (sEvent true).force = none ∧ (nextTurn (sEvent true)).move = .event .throttleEpisodeEnd ∧
    exec .throttleEpisodeEnd (takeTurn (sEvent true)) = .next { takeTurn (sEvent true) with throttled := false } ∧
    exec .throttleEpisodeEnd (takeTurn (sEvent false)) = .refused .notEnabled := ⟨rfl, rfl, rfl, rfl⟩

/-! ## The beginning of a clause (R344) -/

abbrev gReady : Group := { group0 with header := none, entered := false, clause := 0x10000 }
theorem witness_clause : quadrantBusy (sNop gReady core0) (quadrantGroups (sNop gReady core0) 0 0) = false ∧
    uP gReady ∈ Candidates (sNop gReady core0) 0 0 ∧ (∀ v ∈ Candidates (sNop gReady core0) 0 0, v.gid = (uP gReady).gid) ∧
    gReady.heldFaults = [] ∧ NoBreakpoint (uP gReady) 16 ∧ Unobserved (uP gReady) ∧
    CodeAt (sNop gReady core0) (uP gReady) (uP gReady).g.clause.toNat (fetchHeader 0) ∧
    CodeAt (sNop gReady core0) (uP gReady) ((uP gReady).g.clause.toNat + 8) 0x003F_C000_0000_0000 ∧
    headerFault (fetchHeader 0) = none ∧ (uP gReady).g.index ≤ hdrNcount (fetchHeader 0) := by
  have e : Candidates (sNop gReady core0) 0 0 = [uP gReady] := by decide +kernel
  refine ⟨by decide +kernel, ?_, fun v hv => ?_, rfl, .inr (fun _ hp => (List.not_mem_nil hp).elim), .inr ⟨by decide +kernel, by decide +kernel⟩,
    (code_at_nop gReady core0 rfl).1, (code_at_nop gReady core0 rfl).2, by decide +kernel, by decide +kernel⟩
  · rw [e]; exact List.mem_singleton.mpr rfl
  · rw [e] at hv; rw [List.mem_singleton.mp hv]

/-! ## The memory of a state -/

theorem witness_memory_form : Memory.wf State.reset.mem = true ∧ (∃ t, step (sEvent true) = .next t) := ⟨by decide, _, rfl⟩

end Sys2Proof.Tests
end

