-- ==== Sys2Proof/Tests/WitnessPlacing.lean ====
section
/-!
SUPPORT. Witnesses for the statements about walks, launches, teams, slices and lending.
-/

namespace Sys2Proof.Tests

set_option Elab.async false

open Sys2Proof Sys2Proof.Machine Sys2Proof.Claims

/-! ## Walks (R166, R167, R450) -/

/-- A walk for a read of group 1; the third entry of the table at 0x3000 is invalid: bit 11 is set. -/
abbrev walkAt (va : Nat) : Walk := ⟨0, 0, va, 0, some 1, none, agentId 0 0, none⟩
abbrev memBad : List Host.Cell := mem0 ++ [(0x3010, 0x01), (0x3011, 0x08)]
abbrev sWalk (va : Nat) (fs : Table FaultEntry) : State :=
  { sP group0 with mem := memBad, walks := [(7, walkAt va)], faults := fs }
abbrev fault0 : FaultEntry := ⟨true, 2, 0, 0, 0, 2 ^ 14⟩
/-- The walk is the only one, and the second-level TLB of its die is empty. -/
theorem witness_walk_alone (va : Nat) (fs : Table FaultEntry) : WalkInFlight (sWalk va fs) 7 (walkAt va) ∧ DieMisses (sWalk va fs) (walkAt va) :=
  ⟨by unfold WalkInFlight; rw [show (sWalk va fs).walks = [(7, walkAt va)] from rfl]; simp, fun _ _ h => (List.not_mem_nil h).elim⟩
/-- The second-level TLB of the die holds the page. -/
abbrev tlbPage : TlbEntry := ⟨0, 0, 2, 0x4000060F⟩
abbrev sDieHit : State := { sWalk 0x40 [] with dieTlb := [(0, [tlbPage])] }
theorem witness_walk_die : sDieHit.walks.get? 7 = some (walkAt 0x40) ∧ (walkAt 0x40).group.isSome = true ∧
    (dieEntries sDieHit (walkAt 0x40))[0]? = some tlbPage ∧ TlbServes tlbPage (walkAt 0x40) :=
  ⟨rfl, rfl, by decide +kernel, by decide, by decide, by decide, by decide⟩
theorem witness_walk_leaf : (sWalk 0x40 []).walks.get? 7 = some (walkAt 0x40) ∧ (walkAt 0x40).waiting = none ∧
    (sWalk 0x40 []).contexts.get? 0 = some cPaged ∧ walkVa (sWalk 0x40 []) 0x1000 0x40 = .leaf 2 0x4000060F 0x3000 ∧
    touchedLeaf 0x4000060F 0 = 0x4000060F := ⟨rfl, rfl, rfl, by decide +kernel, by decide⟩
theorem witness_walk_joins : walkVa (sWalk (2 ^ 30) [(0, fault0)]) 0x1000 (2 ^ 30) = .absent 2 ∧
    HoldsPage (sWalk (2 ^ 30) [(0, fault0)]) (walkAt (2 ^ 30)) 0 ∧ (∀ j, HoldsPage (sWalk (2 ^ 30) [(0, fault0)]) (walkAt (2 ^ 30)) j → j = 0) ∧
    (sWalk (2 ^ 30) [(0, fault0)]).faults.sorted = true := by
  refine ⟨by decide +kernel, ⟨by decide, fault0, rfl, rfl, rfl, by decide⟩, fun j h => ?_, by decide⟩
  obtain ⟨-, e, he, -⟩ := h
  by_cases hj : (0 : Nat) = j
  · exact hj.symm
  · simp [Table.get?, hj] at he
theorem witness_walk_enters : walkVa (sWalk (2 ^ 30) []) 0x1000 (2 ^ 30) = .absent 2 ∧
    (∀ j, ¬ HoldsPage (sWalk (2 ^ 30) []) (walkAt (2 ^ 30)) j) ∧ FreeEntry (sWalk (2 ^ 30) []) (walkAt (2 ^ 30)) 0 ∧
    (∀ j, j / 1024 = (walkAt (2 ^ 30)).core / 48 → EntryFree (sWalk (2 ^ 30) []) j) :=
  ⟨by decide +kernel, fun j h => (by obtain ⟨-, e, he, -⟩ := h; simp [Table.get?] at he), ⟨by decide, nofun, nofun⟩, fun _ _ => nofun⟩
/-- Entry 0 is taken by another page: entry 1 is the lowest free one. -/
abbrev fault1 : FaultEntry := { fault0 with vpn := 5 }
theorem witness_walk_next_entry : FreeEntry (sWalk (2 ^ 30) [(0, fault1)]) (walkAt (2 ^ 30)) 1 ∧
    (∃ j, j / 1024 = (walkAt (2 ^ 30)).core / 48 ∧ ¬ EntryFree (sWalk (2 ^ 30) [(0, fault1)]) j) := by
  have h : ¬ EntryFree (sWalk (2 ^ 30) [(0, fault1)]) 0 := fun h => absurd (h fault1 rfl) (by decide)
  refine ⟨⟨by decide, nofun, fun j hj _ => ?_⟩, 0, by decide, h⟩
  rw [Nat.lt_one_iff.mp hj]; exact h
theorem witness_walk_invalid : walkVa (sWalk (2 ^ 31) []) 0x1000 (2 ^ 31) = .invalid 2 := by decide +kernel

/-- R163: where the metadata stands matters to a checked leaf only. -/
theorem never_invalid (m level e : Nat) (hc : pteChecked e = false) (h : pteInvalid 0 level e = false) : pteInvalid m level e = false := by
  simp only [pteInvalid, hc, Bool.false_and] at h ⊢
  exact h
/-- The walk of an address of the first GiB depends on three entries of the tables. -/
theorem walk_of (t : State) (va : Nat) (h4 : tableIndex va 4 = 0) (h3 : tableIndex va 3 = 0) (h2 : tableIndex va 2 = 0)
    (hh : 2 ^ 31 ≤ t.hbmBytes) (e4 : t.readNat 0x1000 8 = 0x2003) (e3 : t.readNat 0x2000 8 = 0x3003) (e2 : t.readNat 0x3000 8 = 0x4000060F) :
    walkVa t 0x1000 va = .leaf 2 0x4000060F 0x3000 := by
  have f : pteFrame 0x2003 = 0x2000 ∧ pteFrame 0x3003 = 0x3000 ∧ pteP 0x2003 = true ∧ pteP 0x3003 = true ∧ pteP 0x4000060F = true ∧
    isLeafAt 4 0x2003 = false ∧ isLeafAt 3 0x3003 = false ∧ isLeafAt 2 0x4000060F = true := by decide +kernel
  obtain ⟨f1, f2, p1, p2, p3, l1, l2, l3⟩ := f
  have i1 := never_invalid t.mbase 4 0x2003 (by decide +kernel) (by decide +kernel)
  have i2 := never_invalid t.mbase 3 0x3003 (by decide +kernel) (by decide +kernel)
  have i3 := never_invalid t.mbase 2 0x4000060F (by decide +kernel) (by decide +kernel)
  have n4 : ¬ t.hbmBytes ≤ 0x1000 := by omega
  have n3 : ¬ t.hbmBytes ≤ 0x2000 := by omega
  have n2 : ¬ t.hbmBytes ≤ 0x3000 := by omega
  simp [walkVa, walkFrom, *]
/-- The tables stand below 0x3008. -/
theorem tables_apart (s : State) (va loc n : Nat) (h4 : tableIndex va 4 = 0) (h3 : tableIndex va 3 = 0) (h2 : tableIndex va 2 = 0)
    (hh : 2 ^ 31 ≤ s.hbmBytes) (e4 : s.readNat 0x1000 8 = 0x2003) (e3 : s.readNat 0x2000 8 = 0x3003) (e2 : s.readNat 0x3000 8 = 0x4000060F)
    (h : 0x3008 ≤ loc) : TablesApart s 0x1000 va loc n := by
  intro t hb ht
  have key : ∀ a, a + 8 ≤ loc → t.readNat a 8 = s.readNat a 8 := fun a ha => by
    simp only [State.readNat, State.readMem, Memory.bytes]
    rw [ht a (by omega), ht (a + 1) (by omega), ht (a + 1 + 1) (by omega), ht (a + 1 + 1 + 1) (by omega), ht (a + 1 + 1 + 1 + 1) (by omega),
      ht (a + 1 + 1 + 1 + 1 + 1) (by omega), ht (a + 1 + 1 + 1 + 1 + 1 + 1) (by omega), ht (a + 1 + 1 + 1 + 1 + 1 + 1 + 1) (by omega)]
  rw [walk_of s va h4 h3 h2 hh e4 e3 e2, walk_of t va h4 h3 h2 (hb ▸ hh) ((key _ (by omega)).trans e4) ((key _ (by omega)).trans e3) ((key _ (by omega)).trans e2)]

/-! ## Packets (R335 to R337) -/

/-- A packet of context 0 whose CODE is 0x20100, with a LID and DONE; and its bytes at the tenant's window. -/
abbrev packet0 (lid done : Nat) : BitVec 512 :=
  BitVec.ofNat 512 (0x20100 + done * 2 ^ 128 + 2 ^ 192 + 2 ^ 208 + 2 ^ 224 + 2 ^ 240 + 2 ^ 244 + lid * 2 ^ 256)
abbrev window (lid done : List Host.Cell) : List Host.Cell :=
  [(2 ^ 54 + 1, 0x01), (2 ^ 54 + 2, 0x02)] ++ done ++ [(2 ^ 54 + 24, 1), (2 ^ 54 + 26, 1), (2 ^ 54 + 28, 1), (2 ^ 54 + 30, 0x11)] ++ lid
abbrev lid1 : List Host.Cell := [(2 ^ 54 + 32, 1)]
abbrev done5 : List Host.Cell := [(2 ^ 54 + 18, 5)]
/-- Tenant 0 may launch, its code region is the 64 KiB from 0x10000 on, and core 0 is its own. -/
abbrev tenantOn0 : Tenant :=
  { Tenant.reset with entry := BitVec.ofNat 512 (tenantEntryReset.toNat + 2 ^ 96 + 2 ^ 119 + 2 ^ 71), tail := 1 }
abbrev coreOwn : Core := { core0 with kind := .guaranteed }
abbrev sServe (w : List Host.Cell) : State :=
  { State.reset with mem := memCode ++ w, cores := [(0, coreOwn)], contexts := [(0, cPaged)], tenants := [(0, tenantOn0)] }

theorem window_at : hostBase + tenantOn0.wbase + 64 * (tenantOn0.progress.toNat % 2 ^ tenantOn0.wlog2) = 2 ^ 54 := by decide +kernel
theorem packet_next (lid done : Nat) (w : List Host.Cell) (ho : switchedOut (sServe w) 0 = false)
    (h : ∀ k < 64, (packet0 lid done).extractLsb' (8 * k) 8 = Memory.byte (memCode ++ w) (2 ^ 54 + k)) :
    PacketNext (sServe w) 0 tenantOn0 false (packet0 lid done) 0 := by
  refine ⟨by decide, ho, rfl, ?_⟩
  rw [window_at]
  exact h
theorem witness_packet_next : PacketNext (sServe (window lid1 [])) 0 tenantOn0 false (packet0 1 0) 0 :=
  packet_next _ _ _ (by decide +kernel) (by decide +kernel)

theorem fields0 : (newLaunch (packet0 1 0) descSmall 0 0).ctx = 0 ∧ (newLaunch (packet0 1 0) descSmall 0 0).code = 0x20100 ∧
    (newLaunch (packet0 1 0) descSmall 0 0).doneAt = 0 ∧ (newLaunch (packet0 0 0x50000) descSmall 0 0).ctx = 0 ∧
    (newLaunch (packet0 0 0x50000) descSmall 0 0).code = 0x20100 ∧ (newLaunch (packet0 0 0x50000) descSmall 0 0).doneAt = 0x50000 := by
  decide +kernel
/-- What the tables of a memory say of the pages. -/
abbrev Tables0 (s : State) : Prop := s.contexts.get? 0 = some cPaged ∧ s.readNat 0x1000 8 = 0x2003 ∧ s.readNat 0x2000 8 = 0x3003 ∧
  s.readNat 0x3000 8 = 0x4000060F ∧ 2 ^ 31 ≤ s.hbmBytes
theorem answers (s : State) (h : Tables0 s) (va : Nat) (h4 : tableIndex va 4 = 0) (h3 : tableIndex va 3 = 0) (h2 : tableIndex va 2 = 0) :
    PageAnswers s 0 va := by
  intro c hc _
  have e : cPaged = c := Option.some.inj (h.1.symm.trans hc)
  subst e
  rw [walk_of s va h4 h3 h2 h.2.2.2.2 h.2.1 h.2.2.1 h.2.2.2.1]
  refine ⟨nofun, nofun, fun level leaf at_ e => ?_⟩
  cases e
  exact h.2.2.2.2
theorem page_at (s : State) (h : Tables0 s) (va loc kind : Nat) (h4 : tableIndex va 4 = 0) (h3 : tableIndex va 3 = 0) (h2 : tableIndex va 2 = 0)
    (hl : leafTarget s 2 0x4000060F va kind = .ok (.phys loc 0 false)) :
    (va < 2 ^ 57 → PageAt s 0 va kind loc) ∧ ∀ x, PageAt s 0 va kind x → x = loc := by
  have e : walkXlate s 0x1000 va kind = .ok (.phys loc 0 false) := by
    rw [walkXlate, walk_of s va h4 h3 h2 h.2.2.2.2 h.2.1 h.2.2.1 h.2.2.2.1]; exact hl
  refine ⟨fun hv => ⟨cPaged, 0, false, h.1, hv, e⟩, ?_⟩
  rintro x ⟨c, k, b, hc, -, hx⟩
  have : cPaged = c := Option.some.inj (h.1.symm.trans hc)
  subst this
  rw [show cPaged.root = 0x1000 from rfl, e] at hx
  cases hx; rfl
theorem code_at (s : State) (h : Tables0 s) : PageAt s 0 0x20100 kindRead 0x40020100 ∧ ∀ x, PageAt s 0 0x20100 kindRead x → x = 0x40020100 :=
  have := page_at s h 0x20100 0x40020100 kindRead (by decide) (by decide) (by decide)
    (leaf_at s h.2.2.2.2 _ _ _ (by decide +kernel) (by decide +kernel) (by decide +kernel) (by decide))
  ⟨this.1 (by decide), this.2⟩
theorem done_page (s : State) (h : Tables0 s) : PageAt s 0 0x50000 kindWrite 0x40050000 :=
  (page_at s h 0x50000 0x40050000 kindWrite (by decide) (by decide) (by decide)
    (leaf_at s h.2.2.2.2 _ _ _ (by decide +kernel) (by decide +kernel) (by decide +kernel) (by decide))).1 (by decide)
theorem tables_serve (w : List Host.Cell) (h : ∀ a ∈ [0x1000, 0x2000, 0x3000], (sServe w).readNat a 8 = (sServe []).readNat a 8) : Tables0 (sServe w) :=
  ⟨rfl, (h _ (by decide)).trans (by decide +kernel), (h _ (by decide)).trans (by decide +kernel), (h _ (by decide)).trans (by decide +kernel),
   by rw [show (sServe w).hbmBytes = State.reset.hbmBytes from rfl]; decide +kernel⟩
abbrev sAccept : State := sServe (window lid1 [])
abbrev sRefuse : State := sServe (window [] done5)
theorem tables1 : Tables0 sAccept := tables_serve _ (by decide +kernel)
theorem tables2 : Tables0 sRefuse := tables_serve _ (by decide +kernel)
theorem witness_packet_ready : PacketReady sAccept (packet0 1 0) descSmall := by
  unfold PacketReady
  simp only [fields0]
  refine ⟨fun h => absurd rfl h, answers _ tables1 _ (by decide) (by decide) (by decide), fun loc hl => ?_⟩
  rw [(code_at _ tables1).2 loc hl]
  have : ∀ k < 64, descSmall.extractLsb' (8 * k) 8 = Memory.byte (memCode ++ window lid1 []) (0x40020100 + k) := by decide +kernel
  exact this
theorem witness_done_ready : PacketNext sRefuse 0 tenantOn0 false (packet0 0 0x50000) 0 ∧ PacketReady sRefuse (packet0 0 0x50000) descSmall := by
  refine ⟨packet_next _ _ _ (by decide +kernel) (by decide +kernel), ?_⟩
  unfold PacketReady
  simp only [fields0]
  refine ⟨fun _ => answers _ tables2 _ (by decide) (by decide) (by decide), answers _ tables2 _ (by decide) (by decide) (by decide), fun loc hl => ?_⟩
  rw [(code_at _ tables2).2 loc hl]
  have : ∀ k < 64, descSmall.extractLsb' (8 * k) 8 = Memory.byte (memCode ++ window [] done5) (0x40020100 + k) := by decide +kernel
  exact this

theorem check1 : Check sAccept 0 tenantOn0 false 0 (packet0 1 0) descSmall 1 ∧ Check sRefuse 0 tenantOn0 false 0 (packet0 0 0x50000) descSmall 1 := by
  simp only [Check]
  exact ⟨by decide +kernel, by decide +kernel⟩
theorem check2 (w : List Host.Cell) : Check (sServe w) 0 tenantOn0 false 0 (packet0 1 0) descSmall 2 ∧
    Check (sServe w) 0 tenantOn0 false 0 (packet0 0 0x50000) descSmall 2 := by
  simp only [Check]
  have h := fields0
  refine ⟨⟨cPaged, ?_, rfl, rfl⟩, cPaged, ?_, rfl, rfl⟩
  · exact (congrArg (Table.get? (sServe w).contexts) h.1).trans rfl
  · exact (congrArg (Table.get? (sServe w).contexts) h.2.2.2.1).trans rfl
theorem fields1 : (newLaunch (packet0 1 0) descSmall 0 sAccept.nextId).ctx = 0 ∧ (newLaunch (packet0 1 0) descSmall 0 sAccept.nextId).code = 0x20100 ∧
    (newLaunch (packet0 1 0) descSmall 0 sAccept.nextId).doneAt = 0 ∧ (newLaunch (packet0 0 0x50000) descSmall 0 sRefuse.nextId).ctx = 0 ∧
    (newLaunch (packet0 0 0x50000) descSmall 0 sRefuse.nextId).doneAt = 0x50000 := by decide +kernel
theorem check3 : Check sAccept 0 tenantOn0 false 0 (packet0 1 0) descSmall 3 ∧ Check sRefuse 0 tenantOn0 false 0 (packet0 0 0x50000) descSmall 3 := by
  simp only [Check]
  refine ⟨.inl fields1.2.2.1, .inr ⟨by decide +kernel, 0x40050000, ?_⟩⟩
  rw [fields1.2.2.2.1, fields1.2.2.2.2]
  exact done_page _ tables2
theorem check7 : Check sAccept 0 tenantOn0 false 0 (packet0 1 0) descSmall 7 := by
  simp only [Check]
  refine ⟨by decide +kernel, ⟨0x40020100, ?_⟩, by unfold DescriptorFields; decide +kernel, 96, .inl rfl, by decide +kernel⟩
  rw [fields1.1, fields1.2.1]
  exact (code_at _ tables1).1
theorem witness_accepted : ∀ rsn, 1 ≤ rsn → rsn ≤ 9 → Check sAccept 0 tenantOn0 false 0 (packet0 1 0) descSmall rsn
  | 1, _, _ => check1.1
  | 2, _, _ => (check2 _).1
  | 3, _, _ => check3.1
  | 4, _, _ => by simp only [Check]; exact ⟨by decide +kernel, nofun, .inl (by decide +kernel), .inl (by decide +kernel)⟩
  | 5, _, _ => by simp only [Check]; decide +kernel
  | 6, _, _ => by simp only [Check]; decide +kernel
  | 7, _, _ => check7
  | 8, _, _ => by simp only [Check]; decide +kernel
  | 9, _, _ => by
    simp only [Check]
    exact ⟨⟨(0, coreOwn), by simp, ⟨rfl, by decide +kernel⟩, .inl ⟨.inl rfl, rfl⟩⟩, fun _ => by decide +kernel⟩
  | n + 10, _, h => absurd h (by omega)
  | 0, h, _ => absurd h (by decide)
/-- A LID of 0: the fourth check fails, and a record is owed at DONE. -/
theorem witness_refused : (∀ k, 1 ≤ k → k < 4 → Check sRefuse 0 tenantOn0 false 0 (packet0 0 0x50000) descSmall k) ∧
    ¬ Check sRefuse 0 tenantOn0 false 0 (packet0 0 0x50000) descSmall 4 := by
  refine ⟨fun k h1 h2 => ?_, fun h => ?_⟩
  · match k, h1, h2 with
    | 1, _, _ => exact check1.2
    | 2, _, _ => exact (check2 _).2
    | 3, _, _ => exact check3.2
  · simp only [Check] at h
    exact h.1 (by decide +kernel)
theorem done_at (s : State) (l : Launch) (h : Tables0 s) (hc : l.ctx = 0) (hd : l.doneAt = 0x50000)
    (hm : 0x40050020 ≤ s.mbase) : DoneAt s l 0x40050000 := by
  have e := walk_of s 0x50000 (by decide) (by decide) (by decide) h.2.2.2.2 h.2.1 h.2.2.1 h.2.2.2.1
  unfold DoneAt
  rw [hd, hc]
  refine ⟨by decide, by decide, by decide, cPaged, 0, 2, 0x4000060F, 0x3000, h.1, e, by decide, by decide, ?_, .inl hm,
    tables_apart _ _ _ _ (by decide) (by decide) (by decide) h.2.2.2.2 h.2.1 h.2.2.1 h.2.2.2.1 (by decide)⟩
  rw [walkXlate, show cPaged.root = 0x1000 from rfl, e]
  exact leaf_at s h.2.2.2.2 _ _ _ (by decide +kernel) (by decide +kernel) (by decide +kernel) (by decide)
theorem witness_refused_done : DoneAt sRefuse (newLaunch (packet0 0 0x50000) descSmall 0 sRefuse.nextId) 0x40050000 ∧ NoDirty sRefuse ∧ Quiet sRefuse :=
  ⟨done_at _ _ tables2 (by decide +kernel) (by decide +kernel) (by decide +kernel), noDirty_of _ coreOwn rfl rfl,
   fun _ h => (List.not_mem_nil h).elim, rfl, fun _ h => (List.not_mem_nil h).elim⟩
/-- The same packet in the fabric queue, from device 0. -/
abbrev tenantFab : Tenant := { tenantOn0 with fabric := [packet0 1 0] }
theorem witness_fabric_packet : PacketNext { sAccept with tenants := [(0, tenantFab)] } 0 tenantFab true (packet0 1 0) 1 :=
  ⟨rfl, by decide +kernel⟩

/-! ## The end of a launch (R334, R466) -/

abbrev teamOver : Team := { team0 with status := .retired }
/-- A launch of one team, over; its DONE is 0x50000. -/
abbrev launchDone : Launch := { launch0 with packet := packet0 1 0x50000 }
abbrev sOver (l : Launch) : State := { paged (world retired0 teamOver l cPaged) with cur := none }
theorem over_of (l : Launch) (h1 : l.ended = false) (h2 : l.teamTotal ≤ l.nextTeam) (h3 : l.restarts = []) (h4 : l.det = false) : LaunchDone (sOver l) 1 l := by
  refine ⟨rfl, h1, h2, h3, fun x hx _ => ?_, fun h => absurd (h4.symm.trans h) (by decide)⟩
  rw [show x = teamOver from List.mem_singleton.mp hx]
  refine ⟨rfl, fun gid hg => ?_⟩
  rw [List.mem_singleton.mp hg]; rfl
theorem witness_launch_end : LaunchDone (sOver launch0) 1 launch0 ∧ NoDirty (sOver launch0) ∧ Quiet (sOver launch0) ∧ launch0.darv = false ∧ launch0.doneAt = 0 :=
  ⟨over_of _ rfl (by decide +kernel) rfl (by decide +kernel), noDirty_of _ core0 rfl rfl,
   ⟨fun p hp => by rw [List.mem_singleton.mp hp]; exact ⟨by decide, rfl, fun h => absurd h (by decide)⟩, rfl,
    fun _ hp => (List.not_mem_nil hp).elim⟩, by decide +kernel, by decide +kernel⟩
theorem witness_launch_record : LaunchDone (sOver launchDone) 1 launchDone ∧ launchDone.darv = false ∧ DoneAt (sOver launchDone) launchDone 0x40050000 ∧
    StatusOf launchDone 0 0xFFFFFFFF ∧ launchDone.start < 2 ^ 64 :=
  ⟨over_of _ rfl (by decide +kernel) rfl (by decide +kernel), by decide +kernel,
   done_at _ _ ⟨rfl, by decide +kernel, by decide +kernel, by decide +kernel, by decide +kernel⟩ (by decide +kernel) (by decide +kernel) (by decide +kernel),
   ⟨rfl, rfl⟩, by decide⟩
theorem witness_status : StatusOf { launch0 with faulted := some 3 } 1 3 ∧ StatusOf { launch0 with killed := some 0 } 2 0 ∧
    StatusOf { launch0 with revoked := some 1, faulted := some 3 } 3 1 ∧ StatusOf { launch0 with unplaced := some 2 } 5 2 :=
  ⟨⟨rfl, rfl⟩, ⟨rfl, rfl⟩, ⟨rfl, rfl⟩, rfl, rfl⟩

/-! ## Teams are placed (R35, R36, R340, R341) -/

/-- A launch whose team is next, on a module with one core of the tenant's own. -/
abbrev launchNext : Launch := { newLaunch (packet0 1 0) descSmall 0 0 with nextTeam := 0 }
abbrev launchNextSolo : Launch := { launchNext with desc := BitVec.ofNat 512 (descSmall.toNat - 2 ^ 162) }
abbrev sPlace (l : Launch) : State := { sServe [] with launches := [(1, l)], nextId := 2 }
theorem next_of (l : Launch) (hc : l.ctx = 0) (h1 : (waitingUnits (sPlace l)).head? = some (.fresh 1)) (h2 : Covers l coreOwn)
    (h3 : 1 ≤ l.clusterSize) : NextIsFresh (sPlace l) 1 l 0 tenantOn0 := by
  refine ⟨rfl, h1, rfl, ?_, ⟨(0, coreOwn), by simp, h2, .inl ⟨.inl rfl, rfl⟩⟩, h3⟩
  simp only [launchTenant, hc]; rfl
/-- Nothing is staged on the core. -/
theorem no_packets (s : State) (c : Core) (h : s.cores = [(0, c)]) (hc : c.staging = []) : NoPacketsNow s := by
  intro core d hd p hp
  rw [h] at hd
  by_cases hk : 0 = core
  · rw [← hk] at hd
    rw [← Option.some.inj (hd : some c = some d), hc] at hp
    exact (List.not_mem_nil hp).elim
  · simp [Table.get?, hk] at hd
theorem witness_dispatch : NoPacketsNow (sPlace launchNextSolo) ∧ NextIsFresh (sPlace launchNextSolo) 1 launchNextSolo 0 tenantOn0 ∧ NoDirty (sPlace launchNextSolo) ∧
    launchNextSolo.cogrid = false ∧ (placeCluster (sPlace launchNextSolo) launchNextSolo 0 tenantOn0 launchNextSolo.groupCount).isSome = true ∧
    launchNextSolo.clusterSize = 1 ∧ (sPlace launchNextSolo).cores.sorted = true :=
  ⟨no_packets _ coreOwn rfl rfl, next_of _ (by decide +kernel) (by decide +kernel) ⟨rfl, by decide +kernel⟩ (by decide +kernel),
   noDirty_of _ coreOwn rfl rfl, by decide +kernel,
   by decide +kernel, by decide +kernel, by decide⟩
theorem witness_dispatch_grid : NextIsFresh (sPlace launchNext) 1 launchNext 0 tenantOn0 ∧ launchNext.cogrid = true ∧
    (dispatchAll 1 (launchNext.teamTotal / launchNext.clusterSize) (sPlace launchNext)).isSome = true :=
  ⟨next_of _ (by decide +kernel) (by decide +kernel) ⟨rfl, by decide +kernel⟩ (by decide +kernel), by decide +kernel, by decide +kernel⟩

/-! ## Eviction, resumption and the compactor (R40 to R42, R343, R345) -/

abbrev gBlocked : Group := { group0 with status := .blocked, wait := some (.arrival 1), header := none }
/-- A team that holds all the team memory of its tenant. -/
abbrev teamFull (st : TeamStatus) (n : Nat) : Team := { team0 with status := st, memBlocks := [(0, 64)], blockedSlices := n }
abbrev launchPrio : Launch := { newLaunch (packet0 1 (2 ^ 120)) descSmall 0 0 with nextTeam := 0 }
abbrev sEvict (st : TeamStatus) (n : Nat) (g : Group) : State :=
  { sServe [] with launches := [(1, launch0), (2, launchPrio)], teams := [(1, teamFull st n)], groups := [(1, g)], nextId := 3 }
theorem alone (st : TeamStatus) (n : Nat) (g : Group) : Alone (sEvict st n g) 1 (teamFull st n) launch0 := by
  refine ⟨rfl, rfl, by decide +kernel, rfl, fun p hp hne => ?_⟩
  rw [List.mem_singleton.mp hp] at hne
  exact absurd rfl hne
theorem evictable_blocked (n : Nat) : Evictable (sEvict .resident n gBlocked) (teamFull .resident n) launch0 := by
  refine ⟨rfl, ⟨cPaged, by rw [ctx0]; rfl, by decide, rfl, rfl⟩, ⟨1, List.mem_singleton.mpr rfl, gBlocked, rfl, (by decide : Status.blocked ≠ .retired)⟩, fun gid hg g h => ?_⟩
  rw [List.mem_singleton.mp hg] at h
  rw [← Option.some.inj (h : some gBlocked = some g)]
  exact .inr (.inl ⟨rfl, fun a => ⟨fun k => by simp, by simp⟩⟩)
theorem witness_evict_slices : Alone (sEvict .resident 4 gBlocked) 1 (teamFull .resident 4) launch0 ∧
    Evictable (sEvict .resident 4 gBlocked) (teamFull .resident 4) launch0 ∧ 4 ≤ (teamFull .resident 4).blockedSlices :=
  ⟨alone _ _ _, evictable_blocked _, by decide⟩
theorem witness_evict_priority : Evictable (sEvict .resident 0 gBlocked) (teamFull .resident 0) launch0 ∧
    (2, launchPrio) ∈ (sEvict .resident 0 gBlocked).launches ∧ (sEvict .resident 0 gBlocked).launches.sorted = true ∧
    launchPrio.tenant = launch0.tenant ∧ launch0.prio < launchPrio.prio ∧ .fresh 2 ∈ waitingUnits (sEvict .resident 0 gBlocked) ∧
    placeUnit (sEvict .resident 0 gBlocked) (.fresh 2) = none ∧ (placeUnit (teamsTo (sEvict .resident 0 gBlocked) [1] .evicted) (.fresh 2)).isSome = true :=
  ⟨evictable_blocked _, by simp, rfl, by decide +kernel, by decide +kernel, by decide +kernel,
   Option.isNone_iff_eq_none.mp (by decide +kernel), by decide +kernel⟩
theorem witness_save : Alone (sEvict .evicting 4 gBlocked) 1 (teamFull .evicting 4) launch0 ∧ NoDirty (sEvict .evicting 4 gBlocked) ∧
    ∀ gid ∈ (teamFull .evicting 4).groups, ∀ g, (sEvict .evicting 4 gBlocked).groups.get? gid = some g → GroupIdle (sEvict .evicting 4 gBlocked) gid g := by
  refine ⟨alone _ _ _, noDirty_of _ coreOwn rfl rfl, fun gid hg g h => ?_⟩
  rw [List.mem_singleton.mp hg] at h
  rw [← Option.some.inj (h : some gBlocked = some g)]
  exact ⟨by decide +kernel, rfl, fun _ hp => (List.not_mem_nil hp).elim, fun _ hp => (List.not_mem_nil hp).elim⟩
/-- The page of the save area is there; or, with a save area at 2 GiB, it is not. -/
theorem witness_save_area :
    let u : Issuer := ⟨1, gBlocked, teamFull .evicting 4, launch0, cPaged⟩
    issuerOf (sEvict .evicting 4 gBlocked) 1 = some u ∧ (teamFull .evicting 4).groups.Nodup ∧ gBlocked.status ≠ .retired ∧
    (∀ gid ∈ (teamFull .evicting 4).groups, gid ≠ 1 → False) ∧
    PageOpen (sEvict .evicting 4 gBlocked) cPaged kindWrite (savePlace u) (livePredicates gBlocked launch0.width).length (0x40000000 + savePlace u) := by
  refine ⟨issuer_of _ ⟨1, gBlocked, teamFull .evicting 4, launch0, cPaged⟩ 0 rfl rfl rfl ctx0 rfl, by decide, by decide,
    fun gid hg hne => hne (List.mem_singleton.mp hg), by decide +kernel, by decide +kernel, by decide +kernel,
    0, 2, 0x4000060F, 0x3000, by decide +kernel, by decide, by decide, by decide +kernel⟩
abbrev cFar : Context := { cPaged with save := 2 ^ 31 }
abbrev sFar : State := { sEvict .evicting 4 gBlocked with contexts := [(0, cFar)] }
theorem witness_save_nowhere (loc : Nat) :
    ¬ PageAt sFar 0 (savePlace ⟨1, gBlocked, teamFull .evicting 4, launch0, cFar⟩) kindWrite loc := by
  have e : (match walkXlate sFar 0x1000 (savePlace ⟨1, gBlocked, teamFull .evicting 4, launch0, cFar⟩) kindWrite with
    | .ok _ => true | _ => false) = false := by decide +kernel
  rintro ⟨c, k, b, hc, -, hx⟩
  have : cFar = c := Option.some.inj hc
  subst this
  rw [show cFar.root = 0x1000 from rfl] at hx
  rw [hx] at e
  cases e
/-- The group waits for a batch that is complete: batch 0 of a group that has closed none. -/
abbrev gSaved : Group := { group0 with status := .blocked, wait := some (.copyBatch 0), header := none, savedLive := some 0xFF }
abbrev launchSmall : Launch := { launch0 with desc := descSmall }
abbrev teamSaved : Team := { team0 with status := .evicted }
abbrev sResume : State :=
  { sServe [] with launches := [(1, launchSmall)], teams := [(1, teamSaved)], groups := [(1, gSaved)], nextId := 2 }
theorem witness_resume : Alone sResume 1 teamSaved launchSmall ∧ (waitingUnits sResume).head? = some (.resume 1 0) ∧
    launchTenant sResume launchSmall = some (0, tenantOn0) ∧ (∃ p ∈ sResume.cores, Covers launchSmall p.2 ∧ OpenTo launchSmall p.2 0) ∧
    (∃ p, placeCluster sResume launchSmall 0 tenantOn0 launchSmall.groupCount = some [p]) ∧ teamSaved.groups.length ≤ launchSmall.groupCount ∧
    NoDirty sResume ∧ NoPacketsNow sResume := by
  refine ⟨⟨rfl, rfl, by decide +kernel, rfl, fun p hp hne => ?_⟩, by decide +kernel, ?_, ⟨(0, coreOwn), by simp, ⟨rfl, by decide +kernel⟩, .inl ⟨.inl rfl, rfl⟩⟩,
    ?_, by decide +kernel, noDirty_of _ coreOwn rfl rfl, no_packets _ coreOwn rfl rfl⟩
  · rw [List.mem_singleton.mp hp] at hne
    exact absurd rfl hne
  · simp only [launchTenant, show launchSmall.ctx = 0 by decide +kernel]; rfl
  · have h : (bestPlace (places sResume launchSmall 0 tenantOn0 launchSmall.groupCount)).isSome = true := by decide +kernel
    obtain ⟨p, hp⟩ := Option.isSome_iff_exists.mp h
    exact ⟨p, by rw [placeCluster, if_pos (by decide +kernel), hp]; rfl⟩
/-- Four pages stand apart, so that no 16 of the 64 are free together. -/
abbrev teamSpread : Team := { team0 with memBlocks := [(8, 1), (24, 1), (40, 1), (56, 1)] }
abbrev launchBare : Launch := { launch0 with desc := BitVec.ofNat 512 (descSmall.toNat - 2 * 2 ^ 140) }
abbrev sCompact : State :=
  { sServe [] with launches := [(1, launchBare), (2, launchNextSolo)], teams := [(1, teamSpread)], groups := [(1, gBlocked)], nextId := 3
                   cores := [(0, { coreOwn with held := [(0, 16)] })] }
theorem witness_compact : ((waitingUnits sCompact).findSome? (compactFor sCompact 0 { coreOwn with held := [(0, 16)] })).isSome = true ∧
    sCompact.teams.sorted = true := ⟨by decide +kernel, rfl⟩

/-! ## Slices and lending (R346, R353, R467, R471) -/

/-- Two tenants hold bank groups on a shared core, each with a team there; the first has had its 250 µs. -/
abbrev coreShared (held : Table Nat) (issuing : Option Nat) : Core := { core0 with kind := .shared, held := held, issuing := issuing }
abbrev cLender : Context := { cPaged with tenant := 1 }
abbrev launchLender : Launch := { newLaunch (packet0 1 (2 ^ 224 + 2 ^ 232)) descSmall 0 0 with nextTeam := 0 }
abbrev team1 : Team := { team0 with launch := 2, groups := [] }
abbrev sSlice (held : Table Nat) (issuing : Option Nat) (now : Word64) : State :=
  { sP gBlocked with cores := [(0, coreShared held issuing)], tenants := [(0, tenantOn0), (1, tenantOn0)], ticks := now
                     contexts := [(0, cPaged), (1, cLender)], launches := [(1, launch0), (2, launchLender)], teams := [(1, team0), (2, team1)] }
abbrev held2 : Table Nat := [(0, 16), (1, 17)]
theorem holders_both : holders (sSlice held2 (some 0) 250000) 0 (coreShared held2 (some 0)) = [0, 1] := by decide +kernel
theorem holders_other : holders (sSlice [(1, 17)] (some 0) 0) 0 (coreShared [(1, 17)] (some 0)) = [1] := by decide +kernel
theorem witness_slice : (sSlice held2 (some 0) 250000).cores.get? 0 = some (coreShared held2 (some 0)) ∧
    (coreShared held2 (some 0)).issuing = some 0 ∧ (coreShared held2 (some 0)).held.sorted = true ∧
    (∃ k ∈ holders (sSlice held2 (some 0) 250000) 0 (coreShared held2 (some 0)), k ≠ 0) ∧
    0 + sliceOf (sSlice held2 (some 0) 250000) 0 ≤ (sSlice held2 (some 0) 250000).ticks.toNat ∧
    NextTenant (holders (sSlice held2 (some 0) 250000) 0 (coreShared held2 (some 0))) 0 1 ∧
    debtNow (sSlice held2 (some 0) 250000) 0 (coreShared held2 (some 0)) 1 < sliceOf (sSlice held2 (some 0) 250000) 1 := by
  rw [holders_both]
  exact ⟨rfl, rfl, rfl, ⟨1, by decide, by decide⟩, by decide +kernel,
    ⟨by decide, .inl ⟨by decide, (by decide : ∀ k ∈ [0, 1], 0 < k → 1 ≤ k)⟩⟩, by decide +kernel⟩
/-- A slice ends early where the tenant has nothing ready, or holds nothing there any more. -/
theorem witness_slice_early : anyReady (sSlice held2 (some 0) 0) 0 0 = false ∧
    0 ∉ holders (sSlice [(1, 17)] (some 0) 0) 0 (coreShared [(1, 17)] (some 0)) ∧
    NextTenant (holders (sSlice [(1, 17)] (some 0) 0) 0 (coreShared [(1, 17)] (some 0))) 0 1 := by
  rw [holders_other]
  exact ⟨by decide +kernel, by decide, by decide, .inl ⟨by decide, (by decide : ∀ k ∈ [1], 0 < k → 1 ≤ k)⟩⟩
theorem witness_slice_alone : holders (sSlice [(0, 16)] (some 0) 250000) 0 (coreShared [(0, 16)] (some 0)) = [0] ∧
    0 + sliceOf (sSlice [(0, 16)] (some 0) 250000) 0 ≤ (sSlice [(0, 16)] (some 0) 250000).ticks.toNat :=
  ⟨by decide +kernel, by decide +kernel⟩
theorem witness_slice_none : holders (sSlice [] (some 0) 0) 0 (coreShared [] (some 0)) = [] ∧ (coreShared [] (some 0)).issuing ≠ none ∧
    (holders (sSlice held2 none 0) 0 (coreShared held2 none)).head? = some 0 ∧ (coreShared held2 none).issuing = none :=
  ⟨by decide +kernel, by decide, by decide +kernel, rfl⟩
/-- Core 0 is a margin core of tenant 1, which has a launch to place; tenant 0 borrows it. -/
abbrev coreLent (by_ : Option Nat) : Core := { core0 with kind := .margin, owner := 1, returnBy := by_ }
/-- IDEM, and no COGRID. -/
abbrev launchIdem : Launch := { launch0 with desc := BitVec.ofNat 512 (descSmall.toNat - 2 ^ 162 + 2 ^ 161) }
abbrev sLent (l : Launch) (by_ : Option Nat) : State :=
  { sServe [] with cores := [(0, coreLent by_)], contexts := [(0, cPaged), (1, cLender)], tenants := [(0, tenantOn0), (1, tenantOn0)]
                   launches := [(1, l), (2, launchLender)], teams := [(1, team0)], groups := [(1, gBlocked)], nextId := 3 }
theorem witness_revocation : (sLent launch0 none).cores.get? 0 = some (coreLent none) ∧ borrowed (sLent launch0 none) 0 1 ≠ [] ∧
    lenderNeeds (sLent launch0 none) 0 1 = true ∧ flushable ((sLent launch0 none).setCore 0 (coreLent (some 200000))) 0 1 = [] :=
  ⟨rfl, by decide +kernel, by decide +kernel, by decide +kernel⟩
theorem lentIs (l : Launch) (by_ : Option Nat) (h : l.ctx = 0) : ∀ gid ∈ team0.groups, ∃ u, issuerOf (sLent l by_) gid = some u ∧ u.g.team = 1 := by
  intro gid hg
  rw [List.mem_singleton.mp hg]
  exact ⟨⟨1, gBlocked, team0, l, cPaged⟩, issuer_of _ ⟨1, gBlocked, team0, l, cPaged⟩ 0 rfl rfl rfl h rfl, rfl⟩
theorem witness_flush : lenderNeeds (sLent launchIdem none) 0 1 = true ∧ borrowed (sLent launchIdem none) 0 1 ≠ [] ∧
    (∀ gid ∈ team0.groups, ∃ u, issuerOf (sLent launchIdem none) gid = some u ∧ u.g.team = 1) ∧
    flushable ((sLent launchIdem none).setCore 0 (coreLent (some 200000))) 0 1 = [(1, clusterOf launchIdem team0, [1])] :=
  ⟨by decide +kernel, by decide +kernel, lentIs _ _ (by decide +kernel), by decide +kernel⟩
theorem witness_deadline : (coreLent (some 0)).returnBy = some 0 ∧ 0 ≤ (sLent launch0 (some 0)).ticks.toNat ∧
    1 ∈ borrowed (sLent launch0 (some 0)) 0 1 ∧ ∀ gid ∈ team0.groups, ∃ u, issuerOf (sLent launch0 (some 0)) gid = some u ∧ u.g.team = 1 :=
  ⟨rfl, Nat.zero_le _, by decide +kernel, lentIs _ _ ctx0⟩

end Sys2Proof.Tests
end

