-- ==== Sys2Proof/Tests/WitnessCommands.lean ====
section
/-!
SUPPORT. Witnesses for the statements about the management mailbox.
-/

namespace Sys2Proof.Tests

set_option Elab.async false

open Sys2Proof Sys2Proof.Machine Sys2Proof.Claims

/-! ## Commands that are allowed (R397 to R400) -/

/-- A command is under way. -/
abbrev under (s : State) (op : BitVec 16) (ps : List Word) : State :=
  { s with mailbox := { s.mailbox with busy := true, current := some (op, 7, ps) } }
/-- An instruction whose command has its effect. -/
def Ready0 (i : Instr) (s : State) (op : BitVec 16) (ps : List Word) : Prop :=
  s.fwstate = 0 ∧ ∃ c, commandOf (under s op ps) ps i = some c ∧ Under (under s op ps) c.op 7 ps ∧ ps.length = c.words ∧ c.good ∧ c.allowed
theorem allowed0 {o w : Nat} {g : Prop} {e : State → Prop} : Command.allowed ⟨o, w, g, [], e⟩ := fun _ hq => (List.not_mem_nil hq).elim
theorem allowed1 {o w : Nat} {g : Prop} {a : Nat × Prop} {e : State → Prop} (h : ¬ a.2) : Command.allowed ⟨o, w, g, [a], e⟩ :=
  fun _ hq => (List.mem_singleton.mp hq) ▸ h
theorem allowed2 {o w : Nat} {g : Prop} {a b : Nat × Prop} {e : State → Prop} (h : ¬ a.2) (k : ¬ b.2) : Command.allowed ⟨o, w, g, [a, b], e⟩ := by
  intro q hq
  rcases List.mem_cons.mp hq with rfl | hq
  · exact h
  · exact (List.mem_singleton.mp hq) ▸ k
theorem allowed3 {o w : Nat} {g : Prop} {a b c : Nat × Prop} {e : State → Prop} (h : ¬ a.2) (k : ¬ b.2) (l : ¬ c.2) :
    Command.allowed ⟨o, w, g, [a, b, c], e⟩ := by
  intro q hq
  rcases List.mem_cons.mp hq with rfl | hq
  · exact h
  · exact allowed2 (o := o) (w := w) (g := g) (e := e) k l q hq
theorem enabled0 (s : State) (n : Nat) (h : s.tenants.get? n = some tenantOn0) : ¬ (disabled s n).2 :=
  fun k => absurd (k tenantOn0 h) (by decide +kernel)
/-- A module with one context, of an enabled tenant. -/
abbrev sBox (c : Context) : State := { world group0 team0 launch0 c with cur := none, tenants := [(0, tenantOn0)] }
/-- Context 1 of tenant 0: race mode 2, debuggable, its root at 0x1000, a save area at 0x10000 of 2^20 bytes. -/
theorem witness_ctxcreate : Ready0 .ctxcreate (sBox context0) 0x01 [0x60001, 0x1000, 0, 0x10000, 0, 20, 0, 0, 0, 0] :=
  ⟨rfl, _, rfl, ⟨_, rfl, rfl, rfl⟩, rfl, by simp only [createCommand]; decide +kernel, allowed2 (fun h => absurd rfl h) (enabled0 _ _ rfl)⟩
/-- The reset entry of tenant 5. -/
abbrev entryWords : List Word := [5, 0, 0, 4, 0, 0, 0, 0, 0x01000000, 0x000100FA, 0, 0, 0, 0, 0, 0, 0]
theorem witness_tenantset : Ready0 .tenantset { sBox context0 with tenants := [(5, Tenant.reset)] } 0x03 entryWords := by
  refine ⟨rfl, _, rfl, ⟨_, rfl, rfl, rfl⟩, rfl, ⟨by decide, fun e he => ?_⟩, allowed0⟩
  have : e = tenantEntryReset := by
    apply BitVec.eq_of_getLsbD_eq
    intro i hi
    have key : ∀ k, k < 16 → tenantEntryReset.extractLsb' (32 * k) 32 = word32 entryWords (1 + k) := by decide +kernel
    have h := congrArg (fun w => w.getLsbD (i % 32)) ((he (i / 32) (by omega)).trans (key (i / 32) (by omega)).symm)
    simp only [BitVec.getLsbD_extractLsb', show 32 * (i / 32) + i % 32 = i by omega, show i % 32 < 32 by omega, decide_true, Bool.true_and] at h
    exact h
  rw [this]
  unfold EntryGood
  decide +kernel
theorem witness_errset : Ready0 .errset (sBox context0) 0x04 [0, 0x1000, 0, 6] ∧ Ready0 .errset (sBox context0) 0x04 [0xFF, 0x1000, 0, 16] :=
  ⟨⟨rfl, _, rfl, ⟨_, rfl, rfl, rfl⟩, rfl, by simp only [ringCommand]; decide +kernel, allowed0⟩, rfl, _, rfl, ⟨_, rfl, rfl, rfl⟩, rfl, by simp only [ringCommand]; decide +kernel, allowed0⟩
theorem witness_partition : Ready0 .partition { sBox context0 with cores := [(3, Core.reset)] } 0x05 [2, 4, 0, 1] := by
  refine ⟨rfl, _, rfl, ⟨_, rfl, rfl, rfl⟩, rfl, by simp only [partitionCommand]; decide +kernel, allowed2 ?_ fun h => enabled0 _ _ rfl h.2⟩
  rintro ⟨k, h1, h2, x, hx, -⟩
  have h1 : 2 ≤ k := h1
  have hm := List.mem_of_mem_filter hx
  rw [show x = team0 from List.mem_singleton.mp hm] at hx
  have := (List.mem_filter.mp hx).2
  simp only [Bool.and_eq_true, decide_eq_true_eq] at this
  have : (0 : Nat) = k := this.1
  omega
theorem witness_replay : Ready0 .replay { sBox context0 with faults := [(1, fault0)], walks := [(7, { walkAt (2 ^ 30) with waiting := some 1 })] } 0x07 [0, 1] :=
  ⟨rfl, _, rfl, ⟨_, rfl, rfl, rfl⟩, rfl, by simp only [replayCommand]; decide +kernel, allowed1 fun h => absurd (h fault0 rfl) (by decide)⟩
theorem witness_devset : Ready0 .devset State.reset 0x08 [4095] :=
  ⟨rfl, _, rfl, ⟨_, rfl, rfl, rfl⟩, rfl, by simp only [deviceCommand]; decide +kernel, allowed1 fun h => absurd rfl h⟩
theorem alive (s : State) (c : Context) (h : s.contexts.get? 0 = some c) : ¬ (dead s 0).2 := by
  intro k
  rw [show s.contexts.get? 0 = none from k] at h
  exact absurd h (by simp)
theorem witness_podbind : Ready0 .podbind (sBox context0) 0x09 [0, 9] := by
  refine ⟨rfl, _, rfl, ⟨_, rfl, rfl, rfl⟩, rfl, by simp only [bindCommand]; decide +kernel, allowed2 ?_ (alive _ context0 rfl)⟩
  rintro ⟨-, p, hp, hne, -⟩
  rw [List.mem_singleton.mp hp] at hne
  exact absurd rfl hne
theorem witness_bardomain : Ready0 .bardomain (sBox context0) 0x0A [0, 3, 4096] :=
  ⟨rfl, _, rfl, ⟨_, rfl, rfl, rfl⟩, rfl, by simp only [domainCommand]; decide +kernel, allowed1 (alive _ context0 rfl)⟩
/-- A communicator of two ranks: the table of host memory names devices 0 and 1, once each. -/
abbrev sTable : State := { sBox context0 with mem := [(2 ^ 54 + 0x1008, 1)] }
theorem witness_commcreate : Ready0 .commcreate sTable 0x0B [0, 8, 2, 0x1000, 0] := by
  have e : ∀ r, r < 2 → rankEntry (under sTable 0x0B [0, 8, 2, 0x1000, 0]) 0x1000 r / 4096 % 2 ^ 20 = 0 ∧
      ((List.range 2).filter fun j => rankEntry (under sTable 0x0B [0, 8, 2, 0x1000, 0]) 0x1000 j % 4096 =
        rankEntry (under sTable 0x0B [0, 8, 2, 0x1000, 0]) 0x1000 r % 4096).length = 1 := by decide +kernel
  refine ⟨rfl, _, rfl, ⟨_, rfl, rfl, rfl⟩, rfl, ⟨by decide, by decide, by decide, by decide, fun r hr => ⟨(e r hr).1, .inl (e r hr).2⟩⟩,
    allowed2 (alive _ context0 rfl) ?_⟩
  rintro ⟨c, hc, hn⟩
  rw [← Option.some.inj (show some context0 = some c from hc)] at hn
  exact hn rfl
theorem debuggable (s : State) (c : Context) (h : s.contexts.get? 0 = some c) (hd : c.dbg = true) :
    ¬ ∃ y, s.contexts.get? 0 = some y ∧ y.dbg = false := by
  rintro ⟨y, hy, hn⟩
  rw [← Option.some.inj (h.symm.trans hy), hd] at hn
  cases hn
theorem witness_demote : Ready0 .demote (sBox context0) 0x10 [0] :=
  ⟨rfl, _, rfl, ⟨_, rfl, rfl, rfl⟩, rfl, by simp only [demoteCommand]; decide +kernel, allowed2 (debuggable _ context0 rfl rfl) (alive _ context0 rfl)⟩
theorem demoted (s : State) (c : Context) (h : s.contexts.get? 0 = some c) (hd : c.stage = .demoted) : ¬ (undemoted s 0).2 := by
  rintro ⟨y, hy, hn⟩
  rw [← Option.some.inj (h.symm.trans hy)] at hn
  exact hn hd
theorem not_parallel (s : State) (c : Context) (h : s.contexts.get? 0 = some c) (hd : c.stage = .demoted) :
    ¬ ∃ y, s.contexts.get? 0 = some y ∧ y.stage = .parallel := by
  rintro ⟨y, hy, hn⟩
  rw [← Option.some.inj (h.symm.trans hy), hd] at hn
  cases hn
theorem witness_step : Ready0 .step (sBox (cCalm false 0)) 0x11 [0, 5] :=
  ⟨rfl, _, rfl, ⟨_, rfl, rfl, rfl⟩, rfl, by simp only [stepCommand]; decide +kernel, allowed2 (demoted _ (cCalm false 0) rfl rfl) (alive _ (cCalm false 0) rfl)⟩
theorem witness_run : Ready0 .run (sBox (cCalm false 0)) 0x12 [0] ∧ Ready0 .pause (sBox (cCalm true 0)) 0x13 [0] :=
  ⟨⟨rfl, _, rfl, ⟨_, rfl, rfl, rfl⟩, rfl, by simp only [runCommand]; decide +kernel, allowed2 (demoted _ (cCalm false 0) rfl rfl) (alive _ (cCalm false 0) rfl)⟩,
   rfl, _, rfl, ⟨_, rfl, rfl, rfl⟩, rfl, by simp only [runCommand]; decide +kernel, allowed2 (demoted _ (cCalm true 0) rfl rfl) (alive _ (cCalm true 0) rfl)⟩
theorem witness_promote : Ready0 .promote (sBox (cCalm false 0)) 0x14 [0] :=
  ⟨rfl, _, rfl, ⟨_, rfl, rfl, rfl⟩, rfl, by simp only [promoteCommand]; decide +kernel,
   allowed2 (not_parallel _ (cCalm false 0) rfl rfl) (alive _ (cCalm false 0) rfl)⟩

/-! ## Commands that are not (R399) -/

/-- A bad parameter: BARDOMAIN of one device; and DEVSET with two words. -/
theorem witness_bad : Under (under (sBox context0) 0x0A [0, 3, 1]) 0x0A 7 [0, 3, 1] ∧ ¬ (domainCommand (under (sBox context0) 0x0A [0, 3, 1]) [0, 3, 1]).good ∧
    [(1 : Word), 2].length ≠ (deviceCommand State.reset [1, 2]).words :=
  ⟨⟨_, rfl, rfl, rfl⟩, fun h => absurd h.2.2.1 (by decide), by decide⟩
/-- DEVSET while a context lives: reason 5. STEP of a context that runs in parallel: reason 2. -/
theorem witness_refused_command : (deviceCommand (under (sBox context0) 0x08 [1]) [1]).good ∧
    (deviceCommand (under (sBox context0) 0x08 [1]) [1]).refusedWith 5 ∧ (stepCommand (under (sBox context0) 0x11 [0, 1]) [0, 1]).good ∧
    (stepCommand (under (sBox context0) 0x11 [0, 1]) [0, 1]).refusedWith 2 := by
  refine ⟨by simp only [deviceCommand]; decide +kernel, ⟨⟨(5, _), .head _, rfl, List.cons_ne_nil (0, context0) []⟩, fun q hq hp => ?_⟩, by simp only [stepCommand]; decide +kernel, ⟨⟨(2, _), .head _, rfl, ?_⟩, fun q hq hp => ?_⟩⟩
  · rw [List.mem_singleton.mp hq]
  · exact ⟨context0, rfl, by decide⟩
  · rcases List.mem_cons.mp hq with rfl | hq
    · decide
    · rw [List.mem_singleton.mp hq]; decide
/-- In recovery. -/
theorem witness_recovery : commandOf { under (sBox context0) 0x08 [1] with fwstate := 1 } [1] .devset ≠ none ∧
    Under { under (sBox context0) 0x08 [1] with fwstate := 1 } 0x08 7 [1] := ⟨nofun, _, rfl, rfl, rfl⟩

/-! ## Longer commands (R401, R412, R413, R172, R481) -/

theorem witness_summary : Under (under (sBox context0) 0x20 []) 0x20 7 [] ∧ SummaryFits (under (sBox context0) 0x20 []) :=
  ⟨⟨_, rfl, rfl, rfl⟩, by decide, by decide, by decide +kernel, by decide, by decide, by decide, by decide, by decide +kernel⟩
abbrev nonce : List Word := [0, 1, 2, 3, 4, 5, 6, 7, 8, 9, 10, 11, 12]
theorem witness_attest : Under (under (sBox context0) 0x21 nonce) 0x21 7 nonce ∧ nonce.length = 13 ∧ (under (sBox context0) 0x21 nonce).fwstate ≠ 1 ∧
    (under (sBox context0) 0x21 nonce).contexts.get? (word32 nonce 0).toNat = some context0 := ⟨⟨_, rfl, rfl, rfl⟩, rfl, (by decide : (0 : Nat) ≠ 1), rfl⟩
theorem witness_idcert : Under (under (sBox context0) 0x22 []) 0x22 7 [] := ⟨_, rfl, rfl, rfl⟩
/-- The first MiB of context 0; nothing is in flight. -/
abbrev range0 : List Word := [0, 0, 0, 0x100000, 0]
abbrev sInval (draining : Bool) : State :=
  let s := under { sBox cPaged with cores := [(0, core0)] } 0x06 range0
  { s with mailbox := { s.mailbox with draining := draining } }
theorem witness_inval : Under (sInval false) 0x06 7 range0 ∧ (sInval false).contexts.get? (word32 range0 0).toNat ≠ none ∧
    (sInval true).mailbox.current = some (0x06, 7, range0) ∧ (sInval true).mailbox.draining = true ∧
    rangeInUse (sInval true) (word32 range0 0).toNat (word64 range0 1).toNat (word64 range0 3).toNat = false ∧ (sInval true).groups.sorted = true :=
  ⟨⟨_, rfl, rfl, rfl⟩, fun h => alive (sInval false) cPaged rfl h, rfl, rfl, by decide +kernel, rfl⟩
/-- A context whose group has nothing in flight, and one whose group has a store in flight. -/
abbrev sDestroy (busy : Bool) : State :=
  { under (sBox context0) 0x02 [0] with accesses := if busy then [(5, access0 .store .g (.phys 0x40 0 false) 4 false)] else [], nextId := 6 }
theorem witness_ctxdestroy : Under (sDestroy false) 0x02 7 [0] ∧ (sDestroy false).contexts.get? 0 = some context0 ∧ context0.destroying = false ∧
    (sDestroy false).contexts.sorted = true ∧ (sDestroy false).launches.sorted = true ∧ contextBusy (beginDestroy (sDestroy false) 0) 0 = false ∧
    contextBusy (beginDestroy (sDestroy true) 0) 0 = true :=
  ⟨⟨_, rfl, rfl, rfl⟩, rfl, rfl, rfl, rfl, by decide +kernel, by decide +kernel⟩
/-- An image of two bytes at the start of host memory, without a context and with one. It verifies or it does not. -/
theorem witness_fwload : Under (under State.reset 0x30 [0, 0, 2]) 0x30 7 [0, 0, 2] ∧
    (∀ k, k < [(0 : Byte), 0].length → [(0 : Byte), 0].getD k 0 = Memory.byte (under State.reset 0x30 [0, 0, 2]).mem (hostBase + 0 + k)) ∧
    (State.reset.fwstate ≠ 0 ∨ State.reset.contexts = []) ∧ ((sBox context0).fwstate = 0 ∧ (sBox context0).contexts ≠ []) ∧
    (Sys2Proof.imageVerifies [0, 0] = true ∨ Sys2Proof.imageVerifies [0, 0] = false) := by
  refine ⟨⟨_, rfl, rfl, rfl⟩, by decide +kernel, .inr rfl, ⟨rfl, List.cons_ne_nil (0, context0) []⟩, ?_⟩
  cases Sys2Proof.imageVerifies [0, 0] <;> simp

end Sys2Proof.Tests
end

