-- ==== Sys2Proof/Tests/WitnessFloats.lean ====
section
/-!
SUPPORT. Witnesses for the statements about floating-point values, and about operands that do not fit.
-/

namespace Sys2Proof.Tests

set_option Elab.async false

open Sys2Proof Sys2Proof.Machine Sys2Proof.Claims

/-- The codes of 1 and of 9.5, and of -1. -/
theorem real_one : IsReal f32Fmt 0x3F800000 1 := by
  have h : val f32Fmt 0x3F800000 = .fin false 8388608 (-23) := by decide +kernel
  refine ⟨by decide +kernel, by rw [h]; rfl, ?_⟩
  rw [h]; norm_num [realOf]
theorem real_large : IsReal f32Fmt 0x41180000 9.5 := by
  have h : val f32Fmt 0x41180000 = .fin false 9961472 (-20) := by decide +kernel
  refine ⟨by decide +kernel, by rw [h]; rfl, ?_⟩
  rw [h]; norm_num [realOf]

/-- FloatRounds: every one of its conditions at once. -/
theorem witness_rounds : f32Fmt ∈ arithmeticFormats ∧ IsReal f32Fmt 0x3F800000 1 ∧ IsReal f32Fmt 0x41180000 9.5 ∧
    (1 : ℝ) + 9.5 ≠ 0 ∧ (1 : ℝ) - 9.5 ≠ 0 ∧ (1 : ℝ) * 9.5 ≠ 0 ∧ (1 : ℝ) * 9.5 + 1 ≠ 0 ∧ (9.5 : ℝ) ≠ 0 ∧ (0 : ℝ) < 1 :=
  ⟨by simp [arithmeticFormats], real_one, real_large, by norm_num, by norm_num, by norm_num, by norm_num, by norm_num, by norm_num⟩

/-- SpecialFunctionValues: an integer, a power of two, and a value past the bound of tanh. -/
theorem witness_special_functions : f32Fmt ∈ [f32Fmt, f16Fmt] ∧ IsReal f32Fmt 0x3F800000 1 ∧ (1 : ℝ) = (1 : ℤ) ∧
    IsReal f32Fmt 0x41180000 9.5 ∧ (9.1 : ℝ) ≤ |9.5| ∧ tableValue f32Fmt .rcp (val f32Fmt 0) = some (0x7F800000, flagDZ) :=
  ⟨by simp, real_one, by norm_num, real_large, by rw [abs_of_pos (by norm_num)]; norm_num, by decide +kernel⟩
theorem witness_power_of_two : IsReal f32Fmt 0x40800000 4 ∧ (4 : ℝ) = (2 : ℝ) ^ (2 : ℤ) ∧ (2 : ℤ) ≠ 0 := by
  have h : val f32Fmt 0x40800000 = .fin false 8388608 (-21) := by decide +kernel
  refine ⟨⟨by decide +kernel, by rw [h]; rfl, ?_⟩, by norm_num, by norm_num⟩
  rw [h]; norm_num [realOf]

/-- FloatSpecials and FloatOrder: a NaN, infinities and zeros are codes. -/
theorem witness_specials : (val f32Fmt 0x7FC00000).isNaN = true ∧ val f32Fmt 0x7F800000 = .inf false ∧ val f32Fmt 0x80000000 = .zero true ∧
    0x80000000 < 2 ^ f32Fmt.width := by decide +kernel

/-- ConversionsRound: integers that are not 0, and values. -/
theorem witness_conversion_values : intValue 32 true 5 ≠ 0 ∧ (5 : Nat) < 2 ^ 32 ∧ f32Fmt ∈ roundingFormats ∧ (0 : Nat) < 1 :=
  ⟨by decide +kernel, by norm_num, by simp [roundingFormats, arithmeticFormats], by norm_num⟩

/-! ## Operands that do not fit (OperandFaults) -/

/-- v1535 as a pair is odd; v1536 is out of range for a launch of fewer registers; s2 in flight; a poisoned s2; a void latch. -/
abbrev gBad : Group := { group0 with sPending := [(3, true)], sPoison := [(2, true)], vPending := [(128 * 5 + 7, true)] }
abbrev uBad : Issuer := user gBad team0 launch0 context0
theorem issuingBad : Issuing (world gBad team0 launch0 context0) uBad := issuing _ _ _ _ rfl rfl ctx0

theorem witness_odd_pair : Misfits uBad 0 (src64 fieldA 1535) 3 ∧ ¬ ReadsPoison uBad 0 (src64 fieldA 1535) := by
  have h : operandOf (src64 fieldA 1535).code = .v 1535 := by decide
  have hn : ∀ k, k < 2 → uBad.g.vBad (1535 + k) 0 = false := by decide +kernel
  constructor
  · simp only [Misfits, h, FileMisfit]
    exact .inr (.inl ⟨by decide +kernel, by decide +kernel, trivial⟩)
  · simp only [ReadsPoison, h]
    rintro ⟨-, k, hk, hb⟩
    exact absurd hb (by rw [hn k hk]; simp)
theorem witness_in_flight_operand : Misfits uBad 7 (src fieldA 5) 4 := by
  have h : operandOf (src fieldA 5).code = .v 5 := by decide
  simp only [Misfits, h, FileMisfit]
  exact .inr (.inr ⟨by decide +kernel, by decide +kernel, ⟨0, by decide, by decide +kernel⟩, trivial⟩)
theorem witness_void_latch : Misfits uBad 0 (src fieldA 0x603) 5 := by
  have h : operandOf (src fieldA 0x603).code = .latch 3 := by decide
  simp only [Misfits, h, LatchMisfit]
  exact .inl ⟨rfl, by decide⟩
theorem witness_poison : ReadsPoison uBad 0 (src fieldA 0x702) := by
  have h : operandOf (src fieldA 0x702).code = .s 2 := by decide
  simp only [ReadsPoison, h]
  exact ⟨rfl, 0, by decide, by decide +kernel⟩
/-- Refuses: a scalar-marked add of the poisoned s2, and of the pending s3. -/
theorem witness_refuses : ∃ k, arithmetic (.add .w32 ⟨0xFF, true, false, 0x705, 0x703, 0x704, 0⟩) = some k ∧
    (Instr.add .w32 ⟨0xFF, true, false, 0x705, 0x703, 0x704, 0⟩).WellFormed = true ∧ Issuing (world gBad team0 launch0 context0) uBad ∧
    k.form.sc = true ∧ k.form.uses = [dst 0x705] ++ src fieldA 0x703 :: [src fieldB 0x704] ∧ Fits uBad 0 (dst 0x705) ∧
    Misfits uBad 0 (src fieldA 0x703) 4 := by
  refine ⟨_, rfl, by decide, issuingBad, rfl, rfl, fits_of (by decide +kernel), ?_⟩
  have h : operandOf (src fieldA 0x703).code = .s 3 := by decide
  simp only [Misfits, h, FileMisfit]
  exact .inr (.inr ⟨by decide +kernel, by decide +kernel, ⟨0, by decide, by decide +kernel⟩, trivial⟩)

end Sys2Proof.Tests
end

