-- ==== Sys2Proof/Tests/WitnessOrdering.lean ====
section
/-!
SUPPORT. Consistent executions of the programs of spec/07's catalogue, and of the decoding of orders.
-/

namespace Sys2Proof.Tests.WitnessOrdering

set_option Elab.async false

open Sys2Proof.Ordering Sys2Proof.Litmus

/-- The writes of each word in order, and what each load takes each word from. -/
def run (p : Program) (co : List (List Location × List Nat)) (taken : List (Nat × List Location × Nat)) (fences : List Nat) : Execution :=
  { program := p
    co := fun b => ((co.find? fun e => b ∈ e.1).map (·.2)).getD []
    source := fun r b => (taken.find? fun e => e.1 == r && b ∈ e.2.1).map (·.2.2)
    fences := fences }

/-- The events happened one after the other, in the order of their places in l. -/
def inTurn (l : List Nat) (x : Execution) : Bool :=
  x.checks (fun i j => l.idxOf i < l.idxOf j) (fun _ i => l.idxOf i) (fun i => l.idxOf i) (fun i => l.idxOf i)

theorem consistent_inTurn {l : List Nat} {x : Execution} (h : inTurn l x = true) : Consistent x := consistent_of_checks h

/-- Message passing in which Q sees the flag and the data. -/
def passed : Execution :=
  run (messagePassing farAway (storeRel groupP 1 .device wordY) (loadAcq farAway 0 .device wordY)) [(wordX, [0]), (wordY, [1])]
    [(2, wordY, 1), (3, wordX, 0)] []

theorem passed_consistent : Consistent passed := consistent_inTurn (l := [0, 1, 2, 3]) (by decide +kernel)

theorem passed_ordered : passed.hb 0 3 :=
  .tail (.tail (.single (show passed.hbEdge 0 1 = true by decide +kernel)) (show passed.hbEdge 1 2 = true by decide +kernel))
    (show passed.hbEdge 2 3 = true by decide +kernel)

/-- A write that happens before a read of its byte. -/
theorem witness_latest : Consistent passed ∧ passed.hb 0 3 ∧ passed.writesAt (.global 0x1000) 0 = true ∧
    passed.readsAt (.global 0x1000) 3 = true := ⟨passed_consistent, passed_ordered, by decide +kernel, by decide +kernel⟩

/-- Two writes of a byte in program order. -/
theorem witness_ownOrder :
    let x := run readsOfOne [(wordX, [0, 1])] [(2, wordX, 1), (3, wordX, 1)] []
    Consistent x ∧ x.po 0 1 = true ∧ x.writesAt (.global 0x1000) 0 = true ∧ x.writesAt (.global 0x1000) 1 = true :=
  ⟨consistent_inTurn (l := [0, 1, 2, 3]) (by decide +kernel), by decide +kernel, by decide +kernel, by decide +kernel⟩

/-- An execution without a race, in which a read takes another agent's plain write. -/
theorem witness_raceFree : Consistent passed ∧ (∀ i j, ¬ Race passed i j) ∧ passed.rfAt (.global 0x1000) 0 3 = true ∧
    passed.two (fun e f => e.agent != f.agent && !strong e f) 0 3 = true := by
  refine ⟨passed_consistent, ?_, by decide +kernel, by decide +kernel⟩
  rintro i j ⟨h, h1, h2⟩
  have b := two_bound h
  have : (i = 0 ∧ j = 3) ∨ (i = 3 ∧ j = 0) := by
    have key : ∀ i ∈ passed.names, ∀ j ∈ passed.names,
        passed.two (fun e f => conflict e f && e.agent != f.agent && !strong e f) i j = true → (i = 0 ∧ j = 3) ∨ (i = 3 ∧ j = 0) := by
      decide +kernel
    exact key i b.1 j b.2 h
  rcases this with ⟨rfl, rfl⟩ | ⟨rfl, rfl⟩
  · exact h1 passed_ordered
  · exact h2 passed_ordered

/-- The programs whose outcomes are forbidden have executions. -/
theorem witness_scoped : Consistent (run (scopedPassing sameTeam .team .team) [(wordX, [0]), (wordY, [1])] [(2, wordY, 1), (3, wordX, 0)] []) :=
  consistent_inTurn (l := [0, 1, 2, 3]) (by decide +kernel)

theorem witness_scopedCluster :
    Consistent (run (scopedPassing sameCluster .cluster .cluster) [(wordX, [0]), (wordY, [1])] [(2, wordY, 1), (3, wordX, 0)] []) :=
  consistent_inTurn (l := [0, 1, 2, 3]) (by decide +kernel)

theorem witness_promotion :
    Consistent (run (promotion true) [(wordX, [0]), (word 0x3000, [1]), (wordY, [3])] [(2, word 0x3000, 1), (4, wordY, 3), (5, wordX, 0)] []) :=
  consistent_inTurn (l := [0, 1, 2, 3, 4, 5]) (by decide +kernel)

theorem witness_storeBuffering :
    Consistent (run (storeBuffering fun a => some (fenceOf a 1 true true .device)) [(wordX, [0]), (wordY, [1])] [(3, wordX, 0)] [4, 5]) :=
  consistent_inTurn (l := [0, 4, 2, 1, 5, 3]) (by decide +kernel)

theorem witness_loadBuffering : Consistent (run (loadBuffering true) [(wordX, [3]), (wordY, [1])] [(2, wordY, 1)] []) :=
  consistent_inTurn (l := [0, 1, 2, 3]) (by decide +kernel)

theorem witness_independentReads :
    Consistent (run (independentReads fun a l => loadAcq a 0 .device l) [(wordX, [0]), (wordY, [1])] [(2, wordX, 0), (4, wordY, 1), (5, wordX, 0)] []) :=
  consistent_inTurn (l := [0, 2, 3, 1, 4, 5]) (by decide +kernel)

theorem witness_freshCopy :
    Consistent (run (freshCopy true) [(wordX, [0]), (teamWord 0 0x100, [2])] [(1, wordX, 0), (4, teamWord 0 0x100, 2)] []) :=
  consistent_inTurn (l := [0, 5, 1, 2, 3, 4]) (by decide +kernel)

theorem witness_block : Consistent (run blockPassing [(blockBytes, [0])] [(1, blockBytes, 0)] []) :=
  consistent_inTurn (l := [0, 1]) (by decide +kernel)

theorem witness_operandBars : Consistent (run (operandB .bars) [(teamWord 0 0x100, [0])] [(1, teamWord 0 0x100, 0)] []) :=
  consistent_of_checks (reach := fun i j => ([0, 4, 2, 3, 5, 1].idxOf i < [0, 4, 2, 3, 5, 1].idxOf j))
    (c := fun _ i => [0, 4, 2, 3, 5, 1].idxOf i) (t := fun i => [0, 4, 2, 3, 5, 1].idxOf i) (v := fun i => [0, 4, 2, 3, 5, 1].idxOf i)
    (by decide +kernel)

theorem witness_operandFence : Consistent (run (operandB .ownFence) [(teamWord 0 0x100, [0])] [(1, teamWord 0 0x100, 0)] []) :=
  consistent_inTurn (l := [0, 2, 1]) (by decide +kernel)

theorem witness_twoHops :
    Consistent (run twoHops [(wordX, [0]), (word 0x3000, [1]), (wordY, [3])] [(2, word 0x3000, 1), (4, wordY, 3), (5, wordX, 0)] []) :=
  consistent_inTurn (l := [0, 1, 2, 3, 4, 5]) (by decide +kernel)

/-- R91, R183: ld.g.b32.acq.dv is an acquire of device scope; st with .rel a release of its suffix. -/
theorem test_ordered : ordered (.ld .g .b32 ⟨0xFF, true, false, 0, 0, 0, 2, 1⟩) = some ⟨false, true, false, .device⟩ ∧
    ordered (.st .g .b32 ⟨0xFF, true, false, 0, 0, 0, 0, 2⟩) = some ⟨true, false, false, .team⟩ := by decide

end Sys2Proof.Tests.WitnessOrdering
end

