-- ==== Sys2Proof/Tests/WitnessOutside.lean ====
section
/-!
SUPPORT. Witnesses for the statements about events, the host, the fabric, and what is observed.
-/

namespace Sys2Proof.Tests

set_option Elab.async false

open Sys2Proof Sys2Proof.Machine Sys2Proof.Claims

/-! ## Events (R410, R411) -/

/-- An uncorrectable event of tenant 0, and a corrected one; a tenant with an error ring of 64 records, and masks. -/
abbrev event0 (ue : Bool) (n : Nat) : Event := ⟨ue, n, 5, 7, 0x40, 1, 2, some 0, some 0⟩
abbrev ring0 (head : Word) : ErrorRing := ⟨0x1000, 6, head, 0, 0⟩
abbrev tenantRing (head mask : Word) : Tenant := { tenantOn0 with ring := some (ring0 head), uemask := mask }
abbrev sRing (head mask : Word) : State := { sBox context0 with tenants := [(0, tenantRing head mask)] }
theorem witness_event : EventFits (event0 true 6) ∧ EventFits (event0 false 4) ∧ (event0 true 6).tenant = some 0 ∧
    (sRing 0 0).tenants.get? 0 = some (tenantRing 0 0) ∧ (tenantRing 0 0).ring = some (ring0 0) ∧ (event0 true 6).event < 0x20 ∧
    ¬ IsMasked (tenantRing 0 0) (event0 true 6) ∧ IsMasked (tenantRing 0 0x40) (event0 true 6) ∧ IsMasked (tenantRing 0 0) (event0 false 4) ∧
    ¬ RingFull (ring0 0) ∧ RingFull (ring0 64) ∧ EventFits (event0 false 0x20) :=
  have fit : ∀ b n, n < 256 → EventFits (event0 b n) := fun _ n hn =>
    ⟨hn, (by decide : (5 : Nat) < 2 ^ 16), (by decide : (7 : Nat) < 2 ^ 39), (by decide : (0x40 : Nat) < 2 ^ 64), (by decide : (1 : Nat) < 2 ^ 32),
     (by decide : (2 : Nat) < 2 ^ 16), fun c h => by cases h; decide, fun c h => by cases h; decide⟩
  ⟨fit _ _ (by decide), fit _ _ (by decide), rfl, rfl, rfl, (by decide : (6 : Nat) < 0x20), fun h => absurd (show (0 : Word).getLsbD 6 = true from h) (by decide),
   (by decide : (0x40 : Word).getLsbD 6 = true), (by decide : (0x10 : Word).getLsbD 4 = true), fun h => absurd (show ((0 : Word) - 0).toNat = 2 ^ 6 from h) (by decide),
   (by decide : ((64 : Word) - 0).toNat = 2 ^ 6), fit _ _ (by decide)⟩

/-! ## The host (R394 to R397, R419, R430) -/

theorem witness_tail : (sBox context0).tenants.get? 0 = some tenantOn0 ∧ ((16 : Word) - tenantOn0.progress).toNat ≤ 2 ^ tenantOn0.wlog2 ∧
    2 ^ tenantOn0.wlog2 < ((17 : Word) - tenantOn0.progress).toNat := ⟨rfl, by decide +kernel, by decide +kernel⟩
/-- A command of no words: SUMMARY, and one whose OP is none; and a command of 62 words. -/
abbrev sArea (w n : Word) : State := { sBox context0 with mailbox := { State.reset.mailbox with command := [(0, w), (1, n)] } }
theorem witness_doorbell : (sArea 0x50020 0).mailbox.busy = false ∧ ((sArea 0x50020 0).mailbox.command.read 1 0).toNat = 0 ∧
    ((0x50020 : Word).truncate 16 : BitVec 16).toNat ∈ knownOps ∧ ((0x50099 : Word).truncate 16 : BitVec 16).toNat ∉ knownOps ∧
    ((sArea 0x50020 62).mailbox.command.read 1 0).toNat = 62 ∧ (under (sBox context0) 0x20 []).mailbox.busy = true :=
  ⟨rfl, by decide, by decide +kernel, by decide +kernel, by decide, rfl⟩
theorem witness_mailbox_write : (sBox context0).contexts.get? 0 = some context0 ∧ context0.dbg = true ∧ 0x1F8 % 8 = 0 ∧ 0x1F8 < 0x200 ∧
    ∀ c, (sBox { context0 with dbg := false }).contexts.get? 0 = some c → c.dbg = false :=
  ⟨rfl, rfl, by decide, by decide, fun c h => (Option.some.inj (show some { context0 with dbg := false } = some c from h)) ▸ rfl⟩
/-- CEN with segments of 2^12 bytes; SEN with intervals of 2^6 and a ring of 2^4; one with a reserved bit. -/
theorem witness_obsctl : ObsctlLegal context0 0xC01 ∧ ObsctlLegal context0 0x04060002 ∧ ¬ ObsctlLegal context0 0x4 ∧ ¬ ObsctlLegal context0 0xB01 ∧
    (0x04060002 : Word).getLsbD 1 = true ∧ context0.obsctl.getLsbD 1 = false ∧
    { context0 with obsctl := 0xC01 }.obsctl.getLsbD 0 = true :=
  ⟨by unfold ObsctlLegal; decide +kernel, by unfold ObsctlLegal; decide +kernel, by unfold ObsctlLegal; decide +kernel, by unfold ObsctlLegal; decide +kernel,
   by decide, by decide, by decide⟩
/-- A write that stays below the metadata, and one of the metadata itself, whose own granules have none. -/
theorem witness_host_memory : 0x40000040 + [(1 : Byte), 2].length ≤ (sBox context0).hbmBytes ∧ (∀ p ∈ (sBox context0).accesses, p.2.checked = false) ∧
    RecordsApart (sBox context0) 0x40000040 2 ∧ (sBox context0).mbase + 64 ≤ (sBox context0).hbmBytes ∧
    RecordsApart (sBox context0) (sBox context0).mbase 2 ∧ 0x40000040 + 64 ≤ (sBox context0).hbmBytes ∧ Unpoisoned (sBox context0) 0x40000040 64 :=
  ⟨by decide +kernel, fun _ hp => (List.not_mem_nil hp).elim, .inl (by decide +kernel), by decide +kernel, .inr (by decide +kernel), by decide +kernel, rfl⟩

/-! ## The fabric (R403, R405) -/

abbrev cBound : Context := { cPaged with binding := 9 }
abbrev sBound : State := { paged (world group0 team0 launch0 cBound) with cur := none, tenants := [(0, tenantOn0)] }
theorem bound_of (s : State) (h : s.contexts = [(0, cBound)]) : BoundTo s 0 9 0 cBound := by
  refine ⟨by decide, by rw [h]; rfl, by rw [h]; rfl, rfl, rfl, rfl, fun p hp hne => ?_⟩
  rw [h] at hp
  rw [List.mem_singleton.mp hp] at hne
  exact absurd rfl hne
theorem bound : BoundTo sBound 0 9 0 cBound := bound_of _ rfl
theorem page_open (kind va n loc : Nat) (h1 : 1 ≤ n) (h2 : va % 65536 + n ≤ 65536) (h3 : va + n ≤ 2 ^ 52)
    (h4 : tableIndex va 4 = 0) (h5 : tableIndex va 3 = 0) (h6 : tableIndex va 2 = 0) (hl : leafTarget sBound 2 0x4000060F va kind = .ok (.phys loc 0 false)) :
    PageOpen sBound cBound kind va n loc := by
  have e := walk_of sBound va h4 h5 h6 (by decide +kernel) (by decide +kernel) (by decide +kernel) (by decide +kernel)
  refine ⟨h1, h2, h3, 0, 2, 0x4000060F, 0x3000, e, by decide, by decide, ?_⟩
  rw [walkXlate, show cBound.root = 0x1000 from rfl, e]
  exact hl
theorem witness_put_arrives : BoundTo sBound 0 9 0 cBound ∧ PageOpen sBound cBound kindEngineWrite 0x50000 256 0x40050000 ∧ NoDirty sBound ∧ Quiet sBound :=
  ⟨bound, page_open _ _ _ _ (by decide) (by decide) (by decide) (by decide) (by decide) (by decide)
   (leaf_at _ (by decide +kernel) _ _ _ (by decide +kernel) (by decide +kernel) (by decide +kernel) (by decide)), noDirty_of _ core0 rfl rfl,
   fun p hp => by rw [List.mem_singleton.mp hp]; exact ⟨by decide, rfl, fun h => absurd h (by decide)⟩, rfl, fun _ hp => (List.not_mem_nil hp).elim⟩
/-- The page lies below the metadata. -/
theorem witness_put_kept : RecordsApart sBound 0x40050000 256 := .inl (by decide +kernel)
theorem witness_unbound : (∀ q ∈ sBound.contexts, q.2.binding = 8 → q.2.tenant ≠ 0) ∧ (0, 8) ∉ sBound.released := by
  refine ⟨fun q hq h => ?_, List.not_mem_nil⟩
  rw [List.mem_singleton.mp hq] at h
  exact absurd h (by decide)
theorem witness_fabric_atomic : PageOpen sBound cBound kindAtomic 0x50008 (atomBytes .addI64) 0x40050008 ∧
    PageOpen sBound cBound kindEngineWrite 0x50008 (atomBytes .addI64) 0x40050008 ∧ 0x50008 % atomBytes .addI64 = 0 ∧
    RecordsApart sBound 0x40050008 (atomBytes .addI64) ∧ Unpoisoned sBound 0x40050008 (atomBytes .addI64) ∧ ropAtom 1 = some .addI64 :=
  ⟨page_open _ _ _ _ (by decide) (by decide) (by decide) (by decide) (by decide) (by decide)
   (leaf_at _ (by decide +kernel) _ _ _ (by decide +kernel) (by decide +kernel) (by decide +kernel) (by decide)),
   page_open _ _ _ _ (by decide) (by decide) (by decide) (by decide) (by decide) (by decide)
   (leaf_at _ (by decide +kernel) _ _ _ (by decide +kernel) (by decide +kernel) (by decide +kernel) (by decide)), by decide, .inl (by decide +kernel), rfl, by decide⟩
theorem witness_get : PageOpen sBound cBound kindEngineRead 0x50000 256 0x40050000 ∧ Unpoisoned sBound 0x40050000 256 :=
  ⟨page_open _ _ _ _ (by decide) (by decide) (by decide) (by decide) (by decide) (by decide)
   (leaf_at _ (by decide +kernel) _ _ _ (by decide +kernel) (by decide +kernel) (by decide +kernel) (by decide)), rfl⟩

/-- A get of two bytes, and a lane of a load and of an atomic, that wait for device 3. -/
abbrev packetTo (cls : Nat) (what : Sent) (bytes : List Byte) : Packet := ⟨3, cls, 0, 9, what, bytes, true⟩
abbrev eGet : Entry := entry0 (.get 0x100 0x40 2 3) false
abbrev sGet : State := { sE group0 eGet with sent := [(8, packetTo 1 (.entry 5) (leBytes 8 0x40 ++ leBytes 8 2))] }
theorem witness_get_answer : sGet.entries.get? 5 = some eGet ∧ sGet.sent.get? 8 = some (packetTo 1 (.entry 5) (leBytes 8 0x40 ++ leBytes 8 2)) ∧
    leNat ((leBytes 8 0x40 ++ leBytes 8 2).drop 8) = [(1 : Byte), 2].length ∧ sGet.sent.sorted = true ∧
    ∀ q ∈ sGet.sent, q.2.what = .entry 5 → q.1 = 8 :=
  ⟨rfl, rfl, by decide +kernel, rfl, fun q hq _ => by rw [List.mem_singleton.mp hq]⟩
abbrev far : Target := .peer 3 0x40
abbrev sFarLane (a : Access) : State := { sA a with sent := [(8, packetTo 1 (.lane 5 0) [])] }
theorem lane_waits (k : AccessKind) (h : (access0 k .g far 4 false).isAcquire = false) :
    LaneWaits (sFarLane (access0 k .g far 4 false)) 5 0 (access0 k .g far 4 false) uA := by
  refine ⟨rfl, issuer_of _ uA 0 rfl rfl rfl ctx0 rfl, h, rfl, ⟨8, _, rfl, rfl, rfl⟩, ⟨lane0 far 4 false, List.mem_singleton.mpr rfl, rfl⟩, fun la hla _ => ?_⟩
  rw [List.mem_singleton.mp hla]
theorem witness_lane_answers : LaneWaits (sFarLane (access0 (.load .b32) .g far 4 false)) 5 0 (access0 (.load .b32) .g far 4 false) uA ∧
    (∀ la ∈ (access0 (.load .b32) .g far 4 false).lanes, la.size = [(1 : Byte), 2, 3, 4].length ∧ la.tail = none) ∧
    LaneWaits (sFarLane (access0 (.rmw .addI32 true) .g far 4 false)) 5 0 (access0 (.rmw .addI32 true) .g far 4 false) uA :=
  ⟨lane_waits _ (by decide), fun la hla => by rw [List.mem_singleton.mp hla]; exact ⟨rfl, rfl⟩, lane_waits _ (by decide)⟩

/-! ## The pod (R336, R403, R408, R474, R476) -/

theorem witness_launch_packet : BoundTo sBound 0 9 0 cBound ∧ sBound.tenants.get? 0 = some tenantOn0 ∧ tenantOn0.fabric.length < 64 ∧ ¬ PortPaused sBound 3 :=
  ⟨bound, rfl, by decide, fun ⟨_, _, h, _⟩ => by cases (h : none = some _)⟩
/-- A queue of 64 packets. -/
abbrev tenantFull : Tenant := { tenantOn0 with fabric := List.replicate 64 (packet0 1 0) }
abbrev sPacked : State := { paged (world group0 team0 launch0 cBound) with cur := none, tenants := [(0, tenantFull)] }
theorem witness_launch_full : BoundTo sPacked 0 9 0 cBound ∧ sPacked.tenants.get? 0 = some tenantFull ∧ 64 ≤ tenantFull.fabric.length :=
  ⟨bound_of _ (rfl), rfl, by show 64 ≤ (List.replicate 64 (packet0 1 0)).length; rw [List.length_replicate]⟩
abbrev coll0 : FabricColl := ⟨0, 9, 3, 8, 0, 1, 2, 0, 0, 1, [1, 2, 3, 4]⟩
theorem witness_collective : BoundTo sBound coll0.tenant coll0.binding 0 cBound ∧ coll0.bytes.length ≤ 256 ∧ (coll0.bytes ≠ [] ∨ coll0.op = 3) ∧
    stagedBytes sBound coll0.tenant + coll0.bytes.length ≤ 2 ^ 22 ∧ sBound.collectives = [] :=
  ⟨bound, by decide, .inl (by decide), by decide +kernel, rfl⟩
/-- A barrier packet of the context's pod domain, and of another. -/
abbrev cDomain : Context := { cBound with domain := 3, domainSize := 4 }
abbrev sDomain : State := { sBound with contexts := [(0, cDomain)] }
theorem witness_barrier_packet : BoundTo sDomain 0 9 0 cDomain ∧ cDomain.domain = 3 ∧ cDomain.domain ≠ 4 := by
  refine ⟨⟨by decide, rfl, rfl, rfl, rfl, rfl, fun p hp hne => ?_⟩, rfl, by decide⟩
  rw [List.mem_singleton.mp hp] at hne
  exact absurd rfl hne
/-- A collective whose first part came 10 ms ago. -/
abbrev staged0 : Staged := ⟨0, 8, 0, [(1, coll0)], 0, false⟩
abbrev commPair : Communicator := ⟨[(0, 0), (3, 0)], []⟩
abbrev cPair : Context := { cBound with comms := [(8, commPair)] }
abbrev sTimeout : State :=
  { paged (world group0 team0 launch0 cPair) with cur := none, tenants := [(0, tenantOn0)], collectives := [(7, staged0)], ticks := 10000000 }
theorem witness_collective_timeout : sTimeout.collectives = [(7, staged0)] ∧ sTimeout.contexts.get? staged0.ctx = some cPair ∧ cPair.tenant = 0 ∧
    staged0.failed = false ∧ staged0.since + 10000000 ≤ sTimeout.ticks.toNat ∧
    (∀ m, cPair.comms.get? staged0.comm = some m → staged0.parts.length < m.ranks.length) ∧ sTimeout.entries = [] :=
  ⟨rfl, rfl, rfl, rfl, by decide, fun m h => by rw [← Option.some.inj (show some commPair = some m from h)]; decide, rfl⟩
abbrev sLink (b : Bool) : State := { State.reset with ports := [(23, b)], rerouting := [(3, 0)], ticks := 1000000 }
theorem witness_links : (sLink true).ports.read 23 false = true ∧ (sLink false).ports.read 23 false = false ∧ (sLink true).rerouting.get? 3 = some 0 ∧
    0 + 1000000 ≤ (sLink true).ticks.toNat ∧ (sLink true).sent = [] ∧ (sLink true).deviceRing = none := ⟨rfl, rfl, rfl, by decide, rfl, rfl⟩

/-! ## Failures, power and heat (R24, R460, R463, R477) -/

theorem witness_scrub : 0x40000040 < (sBox context0).hbmBytes ∧ 0x40000040 % 8 = 0 ∧ 0x40000040 < (sBox context0).mbase :=
  ⟨by decide +kernel, by decide, by decide +kernel⟩
/-- A word of a team's memory, and one of the L2. -/
theorem witness_sram : (∃ p, sramPlace (sBox context0) (.team 1 0x40) = some p ∧ p.1 = 2) ∧ (sBox context0).teams.get? 1 = some team0 ∧
    ∃ p, sramPlace (sBox context0) (.l2 0x40000040 true) = some p ∧ p.1 = 0 := by
  have h : (sramPlace (sBox context0) (.team 1 0x40)).map Prod.fst = some 2 ∧ (sramPlace (sBox context0) (.l2 0x40000040 true)).map Prod.fst = some 0 := by
    decide +kernel
  exact ⟨Option.map_eq_some_iff.mp h.1, rfl, Option.map_eq_some_iff.mp h.2⟩
abbrev outer : Target := .phys (2 ^ 53 + 0x40) 0 false
theorem witness_outer_lane : OuterLane (sA (access0 (.load .b32) .g outer 4 false)) 5 (access0 (.load .b32) .g outer 4 false) uA (lane0 outer 4 false) (2 ^ 53 + 0x40) :=
  ⟨rfl, issuerA _ rfl, rfl, rfl, by decide +kernel, rfl, rfl, ⟨_, _, rfl⟩, Nat.le_add_right _ _⟩
theorem witness_tier_port : { State.reset with tiers := [(1, ⟨2 ^ 40, true⟩)] }.tiers.get? 1 = some ⟨2 ^ 40, true⟩ := rfl
abbrev sHot : State := { sBox context0 with hotSince := some 0, ticks := 1000000, gated := true, throttled := true }
theorem witness_heat : sHot.hotSince = some 0 ∧ sHot.stopped = false ∧ 0 + 1000000 ≤ sHot.ticks.toNat ∧ sHot.launches.sorted = true ∧
    sHot.throttled = true ∧ sHot.gated = true ∧ State.reset.throttled = false ∧ State.reset.gated = false :=
  ⟨rfl, rfl, by decide, rfl, rfl, rfl, rfl, rfl⟩

/-! ## Watching (R421, R424, R426, R430, R431) -/

/-- Core 0 has staged three bytes for context 0, whose segments of 4 KiB begin at 0x50000; no byte of the segment is used. -/
abbrev staging0 : Staging := ⟨[0x70, 1, 2], 0, 0, 1, 0, 0, 0, (0x50000, 12)⟩
abbrev cTraced : Context := { cPaged with trbase := 0x50000, obsctl := 0xC01 }
abbrev coreTraced : Core := { core0 with staging := [(0, staging0)] }
abbrev sTraced : State := { paged (world group0 team0 launch0 cTraced) with cores := [(0, coreTraced)], cur := none }
theorem tracedTables : sTraced.readNat 0x1000 8 = 0x2003 ∧ sTraced.readNat 0x2000 8 = 0x3003 ∧ sTraced.readNat 0x3000 8 = 0x4000060F ∧
    2 ^ 31 ≤ sTraced.hbmBytes := by decide +kernel
theorem witness_drain_trace : sTraced.cores.get? 0 = some coreTraced ∧ coreTraced.staging = [(0, staging0)] ∧ staging0.bytes ≠ [] ∧ staging0.dropped = 0 ∧
    sTraced.contexts.get? 0 = some cTraced ∧ NoSounds sTraced ∧ NoDirty sTraced ∧ Quiet sTraced ∧ Segment sTraced cTraced staging0 0 0x40050000 ∧
    NumberAt sTraced 0x40050000 0 ∧ NumberAt sTraced (0x40050000 + 8) 0 ∧ 0 - 0 < segmentSize staging0 - 64 := by
  have h := tracedTables
  have e := walk_of sTraced 0x50000 (by decide) (by decide) (by decide) h.2.2.2 h.1 h.2.1 h.2.2.1
  have z : segmentSize staging0 = 4096 ∧ staging0.segment.1 + 0 * segmentSize staging0 = 0x50000 := by decide +kernel
  refine ⟨rfl, rfl, by simp, rfl, rfl, fun p hp => ?_, noDirty_of _ coreTraced rfl rfl, ⟨fun p hp => by rw [List.mem_singleton.mp hp]; exact ⟨by decide, rfl, fun h => absurd h (by decide)⟩, rfl,
    fun _ hp => (List.not_mem_nil hp).elim⟩, ⟨by decide +kernel, by decide +kernel, by decide +kernel, ?_, ?_⟩, (by decide +kernel : ∀ k, k < 8 → Memory.byte sTraced.mem (0x40050000 + k) = BitVec.ofNat 8 (0 / 256 ^ k)),
    (by decide +kernel : ∀ k, k < 8 → Memory.byte sTraced.mem (0x40050000 + 8 + k) = BitVec.ofNat 8 (0 / 256 ^ k)), by decide +kernel⟩
  · rw [List.mem_singleton.mp hp]; rfl
  · rw [z.2, z.1]
    refine ⟨by decide, by decide, by decide, 0, 2, 0x4000060F, 0x3000, e, by decide, by decide, ?_⟩
    rw [walkXlate, show cTraced.root = 0x1000 from rfl, e]
    exact leaf_at _ h.2.2.2 _ _ _ (by decide +kernel) (by decide +kernel) (by decide +kernel) (by decide)
  · rw [z.2, z.1]
    exact tables_apart _ _ _ _ (by decide) (by decide) (by decide) h.2.2.2 h.1 h.2.1 h.2.2.1 (by decide)
/-- An interval of quadrant 2 is over, in a context sampled every 2^6 instructions. -/
abbrev sampler0 : Sampler := ⟨1, 0, false⟩
abbrev cSampled : Context := { context0 with obsctl := 0x04060002 }
abbrev coreSampled : Core := { core0 with samplers := [(2, sampler0)] }
abbrev sSampled : State := { world group0 team0 launch0 cSampled with cores := [(0, coreSampled)], cur := none }
theorem witness_interval : sSampled.cores.get? 0 = some coreSampled ∧ coreSampled.samplers.get? 2 = some sampler0 ∧ SampledOn sSampled 0 cSampled ∧
    NoSounds sSampled := by
  refine ⟨rfl, rfl, by unfold SampledOn; decide +kernel, fun p hp => ?_⟩
  rw [List.mem_singleton.mp hp]; rfl
/-- Monitor 5 of die 2 watches link 3, with its alarm on. -/
abbrev monitor0 (x : Option Word) : Machine.Monitor := { Monitor.reset with bctl := 0x00030305, alarmHi := 10, last := x }
theorem witness_capture : { State.reset with monitors := [(37, monitor0 (some 3))] }.monitors.get? (16 * 2 + 5) = some (monitor0 (some 3)) ∧
    (monitor0 (some 3)).bctl.getLsbD 0 = true ∧ SourceExists 2 (monitor0 (some 3)).bctl ∧ Alarms (monitor0 (some 3)) 11 ∧ ¬ Alarms (monitor0 (some 3)) 10 :=
  ⟨rfl, by decide, (by decide : (3 : Nat) < 24), ⟨by decide, by decide, 3, rfl, by decide⟩, fun h => absurd h.2.1 (by decide)⟩
/-- A level of SRC 4, sampled in the last period of 1,024 ticks and due again. -/
theorem witness_due : DueAt (monitor0 (some 3)) 0 ∧ DueAt { monitor0 (some 3) with bctl := 0x00030405, lastTick := 1000 } 1024 ∧
    ¬ DueAt { monitor0 (some 3) with bctl := 0x00030405, lastTick := 1000 } 1001 := by
  unfold DueAt; decide +kernel
theorem witness_skew : (sLink true).ports.read (29 - 6) false = true := rfl

end Sys2Proof.Tests
end

/-!
SUPPORT. What settle leaves of a core: everything but the lines of its L1 (R160, R272).
-/

namespace Sys2Proof.Machine
open Sys2Proof.Claims

section
variable (s : State)

/-! ## What leaves the cores as they were, but for their lines -/

theorem onlyLines_refl : OnlyLines s s := fun _ => rfl

theorem onlyLines_trans {s t r : State} (h : OnlyLines s t) (k : OnlyLines t r) : OnlyLines s r :=
  fun c => (k c).trans (h c)

theorem onlyLines_of_cores {s t : State} (h : t.cores = s.cores) : OnlyLines s t := fun c => by rw [h]

theorem onlyLines_foldl {α : Type} (l : List α) (f : State → α → State) (h : ∀ s a, OnlyLines s (f s a)) :
    OnlyLines s (l.foldl f s) := by
  induction l generalizing s with
  | nil => exact onlyLines_refl s
  | cons a t ih => exact onlyLines_trans (h s a) (ih (f s a))

theorem onlyLines_modifyCore (n : Nat) (f : Core → Core) (h : ∀ x, { f x with lines := [] } = { x with lines := [] }) :
    OnlyLines s (s.modifyCore n f) := by
  intro c
  simp only [State.modifyCore, Table.get?_update]
  split
  · next hc => subst hc; cases s.cores.get? c <;> simp [h]
  · rfl

/-- What a core has staged is none of its lines. -/
theorem staging_of_onlyLines {s t : State} (h : OnlyLines s t) (c : Nat) :
    (t.cores.get? c).map (·.staging) = (s.cores.get? c).map (·.staging) := by
  have := congrArg (Option.map (·.staging)) (h c)
  simpa [Function.comp_def] using this

/-! ## The L1 of a core -/

theorem writeLine_onlyLines (ln : Nat) (l : Line) : OnlyLines s (writeLine s ln l) := by
  refine onlyLines_foldl s _ _ fun s w => onlyLines_of_cores ?_
  dsimp only
  split <;> rfl

theorem cleanLine_onlyLines (core ln : Nat) : OnlyLines s (cleanLine s core ln) := by
  unfold cleanLine
  split
  · exact onlyLines_refl s
  · exact onlyLines_trans (writeLine_onlyLines s ln _) (onlyLines_modifyCore _ core _ fun _ => rfl)

theorem dropLine_onlyLines (core ln : Nat) : OnlyLines s (dropLine s core ln) :=
  onlyLines_trans (cleanLine_onlyLines s core ln) (onlyLines_modifyCore _ core _ fun _ => rfl)

theorem acquireLines_onlyLines (core scope : Nat) : OnlyLines s (acquireLines s core scope) := by
  unfold acquireLines
  split
  · exact onlyLines_refl s
  · exact onlyLines_foldl s _ _ fun s ln => dropLine_onlyLines s core ln

/-! ## Reports: only an SRAM event is counted at a core (R478, R489) -/

theorem ringWrite_cores (r : ErrorRing) (rcd : Nat) : (ringWrite s r rcd).1.cores = s.cores := by
  unfold ringWrite; split <;> rfl

theorem deviceRecord_cores (rcd : Nat) : (deviceRecord s rcd).cores = s.cores := by
  unfold deviceRecord
  split
  · rfl
  · next r _ => dsimp only; split <;> exact ringWrite_cores s r rcd

theorem tenantRecord_cores (n rcd : Nat) : (tenantRecord s n rcd).cores = s.cores := by
  unfold tenantRecord
  split
  · rfl
  · split
    · rfl
    · next r _ => dsimp only; split <;> exact ringWrite_cores s r rcd

theorem countEvent_cores (e : Event) (h : e.event ≠ 1) : (countEvent s e).cores = s.cores := by
  have unit : (countUnit s e).cores = s.cores := by
    unfold countUnit
    rw [if_neg h]
    split <;> rfl
  unfold countEvent
  split
  · rfl
  · split
    · exact unit
    · rfl

theorem report_cores (e : Event) (h : e.event ≠ 1) : (report s e).cores = s.cores := by
  have hc := countEvent_cores s e h
  unfold report
  split
  · exact (deviceRecord_cores _ _).trans hc
  · dsimp only
    split
    · exact (tenantRecord_cores _ _ _).trans hc
    · split
      · exact hc
      · split
        · exact hc
        · split <;> exact (tenantRecord_cores _ _ _).trans hc

theorem contextEvent_cores (ctx event sub detail addr lid agent : Nat) (h : event ≠ 1) :
    (contextEvent s ctx event sub detail addr lid agent).cores = s.cores := by
  unfold contextEvent
  split
  · rfl
  · exact report_cores s _ h

theorem flagNondet_cores (u : Issuer) (sub : Nat) : (flagNondet s u sub).cores = s.cores :=
  contextEvent_cores _ _ _ _ _ _ _ _ (by decide)

/-! ## What a step may have made true (R38, R42, R274, R327) -/

theorem soundEnd_cores (ctx : Nat) (r : Option (BitVec 512)) (f : BitVec 512 → BitVec 512) : (soundEnd s ctx r f).cores = s.cores := by
  rw [soundEnd_frame]

theorem takeTrap_cores (u : Issuer) (i : TrapInfo) : (takeTrap s u i).cores = s.cores := soundEnd_cores _ _ _ _

theorem orphanHeld_onlyLines (tid g : Nat) : OnlyLines s (orphanHeld s tid g) :=
  onlyLines_foldl s _ _ fun _ _ => onlyLines_of_cores (takeTrap_cores _ _ _)

theorem gateOrphans_onlyLines : OnlyLines s (gateOrphans s) := by
  refine onlyLines_foldl s _ _ fun s j => ?_
  dsimp only
  split
  · exact onlyLines_refl s
  · split
    · exact onlyLines_refl s
    · split
      · exact onlyLines_refl s
      · split
        · exact onlyLines_refl s
        · split
          · exact onlyLines_refl s
          · exact orphanHeld_onlyLines s _ _

theorem completePhase_cores (lvl : Level) (tid : Nat) : (completePhase s lvl tid).cores = s.cores := by
  unfold completePhase
  split
  · rfl
  · split
    · rfl
    · dsimp only
      split
      · rfl
      · cases lvl with
        | team => rfl
        | cluster => rfl
        | grid => dsimp only; split <;> rfl

theorem completePhases_onlyLines : OnlyLines s (completePhases s) :=
  onlyLines_foldl s _ _ fun s tid => onlyLines_of_cores <| by simp only [completePhase_cores]

theorem noteChange_cores (u : Issuer) (writer : Option (Nat × Nat)) : (noteChange s u writer).cores = s.cores := by
  unfold noteChange
  split
  · dsimp only; split <;> rfl
  · rfl

theorem wokenSound_cores (u : Issuer) : (wokenSound s u).cores = s.cores := soundEnd_cores s _ _ _

theorem endMonitor_onlyLines (u : Issuer) (loc : Nat) (dest : BitVec 11) (w : Word) (writer : Option (Nat × Nat)) :
    OnlyLines s (endMonitor s u loc dest w writer) := by
  refine onlyLines_trans (acquireLines_onlyLines s u.t.core 2) (onlyLines_of_cores ?_)
  unfold endMonitor
  dsimp only
  split
  · rfl
  · split
    · split
      · rfl
      · exact flagNondet_cores _ _ _
    · exact flagNondet_cores _ _ _

/-- A wait ends after an acquire at a scope. -/
theorem wakeAfterAcquire_onlyLines (u : Issuer) (core scope gid : Nat) (g : Group) :
    OnlyLines s (wokenSound ((acquireLines s core scope).setGroup gid g) u) :=
  onlyLines_trans (acquireLines_onlyLines s core scope) (onlyLines_of_cores (wokenSound_cores _ u))

theorem advanceTeamSet_onlyLines (tid k : Nat) : OnlyLines s (advanceTeamSet s tid k) := by
  unfold advanceTeamSet
  split
  · exact onlyLines_refl s
  · next t _ =>
    refine onlyLines_trans (s := s) (t := s.setTeam tid _) (onlyLines_of_cores rfl) (onlyLines_foldl _ _ _ fun s gid => ?_)
    split
    · exact onlyLines_refl s
    · split
      · exact wakeAfterAcquire_onlyLines s _ _ _ _ _
      · exact onlyLines_refl s

/-- A group that goes on, where a condition holds, changes no core. -/
theorem groupIf_cores (p : Prop) [Decidable p] (gid : Nat) (g : Group) :
    (if p then s.setGroup gid g else s).cores = s.cores := by
  split <;> rfl

theorem wakeGroup_onlyLines (gid : Nat) (writer : Option (Nat × Nat)) : OnlyLines s (wakeGroup s gid writer) := by
  unfold wakeGroup
  split
  · exact onlyLines_refl s
  · next u _ =>
    split
    · exact onlyLines_of_cores (noteChange_cores s u writer)
    · split
      · exact onlyLines_refl s
      · split
        · exact onlyLines_refl s
        · next w _ =>
          cases w with
          | barrier lvl p pod =>
            dsimp only
            split
            · exact wakeAfterAcquire_onlyLines s _ _ _ _ _
            · exact onlyLines_refl s
          | await lvl p =>
            dsimp only
            split
            · exact wakeAfterAcquire_onlyLines s _ _ _ _ _
            · exact onlyLines_refl s
          | monitor a loc expected dest b c =>
            have ends w by_ := onlyLines_trans (endMonitor_onlyLines s u loc dest w by_) (onlyLines_of_cores (wokenSound_cores _ u))
            dsimp only
            split
            · exact ends _ _
            · split
              · exact onlyLines_refl s
              · exact ends _ _
          | arrival k =>
            dsimp only
            split
            · exact onlyLines_of_cores rfl
            · split
              · exact advanceTeamSet_onlyLines s _ _
              · exact onlyLines_refl s
          | copyBatch n =>
            dsimp only
            split
            · exact onlyLines_of_cores rfl
            · split
              · exact onlyLines_of_cores (wokenSound_cores _ u)
              · exact onlyLines_refl s
          | matrixBatch n =>
            dsimp only
            split
            · exact onlyLines_of_cores rfl
            · split
              · refine onlyLines_of_cores ((wokenSound_cores _ u).trans ?_)
                unfold endMatrixWait
                dsimp only
                split <;> rfl
              · exact onlyLines_refl s
          | remoteLoad a => exact onlyLines_of_cores (groupIf_cores s _ _ _)
          | translation ws => exact onlyLines_of_cores (groupIf_cores s _ _ _)
          | peers a counted => exact onlyLines_of_cores (groupIf_cores s _ _ _)
          | checks a => exact onlyLines_of_cores (groupIf_cores s _ _ _)
          | minimum a => exact onlyLines_refl s
          | halting => exact onlyLines_refl s
          | calming => exact onlyLines_refl s

theorem noteWoken_cores (s1 : State) (gid : Nat) : (noteWoken s s1 gid).cores = s1.cores := by
  unfold noteWoken
  split
  · split <;> rfl
  · rfl

/-- R160, R272: what a step may have made true changes nothing of a core but its lines. -/
theorem settleBy_onlyLines (writer : Option (Nat × Nat)) : OnlyLines s (settleBy s writer) := by
  have phases := onlyLines_trans (gateOrphans_onlyLines s) (completePhases_onlyLines _)
  refine onlyLines_trans phases (onlyLines_trans (onlyLines_foldl _ _ _ fun s gid => ?_) (onlyLines_of_cores rfl))
  exact onlyLines_trans (wakeGroup_onlyLines s gid writer) (onlyLines_of_cores (noteWoken_cores s _ gid))

theorem settle_onlyLines : OnlyLines s (settle s) := settleBy_onlyLines s none

end
end Sys2Proof.Machine

/-!
SUPPORT. O56: a state in which a drain of Contrail meets a place of its segment that cannot be reached.
-/

namespace Sys2Proof.Machine

open Sys2Proof.Claims

/-! ## Tables stand in HBM (R161) -/

theorem readNat_of_memory_below {s t : State} {lim : Nat} (h : ∀ b, b < lim → Memory.byte t.mem b = Memory.byte s.mem b) {a n : Nat}
    (hn : a + n ≤ lim) : t.readNat a n = s.readNat a n := by
  have bytes : ∀ n a, a + n ≤ lim → Memory.bytes t.mem a n = Memory.bytes s.mem a n := by
    intro n
    induction n with
    | zero => intro a _; rfl
    | succ n ih => intro a ha; rw [Memory.bytes, Memory.bytes, h a (by omega), ih (a + 1) (by omega)]
  rw [State.readNat, State.readNat, State.readMem, State.readMem, bytes n a hn]

/-- A walk reads nothing of memory beyond the entries that stand in HBM. -/
theorem walkFrom_of_memory_below {s t : State} (hh : t.hbmBytes = s.hbmBytes)
    (h : ∀ b, b < s.hbmBytes + 8 → Memory.byte t.mem b = Memory.byte s.mem b) (va level table : Nat) :
    walkFrom t va level table = walkFrom s va level table := by
  have hm : t.mbase = s.mbase := by rw [State.mbase, State.mbase, hh]
  induction level generalizing table with
  | zero =>
    simp only [walkFrom, hh, hm]
    split
    · rfl
    · rw [readNat_of_memory_below h (by omega)]
  | succ level ih =>
    simp only [walkFrom, hh, hm, ih]
    split
    · rfl
    · rw [readNat_of_memory_below h (by omega)]

/-- A range above HBM holds no table. -/
theorem tablesApart_above_hbm {s : State} (root va : Nat) {loc : Nat} (n : Nat) (h : s.hbmBytes + 8 ≤ loc) : TablesApart s root va loc n :=
  fun _ hh same => walkFrom_of_memory_below hh (fun b hb => same b (.inl (by omega))) va 4 root

end Sys2Proof.Machine

namespace Sys2Proof.Machine.HalfTier

open Sys2Proof.Claims

/-! ## A segment of which every second 4 KiB is out of reach (R402, R421)

Two expanders of one size take the 4 KiB blocks of the memory tier in turn. Port 1 is down. The segment of core 0, 8 KiB long, lies in
one page of the tier; its head stands at port 0, and the next byte of the stream at port 1. -/

/-- A context traced into segments of 8 KiB from 0x50000 on. -/
def context : Context := { newContext 0 0 true 0 0x1000 0 0 0 0 with trbase := 0x50000, obsctl := 0xD01 }

/-- Three bytes are staged for it. -/
def staging : Staging :=
  { bytes := [0x70, 1, 2], dropped := 0, lastTimed := 0, sinceSync := 1, lastSync := 0, lastEvent := 0, lastSlot := 0, segment := (0x50000, 13) }

def core : Core := { Core.reset with staging := [(0, staging)] }

/-- Where the segment lies: at offset 0x50000 of the tier. -/
abbrev place : Nat := tierBase + 0x50000

/-- The tables at 0x1000, 0x2000 and 0x3000 map the first GiB of the address space to the first GiB of the tier. HEAD is 0x3000 and
TAIL 0x1042, so that 2 of the segment's 8128 bytes are free, from byte 4160 on. -/
def state : State :=
  { State.reset with
    mem := [(0x1000, 0x03), (0x1001, 0x20), (0x2000, 0x03), (0x2001, 0x30), (0x3000, 0x2F), (0x3001, 0x06),
            (place + 1, 0x30), (place + 8, 0x42), (place + 9, 0x10)]
    contexts := [(0, context)]
    cores := [(0, core)]
    tiers := [(0, ⟨2 ^ 40, true⟩), (1, ⟨2 ^ 40, false⟩)] }

/-- What a core has staged after a move. -/
def stagedAfter (o : Out) (k : Nat) : Option (Table Staging) :=
  match o with
  | .next t => (t.cores.get? k).map (·.staging)
  | _ => none

theorem noSounds : NoSounds state := fun p hp => by rw [List.mem_singleton.mp hp]; rfl

theorem noDirty : NoDirty state := by
  intro c b
  unfold coreDirty
  by_cases hc : (0 : Nat) = c <;> simp [state, core, Core.reset, Table.get?, hc]

theorem quiet : Quiet state := ⟨fun _ hp => (List.not_mem_nil hp).elim, rfl, fun _ hp => (List.not_mem_nil hp).elim⟩

theorem walk : walkVa state context.root 0x50000 = .leaf 2 0x62F 0x3000 := by decide +kernel

theorem head_open : walkXlate state context.root 0x50000 kindEngineWrite = .ok (.phys place 0 false) := by decide +kernel

theorem segment : Segment state context staging 0 place := by
  have size : segmentSize staging = 8192 ∧ staging.segment.1 + 0 * segmentSize staging = 0x50000 := by decide
  refine ⟨by decide, by decide, by rw [size.2]; decide, ?_, tablesApart_above_hbm _ _ _ (by decide +kernel)⟩
  rw [size.2, size.1]
  exact ⟨by decide, by decide, by decide, 0, 2, 0x62F, 0x3000, walk, by decide +kernel, by decide +kernel, head_open⟩

theorem head_is : NumberAt state place 0x3000 := by unfold NumberAt; decide +kernel

theorem tail_is : NumberAt state (place + 8) 0x1042 := by unfold NumberAt; decide +kernel

/-- The drain gives up all three bytes: the place of the first is out of reach, and R420 drops the write. -/
theorem drain_drops_all : stagedAfter (exec (.contrailDrain 0) state) 0 = some [(0, { staging with bytes := [] })] := by
  decide +kernel

end Sys2Proof.Machine.HalfTier

namespace Sys2Proof.Machine

open Sys2Proof.Claims

/-- Refutes O56: its clause on CONTRAIL_DRAIN asks only that the first byte of a segment can be reached. In a page of the memory tier,
which two ports take in turn by 4 KiB (R402), the next byte of the stream may be at a port that is down. All that was staged is then
dropped (R420), where the statement keeps the byte for which there is no room: and settle changes nothing of a core but its lines. -/
theorem not_machineObserved : ¬ Obligations.MachineObserved := by
  unfold Obligations.MachineObserved
  rintro ⟨-, drains, -⟩
  obtain ⟨t, y, hrun, -, -, -, -, hcore, hstaging⟩ := drains HalfTier.state 0 0 HalfTier.place 0x3000 0x1042 HalfTier.core HalfTier.context
    HalfTier.staging rfl rfl (List.cons_ne_nil _ _) rfl rfl HalfTier.noSounds HalfTier.noDirty HalfTier.quiet HalfTier.segment
    HalfTier.head_is HalfTier.tail_is (by decide) (by decide) (by decide)
  have kept : HalfTier.stagedAfter (exec (.contrailDrain 0) HalfTier.state) 0 = some y.staging := by
    rw [hrun]
    simpa [HalfTier.stagedAfter, hcore] using staging_of_onlyLines (settle_onlyLines t) 0
  rw [HalfTier.drain_drops_all, hstaging] at kept
  exact absurd kept (by decide)

end Sys2Proof.Machine

/-!
SUPPORT. Contrail packets: what staging one changes of the state (R422, R424).
-/

namespace Sys2Proof.Machine

open Sys2Proof.Claims

/-- Nothing changes but what cores have staged. -/
def OnlyStaging (s t : State) : Prop :=
  t = { s with cores := t.cores } ∧
  ∀ k, (t.cores.get? k).map (fun c => { c with staging := [] }) = (s.cores.get? k).map fun c => { c with staging := [] }

theorem onlyStaging_refl (s : State) : OnlyStaging s s := ⟨rfl, fun _ => rfl⟩

theorem OnlyStaging.trans {s t r : State} (h : OnlyStaging s t) (k : OnlyStaging t r) : OnlyStaging s r := by
  obtain ⟨ht, hc⟩ := h
  obtain ⟨hr, kc⟩ := k
  refine ⟨?_, fun n => (kc n).trans (hc n)⟩
  rw [hr, ht]

theorem onlyStaging_foldl {α : Type} (f : State → α → State) (h : ∀ s a, OnlyStaging s (f s a)) (l : List α) (s : State) :
    OnlyStaging s (l.foldl f s) := by
  induction l generalizing s with
  | nil => exact onlyStaging_refl s
  | cons a l ih => exact (h s a).trans (ih (f s a))

theorem modifyCore_onlyStaging (s : State) (n : Nat) (f : Core → Core)
    (h : ∀ c, { f c with staging := [] } = { c with staging := [] }) : OnlyStaging s (s.modifyCore n f) := by
  refine ⟨rfl, fun k => ?_⟩
  simp only [State.modifyCore, Table.get?_update]
  split
  · next hk => subst hk; cases s.cores.get? k <;> simp [h]
  · rfl

theorem stagePacket_onlyStaging (s : State) (core ctx slot : Nat) (timed : Bool) (bytes : List Byte) :
    OnlyStaging s (stagePacket s core ctx slot timed bytes) :=
  modifyCore_onlyStaging s core _ fun _ => rfl

theorem stageSync_onlyStaging (s : State) (core ctx : Nat) : OnlyStaging s (stageSync s core ctx) :=
  (stagePacket_onlyStaging s core ctx _ _ _).trans (modifyCore_onlyStaging _ core _ fun _ => rfl)

theorem tracePacket_onlyStaging (s : State) (u : Issuer) (timed : Bool) (bytes : List Byte) :
    OnlyStaging s (tracePacket s u timed bytes) := by
  unfold tracePacket
  split
  · exact stagePacket_onlyStaging s _ _ _ _ _
  · exact onlyStaging_refl s

/-- R422: a group that is not traced stages nothing. -/
theorem tracePacket_untraced (s : State) {u : Issuer} (h : (u.c.tracing && !u.isHandler) = false) (timed : Bool) (bytes : List Byte) :
    tracePacket s u timed bytes = s := by
  rw [tracePacket, h]; rfl

/-! ## Packets of the group that executes -/

/-- Packets are staged on behalf of a group: nothing else changes, and nothing at all where it is not traced. -/
def Packets (s t : State) (u : Issuer) : Prop :=
  OnlyStaging s t ∧ ((u.c.tracing && !u.isHandler) = false → t = s)

theorem packets_refl (s : State) (u : Issuer) : Packets s s u := ⟨onlyStaging_refl s, fun _ => rfl⟩

theorem tracePacket_packets {s t : State} {u : Issuer} (h : Packets s t u) (timed : Bool) (bytes : List Byte) :
    Packets s (tracePacket t u timed bytes) u :=
  ⟨h.1.trans (tracePacket_onlyStaging t u timed bytes), fun hu => (tracePacket_untraced t hu timed bytes).trans (h.2 hu)⟩

/-- An instruction that changes its group, after its packets. -/
theorem Packets.onlyTraced {s s1 t : State} {u : Issuer} (h : Packets s s1 u) (k : OnlyGroup s1 t u) : OnlyTraced s t u := by
  obtain ⟨⟨hs, hc⟩, hu⟩ := h
  obtain ⟨ht, hg, hx, hm⟩ := k
  have fields : t = { s with groups := t.groups, contexts := t.contexts, cores := t.cores } := by rw [ht, hs]
  have cores : t.cores = s1.cores := by rw [ht]
  refine ⟨fields, fun n hn => ?_, fun n => ?_, fun n => ?_, fun huntraced => ?_, fun a => ?_⟩
  · rw [hg n hn, hs]
  · rw [hx n, hs]
  · rw [cores, hc n]
  · rw [cores, hu huntraced]
  · rw [hm a, hs]

end Sys2Proof.Machine

/-!
SUPPORT. Control of a group (R47 to R53): transfers, the lanes that a guard enables, the reconvergence stack.
-/

namespace Sys2Proof.Machine

open Sys2Proof.Claims

/-! ## Transfers of control -/

theorem transfer_onlyGroup (s : State) (u : Issuer) (g : Group) (a : Word64) (taken byAddress : Bool) :
    OnlyGroup s (transfer s u g a taken byAddress) u := by
  unfold transfer
  refine ⟨?_, fun k hk => ?_, fun c => ?_, fun b => ?_⟩
  · rw [soundEnd_frame]; rfl
  · simp [State.setGroup, Table.get?_insert, hk]
  · rw [soundEnd_contexts]; cases u.g.sound <;> rfl
  · rw [soundEnd_frame]; rfl

theorem transfer_group (s : State) (u : Issuer) (g : Group) (a : Word64) (taken byAddress : Bool) :
    (transfer s u g a taken byAddress).groups.get? u.gid =
      some (atClause { g with ic := g.ic + 1, suppressed := none, sound := none, counted := false
                              taken := taken, addrNext := byAddress } a) := by
  simp [transfer, State.setGroup]

/-! ## The lanes of a condition (R53) -/

theorem bitOf_toNat {n : Nat} (x : BitVec n) (i : Nat) : bitOf x.toNat i = x.getLsbD i := by
  rw [bitOf, BitVec.getLsbD, Nat.testBit_eq_decide_div_mod_eq]

theorem Issuer.guard_eq (u : Issuer) (tt : BitVec 8) (l : Nat) : u.guard tt l = guardBit u tt l := by
  simp only [Issuer.guard, guardBit, bitOf_toNat]
  cases u.g.pred (hdrGA u.header) l <;> cases u.g.pred (hdrGB u.header) l <;> cases u.g.pred (hdrGC u.header) l <;> rfl

theorem Issuer.mem_enabledLanes (u : Issuer) (tt : BitVec 8) (l : Nat) :
    l ∈ u.enabledLanes tt ↔ Active u l ∧ guardBit u tt l = true := by
  simp only [Issuer.enabledLanes, Issuer.activeLanes, List.mem_filter, mem_upFrom_zero, Issuer.guard_eq, Active]

theorem getLsbD_laneMask (lanes : List Nat) {l : Nat} (hl : l < 128) : (laneMask lanes).getLsbD l = decide (l ∈ lanes) := by
  suffices h : ∀ m : LaneMask, (lanes.foldl (fun m l => m ||| (1#128 <<< l)) m).getLsbD l = (m.getLsbD l || decide (l ∈ lanes)) by
    simpa [laneMask] using h 0
  induction lanes with
  | nil => simp
  | cons a t ih =>
    intro m
    have bit : (1#128 <<< a).getLsbD l = decide (l = a) := by
      rw [Bool.eq_iff_iff]
      simp [hl]
      omega
    rw [List.foldl_cons, ih, BitVec.getLsbD_or, bit]
    simp [Bool.or_assoc]

/-- The lanes where a condition holds, as a mask. -/
theorem laneMask_enabledLanes {u : Issuer} {tt : BitVec 8} {m : LaneMask} (h : condMask u tt m) :
    laneMask (u.enabledLanes tt) = m := by
  refine BitVec.eq_of_getLsbD_eq fun l hl => ?_
  rw [getLsbD_laneMask _ hl, Bool.eq_iff_iff, decide_eq_true_iff, u.mem_enabledLanes, h l hl]

/-! ## The reconvergence stack (R49) -/

theorem liveTop_cons (e : StackEntry) (t : List StackEntry) : liveTop (e :: t) = if e.mask = 0 then liveTop t else e :: t := by
  by_cases he : e.mask = 0 <;> simp [liveTop, List.dropWhile_cons, he]

theorem popEntry_eq_none {stack : List StackEntry} (h : liveTop stack = []) : popEntry stack = none := by
  induction stack with
  | nil => rfl
  | cons x t ih =>
    rw [liveTop_cons] at h
    rw [popEntry]
    split at h
    · next hx => rw [if_pos hx, ih h]
    · cases h

theorem popEntry_eq_some {stack rest : List StackEntry} {e : StackEntry} (h : liveTop stack = e :: rest) :
    popEntry stack = some (e, rest) := by
  induction stack with
  | nil => cases h
  | cons x t ih =>
    rw [liveTop_cons] at h
    rw [popEntry]
    split at h
    · next hx => rw [if_pos hx, ih h]
    · next hx => cases h; rw [if_neg hx]

/-- R49: a group that has staged its packets takes up an entry of its stack. -/
theorem rejoin_rejoins {s s1 : State} {u : Issuer} {g : Group} {e : StackEntry} {rest : List StackEntry} {ok : Group → Prop}
    (hs : Packets s s1 u) (hic : g.ic = u.g.ic) (hst : g.status = u.g.status) (hw : g.wait = u.g.wait)
    (hok : ok (atClause { g with ic := g.ic + 1, suppressed := none, sound := none, counted := false, taken := false
                                 addrNext := false, active := e.mask, fmt := e.fmt, stack := rest } e.target)) :
    Rejoins s u e rest ok (rejoin s1 u g e rest) := by
  refine ⟨(tracePacket_packets hs _ _).onlyTraced (transfer_onlyGroup _ _ _ _ _ _), _, transfer_group _ _ _ _ _ _, ?_, rfl, rfl, rfl, hok⟩
  simp [AtTarget, atClause, hic, hst, hw]

/-! ## exit (R51) -/

/-- What exit has staged before its group changes: the packet of the lanes that leave, if there are any. -/
def exitStaged (s : State) (u : Issuer) (m : LaneMask) : State :=
  if m = 0 then s else tracePacket s u false (0x60 :: slotByte (retireLanes u.g m) :: maskBytes u.l.width m)

theorem exitStaged_packets (s : State) (u : Issuer) (m : LaneMask) : Packets s (exitStaged s u m) u := by
  unfold exitStaged
  split
  · exact packets_refl s u
  · exact tracePacket_packets (packets_refl s u) _ _

theorem execExit_eq {f : FormV} {s : State} {u : Issuer} {m : LaneMask} (h : Issuing s u) (hm : condMask u f.tt m) :
    execExit f s =
      if u.g.active &&& ~~~m ≠ 0 then .next (finish (exitStaged s u m) u (retireLanes u.g m) voidEntry)
      else match popEntry (without m u.g.stack) with
        | some (e, rest) => .next (rejoin (exitStaged s u m) u (retireLanes u.g m) e rest)
        | none => .next (retireGroup (finish (exitStaged s u m) u (retireLanes u.g m) voidEntry) u.gid u.l.width) := by
  rw [execExit, withIssuer_issuing h, laneMask_enabledLanes hm]
  rfl

/-- Where a group stands whose lanes have left, without the end of the group. -/
theorem finish_retireLanes (s : State) (u : Issuer) (m : LaneMask) :
    ∃ g, (finish s u (retireLanes u.g m) voidEntry).groups.get? u.gid = some g ∧ NextPlace u void g ∧
      g = { moved u.g g with active := u.g.active &&& ~~~m, exited := u.g.exited ||| m, stack := without m u.g.stack } := by
  refine ⟨_, finish_group _ _ _ _, advance_nextPlace u _ _ rfl rfl rfl rfl rfl rfl rfl rfl, ?_⟩
  have frame := advance_frame u (retireLanes u.g m) voidEntry
  generalize advance u (retireLanes u.g m) voidEntry = g at frame ⊢
  exact frame

end Sys2Proof.Machine

/-!
PROOF. O19: nop, exit and yield (R51, R207, R213, R214).
-/

namespace Sys2Proof.Machine

open Sys2Proof.Claims

/-- Settles O19: nop and yield only advance their group; exit has three ends, by the lanes left active and by the stack. -/
theorem nopExitYield : Obligations.NopExitYield := by
  refine ⟨fun f s u _ h => ?_, fun f s u _ h => ?_, fun f s u m _ h hm => ?_⟩
  · refine ⟨finish s u u.g voidEntry, withIssuer_issuing h _, finish_onlyGroup _ _ _ _, _, finish_group _ _ _ _, ?_, ?_⟩
    · exact advance_nextPlace u u.g voidEntry rfl rfl rfl rfl rfl rfl rfl rfl
    · exact advance_frame u u.g voidEntry
  · refine ⟨finish s u { u.g with yielded := true, owes := true } voidEntry, withIssuer_issuing h _, finish_onlyGroup _ _ _ _, _,
      finish_group _ _ _ _, ?_, ?_⟩
    · exact advance_nextPlace u _ voidEntry rfl rfl rfl rfl rfl rfl rfl rfl
    · have frame := advance_frame u { u.g with yielded := true, owes := true } voidEntry
      generalize advance u { u.g with yielded := true, owes := true } voidEntry = g at frame ⊢
      exact frame
  · have run : exec (.exit f) s = _ := execExit_eq h hm
    have staged := exitStaged_packets s u m
    have onlyTraced := staged.onlyTraced (finish_onlyGroup (exitStaged s u m) u (retireLanes u.g m) voidEntry)
    obtain ⟨g, hg, place, hgroup⟩ := finish_retireLanes (exitStaged s u m) u m
    refine ⟨fun left => ?_, fun e rest none_left top => ?_, fun none_left empty => ?_⟩
    · rw [if_pos left] at run
      exact ⟨_, g, run, onlyTraced, hg, place, hgroup⟩
    · rw [if_neg (not_not.mpr none_left), popEntry_eq_some top] at run
      exact ⟨_, run, rejoin_rejoins staged rfl rfl rfl rfl⟩
    · rw [if_neg (not_not.mpr none_left), popEntry_eq_none empty] at run
      rw [none_left] at hgroup
      exact ⟨_, g, run, onlyTraced, hg, hgroup⟩

end Sys2Proof.Machine

/-!
SUPPORT. Tables whose keys rise: what is listed is what is read.
-/

namespace Sys2Proof.Table

variable {α : Type}

theorem mem_of_get? {t : Table α} {k : Nat} {a : α} (h : t.get? k = some a) : (k, a) ∈ t := by
  induction t with
  | nil => cases h
  | cons p t ih =>
    obtain ⟨j, b⟩ := p
    rw [get?_cons] at h
    split at h
    · next hj => cases h; subst hj; exact List.mem_cons_self
    · exact List.mem_cons_of_mem _ (ih h)

theorem pairwise_of_sorted {t : Table α} (h : t.sorted = true) : t.Pairwise fun p q => p.1 < q.1 := by
  induction t with
  | nil => exact .nil
  | cons p t ih =>
    obtain ⟨j, b⟩ := p
    rw [sorted_cons, Bool.and_eq_true] at h
    refine List.pairwise_cons.mpr ⟨fun q hq => ?_, ih h.2⟩
    cases t with
    | nil => cases hq
    | cons r t =>
      have first : j < r.1 := by simpa [firstAbove] using h.1
      rcases List.mem_cons.mp hq with rfl | hq
      · exact first
      · exact first.trans ((List.pairwise_cons.mp (ih h.2)).1 q hq)

theorem get?_of_mem {t : Table α} (h : t.sorted = true) {k : Nat} {a : α} (hm : (k, a) ∈ t) : t.get? k = some a := by
  have rising := pairwise_of_sorted h
  clear h
  induction t with
  | nil => cases hm
  | cons p t ih =>
    obtain ⟨above, rising⟩ := List.pairwise_cons.mp rising
    rcases List.mem_cons.mp hm with rfl | hm
    · rw [get?_cons, if_pos rfl]
    · have := above (k, a) hm
      rw [get?_cons, if_neg (by simpa using Nat.ne_of_lt this), ih hm rising]

/-- What is listed under the keys that satisfy a condition. -/
theorem get?_filter_key (t : Table α) (p : Nat → Bool) (k : Nat) :
    Table.get? (t.filter fun x => p x.1) k = if p k then t.get? k else none := by
  induction t with
  | nil => simp
  | cons x t ih =>
    obtain ⟨j, b⟩ := x
    by_cases hj : j = k
    · subst hj
      cases hp : p j <;> simp [hp, get?_cons, ih]
    · cases hp : p j <;> simp [hp, get?_cons, hj, ih]

end Sys2Proof.Table

/-!
SUPPORT. Cores that hold nothing dirty (R160): a line that leaves an L1, or is cleaned there, changes no memory.
-/

namespace Sys2Proof.Machine

open Sys2Proof.Claims

theorem noDirty_iff (s : State) :
    NoDirty s ↔ ∀ c x ln l, s.cores.get? c = some x → x.lines.get? ln = some l → l.dirty = 0 := by
  constructor
  · intro h c x ln l hx hl
    refine BitVec.eq_of_getLsbD_eq fun i hi => ?_
    have line : lineOf (128 * ln + i) = ln := by unfold lineOf; omega
    have offset : (128 * ln + i) % 128 = i := by omega
    simpa [coreDirty, hx, hl, line, offset] using h c (128 * ln + i)
  · intro h c b
    unfold coreDirty
    split
    · next l hl =>
      obtain ⟨x, hx, hxl⟩ := Option.bind_eq_some_iff.mp hl
      simp [h c x _ l hx hxl]
    · rfl

/-- Nothing but the cores has changed, and they hold nothing dirty. -/
def CoresClean (s t : State) : Prop := t = { s with cores := t.cores } ∧ NoDirty t

theorem CoresClean.refl {s : State} (h : NoDirty s) : CoresClean s s := ⟨rfl, h⟩

theorem CoresClean.trans {s t r : State} (h : CoresClean s t) (k : CoresClean t r) : CoresClean s r :=
  ⟨by rw [k.1, h.1], k.2⟩

theorem coresClean_foldl {α : Type} (f : State → α → State) (h : ∀ s a, NoDirty s → CoresClean s (f s a)) (l : List α)
    {s : State} (hs : NoDirty s) : CoresClean s (l.foldl f s) := by
  induction l generalizing s with
  | nil => exact .refl hs
  | cons a l ih => exact (h s a hs).trans (ih (h s a hs).2)

/-- A core changes whose lines afterwards are clean, or lines that it had. -/
theorem modifyCore_coresClean {s : State} (hs : NoDirty s) (n : Nat) (f : Core → Core)
    (hf : ∀ x ln l, (f x).lines.get? ln = some l → l.dirty = 0 ∨ x.lines.get? ln = some l) : CoresClean s (s.modifyCore n f) := by
  refine ⟨rfl, (noDirty_iff _).mpr fun c x ln l hx hl => ?_⟩
  have old := (noDirty_iff s).mp hs
  simp only [State.modifyCore, Table.get?_update] at hx
  split at hx
  · obtain ⟨y, hy, rfl⟩ := Option.map_eq_some_iff.mp hx
    rcases hf y ln l hl with clean | same
    · exact clean
    · exact old n y ln l hy same
  · exact old c x ln l hx hl

theorem writeLine_clean (s : State) (ln : Nat) {l : Line} (h : l.dirty = 0) : writeLine s ln l = s := by
  have none_mine : ∀ w, (upFrom (8 * w) 8).filter l.dirty.getLsbD = [] := fun w => by
    rw [h, List.filter_eq_nil_iff]; simp
  unfold writeLine
  simp only [none_mine]
  exact List.foldl_fixed _

theorem cleanLine_coresClean {s : State} (hs : NoDirty s) (core ln : Nat) : CoresClean s (cleanLine s core ln) := by
  unfold cleanLine
  split
  · exact .refl hs
  · next l hl =>
    obtain ⟨x, hx, hxl⟩ := Option.bind_eq_some_iff.mp hl
    rw [writeLine_clean s ln ((noDirty_iff s).mp hs core x ln l hx hxl)]
    refine modifyCore_coresClean hs core _ fun y n m hm => ?_
    rw [Table.get?_insert] at hm
    split at hm
    · cases hm; exact .inl rfl
    · exact .inr hm

theorem dropLine_coresClean {s : State} (hs : NoDirty s) (core ln : Nat) : CoresClean s (dropLine s core ln) := by
  have cleaned := cleanLine_coresClean hs core ln
  refine cleaned.trans (modifyCore_coresClean cleaned.2 core _ fun x n l hl => ?_)
  rw [Table.get?_erase] at hl
  split at hl
  · cases hl
  · exact .inr hl

theorem cleanCore_coresClean {s : State} (hs : NoDirty s) (core : Nat) : CoresClean s (cleanCore s core) :=
  coresClean_foldl _ (fun _ ln h => cleanLine_coresClean h core ln) _ hs

/-- R347: a core takes a tenant's team; nothing else changes. -/
theorem claimCore_coresClean {s : State} (hs : NoDirty s) (ctx tn core banks : Nat) :
    CoresClean s (claimCore s ctx tn core banks) := by
  have claimed : CoresClean s (s.modifyCore core fun c =>
      { c with held := (heldOn s core c).insert tn banks, issuing := c.issuing.orElse fun _ => some tn
               sliceStart := if c.issuing.isNone then s.ticks.toNat else c.sliceStart }) :=
    modifyCore_coresClean hs core _ fun _ _ _ h => .inr h
  refine claimed.trans (coresClean_foldl _ (fun t ln ht => ?_) _ claimed.2)
  split
  · exact dropLine_coresClean ht core ln
  · exact .refl ht

end Sys2Proof.Machine

/-!
SUPPORT. The first of what waits is placed (R340, R341, R423, R472).
-/

namespace Sys2Proof.Machine

open Sys2Proof.Claims

/-! ## Cores that are open (R43, R351) -/

theorem covers_of_covers {l : Launch} {c : Core} (h : Covers l c) : covers l c = true := by
  obtain ⟨usable, features⟩ := h
  have wanted : ∀ i, i < 6 → (BitVec.ofNat 6 l.feat).getLsbD i = l.desc.getLsbD (152 + i) := fun i hi => by
    rw [BitVec.getLsbD_ofNat, Launch.feat, recField, Nat.testBit_mod_two_pow, Nat.testBit_div_two_pow, BitVec.getLsbD, Nat.add_comm]
    simp [hi]
  have met : BitVec.ofNat 6 l.feat &&& ~~~c.feat = 0 := BitVec.eq_of_getLsbD_eq fun i hi => by
    rw [BitVec.getLsbD_and, wanted i hi, BitVec.getLsbD_not]
    cases hd : l.desc.getLsbD (152 + i)
    · simp
    · simp [features i hi hd]
  simp [covers, usable, met]

theorem openTo_of_openTo {l : Launch} {c : Core} {tn : Nat} (h : OpenTo l c tn) : openTo l c tn = true := by
  rcases h with ⟨kind, owner⟩ | shared | ⟨margin, revocable⟩
  · simp [openTo, ownCore, kind, owner]
  · simp [openTo, shared]
  · by_cases owner : c.owner = tn <;> simp [openTo, ownCore, borrowable, margin, owner, revocable]

/-- R472: what waits has a core that can hold it. -/
theorem uncovered_eq_false {s : State} {w : Waiting} {l : Launch} {tn : Nat} {tt : Tenant} (hl : s.launches.get? w.launch = some l)
    (ht : launchTenant s l = some (tn, tt)) (h : ∃ p ∈ s.cores, Covers l p.2 ∧ OpenTo l p.2 tn) : uncovered s w = false := by
  obtain ⟨p, hp, cov, opened⟩ := h
  have : canCover s l tn = true :=
    List.any_eq_true.mpr ⟨p.2, List.mem_map_of_mem hp, by simp [covers_of_covers cov, openTo_of_openTo opened]⟩
  simp [uncovered, hl, ht, this]

theorem firstPlaced_of_head {s s1 : State} {w : Waiting} (hw : (waitingUnits s).head? = some w) (hu : uncovered s w = false)
    (hp : placeUnit s w = some s1) : firstPlaced s (waitingUnits s) = some (w, s1) := by
  obtain ⟨ws, e⟩ := List.head?_eq_some_iff.mp hw
  rw [e, firstPlaced, if_neg (by simp [hu]), hp]

/-! ## The packets of a placement (R422, R423) -/

theorem outOfOrder_eq_false {s : State} (h : NoPacketsNow s) (core ctx slot : Nat) : outOfOrder s core ctx slot = false := by
  have first : (stagingOf s core ctx).lastEvent = s.ticks.toNat → (stagingOf s core ctx).lastSlot = 0 := by
    unfold stagingOf
    split
    · next st hst =>
      obtain ⟨c, hc, hcs⟩ := Option.bind_eq_some_iff.mp hst
      exact h core c hc (ctx, st) (Table.mem_of_get? hcs)
    · exact fun _ => rfl
  by_cases now : (stagingOf s core ctx).lastEvent = s.ticks.toNat
  · simp [outOfOrder, first now]
  · simp [outOfOrder, now]

theorem placedInOrder_eq_true {s : State} (h : NoPacketsNow s) (s1 : State) : placedInOrder s s1 = true := by
  simp [placedInOrder, outOfOrder_eq_false h]

theorem tracePlaced_onlyStaging (s s1 : State) : OnlyStaging s1 (tracePlaced s s1) :=
  onlyStaging_foldl _ (fun _ _ => .trans (onlyStaging_foldl _ (fun _ _ => tracePacket_onlyStaging _ _ _ _) _ _)
    (stageSync_onlyStaging _ _ _)) _ _

/-- R340: a team for whose sake a cluster is placed waits for it no longer. -/
def yieldEnded (lid first : Nat) (x : Team) : Team := if x.yieldFor = some (lid, first) then { x with yieldFor := none } else x

theorem afterPlaced_frame (s : State) (w : Waiting) (s1 : State) :
    afterPlaced s w s1 = { s1 with cores := (afterPlaced s w s1).cores, teams := (afterPlaced s w s1).teams } := by
  obtain ⟨h, -⟩ := tracePlaced_onlyStaging s (yieldsServed s w s1)
  have teams : yieldsServed s w s1 = { s1 with teams := (yieldsServed s w s1).teams } := by
    unfold yieldsServed; split <;> rfl
  unfold afterPlaced
  rw [h, teams]

theorem afterPlaced_cores (s : State) (w : Waiting) (s1 : State) (k : Nat) :
    ((afterPlaced s w s1).cores.get? k).map (fun c => { c with staging := [] }) =
      (s1.cores.get? k).map fun c => { c with staging := [] } := by
  rw [afterPlaced, (tracePlaced_onlyStaging s (yieldsServed s w s1)).2 k]
  unfold yieldsServed
  split <;> rfl

theorem afterPlaced_teams {s : State} {w : Waiting} {l : Launch} (hl : s.launches.get? w.launch = some l) (s1 : State) (k : Nat) :
    (afterPlaced s w s1).teams.get? k = (s1.teams.get? k).map (yieldEnded w.launch (firstTeam l w)) := by
  rw [afterPlaced, (tracePlaced_onlyStaging s (yieldsServed s w s1)).1]
  simp only [yieldsServed, hl, Table.get?_mapVals]
  rfl

/-- TEAM_DISPATCH where the first of what waits is new, and fits. -/
theorem execTeamDispatch_fresh {s s1 : State} {lid : Nat} {l : Launch} {tn : Nat} {tt : Tenant} (h : NextIsFresh s lid l tn tt)
    (hn : NoPacketsNow s) (hp : placeUnit s (.fresh lid) = some s1) :
    execTeamDispatch s = .next (afterPlaced s (.fresh lid) s1) := by
  obtain ⟨-, head, launch, tenant, core, -⟩ := h
  rw [execTeamDispatch, firstPlaced_of_head head (uncovered_eq_false launch tenant core) hp]
  simp [Waiting.rank, placedInOrder_eq_true hn]

end Sys2Proof.Machine

/-!
SUPPORT. Teams at their creation (R35, R36, R341): one team, the teams of a cluster, a cluster of a launch, a whole grid.
-/

namespace Sys2Proof.Machine

open Sys2Proof.Claims

/-! ## A group at creation -/

theorem getElem?_upFrom (a n k : Nat) : (upFrom a n)[k]? = if k < n then some (a + k) else none := by
  induction n generalizing a k with
  | zero => simp [upFrom]
  | succ n ih =>
    cases k with
    | zero => simp [upFrom]
    | succ k => simp only [upFrom, List.getElem?_cons_succ, ih, Nat.add_lt_add_iff_right, Nat.add_right_comm, Nat.add_assoc]

@[simp] theorem length_upFrom (a n : Nat) : (upFrom a n).length = n := by
  induction n generalizing a with
  | zero => rfl
  | succ n ih => simp [upFrom, ih]

theorem getLsbD_allLanes (w : Nat) {i : Nat} (hi : i < 128) : (allLanes w).getLsbD i = decide (i < w) := by
  rw [allLanes, BitVec.getLsbD_ofNat, Nat.testBit_two_pow_sub_one]
  simp [hi]

theorem newGroup_created (l : Launch) (lid tid k core slot area args : Nat) :
    Created l lid tid k core args (newGroup l lid tid k (agentId core slot) slot area args) := by
  have scalars : ∀ n, (newGroup l lid tid k (agentId core slot) slot area args).sreg n =
      if n = 0 then BitVec.ofNat 32 args else if n = 1 then BitVec.ofNat 32 (args / 2 ^ 32) else 0 := fun n => by
    simp only [Group.sreg, newGroup, Table.read_write]
    by_cases h0 : n = 0
    · simp [h0]
    · simp [h0, Table.read]
  exact ⟨rfl, rfl, rfl, rfl, rfl, rfl, rfl, fun i hi => getLsbD_allLanes _ hi, rfl, rfl, fun _ _ _ => rfl, scalars,
    fun _ _ => BitVec.getLsbD_zero, fun _ _ _ => rfl, fun _ => rfl, fun _ => rfl, fun _ _ _ => rfl, rfl, rfl, rfl, rfl, rfl, rfl, rfl, rfl, rfl, rfl, rfl, rfl⟩

/-! ## A team that has been created -/

/-- A team of a launch stands in a seat with its groups, all as at creation. -/
def CreatedTeam (t : State) (lid : Nat) (l : Launch) (index : Nat) (p : Seat) (tid : Nat) (x : Team) : Prop :=
  t.teams.get? tid = some x ∧
  x = { newTeam lid index p.core x.groups with regBlocks := p.regBlocks, memBlocks := p.memBlocks, tileBlocks := p.tileBlocks
                                               pinned := l.cogrid, agents := x.agents } ∧
  x.groups.length = l.groupCount ∧
  ∀ k gid, x.groups[k]? = some gid → ∃ slot area,
    t.groups.get? gid = some (newGroup l lid tid k (agentId p.core slot) slot area l.args)

/-- The names that are in use in s stand for the same teams and groups in t. -/
def NamesKept (s t : State) : Prop :=
  s.nextId ≤ t.nextId ∧ (∀ n, n < s.nextId → t.teams.get? n = s.teams.get? n) ∧ ∀ n, n < s.nextId → t.groups.get? n = s.groups.get? n

theorem NamesKept.trans {s t r : State} (h : NamesKept s t) (k : NamesKept t r) : NamesKept s r := by
  obtain ⟨hn, ht, hg⟩ := h
  obtain ⟨kn, kt, kg⟩ := k
  exact ⟨hn.trans kn, fun n lt => (kt n (lt.trans_le hn)).trans (ht n lt), fun n lt => (kg n (lt.trans_le hn)).trans (hg n lt)⟩

/-- The names of a team and of its groups are in use. -/
def NamesUsed (t : State) (tid : Nat) (x : Team) : Prop := tid < t.nextId ∧ ∀ gid ∈ x.groups, gid < t.nextId

theorem CreatedTeam.kept {s t : State} {lid : Nat} {l : Launch} {index tid : Nat} {p : Seat} {x : Team}
    (h : CreatedTeam s lid l index p tid x) (hu : NamesUsed s tid x) (k : NamesKept s t) : CreatedTeam t lid l index p tid x := by
  obtain ⟨team, shape, count, groups⟩ := h
  obtain ⟨-, teams, kept⟩ := k
  refine ⟨(teams tid hu.1).trans team, shape, count, fun k gid hk => ?_⟩
  rw [kept gid (hu.2 gid (List.mem_of_getElem? hk))]
  exact groups k gid hk

theorem CreatedTeam.teamAt {t : State} {lid : Nat} {l : Launch} {index tid : Nat} {p : Seat} {x : Team}
    (h : CreatedTeam t lid l index p tid x) : TeamAt t lid tid index p.core x := by
  obtain ⟨team, shape, -, -⟩ := h
  refine ⟨team, ?_⟩
  rw [shape]
  exact ⟨rfl, rfl, rfl, rfl, fun _ => rfl, rfl, rfl, rfl, rfl⟩

/-! ## One team (R35, R36) -/

/-- What placing teams changes: the teams, the groups, the cores and the names in use. -/
def OnlyPlaced (s t : State) : Prop :=
  t = { s with teams := t.teams, groups := t.groups, cores := t.cores, nextId := t.nextId } ∧ NoDirty t ∧ NamesKept s t

theorem OnlyPlaced.trans {s t r : State} (h : OnlyPlaced s t) (k : OnlyPlaced t r) : OnlyPlaced s r := by
  obtain ⟨ht, -, hk⟩ := h
  obtain ⟨kt, kd, kk⟩ := k
  exact ⟨by rw [kt, ht], kd, hk.trans kk⟩

/-- Groups listed from name a on, one for each number below n. -/
theorem get?_insertFrom (f : Nat → Group) (a n : Nat) (t : Table Group) (m : Nat) :
    ((upFrom 0 n).foldl (fun t g => Table.insert t (a + g) (f g)) t).get? m =
      if a ≤ m ∧ m < a + n then some (f (m - a)) else t.get? m := by
  suffices h : ∀ b t, ((upFrom b n).foldl (fun t g => Table.insert t (a + g) (f g)) t).get? m =
      if a + b ≤ m ∧ m < a + b + n then some (f (m - a)) else t.get? m by simpa using h 0 t
  induction n with
  | zero => intro b t; rw [if_neg (by omega)]; rfl
  | succ n ih =>
    intro b t
    rw [upFrom, List.foldl_cons, ih, Table.get?_insert]
    by_cases first : m = a + b
    · rw [if_neg (by omega), if_pos first, if_pos (by omega), first, Nat.add_sub_cancel_left]
    · rw [if_neg first]
      by_cases later : a + (b + 1) ≤ m ∧ m < a + (b + 1) + n
      · rw [if_pos later, if_pos (by omega)]
      · rw [if_neg later, if_neg (by omega)]

/-- R35: group k of a team that is placed from s on. -/
def placedGroup (s : State) (lid : Nat) (l : Launch) (p : Seat) (k : Nat) : Group :=
  let slot := (newSlots s p.core l.groupCount).getD k 0
  newGroup l lid s.nextId k (agentId p.core slot) slot ((freeAreas (areasInUse s l.ctx) l.groupCount).getD k 0) l.args

/-- R36: a team that is placed from s on. -/
def placedTeam (s : State) (lid : Nat) (l : Launch) (index : Nat) (p : Seat) : Team :=
  { newTeam lid index p.core (upFrom (s.nextId + 1) l.groupCount) with
    regBlocks := p.regBlocks, memBlocks := p.memBlocks, tileBlocks := p.tileBlocks
    pinned := l.cogrid, agents := (newSlots s p.core l.groupCount).map (agentId p.core) }

theorem placedTeam_groups (s : State) (lid : Nat) (l : Launch) (index : Nat) (p : Seat) :
    (placedTeam s lid l index p).groups = upFrom (s.nextId + 1) l.groupCount := rfl

/-- The state with a team of a launch in its seat, whose core has not taken it yet. -/
def withTeam (s : State) (lid : Nat) (l : Launch) (index : Nat) (p : Seat) : State :=
  { s with
    nextId := s.nextId + 1 + l.groupCount
    groups := (upFrom 0 l.groupCount).foldl (fun t g => Table.insert t (s.nextId + 1 + g) (placedGroup s lid l p g)) s.groups
    teams := s.teams.insert s.nextId (placedTeam s lid l index p) }

theorem placeTeam_eq (s : State) (lid : Nat) (l : Launch) (tn index : Nat) (p : Seat) :
    placeTeam s lid l tn index p = claimCore (withTeam s lid l index p) l.ctx tn p.core p.banks := rfl

theorem withTeam_namesKept (s : State) (lid : Nat) (l : Launch) (index : Nat) (p : Seat) :
    NamesKept s (withTeam s lid l index p) := by
  refine ⟨by simp [withTeam]; omega, fun n hn => ?_, fun n hn => ?_⟩
  · exact Table.get?_insert_other _ _ (Nat.ne_of_lt hn)
  · rw [withTeam, get?_insertFrom, if_neg (by omega)]

theorem withTeam_created (s : State) (lid : Nat) (l : Launch) (index : Nat) (p : Seat) :
    CreatedTeam (withTeam s lid l index p) lid l index p s.nextId (placedTeam s lid l index p) := by
  refine ⟨Table.get?_insert_same _ _ _, rfl, length_upFrom _ _, fun k gid hk => ?_⟩
  rw [placedTeam_groups, getElem?_upFrom] at hk
  split at hk
  · next lt =>
    cases hk
    exact ⟨_, _, by rw [withTeam, get?_insertFrom, if_pos (by omega), Nat.add_sub_cancel_left]; rfl⟩
  · cases hk

theorem withTeam_namesUsed (s : State) (lid : Nat) (l : Launch) (index : Nat) (p : Seat) :
    NamesUsed (withTeam s lid l index p) s.nextId (placedTeam s lid l index p) := by
  refine ⟨by simp [withTeam]; omega, fun gid hg => ?_⟩
  have := (mem_upFrom _ _ _).mp hg
  simp only [withTeam]
  omega

/-- R35, R36: a team of a launch is created in a seat. -/
theorem placeTeam_created {s : State} (hs : NoDirty s) (lid : Nat) (l : Launch) (tn index : Nat) (p : Seat) :
    let t := placeTeam s lid l tn index p
    OnlyPlaced s t ∧ ∃ tid x, CreatedTeam t lid l index p tid x ∧ NamesUsed t tid x := by
  have hw : NoDirty (withTeam s lid l index p) := hs
  obtain ⟨claimed, clean⟩ := claimCore_coresClean hw l.ctx tn p.core p.banks
  rw [← placeTeam_eq s lid l tn index p] at claimed clean
  have kept := withTeam_namesKept s lid l index p
  have created := withTeam_created s lid l index p
  have used := withTeam_namesUsed s lid l index p
  generalize placeTeam s lid l tn index p = t at claimed clean
  have teams : t.teams = (withTeam s lid l index p).teams := by rw [claimed]
  have groups : t.groups = (withTeam s lid l index p).groups := by rw [claimed]
  have names : t.nextId = (withTeam s lid l index p).nextId := by rw [claimed]
  refine ⟨⟨?_, clean, ?_⟩, s.nextId, placedTeam s lid l index p, ?_, ?_⟩
  · rw [claimed]; rfl
  · rwa [NamesKept, teams, groups, names]
  · rwa [CreatedTeam, teams, groups]
  · rwa [NamesUsed, names]

/-! ## The teams of a cluster (R340) -/

theorem placeTeams_created (lid : Nat) (l : Launch) (tn : Nat) (ps : List Seat) :
    ∀ {s : State} (index : Nat), NoDirty s → OnlyPlaced s (placeTeams s lid l tn index ps) ∧
      ∀ (j : Nat) (p : Seat), ps[j]? = some p → ∃ tid x,
        CreatedTeam (placeTeams s lid l tn index ps) lid l (index + j) p tid x := by
  induction ps with
  | nil => exact fun index hs => ⟨⟨rfl, hs, Nat.le_refl _, fun _ _ => rfl, fun _ _ => rfl⟩, nofun⟩
  | cons p ps ih =>
    intro s index hs
    obtain ⟨placed, tid, x, created, used⟩ := placeTeam_created hs lid l tn index p
    obtain ⟨others, rest⟩ := ih (index + 1) placed.2.1
    refine ⟨placed.trans others, fun j q hj => ?_⟩
    cases j with
    | zero => cases hj; exact ⟨tid, x, created.kept used others.2.2⟩
    | succ j => rw [show index + (j + 1) = index + 1 + j by omega]; exact rest j q hj

/-! ## Where a cluster goes (R340, R341) -/

theorem length_of_placesOn {ps found : List Seat} {cores : List Nat} (h : placesOn ps cores = some found) :
    found.length = cores.length := by
  unfold placesOn at h
  dsimp only at h
  split at h
  · next e => cases h; exact e
  · cases h

theorem length_of_mem_rectangles {w h : Nat} {cores : List Nat} (hc : cores ∈ rectangles w h) : cores.length = w * h := by
  simp only [rectangles, List.mem_flatMap, List.mem_map] at hc
  obtain ⟨d, -, r, -, c, -, rfl⟩ := hc
  simp [rectangle]

/-- A cluster has as many places as teams. -/
theorem length_of_placeCluster {s : State} {l : Launch} {tn : Nat} {tt : Tenant} {need : Nat} {ps : List Seat}
    (h : placeCluster s l tn tt need = some ps) : ps.length = l.clusterSize := by
  unfold placeCluster at h
  dsimp only at h
  split at h
  · next one =>
    obtain ⟨p, -, rfl⟩ := Option.map_eq_some_iff.mp h
    exact one.symm
  · obtain ⟨cores, mem, found⟩ := List.exists_of_findSome?_eq_some h
    rw [length_of_placesOn found, length_of_mem_rectangles mem]; rfl

/-! ## A cluster of a launch, and a whole grid (R45, R334, R340) -/

/-- R334, R340: a launch of which n more teams are placed at a tick. -/
def Launch.dispatched (l : Launch) (now n : Nat) : Launch :=
  { l with nextTeam := l.nextTeam + n, started := true, start := if l.started then l.start else now }

theorem dispatchNext_eq {s : State} {lid : Nat} {l : Launch} {tn : Nat} {tt : Tenant} {ps : List Seat} (hl : s.launches.get? lid = some l)
    (ht : launchTenant s l = some (tn, tt)) (hp : placeCluster s l tn tt l.groupCount = some ps) :
    dispatchNext s lid =
      some (placeTeams (s.setLaunch lid (l.dispatched s.ticks.toNat ps.length)) lid l tn l.nextTeam ps) := by
  simp only [dispatchNext, hl, ht, hp]; rfl

theorem dispatchNext_some {s t : State} {lid : Nat} {l : Launch} (hs : NoDirty s) (hl : s.launches.get? lid = some l)
    (h : dispatchNext s lid = some t) :
    NoDirty t ∧ t.launches.get? lid = some (l.dispatched s.ticks.toNat l.clusterSize) := by
  rw [dispatchNext, hl] at h
  dsimp only at h
  split at h
  · cases h
  · next tn tt _ =>
    split at h
    · cases h
    · next ps hp =>
      cases h
      have clean : NoDirty (s.setLaunch lid (l.dispatched s.ticks.toNat ps.length)) := hs
      obtain ⟨⟨frame, still, -⟩, -⟩ := placeTeams_created lid l tn ps l.nextTeam clean
      refine ⟨still, ?_⟩
      rw [← length_of_placeCluster hp]
      exact (congrArg (Table.get? · lid) (congrArg State.launches frame)).trans (Table.get?_insert_same _ _ _)

/-- R45: n clusters of a launch. -/
theorem dispatchAll_some {lid : Nat} (n : Nat) : ∀ {s t : State} {l : Launch}, NoDirty s → s.launches.get? lid = some l →
    dispatchAll lid n s = some t → ∃ m, t.launches.get? lid = some m ∧ m.nextTeam = l.nextTeam + n * l.clusterSize := by
  induction n with
  | zero => rintro s t l - hl h; cases h; exact ⟨l, hl, by simp⟩
  | succ n ih =>
    intro s t l hs hl h
    obtain ⟨r, hr, rest⟩ := Option.bind_eq_some_iff.mp h
    obtain ⟨clean, launch⟩ := dispatchNext_some hs hl hr
    obtain ⟨m, hm, count⟩ := ih clean launch rest
    refine ⟨m, hm, count.trans ?_⟩
    show l.nextTeam + l.clusterSize + n * l.clusterSize = _
    ring

/-! ## The best place (R341) -/

/-- The core of a place. -/
theorem core_of_fitOn {s : State} {l : Launch} {tn : Nat} {tt : Tenant} {need core : Nat} {c : Core} {p : Seat}
    (h : fitOn s l tn tt need core c = some p) : p.core = core := by
  unfold fitOn at h
  split at h
  · cases h
  split at h
  · cases h
  split at h
  · cases h
  unfold allocOn at h
  dsimp only at h
  split at h
  · split at h
    · cases h; rfl
    · cases h
  · cases h

/-- The places of a team stand in the order of their cores. -/
theorem places_pairwise {s : State} (hs : s.cores.sorted = true) (l : Launch) (tn : Nat) (tt : Tenant) (need : Nat) :
    (places s l tn tt need).Pairwise fun p q => p.core ≤ q.core := by
  refine List.pairwise_map.mpr (List.Pairwise.filter _ (List.pairwise_filterMap.mpr ((Table.pairwise_of_sorted hs).imp ?_)))
  rintro ⟨j, c⟩ ⟨k, d⟩ lt x hx y hy
  obtain ⟨p, hp, rfl⟩ := Option.map_eq_some_iff.mp hx
  obtain ⟨q, hq, rfl⟩ := Option.map_eq_some_iff.mp hy
  rw [core_of_fitOn hp, core_of_fitOn hq]
  exact Nat.le_of_lt lt

/-- R341: of places p and q, p has more free granules, or as many on a core that is no higher. -/
def BestOver (p q : Seat) : Prop := q.freeGranules < p.freeGranules ∨ (q.freeGranules = p.freeGranules ∧ p.core ≤ q.core)

/-- The better of a place found so far and the next. -/
def betterPlace (best : Option Seat) (p : Seat) : Option Seat :=
  match best with
  | none => some p
  | some b => if b.freeGranules < p.freeGranules then some p else some b

theorem bestPlace_cons (b : Seat) (ps : List Seat) : bestPlace (b :: ps) = ps.foldl betterPlace (some b) := rfl

theorem betterPlace_some (b p : Seat) :
    betterPlace (some b) p = if b.freeGranules < p.freeGranules then some p else some b := rfl

/-- A choice that keeps what it has, or takes the next, is one of the list. -/
theorem exists_foldl_choice {α : Type} {f : Option α → α → Option α} (h : ∀ b a, f (some b) a = some b ∨ f (some b) a = some a) (l : List α) :
    ∀ b, ∃ a ∈ b :: l, l.foldl f (some b) = some a := by
  induction l with
  | nil => exact fun b => ⟨b, List.mem_singleton.mpr rfl, rfl⟩
  | cons c l ih =>
    intro b
    rw [List.foldl_cons]
    rcases h b c with e | e
    · obtain ⟨a, mem, chosen⟩ := ih b
      exact ⟨a, (List.Sublist.cons_cons b (List.sublist_cons_self c l)).mem mem, by rw [e]; exact chosen⟩
    · obtain ⟨a, mem, chosen⟩ := ih c
      exact ⟨a, List.mem_cons_of_mem _ mem, by rw [e]; exact chosen⟩

theorem mem_of_bestPlace {ps : List Seat} {p : Seat} (h : bestPlace ps = some p) : p ∈ ps := by
  cases ps with
  | nil => cases h
  | cons b ps =>
    obtain ⟨a, mem, chosen⟩ := exists_foldl_choice (f := betterPlace) (fun b a => by rw [betterPlace_some]; split <;> simp) ps b
    rw [bestPlace_cons] at h
    cases h.symm.trans chosen
    exact mem

/-- A choice that goes on from a place b ends with the best. -/
theorem foldl_betterPlace_best (ps : List Seat) : ∀ (b p : Seat), (b :: ps).Pairwise (fun p q => p.core ≤ q.core) →
    ps.foldl betterPlace (some b) = some p → ∀ q ∈ b :: ps, BestOver p q := by
  induction ps with
  | nil => rintro b p - h q hq; cases h; rw [List.mem_singleton.mp hq]; exact .inr ⟨rfl, le_rfl⟩
  | cons a ps ih =>
    intro b p order h q hq
    obtain ⟨first, rest⟩ := List.pairwise_cons.mp order
    rw [List.foldl_cons, betterPlace_some] at h
    split at h
    · next lt =>
      have best := ih a p rest h
      rcases List.mem_cons.mp hq with rfl | hq
      · have over_a := best a List.mem_cons_self
        unfold BestOver at over_a ⊢; omega
      · exact best q hq
    · next ge =>
      have best := ih b p (order.sublist (.cons_cons b (List.sublist_cons_self a ps))) h
      rcases List.mem_cons.mp hq with rfl | hq
      · exact best q List.mem_cons_self
      · rcases List.mem_cons.mp hq with rfl | hq
        · have over_b := best b List.mem_cons_self
          have later := first q List.mem_cons_self
          unfold BestOver at over_b ⊢; omega
        · exact best q (List.mem_cons_of_mem _ hq)

theorem bestPlace_best {ps : List Seat} {p : Seat} (order : ps.Pairwise fun p q => p.core ≤ q.core) (h : bestPlace ps = some p) :
    ∀ q ∈ ps, BestOver p q := by
  cases ps with
  | nil => cases h
  | cons b ps => exact foldl_betterPlace_best ps b p order h

/-! ## TEAM_DISPATCH -/

theorem placeUnit_fresh {s : State} {lid : Nat} {l : Launch} (hl : s.launches.get? lid = some l) :
    placeUnit s (.fresh lid) = if l.cogrid then dispatchAll lid (l.teamTotal / max 1 l.clusterSize) s else dispatchNext s lid := by
  simp only [placeUnit, hl]

/-- R340: the next cluster of a launch is dispatched. -/
theorem teamDispatch_cluster {s : State} {lid : Nat} {l : Launch} {tn : Nat} {tt : Tenant} {ps : List Seat} (h : NextIsFresh s lid l tn tt)
    (hs : NoDirty s) (hn : NoPacketsNow s) (hc : l.cogrid = false) (hp : placeCluster s l tn tt l.groupCount = some ps) :
    ∃ t, exec .teamDispatch s = .next t ∧ SameMemory s t ∧
      t.launches.get? lid = some (l.dispatched s.ticks.toNat ps.length) ∧
      (∀ n, n ≠ lid → t.launches.get? n = s.launches.get? n) ∧
      (∀ n x, n < s.nextId → s.teams.get? n = some x → t.teams.get? n = some (yieldEnded lid l.nextTeam x)) ∧
      (∀ n g, n < s.nextId → s.groups.get? n = some g → t.groups.get? n = some g) ∧
      ∀ (j : Nat) (p : Seat), ps[j]? = some p → ∃ tid x, CreatedTeam t lid l (l.nextTeam + j) p tid x := by
  have launch := h.2.2.1
  have next := dispatchNext_eq launch h.2.2.2.1 hp
  have clean : NoDirty (s.setLaunch lid (l.dispatched s.ticks.toNat ps.length)) := hs
  obtain ⟨⟨placed, -, -, teams, groups⟩, created⟩ := placeTeams_created lid l tn ps l.nextTeam clean
  generalize placeTeams (s.setLaunch lid (l.dispatched s.ticks.toNat ps.length)) lid l tn l.nextTeam ps = s1 at next placed teams groups created
  have run : exec .teamDispatch s = .next (afterPlaced s (.fresh lid) s1) := by
    refine execTeamDispatch_fresh h hn ?_
    rw [placeUnit_fresh launch, hc, if_neg (by simp), next]
  have frame := afterPlaced_frame s (.fresh lid) s1
  have same_teams := afterPlaced_teams (w := .fresh lid) launch s1
  generalize afterPlaced s (.fresh lid) s1 = t at run frame same_teams
  have launches : t.launches = s.launches.insert lid (l.dispatched s.ticks.toNat ps.length) := by rw [frame, placed]; rfl
  have same_groups : t.groups = s1.groups := by rw [frame]
  refine ⟨t, run, fun a => ?_, ?_, fun n hn => ?_, fun n x lt hx => ?_, fun n g lt hg => ?_, fun j p hj => ?_⟩
  · rw [frame, placed]; rfl
  · rw [launches, Table.get?_insert_same]
  · rw [launches, Table.get?_insert_other _ _ hn]
  · rw [same_teams, teams n lt]
    exact congrArg _ hx
  · rw [same_groups, groups n lt]
    exact hg
  · obtain ⟨tid, x, team, shape, rest⟩ := created j p hj
    have no_yield : yieldEnded lid l.nextTeam x = x := by rw [yieldEnded, if_neg (by rw [shape]; nofun)]
    refine ⟨tid, x, ?_, shape, by rwa [same_groups]⟩
    rw [same_teams, team]
    exact congrArg some no_yield

/-- R45: a grid that is placed whole. -/
theorem teamDispatch_grid {s : State} {lid : Nat} {l : Launch} {tn : Nat} {tt : Tenant} (h : NextIsFresh s lid l tn tt)
    (hs : NoDirty s) (hn : NoPacketsNow s) (hc : l.cogrid = true)
    (hp : (dispatchAll lid (l.teamTotal / l.clusterSize) s).isSome = true) :
    ∃ t m, exec .teamDispatch s = .next t ∧ t.launches.get? lid = some m ∧
      m.nextTeam = l.nextTeam + l.teamTotal / l.clusterSize * l.clusterSize := by
  obtain ⟨-, -, launch, -, -, size⟩ := id h
  obtain ⟨s1, hs1⟩ := Option.isSome_iff_exists.mp hp
  obtain ⟨m, hm, count⟩ := dispatchAll_some _ hs launch hs1
  have run : exec .teamDispatch s = .next (afterPlaced s (.fresh lid) s1) := by
    refine execTeamDispatch_fresh h hn ?_
    rw [placeUnit_fresh launch, hc, if_pos rfl, Nat.max_eq_right size, hs1]
  exact ⟨_, m, run, by rw [afterPlaced_frame]; exact hm, count⟩

/-- R341: a team alone goes to the core with the most free granules. -/
theorem placeCluster_best {s : State} {l : Launch} {tn : Nat} {tt : Tenant} {ps : List Seat} {p : Seat} (one : l.clusterSize = 1)
    (hs : s.cores.sorted = true) (hp : placeCluster s l tn tt l.groupCount = some ps) (first : ps[0]? = some p) :
    ps.length = 1 ∧ p ∈ places s l tn tt l.groupCount ∧ ∀ q ∈ places s l tn tt l.groupCount, BestOver p q := by
  refine ⟨(length_of_placeCluster hp).trans one, ?_⟩
  rw [placeCluster, if_pos one] at hp
  obtain ⟨b, best, rfl⟩ := Option.map_eq_some_iff.mp hp
  cases first
  exact ⟨mem_of_bestPlace best, bestPlace_best (places_pairwise hs _ _ _ _) best⟩

end Sys2Proof.Machine

/-!
SUPPORT. A team that is the whole of its cluster is evicted (R40, R41, R345).
-/

namespace Sys2Proof.Table

variable {α : Type}

/-- A condition that one key alone meets, of a table whose keys rise. -/
theorem filter_eq_singleton {t : Table α} (rising : t.Pairwise fun p q => p.1 < q.1) {p : Nat × α → Bool} {k : Nat} {a : α}
    (mem : (k, a) ∈ t) (hp : p (k, a) = true) (others : ∀ q ∈ t, q.1 ≠ k → p q = false) : t.filter p = [(k, a)] := by
  induction t with
  | nil => cases mem
  | cons q t ih =>
    obtain ⟨above, rest⟩ := List.pairwise_cons.mp rising
    rcases List.mem_cons.mp mem with rfl | mem
    · have none_left : t.filter p = [] := List.filter_eq_nil_iff.mpr fun q hq => by
        simp [others q (List.mem_cons_of_mem _ hq) (Nat.ne_of_gt (above q hq))]
      rw [List.filter_cons_of_pos hp, none_left]
    · have first := others q List.mem_cons_self (Nat.ne_of_lt (above _ mem))
      rw [List.filter_cons_of_neg (by simp [first])]
      exact ih rest mem fun q hq => others q (List.mem_cons_of_mem _ hq)

end Sys2Proof.Table

namespace Sys2Proof.Machine

open Sys2Proof.Claims

section
variable {s : State} {tid : Nat} {x : Team} {l : Launch}

theorem clusterOf_alone (h : Alone s tid x l) : clusterOf l x = x.index := by
  obtain ⟨-, -, one, -⟩ := h
  simp [clusterOf, one]

/-- A team that is the whole of its cluster, and has not ended. -/
theorem clusterMembers_alone (h : Alone s tid x l) (st : x.status ≠ .retired ∧ x.status ≠ .restarting ∧ x.status ≠ .lost) :
    clusterMembers s x.launch l (clusterOf l x) = [tid] := by
  have index := clusterOf_alone h
  obtain ⟨team, -, one, sorted, others⟩ := h
  have only := Table.filter_eq_singleton (Table.pairwise_of_sorted sorted)
    (p := fun p => decide (p.2.launch = x.launch) && decide (clusterOf l p.2 = clusterOf l x) && decide (p.2.status ≠ .retired ∧ p.2.status ≠ .restarting ∧ p.2.status ≠ .lost)) (Table.mem_of_get? team) (by simpa using st) fun q hq hne => ?_
  · rw [Machine.clusterMembers, only]; rfl
  · by_cases launch : q.2.launch = x.launch
    · have : clusterOf l q.2 ≠ clusterOf l x := by simpa [clusterOf, one] using others q hq hne launch
      simp [this]
    · simp [launch]

/-! ## TEAM_EVICT (R40, R345) -/

theorem teamsTo_one (s : State) (tid : Nat) (st : TeamStatus) : teamsTo s [tid] st = s.modifyTeam tid fun t => { t with status := st } := rfl

theorem teamsTo_teamTo (h : s.teams.get? tid = some x) (st : TeamStatus) : TeamTo s tid x st (teamsTo s [tid] st) := by
  refine ⟨rfl, fun k hk => Table.get?_update_other _ _ hk, { x with status := st }, ?_, rfl⟩
  rw [teamsTo_one, State.modifyTeam, Table.get?_update_same, h]
  rfl

theorem liveGroups_one (h : s.teams.get? tid = some x) :
    liveGroups s [tid] = (x.groups.filterMap s.groups.get?).filter fun g => decide (g.status ≠ .retired) := by
  simp [liveGroups, groupsOf, h]

/-- R38, R40: what a team that may be evicted shows of a group is a blocking point. -/
theorem atBlockingPoint_of_blocked {g : Group} (hb : g.status = .blocked)
    (hw : ∀ a, (∀ k, g.wait ≠ some (.peers a k)) ∧ g.wait ≠ some (.checks a)) : atBlockingPoint g = true := by
  unfold atBlockingPoint
  rw [hb]
  generalize g.wait = wait at hw ⊢
  cases wait with
  | none => rfl
  | some w =>
    cases w with
    | peers a k => exact absurd rfl ((hw a).1 k)
    | checks a => exact absurd rfl (hw a).2
    | _ => rfl

theorem atBlockingPoint_of_yielded {g : Group} (hr : g.status = .running) (hy : g.yielded = true) (hh : g.header = none) :
    atBlockingPoint g = true := by
  simp [atBlockingPoint, hr, hy, hh]

theorem evictable_of_evictable (ht : s.teams.get? tid = some x) (h : Evictable s x l) : evictable s l [tid] = true := by
  obtain ⟨resident, ⟨c, hc, stage, step, destroying⟩, ⟨gid, hgid, g, hg, live⟩, points⟩ := h
  have some_live : (liveGroups s [tid]).isEmpty = false := by
    rw [liveGroups_one ht, List.isEmpty_eq_false_iff_exists_mem]
    exact ⟨g, List.mem_filter.mpr ⟨List.mem_filterMap.mpr ⟨gid, hgid, hg⟩, by simpa using live⟩⟩
  have all_points : (liveGroups s [tid]).all atBlockingPoint = true := by
    rw [liveGroups_one ht, List.all_eq_true]
    intro g hg
    obtain ⟨mem, live⟩ := List.mem_filter.mp hg
    obtain ⟨gid, hgid, hg⟩ := List.mem_filterMap.mp mem
    rcases points gid hgid g hg with retired | ⟨blocked, wait⟩ | ⟨running, yielded, header⟩
    · simp [retired] at live
    · exact atBlockingPoint_of_blocked blocked wait
    · exact atBlockingPoint_of_yielded running yielded header
  simp [evictable, ht, resident, hc, stage, step, destroying, some_live, all_points]

/-- TEAM_EVICT of a team that gives way. -/
theorem teamEvict_givesWay (h : Alone s tid x l) (he : Evictable s x l) (hg : givesWay s l [tid] = true) :
    ∃ t, exec (.teamEvict tid) s = .next t ∧ TeamTo s tid x .evicting t := by
  have members := clusterMembers_alone h (by rw [he.1]; decide)
  have eligible := evictable_of_evictable h.1 he
  refine ⟨teamsTo s [tid] .evicting, ?_, teamsTo_teamTo h.1 _⟩
  show execTeamEvict tid s = _
  simp only [execTeamEvict, h.1, h.2.1, members, eligible, hg]
  simp

theorem givesWay_of_slices (ht : s.teams.get? tid = some x) (h : 4 ≤ x.blockedSlices) : givesWay s l [tid] = true := by
  simp [givesWay, ht, h]

theorem givesWay_of_priority {p : Nat × Launch} (hp : p ∈ s.launches) (sorted : s.launches.sorted = true) (tenant : p.2.tenant = l.tenant)
    (prio : l.prio < p.2.prio) (waits : .fresh p.1 ∈ waitingUnits s) (now : placeUnit s (.fresh p.1) = none)
    (without : (placeUnit (teamsTo s [tid] .evicted) (.fresh p.1)).isSome = true) : givesWay s l [tid] = true := by
  have launch : s.launches.get? p.1 = some p.2 := Table.get?_of_mem sorted hp
  have mine : .fresh p.1 ∈ waitingOfTenant s l := List.mem_filter.mpr ⟨waits, by simp [Waiting.launch, launch, tenant]⟩
  have urgent : (waitingOfTenant s l).any (fun w => (s.launches.get? w.launch).any (fun y => decide (l.prio < y.prio)) && fitsWithout s [tid] w) = true :=
    List.any_eq_true.mpr ⟨.fresh p.1, mine, by simp [Waiting.launch, launch, prio, fitsWithout, now, without]⟩
  rw [givesWay, urgent, Bool.or_true]

end

/-! ## The device's writes (R334, R436) -/

/-- Nothing but memory has changed. -/
def OnlyMemory (s t : State) : Prop := t = { s with mem := t.mem, memPoison := t.memPoison }

theorem OnlyMemory.refl (s : State) : OnlyMemory s s := rfl

theorem OnlyMemory.trans {s t r : State} (h : OnlyMemory s t) (k : OnlyMemory t r) : OnlyMemory s r := by
  unfold OnlyMemory at h k ⊢
  rw [k, h]

theorem OnlyMemory.issuerOf_eq {s t : State} (h : OnlyMemory s t) (gid : Nat) : issuerOf t gid = issuerOf s gid := by
  rw [show t = _ from h]; rfl

theorem writeMem_onlyMemory (s : State) (a : Nat) (bytes : List Byte) : OnlyMemory s (s.writeMem a bytes) := rfl

theorem touchPages_onlyMemory (ctx kind : Nat) (ps : List (Nat × Nat)) : ∀ s, OnlyMemory s (touchPages s ctx kind ps) := by
  induction ps with
  | nil => exact .refl
  | cons p ps ih =>
    intro s
    rw [touchPages]
    split
    · exact .refl s
    · split
      · refine .trans ?_ (ih _)
        split
        · exact .refl s
        · exact writeMem_onlyMemory s _ _
      · exact ih s

theorem writePieces_onlyMemory (ctx : Nat) (ps : List (Nat × Nat)) : ∀ s bytes, OnlyMemory s (writePieces s ctx ps bytes) := by
  induction ps with
  | nil => exact fun s _ => .refl s
  | cons p ps ih =>
    intro s bytes
    rw [writePieces]
    refine .trans ?_ (ih _ _)
    split
    · exact writeMem_onlyMemory s _ _
    · exact .refl s

theorem deviceWrite_onlyMemory {s t : State} {ctx va : Nat} {bytes : List Byte} (h : deviceWrite s ctx va bytes = some t) :
    OnlyMemory s t := by
  unfold deviceWrite at h
  split at h
  · cases h
  · cases h
    exact (touchPages_onlyMemory ctx kindWrite _ s).trans (writePieces_onlyMemory ctx _ _ _)

theorem pieces_cons (va n : Nat) : ∃ k ps, pieces va (n + 1) = (va, k) :: ps := by
  rw [pieces, pagePieces, if_neg (Nat.succ_ne_zero n)]
  exact ⟨_, _, rfl⟩

theorem pieces_one {va n : Nat} (h1 : 1 ≤ n) (h : va % 65536 + n ≤ 65536) : pieces va n = [(va, n)] := by
  have whole : min n (65536 - va % 65536) = n := by omega
  rw [pieces, pagePieces, if_neg (by omega), whole]
  dsimp only
  rw [Nat.sub_self, pagePieces, if_pos rfl]

/-- R337: a page of a context that is nowhere in memory takes no write. -/
theorem deviceWrite_eq_none {s : State} {ctx va : Nat} {b : Byte} {bytes : List Byte} (h : ∀ loc, ¬ PageAt s ctx va kindWrite loc) :
    deviceWrite s ctx va (b :: bytes) = none := by
  obtain ⟨k, ps, first⟩ := pieces_cons va bytes.length
  have trouble : ∃ x, rangeTrouble s ctx kindWrite ((va, k) :: ps) = some x := by
    rw [rangeTrouble]
    split
    · next loc cache checked e =>
      unfold deviceLoc at e
      split at e
      · cases e
      · next c hc =>
        split at e
        · next below => exact absurd ⟨c, cache, checked, hc, Nat.lt_of_succ_le (of_decide_eq_true below), e⟩ (h loc)
        · cases e
    · exact ⟨_, rfl⟩
  obtain ⟨x, hx⟩ := trouble
  rw [deviceWrite, List.length_cons, first, hx]

theorem pteTouched_eq_self {e : Nat} (ha : pteA e = true) (hd : pteDirty e = true) (w : Bool) : pteTouched e w = e := by
  simp [pteTouched, ha, hd]

/-- A write in one open page stands at its location, and changes nothing else of memory. -/
theorem deviceWrite_open {s : State} {ctx va loc : Nat} {c : Context} {bytes : List Byte} (hc : s.contexts.get? ctx = some c)
    (h : PageOpen s c kindWrite va bytes.length loc) : deviceWrite s ctx va bytes = some (s.writeMem loc bytes) := by
  obtain ⟨one, page, below, cache, level, leaf, at_, walk, accessed, dirty, place⟩ := h
  have below_top : canonical va 1 = true := by simp [canonical]; omega
  have place : deviceLoc s ctx va kindWrite = .ok (.phys loc cache false) := by simp [deviceLoc, hc, below_top, place]
  have touched : touchPages s ctx kindWrite [(va, bytes.length)] = s := by
    simp [touchPages, hc, walk, pteTouched_eq_self accessed dirty]
  rw [deviceWrite, pieces_one one page]
  simp [rangeTrouble, place, touched, writePieces]

theorem getElem?_bytes (m : List Host.Cell) (n : Nat) : ∀ a k, (Memory.bytes m a n)[k]? = if k < n then some (Memory.byte m (a + k)) else none := by
  induction n with
  | zero => simp [Memory.bytes]
  | succ n ih =>
    intro a k
    cases k with
    | zero => simp [Memory.bytes]
    | succ k => simp [Memory.bytes, ih, Nat.add_assoc, Nat.add_comm 1 k]

theorem byte_writeMem_at (s : State) (a : Nat) {bytes : List Byte} {k : Nat} {b : Byte} (h : bytes[k]? = some b) :
    Memory.byte (s.writeMem a bytes).mem (a + k) = b := by
  have lt : k < bytes.length := (List.getElem?_eq_some_iff.mp h).1
  have read := getElem?_bytes (Memory.setBytes s.mem a bytes) bytes.length a k
  rw [Memory.bytes_setBytes, if_pos lt, h] at read
  exact (Option.some.inj read).symm

/-! ## The save (R41, R58) -/

theorem saveGroup_onlyMemory (s : State) (gid : Nat) : OnlyMemory s (saveGroup s gid) := by
  unfold saveGroup
  split
  · exact .refl s
  · split
    · exact .refl s
    · cases h : deviceWrite s _ _ _ with
      | none => exact .refl s
      | some t => exact deviceWrite_onlyMemory h

theorem saveGroups_onlyMemory (gids : List Nat) : ∀ s, OnlyMemory s (gids.foldl saveGroup s) := by
  induction gids with
  | nil => exact .refl
  | cons gid gids ih => exact fun s => (saveGroup_onlyMemory s gid).trans (ih _)

/-- Groups of which nothing is saved. -/
theorem saveGroups_eq_self {s : State} {gids : List Nat} (h : ∀ gid ∈ gids, saveGroup s gid = s) : gids.foldl saveGroup s = s := by
  induction gids with
  | nil => rfl
  | cons gid gids ih =>
    rw [List.foldl_cons, h gid List.mem_cons_self]
    exact ih fun k hk => h k (List.mem_cons_of_mem _ hk)

theorem saveGroup_retired {s : State} {gid : Nat} (h : ∀ u, issuerOf s gid = some u → u.g.status = .retired) : saveGroup s gid = s := by
  unfold saveGroup
  split
  · rfl
  · next u hu => rw [if_pos (h u hu)]

theorem saveGroup_nowhere {s : State} {gid : Nat} {u : Issuer} (hu : issuerOf s gid = some u)
    (h : ∀ loc, ¬ PageAt s u.l.ctx (savePlace u) kindWrite loc) : saveGroup s gid = s := by
  simp only [saveGroup, hu]
  split
  · rfl
  · rw [livePredicates, show trapAreaAddr u.c u.g.trapArea + 0x1400 = savePlace u from rfl, deviceWrite_eq_none h]; rfl

theorem saveGroup_open {s : State} {u : Issuer} {loc : Nat} (hu : issuerOf s u.gid = some u) (live : u.g.status ≠ .retired)
    (h : PageOpen s u.c kindWrite (savePlace u) (livePredicates u.g u.l.width).length loc) :
    saveGroup s u.gid = s.writeMem loc (livePredicates u.g u.l.width) := by
  obtain ⟨-, -, -, -, context⟩ := issuerOf_eq_some.mp hu
  have written : deviceWrite s u.l.ctx (trapAreaAddr u.c u.g.trapArea + 0x1400) _ = _ := deviceWrite_open context h
  simp only [saveGroup, hu, if_neg live, written, Option.getD_some]

/-- Of groups that have retired but for one, that one alone is saved. -/
theorem saveGroups_one {s : State} {gids : List Nat} {gid : Nat} (nodup : gids.Nodup) (mem : gid ∈ gids)
    (retired : ∀ k ∈ gids, k ≠ gid → ∀ u, issuerOf s k = some u → u.g.status = .retired) :
    gids.foldl saveGroup s = saveGroup s gid := by
  obtain ⟨pre, post, rfl⟩ := List.append_of_mem mem
  obtain ⟨-, tail, apart⟩ := List.nodup_append.mp nodup
  rw [List.foldl_append, List.foldl_cons, saveGroups_eq_self (gids := pre) fun k hk => ?before, saveGroups_eq_self fun k hk => ?after]
  case before => exact saveGroup_retired (retired k (List.mem_append_left _ hk) (apart k hk gid List.mem_cons_self))
  case after =>
    refine saveGroup_retired fun u hu => ?_
    rw [(saveGroup_onlyMemory s gid).issuerOf_eq] at hu
    refine retired k (List.mem_append_right _ (List.mem_cons_of_mem _ hk)) ?_ u hu
    rintro rfl
    exact (List.nodup_cons.mp tail).1 hk

/-! ## What changes in the cores is not seen by a walk -/

theorem walkVa_of_cores {s t : State} (h : t = { s with cores := t.cores }) (root va : Nat) : walkVa t root va = walkVa s root va :=
  walkFrom_of_memory_below (by rw [h]; rfl) (fun b _ => by rw [h]) va 4 root

theorem walkXlate_of_cores {s t : State} (h : t = { s with cores := t.cores }) (root va kind : Nat) :
    walkXlate t root va kind = walkXlate s root va kind := by
  have targets : ∀ level e, leafTarget t level e va kind = leafTarget s level e va kind := fun level e => by rw [h]; rfl
  rw [walkXlate, walkXlate, walkVa_of_cores h]
  simp only [targets]

theorem pageAt_of_cores {s t : State} (h : t = { s with cores := t.cores }) {ctx va kind loc : Nat} (k : PageAt t ctx va kind loc) :
    PageAt s ctx va kind loc := by
  obtain ⟨c, cache, checked, hc, below, place⟩ := k
  rw [walkXlate_of_cores h] at place
  exact ⟨c, cache, checked, by rwa [h] at hc, below, place⟩

theorem pageOpen_of_cores {s t : State} (h : t = { s with cores := t.cores }) {c : Context} {kind va n loc : Nat}
    (k : PageOpen s c kind va n loc) : PageOpen t c kind va n loc := by
  obtain ⟨one, page, below, cache, level, leaf, at_, walk, accessed, dirty, place⟩ := k
  exact ⟨one, page, below, cache, level, leaf, at_, by rwa [walkVa_of_cores h], accessed, dirty, by rwa [walkXlate_of_cores h]⟩

/-! ## EVICT_SAVE_COMPLETE (R41, R345) -/

section
variable {s : State} {tid : Nat} {x : Team} {l : Launch}

theorem groupSettled_of_idle {gid : Nat} {g : Group} (h : GroupIdle s gid g) : groupSettled s gid g = true := by
  obtain ⟨pending, counters, accesses, deferred⟩ := h
  have no_access : s.accesses.any (fun p => decide (p.2.group = gid)) = false := by simpa using accesses
  have no_deferred : s.deferred.any (fun p => decide (p.2.group = gid)) = false := by simpa using deferred
  simp [groupSettled, pending, counters, no_access, no_deferred]

theorem saveReady_of_idle (ht : s.teams.get? tid = some x) (st : x.status = .evicting)
    (idle : ∀ gid ∈ x.groups, ∀ g, s.groups.get? gid = some g → GroupIdle s gid g) : saveReady s tid = true := by
  have settled : x.groups.all (fun gid => (s.groups.get? gid).all (groupSettled s gid)) = true :=
    List.all_eq_true.mpr fun gid hgid => by
      cases hg : s.groups.get? gid with
      | none => rfl
      | some g => exact groupSettled_of_idle (idle gid hgid g hg)
  simp [saveReady, ht, st, settled]

/-- The live predicates of a team's groups stand in memory; nothing dirty stands in its core's L1. -/
def saveDone (s : State) (x : Team) : State := x.groups.foldl saveGroup (cleanCore s x.core)

/-- The groups of a team whose save has completed. -/
def savedGroups (s : State) (tid : Nat) : State :=
  { s with groups := s.groups.mapVals fun gid g => if g.team = tid then savedGroup s gid g else g }

theorem evictSaveComplete_eq (h : Alone s tid x l) (st : x.status = .evicting)
    (idle : ∀ gid ∈ x.groups, ∀ g, s.groups.get? gid = some g → GroupIdle s gid g) :
    exec (.evictSaveComplete tid) s = .next (releaseBanks (teamsTo (savedGroups (saveDone s x) tid) [tid] .evicted) x.core) := by
  have members := clusterMembers_alone h (by rw [st]; decide)
  have ready := saveReady_of_idle h.1 st idle
  show execEvictSaveComplete tid s = _
  simp only [execEvictSaveComplete, h.1, h.2.1, members]
  simp [ready, h.1, savedGroups, saveDone, List.eraseDups_cons]

/-- A save changes the cores and memory, and memory only where something is saved. -/
theorem saveDone_frame (hs : NoDirty s) (x : Team) :
    saveDone s x = { s with cores := (saveDone s x).cores, mem := (saveDone s x).mem, memPoison := (saveDone s x).memPoison } := by
  have saved : OnlyMemory (cleanCore s x.core) (saveDone s x) := saveGroups_onlyMemory _ _
  have clean := (cleanCore_coresClean hs x.core).1
  unfold OnlyMemory at saved
  rw [saved, clean]

/-- R58, R358: a group of the team after its save. -/
theorem savedGroup_of_frame {t : State} (h : t = { s with cores := t.cores, mem := t.mem, memPoison := t.memPoison }) (gid : Nat) (g : Group) :
    savedGroup t gid g = savedGroup s gid g := by
  have same : issuerOf t gid = issuerOf s gid := by rw [h]; rfl
  have key : keyIC t = keyIC s := by rw [h]; rfl
  rw [savedGroup, savedGroup, same, key]

/-- Nothing is saved where no group has a place for it. -/
theorem saveDone_nowhere (hs : NoDirty s)
    (h : ∀ gid ∈ x.groups, ∀ u, issuerOf s gid = some u → u.g.status = .retired ∨ ∀ loc, ¬ PageAt s u.l.ctx (savePlace u) kindWrite loc) :
    SameMemory s (saveDone s x) := by
  have clean := (cleanCore_coresClean hs x.core).1
  have unsaved : saveDone s x = cleanCore s x.core := saveGroups_eq_self fun gid hgid => by
    cases hu : issuerOf (cleanCore s x.core) gid with
    | none => exact saveGroup_retired fun v hv => by rw [hu] at hv; cases hv
    | some u =>
      have issuer : issuerOf s gid = some u := by rw [← hu, clean]; rfl
      rcases h gid hgid u issuer with retired | nowhere
      · exact saveGroup_retired fun v hv => by rw [hu] at hv; cases hv; exact retired
      · exact saveGroup_nowhere hu fun loc page => nowhere loc (pageAt_of_cores clean page)
  intro a
  rw [unsaved, clean]

/-- One group alone has something to be saved, in an open page. -/
theorem saveDone_open (hs : NoDirty s) {u : Issuer} {loc : Nat} (nodup : x.groups.Nodup) (mem : u.gid ∈ x.groups)
    (hu : issuerOf s u.gid = some u) (live : u.g.status ≠ .retired)
    (retired : ∀ gid ∈ x.groups, gid ≠ u.gid → ∀ g, s.groups.get? gid = some g → g.status = .retired)
    (h : PageOpen s u.c kindWrite (savePlace u) (livePredicates u.g u.l.width).length loc) :
    (saveDone s x).mem = (s.writeMem loc (livePredicates u.g u.l.width)).mem := by
  have clean := (cleanCore_coresClean hs x.core).1
  have issuers : ∀ gid, issuerOf (cleanCore s x.core) gid = issuerOf s gid := fun gid => by rw [clean]; rfl
  have one : saveDone s x = saveGroup (cleanCore s x.core) u.gid := saveGroups_one nodup mem fun k hk hne v hv => by
    obtain ⟨-, group, -⟩ := issuerOf_eq_some.mp ((issuers k).symm.trans hv)
    exact retired k hk hne v.g group
  rw [one, saveGroup_open ((issuers u.gid).trans hu) live (pageOpen_of_cores clean h), clean]
  rfl

/-- R41, R345: the save of a team completes. -/
theorem evictSaveComplete_alone (h : Alone s tid x l) (st : x.status = .evicting) (hs : NoDirty s)
    (idle : ∀ gid ∈ x.groups, ∀ g, s.groups.get? gid = some g → GroupIdle s gid g) :
    ∃ t, exec (.evictSaveComplete tid) s = .next t ∧ t.mem = (saveDone s x).mem ∧ t.launches = s.launches ∧
      (∀ k, k ≠ tid → t.teams.get? k = s.teams.get? k) ∧ t.teams.get? tid = some { x with status := .evicted } ∧
      ∀ gid, t.groups.get? gid = (s.groups.get? gid).map fun g => if g.team = tid then savedGroup s gid g else g := by
  have frame := saveDone_frame hs x
  have teams : (saveDone s x).teams = s.teams := by rw [frame]
  obtain ⟨-, others, y, hy, shape⟩ := teamsTo_teamTo (s := savedGroups (saveDone s x) tid) (x := x) (teams ▸ h.1) .evicted
  refine ⟨_, evictSaveComplete_eq h st idle, rfl, ?_, fun k hk => ?_, ?_, fun gid => ?_⟩
  · exact (congrArg State.launches frame :)
  · exact (others k hk).trans (congrArg (Table.get? · k) teams)
  · rw [teamsTo_one, releaseBanks]
    simp only [State.modifyCore, State.modifyTeam, Table.get?_update_same, savedGroups, teams, h.1, Option.map_some]
  · have groups : (releaseBanks (teamsTo (savedGroups (saveDone s x) tid) [tid] .evicted) x.core).groups =
      (saveDone s x).groups.mapVals fun gid g => if g.team = tid then savedGroup (saveDone s x) gid g else g := rfl
    rw [groups, Table.get?_mapVals, show (saveDone s x).groups = s.groups by rw [frame]]
    simp only [savedGroup_of_frame frame]

end

end Sys2Proof.Machine

/-!
SUPPORT. A team that is the whole of its cluster is resumed (R33, R40, R42, R59, R341).
-/

namespace Sys2Proof.Machine

open Sys2Proof.Claims

/-! ## Slots (R341) -/

/-- The slots of a core. -/
abbrev coreSlots : Nat := Config.slotsPerQuadrant * Config.quadrants

theorem exists_free_slot {taken : List Nat} (h : taken.length < coreSlots) : ∃ k, k < coreSlots ∧ k ∉ taken := by
  by_contra all
  push Not at all
  have sub : upFrom 0 coreSlots ⊆ taken := fun k hk => all k (mem_upFrom_zero.mp hk)
  have := ((nodup_upFrom 0 coreSlots).subperm sub).length_le
  rw [length_upFrom] at this
  omega

/-- The quadrant with fewer groups of one found so far and the next. -/
def emptierQuadrant (loads : List Nat) (best : Option Nat) (q : Nat) : Option Nat :=
  match best with
  | none => some q
  | some x => if loads.getD q 0 < loads.getD x 0 then some q else some x

theorem emptierQuadrant_some (loads : List Nat) (x q : Nat) :
    emptierQuadrant loads (some x) q = if loads.getD q 0 < loads.getD x 0 then some q else some x := rfl

theorem nextSlot_eq (taken loads : List Nat) : nextSlot taken loads =
    (((upFrom 0 Config.quadrants).filter fun q => (freeSlot taken q).isSome).foldl (emptierQuadrant loads) none).bind (freeSlot taken) := rfl

/-- A core that is not full has a slot for one more group. -/
theorem nextSlot_isSome {taken : List Nat} (loads : List Nat) (h : taken.length < coreSlots) : (nextSlot taken loads).isSome = true := by
  obtain ⟨k, lt, free⟩ := exists_free_slot h
  have quadrant : quadOf k ∈ (upFrom 0 Config.quadrants).filter fun q => (freeSlot taken q).isSome := by
    have below : quadOf k < Config.quadrants := Nat.div_lt_of_lt_mul lt
    refine List.mem_filter.mpr ⟨mem_upFrom_zero.mpr below, List.find?_isSome.mpr ⟨k, (mem_upFrom _ _ _).mpr ?_, by simpa using free⟩⟩
    show 24 * (k / 24) ≤ k ∧ k < 24 * (k / 24) + 24
    omega
  rw [nextSlot_eq]
  cases qs : (upFrom 0 Config.quadrants).filter fun q => (freeSlot taken q).isSome with
  | nil => rw [qs] at quadrant; cases quadrant
  | cons b rest =>
    obtain ⟨q, mem, chosen⟩ := exists_foldl_choice (f := emptierQuadrant loads)
      (fun b a => by rw [emptierQuadrant_some]; split <;> simp) rest b
    have first : (b :: rest).foldl (emptierQuadrant loads) none = some q := chosen
    rw [← qs] at mem
    rw [first, Option.bind_some]
    exact (List.mem_filter.mp mem).2

theorem length_slotsFor (n : Nat) : ∀ (taken loads : List Nat), taken.length + n ≤ coreSlots → (slotsFor n taken loads).length = n := by
  induction n with
  | zero => exact fun _ _ _ => rfl
  | succ n ih =>
    intro taken loads h
    obtain ⟨k, next⟩ := Option.isSome_iff_exists.mp (nextSlot_isSome loads (by omega : taken.length < coreSlots))
    rw [slotsFor, next]
    simp only [List.length_cons, Nat.add_right_cancel_iff]
    exact ih _ _ (by simpa using by omega)

/-- R341: a core on which a team fits has the slots that were wanted. -/
theorem room_of_fitOn {s : State} {l : Launch} {tn : Nat} {tt : Tenant} {need core : Nat} {c : Core} {p : Seat}
    (h : fitOn s l tn tt need core c = some p) : (slotsTaken s core).length + need ≤ coreSlots := by
  unfold fitOn at h
  split at h
  · cases h
  split at h
  · cases h
  · next room => exact Nat.le_of_not_lt room

theorem room_of_mem_places {s : State} {l : Launch} {tn : Nat} {tt : Tenant} {need : Nat} {p : Seat} (h : p ∈ places s l tn tt need) :
    (slotsTaken s p.core).length + need ≤ coreSlots := by
  obtain ⟨q, mem, rfl⟩ := List.mem_map.mp h
  obtain ⟨⟨core, c⟩, -, found⟩ := List.mem_filterMap.mp (List.mem_filter.mp mem).1
  obtain ⟨p, fit, rfl⟩ := Option.map_eq_some_iff.mp found
  have core_eq := core_of_fitOn fit
  exact core_eq ▸ room_of_fitOn fit

/-! ## A group takes up its saved state (R33, R59) -/

theorem enterAcquired_frame (g : Group) (agent clock : Nat) :
    enterAcquired g agent clock = { g with acquired := (enterAcquired g agent clock).acquired, overflow := (enterAcquired g agent clock).overflow } := by
  unfold enterAcquired
  dsimp only
  split
  · split <;> rfl
  · split <;> rfl

theorem applyLiveness_frame (g : Group) : applyLiveness g = { g with q := (applyLiveness g).q, savedLive := none, handlerWrote := [] } := by
  unfold applyLiveness
  split
  · next none_saved => rw [← none_saved]
  · rfl

/-- R59: the predicates of a group that takes up a recorded state. -/
theorem applyLiveness_pred (g : Group) (k : Nat) : (applyLiveness g).q.read k 0 = recordedPred g k := by
  unfold applyLiveness recordedPred
  cases g.savedLive with
  | none => rfl
  | some saved =>
    dsimp only
    rw [Table.read, Table.get?_filter_key g.q (keepsPredicate g saved) k, keepsPredicate, List.contains_eq_mem]
    split <;> rfl

/-- R33, R42, R59: h is the group g, resumed on a core. -/
def Resumed (core : Nat) (g h : Group) : Prop :=
  h = { g with agent := agentId core h.slot, slot := h.slot, age := 0, addrNext := true, yielded := false, owes := false, keptIC := none
               savedLive := none, handlerWrote := [], acquired := h.acquired, overflow := h.overflow, q := h.q } ∧
  ∀ k, h.q.read k 0 = recordedPred g k

theorem resumedGroup_resumed (g : Group) (core slot : Nat) : Resumed core g (resumedGroup g core slot) := by
  have entered : ∃ g1, (g1 = { g with acquired := g1.acquired, overflow := g1.overflow }) ∧
      resumedGroup g core slot = { applyLiveness g1 with
        agent := agentId core slot, slot := slot, age := 0, addrNext := true, yielded := false, owes := false, keptIC := none } := by
    unfold resumedGroup
    dsimp only
    split
    · exact ⟨g, rfl, rfl⟩
    · exact ⟨_, enterAcquired_frame _ _ _, rfl⟩
  obtain ⟨g1, frame, eq⟩ := entered
  have live := applyLiveness_frame g1
  have preds := applyLiveness_pred g1
  rw [eq]
  generalize applyLiveness g1 = h at live preds
  refine ⟨?_, fun k => (preds k).trans ?_⟩
  · rw [live, frame]
  · rw [frame]; rfl

/-- A group that is resumed twice, as one that its team names twice, stands as after the first time. -/
theorem Resumed.again {core : Nat} {g h : Group} (k : Resumed core g h) (slot : Nat) : Resumed core g (resumedGroup h core slot) := by
  obtain ⟨frame, preds⟩ := k
  obtain ⟨frame2, preds2⟩ := resumedGroup_resumed h core slot
  have unsaved : recordedPred h = fun k => h.q.read k 0 := by
    funext k
    rw [recordedPred, show h.savedLive = none by rw [frame]]
  refine ⟨?_, fun k => (preds2 k).trans ?_⟩
  · generalize resumedGroup h core slot = r at frame2
    rw [frame2, frame]
  · rw [unsaved]; exact preds k

/-! ## The groups of a team (R341) -/

/-- Groups take up their saved states, each in a slot of a core. -/
def resumeGroups (s : State) (core : Nat) (qs : List (Nat × Nat)) : State :=
  qs.foldl (fun s q => s.modifyGroup q.1 fun g => resumedGroup g core q.2) s

theorem resumeGroups_concat (s : State) (core : Nat) (qs : List (Nat × Nat)) (q : Nat × Nat) :
    resumeGroups s core (qs ++ [q]) = (resumeGroups s core qs).modifyGroup q.1 fun g => resumedGroup g core q.2 := by
  rw [resumeGroups, List.foldl_append]; rfl

theorem resumeGroups_frame (s : State) (core : Nat) (qs : List (Nat × Nat)) :
    resumeGroups s core qs = { s with groups := (resumeGroups s core qs).groups } := by
  induction qs using List.reverseRecOn with
  | nil => rfl
  | append_singleton qs q ih => rw [resumeGroups_concat, ih]; rfl

theorem resumeGroups_get {s : State} (core : Nat) (qs : List (Nat × Nat)) {gid : Nat} {g : Group} (hg : s.groups.get? gid = some g) :
    ∃ h, (resumeGroups s core qs).groups.get? gid = some h ∧
      ((h = g ∧ ∀ q ∈ qs, q.1 ≠ gid) ∨ (Resumed core g h ∧ ∃ q ∈ qs, q.2 = h.slot)) := by
  induction qs using List.reverseRecOn with
  | nil => exact ⟨g, hg, .inl ⟨rfl, nofun⟩⟩
  | append_singleton qs q ih =>
    obtain ⟨h, hh, before⟩ := ih
    rw [resumeGroups_concat]
    by_cases mine : q.1 = gid
    · have now : ((resumeGroups s core qs).modifyGroup q.1 fun g => resumedGroup g core q.2).groups.get? gid = some (resumedGroup h core q.2) := by
        rw [← mine] at hh ⊢
        rw [State.modifyGroup, Table.get?_update_same, hh]
        rfl
      have slot : ∃ r ∈ qs ++ [q], r.2 = (resumedGroup h core q.2).slot := ⟨q, by simp, rfl⟩
      rcases before with ⟨rfl, -⟩ | ⟨resumed, -⟩
      · exact ⟨_, now, .inr ⟨resumedGroup_resumed h core q.2, slot⟩⟩
      · exact ⟨_, now, .inr ⟨resumed.again q.2, slot⟩⟩
    · refine ⟨h, (Table.get?_update_other _ _ (Ne.symm mine)).trans hh, ?_⟩
      rcases before with ⟨rfl, others⟩ | ⟨resumed, r, mem, slot⟩
      · refine .inl ⟨rfl, fun r hr => ?_⟩
        rcases List.mem_append.mp hr with hr | hr
        · exact others r hr
        · rwa [List.mem_singleton.mp hr]
      · exact .inr ⟨resumed, r, List.mem_append_left _ mem, slot⟩

/-! ## The team (R42) -/

section
variable {s : State} {tid : Nat} {x : Team} {l : Launch} {tn : Nat} {tt : Tenant} {p : Seat}

/-- The groups of a team that have not retired. -/
def unretired (s : State) (x : Team) : List Nat := x.groups.filter fun gid => (s.groups.get? gid).any fun g => decide (g.status ≠ .retired)

/-- R42: a team that is resident again, its groups in slots. -/
def resumedTeam (x : Team) (p : Seat) (slots : List Nat) : Team :=
  { x with core := p.core, status := .resident, regBlocks := p.regBlocks, memBlocks := p.memBlocks, tileBlocks := p.tileBlocks
           blockedSlices := 0, yieldFor := none, woken := true, agents := x.agents ++ slots.map (agentId p.core) }

theorem resumeTeam_eq (ht : s.teams.get? tid = some x) (ctx tn : Nat) (p : Seat) :
    resumeTeam s ctx tn tid p =
      let slots := newSlots s p.core (unretired s x).length
      claimCore ((resumeGroups s p.core ((unretired s x).zip slots)).setTeam tid (resumedTeam x p slots)) ctx tn p.core p.banks := by
  simp only [resumeTeam, ht]
  rfl

/-- R42: what resuming a team changes. -/
theorem resumeTeam_resumes (ht : s.teams.get? tid = some x) (hs : NoDirty s) (ctx tn : Nat)
    (room : (slotsTaken s p.core).length + (unretired s x).length ≤ coreSlots) :
    let t := resumeTeam s ctx tn tid p
    SameMemory s t ∧ (∀ k, k ≠ tid → t.teams.get? k = s.teams.get? k) ∧
      t.teams.get? tid = some (resumedTeam x p (newSlots s p.core (unretired s x).length)) ∧
      ∀ gid g, gid ∈ x.groups → g.status ≠ .retired → s.groups.get? gid = some g →
        ∃ h, t.groups.get? gid = some h ∧ Resumed p.core g h ∧ h.slot ∈ newSlots s p.core (unretired s x).length := by
  intro t
  have count : (newSlots s p.core (unretired s x).length).length = (unretired s x).length := length_slotsFor _ _ _ room
  have eq : t = _ := resumeTeam_eq ht ctx tn p
  generalize t = t at eq ⊢
  dsimp only at eq
  generalize newSlots s p.core (unretired s x).length = slots at count eq ⊢
  have groups := fun gid g => @resumeGroups_get s p.core ((unretired s x).zip slots) gid g
  have frame := resumeGroups_frame s p.core ((unretired s x).zip slots)
  generalize resumeGroups s p.core ((unretired s x).zip slots) = r at eq groups frame
  have clean : NoDirty (r.setTeam tid (resumedTeam x p slots)) := by rw [frame]; exact hs
  have claimed := (claimCore_coresClean clean ctx tn p.core p.banks).1
  rw [← eq] at claimed
  have teams : t.teams = s.teams.insert tid (resumedTeam x p slots) := by rw [claimed, frame]; rfl
  refine ⟨fun a => ?_, fun k hk => ?_, ?_, fun gid g mem live hg => ?_⟩
  · rw [claimed, frame]; rfl
  · rw [teams, Table.get?_insert_other _ _ hk]
  · rw [teams, Table.get?_insert_same]
  · obtain ⟨h, hh, ⟨-, others⟩ | ⟨resumed, q, hq, slot⟩⟩ := groups gid g hg
    · have named : gid ∈ ((unretired s x).zip slots).map Prod.fst := by
        rw [List.map_fst_zip count.ge]
        exact List.mem_filter.mpr ⟨mem, by simp [hg, live]⟩
      obtain ⟨q, hq, rfl⟩ := List.mem_map.mp named
      exact absurd rfl (others q hq)
    · refine ⟨h, ?_, resumed, slot ▸ (List.of_mem_zip hq).2⟩
      rw [claimed]; exact hh

/-- R40, R340: the cluster of a team alone is resumed in its seat. -/
theorem placeUnit_resume (h : Alone s tid x l) (st : x.status = .evicted) (hl : launchTenant s l = some (tn, tt))
    (hp : placeCluster s l tn tt l.groupCount = some [p]) :
    placeUnit s (.resume x.launch x.index) = some (settle (resumeTeam s l.ctx tn tid p)) := by
  have members := clusterMembers_alone h (by rw [st]; decide)
  rw [clusterOf_alone h] at members
  obtain ⟨team, launch, one, -⟩ := h
  have place : placeInCluster l x = 0 := by simp [placeInCluster, one, Nat.mod_one]
  simp [placeUnit, resumeCluster, launch, hl, hp, members, team, place]

/-- TEAM_RESUME of a team alone that stands first. -/
theorem execTeamResume_eq (h : Alone s tid x l) (st : x.status = .evicted)
    (hw : (waitingUnits s).head? = some (.resume x.launch x.index)) (hl : launchTenant s l = some (tn, tt))
    (hc : ∃ p ∈ s.cores, Covers l p.2 ∧ OpenTo l p.2 tn) (hp : placeCluster s l tn tt l.groupCount = some [p]) (hn : NoPacketsNow s) :
    execTeamResume tid s = .next (afterPlaced s (.resume x.launch x.index) (settle (resumeTeam s l.ctx tn tid p))) := by
  have placed := placeUnit_resume h st hl hp
  have cluster := clusterOf_alone h
  obtain ⟨team, launch, -⟩ := h
  have first := firstPlaced_of_head hw (uncovered_eq_false launch hl hc) placed
  simp [execTeamResume, team, launch, first, cluster, placedInOrder_eq_true hn]

theorem length_unretired_le (s : State) (x : Team) : (unretired s x).length ≤ x.groups.length := List.length_filter_le _ _

/-- The seat of a team alone has room for its groups. -/
theorem room_of_placeCluster (one : l.clusterSize = 1) (hp : placeCluster s l tn tt l.groupCount = some [p])
    (fits : x.groups.length ≤ l.groupCount) : (slotsTaken s p.core).length + (unretired s x).length ≤ coreSlots := by
  rw [placeCluster, if_pos one] at hp
  obtain ⟨b, best, e⟩ := Option.map_eq_some_iff.mp hp
  cases e
  have room := room_of_mem_places (mem_of_bestPlace best)
  have fewer := length_unretired_le s x
  omega

end

/-- What a resumed group shows of its saved state. -/
theorem Resumed.shows {x : Team} {p : Seat} {slots : List Nat} {g h : Group} (k : Resumed p.core g h) (slot : h.slot ∈ slots) :
    h.status = g.status ∧ h.v = g.v ∧ h.s = g.s ∧ h.x = g.x ∧ (∀ k, h.q.read k 0 = recordedPred g k) ∧ h.clause = g.clause ∧
      h.index = g.index ∧ h.ic = g.ic ∧ h.agent = agentId p.core h.slot ∧ h.age = 0 ∧ h.entered = g.entered ∧ h.keptIC = none ∧
      h.addrNext = true ∧ h.agent ∈ (resumedTeam x p slots).agents := by
  obtain ⟨frame, preds⟩ := k
  have listed : agentId p.core h.slot ∈ (resumedTeam x p slots).agents := List.mem_append_right _ (List.mem_map_of_mem slot)
  rw [frame]
  exact ⟨rfl, rfl, rfl, rfl, preds, rfl, rfl, rfl, rfl, rfl, rfl, rfl, rfl, listed⟩

theorem butYield_yieldEnded (lid first : Nat) (x : Team) : ButYield x (yieldEnded lid first x) := by
  unfold ButYield yieldEnded
  split <;> rfl

/-- R340: a placement leaves the teams as they are, but for those that wait for it. -/
theorem afterPlaced_butYield {s : State} {w : Waiting} {l : Launch} (hl : s.launches.get? w.launch = some l) (s1 : State) (k : Nat) :
    Option.Rel ButYield (s1.teams.get? k) ((afterPlaced s w s1).teams.get? k) := by
  rw [afterPlaced_teams hl]
  cases s1.teams.get? k with
  | none => exact .none
  | some z => exact .some (butYield_yieldEnded _ _ z)

end Sys2Proof.Machine

/-!
SUPPORT. The compactor (R343): blocks packed again have the sizes that they had.
-/

namespace Sys2Proof.Machine

open Sys2Proof.Claims

/-! ## Sorting and packing -/

theorem insertBy_perm {α : Type} (le : α → α → Bool) (a : α) (l : List α) : (insertBy le a l).Perm (a :: l) := by
  induction l with
  | nil => exact .refl _
  | cons b l ih =>
    rw [insertBy]
    split
    · exact .refl _
    · exact (ih.cons b).trans (.swap a b l)

theorem sortBy_perm {α : Type} (le : α → α → Bool) (l : List α) : (sortBy le l).Perm l := by
  induction l with
  | nil => exact .refl _
  | cons a l ih => exact (insertBy_perm le a _).trans (ih.cons a)

/-- R342: a block has the size that was asked for. -/
theorem size_of_allocBlock {n z : Nat} {used : List (Nat × Nat)} {b : Nat × Nat} (h : allocBlock n used z = some b) : b.2 = z := by
  obtain ⟨o, -, rfl⟩ := Option.map_eq_some_iff.mp h
  rfl

/-- Packed blocks have the owners and sizes that were asked for, in their order. -/
theorem packBlocks_sizes {n : Nat} (asked : List (Nat × Nat)) : ∀ {used : List (Nat × Nat)} {r : List (Nat × (Nat × Nat))},
    packBlocks n used asked = some r → r.map (fun y => (y.1, y.2.2)) = asked := by
  induction asked with
  | nil => intro used r h; cases h; rfl
  | cons a asked ih =>
    intro used r h
    obtain ⟨owner, z⟩ := a
    rw [packBlocks] at h
    split at h
    · cases h
    · next b hb =>
      obtain ⟨rest, hrest, rfl⟩ := Option.map_eq_some_iff.mp h
      rw [List.map_cons, ih hrest, size_of_allocBlock hb]

/-- The owners and the sizes of blocks that are to be packed again. -/
def askedSizes (moved : List (Nat × List (Nat × Nat))) : List (Nat × Nat) := moved.flatMap fun p => p.2.map fun b => (p.1, b.2)

theorem repack_sizes {n : Nat} {fixed : List (Nat × Nat)} {moved : List (Nat × List (Nat × Nat))} {r : List (Nat × (Nat × Nat))}
    (h : repack n fixed moved = some r) : (r.map fun y => (y.1, y.2.2)).Perm (askedSizes moved) := by
  rw [packBlocks_sizes _ h]
  exact sortBy_perm _ _

/-- What is asked for in the name of one owner. -/
theorem askedSizes_filter (moved : List (Nat × List (Nat × Nat))) (k : Nat) :
    (askedSizes moved).filter (fun p => decide (p.1 = k)) = askedSizes (moved.filter fun p => decide (p.1 = k)) := by
  induction moved with
  | nil => rfl
  | cons p moved ih =>
    obtain ⟨j, bs⟩ := p
    have split : askedSizes ((j, bs) :: moved) = bs.map (fun b => (j, b.2)) ++ askedSizes moved := rfl
    rw [split, List.filter_append, ih]
    by_cases hj : j = k
    · rw [List.filter_cons_of_pos (by simpa using hj)]
      rw [List.filter_eq_self.mpr fun p hp => by obtain ⟨b, -, rfl⟩ := List.mem_map.mp hp; simpa using hj]
      rfl
    · rw [List.filter_cons_of_neg (by simpa using hj)]
      rw [List.filter_eq_nil_iff.mpr fun p hp => by obtain ⟨b, -, rfl⟩ := List.mem_map.mp hp; simpa using hj]
      rfl

/-- The blocks of an owner with one request have the sizes of its request. -/
theorem sameSizes_blocksOfOwner {n k : Nat} {fixed bs : List (Nat × Nat)} {moved : List (Nat × List (Nat × Nat))} {r : List (Nat × (Nat × Nat))}
    (h : repack n fixed moved = some r) (one : moved.filter (fun p => decide (p.1 = k)) = [(k, bs)]) : SameSizes bs (blocksOfOwner r k) := by
  have packed := ((repack_sizes h).filter fun p => decide (p.1 = k)).map Prod.snd
  rw [askedSizes_filter, one] at packed
  have asked : (askedSizes [(k, bs)]).map Prod.snd = bs.map Prod.snd := by simp [askedSizes]
  have owned : ((r.map fun y => (y.1, y.2.2)).filter fun p => decide (p.1 = k)).map Prod.snd = (blocksOfOwner r k).map Prod.snd := by
    rw [List.filter_map, List.map_map, blocksOfOwner, List.map_map]
    rfl
  rw [asked, owned] at packed
  exact packed.symm

/-! ## The teams whose blocks move -/

/-- R343: the teams of a tenant on a core whose blocks may be moved. -/
def movers (s : State) (core tn : Nat) : Table Team :=
  (s.teams.filter fun p => decide (p.2.core = core) && (teamHolds s p.2 || teamHoldsMem s p.2) &&
    decide (tenantOf s p.2 = some tn)).filter fun p => movable s p.2

theorem movers_pairwise {s : State} (hs : s.teams.sorted = true) (core tn : Nat) : (movers s core tn).Pairwise fun p q => p.1 < q.1 :=
  ((Table.pairwise_of_sorted hs).filter _).filter _

theorem mem_of_mem_movers {s : State} {core tn : Nat} {p : Nat × Team} (h : p ∈ movers s core tn) :
    p ∈ s.teams ∧ p.2.core = core ∧ movable s p.2 = true := by
  obtain ⟨mem, movable⟩ := List.mem_filter.mp h
  obtain ⟨mem, on⟩ := List.mem_filter.mp mem
  simp only [Bool.and_eq_true, decide_eq_true_eq] at on
  exact ⟨mem, on.1.1, movable⟩

/-- The blocks r, m and a that teams have after a move, by their owners. -/
def moveBlocks (r m a : List (Nat × (Nat × Nat))) (k : Nat) (x : Team) : Team :=
  { x with regBlocks := blocksOfOwner r k, memBlocks := blocksOfOwner m k, tileBlocks := blocksOfOwner a k }

/-- Teams have their blocks moved. -/
def moveTeams (s : State) (r m a : List (Nat × (Nat × Nat))) (mov : Table Team) : State :=
  mov.foldl (fun s p => s.modifyTeam p.1 (moveBlocks r m a p.1)) s

theorem moveTeams_concat (s : State) (r m a : List (Nat × (Nat × Nat))) (mov : Table Team) (p : Nat × Team) :
    moveTeams s r m a (mov ++ [p]) = (moveTeams s r m a mov).modifyTeam p.1 (moveBlocks r m a p.1) := by
  rw [moveTeams, List.foldl_append]; rfl

theorem moveTeams_frame (s : State) (r m a : List (Nat × (Nat × Nat))) (mov : Table Team) :
    moveTeams s r m a mov = { s with teams := (moveTeams s r m a mov).teams } := by
  induction mov using List.reverseRecOn with
  | nil => rfl
  | append_singleton mov p ih => rw [moveTeams_concat, ih]; rfl

theorem moveTeams_get (s : State) (r m a : List (Nat × (Nat × Nat))) (mov : Table Team) (n : Nat) :
    (moveTeams s r m a mov).teams.get? n = if n ∈ mov.map Prod.fst then (s.teams.get? n).map (moveBlocks r m a n) else s.teams.get? n := by
  induction mov using List.reverseRecOn with
  | nil => rfl
  | append_singleton mov p ih =>
    rw [moveTeams_concat, State.modifyTeam, Table.get?_update, List.map_append]
    by_cases mine : n = p.1
    · rw [if_pos mine, if_pos (by simp [mine]), ← mine, ih]
      split
      · rw [Option.map_map]; rfl
      · rfl
    · have same : n ∈ mov.map Prod.fst ++ [p].map Prod.fst ↔ n ∈ mov.map Prod.fst := by simp [mine]
      rw [if_neg mine, ih, if_congr same rfl rfl]

/-- R343: what a compaction that succeeds has packed, and where it leaves the teams. -/
theorem compacted_some {s s1 : State} {core tn banks : Nat} {l : Launch} (h : compacted s core tn banks l = some s1) :
    ∃ r m a, s1 = moveTeams s r m a (movers s core tn) ∧
      (∃ n fixed need, repack n fixed ((s.nextId, need) :: (movers s core tn).map fun p => (p.1, p.2.regBlocks)) = some r) ∧
      (∃ n fixed need, repack n fixed ((s.nextId, need) :: (movers s core tn).map fun p => (p.1, p.2.memBlocks)) = some m) ∧
      ∃ n fixed need, repack n fixed ((s.nextId, need) :: (movers s core tn).map fun p => (p.1, p.2.tileBlocks)) = some a := by
  unfold compacted at h
  dsimp only at h
  split at h
  · next r m a hr hm ha => cases h; exact ⟨r, m, a, rfl, ⟨_, _, _, hr⟩, ⟨_, _, _, hm⟩, ⟨_, _, _, ha⟩⟩
  · cases h

/-- A team whose blocks move has them in the sizes that it had. -/
theorem sameSizes_of_mem_movers {s : State} {core tn k : Nat} {x : Team} (hs : s.teams.sorted = true) (new : k ≠ s.nextId)
    (mem : (k, x) ∈ movers s core tn) {blocks : Team → List (Nat × Nat)} {r : List (Nat × (Nat × Nat))}
    (h : ∃ n fixed need, repack n fixed ((s.nextId, need) :: (movers s core tn).map fun p => (p.1, blocks p.2)) = some r) :
    SameSizes (blocks x) (blocksOfOwner r k) := by
  obtain ⟨n, fixed, need, packed⟩ := h
  refine sameSizes_blocksOfOwner packed ?_
  have one := Table.filter_eq_singleton (movers_pairwise hs core tn) (p := fun p => decide (p.1 = k)) mem (by simp)
    fun q _ hne => by simpa using hne
  rw [List.filter_cons_of_neg (by simpa using new.symm), List.filter_map]
  exact congrArg (List.map _) one

theorem blocksMoved_refl (x : Team) : BlocksMoved x x := ⟨rfl, .refl _, .refl _, .refl _⟩

/-- R343: only teams that are wholly blocked, on the core, have their blocks moved. -/
theorem compacted_moves {s s1 : State} {core tn banks : Nat} {l : Launch} (hs : s.teams.sorted = true) (new : s.teams.get? s.nextId = none)
    (h : compacted s core tn banks l = some s1) :
    s1 = { s with teams := s1.teams } ∧ ∀ n x, s.teams.get? n = some x → ∃ y, s1.teams.get? n = some y ∧ BlocksMoved x y ∧
      (x.core ≠ core ∨ (∃ gid ∈ x.groups, ∃ g, s.groups.get? gid = some g ∧ g.status ≠ .blocked ∧ g.status ≠ .retired) → y = x) := by
  obtain ⟨r, m, a, rfl, hr, hm, ha⟩ := compacted_some h
  refine ⟨moveTeams_frame _ _ _ _ _, fun n x hx => ?_⟩
  rw [moveTeams_get, hx]
  split
  · next moved =>
    obtain ⟨⟨k, z⟩, mem, rfl⟩ := List.mem_map.mp moved
    obtain ⟨listed, on, mov⟩ := mem_of_mem_movers mem
    cases (Table.get?_of_mem hs listed).symm.trans hx
    have named : k ≠ s.nextId := by rintro rfl; rw [new] at hx; cases hx
    refine ⟨_, rfl, ⟨rfl, sameSizes_of_mem_movers hs named mem hr, sameSizes_of_mem_movers hs named mem hm,
      sameSizes_of_mem_movers hs named mem ha⟩, ?_⟩
    rintro (elsewhere | ⟨gid, hgid, g, hg, blocked, retired⟩)
    · exact absurd on elsewhere
    · simp only [movable, Bool.and_eq_true, List.all_eq_true, decide_eq_true_eq] at mov
      exact ((mov.2 g (List.mem_filterMap.mpr ⟨gid, hgid, hg⟩)).elim blocked retired).elim
  · exact ⟨x, rfl, blocksMoved_refl x, fun _ => rfl⟩

/-- What the compactor does for what waits is a compaction. -/
theorem compacted_of_compactFor {s s1 : State} {core : Nat} {c : Core} {w : Waiting} (h : compactFor s core c w = some s1) :
    ∃ tn banks l, compacted s core tn banks l = some s1 := by
  unfold compactFor at h
  split at h
  · cases h
  split at h
  · cases h
  split at h
  · cases h
  split at h
  · cases h
  split at h
  · cases h
  · next l _ _ tn tt _ _ banks _ _ _ s2 packed =>
    split at h
    · cases h; exact ⟨_, _, _, packed⟩
    · cases h

/-- COMPACTOR_MOVE. -/
theorem execCompactorMove_eq {s s1 : State} {core : Nat} {c : Core} (hc : s.cores.get? core = some c)
    (h : (waitingUnits s).findSome? (compactFor s core c) = some s1) : execCompactorMove core s = .next s1 := by
  simp only [execCompactorMove, hc, h]

end Sys2Proof.Machine

/-!
PROOF. O48: teams are dispatched, evicted, resumed and moved (R35, R36, R40 to R42, R340, R341, R343, R345).
-/

namespace Sys2Proof.Machine

open Sys2Proof.Claims

/-- What the groups of a team that has been created show. -/
theorem CreatedTeam.groups {t : State} {lid : Nat} {l : Launch} {index tid : Nat} {p : Seat} {x : Team}
    (h : CreatedTeam t lid l index p tid x) (k gid : Nat) (hk : x.groups[k]? = some gid) :
    ∃ g, t.groups.get? gid = some g ∧ Created l lid tid k p.core l.args g := by
  obtain ⟨-, -, -, groups⟩ := h
  obtain ⟨slot, area, hg⟩ := groups k gid hk
  exact ⟨_, hg, newGroup_created l lid tid k p.core slot area l.args⟩

/-- Settles O48: the dispatcher places the first of what waits; a team alone is evicted, saved and resumed; the compactor packs blocks
again. Each part rests on the theorem of its move. -/
theorem teamsPlaced : Obligations.TeamsPlaced := by
  refine ⟨fun s lid l tn tt h hs hn => ⟨fun ps hc hp => ?dispatch, fun ps p one sorted hp first => placeCluster_best one sorted hp first,
      fun hc hp => teamDispatch_grid h hs hn hc hp⟩,
    fun s tid x l h he slices => teamEvict_givesWay h he (givesWay_of_slices h.1 slices),
    fun s tid x l p h he hp sorted tenant prio waits now without =>
      teamEvict_givesWay h he (givesWay_of_priority hp sorted tenant prio waits now without),
    fun s tid x l h st hs idle => ?save, fun s tid x l tn tt p h st hw hl hc hp fits hs hn => ?resume,
    fun s s1 core c hc hmove sorted new => ?compact⟩
  case dispatch =>
    obtain ⟨t, run, memory, launch, launches, teams, groups, created⟩ := teamDispatch_cluster h hs hn hc hp
    refine ⟨t, run, memory, launch, launches, teams, groups, fun j p hj => ?_⟩
    obtain ⟨tid, x, made⟩ := created j p hj
    obtain ⟨-, shape, count, -⟩ := id made
    exact ⟨tid, x, made.teamAt, by rw [shape], by rw [shape], by rw [shape], count, made.groups⟩
  case save =>
    obtain ⟨t, run, mem, launches, others, team, groups⟩ := evictSaveComplete_alone h st hs idle
    refine ⟨t, run, fun nowhere a => ?_, fun u loc nodup named hu live retired page => ?_, launches, others, team, fun gid g hg => ?_⟩
    · rw [mem]
      exact saveDone_nowhere hs nowhere a
    · rw [SameMemoryBut, mem, saveDone_open hs nodup named hu live retired page]
      exact ⟨fun b hb => State.byte_writeMem s loc b _ hb, fun k b hb => byte_writeMem_at s loc hb⟩
    · by_cases mine : g.team = tid
      · have saved : t.groups.get? gid = some (savedGroup s gid g) := by rw [groups, hg, Option.map_some, if_pos mine]
        exact ⟨_, saved, fun other => absurd mine other, fun _ => rfl, fun u _ hu => by rw [savedGroup, hu]; rfl⟩
      · have kept : t.groups.get? gid = some g := by rw [groups, hg, Option.map_some, if_neg mine]
        exact ⟨g, kept, fun _ => rfl, fun h => absurd h mine, fun _ h => absurd h mine⟩
  case resume =>
    obtain ⟨team, launch, one, -⟩ := id h
    obtain ⟨memory, others, resumed, groups⟩ := resumeTeam_resumes team hs l.ctx tn (room_of_placeCluster one hp fits)
    refine ⟨_, _, _, execTeamResume_eq h st hw hl hc hp hn, afterPlaced_frame _ _ _, afterPlaced_butYield launch _, afterPlaced_cores _ _ _,
      memory, others, resumed, rfl, fun gid g mem live hg => ?_⟩
    obtain ⟨r, hr, state, slot⟩ := groups gid g mem live hg
    exact ⟨r, hr, state.shows slot⟩
  case compact =>
    obtain ⟨w, -, hw⟩ := List.exists_of_findSome?_eq_some hmove
    obtain ⟨tn, banks, l, packed⟩ := compacted_of_compactFor hw
    exact ⟨execCompactorMove_eq hc hmove, compacted_moves sorted new packed⟩

end Sys2Proof.Machine

/-!
SUPPORT. The encoding (R83, R88 to R97, R116 to R118): a word is its opcode and the fields of its layout, and every row of the opcode map agrees
with the encoder.
-/

namespace Sys2Proof.Laws

/-! ## Words and their fields -/

/-- Neighbouring fields of a word, joined. -/
theorem extract_append_extract {n lo hi a b : Nat} (w : BitVec n) (h : hi = lo + b) :
    w.extractLsb' hi a ++ w.extractLsb' lo b = w.extractLsb' lo (a + b) := by
  subst h
  ext i hi
  simp only [BitVec.getElem_append, BitVec.getElem_extractLsb']
  split
  · rfl
  · congr 1; omega

/-- A bit as a field of its own. -/
theorem ofBool_getLsbD {n : Nat} (w : BitVec n) (k : Nat) : BitVec.ofBool (w.getLsbD k) = w.extractLsb' k 1 := by
  ext i hi
  obtain rfl : i = 0 := by omega
  simp

/-- The opcode of a word is its top field. -/
theorem opcode_eq {w : Word64} {o : BitVec 10} (h : opcOf w = o.toNat) : o = w.extractLsb' 54 10 :=
  (BitVec.eq_of_toNat_eq h).symm

theorem packV_formVOf {w : Word64} {o : BitVec 10} (h : opcOf w = o.toNat) : packV o (formVOf w) = w := by
  simp only [packV, formVOf, opcode_eq h, ofBool_getLsbD]
  iterate 7 rw [extract_append_extract w (by rfl)]
  exact extract_all w

theorem packI_formIOf {w : Word64} {o : BitVec 10} (h : opcOf w = o.toNat) : packI o (formIOf w) = w := by
  simp only [packI, formIOf, opcode_eq h, ofBool_getLsbD]
  iterate 6 rw [extract_append_extract w (by rfl)]
  exact extract_all w

theorem packM_formMOf {w : Word64} {o : BitVec 10} (h : opcOf w = o.toNat) : packM o (formMOf w) = w := by
  simp only [packM, formMOf, opcode_eq h, ofBool_getLsbD]
  iterate 8 rw [extract_append_extract w (by rfl)]
  exact extract_all w

theorem packX_formXOf {w : Word64} {o : BitVec 10} (h : opcOf w = o.toNat) : packX o (formXOf w) = w := by
  simp only [packX, formXOf, opcode_eq h]
  iterate 4 rw [extract_append_extract w (by rfl)]
  exact extract_all w

theorem packT_formTOf {w : Word64} {o : BitVec 10} (h : opcOf w = o.toNat) : packT o (formTOf w) = w := by
  simp only [packT, formTOf, opcode_eq h, ofBool_getLsbD]
  iterate 9 rw [extract_append_extract w (by rfl)]
  exact extract_all w

theorem packH_formHOf {w : Word64} {o : BitVec 10} (h : opcOf w = o.toNat) : packH o (formHOf w) = w := by
  simp only [packH, formHOf, opcode_eq h, ofBool_getLsbD]
  iterate 10 rw [extract_append_extract w (by rfl)]
  exact extract_all w

theorem opMap_header : opMap 0x3FF = none := rfl

/-! ## The rows of the opcode map -/

/-- R88: the six layouts of a word. -/
inductive Layout | v | i | m | x | t | h

/-- The layout of an instruction's word. -/
def layoutOf : Instr → Layout
  | .plop _ | .plive _ | .addImm _ | .subImm _ | .mulImm _ | .minImm _ | .maxImm _ | .andImm _ | .orImm _ | .xorImm _
  | .shlImm _ | .shrImm _ | .sarImm _ | .rotlImm _ | .movi _ | .movh _ | .leaImm _ | .xaddImm _ | .setfmtImm _ | .faddImm _
  | .fsubImm _ | .fmulImm _ | .cpwaitImm _ | .gangset _ | .mmwaitImm _ | .trap _ | .sysrd _ | .syswr _ | .tmark _ => .i
  | .ld _ _ _ | .st _ _ _ | .pf _ | .ldmx _ _ | .stmx _ _ | .atom _ _ _ | .red _ _ | .fence _ | .accst _ _ => .m
  | .jmp _ | .jmpa _ | .jmpl _ | .brx _ | .loopd _ | .mark _ | .split _ | .call _ | .ret _ => .x
  | .mma _ | .mmasp _ | .accld _ | .acczero _ | .accadd _ => .t
  | .hzinit _ | .hzins _ | .hzmerge _ | .hzread _ | .hzstore _ _ | .hzcount _ | .hzclear _ | .hzstat _ => .h
  | _ => .v

/-- The fields of a word, read and packed again under an opcode. -/
def repack (o : BitVec 10) (w : Word64) : Layout → Word64
  | .v => packV o (formVOf w)
  | .i => packI o (formIOf w)
  | .m => packM o (formMOf w)
  | .x => packX o (formXOf w)
  | .t => packT o (formTOf w)
  | .h => packH o (formHOf w)

/-- No bit of a word lies outside its opcode and its fields. -/
theorem repack_eq {w : Word64} {o : BitVec 10} (h : opcOf w = o.toNat) (k : Layout) : repack o w k = w := by
  cases k with
  | v => exact packV_formVOf h
  | i => exact packI_formIOf h
  | m => exact packM_formMOf h
  | x => exact packX_formXOf h
  | t => exact packT_formTOf h
  | h => exact packH_formHOf h

/-- R116 to R118: the encoder gives the instruction of a row the row's opcode, and its fields in the layout of the instruction. -/
def RowEncodes (r : OpRow) : Prop := ∀ w, encode (r.2 w) = some (repack (BitVec.ofNat 10 r.1) w (layoutOf (r.2 w)))

theorem rowEncodes_of_map {rows : List OpRow} (h : (rows.map fun r w => encode (r.2 w)) =
    rows.map fun r w => some (repack (BitVec.ofNat 10 r.1) w (layoutOf (r.2 w)))) : ∀ r ∈ rows, RowEncodes r :=
  fun r hr w => congrFun (List.map_inj_left.mp h r hr) w

theorem opsControl_encode : ∀ r ∈ opsControl, RowEncodes r := rowEncodes_of_map rfl
theorem opsInteger_encode : ∀ r ∈ opsInteger, RowEncodes r := rowEncodes_of_map rfl
theorem opsLogic_encode : ∀ r ∈ opsLogic, RowEncodes r := rowEncodes_of_map rfl
theorem opsFloating_encode : ∀ r ∈ opsFloating, RowEncodes r := rowEncodes_of_map rfl
theorem opsConvert_encode : ∀ r ∈ opsConvert, RowEncodes r := rowEncodes_of_map rfl
theorem opsMemory_encode : ∀ r ∈ opsMemory, RowEncodes r := rowEncodes_of_map rfl
theorem opsAtomics_encode : ∀ r ∈ opsAtomics, RowEncodes r := rowEncodes_of_map rfl
theorem opsSynchronisation_encode : ∀ r ∈ opsSynchronisation, RowEncodes r := rowEncodes_of_map rfl
theorem opsMatrix_encode : ∀ r ∈ opsMatrix, RowEncodes r := rowEncodes_of_map rfl
theorem opsHorizon_encode : ∀ r ∈ opsHorizon, RowEncodes r := rowEncodes_of_map rfl
theorem opsSystem_encode : ∀ r ∈ opsSystem, RowEncodes r := rowEncodes_of_map rfl

theorem rowEncodes_of_opMap {o : Nat} {mk : Word64 → Instr} (h : opMap o = some mk) : RowEncodes (o, mk) := by
  unfold opMap at h
  split_ifs at h
  · exact opsControl_encode _ (Table.mem_of_get? h)
  · exact opsInteger_encode _ (Table.mem_of_get? h)
  · exact opsLogic_encode _ (Table.mem_of_get? h)
  · exact opsFloating_encode _ (Table.mem_of_get? h)
  · exact opsConvert_encode _ (Table.mem_of_get? h)
  · exact opsMemory_encode _ (Table.mem_of_get? h)
  · exact opsAtomics_encode _ (Table.mem_of_get? h)
  · exact opsSynchronisation_encode _ (Table.mem_of_get? h)
  · exact opsMatrix_encode _ (Table.mem_of_get? h)
  · exact opsHorizon_encode _ (Table.mem_of_get? h)
  · exact opsSystem_encode _ (Table.mem_of_get? h)

/-- R83, R88: a word whose opcode stands in the map is the encoding of what it is read as. -/
theorem encode_of_decodeRaw {w : Word64} {i : Instr} (h : decodeRaw w = some i) : encode i = some w := by
  obtain ⟨mk, hmk, rfl⟩ := Option.map_eq_some_iff.mp h
  refine (rowEncodes_of_opMap hmk w).trans (congrArg some (repack_eq ?_ _))
  exact (Nat.mod_eq_of_lt (w.extractLsb' 54 10).isLt).symm

/-! ## Decoding -/

theorem lowest_eq_none {l : List Nat} : lowest l = none ↔ l = [] := by
  cases l with
  | nil => simp [lowest]
  | cons n t => cases h : lowest t <;> simp [lowest, h]

/-- R435: what decodes is what the word is read as, where that breaks no rule; a header's opcode is in no row. -/
theorem decodeWord_eq_ok {w : Word64} {i : Instr} :
    decodeWord w = .ok i ↔ decodeRaw w = some i ∧ i.WellFormed = true := by
  unfold decodeWord
  by_cases header : opcOf w = 0x3FF
  · simp [decodeRaw, header, opMap_header]
  · rw [if_neg header]
    cases hr : decodeRaw w with
    | none => simp
    | some j =>
      cases hl : lowest (encFaults j) with
      | none =>
        have hj := lowest_eq_none.mp hl
        simp only [hl, Except.ok.injEq, Option.some.injEq, Instr.WellFormed]
        exact ⟨fun h => ⟨h, by rw [← h, hj]; rfl⟩, And.left⟩
      | some sub =>
        simp only [hl, reduceCtorEq, Option.some.injEq, Instr.WellFormed, List.isEmpty_iff, false_iff, not_and]
        rintro rfl hi
        rw [hi] at hl
        cases hl

theorem decodeWord_header {w : Word64} (h : opcOf w = 0x3FF) : decodeWord w = .error (.illegal Enc.hdrInClause) := by
  rw [decodeWord, if_pos h]

theorem decodeWord_unassigned {w : Word64} (h : opMap (opcOf w) = none) : ∃ r, decodeWord w = .error r := by
  by_cases header : opcOf w = 0x3FF
  · exact ⟨_, decodeWord_header header⟩
  · rw [decodeWord, if_neg header, decodeRaw, h]
    exact ⟨_, rfl⟩

/-- The word of an instruction is read as that instruction. -/
theorem decodeRaw_of_encode (i : Instr) : RoundTrip.Statement i := by
  cases i with
  | nop f => exact RoundTrip.nop f
  | jmp f => exact RoundTrip.jmp f
  | jmpa f => exact RoundTrip.jmpa f
  | jmpl f => exact RoundTrip.jmpl f
  | brx f => exact RoundTrip.brx f
  | loopd f => exact RoundTrip.loopd f
  | mark f => exact RoundTrip.mark f
  | split f => exact RoundTrip.split f
  | join f => exact RoundTrip.join f
  | call f => exact RoundTrip.call f
  | ret f => exact RoundTrip.ret f
  | exit f => exact RoundTrip.exit f
  | yield f => exact RoundTrip.yield f
  | cmp t f => exact RoundTrip.cmp t f
  | cmpa t f => exact RoundTrip.cmpa t f
  | cmpo t f => exact RoundTrip.cmpo t f
  | plop f => exact RoundTrip.plop f
  | pmov f => exact RoundTrip.pmov f
  | ballot f => exact RoundTrip.ballot f
  | pcount f => exact RoundTrip.pcount f
  | pfirst f => exact RoundTrip.pfirst f
  | plive f => exact RoundTrip.plive f
  | add w f => exact RoundTrip.add w f
  | addImm f => exact RoundTrip.addImm f
  | sub w f => exact RoundTrip.sub w f
  | subImm f => exact RoundTrip.subImm f
  | addc f => exact RoundTrip.addc f
  | subb f => exact RoundTrip.subb f
  | mul w f => exact RoundTrip.mul w f
  | mulImm f => exact RoundTrip.mulImm f
  | mulhi g f => exact RoundTrip.mulhi g f
  | mad w f => exact RoundTrip.mad w f
  | madhi g f => exact RoundTrip.madhi g f
  | div g f => exact RoundTrip.div g f
  | rem g f => exact RoundTrip.rem g f
  | min w g f => exact RoundTrip.min w g f
  | max w g f => exact RoundTrip.max w g f
  | minImm f => exact RoundTrip.minImm f
  | maxImm f => exact RoundTrip.maxImm f
  | abs w f => exact RoundTrip.abs w f
  | neg w f => exact RoundTrip.neg w f
  | addPacked e f => exact RoundTrip.addPacked e f
  | subPacked e f => exact RoundTrip.subPacked e f
  | minPacked e g f => exact RoundTrip.minPacked e g f
  | maxPacked e g f => exact RoundTrip.maxPacked e g f
  | and w f => exact RoundTrip.and w f
  | andImm f => exact RoundTrip.andImm f
  | or w f => exact RoundTrip.or w f
  | orImm f => exact RoundTrip.orImm f
  | xor w f => exact RoundTrip.xor w f
  | xorImm f => exact RoundTrip.xorImm f
  | andn w f => exact RoundTrip.andn w f
  | not w f => exact RoundTrip.not w f
  | shl w f => exact RoundTrip.shl w f
  | shlImm f => exact RoundTrip.shlImm f
  | shr w f => exact RoundTrip.shr w f
  | shrImm f => exact RoundTrip.shrImm f
  | sar w f => exact RoundTrip.sar w f
  | sarImm f => exact RoundTrip.sarImm f
  | rotl w f => exact RoundTrip.rotl w f
  | rotlImm f => exact RoundTrip.rotlImm f
  | bfe g f => exact RoundTrip.bfe g f
  | bfi f => exact RoundTrip.bfi f
  | popc w f => exact RoundTrip.popc w f
  | clz w f => exact RoundTrip.clz w f
  | ctz w f => exact RoundTrip.ctz w f
  | brev w f => exact RoundTrip.brev w f
  | mov w f => exact RoundTrip.mov w f
  | movi f => exact RoundTrip.movi f
  | movh f => exact RoundTrip.movh f
  | lea f => exact RoundTrip.lea f
  | leaImm f => exact RoundTrip.leaImm f
  | shflIdx f => exact RoundTrip.shflIdx f
  | shflUp f => exact RoundTrip.shflUp f
  | shflDown f => exact RoundTrip.shflDown f
  | shflXor f => exact RoundTrip.shflXor f
  | xmov f => exact RoundTrip.xmov f
  | xadd f => exact RoundTrip.xadd f
  | xaddImm f => exact RoundTrip.xaddImm f
  | setfmt f => exact RoundTrip.setfmt f
  | setfmtImm f => exact RoundTrip.setfmtImm f
  | getfmt f => exact RoundTrip.getfmt f
  | fadd t f => exact RoundTrip.fadd t f
  | fsub t f => exact RoundTrip.fsub t f
  | fmul t f => exact RoundTrip.fmul t f
  | ffma t f => exact RoundTrip.ffma t f
  | faddImm f => exact RoundTrip.faddImm f
  | fsubImm f => exact RoundTrip.fsubImm f
  | fmulImm f => exact RoundTrip.fmulImm f
  | fdiv t m f => exact RoundTrip.fdiv t m f
  | fsqrt t m f => exact RoundTrip.fsqrt t m f
  | fmin t f => exact RoundTrip.fmin t f
  | fmax t f => exact RoundTrip.fmax t f
  | fminn t f => exact RoundTrip.fminn t f
  | fmaxn t f => exact RoundTrip.fmaxn t f
  | fabs t f => exact RoundTrip.fabs t f
  | fneg t f => exact RoundTrip.fneg t f
  | fcopysign t f => exact RoundTrip.fcopysign t f
  | fclass t f => exact RoundTrip.fclass t f
  | fscale t f => exact RoundTrip.fscale t f
  | frnd t m f => exact RoundTrip.frnd t m f
  | frcp t f => exact RoundTrip.frcp t f
  | frsq t f => exact RoundTrip.frsq t f
  | fex2 t f => exact RoundTrip.fex2 t f
  | flg2 t f => exact RoundTrip.flg2 t f
  | fsin t f => exact RoundTrip.fsin t f
  | fcos t f => exact RoundTrip.fcos t f
  | ftanh t f => exact RoundTrip.ftanh t f
  | cvt f => exact RoundTrip.cvt f
  | fxcvt f => exact RoundTrip.fxcvt f
  | cvtpPack f => exact RoundTrip.cvtpPack f
  | cvtpUnpack f => exact RoundTrip.cvtpUnpack f
  | dotp f => exact RoundTrip.dotp f
  | mxq f => exact RoundTrip.mxq f
  | mxd f => exact RoundTrip.mxd f
  | ld sp w f => exact RoundTrip.ld sp w f
  | st sp w f => exact RoundTrip.st sp w f
  | pf f => exact RoundTrip.pf f
  | ldmx sp f => exact RoundTrip.ldmx sp f
  | stmx sp f => exact RoundTrip.stmx sp f
  | atom sp op f => exact RoundTrip.atom sp op f
  | red op f => exact RoundTrip.red op f
  | fence f => exact RoundTrip.fence f
  | bar f => exact RoundTrip.bar f
  | barc f => exact RoundTrip.barc f
  | barg f => exact RoundTrip.barg f
  | barp f => exact RoundTrip.barp f
  | arrive f => exact RoundTrip.arrive f
  | await f => exact RoundTrip.await f
  | monwait f => exact RoundTrip.monwait f
  | arvinit f => exact RoundTrip.arvinit f
  | arvexp f => exact RoundTrip.arvexp f
  | arvwait f => exact RoundTrip.arvwait f
  | cpgLd f => exact RoundTrip.cpgLd f
  | cpgSt f => exact RoundTrip.cpgSt f
  | cpc f => exact RoundTrip.cpc f
  | fput f => exact RoundTrip.fput f
  | fget f => exact RoundTrip.fget f
  | fputr f => exact RoundTrip.fputr f
  | cpclose f => exact RoundTrip.cpclose f
  | cpwait f => exact RoundTrip.cpwait f
  | cpwaitImm f => exact RoundTrip.cpwaitImm f
  | coll f => exact RoundTrip.coll f
  | gangset f => exact RoundTrip.gangset f
  | omap f => exact RoundTrip.omap f
  | thset f => exact RoundTrip.thset f
  | opfence f => exact RoundTrip.opfence f
  | mma f => exact RoundTrip.mma f
  | mmasp f => exact RoundTrip.mmasp f
  | mmclose f => exact RoundTrip.mmclose f
  | mmwait f => exact RoundTrip.mmwait f
  | mmwaitImm f => exact RoundTrip.mmwaitImm f
  | accld f => exact RoundTrip.accld f
  | accst sp f => exact RoundTrip.accst sp f
  | acczero f => exact RoundTrip.acczero f
  | accadd f => exact RoundTrip.accadd f
  | hzinit f => exact RoundTrip.hzinit f
  | hzins f => exact RoundTrip.hzins f
  | hzmerge f => exact RoundTrip.hzmerge f
  | hzread f => exact RoundTrip.hzread f
  | hzstore sp f => exact RoundTrip.hzstore sp f
  | hzcount f => exact RoundTrip.hzcount f
  | hzclear f => exact RoundTrip.hzclear f
  | hzstat f => exact RoundTrip.hzstat f
  | trap f => exact RoundTrip.trap f
  | brk f => exact RoundTrip.brk f
  | sysrd f => exact RoundTrip.sysrd f
  | syswr f => exact RoundTrip.syswr f
  | clock f => exact RoundTrip.clock f
  | tmark f => exact RoundTrip.tmark f
  | dmput f => exact RoundTrip.dmput f
  | dmget f => exact RoundTrip.dmget f
  | tgtrd f => exact RoundTrip.tgtrd f
  | tgtwr f => exact RoundTrip.tgtwr f
  | tgtres f => exact RoundTrip.tgtres f
  | tgtkill f => exact RoundTrip.tgtkill f
  | tgthalt f => exact RoundTrip.tgthalt f
  | tgtstep f => exact RoundTrip.tgtstep f
  | tgtcalm f => exact RoundTrip.tgtcalm f
  | bpset f => exact RoundTrip.bpset f
  | wpset f => exact RoundTrip.wpset f
  | _ => exact nofun

end Sys2Proof.Laws

/-!
PROOF. O1, O2, O3: decoding and encoding are inverse to each other (R83, R88 to R97, R116 to R119).
-/

namespace Sys2Proof.Laws

/-- Settles O2: the word is read as the instruction, which breaks no rule. -/
theorem decodeEncode : Obligations.DecodeEncode :=
  fun i w wf he => decodeWord_eq_ok.mpr ⟨decodeRaw_of_encode i w he, wf⟩

/-- Settles O3: a word that decodes has its opcode in a row of the map, and no bit outside that row's layout. -/
theorem encodeDecode : Obligations.EncodeDecode := by
  refine ⟨fun w i h => ?_, fun w h => ?_⟩
  · obtain ⟨hr, wf⟩ := decodeWord_eq_ok.mp h
    exact ⟨wf, encode_of_decodeRaw hr⟩
  · rcases h with h | h
    · exact decodeWord_unassigned h
    · exact ⟨_, decodeWord_header h⟩

/-- Settles O1. -/
theorem wordsDecode : Obligations.WordsDecode := by
  exact ⟨rfl, rfl, rfl, rfl, rfl⟩

end Sys2Proof.Laws

/-!
SUPPORT. Operands that do not fit (R98 to R107, R434, R435, R443): the fault of a lane, and the trap that the instruction takes.
-/

namespace Sys2Proof.Machine

open Sys2Proof.Claims

variable {s : State} {u : Issuer}

/-! ## The first of a list -/

theorem exists_firstWhere {p : Nat → Bool} {xs : List Nat} {k : Nat} (hk : k ∈ xs) (hp : p k = true) : ∃ j, firstWhere p xs = some j :=
  Option.ne_none_iff_exists'.mp fun h => by simpa [hp] using firstWhere_none.mp h k hk

theorem exists_of_firstSome {α β : Type} {f : α → Option β} {xs : List α} {b : β} (h : firstSome f xs = some b) :
    ∃ a ∈ xs, f a = some b := by
  induction xs with
  | nil => cases h
  | cons a t ih =>
    cases ha : f a with
    | some c =>
      rw [firstSome, ha] at h
      exact ⟨a, List.mem_cons_self, ha.trans h⟩
    | none =>
      rw [firstSome, ha] at h
      obtain ⟨x, hx, hb⟩ := ih h
      exact ⟨x, List.mem_cons_of_mem a hx, hb⟩

theorem firstSome_append {α β : Type} {f : α → Option β} {pre : List α} (hp : ∀ a ∈ pre, f a = none) (x : α) (post : List α) {b : β}
    (hx : f x = some b) : firstSome f (pre ++ x :: post) = some b := by
  induction pre with
  | nil => simp [firstSome, hx]
  | cons a t ih => simp [firstSome, hp a List.mem_cons_self, ih fun c hc => hp c (List.mem_cons_of_mem a hc)]

/-! ## The fault of one operand -/

/-- R434, R435: an operand fault of a lane. -/
def IsOper (sub lane : Nat) (r : Option Raise) : Prop := ∃ d, r = some ⟨.oper, sub, lane, 0, d, 0⟩

theorem fileFault_of_misfit {x : Use} (hx : x.Shaped) {lane n limit sub : Nat} {pend : Nat → Bool}
    (h : FileMisfit x n limit pend sub) : IsOper sub lane (fileFault x lane n limit pend) := by
  have size := hx.1
  unfold fileFault
  rcases h with ⟨outside, rfl⟩ | ⟨inside, odd, rfl⟩ | ⟨inside, even, ⟨k, hk, busy⟩, rfl⟩
  · obtain ⟨k, hk, beyond⟩ : ∃ k, k ∈ upFrom 0 (if n % x.align = 0 then x.size else 1) ∧ limit ≤ n + k := by
      rcases outside with ⟨even, far⟩ | ⟨odd, far⟩
      · exact ⟨x.size - 1, by rw [if_pos even, mem_upFrom_zero]; omega, by omega⟩
      · exact ⟨0, by rw [if_neg odd, mem_upFrom_zero]; omega, by omega⟩
    obtain ⟨j, hj⟩ := exists_firstWhere (p := fun k => decide (limit ≤ n + k)) hk (by simpa using beyond)
    exact ⟨_, by dsimp only; rw [hj]; rfl⟩
  · have none_beyond : firstWhere (fun k => decide (limit ≤ n + k)) (upFrom 0 (if n % x.align = 0 then x.size else 1)) = none := by
      rw [if_neg odd, firstWhere_none]
      intro k hk
      have := mem_upFrom_zero.mp hk
      simp only [decide_eq_false_iff_not]
      omega
    exact ⟨_, by dsimp only; rw [none_beyond, if_pos odd]; rfl⟩
  · have none_beyond : firstWhere (fun k => decide (limit ≤ n + k)) (upFrom 0 (if n % x.align = 0 then x.size else 1)) = none := by
      rw [if_pos even, firstWhere_none]
      intro k hk
      have := mem_upFrom_zero.mp hk
      simp only [decide_eq_false_iff_not]
      omega
    obtain ⟨j, hj⟩ := exists_firstWhere (p := fun k => pend (n + k)) (mem_upFrom_zero.mpr hk) busy
    exact ⟨_, by dsimp only; rw [none_beyond, if_neg (not_not.mpr even), hj]; rfl⟩

theorem indexedFault_of_misfit {x : Use} {lane n sub : Nat} (h : IndexedMisfit u lane x n sub) :
    IsOper sub lane (indexedFault u x lane n) := by
  unfold indexedFault
  simp only [Bool.or_eq_true, Bool.and_eq_true, decide_eq_true_eq]
  rcases h with ⟨odd, rfl⟩ | ⟨even, far, rfl⟩ | ⟨even, near, ⟨k, hk, busy⟩, rfl⟩
  · exact ⟨_, if_pos odd⟩
  · exact ⟨_, by rw [if_neg even, if_pos far]; rfl⟩
  · obtain ⟨j, hj⟩ := exists_firstWhere (p := fun k => u.g.vPend (n + k) lane) (mem_upFrom_zero.mpr hk) busy
    exact ⟨_, by rw [if_neg even, if_neg (by omega), hj]; rfl⟩

theorem latchFault_of_misfit {x : Use} {lane k sub : Nat} (h : LatchMisfit u lane x k sub) :
    IsOper sub lane (latchFault u x lane k) := by
  unfold latchFault latchElem
  rcases h with ⟨void, rfl⟩ | ⟨e, he, ⟨empty, rfl⟩ | ⟨full, other, rfl⟩⟩
  · exact ⟨_, if_pos (List.getElem?_eq_none_iff.mp void)⟩
  · have filled := (List.getElem?_eq_some_iff.mp he).1
    exact ⟨_, by rw [if_neg (by omega), he]; simp only [empty]; rfl⟩
  · have filled := (List.getElem?_eq_some_iff.mp he).1
    obtain ⟨y, hy⟩ := Option.isSome_iff_exists.mp full
    exact ⟨_, by rw [if_neg (by omega), he]; simp only [hy, if_neg other]; rfl⟩

/-- R434: an operand that does not fit raises the fault of its subcode. -/
theorem useFault_of_misfits {x : Use} (hx : x.Shaped) {l sub : Nat} (h : Misfits u l x sub) : IsOper sub l (useFault u l x) := by
  unfold Misfits at h
  unfold useFault
  cases hc : operandOf x.code with
  | v n => rw [hc] at h; exact fileFault_of_misfit hx h
  | s n => rw [hc] at h; exact fileFault_of_misfit hx h
  | indexed k => rw [hc] at h; exact indexedFault_of_misfit h
  | latch k => rw [hc] at h; exact latchFault_of_misfit h
  | zero => rw [hc] at h; exact h.elim
  | laneid => rw [hc] at h; exact h.elim
  | reserved => rw [hc] at h; exact h.elim

/-! ## Poison (R443) -/

/-- R443: an operand that reads poison raises POISON, and no other does. -/
theorem usePoison_eq_none {x : Use} {l : Nat} : usePoison u l x = none ↔ ¬ ReadsPoison u l x := by
  unfold usePoison ReadsPoison vectorReg
  cases hw : x.write with
  | true => simp
  | false => cases operandOf x.code <;> simp [firstWhere_none, mem_upFrom_zero]

theorem usePoison_eq_some {x : Use} {l : Nat} {r : Raise} (h : usePoison u l x = some r) : ∃ d, r = ⟨.err, 1, l, 0, d, 0⟩ := by
  unfold usePoison at h
  split at h
  · cases h
  · split at h
    · obtain ⟨k, -, rfl⟩ := Option.map_eq_some_iff.mp h
      exact ⟨_, rfl⟩
    · split at h
      · cases h
      · obtain ⟨k, -, rfl⟩ := Option.map_eq_some_iff.mp h
        exact ⟨_, rfl⟩

/-! ## The fault of a lane (R435) -/

theorem laneFault_of_poison {uses : List Use} {l : Nat} (h : ∃ x ∈ uses, ReadsPoison u l x) :
    ∃ d, laneFault u uses l = some ⟨.err, 1, l, 0, d, 0⟩ := by
  obtain ⟨x, hx, hp⟩ := h
  obtain ⟨r, hr⟩ := Option.ne_none_iff_exists'.mp fun none => usePoison_eq_none.mp (firstSome_none.mp none x hx) hp
  obtain ⟨y, -, hy⟩ := exists_of_firstSome hr
  obtain ⟨d, rfl⟩ := usePoison_eq_some hy
  exact ⟨d, by rw [laneFault, hr]⟩

theorem laneFault_of_misfit {pre post : List Use} {x : Use} {l sub : Nat} (hx : ∀ y ∈ pre ++ x :: post, y.Shaped)
    (clean : ∀ y ∈ pre ++ x :: post, ¬ ReadsPoison u l y) (fits : ∀ y ∈ pre, Fits u l y) (h : Misfits u l x sub) :
    IsOper sub l (laneFault u (pre ++ x :: post) l) := by
  obtain ⟨d, hd⟩ := useFault_of_misfits (hx x (by simp)) h
  refine ⟨d, ?_⟩
  rw [laneFault, firstSome_none.mpr fun y hy => usePoison_eq_none.mpr (clean y hy)]
  exact firstSome_append (fun y hy => ((use_fits (hx y (by simp [hy]))).mpr (fits y hy)).2) x post hd

/-! ## The trap -/

/-- R111, R437: the group stops with the fault that its trap describes. -/
theorem takeTrap_trapsAt (s : State) (u : Issuer) (i : TrapInfo) {sub detail : Nat} (hsub : i.sub = BitVec.ofNat 16 sub)
    (hdetail : i.detail = BitVec.ofNat 32 detail) : TrapsAt s u i.cls sub i.lane i.addr detail (takeTrap s u i) := by
  have group : (takeTrap s u i).groups.get? u.gid = some { u.g with
      status := .trapping, wait := none, trap := some i, sound := none, haltAsked := false, suppressed := suppressedBy i } := by
    simp [takeTrap, State.setGroup]
  refine ⟨⟨?_, fun k hk => ?_, fun a => ?_, fun c => ?_, _, i, group, rfl, rfl, rfl, rfl, hsub, rfl⟩, _, i, group, rfl, rfl, rfl, hdetail⟩
  · rw [takeTrap, soundEnd_frame]; rfl
  · simp [takeTrap, State.setGroup, Table.get?_insert, hk]
  · rw [takeTrap, soundEnd_frame]; rfl
  · rw [takeTrap, soundEnd_contexts]; rfl

theorem upFrom_pairwise (a n : Nat) : (upFrom a n).Pairwise (· < ·) := by
  induction n generalizing a with
  | zero => exact List.Pairwise.nil
  | succ n ih => exact List.Pairwise.cons (fun k hk => ((mem_upFrom _ _ k).mp hk).1) (ih _)

theorem Issuer.enabledLanes_pairwise (u : Issuer) (tt : BitVec 8) : (u.enabledLanes tt).Pairwise (· < ·) :=
  ((upFrom_pairwise 0 u.l.width).filter _).filter _

/-- R81: the fault of the lowest lane that fails. -/
theorem lanesFault_at {uses : List Use} (hx : ∀ x ∈ uses, x.Shaped) {lanes : List Nat} (rising : lanes.Pairwise (· < ·)) {l : Nat}
    (hl : l ∈ lanes) (below : ∀ m ∈ lanes, m < l → ∀ x ∈ uses, Fits u m x) {r : Raise} (h : laneFault u uses l = some r) :
    lanesFault u uses lanes = some r := by
  obtain ⟨pre, post, rfl⟩ := List.append_of_mem hl
  have lower : ∀ m ∈ pre, m < l := fun m hm => (List.pairwise_append.mp rising).2.2 m hm l List.mem_cons_self
  exact firstSome_append (fun m hm => (laneFault_none hx).mpr (below m (List.mem_append_left _ hm) (lower m hm))) l post h

/-- R81, R111, R435: a short-latency instruction without a check of its own traps at the lowest lane with a fault. -/
theorem vectorOp_trapsAt {k : LaneForm} (hx : ∀ x ∈ k.uses, x.Shaped) (f : Issuer → Nat → LaneOut) (h : Issuing s u) {l : Nat}
    (hl : if k.sc then l = 0 else l ∈ u.enabledLanes k.tt)
    (below : k.sc = false → ∀ m ∈ u.enabledLanes k.tt, m < l → ∀ x ∈ k.uses, Fits u m x)
    {cls : FaultClass} {sub d : Nat} (fault : laneFault u k.uses l = some ⟨cls, sub, l, 0, d, 0⟩) :
    ∃ t, vectorOp s k noCheck f = .next t ∧ TrapsAt s u cls sub (if k.sc then 0xFF else l) 0 d t := by
  cases hs : k.sc with
  | true =>
    rw [hs, if_pos rfl] at hl
    rw [hl] at fault
    have scalar : scalarFault u k.uses = some ⟨cls, sub, 0xFF, 0, d, 0⟩ := by simp [scalarFault, fault]
    refine ⟨trapScalar s u ⟨cls, sub, 0xFF, 0, d, 0⟩ k.uses, ?_, takeTrap_trapsAt s u _ rfl rfl⟩
    simp [vectorOp, withIssuer_issuing h, noCheck, hs, scalar]
  | false =>
    rw [hs] at hl
    have lane := lanesFault_at hx (u.enabledLanes_pairwise k.tt) hl (below hs) fault
    refine ⟨trapLanes s u ⟨cls, sub, l, 0, d, 0⟩ (u.enabledLanes k.tt) k.uses, ?_, takeTrap_trapsAt s u _ rfl rfl⟩
    simp [vectorOp, withIssuer_issuing h, noCheck, hs, lane]

/-! ## The instructions of the tables -/

/-- Every operand of a form names one register, an aligned pair or an aligned run. -/
def LaneForm.Shaped (k : LaneForm) : Prop := ∀ x ∈ k.uses, x.Shaped

theorem LaneForm.Shaped.of_dest {k : LaneForm} {nw : Bool} {d : Use} (hk : k.dest = destUnless nw d) (hd : d.Shaped)
    (hs : ∀ x ∈ k.sources, x.Shaped) : k.Shaped := by
  intro x hx
  rcases List.mem_append.mp hx with hx | hx
  · cases nw <;> simp_all [destUnless]
  · exact hs x hx

@[simp] theorem shaped_form1 (wd w : IWidth) (f : FormV) : (form1 wd w f).Shaped :=
  .of_dest rfl (by simp) (by simp [form1])
@[simp] theorem shaped_form2 (w : IWidth) (f : FormV) : (form2 w f).Shaped := .of_dest rfl (by simp) (by simp [form2])
@[simp] theorem shaped_form3 (w : IWidth) (f : FormV) : (form3 w f).Shaped := .of_dest rfl (by simp) (by simp [form3])
@[simp] theorem shaped_formShift (w : IWidth) (f : FormV) : (formShift w f).Shaped :=
  .of_dest rfl (by simp) (by simp [formShift])
@[simp] theorem shaped_formImm (w : IWidth) (f : FormI) : (formImm w f).Shaped := .of_dest rfl (by simp) (by simp [formImm])
@[simp] theorem shaped_carryForm (f : FormV) : (carryForm f).Shaped := .of_dest rfl (by simp) (by simp [carryForm])
@[simp] theorem shaped_moviForm (f : FormI) : (⟨f.tt, f.sc, destUnless f.nw (dst f.d), [], 1⟩ : LaneForm).Shaped :=
  .of_dest rfl (by simp) (by simp)
@[simp] theorem shaped_cmpForm (t : CmpType) (f : FormV) : (cmpForm t f).Shaped := by
  simp [LaneForm.Shaped, LaneForm.uses, cmpForm]
@[simp] theorem shaped_plopForm (f : FormI) : (⟨f.tt, false, none, [], 0⟩ : LaneForm).Shaped := by
  simp [LaneForm.Shaped, LaneForm.uses]
@[simp] theorem shaped_pmovForm (f : FormV) : (pmovForm f).Shaped := by
  unfold pmovForm
  split_ifs
  · simp [LaneForm.Shaped, LaneForm.uses]
  · simp [LaneForm.Shaped, LaneForm.uses]
  · exact .of_dest rfl (by simp) (by simp)

/-- An instruction that runs as a short-latency one of a form, without a check of its own. -/
def RunsAs (i : Instr) (k : LaneForm) : Prop := (∀ s, ∃ f, exec i s = vectorOp s k noCheck f) ∧ k.Shaped

/-- R81, R435: an instruction with an operand that does not fit has no effect and traps, where it runs as its table says. -/
theorem refuses_of_runsAs {table : Instr → Option Compute} (h : ∀ i k, table i = some k → RunsAs i k.form) : Refuses table := by
  intro i k hi _ s u hu l hl below
  obtain ⟨runs, shaped⟩ := h i k hi
  obtain ⟨f, hf⟩ := runs s
  have traps_at {cls sub d} (fault : laneFault u k.form.uses l = some ⟨cls, sub, l, 0, d, 0⟩) :
      ∃ t d, exec i s = .next t ∧ TrapsAt s u cls sub (if k.form.sc then 0xFF else l) 0 d t := by
    obtain ⟨t, run, traps⟩ := vectorOp_trapsAt shaped f hu hl below fault
    exact ⟨t, d, hf.trans run, traps⟩
  refine ⟨fun poison => ?_, fun pre x post sub split clean fits misfit => ?_⟩
  · obtain ⟨d, fault⟩ := laneFault_of_poison poison
    exact traps_at fault
  · rw [split] at clean
    obtain ⟨d, fault⟩ := laneFault_of_misfit (split ▸ shaped) clean fits misfit
    exact traps_at (split ▸ fault)

theorem arithmetic_runsAs (i : Instr) (k : Compute) (h : arithmetic i = some k) : RunsAs i k.form := by
  unfold arithmetic at h
  split at h <;> cases h <;> exact ⟨fun _ => ⟨_, rfl⟩, by simp [both, both64, withImm, three, one, one64]⟩

theorem minMaxPacked_runsAs (i : Instr) (k : Compute) (h : minMaxPacked i = some k) : RunsAs i k.form := by
  unfold minMaxPacked at h
  split at h <;> cases h <;> exact ⟨fun _ => ⟨_, rfl⟩, by simp [both, both64, withImm]⟩

theorem logic_runsAs (i : Instr) (k : Compute) (h : logic i = some k) : RunsAs i k.form := by
  unfold logic at h
  split at h <;> cases h <;> exact ⟨fun _ => ⟨_, rfl⟩, by simp [both, both64, withImm, one, one64]⟩

theorem shifts_runsAs (i : Instr) (k : Compute) (h : shifts i = some k) : RunsAs i k.form := by
  unfold shifts at h
  split at h <;> cases h <;> exact ⟨fun _ => ⟨_, rfl⟩, by simp [shift32, shift64, shiftBy]⟩

theorem counted_form (w : IWidth) (f : FormV) (n32 : Word → Word) (n64 : Word64 → Word) :
    (Claims.counted w f n32 n64).form = form1 .w32 w f := by
  cases w <;> rfl

theorem bitFields_runsAs (i : Instr) (k : Compute) (h : bitFields i = some k) : RunsAs i k.form := by
  unfold bitFields at h
  split at h <;> cases h <;> simp only [counted_form, three, one, one64] <;>
    exact ⟨fun _ => ⟨_, rfl⟩, by simp⟩

theorem moves_runsAs (i : Instr) (k : Compute) (h : moves i = some k) : RunsAs i k.form := by
  unfold moves at h
  split at h <;> cases h <;> exact ⟨fun _ => ⟨_, rfl⟩, by simp [one, one64, withImm]⟩

theorem predicates_runsAs (i : Instr) (k : Compute) (h : predicates i = some k) : RunsAs i k.form := by
  unfold predicates at h
  split at h <;> cases h <;> exact ⟨fun _ => ⟨_, rfl⟩, by simp [comparison]⟩

/-! ## Floating point and conversions (R238 to R252) -/

theorem ofForm_form (t : ArithForm) (f : FormV) (op : FloatFmt → Rounding → Nat → Nat → Coded) :
    (ofForm t f op).form = form2 (arithWidth t) f := by
  cases t <;> rfl

theorem fused_form (t : ArithForm) (f : FormV) : (fused t f).form = form3 (arithWidth t) f := by
  cases t <;> rfl

theorem ofType_form (t : FType) (f : FormV) (op : FloatFmt → Nat → Nat → Coded) : (ofType t f op).form = form2 (ftWidth t) f := by
  cases t <;> rfl

theorem ofType1_form (t : FType) (f : FormV) (op : FloatFmt → Nat → Coded) :
    (ofType1 t f op).form = form1 (ftWidth t) (ftWidth t) f := by
  cases t <;> rfl

theorem scalar2_form (t : FWidth) (f : FormV) (op : FloatFmt → Nat → Nat → Coded) : (scalar2 t f op).form = form2 (fwWidth t) f := by
  cases t <;> rfl

theorem scalar1_form (t : FWidth) (f : FormV) (op : FloatFmt → Nat → Coded) :
    (scalar1 t f op).form = form1 (fwWidth t) (fwWidth t) f := by
  cases t <;> rfl

theorem floats_runsAs (i : Instr) (k : Compute) (h : floats i = some k) : RunsAs i k.form := by
  unfold floats at h
  split at h <;> cases h <;>
    simp only [ofForm_form, fused_form, ofType_form, ofType1_form, scalar2_form, scalar1_form, withFloatImm] <;>
    exact ⟨fun _ => ⟨_, rfl⟩, by simp⟩

theorem field_eq_toNat_extractLsb' (c : BitVec 11) (hi lo : Nat) : field c.toNat hi lo = (c.extractLsb' lo (hi + 1 - lo)).toNat := by
  rw [field, BitVec.extractLsb'_toNat, Nat.shiftRight_eq_div_pow]

theorem execCvt_eq (f : FormV) (s : State) :
    ∃ out, execCvt f s = vectorOp s (form1 (pairWidth (cvtWide (cvtTo f))) (pairWidth (cvtWide (cvtFrom f))) f) noCheck out := by
  unfold execCvt
  rw [field_eq_toNat_extractLsb', field_eq_toNat_extractLsb']
  exact ⟨_, rfl⟩

theorem execFxcvt_eq (f : FormV) (s : State) :
    ∃ out, execFxcvt f s = vectorOp s (if f.c.getLsbD 0 then form1 (pairWidth (f.c.getLsbD 1)) .w64 f
      else form1 .w64 (pairWidth (f.c.getLsbD 1)) f) noCheck out := by
  unfold execFxcvt fxFloat64 fxToFloat
  rw [bitOf_toNat, bitOf_toNat]
  cases f.c.getLsbD 0
  · exact ⟨_, rfl⟩
  · exact ⟨_, rfl⟩

theorem conversions_runsAs (i : Instr) (k : Compute) (h : conversions i = some k) : RunsAs i k.form := by
  unfold conversions at h
  split at h
  · cases h
    exact ⟨execCvt_eq _, shaped_form1 _ _ _⟩
  · next f =>
    have runs := execFxcvt_eq f
    cases direction : f.c.getLsbD 0 with
    | false =>
      rw [direction] at h runs
      cases h
      exact ⟨runs, shaped_form1 _ _ _⟩
    | true =>
      rw [direction] at h runs
      cases h
      exact ⟨runs, shaped_form1 _ _ _⟩
  · cases h

end Sys2Proof.Machine

/-!
PROOF. O57: an operand that does not fit traps the instruction (R98 to R107, R434, R435, R443).
-/

namespace Sys2Proof.Machine

open Sys2Proof.Claims

/-- Settles O57: the instructions of each table run as short-latency ones without a check of their own, so that the first fault of their
operands is the trap. -/
theorem operandFaults : Obligations.OperandFaults :=
  ⟨refuses_of_runsAs arithmetic_runsAs, refuses_of_runsAs minMaxPacked_runsAs, refuses_of_runsAs logic_runsAs,
    refuses_of_runsAs shifts_runsAs, refuses_of_runsAs bitFields_runsAs, refuses_of_runsAs moves_runsAs,
    refuses_of_runsAs predicates_runsAs, refuses_of_runsAs floats_runsAs, refuses_of_runsAs conversions_runsAs⟩

end Sys2Proof.Machine

/-!
SUPPORT. A group's turn (R83, R109, R346, R435): what a turn leaves as it was, and how a word comes to issue.
-/

namespace Sys2Proof.Machine

open Sys2Proof.Claims

variable {s : State} {u : Issuer}

/-! ## Reading a word of code (R3, R83) -/

/-- The bytes of a vector, the lowest first, have its value. -/
theorem leNat_bytes {n : Nat} (m : List Host.Cell) (x : BitVec n) (len : Nat) : ∀ a j,
    (∀ k, k < len → Memory.byte m (a + k) = x.extractLsb' (8 * (j + k)) 8) →
    leNat (Memory.bytes m a len) = x.toNat / 2 ^ (8 * j) % 2 ^ (8 * len) := by
  induction len with
  | zero => intro a j _; simp [Memory.bytes, leNat, Nat.mod_one]
  | succ len ih =>
    intro a j h
    have first : (Memory.byte m a).toNat = x.toNat / 2 ^ (8 * j) % 256 := by
      rw [show Memory.byte m a = _ from h 0 (by omega), BitVec.extractLsb'_toNat, Nat.shiftRight_eq_div_pow]
      rfl
    have rest := ih (a + 1) (j + 1) fun k hk => by
      rw [Nat.add_assoc, Nat.add_assoc]
      exact (Nat.add_comm 1 k) ▸ h (k + 1) (by omega)
    have split : 2 ^ (8 * (len + 1)) = 256 * 2 ^ (8 * len) := by rw [Nat.mul_add, Nat.pow_add, Nat.mul_comm]
    have next : x.toNat / 2 ^ (8 * (j + 1)) = x.toNat / 2 ^ (8 * j) / 256 := by
      rw [Nat.mul_add, Nat.pow_add, ← Nat.div_div_eq_div_mul]
    rw [Memory.bytes, leNat, first, rest, split, next, Nat.mod_mul]

theorem readNat_word {a : Nat} {w : Word64} (h : ∀ k, k < 8 → Memory.byte s.mem (a + k) = w.extractLsb' (8 * k) 8) :
    BitVec.ofNat 64 (s.readNat a 8) = w := by
  apply BitVec.eq_of_toNat_eq
  have := leNat_bytes s.mem w 8 a 0 (by simpa using h)
  rw [BitVec.toNat_ofNat, State.readNat, State.readMem, this]
  have := w.isLt
  simp only [Nat.mul_zero, Nat.pow_zero, Nat.div_one]
  omega

/-- R83: the word that stands at an address of code is read there. -/
theorem peekCode_of_codeAt {va clause : Nat} {w : Word64} (h : CodeAt s u va w) : peekCode s u va clause = .word w false := by
  obtain ⟨aligned, low, loc, cache, checked, xlate, bytes, clean⟩ := h
  unfold peekCode
  simp only [canonical, low, aligned, xlate, readNat_word bytes, clean, decide_true, Bool.not_true, ne_eq, not_true_eq_false, if_false,
    Bool.false_eq_true]

/-! ## What a turn leaves as it was (R4, log entry 2) -/

/-- A state that differs in whose move it is and in the counters alone. -/
def SameBoard (s t : State) : Prop :=
  t = { s with agenda := t.agenda, turn := t.turn, cur := t.cur, ticks := t.ticks, clocks := t.clocks }

theorem takeTurn_sameBoard (s : State) : SameBoard s (takeTurn s) := rfl

theorem SameBoard.issuerOf {t : State} (h : SameBoard s t) (gid : Nat) : issuerOf t gid = issuerOf s gid := by
  rw [h]; rfl

theorem SameBoard.gateHolds {t : State} (h : SameBoard s t) (u : Issuer) : gateHolds t u = gateHolds s u := by
  rw [h]; rfl

theorem SameBoard.codeAt {t : State} (h : SameBoard s t) {va : Nat} {w : Word64} (k : CodeAt s u va w) : CodeAt t u va w := by
  rw [h]; exact k

theorem issueOpen_of_mayIssue {t : State} (h : SameBoard s t) (k : MayIssue s u) : issueOpen t u = true := by
  obtain ⟨running, resident, gated, stopped, destroying, gate, ⟨c, core, issuing⟩, -⟩ := k
  have fields : t.gated = s.gated ∧ t.stopped = s.stopped ∧ t.cores = s.cores := by rw [h]; exact ⟨rfl, rfl, rfl⟩
  simp [issueOpen, running, resident, fields, gated, stopped, destroying, h.gateHolds, gate, core, issuing]

/-! ## Before an instruction (R328, R435, R452) -/

theorem raiseHeld_eq_none (s : State) (h : u.g.heldFaults = []) : raiseHeld s u = none := by
  rw [raiseHeld, h]

theorem breakpointsAt_eq_nil {k : Nat} (h : NoBreakpoint u k) : breakpointsAt u k = [] := by
  unfold breakpointsAt
  split
  · rfl
  · next free =>
    rw [List.map_eq_nil_iff, List.filter_eq_nil_iff]
    intro p hp
    rcases h with handler | none
    · simp [handler] at free
    · simp only [Bool.and_eq_true, decide_eq_true_eq, not_and]
      rintro ⟨⟨enabled, index⟩, clause⟩ suppressed
      exact suppressed (none p hp enabled clause index)

theorem meetBreakpoint_eq_none (s : State) {k : Nat} (h : NoBreakpoint u k) : meetBreakpoint s u k = none := by
  rw [meetBreakpoint, breakpointsAt_eq_nil h]

/-- R434, R435: a word that decodes, and breaks no rule of its place, is its instruction. -/
theorem wordInstr_of_inPlace {w : Word64} {i : Instr} (h : InPlace u w i) : wordInstr u w = .ok i := by
  obtain ⟨decodes, place⟩ := h
  obtain ⟨raw, wf⟩ := Laws.decodeWord_eq_ok.mp decodes
  have header : opcOf w ≠ 0x3FF := fun hdr => by rw [Laws.decodeWord_header hdr] at decodes; cases decodes
  rw [Instr.WellFormed, List.isEmpty_iff] at wf
  simp only [wordInstr, if_neg header, raw, wf, place, List.append_nil, lowest]

theorem sampleIssue_of_unsampled (s : State) (w : Word64) (h : u.c.sampling = false ∨ u.isHandler = true) : sampleIssue s u w = s := by
  rw [sampleIssue, if_pos]
  rcases h with h | h <;> simp [h]

/-- R83, R435: the word where a group stands comes to issue. -/
theorem fetchInstr_eq {w : Word64} {i : Instr} (held : u.g.heldFaults = []) (free : NoBreakpoint u u.g.index)
    (code : CodeAt s u (wordAddress u) w) (place : InPlace u w i) (unsampled : u.c.sampling = false ∨ u.isHandler = true) :
    fetchInstr s u = .go (i, { s with cur := some u.gid }) := by
  unfold fetchInstr
  rw [raiseHeld_eq_none s held, meetBreakpoint_eq_none s free]
  simp only [show peekCode s u (u.g.clause.toNat + 8 * (u.g.index + 1)) u.g.clause.toNat = .word w false from peekCode_of_codeAt code,
    wordInstr_of_inPlace place, sampleIssue_of_unsampled s w unsampled, Bool.false_eq_true, if_false]

end Sys2Proof.Machine

/-!
PROOF. O4: a step executes the instruction of the group whose turn it is (R83, R109, R435).
-/

namespace Sys2Proof.Machine

open Sys2Proof.Claims

/-- Settles O4: a turn changes nothing that issue reads. -/
theorem stepRunsDecoded : Obligations.StepRunsDecoded := by
  refine ⟨fun s gid u w i free move issuer header may noBreak code place unsampled ordered => ?_,
    fun s i free move => ⟨fun t run => ?_, fun refused => ?_⟩⟩
  · have board := takeTurn_sameBoard s
    obtain ⟨-, -, -, -, -, -, -, held⟩ := id may
    obtain ⟨named, -⟩ := issuerOf_eq_some.mp issuer
    have turn : groupTurn (takeTurn s) gid = .go (i, issuing s gid) := by
      have fetch := fetchInstr_eq held noBreak (board.codeAt code) place unsampled
      simp only [groupTurn, board.issuerOf, issuer, issueOpen_of_mayIssue board may, Option.isNone_eq_false_iff.mpr header, ordered,
        fetch, named, Bool.not_true, Bool.or_self, Bool.false_eq_true, if_false]
      rfl
    rw [step, free]
    simp only [move, turn]
  · rw [step, free]
    simp only [move, run, afterEvent]
  · rw [step, free]
    simp only [move, refused, afterEvent]

end Sys2Proof.Machine

/-!
SUPPORT. What a lane of an access delivers (R105, R266): the registers written, which are pending no more, and what of the group
stays.
-/

namespace Sys2Proof.Machine

open Sys2Proof.Claims

/-! ## Pending marks -/

theorem Group.vPend_pendV (g : Group) {n m l k : Nat} (b : Bool) (hl : l < 128) (hk : k < 128) :
    (g.pendV n l b).vPend m k = if m = n ∧ k = l then b else g.vPend m k := by
  have same : (128 * m + k = 128 * n + l) ↔ (m = n ∧ k = l) := by omega
  cases b <;> simp only [Group.vPend, Group.pendV, Bool.false_eq_true, if_true, if_false, Table.get?_erase, Table.get?_insert, same] <;>
    split <;> rfl

theorem Group.sPend_pendS (g : Group) (n m : Nat) (b : Bool) : (g.pendS n b).sPend m = if m = n then b else g.sPend m := by
  cases b <;> simp only [Group.sPend, Group.pendS, Bool.false_eq_true, if_true, if_false, Table.get?_erase, Table.get?_insert] <;>
    split <;> rfl

@[simp] theorem Group.vreg_pendV (g : Group) (n l m k : Nat) (b : Bool) : (g.pendV n l b).vreg m k = g.vreg m k := rfl
@[simp] theorem Group.sreg_pendV (g : Group) (n l m : Nat) (b : Bool) : (g.pendV n l b).sreg m = g.sreg m := rfl
@[simp] theorem Group.sPend_pendV (g : Group) (n l m : Nat) (b : Bool) : (g.pendV n l b).sPend m = g.sPend m := rfl
@[simp] theorem Group.vreg_pendS (g : Group) (n m k : Nat) (b : Bool) : (g.pendS n b).vreg m k = g.vreg m k := rfl
@[simp] theorem Group.sreg_pendS (g : Group) (n m : Nat) (b : Bool) : (g.pendS n b).sreg m = g.sreg m := rfl
@[simp] theorem Group.vPend_pendS (g : Group) (n m k : Nat) (b : Bool) : (g.pendS n b).vPend m k = g.vPend m k := rfl
@[simp] theorem Group.sreg_setV (g : Group) (n l m : Nat) (w : Word) : (g.setV n l w).sreg m = g.sreg m := rfl
@[simp] theorem Group.vPend_setV (g : Group) (n l m k : Nat) (w : Word) : (g.setV n l w).vPend m k = g.vPend m k := rfl
@[simp] theorem Group.sPend_setV (g : Group) (n l m : Nat) (w : Word) : (g.setV n l w).sPend m = g.sPend m := rfl
@[simp] theorem Group.vreg_setS (g : Group) (n m k : Nat) (w : Word) : (g.setS n w).vreg m k = g.vreg m k := rfl
@[simp] theorem Group.vPend_setS (g : Group) (n m k : Nat) (w : Word) : (g.setS n w).vPend m k = g.vPend m k := rfl
@[simp] theorem Group.sPend_setS (g : Group) (n m : Nat) (w : Word) : (g.setS n w).sPend m = g.sPend m := rfl

/-! ## What a delivery leaves alone -/

theorem onlyDelivered_refl (g : Group) : OnlyDelivered g g := rfl

theorem onlyDelivered_trans {a b c : Group} (h : OnlyDelivered a b) (k : OnlyDelivered b c) : OnlyDelivered a c := by
  unfold OnlyDelivered at h k ⊢
  rw [k, h]

theorem pendV_onlyDelivered (g : Group) (n l : Nat) (b : Bool) : OnlyDelivered g (g.pendV n l b) := rfl
theorem pendS_onlyDelivered (g : Group) (n : Nat) (b : Bool) : OnlyDelivered g (g.pendS n b) := rfl

theorem deliverWord_onlyDelivered (g : Group) (scalar : Bool) (reg lane : Nat) (w : Word) (bad : Bool) :
    OnlyDelivered g (deliverWord g scalar reg lane w bad) := by
  unfold deliverWord
  cases scalar <;> cases bad <;> rfl

theorem deliverWords_onlyDelivered (scalar : Bool) (lane : Nat) (bad : Bool) (regs : List Nat) :
    ∀ (g : Group) (ws : List Word), OnlyDelivered g (deliverWords g scalar lane bad regs ws) := by
  induction regs with
  | nil => exact fun g _ => onlyDelivered_refl g
  | cons r t ih =>
    intro g ws
    cases ws with
    | cons w ws => exact onlyDelivered_trans (deliverWord_onlyDelivered g scalar r lane w bad) (ih _ ws)
    | nil =>
      refine onlyDelivered_trans ?_ (ih _ [])
      cases scalar
      · exact pendV_onlyDelivered g r lane false
      · exact pendS_onlyDelivered g r false

/-- Words delivered to one register of several lanes. -/
def deliverAcross (g : Group) (dest : Nat) (f : Nat → Word) (bad : Bool) (lanes : List Nat) : Group :=
  lanes.foldl (fun g l => deliverWord g false dest l (f l) bad) g

theorem deliverAcross_onlyDelivered (dest : Nat) (f : Nat → Word) (bad : Bool) (lanes : List Nat) :
    ∀ g : Group, OnlyDelivered g (deliverAcross g dest f bad lanes) := by
  induction lanes with
  | nil => exact onlyDelivered_refl
  | cons l t ih => exact fun g => onlyDelivered_trans (deliverWord_onlyDelivered g false dest l (f l) bad) (ih _)

theorem deliverBlock_onlyDelivered (g : Group) (mask : LaneMask) (fmt scaleReg word dest v : Nat) (bad : Bool) :
    OnlyDelivered g (deliverBlock g mask fmt scaleReg word dest v bad) :=
  onlyDelivered_trans (deliverWord_onlyDelivered g true _ 0 _ bad) (deliverAcross_onlyDelivered dest _ bad _ _)

theorem deliverLane_onlyDelivered (g : Group) (a : Access) (la : LaneAccess) : OnlyDelivered g (deliverLane g a la) := by
  unfold deliverLane
  dsimp only
  split
  · exact deliverWords_onlyDelivered ..
  · exact deliverWords_onlyDelivered ..
  · exact deliverBlock_onlyDelivered ..
  · exact onlyDelivered_refl g

/-! ## Words delivered to a lane, or to scalars (R105) -/

/-- What delivering to one register, then to further ones, comes to. -/
theorem delivered_cons {old mid g : Group} {scalar : Bool} {lane r : Nat} {t : List Nat} {ws : List Word} (hr : r ∉ t)
    (hl : lane < 128) (first : Delivered old mid scalar lane [r] (ws.take 1)) (rest : Delivered mid g scalar lane t ws.tail) :
    Delivered old g scalar lane (r :: t) ws := by
  have head : (ws.take 1)[0]? = ws[0]? := by cases ws <;> rfl
  have next : ∀ i, ws.tail[i]? = ws[i + 1]? := by cases ws <;> simp
  cases scalar
  · obtain ⟨put, keepV, keepS⟩ := first
    obtain ⟨put', keepV', keepS'⟩ := rest
    refine ⟨?_, fun n l h hn => ?_, fun n => ?_⟩
    · rintro (_ | i) hi
      · have kept := keepV' r lane hl (.inl hr)
        have here := put 0 (by simp)
        rw [head] at here
        simpa [kept.1, kept.2] using here
      · rw [← next]
        simpa using put' i (by simpa using hi)
    · have kept := keepV n l h (hn.imp (fun h => by simp_all) id)
      have kept' := keepV' n l h (hn.imp (fun h => by simp_all) id)
      exact ⟨kept'.1.trans kept.1, kept'.2.trans kept.2⟩
    · exact ⟨(keepS' n).1.trans (keepS n).1, (keepS' n).2.trans (keepS n).2⟩
  · obtain ⟨put, keepS, keepV⟩ := first
    obtain ⟨put', keepS', keepV'⟩ := rest
    refine ⟨?_, fun n hn => ?_, fun n l h => ?_⟩
    · rintro (_ | i) hi
      · have kept := keepS' r hr
        have here := put 0 (by simp)
        rw [head] at here
        simpa [kept.1, kept.2] using here
      · rw [← next]
        simpa using put' i (by simpa using hi)
    · have kept := keepS n (by simp_all)
      have kept' := keepS' n (by simp_all)
      exact ⟨kept'.1.trans kept.1, kept'.2.trans kept.2⟩
    · exact ⟨(keepV' n l h).1.trans (keepV n l h).1, (keepV' n l h).2.trans (keepV n l h).2⟩

theorem delivered_nil (g : Group) (scalar : Bool) (lane : Nat) (ws : List Word) : Delivered g g scalar lane [] ws := by
  cases scalar <;> simp [Delivered]

theorem delivered_word (g : Group) (scalar : Bool) {lane : Nat} (r : Nat) (w : Word) (hl : lane < 128) :
    Delivered g (deliverWord g scalar r lane w false) scalar lane [r] [w] := by
  cases scalar
  · refine ⟨fun i hi => ?_, fun n l h hn => ?_, fun n => ⟨rfl, rfl⟩⟩
    · obtain rfl : i = 0 := by simpa using hi
      simp [deliverWord, Group.vreg_setV g w hl hl, Group.vPend_pendV _ false hl hl]
    · have other : ¬ (n = r ∧ l = lane) := by simp at hn; omega
      simp [deliverWord, Group.vreg_setV g w hl h, Group.vPend_pendV _ false hl h, other]
  · refine ⟨fun i hi => ?_, fun n hn => ?_, fun n l _ => ⟨rfl, rfl⟩⟩
    · obtain rfl : i = 0 := by simpa using hi
      simp [deliverWord, Group.sreg_setS, Group.sPend_pendS]
    · simp at hn
      simp [deliverWord, Group.sreg_setS, Group.sPend_pendS, hn]

theorem delivered_unpend (g : Group) (scalar : Bool) {lane : Nat} (r : Nat) (hl : lane < 128) :
    Delivered g (if scalar then g.pendS r false else g.pendV r lane false) scalar lane [r] [] := by
  cases scalar
  · refine ⟨fun i hi => ?_, fun n l h hn => ?_, fun n => ⟨rfl, rfl⟩⟩
    · obtain rfl : i = 0 := by simpa using hi
      simp [Group.vPend_pendV g false hl hl]
    · have other : ¬ (n = r ∧ l = lane) := by simp at hn; omega
      simp [Group.vPend_pendV g false hl h, other]
  · refine ⟨fun i hi => ?_, fun n hn => ?_, fun n l _ => ⟨rfl, rfl⟩⟩
    · obtain rfl : i = 0 := by simpa using hi
      simp [Group.sPend_pendS]
    · simp at hn
      simp [Group.sPend_pendS, hn]

theorem deliverWords_delivered (scalar : Bool) {lane : Nat} (hl : lane < 128) (regs : List Nat) (hn : regs.Nodup) :
    ∀ (g : Group) (ws : List Word), Delivered g (deliverWords g scalar lane false regs ws) scalar lane regs ws := by
  induction regs with
  | nil => exact fun g ws => delivered_nil g scalar lane ws
  | cons r t ih =>
    obtain ⟨hr, ht⟩ := List.nodup_cons.mp hn
    intro g ws
    cases ws with
    | nil => exact delivered_cons hr hl (delivered_unpend g scalar r hl) (ih ht _ [])
    | cons w ws => exact delivered_cons hr hl (delivered_word g scalar r w hl) (ih ht _ ws)

/-! ## A block delivered (R266) -/

section

variable (dest : Nat) (f : Nat → Word)

@[simp] theorem deliverAcross_sreg (lanes : List Nat) (n : Nat) :
    ∀ g : Group, (deliverAcross g dest f false lanes).sreg n = g.sreg n := by
  induction lanes with
  | nil => exact fun _ => rfl
  | cons l t ih => exact fun g => ih (deliverWord g false dest l (f l) false)

@[simp] theorem deliverAcross_sPend (lanes : List Nat) (n : Nat) :
    ∀ g : Group, (deliverAcross g dest f false lanes).sPend n = g.sPend n := by
  induction lanes with
  | nil => exact fun _ => rfl
  | cons l t ih => exact fun g => ih (deliverWord g false dest l (f l) false)

theorem deliverAcross_vreg {lanes : List Nat} (hl : ∀ l ∈ lanes, l < 128) {k : Nat} (hk : k < 128) (n : Nat) :
    ∀ g : Group, (deliverAcross g dest f false lanes).vreg n k = if n = dest ∧ k ∈ lanes then f k else g.vreg n k := by
  induction lanes with
  | nil => simp [deliverAcross]
  | cons l t ih =>
    intro g
    have here : (deliverWord g false dest l (f l) false).vreg n k = if n = dest ∧ k = l then f l else g.vreg n k :=
      Group.vreg_setV g _ (hl l (by simp)) hk
    refine (ih (fun x h => hl x (by simp [h])) _).trans ?_
    rw [here]
    by_cases hd : n = dest <;> by_cases h : k ∈ t <;> by_cases e : k = l <;> simp_all

theorem deliverAcross_vPend {lanes : List Nat} (hl : ∀ l ∈ lanes, l < 128) {k : Nat} (hk : k < 128) (n : Nat) :
    ∀ g : Group, (deliverAcross g dest f false lanes).vPend n k = if n = dest ∧ k ∈ lanes then false else g.vPend n k := by
  induction lanes with
  | nil => simp [deliverAcross]
  | cons l t ih =>
    intro g
    have here : (deliverWord g false dest l (f l) false).vPend n k = if n = dest ∧ k = l then false else g.vPend n k :=
      Group.vPend_pendV _ false (hl l (by simp)) hk
    refine (ih (fun x h => hl x (by simp [h])) _).trans ?_
    rw [here]
    by_cases hd : n = dest <;> by_cases h : k ∈ t <;> by_cases e : k = l <;> simp_all

end

theorem blockCode_eq_blockElement (fmt : Nat) (v : BitVec 272) (i : Nat) :
    BitVec.ofNat 32 (blockCode (stringBits fmt) v.toNat i) = blockElement fmt v i := by
  unfold blockElement blockCode
  have bits : stringBits fmt = if fmt = 5 ∨ fmt = 6 then 6 else if fmt = 7 then 4 else 8 := by
    unfold stringBits blockBytes
    split
    case h_4 h5 h6 h7 => rw [if_neg (not_or.mpr ⟨h5, h6⟩), if_neg h7]
    all_goals rfl
  rw [bits]

theorem ite_false_eq_and_not (p : Prop) [Decidable p] (q x : Bool) :
    (if p ∧ q = true then false else x) = (x && !(decide p && q)) := by
  by_cases h : p <;> cases q <;> simp [h]

theorem deliverBlock_delivered (g : Group) (a : Access) (la : LaneAccess) (fmt scale : Nat) (v : BitVec 272)
    (hl : la.lane < 128) :
    BlockDelivered a fmt scale la v g (deliverBlock g a.mask fmt scale (la.lane / 32) (la.dest.headD 0) v.toNat false) := by
  have lanes : ∀ l, l ∈ (upFrom (32 * (la.lane / 32)) 32).filter a.mask.getLsbD ↔
      l / 32 = la.lane / 32 ∧ a.mask.getLsbD l = true := fun l => by
    simp only [List.mem_filter, mem_upFrom]
    exact and_congr_left fun _ => by omega
  have low : ∀ l ∈ (upFrom (32 * (la.lane / 32)) 32).filter a.mask.getLsbD, l < 128 := fun l h => by
    have := ((lanes l).mp h).1
    omega
  refine ⟨fun n l h => ⟨?_, ?_⟩, fun n => ⟨?_, ?_⟩, deliverBlock_onlyDelivered ..⟩
  · rw [← blockCode_eq_blockElement]
    refine (deliverAcross_vreg _ _ low h n _).trans ?_
    simp only [lanes]
    rfl
  · refine (deliverAcross_vPend _ _ low h n _).trans ?_
    simp only [lanes]
    change (if _ then false else g.vPend n l) = _
    simp only [← and_assoc]
    exact ite_false_eq_and_not _ _ _
  · refine (deliverAcross_sreg _ _ _ n _).trans ((Group.sreg_setS g _ n _).trans ?_)
    rw [BitVec.extractLsb'_toNat, Nat.shiftRight_eq_div_pow]
  · refine (deliverAcross_sPend _ _ _ n _).trans ((Group.sPend_pendS _ _ n false).trans ?_)
    by_cases hd : n = scale + la.lane / 32 <;> simp [hd]

/-! ## The words of the value read (R261, R268) -/

theorem ofNat_toNat_div (v : BitVec 272) (j : Nat) : BitVec.ofNat 32 (v.toNat / 2 ^ j) = v.extractLsb' j 32 := by
  apply BitVec.eq_of_toNat_eq
  rw [BitVec.extractLsb'_toNat, Nat.shiftRight_eq_div_pow, BitVec.toNat_ofNat]

theorem ofNat_toNat (v : BitVec 272) : BitVec.ofNat 32 v.toNat = v.extractLsb' 0 32 := by
  simpa using ofNat_toNat_div v 0

theorem ofNat_toNat_mod (v : BitVec 272) (n : Nat) :
    BitVec.ofNat 32 (v.toNat % 2 ^ n) = (v.extractLsb' 0 n).zeroExtend 32 := by
  apply BitVec.eq_of_toNat_eq
  simp [BitVec.extractLsb'_toNat]

theorem ofNat_wrap_sext (v : BitVec 272) {n : Nat} (hn : 0 < n) :
    BitVec.ofNat 32 (wrap (sext v.toNat n) 32) = (v.extractLsb' 0 n).signExtend 32 := by
  have half : 2 ^ n = 2 * 2 ^ (n - 1) := by rw [← Nat.pow_succ', Nat.succ_eq_add_one, Nat.sub_add_cancel hn]
  have value : sext v.toNat n = (v.extractLsb' 0 n).toInt := by
    simp only [sext, BitVec.toInt, BitVec.extractLsb'_toNat, Nat.shiftRight_zero, Int.natCast_pow, Int.cast_ofNat_Int]
    congr 1
    rw [eq_iff_iff]
    omega
  apply BitVec.eq_of_toNat_eq
  rw [BitVec.signExtend, ← value, BitVec.toNat_ofNat, BitVec.toNat_ofInt, wrap, Nat.mod_eq_of_lt]
  · rfl
  · omega

theorem loadWords_eq_loaded (w : LoadWidth) (v : BitVec 272) : loadWords w v.toNat = loaded w v := by
  cases w
  case n8 => exact congrArg (fun x => [x]) (ofNat_toNat_mod v 8)
  case n16 => exact congrArg (fun x => [x]) (ofNat_toNat_mod v 16)
  case i8 => exact congrArg (fun x => [x]) (ofNat_wrap_sext v (n := 8) (by omega))
  case i16 => exact congrArg (fun x => [x]) (ofNat_wrap_sext v (n := 16) (by omega))
  case b32 => exact congrArg (fun x => [x]) (ofNat_toNat v)
  all_goals simp only [loadWords, loaded, ofNat_toNat, ofNat_toNat_div]

theorem atomWords_eq_oldWords (op : AtomOp) (v : BitVec 272) : atomWords op v.toNat = oldWords op v := by
  simp only [atomWords, oldWords, ofNat_toNat, ofNat_toNat_div]

end Sys2Proof.Machine

/-!
SUPPORT. A lane that has performed returns (R105, R106, R108): the step by which it returns, and what the return does to the
access and to its group.
-/

namespace Sys2Proof.Machine

open Sys2Proof.Claims

variable {s : State} {aid : Nat} {a : Access} {u : Issuer} {la : LaneAccess} {rest : List LaneAccess}

/-! ## The step -/

theorem performLanes_performed {l1 : Bool} (ha : s.accesses.get? aid = some a) (hp : la.performed = true) :
    performLanes s aid l1 1 (la :: rest) = some s := by
  simp [performLanes, ha, hp]

theorem advanceAccess_returning (h : Returning s aid a u la rest) (l1 : Bool) :
    advanceAccess s aid 1 l1 = some (returnLanes s aid 1) := by
  obtain ⟨ha, hu, hw, hlanes, hp, -, -, -, -, -⟩ := h
  simp [advanceAccess, ha, hu, hlanes, awaitsCheck, hw, performLanes_performed ha hp]

theorem stepAccess_returning (h : Returning s aid a u la rest) (l1 : Bool) {ok : AccessKind → Bool} (hk : ok a.kind = true) :
    stepAccess s aid 1 l1 ok = .next (returnLanes s aid 1) := by
  simp [stepAccess, h.1, hk, advanceAccess_returning h l1]

theorem not_awaitsPeer_of_returning (h : Returning s aid a u la rest) : a.awaitsPeer = false := by
  obtain ⟨-, -, -, -, -, hpeer, -, -, -, -⟩ := h
  simp only [Access.awaitsPeer, List.any_eq_false, Bool.and_eq_true, not_and]
  exact fun x hx t => absurd t (by simp [hpeer x hx])

/-! ## The state after it -/

/-- The state in which the first lane's results are delivered. -/
def delivered (s : State) (a : Access) (la : LaneAccess) : State := s.modifyGroup a.group fun g => deliverLane g a la

theorem returnLanes_first (ha : s.accesses.get? aid = some a) (hlanes : a.lanes = la :: rest) :
    returnLanes s aid 1 =
      if rest = [] then settle (completeAccess (delivered s a la) aid { a with lanes := rest })
      else (delivered s a la).modifyAccess aid fun _ => { a with lanes := rest } := by
  simp [returnLanes, ha, hlanes, delivered]

theorem delivered_group (hu : issuerOf s a.group = some u) :
    (delivered s a la).groups.get? a.group = some (deliverLane u.g a la) := by
  obtain ⟨-, hg, -⟩ := issuerOf_eq_some.mp hu
  simp [delivered, State.modifyGroup, hg]

theorem delivered_otherGroups : OtherGroups s (delivered s a la) a.group :=
  fun _ hk => Table.get?_update_other _ _ hk

theorem lowerCounter_counter (g : Group) (j k : Nat) :
    (lowerCounter g j).counter k = if k = j then g.counter k - 1 else g.counter k := by
  simp only [lowerCounter, Group.setCounter, Group.counter, Table.read_write]
  split
  · next h => rw [h]
  · rfl

/-- The group of an access that completes. -/
def completed (g : Group) (a : Access) : Group := (lowerCounter g a.counter).orFpstat a.flags

theorem completed_eq (g : Group) (a : Access) :
    completed g a = { g with d := (completed g a).d, fpstat := g.fpstat ||| a.flags.zeroExtend 32 } := rfl

theorem completed_counter (g : Group) (a : Access) (j : Nat) :
    (completed g a).counter j = if j = a.counter then g.counter j - 1 else g.counter j := lowerCounter_counter g a.counter j

/-- The completion of an access without a race record, of a group with its team, launch and context. -/
theorem completeAccess_eq {x : Issuer} (hx : issuerOf s a.group = some x) (hr : a.race = none) :
    completeAccess s aid a =
      soundEnd { s with accesses := s.accesses.erase aid, groups := s.groups.update a.group fun g => completed g a }
        x.l.ctx a.sound id := by
  obtain ⟨hid, hg, ht, hl, hc⟩ := issuerOf_eq_some.mp hx
  have issuer : issuerOf { s with accesses := s.accesses.erase aid, groups := s.groups.update a.group fun g => completed g a }
      a.group = some { x with g := completed x.g a } :=
    issuerOf_eq_some.mpr ⟨hid, by simp [hg], ht, hl, hc⟩
  change (match issuerOf { s with accesses := s.accesses.erase aid, groups := s.groups.update a.group fun g => completed g a }
    a.group with | none => _ | some u => _) = _
  rw [issuer]
  simp only [hr]
  rfl

theorem deliverLane_keeps (g : Group) (a : Access) (la : LaneAccess) :
    deliverLane g a la = { g with
      v := (deliverLane g a la).v, s := (deliverLane g a la).s, vPending := (deliverLane g a la).vPending
      sPending := (deliverLane g a la).sPending, vPoison := (deliverLane g a la).vPoison
      sPoison := (deliverLane g a la).sPoison } := deliverLane_onlyDelivered g a la

theorem delivered_issuer (hu : issuerOf s a.group = some u) :
    issuerOf (delivered s a la) a.group = some { u with g := deliverLane u.g a la } := by
  obtain ⟨hid, -, ht, hl, hc⟩ := issuerOf_eq_some.mp hu
  have team : (deliverLane u.g a la).team = u.g.team := by rw [deliverLane_keeps]
  have launch : (deliverLane u.g a la).launch = u.g.launch := by rw [deliverLane_keeps]
  exact issuerOf_eq_some.mpr ⟨hid, delivered_group hu, team ▸ ht, launch ▸ hl, hc⟩

/-- A lane that has performed returns, and its group has what the delivery gives. -/
theorem returned_of_delivers {ok : Group → Group → Prop} (h : Returning s aid a u la rest) (hok : ok u.g (deliverLane u.g a la)) :
    Returned s aid a u rest ok (.next (returnLanes s aid 1)) := by
  obtain ⟨ha, hu, -, hlanes, -, -, hrace, -, -, -⟩ := h
  rw [returnLanes_first ha hlanes]
  unfold Returned
  by_cases last : rest = []
  · rw [if_pos last, if_pos last, completeAccess_eq (s := delivered s a la) (a := { a with lanes := rest }) (delivered_issuer hu) hrace]
    have fpstat : (deliverLane u.g a la).fpstat = u.g.fpstat := by rw [deliverLane_keeps]
    have counter : ∀ j, (deliverLane u.g a la).counter j = u.g.counter j := fun j => by rw [deliverLane_keeps]; rfl
    refine ⟨_, completed (deliverLane u.g a la) a, deliverLane u.g a la, rfl, ?_, fun k => ?_, fun k hk => ?_, fun c => ?_, hok,
      ?_, fun j => ?_, ?_⟩
    · rw [soundEnd_frame]; rfl
    · rw [soundEnd_frame]; exact Table.get?_erase s.accesses aid k
    · rw [soundEnd_groups]
      exact (Table.get?_update_other _ _ hk).trans (delivered_otherGroups k hk)
    · rw [soundEnd_contexts, Option.map_id]; rfl
    · rw [soundEnd_groups]
      exact (Table.get?_update_same _ _ _).trans (by rw [delivered_group hu]; rfl)
    · rw [completed_counter, counter]
    · rw [completed_eq, fpstat]
  · rw [if_neg last, if_neg last]
    refine ⟨_, deliverLane u.g a la, rfl, rfl, fun k => ?_, delivered_otherGroups, delivered_group hu, hok⟩
    refine (Table.get?_update s.accesses aid k _).trans ?_
    rw [ha]; rfl

/-! ## What each kind delivers -/

theorem deliverLane_load {w : LoadWidth} {v : BitVec 272} (g : Group) (hk : a.kind = .load w) (hv : la.value = some v)
    (hl : la.lane < 128) (hd : la.dest.Nodup) (hp : la.poisoned = false) :
    Delivered g (deliverLane g a la) a.scalar la.lane la.dest (loaded w v) := by
  have delivers : deliverLane g a la = deliverWords g a.scalar la.lane false la.dest (loaded w v) := by
    simp [deliverLane, hk, hv, hp, loadWords_eq_loaded]
  rw [delivers]
  exact deliverWords_delivered a.scalar hl la.dest hd g _

theorem deliverLane_atom {op : AtomOp} {v : BitVec 272} (g : Group) (hk : a.kind = .rmw op true) (hv : la.value = some v)
    (hl : la.lane < 128) (hd : la.dest.Nodup) (hp : la.poisoned = false) :
    Delivered g (deliverLane g a la) a.scalar la.lane la.dest (oldWords op v) := by
  have delivers : deliverLane g a la = deliverWords g a.scalar la.lane false la.dest (oldWords op v) := by
    simp [deliverLane, hk, hv, hp, atomWords_eq_oldWords]
  rw [delivers]
  exact deliverWords_delivered a.scalar hl la.dest hd g _

theorem deliverLane_block {fmt reg : Nat} {v : BitVec 272} (g : Group) (hk : a.kind = .mxLoad fmt reg) (hv : la.value = some v)
    (hl : la.lane < 128) (hp : la.poisoned = false) : BlockDelivered a fmt reg la v g (deliverLane g a la) := by
  have delivers : deliverLane g a la =
      deliverBlock g a.mask fmt reg (la.lane / 32) (la.dest.headD 0) v.toNat false := by
    simp [deliverLane, hk, hv, hp]
  rw [delivers]
  exact deliverBlock_delivered g a la fmt reg v hl

/-- A store and a reduction deliver nothing. -/
theorem deliverLane_nothing (g : Group) (hk : (∃ op, a.kind = .rmw op false) ∨ a.kind = .store ∨ ∃ f, a.kind = .mxStore f) :
    deliverLane g a la = g := by
  rcases hk with ⟨op, hk⟩ | hk | ⟨f, hk⟩ <;> simp [deliverLane, hk]

/-! ## Each instruction's step -/

theorem exec_loadWriteback_returning (h : Returning s aid a u la rest) {w : LoadWidth} (l1 : Bool) (hk : a.kind = .load w) :
    exec (.loadWriteback aid 1 l1) s = .next (returnLanes s aid 1) := by
  change execLoadWriteback aid 1 l1 s = _
  unfold execLoadWriteback
  exact stepAccess_returning h l1 (by rw [hk])

theorem exec_ldmxCompletion_returning (h : Returning s aid a u la rest) {fmt reg : Nat} (hk : a.kind = .mxLoad fmt reg) :
    exec (.ldmxCompletion aid 1) s = .next (returnLanes s aid 1) := by
  change execLdmxCompletion aid 1 s = _
  unfold execLdmxCompletion
  exact stepAccess_returning h true (by rw [hk]; rfl)

theorem exec_atomicPerform_returning (h : Returning s aid a u la rest) {op : AtomOp} {ret : Bool} (hk : a.kind = .rmw op ret) :
    exec (.atomicPerform aid 1) s = .next (returnLanes s aid 1) := by
  change execAtomicPerform aid 1 s = _
  simp only [execAtomicPerform, h.1, not_awaitsPeer_of_returning h, Bool.false_and, Bool.false_eq_true, if_false]
  exact stepAccess_returning h true (by rw [hk]; rfl)

theorem exec_storePerform_returning (h : Returning s aid a u la rest) (hk : a.kind = .store ∨ ∃ f, a.kind = .mxStore f) :
    exec (.storePerform aid 1) s = .next (returnLanes s aid 1) := by
  change execStorePerform aid 1 s = _
  simp only [execStorePerform, h.1, not_awaitsPeer_of_returning h, Bool.false_and, Bool.false_eq_true, if_false]
  refine stepAccess_returning h false ?_
  rcases hk with hk | ⟨f, hk⟩ <;> rw [hk] <;> rfl

end Sys2Proof.Machine

/-!
PROOF. O32: a lane that has performed delivers and returns.
-/

namespace Sys2Proof.Machine

open Sys2Proof.Claims

/-- Settles O32: the step of each kind returns the lane, and the delivery gives its registers what the lane has read. -/
theorem accessesReturn : Obligations.AccessesReturn := by
  unfold Obligations.AccessesReturn
  intro s aid a u la rest v h hv
  obtain ⟨-, -, -, -, -, -, -, hl, hd, hp⟩ := id h
  refine ⟨fun w l1 hk => ?_, fun op hk => ?_, fun op hk => ?_, fun hk => ?_, fun fmt reg hk => ?_⟩
  · rw [exec_loadWriteback_returning h l1 hk]
    exact returned_of_delivers h ⟨deliverLane_load u.g hk hv hl hd hp, deliverLane_onlyDelivered u.g a la⟩
  · rw [exec_atomicPerform_returning h hk]
    exact returned_of_delivers h ⟨deliverLane_atom u.g hk hv hl hd hp, deliverLane_onlyDelivered u.g a la⟩
  · rw [exec_atomicPerform_returning h hk]
    exact returned_of_delivers h (deliverLane_nothing u.g (.inl ⟨op, hk⟩))
  · rw [exec_storePerform_returning h hk]
    exact returned_of_delivers h (deliverLane_nothing u.g (.inr hk))
  · rw [exec_ldmxCompletion_returning h hk]
    exact returned_of_delivers h (deliverLane_block u.g hk hv hl hp)

end Sys2Proof.Machine

/-!
SUPPORT. The issue of a memory instruction whose lanes all pass their checks (R105, R108, R194): the steps from the instruction
to its accesses, and what the issue leaves in the group.
-/

namespace Sys2Proof.Machine

open Sys2Proof.Claims

variable {s : State} {u : Issuer} {m : MemOp} {acc : Nat → LaneAccess}

/-! ## The lanes' checks (R435) -/

theorem checkLanes_ok {lanes : List Nat} (h : ∀ l ∈ lanes, checkLane s u m l = .xlate (.ok (acc l))) :
    checkLanes s u m lanes = (lanes.map fun l => .ok (acc l), none) := by
  induction lanes with
  | nil => rfl
  | cons l t ih => simp [checkLanes, h l (by simp), ih fun x hx => h x (by simp [hx])]

theorem readyLanes_ok (lanes : List Nat) : readyLanes (lanes.map fun l => .ok (acc l)) = lanes.map acc := by
  induction lanes with
  | nil => rfl
  | cons l t ih => exact congrArg (acc l :: ·) ih

theorem missedPages_ok (lanes : List Nat) : missedPages (lanes.map fun l => .ok (acc l)) = [] := by
  simp [missedPages]

theorem firstNowhere_ok (lanes : List Nat) : firstNowhere (lanes.map fun l => .ok (acc l)) = none :=
  firstSome_none.mpr fun x hx => by
    obtain ⟨l, -, rfl⟩ := List.mem_map.mp hx
    rfl

theorem issueAccess_ready (h : Ready s u m acc) :
    issueAccess s u m none = effectOf s u (accessOf u m (m.lanes.map acc)) m.pend none := by
  obtain ⟨-, -, checks, mode, -, -⟩ := h
  simp [issueAccess, checkLanes_ok checks, readyLanes_ok, missedPages_ok, firstNowhere_ok, checkedLanes, mode]

/-! ## The accesses taken up -/

/-- The group of an instruction whose accesses are in flight, before it moves on: its registers pending, its counter risen, its
release counted. -/
def inFlight (u : Issuer) (m : MemOp) (a : Access) : Group := bumpRelease (raiseCounter u (pendAll u.g m.pend)) a

/-- The state in which the accesses of an instruction are in flight. -/
def takenUp (s : State) (u : Issuer) (m : MemOp) (a : Access) : State :=
  { s with nextId := s.nextId + 1, accesses := s.accesses.insert s.nextId a
           groups := s.groups.insert u.gid (advance u (inFlight u m a) voidEntry) }

theorem not_isRemoteLoad (h : Ready s u m acc) : (accessOf u m (m.lanes.map acc)).isRemoteLoad u.g.team = false := by
  obtain ⟨-, -, -, -, -, own⟩ := h
  by_cases c : m.space = .c
  · have near : ∀ l ∈ m.lanes, (match (acc l).target with | .team t _ => decide (t ≠ u.g.team) | _ => false) = false := fun l hl => by
      obtain ⟨off, ht⟩ := own c l hl
      simp [ht]
    simp only [Access.isRemoteLoad, accessOf, List.any_map, Function.comp_def, Bool.and_eq_false_iff, List.any_eq_false,
      Bool.not_eq_true]
    exact .inr near
  · simp [Access.isRemoteLoad, accessOf, c]

theorem not_toPeer (h : Ready s u m acc) : (m.lanes.map acc).any LaneAccess.toPeer = false := by
  obtain ⟨-, -, -, -, near, -⟩ := h
  simp only [List.any_map, Function.comp_def, List.any_eq_false, Bool.not_eq_true]
  exact near

theorem effectOf_ready (h : Ready s u m acc) (some_lane : m.lanes ≠ []) (prompt : u.l.det = false ∨ minimumWaited m.kind = false) :
    effectOf s u (accessOf u m (m.lanes.map acc)) m.pend none = .next (takenUp s u m (accessOf u m (m.lanes.map acc))) := by
  have remote := not_isRemoteLoad h
  have peer := not_toPeer h
  obtain ⟨-, room, -, mode, -, -⟩ := h
  have nonempty : (accessOf u m (m.lanes.map acc)).lanes.isEmpty = false := by simpa [accessOf] using some_lane
  have now : (u.l.det && !u.calm && minimumWaited (accessOf u m (m.lanes.map acc)).kind) = false := by
    rcases prompt with det | kind
    · simp [det]
    · rw [show (accessOf u m (m.lanes.map acc)).kind = m.kind from rfl, kind, Bool.and_false]
  have fits : requestsFull s u.t.core (accessOf u m (m.lanes.map acc)).lanes.length = false := by
    simpa [requestsFull, accessOf, Config.requests] using room
  have unchecked : (checkedLanes u (accessOf u m (m.lanes.map acc))).isEmpty = true := by simp [checkedLanes, mode]
  have near : (accessOf u m (m.lanes.map acc)).lanes.any LaneAccess.toPeer = false := peer
  simp only [effectOf, nonempty, now, fits, unchecked, near, remote, Bool.false_eq_true, if_false, Bool.not_true, Bool.false_and,
    Bool.or_self, State.fresh]
  refine congrArg Host.Outcome.next ?_
  have same : ({ accessOf u m (m.lanes.map acc) with checked := false } : Access) = accessOf u m (m.lanes.map acc) := rfl
  rw [same]
  simp only [beginAccess, remote, near, Bool.false_eq_true, if_false]
  rfl

/-! ## What the issue leaves in the group (R105, R108, R194) -/

theorem pendAll_keeps (ps : List (Bool × Nat × Nat)) :
    ∀ g : Group, pendAll g ps = { g with vPending := (pendAll g ps).vPending, sPending := (pendAll g ps).sPending } := by
  induction ps with
  | nil => exact fun _ => rfl
  | cons p t ih =>
    obtain ⟨scalar, r, l⟩ := p
    intro g
    refine (ih (if scalar then g.pendS r true else g.pendV r l true)).trans ?_
    cases scalar <;> rfl

theorem pendAll_sPend (n : Nat) (ps : List (Bool × Nat × Nat)) :
    ∀ g : Group, (pendAll g ps).sPend n = (g.sPend n || ps.any fun p => p.1 && p.2.1 == n) := by
  induction ps with
  | nil => simp [pendAll]
  | cons p t ih =>
    obtain ⟨scalar, r, l⟩ := p
    intro g
    refine (ih (if scalar then g.pendS r true else g.pendV r l true)).trans ?_
    cases scalar
    · simp
    · by_cases hr : n = r
      · simp [Group.sPend_pendS, hr]
      · simp [Group.sPend_pendS, hr, beq_eq_false_iff_ne.mpr (Ne.symm hr)]

theorem pendAll_vPend (n : Nat) {k : Nat} (hk : k < 128) {ps : List (Bool × Nat × Nat)} (hp : ∀ p ∈ ps, p.1 = false → p.2.2 < 128) :
    ∀ g : Group, (pendAll g ps).vPend n k = (g.vPend n k || ps.any fun p => !p.1 && p.2.1 == n && p.2.2 == k) := by
  induction ps with
  | nil => simp [pendAll]
  | cons p t ih =>
    obtain ⟨scalar, r, l⟩ := p
    intro g
    refine (ih (fun p h => hp p (by simp [h])) (if scalar then g.pendS r true else g.pendV r l true)).trans ?_
    cases scalar
    · have hl : l < 128 := hp (false, r, l) (by simp) rfl
      by_cases here : n = r ∧ k = l
      · obtain ⟨rfl, rfl⟩ := here
        simp [Group.vPend_pendV g true hl hk]
      · have other : (r == n && l == k) = false := by
          simp only [Bool.and_eq_false_iff, beq_eq_false_iff_ne]; omega
        simp [Group.vPend_pendV g true hl hk, here, other]
    · simp

theorem raiseCounter_counter (u : Issuer) (g : Group) (j : Nat) :
    (raiseCounter u g).counter j = if j = hdrSetd u.header then g.counter j + 1 else g.counter j := by
  simp only [raiseCounter, Group.setCounter, Group.counter, Table.read_write]
  split
  · next h => rw [h]
  · rfl

theorem inFlight_keeps (u : Issuer) (m : MemOp) (a : Access) :
    inFlight u m a = { u.g with
      d := (inFlight u m a).d, vPending := (inFlight u m a).vPending, sPending := (inFlight u m a).sPending
      rc := (inFlight u m a).rc } := by
  unfold inFlight bumpRelease raiseCounter Group.setCounter
  rw [pendAll_keeps]
  split <;> rfl

theorem inFlight_vPend (a : Access) (n : Nat) {l : Nat} (hl : l < 128) (hp : ∀ p ∈ m.pend, p.1 = false → p.2.2 < 128) :
    (inFlight u m a).vPend n l = (u.g.vPend n l || pendsV m n l) := by
  rw [pendsV, ← pendAll_vPend n hl hp]
  unfold inFlight bumpRelease
  split <;> rfl

theorem inFlight_sPend (a : Access) (n : Nat) : (inFlight u m a).sPend n = (u.g.sPend n || pendsS m n) := by
  rw [pendsS, ← pendAll_sPend]
  unfold inFlight bumpRelease
  split <;> rfl

theorem inFlight_counter (a : Access) (j : Nat) :
    (inFlight u m a).counter j = if j = hdrSetd u.header then u.g.counter j + 1 else u.g.counter j := by
  have raised : (inFlight u m a).counter j = (raiseCounter u (pendAll u.g m.pend)).counter j := by
    unfold inFlight bumpRelease
    split <;> rfl
  have stood : (pendAll u.g m.pend).counter j = u.g.counter j := by rw [pendAll_keeps]; rfl
  rw [raised, raiseCounter_counter, stood]

theorem inFlight_rc (lanes : List LaneAccess) :
    (inFlight u m (accessOf u m lanes)).rc = if Releases m then u.g.rc + 1 else u.g.rc := by
  have release : (accessOf u m lanes).isRelease = Releases m := by
    rw [Access.isRelease, Releases, Bool.decide_or]
    rfl
  have stood : (raiseCounter u (pendAll u.g m.pend)).rc = u.g.rc := by
    rw [raiseCounter, Group.setCounter_rc, pendAll_keeps]
  unfold inFlight bumpRelease
  rw [release, ← stood]
  split <;> rfl

/-- An instruction that has issued is in flight. -/
theorem takenUp_issued (some_lane : m.lanes ≠ []) (hp : ∀ p ∈ m.pend, p.1 = false → p.2.2 < 128) :
    Issued s u m acc (takenUp s u m (accessOf u m (m.lanes.map acc))) := by
  unfold Issued
  rw [if_neg some_lane]
  generalize ha : accessOf u m (m.lanes.map acc) = a
  generalize hg : inFlight u m a = g
  have keeps : g = { u.g with d := g.d, vPending := g.vPending, sPending := g.sPending, rc := g.rc } := hg ▸ inFlight_keeps u m a
  have frame := advance_frame u g voidEntry
  have d : (advance u g voidEntry).d = g.d := by rw [frame]; rfl
  have v : (advance u g voidEntry).vPending = g.vPending := by rw [frame]; rfl
  have sc : (advance u g voidEntry).sPending = g.sPending := by rw [frame]; rfl
  have rc : (advance u g voidEntry).rc = g.rc := by rw [frame]; rfl
  refine ⟨rfl, fun k hk => Table.get?_insert_other _ _ hk, fun k hk => Table.get?_insert_other _ _ hk, fun _ => rfl,
    ⟨a, Table.get?_insert_same _ _ _, ?_⟩, advance u g voidEntry, ?_, ?_, fun j => ?_, fun n l hl => ?_, fun n => ?_, ?_, ?_⟩
  · subst ha
    exact ⟨rfl, rfl, rfl, rfl, rfl, rfl, rfl, rfl, rfl, rfl, rfl⟩
  · rw [← hg]
    exact Table.get?_insert_same _ _ _
  · apply advance_nextPlace <;> rw [keeps]
  · exact (congrArg (fun t : Table Nat => t.read j 0) d).trans (hg ▸ inFlight_counter a j)
  · exact (congrArg (fun t : Table Bool => (t.get? (128 * n + l)).isSome) v).trans (hg ▸ inFlight_vPend a n hl hp)
  · exact (congrArg (fun t : Table Bool => (t.get? n).isSome) sc).trans (hg ▸ inFlight_sPend a n)
  · rw [rc, ← hg, ← ha]
    exact inFlight_rc _
  · rw [d, v, sc, rc]
    exact frame.trans (congrArg (fun x => moved x (advance u g voidEntry)) keeps)

end Sys2Proof.Machine

/-!
SUPPORT. The memory instructions (R105, R261, R265, R268) as they go to issue, and pf (R264), which only brings clean lines.
-/

namespace Sys2Proof.Machine

open Sys2Proof.Claims

variable {s : State} {u : Issuer} {m : MemOp} {acc : Nat → LaneAccess}

/-! ## The registers that an instruction makes pending lie in a group's lanes -/

theorem memOpOf_pend_lt {kind : AccessKind} {sp : Space} {f : FormM} {opc regs bytes : Nat} {write : Bool} :
    ∀ p ∈ (memOpOf u kind sp f opc regs bytes write).pend, p.1 = false → p.2.2 < 128 := by
  intro p hp scalar
  cases reads : kind.reads
  · simp only [memOpOf, reads, Bool.false_eq_true, if_false, List.not_mem_nil] at hp
  · simp only [memOpOf, reads, if_true, List.mem_flatMap, List.mem_map] at hp
    obtain ⟨l, hl, n, -, rfl⟩ := hp
    simp only [accessLanes, show f.sc = false from scalar, Bool.false_eq_true, if_false] at hl
    exact u.enabledLanes_lt f.tt hl

theorem mxOp_pend_lt {sp : GTSpace} {f : FormM} {store : Bool} : ∀ p ∈ (mxOp u sp f store).pend, p.1 = false → p.2.2 < 128 := by
  intro p hp scalar
  cases store
  · simp only [mxOp, Bool.false_eq_true, if_false, List.mem_append, List.mem_flatMap, List.mem_map] at hp
    rcases hp with ⟨l, hl, n, -, rfl⟩ | ⟨j, -, rfl⟩
    · exact u.enabledLanes_lt f.tt hl
    · cases scalar
  · simp [mxOp] at hp

/-! ## The group-level checks -/

theorem mxCheck_none (h : 3 ≤ fmtAF u.g.fmt ∧ fmtAF u.g.fmt ≤ 8) : mxCheck u = none := by
  simp [mxCheck, mxFmt, h]

/-- Lane words whose lanes are all enabled, or none of them, are no partial blocks (R267). -/
theorem partialBlock_whole {tt : BitVec 8}
    (h : ∀ l ∈ u.enabledLanes tt, ∀ m, m / 32 = l / 32 → m < u.l.width → m ∈ u.enabledLanes tt) : partialBlock u tt = false := by
  simp only [partialBlock, List.any_eq_false, Bool.and_eq_true, decide_eq_true_eq, Bool.not_eq_true, not_and, not_not]
  intro j hj k hk width
  obtain ⟨-, hany⟩ := List.mem_filter.mp hj
  obtain ⟨l, hl, hjl⟩ := List.any_eq_true.mp hany
  simp only [decide_eq_true_eq] at hjl
  obtain ⟨low, high⟩ := (mem_upFrom _ _ _).mp hk
  exact h l hl k (by omega) width

theorem atomCheck_none {sp : GTSpace} {op : AtomOp} (h : u.l.det = false ∨ minimumWaited (.rmw op true) = false) :
    atomCheck sp op u = none := by
  rcases h with h | h <;> simp [atomCheck, h]

theorem redCheck_none {op : RedOp} {f : FormM} (h : u.l.det = false ∨ floatRed op = false) : redCheck op f u = none := by
  rcases h with h | h <;> simp [redCheck, h]

/-! ## The instructions at issue -/

/-- The instruction is its group's memory operation m: its step goes by memoryOp, no check of the group stops it, it is neither
buffered nor held for the minimum, and it makes registers of lanes below 128 pending. -/
def IssuesAs (u : Issuer) (i : Instr) (m : MemOp) : Prop :=
  (∃ build pre red, (∀ s, exec i s = memoryOp s build pre red) ∧ build u = m ∧ pre u = none ∧ red u = none) ∧
  (u.l.det = false ∨ minimumWaited m.kind = false) ∧ ∀ p ∈ m.pend, p.1 = false → p.2.2 < 128

theorem issuesAs_ld (sp : Space) (w : LoadWidth) (f : FormM) : IssuesAs u (.ld sp w f)
    (memOpOf u (.load w) sp f (0x200 + 8 * spaceNumber sp + loadNumber w) (dataRegs (loadBytes w)) (loadBytes w) true) :=
  ⟨⟨_, noCheck, fun _ => none, fun _ => rfl, rfl, rfl, rfl⟩, .inr rfl, memOpOf_pend_lt⟩

theorem issuesAs_st (sp : Space) (w : StoreWidth) (f : FormM) : IssuesAs u (.st sp w f)
    (memOpOf u .store sp f (0x220 + 8 * spaceNumber sp + storeNumber w) (dataRegs (storeBytes w)) (storeBytes w) false) :=
  ⟨⟨_, noCheck, fun _ => none, fun _ => rfl, rfl, rfl, rfl⟩, .inr rfl, memOpOf_pend_lt⟩

theorem issuesAs_atom (sp : GTSpace) (op : AtomOp) (f : FormM) (h : mayAccess u (.atom sp op f)) : IssuesAs u (.atom sp op f)
    (memOpOf u (.rmw op true) (gtSpace sp) f ((if sp = .g then 0x280 else 0x296) + atomNumber op) (atomRegs op) (atomBytes op)
      false) :=
  ⟨⟨_, _, _, fun _ => rfl, rfl, atomCheck_none h, rfl⟩, h, memOpOf_pend_lt⟩

theorem issuesAs_red (op : RedOp) (f : FormM) (h : mayAccess u (.red op f)) : IssuesAs u (.red op f)
    { memOpOf u (.rmw (redAtom op) false) .g f (0x2AC + redNumber op) (dataRegs (atomBytes (redAtom op)))
        (atomBytes (redAtom op)) false with pend := [] } := by
  refine ⟨⟨_, _, _, fun _ => rfl, rfl, redCheck_none h, ?_⟩, .inr rfl, fun p hp => by cases hp⟩
  rcases h with h | h <;> simp [h]

theorem issuesAs_ldmx (sp : GTSpace) (f : FormM) (h : mayAccess u (.ldmx sp f)) : IssuesAs u (.ldmx sp f) (mxOp u sp f false) :=
  ⟨⟨_, _, _, fun _ => rfl, rfl, mxCheck_none h, rfl⟩, .inr rfl, mxOp_pend_lt⟩

theorem issuesAs_stmx (sp : GTSpace) (f : FormM) (h : mayAccess u (.stmx sp f)) : IssuesAs u (.stmx sp f) (mxOp u sp f true) := by
  obtain ⟨low, high, whole⟩ := h
  refine ⟨⟨_, _, _, fun _ => rfl, rfl, ?_, rfl⟩, .inr rfl, mxOp_pend_lt⟩
  simp [mxCheck_none ⟨low, high⟩, partialBlock_whole whole]

theorem issuesAs_of_memoryOf {i : Instr} (hm : memoryOf u i = some m) (may : mayAccess u i) : IssuesAs u i m := by
  unfold memoryOf at hm
  split at hm
  case h_1 sp f => cases hm; exact issuesAs_ldmx sp f may
  case h_2 sp f => cases hm; exact issuesAs_stmx sp f may
  case h_3 op f => cases hm; exact issuesAs_red op f may
  case h_4 =>
    obtain ⟨d, hd, rfl⟩ := Option.map_eq_some_iff.mp hm
    unfold datumOf at hd
    split at hd
    case h_1 sp w f _ _ _ => cases hd; exact issuesAs_ld sp w f
    case h_2 sp w f _ _ _ => cases hd; exact issuesAs_st sp w f
    case h_3 sp op f _ _ _ => cases hd; exact issuesAs_atom sp op f may
    case h_4 op f _ _ notRed => exact (notRed op f rfl).elim
    case h_5 => cases hd

/-- A memory instruction that is ready takes up its accesses, or has no lane and is complete. -/
theorem memory_issued {i : Instr} (as : IssuesAs u i m) (issuing : Issuing s u) (ready : Ready s u m acc) :
    ∃ t, exec i s = .next t ∧ Issued s u m acc t := by
  obtain ⟨⟨build, pre, red, step, rfl, unchecked, unbuffered⟩, prompt, low⟩ := as
  have room : counterFull u = false := by
    have := ready.1
    simp only [counterFull, decide_eq_false_iff_not]
    omega
  have issue : exec i s = effectOf s u (accessOf u (build u) ((build u).lanes.map acc)) (build u).pend none := by
    simp [step, memoryOp, withIssuer_issuing issuing, room, unchecked, unbuffered, issueAccess_ready ready]
  by_cases none_lane : (build u).lanes = []
  · refine ⟨finish s u u.g voidEntry, ?_, ?_⟩
    · rw [issue]
      simp [effectOf, accessOf, none_lane]
    · rw [Issued, if_pos none_lane]
      exact ⟨finish_onlyGroup s u u.g voidEntry, _, finish_group s u u.g voidEntry,
        advance_nextPlace u u.g voidEntry rfl rfl rfl rfl rfl rfl rfl rfl, advance_frame u u.g voidEntry⟩
  · exact ⟨_, issue.trans (effectOf_ready ready none_lane prompt), takenUp_issued none_lane low⟩

/-! ## pf (R264) -/

/-- Nothing has changed but the lines that the cores hold, and those are clean. -/
def OnlyCleanLines (s t : State) : Prop := CoresClean s t ∧ OnlyLines s t

theorem onlyCleanLines_refl (h : NoDirty s) : OnlyCleanLines s s := ⟨.refl h, onlyLines_refl s⟩

theorem onlyCleanLines_trans {s t r : State} (h : OnlyCleanLines s t) (k : NoDirty t → OnlyCleanLines t r) : OnlyCleanLines s r :=
  ⟨h.1.trans (k h.1.2).1, onlyLines_trans h.2 (k h.1.2).2⟩

theorem onlyCleanLines_foldl {α : Type} (f : State → α → State) (h : ∀ s a, NoDirty s → OnlyCleanLines s (f s a)) (l : List α)
    (hs : NoDirty s) : OnlyCleanLines s (l.foldl f s) := by
  induction l generalizing s with
  | nil => exact onlyCleanLines_refl hs
  | cons a l ih => exact onlyCleanLines_trans (h s a hs) ih

theorem dropLine_onlyCleanLines (h : NoDirty s) (core ln : Nat) : OnlyCleanLines s (dropLine s core ln) :=
  ⟨dropLine_coresClean h core ln, dropLine_onlyLines s core ln⟩

theorem recallFrom_onlyCleanLines (h : NoDirty s) (loc n : Nat) (keep : Option Nat) : OnlyCleanLines s (recallFrom s loc n keep) := by
  refine onlyCleanLines_foldl _ (fun s ln hs => onlyCleanLines_foldl _ (fun s c hs => ?_) _ hs) _ h
  split
  · exact onlyCleanLines_refl hs
  · exact dropLine_onlyCleanLines hs c ln

theorem prepareLine_onlyCleanLines (h : NoDirty s) (core scope : Nat) (t : Target) (n : Nat) :
    OnlyCleanLines s (prepareLine s core scope t n) := by
  unfold prepareLine
  split
  · exact recallFrom_onlyCleanLines h _ n _
  · exact onlyCleanLines_refl h

theorem makeRoom_onlyCleanLines (h : NoDirty s) (core : Nat) (keep : List Nat) : OnlyCleanLines s (makeRoom s core keep) := by
  unfold makeRoom
  dsimp only
  split
  · exact onlyCleanLines_refl h
  · split
    · exact onlyCleanLines_refl h
    · exact dropLine_onlyCleanLines h core _

/-- A core's L1 takes a clean line. -/
theorem insertLine_onlyCleanLines (h : NoDirty s) (core ln : Nat) (l : Line) (clean : l.dirty = 0) :
    OnlyCleanLines s (s.modifyCore core fun c => { c with lines := c.lines.insert ln l }) := by
  refine ⟨modifyCore_coresClean h core _ fun x k y hy => ?_, onlyLines_modifyCore s core _ fun _ => rfl⟩
  rw [Table.get?_insert] at hy
  split at hy
  · cases hy; exact .inl clean
  · exact .inr hy

theorem fillRange_onlyCleanLines (h : NoDirty s) (core ctx loc n : Nat) : OnlyCleanLines s (fillRange s core ctx loc n) := by
  refine onlyCleanLines_foldl _ (fun s ln hs => ?_) _ h
  dsimp only
  split
  · exact onlyCleanLines_refl hs
  · exact onlyCleanLines_trans (makeRoom_onlyCleanLines hs core _) fun hs => insertLine_onlyCleanLines hs core ln _ rfl

theorem prefetchLane_onlyCleanLines (h : NoDirty s) (u : Issuer) (f : FormM) (l : Nat) :
    OnlyCleanLines s (prefetchLane u f s l) := by
  unfold prefetchLane
  dsimp only
  split
  · exact onlyCleanLines_refl h
  · split
    · split
      · exact onlyCleanLines_trans (prepareLine_onlyCleanLines h _ 0 _ 1) fun hs => fillRange_onlyCleanLines hs _ _ _ 1
      · exact onlyCleanLines_refl h
    · exact onlyCleanLines_refl h

/-- A prefetch whose base operand fits prefetches for each of its lanes, and is complete. -/
theorem exec_pf {f : FormM} (issuing : Issuing s u)
    (fits : if f.sc then ScalarsFit u [src64 fieldA f.a] else ∀ l ∈ u.enabledLanes f.tt, Fits u l (src64 fieldA f.a)) :
    exec (.pf f) s = .next (finish ((accessLanes u f.sc f.tt).foldl (prefetchLane u f) s) u u.g voidEntry) := by
  have shaped : ∀ x ∈ [src64 fieldA f.a], x.Shaped := by simp
  change execPf f s = _
  rw [execPf, withIssuer_issuing issuing]
  cases hsc : f.sc
  · have passes : lanesFault u [src64 fieldA f.a] (u.enabledLanes f.tt) = none :=
      (lanesFault_none shaped).mpr fun l hl x hx => by
        rw [hsc, if_neg (by simp)] at fits
        rw [List.mem_singleton.mp hx]
        exact fits l hl
    simp [passes]
  · have passes : scalarFault u [src64 fieldA f.a] = none := (scalarFault_none shaped).mpr (by rwa [hsc, if_pos rfl] at fits)
    simp [passes]

/-- What finishing after clean lines have come comes to. -/
theorem finish_onlyCleanLines {r : State} (h : OnlyCleanLines s r) (u : Issuer) (g : Group) (entry : Latch) :
    let t := finish r u g entry
    t = { s with groups := t.groups, contexts := t.contexts, cores := t.cores } ∧ OtherGroups s t u.gid ∧ OnlySound s t u ∧
      OnlyLines s t ∧ SameMemory s t ∧ NoDirty t := by
  obtain ⟨⟨frame, clean⟩, lines⟩ := h
  obtain ⟨only, others, sound, mem⟩ := finish_onlyGroup r u g entry
  have cores : (finish r u g entry).cores = r.cores := by rw [only]
  refine ⟨?_, fun k hk => ?_, fun c => ?_, ?_, fun a => ?_, fun c b => ?_⟩
  · rw [only, frame]
  · rw [others k hk, frame]
  · rw [sound c, frame]
  · exact onlyLines_trans lines (onlyLines_of_cores cores)
  · rw [mem a, frame]
  · rw [← clean c b, coreDirty, coreDirty, cores]

end Sys2Proof.Machine

/-!
PROOF. O28: memory instructions are in flight after issue, and no byte changes.
-/

namespace Sys2Proof.Machine

open Sys2Proof.Claims

/-- Settles O28: each memory instruction goes to issue as its group's memory operation, whose checks have all passed; and pf only
brings clean lines. -/
theorem memoryIssues : Obligations.MemoryIssues := by
  unfold Obligations.MemoryIssues
  refine ⟨fun i s u m acc hm _ may issuing ready => memory_issued (issuesAs_of_memoryOf hm may) issuing ready,
    fun f s u _ issuing fits clean => ?_⟩
  have brought := onlyCleanLines_foldl (prefetchLane u f) (fun s l hs => prefetchLane_onlyCleanLines hs u f l)
    (accessLanes u f.sc f.tt) clean
  obtain ⟨frame, others, sound, lines, mem, noDirty⟩ := finish_onlyCleanLines brought u u.g voidEntry
  exact ⟨_, advance u u.g voidEntry, exec_pf issuing fits, frame, others, sound, lines, mem, noDirty,
    finish_group _ u u.g voidEntry, advance_nextPlace u u.g voidEntry rfl rfl rfl rfl rfl rfl rfl rfl,
    advance_frame u u.g voidEntry⟩

end Sys2Proof.Machine

/-!
SUPPORT. setfmt (R138, R234): which values FMT accepts, and the two ends of the instruction.
-/

namespace Sys2Proof.Machine

open Sys2Proof.Claims

variable {s : State} {u : Issuer} {w : Word}

theorem fmtAccepted_iff : fmtAccepted w = true ↔ FmtFits w := by
  simp only [fmtAccepted, Bool.and_eq_true, decide_eq_true_eq]
  simp [FmtFits, fmtAF, fmtBF, fmtCF, fmtOUTF, field, and_assoc]

theorem fmtRaise_of_fits (h : FmtFits w) : fmtRaise w = none := if_pos (fmtAccepted_iff.mpr h)

theorem fmtRaise_of_not_fits (h : ¬ FmtFits w) : fmtRaise w = some (.group .fmt 1 0) := if_neg (mt fmtAccepted_iff.mp h)

/-- R234: a group whose instruction ends with a value in FMT. -/
theorem finish_fmt (s : State) (u : Issuer) (w : Word) :
    GroupDone s u void (fun g => g = { moved u.g g with fmt := w }) (finish s u { u.g with fmt := w } voidEntry) := by
  refine ⟨finish_onlyGroup _ _ _ _, _, finish_group _ _ _ _, advance_nextPlace u _ voidEntry rfl rfl rfl rfl rfl rfl rfl rfl, ?_⟩
  have frame := advance_frame u { u.g with fmt := w } voidEntry
  generalize advance u { u.g with fmt := w } voidEntry = g at frame ⊢
  exact frame

/-- R138: the trap of an unaccepted value, whatever the record shows of the operand. -/
theorem takeTrap_fmt (s : State) (u : Issuer) (mask : LaneMask) (slots : List OpSlot) (scalar : Bool) :
    Traps s u .fmt 1 (takeTrap s u (trapInfo u (.group .fmt 1 0) mask slots scalar)) :=
  (takeTrap_trapsAt (sub := 1) (detail := 0) s u _ rfl rfl).1

end Sys2Proof.Machine

/-!
PROOF. O10: setfmt writes an accepted value, and traps on others (R138, R234).
-/

namespace Sys2Proof.Machine

open Sys2Proof.Claims

/-- Settles O10: the operand fits, so that the value alone decides; an accepted one is written, any other traps. -/
theorem fmtIsSet : Obligations.FmtIsSet := by
  refine ⟨fun f s u _ issuing fits => ?_, fun f s u _ issuing => ?_⟩
  · have passes : scalarFault u [src fieldA f.a] = none := (scalarFault_none (by simp)).mpr fits
    have run : exec (.setfmt f) s = execSetfmt f s := rfl
    rw [run, execSetfmt, withIssuer_issuing issuing, passes]
    refine ⟨fun accepted => ?_, fun refused => ?_⟩
    · rw [fmtRaise_of_fits accepted]
      exact ⟨_, rfl, finish_fmt s u _⟩
    · rw [fmtRaise_of_not_fits refused]
      exact ⟨_, rfl, takeTrap_fmt s u _ _ _⟩
  · have run : exec (.setfmtImm f) s = execSetfmtImm f s := rfl
    rw [run, execSetfmtImm, withIssuer_issuing issuing]
    refine ⟨fun accepted => ?_, fun refused => ?_⟩
    · rw [fmtRaise_of_fits accepted]
      exact ⟨_, rfl, finish_fmt s u _⟩
    · rw [fmtRaise_of_not_fits refused]
      exact ⟨_, rfl, takeTrap_fmt s u _ _ _⟩

end Sys2Proof.Machine

/-!
SUPPORT. Rounding a magnitude to an integer (R124): what roundMag does, in real numbers.
-/

namespace Sys2Proof.Machine

open Sys2Proof.Claims

/-! ## The length of a number in bits -/

theorem lt_two_pow_bitLength (m : Nat) : m < 2 ^ bitLength m := by
  unfold bitLength
  split
  · omega
  · exact Nat.lt_log2_self

theorem two_pow_bitLength_le {m : Nat} (h : 0 < m) : 2 ^ bitLength m ≤ 2 * m := by
  rw [bitLength, if_neg (by omega), pow_succ']
  exact Nat.mul_le_mul_left 2 (Nat.log2_self_le (by omega))

/-! ## One rounding -/

/-- R124: whether the magnitude y of a value, which lies from n up to n + 1, is rounded to n + 1. -/
def GoesUp (mode : Rounding) (neg : Bool) (y : ℝ) (n : Nat) : Prop :=
  y ≠ n ∧
  match mode with
  | .rn => 1 < 2 * (y - n) ∨ (2 * (y - n) = 1 ∧ n % 2 = 1)
  | .rz => False
  | .rd => neg = true
  | .ru => neg = false

/-- R124: r is the magnitude y of a value, rounded to an integer, and whether it is not y. -/
def RoundsMag (mode : Rounding) (neg : Bool) (y : ℝ) (r : Nat × Bool) : Prop :=
  ∃ n : Nat, (n : ℝ) ≤ y ∧ y < n + 1 ∧ (GoesUp mode neg y n → r.1 = n + 1) ∧ (¬ GoesUp mode neg y n → r.1 = n) ∧
    (r.2 = true ↔ y ≠ n)

/-- An integer is its own rounding. -/
theorem roundsMag_exact (mode : Rounding) (neg : Bool) (n : Nat) : RoundsMag mode neg n (n, false) :=
  ⟨n, le_rfl, lt_add_one _, fun h => absurd rfl h.1, fun _ => rfl, by simp⟩

/-- A magnitude that is no integer is rounded up exactly where its test says so. -/
theorem roundsMag_inexact {mode : Rounding} {neg up : Bool} {y : ℝ} {n : Nat} (lo : (n : ℝ) < y) (hi : y < n + 1)
    (h : up = true ↔ GoesUp mode neg y n) : RoundsMag mode neg y (if up then n + 1 else n, true) :=
  ⟨n, lo.le, hi, fun g => if_pos (h.mpr g), fun g => if_neg (mt h.mp g), by simp [lo.ne']⟩

/-- The test of roundMag, on a remainder. -/
theorem roundsUp_iff (mode : Rounding) (neg : Bool) {n rem unit : Nat} (hr : 0 < rem) (hu : 0 < unit) :
    roundsUp mode neg n rem unit = true ↔ GoesUp mode neg ((n : ℝ) + rem / unit) n := by
  have unit_pos : (0 : ℝ) < unit := by exact_mod_cast hu
  have off : (n : ℝ) + rem / unit ≠ n := by
    have : (0 : ℝ) < rem / unit := div_pos (by exact_mod_cast hr) unit_pos
    linarith
  have twice : 2 * ((n : ℝ) + rem / unit - n) = ((2 * rem : Nat) : ℝ) / unit := by push_cast; ring
  cases mode with
  | rn =>
    simp only [roundsUp, GoesUp, off, ne_eq, not_false_eq_true, true_and, twice, one_lt_div unit_pos, div_eq_one_iff_eq unit_pos.ne',
      Nat.cast_lt, Nat.cast_inj, Bool.or_eq_true, Bool.and_eq_true, decide_eq_true_eq]
  | rz => simp [roundsUp, GoesUp]
  | rd => simp [roundsUp, GoesUp, off]
  | ru => simp [roundsUp, GoesUp, off]

/-- Below one half the distance does not matter: the test is that of a quarter. -/
theorem goesUp_below_half {mode : Rounding} {neg : Bool} {y : ℝ} (lo : 0 < y) (hi : y < 1 / 2) :
    roundsUp mode neg 0 1 4 = true ↔ GoesUp mode neg y 0 := by
  cases mode with
  | rn =>
    have short : ¬ 1 < 2 * y := by linarith
    simp [roundsUp, GoesUp, short]
  | rz => simp [roundsUp, GoesUp]
  | rd => simp [roundsUp, GoesUp, lo.ne']
  | ru => simp [roundsUp, GoesUp, lo.ne']

/-- A quotient is its whole part and the rest over the divisor. -/
theorem div_eq_quotient_add (m : Nat) {unit : Nat} (h : 0 < unit) : (m : ℝ) / unit = (m / unit : Nat) + (m % unit : Nat) / unit := by
  have pos : (0 : ℝ) < unit := by exact_mod_cast h
  have whole : (m : ℝ) = unit * (m / unit : Nat) + (m % unit : Nat) := by exact_mod_cast (Nat.div_add_mod m unit).symm
  rw [div_eq_iff pos.ne', add_mul, div_mul_cancel₀ _ pos.ne', mul_comm _ (unit : ℝ)]
  exact whole

/-- A magnitude with a whole part is rounded by its remainder. -/
theorem roundsMag_div (mode : Rounding) (neg : Bool) (m : Nat) {unit : Nat} (h : 0 < unit) :
    RoundsMag mode neg ((m : ℝ) / unit) (if m % unit = 0 then (m / unit, false)
      else (if roundsUp mode neg (m / unit) (m % unit) unit then m / unit + 1 else m / unit, true)) := by
  rw [div_eq_quotient_add m h]
  by_cases whole : m % unit = 0
  · simpa [whole] using roundsMag_exact mode neg (m / unit)
  · rw [if_neg whole]
    have rem_pos : 0 < m % unit := Nat.pos_of_ne_zero whole
    have unit_pos : (0 : ℝ) < unit := by exact_mod_cast h
    have part_pos : (0 : ℝ) < (m % unit : Nat) / unit := div_pos (by exact_mod_cast rem_pos) unit_pos
    have part_lt : ((m % unit : Nat) : ℝ) / unit < 1 := (div_lt_one unit_pos).mpr (by exact_mod_cast Nat.mod_lt m h)
    exact roundsMag_inexact (by linarith) (by linarith) (roundsUp_iff mode neg rem_pos h)

/-- A magnitude far below one half is rounded as a quarter is. -/
theorem roundsMag_far (mode : Rounding) (neg : Bool) {m sh : Nat} (far : bitLength m + 1 < sh) :
    RoundsMag mode neg ((m : ℝ) / (2 ^ sh : Nat)) (if roundsUp mode neg 0 1 4 && decide (0 < m) then 1 else 0, decide (0 < m)) := by
  rcases Nat.eq_zero_or_pos m with rfl | pos
  · simpa using roundsMag_exact mode neg 0
  have unit_pos : (0 : ℝ) < (2 ^ sh : Nat) := by positivity
  have short : m * 2 < 2 ^ sh := calc
    m * 2 < 2 ^ bitLength m * 2 := by have := lt_two_pow_bitLength m; omega
    _ = 2 ^ (bitLength m + 1) := (pow_succ _ _).symm
    _ ≤ 2 ^ sh := Nat.pow_le_pow_right (by norm_num) far.le
  have lo : (0 : ℝ) < m / (2 ^ sh : Nat) := div_pos (by exact_mod_cast pos) unit_pos
  have hi : (m : ℝ) / (2 ^ sh : Nat) < 1 / 2 := by
    rw [div_lt_div_iff₀ unit_pos two_pos]
    exact_mod_cast (one_mul (2 ^ sh)).symm ▸ short
  have := roundsMag_inexact (n := 0) (by simpa using lo) (by rw [Nat.cast_zero]; linarith)
    (goesUp_below_half (mode := mode) (neg := neg) lo hi)
  simpa [pos] using this

/-- R124: roundMag rounds the magnitude m · 2^e in units of 2^q. -/
theorem roundMag_rounds (mode : Rounding) (neg : Bool) (m : Nat) (e q : Int) :
    RoundsMag mode neg ((m : ℝ) * 2 ^ (e - q)) (roundMag mode neg m e q) := by
  unfold roundMag
  by_cases fine : q ≤ e
  · obtain ⟨d, hd⟩ := Int.eq_ofNat_of_zero_le (sub_nonneg.mpr fine)
    rw [if_pos fine, hd]
    exact_mod_cast roundsMag_exact mode neg (m * 2 ^ d)
  · obtain ⟨sh, hsh⟩ := Int.eq_ofNat_of_zero_le (show 0 ≤ q - e by omega)
    have value : (m : ℝ) * 2 ^ (e - q) = m / (2 ^ sh : Nat) := by
      rw [show e - q = -(sh : Int) by omega, zpow_neg, zpow_natCast, div_eq_mul_inv, Nat.cast_pow, Nat.cast_ofNat]
    rw [if_neg fine, hsh, value]
    by_cases far : bitLength m + 1 < sh
    · exact (if_pos far).symm ▸ roundsMag_far mode neg far
    · exact (if_neg far).symm ▸ roundsMag_div mode neg m (by positivity)

end Sys2Proof.Machine

/-!
SUPPORT. Rounding to a format (R121, R123, R124, R133): roundFinite gives the exact value rounded once.
-/

namespace Sys2Proof.Machine

open Sys2Proof.Claims

/-! ## Values as real numbers -/

theorem two_zpow_pos (n : ℤ) : (0 : ℝ) < 2 ^ n := zpow_pos two_pos n

theorem two_zpow_le {a b : ℤ} (h : a ≤ b) : (2 : ℝ) ^ a ≤ 2 ^ b := zpow_le_zpow_right₀ one_le_two h

theorem two_zpow_add (a b : ℤ) : (2 : ℝ) ^ (a + b) = 2 ^ a * 2 ^ b := zpow_add₀ two_ne_zero a b

theorem nat_mul_zpow_pos {m : Nat} (h : 0 < m) (e : ℤ) : (0 : ℝ) < m * 2 ^ e := mul_pos (by exact_mod_cast h) (two_zpow_pos e)

@[simp] theorem abs_realOf_fin (neg : Bool) (m : Nat) (e : Int) : |realOf (.fin neg m e)| = m * 2 ^ e := by
  have := two_zpow_pos e
  cases neg <;> simp [realOf, abs_mul, abs_of_pos this]

theorem realOf_fin_ne_zero {neg : Bool} {m : Nat} {e : Int} (h : 0 < m) : realOf (.fin neg m e) ≠ 0 := by
  rw [← abs_pos, abs_realOf_fin]
  exact nat_mul_zpow_pos h e

theorem realOf_fin_neg_iff {neg : Bool} {m : Nat} {e : Int} (h : 0 < m) : realOf (.fin neg m e) < 0 ↔ neg = true := by
  have := nat_mul_zpow_pos h e
  cases neg <;> simp only [realOf, Bool.false_eq_true, if_true, if_false, iff_true, iff_false, not_lt] <;> linarith

theorem realOf_fin_pos_iff {neg : Bool} {m : Nat} {e : Int} (h : 0 < m) : 0 < realOf (.fin neg m e) ↔ neg = false := by
  rw [← not_le, le_iff_lt_or_eq, or_iff_left (realOf_fin_ne_zero h), realOf_fin_neg_iff h, Bool.not_eq_true]

/-- The leading bit of m · 2^e. -/
theorem lead_bounds {m : Nat} (e : Int) (h : 0 < m) :
    (2 : ℝ) ^ (e + (bitLength m : Int) - 1) ≤ m * 2 ^ e ∧ (m : ℝ) * 2 ^ e < 2 ^ (e + (bitLength m : Int) - 1 + 1) := by
  have pos := two_zpow_pos e
  constructor
  · have : (2 : ℝ) ^ bitLength m ≤ 2 * m := by exact_mod_cast two_pow_bitLength_le h
    rw [show e + (bitLength m : Int) - 1 = (bitLength m : Int) + e + -1 by ring, two_zpow_add, two_zpow_add, zpow_natCast, zpow_neg_one]
    nlinarith
  · have : (m : ℝ) < 2 ^ bitLength m := by exact_mod_cast lt_two_pow_bitLength m
    rw [show e + (bitLength m : Int) - 1 + 1 = (bitLength m : Int) + e by ring, two_zpow_add, zpow_natCast]
    exact mul_lt_mul_of_pos_right this pos

/-! ## Codes and their magnitudes (R121) -/

/-- The magnitude of code k · 2^mbits + n, where n has the leading bit of a normal number or k is 0. -/
theorem magnitude_code (f : FloatFmt) {k n : Nat} (normal : k = 0 ∨ 2 ^ f.mbits ≤ n) (hn : n ≤ 2 ^ (f.mbits + 1)) :
    magnitude f (k * 2 ^ f.mbits + n) = n * 2 ^ (f.emin - f.mbits + k) := by
  have pos : 0 < 2 ^ f.mbits := by positivity
  have twice : 2 ^ (f.mbits + 1) = 2 * 2 ^ f.mbits := pow_succ' 2 f.mbits
  unfold magnitude
  rcases Nat.lt_or_ge n (2 ^ f.mbits) with small | large
  · obtain rfl : k = 0 := normal.resolve_right (by omega)
    simp [small]
  obtain ⟨j, rfl⟩ := Nat.exists_eq_add_of_le large
  have code : k * 2 ^ f.mbits + (2 ^ f.mbits + j) = j + (k + 1) * 2 ^ f.mbits := by ring
  rw [if_neg (by rw [code]; nlinarith), code]
  rcases Nat.lt_or_ge j (2 ^ f.mbits) with inside | top
  · rw [Nat.add_mul_mod_self_right, Nat.mod_eq_of_lt inside, Nat.add_mul_div_right _ _ pos, Nat.div_eq_of_lt inside, FloatFmt.emin]
    push_cast
    congr 2
    ring
  · obtain rfl : j = 2 ^ f.mbits := by omega
    rw [show 2 ^ f.mbits + (k + 1) * 2 ^ f.mbits = (k + 2) * 2 ^ f.mbits by ring, Nat.mul_mod_left, Nat.mul_div_cancel _ pos, FloatFmt.emin,
      show (((k + 2 : ℕ) : ℤ) - f.bias - f.mbits) = (1 - (f.bias : ℤ) - f.mbits + k) + 1 by push_cast; ring, two_zpow_add]
    push_cast
    ring

/-! ## Which neighbour (R124) -/

/-- R124: between the n-th and the next multiple of a unit. -/
theorem roundsAway_iff {mode : Rounding} {neg : Bool} {x y p : ℝ} {n c : Nat} (hp : 0 < p) (hy : 0 < y) (hx : |x| = y * p)
    (sign : x < 0 ↔ neg = true) (parity : c % 2 = n % 2) :
    RoundsAway mode x (n * p) ((n + 1) * p) c ↔ GoesUp mode neg y n := by
  have off : |x| ≠ n * p ↔ y ≠ n := by rw [hx, ne_eq, mul_left_inj' hp.ne']
  have nonzero : x ≠ 0 := abs_pos.mp (by rw [hx]; positivity)
  unfold RoundsAway GoesUp
  rw [off]
  refine and_congr_right fun _ => ?_
  cases mode with
  | rn =>
    have above : n * p + (n + 1) * p < 2 * |x| ↔ 1 < 2 * (y - n) := by
      rw [hx, show n * p + (n + 1) * p = (2 * n + 1) * p by ring, ← mul_assoc, mul_lt_mul_iff_left₀ hp]
      constructor <;> intro <;> linarith
    have tie : n * p + (n + 1) * p = 2 * |x| ↔ 2 * (y - n) = 1 := by
      rw [hx, show n * p + (n + 1) * p = (2 * n + 1) * p by ring, ← mul_assoc, mul_left_inj' hp.ne']
      constructor <;> intro <;> linarith
    simp only [above, tie, parity]
  | rz => rfl
  | rd => exact sign
  | ru =>
    have : 0 < x ↔ ¬ x < 0 := ⟨fun h => h.le.not_gt, fun h => lt_of_le_of_ne (not_lt.mp h) nonzero.symm⟩
    simp only [this, sign, Bool.not_eq_true]

/-- R124: a value is rounded to a code, as if exponents had no upper bound; with whether the code is not the value. -/
def CodeRounds (f : FloatFmt) (mode : Rounding) (x : ℝ) (code : Nat) (inexact : Bool) : Prop :=
  ∃ n, magnitude f n ≤ |x| ∧ |x| < magnitude f (n + 1) ∧
    (RoundsAway mode x (magnitude f n) (magnitude f (n + 1)) n → code = n + 1) ∧
    (¬ RoundsAway mode x (magnitude f n) (magnitude f (n + 1)) n → code = n) ∧ (inexact = true ↔ |x| ≠ magnitude f n)

section
variable {f : FloatFmt} {mode : Rounding} {neg : Bool} {m : Nat} {e lead : Int}

/-- The value in units of 2^q. -/
theorem abs_realOf_units (neg : Bool) (m : Nat) (e q : Int) : |realOf (.fin neg m e)| = m * 2 ^ (e - q) * 2 ^ q := by
  rw [abs_realOf_fin, mul_assoc, ← two_zpow_add, sub_add_cancel]

/-- R121, R124: rounding in the units of the value's binade, or of the subnormal numbers, gives the code. -/
theorem roundMag_codeRounds (hm : 1 ≤ f.mbits) (pos : 0 < m) (lo : (2 : ℝ) ^ lead ≤ m * 2 ^ e)
    (hi : (m : ℝ) * 2 ^ e < 2 ^ (lead + 1)) {q : Int} (hq : q = max (lead - f.mbits) (f.emin - f.mbits)) :
    CodeRounds f mode (realOf (.fin neg m e)) ((q - (f.emin - f.mbits)).toNat * 2 ^ f.mbits + (roundMag mode neg m e q).1)
      (roundMag mode neg m e q).2 := by
  obtain ⟨n, below, above, up, stay, inexact⟩ := roundMag_rounds mode neg m e q
  obtain ⟨k, hk⟩ := Int.eq_ofNat_of_zero_le (show 0 ≤ q - (f.emin - f.mbits) by omega)
  have unit_pos := two_zpow_pos q
  have units := abs_realOf_units neg m e q
  have sign := realOf_fin_neg_iff (neg := neg) (e := e) pos
  have value_pos := nat_mul_zpow_pos pos (e - q)
  have value : (m : ℝ) * 2 ^ (e - q) = m * 2 ^ e * 2 ^ (-q) := by rw [mul_assoc, ← two_zpow_add, sub_eq_add_neg]
  generalize (m : ℝ) * 2 ^ (e - q) = y at below above up stay inexact units value_pos value
  have n_lt : n < 2 ^ (f.mbits + 1) := by
    have : y < 2 ^ (f.mbits + 1) := calc
      y < 2 ^ (lead + 1) * 2 ^ (-q) := value ▸ mul_lt_mul_of_pos_right hi (two_zpow_pos _)
      _ = 2 ^ (lead + 1 + -q) := (two_zpow_add _ _).symm
      _ ≤ 2 ^ ((f.mbits + 1 : Nat) : Int) := two_zpow_le (by omega)
      _ = 2 ^ (f.mbits + 1) := zpow_natCast _ _
    exact_mod_cast below.trans_lt this
  have normal : k = 0 ∨ 2 ^ f.mbits ≤ n := by
    refine or_iff_not_imp_left.mpr fun hk0 => ?_
    have : (2 : ℝ) ^ f.mbits ≤ y := calc
      (2 : ℝ) ^ f.mbits = 2 ^ (lead + -q) := by rw [← zpow_natCast]; congr 1; omega
      _ = 2 ^ lead * 2 ^ (-q) := two_zpow_add _ _
      _ ≤ y := value ▸ mul_le_mul_of_nonneg_right lo (two_zpow_pos _).le
    have : 2 ^ f.mbits < n + 1 := by exact_mod_cast this.trans_lt above
    omega
  have at_unit : f.emin - f.mbits + k = q := by omega
  have here : magnitude f (k * 2 ^ f.mbits + n) = n * 2 ^ q := at_unit ▸ magnitude_code f normal n_lt.le
  have following : magnitude f (k * 2 ^ f.mbits + n + 1) = (n + 1) * 2 ^ q := by
    have := magnitude_code f (k := k) (n := n + 1) (normal.imp_right (by omega)) (by omega)
    rw [at_unit] at this
    exact_mod_cast this
  have parity : (k * 2 ^ f.mbits + n) % 2 = n % 2 := by
    obtain ⟨j, hj⟩ := Nat.exists_eq_add_of_le hm
    rw [hj, pow_add, pow_one, mul_left_comm, Nat.mul_add_mod]
  have away := roundsAway_iff (mode := mode) unit_pos value_pos units sign parity
  refine ⟨k * 2 ^ f.mbits + n, ?_, ?_, ?_, ?_, ?_⟩
  · rw [here, units]; exact mul_le_mul_of_nonneg_right below unit_pos.le
  · rw [following, units]; exact mul_lt_mul_of_pos_right above unit_pos
  · rw [here, following, away, hk]
    exact fun h => by rw [up h]; rfl
  · rw [here, following, away, hk]
    exact fun h => by rw [stay h]; rfl
  · rw [here, units, inexact, ne_eq, ne_eq, mul_left_inj' unit_pos.ne']

/-- The largest value below the smallest normal number that the format's precision holds, in its units. -/
theorem tiny_top (f : FloatFmt) : (2 - (2 : ℝ) ^ (-(f.mbits : ℤ))) * 2 ^ (f.emin - 1) =
    ((2 ^ (f.mbits + 1) - 1 : Nat) : ℝ) * 2 ^ (f.emin - 1 - f.mbits) := by
  have : (1 : ℕ) ≤ 2 ^ (f.mbits + 1) := Nat.one_le_two_pow
  rw [Nat.cast_sub this, sub_eq_add_neg (f.emin - 1), two_zpow_add _ (-(f.mbits : ℤ)), zpow_neg, zpow_natCast]
  push_cast
  field_simp
  ring

/-- The smallest normal number in the same units. -/
theorem two_zpow_emin (f : FloatFmt) :
    (2 : ℝ) ^ f.emin = (((2 ^ (f.mbits + 1) - 1 : Nat) : ℝ) + 1) * 2 ^ (f.emin - 1 - f.mbits) := by
  have : (1 : ℕ) ≤ 2 ^ (f.mbits + 1) := Nat.one_le_two_pow
  rw [Nat.cast_sub this, Nat.cast_one, sub_add_cancel, Nat.cast_pow, Nat.cast_ofNat, ← zpow_natCast, ← two_zpow_add]
  congr 1
  push_cast
  ring

theorem not_tiny_of_normal {x : ℝ} (h : (2 : ℝ) ^ f.emin ≤ |x|) : ¬ Tiny f mode x := by
  have := two_zpow_pos (f.emin - 1 - f.mbits)
  rw [Tiny, tiny_top]
  rw [two_zpow_emin] at h ⊢
  rintro (low | ⟨low, -⟩) <;> linarith

theorem tiny_of_below {x : ℝ} (h : |x| < (2 : ℝ) ^ (f.emin - 1)) : Tiny f mode x := by
  refine .inl (h.le.trans ?_)
  have small : (2 : ℝ) ^ (-(f.mbits : ℤ)) ≤ 1 := zpow_le_one_of_nonpos₀ one_le_two (by omega)
  nlinarith [two_zpow_pos (f.emin - 1)]

/-- R123: in the binade below the smallest normal number, a value is tiny that rounds to less than that number. -/
theorem tiny_iff_last (pos : 0 < m) (hi : (m : ℝ) * 2 ^ e < 2 ^ f.emin) :
    Tiny f mode (realOf (.fin neg m e)) ↔ (roundMag mode neg m e (f.emin - 1 - f.mbits)).1 ≠ 2 ^ (f.mbits + 1) := by
  have units := abs_realOf_units neg m e (f.emin - 1 - f.mbits)
  have odd_top : 1 % 2 = (2 ^ (f.mbits + 1) - 1) % 2 := by have := Nat.one_le_two_pow (n := f.mbits); omega
  have value_pos := nat_mul_zpow_pos pos (e - (f.emin - 1 - f.mbits))
  have away := roundsAway_iff (mode := mode) (two_zpow_pos _) value_pos units (realOf_fin_neg_iff pos) odd_top
  obtain ⟨n, below, above, up, stay, -⟩ := roundMag_rounds mode neg m e (f.emin - 1 - f.mbits)
  have top_lt : 2 ^ (f.mbits + 1) - 1 + 1 = 2 ^ (f.mbits + 1) := Nat.sub_add_cancel Nat.one_le_two_pow
  rw [← abs_realOf_fin neg, two_zpow_emin, units, mul_lt_mul_iff_left₀ (two_zpow_pos _)] at hi
  rw [Tiny, tiny_top, two_zpow_emin, away, units, mul_le_mul_iff_left₀ (two_zpow_pos _), mul_lt_mul_iff_left₀ (two_zpow_pos _)]
  generalize (m : ℝ) * 2 ^ (e - (f.emin - 1 - f.mbits)) = y at *
  generalize 2 ^ (f.mbits + 1) - 1 = top at *
  have n_le : n ≤ top := by
    have : (n : ℝ) < top + 1 := below.trans_lt hi
    exact Nat.lt_succ_iff.mp (by exact_mod_cast this)
  rcases Nat.lt_or_eq_of_le n_le with short | rfl
  · have y_le : y ≤ top := above.le.trans (by exact_mod_cast short)
    refine iff_of_true (.inl y_le) ?_
    by_cases goes : GoesUp mode neg y n
    · rw [up goes]; omega
    · rw [stay goes]; omega
  · by_cases goes : GoesUp mode neg y n
    · refine iff_of_false ?_ (not_not.mpr ((up goes).trans top_lt))
      rintro (low | ⟨-, stays⟩)
      · exact goes.1 (le_antisymm low below)
      · exact stays goes
    · exact iff_of_true (.inr ⟨hi, goes⟩) (by rw [stay goes]; omega)

/-- R123: the test of tininess. -/
theorem tiny_iff (pos : 0 < m) (lo : (2 : ℝ) ^ lead ≤ m * 2 ^ e) (hi : (m : ℝ) * 2 ^ e < 2 ^ (lead + 1)) :
    (decide (lead < f.emin) && !(decide (lead = f.emin - 1) &&
      decide ((roundMag mode neg m e (lead - (f.mbits : Int))).1 = 2 ^ (f.mbits + 1)))) = true ↔
    Tiny f mode (realOf (.fin neg m e)) := by
  rcases lt_trichotomy lead (f.emin - 1) with deep | last | normal
  · refine iff_of_true (by simp [show lead < f.emin by omega, show lead ≠ f.emin - 1 by omega]) (tiny_of_below ?_)
    rw [abs_realOf_fin]
    exact hi.trans_le (two_zpow_le (by omega))
  · rw [last, sub_add_cancel] at hi
    rw [tiny_iff_last pos hi, last]
    simp
  · refine iff_of_false (by simp [show ¬ lead < f.emin by omega]) (not_tiny_of_normal ?_)
    rw [abs_realOf_fin]
    exact (two_zpow_le (by omega)).trans lo

/-! ## The code delivered (R123, R133) -/

/-- R123: the flags of a result that does not overflow: NX, and UF. -/
theorem inexact_flags (inexact tiny : Bool) :
    let r := flagIf inexact flagNX ||| flagIf (inexact && tiny) flagUF
    (r.getLsbD 0 = false ∧ r.getLsbD 1 = false ∧ r.getLsbD 2 = false ∧ r.getLsbD 5 = false ∧ r.getLsbD 6 = false) ∧
    r.getLsbD 4 = inexact ∧ r.getLsbD 3 = (inexact && tiny) := by
  revert inexact tiny
  decide

/-- R123, R133: what a conversion delivers for a rounded code. -/
def codeResult (f : FloatFmt) (mode : Rounding) (sat neg : Bool) (code : Nat) (inexact tiny : Bool) : Coded :=
  if f.largest < code then (overflowCode f mode sat neg, flagOF ||| flagNX)
  else (f.signed neg code, flagIf inexact flagNX ||| flagIf (inexact && tiny) flagUF)

/-- R123, R124, R133: roundFinite rounds the value to a code, and delivers what that code gives with and without SAT. -/
theorem roundFinite_codeResult (mode : Rounding) (neg : Bool) (e : Int) (hm : 1 ≤ f.mbits) (pos : 0 < m) :
    ∃ code inexact tiny, CodeRounds f mode (realOf (.fin neg m e)) code inexact ∧
      (tiny = true ↔ Tiny f mode (realOf (.fin neg m e))) ∧
      ∀ sat, roundFinite f mode sat neg m e = codeResult f mode sat neg code inexact tiny := by
  obtain ⟨lo, hi⟩ := lead_bounds e pos
  exact ⟨_, _, _, roundMag_codeRounds hm pos lo hi rfl, tiny_iff pos lo hi, fun _ => rfl⟩

/-- R123, R124, R133: a finite nonzero value is rounded once. -/
theorem roundFinite_rounded (hm : 1 ≤ f.mbits) (pos : 0 < m) :
    Rounded f mode (realOf (.fin neg m e)) (roundFinite f mode false neg m e) := by
  obtain ⟨code, inexact, tiny, ⟨n, below, above, up, stay, hinexact⟩, htiny, result⟩ := roundFinite_codeResult mode neg e hm pos
  have sign : decide (realOf (.fin neg m e) < 0) = neg := by
    rw [Bool.eq_iff_iff, decide_eq_true_iff, realOf_fin_neg_iff pos]
  refine ⟨n, code, below, above, up, stay, ?_⟩
  rw [sign, result, codeResult]
  split
  · rfl
  · obtain ⟨quiet, nx, uf⟩ := inexact_flags inexact tiny
    exact ⟨rfl, quiet, by rw [nx, hinexact], by rw [uf, Bool.and_eq_true, hinexact, htiny]⟩

/-- R133: with SAT = 1 only an overflow delivers something else. -/
theorem roundFinite_saturating (hm : 1 ≤ f.mbits) (pos : 0 < m) :
    roundFinite f mode true neg m e = saturating f neg (roundFinite f mode false neg m e) := by
  obtain ⟨code, inexact, tiny, -, -, result⟩ := roundFinite_codeResult (f := f) mode neg e hm pos
  rw [result, result, codeResult, codeResult]
  split
  · have overflow : (flagOF ||| flagNX).getLsbD 2 = true := by decide
    exact (if_pos overflow).symm
  · obtain ⟨⟨-, -, no_overflow, -, -⟩, -, -⟩ := inexact_flags inexact tiny
    exact (if_neg (by rw [no_overflow]; exact Bool.false_ne_true)).symm

end

end Sys2Proof.Machine

/-!
SUPPORT. Quotients and roots are held with a last bit that says whether anything was cut off (R240): they round as the exact value does.
-/

namespace Sys2Proof.Machine

open Sys2Proof.Claims

/-! ## Values that no boundary parts -/

/-- x and y lie on one side of b, and neither is b. -/
def SameSide (b x y : ℝ) : Prop := (x < b ∧ y < b) ∨ (b < x ∧ b < y)

section
variable {b x y : ℝ}

theorem SameSide.lt_left_iff (h : SameSide b x y) : b < x ↔ b < y := by
  rcases h with ⟨hx, hy⟩ | ⟨hx, hy⟩
  · exact iff_of_false hx.not_gt hy.not_gt
  · exact iff_of_true hx hy

theorem SameSide.lt_right_iff (h : SameSide b x y) : x < b ↔ y < b := by
  rcases h with ⟨hx, hy⟩ | ⟨hx, hy⟩
  · exact iff_of_true hx hy
  · exact iff_of_false hx.not_gt hy.not_gt

theorem SameSide.ne_left (h : SameSide b x y) : x ≠ b := by
  rcases h with ⟨hx, -⟩ | ⟨hx, -⟩
  · exact hx.ne
  · exact hx.ne'

theorem SameSide.ne_right (h : SameSide b x y) : y ≠ b := by
  rcases h with ⟨-, hy⟩ | ⟨-, hy⟩
  · exact hy.ne
  · exact hy.ne'

theorem SameSide.le_right_iff (h : SameSide b x y) : x ≤ b ↔ y ≤ b := by
  rw [le_iff_lt_or_eq, le_iff_lt_or_eq, or_iff_left h.ne_left, or_iff_left h.ne_right, h.lt_right_iff]

/-- An odd multiple of a unit, and what lies between its neighbours, are on one side of every multiple of twice the unit. -/
theorem sameSide_of_odd {v : Nat} {g h : ℤ} (odd : v % 2 = 1) (lo : ((v : ℝ) - 1) * 2 ^ g < x) (hi : x < (v + 1) * 2 ^ g) (j : Nat)
    (coarse : g + 1 ≤ h) : SameSide (j * 2 ^ h) x (v * 2 ^ g) := by
  have unit_pos := two_zpow_pos g
  obtain ⟨d, hd⟩ := Int.eq_ofNat_of_zero_le (sub_nonneg.mpr coarse)
  have boundary : (j : ℝ) * 2 ^ h = (2 * (j * 2 ^ d) : Nat) * 2 ^ g := by
    rw [show h = (d : ℤ) + 1 + g by omega, two_zpow_add, two_zpow_add, zpow_natCast, zpow_one]
    push_cast
    ring
  rw [boundary]
  generalize j * 2 ^ d = w
  rcases Nat.lt_or_ge (2 * w) v with below | above
  · have : ((2 * w : Nat) : ℝ) ≤ v - 1 := by
      rw [le_sub_iff_add_le]
      exact_mod_cast below
    exact .inr ⟨by nlinarith, mul_lt_mul_of_pos_right (by linarith) unit_pos⟩
  · have : (v : ℝ) + 1 ≤ (2 * w : Nat) := by exact_mod_cast (show v + 1 ≤ 2 * w by omega)
    exact .inl ⟨by nlinarith, mul_lt_mul_of_pos_right (by linarith) unit_pos⟩

end

/-- A power of two of units. -/
theorem two_pow_mul_zpow (a : Nat) (h : ℤ) : ((2 ^ a : Nat) : ℝ) * 2 ^ h = 2 ^ ((a : ℤ) + h) := by
  rw [two_zpow_add, zpow_natCast, Nat.cast_pow, Nat.cast_ofNat]

/-! ## Rounding them -/

/-- Two values of one sign. -/
def SameSign (x y : ℝ) : Prop := (x < 0 ↔ y < 0) ∧ (0 < x ↔ 0 < y)

section
variable {f : FloatFmt} {mode : Rounding} {x y : ℝ}

/-- R124: which of two neighbours a value is rounded to depends on the sides of the lower one and of the middle. -/
theorem roundsAway_congr {lo hi : ℝ} {n : Nat} (sign : SameSign x y) (low : SameSide lo |x| |y|)
    (mid : SameSide ((lo + hi) / 2) |x| |y|) :
    RoundsAway mode x lo hi n ↔ RoundsAway mode y lo hi n := by
  unfold RoundsAway
  rw [iff_of_true low.ne_left low.ne_right]
  refine and_congr_right fun _ => ?_
  cases mode with
  | rn =>
    have twice (z : ℝ) : (lo + hi < 2 * z ↔ (lo + hi) / 2 < z) ∧ (lo + hi = 2 * z ↔ z = (lo + hi) / 2) := by
      constructor <;> constructor <;> intro <;> linarith
    rw [(twice _).1, (twice _).1, (twice _).2, (twice _).2, mid.lt_left_iff, iff_false_intro mid.ne_left, iff_false_intro mid.ne_right]
  | rz => rfl
  | rd => exact sign.1
  | ru => exact sign.2

/-- A code's magnitude and the next one, in the units of the last place. -/
theorem magnitude_pair (f : FloatFmt) (n : Nat) : ∃ j k : Nat, j < 2 ^ (f.mbits + 1) ∧
    magnitude f n = j * 2 ^ (f.emin - f.mbits + k) ∧ magnitude f (n + 1) = (j + 1 : Nat) * 2 ^ (f.emin - f.mbits + k) := by
  have twice : 2 ^ (f.mbits + 1) = 2 * 2 ^ f.mbits := pow_succ' 2 f.mbits
  have pos : 0 < 2 ^ f.mbits := by positivity
  obtain ⟨j, k, normal, hj, rfl⟩ : ∃ j k, (k = 0 ∨ 2 ^ f.mbits ≤ j) ∧ j < 2 ^ (f.mbits + 1) ∧ n = k * 2 ^ f.mbits + j := by
    rcases Nat.lt_or_ge n (2 ^ f.mbits) with small | large
    · exact ⟨n, 0, .inl rfl, by omega, by omega⟩
    · obtain ⟨d, rfl⟩ := Nat.exists_eq_add_of_le large
      have := Nat.mod_lt d pos
      exact ⟨2 ^ f.mbits + d % 2 ^ f.mbits, d / 2 ^ f.mbits, .inr (by omega), by omega, by
        have := Nat.div_add_mod' d (2 ^ f.mbits)
        omega⟩
  exact ⟨j, k, hj, magnitude_code f normal hj.le, magnitude_code f (n := j + 1) (normal.imp_right (by omega)) (by omega)⟩

/-- The middle of two neighbours. -/
theorem middle_eq (j : Nat) (h : ℤ) : ((j : ℝ) * 2 ^ h + (j + 1 : Nat) * 2 ^ h) / 2 = (2 * j + 1 : Nat) * 2 ^ (h - 1) := by
  rw [show h = h - 1 + 1 by ring, two_zpow_add, add_sub_cancel_right, zpow_one]
  push_cast
  ring

variable {neg : Bool} {v : Nat} {g : ℤ}

/-- R123: no boundary of tininess parts the two values. -/
theorem tiny_of_odd (long : 2 ^ (f.mbits + 3) ≤ v) (odd : v % 2 = 1) (sign : SameSign x y) (hy : |y| = v * 2 ^ g)
    (lo : ((v : ℝ) - 1) * 2 ^ g < |x|) (hi : |x| < (v + 1) * 2 ^ g) : Tiny f mode x ↔ Tiny f mode y := by
  by_cases fine : g + 1 ≤ f.emin - 1 - f.mbits - 1
  · have side (j : Nat) {h : ℤ} (hh : f.emin - 1 - f.mbits - 1 ≤ h) : SameSide (j * 2 ^ h) |x| |y| :=
      hy ▸ sameSide_of_odd odd lo hi j (fine.trans hh)
    have top := side (2 ^ (f.mbits + 1) - 1) (h := f.emin - 1 - f.mbits) (by omega)
    have normal := side (2 ^ (f.mbits + 1) - 1 + 1) (h := f.emin - 1 - f.mbits) (by omega)
    have mid := side (2 * (2 ^ (f.mbits + 1) - 1) + 1) le_rfl
    rw [← middle_eq] at mid
    rw [Nat.cast_add_one] at normal mid
    rw [Tiny, Tiny, tiny_top, two_zpow_emin, top.le_right_iff, normal.lt_right_iff, roundsAway_congr sign top mid]
  · have large : (2 : ℝ) ^ f.emin ≤ ((v : ℝ) - 1) * 2 ^ g := calc
      (2 : ℝ) ^ f.emin ≤ 2 ^ (((f.mbits + 3 : Nat) : ℤ) + g) := two_zpow_le (by omega)
      _ = (2 ^ (f.mbits + 3) : Nat) * 2 ^ g := (two_pow_mul_zpow _ _).symm
      _ ≤ ((v : ℝ) - 1) * 2 ^ g := by
        refine mul_le_mul_of_nonneg_right ?_ (two_zpow_pos g).le
        have : 2 ^ (f.mbits + 3) + 1 ≤ v := by
          have : 2 ^ (f.mbits + 3) = 2 * 2 ^ (f.mbits + 2) := pow_succ' 2 _
          omega
        rw [le_sub_iff_add_le]
        exact_mod_cast this
    refine iff_of_false (not_tiny_of_normal (large.trans lo.le)) (not_tiny_of_normal (large.trans ?_))
    rw [hy]
    exact mul_le_mul_of_nonneg_right (by linarith) (two_zpow_pos g).le

/-- R124, R240: an odd number of units, longer than the format's precision and its next two bits, rounds as every value between its
neighbours does. -/
theorem rounded_of_odd {r : Coded} (long : 2 ^ (f.mbits + 3) ≤ v) (odd : v % 2 = 1) (sign : SameSign x y) (hy : |y| = v * 2 ^ g)
    (lo : ((v : ℝ) - 1) * 2 ^ g < |x|) (hi : |x| < (v + 1) * 2 ^ g) (h : Rounded f mode y r) : Rounded f mode x r := by
  obtain ⟨n, code, below, above, up, stay, result⟩ := h
  obtain ⟨j, k, hj, here, following⟩ := magnitude_pair f n
  have fine : g + 2 ≤ f.emin - f.mbits + k := by
    have : (2 : ℝ) ^ (((f.mbits + 3 : Nat) : ℤ) + g) < 2 ^ (((f.mbits + 1 : Nat) : ℤ) + (f.emin - f.mbits + k)) := calc
      (2 : ℝ) ^ (((f.mbits + 3 : Nat) : ℤ) + g) = (2 ^ (f.mbits + 3) : Nat) * 2 ^ g := (two_pow_mul_zpow _ _).symm
      _ ≤ v * 2 ^ g := mul_le_mul_of_nonneg_right (by exact_mod_cast long) (two_zpow_pos g).le
      _ = |y| := hy.symm
      _ < (j + 1 : Nat) * 2 ^ (f.emin - f.mbits + k) := following ▸ above
      _ ≤ (2 ^ (f.mbits + 1) : Nat) * 2 ^ (f.emin - f.mbits + k) :=
        mul_le_mul_of_nonneg_right (by exact_mod_cast hj) (two_zpow_pos _).le
      _ = 2 ^ (((f.mbits + 1 : Nat) : ℤ) + (f.emin - f.mbits + k)) := two_pow_mul_zpow _ _
    have := (zpow_lt_zpow_iff_right₀ one_lt_two).mp this
    omega
  have side (j : Nat) {h : ℤ} (hh : f.emin - f.mbits + k - 1 ≤ h) : SameSide (j * 2 ^ h) |x| |y| :=
    hy ▸ sameSide_of_odd odd lo hi j (by omega)
  have low : SameSide (magnitude f n) |x| |y| := here ▸ side j (by omega)
  have high : SameSide (magnitude f (n + 1)) |x| |y| := following ▸ side (j + 1) (by omega)
  have mid : SameSide ((magnitude f n + magnitude f (n + 1)) / 2) |x| |y| := by
    rw [here, following, middle_eq]
    exact side (2 * j + 1) le_rfl
  refine ⟨n, code, ?_, high.lt_right_iff.mpr above, ?_, ?_, ?_⟩
  · exact (low.lt_left_iff.mpr (lt_of_le_of_ne below low.ne_right.symm)).le
  · rwa [roundsAway_congr sign low mid]
  · rwa [roundsAway_congr sign low mid]
  · rwa [decide_eq_decide.mpr sign.1, tiny_of_odd long odd sign hy lo hi, iff_of_true low.ne_left low.ne_right]

end

end Sys2Proof.Machine

/-!
SUPPORT. Exact results as real numbers (R239, R240): sums and products are exact, quotients and roots round as the exact value does.
-/

namespace Sys2Proof.Machine

open Sys2Proof.Claims

/-! ## Sums and products -/

@[simp] theorem realOf_zero (neg : Bool) : realOf (.zero neg) = 0 := rfl

theorem realOf_fin (neg : Bool) (m : Nat) (e : Int) : realOf (.fin neg m e) = (if neg then -1 else 1) * (m : ℝ) * 2 ^ e := rfl

theorem isFinite_ofInt (t q : Int) : isFinite (Num.ofInt t q) = true := by
  unfold Num.ofInt; split <;> rfl

theorem realOf_ofInt (t q : Int) : realOf (Num.ofInt t q) = t * 2 ^ q := by
  unfold Num.ofInt
  split
  · next h => simp [h]
  · rw [realOf_fin]
    congr 1
    rcases lt_or_ge t 0 with neg | pos
    · rw [decide_eq_true neg, if_pos rfl, Nat.cast_natAbs, abs_of_neg neg]; push_cast; ring
    · rw [decide_eq_false pos.not_gt, if_neg Bool.false_ne_true, Nat.cast_natAbs, abs_of_nonneg pos, one_mul]

/-- An integer times a power of two, with a sign of its own for zero. -/
theorem zeroOrInt_real (t q : Int) (s : Bool) : isFinite (if t = 0 then .zero s else Num.ofInt t q) = true ∧
    realOf (if t = 0 then .zero s else Num.ofInt t q) = t * 2 ^ q := by
  split
  · next h => exact ⟨rfl, by simp [h]⟩
  · exact ⟨isFinite_ofInt t q, realOf_ofInt t q⟩

theorem isFinite_negate (x : Num) : isFinite x.negate = isFinite x := by cases x <;> rfl

theorem realOf_negate (x : Num) : realOf x.negate = -realOf x := by
  cases x with
  | fin neg m e => cases neg <;> simp [Num.negate, realOf_fin]
  | _ => simp [Num.negate, realOf]

/-- A value in units of a power of two below its own. -/
theorem realOf_fin_units (neg : Bool) (m : Nat) {e q : Int} (h : q ≤ e) :
    realOf (.fin neg m e) =
      ((if neg then -((m * 2 ^ (e - q).toNat : Nat) : Int) else (m * 2 ^ (e - q).toNat : Nat) : Int) : ℝ) * 2 ^ q := by
  obtain ⟨d, hd⟩ := Int.eq_ofNat_of_zero_le (sub_nonneg.mpr h)
  rw [realOf_fin, hd, show e = (d : ℤ) + q by omega, two_zpow_add, zpow_natCast]
  cases neg <;> (simp; ring)

/-- R239: the sum of finite values is exact. -/
theorem exactSum_real (mode : Rounding) {x y : Num} (hx : isFinite x = true) (hy : isFinite y = true) :
    ∃ z, exactSum mode x y = some z ∧ isFinite z = true ∧ realOf z = realOf x + realOf y := by
  cases x with
  | nan b => cases hx
  | inf b => cases hx
  | zero a =>
    cases y with
    | nan b => cases hy
    | inf b => cases hy
    | zero b => exact ⟨_, rfl, rfl, by simp⟩
    | fin b n g => exact ⟨_, rfl, rfl, by simp⟩
  | fin a m e =>
    cases y with
    | nan b => cases hy
    | inf b => cases hy
    | zero b => exact ⟨_, rfl, rfl, by simp⟩
    | fin b n g =>
      refine ⟨_, rfl, (zeroOrInt_real _ _ _).1, (zeroOrInt_real _ _ _).2.trans ?_⟩
      rw [realOf_fin_units a m (min_le_left e g), realOf_fin_units b n (min_le_right e g), ← add_mul, ← Int.cast_add]

/-- R239: the product of finite values is exact. -/
theorem exactProduct_real {x y : Num} (hx : isFinite x = true) (hy : isFinite y = true) :
    ∃ z, exactProduct x y = some z ∧ isFinite z = true ∧ realOf z = realOf x * realOf y := by
  cases x with
  | nan b => cases hx
  | inf b => cases hx
  | zero a =>
    cases y with
    | nan b => cases hy
    | inf b => cases hy
    | zero b => exact ⟨_, rfl, rfl, by simp⟩
    | fin b n g => exact ⟨_, rfl, rfl, by simp⟩
  | fin a m e =>
    cases y with
    | nan b => cases hy
    | inf b => cases hy
    | zero b => exact ⟨_, rfl, rfl, by simp⟩
    | fin b n g =>
      refine ⟨_, rfl, rfl, ?_⟩
      rw [realOf_fin, realOf_fin, realOf_fin, two_zpow_add]
      cases a <;> cases b <;> (simp [Num.sign]; ring)

/-! ## What stands for a value cut off -/

/-- R240: v · 2^g is x, or it is odd and longer than `bits` bits, and x lies between its neighbours. -/
def StandsFor (bits v : Nat) (g : ℤ) (x : ℝ) : Prop :=
  x = v * 2 ^ g ∨ (v % 2 = 1 ∧ 2 ^ bits ≤ v ∧ ((v : ℝ) - 1) * 2 ^ g < x ∧ x < (v + 1) * 2 ^ g)

theorem StandsFor.scale {bits v : Nat} {g : ℤ} {x : ℝ} (h : StandsFor bits v g x) (k : ℤ) : StandsFor bits v (k + g) (2 ^ k * x) := by
  have pos := two_zpow_pos k
  unfold StandsFor
  simp only [two_zpow_add, mul_left_comm _ ((2 : ℝ) ^ k), mul_right_inj' pos.ne', mul_lt_mul_iff_right₀ pos]
  exact h

theorem StandsFor.shorter {a b v : Nat} {g : ℤ} {x : ℝ} (h : StandsFor b v g x) (le : a ≤ b) : StandsFor a v g x :=
  h.imp_right fun ⟨odd, long, lo, hi⟩ => ⟨odd, (Nat.pow_le_pow_right two_pos le).trans long, lo, hi⟩

/-- Twice the whole part of a value, and a last bit that says whether it is whole. -/
theorem standsFor_whole {bits a : Nat} {x : ℝ} {p : Prop} [Decidable p] (lo : (a : ℝ) ≤ x) (hi : x < a + 1) (long : 2 ^ bits ≤ a)
    (whole : p ↔ x = a) : StandsFor bits (2 * a + if p then 0 else 1) (-1) x := by
  by_cases h : p
  · left
    rw [if_pos h, whole.mp h, zpow_neg_one]
    push_cast
    ring
  · have : (a : ℝ) < x := lt_of_le_of_ne lo (Ne.symm (mt whole.mpr h))
    right
    rw [if_neg h, zpow_neg_one]
    push_cast
    exact ⟨by omega, by omega, by linarith, by linarith⟩

/-- R240: quotientWith stands for the quotient. -/
theorem quotientWith_standsFor (bits : Nat) {m n : Nat} (hm : 0 < m) (hn : 0 < n) :
    StandsFor bits (quotientWith bits m n).1 (quotientWith bits m n).2 ((m : ℝ) / n) := by
  have n_pos : (0 : ℝ) < n := by exact_mod_cast hn
  have whole := div_eq_quotient_add (m * 2 ^ (bits + bitLength n)) hn
  have long : 2 ^ bits ≤ m * 2 ^ (bits + bitLength n) / n := by
    rw [Nat.le_div_iff_mul_le hn, pow_add]
    calc 2 ^ bits * n ≤ 2 ^ bits * 2 ^ bitLength n := Nat.mul_le_mul_left _ (lt_two_pow_bitLength n).le
      _ ≤ m * (2 ^ bits * 2 ^ bitLength n) := Nat.le_mul_of_pos_left _ hm
  have part : (0 : ℝ) ≤ (m * 2 ^ (bits + bitLength n) % n : Nat) / n := by positivity
  have part_lt : ((m * 2 ^ (bits + bitLength n) % n : Nat) : ℝ) / n < 1 := (div_lt_one n_pos).mpr (by exact_mod_cast Nat.mod_lt _ hn)
  have stands := standsFor_whole (p := m * 2 ^ (bits + bitLength n) % n = 0) (x := ((m * 2 ^ (bits + bitLength n) : Nat) : ℝ) / n)
    (by linarith) (by linarith) long (by
      rw [whole, add_eq_left, div_eq_zero_iff, or_iff_left n_pos.ne', Nat.cast_eq_zero])
  have scaled := stands.scale (-((bits + bitLength n : Nat) : ℤ))
  have quotient : (2 : ℝ) ^ (-((bits + bitLength n : Nat) : ℤ)) * (((m * 2 ^ (bits + bitLength n) : Nat) : ℝ) / n) = m / n := by
    rw [zpow_neg, zpow_natCast]
    push_cast
    field_simp
  rw [quotient] at scaled
  exact scaled

/-- The digits of a square root, from bit k down. -/
theorem isqrtFrom_bounds (n : Nat) : ∀ k r, r * r ≤ n → n < (r + 2 ^ k) * (r + 2 ^ k) →
    isqrtFrom n k r * isqrtFrom n k r ≤ n ∧ n < (isqrtFrom n k r + 1) * (isqrtFrom n k r + 1)
  | 0, _, lo, hi => ⟨lo, hi⟩
  | k + 1, r, lo, hi => by
    rw [pow_succ', two_mul, ← add_assoc] at hi
    unfold isqrtFrom
    split
    · next fits => exact isqrtFrom_bounds n k _ fits hi
    · next above => exact isqrtFrom_bounds n k _ lo (not_le.mp above)

theorem isqrt_eq_sqrt (n : Nat) : isqrt n = Nat.sqrt n := by
  have start : n < (0 + 2 ^ (bitLength n / 2 + 1)) * (0 + 2 ^ (bitLength n / 2 + 1)) := by
    rw [zero_add, ← pow_add]
    exact (lt_two_pow_bitLength n).trans_le (Nat.pow_le_pow_right two_pos (by omega))
  obtain ⟨lo, hi⟩ := isqrtFrom_bounds n (bitLength n / 2 + 1) 0 (Nat.zero_le n) start
  exact Nat.eq_sqrt.mpr ⟨lo, hi⟩

/-- R240: the integer square root, with its last bit, stands for the square root. -/
theorem isqrt_standsFor {bits t : Nat} (long : 2 ^ (2 * bits) ≤ t) :
    StandsFor bits (2 * isqrt t + if isqrt t * isqrt t = t then 0 else 1) (-1) (Real.sqrt t) := by
  rw [isqrt_eq_sqrt]
  refine standsFor_whole Real.nat_sqrt_le_real_sqrt Real.real_sqrt_lt_nat_sqrt_succ ?_ ?_
  · rw [Nat.le_sqrt, ← pow_add, ← two_mul]
    exact long
  · rw [Real.sqrt_eq_iff_mul_self_eq (by positivity) (by positivity)]
    exact_mod_cast eq_comm

theorem exists_fin_of_ne_zero {z : Num} (finite : isFinite z = true) (nonzero : realOf z ≠ 0) :
    ∃ neg m e, z = .fin neg m e ∧ 0 < m := by
  cases z with
  | nan b => cases finite
  | inf b => cases finite
  | zero b => exact absurd rfl nonzero
  | fin neg m e => exact ⟨neg, m, e, rfl, Nat.pos_of_ne_zero fun h => nonzero (by simp [h, realOf_fin])⟩

/-! ## Rounding -/

section
variable {f : FloatFmt} {mode : Rounding} {neg : Bool} {v : Nat} {g : ℤ} {x : ℝ}

theorem realOf_eq_of_sign (sign : x < 0 ↔ neg = true) (h : |x| = v * 2 ^ g) : realOf (.fin neg v g) = x := by
  cases neg with
  | true =>
    rw [abs_of_neg (sign.mpr rfl)] at h
    rw [realOf_fin, if_pos rfl]
    linarith
  | false =>
    rw [abs_of_nonneg (not_lt.mp fun c => Bool.false_ne_true (sign.mp c))] at h
    rw [realOf_fin, if_neg Bool.false_ne_true, one_mul, h]

/-- R123, R124, R240: what stands for a value rounds as the value does. -/
theorem rounded_of_standsFor (hm : 1 ≤ f.mbits) (nonzero : x ≠ 0) (sign : x < 0 ↔ neg = true) (h : StandsFor (f.mbits + 3) v g |x|) :
    Rounded f mode x (roundFinite f mode false neg v g) := by
  rcases h with same | ⟨odd, long, lo, hi⟩
  · have hv : 0 < v := by
      rcases Nat.eq_zero_or_pos v with rfl | pos
      · exact absurd (abs_eq_zero.mp (by simpa using same)) nonzero
      · exact pos
    exact realOf_eq_of_sign sign same ▸ roundFinite_rounded hm hv
  · have hv : 0 < v := by omega
    have minus := sign.trans (realOf_fin_neg_iff (e := g) hv).symm
    have nonzero' := realOf_fin_ne_zero (neg := neg) (e := g) hv
    have plus : 0 < x ↔ 0 < realOf (.fin neg v g) := by
      rw [← not_le, ← not_le, le_iff_lt_or_eq, le_iff_lt_or_eq, or_iff_left nonzero, or_iff_left nonzero', minus]
    exact rounded_of_odd long odd ⟨minus, plus⟩ (abs_realOf_fin neg v g) lo hi (roundFinite_rounded hm hv)

theorem deliver_some (f : FloatFmt) (mode : Rounding) (z : Num) : deliver f mode (some z) 0 = encodeFloat f mode false z := by
  simp [deliver]

/-- R239: an exact result that is not zero is rounded once. -/
theorem rounded_encodeFloat (hm : 1 ≤ f.mbits) {z : Num} (finite : isFinite z = true) (nonzero : realOf z ≠ 0) :
    Rounded f mode (realOf z) (encodeFloat f mode false z) := by
  obtain ⟨neg, m, e, rfl, pos⟩ := exists_fin_of_ne_zero finite nonzero
  exact roundFinite_rounded hm pos

/-- R240: a quotient of values that are not zero. -/
theorem rounded_quotient (hm : 1 ≤ f.mbits) {a b : Bool} {m n : Nat} {e g : Int} (pos : 0 < m) (pos' : 0 < n) :
    let q := exactQuotient f (.fin a m e) (.fin b n g)
    Rounded f mode (realOf (.fin a m e) / realOf (.fin b n g)) (deliver f mode q.1 q.2) := by
  have stands := ((quotientWith_standsFor (f.mbits + 4) pos pos').shorter (Nat.le_succ _)).scale (e - g)
  have size : |realOf (.fin a m e) / realOf (.fin b n g)| = 2 ^ (e - g) * ((m : ℝ) / n) := by
    rw [abs_div, abs_realOf_fin, abs_realOf_fin, zpow_sub₀ two_ne_zero]
    field_simp
  have sign : realOf (.fin a m e) / realOf (.fin b n g) < 0 ↔ (a ^^ b) = true := by
    rw [div_neg_iff, realOf_fin_pos_iff pos, realOf_fin_pos_iff pos', realOf_fin_neg_iff pos, realOf_fin_neg_iff pos']
    cases a <;> cases b <;> simp
  have nonzero := div_ne_zero (realOf_fin_ne_zero (neg := a) (e := e) pos) (realOf_fin_ne_zero (neg := b) (e := g) pos')
  intro q
  rw [show q = (some (.fin (a ^^ b) _ _), 0) from rfl, deliver_some]
  exact rounded_of_standsFor hm nonzero sign (size ▸ stands)

/-- R240: the value m · 2^e with an even exponent, as exactRoot has it. -/
def evenMantissa (m : Nat) (e : Int) : Nat := if decide (e % 2 ≠ 0) then 2 * m else m
def halfExponent (e : Int) : Int := (if decide (e % 2 ≠ 0) then e - 1 else e) / 2

theorem evenMantissa_mul (m : Nat) (e : Int) : (evenMantissa m e : ℝ) * (2 ^ halfExponent e) ^ 2 = m * 2 ^ e := by
  unfold evenMantissa halfExponent
  rw [← zpow_natCast, ← zpow_mul]
  by_cases odd : e % 2 ≠ 0
  · rw [if_pos (decide_eq_true odd), if_pos (decide_eq_true odd), show e = (e - 1) / 2 * (2 : Nat) + 1 by omega, two_zpow_add, zpow_one,
      show ((e - 1) / 2 * (2 : Nat) + 1 - 1) / 2 = (e - 1) / 2 by omega]
    push_cast
    ring
  · rw [if_neg (by simpa using odd), if_neg (by simpa using odd), show e / 2 * (2 : Nat) = e by omega]

theorem evenMantissa_pos {m : Nat} (h : 0 < m) (e : Int) : 0 < evenMantissa m e := by
  unfold evenMantissa
  split
  · omega
  · exact h

/-- R240: the square root of a positive value. -/
theorem rounded_root (hm : 1 ≤ f.mbits) {m : Nat} (e : Int) (pos : 0 < m) :
    Rounded f mode (Real.sqrt (realOf (.fin false m e))) (deliver f mode (exactRoot f (.fin false m e)) 0) := by
  let k := f.mbits + 4
  let t := evenMantissa m e * 2 ^ (2 * k)
  have long : 2 ^ (2 * k) ≤ t := Nat.le_mul_of_pos_left _ (evenMantissa_pos pos e)
  have stands := ((isqrt_standsFor long).shorter (Nat.le_succ _)).scale (halfExponent e - k)
  have value : realOf (.fin false m e) = (2 ^ (halfExponent e - k)) ^ 2 * (t : ℝ) := by
    rw [realOf_fin, if_neg Bool.false_ne_true, one_mul, ← evenMantissa_mul, zpow_sub₀ two_ne_zero, zpow_natCast, div_pow, ← pow_mul,
      mul_comm k 2, Nat.cast_mul, Nat.cast_pow, Nat.cast_ofNat]
    field_simp
  have root : Real.sqrt (realOf (.fin false m e)) = 2 ^ (halfExponent e - k) * Real.sqrt t := by
    rw [value, Real.sqrt_mul (sq_nonneg _), Real.sqrt_sq (two_zpow_pos _).le]
  have root_pos : 0 < Real.sqrt (realOf (.fin false m e)) := Real.sqrt_pos.mpr ((realOf_fin_pos_iff pos).mpr rfl)
  rw [← root, ← abs_of_pos root_pos] at stands
  rw [show exactRoot f (.fin false m e) = some (.fin false _ _) from rfl, deliver_some]
  exact rounded_of_standsFor hm root_pos.ne' (iff_of_false root_pos.not_gt Bool.false_ne_true) stands

end

end Sys2Proof.Machine

/-!
PROOF. O12: floating-point arithmetic is the exact real result rounded once (R123, R124, R133, R239, R240).
-/

namespace Sys2Proof.Machine

open Sys2Proof.Claims

theorem mbits_pos_of_mem {f : FloatFmt} (h : f ∈ arithmeticFormats) : 1 ≤ f.mbits := by
  revert f
  decide

theorem isNaN_of_finite {x : Num} (h : isFinite x = true) : x.isNaN = false := by
  cases x with
  | nan b => cases h
  | _ => rfl

/-- R239: an operation on finite values delivers its exact result. -/
theorem nanOr_of_finite {xs : List Num} (h : ∀ x ∈ xs, isFinite x = true) (f : FloatFmt) (r : Coded) : nanOr f xs r = r := by
  refine if_neg ?_
  rw [List.any_eq_true]
  rintro ⟨x, hx, nan⟩
  rw [isNaN_of_finite (h x hx)] at nan
  cases nan

/-- R239: an exact finite result that is not zero is delivered rounded once. -/
theorem rounded_deliver {f : FloatFmt} (hm : 1 ≤ f.mbits) {mode : Rounding} {r : Option Num} {x : ℝ}
    (h : ∃ z, r = some z ∧ isFinite z = true ∧ realOf z = x) (nonzero : x ≠ 0) : Rounded f mode x (deliver f mode r 0) := by
  obtain ⟨z, rfl, finite, rfl⟩ := h
  exact deliver_some f mode z ▸ rounded_encodeFloat hm finite nonzero

section
variable {f : FloatFmt} (hm : 1 ≤ f.mbits) (mode : Rounding) {a b c : Nat}
  (ha : isFinite (val f a) = true) (hb : isFinite (val f b) = true) (hc : isFinite (val f c) = true)
include hm ha

theorem floatSqrt_rounded (pos : 0 < realOf (val f a)) : Rounded f mode (Real.sqrt (realOf (val f a))) (floatSqrt f mode a) := by
  rw [floatSqrt, nanOr_of_finite (by simpa using ha)]
  obtain ⟨neg, m, e, he, hm0⟩ := exists_fin_of_ne_zero ha pos.ne'
  rw [show decodeFloat f a = _ from he]
  rw [he] at pos ⊢
  obtain rfl := (realOf_fin_pos_iff hm0).mp pos
  exact rounded_root hm e hm0

include hb

theorem floatAdd_rounded (h : realOf (val f a) + realOf (val f b) ≠ 0) :
    Rounded f mode (realOf (val f a) + realOf (val f b)) (floatAdd f mode a b) := by
  rw [floatAdd, nanOr_of_finite (by simpa using ⟨ha, hb⟩)]
  exact rounded_deliver hm (exactSum_real mode ha hb) h

theorem floatSub_rounded (h : realOf (val f a) - realOf (val f b) ≠ 0) :
    Rounded f mode (realOf (val f a) - realOf (val f b)) (floatSub f mode a b) := by
  rw [floatSub, nanOr_of_finite (by simpa using ⟨ha, hb⟩)]
  have sum := exactSum_real mode ha ((isFinite_negate _).trans hb)
  rw [realOf_negate, ← sub_eq_add_neg] at sum
  exact rounded_deliver hm sum h

theorem floatMul_rounded (h : realOf (val f a) * realOf (val f b) ≠ 0) :
    Rounded f mode (realOf (val f a) * realOf (val f b)) (floatMul f mode a b) := by
  rw [floatMul, nanOr_of_finite (by simpa using ⟨ha, hb⟩)]
  exact rounded_deliver hm (exactProduct_real ha hb) h

theorem floatDiv_rounded (h : realOf (val f a) ≠ 0) (h' : realOf (val f b) ≠ 0) :
    Rounded f mode (realOf (val f a) / realOf (val f b)) (floatDiv f mode a b) := by
  rw [floatDiv, nanOr_of_finite (by simpa using ⟨ha, hb⟩)]
  obtain ⟨neg, m, e, he, hm0⟩ := exists_fin_of_ne_zero ha h
  obtain ⟨neg', n, g, hg, hn0⟩ := exists_fin_of_ne_zero hb h'
  rw [show decodeFloat f a = _ from he, show decodeFloat f b = _ from hg, he, hg]
  exact rounded_quotient hm hm0 hn0

include hc

/-- R239: the product of the fused form is exact, so that one rounding is left. -/
theorem floatFma_rounded (h : realOf (val f a) * realOf (val f b) + realOf (val f c) ≠ 0) :
    Rounded f mode (realOf (val f a) * realOf (val f b) + realOf (val f c)) (floatFma f mode a b c) := by
  obtain ⟨p, product, finite, value⟩ := exactProduct_real ha hb
  rw [floatFma, isNaN_of_finite ha, isNaN_of_finite hb, if_neg (by simp), product]
  dsimp only
  rw [nanOr_of_finite (by simpa using hc)]
  rw [← value] at h ⊢
  exact rounded_deliver hm (exactSum_real mode finite hc) h

end

/-- Settles O12: the exact result is a finite value, or what stands for a quotient or a root, and roundFinite rounds it once. -/
theorem floatRounds : Obligations.FloatRounds := by
  rintro f hf m a b c x y z ⟨-, ha, rfl⟩ ⟨-, hb, rfl⟩ ⟨-, hc, rfl⟩
  have hm := mbits_pos_of_mem hf
  exact ⟨floatAdd_rounded hm m ha hb, floatSub_rounded hm m ha hb, floatMul_rounded hm m ha hb, floatFma_rounded hm m ha hb hc,
    floatDiv_rounded hm m ha hb, floatSqrt_rounded hm m ha⟩

end Sys2Proof.Machine

/-!
SUPPORT. Conversions between formats, integers and X64 (R133 to R135, R251, R252).
-/

namespace Sys2Proof.Machine

open Sys2Proof.Claims

/-! ## To the nearest integer (R135) -/

section
open Classical

variable {mode : Rounding} {y : ℝ} {n : Nat}

theorem nearestInt_int (mode : Rounding) (k : ℤ) : nearestInt mode (k : ℝ) = k := by
  cases mode <;> simp [nearestInt]

/-- Between two integers, a positive value. -/
theorem nearestInt_pos (lo : (n : ℝ) < y) (hi : y < n + 1) :
    nearestInt mode y = if GoesUp mode false y n then (n : ℤ) + 1 else n := by
  have floor : ⌊y⌋ = n := Int.floor_eq_iff.mpr ⟨by exact_mod_cast lo.le, by exact_mod_cast hi⟩
  have ceil : ⌈y⌉ = (n : ℤ) + 1 := Int.ceil_eq_iff.mpr ⟨by push_cast; linarith, by push_cast; linarith⟩
  have off : y ≠ n := lo.ne'
  have pos : 0 ≤ y := (Nat.cast_nonneg n).trans lo.le
  cases mode with
  | rn =>
    simp only [nearestInt, GoesUp, floor, off, ne_eq, not_false_eq_true, true_and, Int.cast_natCast]
    split_ifs <;> grind
  | rz => simp [nearestInt, GoesUp, floor, pos]
  | rd => simp [nearestInt, GoesUp, floor]
  | ru => simp [nearestInt, GoesUp, ceil, off]

/-- Between two integers, a negative value. -/
theorem nearestInt_neg (lo : (n : ℝ) < y) (hi : y < n + 1) :
    nearestInt mode (-y) = if GoesUp mode true y n then -((n : ℤ) + 1) else -n := by
  have floor : ⌊-y⌋ = -((n : ℤ) + 1) := Int.floor_eq_iff.mpr ⟨by push_cast; linarith, by push_cast; linarith⟩
  have ceil : ⌈-y⌉ = -(n : ℤ) := Int.ceil_eq_iff.mpr ⟨by push_cast; linarith, by push_cast; linarith⟩
  have off : y ≠ n := lo.ne'
  have neg : ¬ 0 ≤ -y := by have : (0 : ℝ) ≤ n := Nat.cast_nonneg n; linarith
  cases mode with
  | rn =>
    simp only [nearestInt, GoesUp, floor, off, ne_eq, not_false_eq_true, true_and]
    push_cast
    split_ifs <;> grind
  | rz => simp [nearestInt, GoesUp, ceil, neg]
  | rd => simp [nearestInt, GoesUp, floor, off]
  | ru => simp [nearestInt, GoesUp, ceil]

/-- R135: a rounded magnitude, with its sign, is the nearest integer, and its mark says whether that is the value. -/
theorem nearestInt_of_rounds {neg : Bool} {r : Nat × Bool} (h : RoundsMag mode neg y r) :
    let x := if neg then -y else y
    nearestInt mode x = (if neg then -(r.1 : ℤ) else r.1) ∧ (r.2 = true ↔ ((nearestInt mode x : ℤ) : ℝ) ≠ x) := by
  obtain ⟨n, lo, hi, up, stay, inexact⟩ := h
  rcases eq_or_lt_of_le lo with rfl | lo
  · have x_int : (if neg then -(n : ℝ) else n) = ((if neg then -(n : ℤ) else n : ℤ) : ℝ) := by split <;> push_cast <;> rfl
    have code : r.1 = n := stay fun goes => goes.1 rfl
    simp only [x_int, nearestInt_int, code, true_and, inexact, ne_eq, not_true_eq_false]
  · have near : nearestInt mode (if neg then -y else y) = if neg then -(r.1 : ℤ) else r.1 := by
      cases neg with
      | true =>
        rw [if_pos rfl, if_pos rfl, nearestInt_neg lo hi]
        split
        · next goes => rw [up goes]; push_cast; rfl
        · next stays => rw [stay stays]
      | false =>
        rw [if_neg Bool.false_ne_true, if_neg Bool.false_ne_true, nearestInt_pos lo hi]
        split
        · next goes => rw [up goes]; push_cast; rfl
        · next stays => rw [stay stays]
    have off : (r.1 : ℝ) ≠ y := by
      by_cases goes : GoesUp mode neg y n
      · rw [up goes]; push_cast; exact hi.ne'
      · rw [stay goes]; exact lo.ne
    refine ⟨near, iff_of_true (inexact.mpr lo.ne') ?_⟩
    rw [near]
    cases neg with
    | true => simpa using off
    | false => simpa using off

theorem realOf_fin_signed (neg : Bool) (m : Nat) (e : Int) :
    realOf (.fin neg m e) = if neg then -((m : ℝ) * 2 ^ e) else (m : ℝ) * 2 ^ e := by
  cases neg <;> simp [realOf_fin]

/-- R135: roundMag gives the nearest integer of a finite value. -/
theorem nearestInt_roundMag (mode : Rounding) (neg : Bool) (m : Nat) (e : Int) :
    let r := roundMag mode neg m e 0
    let x := realOf (.fin neg m e)
    nearestInt mode x = (if neg then -(r.1 : ℤ) else r.1) ∧ (r.2 = true ↔ ((nearestInt mode x : ℤ) : ℝ) ≠ x) := by
  have rounds := roundMag_rounds mode neg m e 0
  rw [sub_zero] at rounds
  rw [realOf_fin_signed]
  exact nearestInt_of_rounds rounds

/-! ## To integers and to X64 (R134, R135, R251, R252) -/

theorem intRange_eq (n : Nat) (sg : Bool) : intRange n sg = (leastInt n sg, greatestInt n sg) := by cases sg <;> rfl

theorem flagIf_inexact {b : Bool} {p : Prop} (h : b = true ↔ ¬ p) (f : Flags) : flagIf b f = if p then 0 else f := by
  unfold flagIf
  by_cases hp : p
  · rw [if_pos hp, if_neg (fun hb => h.mp hb hp)]
  · rw [if_neg hp, if_pos (h.mpr hp)]

theorem leastInt_nonpos (n : Nat) (sg : Bool) : leastInt n sg ≤ 0 := by
  unfold leastInt
  split
  · exact neg_nonpos.mpr (by positivity)
  · rfl

theorem greatestInt_nonneg (n : Nat) (sg : Bool) : 0 ≤ greatestInt n sg := by
  have pos (k : Nat) : (1 : ℤ) ≤ 2 ^ k := one_le_pow₀ one_le_two
  unfold greatestInt
  split
  · exact sub_nonneg.mpr (pos _)
  · exact sub_nonneg.mpr (pos _)

/-- R134, R135: a value is converted to the nearest integer, clamped to the range of the type. -/
theorem roundToInt_toInteger (mode : Rounding) (n : Nat) (sg : Bool) (x : Num) :
    (wrap (roundToInt mode (leastInt n sg) (greatestInt n sg) x).1 n, (roundToInt mode (leastInt n sg) (greatestInt n sg) x).2) =
      toInteger mode n sg x := by
  cases x with
  | nan b => simp [roundToInt, toInteger, wrap]
  | inf b => rfl
  | zero b =>
    have near : nearestInt mode 0 = 0 := by exact_mod_cast nearestInt_int mode 0
    simp [roundToInt, toInteger, near, (leastInt_nonpos n sg).not_gt, (greatestInt_nonneg n sg).not_gt, intCode, wrap]
  | fin neg m e =>
    obtain ⟨near, inexact⟩ := nearestInt_roundMag mode neg m e
    simp only [roundToInt, toInteger, ← near, flagIf_inexact inexact]
    split
    · rfl
    · split <;> rfl

/-- R252: the value of a code of X64, times 2^32. -/
theorem realOf_fin_mul (neg : Bool) (m : Nat) (e : Int) (k : Nat) : realOf (.fin neg m (e + k)) = realOf (.fin neg m e) * 2 ^ k := by
  rw [realOf_fin, realOf_fin, two_zpow_add, zpow_natCast, ← mul_assoc]

/-- R135, R252: a value is converted to X64. -/
theorem roundToX64_toFixed (mode : Rounding) (sat : Bool) (x : Num) : roundToX64 mode sat x = toFixed mode sat x := by
  cases x with
  | nan b => rfl
  | inf b => rfl
  | zero b =>
    have near : nearestInt mode 0 = 0 := by exact_mod_cast nearestInt_int mode 0
    have least : ¬ (0 < leastInt 64 true) := by decide
    have greatest : ¬ (greatestInt 64 true < 0) := by decide
    simp [roundToX64, roundToInt, toFixed, near, least, greatest, intCode, wrap]
  | fin neg m e =>
    obtain ⟨near, inexact⟩ := nearestInt_roundMag mode neg m (e + (32 : Nat))
    rw [realOf_fin_mul] at near inexact
    simp only [roundToX64, toFixed, Nat.cast_ofNat] at near inexact ⊢
    rw [← near, flagIf_inexact inexact, show -(2 : Int) ^ 63 = leastInt 64 true from rfl,
      show (2 : Int) ^ 63 - 1 = greatestInt 64 true from rfl]
    generalize nearestInt mode (realOf (.fin neg m e) * 2 ^ 32) = k
    have room : leastInt 64 true ≤ greatestInt 64 true := by decide
    rcases lt_or_ge k (leastInt 64 true) with low | above
    · rw [if_pos (.inl low), if_pos low, min_eq_right (low.le.trans room), max_eq_left low.le]
      rfl
    · rw [if_neg above.not_gt]
      rcases lt_or_ge (greatestInt 64 true) k with high | inside
      · rw [if_pos (.inr high), if_pos high, min_eq_left high.le, max_eq_right room]
        rfl
      · rw [if_neg (by simp [above, inside]), if_neg inside.not_gt]
        rfl

/-- R251: an integer is converted to a floating-point format: 0 to +0, any other rounded once. -/
theorem ofInt_converts {f : FloatFmt} (hm : 1 ≤ f.mbits) (mode : Rounding) (sat : Bool) (k : ℤ) :
    (k = 0 → encodeFloat f mode sat (Num.ofInt k 0) = (0, 0)) ∧
    (k ≠ 0 → sat = false → Rounded f mode (k : ℝ) (encodeFloat f mode sat (Num.ofInt k 0))) := by
  refine ⟨?_, ?_⟩
  · rintro rfl
    rfl
  · rintro nonzero rfl
    have value : realOf (Num.ofInt k 0) = k := by rw [realOf_ofInt, zpow_zero, mul_one]
    have nonzero' : (k : ℝ) ≠ 0 := by exact_mod_cast nonzero
    rw [← value] at nonzero' ⊢
    exact rounded_encodeFloat hm (isFinite_ofInt k 0) nonzero'

/-- R251: an integer is converted to an integer type. -/
theorem convert_int (mode : Rounding) (sat : Bool) (n : Nat) (sg : Bool) (k : Nat) (tg : Bool) (a : Nat) :
    convert (.int k tg) (.int n sg) mode sat a = (betweenInts n sat k tg (intValue n sg a), 0) := by
  simp only [convert, intRange_eq, betweenInts]
  by_cases wider : n < k
  · rw [if_pos wider, if_pos (.inl wider)]
    rfl
  · cases sat with
    | true => rw [if_neg wider, if_pos rfl, if_neg (by simp [wider])]; rfl
    | false => rw [if_neg wider, if_neg Bool.false_ne_true, if_pos (.inr rfl)]; rfl

/-- R134: special values are converted to a format with an infinity. -/
theorem encodeFloat_specials {f : FloatFmt} (h : f.kind = .ieee) (mode : Rounding) (sat : Bool) (x : Num) :
    SpecialsConvert f sat x (encodeFloat f mode sat x) := by
  refine ⟨?_, ?_, ?_⟩
  · rintro sig rfl
    simp [encodeFloat, h, flagIf]
  · rintro s rfl
    simp [encodeFloat, h]
  · rintro s rfl
    rfl

end

end Sys2Proof.Machine

/-!
SUPPORT. The conversions that FMT governs (R253, R254, R257): cvtp, dotp with SCALE = 0, and mxd.
-/

namespace Sys2Proof.Machine

open Sys2Proof.Claims

variable {s : State} {u : Issuer}

/-! ## Short-latency instructions with a check of their own -/

/-- R54, R81: a short-latency instruction whose check passes computes what it computes for the group that issues it. -/
theorem vectorOp_passing {k : LaneForm} {pre : Issuer → Option Raise} {f f' : Issuer → Nat → LaneOut} (h : Issuing s u)
    (passes : pre u = none) (same : f u = f' u) : vectorOp s k pre f = vectorOp s k noCheck f' := by
  simp [vectorOp, withIssuer_issuing h, passes, noCheck, same]

/-- R435: a per-lane instruction with a check in each lane takes effect where no check fails. -/
theorem checkedOp_passing {tt : BitVec 8} {uses : List Use} {pre : Issuer → Option Raise} {fault : Issuer → Nat → Option Raise}
    {body : Issuer → State} (h : Issuing s u) (passes : pre u = none) (lanes : ∀ l ∈ u.enabledLanes tt, fault u l = none) :
    checkedOp s tt uses pre fault body = .next (body u) := by
  simp [checkedOp, withIssuer_issuing h, passes, firstSome_none.mpr lanes]

/-! ## cvtp and dotp (R253, R254) -/

theorem elementsPerRegister_pos (fmt : Nat) : 0 < elementsPerRegister fmt := by
  unfold elementsPerRegister
  split <;> decide

theorem upFrom_eq_range (a n : Nat) : upFrom a n = (List.range n).map fun k => a + k := by
  refine List.ext_getElem? fun k => ?_
  rw [getElem?_upFrom, List.getElem?_map]
  split
  · next inside => rw [List.getElem?_range inside]; rfl
  · next outside => rw [List.getElem?_eq_none (by simpa using outside)]; rfl

theorem upFrom_zero_map {α : Type} (f : Nat → α) (n : Nat) : (upFrom 0 n).map f = (List.range n).map f := by
  simp [upFrom_eq_range]

theorem cvtpCheck_passes (h : cvtpAccepts u) : cvtpCheck u = none := if_neg (by obtain ⟨h0, h1⟩ := h; omega)

theorem dotCheck_passes {k : DotKind} (h : dotKind u.g.fmt = some k) (wide : dotKind u.g.fmt ≠ some .single) : dotCheck u = none := by
  rw [h] at wide
  cases k with
  | single => exact absurd rfl wide
  | _ => simp [dotCheck, h]

/-- R253, R254: cvtp, and dotp with SCALE = 0, run as short-latency instructions under an FMT that suits them. -/
theorem exec_underFmt {i : Instr} {k : Compute} (hk : underFmt u i = some k) (suits : FmtSuits u i) (h : Issuing s u) :
    exec i s = vectorOp s k.form noCheck k.out ∧ k.form.Shaped ∧ k.form.latch ≤ 2 ∧
      (k.form.latch ≠ 0 → ∀ u l, (k.out u l).words.length ≤ 2) := by
  have run := elementsPerRegister_pos (fmtAF u.g.fmt)
  unfold underFmt at hk
  split at hk
  · next f =>
    cases hk
    refine ⟨?_, .of_dest rfl (by simp) (by simp [shaped_srcRun _ _ run]), by simp, by simp [code32]⟩
    rw [show exec (.cvtpPack f) s = execCvtpPack f s from rfl, execCvtpPack, withIssuer_issuing h]
    refine vectorOp_passing h (cvtpCheck_passes suits) (funext fun l => ?_)
    simp only [upFrom_zero_map]
    rfl
  · next f =>
    cases hk
    refine ⟨?_, by simp [LaneForm.Shaped, LaneForm.uses, shaped_dstRun _ run], by simp, by simp⟩
    rw [show exec (.cvtpUnpack f) s = execCvtpUnpack f s from rfl, execCvtpUnpack, withIssuer_issuing h]
    exact vectorOp_passing h (cvtpCheck_passes suits) rfl
  · next f =>
    obtain ⟨kind, hkind, rfl⟩ := Option.map_eq_some_iff.mp hk
    obtain ⟨plain, wide⟩ := suits
    refine ⟨?_, .of_dest rfl (by simp) (by simp), by simp, by simp [code32]⟩
    rw [show exec (.dotp f) s = execDotp f s from rfl, execDotp, withIssuer_issuing h, if_neg (by simp [plain])]
    refine vectorOp_passing h (dotCheck_passes hkind wide) (funext fun l => ?_)
    simp only [hkind]
    rfl
  · cases hk

end Sys2Proof.Machine

/-!
SUPPORT. mxd and mxq (R256, R257): the checks of a lane, and what mxq leaves of a block in the registers.
-/

namespace Sys2Proof.Machine

open Sys2Proof.Claims

variable {s : State} {u : Issuer} {f : FormV}

/-! ## The checks of a lane (R256, R435) -/

theorem toNat_of_operandOf_eq_s {code : BitVec 11} {n : Nat} (h : operandOf code = .s n) : code.toNat - 1792 = n := by
  unfold operandOf at h
  dsimp only at h
  split_ifs at h
  exact Operand.s.inj h

/-- R256: a word whose B must be a scalar register names the scale scalars of its lane words. -/
theorem scaleReg_of_shape {r : ShapeV} (hr : r.b = .srcScalar) (h : r.faults f = []) (j : Nat) : scaleReg f.b j = scaleOf f j := by
  simp only [ShapeV.faults, List.append_eq_nil_iff, hr, fieldFaults] at h
  obtain ⟨⟨-, scalar⟩, -⟩ := h
  cases hb : operandOf f.b with
  | s n => rw [scaleReg, hb, scaleOf, toNat_of_operandOf_eq_s hb]
  | _ => rw [hb] at scalar; exact absurd scalar (by simp)

theorem mxCheck_passes (h : mxAccepts u) : mxCheck u = none := if_pos (by simpa [mxFmt, mxAccepts] using h)

/-- R435: a lane whose operands and whose scale scalar fit fails no check. -/
theorem mxFault_eq_none {reads : Bool} {uses : List Use} {l : Nat} (scale : scaleReg f.b (l / 32) = scaleOf f (l / 32))
    (shaped : ∀ x ∈ uses, x.Shaped) (fits : ∀ x ∈ uses, Fits u l x) (hl : l ∈ u.enabledLanes f.tt)
    (scales : ScalesFit u f reads) :
    mxFault f reads uses u l = none := by
  obtain ⟨range, idle, clean⟩ := scales l hl
  have poison : firstSome (usePoison u l) uses = none :=
    firstSome_none.mpr fun x hx => ((use_fits (shaped x hx)).mpr (fits x hx)).1
  have fault : firstSome (useFault u l) uses = none :=
    firstSome_none.mpr fun x hx => ((use_fits (shaped x hx)).mpr (fits x hx)).2
  have bad : (if reads then scalePoison u f.b l else none) = none := by
    cases reads with
    | true => simp [scalePoison, scale, clean rfl]
    | false => rfl
  have place : scaleFault u fieldB f.b l = none := by simp [scaleFault, scale, range.not_ge, idle]
  simp [mxFault, poison, fault, bad, place, firstSome]

/-! ## mxd (R257) -/

theorem execMxd_computed (wf : (Instr.mxd f).WellFormed = true) (accepts : mxAccepts u) (h : Issuing s u)
    (fits : OperandsFit u (dequantised f).form) (scales : ScalesFit u f true) :
    ∃ t, exec (.mxd f) s = .next t ∧ Computed s u (dequantised f) t := by
  have shaped : (dequantised f).form.Shaped := .of_dest rfl (by simp) (by simp [dequantised])
  have scale := scaleReg_of_shape (f := f) rfl (List.isEmpty_iff.mp wf)
  have lanes : ∀ l ∈ u.enabledLanes f.tt, mxFault f true (dequantised f).form.uses u l = none := fun l hl =>
    mxFault_eq_none (scale _) shaped (fits l hl) hl scales
  have out : (fun l => outC .w32 (mxDequantise (fmtAF u.g.fmt) ((u.g.sreg (scaleReg f.b (l / 32))).toNat % 256) (rd u f.a l).toNat)) =
      (dequantised f).out u := by
    funext l
    simp only [dequantised, scale, BitVec.extractLsb'_toNat]
    rfl
  refine ⟨_, checkedOp_passing h (mxCheck_passes accepts) lanes, ?_⟩
  rw [out]
  exact runLanes_computed s rfl (by simp [dequantised]) (by simp [dequantised, code32])

/-! ## Registers that a list of lane words is written to, one word after the other -/

/-- What is read of a group after each word of a list has been written, where only word k, which the list has at most once, writes it. -/
theorem foldl_reads {α : Type} (read : Group → α) (write : α → α) (k : Nat) {step : Group → Nat → Group}
    (h : ∀ g j, read (step g j) = if k = j then write (read g) else read g) {ws : List Nat} (nodup : ws.Nodup) (g : Group) :
    read (ws.foldl step g) = if k ∈ ws then write (read g) else read g := by
  induction ws generalizing g with
  | nil => rfl
  | cons j t ih =>
    obtain ⟨new, nodup⟩ := List.nodup_cons.mp nodup
    rw [List.foldl_cons, ih nodup, h]
    by_cases hk : k = j
    · subst hk
      simp [new]
    · simp [hk]

/-- The lane words of a list of lanes, each with its own lanes, are the lanes. -/
theorem enabledWords_flatMap {lanes : List Nat} (rising : lanes.Pairwise (· < ·)) (below : ∀ l ∈ lanes, l < 128) :
    ((enabledWords lanes).flatMap fun j => lanes.filter fun l => decide (l / 32 = j)) = lanes := by
  have words : (enabledWords lanes).Pairwise (· < ·) := (upFrom_pairwise 0 4).filter _
  refine List.Pairwise.eq_of_mem_iff (List.pairwise_flatMap.mpr ⟨fun j _ => rising.filter _, ?_⟩) rising fun l => ?_
  · refine words.imp fun {i j} hij k hk l hl => ?_
    have hk : k / 32 = i := by simpa using (List.mem_filter.mp hk).2
    have hl : l / 32 = j := by simpa using (List.mem_filter.mp hl).2
    omega
  · simp only [List.mem_flatMap, List.mem_filter, decide_eq_true_eq, enabledWords, mem_upFrom_zero, List.any_eq_true]
    constructor
    · rintro ⟨j, -, hl, -⟩
      exact hl
    · intro hl
      have := below l hl
      exact ⟨l / 32, ⟨by omega, l, hl, rfl⟩, hl, rfl⟩

/-! ## One lane word of mxq (R256) -/

theorem quantiseWord_eq (u : Issuer) (f : FormV) (j : Nat) : quantiseWord u f j = quantised u f j := by
  simp only [quantiseWord, quantised, upFrom_eq_range, List.map_map, Function.comp_def]

/-- The lanes of a lane word write their codes. -/
theorem quantiseOuts_eq (u : Issuer) (f : FormV) (j : Nat) :
    quantiseOuts u f j = ((u.enabledLanes f.tt).filter fun l => decide (l / 32 = j)).map fun l => (l, word (quantisedCode u f l)) := by
  refine List.map_congr_left fun l hl => ?_
  have : l / 32 = j := by simpa using (List.mem_filter.mp hl).2
  rw [quantiseWord_eq, ← this]
  rfl

theorem Group.orFpstat_zero (g : Group) : g.orFpstat 0 = g := by simp [Group.orFpstat, orFlags]

theorem writeLane_word (at0 : Group) (d : Option (BitVec 11)) (g : Group) (l : Nat) (w : Word) :
    writeLane at0 d g l (word w) = laneRun g l [w] (destReg at0 d l) := by
  rw [writeLane_eq]
  exact Group.orFpstat_zero _

/-- What lanes that only write words leave alone. -/
theorem writeLanes_word_frame (at0 : Group) (d : Option (BitVec 11)) (lanes : List Nat) (w : Nat → Word) : ∀ g : Group,
    writeLanes at0 d g (lanes.map fun l => (l, word (w l))) =
      { g with v := (writeLanes at0 d g (lanes.map fun l => (l, word (w l)))).v
               vPoison := (writeLanes at0 d g (lanes.map fun l => (l, word (w l)))).vPoison } := by
  induction lanes with
  | nil => exact fun _ => rfl
  | cons l t ih =>
    intro g
    rw [List.map_cons, writeLanes, ih, writeLane_word, laneRun_frame]

/-- The lanes of a lane word that are enabled. -/
def lanesOf (u : Issuer) (f : FormV) (j : Nat) : List Nat := (u.enabledLanes f.tt).filter fun l => decide (l / 32 = j)

theorem mem_lanesOf {j l : Nat} : l ∈ lanesOf u f j ↔ l ∈ u.enabledLanes f.tt ∧ l / 32 = j := by
  simp [lanesOf]

theorem lanesOf_nodup (u : Issuer) (f : FormV) (j : Nat) : (lanesOf u f j).Nodup := (u.enabledLanes_nodup f.tt).filter _

theorem lanesOf_lt {j l : Nat} (h : l ∈ lanesOf u f j) : l < 128 := u.enabledLanes_lt f.tt (mem_lanesOf.mp h).1

theorem quantiseInto_eq (u : Issuer) (f : FormV) (g : Group) (j : Nat) : quantiseInto u f g j =
    (writeLanes u.g (some f.d) (g.setS (scaleReg f.b j) (BitVec.ofNat 32 (quantised u f j).1))
      ((lanesOf u f j).map fun l => (l, word (quantisedCode u f l)))).orFpstat (quantised u f j).2.2 := by
  rw [quantiseInto, quantiseOuts_eq, quantiseWord_eq]
  rfl

theorem quantiseInto_vreg (g : Group) (j n : Nat) {l : Nat} (hl : l < 128) : (quantiseInto u f g j).vreg n l =
    if l / 32 = j then
      (if l ∈ u.enabledLanes f.tt then inRun (vectorReg u.g f.d l) [quantisedCode u f l] n (g.vreg n l) else g.vreg n l)
    else g.vreg n l := by
  rw [quantiseInto_eq]
  refine (writeLanes_vreg u.g (some f.d) _ _ (fun l => word (quantisedCode u f l)) (lanesOf_nodup u f j)
    (fun _ h => lanesOf_lt h) hl n).trans ?_
  rw [Group.vreg_setS]
  by_cases here : l / 32 = j
  · by_cases hu : l ∈ u.enabledLanes f.tt
    · rw [if_pos (mem_lanesOf.mpr ⟨hu, here⟩), if_pos here, if_pos hu, destReg, Option.bind_some]
      cases vectorReg u.g f.d l <;> rfl
    · rw [if_neg (fun h => hu (mem_lanesOf.mp h).1), if_pos here, if_neg hu]
  · rw [if_neg (fun h => here (mem_lanesOf.mp h).2), if_neg here]

theorem quantiseInto_vBad (g : Group) (j n : Nat) {l : Nat} (hl : l < 128) : (quantiseInto u f g j).vBad n l =
    if l / 32 = j then
      (g.vBad n l && !(decide (l ∈ u.enabledLanes f.tt) && reaches (vectorReg u.g f.d l) [quantisedCode u f l] n))
    else g.vBad n l := by
  rw [quantiseInto_eq]
  refine (writeLanes_vBad u.g (some f.d) _ _ (fun l => word (quantisedCode u f l)) (lanesOf_nodup u f j)
    (fun _ h => lanesOf_lt h) hl n).trans ?_
  rw [show (g.setS (scaleReg f.b j) (BitVec.ofNat 32 (quantised u f j).1)).vBad n l = g.vBad n l from rfl]
  by_cases here : l / 32 = j
  · by_cases hu : l ∈ u.enabledLanes f.tt
    · rw [if_pos (mem_lanesOf.mpr ⟨hu, here⟩), if_pos here, destReg, Option.bind_some]
      cases vectorReg u.g f.d l with
      | none => simp [reaches]
      | some m =>
        simp only [reaches, hu, decide_true, Bool.true_and, ← ite_false_eq_and_not (m ≤ n), decide_eq_true_eq]
        rfl
    · rw [if_neg (fun h => hu (mem_lanesOf.mp h).1), if_pos here]
      simp [hu]
  · rw [if_neg (fun h => here (mem_lanesOf.mp h).2), if_neg here]

theorem quantiseInto_frame (g : Group) (j : Nat) : quantiseInto u f g j =
    { g with v := (quantiseInto u f g j).v, vPoison := (quantiseInto u f g j).vPoison, s := (quantiseInto u f g j).s
             sPoison := (quantiseInto u f g j).sPoison, fpstat := (quantiseInto u f g j).fpstat } := by
  rw [quantiseInto_eq, writeLanes_word_frame]
  rfl

theorem quantiseInto_sreg (g : Group) (j n : Nat) :
    (quantiseInto u f g j).sreg n = if n = scaleReg f.b j then BitVec.ofNat 32 (quantised u f j).1 else g.sreg n := by
  rw [quantiseInto_eq, writeLanes_word_frame]
  exact Group.sreg_setS g _ _ _

theorem quantiseInto_sBad (g : Group) (j n : Nat) : (quantiseInto u f g j).sBad n = if n = scaleReg f.b j then false else g.sBad n := by
  rw [quantiseInto_eq, writeLanes_word_frame]
  exact Group.sBad_setS g _ _ (BitVec.ofNat 32 (quantised u f j).1)

theorem quantiseInto_fpstat (g : Group) (j : Nat) :
    (quantiseInto u f g j).fpstat = g.fpstat ||| (quantised u f j).2.2.zeroExtend 32 := by
  rw [quantiseInto_eq, writeLanes_word_frame]
  rfl

/-! ## All lane words of mxq -/

theorem wordsOf_eq (u : Issuer) (f : FormV) : Claims.wordsOf u f = enabledWords (u.enabledLanes f.tt) := rfl

theorem wordsOf_nodup (u : Issuer) (f : FormV) : (Claims.wordsOf u f).Nodup := List.nodup_range.filter _

theorem div_mem_wordsOf {l : Nat} (h : l ∈ u.enabledLanes f.tt) : l / 32 ∈ Claims.wordsOf u f := by
  have := u.enabledLanes_lt f.tt h
  exact List.mem_filter.mpr ⟨List.mem_range.mpr (by omega), List.any_eq_true.mpr ⟨l, h, beq_self_eq_true _⟩⟩

/-- The group after the lane words of mxq, before it goes on to its next place. -/
def quantisedGroup (u : Issuer) (f : FormV) : Group := (Claims.wordsOf u f).foldl (quantiseInto u f) u.g

theorem quantisedGroup_vreg (u : Issuer) (f : FormV) (n : Nat) {l : Nat} (hl : l < 128) : (quantisedGroup u f).vreg n l =
    if l ∈ u.enabledLanes f.tt then inRun (vectorReg u.g f.d l) [quantisedCode u f l] n (u.g.vreg n l) else u.g.vreg n l := by
  refine (foldl_reads (fun g => g.vreg n l)
    (fun a => if l ∈ u.enabledLanes f.tt then inRun (vectorReg u.g f.d l) [quantisedCode u f l] n a else a) (l / 32)
    (fun g j => quantiseInto_vreg g j n hl) (wordsOf_nodup u f) u.g).trans ?_
  by_cases hu : l ∈ u.enabledLanes f.tt
  · rw [if_pos (div_mem_wordsOf hu)]
  · simp only [hu, if_false, ite_self]

theorem quantisedGroup_vBad (u : Issuer) (f : FormV) (n : Nat) {l : Nat} (hl : l < 128) : (quantisedGroup u f).vBad n l =
    (u.g.vBad n l && !(decide (l ∈ u.enabledLanes f.tt) && reaches (vectorReg u.g f.d l) [quantisedCode u f l] n)) := by
  refine (foldl_reads (fun g => g.vBad n l)
    (fun a => a && !(decide (l ∈ u.enabledLanes f.tt) && reaches (vectorReg u.g f.d l) [quantisedCode u f l] n)) (l / 32)
    (fun g j => quantiseInto_vBad g j n hl) (wordsOf_nodup u f) u.g).trans ?_
  by_cases hu : l ∈ u.enabledLanes f.tt
  · rw [if_pos (div_mem_wordsOf hu)]
  · simp [hu]

theorem quantisedGroup_fpstat (u : Issuer) (f : FormV) : (quantisedGroup u f).fpstat =
    (Claims.wordsOf u f).foldl (fun w j => w ||| (quantised u f j).2.2.zeroExtend 32) u.g.fpstat :=
  (List.foldl_hom Group.fpstat fun g j => (quantiseInto_fpstat g j).symm).symm

theorem quantisedGroup_frame (u : Issuer) (f : FormV) : quantisedGroup u f =
    { u.g with v := (quantisedGroup u f).v, vPoison := (quantisedGroup u f).vPoison, s := (quantisedGroup u f).s
               sPoison := (quantisedGroup u f).sPoison, fpstat := (quantisedGroup u f).fpstat } := by
  refine List.foldlRecOn (motive := fun g : Group => g = { u.g with
    v := g.v, vPoison := g.vPoison, s := g.s, sPoison := g.sPoison, fpstat := g.fpstat }) _ _ rfl fun g hg j _ => ?_
  rw [quantiseInto_frame, hg]

section
variable (scale : ∀ j, scaleReg f.b j = scaleOf f j)
include scale

theorem scaleOf_eq_scaleReg_iff (j i : Nat) : scaleOf f j = scaleReg f.b i ↔ j = i := by
  rw [scale, scaleOf, scaleOf, Nat.add_left_cancel_iff]

/-- R256: the scale scalars of the lane words. -/
theorem quantisedGroup_scale (u : Issuer) {j : Nat} (hj : j ∈ Claims.wordsOf u f) :
    (quantisedGroup u f).sreg (scaleOf f j) = BitVec.ofNat 32 (quantised u f j).1 ∧ (quantisedGroup u f).sBad (scaleOf f j) = false := by
  have value := foldl_reads (fun g => g.sreg (scaleOf f j)) (fun _ => BitVec.ofNat 32 (quantised u f j).1) j
    (step := quantiseInto u f) (fun g i => by
      simp only [quantiseInto_sreg, scaleOf_eq_scaleReg_iff scale]
      split
      · next same => rw [same]
      · rfl) (wordsOf_nodup u f) u.g
  have clean := foldl_reads (fun g => g.sBad (scaleOf f j)) (fun _ => false) j (step := quantiseInto u f)
    (fun g i => by simp only [quantiseInto_sBad, scaleOf_eq_scaleReg_iff scale]) (wordsOf_nodup u f) u.g
  rw [if_pos hj] at value clean
  exact ⟨value, clean⟩

/-- R256: no other scalar changes. -/
theorem quantisedGroup_scalar (u : Issuer) {n : Nat} (hn : ∀ j ∈ Claims.wordsOf u f, n ≠ scaleOf f j) :
    (quantisedGroup u f).sreg n = u.g.sreg n ∧ (quantisedGroup u f).sBad n = u.g.sBad n := by
  refine List.foldlRecOn (motive := fun g : Group => g.sreg n = u.g.sreg n ∧ g.sBad n = u.g.sBad n) _ _ ⟨rfl, rfl⟩ fun g hg j hj => ?_
  rw [quantiseInto_sreg, quantiseInto_sBad, scale, if_neg (hn j hj), if_neg (hn j hj)]
  exact hg

end

/-- R103: the codes that mxq latches. -/
theorem quantised_entry (u : Issuer) (f : FormV) :
    resultEntry false ((enabledWords (u.enabledLanes f.tt)).flatMap (quantiseOuts u f)) = quantisedEntry u f := by
  have lanes := enabledWords_flatMap (u.enabledLanes_pairwise f.tt) fun l => u.enabledLanes_lt f.tt
  have outs : (enabledWords (u.enabledLanes f.tt)).flatMap (quantiseOuts u f) =
      (u.enabledLanes f.tt).map fun l => (l, word (quantisedCode u f l)) := by
    conv_rhs => rw [← lanes, List.map_flatMap]
    exact List.flatMap_congr fun j _ => quantiseOuts_eq u f j
  rw [outs, resultEntry, quantisedEntry, List.map_map]
  refine congrArg _ (List.map_congr_left fun l _ => ?_)
  exact congrArg (l, ·) (latchWord_element _ (by simp [word]))

/-- R256: the group at its next place holds what the lane words of mxq have left. -/
theorem quantised_of_moved (scale : ∀ j, scaleReg f.b j = scaleOf f j) {g : Group} (h : g = moved (quantisedGroup u f) g) :
    Quantised u f g := by
  have sreg n : g.sreg n = (quantisedGroup u f).sreg n := (congrArg (fun x : Group => x.sreg n) h :)
  have sBad n : g.sBad n = (quantisedGroup u f).sBad n := (congrArg (fun x : Group => x.sBad n) h :)
  refine ⟨fun n l hl => ?_, fun n l hl => ?_, fun j hj => ?_, fun n hn => ?_, ?_, ?_⟩
  · exact (congrArg (fun x : Group => x.vreg n l) h).trans (quantisedGroup_vreg u f n hl)
  · exact (congrArg (fun x : Group => x.vBad n l) h).trans (quantisedGroup_vBad u f n hl)
  · rw [sreg, sBad]
    exact quantisedGroup_scale scale u hj
  · rw [sreg, sBad]
    exact quantisedGroup_scalar scale u hn
  · exact (congrArg Group.fpstat h).trans (quantisedGroup_fpstat u f)
  · have frame := congrArg (fun x => moved x g) (quantisedGroup_frame u f)
    generalize quantisedGroup u f = q at h frame
    refine (h.trans frame).trans ?_
    rw [h]
    rfl

/-- R256: mxq quantises the values of each lane word. -/
theorem execMxq_quantises (wf : (Instr.mxq f).WellFormed = true) (accepts : mxAccepts u) (h : Issuing s u)
    (fits : ∀ l ∈ u.enabledLanes f.tt, Fits u l (dst f.d) ∧ Fits u l (src fieldA f.a)) (scales : ScalesFit u f false) :
    ∃ t, exec (.mxq f) s = .next t ∧ GroupDone s u (quantisedEntry u f) (Quantised u f) t := by
  have scale := scaleReg_of_shape (f := f) rfl (List.isEmpty_iff.mp wf)
  have lanes : ∀ l ∈ u.enabledLanes f.tt, mxFault f false [dst f.d, src fieldA f.a] u l = none := fun l hl =>
    mxFault_eq_none (scale _) (by simp) (by simpa using fits l hl) hl scales
  refine ⟨_, checkedOp_passing h (mxCheck_passes accepts) lanes, ?_⟩
  dsimp only
  rw [quantised_entry, ← wordsOf_eq, ← quantisedGroup]
  refine ⟨finish_onlyGroup _ _ _ _, _, finish_group _ _ _ _, ?_, quantised_of_moved scale (advance_frame u _ _)⟩
  apply advance_nextPlace <;> rw [quantisedGroup_frame]

end Sys2Proof.Machine

/-!
PROOF. O15: conversions round once; the instructions that FMT governs (R133 to R135, R251 to R254, R256, R257).
-/

namespace Sys2Proof.Machine

open Sys2Proof.Claims

theorem mbits_pos_of_mem_rounding {f : FloatFmt} (h : f ∈ roundingFormats) : 1 ≤ f.mbits := by
  revert f
  decide

theorem ieee_of_mem {f : FloatFmt} (h : f ∈ arithmeticFormats) : f.kind = .ieee := by
  revert f
  decide

/-- Settles O15: finite values are rounded by roundFinite, or by roundMag to the nearest integer, and special values go by the table; cvtp
and dotp run as short-latency instructions whose check passes, mxd and mxq pass the checks of each lane. -/
theorem conversionsRound : Obligations.ConversionsRound := by
  refine ⟨⟨fun f hf m neg k e pos => ?_, fun f _ g hg m sat a _ => ?_, fun f _ m sat a _ => ?_, fun n _ sg m sat a _ => ?_⟩,
    fun i s u k hk _ suits h fits => ?_, fun f s u => execMxd_computed, fun f s u => execMxq_quantises⟩
  · have hm := mbits_pos_of_mem_rounding hf
    exact ⟨roundFinite_rounded hm pos, roundFinite_saturating hm pos⟩
  · exact ⟨rfl, encodeFloat_specials (ieee_of_mem hg) m sat _⟩
  · refine ⟨fun n _ sg => ?_, roundToX64_toFixed m sat _⟩
    rw [← roundToInt_toInteger, convert, intRange_eq]
  · exact ⟨fun f hf => ofInt_converts (mbits_pos_of_mem hf) m sat _, fun k _ tg => convert_int m sat n sg k tg a⟩
  · obtain ⟨run, shaped, latch, words⟩ := exec_underFmt hk suits h
    exact run ▸ vectorOp_computed shaped latch words h fits

end Sys2Proof.Machine

/-!
SUPPORT. Every step keeps the canonical form of the memory list (spec/06 R157; log entry 3): one lemma for each operation of
the model that writes memory or passes a state on. Only `State.writeMem` and `writeLine` write the list, and both write it with
`Memory.setByte`, which keeps the form; every other operation is composed of these.
-/

namespace Sys2Proof.Machine

/-! ## Answers that hold a state -/

/-- The state that an outcome goes on with has its memory in the form. -/
def OutWf : Out → Prop
  | .next t => Memory.wf t.mem
  | _ => True

/-- So has the state that may have been found. -/
def OptWf : Option State → Prop
  | some t => Memory.wf t.mem
  | none => True

/-- So has the state in which an instruction was fetched, or a turn stopped. -/
def StageWf {α : Type} (state : α → State) : Stage α → Prop
  | .go a => Memory.wf (state a).mem
  | .stop o => OutWf o

/-- So has the state in which an access of the device waits. -/
def AccessWf : DeviceAccess → Prop
  | .waits t => Memory.wf t.mem
  | _ => True

/-- So has the state in which the read of a descriptor waits. -/
def DescriptorWf : Descriptor → Prop
  | .waits t => Memory.wf t.mem
  | _ => True

/-- So has the state in which the judgement of a packet waits. -/
def VerdictWf : Verdict → Prop
  | .waits t => Memory.wf t.mem
  | _ => True

/-- So has the state to which an engine entry has come. -/
def ProgressWf : Progress → Prop
  | .done r => Memory.wf r.s.mem
  | .waits t => Memory.wf t.mem
  | .failed t => Memory.wf t.mem
  | _ => True

section
variable {t : State}

theorem OutWf.of_next {o : Out} (ho : OutWf o) (e : o = .next t) : Memory.wf t.mem := by rw [e] at ho; exact ho
theorem OptWf.of_some {o : Option State} (ho : OptWf o) (e : o = some t) : Memory.wf t.mem := by rw [e] at ho; exact ho
theorem StageWf.of_go {α : Type} {m : α → State} {o : Stage α} {a : α} (ho : StageWf m o) (e : o = .go a) :
    Memory.wf (m a).mem := by
  rw [e] at ho; exact ho
theorem StageWf.of_stop {α : Type} {m : α → State} {o : Stage α} {x : Out} (ho : StageWf m o) (e : o = .stop x) : OutWf x := by
  rw [e] at ho; exact ho
theorem AccessWf.of_waits {o : DeviceAccess} (ho : AccessWf o) (e : o = .waits t) : Memory.wf t.mem := by rw [e] at ho; exact ho
theorem DescriptorWf.of_waits {o : Descriptor} (ho : DescriptorWf o) (e : o = .waits t) : Memory.wf t.mem := by
  rw [e] at ho; exact ho
theorem VerdictWf.of_waits {o : Verdict} (ho : VerdictWf o) (e : o = .waits t) : Memory.wf t.mem := by rw [e] at ho; exact ho
theorem ProgressWf.of_done {o : Progress} {r : EngineRun} (ho : ProgressWf o) (e : o = .done r) : Memory.wf r.s.mem := by
  rw [e] at ho; exact ho

/-- What was found, else a state in the form. -/
theorem wf_getD {o : Option State} (ho : OptWf o) (ht : Memory.wf t.mem) : Memory.wf (o.getD t).mem := by
  cases o with
  | none => exact ht
  | some _ => exact ho

theorem wf_map {o : Option State} {f : State → State} (ho : OptWf o) (hf : ∀ s, Memory.wf s.mem → Memory.wf (f s).mem) :
    OptWf (o.map f) := by
  cases o with
  | none => trivial
  | some s => exact hf s ho

theorem wf_map_of {α : Type} {o : Option α} {f : α → State} (hf : ∀ a, Memory.wf (f a).mem) : OptWf (o.map f) := by
  cases o with
  | none => trivial
  | some a => exact hf a

theorem wf_ite {c : Prop} [Decidable c] {u : State} (ht : Memory.wf t.mem) (hu : Memory.wf u.mem) :
    Memory.wf (if c then t else u).mem := by
  split
  · exact ht
  · exact hu

/-- Single bytes written in turn. -/
theorem wf_setByte_foldl {α : Type} {m : List Host.Cell} {l : List α} {a : α → Nat} {b : α → Byte} (hm : Memory.wf m) :
    Memory.wf (l.foldl (fun m i => Memory.setByte m (a i) (b i)) m) := by
  induction l generalizing m with
  | nil => exact hm
  | cons i _ ih => exact ih (Memory.wf_setByte m (a i) (b i) hm)

/-- What each move of a list keeps, the list keeps. -/
theorem wf_foldl {α : Type} {f : State → α → State} {l : List α} (ht : Memory.wf t.mem)
    (hf : ∀ s a, Memory.wf s.mem → Memory.wf (f s a).mem) : Memory.wf (l.foldl f t).mem := by
  induction l generalizing t with
  | nil => exact ht
  | cons a _ ih => exact ih (hf t a ht)

end

/-! ## The updates of the state -/

section
variable {s : State} {gid tid lid c n dest cls tenant binding agent core ctx slot : Nat} {g : Group} {t : Team} {l : Launch}
  {x : Context} {t' : Tenant} {c' : Core} {fg : Group → Group} {ft : Team → Team} {fl : Launch → Launch}
  {fc : Context → Context} {ft' : Tenant → Tenant} {fc' : Core → Core} {fa : Access → Access} {fe : Entry → Entry} {what : Sent}
  {bytes : List Byte} {timed : Bool} {u : Issuer} {r : BitVec 512} {r' : Option (BitVec 512)} {fr : BitVec 512 → BitVec 512}
  {i : TrapInfo} (h : Memory.wf s.mem)
include h

theorem wf_setGroup : Memory.wf (State.setGroup s gid g).mem := h

theorem wf_setTeam : Memory.wf (State.setTeam s tid t).mem := h

theorem wf_setLaunch : Memory.wf (State.setLaunch s lid l).mem := h

theorem wf_setContext : Memory.wf (State.setContext s c x).mem := h

theorem wf_setTenant : Memory.wf (State.setTenant s n t').mem := h

theorem wf_setCore : Memory.wf (State.setCore s n c').mem := h

theorem wf_modifyGroup : Memory.wf (State.modifyGroup s gid fg).mem := h

theorem wf_modifyTeam : Memory.wf (State.modifyTeam s tid ft).mem := h

theorem wf_modifyLaunch : Memory.wf (State.modifyLaunch s lid fl).mem := h

theorem wf_modifyContext : Memory.wf (State.modifyContext s c fc).mem := h

theorem wf_modifyTenant : Memory.wf (State.modifyTenant s n ft').mem := h

theorem wf_modifyCore : Memory.wf (State.modifyCore s n fc').mem := h

theorem wf_modifyAccess : Memory.wf (State.modifyAccess s n fa).mem := h

theorem wf_modifyEntry : Memory.wf (State.modifyEntry s n fe).mem := h

theorem wf_fresh : Memory.wf (State.fresh s).2.mem := h

theorem wf_send : Memory.wf (State.send s dest cls tenant binding what bytes).mem := h

theorem wf_engineStamp : Memory.wf (State.engineStamp s agent).2.mem := h

omit h in
theorem wf_withIssuer (hk : ∀ u, OutWf (k u)) : OutWf (withIssuer s k) := by
  unfold withIssuer
  split
  · trivial
  · split
    · trivial
    · exact hk _

theorem wf_stagePacket : Memory.wf (stagePacket s core ctx slot timed bytes).mem := wf_modifyCore h

theorem wf_tracePacket : Memory.wf (tracePacket s u timed bytes).mem := by
  unfold tracePacket
  split
  · exact wf_stagePacket h
  · exact h

theorem wf_pushSound : Memory.wf (pushSound s ctx r).mem := wf_modifyContext h

theorem wf_soundEnd : Memory.wf (soundEnd s ctx r' fr).mem := by
  unfold soundEnd
  split
  · exact h
  · exact wf_pushSound h

theorem wf_takeTrap : Memory.wf (takeTrap s u i).mem := wf_soundEnd (wf_setGroup h)

end

/-! ## Issue (spec/21 R435) -/

section
variable {s : State} {u : Issuer} {g : Group} {entry : Latch} {a : Word64} {taken byAddress : Bool} {r : Raise}
  {lanes : List Nat} {uses : List Use} {k : LaneForm} {fn : Nat → LaneOut} {pre : Issuer → Option Raise}
  {f : Issuer → Nat → LaneOut} {tt : BitVec 8} {fault : Issuer → Nat → Option Raise} {body : Issuer → State}
  {body' : Issuer → Out} {w : Wait} {k' : Nat} (h : Memory.wf s.mem)
include h

theorem wf_finish : Memory.wf (finish s u g entry).mem := wf_soundEnd (wf_setGroup h)

theorem wf_finishInFlight : Memory.wf (finishInFlight s u g entry).mem := wf_setGroup h

theorem wf_transfer : Memory.wf (transfer s u g a taken byAddress).mem := wf_soundEnd (wf_setGroup h)

theorem wf_trapLanes : Memory.wf (trapLanes s u r lanes uses).mem := wf_takeTrap h

theorem wf_trapScalar : Memory.wf (trapScalar s u r uses).mem := wf_takeTrap h

theorem wf_trapPlain : Memory.wf (trapPlain s u r).mem := wf_takeTrap h

theorem wf_runLanes : Memory.wf (runLanes s u k fn).mem := wf_finish h

theorem wf_runScalar : Memory.wf (runScalar s u k fn).mem := wf_finish h

theorem wf_vectorOp : OutWf (vectorOp s k pre f) := by
  unfold vectorOp
  refine wf_withIssuer fun _ => ?_
  split
  · exact wf_trapLanes h
  · split
    · split
      · exact wf_trapScalar h
      · exact wf_runScalar h
    · split
      · exact wf_trapLanes h
      · exact wf_runLanes h

theorem wf_checkedOp (hb : ∀ u, Memory.wf (body u).mem) : OutWf (checkedOp s tt uses pre fault body) := by
  unfold checkedOp
  refine wf_withIssuer fun _ => ?_
  split
  · exact wf_trapLanes h
  · split
    · exact wf_trapLanes h
    · exact hb _

theorem wf_groupOp (hb : ∀ u, OutWf (body' u)) : OutWf (groupOp s uses pre body') := by
  unfold groupOp
  refine wf_withIssuer fun _ => ?_
  split
  · exact wf_trapScalar h
  · split
    · exact wf_trapScalar h
    · exact hb _

theorem wf_block : Memory.wf (block s u g w).mem := wf_setGroup h

theorem wf_stallIn : Memory.wf (stallIn s u k').mem := by
  unfold stallIn
  split
  · exact h
  · exact wf_setGroup h

end

/-! ## Groups held at a rendezvous (spec/11 R302) -/

section
variable {s : State} {x : Held} {r : Raise} {tid g : Nat} (h : Memory.wf s.mem)
include h

theorem wf_faultHeld : Memory.wf (faultHeld s x r).mem := wf_takeTrap h

theorem wf_orphanHeld : Memory.wf (orphanHeld s tid g).mem := wf_foldl h fun _ _ h => wf_faultHeld h

theorem wf_gateOrphans : Memory.wf (gateOrphans s).mem := by
  unfold gateOrphans
  refine wf_foldl h fun _ _ h => ?_
  split
  · exact h
  · split
    · exact h
    · split
      · exact h
      · split
        · exact h
        · dsimp only
          split
          · exact h
          · exact wf_orphanHeld h

end

/-! ## Translation (spec/06 R161 to R171) -/

section
variable {s : State} {core ctx root va kind : Nat} {xs : List (Nat × Nat)} {xs' bytes : List Byte} (h : Memory.wf s.mem)
include h

theorem wf_walkFill : Memory.wf (walkFill s core ctx root va kind).mem := by
  unfold walkFill
  split
  · dsimp only
    split
    · exact h
    · exact State.wf_writeMem _ _ _ h
  · exact h

theorem wf_touchPages : Memory.wf (touchPages s ctx kind xs).mem := by
  induction xs generalizing s with
  | nil => exact h
  | cons p t ih =>
    unfold touchPages
    split
    · exact h
    · split
      · refine ih ?_
        split
        · exact h
        · exact State.wf_writeMem _ _ _ h
      · exact ih h

theorem wf_writePieces : Memory.wf (writePieces s ctx xs xs').mem := by
  induction xs generalizing s xs' with
  | nil => exact h
  | cons p t ih =>
    refine ih ?_
    split
    · exact State.wf_writeMem _ _ _ h
    · exact h

theorem wf_deviceWrite : OptWf (deviceWrite s ctx va bytes) := by
  unfold deviceWrite
  split
  · trivial
  · exact wf_writePieces (wf_touchPages h)

end

/-! ## The L1 over the home L2 (spec/06 R159, R160; spec/07 R203) -/

section
variable {s : State} {ln core loc n ctx : Nat} {l : Line} {keep : Option Nat} {keep' : List Nat} {bytes : List Byte}
  (h : Memory.wf s.mem)
include h

theorem wf_writeLine : Memory.wf (writeLine s ln l).mem := by
  unfold writeLine
  refine wf_foldl h fun s _ h => ?_
  dsimp only
  split
  · exact State.wf_writeMem _ _ _ h
  · exact wf_setByte_foldl h

theorem wf_cleanLine : Memory.wf (cleanLine s core ln).mem := by
  unfold cleanLine
  split
  · exact h
  · exact wf_modifyCore (wf_writeLine h)

theorem wf_dropLine : Memory.wf (dropLine s core ln).mem := wf_modifyCore (wf_cleanLine h)

theorem wf_dropRange : Memory.wf (dropRange s core loc n).mem := wf_foldl h fun _ _ h => wf_dropLine h

theorem wf_cleanRange : Memory.wf (cleanRange s core loc n).mem := wf_foldl h fun _ _ h => wf_cleanLine h

theorem wf_cleanCore : Memory.wf (cleanCore s core).mem := wf_foldl h fun _ _ h => wf_cleanLine h

theorem wf_dropCore : Memory.wf (dropCore s core).mem := wf_foldl h fun _ _ h => wf_dropLine h

theorem wf_cleanContext : Memory.wf (cleanContext s ctx).mem := by
  unfold cleanContext
  refine wf_foldl h fun _ _ h => ?_
  refine wf_foldl h fun _ _ h => ?_
  split
  · exact wf_cleanLine h
  · exact h

theorem wf_recallFrom : Memory.wf (recallFrom s loc n keep).mem := by
  unfold recallFrom
  refine wf_foldl h fun _ _ h => ?_
  refine wf_foldl h fun _ _ h => ?_
  split
  · exact h
  · exact wf_dropLine h

theorem wf_makeRoom : Memory.wf (makeRoom s core keep').mem := by
  unfold makeRoom
  dsimp only
  split
  · exact h
  · split
    · exact h
    · exact wf_dropLine h

theorem wf_fillRange : Memory.wf (fillRange s core ctx loc n).mem := by
  unfold fillRange
  refine wf_foldl h fun _ _ h => ?_
  split
  · exact h
  · exact wf_modifyCore (wf_makeRoom h)

theorem wf_coreStore : Memory.wf (coreStore s core ctx loc bytes).mem := wf_foldl (wf_fillRange h) fun _ _ h => wf_modifyCore h

theorem wf_homeStore : Memory.wf (homeStore s core loc bytes).mem := State.wf_writeMem _ _ _ (wf_dropRange h)

end

/-! ## Events and notices (spec/19 R410, R411) -/

section
variable {s : State} {n rcd ctx event sub detail addr lid agent : Nat} {r : ErrorRing} {e : Event} (h : Memory.wf s.mem)
include h

theorem wf_raiseVector : Memory.wf (raiseVector s n).mem := h

theorem wf_ringWrite : Memory.wf (ringWrite s r rcd).1.mem := by
  unfold ringWrite
  split
  · exact h
  · exact State.wf_writeMem _ _ _ h

theorem wf_deviceRecord : Memory.wf (deviceRecord s rcd).mem := by
  unfold deviceRecord
  split
  · exact h
  · dsimp only
    split
    · exact wf_raiseVector (wf_ringWrite h)
    · exact wf_ringWrite h

theorem wf_tenantRecord : Memory.wf (tenantRecord s n rcd).mem := by
  unfold tenantRecord
  split
  · exact h
  · split
    · exact h
    · dsimp only
      split
      · exact wf_raiseVector (wf_modifyTenant (wf_ringWrite h))
      · exact wf_modifyTenant (wf_ringWrite h)

theorem wf_countUnit : Memory.wf (countUnit s e).mem := by
  unfold countUnit
  split
  · exact h
  · split
    · exact wf_modifyCore h
    · exact h

theorem wf_countEvent : Memory.wf (countEvent s e).mem := by
  unfold countEvent
  split
  · exact h
  · split
    · exact wf_countUnit h
    · exact h

theorem wf_report : Memory.wf (report s e).mem := by
  unfold report
  dsimp only
  split
  · exact wf_deviceRecord (wf_countEvent h)
  · split
    · exact wf_tenantRecord (wf_countEvent h)
    · split
      · exact wf_countEvent h
      · split
        · exact wf_countEvent h
        · split
          · exact wf_raiseVector (wf_tenantRecord (wf_setTenant (wf_countEvent h)))
          · exact wf_tenantRecord (wf_setTenant (wf_countEvent h))

theorem wf_contextEvent : Memory.wf (contextEvent s ctx event sub detail addr lid agent).mem := by
  unfold contextEvent
  split
  · exact h
  · exact wf_report h

theorem wf_contextNotice : Memory.wf (contextNotice s ctx event sub detail addr lid).mem := by
  unfold contextNotice
  split
  · exact h
  · exact wf_report h

end

/-! ## Race metadata and race records (spec/07 R194 to R203) -/

section
variable {s : State} {g : Granule} {k : Mark} {loc n tid rmode ctx addr sub : Nat} {t : Target} {ms : List Mark}
  {r : BitVec 512} {owner : Option (Nat × Context)} (h : Memory.wf s.mem)
include h

theorem wf_setMark : Memory.wf (setMark s g k).mem := by
  unfold setMark
  split
  · exact State.wf_writeMem _ _ _ h
  · exact wf_modifyTeam h

theorem wf_externalWrite : Memory.wf (externalWrite s loc n).mem := wf_foldl h fun _ _ h => wf_setMark h

theorem wf_pinTeam : Memory.wf (pinTeam s tid).mem := wf_modifyTeam h

theorem wf_pinWriter : Memory.wf (pinWriter s tid rmode t).mem := by
  unfold pinWriter
  split
  · exact h
  · exact wf_pinTeam h
  · split
    · exact wf_pinTeam h
    · exact h

theorem wf_pinRead : Memory.wf (pinRead s tid ms).mem := by
  unfold pinRead
  refine wf_foldl h fun _ _ h => ?_
  split <;> exact h

theorem wf_logRace : Memory.wf (logRace s ctx r).mem := by
  unfold logRace
  split
  · exact h
  · extract_lets head tail s1 d
    have h1 : Memory.wf s1.mem := wf_getD (wf_deviceWrite h) h
    split
    · exact wf_getD (wf_deviceWrite h1) h1
    · exact wf_getD (wf_deviceWrite h) h

theorem wf_loseMark : Memory.wf (loseMark s owner addr sub g).mem := by
  unfold loseMark
  refine wf_report ?_
  split
  · exact wf_setMark h
  · exact wf_getD (wf_deviceWrite (wf_setMark h)) (wf_setMark h)

end

/-! ## Barrier phases and blocked groups (spec/02 R38; spec/10 R274 to R281) -/

section
variable {s : State} {c : Context} {p tid core scope gid sub loc k : Nat} {lvl : Level} {g : Group} {n : BitVec 32} {u : Issuer}
  {dest : BitVec 11} {w : Word} {writer : Option (Nat × Nat)} {s1 : State} (h : Memory.wf s.mem)
include h

theorem wf_podArrival : Memory.wf (podArrival s c p).mem := wf_send h

theorem wf_completePhase : Memory.wf (completePhase s lvl tid).mem := by
  unfold completePhase
  split
  · exact h
  · split
    · exact h
    · dsimp only
      split
      · exact h
      · split
        · exact wf_setTeam h
        · exact wf_setLaunch h
        · split
          · exact wf_podArrival (wf_setLaunch h)
          · exact wf_setLaunch h

theorem wf_completePhases : Memory.wf (completePhases s).mem :=
  wf_foldl h fun _ _ h => wf_completePhase (wf_completePhase (wf_completePhase h))

theorem wf_acquireLines : Memory.wf (acquireLines s core scope).mem := by
  unfold acquireLines
  split
  · exact h
  · exact wf_dropCore h

theorem wf_endMatrixWait : Memory.wf (endMatrixWait s gid g n).1.mem := by
  unfold endMatrixWait
  dsimp only
  split <;> exact wf_modifyTeam h

theorem wf_flagNondet : Memory.wf (flagNondet s u sub).mem := wf_contextEvent (wf_modifyLaunch h)

theorem wf_endMonitor : Memory.wf (endMonitor s u loc dest w writer).mem := by
  unfold endMonitor
  dsimp only
  split
  · exact wf_setGroup (wf_acquireLines h)
  · split
    · split
      · exact wf_setGroup (wf_acquireLines h)
      · exact wf_flagNondet (wf_setGroup (wf_acquireLines h))
    · exact wf_flagNondet (wf_setGroup (wf_acquireLines h))

theorem wf_wokenSound : Memory.wf (wokenSound s u).mem := wf_soundEnd h

theorem wf_advanceTeamSet : Memory.wf (advanceTeamSet s tid k).mem := by
  unfold advanceTeamSet
  split
  · exact h
  · refine wf_foldl (wf_setTeam h) fun _ _ h => ?_
    split
    · exact h
    · split
      · exact wf_wokenSound (wf_setGroup (wf_acquireLines h))
      · exact h

theorem wf_noteChange : Memory.wf (noteChange s u writer).mem := by
  unfold noteChange
  split
  · dsimp only
    split
    · exact h
    · exact wf_setGroup h
  · exact h

theorem wf_wakeGroup : Memory.wf (wakeGroup s gid writer).mem := by
  unfold wakeGroup
  split
  · exact h
  · split
    · exact wf_noteChange h
    · split
      · exact h
      · split
        · exact h
        · split
          · exact wf_ite (wf_wokenSound (wf_setGroup (wf_acquireLines h))) h
          · exact wf_ite (wf_wokenSound (wf_setGroup (wf_acquireLines h))) h
          · split
            · exact wf_wokenSound (wf_endMonitor h)
            · exact wf_ite h (wf_wokenSound (wf_endMonitor h))
          · exact wf_ite (wf_setGroup h) (wf_ite (wf_advanceTeamSet h) h)
          · exact wf_ite (wf_setGroup h) (wf_ite (wf_wokenSound (wf_setGroup h)) h)
          · exact wf_ite (wf_setGroup h) (wf_ite (wf_wokenSound (wf_setGroup (wf_endMatrixWait h))) h)
          · exact wf_ite (wf_setGroup h) h
          · exact wf_ite (wf_setGroup h) h
          · exact wf_ite (wf_setGroup h) h
          · exact wf_ite (wf_setGroup h) h
          · exact h
          · exact h
          · exact h

omit h in
theorem wf_noteWoken (h : Memory.wf s1.mem) : Memory.wf (noteWoken s s1 gid).mem := by
  unfold noteWoken
  split
  · split
    · exact wf_modifyTeam h
    · exact h
  · exact h

theorem wf_settleBy : Memory.wf (settleBy s writer).mem := by
  unfold settleBy
  refine wf_foldl (wf_completePhases (wf_gateOrphans h)) fun _ _ h => ?_
  exact wf_noteWoken (wf_wakeGroup h)

theorem wf_settle : Memory.wf (settle s).mem := wf_settleBy h

end

/-! ## The accesses in flight (spec/06 R160; spec/07 R176 to R203; spec/10 R262 to R271) -/

section
variable {s : State} {u : Issuer} {a : Access} {la : LaneAccess} {ctx lid agent n core scope aid : Nat} {t : Target} {l1 : Bool}
  {bytes xs' : List Byte} {marks : List Mark} {xs : List (Target × Nat)} {l1' : Target → Bool} {fn : Nat → Nat × Flags}
  {xs'' : List LaneAccess} (h : Memory.wf s.mem)
include h

theorem wf_recordLane : Memory.wf (recordLane s u a la).mem := wf_foldl h fun _ _ h => wf_setMark h

theorem wf_meetPoison : Memory.wf (meetPoison s ctx lid agent t n).mem := by
  unfold meetPoison
  split
  · refine wf_foldl h fun _ _ h => ?_
    dsimp only
    split
    · exact wf_contextEvent h
    · split <;> exact wf_contextEvent h
  · split
    · exact h
    · exact wf_foldl h fun _ _ h => wf_contextEvent (wf_modifyTeam h)
  · exact h

theorem wf_prepareLine : Memory.wf (prepareLine s core scope t n).mem := by
  unfold prepareLine
  split
  · exact wf_recallFrom h
  · exact h

theorem wf_readTarget : Memory.wf (readTarget s core ctx l1 t n).2.mem := by
  unfold readTarget
  split
  · split
    · exact wf_fillRange h
    · exact wf_dropRange h
  · split <;> exact h
  · exact h

theorem wf_writeTarget : Memory.wf (writeTarget s core ctx l1 t bytes).mem := by
  unfold writeTarget
  split
  · split
    · exact wf_coreStore h
    · exact wf_homeStore h
  · exact wf_modifyTeam h
  · exact h

theorem wf_beforeOrdered : Memory.wf (beforeOrdered s u a scope).mem := by
  unfold beforeOrdered
  dsimp only
  split
  · refine wf_foldl ?_ fun _ _ h => wf_cleanCore h
    split
    · exact wf_cleanCore h
    · exact h
  · split
    · exact wf_cleanCore h
    · exact h

theorem wf_afterAcquire : Memory.wf (afterAcquire s u a scope marks).mem := by
  unfold afterAcquire
  split
  · exact h
  · exact wf_acquireLines (wf_modifyGroup h)

theorem wf_readRanges : Memory.wf (readRanges s u aid l1 xs).2.mem := by
  induction xs generalizing s with
  | nil => exact h
  | cons r t ih => exact ih (wf_readTarget h)

theorem wf_writeRanges : Memory.wf (writeRanges s u l1' xs xs').mem := by
  induction xs generalizing s xs' with
  | nil => exact h
  | cons r t ih => exact ih (wf_writeTarget h)

theorem wf_l1Atomic : Memory.wf (l1Atomic s core ctx t n fn).2.2.mem := by
  unfold l1Atomic
  split
  · exact wf_cleanRange (wf_writeTarget (wf_readTarget (wf_dropRange h)))
  · exact wf_writeTarget (wf_readTarget h)

theorem wf_laneEffect : Memory.wf (laneEffect s u aid a la scope l1).2.2.mem := by
  unfold laneEffect
  dsimp only
  split
  · exact wf_readRanges h
  · exact wf_readRanges h
  · exact wf_writeRanges h
  · exact wf_writeRanges h
  · split
    · exact wf_l1Atomic h
    · exact wf_writeTarget (wf_readTarget h)

theorem wf_pinLane : Memory.wf (pinLane s u a la marks).mem := by
  unfold pinLane
  dsimp only
  split
  · refine wf_foldl ?_ fun _ _ h => wf_pinWriter h
    split
    · exact wf_pinRead h
    · exact h
  · split
    · exact wf_pinRead h
    · exact h

theorem wf_performLane : Memory.wf (performLane s aid la l1).mem := by
  unfold performLane
  split
  · exact h
  · split
    · exact h
    · extract_lets scope bad s0 race marks s1 s2 near
      have h0 : Memory.wf s0.mem := wf_ite (wf_foldl h fun _ _ h => wf_meetPoison h) h
      have h2 : Memory.wf s2.mem := wf_beforeOrdered (wf_foldl h0 fun _ _ h => wf_prepareLine h)
      clear_value s2 s0
      split
      · exact wf_modifyAccess h0
      · exact wf_modifyAccess (wf_pinLane (wf_afterAcquire (wf_ite (wf_laneEffect h2) (wf_recordLane (wf_laneEffect h2)))))

theorem wf_performLanes : OptWf (performLanes s aid l1 n xs'') := by
  induction n generalizing s xs'' with
  | zero => exact h
  | succ n ih =>
    cases xs'' with
    | nil => exact h
    | cons la t =>
      unfold performLanes
      split
      · trivial
      · split
        · exact ih h
        · split
          · trivial
          · exact ih (wf_settleBy (wf_performLane h))

theorem wf_completeAccess : Memory.wf (completeAccess s aid a).mem := by
  unfold completeAccess
  dsimp only
  split
  · exact wf_modifyGroup h
  · refine wf_soundEnd ?_
    split
    · exact wf_logRace (wf_modifyGroup h)
    · exact wf_modifyGroup h

theorem wf_returnLanes : Memory.wf (returnLanes s aid n).mem := by
  unfold returnLanes
  split
  · exact h
  · dsimp only
    split
    · exact wf_settle (wf_completeAccess (wf_modifyGroup h))
    · exact wf_modifyAccess (wf_modifyGroup h)

theorem wf_acknowledgePeers : Memory.wf (acknowledgePeers s aid n).mem := by
  unfold acknowledgePeers
  split
  · exact h
  · exact wf_settle (wf_modifyAccess h)

end

/-! ## The gate of a demotion (spec/14 R369 to R371) -/

section
variable {s : State} {gid ctx : Nat} (h : Memory.wf s.mem)
include h

theorem wf_takeBackMinimum : Memory.wf (takeBackMinimum s gid).mem := by
  unfold takeBackMinimum
  split
  · exact h
  · split
    · exact h
    · dsimp only
      split
      · exact h
      · exact wf_setGroup h

theorem wf_beginDemotion : Memory.wf (beginDemotion s ctx).mem := by
  unfold beginDemotion
  split
  · exact h
  · split
    · split
      · exact wf_setContext h
      · exact h
    · exact wf_foldl h fun _ _ h => wf_takeBackMinimum h

end

/-! ## From a clause to an instruction (spec/04 R83 to R87) -/

section
variable {s : State} {u : Issuer} {pages : List (Nat × Nat)} {r : Raise} {index core ctx gid : Nat} {x w : Word64}
  (h : Memory.wf s.mem)
include h

theorem wf_parkFor : Memory.wf (parkFor s u pages).mem := wf_block h

theorem wf_headerTrap : Memory.wf (headerTrap s u r).mem := wf_takeTrap h

theorem wf_raiseHeld : OptWf (raiseHeld s u) := by
  unfold raiseHeld
  split
  · trivial
  · exact wf_takeTrap h

theorem wf_meetBreakpoint : OptWf (meetBreakpoint s u index) := by
  unfold meetBreakpoint
  split
  · trivial
  · split
    · exact wf_beginDemotion (wf_setGroup h)
    · exact wf_takeTrap h

theorem wf_stageSync : Memory.wf (stageSync s core ctx).mem := wf_modifyCore (wf_stagePacket h)

theorem wf_periodicSync : Memory.wf (periodicSync s core ctx).mem := by
  unfold periodicSync
  split
  · exact h
  · split
    · exact wf_stageSync h
    · exact h

theorem wf_clausePacket : Memory.wf (clausePacket s u x).mem := by
  unfold clausePacket
  split
  · exact h
  · exact wf_stagePacket (wf_periodicSync h)

/-- A header passed goes on from a state in the form. -/
theorem wf_processHeader : StageWf id (processHeader s u) := by
  unfold processHeader
  split
  · exact (wf_raiseHeld h).of_some ‹_›
  · dsimp only
    split
    · next e =>
      split at e
      · exact (wf_meetBreakpoint h).of_some e
      · cases e
    · split
      · trivial
      · exact wf_parkFor h
      · exact wf_headerTrap h
      · split
        · exact wf_takeTrap h
        · split
          · exact wf_headerTrap h
          · split
            · exact wf_setGroup h
            · refine wf_setGroup ?_
              split
              · exact h
              · exact wf_clausePacket h

theorem wf_sampleIssue : Memory.wf (sampleIssue s u w).mem := by
  unfold sampleIssue
  split
  · exact h
  · split
    · exact wf_modifyGroup h
    · dsimp only
      split
      · exact h
      · exact wf_modifyGroup (wf_modifyCore h)

theorem wf_fetchInstr : StageWf Prod.snd (fetchInstr s u) := by
  unfold fetchInstr
  split
  · exact (wf_raiseHeld h).of_some ‹_›
  · split
    · exact (wf_meetBreakpoint h).of_some ‹_›
    · dsimp only
      split
      · trivial
      · exact wf_parkFor h
      · exact wf_headerTrap h
      · split
        · exact wf_trapPlain h
        · split
          · exact wf_takeTrap h
          · exact wf_sampleIssue h

theorem wf_groupTurn : StageWf Prod.snd (groupTurn s gid) := by
  unfold groupTurn
  split
  · exact h
  · split
    · exact h
    · exact wf_fetchInstr h

end

/-! ## The issue of memory instructions (spec/06 R152 to R155; spec/10 R259 to R263) -/

section
variable {s : State} {u : Issuer} {m : MemOp} {r : Raise} {a : Access} {rs : List (LaneAccess × Granule × Found)} {aid n : Nat}
  {la : LaneAccess} {pend : List (Bool × Nat × Nat)} {now checks l1 : Bool} {red : Option RedOp}
  {p : LaneAccess × Granule × Found} {build : Issuer → MemOp} {pre : Issuer → Option Raise} {red' : Issuer → Option RedOp}
  (h : Memory.wf s.mem)
include h

theorem wf_trapMem : Memory.wf (trapMem s u m r).mem := by
  unfold trapMem
  split
  · exact wf_trapScalar h
  · exact wf_trapLanes h

theorem wf_raceTrap : Memory.wf (raceTrap s u m a rs).mem := by
  unfold raceTrap
  split
  · exact h
  · refine wf_trapMem ?_
    split
    · exact wf_logRace h
    · exact h

theorem wf_sendLane : Memory.wf (sendLane s u aid a la).mem := wf_send h

theorem wf_sendLanes : Memory.wf (sendLanes s u aid a).mem := by
  unfold sendLanes
  refine wf_foldl ?_ fun _ _ h => wf_sendLane h
  split
  · exact wf_pinTeam h
  · exact h

theorem wf_beginAccess : Memory.wf (beginAccess s u aid a pend now checks).mem := by
  unfold beginAccess
  dsimp only
  split
  · refine wf_getD ?_ ?_
    · refine wf_performLanes ?_
      split
      · exact wf_block h
      · split
        · exact wf_block (wf_sendLanes h)
        · split
          · exact wf_block h
          · exact wf_finishInFlight h
    · split
      · exact wf_block h
      · split
        · exact wf_block (wf_sendLanes h)
        · split
          · exact wf_block h
          · exact wf_finishInFlight h
  · split
    · exact wf_block h
    · split
      · exact wf_block (wf_sendLanes h)
      · split
        · exact wf_block h
        · exact wf_finishInFlight h

theorem wf_holdMinimum : Memory.wf (holdMinimum s u a).mem := wf_setGroup h

theorem wf_bufferReds : Memory.wf (bufferReds s u a).mem := wf_finish (wf_modifyTeam h)

theorem wf_effectOf : OutWf (effectOf s u a pend red) := by
  unfold effectOf
  split
  · exact wf_finish h
  · split
    · exact wf_bufferReds h
    · split
      · exact wf_holdMinimum h
      · dsimp only
        split
        · exact wf_stallIn h
        · split
          · exact h
          · exact wf_beginAccess (wf_fresh h)

theorem wf_issueAccess : OutWf (issueAccess s u m red) := by
  unfold issueAccess
  split
  extract_lets a early
  clear_value early
  split
  · split
    · exact h
    · split
      · exact wf_trapMem h
      · split
        · exact wf_trapMem h
        · exact wf_raceTrap h
  · split
    · trivial
    · split
      · exact wf_parkFor h
      · split
        · exact wf_effectOf h
        · split
          · exact wf_effectOf h
          · exact wf_raceTrap h

theorem wf_nullifyAccess : Memory.wf (nullifyAccess s u aid a p).mem := by
  unfold nullifyAccess
  refine wf_settle ?_
  refine wf_takeTrap ?_
  split
  · exact wf_logRace h
  · exact h

theorem wf_advanceAccess : OptWf (advanceAccess s aid n l1) := by
  unfold advanceAccess
  split
  · trivial
  · split
    · trivial
    · split
      · exact wf_map (wf_performLanes h) fun _ h => wf_returnLanes h
      · split
        · exact wf_map (wf_performLanes h) fun _ h => wf_returnLanes h
        · split
          · trivial
          · split
            · exact wf_nullifyAccess h
            · exact wf_map (wf_performLanes (wf_modifyAccess h)) fun _ h => wf_returnLanes (wf_settle h)

theorem wf_memoryOp : OutWf (memoryOp s build pre red') := by
  unfold memoryOp
  refine wf_withIssuer fun _ => ?_
  split
  · exact wf_stallIn h
  · split
    · exact wf_trapMem h
    · exact wf_issueAccess h

end

/-! ## Integer instructions (spec/08 R221 to R231) -/

section
variable {s : State} {w wd : IWidth} {f : FormV} {op : Nat → Nat → Nat} {op' : Nat → Nat → Nat → Nat} {op'' : Nat → Nat}
  {f' : FormI} {g : Sign} {e : PackWidth} (h : Memory.wf s.mem)
include h

theorem wf_intOp2 : OutWf (intOp2 s w f op) := wf_vectorOp h

theorem wf_intOp3 : OutWf (intOp3 s w f op') := wf_vectorOp h

theorem wf_intOp1 : OutWf (intOp1 s wd w f op'') := wf_vectorOp h

theorem wf_shiftOp : OutWf (shiftOp s w f op) := wf_vectorOp h

theorem wf_immOp : OutWf (immOp s f' op) := wf_vectorOp h

theorem wf_shiftImmOp : OutWf (shiftImmOp s f' op) := wf_vectorOp h

end

/-! ## Long-latency results (spec/08 R206) -/

section
variable {s : State} {u : Issuer} {kind : DeferredKind} {ws : List DeferredWrite} {fl : Flags} {k : LaneForm} {d : Use}
  {pre : Issuer → Option Raise} {f : Issuer → Nat → LaneOut} {n : Nat} {ok : DeferredKind → Bool} (h : Memory.wf s.mem)
include h

theorem wf_issueDeferred : Memory.wf (issueDeferred s u kind ws fl).mem := by
  unfold issueDeferred
  split
  · exact wf_finish h
  · exact wf_finishInFlight h

theorem wf_longOp : OutWf (longOp s k d kind pre f) := by
  unfold longOp
  refine wf_withIssuer fun _ => ?_
  split
  · exact wf_stallIn h
  · split
    · exact wf_trapLanes h
    · dsimp only
      split
      · split
        · exact wf_trapScalar h
        · exact wf_trapLanes h
      · exact wf_issueDeferred h

theorem wf_completeDeferred : OutWf (completeDeferred s n ok) := by
  unfold completeDeferred
  split
  · trivial
  · split
    · trivial
    · dsimp only
      split
      · exact wf_modifyGroup h
      · exact wf_soundEnd (wf_modifyGroup h)

end

/-! ## Floating-point arithmetic (spec/09 R236 to R247) -/

section
variable {s : State} {t : ArithForm} {f : FormV} {op : FloatFmt → Rounding → Nat → Nat → Coded} {t' : FType}
  {op' : FloatFmt → Nat → Nat → Coded} {op'' : FloatFmt → Nat → Coded} {f' : FormI} {t'' : FWidth} {m : Rounding}
  (h : Memory.wf s.mem)
include h

theorem wf_floatOp2 : OutWf (floatOp2 s t f op) := by
  unfold floatOp2
  exact wf_vectorOp h

theorem wf_typeOp2 : OutWf (typeOp2 s t' f op') := by
  unfold typeOp2
  exact wf_vectorOp h

theorem wf_typeOp1 : OutWf (typeOp1 s t' f op'') := by
  unfold typeOp1
  exact wf_vectorOp h

theorem wf_floatImmOp : OutWf (floatImmOp s f' op) := wf_vectorOp h

theorem wf_execFfma : OutWf (execFfma t f s) := by
  unfold execFfma
  exact wf_vectorOp h

end

/-! ## Conversions (spec/09 R251 to R257) -/

section
variable {s : State} {f : FormV} {access : Nat} (h : Memory.wf s.mem)
include h

theorem wf_execCvt : OutWf (execCvt f s) := by
  unfold execCvt
  exact wf_vectorOp h

theorem wf_execFxcvt : OutWf (execFxcvt f s) := by
  unfold execFxcvt
  dsimp only
  split <;> exact wf_vectorOp h

theorem wf_execDotp : OutWf (execDotp f s) := by
  unfold execDotp
  refine wf_withIssuer fun _ => ?_
  split
  · split
    · exact wf_trapLanes h
    · exact wf_longOp h
  · exact wf_vectorOp h

theorem wf_execMxd : OutWf (execMxd f s) := by
  unfold execMxd
  exact wf_checkedOp h fun _ => wf_runLanes h

end

/-! ## Loads and stores (spec/10 R261 to R267) -/

section
variable {s : State} {sp : Space} {w : LoadWidth} {f : FormM} {w' : StoreWidth} {u : Issuer} {l access lanes : Nat}
  {sp' : GTSpace} {l1 : Bool} {ok : AccessKind → Bool} (h : Memory.wf s.mem)
include h

theorem wf_prefetchLane : Memory.wf (prefetchLane u f s l).mem := by
  unfold prefetchLane
  dsimp only
  split
  · exact h
  · split
    · split
      · exact wf_fillRange (wf_prepareLine h)
      · exact h
    · exact h

theorem wf_execPf : OutWf (execPf f s) := by
  unfold execPf
  refine wf_withIssuer fun _ => ?_
  dsimp only
  split
  · split
    · exact wf_trapScalar h
    · exact wf_trapLanes h
  · exact wf_finish (wf_foldl h fun _ _ h => wf_prefetchLane h)

theorem wf_stepAccess : OutWf (stepAccess s access lanes l1 ok) := by
  unfold stepAccess
  split
  · trivial
  · split
    · trivial
    · split
      · exact (wf_advanceAccess h).of_some ‹_›
      · trivial

theorem wf_execStorePerform : OutWf (execStorePerform access lanes s) := by
  unfold execStorePerform
  split
  · trivial
  · split
    · exact wf_acknowledgePeers h
    · exact wf_stepAccess h

end

/-! ## Fences, barriers and arrival sets (spec/10 R272 to R281) -/

section
variable {s : State} {f : FormM} {core group ctx lid sub detail tid k i b ep credit : Nat} {lvl : Level} {pod : Bool}
  {f' : FormV} {u : Issuer} {a : Access} {la : LaneAccess} {t : Target} {from_ : Option (Nat × Nat)} (h : Memory.wf s.mem)
include h

theorem wf_execFence : OutWf (execFence f s) := by
  unfold execFence
  refine wf_groupOp h fun _ => ?_
  dsimp only
  split
  · exact h
  · refine wf_finish ?_
    split
    · refine wf_acquireLines ?_
      split
      · exact wf_cleanCore h
      · exact h
    · split
      · exact wf_cleanCore h
      · exact h

theorem wf_releaseLines : Memory.wf (releaseLines s core lvl).mem := by
  unfold releaseLines
  split
  · exact h
  · exact wf_cleanCore h

theorem wf_barrierOp : OutWf (barrierOp s lvl pod) := by
  unfold barrierOp
  refine wf_groupOp h fun _ => ?_
  split
  · exact h
  · exact wf_settle (wf_block (wf_releaseLines h))

theorem wf_execArrive : OutWf (execArrive f' s) := by
  unfold execArrive
  refine wf_groupOp h fun _ => ?_
  split
  · exact h
  · exact wf_settle (wf_finish (wf_releaseLines h))

theorem wf_execAwait : OutWf (execAwait f' s) := by
  unfold execAwait
  refine wf_withIssuer fun _ => ?_
  split
  · exact wf_trapScalar h
  · split
    · exact wf_trapScalar h
    · exact wf_settle (wf_block h)

theorem wf_readNow : Memory.wf (readNow s u a la).2.2.mem := by
  unfold readNow
  dsimp only
  split
  · exact wf_performLane h
  · split
    · split
      · exact wf_logRace (wf_performLane h)
      · exact wf_performLane h
    · split
      · exact wf_logRace (wf_performLane h)
      · exact wf_performLane h

theorem wf_beginMonitor : Memory.wf (beginMonitor s u a la).mem := by
  unfold beginMonitor
  dsimp only
  split
  · exact wf_readNow h
  · split
    · exact wf_finish (wf_readNow h)
    · exact wf_block (wf_readNow h)

theorem wf_monwaitAt : OutWf (monwaitAt s u f' t) := by
  unfold monwaitAt
  dsimp only
  split
  · exact h
  · split
    · exact wf_holdMinimum h
    · split
      · exact h
      · split
        · exact wf_beginMonitor h
        · refine wf_trapScalar ?_
          split
          · exact wf_logRace h
          · exact h

theorem wf_execMonwait : OutWf (execMonwait f' s) := by
  unfold execMonwait
  refine wf_groupOp h fun _ => ?_
  dsimp only
  split
  · exact wf_trapScalar h
  · split
    · exact wf_trapScalar h
    · split
      · exact wf_trapScalar h
      · trivial
      · exact wf_trapScalar h
      · exact wf_monwaitAt h
      · exact wf_parkFor h

theorem wf_execMonitorTimeout : OutWf (execMonitorTimeout group s) := by
  unfold execMonitorTimeout
  split
  · trivial
  · split
    · split
      · trivial
      · refine wf_takeTrap ?_
        split
        · exact wf_flagNondet h
        · exact h
    · trivial

theorem wf_arrivalError : Memory.wf (arrivalError s ctx lid sub detail).mem := wf_contextEvent h

theorem wf_execArvinit : OutWf (execArvinit f' s) := by
  unfold execArvinit
  refine wf_withIssuer fun _ => ?_
  dsimp only
  split
  · exact wf_trapScalar h
  · split
    · exact wf_trapScalar h
    · split
      · exact wf_trapScalar h
      · exact wf_settle (wf_finish (wf_modifyTeam h))

theorem wf_execArvexp : OutWf (execArvexp f' s) := by
  unfold execArvexp
  refine wf_withIssuer fun _ => ?_
  dsimp only
  split
  · exact wf_trapScalar h
  · split
    · exact wf_trapScalar h
    · refine wf_settle ?_
      refine wf_finish ?_
      split
      · exact wf_arrivalError (wf_modifyTeam h)
      · exact wf_modifyTeam h

theorem wf_execArvwait : OutWf (execArvwait f' s) := by
  unfold execArvwait
  refine wf_withIssuer fun _ => ?_
  dsimp only
  split
  · exact wf_trapScalar h
  · split
    · exact wf_trapScalar h
    · split
      · exact wf_trapScalar h
      · exact wf_settle (wf_block h)

theorem wf_creditSet : Memory.wf (creditSet s ctx tid k i b from_).mem := by
  unfold creditSet
  split
  · exact h
  · dsimp only
    split
    · exact wf_arrivalError h
    · split
      · exact wf_arrivalError h
      · refine wf_settle ?_
        split
        · exact wf_arrivalError (wf_setTeam h)
        · exact wf_setTeam h

theorem wf_creditEndpoint : Memory.wf (creditEndpoint s ctx ep i b from_).mem := by
  unfold creditEndpoint
  split
  · exact wf_arrivalError h
  · exact wf_creditSet h

theorem wf_execDeliveryCredit : OutWf (execDeliveryCredit credit s) := by
  unfold execDeliveryCredit
  split
  · trivial
  · dsimp only
    split
    · exact wf_creditEndpoint h
    · exact wf_creditSet h

end

/-! ## The engines (spec/07 R178, R186; spec/10 R282 to R288) -/

section
variable {s : State} {e : EngineSite} {r : EngineRun} {p : Place} {t : Target} {n : Nat} {writes : Bool} {bad : List Bool}
  {bytes : List (Byte × Bool)} {c : Chunk} (h : Memory.wf s.mem)
include h

omit h in
theorem wf_noteEngine (h : Memory.wf r.s.mem) : Memory.wf (noteEngine e r p t n writes).s.mem := by
  unfold noteEngine
  extract_lets s0
  have touched : Memory.wf s0.mem := by
    cases p with
    | glob va => exact wf_walkFill h
    | _ => exact h
  clear_value s0
  split
  · exact wf_meetPoison touched
  · exact wf_foldl touched fun _ _ h => wf_setMark h

theorem wf_engineRead : Memory.wf (engineRead s e t n).2.mem := wf_readTarget (wf_prepareLine h)

theorem wf_poisonTarget : Memory.wf (poisonTarget s t bad).mem := by
  unfold poisonTarget
  dsimp only
  split
  · exact h
  · exact wf_modifyTeam h
  · exact h

theorem wf_engineWrite : Memory.wf (engineWrite s e t bytes).mem :=
  wf_settle (wf_poisonTarget (wf_writeTarget (wf_prepareLine h)))

omit h in
theorem wf_writeChunk (h : Memory.wf r.s.mem) : Memory.wf (writeChunk e r c bytes).s.mem := by
  unfold writeChunk
  split
  · exact h
  · exact h
  · split
    · exact h
    · exact wf_engineWrite (wf_noteEngine (wf_pinWriter h))
    · exact h

omit h in
theorem wf_readChunk {c : Chunk} (h : Memory.wf r.s.mem) : Memory.wf (readChunk e r c).2.s.mem := by
  unfold readChunk
  split
  · exact h
  · exact h
  · split
    · exact h
    · exact wf_engineRead (wf_noteEngine (wf_pinRead h))
    · exact h

omit h in
theorem wf_readUnit {cs : List Chunk} (h : Memory.wf r.s.mem) : Memory.wf (readUnit e r cs).2.s.mem := by
  induction cs generalizing r with
  | nil => exact h
  | cons c t ih => exact ih (wf_readChunk h)

omit h in
theorem wf_writeChunks {ps : List (Chunk × List (Byte × Bool))} (h : Memory.wf r.s.mem) :
    Memory.wf (ps.foldl (fun r p => writeChunk e r p.1 p.2) r).s.mem := by
  induction ps generalizing r with
  | nil => exact h
  | cons p t ih => exact ih (wf_writeChunk h)

omit h in
theorem wf_performUnit {cs : List Chunk} (h : Memory.wf r.s.mem) : Memory.wf (performUnit e r cs).s.mem :=
  wf_writeChunks (wf_readUnit h)

omit h in
theorem wf_performUnits {us : List (List Chunk)} (h : Memory.wf r.s.mem) : Memory.wf (performUnits e r us).run.s.mem := by
  induction us generalizing r with
  | nil => exact h
  | cons u t ih =>
    unfold performUnits
    dsimp only
    split
    · exact ih (wf_performUnit h)
    · exact h

end

/-! ## How groups and teams end (spec/02 R36, R37, R51) -/

section
variable {s : State} {gid ctx tid w : Nat} {own : Option (BitVec 512)} {c : KillCause} {gids : List Nat} (h : Memory.wf s.mem)
include h

theorem wf_killSounds : Memory.wf (killSounds s gid ctx own).mem := wf_foldl h fun _ _ h => wf_pushSound h

theorem wf_killGroup : Memory.wf (killGroup s gid c).mem := by
  unfold killGroup
  split
  · exact h
  · split
    · exact h
    · extract_lets s1 s2 s3 s4 s5 s6 s7
      have h3 : Memory.wf s3.mem := wf_modifyTeam (wf_modifyLaunch (wf_killSounds h))
      have h4 : Memory.wf s4.mem := wf_ite (wf_flagNondet h3) h3
      have h5 : Memory.wf s5.mem := wf_ite (wf_tracePacket h4) h4
      refine wf_modifyGroup ?_
      dsimp only [s7]
      split
      · exact h5
      · exact h5

theorem wf_endTeam : Memory.wf (endTeam s tid).mem := by
  unfold endTeam
  split
  · exact h
  · split
    · exact h
    · exact wf_setTeam h

theorem wf_orphanPartners : Memory.wf (orphanPartners s gids).mem := by
  unfold orphanPartners
  refine wf_foldl h fun _ _ h => ?_
  split
  · exact h
  · split
    · exact wf_orphanHeld h
    · exact h

theorem wf_afterEnded : Memory.wf (afterEnded s gids).mem := wf_foldl (wf_orphanPartners h) fun _ _ h => wf_endTeam h

theorem wf_killAll : Memory.wf (killAll s gids c).mem := wf_afterEnded (wf_foldl h fun _ _ h => wf_killGroup h)

theorem wf_killUnserved : Memory.wf (killUnserved s).mem := wf_killAll h

theorem wf_kill : Memory.wf (kill s gids c).mem := wf_settle (wf_killUnserved (wf_killAll h))

theorem wf_retireGroup : Memory.wf (retireGroup s gid w).mem := wf_settle (wf_killUnserved (wf_afterEnded (wf_modifyGroup h)))

end

/-! ## Engine entries (spec/10 R282 to R292) -/

section
variable {s : State} {u : Issuer} {kind : EntryKind}
  {opc engine id gid sub cause off addr md ctx comm k op ty rop root count recv entry core : Nat} {e : Entry} {fl : Flags}
  {f : EngineFault} {cls : FaultClass} {xs : List (Nat × Nat × List Byte)} {rs : List (Nat × Nat × Nat)} {site : EngineSite}
  {units : List (List Chunk)} {given : List (Byte × Bool)} {c p : FabricColl} {c' : Communicator} {r : EngineRun}
  {xs' ids : List Nat} {x : ℤ} (h : Memory.wf s.mem)
include h

theorem wf_issueCopy : Memory.wf (issueCopy s u kind opc engine).mem := wf_finish (wf_modifyCore h)

theorem wf_issueCounted : Memory.wf (issueCounted s u kind opc engine).mem := wf_finishInFlight h

theorem wf_chargeDebt : Memory.wf (chargeDebt s e).mem := by
  unfold chargeDebt
  split
  · exact h
  · dsimp only
    split
    · exact wf_modifyCore h
    · exact wf_modifyLaunch (wf_modifyCore h)

theorem wf_releaseTile : Memory.wf (releaseTile s e).mem := by
  unfold releaseTile
  split
  · exact wf_modifyTeam h
  · exact h

theorem wf_dequeue : Memory.wf (dequeue s id e).mem := wf_modifyCore h

theorem wf_endEntry : Memory.wf (endEntry s id e fl).mem :=
  wf_settle (wf_soundEnd (wf_modifyGroup (wf_chargeDebt (wf_dequeue (wf_releaseTile h)))))

theorem wf_holdFor : Memory.wf (holdFor s gid f).mem := by
  unfold holdFor
  split
  · exact h
  · split
    · split
      · exact wf_modifyLaunch h
      · exact h
    · exact wf_modifyGroup h

theorem wf_failEntry : Memory.wf (failEntry s id e cls sub cause off addr md).mem := by
  unfold failEntry
  split
  · exact wf_endEntry h
  · exact wf_endEntry (wf_holdFor h)

theorem wf_sendPuts : Memory.wf (sendPuts s id e xs).mem := by
  induction xs generalizing s with
  | nil => exact h
  | cons p t ih => exact ih (wf_pinTeam (wf_send h))

theorem wf_sendGets : Memory.wf (sendGets s id e rs).mem := wf_foldl h fun _ _ h => wf_send h

theorem wf_runUnits : ProgressWf (runUnits s id e site units given) := by
  unfold runUnits
  dsimp only
  split
  · exact wf_modifyEntry h
  · trivial
  · refine iteInduction (motive := ProgressWf) (fun _ => trivial) fun _ => ?_
    refine iteInduction (motive := ProgressWf) (fun _ => wf_sendGets h) fun _ => ?_
    generalize ho : performUnits _ _ _ = o
    have ho : Memory.wf o.run.s.mem := by rw [← ho]; exact wf_performUnits h
    split
    · split
      · exact ho
      · refine wf_failEntry (wf_sendPuts ?_)
        split
        · exact wf_logRace ho
        · exact ho
    · split
      · refine wf_failEntry (wf_sendPuts ?_)
        split
        · exact wf_logRace ho
        · exact ho
      · dsimp only [ProgressWf]
        split
        · exact wf_logRace ho
        · exact ho

theorem wf_failCollective : Memory.wf (failCollective s ctx comm k sub).mem := by
  unfold failCollective
  split
  · exact h
  · split
    · exact h
    · exact wf_foldl (wf_contextEvent h) fun _ _ h => wf_failEntry h

theorem wf_stagePart : Memory.wf (stagePart s ctx c).mem := by
  unfold stagePart
  split
  · split
    · exact h
    · dsimp only
      split
      · exact wf_failCollective h
      · exact h
  · exact h

theorem wf_dropStaged : Memory.wf (dropStaged s ctx comm k).mem := by
  unfold dropStaged
  split
  · dsimp only
    split <;> exact h
  · exact h

theorem wf_sendPart : Memory.wf (sendPart s id e c' p).mem := by
  unfold sendPart
  refine wf_foldl ?_ fun _ _ h => wf_foldl h fun _ _ h => wf_send h
  split
  · exact h
  · exact wf_pinTeam h

theorem wf_runCollective : ProgressWf (runCollective s id e u comm k op ty rop root count recv) := by
  unfold runCollective
  split
  · exact wf_failEntry h
  · dsimp only
    split
    · split
      · trivial
      · split
        · exact wf_stagePart (wf_modifyEntry (wf_sendPart ((wf_runUnits h).of_done ‹_›)))
        · exact wf_runUnits h
    · split
      · split
        · trivial
        · exact h
      · split
        · trivial
        · split
          · trivial
          · exact wf_runUnits h

omit h in
theorem wf_afterRun (h : Memory.wf r.s.mem) : Memory.wf (afterRun id e r).mem := by
  unfold afterRun
  dsimp only
  split
  · split
    · exact wf_endEntry (wf_sendPuts h)
    · exact wf_modifyEntry (wf_sendPuts h)
  · split
    · exact wf_dropStaged (wf_endEntry (wf_sendPuts h))
    · exact wf_modifyEntry (wf_sendPuts h)
  · split
    · exact wf_modifyEntry (wf_sendPuts h)
    · exact wf_endEntry (wf_sendPuts h)

/-- What an entry's progress leaves. -/
theorem wf_advanceEntry : OutWf (advanceEntry s id e) := by
  unfold advanceEntry
  split
  · trivial
  · split
    · trivial
    · extract_lets e0 s0 goOn s1
      have h0 : Memory.wf s0.mem := wf_modifyEntry h
      have h1 : Memory.wf s1.mem := by
        dsimp only [s1]
        split
        · exact wf_ite h0 (wf_cleanCore h0)
        · exact h0
      have wentOn : ∀ p, ProgressWf p → OutWf (goOn p) := fun p hp => by
        cases p with
        | done r => exact wf_afterRun hp
        | waits _ => exact hp
        | idle => trivial
        | failed _ => exact hp
        | nowhere _ => trivial
      clear_value goOn s1 s0
      split
      · exact wentOn _ (wf_runCollective h0)
      · split
        · split
          · trivial
          · exact wf_endEntry h0
        · split
          · trivial
          · exact wentOn _ (wf_runUnits h1)

theorem wf_execCopyEntryComplete : OutWf (execCopyEntryComplete entry s) := by
  unfold execCopyEntryComplete
  split
  · trivial
  · split
    · trivial
    · exact wf_advanceEntry h

theorem wf_execAccstCompletion : OutWf (execAccstCompletion entry s) := by
  unfold execAccstCompletion
  split
  · trivial
  · split
    · exact wf_advanceEntry h
    · trivial

theorem wf_execHzstoreCompletion : OutWf (execHzstoreCompletion entry s) := by
  unfold execHzstoreCompletion
  split
  · trivial
  · split
    · exact wf_advanceEntry h
    · trivial

theorem wf_startHeads : Memory.wf (startHeads s xs' x).1.mem := by
  induction xs' generalizing s x with
  | nil => exact h
  | cons n t ih =>
    unfold startHeads
    split
    · exact h
    · exact ih (wf_modifyEntry h)

theorem wf_endEmpty : Memory.wf (endEmpty s ids).mem := by
  unfold endEmpty
  refine wf_foldl h fun _ _ h => ?_
  split
  · split
    · exact wf_endEntry h
    · exact h
  · exact h

theorem wf_execEngineEntryStart : OutWf (execEngineEntryStart core engine s) := by
  unfold execEngineEntryStart
  split
  · trivial
  · split
    · trivial
    · exact wf_endEmpty (wf_modifyCore (wf_startHeads h))

end

/-! ## Copies and collectives (spec/10 R282 to R291) -/

section
variable {s : State} {uses : List Use} {opc off v comm rank : Nat} {build : State → Issuer → Except Raise EntryKind} {f : FormV}
  {u : Issuer} {n : BitVec 32} {f' : FormI} {a : Access} {p : LaneAccess × Granule × Found}
  {k : Nat → Except Raise (State → Out)} {c : Communicator} (h : Memory.wf s.mem)
include h

theorem wf_copyOp : OutWf (copyOp s uses opc build) := by
  unfold copyOp
  refine wf_withIssuer fun _ => ?_
  split
  · exact wf_trapScalar h
  · split
    · exact wf_trapScalar h
    · split
      · exact wf_stallIn h
      · exact wf_issueCopy h

theorem wf_execCpclose : OutWf (execCpclose f s) := by
  unfold execCpclose
  refine wf_groupOp h fun _ => ?_
  dsimp only
  split
  · exact wf_stallIn h
  · exact wf_finish h

theorem wf_copyWait : Memory.wf (copyWait s u uses n).mem := by
  unfold copyWait
  split
  · exact wf_trapScalar h
  · exact wf_settle (wf_block h)

theorem wf_raceTrapScalar : Memory.wf (raceTrapScalar s u a p uses).mem := by
  unfold raceTrapScalar
  refine wf_trapScalar ?_
  split
  · exact wf_logRace h
  · exact h

theorem wf_withDescriptor (hk : ∀ v f, k v = .ok f → ∀ t, Memory.wf t.mem → OutWf (f t)) :
    OutWf (withDescriptor s u uses off opc k) := by
  unfold withDescriptor
  dsimp only
  split
  · exact h
  · split
    · exact h
    · split
      · exact wf_raceTrapScalar h
      · split
        · exact wf_trapScalar h
        · exact hk _ _ ‹_› _ (wf_readNow h)

theorem wf_issueColl : Memory.wf (issueColl s u v comm c rank).mem := by
  unfold issueColl
  dsimp only
  split
  · split
    · exact wf_dropStaged (wf_failEntry (wf_modifyContext (wf_issueCopy h)))
    · exact wf_modifyContext (wf_issueCopy h)
  · exact wf_modifyContext (wf_issueCopy h)

theorem wf_execColl : OutWf (execColl f s) := by
  unfold execColl
  refine wf_groupOp h fun _ => ?_
  dsimp only
  split
  · exact wf_trapScalar h
  · split
    · exact wf_stallIn h
    · refine wf_withDescriptor h fun v f e => ?_
      split at e
      · cases e
      · split at e
        · cases e
        · split at e <;> cases e
          exact fun _ h => wf_issueColl h

end

/-! ## Joint matrix operations (spec/11 R294 to R310) -/

section
variable {s : State} {f : FormI} {f' : FormV} {u : Issuer} {m : MatrixForm} {hs : List Held} {r : Raise}
  {op sub cause off addr md agent tid access : Nat} {x : Held} {f'' : FormT} {j : JointOp} {fl : BitVec 7} {cls : FaultClass}
  {keys : List Nat} {bytes : List (Byte × Bool)} {m' : Member} {uses : List Use} {n : BitVec 32} {sp : GTSpace} {f''' : FormM}
  (h : Memory.wf s.mem)
include h

theorem wf_execGangset : OutWf (execGangset f s) := by
  unfold execGangset
  refine wf_groupOp h fun _ => ?_
  split
  · exact wf_trapScalar h
  · exact wf_finish h

theorem wf_execOmap : OutWf (execOmap f' s) := by
  unfold execOmap
  refine wf_groupOp h fun _ => ?_
  dsimp only
  split
  · exact wf_trapScalar h
  · exact wf_finish h

theorem wf_execThset : OutWf (execThset f' s) := by
  unfold execThset
  refine wf_groupOp h fun _ => ?_
  dsimp only
  split
  · exact wf_trapScalar h
  · refine wf_withDescriptor h fun v f e => ?_
    split at e <;> cases e
    intro t h
    dsimp only
    split
    · trivial
    · exact wf_finish h

theorem wf_execOpfence : OutWf (execOpfence f' s) := by
  unfold execOpfence
  refine wf_withIssuer fun _ => ?_
  split
  · exact h
  · exact wf_finish h

theorem wf_holdMember : Memory.wf (holdMember s u m).mem := wf_setGroup h

theorem wf_faultMembers : Memory.wf (faultMembers s hs r).mem := wf_foldl h fun _ _ h => wf_faultHeld h

theorem wf_releaseMember : Memory.wf (releaseMember s op x).mem := wf_soundEnd (wf_setGroup h)

theorem wf_formJoint : Memory.wf (formJoint s op hs).mem := by
  unfold formJoint
  split
  · exact h
  · exact wf_foldl (wf_modifyTeam h) fun _ _ h => wf_releaseMember h

theorem wf_meetMembers : Memory.wf (meetMembers s op hs).mem := by
  unfold meetMembers
  split
  · exact h
  · dsimp only
    split
    · exact wf_faultMembers h
    · split
      · exact wf_faultMembers h
      · exact wf_formJoint h

theorem wf_matrixOp : OutWf (matrixOp s m) := by
  unfold matrixOp
  refine wf_withIssuer fun _ => ?_
  dsimp only
  split
  · exact wf_takeTrap h
  · split
    · exact wf_takeTrap h
    · split
      · exact wf_modifyGroup (wf_holdMember h)
      · exact wf_settle (wf_meetMembers (wf_holdMember h))

theorem wf_endJoint : Memory.wf (endJoint s op j fl).mem := wf_settle (wf_foldl (wf_modifyTeam h) fun _ _ h => wf_modifyGroup h)

theorem wf_failJoint : Memory.wf (failJoint s op j cls sub cause off addr md).mem := by
  unfold failJoint
  refine wf_endJoint ?_
  refine wf_foldl h fun _ _ h => ?_
  split
  · exact h
  · exact wf_holdFor h

theorem wf_meetTiles : Memory.wf (meetTiles s u agent tid keys).mem := by
  unfold meetTiles
  split
  · exact h
  · exact wf_foldl h fun _ _ h => wf_contextEvent (wf_modifyTeam h)

theorem wf_finishJoint : Memory.wf (finishJoint s op j u agent bytes).mem := by
  unfold finishJoint
  dsimp only
  split
  · refine wf_endJoint ?_
    refine wf_modifyTeam ?_
    split
    · exact h
    · exact wf_meetTiles h
  · exact wf_endJoint h

theorem wf_runJoint : OutWf (runJoint s op j m' u) := by
  unfold runJoint
  dsimp only
  split
  · exact h
  · trivial
  · exact wf_failJoint h
  · split
    · trivial
    · split
      · exact wf_foldl h fun _ _ h => wf_send h
      · generalize ho : performUnits _ _ _ = o
        have ho : Memory.wf o.run.s.mem := by rw [← ho]; exact wf_performUnits h
        split
        · refine wf_failJoint ?_
          split
          · exact wf_logRace ho
          · exact ho
        · refine wf_finishJoint ?_
          split
          · exact wf_logRace ho
          · exact ho

theorem wf_execMatrixOpComplete : OutWf (execMatrixOpComplete op s) := by
  unfold execMatrixOpComplete
  split
  · trivial
  · split
    · trivial
    · split
      · trivial
      · dsimp only
        split
        · trivial
        · exact wf_runJoint h

theorem wf_execMmclose : OutWf (execMmclose f' s) := by
  unfold execMmclose
  refine wf_groupOp h fun _ => ?_
  dsimp only
  split
  · exact wf_stallIn h
  · exact wf_finish h

theorem wf_matrixWait : Memory.wf (matrixWait s u uses n).mem := by
  unfold matrixWait
  split
  · exact wf_trapScalar h
  · exact wf_settle (wf_block h)

theorem wf_execAccld : OutWf (execAccld f'' s) := by
  unfold execAccld
  refine wf_withIssuer fun _ => ?_
  dsimp only
  split
  · exact wf_stallIn h
  · split
    · exact wf_trapLanes h
    · split
      · exact wf_trapLanes h
      · refine wf_issueDeferred ?_
        split
        · split
          · exact h
          · exact wf_meetTiles h
        · refine wf_modifyTeam ?_
          split
          · exact h
          · exact wf_meetTiles h

theorem wf_execAccldCompletion : OutWf (execAccldCompletion access s) := by
  unfold execAccldCompletion
  split
  · trivial
  · exact wf_completeDeferred (wf_modifyTeam h)

theorem wf_execAccst : OutWf (execAccst sp f''' s) := by
  unfold execAccst
  refine wf_withIssuer fun _ => ?_
  dsimp only
  split
  · exact wf_stallIn h
  · split
    · exact wf_trapScalar h
    · split
      · exact wf_trapScalar h
      · split
        · exact wf_trapScalar h
        · split
          · exact wf_trapScalar h
          · split
            · exact wf_trapScalar h
            · refine wf_issueCounted ?_
              split
              · exact wf_meetTiles (wf_modifyTeam h)
              · exact wf_modifyTeam h

theorem wf_execAcczero : OutWf (execAcczero f'' s) := by
  unfold execAcczero
  refine wf_withIssuer fun _ => ?_
  dsimp only
  split
  · exact wf_trapPlain h
  · exact wf_finish (wf_modifyTeam h)

theorem wf_execAccadd : OutWf (execAccadd f'' s) := by
  unfold execAccadd
  refine wf_withIssuer fun _ => ?_
  dsimp only
  split
  · exact wf_trapPlain h
  · refine wf_finish ?_
    refine wf_modifyTeam ?_
    split
    · exact h
    · exact wf_meetTiles h

end

/-! ## System instructions (spec/11 R320 to R323) -/

section
variable {s : State} {f : FormI} {f' : FormV} {u : Issuer} {v : Nat} {uses : List Use} {word : BitVec 11}
  {body : Issuer → State} (h : Memory.wf s.mem)
include h

theorem wf_execBrk : OutWf (execBrk f' s) := by
  unfold execBrk
  refine wf_groupOp h fun _ => ?_
  split
  · exact wf_trapScalar h
  · exact wf_finish h

theorem wf_execSysrd : OutWf (execSysrd f s) := by
  unfold execSysrd
  exact wf_groupOp h fun _ => wf_finish h

theorem wf_markPacket : Memory.wf (markPacket s u v).mem := wf_tracePacket h

theorem wf_mailboxOp (hb : ∀ u, Memory.wf (body u).mem) : OutWf (mailboxOp s uses word body) := by
  unfold mailboxOp
  refine wf_groupOp h fun _ => ?_
  split
  · exact wf_trapScalar h
  · exact hb _

theorem wf_execDmput : OutWf (execDmput f' s) := by
  unfold execDmput
  refine wf_mailboxOp h fun _ => ?_
  split
  · exact h
  · exact wf_finish (wf_modifyContext (wf_cleanCore h))

end

/-! ## Trap and demotion records (spec/21 R436 to R439) -/

section
variable {s : State} {u : Issuer} {i : TrapInfo} (h : Memory.wf s.mem)
include h

theorem wf_putRecord : Memory.wf (putRecord s u i).mem := wf_modifyGroup (wf_getD (wf_deviceWrite h) h)

end

/-! ## Whose move it is (spec/00 R4; log entry 2) -/

section
variable {s : State} {o : Out} (h : Memory.wf s.mem)
include h

theorem wf_takeTurn : Memory.wf (takeTurn s).mem := h

theorem wf_afterEvent (ho : OutWf o) : OutWf (afterEvent s o) := by
  unfold afterEvent
  split
  · exact h
  · exact h
  · exact ho

end

/-! ## Walks and fault buffers (spec/06 R165 to R173) -/

section
variable {s : State} {id level walk ctx va kind : Nat} {w : Walk} (h : Memory.wf s.mem)
include h

theorem wf_enterFault : OptWf (enterFault s id w level) := by
  unfold enterFault
  dsimp only
  split
  · exact h
  · split
    · trivial
    · split
      · exact h
      · exact wf_raiseVector h

theorem wf_replayStall : Memory.wf (replayStall s w).mem := by
  unfold replayStall
  split
  · exact wf_modifyGroup h
  · exact h

theorem wf_endWalk : Memory.wf (endWalk s id).mem := wf_settle h

theorem wf_execWalkComplete : OutWf (execWalkComplete walk s) := by
  unfold execWalkComplete
  split
  · trivial
  · split
    · trivial
    · split
      · exact wf_endWalk h
      · exact wf_endWalk h
      · split
        · trivial
        · exact wf_endWalk h
        · exact wf_endWalk (wf_walkFill h)
        · split
          · exact wf_replayStall ((wf_enterFault h).of_some ‹_›)
          · trivial

theorem wf_deviceWalk : Memory.wf (deviceWalk s ctx va kind).mem := by
  unfold deviceWalk
  dsimp only
  split <;> exact h

theorem wf_deviceReady_go {ps : List (Nat × Nat)} : AccessWf (deviceReady.go s ctx kind ps) := by
  induction ps with
  | nil => trivial
  | cons p t ih =>
    unfold deviceReady.go
    split
    · exact ih
    · exact wf_deviceWalk h
    · trivial
    · trivial

theorem wf_deviceReady : AccessWf (deviceReady s ctx kind va n) := wf_deviceReady_go h

end

/-! ## Calm mode (spec/14 R374 to R383) -/

section
variable {s : State} {f : Forced} {o : Out} {ctx gid n : Nat} {handler : Option Nat} (h : Memory.wf s.mem)
include h

theorem wf_forcedTurn : StageWf Prod.snd (forcedTurn s f) := by
  unfold forcedTurn
  extract_lets s0
  split
  · exact h
  · split
    · exact wf_wakeGroup (wf_setGroup h)
    · split
      · exact h
      · extract_lets s1
        have h1 : Memory.wf s1.mem := wf_setGroup h
        clear_value s1
        split
        · exact wf_fetchInstr h1
        · split
          · exact (wf_processHeader h1).of_stop ‹_›
          · have h2 := (wf_processHeader h1).of_go ‹_›
            split
            · exact h2
            · exact wf_fetchInstr h2

theorem wf_settleOut (ho : OutWf o) : Memory.wf (settleOut s o).mem := by
  unfold settleOut
  split
  · exact ho
  · exact h

theorem wf_dropContext : Memory.wf (dropContext s ctx).mem := by
  unfold dropContext
  refine wf_foldl h fun _ _ h => ?_
  refine wf_foldl h fun _ _ h => ?_
  split
  · exact wf_dropLine h
  · exact h

theorem wf_finishAccesses : Memory.wf (finishAccesses s gid).mem := by
  unfold finishAccesses
  refine wf_foldl h fun _ _ h => ?_
  split
  · exact h
  · exact wf_getD (wf_advanceAccess h) h

theorem wf_finishDeferred : Memory.wf (finishDeferred s gid).mem := wf_foldl h fun _ _ h => wf_settleOut h (wf_completeDeferred h)

theorem wf_finishJoints : Memory.wf (finishJoints s gid).mem := wf_foldl h fun _ _ h => wf_settleOut h (wf_execMatrixOpComplete h)

theorem wf_finishEntry : Memory.wf (finishEntry s n).mem := by
  unfold finishEntry
  split
  · exact h
  · dsimp only
    split
    · split
      · exact h
      · exact wf_dequeue (wf_modifyEntry h)
    · refine wf_settleOut ?_ ?_
      · split
        · exact h
        · exact wf_dequeue (wf_modifyEntry h)
      · refine wf_advanceEntry ?_
        split
        · exact h
        · exact wf_dequeue (wf_modifyEntry h)

theorem wf_finishEntries : Memory.wf (finishEntries s gid).mem :=
  wf_foldl h fun _ _ h => wf_finishEntry (wf_settleOut (wf_finishEntry h) (wf_execDeliveryCredit (wf_finishEntry h)))

theorem wf_finishWalks : Memory.wf (finishWalks s gid).mem := wf_foldl h fun _ _ h => wf_settleOut h (wf_execWalkComplete h)

theorem wf_finishWork : Memory.wf (finishWork s gid).mem :=
  wf_settle (wf_finishWalks (wf_finishEntries (wf_finishJoints (wf_finishDeferred (wf_finishAccesses h)))))

theorem wf_promoteContext : Memory.wf (promoteContext s ctx).mem := by
  unfold promoteContext
  split
  · exact h
  · split
    · exact h
    · dsimp only
      split
      · exact wf_beginDemotion (wf_settle h)
      · exact wf_settle h

theorem wf_rewriteRecord : Memory.wf (rewriteRecord s gid).mem := by
  unfold rewriteRecord
  split
  · exact h
  · split
    · exact h
    · exact wf_putRecord h

theorem wf_endHandlerStep : Memory.wf (endHandlerStep s handler).mem := by
  unfold endHandlerStep
  split
  · exact h
  · split
    · exact wf_finish h
    · exact h

theorem wf_stepBoundary : Memory.wf (stepBoundary s ctx).mem := by
  unfold stepBoundary
  split
  · exact h
  · split
    · exact wf_promoteContext h
    · exact h

theorem wf_endStep : Memory.wf (endStep s ctx f).mem := by
  unfold endStep
  split
  · exact wf_stepBoundary (wf_endHandlerStep h)
  · refine wf_stepBoundary ?_
    split
    · exact wf_endHandlerStep (wf_rewriteRecord (wf_modifyContext (wf_setGroup h)))
    · exact wf_modifyContext (wf_setGroup h)

theorem wf_goOnStep : Memory.wf (goOnStep s f).mem := by
  unfold goOnStep
  split
  · exact wf_endHandlerStep h
  · dsimp only
    split
    · exact wf_endStep (wf_settle (wf_dropContext (wf_finishWork h)))
    · exact wf_modifyContext (wf_settle (wf_dropContext (wf_finishWork h)))

omit h in
theorem wf_afterForced (ho : OutWf o) : OutWf (afterForced f o) := by
  unfold afterForced
  split
  · exact wf_goOnStep ho
  · exact ho

end

/-! ## Atomics and reductions (spec/10 R268 to R271) -/

section
variable {s : State} {sp : GTSpace} {op : AtomOp} {f : FormM} {op' : RedOp} {access lanes : Nat} (h : Memory.wf s.mem)
include h

theorem wf_execAtomicPerform : OutWf (execAtomicPerform access lanes s) := by
  unfold execAtomicPerform
  split
  · trivial
  · extract_lets noReturn
    split
    · exact wf_acknowledgePeers h
    · exact wf_stepAccess h

end

/-! ## Control of a group (spec/02 R47 to R52; spec/08 R207 to R214) -/

section
variable {s : State} {f : FormV} {uses : List Use} {body : Issuer → State} {u : Issuer} {tt : BitVec 8} {sub : Nat} {g : Group}
  {f' : FormX} {taken : Bool} {e : StackEntry} {rest : List StackEntry} (h : Memory.wf s.mem)
include h

theorem wf_formXOp (hb : ∀ u, Memory.wf (body u).mem) : OutWf (formXOp s uses body) := by
  unfold formXOp
  refine wf_withIssuer fun _ => ?_
  split
  · exact wf_takeTrap h
  · exact hb _

theorem wf_controlTrap : Memory.wf (controlTrap s u tt sub).mem := wf_trapLanes h

theorem wf_branchIf : Memory.wf (branchIf s u g f' taken).mem := by
  unfold branchIf
  split
  · exact wf_transfer h
  · exact wf_finish h

theorem wf_execJmp : OutWf (execJmp f' s) := by
  unfold execJmp
  refine wf_withIssuer fun _ => ?_
  dsimp only
  split
  · exact wf_controlTrap h
  · exact wf_branchIf h

theorem wf_execMark : OutWf (execMark f' s) := by
  unfold execMark
  refine wf_withIssuer fun _ => ?_
  split
  · exact wf_controlTrap h
  · exact wf_finish h

theorem wf_execSplit : OutWf (execSplit f' s) := by
  unfold execSplit
  refine wf_withIssuer fun _ => ?_
  dsimp only
  split
  · exact wf_finish h
  · split
    · exact wf_transfer h
    · split
      · exact wf_controlTrap h
      · exact wf_finish (wf_tracePacket h)

theorem wf_rejoin : Memory.wf (rejoin s u g e rest).mem := wf_transfer (wf_tracePacket h)

theorem wf_execJoin : OutWf (execJoin f s) := by
  unfold execJoin
  refine wf_withIssuer fun _ => ?_
  split
  · exact wf_controlTrap h
  · exact wf_rejoin h

theorem wf_execExit : OutWf (execExit f s) := by
  unfold execExit
  refine wf_withIssuer fun _ => ?_
  dsimp only
  split
  · refine wf_finish ?_
    split
    · exact h
    · exact wf_tracePacket h
  · split
    · refine wf_rejoin ?_
      split
      · exact h
      · exact wf_tracePacket h
    · refine wf_retireGroup ?_
      refine wf_finish ?_
      split
      · exact h
      · exact wf_tracePacket h

end

/-! ## Deterministic operation (spec/13 R357 to R366) -/

section
variable {s : State} {u : Issuer} {a : Access} {p : LaneAccess × Granule × Found} {aid group tid launch : Nat} {e : RedEntry}
  (h : Memory.wf s.mem)
include h

theorem wf_minimumRace : Memory.wf (minimumRace s u a p).mem := by
  unfold minimumRace
  refine wf_takeTrap ?_
  split
  · exact wf_logRace h
  · exact h

theorem wf_performHeld : Memory.wf (performHeld s u aid a).mem := by
  unfold performHeld
  dsimp only
  split
  · exact wf_minimumRace h
  · split
    · exact wf_beginAccess (wf_fresh h)
    · split
      · exact wf_settle (wf_beginMonitor h)
      · exact h

theorem wf_execMinWaitedPerform : OutWf (execMinWaitedPerform group s) := by
  unfold execMinWaitedPerform
  split
  · trivial
  · split
    · split
      · trivial
      · dsimp only
        split
        · trivial
        · exact wf_performHeld h
    · trivial

theorem wf_drainEntry : OptWf (drainEntry s tid e) := by
  unfold drainEntry
  dsimp only
  split
  · exact wf_modifyTeam h
  · split
    · exact wf_sendLanes h
    · exact wf_map (wf_performLanes h) fun _ h => wf_returnLanes (wf_modifyAccess h)

theorem wf_execReductionDrain : OutWf (execReductionDrain launch s) := by
  unfold execReductionDrain
  split
  · trivial
  · split
    · trivial
    · split
      · trivial
      · split
        · trivial
        · split
          · split
            · trivial
            · split
              · exact (wf_drainEntry h).of_some ‹_›
              · trivial
          · split
            · exact wf_setLaunch h
            · trivial

end

/-! ## Code object descriptors (spec/12 R333, R337) -/

section
variable {s : State} {ctx code : Nat} (h : Memory.wf s.mem)
include h

theorem wf_readDescriptor : DescriptorWf (readDescriptor s ctx code) := by
  unfold readDescriptor
  split
  · trivial
  · split
    · exact (wf_deviceReady h).of_waits ‹_›
    · trivial
    · trivial
    · split <;> trivial

end

/-! ## The banks of a core (spec/12 R341, R342) -/

section
variable {s : State} {core : Nat} (h : Memory.wf s.mem)
include h

theorem wf_releaseBanks : Memory.wf (releaseBanks s core).mem := wf_modifyCore h

end

/-! ## From a fault to its handler (spec/21 R436 to R441) -/

section
variable {s : State} {u : Issuer} {group ctx gid cls code record : Nat} {c : Context} {desc : BitVec 512} {i : TrapInfo}
  (h : Memory.wf s.mem)
include h

theorem wf_handlerFailed : Memory.wf (handlerFailed s u).mem := by
  unfold handlerFailed
  dsimp only
  split
  · exact wf_killAll h
  · exact wf_killAll (wf_killAll h)

theorem wf_parkAtTrap : Memory.wf (parkAtTrap s u).mem := by
  unfold parkAtTrap
  dsimp only
  split
  · exact wf_handlerFailed (wf_modifyGroup h)
  · exact wf_modifyContext (wf_modifyGroup h)

theorem wf_execTrapRecordWrite : OutWf (execTrapRecordWrite group s) := by
  unfold execTrapRecordWrite
  split
  · trivial
  · split
    · trivial
    · split
      · trivial
      · split
        · exact (wf_deviceReady h).of_waits ‹_›
        · trivial
        · exact wf_settle (wf_killUnserved (wf_parkAtTrap (wf_putRecord h)))

theorem wf_popTrap : Memory.wf (popTrap s ctx).mem := wf_modifyContext h

theorem wf_createHandler : Memory.wf (createHandler s ctx gid c cls code record desc).mem :=
  wf_setLaunch (wf_fresh (wf_popTrap h))

theorem wf_handlerAt : DescriptorWf (handlerAt s c ctx code) := by
  unfold handlerAt
  split
  · trivial
  · split
    · split
      · split <;> trivial
      · trivial
    · exact wf_readDescriptor h

theorem wf_serveTrap : OutWf (serveTrap s ctx c u i) := by
  unfold serveTrap
  dsimp only
  split
  · exact (wf_deviceReady h).of_waits ‹_›
  · trivial
  · exact wf_kill (wf_popTrap h)
  · split
    · exact wf_createHandler (wf_touchPages h)
    · exact (wf_handlerAt (wf_touchPages h)).of_waits ‹_›
    · trivial
    · exact wf_kill (wf_popTrap (wf_touchPages h))

theorem wf_execHandlerCreate : OutWf (execHandlerCreate ctx s) := by
  unfold execHandlerCreate
  split
  · trivial
  · split
    · trivial
    · split
      · exact wf_popTrap h
      · split
        · exact wf_popTrap h
        · split
          · exact wf_popTrap h
          · split
            · trivial
            · exact wf_serveTrap h

end

/-! ## The dispatcher (spec/12 R339 to R345; spec/02 R40 to R45) -/

section
variable {s : State} {ctx tn core banks lid index n tid k team gid : Nat} {s1 : State} {l : Launch} {p : Seat} {xs : List Seat}
  {w : Waiting} {tids : List Nat} {st : TeamStatus} {c : Core} (h : Memory.wf s.mem)
include h

theorem wf_claimCore : Memory.wf (claimCore s ctx tn core banks).mem := by
  unfold claimCore
  refine wf_foldl (wf_modifyCore h) fun _ _ h => ?_
  split
  · exact wf_dropLine h
  · exact h

omit h in
theorem wf_tracePlaced (h : Memory.wf s1.mem) : Memory.wf (tracePlaced s s1).mem :=
  wf_foldl h fun _ _ h => wf_stageSync (wf_foldl h fun _ _ h => wf_tracePacket h)

theorem wf_placeTeam : Memory.wf (placeTeam s lid l tn index p).mem := wf_claimCore h

theorem wf_placeTeams : Memory.wf (placeTeams s lid l tn n xs).mem := by
  induction xs generalizing s n with
  | nil => exact h
  | cons p ps ih => exact ih (wf_placeTeam h)

theorem wf_dispatchNext : OptWf (dispatchNext s lid) := by
  unfold dispatchNext
  split
  · trivial
  · split
    · trivial
    · split
      · trivial
      · exact wf_placeTeams (wf_setLaunch h)

omit h in
theorem wf_dispatchAll (h : Memory.wf s.mem) : OptWf (dispatchAll lid n s) := by
  induction n generalizing s with
  | zero => exact h
  | succ n ih =>
    unfold dispatchAll
    cases e : dispatchNext s lid with
    | none => trivial
    | some s1 => exact ih ((wf_dispatchNext h).of_some e)

theorem wf_forgetTeam : Memory.wf (forgetTeam s tid).mem := by
  unfold forgetTeam
  split <;> exact h

theorem wf_restartCluster : OptWf (restartCluster s lid k) := by
  unfold restartCluster
  split
  · trivial
  · split
    · trivial
    · exact wf_map_of fun _ => wf_placeTeams (wf_foldl (wf_setLaunch h) fun _ _ h => wf_forgetTeam h)

theorem wf_resumeTeam : Memory.wf (resumeTeam s ctx tn tid p).mem := by
  unfold resumeTeam
  split
  · exact h
  · exact wf_claimCore (wf_setTeam (wf_foldl h fun _ _ h => wf_modifyGroup h))

theorem wf_resumeCluster : OptWf (resumeCluster s lid k) := by
  unfold resumeCluster
  split
  · trivial
  · split
    · trivial
    · refine wf_map_of fun _ => ?_
      refine wf_settle ?_
      refine wf_foldl h fun _ _ h => ?_
      split
      · exact h
      · split
        · exact wf_resumeTeam h
        · exact h

theorem wf_placeUnit : OptWf (placeUnit s w) := by
  unfold placeUnit
  split
  · exact wf_resumeCluster h
  · exact wf_restartCluster h
  · split
    · trivial
    · split
      · exact wf_dispatchAll h
      · exact wf_dispatchNext h

theorem wf_placementFault : Memory.wf (placementFault s w).mem := by
  unfold placementFault
  split
  · exact h
  · refine wf_settle ?_
    refine wf_killUnserved ?_
    refine wf_contextEvent ?_
    split
    · exact wf_killAll (wf_killAll (wf_setLaunch h))
    · exact wf_killAll (wf_setLaunch h)

omit h in
theorem wf_yieldsServed (h : Memory.wf s1.mem) : Memory.wf (yieldsServed s w s1).mem := by
  unfold yieldsServed
  split <;> exact h

omit h in
theorem wf_afterPlaced (h : Memory.wf s1.mem) : Memory.wf (afterPlaced s w s1).mem := wf_tracePlaced (wf_yieldsServed h)

theorem wf_firstPlaced {ws : List Waiting} : OptWf ((firstPlaced s ws).map Prod.snd) := by
  induction ws with
  | nil => trivial
  | cons w ws ih =>
    unfold firstPlaced
    split
    · exact wf_placementFault h
    · split
      · exact (wf_placeUnit h).of_some ‹_›
      · exact ih

/-- The state after the first placement. -/
theorem wf_of_firstPlaced {ws : List Waiting} {w : Waiting} {s1 : State} (e : firstPlaced s ws = some (w, s1)) :
    Memory.wf s1.mem :=
  (wf_firstPlaced h).of_some (by rw [e]; rfl)

theorem wf_execTeamDispatch : OutWf (execTeamDispatch s) := by
  unfold execTeamDispatch
  split
  · trivial
  · next e =>
    split
    · trivial
    · exact wf_afterPlaced (wf_of_firstPlaced h e)

theorem wf_execTeamResume : OutWf (execTeamResume team s) := by
  unfold execTeamResume
  split
  · trivial
  · split
    · trivial
    · split
      · trivial
      · split
        · exact wf_afterPlaced (wf_of_firstPlaced h ‹_›)
        · trivial

theorem wf_teamsTo : Memory.wf (teamsTo s tids st).mem := wf_foldl h fun _ _ h => wf_modifyTeam h

theorem wf_execTeamEvict : OutWf (execTeamEvict team s) := by
  unfold execTeamEvict
  split
  · trivial
  · split
    · trivial
    · dsimp only
      split
      · trivial
      · split
        · exact wf_teamsTo h
        · split
          · trivial
          · exact wf_foldl h fun _ _ h => wf_modifyTeam h

theorem wf_saveGroup : Memory.wf (saveGroup s gid).mem := by
  unfold saveGroup
  split
  · exact h
  · split
    · exact h
    · exact wf_getD (wf_deviceWrite h) h

theorem wf_execEvictSaveComplete : OutWf (execEvictSaveComplete team s) := by
  unfold execEvictSaveComplete
  split
  · trivial
  · split
    · trivial
    · dsimp only
      split
      · trivial
      · refine wf_foldl (wf_teamsTo ?_) fun _ _ h => wf_releaseBanks h
        exact wf_foldl (wf_foldl h fun _ _ h => wf_cleanCore h) fun _ _ h => wf_saveGroup h

theorem wf_compacted : OptWf (compacted s core tn banks l) := by
  unfold compacted
  dsimp only
  split
  · exact wf_foldl h fun _ _ h => wf_modifyTeam h
  · trivial

theorem wf_compactFor : OptWf (compactFor s core c w) := by
  unfold compactFor
  split
  · trivial
  · split
    · trivial
    · split
      · trivial
      · split
        · trivial
        · split
          · trivial
          · split
            · exact (wf_compacted h).of_some ‹_›
            · trivial

theorem wf_execCompactorMove : OutWf (execCompactorMove core s) := by
  unfold execCompactorMove
  split
  · trivial
  · split
    · next e =>
      obtain ⟨w, -, hw⟩ := List.exists_of_findSome?_eq_some e
      exact (wf_compactFor h).of_some hw
    · trivial

end

/-! ## Values between lanes (spec/08 R232 to R234) -/

section
variable {s : State} {mode : ShuffleMode} {f : FormV} {f' : FormI} (h : Memory.wf s.mem)
include h

theorem wf_shuffle : OutWf (shuffle s mode f) := by
  unfold shuffle
  exact wf_checkedOp h fun _ => wf_runLanes h

theorem wf_execXmov : OutWf (execXmov f s) := by
  unfold execXmov
  split <;> exact wf_vectorOp h

theorem wf_execSetfmt : OutWf (execSetfmt f s) := by
  unfold execSetfmt
  refine wf_withIssuer fun _ => ?_
  split
  · exact wf_takeTrap h
  · split
    · exact wf_takeTrap h
    · exact wf_finish h

theorem wf_execSetfmtImm : OutWf (execSetfmtImm f' s) := by
  unfold execSetfmtImm
  refine wf_withIssuer fun _ => ?_
  split
  · exact wf_trapPlain h
  · exact wf_finish h

end

/-! ## The handler instructions (spec/11 R324 to R329) -/

section
variable {s : State} {uses : List Use} {a : BitVec 11} {debug skip endPark : Bool} {body : Issuer → Nat → List Nat → Out}
  {u : Issuer} {gids : List Nat} {f : FormV} {gid ctx op : Nat} (h : Memory.wf s.mem)
include h

theorem wf_targetOp (hb : ∀ u level gids, OutWf (body u level gids)) : OutWf (targetOp s uses a debug body) := by
  unfold targetOp
  refine wf_groupOp h fun _ => ?_
  split
  · exact wf_trapScalar h
  · exact hb _ _ _

theorem wf_handlerRelease : Memory.wf (handlerRelease s u gids).mem := by
  unfold handlerRelease
  refine wf_foldl (wf_cleanCore h) fun _ _ h => ?_
  split
  · exact wf_dropCore h
  · exact h

theorem wf_execTgtrd : OutWf (execTgtrd f s) := by
  unfold execTgtrd
  refine wf_targetOp h fun _ _ _ => ?_
  split
  · exact wf_trapScalar h
  · split
    · exact wf_finish h
    · exact wf_trapScalar h

theorem wf_execTgtwr : OutWf (execTgtwr f s) := by
  unfold execTgtwr
  refine wf_targetOp h fun _ _ _ => ?_
  split
  · exact wf_trapScalar h
  · dsimp only
    split
    · exact wf_trapScalar h
    · split
      · exact wf_trapScalar h
      · split
        · exact h
        · exact wf_settle (wf_finish (wf_setGroup (wf_handlerRelease h)))

theorem wf_resumeTarget : Memory.wf (resumeTarget s skip gid).mem := by
  unfold resumeTarget
  split
  · exact h
  · split
    · exact wf_setGroup h
    · split
      · exact wf_setGroup h
      · split
        · exact wf_setGroup h
        · exact h

theorem wf_askPromotion : Memory.wf (askPromotion s ctx).mem := by
  unfold askPromotion
  split
  · exact h
  · split
    · exact h
    · split
      · exact wf_promoteContext h
      · exact wf_setContext h

theorem wf_execTgtres : OutWf (execTgtres f s) := by
  unfold execTgtres
  refine wf_targetOp h fun _ _ _ => ?_
  dsimp only
  split
  · exact wf_trapScalar h
  · split
    · exact wf_trapScalar h
    · split
      · exact h
      · refine wf_settle ?_
        refine wf_finish ?_
        split
        · exact wf_askPromotion (wf_foldl (wf_handlerRelease h) fun _ _ h => wf_resumeTarget h)
        · exact wf_foldl (wf_handlerRelease h) fun _ _ h => wf_resumeTarget h

theorem wf_execTgtkill : OutWf (execTgtkill f s) := by
  unfold execTgtkill
  refine wf_targetOp h fun _ _ _ => ?_
  split
  · exact h
  · exact wf_finish (wf_kill (wf_foldl h fun _ _ h => h))

theorem wf_resolveHeld : Memory.wf (resolveHeld s gid op).mem := by
  unfold resolveHeld
  split
  · dsimp only
    split
    · exact h
    · exact wf_orphanHeld h
  · exact h

theorem wf_haltGroup : Memory.wf (haltGroup s endPark gid).mem := by
  unfold haltGroup
  split
  · exact h
  · dsimp only
    split
    · exact wf_modifyGroup (wf_takeBackMinimum h)
    · exact wf_resolveHeld (wf_setGroup h)
    · split
      · exact wf_setGroup h
      · exact h
    · exact wf_setGroup h

theorem wf_execTgthalt : OutWf (execTgthalt f s) := by
  unfold execTgthalt
  refine wf_targetOp h fun _ _ _ => ?_
  dsimp only
  split
  · exact wf_finish (wf_settle (wf_foldl h fun _ _ h => wf_haltGroup h))
  · exact wf_setGroup (wf_settle (wf_foldl h fun _ _ h => wf_haltGroup h))

theorem wf_execTgtstep : OutWf (execTgtstep f s) := by
  unfold execTgtstep
  refine wf_targetOp h fun _ _ _ => ?_
  split
  · exact wf_trapScalar h
  · split
    · exact h
    · split
      · exact wf_trapScalar h
      · split
        · exact h
        · exact wf_handlerRelease h

theorem wf_execTgtcalm : OutWf (execTgtcalm f s) := by
  unfold execTgtcalm
  refine wf_targetOp h fun _ _ _ => ?_
  dsimp only
  split
  · exact wf_finish h
  · split
    · exact h
    · exact wf_settle (wf_setGroup (wf_beginDemotion h))

theorem wf_execBpset : OutWf (execBpset f s) := by
  unfold execBpset
  refine wf_groupOp h fun _ => ?_
  dsimp only
  split
  · exact wf_trapScalar h
  · exact wf_finish (wf_modifyContext h)

theorem wf_execWpset : OutWf (execWpset f s) := by
  unfold execWpset
  refine wf_groupOp h fun _ => ?_
  dsimp only
  split
  · exact wf_trapScalar h
  · exact wf_finish (wf_modifyContext h)

end

/-! ## Launches (spec/12 R331 to R339) -/

section
variable {s : State} {ctx done r tn source rsn detail tenant lid launch : Nat} {ps : List (Nat × Nat)} {l : Launch} {t : Tenant}
  {p d : BitVec 512} {fabric cut : Bool} {last : Option Word} {take : State → State} (h : Memory.wf s.mem)
include h

theorem wf_externalMarks : Memory.wf (externalMarks s ctx ps).mem := by
  unfold externalMarks
  refine wf_foldl h fun _ _ h => ?_
  split
  · exact wf_externalWrite h
  · exact h

theorem wf_writeRecord : Memory.wf (writeRecord s ctx done r).mem := by
  unfold writeRecord
  split
  · exact h
  · split
    · exact wf_settle (wf_externalMarks ((wf_deviceWrite h).of_some ‹_›))
    · exact h

theorem wf_judgeCode : VerdictWf (judgeCode s l tn t) := by
  unfold judgeCode
  split
  · exact (wf_readDescriptor h).of_waits ‹_›
  · trivial
  · trivial
  · dsimp only
    split
    · trivial
    · split
      · trivial
      · split <;> trivial

theorem wf_doneAccess : AccessWf (doneAccess s l) := by
  unfold doneAccess
  split
  · trivial
  · split
    · trivial
    · exact wf_deviceReady h

theorem wf_judge : VerdictWf (judge s p tn t fabric last) := by
  unfold judge
  dsimp only
  split
  · next e =>
    split at e
    · exact (wf_doneAccess h).of_waits e
    · cases e
  · trivial
  · split
    · trivial
    · split
      · trivial
      · split
        · trivial
        · split
          · trivial
          · split
            · trivial
            · split
              · trivial
              · split
                · trivial
                · exact wf_judgeCode h

theorem wf_noticePrereqs : Memory.wf (noticePrereqs s l).mem := by
  unfold noticePrereqs
  dsimp only
  split
  · refine wf_contextNotice ?_
    split
    · exact wf_contextNotice h
    · exact h
  · split
    · exact wf_contextNotice h
    · exact h

theorem wf_acceptLaunch : Memory.wf (acceptLaunch s p d tn source).mem :=
  wf_modifyTenant (wf_setLaunch (wf_noticePrereqs (wf_fresh h)))

theorem wf_refuseLaunch : Memory.wf (refuseLaunch s p tn rsn detail).mem := by
  unfold refuseLaunch
  dsimp only
  split
  · exact wf_writeRecord (wf_report h)
  · exact wf_report h

theorem wf_serveLaunch (ht : ∀ t, Memory.wf t.mem → Memory.wf (take t).mem) :
    OutWf (serveLaunch s p tn t fabric source detail take) := by
  unfold serveLaunch
  split
  · exact (wf_judge h).of_waits ‹_›
  · trivial
  · exact ht _ (wf_refuseLaunch h)
  · exact ht _ (wf_acceptLaunch (wf_touchPages h))

theorem wf_execValidatePacket : OutWf (execValidatePacket tenant fabric s) := by
  unfold execValidatePacket
  split
  · trivial
  · split
    · trivial
    · split
      · split
        · trivial
        · exact wf_serveLaunch h fun _ h => wf_modifyTenant h
      · split
        · trivial
        · exact wf_serveLaunch h fun _ h => wf_modifyTenant h

theorem wf_concludeLaunch : Memory.wf (concludeLaunch s l cut).mem := by
  unfold concludeLaunch
  dsimp only
  split
  · exact wf_creditEndpoint (wf_writeRecord (wf_cleanContext h))
  · exact wf_writeRecord (wf_cleanContext h)

theorem wf_forgetLaunch : Memory.wf (forgetLaunch s lid).mem := wf_foldl h fun _ _ h => wf_releaseBanks h

theorem wf_execLaunchEnd : OutWf (execLaunchEnd launch s) := by
  unfold execLaunchEnd
  split
  · trivial
  · split
    · trivial
    · split
      · exact (wf_doneAccess h).of_waits ‹_›
      · trivial
      · exact wf_settle (wf_forgetLaunch (wf_modifyLaunch (wf_concludeLaunch h)))

end

/-! ## Issue in a quadrant (spec/12 R344) -/

section
variable {s : State} {gids : List Nat} {chosen core quad : Nat} (h : Memory.wf s.mem)
include h

theorem wf_agedBy : Memory.wf (agedBy s gids chosen).mem := wf_foldl h fun _ _ h => wf_modifyGroup h

theorem wf_execClauseIssue : OutWf (execClauseIssue core quad s) := by
  unfold execClauseIssue
  dsimp only
  split
  · trivial
  · split
    · trivial
    · split
      · exact (wf_processHeader h).of_stop ‹_›
      · split
        · exact (wf_processHeader h).of_go ‹_›
        · exact wf_agedBy ((wf_processHeader h).of_go ‹_›)

end

/-! ## Tenants on a core (spec/12 R346, R350 to R353) -/

section
variable {s : State} {core lid k owner tid : Nat} {gids tids : List Nat} (h : Memory.wf s.mem)
include h

theorem wf_execSliceEnd : OutWf (execSliceEnd core s) := by
  unfold execSliceEnd
  split
  · trivial
  · dsimp only
    split
    · trivial
    · exact wf_setCore h
    · exact wf_setCore h
    · split
      · split
        · exact wf_modifyCore h
        · trivial
      · split
        · trivial
        · split
          · trivial
          · exact wf_modifyCore h

theorem wf_abortEntriesOf : Memory.wf (abortEntriesOf s gids).mem := by
  unfold abortEntriesOf
  refine wf_foldl h fun _ _ h => ?_
  split
  · exact h
  · exact wf_endEntry h

theorem wf_discardWork : Memory.wf (discardWork s gids).mem := wf_abortEntriesOf h

theorem wf_flushCluster : Memory.wf (flushCluster s lid k tids).mem :=
  wf_foldl (wf_modifyLaunch (wf_foldl (wf_killAll (wf_teamsTo (wf_discardWork h))) fun _ _ h => wf_modifyTeam h))
    fun _ _ h => wf_releaseBanks h

theorem wf_flushAll : Memory.wf (flushAll s core owner).mem := wf_settle (wf_foldl h fun _ _ h => wf_flushCluster h)

theorem wf_execRevocation : OutWf (execRevocation core s) := by
  unfold execRevocation
  split
  · trivial
  · split
    · trivial
    · split
      · split
        · trivial
        · exact wf_flushAll h
      · split
        · trivial
        · exact wf_flushAll (wf_setCore h)

theorem wf_killBorrowed : Memory.wf (killBorrowed s tid).mem := by
  unfold killBorrowed
  split
  · exact h
  · split
    · exact h
    · exact wf_contextEvent (wf_killAll (wf_discardWork h))

theorem wf_scrubCore : Memory.wf (scrubCore s core).mem := by
  unfold scrubCore
  split
  · exact wf_report h
  · exact h

theorem wf_execRevocationDeadline : OutWf (execRevocationDeadline core s) := by
  unfold execRevocationDeadline
  split
  · trivial
  · split
    · trivial
    · dsimp only
      split
      · trivial
      · refine wf_releaseBanks (wf_modifyCore (wf_scrubCore (wf_settle (wf_killUnserved ?_))))
        exact wf_foldl h fun _ _ h => wf_killBorrowed h

end

/-! ## A context's work ended from outside (spec/23 R477, R481) -/

section
variable {s : State} {gids : List Nat} {lid ctx : Nat} {c : Context} (h : Memory.wf s.mem)
include h

theorem wf_cutGroups : Memory.wf (cutGroups s gids).mem := wf_abortEntriesOf (wf_killAll h)

theorem wf_cutLaunch : Memory.wf (cutLaunch s lid).mem := by
  unfold cutLaunch
  split
  · exact h
  · refine wf_forgetLaunch ?_
    refine wf_modifyLaunch ?_
    split
    · exact h
    · exact wf_concludeLaunch h

theorem wf_cutLaunches : Memory.wf (cutLaunches s ctx).mem := wf_foldl h fun _ _ h => wf_cutLaunch h

theorem wf_forgetContext : Memory.wf (forgetContext s ctx).mem := wf_dropContext h

theorem wf_closeContext : Memory.wf (closeContext s ctx c).mem :=
  wf_settle (wf_forgetContext (wf_foldl (wf_cutLaunches h) fun _ _ h => wf_scrubCore h))

end

/-! ## Failures of no instruction (spec/19 R402, R413; spec/22 R459) -/

section
variable {s : State} {ue reads : Bool} {loc g sub addr gid reg pair aid lane port sensor ctx : Nat}
  {p : Nat × Nat × Option (Nat × Context)} {x : SramWord} {err : ScrubFinding} {la : LaneAccess} {a : Access}
  {failure : OuterFailure} (h : Memory.wf s.mem)
include h

theorem wf_hbmEvent : Memory.wf (hbmEvent s ue loc).mem := wf_report h

theorem wf_loseEntry : Memory.wf (loseEntry s g sub).mem := wf_loseMark h

theorem wf_scrubbed : Memory.wf (scrubbed s addr ue).mem := by
  unfold scrubbed
  split
  · dsimp only
    split
    · exact wf_loseEntry (wf_hbmEvent h)
    · exact wf_hbmEvent h
  · exact wf_hbmEvent h

theorem wf_sramEvent : Memory.wf (sramEvent s ue p).mem := wf_report h

theorem wf_loseVector : Memory.wf (loseVector s gid reg pair).mem := by
  unfold loseVector
  split
  · exact h
  · dsimp only
    split
    · exact wf_modifyGroup h
    · exact wf_contextEvent (wf_modifyGroup h)

theorem wf_loseSram : Memory.wf (loseSram s p x).mem := by
  unfold loseSram
  split
  · split
    · exact h
    · exact wf_sramEvent h
  · split
    · exact wf_dropLine h
    · exact wf_sramEvent (wf_dropLine h)
  · exact wf_modifyTeam h
  · exact wf_modifyTeam h
  · exact wf_loseVector (wf_sramEvent h)
  · exact wf_modifyGroup (wf_sramEvent h)
  · exact wf_modifyTeam (wf_sramEvent h)
  · exact wf_loseEntry (wf_sramEvent h)
  · exact wf_loseMark (wf_sramEvent h)

theorem wf_execPatrolScrub : OutWf (execPatrolScrub addr err s) := by
  unfold execPatrolScrub
  split
  · split
    · trivial
    · split
      · exact wf_loseSram h
      · exact wf_sramEvent h
  · split
    · exact wf_loseEntry h
    · trivial
  · split
    · trivial
    · split
      · exact h
      · exact wf_scrubbed h

theorem wf_failLane : Memory.wf (failLane s aid la reads).mem := wf_modifyAccess h

theorem wf_failOuter : Memory.wf (failOuter s aid a la loc sub).mem := by
  unfold failOuter
  split
  · exact h
  · dsimp only
    split <;> exact wf_contextEvent (wf_failLane h)

theorem wf_execTierAccessTimeout : OutWf (execTierAccessTimeout failure lane s) := by
  unfold execTierAccessTimeout
  split
  · trivial
  · split
    · trivial
    · split
      · trivial
      · split
        · trivial
        · exact wf_settle (wf_failOuter h)

theorem wf_failPort : Memory.wf (failPort s port).mem := by
  unfold failPort
  refine wf_foldl h fun _ _ h => ?_
  refine wf_foldl h fun _ _ h => ?_
  split
  · split
    · exact wf_failOuter h
    · exact h
  · exact h

theorem wf_execTierPortDown : OutWf (execTierPortDown port s) := by
  unfold execTierPortDown
  split
  · trivial
  · split
    · trivial
    · exact wf_settle (wf_failPort h)

theorem wf_throttleEvent : Memory.wf (throttleEvent s sub).mem := wf_report h

theorem wf_execPowerThrottle : OutWf (execPowerThrottle s) := by
  unfold execPowerThrottle
  split
  · trivial
  · exact wf_throttleEvent h

theorem wf_execThrottleEpisodeEnd : OutWf (execThrottleEpisodeEnd s) := by
  unfold execThrottleEpisodeEnd
  split
  · exact h
  · trivial

theorem wf_execThermalGate : OutWf (execThermalGate sensor s) := by
  unfold execThermalGate
  split
  · trivial
  · exact wf_throttleEvent h

theorem wf_execThermalGateEnd : OutWf (execThermalGateEnd s) := by
  unfold execThermalGateEnd
  split
  · exact h
  · trivial

theorem wf_stopContext : Memory.wf (stopContext s ctx).mem := wf_cutLaunches (wf_discardWork (wf_killAll h))

theorem wf_execThermalShutdown : OutWf (execThermalShutdown sensor s) := by
  unfold execThermalShutdown
  split
  · trivial
  · split
    · trivial
    · exact wf_settle (wf_deviceRecord (wf_foldl h fun _ _ h => wf_stopContext h))

end

/-! ## The management mailbox (spec/19 R397 to R401) -/

section
variable {s : State} {result op n ctx base gid : Nat} {body : List Byte} {rs : List (Nat × Bool)} {k : Out}
  {k' : List Nat → Out} {value : Word} (h : Memory.wf s.mem)
include h

theorem wf_answer : Memory.wf (answer s result body).mem := by
  dsimp only [answer, raiseVector]
  exact h

theorem wf_done : Memory.wf (done s).mem := by
  dsimp only [done]
  exact h

theorem wf_badArgument : OutWf (badArgument s) := wf_answer h

theorem wf_unlessRefused (ho : OutWf k) : OutWf (unlessRefused s rs k) := by
  unfold unlessRefused
  split
  · exact wf_answer h
  · exact ho

theorem wf_command (hk : ∀ ps, OutWf (k' ps)) : OutWf (command s op n k') := by
  unfold command
  split
  · trivial
  · split
    · trivial
    · split
      · exact wf_answer h
      · split
        · exact wf_badArgument h
        · exact hk _

theorem wf_submit : Memory.wf (submit s).mem := by
  unfold submit
  dsimp only
  split
  · exact h
  · exact wf_answer h

theorem wf_ringDoorbell : Memory.wf (ringDoorbell s value).mem := by
  unfold ringDoorbell
  split
  · exact h
  · split
    · exact wf_submit h
    · exact h

theorem wf_execCtxcreate : OutWf (execCtxcreate s) := by
  unfold execCtxcreate
  refine wf_command h fun _ => ?_
  dsimp only
  split
  · exact wf_badArgument h
  · exact wf_unlessRefused h (wf_done (wf_setContext h))

theorem wf_beginDestroy : Memory.wf (beginDestroy s ctx).mem := wf_settle (wf_cutGroups h)

theorem wf_finishDestroy : Memory.wf (finishDestroy s ctx).mem := by
  unfold finishDestroy
  split
  · exact h
  · split
    · exact h
    · exact wf_done (wf_closeContext h)

theorem wf_execCtxdestroy : OutWf (execCtxdestroy s) := by
  unfold execCtxdestroy
  refine wf_command h fun _ => ?_
  dsimp only
  split
  · exact wf_badArgument h
  · split
    · split
      · trivial
      · exact wf_finishDestroy h
    · exact wf_unlessRefused h (wf_finishDestroy (wf_beginDestroy h))

theorem wf_execTenantset : OutWf (execTenantset s) := by
  unfold execTenantset
  refine wf_command h fun _ => ?_
  dsimp only
  split
  · exact wf_badArgument h
  · exact wf_done (wf_modifyTenant h)

theorem wf_execErrset : OutWf (execErrset s) := by
  unfold execErrset
  refine wf_command h fun _ => ?_
  dsimp only
  split
  · exact wf_badArgument h
  · refine wf_done ?_
    split
    · exact h
    · exact wf_modifyTenant h

theorem wf_execPartition : OutWf (execPartition s) := by
  unfold execPartition
  refine wf_command h fun _ => ?_
  dsimp only
  split
  · exact wf_badArgument h
  · exact wf_unlessRefused h (wf_done (wf_foldl h fun _ _ h => wf_modifyCore h))

theorem wf_execInval : OutWf (execInval s) := by
  unfold execInval
  refine wf_command h fun _ => ?_
  dsimp only
  split
  · exact wf_badArgument h
  · exact wf_unlessRefused h h

theorem wf_retargetMonitor : Memory.wf (retargetMonitor s base n gid).mem := by
  unfold retargetMonitor
  split
  · exact h
  · split
    · split
      · exact h
      · split
        · split
          · exact h
          · exact wf_setGroup h
        · exact wf_setGroup h
    · exact h

theorem wf_execInvalComplete : OutWf (execInvalComplete s) := by
  unfold execInvalComplete
  split
  · trivial
  · dsimp only
    split
    · trivial
    · exact wf_done (wf_settle (wf_foldl h fun _ _ h => wf_retargetMonitor h))

theorem wf_execReplay : OutWf (execReplay s) := by
  unfold execReplay
  refine wf_command h fun _ => ?_
  dsimp only
  split
  · exact wf_badArgument h
  · exact wf_unlessRefused h (wf_done h)

theorem wf_execDevset : OutWf (execDevset s) := by
  unfold execDevset
  refine wf_command h fun _ => ?_
  split
  · exact wf_badArgument h
  · exact wf_unlessRefused h (wf_done h)

theorem wf_execPodbind : OutWf (execPodbind s) := by
  unfold execPodbind
  refine wf_command h fun _ => ?_
  dsimp only
  split
  · exact wf_badArgument h
  · exact wf_unlessRefused h (wf_done h)

theorem wf_execBardomain : OutWf (execBardomain s) := by
  unfold execBardomain
  refine wf_command h fun _ => ?_
  dsimp only
  split
  · exact wf_badArgument h
  · exact wf_unlessRefused h (wf_done (wf_modifyContext h))

theorem wf_execCommcreate : OutWf (execCommcreate s) := by
  unfold execCommcreate
  refine wf_command h fun _ => ?_
  dsimp only
  split
  · exact wf_badArgument h
  · split
    · exact wf_badArgument h
    · exact wf_unlessRefused h (wf_done (wf_modifyContext h))

theorem wf_execDemote : OutWf (execDemote s) := by
  unfold execDemote
  refine wf_command h fun _ => ?_
  dsimp only
  split
  · exact wf_badArgument h
  · exact wf_unlessRefused h (wf_done (wf_settle (wf_beginDemotion h)))

theorem wf_execStep : OutWf (execStep s) := by
  unfold execStep
  refine wf_command h fun _ => ?_
  dsimp only
  split
  · exact wf_badArgument h
  · exact wf_unlessRefused h (wf_done (wf_modifyContext h))

theorem wf_execRun : OutWf (execRun s) := by
  unfold execRun
  refine wf_command h fun _ => ?_
  dsimp only
  split
  · exact wf_badArgument h
  · exact wf_unlessRefused h (wf_done (wf_modifyContext h))

theorem wf_execPause : OutWf (execPause s) := by
  unfold execPause
  refine wf_command h fun _ => ?_
  dsimp only
  split
  · exact wf_badArgument h
  · exact wf_unlessRefused h (wf_done (wf_modifyContext h))

theorem wf_execPromote : OutWf (execPromote s) := by
  unfold execPromote
  refine wf_command h fun _ => ?_
  dsimp only
  split
  · exact wf_badArgument h
  · exact wf_unlessRefused h (wf_done (wf_askPromotion h))

theorem wf_execAttest : OutWf (execAttest s) := by
  unfold execAttest
  refine wf_command h fun _ => ?_
  dsimp only
  split
  · exact wf_badArgument h
  · refine wf_unlessRefused h ?_
    split
    · trivial
    · exact wf_answer h

theorem wf_execFwload : OutWf (execFwload s) := by
  unfold execFwload
  refine wf_command h fun _ => ?_
  dsimp only
  split
  · exact wf_badArgument h
  · refine wf_unlessRefused h ?_
    split
    · exact wf_done h
    · exact wf_answer h

end

/-! ## Host accesses (spec/19 R394 to R396) -/

section
variable {s : State} {tn tenant r ctx off size offset die mon bar loc n addr : Nat} {value v : Word} {v' value' : Word64}
  {sounding : Bool} {bytes : List Byte} {write : Option (List Byte)} (h : Memory.wf s.mem)
include h

theorem wf_writeTail : Memory.wf (writeTail s tn value).mem := by
  unfold writeTail
  split
  · exact h
  · split
    · exact wf_report h
    · exact wf_setTenant h

theorem wf_execTailWrite : OutWf (execTailWrite tenant value s) := by
  unfold execTailWrite
  split
  · trivial
  · exact wf_writeTail h

theorem wf_execUestatWrite : OutWf (execUestatWrite tenant value s) := by
  unfold execUestatWrite
  split
  · trivial
  · exact wf_modifyTenant h

theorem wf_execCestatWrite : OutWf (execCestatWrite tenant value s) := by
  unfold execCestatWrite
  split
  · trivial
  · exact wf_modifyTenant h

theorem wf_writeTenantPage : Memory.wf (writeTenantPage s tn r v).mem := by
  unfold writeTenantPage
  split
  · exact wf_writeTail h
  · exact wf_modifyTenant h
  · exact wf_modifyTenant h
  · exact wf_modifyTenant h
  · exact wf_modifyTenant h
  · exact wf_modifyTenant h
  · exact wf_modifyTenant h
  · exact h

theorem wf_writeMailbox : Memory.wf (writeMailbox s ctx off size v').mem := by
  unfold writeMailbox
  split
  · exact h
  · split
    · exact wf_contextNotice h
    · split
      · exact wf_modifyContext h
      · exact h

theorem wf_execMailboxHostWrite : OutWf (execMailboxHostWrite ctx offset size value' s) := by
  unfold execMailboxHostWrite
  split
  · trivial
  · exact wf_writeMailbox h

theorem wf_ignoredWrite : Memory.wf (ignoredWrite s ctx off).mem := wf_contextNotice h

theorem wf_startTrace : Memory.wf (startTrace s ctx).mem := by
  unfold startTrace
  refine wf_foldl h fun _ _ h => ?_
  split
  · exact h
  · exact wf_stageSync h

theorem wf_writeObsctl : Memory.wf (writeObsctl s ctx v).mem := by
  unfold writeObsctl
  split
  · exact h
  · split
    · exact wf_ignoredWrite h
    · dsimp only
      split
      · refine wf_startTrace ?_
        split
        · exact h
        · exact wf_setContext h
      · split
        · exact h
        · exact wf_setContext h

theorem wf_execObsctlWrite : OutWf (execObsctlWrite ctx value s) := by
  unfold execObsctlWrite
  split
  · trivial
  · exact wf_writeObsctl h

theorem wf_writeObsBase : Memory.wf (writeObsBase s ctx sounding v').mem := by
  unfold writeObsBase
  split
  · exact h
  · split
    · split
      · exact wf_ignoredWrite h
      · exact wf_setContext h
    · split
      · exact wf_ignoredWrite h
      · exact wf_setContext h

theorem wf_execObsBaseWrite : OutWf (execObsBaseWrite ctx sounding value' s) := by
  unfold execObsBaseWrite
  split
  · trivial
  · exact wf_writeObsBase h

theorem wf_writeContextPage : Memory.wf (writeContextPage s ctx r size v').mem := by
  unfold writeContextPage
  split
  · exact wf_writeMailbox h
  · split
    · exact wf_writeObsctl h
    · split
      · exact h
      · split
        · exact wf_writeObsBase h
        · split
          · exact wf_writeObsBase h
          · split
            · split
              · exact h
              · exact wf_setContext h
            · exact h

theorem wf_execBctlWrite : OutWf (execBctlWrite die mon value s) := by
  unfold execBctlWrite
  split
  · trivial
  · exact h

theorem wf_writeBar0 : Memory.wf (writeBar0 s off v).mem := by
  unfold writeBar0
  split
  · exact h
  · split
    · exact wf_ringDoorbell h
    · split
      · exact h
      · split <;> exact h

theorem wf_execRegisterWrite : OutWf (execRegisterWrite bar offset size value' s) := by
  unfold execRegisterWrite
  dsimp only
  split
  · split
    · exact wf_writeBar0 h
    · exact h
  · split
    · split
      · exact wf_writeTenantPage h
      · exact h
    · split
      · exact wf_writeContextPage h
      · split
        · exact h
        · trivial

theorem wf_hostMeets : Memory.wf (hostMeets s loc n).mem := wf_foldl h fun _ _ h => wf_report h

theorem wf_hostStore : Memory.wf (hostStore s loc bytes).mem := wf_settle (wf_externalWrite (State.wf_writeMem _ _ _ h))

theorem wf_execHostCxlMemAccess : OutWf (execHostCxlMemAccess addr write s) := by
  unfold execHostCxlMemAccess
  split
  · split
    · trivial
    · exact wf_hostMeets h
  · split
    · trivial
    · exact wf_hostStore h

theorem wf_execHostSnoop : OutWf (execHostSnoop addr write s) := by
  unfold execHostSnoop
  dsimp only
  split
  · trivial
  · split
    · exact h
    · exact wf_settle (State.wf_writeMem _ _ _ h)

end

/-! ## Jetstream (spec/19 R403 to R408) -/

section
variable {s : State}
  {tenant binding src cls device n ctx va operand kind id peer access lane srcdev phase comm k' port domain gid : Nat}
  {bytes xs' : List Byte} {t : Target} {xs : List (Nat × Nat)} {op : AtomOp} {credit : Option (Nat × Nat × Nat)}
  {k : State → Nat → Out} {ok : Access → LaneAccess → Bool} {value : Access → Option (BitVec 272)} {pkt : FabricPut}
  {pkt' : FabricGet} {pkt'' : FabricAtomic} {route : LaunchRoute} {packet : BitVec 512} {route' : BarrierRoute}
  {release paused : Bool} {pkt''' : FabricColl} {p : Packet} (h : Memory.wf s.mem)
include h

theorem wf_dropPacket : Memory.wf (dropPacket s tenant binding src cls).mem := wf_report h

theorem wf_acknowledge : Memory.wf (acknowledge s device).mem := h

theorem wf_respond : Memory.wf (respond s device cls tenant binding bytes).mem := wf_send h

theorem wf_recallExternal : Memory.wf (recallExternal s t n).mem := by
  unfold recallExternal
  split
  · exact wf_recallFrom h
  · exact h

theorem wf_placeBytes : Memory.wf (placeBytes s ctx xs xs').mem := by
  induction xs generalizing s xs' with
  | nil => exact h
  | cons p t ih =>
    refine ih ?_
    split
    · exact wf_externalWrite (State.wf_writeMem _ _ _ (wf_recallExternal h))
    · exact h

theorem wf_takeBytes : Memory.wf (takeBytes s ctx xs).2.mem := by
  induction xs generalizing s with
  | nil => exact h
  | cons p t ih =>
    unfold takeBytes
    split
    · exact ih (wf_meetPoison (wf_recallExternal h))
    · exact ih h

theorem wf_peerRmw : Memory.wf (peerRmw s ctx va op operand).2.mem := by
  unfold peerRmw
  split
  · dsimp only
    split
    · exact wf_meetPoison (wf_recallExternal h)
    · exact wf_externalWrite (State.wf_writeMem _ _ _ (wf_recallExternal h))
  · exact h

omit h in
theorem wf_reduceRun {fuel : Nat} {bytes : List Byte} (h : Memory.wf s.mem) :
    Memory.wf (reduceRun ctx op fuel s va bytes).mem := by
  induction fuel generalizing s va bytes with
  | zero => exact h
  | succ n ih =>
    unfold reduceRun
    split
    · exact h
    · exact ih (wf_settle (wf_peerRmw h))

theorem wf_queueCredit : Memory.wf (queueCredit s ctx credit).mem := by
  unfold queueCredit
  split <;> exact h

theorem wf_inBound (hk : ∀ t ctx, Memory.wf t.mem → OutWf (k t ctx)) : OutWf (inBound s tenant binding src cls kind va n k) := by
  unfold inBound
  extract_lets s0
  have h0 : Memory.wf s0.mem := wf_acknowledge h
  clear_value s0
  split
  · exact wf_dropPacket h0
  · split
    · exact wf_respond h0
    · split
      · next s1 e => exact ((wf_deviceReady h0).of_waits e : Memory.wf s1.mem)
      · trivial
      · exact wf_respond h0
      · split
        · trivial
        · exact hk _ _ (wf_touchPages (wf_engineStamp h0))

theorem wf_refuseEntry : OutWf (refuseEntry s id peer) := by
  unfold refuseEntry
  split
  · trivial
  · split
    · exact wf_failEntry (wf_contextEvent h)
    · exact wf_failJoint (wf_report h)
    · trivial

theorem wf_refuseAccess : OutWf (refuseAccess s access lane peer) := by
  unfold refuseAccess
  split
  · split
    · dsimp only
      split
      · trivial
      · exact wf_takeTrap h
    · trivial
  · trivial

theorem wf_answerLane : OutWf (answerLane s access lane ok value) := by
  unfold answerLane
  split
  · split
    · split
      · trivial
      · exact wf_settle (wf_afterAcquire (wf_modifyAccess h))
    · trivial
  · trivial

theorem wf_execFabricPutReceive : OutWf (execFabricPutReceive pkt s) := by
  unfold execFabricPutReceive
  split
  · split
    · trivial
    · exact wf_inBound h fun _ _ h => wf_queueCredit (wf_settle (wf_placeBytes h))
  · split
    · trivial
    · split
      · trivial
      · exact wf_inBound h fun _ _ h => wf_queueCredit (wf_reduceRun h)
  · exact wf_refuseEntry h
  · exact wf_refuseAccess h

theorem wf_takeAnswer : OutWf (takeAnswer s id bytes) := by
  unfold takeAnswer
  split
  · trivial
  · split
    · trivial
    · exact h

theorem wf_execFabricGetReceive : OutWf (execFabricGetReceive pkt' s) := by
  unfold execFabricGetReceive
  split
  · split
    · trivial
    · exact wf_inBound h fun _ _ h => wf_respond (wf_takeBytes h)
  · exact wf_takeAnswer h
  · exact wf_answerLane h
  · exact wf_refuseEntry h
  · exact wf_refuseAccess h

theorem wf_execFabricAtomicReceive : OutWf (execFabricAtomicReceive pkt'' s) := by
  unfold execFabricAtomicReceive
  split
  · split
    · trivial
    · exact wf_inBound h fun _ _ h => wf_respond (wf_settle (wf_peerRmw h))
  · exact wf_answerLane h
  · exact wf_refuseAccess h

theorem wf_execFabricLaunchReceive : OutWf (execFabricLaunchReceive route srcdev packet s) := by
  unfold execFabricLaunchReceive
  dsimp only
  split
  · trivial
  · split
    · split
      · exact h
      · exact wf_setTenant h
    · exact wf_dropPacket h

theorem wf_execFabricBarrierReceive : OutWf (execFabricBarrierReceive route' phase release s) := by
  unfold execFabricBarrierReceive
  dsimp only
  split
  · trivial
  · split
    · exact wf_dropPacket h
    · split
      · exact h
      · refine wf_settle ?_
        split <;> exact h

theorem wf_execFabricCollectiveReceive : OutWf (execFabricCollectiveReceive pkt''' s) := by
  unfold execFabricCollectiveReceive
  split
  · exact wf_dropPacket h
  · split
    · trivial
    · exact wf_settle (wf_stagePart (wf_engineStamp (wf_acknowledge h)))

theorem wf_execCollectiveTimeout : OutWf (execCollectiveTimeout tenant comm k' s) := by
  unfold execCollectiveTimeout
  split
  · trivial
  · exact wf_settle (wf_dropStaged (wf_failCollective h))

theorem wf_execClassPause : OutWf (execClassPause port cls paused s) := by
  unfold execClassPause
  split
  · trivial
  · exact h

theorem wf_execLinkretry : OutWf (execLinkretry port s) := by
  unfold execLinkretry
  split
  · trivial
  · exact wf_report h

theorem wf_execLinkDown : OutWf (execLinkDown port s) := by
  unfold execLinkDown
  split
  · trivial
  · exact h

theorem wf_execLinkUp : OutWf (execLinkUp port s) := by
  unfold execLinkUp
  split
  · trivial
  · exact h

theorem wf_loseLane : Memory.wf (loseLane s p access lane).mem := by
  unfold loseLane
  split
  · exact h
  · split
    · exact wf_settle (wf_contextEvent (wf_failLane h))
    · exact h

theorem wf_loseEntryPacket : Memory.wf (loseEntryPacket s p id).mem := by
  unfold loseEntryPacket
  split
  · exact wf_failEntry (wf_contextEvent h)
  · exact wf_failJoint (wf_report h)
  · exact h

theorem wf_losePod : Memory.wf (losePod s domain gid).mem := by
  unfold losePod
  split
  · exact h
  · split
    · split
      · exact wf_takeTrap h
      · exact h
    · exact h

theorem wf_loseBarrier : Memory.wf (loseBarrier s domain).mem := wf_foldl h fun _ _ h => wf_losePod h

theorem wf_losePacket : Memory.wf (losePacket s k').mem := by
  unfold losePacket
  split
  · exact h
  · dsimp only
    split
    · exact wf_loseEntryPacket h
    · exact wf_loseLane h
    · exact wf_loseBarrier h
    · exact h

theorem wf_execLinkRerouteTimeout : OutWf (execLinkRerouteTimeout device s) := by
  unfold execLinkRerouteTimeout
  split
  · trivial
  · split
    · trivial
    · exact wf_settle (wf_deviceRecord (wf_foldl h fun _ _ h => wf_losePacket h))

end

/-! ## Horizon instructions (spec/11 R311 to R319) -/

section
variable {s : State} {tid k slot access : Nat} {x : HzSlot} {u : Issuer} {f : FormH} {value : HzSlot → Word} {sp : GTSpace}
  (h : Memory.wf s.mem)
include h

theorem wf_setSlot : Memory.wf (setSlot s tid k x).mem := wf_modifyTeam h

theorem wf_drainOwn : Memory.wf (drainOwn s u slot).mem := by
  unfold drainOwn
  split
  · exact wf_modifyTeam h
  · exact h

theorem wf_execHzins : OutWf (execHzins f s) := by
  unfold execHzins
  refine wf_withIssuer fun _ => ?_
  dsimp only
  split
  · exact wf_trapLanes h
  · split
    · exact wf_trapLanes h
    · split
      · exact wf_finish (wf_modifyTeam h)
      · split
        · exact wf_trapLanes h
        · exact wf_finish (wf_setSlot h)

omit h in
theorem wf_mergeSlots (h0 : Memory.wf s0.mem) (h : Memory.wf s.mem) : OutWf (mergeSlots s0 s u f) := by
  unfold mergeSlots
  split
  · exact h0
  · dsimp only
    split
    · split
      · exact wf_trapScalar h0
      · exact wf_finish (wf_modifyTeam h)
    · split
      · exact wf_trapScalar h0
      · exact wf_finish (wf_setSlot h)

theorem wf_execHzread : OutWf (execHzread f s) := by
  unfold execHzread
  refine wf_withIssuer fun _ => ?_
  dsimp only
  split
  · exact wf_stallIn h
  · split
    · exact wf_trapLanes h
    · split
      · exact wf_trapLanes h
      · exact wf_issueDeferred (wf_drainOwn h)

theorem wf_hzReadOp : OutWf (hzReadOp f value s) := by
  unfold hzReadOp
  exact wf_withIssuer fun _ => wf_vectorOp (wf_ite h (wf_drainOwn h))

theorem wf_execHzstore : OutWf (execHzstore sp f s) := by
  unfold execHzstore
  refine wf_withIssuer fun _ => ?_
  extract_lets uses slot base s1 slotNow ws
  clear_value base ws
  split
  · exact wf_stallIn h
  · split
    · exact wf_trapScalar h
    · split
      · exact wf_trapScalar h
      · split
        · exact wf_trapScalar h
        · split
          · exact wf_trapScalar h
          · exact wf_issueCounted (wf_drainOwn h)

end

/-! ## Watching the machine (spec/20 R420 to R431) -/

section
variable {s : State} {ctx sub va core quad base room n k die mon reg : Nat} {bytes xs : List Byte} {c : Context} {value : Word}
  {offset : BitVec 28} (h : Memory.wf s.mem)
include h

theorem wf_droppedWrite : Memory.wf (droppedWrite s ctx sub va).mem := wf_contextNotice h

theorem wf_observe : Memory.wf (observe s ctx va bytes).mem := by
  unfold observe
  split
  · exact wf_settle ((wf_deviceWrite h).of_some ‹_›)
  · exact h

theorem wf_flushSound : Memory.wf (flushSound s ctx c).mem := by
  unfold flushSound
  split
  · exact h
  · dsimp only
    split
    · exact wf_setContext h
    · split
      · exact (wf_deviceReady h).of_waits ‹_›
      · exact wf_modifyContext (wf_observe h)
      · exact wf_droppedWrite (wf_setContext h)

theorem wf_flushSounds : Memory.wf (flushSounds s).mem := wf_foldl h fun _ _ h => wf_flushSound h

theorem wf_execSoundingInterval : OutWf (execSoundingInterval core quad s) := by
  unfold execSoundingInterval
  split
  · split
    · trivial
    · exact wf_modifyCore (wf_flushSounds h)
  · trivial

theorem wf_writeStream : Memory.wf (writeStream s ctx base room n xs).mem := by
  induction xs generalizing s n with
  | nil => exact h
  | cons b t ih => exact ih (wf_getD (wf_deviceWrite h) h)

theorem wf_streamReady : AccessWf (streamReady s ctx base room n k) := by
  unfold streamReady
  split
  · split <;> exact wf_deviceReady h
  · exact wf_deviceReady h

theorem wf_afterDrain : Memory.wf (afterDrain s core ctx c k).mem := by
  unfold afterDrain
  split
  · exact h
  · dsimp only
    split
    · split
      · exact wf_stageSync (wf_stagePacket (wf_modifyCore h))
      · exact wf_modifyCore h
    · exact wf_modifyCore h

/-- What a core's staged bytes come to. -/
theorem wf_drainStaging {core ctx : Nat} {c : Context} {st : Staging} {o : Out} (e : drainStaging s core ctx c st = some o) :
    OutWf o := by
  unfold drainStaging at e
  dsimp only at e
  split at e
  · split at e <;> cases e
    exact wf_afterDrain h
  · split at e
    · next e' =>
      cases e
      exact (wf_deviceReady h).of_waits e'
    · cases e
      trivial
    · cases e
      exact wf_droppedWrite (wf_afterDrain h)
    · split at e
      · cases e
      · split at e
        · next e' =>
          cases e
          exact (wf_streamReady h).of_waits e'
        · cases e
          trivial
        · cases e
          exact wf_droppedWrite (wf_afterDrain h)
        · cases e
          have written : ∀ bytes, Memory.wf (writeStream s ctx (segmentBase st.segment core) (segmentRoom st.segment)
            (leNat ((deviceRead s ctx (segmentBase st.segment core) 8).getD [])) bytes).mem := fun _ => wf_writeStream h
          exact wf_settle (wf_afterDrain (wf_getD (wf_deviceWrite (written _)) (written _)))

theorem wf_execContrailDrain : OutWf (execContrailDrain core s) := by
  unfold execContrailDrain
  extract_lets s0
  have h0 : Memory.wf s0.mem := wf_flushSounds h
  split
  · trivial
  · split
    · next e =>
      obtain ⟨p, -, e⟩ := exists_of_firstSome e
      obtain ⟨x, -, e⟩ := Option.bind_eq_some_iff.mp e
      exact wf_drainStaging h0 e
    · split
      · trivial
      · exact h0

theorem wf_execBarometerCapture : OutWf (execBarometerCapture die mon value s) := by
  unfold execBarometerCapture
  split
  · trivial
  · dsimp only
    split
    · trivial
    · split
      · exact wf_report h
      · exact h

theorem wf_execSkewMeasure : OutWf (execSkewMeasure reg offset s) := by
  unfold execSkewMeasure
  split
  · exact h
  · split
    · exact h
    · trivial

end

/-! ## Comparisons and predicates (spec/08 R215 to R220) -/

section
variable {s : State} {t : CmpType} {f : FormV} {f' : FormI} (h : Memory.wf s.mem)
include h

end

/-! ## The serial point and Calm turns (spec/14 R371 to R375) -/

section
variable {s : State} {n ctx tid gid : Nat} {c : Context} (h : Memory.wf s.mem)
include h

theorem wf_thaw : Memory.wf (thaw s n).mem := by
  unfold thaw
  split
  · exact h
  · exact wf_getD (wf_advanceAccess (wf_modifyAccess h)) (wf_modifyAccess h)

theorem wf_drainFrozen : Memory.wf (drainFrozen s ctx).mem := wf_foldl h fun _ _ h => wf_foldl h fun _ _ h => wf_thaw h

theorem wf_drainTeam : Memory.wf (drainTeam s tid).mem := by
  unfold drainTeam
  split
  · exact h
  · exact wf_foldl h fun _ _ h => wf_getD (wf_drainEntry h) h

theorem wf_drainBuffers : Memory.wf (drainBuffers s ctx).mem :=
  wf_foldl (wf_foldl h fun _ _ h => wf_drainTeam h) fun _ _ h => wf_modifyTeam h

theorem wf_serialRecord : Memory.wf (serialRecord s gid).mem := by
  unfold serialRecord
  split
  · exact h
  · split
    · exact h
    · exact h
    · exact wf_parkAtTrap (wf_putRecord h)
    · exact wf_putRecord h

theorem wf_reachSerialPoint : Memory.wf (reachSerialPoint s ctx c).mem := by
  unfold reachSerialPoint
  refine wf_settle ?_
  split
  · exact wf_promoteContext (wf_foldl (wf_modifyContext h) fun _ _ h => wf_serialRecord h)
  · exact wf_foldl (wf_modifyContext h) fun _ _ h => wf_serialRecord h

theorem wf_execDemotionSerialPoint : OutWf (execDemotionSerialPoint ctx s) := by
  unfold execDemotionSerialPoint
  split
  · trivial
  · split
    · trivial
    · dsimp only
      split
      · exact wf_dropContext (wf_drainFrozen h)
      · split
        · exact wf_dropContext (wf_drainBuffers (wf_dropContext (wf_drainFrozen h)))
        · exact wf_reachSerialPoint (wf_dropContext (wf_drainBuffers (wf_dropContext (wf_drainFrozen h))))

theorem wf_noneRunnable : OutWf (noneRunnable s ctx c) := by
  unfold noneRunnable
  split
  · exact wf_setContext h
  · split
    · trivial
    · exact wf_setContext h

theorem wf_endWalks : Memory.wf (endWalks s ctx).mem := wf_foldl h fun _ _ h => wf_finishWalks h

theorem wf_execCalmStep : OutWf (execCalmStep ctx s) := by
  unfold execCalmStep
  split
  · trivial
  · split
    · exact wf_goOnStep h
    · split
      · trivial
      · dsimp only
        split
        · exact wf_noneRunnable (wf_endWalks h)
        · exact wf_endWalks h

end

/-! ## The special functions (spec/09 R248 to R250) -/

section
variable {s : State} {fn : SfuFn} {t : SfuType} {f : FormV} {access : Nat} (h : Memory.wf s.mem)
include h

theorem wf_sfuOp : OutWf (sfuOp s fn t f) := wf_longOp h

end

/-! ## The watchdog (spec/12 R350; spec/23 R467, R468) -/

section
variable {s : State} {id op entry : Nat} {e : Entry} {u : Issuer} {j : JointOp} {w : Walk} (h : Memory.wf s.mem)
include h

theorem wf_abortEntry : Memory.wf (abortEntry s id e u).mem := by
  unfold abortEntry
  dsimp only
  split
  · split
    · exact wf_dropStaged (wf_failCollective (wf_modifyLaunch (wf_contextEvent (wf_failEntry h))))
    · exact wf_dropStaged (wf_failCollective (wf_contextEvent (wf_failEntry h)))
  · exact wf_modifyLaunch (wf_contextEvent (wf_failEntry h))

theorem wf_abortJoint : Memory.wf (abortJoint s op j u).mem := wf_modifyLaunch (wf_contextEvent (wf_failJoint h))

theorem wf_abortArrival : Memory.wf (abortArrival s id w).mem := wf_contextEvent h

theorem wf_abortOfEntry : OutWf (abortOfEntry s id e) := by
  unfold abortOfEntry
  split
  · trivial
  · split
    · trivial
    · exact wf_abortEntry h

theorem wf_abortOfJoint : OutWf (abortOfJoint s op j) := by
  unfold abortOfJoint
  split
  · trivial
  · split
    · trivial
    · exact wf_abortJoint h

theorem wf_abortOfArrival : OutWf (abortOfArrival s id w) := by
  unfold abortOfArrival
  split
  · split
    · trivial
    · exact wf_abortArrival h
  · trivial

theorem wf_execWatchdogAbort : OutWf (execWatchdogAbort entry s) := by
  unfold execWatchdogAbort
  split
  · exact wf_abortOfEntry h
  · exact wf_abortOfJoint h
  · exact wf_abortOfArrival h
  · trivial

end

/-! ## Every instruction and every event -/

section
variable {s : State} {i : Instr} (h : Memory.wf s.mem)
include h

/-- An instruction, or an event, goes on with a state in the form, or does not go on. -/
theorem wf_exec : OutWf (exec i s) := by
  unfold exec
  cases i with
  | clauseIssue => exact wf_execClauseIssue h
  | nop => exact wf_withIssuer fun _ => wf_finish h
  | jmp => exact wf_execJmp h
  | jmpa | jmpl => exact wf_withIssuer fun _ => wf_branchIf h
  | brx | call | ret => exact wf_formXOp h fun _ => wf_transfer h
  | loopd => exact wf_formXOp h fun _ => wf_branchIf h
  | mark => exact wf_execMark h
  | split => exact wf_execSplit h
  | join => exact wf_execJoin h
  | exit => exact wf_execExit h
  | yield => exact wf_withIssuer fun _ => wf_settle (wf_finish h)
  | cmp | cmpa | cmpo | plop | pmov | addc | subb | movi | movh | lea | leaImm | xadd | xaddImm | getfmt | fdiv | fsqrt
    | fclass | fscale | frnd => exact wf_vectorOp h
  | ballot | pcount | pfirst | plive | syswr | clock => exact wf_groupOp h fun _ => wf_finish h
  | add | sub | mul | mulhi | div | rem | min | max | addPacked | subPacked | minPacked | maxPacked | and | or | xor | andn =>
    exact wf_intOp2 h
  | addImm | subImm | mulImm | minImm | maxImm | andImm | orImm | xorImm => exact wf_immOp h
  | mad | madhi | bfe | bfi => exact wf_intOp3 h
  | abs | neg | not | popc | clz | ctz | brev | mov => exact wf_intOp1 h
  | shl | shr | sar | rotl => exact wf_shiftOp h
  | shlImm | shrImm | sarImm | rotlImm => exact wf_shiftImmOp h
  | shflIdx | shflUp | shflDown | shflXor => exact wf_shuffle h
  | xmov => exact wf_execXmov h
  | setfmt => exact wf_execSetfmt h
  | setfmtImm => exact wf_execSetfmtImm h
  | fadd | fsub | fmul => exact wf_floatOp2 h
  | ffma => exact wf_execFfma h
  | faddImm | fsubImm | fmulImm => exact wf_floatImmOp h
  | fmin | fmax | fminn | fmaxn | fcopysign => exact wf_typeOp2 h
  | fabs | fneg => exact wf_typeOp1 h
  | frcp | frsq | fex2 | flg2 | fsin | fcos | ftanh => exact wf_sfuOp h
  | sfuCompletion | dotpScaledCompletion | hzreadCompletion => exact wf_completeDeferred h
  | cvt => exact wf_execCvt h
  | fxcvt => exact wf_execFxcvt h
  | cvtpPack | cvtpUnpack => exact wf_withIssuer fun _ => wf_vectorOp h
  | dotp => exact wf_execDotp h
  | mxq => exact wf_checkedOp h fun _ => wf_finish h
  | mxd => exact wf_execMxd h
  | ld | st | ldmx | stmx | atom | red => exact wf_memoryOp h
  | pf => exact wf_execPf h
  | loadWriteback | ldmxCompletion => exact wf_stepAccess h
  | storePerform => exact wf_execStorePerform h
  | atomicPerform => exact wf_execAtomicPerform h
  | fence => exact wf_execFence h
  | bar | barc | barg | barp => exact wf_barrierOp h
  | arrive => exact wf_execArrive h
  | await => exact wf_execAwait h
  | monwait => exact wf_execMonwait h
  | monitorTimeout => exact wf_execMonitorTimeout h
  | arvinit => exact wf_execArvinit h
  | arvexp => exact wf_execArvexp h
  | arvwait => exact wf_execArvwait h
  | deliveryCredit => exact wf_execDeliveryCredit h
  | cpgLd | cpgSt | cpc | fput | fget | fputr => exact wf_copyOp h
  | cpclose => exact wf_execCpclose h
  | cpwait | cpwaitImm => exact wf_groupOp h fun _ => wf_copyWait h
  | coll => exact wf_execColl h
  | engineEntryStart => exact wf_execEngineEntryStart h
  | copyEntryComplete => exact wf_execCopyEntryComplete h
  | watchdogAbort => exact wf_execWatchdogAbort h
  | gangset => exact wf_execGangset h
  | omap => exact wf_execOmap h
  | thset => exact wf_execThset h
  | opfence => exact wf_execOpfence h
  | mma | mmasp => exact wf_matrixOp h
  | matrixOpComplete => exact wf_execMatrixOpComplete h
  | mmclose => exact wf_execMmclose h
  | mmwait | mmwaitImm => exact wf_groupOp h fun _ => wf_matrixWait h
  | accld => exact wf_execAccld h
  | accldCompletion => exact wf_execAccldCompletion h
  | accst => exact wf_execAccst h
  | accstCompletion => exact wf_execAccstCompletion h
  | acczero => exact wf_execAcczero h
  | accadd => exact wf_execAccadd h
  | hzinit | hzclear => exact wf_groupOp h fun _ => wf_finish (wf_setSlot (wf_drainOwn h))
  | hzins => exact wf_execHzins h
  | hzmerge => exact wf_groupOp h fun _ => wf_mergeSlots h (wf_drainOwn (wf_drainOwn h))
  | hzread => exact wf_execHzread h
  | hzstore => exact wf_execHzstore h
  | hzstoreCompletion => exact wf_execHzstoreCompletion h
  | hzcount | hzstat => exact wf_hzReadOp h
  | trap => exact wf_groupOp h fun _ => wf_trapScalar h
  | brk => exact wf_execBrk h
  | sysrd => exact wf_execSysrd h
  | tmark => exact wf_groupOp h fun _ => wf_finish (wf_markPacket h)
  | dmput => exact wf_execDmput h
  | dmget => exact wf_mailboxOp h fun _ => wf_finish (wf_acquireLines h)
  | tgtrd => exact wf_execTgtrd h
  | tgtwr => exact wf_execTgtwr h
  | tgtres => exact wf_execTgtres h
  | tgtkill => exact wf_execTgtkill h
  | tgthalt => exact wf_execTgthalt h
  | tgtstep => exact wf_execTgtstep h
  | tgtcalm => exact wf_execTgtcalm h
  | bpset => exact wf_execBpset h
  | wpset => exact wf_execWpset h
  | trapRecordWrite => exact wf_execTrapRecordWrite h
  | handlerCreate => exact wf_execHandlerCreate h
  | minWaitedPerform => exact wf_execMinWaitedPerform h
  | reductionDrain => exact wf_execReductionDrain h
  | walkComplete => exact wf_execWalkComplete h
  | teamEvict => exact wf_execTeamEvict h
  | evictSaveComplete => exact wf_execEvictSaveComplete h
  | teamResume => exact wf_execTeamResume h
  | compactorMove => exact wf_execCompactorMove h
  | validatePacket => exact wf_execValidatePacket h
  | launchEnd => exact wf_execLaunchEnd h
  | sliceEnd => exact wf_execSliceEnd h
  | revocation => exact wf_execRevocation h
  | revocationDeadline => exact wf_execRevocationDeadline h
  | demotionSerialPoint => exact wf_execDemotionSerialPoint h
  | calmStep => exact wf_execCalmStep h
  | tailWrite => exact wf_execTailWrite h
  | uestatWrite => exact wf_execUestatWrite h
  | cestatWrite => exact wf_execCestatWrite h
  | mailboxHostWrite => exact wf_execMailboxHostWrite h
  | obsctlWrite => exact wf_execObsctlWrite h
  | obsBaseWrite => exact wf_execObsBaseWrite h
  | bctlWrite => exact wf_execBctlWrite h
  | registerWrite => exact wf_execRegisterWrite h
  | hostCxlMemAccess => exact wf_execHostCxlMemAccess h
  | hostSnoop => exact wf_execHostSnoop h
  | fabricPutReceive => exact wf_execFabricPutReceive h
  | fabricGetReceive => exact wf_execFabricGetReceive h
  | fabricAtomicReceive => exact wf_execFabricAtomicReceive h
  | fabricLaunchReceive => exact wf_execFabricLaunchReceive h
  | fabricBarrierReceive => exact wf_execFabricBarrierReceive h
  | fabricCollectiveReceive => exact wf_execFabricCollectiveReceive h
  | collectiveTimeout => exact wf_execCollectiveTimeout h
  | linkretry => exact wf_execLinkretry h
  | linkDown => exact wf_execLinkDown h
  | linkRerouteTimeout => exact wf_execLinkRerouteTimeout h
  | tierAccessTimeout => exact wf_execTierAccessTimeout h
  | tierPortDown => exact wf_execTierPortDown h
  | patrolScrub => exact wf_execPatrolScrub h
  | thermalGate => exact wf_execThermalGate h
  | thermalShutdown => exact wf_execThermalShutdown h
  | contrailDrain => exact wf_execContrailDrain h
  | soundingInterval => exact wf_execSoundingInterval h
  | barometerCapture => exact wf_execBarometerCapture h
  | skewMeasure => exact wf_execSkewMeasure h
  | linkUp => exact wf_execLinkUp h
  | classPause => exact wf_execClassPause h
  | teamDispatch => exact wf_execTeamDispatch h
  | ctxcreate => exact wf_execCtxcreate h
  | ctxdestroy => exact wf_execCtxdestroy h
  | tenantset => exact wf_execTenantset h
  | errset => exact wf_execErrset h
  | partition => exact wf_execPartition h
  | inval => exact wf_execInval h
  | invalComplete => exact wf_execInvalComplete h
  | replay => exact wf_execReplay h
  | devset => exact wf_execDevset h
  | podbind => exact wf_execPodbind h
  | bardomain => exact wf_execBardomain h
  | commcreate => exact wf_execCommcreate h
  | demote => exact wf_execDemote h
  | step => exact wf_execStep h
  | run => exact wf_execRun h
  | pause => exact wf_execPause h
  | promote => exact wf_execPromote h
  | summary | idcert => exact wf_command h fun _ => wf_answer h
  | attest => exact wf_execAttest h
  | fwload => exact wf_execFwload h
  | mstatRead | moduleReset => exact h
  | powerThrottle => exact wf_execPowerThrottle h
  | thermalGateEnd => exact wf_execThermalGateEnd h
  | throttleEpisodeEnd => exact wf_execThrottleEpisodeEnd h
  | doorbellWrite => exact wf_ringDoorbell h

end

/-! ## The step -/

section
variable {s : State} (h : Memory.wf s.mem)
include h

/-- A step goes on with a state in the form, or does not go on. -/
theorem wf_step : OutWf (step s) := by
  unfold step
  split
  · split
    · exact wf_afterForced ((wf_forcedTurn h).of_stop ‹_›)
    · exact wf_afterForced (wf_exec ((wf_forcedTurn h).of_go ‹_›))
  · have ht := wf_takeTurn h
    split
    · split
      · exact (wf_groupTurn ht).of_stop ‹_›
      · exact wf_exec ((wf_groupTurn ht).of_go ‹_›)
    · exact wf_afterEvent ht (wf_exec ht)

end

/-- Settles O60: the memory list is written only by `State.writeMem` and by lines written back, and both keep its form. -/
theorem stepKeepsMemoryForm : Obligations.StepKeepsMemoryForm := by
  intro s t h e
  exact (wf_step h).of_next e

/-- Settles O59: the memory list after reset has no entry. -/
theorem memoryFormAtReset : Obligations.MemoryFormAtReset := State.wf_reset

end Sys2Proof.Machine

/-!
SUPPORT. The checks of a lane of a memory instruction (R152, R435): its address, whether it is legal and aligned, where it goes, and
the trap of the first lane that is refused.
-/

namespace Sys2Proof.Machine

open Sys2Proof.Claims

variable {s : State} {u : Issuer} {m : MemOp}

/-! ## Addresses (R152, R154) -/

/-- R82: the sum of a code and a signed field, reduced to the code's width. -/
theorem wrap_add_sext {w n : Nat} (hn : 0 < n) (x : BitVec w) (v : BitVec n) :
    wrap ((x.toNat : Int) + sext v.toNat n) w = (x + v.signExtend w).toNat := by
  have half : 2 ^ n = 2 * 2 ^ (n - 1) := by rw [← Nat.pow_succ', Nat.succ_eq_add_one, Nat.sub_add_cancel hn]
  have value : sext v.toNat n = v.toInt := by
    simp only [sext, BitVec.toInt, Nat.mod_eq_of_lt v.isLt, Int.natCast_pow, Int.cast_ofNat_Int]
    congr 1
    rw [eq_iff_iff]
    omega
  have sum : x + v.signExtend w = BitVec.ofInt w ((x.toNat : Int) + v.toInt) := by
    rw [BitVec.ofInt_add, BitVec.ofInt_natCast, BitVec.ofNat_toNat, BitVec.setWidth_eq, BitVec.signExtend]
  rw [value, sum, BitVec.toNat_ofInt, wrap]
  push_cast
  rfl

theorem laneAddress_eq_address (u : Issuer) (sp : Space) (f : FormM) (l : Nat) :
    laneAddress u sp f.a f.off l = address u sp f l := by
  cases sp <;> exact wrap_add_sext (by decide) _ f.off

theorem legalIn_iff {sp : Space} {a n : Nat} : legalIn u sp a n = true ↔ LegalAt u sp a n := by
  cases sp
  case c =>
    simp only [legalIn, Bool.and_eq_true, decide_eq_true_eq, and_assoc]
    simp [LegalAt, field, clusterCI, clusterOFF]
  all_goals exact decide_eq_true_iff

/-! ## The operands of the instructions -/

@[simp] theorem shaped_baseUse (sp : Space) (c : BitVec 11) : (baseUse sp c).Shaped := by cases sp <;> simp [baseUse]

theorem shaped_dataUse (c : BitVec 11) {k : Nat} (h : k = 1 ∨ k = 2 ∨ k = 4) (write : Bool) : (dataUse c k write).Shaped := by
  rcases h with rfl | rfl | rfl <;> simp [Use.Shaped, dataUse]

/-- R261, R268: D is one register, a pair or four, and a datum has 1, 2, 4, 8 or 16 bytes. -/
def DatumSizes (regs bytes : Nat) : Prop := (regs = 1 ∨ regs = 2 ∨ regs = 4) ∧ 0 < bytes ∧ bytes ∣ 65536

theorem datumSizes_load (w : LoadWidth) : DatumSizes (dataRegs (loadBytes w)) (loadBytes w) := by
  unfold DatumSizes
  cases w <;> decide

theorem datumSizes_store (w : StoreWidth) : DatumSizes (dataRegs (storeBytes w)) (storeBytes w) := by
  unfold DatumSizes
  cases w <;> decide

theorem datumSizes_atom (op : AtomOp) : DatumSizes (atomRegs op) (atomBytes op) := by
  unfold DatumSizes
  cases op <;> decide

theorem datumSizes_red (op : RedOp) : DatumSizes (dataRegs (atomBytes (redAtom op))) (atomBytes (redAtom op)) := by
  unfold DatumSizes
  cases op <;> decide

theorem datumSizes_of_datumOf {i : Instr} {d : Datum} (h : datumOf i = some d) : DatumSizes d.regs d.bytes := by
  unfold datumOf at h
  split at h <;> cases h
  · exact datumSizes_load _
  · exact datumSizes_store _
  · exact datumSizes_atom _
  · exact datumSizes_red _

theorem shaped_datum {i : Instr} {d : Datum} (h : datumOf i = some d) : ∀ x ∈ d.uses, x.Shaped := by
  simp only [Datum.uses, List.mem_cons, List.not_mem_nil, or_false, forall_eq_or_imp, forall_eq]
  exact ⟨shaped_dataUse _ (datumSizes_of_datumOf h).1 _, shaped_baseUse _ _⟩

/-! ## Where a lane goes (R154, R165) -/

/-- R165: an aligned datum lies in one page, so that it goes where its first byte does. -/
theorem xlateLane_global {kind : Nat} {r : LaneReq} {loc c : Nat} {k : Bool} (size : r.size ∣ 65536) (aligned : r.va % r.size = 0)
    (unscaled : r.scale = none) (page : translate s u.t.core u.l.ctx u.c.root r.va kind = .ok (.phys loc c k)) :
    xlateLane s u .g kind r = .ok
      { lane := r.lane, va := r.va, target := .phys loc c k, tail := none, scale := none, size := r.size, data := r.data
        performed := false, value := none, poisoned := false, dest := r.dest } := by
  have inside : r.size ≤ 65536 - r.va % 65536 := by
    obtain ⟨q, hq⟩ := size
    have := Nat.mod_lt r.va (show 65536 > 0 by decide)
    have multiple : r.size ∣ 65536 - r.va % 65536 :=
      Nat.dvd_sub ⟨q, hq⟩ ((Nat.dvd_mod_iff ⟨q, hq⟩).mpr (Nat.dvd_of_mod_eq_zero aligned))
    exact Nat.le_of_dvd (by omega) multiple
  have whole : Nat.min r.size (65536 - r.va % 65536) = r.size := Nat.min_eq_left inside
  simp [xlateLane, xlateGlobal, xlate, page, whole, unscaled, joinXlate]

/-! ## The checks of a lane, in their order (R435) -/

section
variable {i : Instr} {d : Datum} {l : Nat} (hd : datumOf i = some d) (fits : ∀ x ∈ d.uses, Fits u l x)
  (free : Unwatched u (d.op u) l)
include hd fits free

/-- A lane whose operands fit and which no watchpoint meets is refused for an illegal address, then for a misaligned one; else it
goes where its translation says. -/
theorem checkLane_of_fits (s : State) :
    let va := address u d.space d.form l
    (¬ LegalAt u d.space va d.bytes → checkLane s u (d.op u) l = .fault (memRaise (illegalSub d.space) l va)) ∧
    (LegalAt u d.space va d.bytes → va % d.bytes ≠ 0 → checkLane s u (d.op u) l = .fault (memRaise memAlign l va)) ∧
    (LegalAt u d.space va d.bytes → va % d.bytes = 0 →
      ∀ la, xlateLane s u d.space (accessKind d.kind) ((d.op u).req l) = .ok la →
        checkLane s u (d.op u) l = .xlate (.ok la)) := by
  have operands : (d.op u).fault l = none := (laneFault_none (shaped_datum hd)).mpr fits
  have va : ((d.op u).req l).va = address u d.space d.form l := laneAddress_eq_address u d.space d.form l
  have size : ((d.op u).req l).size = d.bytes ∧ ((d.op u).req l).align = d.bytes := ⟨rfl, rfl⟩
  have late : (d.op u).late l = none := rfl
  have unscaled : ((d.op u).req l).scale = none := rfl
  have space : (d.op u).space = d.space := rfl
  have kind : (d.op u).kind = d.kind := rfl
  unfold Unwatched at free
  simp only [checkLane, operands, free, size, late, unscaled, space, kind, va, Option.any_none, Bool.or_false, Bool.not_eq_true',
    ← legalIn_iff, Bool.not_eq_true]
  refine ⟨fun illegal => if_pos illegal, fun legal odd => ?_, fun legal aligned la place => ?_⟩
  · rw [if_neg (by simp [legal]), if_pos odd]
  · rw [if_neg (by simp [legal]), if_neg (not_not.mpr aligned), place]

end

/-! ## The first lane that is refused (R81, R435) -/

theorem checkLanes_refused {before after : List Nat} {l : Nat} {r : Raise} (h : ∀ x ∈ before, ∃ y, checkLane s u m x = .xlate y)
    (hl : checkLane s u m l = .fault r) :
    (checkLanes s u m (before ++ l :: after)).2 = some (if m.scalar then { r with lane := 0xFF } else r) := by
  induction before with
  | nil => simp [checkLanes, hl]
  | cons a t ih =>
    obtain ⟨y, hy⟩ := h a (by simp)
    simpa [checkLanes, hy] using ih fun x hx => h x (by simp [hx])

/-- R111, R435: an instruction with a lane that is refused takes the trap, outside fault mode without a check for races. -/
theorem issueAccess_refused {red : Option RedOp} {r : Raise} (mode : u.c.rmode ≠ 2) (h : (checkLanes s u m m.lanes).2 = some r) :
    issueAccess s u m red = .next (trapMem s u m r) := by
  simp [issueAccess, h, checkedLanes, mode, lanesFree]

theorem trapMem_trapsAt (s : State) (u : Issuer) (m : MemOp) (r : Raise) :
    TrapsAt s u r.cls r.sub r.lane r.addr r.detail (trapMem s u m r) := by
  unfold trapMem
  split
  · exact takeTrap_trapsAt s u _ rfl rfl
  · exact takeTrap_trapsAt s u _ rfl rfl

/-- The group's memory operation is that of the datum, whatever it makes pending. -/
theorem memoryOf_datum {i : Instr} {d : Datum} (h : datumOf i = some d) (u : Issuer) :
    ∃ pend, memoryOf u i = some { d.op u with pend := pend } := by
  unfold memoryOf
  split
  · cases h
  · cases h
  · exact ⟨[], by rw [h]; rfl⟩
  · exact ⟨(d.op u).pend, by rw [h]; rfl⟩

/-- A memory instruction traps at the first lane that is refused. -/
theorem memory_refused {i : Instr} (as : IssuesAs u i m) (issuing : Issuing s u) (room : u.g.counter (hdrSetd u.header) < 63)
    (mode : u.c.rmode ≠ 2) {r : Raise} (h : (checkLanes s u m m.lanes).2 = some r) :
    ∃ t, exec i s = .next t ∧ TrapsAt s u r.cls r.sub r.lane r.addr r.detail t := by
  obtain ⟨⟨build, pre, red, step, rfl, unchecked, -⟩, -, -⟩ := as
  have notFull : counterFull u = false := by
    simp only [counterFull, decide_eq_false_iff_not]
    omega
  refine ⟨_, ?_, trapMem_trapsAt s u (build u) r⟩
  simp [step, memoryOp, withIssuer_issuing issuing, notFull, unchecked, issueAccess_refused mode h]

end Sys2Proof.Machine

/-!
PROOF. O27: when a lane of a memory instruction is refused, and where it goes.
-/

namespace Sys2Proof.Machine

open Sys2Proof.Claims

/-- Settles O27: the checks of a lane decide in their order, and the first lane that they refuse is the instruction's trap. -/
theorem laneChecks : Obligations.LaneChecks := by
  unfold Obligations.LaneChecks
  refine ⟨fun i d s u l hd _ fits free => ?_, fun i d s u before after l r hd _ may issuing room mode lanes earlier refused => ?_⟩
  · obtain ⟨illegal, misaligned, placed⟩ := checkLane_of_fits hd fits free s
    obtain ⟨-, -, power⟩ := datumSizes_of_datumOf hd
    have va : ((d.op u).req l).va = address u d.space d.form l := laneAddress_eq_address u d.space d.form l
    refine ⟨fun h => ?_, misaligned, fun legal aligned => ⟨fun team => ?_, fun global loc c k page => ?_⟩⟩
    · rw [illegal h]
      cases d.space <;> rfl
    · refine ⟨_, placed legal aligned _ (by rw [team]; rfl), ?_, rfl, rfl, rfl, rfl, rfl⟩
      exact congrArg (Target.team u.g.team) va
    · have there := xlateLane_global (r := (d.op u).req l) power (by rw [va]; exact aligned) rfl (by rw [va]; exact page)
      exact ⟨_, placed legal aligned _ (by rw [global]; exact there), rfl, rfl, rfl, rfl, rfl, rfl⟩
  · obtain ⟨pend, hm⟩ := memoryOf_datum hd u
    have trap : (checkLanes s u { d.op u with pend := pend } (d.op u).lanes).2 =
        some (if d.form.sc then { r with lane := 0xFF } else r) := by
      rw [lanes]
      exact checkLanes_refused earlier refused
    obtain ⟨t, run, traps⟩ := memory_refused (issuesAs_of_memoryOf hm may) issuing room mode trap
    refine ⟨t, run, ?_⟩
    cases hs : d.form.sc <;> simpa [hs] using traps

end Sys2Proof.Machine

/-!
SUPPORT. The end of a walk (R165 to R168, R450): the leaf that it touches, the TLBs that it fills, and the entry of the fault buffer
under which it waits.
-/

namespace Sys2Proof.Machine

open Sys2Proof.Claims

variable {s : State} {w : Walk} {id : Nat} {c : Context}

/-! ## The leaf (R162, R166) -/

/-- A bit that is 0 is set by an addition. -/
theorem or_two_pow_of_clear {e i : Nat} (clear : e / 2 ^ i % 2 = 0) : e ||| 2 ^ i = e + 2 ^ i := by
  obtain ⟨q, hq⟩ : ∃ q, e / 2 ^ i = 2 * q := ⟨e / 2 ^ i / 2, by omega⟩
  have low : e % 2 ^ i < 2 ^ i := Nat.mod_lt _ (Nat.two_pow_pos i)
  have odd : 2 * q + 1 = 2 * q ||| 1 := Nat.two_pow_add_eq_or_of_lt (i := 1) (by omega) q
  have whole : e = (2 * q) <<< i + e % 2 ^ i := by rw [Nat.shiftLeft_eq, ← hq, Nat.mul_comm, Nat.div_add_mod]
  calc e ||| 2 ^ i = ((2 * q) <<< i ||| e % 2 ^ i) ||| 1 <<< i := by
        rw [← Nat.shiftLeft_add_eq_or_of_lt low, ← whole, Nat.one_shiftLeft]
    _ = (2 * q + 1) <<< i ||| e % 2 ^ i := by rw [Nat.or_right_comm, ← Nat.shiftLeft_or_distrib, ← odd]
    _ = (2 * q + 1) <<< i + e % 2 ^ i := (Nat.shiftLeft_add_eq_or_of_lt low _).symm
    _ = e + 2 ^ i := by
        rw [Nat.shiftLeft_eq, Nat.add_mul, Nat.one_mul, ← Nat.shiftLeft_eq]
        omega

theorem or_two_pow (e i : Nat) : e ||| 2 ^ i = if bitOf e i then e else e + 2 ^ i := by
  by_cases h : e / 2 ^ i % 2 = 1
  · have set : e.testBit i = true := by rw [Nat.testBit_eq_decide_div_mod_eq, decide_eq_true h]
    rw [if_pos (by simpa [bitOf] using h)]
    refine Nat.eq_of_testBit_eq fun j => ?_
    rw [Nat.testBit_or, Nat.testBit_two_pow]
    by_cases hj : i = j
    · simp [← hj, set]
    · simp [hj]
  · rw [if_neg (by simpa [bitOf] using h), or_two_pow_of_clear (by omega)]

theorem kindWrites_iff {kind : Nat} : kindWrites kind = true ↔ kind = 1 ∨ kind = 2 ∨ kind = 5 ∨ kind = 6 := by
  simp [kindWrites, kindWrite, kindAtomic, kindEngineWrite, kindUpdate, or_assoc]

/-- R166: what the walker writes is the leaf with A, and with DIRTY where a write may be made. -/
theorem pteTouched_eq_touchedLeaf (e kind : Nat) : pteTouched e (kindWrites kind && pteW e) = touchedLeaf e kind := by
  have accessed : (if pteA e then e else e + 2 ^ 9) = e ||| 2 ^ 9 := (or_two_pow e 9).symm
  have writes : (kindWrites kind && pteW e) = true ↔ (kind = 1 ∨ kind = 2 ∨ kind = 5 ∨ kind = 6) ∧ e / 2 % 2 = 1 := by
    rw [Bool.and_eq_true, kindWrites_iff]
    simp [pteW, bitOf]
  unfold pteTouched touchedLeaf
  rw [accessed]
  dsimp only
  by_cases h : (kindWrites kind && pteW e) = true
  · rw [if_pos (writes.mp h), or_two_pow _ 10, h]
    unfold pteDirty
    cases bitOf (e ||| 2 ^ 9) 10 <;> rfl
  · rw [if_neg (mt writes.mpr h), Bool.eq_false_iff.mpr h, Nat.or_zero]
    rfl

/-! ## The bytes of a leaf in memory -/

theorem leNat_div_pow (bytes : List Byte) : ∀ k, BitVec.ofNat 8 (leNat bytes / 256 ^ k) = (bytes[k]?).getD 0 := by
  induction bytes with
  | nil => intro k; simp [leNat]
  | cons b t ih =>
    intro k
    cases k with
    | zero =>
      apply BitVec.eq_of_toNat_eq
      simp [leNat]
      omega
    | succ k =>
      have rest : leNat (b :: t) / 256 ^ (k + 1) = leNat t / 256 ^ k := by
        rw [Nat.pow_succ', ← Nat.div_div_eq_div_mul, leNat]
        congr 1
        have := b.isLt
        omega
      rw [rest, ih k]
      rfl

/-- The bytes of a value read are those of memory. -/
theorem byte_readNat (s : State) (a : Nat) {n k : Nat} (h : k < n) :
    BitVec.ofNat 8 (s.readNat a n / 256 ^ k) = Memory.byte s.mem (a + k) := by
  rw [State.readNat, leNat_div_pow, State.readMem, getElem?_bytes, if_pos h]
  rfl

theorem leBytes_length (n : Nat) : ∀ x, (leBytes n x).length = n := by
  induction n with
  | zero => exact fun _ => rfl
  | succ n ih => exact fun x => congrArg (· + 1) (ih (x / 256))

theorem getElem?_leBytes {n : Nat} : ∀ (x : Nat) {k : Nat}, k < n → (leBytes n x)[k]? = some (BitVec.ofNat 8 (x / 256 ^ k)) := by
  induction n with
  | zero => intro x k h; omega
  | succ n ih =>
    intro x k h
    cases k with
    | zero => simp [leBytes]
    | succ k => simpa [leBytes, Nat.div_div_eq_div_mul, Nat.pow_succ'] using ih (x / 256) (Nat.lt_of_succ_lt_succ h)

/-- R161: the leaf that a walk finds is the entry that stands at its location. -/
theorem leaf_eq_readNat {va n table level leaf loc : Nat} (h : walkFrom s va n table = .leaf level leaf loc) :
    leaf = s.readNat loc 8 := by
  induction n generalizing table with
  | zero =>
    unfold walkFrom at h
    dsimp only at h
    split_ifs at h
    cases h
    rfl
  | succ n ih =>
    unfold walkFrom at h
    dsimp only at h
    split_ifs at h
    · cases h
      rfl
    · exact ih h

/-! ## The TLBs (R165) -/

theorem serves_iff {e : TlbEntry} :
    (e.ctx = w.ctx ∧ e.va ≤ w.va ∧ w.va < e.va + 2 ^ pageBits e.level ∧
      (!kindWrites w.kind || pteDirty e.leaf.toNat || !pteW e.leaf.toNat) = true) ↔ TlbServes e w := by
  unfold TlbServes
  rw [← kindWrites_iff]
  simp only [pteDirty, pteW, bitOf, Bool.or_eq_true, Bool.not_eq_true', decide_eq_true_eq, decide_eq_false_iff_not]
  cases kindWrites w.kind <;> simp

theorem tlbFind_none {l : List TlbEntry} (h : ∀ e ∈ l, ¬ TlbServes e w) : tlbFind w.ctx w.va w.kind l = none := by
  induction l with
  | nil => rfl
  | cons e t ih =>
    rw [tlbFind, if_neg (mt serves_iff.mp (h e (by simp)))]
    exact ih fun x hx => h x (by simp [hx])

theorem tlbFind_first {l : List TlbEntry} {i : Nat} {e : TlbEntry} (he : l[i]? = some e) (serves : TlbServes e w)
    (first : ∀ j f, j < i → l[j]? = some f → ¬ TlbServes f w) : tlbFind w.ctx w.va w.kind l = some e := by
  induction l generalizing i with
  | nil => cases he
  | cons x t ih =>
    cases i with
    | zero =>
      cases he
      rw [tlbFind, if_pos (serves_iff.mpr serves)]
    | succ i =>
      rw [tlbFind, if_neg (mt serves_iff.mp (first 0 x (by omega) rfl))]
      exact ih he fun j f hj hf => first (j + 1) f (by omega) hf

theorem head?_tlbPut {n : Nat} (hn : 0 < n) (tlb : List TlbEntry) (e : TlbEntry) : (tlbPut n tlb e).head? = some e := by
  obtain ⟨m, rfl⟩ := Nat.exists_eq_add_of_lt hn
  rw [Nat.zero_add]
  rfl

/-- R165: an entry stands first in the second-level TLB of a walk's die and in its core's TLB, and the cores are otherwise as
before. -/
def TlbsFilled (s t : State) (w : Walk) (e : TlbEntry) : Prop :=
  (∀ n, n ≠ w.core → t.cores.get? n = s.cores.get? n) ∧ (dieEntries t w).head? = some e ∧
  ∀ x, s.cores.get? w.core = some x → ∃ y, t.cores.get? w.core = some y ∧ y = { x with tlb := y.tlb } ∧ y.tlb.head? = some e

theorem fillTlbs_filled (s : State) (w : Walk) (e : TlbEntry) : TlbsFilled s (fillTlbs s w.core e) w e := by
  refine ⟨fun n hn => ?_, ?_, fun x hx => ⟨tlbFill x e, ?_, rfl, head?_tlbPut (by decide) _ e⟩⟩
  · exact Table.get?_update_other _ _ hn
  · have read : dieEntries (fillTlbs s w.core e) w = tlbPut Config.dieTlbEntries (dieEntries s w) e := by
      simp only [dieEntries, fillTlbs, Table.read, dieOf, Config.coresPerDie, Table.get?_insert_same, Option.getD_some]
    rw [read]
    exact head?_tlbPut (by decide) _ e
  · exact (Table.get?_update_same _ _ _).trans (by rw [hx]; rfl)

/-- R166: the walker's update of a leaf. -/
def touchLeaf (s : State) (loc leaf kind : Nat) : State :=
  if touchedLeaf leaf kind = leaf then s else s.writeMem loc (leBytes 8 (touchedLeaf leaf kind))

/-- R165, R166: what the TLBs take of a leaf. -/
def leafEntry (w : Walk) (level leaf : Nat) : TlbEntry :=
  ⟨w.ctx, w.va / 2 ^ pageBits level * 2 ^ pageBits level, level, BitVec.ofNat 64 (touchedLeaf leaf w.kind)⟩

theorem walkFill_leaf {root level leaf loc : Nat} (h : walkVa s root w.va = .leaf level leaf loc) :
    walkFill s w.core w.ctx root w.va w.kind = fillTlbs (touchLeaf s loc leaf w.kind) w.core (leafEntry w level leaf) := by
  unfold walkFill touchLeaf
  rw [h]
  dsimp only
  rw [pteTouched_eq_touchedLeaf]
  rfl

theorem touchLeaf_frame (s : State) (loc leaf kind : Nat) :
    let t := touchLeaf s loc leaf kind
    t = { s with mem := t.mem, memPoison := t.memPoison } := by
  unfold touchLeaf
  split <;> rfl

theorem touchLeaf_sameMemoryBut (s : State) (loc leaf kind : Nat) : SameMemoryBut s (touchLeaf s loc leaf kind) loc 8 := by
  intro b hb
  unfold touchLeaf
  split
  · rfl
  · exact State.byte_writeMem s loc b _ (by rwa [leBytes_length])

/-- The leaf stands at its location as touched, written now or not. -/
theorem byte_touchLeaf {loc leaf kind k : Nat} (read : leaf = s.readNat loc 8) (h : k < 8) :
    Memory.byte (touchLeaf s loc leaf kind).mem (loc + k) = BitVec.ofNat 8 (touchedLeaf leaf kind / 256 ^ k) := by
  unfold touchLeaf
  split
  · next same => rw [same, read, byte_readNat s loc h]
  · exact byte_writeMem_at s loc (getElem?_leBytes _ h)

/-! ## The fault buffer (R167, R168) -/

theorem holdsPage_iff (sorted : s.faults.sorted = true) {k : Nat} : HoldsPage s w k ↔ ∃ e, (k, e) ∈ s.faults ∧
    (e.valid && ofDie (dieOf w.core) k && decide (e.ctx = w.ctx) && decide (e.vpn = w.va / 65536 % 2 ^ 41)) = true := by
  simp only [HoldsPage, ofDie, Bool.and_eq_true, decide_eq_true_eq]
  constructor
  · rintro ⟨die, e, at_, valid, ctx, page⟩
    exact ⟨e, Table.mem_of_get? at_, ⟨⟨valid, die⟩, ctx⟩, page⟩
  · rintro ⟨e, mem, ⟨⟨valid, die⟩, ctx⟩, page⟩
    exact ⟨die, e, Table.get?_of_mem sorted mem, valid, ctx, page⟩

theorem faultFor_eq_some (sorted : s.faults.sorted = true) {k : Nat} (holds : HoldsPage s w k)
    (only : ∀ j, HoldsPage s w j → j = k) :
    faultFor s (dieOf w.core) w.ctx (w.va / 65536 % 2 ^ 41) = some k := by
  unfold faultFor
  obtain ⟨e, mem, here⟩ := (holdsPage_iff sorted).mp holds
  cases found : s.faults.find? fun p => p.2.valid && ofDie (dieOf w.core) p.1 && decide (p.2.ctx = w.ctx) &&
      decide (p.2.vpn = w.va / 65536 % 2 ^ 41) with
  | none => exact absurd here (List.find?_eq_none.mp found (k, e) mem)
  | some p =>
    have holds := List.find?_some found
    have first := only p.1 ((holdsPage_iff sorted).mpr ⟨p.2, List.mem_of_find?_eq_some found, holds⟩)
    rw [Option.map_some, first]

theorem faultFor_eq_none (sorted : s.faults.sorted = true) (free : ∀ j, ¬ HoldsPage s w j) :
    faultFor s (dieOf w.core) w.ctx (w.va / 65536 % 2 ^ 41) = none := by
  unfold faultFor
  rw [Option.map_eq_none_iff, List.find?_eq_none]
  exact fun p mem here => free p.1 ((holdsPage_iff sorted).mpr ⟨p.2, mem, here⟩)

theorem validFault_eq_false {k : Nat} : validFault s k = false ↔ EntryFree s k := by
  unfold validFault EntryFree
  cases s.faults.get? k <;> simp

/-- R168: the entries of a die, the lowest first. -/
theorem mem_faultKeys {die k : Nat} : k ∈ (upFrom 0 Config.faultEntries).map (faultKey die) ↔ k / 1024 = die := by
  simp only [List.mem_map, mem_upFrom_zero, faultKey, Config.faultEntries]
  constructor
  · rintro ⟨n, hn, rfl⟩
    omega
  · rintro rfl
    exact ⟨k % 1024, Nat.mod_lt _ (by decide), by omega⟩

theorem faultKeys_pairwise (die : Nat) : ((upFrom 0 Config.faultEntries).map (faultKey die)).Pairwise (· < ·) :=
  List.pairwise_map.mpr ((upFrom_pairwise 0 _).imp fun h => by simpa [faultKey] using h)

theorem freeFault_eq_some {k : Nat} (h : FreeEntry s w k) : freeFault s (dieOf w.core) = some k := by
  obtain ⟨die, free, lowest⟩ := h
  obtain ⟨pre, post, split⟩ := List.append_of_mem (mem_faultKeys.mpr (show k / 1024 = dieOf w.core from die))
  have rising := faultKeys_pairwise (dieOf w.core)
  unfold freeFault
  rw [split] at rising ⊢
  rw [List.find?_eq_some_iff_append]
  refine ⟨by rw [validFault_eq_false.mpr free]; rfl, pre, post, rfl, fun j hj => ?_⟩
  have below : j < k := (List.pairwise_append.mp rising).2.2 j hj k List.mem_cons_self
  have ours : j / 1024 = dieOf w.core := mem_faultKeys.mp (by rw [split]; exact List.mem_append_left _ hj)
  rw [Bool.not_not]
  exact Bool.not_eq_false _ ▸ mt validFault_eq_false.mp (lowest j below ours)

theorem any_valid_iff (sorted : s.faults.sorted = true) (die : Nat) :
    (s.faults.any fun p => p.2.valid && ofDie die p.1) = true ↔ ∃ j, j / 1024 = die ∧ ¬ EntryFree s j := by
  simp only [List.any_eq_true, Bool.and_eq_true, ofDie, Config.faultEntries, decide_eq_true_eq, ← validFault_eq_false,
    Bool.not_eq_false]
  constructor
  · rintro ⟨p, mem, valid, die⟩
    exact ⟨p.1, die, by rw [validFault, Table.get?_of_mem sorted mem]; exact valid⟩
  · rintro ⟨j, die, valid⟩
    unfold validFault at valid
    cases at_ : s.faults.get? j with
    | none => rw [at_] at valid; cases valid
    | some e => rw [at_] at valid; exact ⟨(j, e), Table.mem_of_get? at_, valid, die⟩

/-! ## A walk waits (R167, R427) -/

theorem replayStall_frame (s : State) (w : Walk) : replayStall s w = { s with groups := (replayStall s w).groups } := by
  unfold replayStall
  split <;> rfl

theorem replayStall_noted (s : State) (w : Walk) : ReplayNoted s (replayStall s w) w := by
  intro n
  unfold replayStall
  split
  · next gid hg =>
    rw [State.modifyGroup_groups, Table.get?_update, hg]
    by_cases hn : n = gid
    · subst hn
      rw [if_pos rfl]
      simp only [if_true]
      rfl
    · rw [if_neg hn]
      simp [Ne.symm hn]
  · next hg => simp [hg]

/-- The walk waits under entry k. -/
def waitUnder (s : State) (id : Nat) (w : Walk) (k : Nat) : State :=
  { s with walks := s.walks.insert id { w with waiting := some k } }

theorem waitUnder_waitsUnder (s : State) (id : Nat) (w : Walk) (k : Nat) : WaitsUnder s (waitUnder s id w k) id w k :=
  fun n => Table.get?_insert s.walks id n _

theorem enterFault_joins {level k : Nat} (sorted : s.faults.sorted = true) (holds : HoldsPage s w k)
    (only : ∀ j, HoldsPage s w j → j = k) : enterFault s id w level = some (waitUnder s id w k) := by
  unfold enterFault
  dsimp only
  rw [faultFor_eq_some sorted holds only]
  rfl

/-- R168: what a new entry of the buffer says of a walk. -/
def faultEntered (w : Walk) (level : Nat) : FaultEntry := ⟨true, level, w.kind, w.ctx, w.agent, Claims.pageOf w.va⟩

/-- The walk waits under entry k, which is new; the vector of the die is raised where its buffer was empty (R450). -/
def entered (s : State) (id : Nat) (w : Walk) (level k : Nat) : State :=
  { waitUnder s id w k with
    faults := s.faults.insert k (faultEntered w level)
    vectors := if s.faults.any (fun p => p.2.valid && ofDie (dieOf w.core) p.1) then s.vectors
      else s.vectors ++ [130 + dieOf w.core] }

theorem enterFault_enters {level k : Nat} (sorted : s.faults.sorted = true) (free : ∀ j, ¬ HoldsPage s w j)
    (lowest : FreeEntry s w k) :
    enterFault s id w level = some (entered s id w level k) := by
  unfold enterFault entered
  dsimp only
  rw [faultFor_eq_none sorted free, freeFault_eq_some lowest]
  dsimp only
  split <;> rfl

theorem entered_vectors_empty (sorted : s.faults.sorted = true) {level k : Nat}
    (empty : ∀ j, j / 1024 = dieOf w.core → EntryFree s j) :
    (entered s id w level k).vectors = s.vectors ++ [130 + dieOf w.core] :=
  if_neg fun any => by
    obtain ⟨j, die, taken⟩ := (any_valid_iff sorted _).mp any
    exact taken (empty j die)

theorem entered_vectors_taken (sorted : s.faults.sorted = true) {level k : Nat}
    (taken : ∃ j, j / 1024 = dieOf w.core ∧ ¬ EntryFree s j) :
    (entered s id w level k).vectors = s.vectors :=
  if_pos ((any_valid_iff sorted _).mpr taken)

/-! ## The step -/

/-- A walk of a live context that is among those in flight, and waits for no replay. -/
def Walking (s : State) (id : Nat) (w : Walk) (c : Context) : Prop :=
  s.walks.get? id = some w ∧ w.waiting = none ∧ s.contexts.get? w.ctx = some c ∧ WalkInFlight s id w

theorem dieTlbHit_of_misses (misses : DieMisses s w) : (w.group.bind fun _ => dieTlbHit s w.core w.ctx w.va w.kind) = none := by
  cases hg : w.group with
  | none => rfl
  | some g => exact tlbFind_none (misses (by rw [hg]; rfl))

section
variable (h : Walking s id w c)
include h

theorem not_held : (w.waiting.isSome || decide (Config.walksInFlight ≤ walksBefore s id (dieOf w.core))) = false := by
  obtain ⟨-, waits, -, flight⟩ := h
  have few : walksBefore s id (dieOf w.core) < Config.walksInFlight := flight
  simpa [waits] using few

theorem exec_walk_served {e : TlbEntry} (core : w.group.isSome = true) (hit : dieTlbHit s w.core w.ctx w.va w.kind = some e) :
    exec (.walkComplete id) s = .next (endWalk (fillTlbs s w.core e) id) := by
  have goes := not_held h
  obtain ⟨walk, -, context, -⟩ := h
  obtain ⟨g, hg⟩ := Option.isSome_iff_exists.mp core
  change execWalkComplete id s = _
  simp only [execWalkComplete, walk, goes, context, hg, Option.bind_some, hit, Bool.false_eq_true, if_false]

theorem exec_walk_leaf {level leaf loc : Nat} (misses : DieMisses s w) (found : walkVa s c.root w.va = .leaf level leaf loc) :
    exec (.walkComplete id) s = .next (endWalk (walkFill s w.core w.ctx c.root w.va w.kind) id) := by
  have goes := not_held h
  obtain ⟨walk, -, context, -⟩ := h
  change execWalkComplete id s = _
  simp only [execWalkComplete, walk, goes, context, dieTlbHit_of_misses misses, found, Bool.false_eq_true, if_false]

theorem exec_walk_absent {level : Nat} {t : State} (misses : DieMisses s w) (found : walkVa s c.root w.va = .absent level)
    (entered : enterFault s id w level = some t) : exec (.walkComplete id) s = .next (replayStall t w) := by
  have goes := not_held h
  obtain ⟨walk, -, context, -⟩ := h
  change execWalkComplete id s = _
  simp only [execWalkComplete, walk, goes, context, dieTlbHit_of_misses misses, found, entered, Bool.false_eq_true, if_false]

theorem exec_walk_invalid {level : Nat} (misses : DieMisses s w) (found : walkVa s c.root w.va = .invalid level) :
    exec (.walkComplete id) s = .next (endWalk s id) := by
  have goes := not_held h
  obtain ⟨walk, -, context, -⟩ := h
  change execWalkComplete id s = _
  simp only [execWalkComplete, walk, goes, context, dieTlbHit_of_misses misses, found, Bool.false_eq_true, if_false]

end

end Sys2Proof.Machine

/-!
PROOF. O46: how a page walk ends.
-/

namespace Sys2Proof.Machine

open Sys2Proof.Claims

/-- Settles O46: the second-level TLB serves the walk of a core first; else what the tables hold decides. -/
theorem walksEnd : Obligations.WalksEnd := by
  unfold Obligations.WalksEnd
  intro s id w c walk waits context flight
  have h : Walking s id w c := ⟨walk, waits, context, flight⟩
  refine ⟨fun i e core at_ serves first => ?_, fun misses => ⟨fun level leaf loc found => ?_,
    fun level k found holds only sorted => ?_, fun level k found free sorted lowest => ?_, fun level found => ?_⟩⟩
  · obtain ⟨others, head, filled⟩ := fillTlbs_filled s w e
    have run := exec_walk_served h core (tlbFind_first at_ serves first)
    exact ⟨_, run, rfl, fun n => Table.get?_erase _ _ _, others, head, filled⟩
  · have run := exec_walk_leaf h misses found
    rw [walkFill_leaf found] at run
    have frame := touchLeaf_frame s loc leaf w.kind
    have same := touchLeaf_sameMemoryBut s loc leaf w.kind
    have bytes := fun k (hk : k < 8) => byte_touchLeaf (kind := w.kind) (leaf_eq_readNat found) hk
    generalize touchLeaf s loc leaf w.kind = r at run frame same bytes
    obtain ⟨others, head, filled⟩ := fillTlbs_filled r w (leafEntry w level leaf)
    have walks : r.walks = s.walks := by rw [frame]
    have cores : r.cores = s.cores := by rw [frame]
    rw [cores] at others filled
    refine ⟨_, run, ?_, fun n => ?_, same, bytes, others, _, head, filled, rfl, rfl, rfl, rfl⟩
    · rw [frame]; rfl
    · rw [← walks]; exact Table.get?_erase _ _ _
  · have run := exec_walk_absent h misses found (enterFault_joins sorted holds only)
    refine ⟨_, run, ?_, replayStall_noted (waitUnder s id w k) w, ?_⟩
    · rw [replayStall_frame]; rfl
    · rw [replayStall_frame]; exact waitUnder_waitsUnder s id w k
  · have run := exec_walk_absent h misses found (enterFault_enters sorted free lowest)
    have noted := replayStall_noted (entered s id w level k) w
    have frame := replayStall_frame (entered s id w level k) w
    generalize replayStall (entered s id w level k) w = t at run noted frame
    have vectors : t.vectors = (entered s id w level k).vectors := by rw [frame]
    refine ⟨t, faultEntered w level, run, ?_, noted, ?_, fun j => ?_, rfl, rfl, rfl, rfl, rfl, rfl, ?_, ?_⟩
    · rw [frame]; rfl
    · rw [frame]; exact waitUnder_waitsUnder s id w k
    · rw [frame]; exact Table.get?_insert _ _ _ _
    · exact fun empty => vectors.trans (entered_vectors_empty sorted empty)
    · exact fun taken => vectors.trans (entered_vectors_taken sorted taken)
  · exact ⟨_, exec_walk_invalid h misses found, rfl, fun n => Table.get?_erase _ _ _⟩

end Sys2Proof.Machine

/-!
SUPPORT. What the axioms of memory ordering give of an execution (spec/07 R182, R187, R190): the edges of happens-before, the order of
the writes of a byte, and what a read may take.
-/

namespace Sys2Proof.Ordering

variable {x : Execution} {b : Location} {i j v w r : Nat}

/-! ## Events and their bytes -/

theorem mem_locations_of_one (h : x.one (fun e => b ∈ e.bytes) i = true) : b ∈ x.locations := by
  unfold Execution.one at h
  rcases event : x.program.events[i]? with _ | e
  · simp [event] at h
  · exact List.mem_flatMap.mpr ⟨e, List.mem_of_getElem? event, by simpa [event] using h⟩

theorem touches_of_readsAt (h : x.readsAt b r = true) : x.one (fun e => b ∈ e.bytes) r = true := by
  rw [Execution.readsAt, one_and, Bool.and_eq_true] at h
  exact h.2

theorem touches_of_writesAt (h : x.writesAt b w = true) : x.one (fun e => b ∈ e.bytes) w = true := by
  rw [Execution.writesAt, one_and, Bool.and_eq_true] at h
  exact h.2

theorem readsAt_of_rfAt (h : x.rfAt b w r = true) : x.readsAt b r = true := by
  rw [Execution.rfAt, Bool.and_eq_true] at h
  exact h.1

theorem source_of_rfAt (h : x.rfAt b w r = true) : x.source r b = some w := by
  rw [Execution.rfAt, Bool.and_eq_true, beq_iff_eq] at h
  exact h.2

theorem rfAt_of_source (reads : x.readsAt b r = true) (source : x.source r b = some w) : x.rfAt b w r = true := by
  rw [Execution.rfAt, reads, source, beq_self_eq_true, Bool.and_self]

/-! ## Edges of happens-before (R180, R184 to R187) -/

theorem hb_of_po (h : x.po i j = true) : x.hb i j := .single (by rw [Execution.hbEdge, h]; rfl)

theorem hb_of_sw (h : x.sw i j = true) : x.hb i j := .single (by rw [Execution.hbEdge, h, Bool.or_true]; rfl)

theorem hb_of_eng (h : x.eng i j = true) : x.hb i j := .single (by rw [Execution.hbEdge, h, Bool.or_true])

/-- A write is the first of its own release sequence. -/
theorem takesRelease_of_source (writes : x.writesAt b w = true) (reads : x.readsAt b r = true) (source : x.source r b = some w) :
    x.takesRelease w r = true := by
  have bound : w ∈ x.names := one_bound writes
  refine List.any_eq_true.mpr ⟨b, mem_locations_of_one (touches_of_writesAt writes), Bool.and_eq_true_iff.mpr ⟨writes, ?_⟩⟩
  refine List.any_eq_true.mpr ⟨w, bound, Bool.and_eq_true_iff.mpr ⟨rfAt_of_source reads source, ?_⟩⟩
  rw [Execution.inSequence, beq_self_eq_true, Bool.true_or]

/-- R184: an acquire read that takes a byte from a release write, where they form a morally strong pair. -/
theorem hb_of_swAccess (pair : x.two (fun e f => e.release && e.writes && f.acquire && f.reads && strong e f) w r = true)
    (writes : x.writesAt b w = true) (reads : x.readsAt b r = true) (source : x.source r b = some w) : x.hb w r :=
  hb_of_sw (by simp [Execution.sw, Execution.swAccess, pair, takesRelease_of_source writes reads source])

/-- R185: a promoted acquire that takes a byte from a release of team scope. -/
theorem hb_of_swPromotion
    (pair : x.two (fun e f => e.release && e.writes && e.scope == .team && f.kind == .load && f.promotes && f.scope == .device) w r = true)
    (writes : x.writesAt b w = true) (reads : x.readsAt b r = true) (source : x.source r b = some w) : x.hb w r :=
  hb_of_sw (by simp [Execution.sw, Execution.swPromotion, pair, takesRelease_of_source writes reads source])

/-- R184: an arrival and a completion of one phase. -/
theorem hb_of_swPhase (h : x.swPhase i j = true) : x.hb i j := hb_of_sw (by simp [Execution.sw, h])

/-- R188: of two fences that release and acquire, each in the other's scope, one happens before the other. -/
theorem hb_of_fencePair (ne : i ≠ j) (pair : x.fencePair i j = true) (back : x.fencePair j i = true)
    (mem : i ∈ x.fences) : x.hb i j ∨ x.hb j i := by
  rcases Nat.lt_trichotomy (x.fences.idxOf i) (x.fences.idxOf j) with first | same | first
  · exact .inl (hb_of_sw (by simp [Execution.sw, Execution.swOrder, pair, first]))
  · exact absurd ((List.idxOf_inj mem).mp same) ne
  · exact .inr (hb_of_sw (by simp [Execution.sw, Execution.swOrder, back, first]))

/-! ## What Coherence and Causality exclude (R190) -/

theorem not_hb_self (c : Consistent x) : ¬ x.hb i i := fun h => c.causality i (.single h)

/-- What happens before an event of a byte is not, of that byte, after it. -/
theorem not_back_of_hb (c : Consistent x) (hb : x.hb i j) (ti : x.one (fun e => b ∈ e.bytes) i = true)
    (tj : x.one (fun e => b ∈ e.bytes) j = true) : ¬ (x.rfAt b j i = true ∨ x.coAt b j i = true ∨ x.frAt b j i = true) :=
  fun back => c.coherence b (mem_locations_of_one ti) i (.tail (.single (.inl ⟨hb, ti, tj⟩)) (.inr back))

/-- R190: no read takes a write older than one that happens before it. -/
theorem rank_le_rank_source (c : Consistent x) (hb : x.hb w r) (writes : x.writesAt b w = true) (reads : x.readsAt b r = true) :
    x.rank b (some w) ≤ x.rank b (x.source r b) := by
  by_contra older
  have ne : r ≠ w := fun e => not_hb_self c (e ▸ hb)
  have fr : x.frAt b r w = true := by simp [Execution.frAt, reads, writes, ne, Nat.lt_of_not_le older]
  exact not_back_of_hb c hb (touches_of_writesAt writes) (touches_of_readsAt reads) (.inr (.inr fr))

/-- A read does not take the initial bytes where a write of them happens before it. -/
theorem source_ne_none (c : Consistent x) (hb : x.hb w r) (writes : x.writesAt b w = true) (reads : x.readsAt b r = true) :
    x.source r b ≠ none := by
  intro initial
  have le := rank_le_rank_source c hb writes reads
  rw [initial] at le
  exact absurd le (by simp [Execution.rank])

/-- R182: the order of the writes of a byte is total. -/
theorem coAt_total (c : Consistent x) (ne : v ≠ w) (hv : x.writesAt b v = true) (hw : x.writesAt b w = true) :
    x.coAt b v w = true ∨ x.coAt b w v = true := by
  obtain ⟨-, members⟩ := c.wellFormed.order b (mem_locations_of_one (touches_of_writesAt hv))
  rcases Nat.lt_trichotomy ((x.co b).idxOf v) ((x.co b).idxOf w) with first | same | first
  · exact .inl (by simp [Execution.coAt, Execution.rank, hv, hw, first])
  · exact absurd ((List.idxOf_inj ((members v).mpr hv)).mp same) ne
  · exact .inr (by simp [Execution.coAt, Execution.rank, hv, hw, first])

/-- R182: a group's writes of one byte stand in program order. -/
theorem coAt_of_po (c : Consistent x) (po : x.po v w = true) (hv : x.writesAt b v = true) (hw : x.writesAt b w = true) :
    x.coAt b v w = true := by
  have ne : v ≠ w := fun e => not_hb_self c (e ▸ hb_of_po po)
  refine (coAt_total c ne hv hw).resolve_right fun back => ?_
  exact not_back_of_hb c (hb_of_po po) (touches_of_writesAt hv) (touches_of_writesAt hw) (.inr (.inl back))

/-- An earlier write of the byte that a read takes from another: the read comes before the later one. -/
theorem frAt_of_coAt (reads : x.readsAt b r = true) (source : x.source r b = some v) (ne : r ≠ w) (co : x.coAt b v w = true) :
    x.frAt b r w = true := by
  simp only [Execution.coAt, Bool.and_eq_true, decide_eq_true_eq] at co
  obtain ⟨⟨-, writes⟩, older⟩ := co
  simp [Execution.frAt, reads, writes, ne, source, older]

/-- A read that takes the initial byte comes before every write of it. -/
theorem frAt_of_initial (reads : x.readsAt b r = true) (source : x.source r b = none) (ne : r ≠ w) (writes : x.writesAt b w = true) :
    x.frAt b r w = true := by
  simp [Execution.frAt, reads, writes, ne, source, Execution.rank]

theorem two_and {p q : Event → Event → Bool} : x.two (fun e f => p e f && q e f) i j = (x.two p i j && x.two q i j) := by
  unfold Execution.two Execution.one
  cases x.program.events[i]? <;> cases x.program.events[j]? <;> simp

/-- A write and a read of one byte conflict. -/
theorem conflict_of_rfAt (c : Consistent x) (rf : x.rfAt b w r = true) : x.two conflict w r = true := by
  have reads := readsAt_of_rfAt rf
  have writes := (c.wellFormed.taken b (mem_locations_of_one (touches_of_readsAt reads)) r w reads (source_of_rfAt rf)).1
  unfold Execution.readsAt Execution.writesAt Execution.two Execution.one at *
  rcases he : x.program.events[w]? with _ | e
  · simp [he] at writes
  · rcases hf : x.program.events[r]? with _ | f
    · simp [hf] at reads
    · simp only [he, hf, Option.elim_some, Bool.and_eq_true, decide_eq_true_eq] at writes reads ⊢
      simp only [conflict, writes.1, Bool.true_or, Bool.and_true, List.any_eq_true, decide_eq_true_eq]
      exact ⟨b, writes.2, reads.2⟩

/-- R191: without a data race, the write that a read takes from another agent, not morally strong with it, happens before it. -/
theorem hb_of_rfAt (c : Consistent x) (free : ∀ i j, ¬ Race x i j) (rf : x.rfAt b w r = true)
    (apart : x.two (fun e f => e.agent != f.agent && !strong e f) w r = true) : x.hb w r := by
  have reads := readsAt_of_rfAt rf
  have writes := (c.wellFormed.taken b (mem_locations_of_one (touches_of_readsAt reads)) r w reads (source_of_rfAt rf)).1
  have weak : x.two (fun e f => conflict e f && e.agent != f.agent && !strong e f) w r = true := by
    simp only [Bool.and_assoc]
    rw [two_and, conflict_of_rfAt c rf, apart, Bool.and_self]
  by_contra unordered
  refine free w r ⟨weak, unordered, fun back => ?_⟩
  exact not_back_of_hb c back (touches_of_readsAt reads) (touches_of_writesAt writes) (.inl rf)

/-! ## Cycles of visible accesses (R189, R190) -/

/-- One step of what Device visibility keeps acyclic. -/
def Execution.visibleStep (x : Execution) (i j : Nat) : Prop :=
  x.two (fun e f => e.visible && f.visible) i j = true ∧
    (x.ppo i j = true ∨ x.somewhere x.rfAt i j = true ∨ x.somewhere x.coAt i j = true ∨ x.somewhere x.frAt i j = true)

theorem somewhere_of_touches {p : Location → Nat → Nat → Bool} (h : p b i j = true) (touches : x.one (fun e => b ∈ e.bytes) i = true) :
    x.somewhere p i j = true := List.any_eq_true.mpr ⟨b, mem_locations_of_one touches, h⟩

end Sys2Proof.Ordering

/-!
SUPPORT. The verdicts of spec/07's catalogue of tests: an execution for each outcome that is allowed, and for each that is forbidden
the cycle or the older value that the axioms exclude.
-/

namespace Sys2Proof.Litmus

open Sys2Proof.Ordering

/-! ## Outcomes that are allowed -/

/-- The write that a read takes a byte from, by a list of reads, words and writes. -/
def takenFrom (taken : List (Nat × List Location × Nat)) (r : Nat) (b : Location) : Option Nat :=
  (taken.find? fun e => e.1 == r && b ∈ e.2.1).map (·.2.2)

/-- An execution of a program: the writes of each word in order, what each load takes each word from, and the fence order. -/
def shown (p : Program) (co : List (List Location × List Nat)) (taken : List (Nat × List Location × Nat)) (fences : List Nat) :
    Execution where
  program := p
  co b := ((co.find? fun e => b ∈ e.1).map (·.2)).getD []
  source := takenFrom taken
  fences := fences

theorem sees_shown {p : Program} {co : List (List Location × List Nat)} {taken : List (Nat × List Location × Nat)} {fences : List Nat}
    {r : Nat} {l : List Location} {w : Option Nat} (h : ∀ b ∈ l, takenFrom taken r b = w) : Sees (shown p co taken fences) r l w := h

/-- The axioms hold: `before` lists happens-before, and the edges of the other axioms rise in the order of `line`. -/
def lineUp (line : List Nat) (before : List (Nat × Nat)) (x : Execution) : Bool :=
  x.checks (fun i j => (i, j) ∈ before) (fun _ i => line.idxOf i) (fun i => line.idxOf i) (fun i => line.idxOf i)

theorem allowed_of_lineUp {x : Execution} {o : Execution → Prop} {line : List Nat} {before : List (Nat × Nat)}
    (h : lineUp line before x = true) (ho : o x) : Allowed x.program o := ⟨x, rfl, consistent_of_checks h, ho⟩

/-- Every pair of the first n names, in their order. -/
def chain (n : Nat) : List (Nat × Nat) := (List.range n).flatMap fun j => (List.range j).map fun i => (i, j)

/-- Where no synchronisation joins the two parties, the flag may be seen without the data. -/
theorem passing_allowed {q : Agent} {release acquire : Event} {line : List Nat}
    (h : lineUp line [(0, 1), (2, 3)] (shown (messagePassing q release acquire) [(wordX, [0]), (wordY, [1])] [(2, wordY, 1)] []) = true) :
    Allowed (messagePassing q release acquire) FlagWithoutData :=
  allowed_of_lineUp h ⟨sees_shown (by decide +kernel), sees_shown (by decide +kernel)⟩

theorem passing_neither_allowed :
    Allowed (messagePassing farAway (storeRel groupP 1 .device wordY) (loadAcq farAway 0 .device wordY))
      (fun x => Sees x 2 wordY none ∧ Sees x 3 wordX (some 0)) :=
  allowed_of_lineUp (line := [2, 0, 1, 3]) (before := [(0, 1), (2, 3)])
    (x := shown _ [(wordX, [0]), (wordY, [1])] [(3, wordX, 0)] []) (by decide +kernel)
    ⟨sees_shown (by decide +kernel), sees_shown (by decide +kernel)⟩

theorem promotion_allowed : Allowed (promotion false) PromotedWithoutData :=
  allowed_of_lineUp (line := [1, 2, 3, 4, 5, 0]) (before := [(0, 1), (0, 2), (0, 3), (1, 2), (1, 3), (2, 3), (4, 5)])
    (x := shown _ [(wordX, [0]), (word 0x3000, [1]), (wordY, [3])] [(2, word 0x3000, 1), (4, wordY, 3)] []) (by decide +kernel)
    ⟨sees_shown (by decide +kernel), sees_shown (by decide +kernel), sees_shown (by decide +kernel)⟩

/-- Program order of store buffering with fences. -/
def fencedBefore : List (Nat × Nat) := [(0, 4), (4, 2), (0, 2), (1, 5), (5, 3), (1, 3)]

/-- Both loads of store buffering come before both stores. -/
theorem storeBuffering_allowed {fence : Agent → Option Event} {before : List (Nat × Nat)} {fences : List Nat}
    (h : lineUp [2, 3, 0, 1, 4, 5] before (shown (storeBuffering fence) [(wordX, [0]), (wordY, [1])] [] fences) = true) :
    Allowed (storeBuffering fence) NeitherStore :=
  allowed_of_lineUp h ⟨fun _ _ => rfl, fun _ _ => rfl⟩

theorem loadBuffering_allowed : Allowed (loadBuffering false) BothLater :=
  allowed_of_lineUp (line := [3, 0, 1, 2]) (before := [(0, 1), (2, 3)])
    (x := shown _ [(wordX, [3]), (wordY, [1])] [(0, wordX, 3), (2, wordY, 1)] []) (by decide +kernel)
    ⟨sees_shown (by decide +kernel), sees_shown (by decide +kernel)⟩

theorem independentReads_allowed : Allowed (independentReads fun a l => load a 0 l) OppositeOrders :=
  allowed_of_lineUp (line := [3, 1, 4, 5, 0, 2]) (before := [(2, 3), (4, 5)])
    (x := shown _ [(wordX, [0]), (wordY, [1])] [(2, wordX, 0), (4, wordY, 1)] []) (by decide +kernel)
    ⟨sees_shown (by decide +kernel), sees_shown (by decide +kernel), sees_shown (by decide +kernel), sees_shown (by decide +kernel)⟩

theorem readsOfOne_allowed : Allowed readsOfOne (fun x => Sees x 2 wordX (some 0) ∧ Sees x 3 wordX (some 1)) :=
  allowed_of_lineUp (line := [0, 2, 1, 3]) (before := [(0, 1), (2, 3)])
    (x := shown _ [(wordX, [0, 1])] [(2, wordX, 0), (3, wordX, 1)] []) (by decide +kernel)
    ⟨sees_shown (by decide +kernel), sees_shown (by decide +kernel)⟩

/-- Happens-before of the copy without a fence: program order, and the entry before the wait that covers it. -/
def freshCopyBefore : List (Nat × Nat) := [(0, 3), (0, 4), (3, 4), (1, 3), (2, 3), (1, 4), (2, 4)]

theorem freshCopy_stale_allowed : Allowed (freshCopy false) Stale :=
  allowed_of_lineUp (line := [1, 0, 2, 3, 4]) (before := freshCopyBefore)
    (x := shown _ [(wordX, [0]), (teamWord 0 0x100, [2])] [(4, teamWord 0 0x100, 2)] []) (by decide +kernel)
    (.inr ⟨sees_shown (by decide +kernel), sees_shown (by decide +kernel)⟩)

theorem freshCopy_fresh_allowed :
    Allowed (freshCopy false) (fun x => Sees x 4 (teamWord 0 0x100) (some 2) ∧ Sees x 1 wordX (some 0)) :=
  allowed_of_lineUp (line := [0, 1, 2, 3, 4]) (before := freshCopyBefore)
    (x := shown _ [(wordX, [0]), (teamWord 0 0x100, [2])] [(1, wordX, 0), (4, teamWord 0 0x100, 2)] []) (by decide +kernel)
    ⟨sees_shown (by decide +kernel), sees_shown (by decide +kernel)⟩

theorem operandB_allowed {k : Between} (h : lineUp [1, 0] [] (shown (operandB k) [(teamWord 0 0x100, [0])] [] []) = true) :
    Allowed (operandB k) OldOperand := allowed_of_lineUp h fun _ _ => rfl

theorem twoHops_allowed : Allowed twoHops (HopsSee (some 0)) :=
  allowed_of_lineUp (line := [0, 1, 2, 3, 4, 5]) (before := chain 6)
    (x := shown _ [(wordX, [0]), (word 0x3000, [1]), (wordY, [3])] [(2, word 0x3000, 1), (4, wordY, 3), (5, wordX, 0)] [])
    (by decide +kernel) ⟨sees_shown (by decide +kernel), sees_shown (by decide +kernel), sees_shown (by decide +kernel)⟩

/-! ## Outcomes that are forbidden -/

/-- The first byte of a word, which stands for the word in the arguments below. -/
theorem first_mem_word (a : Nat) : Location.global a ∈ word a := List.mem_map.mpr ⟨0, by simp, rfl⟩

theorem first_mem_teamWord (t a : Nat) : Location.team t a ∈ teamWord t a := List.mem_map.mpr ⟨0, by simp, rfl⟩

/-- R184: an acquire that sees the word of the release that it pairs with. -/
theorem hb_of_sees {x : Execution} {a i j : Nat} (seen : Sees x j (word a) (some i))
    (pair : x.two (fun e f => e.release && e.writes && f.acquire && f.reads && strong e f) i j = true)
    (writes : x.writesAt (.global a) i = true) (reads : x.readsAt (.global a) j = true) : x.hb i j :=
  hb_of_swAccess pair writes reads (seen _ (first_mem_word a))

/-- A load sees no initial bytes where a store of its word happens before it. -/
theorem not_sees_initial {x : Execution} (c : Consistent x) {a i j : Nat} (hb : x.hb i j) (writes : x.writesAt (.global a) i = true)
    (reads : x.readsAt (.global a) j = true) : ¬ Sees x j (word a) none :=
  fun seen => source_ne_none c hb writes reads (seen _ (first_mem_word a))

/-- The same of a word of a team's memory. -/
theorem not_sees_initial_team {x : Execution} (c : Consistent x) {t a i j : Nat} (hb : x.hb i j)
    (writes : x.writesAt (.team t a) i = true) (reads : x.readsAt (.team t a) j = true) : ¬ Sees x j (teamWord t a) none :=
  fun seen => source_ne_none c hb writes reads (seen _ (first_mem_teamWord t a))

theorem scopedPassing_forbidden {q : Agent} {s t : Scope} (group : q.isGroup = true)
    (pair : strong (storeRel groupP 1 s wordY) (loadAcq q 0 t wordY) = true) : Forbidden (scopedPassing q s t) FlagWithoutData := by
  rintro ⟨_, co, source, fences⟩ rfl c ⟨flag, data⟩
  have synchronised := hb_of_sees (i := 1) (j := 2) flag pair rfl rfl
  have reads : Execution.po ⟨scopedPassing q s t, co, source, fences⟩ 2 3 = true := by
    simp [Execution.po, Execution.two, Execution.one, scopedPassing, messagePassing, events, loadAcq, load, plain, group]
  have ordered := ((hb_of_po (i := 0) (j := 1) rfl).trans synchronised).trans (hb_of_po reads)
  exact not_sees_initial c ordered rfl rfl data

theorem promotion_forbidden : Forbidden (promotion true) PromotedWithoutData := by
  rintro ⟨_, co, source, fences⟩ rfl c ⟨inner, flag, data⟩
  have team := hb_of_sees (i := 1) (j := 2) inner rfl rfl rfl
  have promoted := hb_of_swPromotion (w := 3) (r := 4) rfl rfl rfl (flag _ (first_mem_word _))
  have released := ((hb_of_po (i := 0) (j := 1) rfl).trans team).trans (hb_of_po (j := 3) rfl)
  exact not_sees_initial c ((released.trans promoted).trans (hb_of_po (j := 5) rfl)) rfl rfl data

theorem storeBuffering_forbidden : Forbidden (storeBuffering fun a => some (fenceOf a 1 true true .device)) NeitherStore := by
  rintro ⟨_, co, source, fences⟩ rfl c ⟨ofY, ofX⟩
  have fence := (c.wellFormed.fenced.2 4).mpr rfl
  rcases hb_of_fencePair (j := 5) (by decide) rfl rfl fence with ordered | ordered
  · exact not_sees_initial c (((hb_of_po (i := 0) rfl).trans ordered).trans (hb_of_po (j := 3) rfl)) rfl rfl ofX
  · exact not_sees_initial c (((hb_of_po (i := 1) rfl).trans ordered).trans (hb_of_po (j := 2) rfl)) rfl rfl ofY

/-- A load that sees a store of its word reads from it. -/
theorem somewhere_of_sees {x : Execution} {a i j : Nat} (seen : Sees x j (word a) (some i)) (c : Consistent x)
    (reads : x.readsAt (.global a) j = true) : x.somewhere x.rfAt i j = true := by
  have source := seen _ (first_mem_word a)
  have writes := (c.wellFormed.taken _ (mem_locations_of_one (touches_of_readsAt reads)) _ _ reads source).1
  exact somewhere_of_touches (rfAt_of_source reads source) (touches_of_writesAt writes)

theorem loadBuffering_forbidden : Forbidden (loadBuffering true) BothLater := by
  rintro ⟨_, co, source, fences⟩ rfl c ⟨ofX, ofY⟩
  have firstTakes := somewhere_of_sees ofX c rfl
  have secondTakes := somewhere_of_sees ofY c rfl
  exact c.noThinAir 0 (.tail (.tail (.tail (.single (.inl (show Execution.dep _ 0 1 = true from rfl))) (.inr secondTakes))
    (.inl (show Execution.dep _ 2 3 = true from rfl))) (.inr firstTakes))

/-- A load that sees the initial word comes before a store of it. -/
theorem somewhere_of_initial {x : Execution} {a i j : Nat} (seen : Sees x j (word a) none) (ne : j ≠ i)
    (reads : x.readsAt (.global a) j = true) (writes : x.writesAt (.global a) i = true) : x.somewhere x.frAt j i = true :=
  somewhere_of_touches (frAt_of_initial reads (seen _ (first_mem_word a)) ne writes) (touches_of_readsAt reads)

theorem independentReads_forbidden : Forbidden (independentReads fun a l => loadAcq a 0 .device l) OppositeOrders := by
  rintro ⟨_, co, source, fences⟩ rfl c ⟨newX, oldY, newY, oldX⟩
  have takesX : Execution.visibleStep _ 0 2 := ⟨rfl, .inr (.inl (somewhere_of_sees newX c rfl))⟩
  have beforeY : Execution.visibleStep _ 3 1 := ⟨rfl, .inr (.inr (.inr (somewhere_of_initial oldY (by decide) rfl rfl)))⟩
  have takesY : Execution.visibleStep _ 1 4 := ⟨rfl, .inr (.inl (somewhere_of_sees newY c rfl))⟩
  have beforeX : Execution.visibleStep _ 5 0 := ⟨rfl, .inr (.inr (.inr (somewhere_of_initial oldX (by decide) rfl rfl)))⟩
  have second : Relation.TransGen (Execution.visibleStep _) 0 4 := .tail (.tail (.tail (.single takesX) ⟨rfl, .inl rfl⟩) beforeY) takesY
  exact c.deviceVisibility 0 (.tail (.tail second ⟨rfl, .inl rfl⟩) beforeX)

theorem readsOfOne_forbidden : Forbidden readsOfOne (fun x => Sees x 2 wordX (some 1) ∧ Sees x 3 wordX (some 0)) := by
  rintro ⟨_, co, source, fences⟩ rfl c ⟨new, old⟩
  have stores := coAt_of_po (b := .global 0x1000) (v := 0) (w := 1) c rfl rfl rfl
  have later := frAt_of_coAt (r := 3) rfl (old _ (first_mem_word _)) (by decide) stores
  have takes := rfAt_of_source (r := 2) rfl (new _ (first_mem_word _))
  exact c.coherence _ (mem_locations_of_one (i := 0) rfl) 3
    (.tail (.tail (.single (.inr (.inr (.inr later)))) (.inr (.inl takes))) (.inl ⟨hb_of_po rfl, rfl, rfl⟩))

theorem freshCopy_forbidden : Forbidden (freshCopy true) Stale := by
  rintro ⟨_, co, source, fences⟩ rfl c stale
  rcases stale with initial | ⟨-, oldX⟩
  · exact not_sees_initial_team c ((hb_of_eng (i := 2) (j := 3) rfl).trans (hb_of_po rfl)) rfl rfl initial
  · exact not_sees_initial c ((hb_of_po (i := 0) (j := 5) rfl).trans (hb_of_eng rfl)) rfl rfl oldX

/-- R192: the bytes of a block are of one write. -/
theorem blockPassing_forbidden : Forbidden blockPassing Torn := by
  rintro ⟨_, co, source, fences⟩ rfl c ⟨b, hb, d, hd, new, old⟩
  have loads : Execution.one ⟨blockPassing, co, source, fences⟩ (fun e => e.reads && e.sameUnit b d) 1 = true := by
    simp [Execution.one, blockPassing, events, Event.reads, Event.sameUnit, Row.unit, load, plain, hb, hd]
  have stores : Execution.one ⟨blockPassing, co, source, fences⟩ (fun e => e.writes && e.sameUnit b d) 0 = true := by
    simp [Execution.one, blockPassing, events, Event.writes, Event.sameUnit, Row.unit, store, plain, hb, hd]
  have located : ∀ a ∈ blockBytes, a ∈ Execution.locations ⟨blockPassing, co, source, fences⟩ := fun a ha =>
    List.mem_flatMap.mpr ⟨_, .head _, ha⟩
  have all := (c.wellFormed.whole b (located b hb) d (located d hd) 1 0 loads stores).mp (by rw [new])
  rw [old] at all
  exact absurd all (by simp [Execution.rank])

theorem twoHops_forbidden : Forbidden twoHops (HopsSee none) := by
  rintro ⟨_, co, source, fences⟩ rfl c ⟨inner, flag, data⟩
  have first := hb_of_sees (i := 1) (j := 2) inner rfl rfl rfl
  have second := hb_of_sees (i := 3) (j := 4) flag rfl rfl rfl
  have released := ((hb_of_po (i := 0) (j := 1) rfl).trans first).trans (hb_of_po (j := 3) rfl)
  exact not_sees_initial c ((released.trans second).trans (hb_of_po (j := 5) rfl)) rfl rfl data

theorem operandB_bars_forbidden : Forbidden (operandB .bars) OldOperand := by
  rintro ⟨_, co, source, fences⟩ rfl c old
  exact not_sees_initial_team c ((hb_of_po (i := 0) (j := 4) rfl).trans (hb_of_eng rfl)) rfl rfl old

theorem operandB_ownFence_forbidden : Forbidden (operandB .ownFence) OldOperand := by
  rintro ⟨_, co, source, fences⟩ rfl c old
  exact not_sees_initial_team c ((hb_of_po (i := 0) (j := 2) rfl).trans (hb_of_eng rfl)) rfl rfl old

end Sys2Proof.Litmus

/-!
PROOF. O33: what the axioms of memory ordering let a read return (R174 to R193).
-/

namespace Sys2Proof.Litmus

open Sys2Proof.Ordering

/-- Settles O33: what Coherence and Causality exclude, and the verdict of each test of the catalogue. -/
theorem orderingVerdicts : Obligations.OrderingVerdicts := by
  unfold Obligations.OrderingVerdicts
  refine ⟨fun _ _ _ _ => rank_le_rank_source, fun _ _ _ _ => coAt_of_po, fun _ _ _ _ => hb_of_rfAt, ⟨?_, ?_, ?_⟩, ⟨?_, ?_, ?_, ?_, ?_⟩,
    ⟨promotion_forbidden, promotion_allowed⟩, ⟨?_, ?_, storeBuffering_forbidden, ?_⟩, ⟨loadBuffering_allowed, loadBuffering_forbidden⟩,
    ⟨independentReads_forbidden, independentReads_allowed⟩, ⟨readsOfOne_forbidden, readsOfOne_allowed⟩,
    ⟨freshCopy_stale_allowed, freshCopy_fresh_allowed, freshCopy_forbidden⟩, blockPassing_forbidden,
    ⟨operandB_bars_forbidden, ?_, ?_, operandB_ownFence_forbidden⟩, ⟨twoHops_forbidden, twoHops_allowed⟩⟩
  · exact scopedPassing_forbidden (s := .device) (t := .device) rfl rfl
  · exact passing_allowed (line := [1, 2, 3, 0]) (by decide +kernel)
  · exact passing_neither_allowed
  · exact scopedPassing_forbidden rfl rfl
  · exact passing_allowed (line := [1, 2, 3, 0]) (by decide +kernel)
  · exact scopedPassing_forbidden rfl rfl
  · exact passing_allowed (line := [1, 2, 3, 0]) (by decide +kernel)
  · exact passing_allowed (line := [3, 0, 1, 2]) (by decide +kernel)
  · exact storeBuffering_allowed (before := [(0, 2), (1, 3)]) (fences := []) (by decide +kernel)
  · exact storeBuffering_allowed (before := fencedBefore) (fences := []) (by decide +kernel)
  · exact storeBuffering_allowed (before := fencedBefore) (fences := [4, 5]) (by decide +kernel)
  · exact operandB_allowed (by decide +kernel)
  · exact operandB_allowed (by decide +kernel)

end Sys2Proof.Litmus

/-!
SUPPORT. What a core reads (R159, R160): the lines of its L1 where nothing is dirty, what brings them and takes them away, and a
store that stays there.
-/

namespace Sys2Proof.Machine

open Sys2Proof.Claims

/-! ## The line of a core -/

/-- The line that a core's L1 holds under a number. -/
def lineAt (s : State) (core ln : Nat) : Option Line := (s.cores.get? core).bind fun c => c.lines.get? ln

theorem coreByte_eq (s : State) (core b : Nat) :
    coreByte s core b = ((lineAt s core (lineOf b)).map fun l => l.byte (b % 128)).getD (Memory.byte s.mem b) := by
  unfold coreByte lineAt
  cases (s.cores.get? core).bind fun c => c.lines.get? (lineOf b) <;> rfl

/-- What a core reads of a byte hangs on its line and on memory. -/
theorem coreByte_congr {s t : State} {core b : Nat} (line : lineAt t core (lineOf b) = lineAt s core (lineOf b))
    (mem : Memory.byte t.mem b = Memory.byte s.mem b) : coreByte t core b = coreByte s core b := by
  rw [coreByte_eq, coreByte_eq, line, mem]

theorem dirty_of_lineAt {s : State} (h : NoDirty s) {core ln : Nat} {l : Line} (hl : lineAt s core ln = some l) : l.dirty = 0 := by
  obtain ⟨c, hc, hcl⟩ := Option.bind_eq_some_iff.mp hl
  exact (noDirty_iff s).mp h core c ln l hc hcl

theorem lineAt_modifyCore (s : State) (n : Nat) (f : Core → Core) (core ln : Nat) :
    lineAt (s.modifyCore n f) core ln = (s.cores.get? core).bind fun c => (if core = n then f c else c).lines.get? ln := by
  simp only [lineAt, State.modifyCore, Table.get?_update]
  split
  · next h => subst h; cases s.cores.get? core <;> rfl
  · rfl

/-! ## Lines written back, dropped and brought -/

theorem lineAt_cleanLine {s : State} (h : NoDirty s) (n m core ln : Nat) : lineAt (cleanLine s n m) core ln = lineAt s core ln := by
  unfold cleanLine
  split
  · rfl
  · next l hl =>
    have clean : l.dirty = 0 := dirty_of_lineAt h hl
    rw [writeLine_clean s m clean, lineAt_modifyCore, lineAt]
    cases hc : s.cores.get? core with
    | none => rfl
    | some c =>
      simp only [Option.bind_some]
      split
      · next hn =>
        rw [Table.get?_insert]
        split
        · next hm =>
          subst hn hm
          rw [hc, Option.bind_some] at hl
          rw [hl, ← clean]
        · rfl
      · rfl

theorem lineAt_dropLine {s : State} (h : NoDirty s) (n m core ln : Nat) :
    lineAt (dropLine s n m) core ln = if core = n ∧ ln = m then none else lineAt s core ln := by
  rw [dropLine, lineAt_modifyCore, ← lineAt_cleanLine h n m core ln, lineAt]
  cases (cleanLine s n m).cores.get? core with
  | none => simp
  | some c =>
    simp only [Option.bind_some]
    by_cases hn : core = n
    · simp [hn, Table.get?_erase]
    · simp [hn]

theorem lineAt_cleanLines {s : State} (core ln n : Nat) (lns : List Nat) (h : NoDirty s) :
    lineAt (lns.foldl (fun s m => cleanLine s n m) s) core ln = lineAt s core ln := by
  induction lns generalizing s with
  | nil => rfl
  | cons m t ih => exact (ih (cleanLine_coresClean h n m).2).trans (lineAt_cleanLine h n m core ln)

theorem lineAt_cleanCore {s : State} (h : NoDirty s) (n core ln : Nat) : lineAt (cleanCore s n) core ln = lineAt s core ln :=
  lineAt_cleanLines core ln n _ h

theorem dropRange_coresClean {s : State} (h : NoDirty s) (core loc n : Nat) : CoresClean s (dropRange s core loc n) :=
  coresClean_foldl _ (fun _ ln hs => dropLine_coresClean hs core ln) _ h

/-- The holders of a line include every core whose L1 has it. -/
theorem mem_holders {s : State} {core ln : Nat} {l : Line} (h : lineAt s core ln = some l) : core ∈ holders s ln := by
  obtain ⟨c, hc, hl⟩ := Option.bind_eq_some_iff.mp h
  exact List.mem_map.mpr ⟨(core, c), List.mem_filter.mpr ⟨Table.mem_of_get? hc, by simp [hl]⟩, rfl⟩

/-- R203: a line recalled from every core. -/
theorem lineAt_recallLine {s : State} (core ln m : Nat) (keep : Option Nat) (cs : List Nat) (h : NoDirty s) :
    lineAt (cs.foldl (fun s c => if some c = keep then s else dropLine s c m) s) core ln =
      if core ∈ cs ∧ some core ≠ keep ∧ ln = m then none else lineAt s core ln := by
  induction cs generalizing s with
  | nil => simp
  | cons c t ih =>
    rw [List.foldl_cons]
    by_cases hc : some c = keep
    · rw [if_pos hc, ih h]
      by_cases same : core = c
      · subst same; simp [hc]
      · simp [same]
    · rw [if_neg hc, ih (dropLine_coresClean h c m).2, lineAt_dropLine h]
      by_cases same : core = c <;> by_cases hm : ln = m <;> simp_all

theorem recallLine_coresClean {s : State} (m : Nat) (keep : Option Nat) (cs : List Nat) (h : NoDirty s) :
    CoresClean s (cs.foldl (fun s c => if some c = keep then s else dropLine s c m) s) := by
  refine coresClean_foldl _ (fun s c hs => ?_) cs h
  split
  · exact .refl hs
  · exact dropLine_coresClean hs c m

/-- R203: a range recalled from every core but one: that one keeps its lines. -/
theorem lineAt_recallFrom_kept {s : State} (h : NoDirty s) (loc n core ln : Nat) :
    lineAt (recallFrom s loc n (some core)) core ln = lineAt s core ln := by
  unfold recallFrom
  induction linesOf loc n generalizing s with
  | nil => rfl
  | cons m t ih =>
    rw [List.foldl_cons, ih (recallLine_coresClean m _ _ h).2, lineAt_recallLine _ _ _ _ _ h, if_neg (by simp)]

/-- R203: a range recalled from every core: none has a line of it. -/
theorem lineAt_recallFrom_all {s : State} (h : NoDirty s) {loc n ln : Nat} (core : Nat) (mem : ln ∈ linesOf loc n) :
    lineAt (recallFrom s loc n none) core ln = none := by
  have fewer : ∀ (lns : List Nat) (s : State), NoDirty s → (ln ∈ lns ∨ lineAt s core ln = none) →
      lineAt (lns.foldl (fun s ln => (holders s ln).foldl (fun s c => if some c = none then s else dropLine s c ln) s) s) core ln =
        none := by
    intro lns
    induction lns with
    | nil => exact fun s _ hm => hm.resolve_left (by simp)
    | cons m t ih =>
      intro s hs hm
      refine ih _ (recallLine_coresClean m none _ hs).2 ?_
      rw [lineAt_recallLine _ _ _ _ _ hs]
      by_cases same : ln = m
      · right
        subst same
        rcases held : lineAt s core ln with _ | l
        · simp
        · simp [mem_holders held]
      · rw [if_neg (by simp [same])]
        exact hm.imp_left fun h => (List.mem_cons.mp h).resolve_left same
  exact fewer _ s h (.inl mem)

theorem mem_linesOf {loc n b : Nat} (lo : loc ≤ b) (hi : b < loc + n) : lineOf b ∈ linesOf loc n := by
  rw [linesOf, mem_upFrom]
  unfold lineOf
  omega

/-- R12: a line that leaves a full L1 is none of those kept. -/
theorem lineAt_makeRoom {s : State} (h : NoDirty s) (n : Nat) (keep : List Nat) (core ln : Nat) :
    lineAt (makeRoom s n keep) core ln = lineAt s core ln ∨ (ln ∉ keep ∧ lineAt (makeRoom s n keep) core ln = none) := by
  unfold makeRoom
  dsimp only
  split
  · exact .inl rfl
  · split
    · exact .inl rfl
    · next m hm =>
      have other : m ∉ keep := by simpa using (List.mem_filter.mp (List.mem_of_getElem? hm)).2
      rw [lineAt_dropLine h]
      split
      · next same => exact .inr ⟨same.2 ▸ other, rfl⟩
      · exact .inl rfl

/-- The line of memory that fills an L1. -/
def memoryLine (s : State) (ctx ln : Nat) : Line := ⟨BitVec.ofNat 1024 (leNat (Memory.bytes s.mem (128 * ln) 128)), 0, ctx⟩

theorem leNat_lt (bytes : List Byte) : leNat bytes < 2 ^ (8 * bytes.length) := by
  induction bytes with
  | nil => simp [leNat]
  | cons b t ih =>
    have := b.isLt
    rw [leNat, List.length_cons, Nat.mul_add, Nat.pow_add]
    omega

/-- A byte of a value read from bytes. -/
theorem extractLsb'_leNat {w k : Nat} (bytes : List Byte) (h : 8 * k + 8 ≤ w) :
    (BitVec.ofNat w (leNat bytes)).extractLsb' (8 * k) 8 = (bytes[k]?).getD 0 := by
  refine (BitVec.eq_of_getLsbD_eq fun i hi => ?_).trans (leNat_div_pow bytes k)
  have bytewise : 256 ^ k = 2 ^ (8 * k) := by rw [Nat.pow_mul]
  have inside : 8 * k + i < w := by omega
  rw [BitVec.getLsbD_extractLsb', BitVec.getLsbD_ofNat, BitVec.getLsbD_ofNat, bytewise, Nat.testBit_div_two_pow]
  simp [hi, inside, Nat.add_comm i]

theorem byte_memoryLine (s : State) (ctx b : Nat) : (memoryLine s ctx (lineOf b)).byte (b % 128) = Memory.byte s.mem b := by
  have inside : b % 128 < 128 := Nat.mod_lt _ (by decide)
  have place : 128 * lineOf b + b % 128 = b := Nat.div_add_mod b 128
  rw [Line.byte, memoryLine, extractLsb'_leNat _ (by omega), getElem?_bytes, if_pos inside, place]
  rfl

/-- A line of the range enters the L1, where it is not yet there. -/
def bringLine (ctx core : Nat) (keep : List Nat) (s : State) (ln : Nat) : State :=
  match (s.cores.get? core).bind fun c => c.lines.get? ln with
  | some _ => s
  | none => (makeRoom s core keep).modifyCore core fun c =>
      { c with lines := c.lines.insert ln (memoryLine (makeRoom s core keep) ctx ln) }

theorem fillRange_eq (s : State) (core ctx loc n : Nat) :
    fillRange s core ctx loc n = (linesOf loc n).foldl (bringLine ctx core (linesOf loc n)) s := rfl

theorem bringLine_onlyCleanLines {s : State} (h : NoDirty s) (ctx core : Nat) (keep : List Nat) (ln : Nat) :
    OnlyCleanLines s (bringLine ctx core keep s ln) := by
  unfold bringLine
  split
  · exact onlyCleanLines_refl h
  · exact onlyCleanLines_trans (makeRoom_onlyCleanLines h core keep) fun hs => insertLine_onlyCleanLines hs core ln _ rfl

theorem isSome_core_of_onlyLines {s t : State} (h : OnlyLines s t) (core : Nat) :
    (t.cores.get? core).isSome = (s.cores.get? core).isSome := by
  rw [← Option.isSome_map, h core, Option.isSome_map]

theorem fillRange_coresClean {s : State} (h : NoDirty s) (core ctx loc n : Nat) : CoresClean s (fillRange s core ctx loc n) :=
  (fillRange_onlyCleanLines h core ctx loc n).1

theorem bringLine_held {s : State} {core m : Nat} (held : (lineAt s core m).isSome = true) (ctx : Nat) (keep : List Nat) :
    bringLine ctx core keep s m = s := by
  obtain ⟨l, hl⟩ := Option.isSome_iff_exists.mp held
  unfold bringLine
  rw [show ((s.cores.get? core).bind fun c => c.lines.get? m) = some l from hl]

theorem lineAt_bringLine {s : State} (h : NoDirty s) {core m : Nat} (absent : lineAt s core m = none) (ctx : Nat) (keep : List Nat)
    (ln : Nat) : lineAt (bringLine ctx core keep s m) core ln =
      if ln = m ∧ (s.cores.get? core).isSome = true then some (memoryLine s ctx m) else lineAt (makeRoom s core keep) core ln := by
  obtain ⟨⟨frame, -⟩, lines⟩ := makeRoom_onlyCleanLines h core keep
  have present := isSome_core_of_onlyLines lines core
  have line : memoryLine (makeRoom s core keep) ctx m = memoryLine s ctx m := by rw [memoryLine, frame]; rfl
  unfold bringLine
  rw [show ((s.cores.get? core).bind fun c => c.lines.get? m) = none from absent]
  rw [lineAt_modifyCore, ← present, line, lineAt]
  rcases (makeRoom s core keep).cores.get? core with _ | c
  · simp
  · simp [Table.get?_insert]

/-- What an L1 reads where lines have come: the same, or, of a line that has left, what memory holds. -/
def Fills (core : Nat) (keep : List Nat) (s t : State) : Prop :=
  CoresClean s t ∧ ∀ b, coreByte t core b = coreByte s core b ∨ (lineOf b ∉ keep ∧ coreByte t core b = Memory.byte s.mem b)

theorem CoresClean.mem {s t : State} (h : CoresClean s t) : t.mem = s.mem := by rw [h.1]

theorem bringLine_fills {s : State} (h : NoDirty s) (ctx core : Nat) (keep : List Nat) (m : Nat) :
    Fills core keep s (bringLine ctx core keep s m) := by
  have clean := (bringLine_onlyCleanLines h ctx core keep m).1
  refine ⟨clean, fun b => ?_⟩
  rcases absent : lineAt s core m with _ | l
  · have line := lineAt_bringLine h absent ctx keep (lineOf b)
    split at line
    · next same =>
      left
      rw [coreByte_eq, coreByte_eq, line, same.1, absent, ← same.1]
      exact byte_memoryLine s ctx b
    · rcases lineAt_makeRoom h core keep core (lineOf b) with kept | ⟨left_, gone⟩
      · exact .inl (coreByte_congr (line.trans kept) (by rw [clean.mem]))
      · refine .inr ⟨left_, ?_⟩
        rw [coreByte_eq, line, gone, clean.mem]
        rfl
  · rw [bringLine_held (by rw [absent]; rfl)]
    exact .inl rfl

theorem fillRange_fills {s : State} (h : NoDirty s) (core ctx loc n : Nat) :
    Fills core (linesOf loc n) s (fillRange s core ctx loc n) := by
  rw [fillRange_eq]
  generalize linesOf loc n = keep
  suffices all : ∀ lns : List Nat, Fills core keep s (lns.foldl (bringLine ctx core keep) s) from all keep
  intro lns
  induction lns generalizing s with
  | nil => exact ⟨.refl h, fun _ => .inl rfl⟩
  | cons m t ih =>
    have first := bringLine_fills h ctx core keep m
    have rest := ih first.1.2
    refine ⟨first.1.trans rest.1, fun b => ?_⟩
    rcases rest.2 b with same | ⟨gone, memory⟩
    · rw [List.foldl_cons, same]
      exact first.2 b
    · exact .inr ⟨gone, memory.trans (by rw [first.1.mem])⟩

/-- R160: what a core reads of a range does not change as its lines come. -/
theorem coreByte_fillRange {s : State} (h : NoDirty s) (ctx : Nat) {core loc n b : Nat} (lo : loc ≤ b) (hi : b < loc + n) :
    coreByte (fillRange s core ctx loc n) core b = coreByte s core b :=
  ((fillRange_fills h core ctx loc n).2 b).resolve_right fun gone => gone.1 (mem_linesOf lo hi)

/-- A core holds every line of a range that its L1 has taken. -/
theorem fillRange_holds {s : State} (h : NoDirty s) {core : Nat} (there : (s.cores.get? core).isSome = true) (ctx loc n : Nat) {ln : Nat}
    (mem : ln ∈ linesOf loc n) : (lineAt (fillRange s core ctx loc n) core ln).isSome = true := by
  rw [fillRange_eq]
  generalize linesOf loc n = keep at mem
  suffices all : ∀ (lns : List Nat) (s : State), NoDirty s → (s.cores.get? core).isSome = true →
      (ln ∈ lns ∨ (lineAt s core ln).isSome = true) → (lineAt (lns.foldl (bringLine ctx core keep) s) core ln).isSome = true from
    all keep s h there (.inl mem)
  intro lns
  induction lns with
  | nil => exact fun _ _ _ hm => hm.resolve_left (by simp)
  | cons m t ih =>
    intro s h there hm
    rcases absent : lineAt s core m with _ | l
    · have line := lineAt_bringLine h absent ctx keep ln
      obtain ⟨clean, lines⟩ := bringLine_onlyCleanLines h ctx core keep m
      refine ih _ clean.2 ((isSome_core_of_onlyLines lines core).trans there) ?_
      by_cases same : ln = m
      · rw [line, if_pos ⟨same, there⟩]
        exact .inr rfl
      · refine (hm.imp_left fun h => (List.mem_cons.mp h).resolve_left same).imp_right fun held => ?_
        rw [line, if_neg (by simp [same])]
        rcases lineAt_makeRoom h core keep core ln with kept | ⟨out, -⟩
        · rw [kept, held]
        · exact absurd mem out
    · rw [List.foldl_cons, bringLine_held (by rw [absent]; rfl)]
      refine ih s h there (hm.elim (fun h => ?_) .inr)
      rcases List.mem_cons.mp h with rfl | h
      · exact .inr (by rw [absent]; rfl)
      · exact .inl h

/-! ## A store that stays in the L1 (R160) -/

theorem getLsbD_byteMask (k : Nat) : (0xFF#1024).getLsbD k = decide (k < 8) := by
  rw [BitVec.getLsbD_ofNat, show 0xFF = 2 ^ 8 - 1 from rfl, Nat.testBit_two_pow_sub_one]
  by_cases h : k < 8
  · simp [h]; omega
  · simp [h]

theorem Line.byte_setByte (l : Line) {i j : Nat} (hi : i < 128) (hj : j < 128) (b : Byte) :
    (l.setByte i b).byte j = if j = i then b else l.byte j := by
  refine BitVec.eq_of_getLsbD_eq fun m hm => ?_
  have inside : 8 * j + m < 1024 := by omega
  have low : 8 * j + m - 8 * i < 1024 := by omega
  have bit : (l.setByte i b).data.getLsbD (8 * j + m) =
      ((l.data.getLsbD (8 * j + m) && (decide (8 * j + m < 8 * i) || !decide (8 * j + m - 8 * i < 8))) ||
        (!decide (8 * j + m < 8 * i) && b.getLsbD (8 * j + m - 8 * i))) := by
    simp only [Line.setByte, Nat.mod_eq_of_lt hi, BitVec.getLsbD_or, BitVec.getLsbD_and, BitVec.getLsbD_not, BitVec.getLsbD_shiftLeft,
      getLsbD_byteMask, BitVec.getLsbD_setWidth, inside]
    simp [low]
  rw [Line.byte, BitVec.getLsbD_extractLsb', bit]
  by_cases same : j = i
  · subst same
    simp [hm]
  · rw [if_neg same, Line.byte, BitVec.getLsbD_extractLsb']
    rcases Nat.lt_or_gt_of_ne same with below | above
    · have before : 8 * j + m < 8 * i := by omega
      simp [hm, before]
    · have after : ¬ 8 * j + m < 8 * i := by omega
      have beyond : ¬ 8 * j + m - 8 * i < 8 := by omega
      simp [hm, after, beyond, BitVec.getLsbD_of_ge b _ (Nat.le_of_not_lt beyond)]

/-- A byte of a core's line is written. -/
def putByte (core : Nat) (s : State) (p : Byte × Nat) : State :=
  s.modifyCore core fun c => { c with lines := c.lines.update (lineOf p.2) (fun l => l.setByte (p.2 % 128) p.1) }

theorem coreStore_eq (s : State) (core ctx loc : Nat) (bytes : List Byte) :
    coreStore s core ctx loc bytes = (bytes.zip (upFrom loc bytes.length)).foldl (putByte core) (fillRange s core ctx loc bytes.length) :=
  rfl

theorem lineAt_putByte (s : State) (core : Nat) (p : Byte × Nat) (ln : Nat) :
    lineAt (putByte core s p) core ln =
      if ln = lineOf p.2 then (lineAt s core ln).map (fun l => l.setByte (p.2 % 128) p.1) else lineAt s core ln := by
  rw [putByte, lineAt_modifyCore, lineAt]
  cases s.cores.get? core with
  | none => simp
  | some c =>
    rw [Option.bind_some, if_pos rfl, Option.bind_some, Table.get?_update]
    split
    · next h => rw [h]
    · rfl

theorem coreByte_putByte {s : State} {core a : Nat} (held : (lineAt s core (lineOf a)).isSome = true) (x : Byte) (b : Nat) :
    coreByte (putByte core s (x, a)) core b = if b = a then x else coreByte s core b := by
  obtain ⟨l, hl⟩ := Option.isSome_iff_exists.mp held
  have mem : (putByte core s (x, a)).mem = s.mem := rfl
  rw [coreByte_eq, coreByte_eq, lineAt_putByte, mem]
  by_cases line : lineOf b = lineOf a
  · have place : b = a ↔ b % 128 = a % 128 := by unfold lineOf at line; omega
    rw [if_pos line, line, hl]
    simp only [Option.map_some, Option.getD_some, place]
    exact Line.byte_setByte l (Nat.mod_lt _ (by decide)) (Nat.mod_lt _ (by decide)) x
  · rw [if_neg line, if_neg (fun same => line (by rw [same]))]

/-- Bytes written to lines that the core holds. -/
theorem coreByte_putBytes {core : Nat} (bytes : List Byte) : ∀ {s : State} {loc : Nat},
    (∀ k, k < bytes.length → (lineAt s core (lineOf (loc + k))).isSome = true) → ∀ b,
    coreByte ((bytes.zip (upFrom loc bytes.length)).foldl (putByte core) s) core b =
      if loc ≤ b ∧ b < loc + bytes.length then (bytes[b - loc]?).getD 0 else coreByte s core b := by
  induction bytes with
  | nil => intro s loc _ b; simp
  | cons x t ih =>
    intro s loc held b
    have still : ∀ k, k < t.length → (lineAt (putByte core s (x, loc)) core (lineOf (loc + 1 + k))).isSome = true := fun k hk => by
      have old := held (k + 1) (by simpa using hk)
      rw [Nat.add_comm k 1, ← Nat.add_assoc] at old
      rw [lineAt_putByte]
      split
      · rw [Option.isSome_map, old]
      · exact old
    have run : ((x :: t).zip (upFrom loc (x :: t).length)).foldl (putByte core) s =
        (t.zip (upFrom (loc + 1) t.length)).foldl (putByte core) (putByte core s (x, loc)) := rfl
    have first : (lineAt s core (lineOf loc)).isSome = true := held 0 (by simp)
    rw [run, ih still b, coreByte_putByte first x b, List.length_cons]
    by_cases here : b = loc
    · subst here
      simp
    · by_cases rest : loc + 1 ≤ b ∧ b < loc + 1 + t.length
      · have index : b - loc = b - (loc + 1) + 1 := by omega
        rw [if_pos rest, if_pos (by omega), index]
        rfl
      · rw [if_neg rest, if_neg here, if_neg (by omega)]

/-- Only cores have changed. -/
theorem putBytes_frame {core : Nat} (ps : List (Byte × Nat)) (s : State) :
    ps.foldl (putByte core) s = { s with cores := (ps.foldl (putByte core) s).cores } := by
  induction ps generalizing s with
  | nil => rfl
  | cons p t ih =>
    rw [List.foldl_cons, ih]
    rfl

/-- R160: a store that stays in the L1: the core reads its bytes, and of other bytes what it read before, or what memory holds. -/
theorem coreStore_spec {s : State} (h : NoDirty s) {core : Nat} (there : (s.cores.get? core).isSome = true) (ctx loc : Nat)
    (bytes : List Byte) : coreStore s core ctx loc bytes = { s with cores := (coreStore s core ctx loc bytes).cores } ∧
      ∀ b, if loc ≤ b ∧ b < loc + bytes.length then coreByte (coreStore s core ctx loc bytes) core b = (bytes[b - loc]?).getD 0
        else coreByte (coreStore s core ctx loc bytes) core b = coreByte s core b ∨
          coreByte (coreStore s core ctx loc bytes) core b = Memory.byte s.mem b := by
  obtain ⟨⟨frame, -⟩, filled⟩ := fillRange_fills h core ctx loc bytes.length
  have held : ∀ k, k < bytes.length → (lineAt (fillRange s core ctx loc bytes.length) core (lineOf (loc + k))).isSome = true :=
    fun k hk => fillRange_holds h there ctx loc _ (mem_linesOf (by omega) (by omega))
  rw [coreStore_eq]
  refine ⟨by rw [putBytes_frame, frame], fun b => ?_⟩
  rw [coreByte_putBytes bytes held]
  split
  · rfl
  · exact (filled b).imp_right And.right

/-! ## A store at the home (R160) -/

theorem byte_writeMem (s : State) (a b : Nat) (bytes : List Byte) : Memory.byte (s.writeMem a bytes).mem b =
    if a ≤ b ∧ b < a + bytes.length then (bytes[b - a]?).getD 0 else Memory.byte s.mem b := by
  split
  · next h =>
    obtain ⟨k, rfl⟩ := Nat.exists_eq_add_of_le h.1
    have inside : k < bytes.length := by omega
    rw [byte_writeMem_at s a (List.getElem?_eq_getElem inside), Nat.add_sub_cancel_left, List.getElem?_eq_getElem inside]
    rfl
  · next h => exact State.byte_writeMem s a b bytes (by omega)

theorem homeStore_spec {s : State} (h : NoDirty s) (core loc : Nat) (bytes : List Byte) :
    let t := homeStore s core loc bytes
    t = { s with cores := t.cores, mem := t.mem, memPoison := t.memPoison } ∧
      ∀ b, Memory.byte t.mem b = if loc ≤ b ∧ b < loc + bytes.length then (bytes[b - loc]?).getD 0 else Memory.byte s.mem b := by
  obtain ⟨frame, -⟩ := dropRange_coresClean h core loc bytes.length
  refine ⟨?_, fun b => ?_⟩
  · rw [homeStore, frame]
    rfl
  · rw [homeStore, byte_writeMem, frame]

/-! ## A store in a team's memory -/

theorem read_writes (bytes : List Byte) : ∀ (m : Table Byte) (off b : Nat),
    ((bytes.zip (upFrom off bytes.length)).foldl (fun m p => Table.write m p.2 p.1 0) m).read b 0 =
      if off ≤ b ∧ b < off + bytes.length then (bytes[b - off]?).getD 0 else m.read b 0 := by
  induction bytes with
  | nil => intro m off b; simp
  | cons x t ih =>
    intro m off b
    have run : ((x :: t).zip (upFrom off (x :: t).length)).foldl (fun m p => Table.write m p.2 p.1 0) m =
        (t.zip (upFrom (off + 1) t.length)).foldl (fun m p => Table.write m p.2 p.1 0) (Table.write m off x 0) := rfl
    rw [run, ih, Table.read_write, List.length_cons]
    by_cases here : b = off
    · subst here
      simp
    · by_cases rest : off + 1 ≤ b ∧ b < off + 1 + t.length
      · have index : b - off = b - (off + 1) + 1 := by omega
        rw [if_pos rest, if_pos (by omega), index]
        rfl
      · rw [if_neg rest, if_neg here, if_neg (by omega)]

theorem teamByte_setTeamBytes (x : Team) (off : Nat) (bytes : List Byte) (b : Nat) :
    teamByte (setTeamBytes x off bytes) b = if off ≤ b ∧ b < off + bytes.length then (bytes[b - off]?).getD 0 else teamByte x b :=
  read_writes bytes x.mem off b

theorem getElem?_teamBytes (x : Team) (n : Nat) :
    ∀ off k, (teamBytes x off n)[k]? = if k < n then some (teamByte x (off + k)) else none := by
  induction n with
  | zero => simp [teamBytes]
  | succ n ih =>
    intro off k
    cases k with
    | zero => simp [teamBytes, teamByte]
    | succ k => simp [teamBytes, ih, Nat.add_assoc, Nat.add_comm 1 k]

theorem getElem?_coreBytes (s : State) (core n : Nat) :
    ∀ loc k, (coreBytes s core loc n)[k]? = if k < n then some (coreByte s core (loc + k)) else none := by
  induction n with
  | zero => simp [coreBytes]
  | succ n ih =>
    intro loc k
    cases k with
    | zero => simp [coreBytes]
    | succ k => simp [coreBytes, ih, Nat.add_assoc, Nat.add_comm 1 k]

end Sys2Proof.Machine

/-!
SUPPORT. One lane of an access performs (spec/07 R178, R201; spec/10 R262, R266, R267): the step, what precedes the lane's effect on
memory, and what follows it.
-/

namespace Sys2Proof.Machine

open Sys2Proof.Claims

variable {s : State} {aid : Nat} {a : Access} {u : Issuer} {la : LaneAccess} {rest : List LaneAccess}

/-! ## The step -/

/-- The first lane of an access in flight may perform, and meets no poison. -/
def Performs (s : State) (aid : Nat) (a : Access) (u : Issuer) (la : LaneAccess) (rest : List LaneAccess) : Prop :=
  s.accesses.get? aid = some a ∧ issuerOf s a.group = some u ∧ u.g.wait ≠ some (.checks aid) ∧ a.lanes = la :: rest ∧
  la.performed = false ∧ (∀ x ∈ a.lanes, x.toPeer = false) ∧ mayPerform s aid a la = true ∧ lanePoisoned s u.t.core la = false

theorem performs_of_firstLane (h : FirstLane s aid a u la rest) : Performs s aid a u la rest := by
  obtain ⟨access, issuer, wait, lanes, fresh, peers, -, -, may, clear⟩ := h
  exact ⟨access, issuer, wait, lanes, fresh, peers, may, clear⟩

theorem performs_of_firstBlock {va : Nat} {sc : Target} (h : FirstBlock s aid a u la va sc rest) : Performs s aid a u la rest := by
  obtain ⟨access, issuer, wait, lanes, fresh, peers, -, -, may, clear, -⟩ := h
  exact ⟨access, issuer, wait, lanes, fresh, peers, may, clear⟩

theorem ranges_of_firstLane (h : FirstLane s aid a u la rest) : la.ranges = [(la.target, la.size)] := by
  obtain ⟨-, -, -, -, -, -, tail, scale, -⟩ := h
  simp [LaneAccess.ranges, LaneAccess.dataRanges, tail, scale]

theorem ranges_of_firstBlock {va : Nat} {sc : Target} (h : FirstBlock s aid a u la va sc rest) :
    la.ranges = [(la.target, la.size), (sc, 1)] ∧ la.dataSize = la.size := by
  obtain ⟨-, -, -, -, -, -, tail, scale, -⟩ := h
  simp [LaneAccess.ranges, LaneAccess.dataRanges, LaneAccess.dataSize, tail, scale]

theorem performLanes_performs (h : Performs s aid a u la rest) (l1 : Bool) :
    performLanes s aid l1 1 (la :: rest) = some (settleBy (performLane s aid la l1) (exchangeWriter s a)) := by
  obtain ⟨access, -, -, lanes, fresh, peers, may, -⟩ := h
  have here : la.toPeer = false := peers la (by rw [lanes]; exact .head _)
  simp [performLanes, access, fresh, here, may]

theorem stepAccess_performs (h : Performs s aid a u la rest) (l1 : Bool) {ok : AccessKind → Bool} (hk : ok a.kind = true) :
    stepAccess s aid 1 l1 ok = .next (returnLanes (settleBy (performLane s aid la l1) (exchangeWriter s a)) aid 1) := by
  obtain ⟨access, issuer, wait, lanes, -⟩ := id h
  have run := performLanes_performs h l1
  simp [stepAccess, access, hk, advanceAccess, issuer, lanes, awaitsCheck, wait, run]

theorem exchangeWriter_eq_none (hk : ∀ op ret, a.kind ≠ .rmw op ret) : exchangeWriter s a = none := by
  cases kind : a.kind with
  | rmw op ret => exact absurd kind (hk op ret)
  | _ => simp [exchangeWriter, kind]

theorem exec_storePerform_performs (h : Performs s aid a u la rest) (hk : a.kind = .store ∨ ∃ f, a.kind = .mxStore f) :
    exec (.storePerform aid 1) s = .next (returnLanes (settle (performLane s aid la false)) aid 1) := by
  obtain ⟨access, -, -, -, -, peers, -, -⟩ := id h
  have writer : exchangeWriter s a = none := exchangeWriter_eq_none (by rcases hk with hk | ⟨f, hk⟩ <;> simp [hk])
  have here : a.awaitsPeer = false := by
    simp only [Access.awaitsPeer, List.any_eq_false, Bool.and_eq_true, not_and]
    exact fun x hx toPeer => absurd toPeer (by simp [peers x hx])
  have run := stepAccess_performs h false (ok := fun k => k.writes && !k.isRmw) (by rcases hk with hk | ⟨f, hk⟩ <;> rw [hk] <;> rfl)
  change execStorePerform aid 1 s = _
  rw [writer] at run
  simp only [execStorePerform, access, here, Bool.false_and, Bool.false_eq_true, if_false]
  exact run

theorem exec_loadWriteback_performs (h : Performs s aid a u la rest) {w : LoadWidth} (hk : a.kind = .load w) (l1 : Bool) :
    exec (.loadWriteback aid 1 l1) s = .next (returnLanes (settle (performLane s aid la l1)) aid 1) := by
  have run := stepAccess_performs h l1 (ok := fun k => match k with | .load _ => true | _ => false) (by rw [hk])
  rw [exchangeWriter_eq_none (by simp [hk])] at run
  exact run

theorem exec_ldmxCompletion_performs (h : Performs s aid a u la rest) {fmt reg : Nat} (hk : a.kind = .mxLoad fmt reg) :
    exec (.ldmxCompletion aid 1) s = .next (returnLanes (settle (performLane s aid la true)) aid 1) := by
  have run := stepAccess_performs h true (ok := fun k => k.block && k.reads) (by rw [hk]; rfl)
  rw [exchangeWriter_eq_none (by simp [hk])] at run
  exact run

/-! ## Before the effect (R160, R183, R203) -/

/-- The state in which a lane has its effect: checked lines are recalled, and a release has written back what came before. -/
def readied (s : State) (u : Issuer) (a : Access) (la : LaneAccess) : State :=
  beforeOrdered (la.ranges.foldl (fun s r => prepareLine s u.t.core (scopeOf u a la) r.1 r.2) s) u a (scopeOf u a la)

theorem cleanCores_coresClean (cores : List Nat) (h : NoDirty s) : CoresClean s (cores.foldl cleanCore s) :=
  coresClean_foldl _ (fun _ c hs => cleanCore_coresClean hs c) cores h

theorem beforeOrdered_coresClean (h : NoDirty s) (u : Issuer) (a : Access) (scope : Nat) : CoresClean s (beforeOrdered s u a scope) := by
  have released : CoresClean s (if a.isRelease && decide (scope ≠ 0) then cleanCore s u.t.core else s) := by
    split
    · exact cleanCore_coresClean h _
    · exact .refl h
  unfold beforeOrdered
  dsimp only
  generalize (if a.isRelease && decide (scope ≠ 0) then cleanCore s u.t.core else s) = p at released ⊢
  split
  · exact released.trans (cleanCores_coresClean _ released.2)
  · exact released

theorem prepareLines_coresClean (core scope : Nat) (rs : List (Target × Nat)) (h : NoDirty s) :
    CoresClean s (rs.foldl (fun s r => prepareLine s core scope r.1 r.2) s) :=
  coresClean_foldl _ (fun _ r hs => (prepareLine_onlyCleanLines hs core scope r.1 r.2).1) rs h

theorem readied_coresClean (h : NoDirty s) (u : Issuer) (a : Access) (la : LaneAccess) : CoresClean s (readied s u a la) :=
  have prepared := prepareLines_coresClean u.t.core (scopeOf u a la) la.ranges h
  prepared.trans (beforeOrdered_coresClean prepared.2 u a _)

/-- A release and a promotion leave each line where it is, clean. -/
theorem lineAt_beforeOrdered (h : NoDirty s) (u : Issuer) (a : Access) (scope core ln : Nat) :
    lineAt (beforeOrdered s u a scope) core ln = lineAt s core ln := by
  have released : lineAt (if a.isRelease && decide (scope ≠ 0) then cleanCore s u.t.core else s) core ln = lineAt s core ln ∧
      NoDirty (if a.isRelease && decide (scope ≠ 0) then cleanCore s u.t.core else s) := by
    split
    · exact ⟨lineAt_cleanCore h _ core ln, (cleanCore_coresClean h _).2⟩
    · exact ⟨rfl, h⟩
  unfold beforeOrdered
  dsimp only
  generalize (if a.isRelease && decide (scope ≠ 0) then cleanCore s u.t.core else s) = p at released ⊢
  split
  · refine Eq.trans ?_ released.1
    have clean := released.2
    generalize p.cores.keys = cores
    clear released
    induction cores generalizing p with
    | nil => rfl
    | cons c t ih => exact (ih _ (cleanCore_coresClean clean c).2).trans (lineAt_cleanCore clean c core ln)
  · exact released.1

/-- R203: a team-scope access, and one of an unchecked page, leaves its core's lines where they are. -/
theorem lineAt_prepareLine (h : NoDirty s) (core : Nat) {scope : Nat} {t : Target} (n : Nat)
    (kept : scope = 0 ∨ ¬ Claims.tracked t) (ln : Nat) : lineAt (prepareLine s core scope t n) core ln = lineAt s core ln := by
  unfold prepareLine
  split
  · next loc c =>
    have team : scope = 0 := kept.resolve_right fun not => not rfl
    rw [if_pos team]
    exact lineAt_recallFrom_kept h loc n core ln
  · rfl

/-! ## After the effect (R196, R201, R352) -/

/-- Only race records, marks and pins have changed: no byte of a team, and no byte of memory but the race records. -/
def Recorded (s t : State) (u : Issuer) : Prop :=
  t = { s with mem := t.mem, memPoison := t.memPoison, teams := t.teams } ∧ NothingStored s t u

theorem Recorded.refl (s : State) (u : Issuer) : Recorded s s u := ⟨rfl, fun _ _ => rfl, fun _ => rfl⟩

theorem mbase_of_lostChannels {s t : State} (h : t.lostChannels = s.lostChannels) : t.mbase = s.mbase := by
  unfold State.mbase State.hbmBytes State.usableChannels
  rw [h]

theorem Recorded.mbase {t : State} (h : Recorded s t u) : t.mbase = s.mbase := mbase_of_lostChannels (by rw [h.1])

theorem Recorded.trans {t r : State} (h : Recorded s t u) (k : Recorded t r u) : Recorded s r u := by
  refine ⟨by rw [k.1, h.1], fun b hb => ?_, fun n => (k.2.2 n).trans (h.2.2 n)⟩
  exact (k.2.1 b (by rwa [h.mbase])).trans (h.2.1 b hb)

theorem recorded_foldl {α : Type} (f : State → α → State) (h : ∀ s a, Recorded s (f s a) u) (l : List α) (s : State) :
    Recorded s (l.foldl f s) u := by
  induction l generalizing s with
  | nil => exact .refl s u
  | cons a l ih => exact (h s a).trans (ih (f s a))

/-- Teams' pins have changed, and no byte. -/
def Pinned (s t : State) : Prop :=
  t = { s with teams := t.teams } ∧ ∀ k, (t.teams.get? k).map (·.mem) = (s.teams.get? k).map (·.mem)

theorem Pinned.refl (s : State) : Pinned s s := ⟨rfl, fun _ => rfl⟩

theorem Pinned.trans {t r : State} (h : Pinned s t) (k : Pinned t r) : Pinned s r :=
  ⟨by rw [k.1, h.1], fun n => (k.2 n).trans (h.2 n)⟩

theorem pinned_foldl {α : Type} (f : State → α → State) (h : ∀ s a, Pinned s (f s a)) (l : List α) (s : State) :
    Pinned s (l.foldl f s) := by
  induction l generalizing s with
  | nil => exact .refl s
  | cons a l ih => exact (h s a).trans (ih (f s a))

theorem modifyTeam_pinned (s : State) (n : Nat) (f : Team → Team) (h : ∀ x, (f x).mem = x.mem) : Pinned s (s.modifyTeam n f) := by
  refine ⟨rfl, fun k => ?_⟩
  simp only [State.modifyTeam, Table.get?_update]
  split
  · next same => subst same; cases s.teams.get? k <;> simp [h]
  · rfl

theorem Pinned.recorded {t : State} (h : Pinned s t) (u : Issuer) : Recorded s t u :=
  ⟨by rw [h.1], fun _ _ => by rw [h.1], h.2⟩

theorem writeMem_recorded (checks : u.c.rmode ≠ 0) (s : State) {loc : Nat} (above : s.mbase ≤ loc) (bytes : List Byte) :
    Recorded s (s.writeMem loc bytes) u :=
  ⟨rfl, fun b hb => State.byte_writeMem s loc b bytes (.inl (Nat.lt_of_lt_of_le (hb.resolve_left checks) above)), fun _ => rfl⟩

theorem mbase_le_markLoc (s : State) (n : Nat) : s.mbase ≤ markLoc s n := by
  unfold markLoc
  generalize s.mbase = m
  exact Nat.le_add_right m _

/-- The record of a granule stands in the carve-out, or in no memory. -/
theorem setMark_recorded (checks : u.c.rmode ≠ 0) (s : State) (g : Granule) (k : Mark) : Recorded s (setMark s g k) u := by
  cases g with
  | phys n => exact writeMem_recorded checks s (mbase_le_markLoc s n) _
  | team t n =>
    refine Pinned.recorded ?_ u
    exact modifyTeam_pinned s t _ fun _ => rfl

theorem recordLane_recorded (s : State) (u : Issuer) (a : Access) (la : LaneAccess) : Recorded s (recordLane s u a la) u := by
  unfold recordLane laneGranules
  split
  · exact .refl s u
  · next checks => exact recorded_foldl _ (fun s g => setMark_recorded (fun none => checks (.inl none)) s g _) _ s

theorem pinWriter_pinned (s : State) (tid rmode : Nat) (t : Target) : Pinned s (pinWriter s tid rmode t) := by
  unfold pinWriter
  split
  · exact .refl s
  · exact modifyTeam_pinned s tid _ fun _ => rfl
  · split
    · exact modifyTeam_pinned s tid _ fun _ => rfl
    · exact .refl s

theorem pinRead_pinned (s : State) (tid : Nat) (ms : List Mark) : Pinned s (pinRead s tid ms) := by
  refine pinned_foldl _ (fun s m => ?_) ms s
  split
  · exact .refl s
  · refine ⟨rfl, fun k => ?_⟩
    rw [Table.get?_mapVals, Option.map_map]
    congr 1
    funext x
    dsimp only [Function.comp]
    split <;> rfl

theorem pinLane_pinned (s : State) (u : Issuer) (a : Access) (la : LaneAccess) (marks : List Mark) :
    Pinned s (pinLane s u a la marks) := by
  unfold pinLane
  have read : Pinned s (if a.kind.reads then pinRead s u.g.team marks else s) := by
    split
    · exact pinRead_pinned s _ marks
    · exact .refl s
  dsimp only
  generalize (if a.kind.reads then pinRead s u.g.team marks else s) = p at read ⊢
  split
  · exact read.trans (pinned_foldl _ (fun s (r : Target × Nat) => pinWriter_pinned s _ _ r.1) _ p)
  · exact read

/-- What a lane records of an unchecked page is nothing. -/
theorem recordLane_unchecked {a : Access} {la : LaneAccess} (h : ∀ r ∈ la.ranges, granulesOf r.1 r.2 = []) (s : State) (u : Issuer) :
    recordLane s u a la = s := by
  have none_marked : la.ranges.flatMap (fun r => granulesOf r.1 r.2) = [] := List.flatMap_eq_nil_iff.mpr h
  simp [recordLane, laneGranules, none_marked]

/-- The access after its first lane has performed. -/
def laneDone (la : LaneAccess) (v : BitVec 272) (fl : Flags) (race : Option (BitVec 512))
    (sound : Option (BitVec 512) → Option (BitVec 512)) (b : Access) : Access :=
  { setLane b { la with performed := true, value := some v, poisoned := false } with
    race := race, flags := b.flags ||| fl, sound := sound b.sound }

/-- What a lane does that meets no poison: its effect in the readied state, then its record, the acquire and the pins. -/
theorem performLane_eq (h : Performs s aid a u la rest) (l1 : Bool) :
    ∃ race sound marks, performLane s aid la l1 =
      let o := laneEffect (readied s u a la) u aid a la (scopeOf u a la) l1
      (pinLane (afterAcquire (recordLane o.2.2 u a la) u a (scopeOf u a la) marks) u a la marks).modifyAccess aid
        (laneDone la o.1 o.2.1 race sound) := by
  obtain ⟨access, issuer, -, -, -, -, -, clear⟩ := h
  unfold performLane
  simp only [access, issuer, clear, Bool.false_and, Bool.false_eq_true, if_false]
  exact ⟨_, fun old => soundReached (readied s u a la) u.t.core _ la old, _, rfl⟩

end Sys2Proof.Machine

/-!
SUPPORT. The effect of a lane at its target (spec/06 R160; spec/07 R178): what a write leaves there, and that nothing that comes
before or after it changes a byte.
-/

namespace Sys2Proof.Machine

open Sys2Proof.Claims

variable {s : State} {aid : Nat} {a : Access} {u : Issuer} {la : LaneAccess} {rest : List LaneAccess}

/-! ## What follows an effect -/

/-- A placed range has no record in it, or makes none. -/
theorem byte_recordLane {r : State} {loc c : Nat} {k : Bool} {n : Nat} (ranges : la.ranges = [(.phys loc c k, n)])
    (placed : Placed s u (.phys loc c k) n) (same : r.mbase = s.mbase) {b : Nat} (hi : b < loc + n) :
    Memory.byte (recordLane r u a la).mem b = Memory.byte r.mem b := by
  rcases placed.1 with unchecked | below
  · rw [recordLane_unchecked (by rw [ranges, unchecked]; simp [granulesOf])]
  · exact (recordLane_recorded r u a la).2.1 b (.inr (by omega))

/-- Nothing of a target's bytes, and nothing of others but the race records, changes after the effect. -/
def Follows (r t : State) (u : Issuer) (at_ : Target) (n : Nat) : Prop :=
  NothingStored r t u ∧ ∀ loc c k, at_ = .phys loc c k → ∀ b, loc ≤ b → b < loc + n → Memory.byte t.mem b = Memory.byte r.mem b

theorem recordLane_pinLane_follows {r : State} {at_ : Target} {n : Nat} (ranges : la.ranges = [(at_, n)]) (placed : Placed s u at_ n)
    (same : r.mbase = s.mbase) (marks : List Mark) : Follows r (pinLane (recordLane r u a la) u a la marks) u at_ n := by
  obtain ⟨frame, bytes⟩ := pinLane_pinned (recordLane r u a la) u a la marks
  refine ⟨((recordLane_recorded r u a la).trans ((pinLane_pinned _ u a la marks).recorded u)).2, ?_⟩
  rintro loc c k rfl b - hi
  rw [frame]
  exact byte_recordLane ranges placed same hi

theorem firstIs_laneDone {b : Access} (there : s.accesses.get? aid = some b) (lanes : b.lanes = la :: rest) (v : BitVec 272)
    (fl : Flags) (race : Option (BitVec 512)) (sound : Option (BitVec 512) → Option (BitVec 512)) :
    FirstIs (s.modifyAccess aid (laneDone la v fl race sound)) aid { la with performed := true, value := some v, poisoned := false } := by
  refine ⟨laneDone la v fl race sound b, ?_, ?_⟩
  · simp [State.modifyAccess, there]
  · simp [laneDone, setLane, lanes]

/-! ## A write at a target -/

/-- What a write changes: cores, memory and teams. -/
def OnlyPlaces (s t : State) : Prop := t = { s with cores := t.cores, mem := t.mem, memPoison := t.memPoison, teams := t.teams }

theorem OnlyPlaces.trans {t r : State} (h : OnlyPlaces s t) (k : OnlyPlaces t r) : OnlyPlaces s r := by
  unfold OnlyPlaces at *
  rw [k, h]

theorem OnlyPlaces.of_coresClean {t : State} (h : CoresClean s t) : OnlyPlaces s t := by
  unfold OnlyPlaces
  rw [h.1]

theorem OnlyPlaces.of_recorded {t : State} (h : Recorded s t u) : OnlyPlaces s t := by
  unfold OnlyPlaces
  rw [h.1]

theorem OnlyPlaces.of_pinned {t : State} (h : Pinned s t) : OnlyPlaces s t := by
  unfold OnlyPlaces
  rw [h.1]

theorem OnlyPlaces.mbase {t : State} (h : OnlyPlaces s t) : t.mbase = s.mbase := mbase_of_lostChannels (by rw [h])

theorem OnlyPlaces.groups {t : State} (h : OnlyPlaces s t) : t.groups = s.groups := by rw [h]

theorem OnlyPlaces.accesses {t : State} (h : OnlyPlaces s t) : t.accesses = s.accesses := by rw [h]

theorem writeTarget_onlyPlaces (h : NoDirty s) (core ctx : Nat) (l1 : Bool) (at_ : Target) (bytes : List Byte) :
    OnlyPlaces s (writeTarget s core ctx l1 at_ bytes) := by
  cases at_ with
  | team tid off => rfl
  | peer _ _ => rfl
  | phys loc c k =>
    cases l1 with
    | true =>
      show OnlyPlaces s (coreStore s core ctx loc bytes)
      have filled : OnlyPlaces s (fillRange s core ctx loc bytes.length) := .of_coresClean (fillRange_coresClean h core ctx loc _)
      rw [coreStore_eq]
      refine filled.trans ?_
      unfold OnlyPlaces
      rw [putBytes_frame]
    | false =>
      show OnlyPlaces s (homeStore s core loc bytes)
      unfold OnlyPlaces
      rw [(homeStore_spec h core loc bytes).1]

/-- R160, R178: the bytes of a write are at its target, and no other has changed. -/
theorem writeTarget_stored (h : NoDirty s) {at_ : Target} {bytes : List Byte} (placed : Placed s u at_ bytes.length) (ctx : Nat)
    (l1 : Bool) :
    Stored s (writeTarget s u.t.core ctx l1 at_ bytes) u (l1 = true) at_ bytes.length (fun k => (bytes[k]?).getD 0) := by
  cases at_ with
  | peer _ _ => exact placed.elim
  | team tid off =>
    obtain ⟨x, hx⟩ := Option.isSome_iff_exists.mp placed
    refine ⟨fun _ _ => rfl, fun k other => ?_, x, setTeamBytes x off bytes, hx, ?_, teamByte_setTeamBytes x off bytes⟩
    · simp [writeTarget, State.modifyTeam, Table.get?_update, other]
    · simp [writeTarget, State.modifyTeam, hx]
  | phys loc c k =>
    cases l1 with
    | true =>
      obtain ⟨frame, bytesAt⟩ := coreStore_spec h placed.2 ctx loc bytes
      have state : writeTarget s u.t.core ctx true (.phys loc c k) bytes = coreStore s u.t.core ctx loc bytes := rfl
      rw [state]
      refine ⟨fun _ => by rw [frame], fun _ => ⟨fun _ _ => by rw [frame], fun b _ => bytesAt b⟩, fun no => absurd rfl no⟩
    | false =>
      obtain ⟨frame, bytesAt⟩ := homeStore_spec h u.t.core loc bytes
      have state : writeTarget s u.t.core ctx false (.phys loc c k) bytes = homeStore s u.t.core loc bytes := rfl
      rw [state]
      refine ⟨fun _ => by rw [frame], nofun, fun _ => ⟨fun b out _ => ?_, fun j hj => ?_⟩⟩
      · rw [bytesAt, if_neg (by omega)]
      · rw [bytesAt, if_pos (by omega), Nat.add_sub_cancel_left]

/-! ## A stored value seen from before and from after -/

theorem stored_congr {t : State} {p q : Prop} {at_ : Target} {n : Nat} {v w : Nat → Byte} (h : Stored s t u p at_ n v) (iff : p ↔ q)
    (same : ∀ k, k < n → v k = w k) : Stored s t u q at_ n w := by
  obtain rfl := propext iff
  cases at_ with
  | peer _ _ => exact h
  | team tid off =>
    obtain ⟨memory, others, x, y, hx, hy, bytes⟩ := h
    refine ⟨memory, others, x, y, hx, hy, fun b => ?_⟩
    rw [bytes]
    split
    · exact same _ (by omega)
    · rfl
  | phys loc c k =>
    obtain ⟨teams, near, home⟩ := h
    refine ⟨teams, fun l1 => ⟨(near l1).1, fun b hb => ?_⟩, fun far => ⟨(home far).1, fun k hk => ?_⟩⟩
    · have old := (near l1).2 b hb
      split at old
      · next inside => rw [if_pos inside, old, same _ (by omega)]
      · next outside => rwa [if_neg outside]
    · rw [(home far).2 k hk, same k hk]

theorem stored_of_clean {r t : State} (clean : CoresClean s r) {l1 : Prop} {at_ : Target} {n : Nat} {v : Nat → Byte}
    (kept : l1 → ∀ b, coreByte r u.t.core b = coreByte s u.t.core b) (h : Stored r t u l1 at_ n v) : Stored s t u l1 at_ n v := by
  have mem := clean.mem
  have teams : r.teams = s.teams := by rw [clean.1]
  have base : r.mbase = s.mbase := (OnlyPlaces.of_coresClean clean).mbase
  cases at_ with
  | peer _ _ => exact h
  | team tid off =>
    simp only [Stored, SameAll, mem, teams, base] at h ⊢
    exact h
  | phys loc c k =>
    simp only [Stored, SameAll, SameBut, mem, teams, base] at h ⊢
    refine ⟨h.1, fun l1 => ?_, h.2.2⟩
    rw [← funext (kept l1)]
    exact h.2.1 l1

theorem stored_followed {r t : State} {l1 : Prop} {at_ : Target} {n : Nat} {v : Nat → Byte} (h : Stored s r u l1 at_ n v)
    (base : r.mbase = s.mbase) (cores : t.cores = r.cores) (after : Follows r t u at_ n) : Stored s t u l1 at_ n v := by
  obtain ⟨⟨memory, teams⟩, target⟩ := after
  rw [SameAll, base] at memory
  cases at_ with
  | peer _ _ => exact h
  | team tid off =>
    obtain ⟨before, others, x, y, hx, hy, bytes⟩ := h
    have same := teams tid
    rw [hy, Option.map_some] at same
    obtain ⟨z, hz, mem⟩ := Option.map_eq_some_iff.mp same
    refine ⟨fun b hb => (memory b hb).trans (before b hb), fun k hk => (teams k).trans (others k hk), x, z, hx, hz, fun b => ?_⟩
    rw [← bytes, teamByte, teamByte, mem]
  | phys loc c k =>
    obtain ⟨same, near, home⟩ := h
    refine ⟨fun k => (teams k).trans (same k), fun l1 => ?_, fun far => ?_⟩
    · refine ⟨fun b hb => (memory b hb).trans ((near l1).1 b hb), fun b hb => ?_⟩
      have line : coreByte t u.t.core b = coreByte r u.t.core b := coreByte_congr (by rw [lineAt, lineAt, cores]) (memory b hb)
      rw [line]
      exact (near l1).2 b hb
    · refine ⟨fun b out hb => (memory b hb).trans ((home far).1 b out hb), fun j hj => ?_⟩
      rw [target loc c k rfl _ (by omega) (by omega)]
      exact (home far).2 j hj

end Sys2Proof.Machine

/-!
PROOF. O29: a lane of a store performs (spec/07 R174, R178; spec/06 R160; spec/10 R262, R267).
-/

namespace Sys2Proof.Machine

open Sys2Proof.Claims

variable {s : State} {aid : Nat} {a : Access} {u : Issuer} {la : LaneAccess} {rest : List LaneAccess}

/-- At team scope, and of unchecked pages, the lines of the lane's core are as before when the effect comes. -/
theorem lineAt_readied (h : NoDirty s) (kept : ∀ r ∈ la.ranges, Claims.scopeOf u a la = 0 ∨ ¬ Claims.tracked r.1) (ln : Nat) :
    lineAt (readied s u a la) u.t.core ln = lineAt s u.t.core ln := by
  have prepared : ∀ (rs : List (Target × Nat)) (s : State), NoDirty s → (∀ r ∈ rs, Claims.scopeOf u a la = 0 ∨ ¬ Claims.tracked r.1) →
      lineAt (rs.foldl (fun s r => prepareLine s u.t.core (Claims.scopeOf u a la) r.1 r.2) s) u.t.core ln = lineAt s u.t.core ln := by
    intro rs
    induction rs with
    | nil => exact fun _ _ _ => rfl
    | cons r t ih =>
      intro s hs hr
      have first := lineAt_prepareLine hs u.t.core r.2 (hr r (.head _)) ln
      exact (ih _ (prepareLine_onlyCleanLines hs u.t.core _ r.1 r.2).1.2 fun x hx => hr x (.tail _ hx)).trans first
  rw [readied, lineAt_beforeOrdered (prepareLines_coresClean _ _ _ h).2]
  exact prepared _ s h kept

theorem cleanCore_onlyLines (s : State) (core : Nat) : OnlyLines s (cleanCore s core) :=
  onlyLines_foldl s _ _ fun s ln => cleanLine_onlyLines s core ln

theorem readied_onlyLines (h : NoDirty s) (u : Issuer) (a : Access) (la : LaneAccess) : OnlyLines s (readied s u a la) := by
  have prepared : OnlyLines s (la.ranges.foldl (fun s r => prepareLine s u.t.core (Claims.scopeOf u a la) r.1 r.2) s) :=
    (onlyCleanLines_foldl _ (fun _ r hs => prepareLine_onlyCleanLines hs u.t.core _ r.1 r.2) _ h).2
  refine onlyLines_trans prepared ?_
  unfold readied
  generalize la.ranges.foldl (fun s r => prepareLine s u.t.core (Claims.scopeOf u a la) r.1 r.2) s = p
  have released : OnlyLines p (if a.isRelease && decide (Claims.scopeOf u a la ≠ 0) then cleanCore p u.t.core else p) := by
    split
    · exact cleanCore_onlyLines p _
    · exact onlyLines_refl p
  unfold beforeOrdered
  dsimp only
  generalize (if a.isRelease && decide (Claims.scopeOf u a la ≠ 0) then cleanCore p u.t.core else p) = q at released ⊢
  split
  · exact onlyLines_trans released (onlyLines_foldl q _ _ cleanCore_onlyLines)
  · exact released

/-- A target is placed in the readied state where it was before. -/
theorem placed_readied (h : NoDirty s) {t : Target} {n : Nat} (placed : Placed s u t n) : Placed (readied s u a la) u t n := by
  have places := OnlyPlaces.of_coresClean (readied_coresClean h u a la)
  cases t with
  | peer _ _ => exact placed
  | team tid off => rw [Placed, (readied_coresClean h u a la).1]; exact placed
  | phys loc c k =>
    rw [Placed, places.mbase, isSome_core_of_onlyLines (readied_onlyLines h u a la)]
    exact placed

theorem coreByte_readied (h : NoDirty s) (kept : ∀ r ∈ la.ranges, Claims.scopeOf u a la = 0 ∨ ¬ Claims.tracked r.1) (b : Nat) :
    coreByte (readied s u a la) u.t.core b = coreByte s u.t.core b :=
  coreByte_congr (lineAt_readied h kept _) (by rw [(readied_coresClean h u a la).mem])

/-- A store that performs: what is written in the readied state, the lane's record and its pins. -/
theorem performLane_store (h : Performs s aid a u la rest) (hk : a.kind = .store ∨ ∃ f, a.kind = .mxStore f) {r : State}
    (effect : laneEffect (readied s u a la) u aid a la (Claims.scopeOf u a la) false = (0, 0, r)) :
    ∃ race sound marks, performLane s aid la false =
      (pinLane (recordLane r u a la) u a la marks).modifyAccess aid (laneDone la 0 0 race sound) := by
  obtain ⟨race, sound, marks, eq⟩ := performLane_eq h false
  have plain : a.isAcquire = false := by
    rcases hk with hk | ⟨f, hk⟩ <;> simp [Access.isAcquire, hk, AccessKind.isRmw, AccessKind.reads]
  refine ⟨race, sound, marks, eq.trans ?_⟩
  simp only [effect, afterAcquire, plain, Bool.not_false, if_true]

/-- What a store's lane leaves besides its bytes: the groups, and the lane performed. -/
theorem stored_lane_frame (nd : NoDirty s) (h : Performs s aid a u la rest) {r : State} (places : OnlyPlaces (readied s u a la) r)
    (race : Option (BitVec 512)) (sound : Option (BitVec 512) → Option (BitVec 512)) (marks : List Mark) :
    let t := (pinLane (recordLane r u a la) u a la marks).modifyAccess aid (laneDone la 0 0 race sound)
    t.groups = s.groups ∧ FirstIs t aid { la with performed := true, value := some 0, poisoned := false } := by
  obtain ⟨access, -, -, lanes, -⟩ := h
  have all : OnlyPlaces s (pinLane (recordLane r u a la) u a la marks) :=
    ((OnlyPlaces.of_coresClean (readied_coresClean nd u a la)).trans places).trans
      ((OnlyPlaces.of_recorded (recordLane_recorded r u a la)).trans (.of_pinned (pinLane_pinned _ u a la marks)))
  exact ⟨all.groups, firstIs_laneDone (by rw [all.accesses]; exact access) lanes 0 0 race sound⟩

theorem l1Keeps_iff (scope : Nat) (t : Target) : l1Keeps scope t = true ↔ cached t ∧ scope = 0 := by
  unfold l1Keeps cached
  split
  · simp
  · next other =>
    cases t with
    | phys loc c k => simpa using fun hc => absurd (by rw [hc]) (other loc k)
    | team _ _ => simp
    | peer _ _ => simp

/-- A byte of the data that a store writes. -/
theorem getElem?_leBytes_data (la : LaneAccess) {n k : Nat} (h : k < n) :
    ((leBytes n la.data.toNat)[k]?).getD 0 = dataByte la k := by
  rw [getElem?_leBytes _ h, Option.getD_some, dataByte]
  refine BitVec.eq_of_toNat_eq ?_
  rw [BitVec.toNat_ofNat, BitVec.extractLsb'_toNat, Nat.shiftRight_eq_div_pow, show 256 = 2 ^ 8 from rfl, ← Nat.pow_mul]

/-- O29, its first clause: a lane of a plain store. -/
theorem storePerform_lane (h : FirstLane s aid a u la rest) (hk : a.kind = .store) (placed : Placed s u la.target la.size)
    (nd : NoDirty s) : ∃ t v, exec (.storePerform aid 1) s = .next (returnLanes (settle t) aid 1) ∧
      Stored s t u (keptByL1 u a la) la.target la.size (dataByte la) ∧ t.groups = s.groups ∧
      FirstIs t aid { la with performed := true, value := some v, poisoned := false } := by
  have performs := performs_of_firstLane h
  have ranges := ranges_of_firstLane h
  have clean := readied_coresClean nd u a la
  let keep := l1Keeps (Claims.scopeOf u a la) la.target && !a.isRelease
  let bytes := leBytes la.size la.data.toNat
  have length : bytes.length = la.size := leBytes_length _ _
  let r := writeTarget (readied s u a la) u.t.core u.l.ctx keep la.target bytes
  have effect : laneEffect (readied s u a la) u aid a la (Claims.scopeOf u a la) false = (0, 0, r) := by
    simp only [laneEffect, hk, ranges, writeRanges, List.take_of_length_le (Nat.le_of_eq (leBytes_length la.size la.data.toNat))]
    rfl
  obtain ⟨race, sound, marks, eq⟩ := performLane_store performs (.inl hk) effect
  have places : OnlyPlaces (readied s u a la) r := writeTarget_onlyPlaces clean.2 _ _ keep _ bytes
  have all := (OnlyPlaces.of_coresClean clean).trans places
  obtain ⟨groups, first⟩ := stored_lane_frame nd performs places race sound marks
  refine ⟨_, 0, exec_storePerform_performs performs (.inl hk), ?_, by rw [eq]; exact groups, by rw [eq]; exact first⟩
  have written : Stored s r u (keptByL1 u a la) la.target la.size (dataByte la) := by
    have iff : keep = true ↔ keptByL1 u a la := by simp [keep, l1Keeps_iff, keptByL1, and_assoc]
    have stored := writeTarget_stored clean.2 (bytes := bytes) (by rw [length]; exact placed_readied nd placed) u.l.ctx keep
    rw [length] at stored
    refine stored_of_clean clean (fun kept b => coreByte_readied nd (fun _ _ => .inl kept.2.1) b) ?_
    exact stored_congr stored iff fun k hk => getElem?_leBytes_data la hk
  rw [eq]
  have cores : (pinLane (recordLane r u a la) u a la marks).cores = r.cores := by
    rw [(pinLane_pinned _ u a la marks).1, (recordLane_recorded r u a la).1]
  exact stored_followed written all.mbase cores (recordLane_pinLane_follows ranges placed all.mbase marks)

/-! ## A block -/

/-- The byte of a block's scale. -/
theorem ofNat_scale (la : LaneAccess) : leBytes 1 (la.data.toNat / 2 ^ 256) = [dataByte la 32] := by
  have byte : BitVec.ofNat 8 (la.data.toNat / 2 ^ 256) = dataByte la 32 := by
    refine BitVec.eq_of_toNat_eq ?_
    rw [BitVec.toNat_ofNat, dataByte, BitVec.extractLsb'_toNat, Nat.shiftRight_eq_div_pow]
  rw [← byte]
  rfl

/-- O29, its second clause: a block and its scale, in the memory of one team. -/
theorem storePerform_block {fmt va tid off soff : Nat} {x : Team} (h : FirstBlock s aid a u la va (.team tid soff) rest)
    (hk : a.kind = .mxStore fmt) (target : la.target = .team tid off) (hx : s.teams.get? tid = some x)
    (apart : soff < off ∨ off + la.size ≤ soff) (nd : NoDirty s) :
    ∃ t y, exec (.storePerform aid 1) s = .next (returnLanes (settle t) aid 1) ∧ SameAll s t u ∧ t.groups = s.groups ∧
      (∀ k, k ≠ tid → (t.teams.get? k).map (·.mem) = (s.teams.get? k).map (·.mem)) ∧ t.teams.get? tid = some y ∧
      ∀ b, teamByte y b = if off ≤ b ∧ b < off + la.size then dataByte la (b - off)
        else if b = soff then dataByte la 32 else teamByte x b := by
  have performs := performs_of_firstBlock h
  obtain ⟨ranges, size⟩ := ranges_of_firstBlock h
  rw [target] at ranges
  have clean := readied_coresClean nd u a la
  let bytes := leBytes la.size la.data.toNat
  have length : bytes.length = la.size := leBytes_length _ _
  let r := ((readied s u a la).modifyTeam tid fun y => setTeamBytes y off bytes).modifyTeam tid fun y =>
    setTeamBytes y soff [dataByte la 32]
  have written : writeRanges (readied s u a la) u (fun _ => false) la.ranges
      (leBytes la.dataSize la.data.toNat ++ leBytes 1 (la.data.toNat / 2 ^ 256)) = r := by
    have elements : (bytes ++ [dataByte la 32]).take la.size = bytes := by rw [← length, List.take_left]
    have scale : (bytes ++ [dataByte la 32]).drop la.size = [dataByte la 32] := by rw [← length, List.drop_left]
    rw [ranges, size, ofNat_scale, writeRanges, writeRanges, writeRanges, elements, scale]
    rfl
  have effect : laneEffect (readied s u a la) u aid a la (Claims.scopeOf u a la) false = (0, 0, r) := by
    unfold laneEffect
    rw [hk]
    exact congrArg (fun r => (0, 0, r)) written
  obtain ⟨race, sound, marks, eq⟩ := performLane_store performs (.inr ⟨fmt, hk⟩) effect
  have places : OnlyPlaces (readied s u a la) r := rfl
  obtain ⟨groups, -⟩ := stored_lane_frame nd performs places race sound marks
  have before : (readied s u a la).teams = s.teams := by rw [clean.1]
  have teams : ∀ k, r.teams.get? k =
      if k = tid then some (setTeamBytes (setTeamBytes x off bytes) soff [dataByte la 32]) else s.teams.get? k := fun k => by
    simp only [r, State.modifyTeam, Table.get?_update, before]
    split <;> simp [hx]
  obtain ⟨memory, same⟩ := ((recordLane_recorded r u a la).trans ((pinLane_pinned _ u a la marks).recorded u)).2
  have standing := same tid
  rw [teams, if_pos rfl, Option.map_some] at standing
  obtain ⟨y, hy, mem⟩ := Option.map_eq_some_iff.mp standing
  refine ⟨_, y, exec_storePerform_performs performs (.inr ⟨fmt, hk⟩), ?_⟩
  rw [eq]
  refine ⟨fun b hb => ?_, groups, fun k other => ?_, hy, fun b => ?_⟩
  · have base : r.mbase = s.mbase := ((OnlyPlaces.of_coresClean clean).trans places).mbase
    exact (memory b (by rwa [base])).trans (by rw [← clean.mem]; rfl)
  · rw [← (show r.teams.get? k = s.teams.get? k by rw [teams, if_neg other])]
    exact same k
  · have bytesAt : teamByte y b = teamByte (setTeamBytes (setTeamBytes x off bytes) soff [dataByte la 32]) b := by
      rw [teamByte, mem, teamByte]
    rw [bytesAt, teamByte_setTeamBytes, teamByte_setTeamBytes, length]
    by_cases scale : b = soff
    · subst scale
      rw [if_pos (by simp), if_neg (by omega), if_pos rfl]
      simp
    · rw [if_neg (by simp; omega), if_neg scale]
      split
      · exact getElem?_leBytes_data la (by omega)
      · rfl

/-- Settles O29: a lane's effect in the readied state is the write at its target; what precedes it leaves the core's bytes, and
what follows it records and pins. -/
theorem storesPerform : Obligations.StoresPerform := by
  unfold Obligations.StoresPerform
  refine ⟨?_, ?_⟩
  · intro s aid a u la rest first hk placed nd
    exact storePerform_lane first hk placed nd
  · intro s aid a u la fmt va tid off soff rest x first hk target hx apart nd
    exact storePerform_block first hk target hx apart nd

end Sys2Proof.Machine

/-!
PROOF. O30: a lane of a load performs (spec/07 R174, R178; spec/06 R160; spec/10 R262, R266).
-/

namespace Sys2Proof.Machine

open Sys2Proof.Claims

variable {s : State} {aid : Nat} {a : Access} {u : Issuer} {la : LaneAccess} {rest : List LaneAccess}

/-! ## A read at a target -/

theorem byteAt_team (s : State) (core : Nat) (l1 : Prop) (tid off k : Nat) :
    byteAt s core l1 (.team tid off) k = (s.teams.get? tid).elim 0 fun x => teamByte x (off + k) := rfl

theorem byteAt_near {s : State} {core : Nat} {l1 : Prop} (h : l1) (loc c : Nat) (chk : Bool) (k : Nat) :
    byteAt s core l1 (.phys loc c chk) k = coreByte s core (loc + k) := if_pos h

theorem byteAt_home {s : State} {core : Nat} {l1 : Prop} (h : ¬ l1) (loc c : Nat) (chk : Bool) (k : Nat) :
    byteAt s core l1 (.phys loc c chk) k = Memory.byte s.mem (loc + k) := if_neg h

/-- What is read beyond the L1 does not hang on the cores. -/
theorem byteAt_far_of_coresClean {s t : State} (h : CoresClean s t) (core : Nat) {l1 : Prop} (far : ¬ l1) (at_ : Target) (k : Nat) :
    byteAt t core l1 at_ k = byteAt s core l1 at_ k := by
  cases at_ with
  | team tid off => rw [byteAt_team, byteAt_team, h.1]
  | phys loc c chk => rw [byteAt_home far, byteAt_home far, h.mem]
  | peer _ _ => rfl

theorem leBytes_zero_getElem? {n k : Nat} (h : k < n) : (leBytes n 0)[k]? = some 0 := by
  rw [getElem?_leBytes 0 h]
  simp

theorem length_of_getElem? {α : Type} {l : List α} {n : Nat} {f : Nat → α} (h : ∀ k, l[k]? = if k < n then some (f k) else none) :
    l.length = n := by
  refine Nat.le_antisymm (List.getElem?_eq_none_iff.mp (by simp [h])) (Nat.le_of_not_lt fun short => ?_)
  have beyond := h l.length
  simp [short] at beyond

/-- R178: a read gives the bytes of its target; only lines of the core come and go. -/
theorem readTarget_spec (h : NoDirty s) (core ctx : Nat) (l1 : Bool) (at_ : Target) (n : Nat) :
    CoresClean s (readTarget s core ctx l1 at_ n).2 ∧ (readTarget s core ctx l1 at_ n).1.length = n ∧
      ∀ k, k < n → (readTarget s core ctx l1 at_ n).1[k]? = some (byteAt s core (l1 = true) at_ k) := by
  cases at_ with
  | peer _ _ => exact ⟨.refl h, leBytes_length n 0, fun k hk => leBytes_zero_getElem? hk⟩
  | team tid off =>
    simp only [readTarget, byteAt_team]
    rcases s.teams.get? tid with _ | x
    · exact ⟨.refl h, leBytes_length n 0, fun k hk => leBytes_zero_getElem? hk⟩
    · refine ⟨.refl h, ?_, fun k hk => by rw [getElem?_teamBytes, if_pos hk]; rfl⟩
      exact length_of_getElem? (getElem?_teamBytes x n off)
  | phys loc c chk =>
    cases l1 with
    | true =>
      refine ⟨fillRange_coresClean h core ctx loc n, length_of_getElem? (getElem?_coreBytes _ core n loc), fun k hk => ?_⟩
      rw [byteAt_near rfl, ← coreByte_fillRange h ctx (Nat.le_add_right loc k) (Nat.add_lt_add_left hk loc)]
      exact (getElem?_coreBytes _ core n loc k).trans (if_pos hk)
    | false =>
      have clean := dropRange_coresClean h core loc n
      refine ⟨clean, length_of_getElem? (getElem?_bytes _ n loc), fun k hk => ?_⟩
      rw [byteAt_home (by simp), ← clean.mem]
      exact (getElem?_bytes _ n loc k).trans (if_pos hk)

/-- R371: with no frozen access a read has what is at its target. -/
theorem withFrozen_none (h : NoFrozen s) (gid before : Nat) (t : Target) (bytes : List Byte) :
    withFrozen s gid before t bytes = bytes := by
  have none_frozen : (s.accesses.filter fun p => decide (p.1 < before) && decide (p.2.group = gid) && p.2.frozen &&
      p.2.kind.writes && !p.2.kind.isRmw) = [] := by
    rw [List.filter_eq_nil_iff]
    intro p hp
    simp [h p hp]
  unfold withFrozen
  rw [none_frozen]
  rfl

theorem noFrozen_of_coresClean {t : State} (h : CoresClean s t) (nf : NoFrozen s) : NoFrozen t := by
  unfold NoFrozen
  rw [h.1]
  exact nf

theorem readRanges_nil (s : State) (u : Issuer) (aid : Nat) (l1 : Bool) : readRanges s u aid l1 [] = ([], s) := rfl

theorem readRanges_cons (s : State) (u : Issuer) (aid : Nat) (l1 : Bool) (r : Target × Nat) (rs : List (Target × Nat)) :
    let read := readTarget s u.t.core u.l.ctx l1 r.1 r.2
    readRanges s u aid l1 (r :: rs) =
      (withFrozen s u.gid aid r.1 read.1 ++ (readRanges read.2 u aid l1 rs).1, (readRanges read.2 u aid l1 rs).2) := rfl

/-! ## What a load leaves -/

/-- R196, R272: an acquire changes its group's table and its core's lines. -/
theorem afterAcquire_spec (h : NoDirty s) (u : Issuer) (a : Access) (scope : Nat) (marks : List Mark) :
    let t := afterAcquire s u a scope marks
    t = { s with cores := t.cores, groups := t.groups } ∧ OtherGroups s t u.gid ∧ (a.isAcquire = false → t.groups = s.groups) := by
  unfold afterAcquire
  split
  · exact ⟨rfl, fun _ _ => rfl, fun _ => rfl⟩
  · next acquires =>
    dsimp only
    generalize (fun g => marks.foldl (fun g m => acquireFrom s g scope a.isPromoted m) g) = f
    have dirty : NoDirty (s.modifyGroup u.gid f) := h
    have clean : CoresClean (s.modifyGroup u.gid f) (acquireLines (s.modifyGroup u.gid f) u.t.core scope) := by
      unfold acquireLines
      split
      · exact .refl dirty
      · exact coresClean_foldl _ (fun _ ln hs => dropLine_coresClean hs _ ln) _ dirty
    refine ⟨by rw [clean.1]; rfl, fun k other => ?_, fun no => absurd no (by simpa using acquires)⟩
    rw [clean.1]
    exact Table.get?_update_other _ _ other

theorem noDirty_of_recorded {t : State} (h : Recorded s t u) (nd : NoDirty s) : NoDirty t := by
  unfold NoDirty coreDirty at *
  rw [h.1]
  exact nd

/-- What a load's lane leaves: no byte changed, its own group's table at most, and the lane with its value. -/
theorem performLane_load (nd : NoDirty s) (h : Performs s aid a u la rest) {l1 : Bool} {v : BitVec 272} {r : State}
    (effect : laneEffect (readied s u a la) u aid a la (Claims.scopeOf u a la) l1 = (v, 0, r)) (clean : CoresClean (readied s u a la) r) :
    let t := performLane s aid la l1
    NothingStored s t u ∧ OtherGroups s t a.group ∧ (a.isAcquire = false → t.groups = s.groups) ∧
      FirstIs t aid { la with performed := true, value := some v, poisoned := false } := by
  obtain ⟨race, sound, marks, eq⟩ := performLane_eq h l1
  obtain ⟨access, issuer, -, lanes, -⟩ := h
  obtain ⟨own, -⟩ := issuerOf_eq_some.mp issuer
  have before := (readied_coresClean nd u a la).trans clean
  have recorded := recordLane_recorded r u a la
  obtain ⟨acquired, others, plain⟩ :=
    afterAcquire_spec (noDirty_of_recorded recorded before.2) u a (Claims.scopeOf u a la) marks
  obtain ⟨pinned, teams⟩ := pinLane_pinned (afterAcquire (recordLane r u a la) u a (Claims.scopeOf u a la) marks) u a la marks
  rw [effect] at eq
  dsimp only at eq acquired others plain
  generalize afterAcquire (recordLane r u a la) u a (Claims.scopeOf u a la) marks = q at *
  generalize pinLane q u a la marks = t at *
  have groups : t.groups = q.groups := by rw [pinned]
  have same : (recordLane r u a la).groups = s.groups := by rw [recorded.1, before.1]
  have mem : t.mem = (recordLane r u a la).mem := by rw [pinned, acquired]
  have accesses : t.accesses = s.accesses := by rw [pinned, acquired, recorded.1, before.1]
  have base : r.mbase = s.mbase := (OnlyPlaces.of_coresClean before).mbase
  rw [eq]
  refine ⟨⟨fun b hb => ?_, fun k => ?_⟩, fun k other => ?_, fun no => ?_,
    firstIs_laneDone (by rw [accesses]; exact access) lanes v 0 race sound⟩
  · rw [← base] at hb
    show Memory.byte t.mem b = _
    rw [mem, recorded.2.1 b hb, before.mem]
  · show (t.teams.get? k).map (·.mem) = _
    rw [teams k, acquired, recorded.2.2 k, before.1]
  · show t.groups.get? k = _
    rw [groups, others k (by rwa [own]), same]
  · show t.groups = _
    rw [groups, plain no, same]

/-! ## Where a read is served -/

/-- R203: of a checked range that is accessed beyond team scope no line is left. -/
theorem lineAt_readied_recalled (h : NoDirty s) {loc c n ln : Nat} (ranges : la.ranges = [(.phys loc c true, n)])
    (far : Claims.scopeOf u a la ≠ 0) (core : Nat) (mem : ln ∈ linesOf loc n) : lineAt (readied s u a la) core ln = none := by
  rw [readied, lineAt_beforeOrdered (prepareLines_coresClean _ _ _ h).2, ranges]
  show lineAt (recallFrom s loc n (if Claims.scopeOf u a la = 0 then some u.t.core else none)) core ln = none
  rw [if_neg far]
  exact lineAt_recallFrom_all h core mem

theorem l1Serves_iff (a : Access) (scope : Nat) (t : Target) :
    l1Serves a scope t = true ↔ cached t ∧ (scope = 0 ∨ a.isAcquire = false) := by
  unfold l1Serves cached
  split
  · simp
  · next other =>
    cases t with
    | phys loc c k => simpa using fun hc => absurd (by rw [hc]) (other loc k)
    | team _ _ => simp
    | peer _ _ => simp

/-- R160: what a lane reads in the readied state is what the state before shows where the read is served. -/
theorem byteAt_readied (h : NoDirty s) (ranges : la.ranges = [(la.target, la.size)]) (l1 : Bool) {k : Nat} (hk : k < la.size) :
    byteAt (readied s u a la) u.t.core ((l1 && l1Serves a (Claims.scopeOf u a la) la.target) = true) la.target k =
      byteAt s u.t.core (servedByL1 u a la l1) la.target k := by
  have clean := readied_coresClean h u a la
  have near : (l1 && l1Serves a (Claims.scopeOf u a la) la.target) = true ↔
      l1 = true ∧ cached la.target ∧ (Claims.scopeOf u a la = 0 ∨ a.isAcquire = false) := by
    rw [Bool.and_eq_true, l1Serves_iff]
  simp only [near]
  cases target : la.target with
  | peer _ _ => rfl
  | team tid off => rw [byteAt_team, byteAt_team, clean.1]
  | phys loc c chk =>
    rw [target] at ranges
    by_cases served : servedByL1 u a la l1
    · obtain ⟨on, hit, plain⟩ := served
      have kept : ∀ r ∈ la.ranges, Claims.scopeOf u a la = 0 ∨ ¬ Claims.tracked r.1 := fun r hr => by
        rw [ranges, List.mem_singleton] at hr
        rw [hr, ← target]
        exact plain.imp_right And.right
      rw [byteAt_near ⟨on, target ▸ hit, plain.imp_right And.left⟩, byteAt_near ⟨on, hit, plain⟩]
      exact coreByte_readied h kept _
    · rw [byteAt_home served, ← clean.mem]
      by_cases fills : l1 = true ∧ cached (.phys loc c chk) ∧ (Claims.scopeOf u a la = 0 ∨ a.isAcquire = false)
      · obtain ⟨on, hit, plain⟩ := fills
        have far : Claims.scopeOf u a la ≠ 0 := fun team => served ⟨on, target ▸ hit, .inl team⟩
        have checked : chk = true := by
          refine (Bool.eq_false_or_eq_true chk).resolve_right fun unchecked => served ⟨on, target ▸ hit, .inr ⟨plain.resolve_left far, ?_⟩⟩
          rw [target, unchecked]
          exact nofun
        rw [checked] at ranges
        rw [byteAt_near ⟨on, hit, plain⟩, coreByte_eq,
          lineAt_readied_recalled h ranges far _ (mem_linesOf (Nat.le_add_right loc k) (Nat.add_lt_add_left hk loc))]
        rfl
      · exact byteAt_home fills loc c chk k

/-! ## The value of a lane -/

/-- A value of at most 34 bytes has the bytes that were read. -/
theorem hasBytes_leNat {bytes : List Byte} {n : Nat} {f : Nat → Byte} (length : bytes.length = n)
    (h : ∀ k, k < n → bytes[k]? = some (f k)) :
    HasBytes (BitVec.ofNat 272 (leNat bytes)) n f := by
  refine ⟨?_, fun k hk inside => ?_⟩
  · rw [BitVec.toNat_ofNat, ← length]
    exact Nat.lt_of_le_of_lt (Nat.mod_le _ _) (leNat_lt bytes)
  · rw [extractLsb'_leNat _ (by omega), h k hk]
    rfl

/-- O30, its first clause: a lane of a plain load. -/
theorem loadWriteback_lane {w : LoadWidth} (h : FirstLane s aid a u la rest) (hk : a.kind = .load w) (nd : NoDirty s) (nf : NoFrozen s)
    (l1 : Bool) :
    ∃ t v, exec (.loadWriteback aid 1 l1) s = .next (returnLanes (settle t) aid 1) ∧
      HasBytes v la.size (byteAt s u.t.core (servedByL1 u a la l1) la.target) ∧ NothingStored s t u ∧
      OtherGroups s t a.group ∧ (a.isAcquire = false → t.groups = s.groups) ∧
      FirstIs t aid { la with performed := true, value := some v, poisoned := false } := by
  have performs := performs_of_firstLane h
  have ranges := ranges_of_firstLane h
  have clean := readied_coresClean nd u a la
  let near := l1 && l1Serves a (Claims.scopeOf u a la) la.target
  obtain ⟨lines, length, bytes⟩ := readTarget_spec clean.2 u.t.core u.l.ctx near la.target la.size
  let read := readTarget (readied s u a la) u.t.core u.l.ctx near la.target la.size
  have effect : laneEffect (readied s u a la) u aid a la (Claims.scopeOf u a la) l1 = (BitVec.ofNat 272 (leNat read.1), 0, read.2) := by
    unfold laneEffect
    rw [hk]
    dsimp only
    rw [ranges, readRanges_cons, readRanges_nil, withFrozen_none (noFrozen_of_coresClean clean nf), List.append_nil]
  obtain ⟨stored, groups, plain, first⟩ := performLane_load nd performs effect lines
  refine ⟨_, _, exec_loadWriteback_performs performs hk l1, hasBytes_leNat length fun k hk => ?_, stored, groups, plain, first⟩
  rw [bytes k hk, byteAt_readied nd ranges l1 hk]

/-- A block's value: its elements' bytes, and its scale's at the top. -/
theorem blockValue_bytes {elements : List Byte} {scale : Byte} (short : elements.length ≤ 32) :
    let v := BitVec.ofNat 272 (blockValue (elements ++ [scale]))
    (∀ k, k < elements.length → v.extractLsb' (8 * k) 8 = (elements[k]?).getD 0) ∧ v.extractLsb' 256 8 = scale := by
  have low : leNat elements < 2 ^ 256 :=
    Nat.lt_of_lt_of_le (leNat_lt elements) (Nat.pow_le_pow_right (by decide) (by omega))
  have value : blockValue (elements ++ [scale]) = 2 ^ 256 * scale.toNat + leNat elements := by
    rw [blockValue, List.dropLast_concat, List.getLastD_concat, Nat.add_comm]
  have bit := Nat.testBit_two_pow_mul_add scale.toNat low
  dsimp only
  rw [value]
  generalize 2 ^ 256 * scale.toNat + leNat elements = x at bit
  refine ⟨fun k hk => ?_, BitVec.eq_of_getLsbD_eq fun i hi => ?_⟩
  · rw [← extractLsb'_leNat (w := 272) elements (by omega)]
    refine BitVec.eq_of_getLsbD_eq fun i hi => ?_
    have below : 8 * k + i < 256 := by omega
    simp [BitVec.getLsbD_extractLsb', BitVec.getLsbD_ofNat, bit, below]
  · have inside : 256 + i < 272 := by omega
    rw [BitVec.getLsbD_extractLsb', BitVec.getLsbD_ofNat, bit, if_neg (by omega), Nat.add_sub_cancel_left]
    simp [hi, inside, BitVec.getLsbD]

/-- O30, its second clause: a block and its scale. -/
theorem ldmxCompletion_block {fmt reg va : Nat} {sc : Target} (h : FirstBlock s aid a u la va sc rest) (hk : a.kind = .mxLoad fmt reg)
    (nd : NoDirty s) (nf : NoFrozen s) :
    ∃ t v, exec (.ldmxCompletion aid 1) s = .next (returnLanes (settle t) aid 1) ∧ NothingStored s t u ∧
      (∀ k, k < la.size → v.extractLsb' (8 * k) 8 = byteAt s u.t.core False la.target k) ∧
      v.extractLsb' 256 8 = byteAt s u.t.core False sc 0 ∧
      FirstIs t aid { la with performed := true, value := some v, poisoned := false } := by
  have performs := performs_of_firstBlock h
  obtain ⟨ranges, -⟩ := ranges_of_firstBlock h
  have small : la.size ≤ 32 := by
    obtain ⟨-, -, -, -, -, -, -, -, -, -, small, -⟩ := h
    exact small
  have clean := readied_coresClean nd u a la
  let elements := readTarget (readied s u a la) u.t.core u.l.ctx false la.target la.size
  obtain ⟨lines, length, bytes⟩ := readTarget_spec clean.2 u.t.core u.l.ctx false la.target la.size
  let scale := readTarget elements.2 u.t.core u.l.ctx false sc 1
  obtain ⟨lines', length', bytes'⟩ := readTarget_spec lines.2 u.t.core u.l.ctx false sc 1
  obtain ⟨top, one⟩ := List.length_eq_one_iff.mp length'
  have effect : laneEffect (readied s u a la) u aid a la (Claims.scopeOf u a la) true =
      (BitVec.ofNat 272 (blockValue (elements.1 ++ [top])), 0, scale.2) := by
    have both : readRanges (readied s u a la) u aid false la.ranges = (elements.1 ++ [top], scale.2) := by
      rw [ranges, readRanges_cons, readRanges_cons, readRanges_nil, withFrozen_none (noFrozen_of_coresClean clean nf),
        withFrozen_none (noFrozen_of_coresClean (clean.trans lines) nf), List.append_nil, ← one]
    unfold laneEffect
    rw [hk]
    dsimp only
    rw [both]
  obtain ⟨stored, -, -, first⟩ := performLane_load nd performs effect (lines.trans lines')
  have size : elements.1.length = la.size := length
  have notNear : ¬ (false = true) := nofun
  have far : ∀ at_ k, byteAt s u.t.core (false = true) at_ k = byteAt s u.t.core False at_ k := fun _ _ => by rw [eq_false notNear]
  obtain ⟨low, high⟩ := blockValue_bytes (elements := elements.1) (scale := top) (by omega)
  refine ⟨_, _, exec_ldmxCompletion_performs performs hk, stored, fun k hk => ?_, ?_, first⟩
  · rw [low k (by omega), bytes k hk, Option.getD_some, byteAt_far_of_coresClean clean _ notNear, far]
  · have first_byte := bytes' 0 Nat.one_pos
    rw [one, byteAt_far_of_coresClean (clean.trans lines) _ notNear, far] at first_byte
    rw [high]
    exact Option.some.inj first_byte

/-- Settles O30: a lane's effect in the readied state is the read at its target, and what is read there is what was there
before. -/
theorem loadsPerform : Obligations.LoadsPerform := by
  unfold Obligations.LoadsPerform
  refine ⟨?_, ?_⟩
  · intro s aid a u la w l1 rest first hk _ nd nf
    exact loadWriteback_lane first hk nd nf l1
  · intro s aid a u la fmt reg va sc rest first hk _ _ nd nf
    exact ldmxCompletion_block first hk nd nf

end Sys2Proof.Machine

/-!
SUPPORT. Entries of a table after an insertion and after an update.
-/

namespace Sys2Proof.Table

variable {α : Type}

theorem mem_of_mem_insert {t : Table α} {k : Nat} {a : α} {p : Nat × α} (h : p ∈ t.insert k a) : p = (k, a) ∨ p ∈ t := by
  induction t with
  | nil => exact .inl (List.mem_singleton.mp h)
  | cons q t ih =>
    obtain ⟨j, b⟩ := q
    unfold insert at h
    split at h
    · exact List.mem_cons.mp h
    · split at h
      · exact (List.mem_cons.mp h).imp_right (.tail _)
      · rcases List.mem_cons.mp h with rfl | h
        · exact .inr (.head _)
        · exact (ih h).imp_right (.tail _)

theorem update_id (t : Table α) (k : Nat) : (t.update k fun x => x) = t := by
  induction t with
  | nil => rfl
  | cons p t ih =>
    unfold update
    split
    · rfl
    · rw [ih]

theorem mem_update {t : Table α} {k : Nat} {f : α → α} {p : Nat × α} (h : p ∈ t.update k f) :
    p ∈ t ∨ ∃ q ∈ t, p = (q.1, f q.2) := by
  induction t with
  | nil => exact .inl h
  | cons q t ih =>
    unfold update at h
    split at h
    · rcases List.mem_cons.mp h with rfl | h
      · exact .inr ⟨q, .head _, rfl⟩
      · exact .inl (.tail _ h)
    · rcases List.mem_cons.mp h with rfl | h
      · exact .inl (.head _)
      · exact (ih h).imp (.tail _) fun ⟨x, hx, eq⟩ => ⟨x, .tail _ hx, eq⟩

end Sys2Proof.Table

/-!
SUPPORT. What a step may have made true where no group waits (spec/02 R38; spec/10 R274): the phases of barriers, and nothing else.
-/

namespace Sys2Proof.Machine

open Sys2Proof.Claims

variable {s : State}

/-! ## Groups that wait for nothing -/

theorem gateOrphans_quiet (h : Quiet s) : gateOrphans s = s := by
  obtain ⟨-, joints, -⟩ := h
  rw [gateOrphans, joints]
  rfl

theorem wakeGroup_quiet (h : Quiet s) (gid : Nat) (writer : Option (Nat × Nat)) : wakeGroup s gid writer = s := by
  unfold wakeGroup
  split
  · rfl
  · next u hu =>
    obtain ⟨-, group, -⟩ := issuerOf_eq_some.mp hu
    obtain ⟨awake, -, halted⟩ := h.1 _ (Table.mem_of_get? group)
    split
    · next stopped =>
      have none_waited : u.g.wait = none := halted (stopped.resolve_right fun blocked => awake blocked.1)
      simp [noteChange, none_waited]
    · rfl

theorem noteWoken_quiet (h : Quiet s) (gid : Nat) : noteWoken s s gid = s := by
  unfold noteWoken
  split
  · next g _ hg _ =>
    obtain ⟨awake, -⟩ := h.1 _ (Table.mem_of_get? hg)
    rw [if_neg fun both => awake both.1]
  · rfl

theorem haltAskedGroups_quiet (h : Quiet s) : haltAskedGroups s = s := by
  have same : (s.groups.mapVals fun gid g => if g.haltAsked then haltStanding s gid g else g) = s.groups := by
    rw [Table.mapVals]
    refine (List.map_congr_left fun p hp => ?_).trans (List.map_id s.groups)
    obtain ⟨-, not_asked, -⟩ := h.1 p hp
    simp [not_asked]
  rw [haltAskedGroups, same]

/-! ## Barriers' phases -/

/-- What a copy sees of a team: its launch, its bytes and their poison. -/
def heldOf (x : Team) : Nat × Table Byte × Table Bool := (x.launch, x.mem, x.memPoison)

/-- Teams, launches and packets that are no entry's have changed, and nothing that a copy sees. -/
def Phased (s t : State) : Prop :=
  t = { s with teams := t.teams, launches := t.launches, sent := t.sent, nextId := t.nextId } ∧
  (∀ k, (t.teams.get? k).map heldOf = (s.teams.get? k).map heldOf) ∧
  (∀ k, (t.launches.get? k).map (·.teamMem) = (s.launches.get? k).map (·.teamMem)) ∧
  ∀ id, awaited s id = false → awaited t id = false

theorem Phased.refl (s : State) : Phased s s := ⟨rfl, fun _ => rfl, fun _ => rfl, fun _ h => h⟩

theorem Phased.trans {t r : State} (h : Phased s t) (k : Phased t r) : Phased s r := by
  obtain ⟨frame, teams, launches, sent⟩ := h
  obtain ⟨frame', teams', launches', sent'⟩ := k
  exact ⟨by rw [frame', frame], fun n => (teams' n).trans (teams n), fun n => (launches' n).trans (launches n),
    fun id none => sent' id (sent id none)⟩

theorem phased_foldl {α : Type} (f : State → α → State) (h : ∀ s a, Phased s (f s a)) (l : List α) (s : State) :
    Phased s (l.foldl f s) := by
  induction l generalizing s with
  | nil => exact .refl s
  | cons a l ih => exact (h s a).trans (ih (f s a))

theorem setTeam_phased {tid : Nat} {x y : Team} (h : s.teams.get? tid = some x) (same : heldOf y = heldOf x) :
    Phased s (s.setTeam tid y) := by
  refine ⟨rfl, fun k => ?_, fun _ => rfl, fun _ h => h⟩
  simp only [State.setTeam, Table.get?_insert]
  split
  · next here => rw [here, h, Option.map_some, Option.map_some, same]
  · rfl

theorem setLaunch_phased {lid : Nat} {l m : Launch} (h : s.launches.get? lid = some l) (same : m.teamMem = l.teamMem) :
    Phased s (s.setLaunch lid m) := by
  refine ⟨rfl, fun _ => rfl, fun k => ?_, fun _ h => h⟩
  simp only [State.setLaunch, Table.get?_insert]
  split
  · next here => rw [here, h, Option.map_some, Option.map_some, same]
  · rfl

theorem podArrival_phased (s : State) (c : Context) (p : Nat) : Phased s (podArrival s c p) := by
  refine ⟨rfl, fun _ => rfl, fun _ => rfl, fun id none => ?_⟩
  simp only [awaited, List.any_eq_false, decide_eq_true_eq] at none ⊢
  intro q hq
  rcases Table.mem_of_mem_insert hq with rfl | old
  · exact nofun
  · exact none q old

theorem heldOf_foldl {α : Type} (f : Team → α → Team) (h : ∀ x a, heldOf (f x a) = heldOf x) (l : List α) (x : Team) :
    heldOf (l.foldl f x) = heldOf x := by
  induction l generalizing x with
  | nil => rfl
  | cons a l ih => rw [List.foldl_cons, ih, h]

theorem drainFronts_held (x : Team) (p : HzEntry → Bool) : heldOf (drainFronts x p) = heldOf x := by
  refine heldOf_foldl _ (fun x e => ?_) (sortBy hzBefore (x.hzs.filter p)) x
  split <;> rfl

theorem completePhase_phased (s : State) (lvl : Level) (tid : Nat) : Phased s (completePhase s lvl tid) := by
  unfold completePhase
  split
  · exact .refl s
  · next t ht =>
    split
    · exact .refl s
    · next l hl =>
      dsimp only
      split
      · exact .refl s
      · cases lvl with
        | team =>
          refine setTeam_phased ht ?_
          split
          · rw [drainFronts_held]
            rfl
          · rfl
        | cluster => exact setLaunch_phased hl rfl
        | grid =>
          dsimp only
          split
          · refine Phased.trans ?_ (podArrival_phased _ _ _)
            exact setLaunch_phased hl rfl
          · exact setLaunch_phased hl rfl

theorem completePhases_phased (s : State) : Phased s (completePhases s) :=
  phased_foldl _ (fun s tid => (completePhase_phased s .team tid).trans
    ((completePhase_phased _ .cluster tid).trans (completePhase_phased _ .grid tid))) _ s

theorem Phased.quiet {t : State} (h : Phased s t) (quiet : Quiet s) : Quiet t := by
  unfold Quiet
  rw [h.1]
  exact quiet

/-- R38, R274: where no group waits, a step makes nothing true but the phases of barriers. -/
theorem settle_phased (h : Quiet s) : Phased s (settle s) := by
  have phases := completePhases_phased s
  have quiet := phases.quiet h
  have awake : ∀ gids : List Nat, gids.foldl (fun s gid => noteWoken s (wakeGroup s gid none) gid)
      (completePhases s) = completePhases s := by
    intro gids
    induction gids with
    | nil => rfl
    | cons gid gids ih => rwa [List.foldl_cons, wakeGroup_quiet quiet, noteWoken_quiet quiet]
  have only : settle s = completePhases s := by
    rw [settle, settleBy, gateOrphans_quiet h]
    rw [awake, haltAskedGroups_quiet quiet]
  rwa [only]

end Sys2Proof.Machine

/-!
SUPPORT. What the engines do to one chunk of a copy (spec/07 R178; spec/10 R282): read where nothing is poisoned, write where no
group waits.
-/

namespace Sys2Proof.Machine

open Sys2Proof.Claims

variable {s : State} {e : EngineSite}

/-! ## What an engine's step leaves -/

/-- An engine's step: memory, teams and cores have changed, and no group, access, entry or place of a team. -/
def Engined (s t : State) : Prop :=
  t = { s with teams := t.teams, launches := t.launches, sent := t.sent, nextId := t.nextId, cores := t.cores, dieTlb := t.dieTlb,
               mem := t.mem, memPoison := t.memPoison } ∧
  (∀ tid off n, InTeam s tid off n → InTeam t tid off n) ∧ ∀ id, awaited s id = false → awaited t id = false

theorem Engined.refl (s : State) : Engined s s := ⟨rfl, fun _ _ _ h => h, fun _ h => h⟩

theorem Engined.trans {t r : State} (h : Engined s t) (k : Engined t r) : Engined s r := by
  obtain ⟨frame, teams, sent⟩ := h
  obtain ⟨frame', teams', sent'⟩ := k
  exact ⟨by rw [frame', frame], fun tid off n h => teams' tid off n (teams tid off n h), fun id h => sent' id (sent id h)⟩

theorem Engined.quiet {t : State} (h : Engined s t) (quiet : Quiet s) : Quiet t := by
  unfold Quiet
  rw [h.1]
  exact quiet

theorem Phased.engined {t : State} (h : Phased s t) : Engined s t := by
  obtain ⟨frame, teams, launches, sent⟩ := h
  refine ⟨by rw [frame], ?_, sent⟩
  rintro tid off n ⟨x, l, hx, hl, fits, clean⟩
  have team := teams tid
  rw [hx, Option.map_some] at team
  obtain ⟨y, hy, held⟩ := Option.map_eq_some_iff.mp team
  simp only [heldOf, Prod.mk.injEq] at held
  obtain ⟨launch, -, poison⟩ := held
  have room := launches x.launch
  rw [hl, Option.map_some] at room
  obtain ⟨m, hm, size⟩ := Option.map_eq_some_iff.mp room
  exact ⟨y, m, hy, by rw [launch]; exact hm, by rw [size]; exact fits, by rw [poison]; exact clean⟩

theorem Phased.teamBytes {t : State} (h : Phased s t) (k : Nat) : (t.teams.get? k).map (·.mem) = (s.teams.get? k).map (·.mem) := by
  have held := congrArg (Option.map fun p : Nat × Table Byte × Table Bool => p.2.1) (h.2.1 k)
  rw [Option.map_map, Option.map_map] at held
  exact held

/-! ## Poison -/

theorem poisoned_part {marks : Table Bool} {a n b m : Nat} (h : poisoned marks a n = false) (lo : a ≤ b) (hi : b + m ≤ a + n) :
    poisoned marks b m = false := by
  simp only [poisoned, List.any_eq_false, Bool.and_eq_true, decide_eq_true_eq, not_and] at h ⊢
  intro p hp below
  have := h p hp (by omega)
  omega

theorem poisoned_clearPoison {marks : Table Bool} {a n : Nat} (h : poisoned marks a n = false) (b m : Nat) :
    poisoned (clearPoison marks b m) a n = false := by
  simp only [poisoned, List.any_eq_false] at h ⊢
  exact fun p hp => h p (List.mem_of_mem_filter hp)

/-- A core meets no poison where memory has none. -/
theorem corePoisoned_of_unpoisoned {loc n : Nat} (h : poisoned s.memPoison loc n = false) (core : Nat) :
    corePoisoned s core loc n = false := by
  simp only [poisoned, corePoisoned, List.any_eq_false, Bool.and_eq_true, decide_eq_true_eq, not_and] at h ⊢
  exact fun p hp range => absurd range.2 (h p hp range.1)

theorem engineMeets_team {tid off n : Nat} (h : InTeam s tid off n) (core : Nat) : engineMeets s core (.team tid off) n = false := by
  obtain ⟨x, -, hx, -, -, clean⟩ := h
  simp only [engineMeets, hx, clean]

theorem inTeam_part {tid off n k m : Nat} (h : InTeam s tid off n) (inside : k + m ≤ n) : InTeam s tid (off + k) m := by
  obtain ⟨x, l, hx, hl, fits, clean⟩ := h
  exact ⟨x, l, hx, hl, by omega, poisoned_part clean (by omega) (by omega)⟩

/-! ## Where no record is made (R198) -/

theorem granules_unchecked (h : e.rmode = 0) (t : Target) (n : Nat) : e.granules t n = [] := by rw [EngineSite.granules, if_pos h]

theorem engineRaces_unchecked (h : e.rmode = 0) (s : State) (p : Place) (t : Target) (n : Nat) (writes : Bool) :
    engineRaces s e p t n writes = [] := by
  simp [engineRaces, granules_unchecked h]

/-- The state in which an engine access performs: the leaf of its page is in the TLBs. -/
def seen (e : EngineSite) (s : State) (p : Place) (writes : Bool) : State :=
  match p with
  | .glob va => walkFill s e.core e.ctx e.root va (if writes then kindEngineWrite else kindEngineRead)
  | _ => s

theorem noteEngine_clean (h : e.rmode = 0) (r : EngineRun) (p : Place) {t : Target} {n : Nat} (writes : Bool)
    (clean : engineMeets (seen e r.s p writes) e.core t n = false) :
    noteEngine e r p t n writes = { r with s := seen e r.s p writes } := by
  show (if engineMeets (seen e r.s p writes) e.core t n then _ else _) = _
  rw [if_neg (by simp [clean]), granules_unchecked h, engineRaces_unchecked h]
  rfl

/-- Bytes that carry no poison. -/
def unspoiled (bytes : List Byte) : List (Byte × Bool) := bytes.map fun b => (b, false)

theorem zip_unspoiled {bytes : List Byte} {bad : List Bool} (length : bytes.length = bad.length) (clean : ∀ b ∈ bad, b = false) :
    bytes.zip bad = unspoiled bytes := by
  induction bytes generalizing bad with
  | nil => rfl
  | cons b t ih =>
    cases bad with
    | nil => simp at length
    | cons c bad =>
      rw [List.zip_cons_cons, clean c (.head _), ih (by simpa using length) fun x hx => clean x (.tail _ hx)]
      rfl

theorem map_fst_unspoiled (bytes : List Byte) : (unspoiled bytes).map Prod.fst = bytes := by
  rw [unspoiled, List.map_map]
  exact List.map_id bytes

theorem modifyTeam_id (s : State) (tid : Nat) : (s.modifyTeam tid fun x => x) = s := by rw [State.modifyTeam, Table.update_id]

/-- Bytes without poison leave the poison of a target as it is. -/
theorem poisonTarget_unspoiled (s : State) (t : Target) (bytes : List Byte) : poisonTarget s t ((unspoiled bytes).map Prod.snd) = s := by
  generalize marks : (unspoiled bytes).map Prod.snd = bad
  have clean : ∀ b ∈ bad, b = false := fun b hb => by
    rw [← marks] at hb
    obtain ⟨q, carried, rfl⟩ := List.mem_map.mp hb
    obtain ⟨x, -, rfl⟩ := (List.mem_map (f := fun b : Byte => (b, false))).mp carried
    rfl
  have no_words : ∀ a : Nat, (((upFrom a bad.length).zip bad).filter (·.2)).map (fun p => p.1 / 8) = [] := fun a => by
    rw [List.map_eq_nil_iff, List.filter_eq_nil_iff]
    exact fun p hp => by simp [clean p.2 (List.of_mem_zip hp).2]
  unfold poisonTarget
  simp only [no_words]
  cases t with
  | team tid off => exact modifyTeam_id s tid
  | phys _ _ _ => rfl
  | peer _ _ => rfl

/-! ## A chunk read -/

theorem teamMemOf_inTeam {tid off n : Nat} (h : InTeam s tid off n) : off + n ≤ teamMemOf s tid := by
  obtain ⟨x, l, hx, hl, fits, -⟩ := h
  simpa only [teamMemOf, hx, Option.bind_some, hl] using fits

theorem locate_team {tid off n : Nat} (h : InTeam s tid off n) (writes : Bool) :
    e.locate s (.team tid off) n writes = .ok (.team tid off) := by
  rw [EngineSite.locate, if_pos (teamMemOf_inTeam h)]

theorem target_of_locate {p : Place} {n : Nat} {writes : Bool} {t : Target} (h : e.locate s p n writes = .ok t) :
    e.target s p n writes = some t := by
  rw [EngineSite.target, h]

/-- R160: a read of a target none of whose bytes is poisoned. -/
theorem engineRead_clean {t : Target} {n : Nat} (clean : ∀ i, i < n → bytePoisoned s e.core t i = false)
    (length : (readTarget (prepareLine s e.core 3 t n) e.core e.ctx false t n).1.length = n) :
    engineRead s e t n = (unspoiled (readTarget (prepareLine s e.core 3 t n) e.core e.ctx false t n).1,
      (readTarget (prepareLine s e.core 3 t n) e.core e.ctx false t n).2) := by
  have all : ∀ b ∈ (upFrom 0 n).map (bytePoisoned s e.core t), b = false := fun b hb => by
    obtain ⟨i, hi, rfl⟩ := List.mem_map.mp hb
    exact clean i (mem_upFrom_zero.mp hi)
  rw [engineRead]
  rw [zip_unspoiled (by rw [length, List.length_map, length_upFrom]) all]

/-- R178: a chunk read from a team's memory. -/
theorem readChunk_team (unchecked : e.rmode = 0) {r : EngineRun} {c : Chunk} {tid off : Nat} (src : c.src = some (.team tid off))
    (inside : InTeam r.s tid off c.n) {x : Team} (hx : r.s.teams.get? tid = some x) :
    readChunk e r c = (unspoiled (teamBytes x off c.n), r) := by
  have target := target_of_locate (e := e) (locate_team inside false)
  have note := noteEngine_clean unchecked r (.team tid off) false (engineMeets_team inside e.core)
  have clean : ∀ i, i < c.n → bytePoisoned r.s e.core (.team tid off) i = false := fun i hi =>
    engineMeets_team (inTeam_part inside (k := i) (m := 1) (by omega)) e.core
  have read : readTarget (prepareLine r.s e.core 3 (.team tid off) c.n) e.core e.ctx false (.team tid off) c.n =
      (teamBytes x off c.n, r.s) := by
    simp only [prepareLine, readTarget, hx]
  have length : (teamBytes x off c.n).length = c.n := length_of_getElem? (getElem?_teamBytes x c.n off)
  have bytes := engineRead_clean clean (by rw [read]; exact length)
  rw [read] at bytes
  simp only [readChunk, src, target, granules_unchecked unchecked, List.map_nil]
  rw [show pinRead r.s e.team [] = r.s from rfl, note]
  show ((engineRead r.s e (.team tid off) c.n).1, { r with s := (engineRead r.s e (.team tid off) c.n).2 }) = _
  rw [bytes]

/-! ## A chunk written to a team's memory -/

theorem modifyTeam_engined (s : State) (tid off : Nat) (bytes : List Byte) :
    Engined s (s.modifyTeam tid fun x => setTeamBytes x off bytes) := by
  refine ⟨rfl, ?_, fun _ h => h⟩
  rintro t o n ⟨x, l, hx, hl, fits, clean⟩
  by_cases same : t = tid
  · subst same
    refine ⟨setTeamBytes x off bytes, l, ?_, hl, fits, poisoned_clearPoison clean _ _⟩
    simp [State.modifyTeam, hx]
  · exact ⟨x, l, by simp [State.modifyTeam, Table.get?_update, same, hx], hl, fits, clean⟩

/-- R178: a chunk written to a team's memory: those bytes and no others. -/
theorem writeChunk_team (unchecked : e.rmode = 0) {r : EngineRun} (quiet : Quiet r.s) {c : Chunk} {tid off : Nat}
    (dst : c.dst = some (.team tid off)) (inside : InTeam r.s tid off c.n) {bytes : List Byte} (length : bytes.length = c.n) :
    ∃ t, writeChunk e r c (unspoiled bytes) = { r with s := t } ∧ Engined r.s t ∧ t.mem = r.s.mem ∧
      TeamHas r.s t tid off c.n (fun k => (bytes[k]?).getD 0) ∧ OtherTeamBytes r.s t tid := by
  have target := target_of_locate (e := e) (locate_team inside true)
  have note := noteEngine_clean unchecked r (.team tid off) true (engineMeets_team inside e.core)
  have written := modifyTeam_engined r.s tid off bytes
  have phased := settle_phased (written.quiet quiet)
  refine ⟨settle (r.s.modifyTeam tid fun x => setTeamBytes x off bytes), ?_, written.trans phased.engined, by rw [phased.1]; rfl, ?_, ?_⟩
  · simp only [writeChunk, dst, target]
    rw [show pinWriter r.s e.team e.rmode (.team tid off) = r.s from rfl, note]
    show { r with s := settle (poisonTarget (writeTarget r.s e.core e.ctx false (.team tid off) ((unspoiled bytes).map _)) _ _) } = _
    rw [poisonTarget_unspoiled, map_fst_unspoiled]
    rfl
  · obtain ⟨x, -, hx, -⟩ := inside
    have after := phased.teamBytes tid
    rw [State.modifyTeam, Table.get?_update_same, hx, Option.map_some, Option.map_some] at after
    obtain ⟨y, hy, mem⟩ := Option.map_eq_some_iff.mp after
    refine ⟨x, y, hx, hy, fun b => ?_⟩
    rw [← length, ← teamByte_setTeamBytes, teamByte, mem, teamByte]
  · intro k other
    rw [phased.teamBytes k, State.modifyTeam, Table.get?_update_other _ _ other]

end Sys2Proof.Machine

/-!
SUPPORT. An entry of plain units that meets nothing runs and is over (spec/10 R282, R288; spec/12 R348; spec/23 R467).
-/

namespace Sys2Proof.Machine

open Sys2Proof.Claims

variable {s : State} {id : Nat} {e : Entry} {u : Issuer}

/-! ## The units of an entry -/

theorem firstSome_eq_none {α β : Type} {f : α → Option β} {l : List α} (h : ∀ a ∈ l, f a = none) : firstSome f l = none := by
  induction l with
  | nil => rfl
  | cons a l ih => rw [firstSome, h a (.head _), ih fun x hx => h x (.tail _ hx)]

theorem firstTrouble_eq_none {site : EngineSite} {units : List (List Chunk)}
    (placed : ∀ us ∈ units, ∀ c ∈ us, ∀ p ∈ c.places, ∃ t, site.locate s p.1 c.n p.2 = .ok t) (k : Nat) :
    firstTrouble s site k units = none := by
  induction units generalizing k with
  | nil => rfl
  | cons us units ih =>
    have clear : unitTrouble s site us = none := by
      refine firstSome_eq_none fun c hc => firstSome_eq_none fun p hp => ?_
      obtain ⟨t, ht⟩ := placed us (.head _) c hc p hp
      rw [ht]
    rw [firstTrouble, clear, ih fun x hx => placed x (.tail _ hx)]

/-- R202: where no access is checked and unperformed, no granule is held. -/
theorem unitsHeld_quiet (h : Quiet s) (site : EngineSite) (units : List (List Chunk)) : unitsHeld s site units = false := by
  obtain ⟨-, -, unchecked⟩ := h
  rw [unitsHeld, granuleHeld, List.any_eq_false]
  intro p hp
  simp [unchecked p hp]

/-- R202: where nothing is checked no unit stops. -/
theorem performUnits_unchecked {site : EngineSite} (h : site.rmode = 0) (units : List (List Chunk)) (r : EngineRun) :
    performUnits site r units = ⟨units.foldl (performUnit site) r, none⟩ := by
  induction units generalizing r with
  | nil => rfl
  | cons us units ih =>
    rw [performUnits, h]
    exact ih _

/-- R170, R452: units at addresses of this device run to their end. -/
theorem runUnits_done {site : EngineSite} {units : List (List Chunk)} {given : List (Byte × Bool)} {r : EngineRun}
    (unchecked : site.rmode = 0) (quiet : Quiet s)
    (placed : ∀ us ∈ units, ∀ c ∈ us, ∀ p ∈ c.places, ∃ t, site.locate s p.1 c.n p.2 = .ok t)
    (near : ∀ us ∈ units, ∀ c ∈ us, peerSource s site c = none)
    (run : units.foldl (performUnit site) ⟨s, e.fetched, given, [], none, []⟩ = r) (clear : r.race = none) :
    runUnits s id e site units given = .done r := by
  have none_wanted : peerSources s site units = [] :=
    List.flatMap_eq_nil_iff.mpr fun us hus => List.filterMap_eq_nil_iff.mpr (near us hus)
  unfold runUnits
  simp only [firstTrouble_eq_none placed, unitsHeld_quiet quiet, none_wanted, performUnits_unchecked unchecked, run, clear]
  obtain ⟨t, fetched, given', out, race, packets⟩ := r
  dsimp only at clear
  rw [clear]
  rfl

/-! ## The end of an entry -/

/-- The entry is out of its table and its queue, and its debt is charged. -/
def leaves (s : State) (id : Nat) (e : Entry) : State :=
  chargeDebt (dequeue (releaseTile { s with entries := s.entries.erase id
                                            sent := s.sent.filter fun p => decide (p.2.what ≠ .entry id) } e) id e) e

/-- What an entry's end does to its group. -/
def groupEnded (s : State) (e : Entry) (fl : Flags) (g : Group) : Group :=
  refreshCopies s (((match e.counter with
    | some j => lowerCounter g j
    | none => g) : Group).orFpstat fl)

/-- An entry that has ended, before what its end makes true. -/
def ended (s : State) (id : Nat) (e : Entry) (fl : Flags) : State :=
  soundEnd ((leaves s id e).modifyGroup e.group (groupEnded (leaves s id e) e fl)) e.ctx e.sound fun x => x

theorem endEntry_eq (s : State) (id : Nat) (e : Entry) (fl : Flags) : endEntry s id e fl = settle (ended s id e fl) := rfl

theorem releaseTile_frame (s : State) (e : Entry) : releaseTile s e = { s with teams := (releaseTile s e).teams } := by
  unfold releaseTile
  split <;> rfl

theorem releaseTile_mem (s : State) (e : Entry) (k : Nat) :
    ((releaseTile s e).teams.get? k).map (·.mem) = (s.teams.get? k).map (·.mem) := by
  unfold releaseTile
  split
  · refine (modifyTeam_pinned s e.team _ ?_).2 k
    exact fun _ => rfl
  · rfl

theorem chargeDebt_frame (s : State) (e : Entry) :
    chargeDebt s e = { s with cores := (chargeDebt s e).cores, launches := (chargeDebt s e).launches } := by
  unfold chargeDebt
  split
  · rfl
  · dsimp only
    split <;> rfl

theorem leaves_frame (s : State) (id : Nat) (e : Entry) :
    leaves s id e = { s with entries := s.entries.erase id, sent := (leaves s id e).sent, teams := (leaves s id e).teams,
                             cores := (leaves s id e).cores, launches := (leaves s id e).launches } := by
  unfold leaves
  rw [chargeDebt_frame, dequeue, releaseTile_frame]
  rfl

theorem leaves_teams (s : State) (id : Nat) (e : Entry) (k : Nat) :
    ((leaves s id e).teams.get? k).map (·.mem) = (s.teams.get? k).map (·.mem) := by
  have same : (leaves s id e).teams = (releaseTile { s with entries := s.entries.erase id
                                                            sent := s.sent.filter fun p => decide (p.2.what ≠ .entry id) } e).teams := by
    rw [leaves, chargeDebt_frame]
    rfl
  rw [same, releaseTile_mem]

theorem queued_modifyCore (s : State) (n : Nat) (f : Core → Core) (core engine tenant : Nat)
    (same : ∀ c, queueOf (f c) engine tenant = queueOf c engine tenant) :
    queued (s.modifyCore n f) core engine tenant = queued s core engine tenant := by
  simp only [queued, State.modifyCore, Table.get?_update]
  split
  · next here =>
    subst here
    cases s.cores.get? core with
    | none => rfl
    | some c => simp [same]
  · rfl

theorem queued_chargeDebt (s : State) (e : Entry) (core engine tenant : Nat) :
    queued (chargeDebt s e) core engine tenant = queued s core engine tenant := by
  unfold chargeDebt
  split
  · rfl
  · next t0 _ =>
    have charged := queued_modifyCore s e.core (fun c =>
      { c with debts := Table.write c.debts e.tenant (c.debts.read e.tenant 0 + (s.ticks.toNat - t0)) 0 }) core engine tenant fun _ => rfl
    dsimp only
    split
    · exact charged
    · exact charged

/-- R348: an entry that leaves its queue stands there no longer. -/
theorem not_mem_queued_dequeue (s : State) (id : Nat) (e : Entry) : id ∉ queued (dequeue s id e) e.core e.engine e.tenant := by
  rw [dequeue, queued, State.modifyCore, Table.get?_update_same]
  cases s.cores.get? e.core with
  | none => exact List.not_mem_nil
  | some c =>
    rw [Option.map_some]
    dsimp only [Option.elim]
    generalize (queueOf c e.engine e.tenant).entries = ids
    split
    · simp [queueOf, Table.read]
    · simp [queueOf, Table.read]

theorem not_mem_queued_leaves (s : State) (id : Nat) (e : Entry) : id ∉ queued (leaves s id e) e.core e.engine e.tenant := by
  rw [leaves, queued_chargeDebt]
  exact not_mem_queued_dequeue _ id e

/-! ## The state after the end -/

theorem ended_frame (s : State) (id : Nat) (e : Entry) (fl : Flags) :
    ended s id e fl = { leaves s id e with groups := (leaves s id e).groups.update e.group (groupEnded (leaves s id e) e fl)
                                           contexts := (ended s id e fl).contexts } := by
  rw [ended, soundEnd_frame]
  rfl

theorem ended_mem (s : State) (id : Nat) (e : Entry) (fl : Flags) : (ended s id e fl).mem = s.mem := by
  rw [ended_frame, leaves_frame]

theorem ended_teams (s : State) (id : Nat) (e : Entry) (fl : Flags) (k : Nat) :
    ((ended s id e fl).teams.get? k).map (·.mem) = (s.teams.get? k).map (·.mem) := by
  rw [ended_frame]
  exact leaves_teams s id e k

theorem ended_groups (s : State) (id : Nat) (e : Entry) (fl : Flags) :
    (ended s id e fl).groups = s.groups.update e.group (groupEnded (leaves s id e) e fl) := by
  have groups : (leaves s id e).groups = s.groups := by rw [leaves_frame]
  exact (soundEnd_groups _ _ _ _).trans (congrArg (fun gs : Table Group => gs.update e.group (groupEnded (leaves s id e) e fl)) groups)

/-- R288, R467: the entry is gone from its table and its queue. -/
theorem ended_gone (s : State) (id : Nat) (e : Entry) (fl : Flags) : EntryGone s (ended s id e fl) id e := by
  have entries : (ended s id e fl).entries = s.entries.erase id := by rw [ended_frame, leaves_frame]
  have cores : (ended s id e fl).cores = (leaves s id e).cores := by rw [ended_frame]
  refine ⟨by rw [entries]; exact Table.get?_erase_same _ _, fun n other => by rw [entries]; exact Table.get?_erase_other _ other, ?_⟩
  rw [queued, cores]
  exact not_mem_queued_leaves s id e

theorem groupEnded_calm (s : State) (e : Entry) (fl : Flags) (g : Group) :
    (groupEnded s e fl g).status = g.status ∧ (groupEnded s e fl g).haltAsked = g.haltAsked ∧ (groupEnded s e fl g).wait = g.wait := by
  unfold groupEnded
  cases e.counter <;> exact ⟨rfl, rfl, rfl⟩

theorem ended_quiet (h : Quiet s) (id : Nat) (e : Entry) (fl : Flags) : Quiet (ended s id e fl) := by
  obtain ⟨groups, joints, accesses⟩ := h
  have rest : (ended s id e fl).joints = s.joints ∧ (ended s id e fl).accesses = s.accesses := by
    rw [ended_frame, leaves_frame]
    exact ⟨rfl, rfl⟩
  have table := ended_groups s id e fl
  refine ⟨fun p hp => ?_, rest.1.trans joints, by rw [rest.2]; exact accesses⟩
  rw [table] at hp
  rcases Table.mem_update hp with old | ⟨q, hq, rfl⟩
  · exact groups p old
  · obtain ⟨status, asked, wait⟩ := groupEnded_calm (leaves s id e) e fl q.2
    dsimp only
    rw [status, asked, wait]
    exact groups q hq

/-- R288: where no group waits, an entry's end leaves memory as it is, and the entry is gone. -/
theorem endEntry_quiet (h : Quiet s) (id : Nat) (e : Entry) (fl : Flags) :
    let t := endEntry s id e fl
    EntryGone s t id e ∧ t.mem = s.mem ∧ ∀ k, (t.teams.get? k).map (·.mem) = (s.teams.get? k).map (·.mem) := by
  have phased := settle_phased (ended_quiet h id e fl)
  have entries : (settle (ended s id e fl)).entries = (ended s id e fl).entries := by rw [phased.1]
  have cores : (settle (ended s id e fl)).cores = (ended s id e fl).cores := by rw [phased.1]
  obtain ⟨gone, others, queue⟩ := ended_gone s id e fl
  rw [endEntry_eq]
  refine ⟨⟨by rw [entries]; exact gone, fun n other => by rw [entries]; exact others n other, ?_⟩, ?_, fun k => ?_⟩
  · rw [queued, cores]
    exact queue
  · rw [phased.1]
    exact ended_mem s id e fl
  · exact (phased.teamBytes k).trans (ended_teams s id e fl k)

end Sys2Proof.Machine

/-!
PROOF. O35: a copy moves its bytes and is over (spec/07 R178; spec/10 R282, R285, R288).
-/

namespace Sys2Proof.Machine

open Sys2Proof.Claims

variable {s : State} {id : Nat} {e : Entry} {u : Issuer}

/-! ## The step of a copy -/

/-- A copy of plain data that no credit, packet or rendezvous belongs to. -/
def PlainCopy : EntryKind → Prop
  | .cluster _ _ _ _ _ none => True
  | .globalToTeam _ _ _ _ => True
  | .teamToGlobal _ _ _ _ => True
  | _ => False

/-- The state in which an entry's units perform: it waits for no walk. -/
def resumed (s : State) (id : Nat) : State := s.modifyEntry id fun e => { e with stalled := none }

theorem resumed_entries (h : s.entries.get? id = some e) (free : e.stalled = none) (n : Nat) :
    (resumed s id).entries.get? n = s.entries.get? n := by
  have same : { e with stalled := none } = e := by rw [← free]
  rw [resumed, State.modifyEntry, Table.get?_update]
  split
  · next here => rw [here, h, Option.map_some, same]
  · rfl

theorem resumed_quiet (h : Quiet s) : Quiet (resumed s id) := h

theorem resumed_inTeam {tid off n : Nat} (h : InTeam s tid off n) : InTeam (resumed s id) tid off n := h

/-- What the progress of an entry makes of the step. -/
def progressOut (id : Nat) (e : Entry) : Progress → Out
  | .done r => .next (afterRun id e r)
  | .waits s => .next s
  | .idle => .refused .notEnabled
  | .failed s => .next s
  | .nowhere loc => .fault (.noSuchPhysicalAddress loc)

/-- The step of an entry that has performed and is of no collective. -/
theorem advanceEntry_performed (issuer : issuerOf s e.group = some u) (started : e.started = true) (free : e.stalled = none)
    (ordered : entryFree s id e = true) (performed : e.performed = true)
    (kind : ∀ a b c d f g h i j k, e.kind ≠ .collective a b c d f g h i j k) (credited : s.credits.get? id = none)
    (out : unsent s id = false) :
    advanceEntry s id e = .next (endEntry (resumed s id) id e (entryFlags e (entryBytes e))) := by
  have same : { e with stalled := none } = e := by rw [← free]
  have ready : entryUnstalled s e = true := by rw [entryUnstalled, free]; rfl
  unfold advanceEntry
  rw [issuer, same]
  dsimp only
  rw [if_neg (by simp [started, ready, ordered])]
  split
  · next which => exact absurd which (kind _ _ _ _ _ _ _ _ _ _)
  · rw [if_pos performed, if_neg (by simp [credited, out])]
    rfl

/-- The step of a plain copy that has not performed: its units run. -/
theorem advanceEntry_plain (issuer : issuerOf s e.group = some u) (started : e.started = true) (free : e.stalled = none)
    (ordered : entryFree s id e = true) (fresh : e.performed = false) (silent : awaited s id = false) (plain : PlainCopy e.kind) :
    advanceEntry s id e = progressOut id e (runUnits (resumed s id) id e (entrySite e u) (entryUnits e) []) := by
  have same : { e with stalled := none } = e := by rw [← free]
  have ready : entryUnstalled s e = true := by rw [entryUnstalled, free]; rfl
  have given : entryGiven e = [] := by
    unfold entryGiven
    split
    · next kind => rw [kind] at plain; exact plain.elim
    · next kind => rw [kind] at plain; exact plain.elim
    · rfl
  unfold advanceEntry
  rw [issuer, given, same]
  dsimp only
  rw [if_neg (by simp [started, ready, ordered])]
  rw [if_neg (show ¬ e.performed = true by simp [fresh]), if_neg (show ¬ awaited s id = true by simp [silent])]
  cases kind : e.kind with
  | cluster => rfl
  | globalToTeam => rfl
  | teamToGlobal => rfl
  | _ => rw [kind] at plain; exact plain.elim

theorem afterRun_plain (plain : PlainCopy e.kind) {r : EngineRun} (packets : r.packets = []) (answered : awaited r.s id = false) :
    afterRun id e r = endEntry r.s id e (entryFlags e (entryBytes e)) := by
  unfold afterRun
  rw [packets, show sendPuts r.s id e [] = r.s from rfl]
  dsimp only
  split
  · next kind => rw [kind] at plain; exact plain.elim
  · next kind => rw [kind] at plain; exact plain.elim
  · rw [if_neg (by simp [answered])]

/-- A copy that may run ends when its units are done. -/
theorem copy_runs (h : EntryRuns s id e u) (low : e.engine < 2) (plain : PlainCopy e.kind) {r : EngineRun}
    (run : runUnits (resumed s id) id e (entrySite e u) (entryUnits e) [] = .done r) (packets : r.packets = [])
    (answered : awaited r.s id = false) :
    exec (.copyEntryComplete id) s = .next (endEntry r.s id e (entryFlags e (entryBytes e))) := by
  obtain ⟨entry, issuer, started, free, ordered, fresh, silent, -, -⟩ := h
  change execCopyEntryComplete id s = _
  simp only [execCopyEntryComplete, entry, Nat.not_le.mpr low, if_false]
  rw [advanceEntry_plain issuer started free ordered fresh silent plain, run, progressOut, afterRun_plain plain packets answered]

theorem entryGone_resumed {t : State} (h : s.entries.get? id = some e) (free : e.stalled = none) (gone : EntryGone (resumed s id) t id e) :
    EntryGone s t id e := by
  obtain ⟨out, others, queue⟩ := gone
  exact ⟨out, fun n other => (others n other).trans (resumed_entries h free n), queue⟩

/-! ## An entry that has performed -/

/-- R288: a batch is complete when every entry of it is gone. -/
theorem copyBatches_groupEnded (s : State) (e : Entry) (fl : Flags) (g : Group) (n : Nat) :
    (groupEnded s e fl g).copyBatches.get? n = (g.copyBatches.get? n).map fun b =>
      { b with done := b.done || b.entries.all fun i => (s.entries.get? i).isNone } := by
  unfold groupEnded refreshCopies
  rw [Table.get?_mapVals]
  cases e.counter <;> rfl

/-- O35, its last clause. -/
theorem copy_over (entry : s.entries.get? id = some e) (issuer : issuerOf s e.group = some u) (started : e.started = true)
    (free : e.stalled = none) (ordered : entryFree s id e = true) (performed : e.performed = true) (credited : s.credits.get? id = none)
    (out : unsent s id = false) (low : e.engine < 2) (kind : ∀ a b c d f g h i j k, e.kind ≠ .collective a b c d f g h i j k) :
    ∃ t g, exec (.copyEntryComplete id) s = .next (settle t) ∧ EntryGone s t id e ∧ SameMemory s t ∧
      t.groups.get? e.group = some g ∧
      ∀ n b, u.g.copyBatches.get? n = some b → ∃ b', g.copyBatches.get? n = some b' ∧ b'.entries = b.entries ∧
        (b'.done = true ↔ b.done = true ∨ ∀ m ∈ b.entries, t.entries.get? m = none) := by
  obtain ⟨-, group, -⟩ := issuerOf_eq_some.mp issuer
  let fl := entryFlags e (entryBytes e)
  let t := ended (resumed s id) id e fl
  have entries : t.entries = (leaves (resumed s id) id e).entries := by
    show (ended _ _ _ _).entries = _
    rw [ended_frame]
  refine ⟨t, groupEnded (leaves (resumed s id) id e) e fl u.g, ?_, entryGone_resumed entry free (ended_gone _ id e fl), fun b => ?_, ?_,
    fun n b hb => ?_⟩
  · change execCopyEntryComplete id s = _
    simp only [execCopyEntryComplete, entry, Nat.not_le.mpr low, if_false]
    exact advanceEntry_performed issuer started free ordered performed kind credited out
  · show Memory.byte (ended _ _ _ _).mem b = _
    rw [ended_mem]
    rfl
  · show (ended _ _ _ _).groups.get? _ = _
    rw [ended_groups, Table.get?_update_same]
    show (s.groups.get? e.group).map _ = _
    rw [group]
    rfl
  · have batch := copyBatches_groupEnded (leaves (resumed s id) id e) e fl u.g n
    rw [hb, Option.map_some] at batch
    refine ⟨_, batch, rfl, ?_⟩
    rw [entries]
    simp

/-! ## An entry whose units meet nothing -/

theorem awaited_of_runs (h : EntryRuns s id e u) : awaited (resumed s id) id = false := by
  obtain ⟨-, -, -, -, -, -, silent, -⟩ := h
  exact silent

/-- An entry ends as its units leave memory, where they are at addresses of this device. -/
theorem copy_ends (h : EntryRuns s id e u) (low : e.engine < 2) (plain : PlainCopy e.kind) (unchecked : u.c.rmode = 0) (quiet : Quiet s)
    (placed : ∀ us ∈ entryUnits e, ∀ c ∈ us, ∀ p ∈ c.places, ∃ t, (entrySite e u).locate (resumed s id) p.1 c.n p.2 = .ok t)
    (near : ∀ us ∈ entryUnits e, ∀ c ∈ us, peerSource (resumed s id) (entrySite e u) c = none) {r : State}
    (run : (entryUnits e).foldl (performUnit (entrySite e u))
      ⟨resumed s id, e.fetched, [], [], none, []⟩ = ⟨r, e.fetched, [], [], none, []⟩)
    (engined : Engined (resumed s id) r) :
    ∃ t, exec (.copyEntryComplete id) s = .next t ∧ EntryGone s t id e ∧ t.mem = r.mem ∧
      ∀ k, (t.teams.get? k).map (·.mem) = (r.teams.get? k).map (·.mem) := by
  have done := runUnits_done (id := id) (e := e) (site := entrySite e u) unchecked (resumed_quiet (id := id) quiet) placed near run rfl
  have ends := copy_runs h low plain done rfl (engined.2.2 id (awaited_of_runs h))
  obtain ⟨entry, -, -, free, -⟩ := h
  obtain ⟨⟨out, others, queue⟩, mem, teams⟩ := endEntry_quiet (engined.quiet quiet) id e (entryFlags e (entryBytes e))
  have entries : r.entries = (resumed s id).entries := by rw [engined.1]
  refine ⟨_, ends, entryGone_resumed entry free ⟨out, fun n other => (others n other).trans (by rw [entries]), queue⟩, mem, teams⟩

theorem teamHas_of_bytes {r t : State} {tid off n : Nat} {v : Nat → Byte} (h : TeamHas s r tid off n v)
    (same : ∀ k, (t.teams.get? k).map (·.mem) = (r.teams.get? k).map (·.mem)) : TeamHas s t tid off n v := by
  obtain ⟨x, y, hx, hy, bytes⟩ := h
  have team := same tid
  rw [hy, Option.map_some] at team
  obtain ⟨z, hz, mem⟩ := Option.map_eq_some_iff.mp team
  exact ⟨x, z, hx, hz, fun b => by rw [← bytes, teamByte, mem, teamByte]⟩

/-! ## Between teams of a cluster -/

/-- The parts of a range: its places in the granules of either side. -/
def partsOf (a b n : Nat) : Nat := if n = 0 then 0 else (a % 64 + n) / 64 + (b % 64 + n) / 64 + 1

/-- The bytes up to the end of a granule of either side. -/
def partSize (a b n : Nat) : Nat := Nat.min n (Nat.min (64 - a % 64) (64 - b % 64))

theorem partSize_le (a b n : Nat) : partSize a b n ≤ n := Nat.min_le_left _ _

theorem partsOf_step {a b n : Nat} (some_left : n ≠ 0) :
    partsOf (a + partSize a b n) (b + partSize a b n) (n - partSize a b n) < partsOf a b n := by
  have size : partSize a b n = min n (min (64 - a % 64) (64 - b % 64)) := rfl
  generalize partSize a b n = k at size
  unfold partsOf
  rw [if_neg some_left]
  split
  · exact Nat.succ_pos _
  · have ends : k = 64 - a % 64 ∨ k = 64 - b % 64 := by omega
    rcases ends with here | here <;> omega

theorem partsOf_le (a b n : Nat) : partsOf a b n ≤ n / 16 + 4 := by
  unfold partsOf
  split <;> omega

/-- Bytes have come to a team's memory, and nothing else that a copy sees has changed. -/
def Moved (s t : State) (tid off n : Nat) (v : Nat → Byte) : Prop :=
  Engined s t ∧ t.mem = s.mem ∧ TeamHas s t tid off n v ∧ OtherTeamBytes s t tid

theorem Moved.nothing {tid off n : Nat} (h : InTeam s tid off n) (v : Nat → Byte) : Moved s s tid off 0 v := by
  obtain ⟨x, -, hx, -⟩ := h
  exact ⟨.refl s, rfl, ⟨x, x, hx, hx, fun b => by rw [if_neg (by omega)]⟩, fun _ _ => rfl⟩

/-- Two parts of a range, one after the other. -/
theorem Moved.append {r t : State} {tid off k n : Nat} {v w : Nat → Byte} (h : Moved s r tid off k v)
    (next : Moved r t tid (off + k) (n - k) w) (le : k ≤ n) (same : ∀ j, j < n - k → w j = v (k + j)) : Moved s t tid off n v := by
  obtain ⟨first, mem, ⟨x, y, hx, hy, bytes⟩, others⟩ := h
  obtain ⟨second, mem', ⟨y', z, hy', hz, bytes'⟩, others'⟩ := next
  obtain rfl : y' = y := Option.some.inj (hy'.symm.trans hy)
  refine ⟨first.trans second, mem'.trans mem, ⟨x, z, hx, hz, fun b => ?_⟩, fun j other => (others' j other).trans (others j other)⟩
  rw [bytes', bytes]
  by_cases late : off + k ≤ b ∧ b < off + n
  · have index : k + (b - (off + k)) = b - off := by omega
    rw [if_pos (by omega), if_pos (by omega), same _ (by omega), index]
  · rw [if_neg (by omega)]
    split
    · rw [if_pos (by omega)]
    · rw [if_neg (by omega)]

variable {site : EngineSite} {st dt : Nat}

/-- One chunk between two teams. -/
theorem performUnit_teams (unchecked : site.rmode = 0) {r : EngineRun} (quiet : Quiet r.s) {off a b n : Nat}
    (source : InTeam r.s st a n) (room : InTeam r.s dt b n) {x : Team} (hx : r.s.teams.get? st = some x) :
    ∃ t, performUnit site r [⟨off, n, some (.team st a), some (.team dt b)⟩] = { r with s := t } ∧
      Moved r.s t dt b n fun j => teamByte x (a + j) := by
  let c : Chunk := ⟨off, n, some (.team st a), some (.team dt b)⟩
  have length : (teamBytes x a n).length = n := length_of_getElem? (getElem?_teamBytes x n a)
  have read := readChunk_team (e := site) unchecked (c := c) rfl source hx
  obtain ⟨t, written, engined, mem, ⟨y, z, hy, hz, bytes⟩, others⟩ := writeChunk_team (e := site) unchecked quiet (c := c) rfl room length
  refine ⟨t, ?_, engined, mem, ⟨y, z, hy, hz, fun i => ?_⟩, others⟩
  · show writeChunk site (readChunk site r c).2 c (readChunk site r c).1 = _
    rw [read, written]
  · rw [bytes, show c.n = n from rfl]
    split
    · dsimp only
      rw [getElem?_teamBytes, if_pos (by omega)]
      rfl
    · rfl

/-- What is still to be read has not changed, where the ranges are apart. -/
theorem source_kept {t : State} {a b k n : Nat} {v : Nat → Byte} (h : Moved s t dt b k v) (le : k ≤ n)
    (apart : dt ≠ st ∨ b + n ≤ a ∨ a + n ≤ b) {x : Team} (hx : s.teams.get? st = some x) :
    ∃ y, t.teams.get? st = some y ∧ ∀ j, j < n → teamByte y (a + j) = teamByte x (a + j) := by
  obtain ⟨-, -, ⟨z, y, hz, hy, bytes⟩, others⟩ := h
  by_cases same : st = dt
  · subst same
    obtain rfl : z = x := Option.some.inj (hz.symm.trans hx)
    exact ⟨y, hy, fun j hj => by rw [bytes, if_neg (by omega)]⟩
  · have team := others st same
    rw [hx, Option.map_some] at team
    obtain ⟨y, hy, mem⟩ := Option.map_eq_some_iff.mp team
    exact ⟨y, hy, fun j _ => by rw [teamByte, mem, teamByte]⟩

/-- R178, R282: a range between two teams, cut at granules, has moved. -/
theorem cutRange_moved (unchecked : site.rmode = 0) (fuel : Nat) : ∀ {off a b n : Nat} {r : EngineRun} {x : Team}, Quiet r.s →
    InTeam r.s st a n → InTeam r.s dt b n → (dt ≠ st ∨ b + n ≤ a ∨ a + n ≤ b) → r.s.teams.get? st = some x → partsOf a b n ≤ fuel →
    ∃ t, ((cutRange fuel off n (some (.team st a)) (some (.team dt b))).map fun c => [c]).foldl (performUnit site) r =
      { r with s := t } ∧ Moved r.s t dt b n fun j => teamByte x (a + j) := by
  induction fuel with
  | zero =>
    intro off a b n r x _ _ room _ _ parts
    obtain rfl : n = 0 := by
      by_contra some_left
      simp [partsOf, some_left] at parts
    exact ⟨r.s, rfl, .nothing room _⟩
  | succ fuel ih =>
    intro off a b n r x quiet source room apart hx parts
    by_cases none_left : n = 0
    · subst none_left
      exact ⟨r.s, rfl, .nothing room _⟩
    · have le := partSize_le a b n
      have fewer := partsOf_step (a := a) (b := b) none_left
      have cut : cutRange (fuel + 1) off n (some (.team st a)) (some (.team dt b)) =
          ⟨off, partSize a b n, some (.team st a), some (.team dt b)⟩ :: cutRange fuel (off + partSize a b n) (n - partSize a b n)
            (some (.team st (a + partSize a b n))) (some (.team dt (b + partSize a b n))) := by
        rw [cutRange, if_neg none_left]
        rfl
      rw [cut]
      generalize partSize a b n = k at le fewer
      have part : ∀ {t o}, InTeam r.s t o n → InTeam r.s t o k := fun h => inTeam_part h (k := 0) (by omega)
      have tail : ∀ {t o}, InTeam r.s t o n → InTeam r.s t (o + k) (n - k) := fun h => inTeam_part h (by omega)
      obtain ⟨t, one, moved⟩ := performUnit_teams (site := site) (off := off) unchecked quiet (part source) (part room) hx
      obtain ⟨y, hy, kept⟩ := source_kept moved le apart hx
      obtain ⟨engined, -⟩ := id moved
      obtain ⟨t', rest, moved'⟩ := ih (off := off + k) (r := { r with s := t }) (x := y) (engined.quiet quiet)
        (engined.2.1 _ _ _ (tail source)) (engined.2.1 _ _ _ (tail room)) (by omega) hy (by omega)
      refine ⟨t', ?_, moved.append moved' le fun j hj => ?_⟩
      · rw [List.map_cons, List.foldl_cons, one]
        exact rest
      · rw [Nat.add_assoc, kept _ (by omega)]

/-- The chunks of a range between two teams lie in it. -/
theorem mem_cutRange_teams (fuel : Nat) : ∀ {off a b n : Nat} {c : Chunk},
    c ∈ cutRange fuel off n (some (.team st a)) (some (.team dt b)) →
    ∃ i, c.src = some (.team st (a + i)) ∧ c.dst = some (.team dt (b + i)) ∧ i + c.n ≤ n := by
  induction fuel with
  | zero => intro off a b n c h; cases h
  | succ fuel ih =>
    intro off a b n c h
    unfold cutRange at h
    split at h
    · cases h
    · rcases List.mem_cons.mp h with rfl | h
      · exact ⟨0, rfl, rfl, by rw [Nat.zero_add]; exact Nat.min_le_left _ _⟩
      · obtain ⟨i, src, dst, inside⟩ := ih h
        have le := partSize_le a b n
        refine ⟨partSize a b n + i, by rw [← Nat.add_assoc]; exact src, by rw [← Nat.add_assoc]; exact dst, ?_⟩
        have inside' : i + c.n ≤ n - partSize a b n := inside
        omega

/-- O35, its first clause: between teams of a cluster. -/
theorem copy_cluster {d sr n : Nat} {x : Team} (h : EntryRuns s id e u) (low : e.engine < 2) (kind : e.kind = .cluster dt d st sr n none)
    (unchecked : u.c.rmode = 0) (quiet : Quiet s) (source : InTeam s st sr n) (room : InTeam s dt d n)
    (apart : dt ≠ st ∨ d + n ≤ sr ∨ sr + n ≤ d) (hx : s.teams.get? st = some x) :
    ∃ t, exec (.copyEntryComplete id) s = .next t ∧ TeamHas s t dt d n (fun k => teamByte x (sr + k)) ∧
      OtherTeamBytes s t dt ∧ SameMemory s t ∧ EntryGone s t id e := by
  let start : EngineRun := ⟨resumed s id, e.fetched, [], [], none, []⟩
  have units : entryUnits e = (cutRange (n / 16 + 4) 0 n (some (.team st sr)) (some (.team dt d))).map fun c => [c] := by
    rw [entryUnits, kind]
    rfl
  have chunk : ∀ us ∈ entryUnits e, ∀ c ∈ us, ∃ i, c.src = some (.team st (sr + i)) ∧ c.dst = some (.team dt (d + i)) ∧ i + c.n ≤ n := by
    intro us hus c hc
    rw [units] at hus
    obtain ⟨c', hc', rfl⟩ := List.mem_map.mp hus
    rw [List.mem_singleton.mp hc]
    exact mem_cutRange_teams _ hc'
  obtain ⟨r, run, engined, mem, bytes, others⟩ := cutRange_moved (site := entrySite e u) unchecked (n / 16 + 4) (off := 0) (r := start)
    quiet source room apart hx (partsOf_le sr d n)
  have placed : ∀ us ∈ entryUnits e, ∀ c ∈ us, ∀ p ∈ c.places, ∃ t, (entrySite e u).locate (resumed s id) p.1 c.n p.2 = .ok t := by
    intro us hus c hc p hp
    obtain ⟨i, src, dst, inside⟩ := chunk us hus c hc
    simp only [Chunk.places, src, dst, Option.map_some, Option.toList_some, List.cons_append, List.nil_append, List.mem_cons,
      List.not_mem_nil, or_false] at hp
    rcases hp with rfl | rfl
    · exact ⟨_, locate_team (resumed_inTeam (inTeam_part source inside)) false⟩
    · exact ⟨_, locate_team (resumed_inTeam (inTeam_part room inside)) true⟩
  have near : ∀ us ∈ entryUnits e, ∀ c ∈ us, peerSource (resumed s id) (entrySite e u) c = none := by
    intro us hus c hc
    obtain ⟨i, src, -, inside⟩ := chunk us hus c hc
    simp only [peerSource, src, target_of_locate (locate_team (resumed_inTeam (id := id) (inTeam_part source inside)) false)]
  obtain ⟨t, ends, gone, mem', same⟩ := copy_ends (r := r) h low (by rw [kind]; trivial) unchecked quiet placed near (units ▸ run) engined
  refine ⟨t, ends, teamHas_of_bytes bytes same, fun k other => (same k).trans (others k other), fun b => ?_, gone⟩
  rw [mem', mem]
  rfl

end Sys2Proof.Machine

/-!
PROOF. O35: a copy between a team and a line of memory (spec/06 R160, R166; spec/07 R178; spec/10 R282).
-/

namespace Sys2Proof.Machine

open Sys2Proof.Claims

variable {s : State} {id : Nat} {e : Entry} {u : Issuer} {site : EngineSite}

/-! ## A line of memory whose page is marked as accessed -/

theorem walkVa_congr {t : State} (lost : t.lostChannels = s.lostChannels) (mem : t.mem = s.mem) (root va : Nat) :
    walkVa t root va = walkVa s root va := by
  have bytes : t.hbmBytes = s.hbmBytes := by
    unfold State.hbmBytes State.usableChannels
    rw [lost]
  exact walkFrom_of_memory_below bytes (fun b _ => by rw [mem]) va 4 root

theorem walkXlate_resumed (s : State) (id root va kind : Nat) : walkXlate (resumed s id) root va kind = walkXlate s root va kind := by
  have targets : ∀ level e, leafTarget (resumed s id) level e va kind = leafTarget s level e va kind := fun _ _ => rfl
  rw [walkXlate, walkXlate, walkVa_congr (s := s) (t := resumed s id) rfl rfl]
  simp only [targets]

/-- R165: only TLBs have changed, and nothing is dirty. -/
def Filled (s t : State) : Prop := t = { s with cores := t.cores, dieTlb := t.dieTlb } ∧ NoDirty t

theorem fillTlbs_only (h : NoDirty s) (core : Nat) (x : TlbEntry) : Filled s (fillTlbs s core x) :=
  ⟨rfl, (modifyCore_coresClean h core (fun c => tlbFill c x) fun _ _ _ hy => .inr hy).2⟩

/-- R166: a leaf that is marked already is not written. -/
theorem walkFill_marked (h : NoDirty s) {core ctx root va kind level leaf loc : Nat} (walk : walkVa s root va = .leaf level leaf loc)
    (marked : pteTouched leaf (kindWrites kind && pteW leaf) = leaf) : Filled s (walkFill s core ctx root va kind) := by
  unfold walkFill
  rw [walk]
  dsimp only
  rw [if_pos marked]
  exact fillTlbs_only h core _

theorem Filled.of_coresClean {r t : State} (h : Filled s r) (k : CoresClean r t) : Filled s t := by
  obtain ⟨frame, -⟩ := h
  obtain ⟨frame', clean⟩ := k
  exact ⟨by rw [frame', frame], clean⟩

theorem Filled.engined {t : State} (h : Filled s t) : Engined s t := by
  refine ⟨by rw [h.1], fun tid off n inside => ?_, fun k none => ?_⟩
  · unfold InTeam
    rw [h.1]
    exact inside
  · unfold awaited
    rw [h.1]
    exact none

theorem locate_glob {va n : Nat} {writes : Bool} {t : Target} (low : va + n ≤ 2 ^ 57)
    (h : walkXlate s site.root va (if writes then kindEngineWrite else kindEngineRead) = .ok t) :
    site.locate s (.glob va) n writes = .ok t := by
  rw [EngineSite.locate, if_pos (by rw [canonical, decide_eq_true low]), h]

/-- R178: a chunk read from memory. -/
theorem readChunk_home (unchecked : site.rmode = 0) {r : EngineRun} (nd : NoDirty r.s) {c : Chunk} {va loc cache level leaf at_ : Nat}
    (src : c.src = some (.glob va)) (target : site.target r.s (.glob va) c.n false = some (.phys loc cache false))
    (walk : walkVa r.s site.root va = .leaf level leaf at_) (marked : pteA leaf = true) (clean : poisoned r.s.memPoison loc c.n = false) :
    ∃ t, readChunk site r c = (unspoiled (Memory.bytes r.s.mem loc c.n), { r with s := t }) ∧ Filled r.s t := by
  have untouched : pteTouched leaf (kindWrites kindEngineRead && pteW leaf) = leaf := by simp [pteTouched, marked, kindWrites]
  have filled : Filled r.s (seen site r.s (.glob va) false) := walkFill_marked nd walk untouched
  have poison : (seen site r.s (.glob va) false).memPoison = r.s.memPoison := by rw [filled.1]
  have mem : (seen site r.s (.glob va) false).mem = r.s.mem := by rw [filled.1]
  have note := noteEngine_clean unchecked r (.glob va) (t := .phys loc cache false) (n := c.n) false
    (corePoisoned_of_unpoisoned (by rw [poison]; exact clean) site.core)
  generalize seen site r.s (.glob va) false = q at filled poison mem note
  have each : ∀ i, i < c.n → bytePoisoned q site.core (.phys loc cache false) i = false := fun i hi =>
    corePoisoned_of_unpoisoned (by rw [poison]; exact poisoned_part clean (by omega) (by omega)) site.core
  obtain ⟨lines, length, -⟩ := readTarget_spec filled.2 site.core site.ctx false (.phys loc cache false) c.n
  have bytes := engineRead_clean (e := site) each length
  have read : (readTarget q site.core site.ctx false (.phys loc cache false) c.n).1 = Memory.bytes r.s.mem loc c.n := by
    show Memory.bytes (dropRange q site.core loc c.n).mem loc c.n = _
    rw [(dropRange_coresClean filled.2 site.core loc c.n).mem, mem]
  refine ⟨(readTarget q site.core site.ctx false (.phys loc cache false) c.n).2, ?_, filled.of_coresClean lines⟩
  simp only [readChunk, src, target, granules_unchecked unchecked, List.map_nil]
  rw [show pinRead r.s site.team [] = r.s from rfl, note]
  show ((engineRead q site (.phys loc cache false) c.n).1, { r with s := (engineRead q site (.phys loc cache false) c.n).2 }) = _
  rw [bytes]
  show (unspoiled (readTarget q site.core site.ctx false (.phys loc cache false) c.n).1, _) = _
  rw [read]
  rfl

/-! ## A line of memory written -/

theorem modifyTeam_phased (s : State) (n : Nat) (f : Team → Team) (h : ∀ x, heldOf (f x) = heldOf x) : Phased s (s.modifyTeam n f) := by
  refine ⟨rfl, fun k => ?_, fun _ => rfl, fun _ h => h⟩
  simp only [State.modifyTeam, Table.get?_update]
  split
  · next same => subst same; cases s.teams.get? k <;> simp [h]
  · rfl

theorem pinWriter_phased (s : State) (tid rmode : Nat) (t : Target) : Phased s (pinWriter s tid rmode t) := by
  have pins : Phased s (pinTeam s tid) := by
    refine modifyTeam_phased s tid _ ?_
    exact fun _ => rfl
  unfold pinWriter
  split
  · exact .refl s
  · exact pins
  · split
    · exact pins
    · exact .refl s

theorem homeStore_engined (h : NoDirty s) (core loc : Nat) (bytes : List Byte) : Engined s (homeStore s core loc bytes) := by
  obtain ⟨frame, -⟩ := homeStore_spec h core loc bytes
  refine ⟨by rw [frame], fun tid off n inside => ?_, fun k none => ?_⟩
  · unfold InTeam
    rw [frame]
    exact inside
  · unfold awaited
    rw [frame]
    exact none

/-- R178: a chunk written to memory: those bytes and no others. -/
theorem writeChunk_home (unchecked : site.rmode = 0) {r : EngineRun} (quiet : Quiet r.s) (nd : NoDirty r.s) {c : Chunk}
    {va loc cache level leaf at_ : Nat} (dst : c.dst = some (.glob va))
    (target : site.target r.s (.glob va) c.n true = some (.phys loc cache false)) (walk : walkVa r.s site.root va = .leaf level leaf at_)
    (accessed : pteA leaf = true) (dirty : pteDirty leaf = true) (clean : poisoned r.s.memPoison loc c.n = false) {bytes : List Byte}
    (length : bytes.length = c.n) :
    ∃ t, writeChunk site r c (unspoiled bytes) = { r with s := t } ∧ Engined r.s t ∧
      (∀ b, Memory.byte t.mem b = if loc ≤ b ∧ b < loc + c.n then (bytes[b - loc]?).getD 0 else Memory.byte r.s.mem b) ∧
      ∀ k, (t.teams.get? k).map (·.mem) = (r.s.teams.get? k).map (·.mem) := by
  let p := pinWriter r.s site.team site.rmode (.phys loc cache false)
  have pinned : Phased r.s p := pinWriter_phased r.s _ _ _
  have pinnedClean : NoDirty p := by
    unfold NoDirty coreDirty
    rw [pinned.1]
    exact nd
  have walk' : walkVa p site.root va = .leaf level leaf at_ := by
    rw [walkVa_congr (s := r.s) (by rw [pinned.1]) (by rw [pinned.1])]
    exact walk
  have filled : Filled p (seen site p (.glob va) true) := walkFill_marked pinnedClean walk' (pteTouched_eq_self accessed dirty _)
  have poison : (seen site p (.glob va) true).memPoison = r.s.memPoison := by rw [filled.1, pinned.1]
  have note := noteEngine_clean unchecked { r with s := p } (.glob va) (t := .phys loc cache false) (n := c.n) true
    (corePoisoned_of_unpoisoned (by rw [poison]; exact clean) site.core)
  dsimp only at note
  generalize seen site p (.glob va) true = q at filled poison note
  obtain ⟨frame, stored⟩ := homeStore_spec filled.2 site.core loc bytes
  have written := (pinned.engined.trans filled.engined).trans (homeStore_engined filled.2 site.core loc bytes)
  have phased := settle_phased (written.quiet quiet)
  refine ⟨settle (homeStore q site.core loc bytes), ?_, written.trans phased.engined, fun b => ?_, fun k => ?_⟩
  · simp only [writeChunk, dst, target]
    rw [note]
    show { r with s := settle (poisonTarget (writeTarget q site.core site.ctx false (.phys loc cache false)
      ((unspoiled bytes).map _)) _ _) } = _
    rw [poisonTarget_unspoiled, map_fst_unspoiled]
    rfl
  · rw [phased.1, ← length]
    dsimp only
    rw [stored, filled.1, pinned.1]
  · rw [phased.teamBytes k, frame]
    dsimp only
    rw [filled.1]
    exact pinned.teamBytes k

/-! ## The one unit of a line -/

/-- A range within a granule of either side is one chunk. -/
theorem plainUnits_one {n : Nat} {src dst : Place} (pos : 0 < n) (hs : src.addr % 64 + n ≤ 64) (hd : dst.addr % 64 + n ≤ 64) :
    plainUnits n (some src) (some dst) = [[⟨0, n, some src, some dst⟩]] := by
  have all : Nat.min n (Nat.min (granuleRoom (some src)) (granuleRoom (some dst))) = n :=
    Nat.min_eq_left (Nat.le_min.mpr ⟨Nat.le_sub_of_add_le (by omega), Nat.le_sub_of_add_le (by omega)⟩)
  have none_left : ∀ fuel off (p q : Option Place), cutRange fuel off 0 p q = [] := fun fuel off p q => by cases fuel <;> rfl
  rw [plainUnits, chunksOf, cutRange, if_neg (by omega), all]
  dsimp only
  rw [Nat.sub_self, none_left]
  rfl

section

variable {n : Nat} {src dst : Place} (units : entryUnits e = [[⟨0, n, some src, some dst⟩]])

include units

/-- An entry of one chunk is at addresses where either side of the chunk is. -/
theorem placed_of_one {ts td : Target} (hs : site.locate s src n false = .ok ts) (hd : site.locate s dst n true = .ok td) :
    ∀ us ∈ entryUnits e, ∀ c ∈ us, ∀ p ∈ c.places, ∃ t, site.locate s p.1 c.n p.2 = .ok t := by
  intro us hus c hc p hp
  rw [units] at hus
  obtain rfl := List.mem_singleton.mp hus
  obtain rfl := List.mem_singleton.mp hc
  simp only [Chunk.places, Option.map_some, Option.toList_some, List.cons_append, List.nil_append, List.mem_cons, List.not_mem_nil,
    or_false] at hp
  rcases hp with rfl | rfl
  · exact ⟨ts, hs⟩
  · exact ⟨td, hd⟩

theorem near_of_one {t : Target} (hs : site.locate s src n false = .ok t) (near : t.isPeer = false) :
    ∀ us ∈ entryUnits e, ∀ c ∈ us, peerSource s site c = none := by
  intro us hus c hc
  rw [units] at hus
  obtain rfl := List.mem_singleton.mp hus
  obtain rfl := List.mem_singleton.mp hc
  unfold peerSource
  dsimp only
  rw [target_of_locate hs]
  cases t with
  | peer _ _ => simp [Target.isPeer] at near
  | _ => rfl

theorem run_of_one {r r' : EngineRun} {bytes : List (Byte × Bool)} (read : readChunk site r ⟨0, n, some src, some dst⟩ = (bytes, r')) :
    (entryUnits e).foldl (performUnit site) r = writeChunk site r' ⟨0, n, some src, some dst⟩ bytes := by
  rw [units]
  show writeChunk site (readChunk site r ⟨0, n, some src, some dst⟩).2 _ (readChunk site r ⟨0, n, some src, some dst⟩).1 = _
  rw [read]

end

/-- O35, its second clause: from a line of memory to a team. -/
theorem copy_globalToTeam {off va n loc c level leaf at_ : Nat} (h : EntryRuns s id e u) (low : e.engine < 2)
    (kind : e.kind = .globalToTeam off va n 0) (unchecked : u.c.rmode = 0) (quiet : Quiet s) (nd : NoDirty s) (room : InTeam s e.team off n)
    (pos : 0 < n) (line : va % 64 + n ≤ 64) (line' : off % 64 + n ≤ 64) (range : va + n ≤ 2 ^ 57)
    (walk : walkVa s u.c.root va = .leaf level leaf at_) (marked : pteA leaf = true)
    (place : walkXlate s u.c.root va kindEngineRead = .ok (.phys loc c false)) (clean : poisoned s.memPoison loc n = false) :
    ∃ t, exec (.copyEntryComplete id) s = .next t ∧ TeamHas s t e.team off n (fun k => Memory.byte s.mem (loc + k)) ∧
      OtherTeamBytes s t e.team ∧ SameMemory s t ∧ EntryGone s t id e := by
  let start : EngineRun := ⟨resumed s id, e.fetched, [], [], none, []⟩
  let chunk : Chunk := ⟨0, n, some (.glob va), some (.team e.team off)⟩
  have units : entryUnits e = [[chunk]] := by
    rw [entryUnits, kind]
    exact plainUnits_one pos line line'
  have located : (entrySite e u).locate (resumed s id) (.glob va) n false = .ok (.phys loc c false) :=
    locate_glob range ((walkXlate_resumed s id u.c.root va kindEngineRead).trans place)
  obtain ⟨t1, read, filled⟩ := readChunk_home (site := entrySite e u) (r := start) (c := chunk) unchecked nd rfl (target_of_locate located)
    ((walkVa_congr (s := s) (t := resumed s id) rfl rfl u.c.root va).trans walk) marked clean
  have seenRoom : InTeam t1 e.team off n := filled.engined.2.1 _ _ _ room
  obtain ⟨t2, written, engined, mem, bytes, others⟩ := writeChunk_team (e := entrySite e u) (r := { start with s := t1 }) (c := chunk)
    unchecked (filled.engined.quiet quiet) rfl seenRoom (length_of_getElem? (getElem?_bytes s.mem n loc))
  have run : (entryUnits e).foldl (performUnit (entrySite e u)) start = { start with s := t2 } :=
    (run_of_one units read).trans written
  have teams : t1.teams = s.teams := by rw [filled.1]; rfl
  have same : t1.mem = s.mem := by rw [filled.1]; rfl
  obtain ⟨t, ends, gone, mem', kept⟩ := copy_ends (r := t2) h low (by rw [kind]; trivial) unchecked quiet
    (placed_of_one units located (locate_team (resumed_inTeam room) true)) (near_of_one units located rfl) run
    (filled.engined.trans engined)
  obtain ⟨x, y, hx, hy, moved⟩ := teamHas_of_bytes bytes kept
  refine ⟨t, ends, ⟨x, y, by rw [← teams]; exact hx, hy, fun b => ?_⟩, fun k other => ?_, fun b => ?_, gone⟩
  · rw [moved]
    split
    · next inside =>
      have index : b - off < n := Nat.sub_lt_left_of_lt_add inside.1 inside.2
      dsimp only
      rw [getElem?_bytes, if_pos index]
      rfl
    · rfl
  · rw [kept k, others k other, teams]
  · rw [mem', mem, same]

/-- O35, its third clause: from a team to a line of memory. -/
theorem copy_teamToGlobal {off va n loc c level leaf at_ : Nat} {x : Team} (h : EntryRuns s id e u) (low : e.engine < 2)
    (kind : e.kind = .teamToGlobal off va n 0) (unchecked : u.c.rmode = 0) (quiet : Quiet s) (nd : NoDirty s)
    (source : InTeam s e.team off n) (pos : 0 < n) (line : va % 64 + n ≤ 64) (line' : off % 64 + n ≤ 64) (range : va + n ≤ 2 ^ 57)
    (walk : walkVa s u.c.root va = .leaf level leaf at_) (accessed : pteA leaf = true) (dirty : pteDirty leaf = true)
    (hx : s.teams.get? e.team = some x) (place : walkXlate s u.c.root va kindEngineWrite = .ok (.phys loc c false))
    (clean : poisoned s.memPoison loc n = false) :
    ∃ t, exec (.copyEntryComplete id) s = .next t ∧ (∀ k, k < n → Memory.byte t.mem (loc + k) = teamByte x (off + k)) ∧
      SameMemoryBut s t loc n ∧ (∀ k, (t.teams.get? k).map (·.mem) = (s.teams.get? k).map (·.mem)) ∧ EntryGone s t id e := by
  let start : EngineRun := ⟨resumed s id, e.fetched, [], [], none, []⟩
  let chunk : Chunk := ⟨0, n, some (.team e.team off), some (.glob va)⟩
  have units : entryUnits e = [[chunk]] := by
    rw [entryUnits, kind]
    exact plainUnits_one pos line' line
  have located : (entrySite e u).locate (resumed s id) (.glob va) n true = .ok (.phys loc c false) :=
    locate_glob range ((walkXlate_resumed s id u.c.root va kindEngineWrite).trans place)
  have read := readChunk_team (e := entrySite e u) (r := start) (c := chunk) unchecked rfl source hx
  obtain ⟨t1, written, engined, bytes, same⟩ := writeChunk_home (site := entrySite e u) (r := start) (c := chunk) unchecked quiet nd rfl
    (target_of_locate located) ((walkVa_congr (s := s) (t := resumed s id) rfl rfl u.c.root va).trans walk) accessed dirty clean
    (length_of_getElem? (getElem?_teamBytes x n off))
  have run : (entryUnits e).foldl (performUnit (entrySite e u)) start = { start with s := t1 } :=
    (run_of_one units read).trans written
  obtain ⟨t, ends, gone, mem, kept⟩ := copy_ends (r := t1) h low (by rw [kind]; trivial) unchecked quiet
    (placed_of_one units (locate_team (resumed_inTeam source) false) located)
    (near_of_one units (locate_team (resumed_inTeam (id := id) source) false) rfl) run engined
  refine ⟨t, ends, fun k hk => ?_, fun b out => ?_, fun k => (kept k).trans (same k), gone⟩
  · have inside : loc ≤ loc + k ∧ loc + k < loc + chunk.n := ⟨Nat.le_add_right _ _, Nat.add_lt_add_left hk loc⟩
    rw [mem, bytes, if_pos inside, Nat.add_sub_cancel_left, getElem?_teamBytes, if_pos hk]
    rfl
  · have outside : ¬ (loc ≤ b ∧ b < loc + chunk.n) := by
      show ¬ (loc ≤ b ∧ b < loc + n)
      omega
    rw [mem, bytes, if_neg outside]
    rfl

/-- Settles O35: each chunk is read and written where it stands, no wait ends meanwhile, and the entry leaves its table and queue. -/
theorem copiesMove : Obligations.CopiesMove := by
  unfold Obligations.CopiesMove
  refine ⟨?_, ?_, ?_, ?_⟩
  · intro s id e u dt d st sr n x runs low kind unchecked quiet source room apart hx
    exact copy_cluster runs low kind unchecked quiet source room apart hx
  · intro s id e u off va n loc c level leaf at_ runs low kind unchecked quiet nd room pos line line' range walk marked place clean
    exact copy_globalToTeam runs low kind unchecked quiet nd room pos line line' range walk marked place clean
  · intro s id e u off va n loc c level leaf at_ x runs low kind unchecked quiet nd source pos line line' range walk accessed dirty hx
      place clean
    exact copy_teamToGlobal runs low kind unchecked quiet nd source pos line line' range walk accessed dirty hx place clean
  · intro s id e u entry issuer started free ordered performed credited out low kind
    exact copy_over entry issuer started free ordered performed credited out low kind

end Sys2Proof.Machine

/-!
SUPPORT. Special values (R123, R239, R240): what the exact operations and the delivery of their results make of NaN, infinities and zeros.
-/

namespace Sys2Proof.Machine

open Sys2Proof.Claims

/-! ## Values that codes have -/

/-- A finite value that is not a zero has a magnitude that is not 0. -/
def Num.Proper (x : Num) : Prop := ∀ neg m e, x = .fin neg m e → 0 < m

theorem Num.proper_inf (neg : Bool) : (Num.inf neg).Proper := nofun
theorem Num.proper_zero (neg : Bool) : (Num.zero neg).Proper := nofun
theorem Num.proper_fin {neg : Bool} {m : Nat} {e : Int} : (Num.fin neg m e).Proper ↔ 0 < m := by
  refine ⟨fun h => h neg m e rfl, fun h n k g same => ?_⟩
  cases same
  exact h

/-- R121: the finite value of a code, as decodeFloat has it. -/
def finiteValue (f : FloatFmt) (code : Nat) : Num :=
  if code / 2 ^ f.mbits % 2 ^ f.ebits = 0 then
    (if code % 2 ^ f.mbits = 0 then .zero (bitOf code (f.ebits + f.mbits))
      else .fin (bitOf code (f.ebits + f.mbits)) (code % 2 ^ f.mbits) (f.emin - (f.mbits : Int)))
  else .fin (bitOf code (f.ebits + f.mbits)) (2 ^ f.mbits + code % 2 ^ f.mbits)
    (((code / 2 ^ f.mbits % 2 ^ f.ebits : Nat) : Int) - (f.bias : Int) - (f.mbits : Int))

theorem decodeFloat_cases (f : FloatFmt) (code : Nat) :
    decodeFloat f code = finiteValue f code ∨ (∃ s, decodeFloat f code = .inf s) ∨ ∃ b, decodeFloat f code = .nan b := by
  unfold decodeFloat
  dsimp only
  split
  · split
    · split
      · exact .inr (.inl ⟨_, rfl⟩)
      · exact .inr (.inr ⟨_, rfl⟩)
    · split
      · exact .inr (.inr ⟨_, rfl⟩)
      · exact .inl rfl
    · exact .inl rfl
  · exact .inl rfl

theorem finiteValue_proper (f : FloatFmt) (code : Nat) : (finiteValue f code).Proper := by
  unfold finiteValue
  split_ifs with subnormal zero
  · exact Num.proper_zero _
  · exact Num.proper_fin.mpr (Nat.pos_of_ne_zero zero)
  · exact Num.proper_fin.mpr (Nat.add_pos_left (by positivity) _)

/-- R121: every code has such a value. -/
theorem proper_val (f : FloatFmt) (a : Nat) : (val f a).Proper := by
  rcases decodeFloat_cases f a with h | ⟨s, h⟩ | ⟨b, h⟩
  · rw [val, h]
    exact finiteValue_proper f a
  · rw [val, h]
    exact Num.proper_inf s
  · rw [val, h]
    exact nofun

theorem Num.Proper.negate {x : Num} (h : x.Proper) : x.negate.Proper := by
  cases x with
  | fin neg m e => exact proper_fin.mpr (proper_fin.mp h)
  | _ => exact nofun

/-- A finite value is 0 exactly where it is a zero. -/
theorem realOf_eq_zero_iff {x : Num} (h : x.Proper) (finite : isFinite x = true) : realOf x = 0 ↔ ∃ s, x = .zero s := by
  cases x with
  | nan b => cases finite
  | inf b => cases finite
  | zero b => exact iff_of_true rfl ⟨b, rfl⟩
  | fin neg m e => exact iff_of_false (realOf_fin_ne_zero (Num.proper_fin.mp h)) (by simp)

/-- The sign of a finite value that is not 0. -/
theorem sign_of_nonzero {x : Num} (h : x.Proper) (finite : isFinite x = true) (nonzero : realOf x ≠ 0) :
    x.sign = true ↔ realOf x < 0 := by
  obtain ⟨neg, m, e, rfl, pos⟩ := exists_fin_of_ne_zero finite nonzero
  exact (realOf_fin_neg_iff pos).symm

/-! ## Delivering special results -/

section
variable {f : FloatFmt} {m : Rounding}

theorem deliver_none (f : FloatFmt) (m : Rounding) : deliver f m none 0 = invalid f := rfl

theorem deliver_zero (f : FloatFmt) (m : Rounding) (s : Bool) (fl : Flags) :
    deliver f m (some (.zero s)) fl = (f.signed s 0, fl) := by
  simp [deliver, encodeFloat]

theorem deliver_inf (h : f.kind = .ieee) (m : Rounding) (s : Bool) (fl : Flags) :
    deliver f m (some (.inf s)) fl = (f.signed s f.infCode, fl) := by
  simp [deliver, encodeFloat, h]

/-! ## NaN operands -/

@[simp] theorem Num.isNaN_inf (s : Bool) : (Num.inf s).isNaN = false := rfl
@[simp] theorem Num.isNaN_zero (s : Bool) : (Num.zero s).isNaN = false := rfl
@[simp] theorem Num.isNaN_fin (s : Bool) (k : Nat) (e : Int) : (Num.fin s k e).isNaN = false := rfl

theorem nanOr_propagates (f : FloatFmt) (xs : List Num) (r : Coded) : PropagatesNaN f xs (nanOr f xs r) := fun h => if_pos h

theorem nanOr_of_noNaN {xs : List Num} (h : ∀ x ∈ xs, x.isNaN = false) (f : FloatFmt) (r : Coded) : nanOr f xs r = r :=
  if_neg (by simpa using h)

theorem nanOr_negate (f : FloatFmt) (x y : Num) (r : Coded) : nanOr f [x, y.negate] r = nanOr f [x, y] r := by
  cases y <;> rfl

/-! ## Sums -/

theorem exactSum_inf_inf (m : Rounding) (s t : Bool) : exactSum m (.inf s) (.inf t) = if s = t then some (.inf s) else none := rfl

theorem exactSum_inf_left (m : Rounding) (s : Bool) {y : Num} (finite : isFinite y = true) : exactSum m (.inf s) y = some (.inf s) := by
  cases y with
  | zero b => rfl
  | fin b n g => rfl
  | _ => cases finite

theorem exactSum_inf_right (m : Rounding) (s : Bool) {x : Num} (finite : isFinite x = true) : exactSum m x (.inf s) = some (.inf s) := by
  cases x with
  | zero b => rfl
  | fin b n g => rfl
  | _ => cases finite

/-- R239: a sum that is 0 has the sign of its terms where they agree, and else that of the mode. -/
theorem exactSum_zero (m : Rounding) {x y : Num} (hx : x.Proper) (hy : y.Proper) (fx : isFinite x = true) (fy : isFinite y = true)
    (sum : realOf x + realOf y = 0) :
    exactSum m x y = some (.zero (if x.sign = y.sign then x.sign else decide (m = .rd))) := by
  by_cases zero : realOf x = 0
  · obtain ⟨s, rfl⟩ := (realOf_eq_zero_iff hx fx).mp zero
    rw [zero, zero_add] at sum
    obtain ⟨t, rfl⟩ := (realOf_eq_zero_iff hy fy).mp sum
    rfl
  · have nonzero : realOf y ≠ 0 := fun h => zero (by rwa [h, add_zero] at sum)
    have opposite : x.sign ≠ y.sign := by
      intro same
      have sx := sign_of_nonzero hx fx zero
      have sy := sign_of_nonzero hy fy nonzero
      rw [same, sy] at sx
      rcases lt_or_gt_of_ne zero with neg | pos
      · linarith [sx.mpr neg]
      · have : realOf y < 0 := by linarith
        linarith [sx.mp this]
    obtain ⟨a, k, e, rfl, -⟩ := exists_fin_of_ne_zero fx zero
    obtain ⟨b, n, g, rfl, -⟩ := exists_fin_of_ne_zero fy nonzero
    obtain ⟨z, exact, -, value⟩ := exactSum_real m fx fy
    rw [if_neg opposite]
    rw [sum, ← Option.some.inj exact, (zeroOrInt_real _ _ _).2, mul_eq_zero, or_iff_left (two_zpow_pos _).ne', Int.cast_eq_zero] at value
    exact congrArg some (if_pos value)

/-- R239: special values of a sum. -/
theorem sumCases (h : f.kind = .ieee) (m : Rounding) {x y : Num} (hx : x.Proper) (hy : y.Proper) :
    SumCases f m x y (nanOr f [x, y] (deliver f m (exactSum m x y) 0)) := by
  refine ⟨nanOr_propagates _ _ _, ?_, ?_, ?_, ?_⟩
  · rintro s t rfl rfl
    rw [nanOr_of_noNaN (by simp), exactSum_inf_inf]
    split
    · exact deliver_inf h m s 0
    · exact deliver_none f m
  · rintro s rfl finite
    rw [nanOr_of_noNaN (by simp [isNaN_of_finite finite]), exactSum_inf_left m s finite, deliver_inf h]
  · rintro s rfl finite
    rw [nanOr_of_noNaN (by simp [isNaN_of_finite finite]), exactSum_inf_right m s finite, deliver_inf h]
  · intro fx fy sum
    rw [nanOr_of_finite (by simp [fx, fy]), exactSum_zero m hx hy fx fy sum, deliver_zero]

/-! ## Products -/

theorem exactProduct_inf_left (s : Bool) {y : Num} (finite : isFinite y = true) (nonzero : realOf y ≠ 0) :
    exactProduct (.inf s) y = some (.inf (s ^^ y.sign)) := by
  obtain ⟨b, n, g, rfl, -⟩ := exists_fin_of_ne_zero finite nonzero
  rfl

theorem exactProduct_inf_right (s : Bool) {x : Num} (finite : isFinite x = true) (nonzero : realOf x ≠ 0) :
    exactProduct x (.inf s) = some (.inf (x.sign ^^ s)) := by
  obtain ⟨a, k, e, rfl, -⟩ := exists_fin_of_ne_zero finite nonzero
  rfl

/-- R239: only 0 · ∞ has no product. -/
theorem exactProduct_eq_none {x y : Num} (hx : x.isNaN = false) (hy : y.isNaN = false) :
    exactProduct x y = none ↔ ∃ s t, (x = .inf s ∧ y = .zero t) ∨ (x = .zero t ∧ y = .inf s) := by
  cases x with
  | nan b => cases hx
  | inf a => cases y <;> simp [exactProduct] at hy ⊢
  | zero a => cases y <;> simp [exactProduct] at hy ⊢
  | fin a k e => cases y <;> simp [exactProduct] at hy ⊢

theorem exactProduct_proper {x y : Num} (hx : x.Proper) (hy : y.Proper) (fx : isFinite x = true) (fy : isFinite y = true) :
    ∃ p, exactProduct x y = some p ∧ p.Proper ∧ p.sign = signs x y := by
  cases x with
  | nan b => cases fx
  | inf b => cases fx
  | zero a =>
    cases y with
    | nan b => cases fy
    | inf b => cases fy
    | zero b => exact ⟨_, rfl, Num.proper_zero _, rfl⟩
    | fin b n g => exact ⟨_, rfl, Num.proper_zero _, rfl⟩
  | fin a k e =>
    cases y with
    | nan b => cases fy
    | inf b => cases fy
    | zero b => exact ⟨_, rfl, Num.proper_zero _, rfl⟩
    | fin b n g => exact ⟨_, rfl, Num.proper_fin.mpr (Nat.mul_pos (Num.proper_fin.mp hx) (Num.proper_fin.mp hy)), rfl⟩

/-- R239: the product of finite values is finite, and has the sign of a product. -/
theorem exactProduct_finite {x y : Num} (hx : x.Proper) (hy : y.Proper) (fx : isFinite x = true) (fy : isFinite y = true) :
    ∃ p, exactProduct x y = some p ∧ isFinite p = true ∧ p.Proper ∧ p.sign = signs x y ∧ realOf p = realOf x * realOf y := by
  obtain ⟨p, product, proper, sign⟩ := exactProduct_proper hx hy fx fy
  obtain ⟨q, product', finite, value⟩ := exactProduct_real fx fy
  obtain rfl := Option.some.inj (product.symm.trans product')
  exact ⟨p, product, finite, proper, sign, value⟩

/-- R239: special values of a product. -/
theorem productCases (h : f.kind = .ieee) (m : Rounding) {x y : Num} (hx : x.Proper) (hy : y.Proper) :
    ProductCases f x y (nanOr f [x, y] (deliver f m (exactProduct x y) 0)) := by
  refine ⟨nanOr_propagates _ _ _, ?_, ?_, ?_, ?_, ?_⟩
  · rintro s t (⟨rfl, rfl⟩ | ⟨rfl, rfl⟩)
    · exact deliver_none f m
    · exact deliver_none f m
  · rintro s t ⟨rfl, rfl⟩
    exact deliver_inf h m (s ^^ t) 0
  · rintro s rfl finite nonzero
    rw [nanOr_of_noNaN (by simp [isNaN_of_finite finite]), exactProduct_inf_left s finite nonzero, deliver_inf h]
    rfl
  · rintro s rfl finite nonzero
    rw [nanOr_of_noNaN (by simp [isNaN_of_finite finite]), exactProduct_inf_right s finite nonzero, deliver_inf h]
    rfl
  · intro fx fy zero
    obtain ⟨p, product, finite, proper, sign, value⟩ := exactProduct_finite hx hy fx fy
    obtain ⟨s, rfl⟩ := (realOf_eq_zero_iff proper finite).mp (value.trans zero)
    rw [nanOr_of_finite (by simp [fx, fy]), product, deliver_zero, ← sign]
    rfl

/-! ## Quotients and roots -/

/-- R240: special values of a quotient. -/
theorem quotientCases (h : f.kind = .ieee) (m : Rounding) (x y : Num) :
    QuotientCases f x y (nanOr f [x, y] (deliver f m (exactQuotient f x y).1 (exactQuotient f x y).2)) := by
  refine ⟨nanOr_propagates _ _ _, ?_, ?_, ?_, ?_, ?_⟩
  · rintro s t (⟨rfl, rfl⟩ | ⟨rfl, rfl⟩)
    · exact deliver_none f m
    · exact deliver_none f m
  · rintro s rfl finite
    rw [nanOr_of_noNaN (by simp [isNaN_of_finite finite])]
    cases y with
    | zero b => exact deliver_inf h m _ 0
    | fin b n g => exact deliver_inf h m _ 0
    | _ => cases finite
  · rintro s rfl finite
    rw [nanOr_of_noNaN (by simp [isNaN_of_finite finite])]
    cases x with
    | zero a => exact deliver_zero f m _ 0
    | fin a k e => exact deliver_zero f m _ 0
    | _ => cases finite
  · rintro s rfl finite nonzero
    obtain ⟨a, k, e, rfl, -⟩ := exists_fin_of_ne_zero finite nonzero
    exact deliver_inf h m _ flagDZ
  · rintro s rfl finite nonzero
    obtain ⟨b, n, g, rfl, -⟩ := exists_fin_of_ne_zero finite nonzero
    exact deliver_zero f m _ 0

/-- R240: special values of a square root. -/
theorem rootCases (h : f.kind = .ieee) (m : Rounding) {x : Num} (hx : x.Proper) :
    RootCases f x (nanOr f [x] (deliver f m (exactRoot f x) 0)) := by
  refine ⟨nanOr_propagates _ _ _, ?_, ?_, ?_, ?_⟩
  · rintro s rfl
    exact deliver_zero f m s 0
  · rintro rfl
    exact deliver_inf h m false 0
  · rintro rfl
    exact deliver_none f m
  · intro finite negative
    obtain ⟨a, k, e, rfl, -⟩ := exists_fin_of_ne_zero finite negative.ne
    obtain rfl : a = true := (sign_of_nonzero hx finite negative.ne).mpr negative
    exact deliver_none f m

end

/-! ## The fused form -/

section
variable {f : FloatFmt} {m : Rounding} {a b c : Nat}

theorem floatFma_of_nan (h : (val f a).isNaN = true ∨ (val f b).isNaN = true) :
    floatFma f m a b c = (f.nanCode, signals [val f a, val f b, val f c]) :=
  if_pos (by simpa using h)

theorem floatFma_of_product (ha : (val f a).isNaN = false) (hb : (val f b).isNaN = false) :
    floatFma f m a b c = (exactProduct (val f a) (val f b)).elim (invalid f)
      fun p => nanOr f [val f c] (deliver f m (exactSum m p (val f c)) 0) := by
  unfold floatFma
  dsimp only
  rw [if_neg (by simp [ha, hb])]
  cases exactProduct (decodeFloat f a) (decodeFloat f b) <;> rfl

/-- R239: special values of the fused form. -/
theorem fusedCases (h : f.kind = .ieee) (m : Rounding) (a b c : Nat) :
    FusedCases f m (val f a) (val f b) (val f c) (floatFma f m a b c) := by
  have ha := proper_val f a
  have hb := proper_val f b
  have product := floatFma_of_product (f := f) (m := m) (a := a) (b := b) (c := c)
  have hc := proper_val f c
  refine ⟨floatFma_of_nan, fun s t undefined => ?_, fun na nb nc defined => ?_, fun s t fa nonzero eb ec => ?_,
    fun t fa fb ec => ?_, fun fa fb fc zero => ?_⟩
  · have na : (val f a).isNaN = false := by rcases undefined with ⟨h, -⟩ | ⟨h, -⟩ <;> rw [h] <;> rfl
    have nb : (val f b).isNaN = false := by rcases undefined with ⟨-, h⟩ | ⟨-, h⟩ <;> rw [h] <;> rfl
    rw [product na nb, (exactProduct_eq_none na nb).mpr ⟨s, t, undefined⟩]
    rfl
  · obtain ⟨p, hp⟩ := Option.ne_none_iff_exists'.mp (mt (exactProduct_eq_none na nb).mp defined)
    rw [product na nb, hp]
    exact nanOr_propagates f [val f c] _ (by simpa using nc)
  · rw [product (isNaN_of_finite fa) (by rw [eb]; rfl), eb, exactProduct_inf_right s fa nonzero, ec, Option.elim_some,
      nanOr_of_noNaN (by simp), exactSum_inf_inf]
    split
    · next same => rw [same]; exact deliver_inf h m t 0
    · exact deliver_none f m
  · obtain ⟨p, hp, finite, -⟩ := exactProduct_finite ha hb fa fb
    rw [product (isNaN_of_finite fa) (isNaN_of_finite fb), hp, ec, Option.elim_some, nanOr_of_noNaN (by simp),
      exactSum_inf_right m t finite]
    exact deliver_inf h m t 0
  · obtain ⟨p, hp, finite, proper, sign, value⟩ := exactProduct_finite ha hb fa fb
    rw [← value] at zero
    rw [product (isNaN_of_finite fa) (isNaN_of_finite fb), hp, Option.elim_some, nanOr_of_finite (by simp [fc]),
      exactSum_zero m proper hc finite fc zero, deliver_zero, sign]
    split_ifs with same
    · rw [same]
    · rfl

end

end Sys2Proof.Machine

/-!
PROOF. O13: special values of floating-point arithmetic (R123, R239, R240).
-/

namespace Sys2Proof.Machine

open Sys2Proof.Claims

/-- Settles O13: NaN operands are propagated first; the exact result of the other special operands is an infinity, a zero or none, and is
delivered as it is. -/
theorem floatSpecials : Obligations.FloatSpecials := by
  intro f hf m a b c _ _ _
  have h := ieee_of_mem hf
  have ha := proper_val f a
  have hb := proper_val f b
  refine ⟨sumCases h m ha hb, ?_, productCases h m ha hb, quotientCases h m _ _, rootCases h m ha, fusedCases h m a b c⟩
  have difference := sumCases h m ha hb.negate
  rwa [nanOr_negate] at difference

end Sys2Proof.Machine

/-!
SUPPORT. The special functions (R249, R250): what they give by the case of their operand, and how their exact results are rounded.
-/

namespace Sys2Proof.Machine

open Sys2Proof.Claims

/-! ## Flags -/

/-- R250: neither UF nor NX. -/
def Quiet (r : Coded) : Prop := r.2 &&& (flagUF ||| flagNX) = 0

theorem sfuFlags_quiet (r : Coded) : Quiet (sfuFlags r) := by
  have apart : (flagNV ||| flagDZ ||| flagOF) &&& (flagUF ||| flagNX) = 0 := by decide
  exact (BitVec.and_assoc _ _ _).trans ((congrArg (r.2 &&& ·) apart).trans BitVec.and_zero)

/-- R249, R250: what a special function can give: an infinity, a zero, a one or the NaN, or a rounded value; and neither UF nor NX. -/
def SfuShape (f : FloatFmt) (r : Coded) : Prop :=
  Quiet r ∧ ((∃ neg, ∃ mag ∈ [f.infCode, 0, (encodeFloat f .rn false (.fin false 1 0)).1, f.nanCode], r.1 = f.signed neg mag) ∨
    ∃ x, r.1 = (encodeFloat f .rn false x).1)

section
variable {f : FloatFmt} {fl : Flags} (quiet : fl &&& (flagUF ||| flagNX) = 0)
include quiet

theorem sfuShape_inf (neg : Bool) : SfuShape f (f.signed neg f.infCode, fl) := ⟨quiet, .inl ⟨neg, _, by simp, rfl⟩⟩
theorem sfuShape_zero (neg : Bool) : SfuShape f (f.signed neg 0, fl) := ⟨quiet, .inl ⟨neg, _, by simp, rfl⟩⟩
theorem sfuShape_one (neg : Bool) : SfuShape f (f.signed neg (encodeFloat f .rn false (.fin false 1 0)).1, fl) :=
  ⟨quiet, .inl ⟨neg, _, by simp, rfl⟩⟩
theorem sfuShape_nan : SfuShape f (f.nanCode, fl) := ⟨quiet, .inl ⟨false, _, by simp, rfl⟩⟩
theorem sfuShape_value (x : Num) : SfuShape f ((encodeFloat f .rn false x).1, fl) := ⟨quiet, .inr ⟨x, rfl⟩⟩

end

theorem sfuShape_rounded (f : FloatFmt) (x : Num) : SfuShape f (sfuFlags (encodeFloat f .rn false x)) := ⟨sfuFlags_quiet _, .inr ⟨x, rfl⟩⟩

/-- R249, R250: every row of the table, and every value beside it. -/
theorem sfuValue_shape (f : FloatFmt) (fn : SfuFn) (a : Nat) : SfuShape f (sfuValue f fn a) := by
  unfold sfuValue
  dsimp only
  split
  case h_1 sig _ => cases sig <;> exact sfuShape_nan (by decide)
  case h_2 | h_5 | h_14 => exact sfuShape_inf (by decide) _
  case h_11 | h_15 => exact sfuShape_inf (by decide) false
  case h_3 | h_19 | h_23 => exact sfuShape_zero (by decide) _
  case h_6 | h_12 => exact sfuShape_zero (by decide) false
  case h_10 | h_21 => exact sfuShape_one (by decide) false
  case h_24 => exact sfuShape_one (by decide) _
  case h_4 neg _ _ _ => exact sfuShape_rounded f (.fin neg _ _)
  case h_9 => exact sfuShape_rounded f _
  case h_13 neg _ _ _ =>
    split
    · cases neg
      · exact sfuShape_inf (by decide) false
      · exact sfuShape_zero (by decide) false
    · split
      · exact sfuShape_rounded f _
      · exact sfuShape_rounded f _
  case h_18 =>
    split
    · exact sfuShape_value (by decide) _
    · exact sfuShape_rounded f _
  case h_25 =>
    split
    · exact sfuShape_one (by decide) _
    · exact sfuShape_rounded f _
  case h_26 => exact sfuShape_rounded f _
  all_goals exact sfuShape_nan (by decide)

theorem flags_quiet_of_bits : ∀ fl : Flags, fl.getLsbD 0 = false → fl.getLsbD 1 = false → fl.getLsbD 2 = false →
    fl &&& (flagNV ||| flagDZ ||| flagOF) = 0 := by decide

/-! ## Results below the largest number -/

section
variable {f : FloatFmt} {mode : Rounding}

/-- R121: codes rise with their magnitudes. -/
theorem magnitude_strictMono (f : FloatFmt) : StrictMono (magnitude f) := by
  refine strictMono_nat_of_lt_succ fun n => ?_
  obtain ⟨j, k, -, here, following⟩ := magnitude_pair f n
  rw [here, following]
  exact mul_lt_mul_of_pos_right (by exact_mod_cast Nat.lt_succ_self j) (two_zpow_pos _)

/-- R123, R250: a value below the largest number raises none of the flags that a special function keeps. -/
theorem sfuFlags_of_rounded {x : ℝ} {r : Coded} (h : Rounded f mode x r) (small : |x| < magnitude f f.largest) :
    sfuFlags r = (r.1, 0) := by
  obtain ⟨n, k, below, -, up, stay, result⟩ := h
  have n_lt : n < f.largest := (magnitude_strictMono f).lt_iff_lt.mp (below.trans_lt small)
  have k_le : ¬ f.largest < k := by
    by_cases away : RoundsAway mode x (magnitude f n) (magnitude f (n + 1)) n
    · rw [up away]; omega
    · rw [stay away]; omega
  rw [if_neg k_le] at result
  obtain ⟨-, ⟨nv, dz, of, -, -⟩, -, -⟩ := result
  rw [sfuFlags, flags_quiet_of_bits r.2 nv dz of]

/-- R121: a power of two below the largest number. -/
theorem two_zpow_lt_largest {k : Nat} (h : (k + 1) * 2 ^ f.mbits < f.largest) : (2 : ℝ) ^ (f.emin + k) < magnitude f f.largest := by
  have power : magnitude f (k * 2 ^ f.mbits + 2 ^ f.mbits) = 2 ^ (f.emin + k) := by
    rw [magnitude_code f (.inr le_rfl) (by rw [pow_succ]; omega), two_pow_mul_zpow]
    congr 1
    ring
  rw [← power]
  exact magnitude_strictMono f (by rw [add_mul, one_mul] at h; exact h)

/-! ## The reciprocal (R250) -/

theorem sfuValue_rcp {a : Nat} {n : Bool} {m : Nat} {e : Int} (h : val f a = .fin n m e) :
    sfuValue f .rcp a = sfuFlags (roundFinite f .rn false n (quotientWith (f.mbits + 4) 1 m).1 ((quotientWith (f.mbits + 4) 1 m).2 - e)) := by
  unfold sfuValue
  dsimp only
  rw [show decodeFloat f a = _ from h]

/-- R250: 1/x is rounded from the exact quotient. -/
theorem reciprocal_rounded (hm : 1 ≤ f.mbits) {n : Bool} {m : Nat} (e : Int) (pos : 0 < m) :
    Rounded f mode (realOf (.fin n m e))⁻¹
      (roundFinite f mode false n (quotientWith (f.mbits + 4) 1 m).1 ((quotientWith (f.mbits + 4) 1 m).2 - e)) := by
  have quotient := rounded_quotient (f := f) (mode := mode) hm (a := false) (b := n) (e := 0) (g := e) one_pos pos
  have unit : realOf (.fin false 1 0) = 1 := by simp [realOf_fin]
  have shape : exactQuotient f (.fin false 1 0) (.fin n m e) =
      (some (.fin n (quotientWith (f.mbits + 4) 1 m).1 (0 - e + (quotientWith (f.mbits + 4) 1 m).2)), 0) := by cases n <;> rfl
  have exponent : 0 - e + (quotientWith (f.mbits + 4) 1 m).2 = (quotientWith (f.mbits + 4) 1 m).2 - e := by ring
  dsimp only at quotient
  rw [shape, unit, one_div, exponent, deliver_some] at quotient
  exact quotient

/-! ## The reciprocal square root (R250) -/

theorem sfuValue_rsq {a : Nat} {m : Nat} {e : Int} (h : val f a = .fin false m e) :
    sfuValue f .rsq a = sfuFlags (encodeFloat f .rn false (exactRsqrt f m e)) := by
  unfold sfuValue
  dsimp only
  rw [show decodeFloat f a = _ from h]

/-- The root of a whole quotient, with its last bit, stands for the root of the quotient. -/
theorem isqrt_div_standsFor {bits n m : Nat} (hm : 0 < m) (long : 2 ^ (2 * bits) * m ≤ n) :
    StandsFor bits (2 * isqrt (n / m) + if isqrt (n / m) * isqrt (n / m) * m = n then 0 else 1) (-1) (Real.sqrt ((n : ℝ) / m)) := by
  have m_pos : (0 : ℝ) < m := by exact_mod_cast hm
  rw [isqrt_eq_sqrt]
  have low : Nat.sqrt (n / m) * Nat.sqrt (n / m) * m ≤ n := (Nat.le_div_iff_mul_le hm).mp (Nat.sqrt_le (n / m))
  have high : n < (Nat.sqrt (n / m) + 1) * (Nat.sqrt (n / m) + 1) * m := (Nat.div_lt_iff_lt_mul hm).mp (Nat.lt_succ_sqrt (n / m))
  have enough : 2 ^ bits ≤ Nat.sqrt (n / m) := by
    rw [Nat.le_sqrt, ← pow_add, ← two_mul, Nat.le_div_iff_mul_le hm]
    exact long
  generalize Nat.sqrt (n / m) = r at low high enough
  refine standsFor_whole ?_ ?_ enough ?_
  · refine Real.le_sqrt_of_sq_le ?_
    rw [le_div_iff₀ m_pos, sq]
    exact_mod_cast low
  · rw [Real.sqrt_lt' (by positivity), div_lt_iff₀ m_pos, sq]
    exact_mod_cast high
  · rw [Real.sqrt_eq_iff_mul_self_eq (by positivity) (by positivity), div_eq_iff m_pos.ne', eq_comm]
    exact_mod_cast Iff.rfl

/-- R250: 1/√x is rounded as the exact value is. -/
theorem rsqrt_rounded (hm : 1 ≤ f.mbits) {m : Nat} (e : Int) (pos : 0 < m) :
    Rounded f mode (Real.sqrt (realOf (.fin false m e)))⁻¹ (encodeFloat f mode false (exactRsqrt f m e)) := by
  have even_pos := evenMantissa_pos pos e
  let k := f.mbits + 4 + bitLength (evenMantissa m e)
  have long : 2 ^ (2 * (f.mbits + 4)) * evenMantissa m e ≤ 2 ^ (2 * k) := by
    have : 2 ^ (2 * k) = 2 ^ (2 * (f.mbits + 4)) * (2 ^ bitLength (evenMantissa m e) * 2 ^ bitLength (evenMantissa m e)) := by
      rw [← pow_add, ← pow_add]
      congr 1
      omega
    rw [this]
    exact Nat.mul_le_mul_left _ ((lt_two_pow_bitLength _).le.trans (Nat.le_mul_of_pos_left _ (by positivity)))
  have stands := ((isqrt_div_standsFor even_pos long).shorter (Nat.le_succ _)).scale (-(k : ℤ) - halfExponent e)
  have root_pos : 0 < Real.sqrt (realOf (.fin false m e)) := Real.sqrt_pos.mpr ((realOf_fin_pos_iff pos).mpr rfl)
  have value : realOf (.fin false m e) = evenMantissa m e * (2 ^ halfExponent e) ^ 2 := by
    rw [realOf_fin, if_neg Bool.false_ne_true, one_mul, evenMantissa_mul]
  have root : (2 : ℝ) ^ (-(k : ℤ) - halfExponent e) * Real.sqrt (((2 ^ (2 * k) : Nat) : ℝ) / evenMantissa m e) =
      (Real.sqrt (realOf (.fin false m e)))⁻¹ := by
    have half_pos := two_zpow_pos (halfExponent e)
    have square : ((2 ^ (2 * k) : Nat) : ℝ) = (2 ^ k) ^ 2 := by push_cast; rw [← pow_mul, mul_comm]
    rw [value, square, Real.sqrt_mul (by positivity), Real.sqrt_sq half_pos.le, Real.sqrt_div (by positivity), Real.sqrt_sq (by positivity),
      zpow_sub₀ two_ne_zero, zpow_neg, zpow_natCast]
    field_simp
  rw [root, ← abs_of_pos (inv_pos.mpr root_pos)] at stands
  exact rounded_of_standsFor hm (inv_pos.mpr root_pos).ne' (iff_of_false (inv_pos.mpr root_pos).not_gt Bool.false_ne_true) stands

/-- R121: the units of the smallest numbers. -/
theorem exponent_of_val {a : Nat} {neg : Bool} {m : Nat} {e : Int} (h : val f a = .fin neg m e) : f.emin - f.mbits ≤ e := by
  rcases decodeFloat_cases f a with value | ⟨s, value⟩ | ⟨b, value⟩
  · rw [val, value, finiteValue] at h
    split_ifs at h with subnormal zero
    · cases h
      exact le_rfl
    · cases h
      rw [FloatFmt.emin]
      omega
  · cases value.symm.trans h
  · cases value.symm.trans h

/-- The reciprocal square root of a number that is not tiny is not large. -/
theorem inv_sqrt_le {m : Nat} {e : Int} {j : Nat} (pos : 0 < m) (h : -(2 * j : Int) ≤ e) :
    |(Real.sqrt (realOf (.fin false m e)))⁻¹| ≤ 2 ^ (j : ℤ) := by
  have root : (2 : ℝ) ^ (-(j : ℤ)) ≤ Real.sqrt (realOf (.fin false m e)) := by
    refine Real.le_sqrt_of_sq_le ?_
    calc ((2 : ℝ) ^ (-(j : ℤ))) ^ 2 = 2 ^ (-(2 * j : ℤ)) := by rw [← zpow_natCast, ← zpow_mul]; congr 1; push_cast; ring
      _ ≤ 2 ^ e := two_zpow_le h
      _ ≤ m * 2 ^ e := le_mul_of_one_le_left (two_zpow_pos e).le (by exact_mod_cast pos)
      _ = realOf (.fin false m e) := by rw [realOf_fin, if_neg Bool.false_ne_true, one_mul]
  rw [abs_of_nonneg (inv_nonneg.mpr (Real.sqrt_nonneg _))]
  calc (Real.sqrt (realOf (.fin false m e)))⁻¹ ≤ (2 ^ (-(j : ℤ)))⁻¹ := inv_anti₀ (two_zpow_pos _) root
    _ = 2 ^ (j : ℤ) := by rw [zpow_neg, inv_inv]

/-- The formats of the special functions (R248). -/
def sfuFormats : List FloatFmt := [f32Fmt, f16Fmt]

/-- R250: 1/√x lies far below the largest number. -/
theorem inv_sqrt_lt_largest (hf : f ∈ sfuFormats) {m : Nat} {e : Int} (pos : 0 < m) (h : f.emin - f.mbits ≤ e) :
    |(Real.sqrt (realOf (.fin false m e)))⁻¹| < magnitude f f.largest := by
  obtain ⟨j, k, low, power, large⟩ : ∃ j k : Nat, -(2 * j : Int) ≤ f.emin - f.mbits ∧ (j : Int) = f.emin + k ∧
      (k + 1) * 2 ^ f.mbits < f.largest := by
    rcases List.mem_pair.mp hf with rfl | rfl
    · exact ⟨75, 201, by decide, by decide, by decide⟩
    · exact ⟨12, 26, by decide, by decide, by decide⟩
  calc |(Real.sqrt (realOf (.fin false m e)))⁻¹| ≤ 2 ^ (j : ℤ) := inv_sqrt_le pos (low.trans h)
    _ = 2 ^ (f.emin + k) := by rw [power]
    _ < magnitude f f.largest := two_zpow_lt_largest large

/-! ## Powers of two (R250) -/

theorem sfuValue_ex2_far {a : Nat} {neg : Bool} {m : Nat} {e : Int} (h : val f a = .fin neg m e)
    (far : 8 ≤ e + (bitLength m : Int) - 1) : sfuValue f .ex2 a = if neg then (0, 0) else (f.infCode, flagOF) := by
  unfold sfuValue
  dsimp only
  rw [show decodeFloat f a = _ from h]
  exact if_pos far

theorem sfuValue_ex2_int {a : Nat} {neg : Bool} {m : Nat} {e : Int} {n : Int} (h : val f a = .fin neg m e)
    (near : ¬ 8 ≤ e + (bitLength m : Int) - 1) (int : integerValue (.fin neg m e) = some n) :
    sfuValue f .ex2 a = sfuFlags (encodeFloat f .rn false (.fin false 1 n)) := by
  unfold sfuValue
  dsimp only
  rw [show decodeFloat f a = _ from h]
  dsimp only
  rw [if_neg near, int]

theorem integerValue_of_int {neg : Bool} {m : Nat} {e n : Int} (h : realOf (.fin neg m e) = n) :
    integerValue (.fin neg m e) = some n := by
  obtain ⟨near, inexact⟩ := nearestInt_roundMag .rz neg m e
  rw [h, nearestInt_int] at near inexact
  have whole : (roundMag .rz neg m e 0).2 = false := by simpa using inexact
  simp [integerValue, whole, near]

/-- R123: a power of two far below the smallest number is rounded to 0. -/
theorem roundFinite_power_low {n : Int} (low : n + 2 < f.emin - f.mbits) : (roundFinite f .rn false false 1 n).1 = 0 := by
  have one : bitLength 1 = 1 := rfl
  have units : max (n + (bitLength 1 : Int) - 1 - f.mbits) (f.emin - f.mbits) = f.emin - f.mbits := max_eq_right (by rw [one]; omega)
  have mag : roundMag .rn false 1 n (f.emin - f.mbits) = (0, true) := by
    rw [roundMag, if_neg (by omega), if_pos (by rw [one]; omega)]
    rfl
  simp only [roundFinite, units, mag]
  simp [FloatFmt.signed]

/-- R133: a power of two past the largest number overflows. -/
theorem roundFinite_power_high (h : f.kind = .ieee) {n : Int} (normal : f.emin ≤ n)
    (high : f.largest < (n - f.emin).toNat * 2 ^ f.mbits + 2 ^ f.mbits) : (roundFinite f .rn false false 1 n).1 = f.infCode := by
  have one : bitLength 1 = 1 := rfl
  have units : max (n + (bitLength 1 : Int) - 1 - f.mbits) (f.emin - f.mbits) = n - f.mbits := by rw [one]; omega
  have mag : roundMag .rn false 1 n (n - f.mbits) = (2 ^ f.mbits, false) := by
    rw [roundMag, if_pos (by omega), sub_sub_cancel, Int.toNat_natCast, one_mul]
  have place : (n - f.mbits - (f.emin - f.mbits)).toNat = (n - f.emin).toNat := by congr 1; ring
  simp only [roundFinite, units, mag, place]
  rw [if_pos high]
  simp [overflowCode, h, FloatFmt.signed]

/-- R250: beyond ±256 a power of two is infinity, or 0. -/
theorem roundFinite_power_far (hf : f ∈ sfuFormats) (n : Int) :
    (n ≤ -256 → (roundFinite f .rn false false 1 n).1 = 0) ∧ (256 ≤ n → (roundFinite f .rn false false 1 n).1 = f.infCode) := by
  rcases List.mem_pair.mp hf with rfl | rfl
  · refine ⟨fun low => roundFinite_power_low ?_, fun high => roundFinite_power_high rfl ?_ ?_⟩
    · norm_num [f32Fmt, FloatFmt.emin]; omega
    · norm_num [f32Fmt, FloatFmt.emin]; omega
    · norm_num [f32Fmt, FloatFmt.emin, FloatFmt.largest]; omega
  · refine ⟨fun low => roundFinite_power_low ?_, fun high => roundFinite_power_high rfl ?_ ?_⟩
    · norm_num [f16Fmt, FloatFmt.emin]; omega
    · norm_num [f16Fmt, FloatFmt.emin]; omega
    · norm_num [f16Fmt, FloatFmt.emin, FloatFmt.largest]; omega

/-- The size of an integer whose leading bit stands far up. -/
theorem le_natAbs_of_lead {neg : Bool} {m : Nat} {e n : Int} (pos : 0 < m) (h : realOf (.fin neg m e) = n)
    (far : 8 ≤ e + (bitLength m : Int) - 1) : 256 ≤ |n| := by
  have size : ((|n| : ℤ) : ℝ) = m * 2 ^ e := by rw [Int.cast_abs, ← h, abs_realOf_fin]
  have : (2 : ℝ) ^ (8 : ℤ) ≤ ((|n| : ℤ) : ℝ) := size ▸ (two_zpow_le far).trans (lead_bounds e pos).1
  norm_num at this
  exact_mod_cast this

/-- R250: a power of two with an integral exponent. -/
theorem sfuValue_ex2_of_int (hf : f ∈ sfuFormats) {a : Nat} {n : Int} (finite : isFinite (val f a) = true) (nonzero : realOf (val f a) ≠ 0)
    (h : realOf (val f a) = n) : (sfuValue f .ex2 a).1 = (roundFinite f .rn false false 1 n).1 := by
  obtain ⟨neg, m, e, value, pos⟩ := exists_fin_of_ne_zero finite nonzero
  rw [value] at h
  by_cases far : 8 ≤ e + (bitLength m : Int) - 1
  · have size := le_natAbs_of_lead pos h far
    have sign := realOf_fin_neg_iff (neg := neg) (e := e) pos
    rw [h, Int.cast_lt_zero] at sign
    obtain ⟨low, high⟩ := roundFinite_power_far hf n
    rw [sfuValue_ex2_far value far]
    cases neg with
    | true =>
      rw [abs_of_neg (sign.mpr rfl)] at size
      exact (low (by omega)).symm
    | false =>
      rw [abs_of_nonneg (not_lt.mp (mt sign.mp Bool.false_ne_true))] at size
      exact (high size).symm
  · rw [sfuValue_ex2_int value far (integerValue_of_int h)]
    rfl

/-! ## Logarithms (R250) -/

theorem sfuValue_lg2_power {a : Nat} {m : Nat} {e : Int} (h : val f a = .fin false m e) (power : m = 2 ^ (bitLength m - 1)) :
    sfuValue f .lg2 a = ((encodeFloat f .rn false (Num.ofInt (e + (bitLength m : Int) - 1) 0)).1, 0) := by
  unfold sfuValue
  dsimp only
  rw [show decodeFloat f a = _ from h]
  exact if_pos power

/-- A value that is a power of two has one bit, which says which power. -/
theorem lead_of_power {m : Nat} {e n : Int} (pos : 0 < m) (h : (m : ℝ) * 2 ^ e = 2 ^ n) :
    e + (bitLength m : Int) - 1 = n ∧ m = 2 ^ (bitLength m - 1) := by
  obtain ⟨lo, hi⟩ := lead_bounds e pos
  rw [h] at lo hi
  have below := (zpow_le_zpow_iff_right₀ (one_lt_two (α := ℝ))).mp lo
  have above := (zpow_lt_zpow_iff_right₀ (one_lt_two (α := ℝ))).mp hi
  have lead : e + (bitLength m : Int) - 1 = n := by omega
  have bits : 1 ≤ bitLength m := by
    rw [bitLength, if_neg pos.ne']
    omega
  refine ⟨lead, ?_⟩
  have : (m : ℝ) * 2 ^ e = ((2 ^ (bitLength m - 1) : Nat) : ℝ) * 2 ^ e := by
    rw [h, two_pow_mul_zpow, ← lead]
    congr 1
    omega
  exact_mod_cast mul_right_cancel₀ (two_zpow_pos e).ne' this

/-! ## The hyperbolic tangent (R249, R250) -/

theorem atLeast9point1_iff (neg : Bool) (m : Nat) (e : Int) : atLeast9point1 (.fin neg m e) = true ↔ (9.1 : ℝ) ≤ m * 2 ^ e := by
  unfold atLeast9point1
  dsimp only
  by_cases whole : 0 ≤ e
  · obtain ⟨d, rfl⟩ := Int.eq_ofNat_of_zero_le whole
    rw [if_pos whole, decide_eq_true_iff, Int.toNat_natCast, zpow_natCast, ← Nat.cast_le (α := ℝ)]
    push_cast
    constructor <;> intro h <;> linarith
  · obtain ⟨d, hd⟩ := Int.eq_ofNat_of_zero_le (show 0 ≤ -e by omega)
    have unit_pos : (0 : ℝ) < 2 ^ d := by positivity
    rw [if_neg whole, decide_eq_true_iff, hd, Int.toNat_natCast, show e = -(d : ℤ) by omega, zpow_neg, zpow_natCast, ← div_eq_mul_inv,
      le_div_iff₀ unit_pos, ← Nat.cast_le (α := ℝ)]
    push_cast
    constructor <;> intro h <;> linarith

theorem sfuValue_tanh_large {a : Nat} {neg : Bool} {m : Nat} {e : Int} (h : val f a = .fin neg m e)
    (large : atLeast9point1 (.fin neg m e) = true) :
    sfuValue f .tanh a = (f.signed neg (encodeFloat f .rn false (.fin false 1 0)).1, 0) := by
  unfold sfuValue
  dsimp only
  rw [show decodeFloat f a = _ from h]
  exact if_pos large

/-- The code of 1. -/
theorem encodeFloat_one (hf : f ∈ sfuFormats) : (encodeFloat f .rn false (.fin false 1 0)).1 = 2 ^ f.mbits * f.bias := by
  rcases List.mem_pair.mp hf with rfl | rfl <;> decide

/-! ## The table of R249 -/

theorem sfuValue_of_tableValue (hf : f ∈ sfuFormats) {fn : SfuFn} {a : Nat} {r : Coded} (h : tableValue f fn (val f a) = some r) :
    sfuValue f fn a = r := by
  have one := encodeFloat_one hf
  unfold sfuValue
  dsimp only
  rw [one]
  change tableValue f fn (decodeFloat f a) = some r at h
  generalize decodeFloat f a = x at h
  unfold tableValue at h
  split at h
  case h_1 => cases h; cases fn <;> rfl
  all_goals cases h
  all_goals rfl

end

end Sys2Proof.Machine

/-!
PROOF. O17: the values of the special functions (R249, R250).
-/

namespace Sys2Proof.Machine

open Sys2Proof.Claims

theorem mbits_pos_of_mem_sfu {f : FloatFmt} (hf : f ∈ sfuFormats) : 1 ≤ f.mbits := by
  rcases List.mem_pair.mp hf with rfl | rfl <;> decide

section
variable {f : FloatFmt} (hf : f ∈ sfuFormats) {a : Nat} (finite : isFinite (val f a) = true)
include hf finite

theorem frcp_value (nonzero : realOf (val f a) ≠ 0) :
    ∃ r, Rounded f .rn (realOf (val f a))⁻¹ r ∧ (sfuValue f .rcp a).1 = r.1 ∧
      (sfuValue f .rcp a).2 = r.2 &&& (flagNV ||| flagDZ ||| flagOF) := by
  obtain ⟨neg, m, e, value, pos⟩ := exists_fin_of_ne_zero finite nonzero
  rw [sfuValue_rcp value, value]
  exact ⟨_, reciprocal_rounded (mbits_pos_of_mem_sfu hf) e pos, rfl, rfl⟩

theorem frsq_value (positive : 0 < realOf (val f a)) :
    ∃ r, Rounded f .rn (Real.sqrt (realOf (val f a)))⁻¹ r ∧ sfuValue f .rsq a = (r.1, 0) := by
  obtain ⟨neg, m, e, value, pos⟩ := exists_fin_of_ne_zero finite positive.ne'
  rw [value] at positive ⊢
  obtain rfl := (realOf_fin_pos_iff pos).mp positive
  have rounded := rsqrt_rounded (mode := .rn) (mbits_pos_of_mem_sfu hf) e pos
  refine ⟨_, rounded, ?_⟩
  rw [sfuValue_rsq value]
  exact sfuFlags_of_rounded rounded (inv_sqrt_lt_largest hf pos (exponent_of_val value))

theorem fex2_value (nonzero : realOf (val f a) ≠ 0) {n : Int} (int : realOf (val f a) = n) :
    ∃ r, Rounded f .rn ((2 : ℝ) ^ n) r ∧ (sfuValue f .ex2 a).1 = r.1 := by
  have power : realOf (.fin false 1 n) = 2 ^ n := by simp [realOf_fin]
  exact ⟨_, power ▸ roundFinite_rounded (mbits_pos_of_mem_sfu hf) one_pos, sfuValue_ex2_of_int hf finite nonzero int⟩

theorem flg2_value {n : Int} (power : realOf (val f a) = (2 : ℝ) ^ n) (nonzero : n ≠ 0) :
    ∃ r, Rounded f .rn (n : ℝ) r ∧ sfuValue f .lg2 a = (r.1, 0) := by
  have positive : 0 < realOf (val f a) := power ▸ two_zpow_pos n
  obtain ⟨neg, m, e, value, pos⟩ := exists_fin_of_ne_zero finite positive.ne'
  rw [value] at positive power
  obtain rfl := (realOf_fin_pos_iff pos).mp positive
  rw [realOf_fin, if_neg Bool.false_ne_true, one_mul] at power
  obtain ⟨lead, bit⟩ := lead_of_power pos power
  exact ⟨_, (ofInt_converts (mbits_pos_of_mem_sfu hf) .rn false n).2 nonzero rfl, by rw [sfuValue_lg2_power value bit, lead]⟩

theorem ftanh_value (large : (9.1 : ℝ) ≤ |realOf (val f a)|) :
    sfuValue f .tanh a = (f.signed (decide (realOf (val f a) < 0)) (2 ^ f.mbits * f.bias), 0) := by
  have nonzero : realOf (val f a) ≠ 0 := abs_pos.mp (lt_of_lt_of_le (by norm_num) large)
  obtain ⟨neg, m, e, value, pos⟩ := exists_fin_of_ne_zero finite nonzero
  rw [value] at large ⊢
  rw [abs_realOf_fin] at large
  have sign : decide (realOf (.fin neg m e) < 0) = neg := by rw [Bool.eq_iff_iff, decide_eq_true_iff, realOf_fin_neg_iff pos]
  rw [sfuValue_tanh_large value ((atLeast9point1_iff neg m e).mpr large), encodeFloat_one hf, sign]

end

/-- Settles O17: each operand of the table gives its row; 1/x and 1/√x are rounded from what stands for the exact value, powers and
logarithms that are exact from the integer. -/
theorem specialFunctionValues : Obligations.SpecialFunctionValues := by
  intro f hf a _
  refine ⟨fun fn r h => sfuValue_of_tableValue hf h, fun fn => (sfuValue_shape f fn a).1, ?_, ?_, ?_, ?_, ?_⟩
  · rintro x ⟨-, finite, rfl⟩ nonzero
    exact frcp_value hf finite nonzero
  · rintro x ⟨-, finite, rfl⟩ positive
    exact frsq_value hf finite positive
  · rintro x n ⟨-, finite, rfl⟩ int nonzero
    exact fex2_value hf finite nonzero int
  · rintro x n ⟨-, finite, rfl⟩ power nonzero
    exact flg2_value hf finite power nonzero
  · rintro x ⟨-, finite, rfl⟩ large
    exact ftanh_value hf finite large

end Sys2Proof.Machine

/-!
SUPPORT. Operations on codes give codes of their format (R121): no result has a bit above the format's width, so that two of 16 bits make a
register (R238).
-/

namespace Sys2Proof.Machine

open Sys2Proof.Claims

/-! ## Codes of a format -/

section
variable {f : FloatFmt} {mode : Rounding} {sat neg : Bool}

theorem signWeight_add_self (f : FloatFmt) : f.signWeight + f.signWeight = 2 ^ f.width := by
  rw [← two_mul, FloatFmt.signWeight, ← pow_succ', FloatFmt.width]
  congr 1
  omega

theorem signed_lt {mag : Nat} (h : mag < f.signWeight) (neg : Bool) : f.signed neg mag < 2 ^ f.width := by
  have := signWeight_add_self f
  cases neg
  · exact lt_of_lt_of_le h (by omega)
  · exact this ▸ Nat.add_lt_add_left h _

/-- The magnitudes that conversions deliver have no sign bit. -/
theorem special_codes_lt (hf : f ∈ arithmeticFormats) : f.largest < f.signWeight ∧ f.infCode < f.signWeight ∧ f.nanCode < f.signWeight := by
  revert f
  decide

theorem nanCode_lt (hf : f ∈ arithmeticFormats) : f.nanCode < 2 ^ f.width :=
  signed_lt (special_codes_lt hf).2.2 false

theorem overflowCode_lt (hf : f ∈ arithmeticFormats) : overflowCode f mode sat neg < 2 ^ f.width := by
  obtain ⟨largest, inf, nan⟩ := special_codes_lt hf
  unfold overflowCode
  dsimp only
  split_ifs
  · exact signed_lt largest neg
  · split
    · exact signed_lt inf neg
    · exact signed_lt nan false
    · exact signed_lt largest neg

theorem roundFinite_lt (hf : f ∈ arithmeticFormats) (m : Nat) (e : Int) : (roundFinite f mode sat neg m e).1 < 2 ^ f.width := by
  unfold roundFinite
  dsimp only
  split_ifs with overflow
  · exact overflowCode_lt hf
  · exact signed_lt (lt_of_le_of_lt (not_lt.mp overflow) (special_codes_lt hf).1) neg

theorem encodeFloat_lt (hf : f ∈ arithmeticFormats) (x : Num) : (encodeFloat f mode sat x).1 < 2 ^ f.width := by
  obtain ⟨largest, inf, nan⟩ := special_codes_lt hf
  cases x with
  | nan b => exact signed_lt nan false
  | inf s =>
    simp only [encodeFloat, ieee_of_mem hf]
    split
    · exact signed_lt largest s
    · exact signed_lt inf s
  | zero s => exact signed_lt (Nat.zero_lt_of_lt nan) s
  | fin s m e => exact roundFinite_lt hf m e

theorem deliver_lt (hf : f ∈ arithmeticFormats) (r : Option Num) (extra : Flags) : (deliver f mode r extra).1 < 2 ^ f.width := by
  cases r with
  | none => exact nanCode_lt hf
  | some x => exact encodeFloat_lt hf x

theorem nanOr_lt (hf : f ∈ arithmeticFormats) (xs : List Num) {r : Coded} (h : r.1 < 2 ^ f.width) : (nanOr f xs r).1 < 2 ^ f.width := by
  unfold nanOr
  split
  · exact nanCode_lt hf
  · exact h

end

/-! ## The operations -/

/-- An operation on codes of a format gives such codes. -/
def GivesCodes (op : FloatFmt → Nat → Nat → Coded) : Prop :=
  ∀ f ∈ arithmeticFormats, ∀ a b, a < 2 ^ f.width → b < 2 ^ f.width → (op f a b).1 < 2 ^ f.width

theorem floatAdd_codes (m : Rounding) : GivesCodes fun f => floatAdd f m := fun _ hf _ _ _ _ => nanOr_lt hf _ (deliver_lt hf _ _)

theorem floatSub_codes (m : Rounding) : GivesCodes fun f => floatSub f m := fun _ hf _ _ _ _ => nanOr_lt hf _ (deliver_lt hf _ _)

theorem floatMul_codes (m : Rounding) : GivesCodes fun f => floatMul f m := fun _ hf _ _ _ _ => nanOr_lt hf _ (deliver_lt hf _ _)

theorem floatFma_lt {f : FloatFmt} (hf : f ∈ arithmeticFormats) (m : Rounding) (a b c : Nat) : (floatFma f m a b c).1 < 2 ^ f.width := by
  unfold floatFma
  dsimp only
  split
  · exact nanCode_lt hf
  · split
    · exact nanCode_lt hf
    · exact nanOr_lt hf _ (deliver_lt hf _ _)

theorem floatMinMax_codes (greater prefers : Bool) : GivesCodes fun f => floatMinMax f greater prefers := by
  intro f hf a b ha hb
  have nan := nanCode_lt hf
  unfold floatMinMax
  dsimp only
  split_ifs <;> assumption

theorem floatSign_lt {f : FloatFmt} (hf : f ∈ arithmeticFormats) (op : SignOp) (a b : Nat) : (floatSign f op a b).1 < 2 ^ f.width :=
  nanOr_lt hf _ (signed_lt (Nat.mod_lt a (by rw [FloatFmt.signWeight]; positivity)) _)

/-! ## Registers of codes (R122, R238) -/

@[simp] theorem outC_w32 (r : Coded) : outC .w32 r = code32 r := rfl

@[simp] theorem outC_w64 (r : Coded) : outC .w64 r = code64 r := by
  have high : BitVec.ofNat 32 (r.1 / 2 ^ 32) = (BitVec.ofNat 64 r.1 >>> 32).truncate 32 := by
    apply BitVec.eq_of_toNat_eq
    simp [Nat.shiftRight_eq_div_pow]
    omega
  have low : BitVec.ofNat 32 r.1 = (BitVec.ofNat 64 r.1).truncate 32 := by
    apply BitVec.eq_of_toNat_eq
    simp
  change (⟨[_, _], [], none, r.2⟩ : LaneOut) = ⟨[_, _], [], none, r.2⟩
  rw [low, high]

theorem toNat_mod_eq_low16 (x : Word) : x.toNat % 65536 = low16 x := by
  simp [low16, BitVec.extractLsb'_toNat]

theorem toNat_div_eq_high16 (x : Word) : x.toNat / 65536 % 65536 = high16 x := by
  simp [high16, BitVec.extractLsb'_toNat, Nat.shiftRight_eq_div_pow]

theorem low16_lt (x : Word) : low16 x < 2 ^ 16 := BitVec.isLt _

theorem high16_lt (x : Word) : high16 x < 2 ^ 16 := BitVec.isLt _

/-- Two codes of 16 bits are the halves of a register. -/
theorem outC_halves {lo : Coded} (h : lo.1 < 2 ^ 16) (hi : Coded) :
    outC .w32 (lo.1 + 65536 * hi.1, lo.2 ||| hi.2) = code16x2 lo hi := by
  have halves : BitVec.ofNat 32 (lo.1 + 65536 * hi.1) = BitVec.ofNat 16 hi.1 ++ BitVec.ofNat 16 lo.1 := by
    apply BitVec.eq_of_toNat_eq
    rw [BitVec.toNat_append, BitVec.toNat_ofNat, BitVec.toNat_ofNat, BitVec.toNat_ofNat, Nat.shiftLeft_eq, Nat.mul_comm _ (2 ^ 16),
      ← Nat.two_pow_add_eq_or_of_lt (Nat.mod_lt _ (by positivity))]
    omega
  simp [outC, outW, out32, withFlags, code16x2, halves]

/-- R238: an operation applied to both elements of registers. -/
theorem outC_packed2 {op : Nat → Nat → Nat → Coded} {a b c : Word} (h : (op (low16 a) (low16 b) (low16 c)).1 < 2 ^ 16) :
    outC .w32 (packed2 op a.toNat b.toNat c.toNat) =
      code16x2 (op (low16 a) (low16 b) (low16 c)) (op (high16 a) (high16 b) (high16 c)) := by
  simp only [packed2, toNat_mod_eq_low16, toNat_div_eq_high16]
  exact outC_halves h _

theorem sext_toNat {n : Nat} (hn : 0 < n) (x : BitVec n) : sext x.toNat n = x.toInt := by
  have half : 2 ^ n = 2 * 2 ^ (n - 1) := by rw [← Nat.pow_succ', Nat.succ_eq_add_one, Nat.sub_add_cancel hn]
  have small : x.toNat < 2 ^ (n - 1) ↔ 2 * x.toNat < 2 ^ n := by omega
  simp only [sext, BitVec.toInt, Nat.mod_eq_of_lt x.isLt, small, Int.natCast_pow, Int.cast_ofNat_Int]

theorem floatImmediate_eq (imm : BitVec 22) : floatImmediate imm = (imm ++ (0 : BitVec 10)).toNat := by
  rw [floatImmediate, BitVec.toNat_append, Nat.shiftLeft_eq]
  exact (Nat.or_zero _).symm

end Sys2Proof.Machine

/-!
SUPPORT. The floating-point and conversion instructions run as their tables say (R236 to R247, R251, R252).
-/

namespace Sys2Proof.Machine

open Sys2Proof.Claims

/-- An instruction that runs as a short-latency one, without a check of its own, and gives what a table says. -/
def RunsTo (i : Instr) (k : Compute) : Prop :=
  (∀ s, exec i s = vectorOp s k.form noCheck k.out) ∧ k.form.latch ≤ 2 ∧ ∀ u l, (k.out u l).words.length ≤ 2

/-- R54, R81: instructions that run as a table says execute it. -/
theorem executes_of_runsTo {table : Instr → Option Compute} (shaped : ∀ i k, table i = some k → k.form.Shaped)
    (runs : ∀ i k, table i = some k → RunsTo i k) : Executes table := by
  intro i k hk _ s u hu fits
  obtain ⟨run, latch, words⟩ := runs i k hk
  exact run s ▸ vectorOp_computed (shaped i k hk) latch (fun _ => words) hu fits

@[simp] theorem latchSize_le (w : IWidth) : latchSize w ≤ 2 := by cases w <;> decide

@[simp] theorem code32_words (r : Coded) : (code32 r).words.length = 1 := rfl
@[simp] theorem code64_words (r : Coded) : (code64 r).words.length = 2 := rfl
@[simp] theorem code16x2_words (lo hi : Coded) : (code16x2 lo hi).words.length = 1 := rfl
@[simp] theorem word_words (x : Word) : (word x).words.length = 1 := rfl

theorem runsTo_intro {i : Instr} {k : Compute} {out : Issuer → Nat → LaneOut} (run : ∀ s, exec i s = vectorOp s k.form noCheck out)
    (same : ∀ u l, out u l = k.out u l) (latch : k.form.latch ≤ 2) (words : ∀ u l, (k.out u l).words.length ≤ 2) : RunsTo i k := by
  obtain rfl : out = k.out := funext fun u => funext fun l => same u l
  exact ⟨run, latch, words⟩

section
variable {i : Instr} {f : FormV}

/-! ## Operations of a type (R238, R242 to R244) -/

/-- R238: a two-source operation of a type. -/
theorem runsTo_ofType {t : FType} {op : FloatFmt → Nat → Nat → Coded} (codes : GivesCodes op) (run : ∀ s, exec i s = typeOp2 s t f op) :
    RunsTo i (ofType t f op) := by
  have low (a b : Word) : (op f16Fmt (low16 a) (low16 b)).1 < 2 ^ 16 ∧ (op bf16Fmt (low16 a) (low16 b)).1 < 2 ^ 16 :=
    ⟨codes f16Fmt (by decide) _ _ (low16_lt a) (low16_lt b), codes bf16Fmt (by decide) _ _ (low16_lt a) (low16_lt b)⟩
  cases t with
  | f32 => exact runsTo_intro run (fun _ _ => rfl) (by simp [ofType, form2]) (by simp [ofType])
  | f64 => exact runsTo_intro run (fun _ _ => outC_w64 _) (by simp [ofType, form2]) (by simp [ofType])
  | f16x2 =>
    exact runsTo_intro run (fun _ _ => outC_packed2 (op := fun a b _ => op f16Fmt a b) (c := 0) (low _ _).1) (by simp [ofType, form2])
      (by simp [ofType])
  | bf16x2 =>
    exact runsTo_intro run (fun _ _ => outC_packed2 (op := fun a b _ => op bf16Fmt a b) (c := 0) (low _ _).2) (by simp [ofType, form2])
      (by simp [ofType])

/-- R244: a one-source operation of a type. -/
theorem runsTo_ofType1 {t : FType} {op : FloatFmt → Nat → Coded} (codes : ∀ g ∈ arithmeticFormats, ∀ a, (op g a).1 < 2 ^ g.width)
    (run : ∀ s, exec i s = typeOp1 s t f op) : RunsTo i (ofType1 t f op) := by
  cases t with
  | f32 => exact runsTo_intro run (fun _ _ => rfl) (by simp [ofType1, form1]) (by simp [ofType1])
  | f64 => exact runsTo_intro run (fun _ _ => outC_w64 _) (by simp [ofType1, form1]) (by simp [ofType1])
  | f16x2 =>
    exact runsTo_intro run (fun _ _ => outC_packed2 (op := fun a _ _ => op f16Fmt a) (b := 0) (c := 0) (codes f16Fmt (by decide) _))
      (by simp [ofType1, form1]) (by simp [ofType1])
  | bf16x2 =>
    exact runsTo_intro run (fun _ _ => outC_packed2 (op := fun a _ _ => op bf16Fmt a) (b := 0) (c := 0) (codes bf16Fmt (by decide) _))
      (by simp [ofType1, form1]) (by simp [ofType1])

/-- R239, R242: an operation of an arithmetic form is one of its type, by its mode. -/
theorem floatOp2_eq (s : State) (t : ArithForm) (f : FormV) (op : FloatFmt → Rounding → Nat → Nat → Coded) :
    floatOp2 s t f op = typeOp2 s (formType t) f fun g => op g (formMode t) := by
  cases t <;> rfl

theorem runsTo_ofForm {t : ArithForm} {op : FloatFmt → Rounding → Nat → Nat → Coded} (codes : ∀ m, GivesCodes fun g => op g m)
    (run : ∀ s, exec i s = floatOp2 s t f op) : RunsTo i (ofForm t f op) :=
  runsTo_ofType (codes _) fun s => (run s).trans (floatOp2_eq s t f op)

/-- R239: the fused form. -/
theorem runsTo_fused (t : ArithForm) (f : FormV) : RunsTo (.ffma t f) (fused t f) := by
  cases t with
  | f32 m => exact runsTo_intro (fun _ => rfl) (fun _ _ => rfl) (by simp [fused, formType, form3]) (by simp [fused, formType])
  | f64 m => exact runsTo_intro (fun _ => rfl) (fun _ _ => outC_w64 _) (by simp [fused, formType, form3]) (by simp [fused, formType])
  | f16x2 =>
    exact runsTo_intro (fun _ => rfl) (fun _ _ => outC_packed2 (floatFma_lt (f := f16Fmt) (by decide) _ _ _ _))
      (by simp [fused, formType, form3]) (by simp [fused, formType])
  | bf16x2 =>
    exact runsTo_intro (fun _ => rfl) (fun _ _ => outC_packed2 (floatFma_lt (f := bf16Fmt) (by decide) _ _ _ _))
      (by simp [fused, formType, form3]) (by simp [fused, formType])

/-! ## Operations of a scalar type (R240, R241, R245 to R247) -/

theorem runsTo_scalar2 {t : FWidth} {op : FloatFmt → Nat → Nat → Coded} (run : ∀ s, exec i s = vectorOp s (form2 (fwWidth t) f) noCheck
    fun u l => outC (fwWidth t) (op (fwFmt t) (rdW u (fwWidth t) f.a l) (rdW u (fwWidth t) f.b l))) : RunsTo i (scalar2 t f op) := by
  cases t with
  | f32 => exact runsTo_intro run (fun _ _ => rfl) (by simp [scalar2, ofType, form2]) (by simp [scalar2, ofType])
  | f64 => exact runsTo_intro run (fun _ _ => outC_w64 _) (by simp [scalar2, ofType, form2]) (by simp [scalar2, ofType])

theorem runsTo_scalar1 {t : FWidth} {op : FloatFmt → Nat → Coded} (run : ∀ s, exec i s = vectorOp s (form1 (fwWidth t) (fwWidth t) f) noCheck
    fun u l => outC (fwWidth t) (op (fwFmt t) (rdW u (fwWidth t) f.a l))) : RunsTo i (scalar1 t f op) := by
  cases t with
  | f32 => exact runsTo_intro run (fun _ _ => rfl) (by simp [scalar1, ofType1, form1]) (by simp [scalar1, ofType1])
  | f64 => exact runsTo_intro run (fun _ _ => outC_w64 _) (by simp [scalar1, ofType1, form1]) (by simp [scalar1, ofType1])

/-- R241: an immediate form. -/
theorem runsTo_withFloatImm {f : FormI} {op : FloatFmt → Rounding → Nat → Nat → Coded} (run : ∀ s, exec i s = floatImmOp s f op) :
    RunsTo i (withFloatImm f op) :=
  runsTo_intro run (fun _ _ => by rw [floatImmediate_eq]; rfl) (by simp [withFloatImm, formImm]) (by simp [withFloatImm])

/-- R239 to R247: the floating-point instructions run as their table says. -/
theorem floats_runsTo (i : Instr) (k : Compute) (h : floats i = some k) : RunsTo i k := by
  unfold floats at h
  split at h <;> cases h
  · exact runsTo_ofForm floatAdd_codes fun _ => rfl
  · exact runsTo_ofForm floatSub_codes fun _ => rfl
  · exact runsTo_ofForm floatMul_codes fun _ => rfl
  · exact runsTo_fused _ _
  · exact runsTo_withFloatImm fun _ => rfl
  · exact runsTo_withFloatImm fun _ => rfl
  · exact runsTo_withFloatImm fun _ => rfl
  · exact runsTo_scalar2 fun _ => rfl
  · exact runsTo_scalar1 fun _ => rfl
  · exact runsTo_ofType (floatMinMax_codes _ _) fun _ => rfl
  · exact runsTo_ofType (floatMinMax_codes _ _) fun _ => rfl
  · exact runsTo_ofType (floatMinMax_codes _ _) fun _ => rfl
  · exact runsTo_ofType (floatMinMax_codes _ _) fun _ => rfl
  · exact runsTo_ofType1 (fun g hg a => floatSign_lt hg _ _ _) fun _ => rfl
  · exact runsTo_ofType1 (fun g hg a => floatSign_lt hg _ _ _) fun _ => rfl
  · exact runsTo_ofType (fun g hg a b _ _ => floatSign_lt hg _ _ _) fun _ => rfl
  · exact runsTo_intro (fun _ => rfl) (fun _ _ => rfl) (by simp [form1]) (by simp)
  · exact runsTo_intro (fun _ => rfl) (fun _ _ => rfl) (by simp [form1]) (by simp)
  · exact runsTo_intro (fun _ => rfl) (fun _ _ => by rw [sext_toNat (by decide)]; rfl) (by simp [formShift]) (by simp)
  · exact runsTo_intro (fun _ => rfl) (fun _ _ => by rw [sext_toNat (by decide)]; exact outC_w64 _) (by simp [formShift]) (by simp)
  · exact runsTo_scalar1 fun _ => rfl

/-! ## Conversions (R251, R252) -/

theorem runsTo_convertForm {wide from64 : Bool} {op : Nat → Coded} (run : ∀ s, exec i s = vectorOp s
    (form1 (pairWidth wide) (pairWidth from64) f) noCheck fun u l => outC (pairWidth wide) (op (rdW u (pairWidth from64) f.a l))) :
    RunsTo i (convertForm wide from64 f op) := by
  refine runsTo_intro run (fun u l => ?_) (latchSize_le _) (fun u l => ?_)
  · cases wide with
    | true => cases from64 <;> exact outC_w64 _
    | false => cases from64 <;> rfl
  · cases wide <;> simp [convertForm]

/-- R251, R252: cvt and fxcvt run as their table says. -/
theorem conversions_runsTo (i : Instr) (k : Compute) (h : conversions i = some k) : RunsTo i k := by
  unfold conversions at h
  split at h
  · next f =>
    cases h
    refine runsTo_convertForm fun s => ?_
    change execCvt f s = _
    rw [execCvt, field_eq_toNat_extractLsb', field_eq_toNat_extractLsb', field_eq_toNat_extractLsb', bitOf_toNat]
    rfl
  · next f =>
    dsimp only at h
    split at h
    · next direction =>
      cases h
      refine runsTo_convertForm fun s => ?_
      change execFxcvt f s = _
      have value (x : Word64) : sext x.toNat 64 = (BitVec.ofNat 64 x.toNat).toInt := by
        rw [sext_toNat (by decide), BitVec.ofNat_toNat, BitVec.setWidth_eq]
      simp only [execFxcvt, fxToFloat, fxFloat64, fxMode, field_eq_toNat_extractLsb', bitOf_toNat, direction, if_true, value]
      rfl
    · next direction =>
      cases h
      refine runsTo_convertForm fun s => ?_
      change execFxcvt f s = _
      simp only [execFxcvt, fxToFloat, fxFloat64, fxMode, fxSat, field_eq_toNat_extractLsb', bitOf_toNat, direction]
      rfl
  · cases h

end

end Sys2Proof.Machine

/-!
PROOF. O11: floating-point and conversion instructions (R239 to R247, R251, R252).
-/

namespace Sys2Proof.Machine

open Sys2Proof.Claims

/-- Settles O11: each instruction runs as a short-latency one, with the operation on codes of its type and mode. -/
theorem floatResults : Obligations.FloatResults :=
  ⟨executes_of_runsTo (fun i k h => (floats_runsAs i k h).2) floats_runsTo,
    executes_of_runsTo (fun i k h => (conversions_runsAs i k h).2) conversions_runsTo⟩

end Sys2Proof.Machine

/-!
SUPPORT. Results that come later (R105 to R108): what a list of awaited writes marks at issue, and leaves in the registers when it is delivered.
-/

namespace Sys2Proof.Machine

open Sys2Proof.Claims

/-! ## Pending at issue (R105) -/

theorem pendWrites_concat (g : Group) (ws : List DeferredWrite) (w : DeferredWrite) : pendWrites g (ws ++ [w]) =
    if w.scalar then (pendWrites g ws).pendS w.reg true else (pendWrites g ws).pendV w.reg w.lane true := by
  rw [pendWrites, List.foldl_append]
  rfl

theorem pendWrites_frame (g : Group) (ws : List DeferredWrite) :
    pendWrites g ws = { g with vPending := (pendWrites g ws).vPending, sPending := (pendWrites g ws).sPending } := by
  induction ws using List.reverseRecOn with
  | nil => rfl
  | append_singleton ws w ih =>
    rw [pendWrites_concat]
    split <;> (rw [ih]; rfl)

theorem pendWrites_vPend (g : Group) {ws : List DeferredWrite} (lanes : ∀ w ∈ ws, w.lane < 128) (n : Nat) {l : Nat} (hl : l < 128) :
    (pendWrites g ws).vPend n l = (g.vPend n l || writesV ws n l) := by
  induction ws using List.reverseRecOn with
  | nil => simp [pendWrites, writesV]
  | append_singleton ws w ih =>
    have before := ih fun x hx => lanes x (by simp [hx])
    have lane : w.lane < 128 := lanes w (by simp)
    rw [pendWrites_concat, writesV, List.any_append, ← writesV, ← Bool.or_assoc, ← before]
    cases hs : w.scalar with
    | true => simp [hs]
    | false =>
      rw [if_neg Bool.false_ne_true, Group.vPend_pendV _ true lane hl]
      by_cases here : n = w.reg ∧ l = w.lane
      · simp [here, hs]
      · rw [if_neg here]
        have : ¬ (w.reg = n ∧ w.lane = l) := fun ⟨h, k⟩ => here ⟨h.symm, k.symm⟩
        simp [hs, this]

theorem pendWrites_sPend (g : Group) (ws : List DeferredWrite) (n : Nat) : (pendWrites g ws).sPend n = (g.sPend n || writesS ws n) := by
  induction ws using List.reverseRecOn with
  | nil => simp [pendWrites, writesS]
  | append_singleton ws w ih =>
    rw [pendWrites_concat, writesS, List.any_append, ← writesS, ← Bool.or_assoc, ← ih]
    cases hs : w.scalar with
    | false => simp [hs]
    | true =>
      rw [if_pos rfl, Group.sPend_pendS]
      by_cases here : n = w.reg
      · simp [here, hs]
      · have : ¬ w.reg = n := Ne.symm here
        simp [hs, here, this]

/-! ## Delivery (R105, R108) -/

/-- Whether a write is to a register of a lane, or to a scalar register. -/
def hitsV (w : DeferredWrite) (n l : Nat) : Bool := !w.scalar && w.reg == n && w.lane == l
def hitsS (w : DeferredWrite) (n : Nat) : Bool := w.scalar && w.reg == n

theorem lastV_concat (ws : List DeferredWrite) (w : DeferredWrite) (n l : Nat) :
    lastV (ws ++ [w]) n l = if hitsV w n l then some w else lastV ws n l := by
  rw [lastV, List.reverse_append, List.reverse_singleton, List.singleton_append]
  by_cases h : hitsV w n l = true
  · rw [if_pos h]
    exact List.find?_cons_of_pos h
  · rw [if_neg h]
    exact List.find?_cons_of_neg h

theorem lastS_concat (ws : List DeferredWrite) (w : DeferredWrite) (n : Nat) :
    lastS (ws ++ [w]) n = if hitsS w n then some w else lastS ws n := by
  rw [lastS, List.reverse_append, List.reverse_singleton, List.singleton_append]
  by_cases h : hitsS w n = true
  · rw [if_pos h]
    exact List.find?_cons_of_pos h
  · rw [if_neg h]
    exact List.find?_cons_of_neg h

/-- One write delivered. -/
def deliverWrite (g : Group) (w : DeferredWrite) : Group := deliverWord g w.scalar w.reg w.lane w.value w.poisoned

theorem hitsV_iff {w : DeferredWrite} {n l : Nat} : hitsV w n l = true ↔ w.scalar = false ∧ n = w.reg ∧ l = w.lane := by
  simp [hitsV, and_assoc, @eq_comm _ n, @eq_comm _ l]

theorem hitsS_iff {w : DeferredWrite} {n : Nat} : hitsS w n = true ↔ w.scalar = true ∧ n = w.reg := by
  simp [hitsS, @eq_comm _ n]

theorem Group.vBad_mark (g : Group) {n m l k : Nat} (hl : l < 128) (hk : k < 128) :
    ({ g with vPoison := g.vPoison.insert (128 * n + l) true } : Group).vBad m k = if m = n ∧ k = l then true else g.vBad m k := by
  have same : 128 * m + k = 128 * n + l ↔ m = n ∧ k = l := by omega
  simp only [Group.vBad, Table.get?_insert, same]
  split <;> rfl

theorem Group.sBad_mark (g : Group) (n m : Nat) :
    ({ g with sPoison := g.sPoison.insert n true } : Group).sBad m = if m = n then true else g.sBad m := by
  simp only [Group.sBad, Table.get?_insert]
  split <;> rfl

/-- A register of a lane after one write is delivered. -/
theorem deliverWrite_lane (g : Group) {w : DeferredWrite} (lane : w.lane < 128) (n : Nat) {l : Nat} (hl : l < 128) :
    (deliverWrite g w).vreg n l = (if hitsV w n l then w.value else g.vreg n l) ∧
    (deliverWrite g w).vPend n l = (if hitsV w n l then false else g.vPend n l) ∧
    (deliverWrite g w).vBad n l = (if hitsV w n l then w.poisoned else g.vBad n l) := by
  obtain ⟨scalar, reg, j, value, poisoned⟩ := w
  simp only [hitsV_iff]
  cases scalar with
  | true => cases poisoned <;> exact ⟨rfl, rfl, rfl⟩
  | false =>
    have vreg := Group.vreg_setV g (n := reg) (m := n) value lane hl
    have vPend := Group.vPend_pendV (g.setV reg j value) (n := reg) (m := n) false lane hl
    have vBad := Group.vBad_setV g (n := reg) (m := n) value lane hl
    simp only [true_and]
    cases poisoned with
    | false => exact ⟨vreg, vPend, vBad⟩
    | true =>
      refine ⟨vreg, vPend, (Group.vBad_mark ((g.setV reg j value).pendV reg j false) lane hl).trans ?_⟩
      by_cases here : n = reg ∧ l = j
      · rw [if_pos here, if_pos here]
      · rw [if_neg here, if_neg here]
        exact vBad.trans (if_neg here)

/-- A scalar register after one write is delivered. -/
theorem deliverWrite_scalar (g : Group) (w : DeferredWrite) (n : Nat) :
    (deliverWrite g w).sreg n = (if hitsS w n then w.value else g.sreg n) ∧
    (deliverWrite g w).sPend n = (if hitsS w n then false else g.sPend n) ∧
    (deliverWrite g w).sBad n = (if hitsS w n then w.poisoned else g.sBad n) := by
  obtain ⟨scalar, reg, j, value, poisoned⟩ := w
  simp only [hitsS_iff]
  cases scalar with
  | false => cases poisoned <;> exact ⟨rfl, rfl, rfl⟩
  | true =>
    have sreg := Group.sreg_setS g reg n value
    have sPend := Group.sPend_pendS (g.setS reg value) reg n false
    have sBad := Group.sBad_setS g reg n value
    simp only [true_and]
    cases poisoned with
    | false => exact ⟨sreg, sPend, sBad⟩
    | true =>
      refine ⟨sreg, sPend, (Group.sBad_mark ((g.setS reg value).pendS reg false) reg n).trans ?_⟩
      by_cases here : n = reg
      · rw [if_pos here, if_pos here]
      · rw [if_neg here, if_neg here]
        exact sBad.trans (if_neg here)

/-- Writes delivered one after the other. -/
def deliverWrites (g : Group) (ws : List DeferredWrite) : Group := ws.foldl deliverWrite g

theorem deliverWrites_concat (g : Group) (ws : List DeferredWrite) (w : DeferredWrite) :
    deliverWrites g (ws ++ [w]) = deliverWrite (deliverWrites g ws) w := by
  simp [deliverWrites]

theorem deliverWrites_onlyDelivered (g : Group) (ws : List DeferredWrite) : OnlyDelivered g (deliverWrites g ws) := by
  induction ws using List.reverseRecOn with
  | nil => exact onlyDelivered_refl g
  | append_singleton ws w ih =>
    rw [deliverWrites_concat]
    exact onlyDelivered_trans ih (deliverWord_onlyDelivered _ _ _ _ _ _)

/-- A register of a lane has the last write to it. -/
theorem deliverWrites_lane (g : Group) {ws : List DeferredWrite} (lanes : ∀ w ∈ ws, w.lane < 128) (n : Nat) {l : Nat} (hl : l < 128) :
    (deliverWrites g ws).vreg n l = (lastV ws n l).elim (g.vreg n l) (·.value) ∧
    (deliverWrites g ws).vPend n l = (g.vPend n l && (lastV ws n l).isNone) ∧
    (deliverWrites g ws).vBad n l = (lastV ws n l).elim (g.vBad n l) (·.poisoned) := by
  induction ws using List.reverseRecOn with
  | nil => exact ⟨rfl, (Bool.and_true _).symm, rfl⟩
  | append_singleton ws w ih =>
    obtain ⟨vreg, vPend, vBad⟩ := deliverWrite_lane (deliverWrites g ws) (lanes w (by simp)) n hl
    rw [deliverWrites_concat, lastV_concat, vreg, vPend, vBad]
    split
    · exact ⟨rfl, (Bool.and_false _).symm, rfl⟩
    · exact ih fun x hx => lanes x (by simp [hx])

/-- A scalar register has the last write to it. -/
theorem deliverWrites_scalar (g : Group) (ws : List DeferredWrite) (n : Nat) :
    (deliverWrites g ws).sreg n = (lastS ws n).elim (g.sreg n) (·.value) ∧
    (deliverWrites g ws).sPend n = (g.sPend n && (lastS ws n).isNone) ∧
    (deliverWrites g ws).sBad n = (lastS ws n).elim (g.sBad n) (·.poisoned) := by
  induction ws using List.reverseRecOn with
  | nil => exact ⟨rfl, (Bool.and_true _).symm, rfl⟩
  | append_singleton ws w ih =>
    obtain ⟨sreg, sPend, sBad⟩ := deliverWrite_scalar (deliverWrites g ws) w n
    rw [deliverWrites_concat, lastS_concat, sreg, sPend, sBad]
    split
    · exact ⟨rfl, (Bool.and_false _).symm, rfl⟩
    · exact ih

/-! ## The step of a delivery -/

section
variable {s : State} {u : Issuer} {n : Nat} {kind : DeferredKind} {d : Deferred}

/-- The group of a result once it is delivered. -/
def arrived (g : Group) (d : Deferred) : Group := (lowerCounter (deliverWrites g d.writes) d.counter).orFpstat d.flags

theorem arrived_eq (g : Group) (d : Deferred) :
    arrived g d = { deliverWrites g d.writes with
      d := (arrived g d).d, fpstat := (deliverWrites g d.writes).fpstat ||| d.flags.zeroExtend 32 } := rfl

/-- R105, R108: a result in flight is delivered to its group, and leaves. -/
theorem completeDeferred_eq (h : InFlight s n kind d u) {ok : DeferredKind → Bool} (mine : ok kind = true) :
    completeDeferred s n ok = .next (soundEnd { s with
      deferred := s.deferred.erase n, groups := s.groups.update d.group fun g => arrived g d } u.l.ctx d.sound id) := by
  obtain ⟨entry, rfl, issuer, -⟩ := h
  obtain ⟨hid, group, team, launch, context⟩ := issuerOf_eq_some.mp issuer
  have kept := deliverWrites_onlyDelivered u.g d.writes
  have sameTeam : (arrived u.g d).team = u.g.team := by rw [arrived_eq, kept]
  have sameLaunch : (arrived u.g d).launch = u.g.launch := by rw [arrived_eq, kept]
  have after : issuerOf { s with deferred := s.deferred.erase n, groups := s.groups.update d.group fun g => arrived g d } d.group =
      some { u with g := arrived u.g d } :=
    issuerOf_eq_some.mpr ⟨hid, by simp [group], sameTeam ▸ team, sameLaunch ▸ launch, context⟩
  unfold completeDeferred
  rw [entry]
  dsimp only
  rw [if_neg (by simp [mine])]
  change (match issuerOf { s with deferred := s.deferred.erase n, groups := s.groups.update d.group fun g => arrived g d } d.group with
    | none => _ | some u => _) = _
  rw [after]
  rfl

/-- R105, R108, R250, R255: a result in flight arrives. -/
theorem completeDeferred_arrives (h : InFlight s n kind d u) {ok : DeferredKind → Bool} (mine : ok kind = true) :
    ∃ t, completeDeferred s n ok = .next t ∧ Arrives s n d u t := by
  refine ⟨_, completeDeferred_eq h mine, ?_⟩
  obtain ⟨-, -, issuer, lanes⟩ := h
  obtain ⟨-, group, -⟩ := issuerOf_eq_some.mp issuer
  have kept := deliverWrites_onlyDelivered u.g d.writes
  refine ⟨?_, fun a => ?_, fun k => ?_, fun k hk => ?_, fun c => ?_, arrived u.g d, ?_, fun r l hl => ?_, fun r => ?_, fun j => ?_, ?_, ?_⟩
  · rw [soundEnd_frame]
  · rw [soundEnd_frame]
  · rw [soundEnd_frame]
    exact Table.get?_erase _ _ _
  · rw [soundEnd_groups]
    exact Table.get?_update_other _ _ hk
  · rw [soundEnd_contexts, Option.map_id]
    rfl
  · rw [soundEnd_groups]
    exact (Table.get?_update_same _ _ _).trans (by rw [group]; rfl)
  · exact deliverWrites_lane u.g lanes r hl
  · exact deliverWrites_scalar u.g d.writes r
  · refine (lowerCounter_counter (deliverWrites u.g d.writes) d.counter j).trans ?_
    rw [kept]
    rfl
  · rw [arrived_eq, kept]
  · rw [arrived_eq, kept]

end

end Sys2Proof.Machine

/-!
SUPPORT. The issue of instructions whose results come later (R102, R105, R108, R248, R255).
-/

namespace Sys2Proof.Machine

open Sys2Proof.Claims

variable {s : State} {u : Issuer}

/-! ## The writes awaited -/

/-- R101: with SC = 1 the destination of a well-formed word is a scalar register. -/
theorem dst_scalar {d : BitVec 11} (h : fieldFaults true .dst d = []) : ∃ n, operandOf d = .s n := by
  cases ho : operandOf d with
  | s n => exact ⟨n, rfl⟩
  | _ => simp [fieldFaults, ho] at h

/-- R101: with SC = 0 it is a vector register, direct or indexed. -/
theorem dst_vector {d : BitVec 11} (h : fieldFaults false .dst d = []) : (∃ n, operandOf d = .v n) ∨ ∃ k, operandOf d = .indexed k := by
  cases ho : operandOf d with
  | v n => exact .inl ⟨n, rfl⟩
  | indexed k => exact .inr ⟨k, rfl⟩
  | _ => simp [fieldFaults, ho] at h

theorem resultRegs_of_dst {k : LaneForm} {d : BitVec 11} (hd : k.dest = some (dst d)) (h : fieldFaults k.sc .dst d = []) (l : Nat) :
    ∃ n, resultRegs u (dst d) l 1 = [n] ∧ destOf u k l = some n := by
  have code : (dst d).code = d := rfl
  rw [destOf, scalarDest, vectorDest, hd]
  cases hs : k.sc with
  | true =>
    obtain ⟨n, scalar⟩ := dst_scalar (hs ▸ h)
    exact ⟨n, by simp [resultRegs, code, scalar, upFrom], by simp [code, scalar]⟩
  | false =>
    rcases dst_vector (hs ▸ h) with ⟨n, direct⟩ | ⟨j, indexed⟩
    · exact ⟨n, by simp [resultRegs, vectorReg, code, direct, upFrom], by simp [vectorReg, code, direct]⟩
    · exact ⟨(u.g.xreg j l).toNat, by simp [resultRegs, vectorReg, code, indexed, upFrom], by simp [vectorReg, code, indexed]⟩

theorem resultWrites_one {d : Use} {sc : Bool} {l n : Nat} {w : Word} (h : resultRegs u d l 1 = [n]) :
    resultWrites u d sc l [w] = [⟨sc, n, l, w, false⟩] := by
  rw [resultWrites, List.length_singleton, h]
  rfl

/-- An instruction whose lanes give one word each, to a destination that a well-formed word names. -/
structure GivesWord (u : Issuer) (k : Compute) (d : BitVec 11) : Prop where
  dest : k.form.dest = some (dst d)
  names : fieldFaults k.form.sc .dst d = []
  single : ∀ l, ∃ w, (k.out u l).words = [w]

/-- R105: the writes that an instruction issues are those awaited. -/
theorem deferredOuts_eq {k : Compute} {d : BitVec 11} (h : GivesWord u k d) : deferredOuts u k.form (dst d) (k.out u) =
    (Claims.awaited u k, (computing u k.form).foldl (fun w l => w ||| (k.out u l).flags) 0) := by
  refine Prod.ext (List.flatMap_congr fun l _ => ?_) rfl
  obtain ⟨n, regs, dest⟩ := resultRegs_of_dst (u := u) h.dest h.names l
  obtain ⟨w, words⟩ := h.single l
  rw [words, resultWrites_one regs, dest]
  rfl

theorem awaited_lane {k : Compute} {w : DeferredWrite} (h : w ∈ Claims.awaited u k) : w.lane < 128 := by
  obtain ⟨l, hl, hw⟩ := List.mem_flatMap.mp h
  obtain ⟨j, -, rfl⟩ := List.mem_map.mp hw
  unfold computing at hl
  split at hl
  · rw [List.mem_singleton.mp hl]
    exact Nat.succ_pos 127
  · exact u.enabledLanes_lt _ hl

/-! ## Issue (R105, R108) -/

/-- The group with its results on their way. -/
def awaiting (u : Issuer) (ws : List DeferredWrite) : Group := raiseCounter u (pendWrites u.g ws)

theorem awaiting_frame (u : Issuer) (ws : List DeferredWrite) :
    awaiting u ws = { u.g with
      d := (awaiting u ws).d, vPending := (awaiting u ws).vPending, sPending := (awaiting u ws).sPending } := by
  unfold awaiting
  have frame := pendWrites_frame u.g ws
  generalize pendWrites u.g ws = g at frame
  rw [frame]
  rfl

/-- R105, R108: an instruction without an enabled lane is complete; any other has its results on their way. -/
theorem issueDeferred_awaits (s : State) (u : Issuer) (kind : DeferredKind) {ws : List DeferredWrite} (lanes : ∀ w ∈ ws, w.lane < 128)
    (fl : Flags) : Awaits s u kind ws fl (issueDeferred s u kind ws fl) := by
  unfold Awaits issueDeferred
  by_cases none : ws = []
  · rw [if_pos none, if_pos (List.isEmpty_iff.mpr none)]
    refine ⟨finish_onlyGroup _ _ _ _, _, finish_group _ _ _ _, ?_, ?_⟩
    · exact advance_nextPlace u u.g voidEntry rfl rfl rfl rfl rfl rfl rfl rfl
    · exact advance_frame u u.g voidEntry
  · rw [if_neg none, if_neg (mt List.isEmpty_iff.mp none)]
    have moves := advance_frame u (awaiting u ws) voidEntry
    refine ⟨rfl, fun k hk => Table.get?_insert_other _ _ hk, fun a => rfl, fun k hk => Table.get?_insert_other _ _ hk,
      Table.get?_insert_same _ _ _, advance u (awaiting u ws) voidEntry, Table.get?_insert_same _ _ _, ?_, fun j => ?_, fun n l hl => ?_,
      fun n => ?_, ?_⟩
    · apply advance_nextPlace <;> rw [awaiting_frame]
    · rw [moves]
      refine (raiseCounter_counter u _ j).trans ?_
      rw [pendWrites_frame]
      rfl
    · rw [moves]
      exact pendWrites_vPend u.g lanes n hl
    · rw [moves]
      exact pendWrites_sPend u.g ws n
    · generalize advance u (awaiting u ws) voidEntry = g at moves
      refine moves.trans ?_
      rw [moves, awaiting_frame]
      rfl

/-- R54, R105, R108: a long-latency instruction whose operands fit issues. -/
theorem longOp_awaits {k : Compute} {d : BitVec 11} {kind : DeferredKind} {pre : Issuer → Option Raise} {out : Issuer → Nat → LaneOut}
    (h : Issuing s u) (room : u.g.counter (hdrSetd u.header) < 63) (passes : pre u = none) (shaped : k.form.Shaped)
    (fits : OperandsFit u k.form) (gives : GivesWord u k d) (same : out u = k.out u) :
    ∃ t, longOp s k.form (dst d) kind pre out = .next t ∧
      Awaits s u kind (Claims.awaited u k) ((computing u k.form).foldl (fun w l => w ||| (k.out u l).flags) 0) t := by
  have counter : counterFull u = false := by simpa [counterFull] using room
  have clean : (if k.form.sc then scalarFault u k.form.uses else lanesFault u k.form.uses (u.enabledLanes k.form.tt)) = none := by
    unfold OperandsFit at fits
    split
    · next marked =>
      rw [if_pos marked] at fits
      exact (scalarFault_none shaped).mpr fits
    · next lanes =>
      rw [if_neg lanes] at fits
      exact (lanesFault_none shaped).mpr fits
  refine ⟨_, ?_, issueDeferred_awaits s u kind (fun w => awaited_lane) _⟩
  simp only [longOp, withIssuer_issuing h, counter, passes, clean, same, deferredOuts_eq gives, Bool.false_eq_true, if_false]

/-! ## The special functions (R248) -/

/-- R248 to R250: a special function of a binary16 code is such a code. -/
theorem sfuValue_f16_lt (fn : SfuFn) (a : Nat) : (sfuValue f16Fmt fn a).1 < 2 ^ 16 := by
  have magnitudes : ∀ mag ∈ [f16Fmt.infCode, 0, (encodeFloat f16Fmt .rn false (.fin false 1 0)).1, f16Fmt.nanCode],
      mag < f16Fmt.signWeight := by decide
  obtain ⟨-, ⟨neg, mag, special, value⟩ | ⟨x, value⟩⟩ := sfuValue_shape f16Fmt fn a
  · rw [value]
    exact signed_lt (magnitudes mag special) neg
  · rw [value]
    exact encodeFloat_lt (f := f16Fmt) (by decide) x

/-- R248: a special function of a register is that of its value, or of its two elements. -/
theorem sfuRegister_eq (t : SfuType) (fn : SfuFn) (a : Word) :
    withFlags (out32 (sfuRegister t fn a.toNat).1) (sfuRegister t fn a.toNat).2 = functionOf fn t a := by
  cases t with
  | f32 => rfl
  | f16x2 => exact outC_packed2 (op := fun a _ _ => sfuValue f16Fmt fn a) (b := 0) (c := 0) (sfuValue_f16_lt fn _)

theorem functionOf_single (fn : SfuFn) (t : SfuType) (a : Word) : ∃ w, (functionOf fn t a).words = [w] := by
  cases t <;> exact ⟨_, rfl⟩

/-- R248: what each special function's instruction is. -/
theorem exec_specialFunction {i : Instr} {fn : SfuFn} {t : SfuType} {f : FormV} (h : specialFunction i = some (fn, t, f)) (s : State) :
    exec i s = sfuOp s fn t f ∧ (i.WellFormed = true → shapeSfu.faults f = []) := by
  unfold specialFunction at h
  split at h <;> cases h <;> exact ⟨rfl, List.isEmpty_iff.mp⟩

/-- R101: the destination of a well-formed word of a shape. -/
theorem dst_of_shape {r : ShapeV} {f : FormV} (hd : r.d = .dst) (written : (f.nw && r.nw) = false) (h : r.faults f = []) :
    fieldFaults f.sc .dst f.d = [] := by
  simp only [ShapeV.faults, List.append_eq_nil_iff, hd, written, Bool.false_eq_true, if_false] at h
  exact h.1.1.1.2

/-- R105, R248, R250: a special function issues. -/
theorem specialFunction_awaits {i : Instr} {fn : SfuFn} {t : SfuType} {f : FormV} (hi : specialFunction i = some (fn, t, f))
    (wf : i.WellFormed = true) (h : Issuing s u) (room : u.g.counter (hdrSetd u.header) < 63) {k : Compute}
    (hk : k = ⟨⟨f.tt, f.sc, some (dst f.d), [src fieldA f.a], 0⟩, fun u l => functionOf fn t (rd u f.a l)⟩) (fits : OperandsFit u k.form) :
    ∃ x, exec i s = .next x ∧
      Awaits s u .sfu (Claims.awaited u k) ((computing u k.form).foldl (fun w l => w ||| (k.out u l).flags) 0) x := by
  obtain ⟨run, shape⟩ := exec_specialFunction hi s
  subst hk
  have names := dst_of_shape (r := shapeSfu) rfl (Bool.and_false _) (shape wf)
  rw [run]
  exact longOp_awaits h room rfl (by simp [LaneForm.Shaped, LaneForm.uses]) fits ⟨rfl, names, fun l => functionOf_single _ _ _⟩
    (funext fun l => sfuRegister_eq t fn _)

/-! ## The scaled dot product (R255) -/

theorem registersPerBlock_pos (fmt : Nat) : 0 < registersPerBlock fmt := by
  unfold registersPerBlock elementsPerRegister
  split <;> decide

theorem scaledDotFault_eq_none {f : FormV} {m n : Nat} (ha : operandOf f.a = .v m) (hb : operandOf f.b = .v n) (hw : f.nw = false) :
    scaledDotFault f = none := by
  simp [scaledDotFault, ha, hb, hw]

theorem toNat_mod_eq_extract (x : Word64) : x.toNat % 2 ^ 32 = (x.extractLsb' 0 32).toNat := by
  simp [BitVec.extractLsb'_toNat]

theorem toNat_div_eq_extract (x : Word64) : x.toNat / 2 ^ 32 % 256 = (x.extractLsb' 32 8).toNat ∧
    x.toNat / 2 ^ 32 / 256 % 256 = (x.extractLsb' 40 8).toNat := by
  simp [BitVec.extractLsb'_toNat, Nat.shiftRight_eq_div_pow, Nat.div_div_eq_div_mul]

/-- R255: a scaled dot product, as the table of deferred work has it. -/
def scaledDot (u : Issuer) (f : FormV) : Compute :=
  ⟨scaledDotForm u f, fun v l => code32 (accumulateBlock ((dotKind u.g.fmt).getD .narrow) u.g.fmt ((rd64 v f.c l).extractLsb' 0 32).toNat
    (elementRun v (fmtAF u.g.fmt) f.a l) (elementRun v (fmtBF u.g.fmt) f.b l)
    ((rd64 v f.c l).extractLsb' 32 8).toNat ((rd64 v f.c l).extractLsb' 40 8).toNat)⟩

theorem deferredOf_dotp (u : Issuer) (f : FormV) : deferredOf u (.dotp f) = some (.dotp, scaledDot u f) := rfl

theorem scaledDotLane_eq (f : FormV) (u : Issuer) (l : Nat) : scaledDotLane f u l = (scaledDot u f).out u l := by
  obtain ⟨sa, sb⟩ := toNat_div_eq_extract (rd64 u f.c l)
  simp only [scaledDotLane, dotpBlock, runValues, upFrom_zero_map, toNat_mod_eq_extract, sa, sb]
  rfl

theorem scaledDot_shaped (u : Issuer) (f : FormV) : (scaledDot u f).form.Shaped := by
  simp [LaneForm.Shaped, LaneForm.uses, scaledDot, scaledDotForm, shaped_srcRun _ _ (registersPerBlock_pos _)]

/-- R102, R255: a legal scaled dot product gives one word in each lane. -/
theorem scaledDot_givesWord {f : FormV} (wf : (Instr.dotp f).WellFormed = true) (written : f.nw = false) :
    GivesWord u (scaledDot u f) f.d := by
  have shape : ShapeV.faults ⟨.zero, true, false, .dst, .src, .src, .src⟩ f = [] := List.isEmpty_iff.mp wf
  have unmarked : f.sc = false := by
    cases hs : f.sc
    · rfl
    · simp [ShapeV.faults, scFaults, hs] at shape
  have names := dst_of_shape rfl (by simp [written]) shape
  rw [unmarked] at names
  exact ⟨rfl, names, fun l => ⟨_, rfl⟩⟩

/-- R102, R105, R255: a scaled dot product issues. -/
theorem dotp_awaits {f : FormV} (wf : (Instr.dotp f).WellFormed = true) (may : mayDefer u (.dotp f)) (h : Issuing s u)
    (room : u.g.counter (hdrSetd u.header) < 63) (fits : OperandsFit u (scaledDot u f).form) :
    ∃ t, exec (.dotp f) s = .next t ∧ Awaits s u .dotp (Claims.awaited u (scaledDot u f))
      ((computing u (scaledDot u f).form).foldl (fun w l => w ||| ((scaledDot u f).out u l).flags) 0) t := by
  obtain ⟨scaled, accepted, narrow, written, ⟨m, ha⟩, n, hb⟩ := may
  obtain ⟨dk, hdk⟩ := Option.ne_none_iff_exists'.mp accepted
  have run : exec (.dotp f) s = longOp s (scaledDot u f).form (dst f.d) .dotp dotCheck (scaledDotLane f) := by
    rw [show exec (.dotp f) s = execDotp f s from rfl, execDotp, withIssuer_issuing h, if_pos scaled, scaledDotFault_eq_none ha hb written]
    rfl
  rw [run]
  exact longOp_awaits h room (dotCheck_passes hdk narrow) (scaledDot_shaped u f) fits (scaledDot_givesWord wf written)
    (funext fun l => scaledDotLane_eq f u l)

end Sys2Proof.Machine

/-!
PROOF. O16: the special functions and scaled dot products issue, and their results arrive (R105, R108, R248, R250, R255).
-/

namespace Sys2Proof.Machine

open Sys2Proof.Claims

/-- Settles O16: both kinds issue as long-latency instructions whose checks pass; the step of each kind writes what is awaited, one write
after the other. -/
theorem deferredWork : Obligations.DeferredWork := by
  refine ⟨fun i s u kind k hk wf may h room fits => ?_, fun s n d u => ⟨fun flight => ?_, fun flight => ?_⟩⟩
  · by_cases dot : ∃ f, i = .dotp f
    · obtain ⟨f, rfl⟩ := dot
      cases (deferredOf_dotp u f).symm.trans hk
      exact dotp_awaits wf may h room fits
    · have table : deferredOf u i = (specialFunction i).map fun p =>
          (.sfu, ⟨⟨p.2.2.tt, p.2.2.sc, some (dst p.2.2.d), [src fieldA p.2.2.a], 0⟩, fun u l => functionOf p.1 p.2.1 (rd u p.2.2.a l)⟩) := by
        unfold deferredOf
        split
        · next f => exact absurd ⟨f, rfl⟩ dot
        · rfl
      rw [table] at hk
      obtain ⟨⟨fn, t, f⟩, function, same⟩ := Option.map_eq_some_iff.mp hk
      cases same
      exact specialFunction_awaits function wf h room rfl fits
  · exact completeDeferred_arrives (ok := fun k => decide (k = .sfu)) flight rfl
  · exact completeDeferred_arrives (ok := fun k => decide (k = .dotp)) flight rfl

end Sys2Proof.Machine
